-- ==== Sys2Proof/Word.lean ====
section
/-! DEFINITION. The plain words of the model and the type of its sparse tables. -/

namespace Sys2Proof

/-- A byte (R15). -/
abbrev Byte := BitVec 8

/-- A word of 64 bits (R15): a mailbox word, a register. -/
abbrev Word := BitVec 64

/-- An IEEE 754 binary32 value as its bits. -/
abbrev F32 := BitVec 32

/-- A sparse table: (key, value) pairs with the keys strictly rising. An absent key means whatever the table's reader says it means. -/
abbrev Tbl (α : Type) := List (Nat × α)

/-- One bit of a number, as the register maps count them. -/
abbrev bitOf (n i : Nat) : Bool := n / 2 ^ i % 2 == 1

/-- A flag as a number. -/
abbrev b2n (b : Bool) : Nat := if b then 1 else 0

/-- Saturating increment to the largest value of a field of `w` bits. -/
abbrev satAdd (w n k : Nat) : Nat := min (n + k) (2 ^ w - 1)

end Sys2Proof
end

