-- ==== Sys2Proof/Syntax.lean ====
section
/-! DEFINITION. The commands of the block: one constructor of `Instr` for each row of the opcode table, with the values that come from outside with it. -/

namespace Sys2Proof

/-- The three variants (R3). -/
inductive Variant where
  | a | b | c
deriving DecidableEq, Repr

/-- Who issued an order (R74): a mailbox channel (0-7 are MBX_S0-S7, 8-31 are MBX_N0-N23), a ring, a remote endpoint whose command message arrived over Olnen (R383), or Cloni's own firmware (R125). -/
inductive Issuer where
  | mailbox (ch tag : Nat)
  | ring (r : Nat)
  | remote (srcNode srcCtx dstCtx tag : Nat)
  | firmware
deriving DecidableEq, Repr

/-- A command as Cloni has it: the fields of its submission descriptor (R53) and the bytes that the DMA read of its input buffer returned. `args` holds descriptor bytes 32-63, byte 32 in the lowest bits. `reserved` holds the reserved bits of descriptor bytes 4-7. -/
structure Cmd where
  issuer    : Issuer
  unit      : Nat
  verb      : Nat
  cid       : Nat
  fence     : Bool
  noIrq     : Bool
  inDevice  : Bool
  outDevice : Bool
  reserved  : Nat
  inAddr    : Nat
  inLen     : Nat
  outLen    : Nat
  outAddr   : Nat
  args      : BitVec 256
  input     : List Byte
deriving DecidableEq, Repr

/-- A transport frame (R367). `crcOk` says whether its CRC-32C holds; `tagOk` whether the authentication tag of a protected payload verifies (R450), which the cipher outside this model decides. -/
structure TFrame where
  version    : Nat
  typ        : Nat
  syn        : Bool
  ackValid   : Bool
  last       : Bool
  flagged    : Bool
  prot       : Bool
  retransmit : Bool
  ackNow     : Bool
  srcNode    : Nat
  srcCtx     : Nat
  dstNode    : Nat
  dstCtx     : Nat
  srcBoot    : Nat
  slotEpoch  : Nat
  echoEpoch  : Nat
  seq        : Nat
  ackSeq     : Nat
  txTime     : Nat
  echoTime   : Nat
  op         : Nat
  opFlags    : Nat
  tag        : Nat
  job        : Nat
  window     : Nat
  status     : Nat
  msgLen     : Nat
  offset     : Nat
  operand    : Nat
  payload    : List Byte
  crcOk      : Bool
  tagOk      : Bool
deriving DecidableEq, Repr

/-- A native link frame that is not one of the kinds with a row of their own (R323): KIND 0, DATA, or a reserved KIND of 8 to 15. `crcOk` is false when its CRC-32 fails or it lies in an uncorrectable codeword (R324). -/
structure LFrame where
  kind     : Nat
  cls      : Nat
  hopsLeft : Nat
  lseq     : Nat
  ackSeq   : Nat
  ackValid : Bool
  creditUnits : Nat
  creditClass : Nat
  crcOk    : Bool
  frame    : TFrame
deriving DecidableEq, Repr

/-- A discovery message (R339); `body` is the body of a REPLY. -/
structure Disc where
  version    : Nat
  addr       : Nat
  addrValid  : Bool
  epoch      : Nat
  uid        : BitVec 128
  port       : Nat
  variant    : Nat
  standIn    : Bool
  stook      : Nat
  fieldGroup : Nat
  queryId    : Nat
  route      : Nat
  ret        : Nat
  hopCount   : Nat
  hopIndex   : Nat
  body       : List Byte
deriving DecidableEq, Repr

/-- What an Ethernet-mode frame turns out to be once its headers are read (R337). -/
inductive EthKind where
  | arp | neighbour | echo | transport | discovery | other
deriving DecidableEq, Repr

/-- An Ethernet-mode frame (R337): which of the receive checks it passes, its class, and what it carries. -/
structure EthFrame where
  macOk   : Bool
  ipOk    : Bool
  portOk  : Bool
  sumsOk  : Bool
  len     : Nat
  tagged  : Bool
  pcp     : Nat
  dscp    : Nat
  srcIp   : Nat
  kind    : EthKind
  frame   : TFrame
  disc    : Disc
deriving DecidableEq, Repr

/-- The reading of one core at a RATE update (R89, R126): its pace-ring handshakes in M beats/s, the share of working beats in per mille, its supply and its temperature. -/
structure CoreReading where
  core   : Nat
  rate   : Nat
  active : Nat
  mv     : Nat
  tempC  : Nat
deriving DecidableEq, Repr

/-- The BAR of an access: BAR0, BAR2 or BAR4 (R35). -/
inductive Bar where
  | b0 | b2 | b4
deriving DecidableEq, Repr

/-- A configuration register of the function (R31, R32, R35): a 32-bit register of the header by its offset, or one of a capability. -/
inductive CfgReg where
  | header (off : Nat)
  | deviceCap | deviceCap3 | deviceControl | powerState | msixControl
deriving DecidableEq, Repr

/-- The selective IDE stream on which a PCIe access arrives, and whether that stream is in the Secure state (R435). -/
structure IdeTag where
  stream : Nat
  secure : Bool
deriving DecidableEq, Repr

/-- What an IEEE 1588 Announce says of a clock, as the default best master clock algorithm compares it (R355): priority1, the clock's quality as one number, priority2, its identity, and the steps from it. The lower is the better. -/
structure ClockDs where
  prio1   : Nat
  quality : Nat
  prio2   : Nat
  id      : Nat
  steps   : Nat
deriving DecidableEq, Repr

/-- A PTP message as it bears on fabric time (R355, R356): the measured offset from the master in ns, or a path-delay measurement, or an announce. -/
inductive PtpMsg where
  | sync (offsetNs : Int)
  | delay (ns : Nat)
  | announce (ds : ClockDs)
deriving DecidableEq, Repr

/-- Where an MCTP packet comes from (R453, R520). -/
inductive MctpPath where
  | vdm
  | smbus
  | mgmt (port : Nat)
deriving DecidableEq, Repr

/-- The MCTP packet kinds that R520, R525 and R453 tell apart. -/
inductive MctpKind where
  | control
  | vendor
  | spdm
  | other
deriving DecidableEq, Repr

/-- One command of the block for each row of the opcode table. -/
inductive Instr where
  -- power, reset and start (file 16, R510, R524)
  | pwrEnRise (mv : Nat) (temps : List Nat)
  | pwrEnFall
  | railsStable (rtcHeld : Bool) (inletC : Nat)
  | perstDeassert (refclk : Bool) (sig0 sig1 : Bool)
  | perstAssert
  | inputUndervoltage (mv : Nat)
  | inputOvervoltage (mv : Nat)
  | powerLoss
  | fwAuthenticated
  | ccsReady
  | emberTrainingDone (failed : List Nat) (lanesRepaired : Tbl Nat)
  | fieldSelfTestDone (failed : List Nat)
  | peatMountDone
  | discoveryAccept
  | fullService
  | pcieConfigRequest (reg : CfgReg) (write : Option Nat)
  | functionLevelReset
  -- BAR0 accesses and mailboxes (file 02)
  | mbxInWrite (ch : Nat) (word : Word) (ide : IdeTag)
  | paramWrite (ch off : Nat) (bytes : List Byte) (ide : IdeTag)
  | mbxOutRelease (ch : Nat) (ide : IdeTag)
  | mctpMbxRequest (eid kind channel : Nat) (param : List Byte) (word : Word)
  | mbxAccept (ch : Nat)
  | mbxReplyPost (ch : Nat)
  | fetchHoldWrite (v : Bool)
  | softRestart
  | heartbeatTick
  | aliasRead (off size : Nat)
  | sowingWrite (off size : Nat) (v : Word)
  | rcRead (bar : Bar) (off size : Nat) (coincident : Word) (ide : IdeTag)
  | registerWrite (bar : Bar) (off size : Nat) (v : Word) (hwSet : Word) (ide : IdeTag)
  | malformedBarAccess (bar : Bar) (off : Nat) (write : Bool)
  | dbSqTailWrite (ring value : Nat)
  | dbCqHeadWrite (ring value : Nat)
  | cloniSweep
  | descriptorFetch (ring : Nat) (passed : List Nat) (desc input : List Byte)
  | commandComplete (ring cid : Nat)
  | ringCoalTimeout (ring : Nat)
  | ringDmaFailure (ring : Nat) (write : Bool) (cid : Option Nat) (cqWritable : Bool)
  | lockstepMismatch
  | cloniRestartDone
  -- mailbox opcodes (R49)
  | capQuery (ch : Nat)
  | clnEcho (ch : Nat)
  | ringCreate (ch : Nat)
  | ringDestroy (ch : Nat)
  | ringReset (ch : Nat)
  | ringQuery (ch : Nat)
  | eventQueueCreate (ch : Nat)
  | eventQueueDestroy (ch : Nat)
  | ccsIndirect (ch : Nat) (input : List Byte)
  -- the Field (file 03)
  | rateUpdate (readings : List CoreReading)
  | powerHoldAdjust (mv da askMv : Nat) (sense : List Nat)
  | fieldStatus (c : Cmd)
  | fieldSupply (c : Cmd)
  | fieldFence (c : Cmd)
  | fieldRestrict (c : Cmd)
  | fieldEnable (c : Cmd)
  | fieldLoad (c : Cmd)
  | fieldRun (c : Cmd)
  | fieldStop (c : Cmd)
  | fieldRunEnd (ring cid : Nat) (reg1 : Word) (poisoned : Bool)
  | rankRestart (ring cid rank : Nat)
  | itemPlace
  | itemCommit (item beats : Nat)
  | reserveJoin
  | meshSend (core thread dstCore dstThread tag : Nat) (payload : List Byte)
  | meshDeliver (core thread dstCore dstThread : Nat)
  | meshResend (core thread dstCore dstThread : Nat)
  | meshFlitError (core : Nat)
  | sramError (core : Nat) (double : Bool) (word : Nat) (thread : Option Nat)
  | coreStallDetect (core : Nat)
  | paceLowDetect (core : Nat)
  | coreSlowDetect (core : Nat)
  | reserveSelfTest (core : Nat)
  | reserveTestDone (core : Nat) (pass : Bool)
  -- Kiln and sheaves (files 04, 05)
  | kilnAttend (c : Cmd)
  | kilnRopeSet (c : Cmd)
  | kilnRopeClear (c : Cmd)
  | kilnAdmitSet (c : Cmd)
  | kilnStatus (c : Cmd)
  | residencyTimeout (item : Nat)
  | sheafFormat (c : Cmd)
  | sheafFormatDrop (c : Cmd)
  | sheafAppend (c : Cmd)
  | sheafRead (c : Cmd)
  -- Ember and plough (file 06)
  | emberAccess (eda : Nat) (write : Bool) (data : List Byte) (poisoned : Bool) (reports : List Nat)
  | emberLineError (eda : Nat) (uncorrectable : Bool) (scrub : Bool)
  | scrubStep (chan : Nat) (corrected uncorrectable : List Nat)
  | ploughFill (c : Cmd)
  | ploughCopy (c : Cmd)
  | ploughLogic (c : Cmd)
  | ploughFenceInstall (op chan : Nat)
  | ploughRowStep (op chan : Nat)
  | ploughComplete (op : Nat)
  -- tiers (file 07)
  | tierSeqCreate (c : Cmd)
  | tierSeqFork (c : Cmd)
  | tierSeqDestroy (c : Cmd)
  | tierSeqTruncate (c : Cmd)
  | tierRemap (c : Cmd)
  | tierQuery (c : Cmd)
  | tierPin (c : Cmd)
  | tierUnpin (c : Cmd)
  | tierFlush (c : Cmd)
  | tierRegionAlloc (c : Cmd)
  | tierRegionFree (c : Cmd)
  | tierConfig (c : Cmd)
  | tierStatus (c : Cmd)
  | tierWear (c : Cmd)
  | tierLossList (c : Cmd)
  | tierLend (c : Cmd)
  | tierReclaim (c : Cmd)
  | tierBorrow (c : Cmd)
  | tierReturn (c : Cmd)
  | epochBoundary
  | tailIdleExpiry (body : Nat)
  | writebackStart
  | writebackDone (body : Nat) (nandBytes peMean peMax : Nat)
  | journalRecordDone
  | evictionPass
  | evictionCommit (body : Nat)
  | allocationResume
  | fetchStart
  | fetchDone (body : Nat) (retry : Bool)
  | peatProgramFail (body : Nat)
  | peatControllerTimeout (group : Nat)
  | reclaimNoticeExpiry (comp : Nat)
  | orphanExpiry (comp : Nat)
  | allotmentZeroed (allot : Nat)
  | compositionDrained (comp : Nat)
  -- Charcoal (file 08)
  | charcoalCompress (c : Cmd)
  | charcoalDecompress (c : Cmd)
  | charcoalStatus (c : Cmd)
  -- Seedbank (file 09)
  | seedLookup (c : Cmd)
  | seedSearch (flips : List (Nat × BitVec 80))
  | seedStep (c : Cmd)
  | seedCensus (c : Cmd)
  | seedInsert (c : Cmd)
  | insertCommit (bank : Nat)
  | seedDelete (c : Cmd)
  | seedPost (c : Cmd)
  | seedExport (c : Cmd)
  | seedBankSet (c : Cmd)
  | seedConfig (c : Cmd)
  | seedStatus (c : Cmd)
  | ageTick
  | evictionEngineCommit
  | cursorIdleExpiry (cursor : Nat)
  | seedRateUpdate (hd1C : Nat)
  | shadowCompare (bank unit : Nat) (flip : BitVec 80) (shadowBad : Bool)
  -- Gleaner (file 10)
  | gleanSwathCreate (c : Cmd)
  | gleanSwathDrop (c : Cmd)
  | gleanBind (c : Cmd)
  | gleanSearch (c : Cmd)
  | gleanBitmap (c : Cmd)
  | gleanMerge (c : Cmd)
  | gleanConfig (c : Cmd)
  | gleanStatus (c : Cmd)
  | listVisitStart (swath list : Nat)
  | gleanSearchDone (search : Nat)
  | postingDequeue
  | staleRepost
  | mergeDone (swath : Nat)
  -- Olnen links and control (file 11)
  | linkDataReceive (port : Nat) (f : LFrame)
  | linkAckReceive (port ackSeq : Nat)
  | linkNakReceive (port ackSeq : Nat)
  | linkCreditReceive (port cls units : Nat)
  | controlRetrain (port width token lanes : Nat) (uid : BitVec 128)
  | controlResize (port width token lanes : Nat) (uid : BitVec 128)
  | controlLaneLost (port lanes : Nat)
  | controlAccept (port width token lanes : Nat)
  | controlGo (port width token lanes : Nat)
  | controlCreditInit (port : Nat) (credits : List Nat)
  | notReadyReceive (port backoffUs reason : Nat)
  | timeFrameReceive (port domain : Nat) (m : PtpMsg)
  | helloReceive (port : Nat) (d : Disc)
  | queryReceive (port : Nat) (d : Disc)
  | replyReceive (port : Nat) (d : Disc)
  | claimReceive (port hops : Nat) (d : Disc)
  | linkReplayTimeout (port : Nat)
  | linkAckTimer (port : Nat)
  | signalDetect (port : Nat)
  | linkTrainingDone (port : Nat) (ok : Bool) (lanes : Nat) (otherMode : Bool)
  | trainingBackoffExpiry (port : Nat)
  | retrainDone (port : Nat)
  | resizeDone (port : Nat)
  | laneLoss (port lane cause : Nat)
  | laneBerSample (port lane : Nat) (aboveThreshold : Bool) (berTenths cwCorrected cwUncorrected : Nat)
  | laneRejoinTimer (port lane : Nat)
  | laneQuarantineDone (port lane : Nat) (pass : Bool) (step : Nat)
  | helloTimer (port : Nat)
  | addrEffective
  | routeSwap
  | mcastDeadline (mcast : Nat)
  | mcastRetry (mcast : Nat)
  | ptpSyncTimer (port : Nat)
  | syncHoldoverTimeout (port : Nat)
  | ptmExchange (host : Nat)
  | ethFrameReceive (port : Nat) (f : EthFrame)
  | pfcFrameReceive (port cls : Nat) (pause : Bool)
  | discoverTimeout (queryId : Nat)
  | olnenStatus (c : Cmd)
  | olnenPortMode (c : Cmd)
  | olnenRetrain (c : Cmd)
  | olnenWidth (c : Cmd)
  | olnenFence (c : Cmd)
  | olnenRestrict (c : Cmd)
  | olnenEnable (c : Cmd)
  | olnenAddrSet (c : Cmd)
  | olnenDiscover (c : Cmd)
  | olnenRouteSet (c : Cmd)
  | olnenRouteGet (c : Cmd)
  | olnenMcastGroup (c : Cmd)
  | olnenMcast (c : Cmd)
  | olnenTime (c : Cmd)
  | olnenConfig (c : Cmd)
  -- Olnen transport and remote memory (file 12)
  | transportAckReceive (f : TFrame)
  | nackGap (f : TFrame)
  | nackResync (f : TFrame)
  | nackBusy (f : TFrame)
  | nackNoSlot (f : TFrame)
  | nackNotHolder (f : TFrame)
  | noticeShutdown (f : TFrame)
  | noticeStookList (f : TFrame)
  | opLoad (f : TFrame)
  | opStore (f : TFrame)
  | opAtomic (f : TFrame)
  | opCounterAdd (f : TFrame)
  | opCoreMsg (f : TFrame)
  | opCommand (f : TFrame)
  | loadData (f : TFrame)
  | atomicOld (f : TFrame)
  | opFault (f : TFrame)
  | commandDoneMsg (f : TFrame)
  | fallowBorrow (f : TFrame)
  | fallowGrant (f : TFrame)
  | fallowRefuse (f : TFrame)
  | fallowReclaimNotice (f : TFrame)
  | fallowReturn (f : TFrame)
  | fallowReleased (f : TFrame)
  | fallowProbe (f : TFrame)
  | fallowProbeTimer (holding : List Nat)
  | cohGetS (f : TFrame)
  | cohGetM (f : TFrame)
  | cohPutM (f : TFrame)
  | cohRecall (f : TFrame)
  | cohInv (f : TFrame)
  | cohInvAck (f : TFrame)
  | cohData (f : TFrame)
  | rtoTimeout (ctx node rctx : Nat)
  | transportAckTimer (ctx node rctx : Nat)
  | slotRecycle (ctx node rctx : Nat)
  | tombstoneExpiry (ctx node rctx : Nat)
  | flagSend (tag : Nat)
  | remoteCommandAccept (ctx : Nat) (passed : List Nat)
  | fieldRemoteAccess (core thread node rctx job window offset kind : Nat) (operand swap : Word) (coherent : Bool)
  | olnenRemote (c : Cmd)
  | olnenPut (c : Cmd)
  | olnenGet (c : Cmd)
  | olnenAtomic (c : Cmd)
  | olnenFlag (c : Cmd)
  | olnenMsg (c : Cmd)
  | olnenJobSet (c : Cmd)
  | olnenWindowOpen (c : Cmd)
  | olnenWindowClose (c : Cmd)
  | olnenCounterAlloc (c : Cmd)
  | olnenCounterWait (c : Cmd)
  | counterWaitTimeout (ring cid : Nat)
  | olnenStookSet (c : Cmd)
  | olnenFlowStatus (c : Cmd)
  -- Headland (file 13)
  | portTransmitPick (port : Nat)
  | wheelSlotRelease (inst : Nat)
  | rotationEntryEnd (inst : Nat)
  | rotationTakeover (inst : Nat)
  | rotationStopAt (inst : Nat)
  | headlandStatus (c : Cmd)
  | headlandClassSet (c : Cmd)
  | headlandQueueSet (c : Cmd)
  | headlandRotation (c : Cmd)
  | headlandRotationStop (c : Cmd)
  -- contexts, keys, firmware, attestation (file 14)
  | contextCreate (c : Cmd)
  | contextDestroy (c : Cmd)
  | contextPark (c : Cmd)
  | contextReside (c : Cmd)
  | contextQuery (c : Cmd)
  | keyLoad (c : Cmd) (unwrapped : Option (List Byte))
  | keyErase (c : Cmd)
  | keyQuery (c : Cmd)
  | keyBindJob (c : Cmd)
  | keyShadowDiscard (slot : Nat)
  | secConfig (c : Cmd)
  | fwStage (c : Cmd)
  | fwActivate (c : Cmd) (sigOk : Bool)
  | fwCommit (c : Cmd)
  | fwStatus (c : Cmd) (sigOk : Bool)
  | fwEraseBank (c : Cmd)
  | spdmGetVersion (path : MctpPath)
  | spdmGetCapabilities (path : MctpPath) (version : Nat)
  | spdmNegotiateAlgorithms (path : MctpPath) (algsOk : Bool)
  | spdmGetDigests (path : MctpPath)
  | spdmGetCertificate (path : MctpPath) (slot offset length : Nat)
  | spdmChallenge (path : MctpPath) (slot : Nat) (nonce : BitVec 256)
  | spdmGetMeasurements (path : MctpPath) (index : Nat) (signed : Bool) (nonce : BitVec 256)
  | spdmKeyExchange (path : MctpPath) (reqSession : Nat) (reqPub : BitVec 768)
  | spdmFinish (path : MctpPath) (session : Nat) (macOk : Bool)
  | spdmEndSession (path : MctpPath) (session : Nat)
  | spdmHeartbeat (path : MctpPath) (session : Nat)
  | spdmKeyUpdate (path : MctpPath) (session : Nat) (op : Nat)
  | spdmVendorDefinedRequest (path : MctpPath) (session : Nat) (ideKm : Bool) (op stream : Nat)
  | spdmChunkSend (path : MctpPath) (handle seqNo : Nat) (last : Bool) (bytes : List Byte)
  | spdmChunkGet (path : MctpPath) (handle seqNo : Nat)
  -- health (file 15)
  | sparkArm (c : Cmd)
  | sparkArmEffective (handle : Nat)
  | sparkDisarm (c : Cmd)
  | sparkStatus (c : Cmd)
  | tallyRead (c : Cmd)
  | tallyWrite
  | strainCompute
  | strainDayRollover
  | thermalCycleSample (fieldC : Nat)
  | rtcSet
  | stragglerHoldExpiry
  | meterSample
  | meterRead (c : Cmd)
  | meterCompositions (c : Cmd)
  | meterProfile (c : Cmd)
  | meterResetTenant (c : Cmd)
  | healthStatus (c : Cmd)
  | healthEventRead (c : Cmd)
  | healthConfig (c : Cmd)
  | healthFence (c : Cmd)
  | healthRestrict (c : Cmd)
  | healthEnable (c : Cmd)
  | healthUnretire (c : Cmd)
  | healthDrain (c : Cmd) (standInOk groupOk reachable contextsOk : Bool) (notCarried : List Nat)
  | healthDrainStatus (c : Cmd)
  | healthDrainCancel (c : Cmd)
  | drainCopyDone (noSpace : Bool)
  | drainRoundDone (noSpace : Bool)
  | drainQuiesced (noSpace : Bool)
  | quarantineDone (cls inst : Nat) (pass : Bool) (step : Nat)
  -- the module (file 16)
  | thermalSample (temps : List Nat) (flow : Nat) (sense : List Nat)
  | coolantFlowLowDetect (flow : Nat)
  | inputPowerFaultDetect (mv da : Nat)
  | powerLimitedDetect
  | actTimerExpiry (n : Nat)
  | modStatus (c : Cmd)
  | modShutdown (c : Cmd)
  | shutdownDrained
  | modMgmtSet (c : Cmd)
  | mgmtMctpPacket (port : Nat) (checksOk : Bool) (kind : MctpKind) (len : Nat)
  | smbusMctpPacket (addr : Nat) (pecOk : Bool) (kind : MctpKind)
  | mctpSetEndpointId (path : MctpPath) (eid : Nat)
  | jtagInstruction (ir : Nat)
  | undervoltageLockoutRelease (mv : Nat)
  | functionLevelResetDone
  | routerBypassDone (core : Nat)
  | softRepairDone (chan row : Nat)
  | cohWriteBack (f : TFrame)
deriving DecidableEq, Repr

end Sys2Proof
end

