-- ==== Sys2Proof/Config.lean ====
section
/-! DEFINITION. The values that the manual leaves open: constants without a body. Nothing in the model can evaluate them, so what is proved holds whatever they are. Log entry 3. -/

namespace Sys2Proof

/-- The head word that a DMA read of the event queue's head address returns (R463), by the number of the free value. -/
opaque Config.hostHeadWord : Nat → Nat

/-- The module's own estimate of a waiting time in µs (R34, R287), by the number of the free value. -/
opaque Config.hint : Nat → Nat

/-- How long the boot ROM runs before it authenticates firmware, in ns: the spec gives no moment at which PHASE becomes FW_AUTH (R37, log entry 58). -/
opaque Config.bootRomNs : Nat

/-- A random number of the hardware's own: boot identity, nonces, control tokens, timers' jitter (R334, R367, R453). -/
opaque Config.random : Nat → Nat

/-- The number of spare blocks that a NAND group starts with (R235 gives shares only). -/
opaque Config.spareBlocks : Nat

/-- Spare rows for soft repair that a bank has at a start, by channel and bank (R194, R209). -/
opaque Config.spareRows : Nat → Nat → Nat

/-- Where an access to a device address that R189 does not name goes: the spec states no result there (log entry 25). -/
opaque Config.pastEnd : Nat → Nat

/-- Hard repairs for which a stack has resources (R194). -/
opaque Config.hardRows : Nat → Nat

/-- exp2 of a binary32, of the hardware's choosing within the bound of R98. -/
opaque Config.exp2 : F32 → F32

/-- log2 and reciprocal of a binary32, of the hardware's choosing within the bounds of R98. -/
opaque Config.log2 : F32 → F32
opaque Config.recip : F32 → F32

/-- The sign and the payload of a NaN that the chip makes, of its choosing: its width in bits, and what it is made of (R98, R145). -/
opaque Config.nanBits : Nat → Nat → Nat

/-- cos and sin of 2π × phase / 2^56, of the hardware's choosing within the bound of R139. -/
opaque Config.cosine : Nat → F32
opaque Config.sine : Nat → F32

/-- BASE^(−2i / ROT_DIMS) in binary64, of the hardware's choosing within one unit in the last place (R138): the bits of BASE, and those of 2i / ROT_DIMS rounded to binary64. -/
opaque Config.pow64 : Nat → Nat → Nat

/-- The code lengths of a length-limited Huffman construction over the counts (R256). -/
opaque Config.huffman : List Nat → List Nat

/-- A decoded element of a sketch, a sum of products or a score whose last bits the manual leaves to the hardware. -/
opaque Config.score : Nat → Nat → F32

/-- A digest, signature, MAC or ciphertext of the security unit: what it is for, and what it is of. -/
opaque Config.crypto : Nat → List Byte → List Byte

/-- The bytes that one SPDM response message carries before chunks are used (R453). -/
opaque Config.spdmSize : Nat

/-- The bits that a poisoned or undeliverable word of output holds. -/
opaque Config.junk : Nat → Byte

/-- The module's own clock as IEEE 1588 describes it: its quality and its identity, which the manual does not give (R355, log entry 86). -/
opaque Config.clockQuality : Nat
opaque Config.clockIdentity : Nat

/-- A measured quantity that an instrument outside the block supplies: its number and the free value's number. -/
opaque Config.measure : Nat → Nat → Nat

end Sys2Proof
end

