-- ==== Sys2Proof/Machine/Table.lean ====
section
/-! DEFINITION. Reading and updating sparse tables, and the small list operations that the units share. -/

namespace Sys2Proof.Machine

/-- The entry of a key, or none. -/
def tblGet? {α : Type} : Tbl α → Nat → Option α
  | [], _ => none
  | (k, v) :: t, q => if k == q then some v else tblGet? t q

/-- The entry of a key, or the value that an absent key stands for. -/
def tblGetD {α : Type} (t : Tbl α) (k : Nat) (d : α) : α := (tblGet? t k).getD d

/-- Whether a key has an entry. -/
def tblHas {α : Type} (t : Tbl α) (k : Nat) : Bool := (tblGet? t k).isSome

/-- Sets the entry of a key; keys stay strictly rising. -/
def tblSet {α : Type} : Tbl α → Nat → α → Tbl α
  | [], q, x => [(q, x)]
  | (k, v) :: t, q, x =>
    if q < k then (q, x) :: (k, v) :: t else if k == q then (q, x) :: t else (k, v) :: tblSet t q x

/-- Removes the entry of a key. -/
def tblDel {α : Type} : Tbl α → Nat → Tbl α
  | [], _ => []
  | (k, v) :: t, q => if k == q then t else (k, v) :: tblDel t q

/-- Updates the entry of a key, an absent key standing for `d`. -/
def tblMod {α : Type} (t : Tbl α) (k : Nat) (d : α) (f : α → α) : Tbl α := tblSet t k (f (tblGetD t k d))

/-- Updates the entry of a key that has one. -/
def tblUpd {α : Type} (t : Tbl α) (k : Nat) (f : α → α) : Tbl α :=
  match tblGet? t k with
  | none => t
  | some v => tblSet t k (f v)

/-- The lowest number, counted from 0, below `n` that has no entry. -/
def tblFree? {α : Type} (t : Tbl α) (n : Nat) : Option Nat := (List.range n).find? (fun i => !tblHas t i)

/-- Keeps the entries for which the test holds. -/
def tblKeep {α : Type} (t : Tbl α) (p : Nat → α → Bool) : Tbl α := t.filter (fun e => p e.1 e.2)

/-- Applies a function to every entry. -/
def tblMap {α : Type} (t : Tbl α) (f : Nat → α → α) : Tbl α := t.map (fun e => (e.1, f e.1 e.2))

/-- Inserts a number into a rising list without repeats. -/
def setAdd : List Nat → Nat → List Nat
  | [], q => [q]
  | k :: t, q => if q < k then q :: k :: t else if k == q then k :: t else k :: setAdd t q

/-- Removes a number from a list. -/
def setDel (t : List Nat) (q : Nat) : List Nat := t.filter (· != q)

/-- Removes the first element that meets a test. -/
def removeFirst {α : Type} (p : α → Bool) : List α → List α
  | [] => []
  | x :: t => if p x then t else x :: removeFirst p t

/-- Updates the first element that meets a test. -/
def updFirst {α : Type} (p : α → Bool) (f : α → α) : List α → List α
  | [] => []
  | x :: t => if p x then f x :: t else x :: updFirst p f t

/-- Replaces one place of a list. -/
def listSet {α : Type} (l : List α) (i : Nat) (x : α) : List α := l.set i x

/-- The first of `n` numbers from `f` on that meets a test. -/
def firstFrom (p : Nat → Bool) : Nat → Nat → Option Nat
  | 0, _ => none
  | n + 1, f => if p f then some f else firstFrom p n (f + 1)

/-- The last of the numbers below `n` that meets a test. -/
def lastBelow (p : Nat → Bool) : Nat → Option Nat
  | 0 => none
  | n + 1 => if p n then some n else lastBelow p n

/-- The sum of a list. -/
def sumN (l : List Nat) : Nat := l.foldl (· + ·) 0

/-- The largest element, 0 for none. -/
def maxN (l : List Nat) : Nat := l.foldl max 0

/-- Inserts into a list sorted by a strict order, after its equals. -/
def insertBy {α : Type} (lt : α → α → Bool) (x : α) : List α → List α
  | [] => [x]
  | y :: t => if lt x y then x :: y :: t else y :: insertBy lt x t

/-- A stable sort by a strict order. -/
def sortBy {α : Type} (lt : α → α → Bool) (l : List α) : List α := l.foldl (fun a x => insertBy lt x a) []

end Sys2Proof.Machine
end

