-- ==== Sys2Proof/Machine/Operands.lean ====
section
/-! DEFINITION. The operand forms: little-endian fields of byte lists, of descriptors (R16, R53) and of mailbox words (R39). -/

namespace Sys2Proof.Machine

/-- The low `n` bytes of a number, least significant first (R16). -/
def leBytes : Nat → Nat → List Byte
  | 0, _ => []
  | n + 1, v => BitVec.ofNat 8 v :: leBytes n (v / 256)

/-- The number that a list of bytes spells, least significant first (R16). -/
def leNat : List Byte → Nat
  | [] => 0
  | b :: t => b.toNat + 256 * leNat t

/-- `n` zero bytes. -/
def zeros (n : Nat) : List Byte := List.replicate n 0

/-- The field of `n` bytes at byte `off`; bytes past the end read as zero. -/
def getU (bs : List Byte) (off n : Nat) : Nat := leNat ((bs.drop off).take n)

/-- The bits [lo+w-1:lo] of a number. -/
def bitsOf (v lo w : Nat) : Nat := v / 2 ^ lo % 2 ^ w

/-- Replaces the bytes from `off` on by `xs`, the list keeping its length. -/
def putBytes (bs : List Byte) (off : Nat) (xs : List Byte) : List Byte :=
  (bs.take off ++ xs ++ bs.drop (off + xs.length)).take bs.length

/-- The field of `n` bytes at descriptor byte `off`, 32 to 63 (ARGS of R53). -/
def argU (c : Cmd) (off n : Nat) : Nat := bitsOf c.args.toNat (8 * (off - 32)) (8 * n)

/-- The bits [lo+w-1:lo] of the field that starts at descriptor byte `off`. -/
def argBits (c : Cmd) (off lo w : Nat) : Nat := bitsOf c.args.toNat (8 * (off - 32) + lo) w

/-- The field of `n` bytes at byte `off` of the input buffer. -/
def inU (c : Cmd) (off n : Nat) : Nat := getU c.input off n

/-- A number as a two's complement of `w` bits. -/
def toTwos (w : Nat) (i : Int) : Nat := (i % (2 ^ w : Nat)).toNat

/-- A `w`-bit two's complement as an integer. -/
def ofTwos (w v : Nat) : Int := if v % 2 ^ w < 2 ^ (w - 1) then (v % 2 ^ w : Nat) else ((v % 2 ^ w : Nat) : Int) - (2 ^ w : Nat)

/-- Serial-number comparison of `w`-bit numbers: `a` is later than or equal to `b` (R369). -/
def serialGe (w a b : Nat) : Bool := decide ((a + 2 ^ w - b % 2 ^ w) % 2 ^ w < 2 ^ (w - 1))

/-- The difference `a - b` of `w`-bit serial numbers. -/
def serialSub (w a b : Nat) : Nat := (a % 2 ^ w + 2 ^ w - b % 2 ^ w) % 2 ^ w

/-- Rounds up to a multiple. -/
def roundUp (n k : Nat) : Nat := (n + k - 1) / k * k

/-- Divides, rounding up. -/
def ceilDiv (n k : Nat) : Nat := (n + k - 1) / k

/-- The least k with 2^k at or above n. -/
def log2Up (n : Nat) : Nat := if n ≤ 1 then 0 else Nat.log2 (n - 1) + 1

end Sys2Proof.Machine
end

