-- ==== Sys2Proof/Machine/Flags.lean ====
section
/-! DEFINITION. The status codes (R88) and the event codes (R467), each with its value. -/

namespace Sys2Proof.Machine

/-- The status codes of R88. -/
inductive Status where
  | success
  | retried
  | partially
  | noMatch
  | busy
  | unitStarting
  | timeout
  | aborted
  | noSpace
  | undeliverable
  | linkDown
  | overruled
  | invalidOpcode
  | badParameter
  | badAddress
  | badLength
  | badContext
  | badState
  | notFound
  | inUse
  | limitExceeded
  | unsupportedVersion
  | unitAbsent
  | unitFenced
  | decodeError
  | memoryError
  | hostDmaError
  | wearLimit
  | dataLost
  | internalError
  | permission
  | confidentialMode
  | keyExhausted
  | keyRevoked
  | authFailed
  | rollbackRefused
  | attestationRequired
deriving DecidableEq, Repr

/-- The value of a status code (R88). -/
def statusCode : Status → Nat
  | .success => 0x00
  | .retried => 0x01
  | .partially => 0x02
  | .noMatch => 0x03
  | .busy => 0x10
  | .unitStarting => 0x11
  | .timeout => 0x12
  | .aborted => 0x13
  | .noSpace => 0x14
  | .undeliverable => 0x15
  | .linkDown => 0x16
  | .overruled => 0x17
  | .invalidOpcode => 0x40
  | .badParameter => 0x41
  | .badAddress => 0x42
  | .badLength => 0x43
  | .badContext => 0x44
  | .badState => 0x45
  | .notFound => 0x46
  | .inUse => 0x47
  | .limitExceeded => 0x48
  | .unsupportedVersion => 0x49
  | .unitAbsent => 0x80
  | .unitFenced => 0x81
  | .decodeError => 0x82
  | .memoryError => 0x83
  | .hostDmaError => 0x84
  | .wearLimit => 0x85
  | .dataLost => 0x86
  | .internalError => 0x87
  | .permission => 0xC0
  | .confidentialMode => 0xC1
  | .keyExhausted => 0xC2
  | .keyRevoked => 0xC3
  | .authFailed => 0xC4
  | .rollbackRefused => 0xC5
  | .attestationRequired => 0xC6

/-- The event codes of R467. -/
inductive EventCode where
  | conflict
  | cloniRestart
  | ringStopped
  | doorbellInvalid
  | secureAccessDenied
  | eventQueueOverflow
  | coreFenced
  | coreSlow
  | fieldBelowGuarantee
  | straggler
  | stragglerCleared
  | emberUe
  | emberChannelFenced
  | stackHot
  | seqDataLost
  | allotmentLost
  | peatWearWarn
  | peatGroupFenced
  | charcoalDecodeFail
  | seedbankSoftError
  | seedPostDropped
  | gleanPostDropped
  | gleanUnbound
  | portUp
  | portDown
  | laneDegraded
  | laneRejoined
  | portModeMismatch
  | olnenLoopback
  | addressReleased
  | addressConflict
  | routeLoop
  | mcastMembersRecovered
  | mcastMembersMissed
  | timeHoldover
  | fabricTimeStep
  | peerUnreachable
  | peerRestarted
  | peerAddressMoved
  | flagAborted
  | remoteAccessDenied
  | flowSlotsExhausted
  | tagsExhausted
  | e2eCrcError
  | stookMismatch
  | stookMemberLost
  | coherentLineLost
  | rotationTakeover
  | keyLowWater
  | fwBankFallback
  | sparkFired
  | quarantinePassed
  | quarantineFailed
  | unitRetired
  | strainHigh
  | strainCleared
  | rtcLost
  | drainDone
  | drainFailed
  | moduleHot
  | thermalTrip
  | inputPowerFault
  | coolantFlowLow
  | powerLimited
deriving DecidableEq, Repr

/-- The value of an event code (R467); its high byte is the UNIT of the raising unit. -/
def eventValue : EventCode → Nat
  | .conflict => 0x0101
  | .cloniRestart => 0x0102
  | .ringStopped => 0x0103
  | .doorbellInvalid => 0x0104
  | .secureAccessDenied => 0x0105
  | .eventQueueOverflow => 0x0106
  | .coreFenced => 0x0201
  | .coreSlow => 0x0202
  | .fieldBelowGuarantee => 0x0203
  | .straggler => 0x0204
  | .stragglerCleared => 0x0205
  | .emberUe => 0x0501
  | .emberChannelFenced => 0x0502
  | .stackHot => 0x0503
  | .seqDataLost => 0x0601
  | .allotmentLost => 0x0602
  | .peatWearWarn => 0x0603
  | .peatGroupFenced => 0x0604
  | .charcoalDecodeFail => 0x0701
  | .seedbankSoftError => 0x0801
  | .seedPostDropped => 0x0802
  | .gleanPostDropped => 0x0901
  | .gleanUnbound => 0x0902
  | .portUp => 0x0A01
  | .portDown => 0x0A02
  | .laneDegraded => 0x0A03
  | .laneRejoined => 0x0A04
  | .portModeMismatch => 0x0A05
  | .olnenLoopback => 0x0A06
  | .addressReleased => 0x0A07
  | .addressConflict => 0x0A08
  | .routeLoop => 0x0A09
  | .mcastMembersRecovered => 0x0A0A
  | .mcastMembersMissed => 0x0A0B
  | .timeHoldover => 0x0A0C
  | .fabricTimeStep => 0x0A0D
  | .peerUnreachable => 0x0A10
  | .peerRestarted => 0x0A11
  | .peerAddressMoved => 0x0A12
  | .flagAborted => 0x0A13
  | .remoteAccessDenied => 0x0A14
  | .flowSlotsExhausted => 0x0A15
  | .tagsExhausted => 0x0A16
  | .e2eCrcError => 0x0A17
  | .stookMismatch => 0x0A18
  | .stookMemberLost => 0x0A19
  | .coherentLineLost => 0x0A1A
  | .rotationTakeover => 0x0B01
  | .keyLowWater => 0x0C01
  | .fwBankFallback => 0x0C02
  | .sparkFired => 0x0D01
  | .quarantinePassed => 0x0D02
  | .quarantineFailed => 0x0D03
  | .unitRetired => 0x0D04
  | .strainHigh => 0x0D05
  | .strainCleared => 0x0D06
  | .rtcLost => 0x0D07
  | .drainDone => 0x0D08
  | .drainFailed => 0x0D09
  | .moduleHot => 0x0E01
  | .thermalTrip => 0x0E02
  | .inputPowerFault => 0x0E03
  | .coolantFlowLow => 0x0E04
  | .powerLimited => 0x0E05

/-- The severity of an event (R467). -/
def eventSeverity : EventCode → Nat
  | .conflict => 1
  | .cloniRestart => 2
  | .ringStopped => 2
  | .doorbellInvalid => 1
  | .secureAccessDenied => 1
  | .eventQueueOverflow => 1
  | .coreFenced => 2
  | .coreSlow => 1
  | .fieldBelowGuarantee => 2
  | .straggler => 1
  | .stragglerCleared => 0
  | .emberUe => 2
  | .emberChannelFenced => 2
  | .stackHot => 1
  | .seqDataLost => 2
  | .allotmentLost => 2
  | .peatWearWarn => 1
  | .peatGroupFenced => 2
  | .charcoalDecodeFail => 2
  | .seedbankSoftError => 1
  | .seedPostDropped => 1
  | .gleanPostDropped => 1
  | .gleanUnbound => 0
  | .portUp => 0
  | .portDown => 2
  | .laneDegraded => 1
  | .laneRejoined => 0
  | .portModeMismatch => 1
  | .olnenLoopback => 1
  | .addressReleased => 1
  | .addressConflict => 2
  | .routeLoop => 1
  | .mcastMembersRecovered => 0
  | .mcastMembersMissed => 1
  | .timeHoldover => 1
  | .fabricTimeStep => 1
  | .peerUnreachable => 1
  | .peerRestarted => 1
  | .peerAddressMoved => 1
  | .flagAborted => 1
  | .remoteAccessDenied => 1
  | .flowSlotsExhausted => 1
  | .tagsExhausted => 1
  | .e2eCrcError => 1
  | .stookMismatch => 2
  | .stookMemberLost => 2
  | .coherentLineLost => 2
  | .rotationTakeover => 0
  | .keyLowWater => 1
  | .fwBankFallback => 2
  | .sparkFired => 0
  | .quarantinePassed => 0
  | .quarantineFailed => 2
  | .unitRetired => 2
  | .strainHigh => 1
  | .strainCleared => 0
  | .rtcLost => 1
  | .drainDone => 0
  | .drainFailed => 2
  | .moduleHot => 1
  | .thermalTrip => 3
  | .inputPowerFault => 2
  | .coolantFlowLow => 2
  | .powerLimited => 1

/-- The UNIT value of the unit that raises an event: the high byte of its code (R467). -/
def eventUnit (e : EventCode) : Nat := eventValue e / 256

/-- Whether a status lies in the success range (R87). -/
def isSuccess (st : Status) : Bool := statusCode st < 0x10

/-- A retry-after hint in µs saturates at 65,535 and is at least 1 (R34, R87). -/
def hintUs (us : Nat) : Nat := min 65535 (max 1 us)

end Sys2Proof.Machine
end

