-- ==== Sys2Proof/Machine/FldState.lean ====
section
/-! DEFINITION. The state of the Field (file 03), of Kiln (file 04), of the sheaf formats (file 05) and of Ember (file 06). -/

namespace Sys2Proof.Machine

/-- The states of a core (R106). -/
inductive CoreState where
  | disabled | selfTest | rotation | reserve | restricted | fenced | quarantine
deriving DecidableEq, Repr

/-- The code of a core state (R106). -/
def coreStateCode : CoreState → Nat
  | .disabled => 0
  | .selfTest => 1
  | .rotation => 2
  | .reserve => 3
  | .restricted => 4
  | .fenced => 5
  | .quarantine => 6

/-- A message on the mesh (R101). -/
structure MeshMsg where
  srcCore   : Nat
  srcThread : Nat
  dstCore   : Nat
  dstThread : Nat
  tag       : Nat
  seq       : Nat
  payload   : List Byte
deriving DecidableEq, Repr

/-- Where a message that is not yet in a receive queue stands: in a send queue, on the mesh, or returned to its source router since a time (R102, R105). -/
inductive MeshPlace where
  | sendQueue | onMesh | returned (since : Nat)
deriving DecidableEq, Repr

/-- A message under way, with the cores whose routers its route passes (R100, R105). -/
structure MeshEntry where
  msg   : MeshMsg
  place : MeshPlace
  route : List Nat
deriving DecidableEq, Repr

/-- FLD_CORE_CTRL (R126). -/
structure CoreCtrl where
  switchRemote : Bool := false
  slowRestrict : Bool := true
deriving DecidableEq, Repr

/-- A core: its register page (R126) and what its detectors and its orders hold. -/
structure Core where
  state      : CoreState := .selfTest
  cause      : Nat := 0
  fenceCount : Nat := 0
  /-- The run that holds the core EXCLUSIVE. -/
  exclusive  : Option Nat := none
  /-- THREADS_LIVE: bit t set, thread t is running. -/
  live       : Nat := 0
  rate       : Nat := 0
  /-- RATE readings of the most recent 1 s, newest first: time and value. -/
  rates      : List (Nat × Nat) := []
  active     : Nat := 0
  beats      : Nat := 0
  supplyMv   : Nat := 0
  tempC      : Nat := 0
  ctrl       : CoreCtrl := {}
  shadow     : Option CoreCtrl := none
  sramCe     : Nat := 0
  sramUe     : Bool := false
  bounced    : Bool := false
  bounceCount : Nat := 0
  ueTimes    : List Nat := []
  resendTimes : List Nat := []
  bypass     : Bool := false
  /-- The receive queue of each thread: the bytes of its entries, oldest first (R99, R101). -/
  rxq        : Tbl (List (List Byte)) := []
  /-- Scalar registers by thread * 32 + register, vector registers by (thread * 32 + register) * 128 + lane (R96). -/
  sregs      : Tbl Word := []
  vregs      : Tbl F32 := []
  /-- The program area: the image of the host program, and the placement table of each run by its order number (R99, R114). -/
  image      : List Byte := []
  tables     : Tbl (List Byte) := []
  /-- Poisoned 64-bit words of local SRAM, by word number within its 12 MiB (R99). -/
  poison     : List Nat := []
  /-- How each thread's latest send completed (R103). -/
  sendStatus : Tbl Status := []
  /-- Messages already sent by source thread, destination core and destination thread: key thread * 512 + core * 4 + thread. -/
  seqOut     : Tbl Nat := []
  testing    : Bool := false
  /-- The FIELD.ENABLE orders that wait for the core's quarantine. -/
  enableBy   : List Nat := []
  /-- The core joins rotation, or leaves RESTRICTED, at the next work boundary (R118, R124). -/
  joining    : Bool := false
  /-- The context whose data each slot's staging partition holds: item slots 0-3, then threads 2 and 3 (R433). -/
  slotCtx    : Tbl Nat := []
  lowSince   : Option Nat := none
  slowSince  : Option Nat := none
deriving DecidableEq, Repr

/-- A loaded Field program (R112). -/
structure Program where
  ctx   : Nat
  image : List Byte
deriving DecidableEq, Repr

/-- A rank of a run: its core, whether it is lost, whether its threads have started, how often it was re-run, the reserve core called for its fence, and the core on which it starts again once that core's threads are free (R116). -/
structure Rank where
  core    : Nat
  lost    : Bool := false
  started : Bool := false
  reruns  : Nat := 0
  called  : Option Nat := none
  next    : Option Nat := none
deriving DecidableEq, Repr

/-- A FIELD.RUN in progress (R113-R117). -/
structure Run where
  oid        : Nat
  ctx        : Nat
  program    : Nat
  arg        : Nat
  threads    : Nat
  exclusive  : Bool
  replayable : Bool
  ranks      : List Rank
  poisoned   : Bool := false
deriving DecidableEq, Repr

/-- The Field. Cores without an entry have their reset value. -/
structure Fld where
  cores      : Tbl Core := []
  mesh       : List MeshEntry := []
  bypassing  : List Nat := []
  target     : Nat := 1
  customMv   : Nat := 0
  /-- What the four die sense points measure, in mV (R92). -/
  sense      : List Nat := [800, 800, 800, 800]
  holdMv     : Option Nat := none
  programs   : Tbl Program := []
  runs       : Tbl Run := []
  belowRaised : Bool := false
deriving DecidableEq, Repr

/-- A rotary profile (R137, R138): frequencies in 8.56 fixed point. -/
structure Rope where
  ctx     : Nat
  halves  : Bool
  rotDims : Nat
  freqs   : List Nat
deriving DecidableEq, Repr

/-- A sheaf format (R158). Group sizes are in elements and tokens. -/
structure Format where
  ctx      : Nat
  form     : Nat
  heads    : Nat
  dim      : Nat
  kGroup   : Nat
  vGroup   : Nat
  headroom : Nat
  escRatio : Nat
  kBook    : List Nat
  vBook    : List Nat
deriving DecidableEq, Repr

/-- A partial of one query row and head: base-2 running maximum, running sum, output vector (R128), and the flags of R145. -/
structure Part where
  m2   : F32
  l    : F32
  o    : List F32
  nan  : Bool := false
  sov  : Bool := false
  oov  : Bool := false
  empty : Bool := false
  /-- A score was NaN; the flag of R145 depends on what else the row and head use in the whole command. -/
  nanScore : Bool := false
deriving DecidableEq, Repr

/-- A sheaf as a command sees it from its acceptance on: index, BASE_POS, tokens that count (R133), body. -/
structure View where
  idx     : Nat
  basePos : Nat
  tokens  : Nat
  body    : Nat
  /-- Runs of tokens (first, past the last) of appends that the command may not see (R24). -/
  hidden  : List (Nat × Nat) := []
deriving DecidableEq, Repr

/-- A KILN.ATTEND between acceptance and completion. -/
structure Attend where
  cmd      : Cmd
  ctx      : Nat
  seq      : Nat
  layer    : Nat
  group    : Nat
  fmt      : Format
  /-- The sheaves held at acceptance. -/
  views    : List View
  rope     : Option Rope
  retrieved : List Nat := []
  skipped  : Nat := 0
  items    : Nat := 0
  /-- Gleaner's search is still in progress (R135). -/
  gleaning : Bool := false
  /-- Sheaves read, and tokens admitted to at least one row. -/
  read     : Nat := 0
  admitted : Nat := 0
  /-- The committed item partials, in the order row, then head. -/
  parts    : Tbl (List Part) := []
  retried  : Nat := 0
  residencyUs : Nat := 0
  bad      : Option Status := none
  fenced   : List Nat := []
deriving DecidableEq, Repr

/-- A SHEAF.APPEND between acceptance and completion. -/
structure Append where
  cmd     : Cmd
  ctx     : Nat
  seq     : Nat
  layer   : Nat
  group   : Nat
  fmt     : Format
  pos     : Nat
  tokens  : Nat
  /-- Items not yet committed. -/
  left    : Nat
  newTail : Bool
  escaped : Nat := 0
  clamped : Nat := 0
  /-- Tokens of the items that have committed (R185). -/
  written : Nat := 0
  retried : Bool := false
  bad     : Option Status := none
  fenced  : List Nat := []
deriving DecidableEq, Repr

/-- A work item (R129, R152, R184): the sheaves it reads, or the one it writes, where it stands and where it has executed. For an append, `first` and `count` are its tokens within the sheaf and `src` its first record of the input. -/
structure Item where
  oid     : Nat
  idx     : Nat
  ctx     : Nat
  append  : Bool
  seq     : Nat
  layer   : Nat
  group   : Nat
  views   : List View
  first   : Nat := 0
  count   : Nat := 0
  src     : Nat := 0
  /-- What the execution in progress comes to: escape entries in the sheaf after it, those of them that are new, elements clamped, and the bytes of the body and of the escape list that its commit writes (R121, R175). -/
  escAfter : Nat := 0
  escNew  : Nat := 0
  clamped : Nat := 0
  made    : Option (List Byte × List Byte) := none
  placed  : Option (Nat × Nat) := none
  cores   : List Nat := []
  since   : Nat
  /-- When its bodies were all resident, once it had to wait for one (R151). -/
  waited  : Option Nat := none
  /-- The full passes of R229 that had ended when it found no extent for its escapes (R220, R231). -/
  short   : Option Nat := none
deriving DecidableEq, Repr

/-- The tokens of a sheaf that an append writes, while a command must not see them: until the completion of the append is posted (R24). `stop` is past the last. -/
structure Unposted where
  oid   : Nat
  seq   : Nat
  layer : Nat
  group : Nat
  idx   : Nat
  first : Nat
  stop  : Nat
deriving DecidableEq, Repr

/-- Kiln and the sheaf formats. -/
structure Kln where
  rope      : Tbl Rope := []
  itemSlots : Nat := 2
  backlogLimit : Nat := 256
  commands  : Nat := 0
  retried   : Nat := 0
  nanCommands : Nat := 0
  attends   : Tbl Attend := []
  appends   : Tbl Append := []
  items     : Tbl Item := []
  nextItem  : Nat := 0
  backlog   : List Nat := []
  /-- The passed-over item and the core reserved for it (R153). -/
  reserved  : Option (Nat × Nat) := none
  formats   : Tbl Format := []
  /-- The tokens of appends not yet completed, or completed and not yet posted (R24). -/
  unposted  : List Unposted := []
deriving DecidableEq, Repr

/-- The states of an Ember channel (R196). -/
inductive ChanState where
  | training | service | restricted | fenced | quarantine
deriving DecidableEq, Repr

/-- The code of a channel state (R196). -/
def chanStateCode : ChanState → Nat
  | .training => 0
  | .service => 1
  | .restricted => 2
  | .fenced => 3
  | .quarantine => 4

/-- The RW fields of a channel's page (R209). -/
structure ChanRw where
  scrubHours : Nat := 24
  budget     : Nat := 22
deriving DecidableEq, Repr

/-- An Ember channel: its register page (R209) and what scrubbing and repair hold. -/
structure Chan where
  state    : ChanState := .training
  lanesRepaired : Nat := 0
  spareRows : Nat := 0
  ceCount  : Nat := 0
  odeCe    : Nat := 0
  ue       : Bool := false
  pprDone  : Bool := false
  rw       : ChanRw := {}
  shadow   : Option ChanRw := none
  passes   : Nat := 0
  frameNow : Nat := 0
  bankNow  : Nat := 0
  waits    : Nat := 0
  /-- Rows (frame * 64 + bank) with a corrected error in this scrub pass, and in the last one (R194). -/
  ceRows   : List Nat := []
  ceRowsLast : List Nat := []
  /-- Rows with uncorrectable errors in the last hour: row and time (R473). -/
  ueRows   : List (Nat × Nat) := []
  /-- The times of the interface's retrains in the last 10 min (R473). -/
  retrains : List Nat := []
  repairing : List Nat := []
  repaired : List Nat := []
  cause    : Nat := 0
  /-- Plough operations with a fence in the channel, in order of acceptance there (R204, R206). -/
  fences   : List Nat := []
  enableBy : List Nat := []
deriving DecidableEq, Repr

/-- What a plough operation does to each row (R201). -/
inductive PloughKind where
  | fill (pattern : Nat)
  | copy
  | logic (op : Nat)
deriving DecidableEq, Repr

/-- A plough operation between acceptance and completion (R197-R207). In span mode `dst`, `srcA` and `srcB` are EDAs; in frame mode they are first frames. -/
structure Plough where
  /-- The command, or none for an operation of the tier manager's own. -/
  oid     : Option Nat
  kind    : PloughKind
  frames  : Bool
  dst     : Nat
  srcA    : Nat
  srcB    : Nat
  count   : Nat
  chans   : List Nat
  fenced  : List Nat := []
  /-- Rows processed by channel. -/
  done    : Tbl (List Nat) := []
  skipped : List Nat := []
  inBank  : Nat := 0
  bus     : Nat := 0
  line    : Nat := 0
  poisoned : Nat := 0
deriving DecidableEq, Repr

/-- Ember: its bytes by device address, poisoned lines by line number, channels, plough operations in order of acceptance. -/
structure Emb where
  mem     : List (Nat × Byte) := []
  poison  : List Nat := []
  chans   : Tbl Chan := []
  ploughs : Tbl Plough := []
  /-- Rows repaired softly since the last start, which the next start repairs for good (R194), and hard repairs used, by stack. -/
  hardDue : Tbl (List Nat) := []
  hardUsed : Tbl Nat := []
  nextOp  : Nat := 0
  trained : Bool := false
deriving DecidableEq, Repr

end Sys2Proof.Machine
end

