-- ==== Sys2Proof/Machine/Float.lean ====
section
/-! DEFINITION. Exact arithmetic on dyadic numbers, and the roundings that the manual names: binary32 with subnormals flushed (R98), bf16, fp16, E4M3, E5M2 (R141, R159, R179), exp2 and the circular functions within their bounds. -/

namespace Sys2Proof.Machine

/-- A dyadic number m × 2^e. -/
structure Dy where
  m : Int
  e : Int
deriving DecidableEq, Repr

/-- A value read from a floating-point encoding. A finite one keeps its sign apart, for the zeros. -/
inductive FV where
  | nan
  | inf (neg : Bool)
  | fin (neg : Bool) (m : Nat) (e : Int)
deriving DecidableEq, Repr

def dyZero : Dy := { m := 0, e := 0 }

/-- m × 2^k for k ≥ 0, floor of m / 2^-k below. -/
def shl (m : Int) (k : Int) : Int := if 0 ≤ k then m * (2 ^ k.toNat : Nat) else m / (2 ^ (-k).toNat : Nat)

def dyAdd (a b : Dy) : Dy :=
  let e := min a.e b.e
  { m := shl a.m (a.e - e) + shl b.m (b.e - e), e := e }

def dyMul (a b : Dy) : Dy := { m := a.m * b.m, e := a.e + b.e }

def dySum (l : List Dy) : Dy := l.foldl dyAdd dyZero

def dyScale (a : Dy) (k : Int) : Dy := { a with e := a.e + k }

def dyLe (a b : Dy) : Bool :=
  let e := min a.e b.e
  decide (shl a.m (a.e - e) ≤ shl b.m (b.e - e))

def dyAbs (a : Dy) : Dy := { a with m := a.m.natAbs }

/-- The finite value as a dyadic number; infinities and NaN as 0, their effect being decided apart (R136, R145). -/
def fvDy : FV → Dy
  | .fin neg m e => { m := if neg then -(m : Int) else m, e := e }
  | _ => dyZero

def fvFinite : FV → Bool
  | .fin .. => true
  | _ => false

/-- Rounds m × 2^e to the nearest multiple of 2^q, ties to even: the multiple. -/
def rneAt (m : Nat) (e q : Int) : Nat :=
  if q ≤ e then m * 2 ^ (e - q).toNat
  else
    let d := (q - e).toNat
    let lo := m / 2 ^ d
    let r := m % 2 ^ d
    if 2 * r < 2 ^ d then lo else if 2 ^ d < 2 * r then lo + 1 else lo + lo % 2

/-- Rounds to `prec` significant bits with a least quantum of 2^qmin, ties to even: mantissa and exponent. -/
def rneTo (prec : Nat) (qmin : Int) (m : Nat) (e : Int) : Nat × Int :=
  let q := max ((Nat.log2 m : Int) + e - prec + 1) qmin
  (rneAt m e q, q)

/-! Decoding -/

/-- An encoding with `ew` exponent bits and `mw` mantissa bits, IEEE style. -/
def decIeee (ew mw : Nat) (flush : Bool) (b : Nat) : FV :=
  let neg := bitOf b (ew + mw)
  let x := bitsOf b mw ew
  let f := bitsOf b 0 mw
  let bias : Int := 2 ^ (ew - 1) - 1
  if x == 2 ^ ew - 1 then (if f == 0 then .inf neg else .nan)
  else if x == 0 then (if flush then .fin neg 0 0 else .fin neg f (1 - bias - mw))
  else .fin neg (2 ^ mw + f) ((x : Int) - bias - mw)

/-- binary32, subnormals taken as zero (R98). -/
def f32Dec (v : F32) : FV := decIeee 8 23 true v.toNat
def bf16Dec (b : Nat) : FV := decIeee 8 7 true b
def f16Dec (b : Nat) : FV := decIeee 5 10 false b
def e5m2Dec (b : Nat) : FV := decIeee 5 2 false b

/-- OCP E4M3: no infinities, one NaN of each sign (R159). -/
def e4m3Dec (b : Nat) : FV :=
  let x := bitsOf b 3 4
  let f := bitsOf b 0 3
  if b % 128 == 0x7F then .nan
  else if x == 0 then .fin (bitOf b 7) f (-9)
  else .fin (bitOf b 7) (8 + f) ((x : Int) - 10)

/-! Rounding to encodings -/

/-- Rounds to binary32 with ties to even, overflow to infinity, a subnormal result flushed to zero with its sign (R98). `neg0` is the sign of an exact zero. -/
def toF32 (neg0 : Bool) (d : Dy) : F32 :=
  if d.m == 0 then (if neg0 then 0x80000000 else 0) else
  let neg := decide (d.m < 0)
  let (m, e) := rneTo 24 (-149) d.m.natAbs d.e
  let s := b2n neg * 2 ^ 31
  let top := (Nat.log2 m : Int) + e
  if top < -126 then BitVec.ofNat 32 s
  else if 127 < top then BitVec.ofNat 32 (s + 0x7F800000)
  else BitVec.ofNat 32 (s + (top + 127).toNat * 2 ^ 23 + rneAt m e (top - 23) % 2 ^ 23)

/-- A quiet NaN with a free sign and payload (log entry 69); `k` numbers what it is made of. -/
def nanOf (k : Nat) : F32 := BitVec.ofNat 32 (0x7FC00000 + Config.nanBits 32 k / 2 ^ 22 % 2 * 2 ^ 31 + Config.nanBits 32 k % 2 ^ 22)

/-- The NaN of an operation of two operands. -/
def nanOp (a b : F32) : F32 := nanOf (1 + a.toNat * 2 ^ 32 + b.toNat)

/-- The NaN that R145 puts into a part. -/
def f32Nan : F32 := nanOf 0
def f32Inf (neg : Bool) : F32 := if neg then 0xFF800000 else 0x7F800000
def f32Zero : F32 := 0
def f32One : F32 := 0x3F800000

def isNan (v : F32) : Bool := f32Dec v == .nan
def isInf (v : F32) : Bool := match f32Dec v with | .inf _ => true | _ => false

/-- Rounds a binary32 to bf16, ties to even (R175, R179). -/
def toBf16 (v : F32) : Nat :=
  match f32Dec v with
  | .nan => 0x7FC0 + Config.nanBits 16 v.toNat / 2 ^ 6 % 2 * 2 ^ 15 + Config.nanBits 16 v.toNat % 2 ^ 6
  | .inf neg => if neg then 0xFF80 else 0x7F80
  | .fin neg m e =>
    if m == 0 then b2n neg * 2 ^ 15 else
    let (k, q) := rneTo 8 (-133) m e
    let top := (Nat.log2 k : Int) + q
    if 127 < top then b2n neg * 2 ^ 15 + 0x7F80
    else b2n neg * 2 ^ 15 + (top + 127).toNat * 2 ^ 7 + rneAt k q (top - 7) % 2 ^ 7

/-! binary32 arithmetic (R98) -/

def fvNeg : FV → Bool
  | .inf n => n
  | .fin n _ _ => n
  | .nan => false

def fMul (a b : F32) : F32 :=
  match f32Dec a, f32Dec b with
  | .nan, _ | _, .nan => nanOp a b
  | .inf n, .fin k m _ => if m == 0 then nanOp a b else f32Inf (n != k)
  | .fin k m _, .inf n => if m == 0 then nanOp a b else f32Inf (n != k)
  | .inf n, .inf k => f32Inf (n != k)
  | .fin n m e, .fin k l g => toF32 (n != k) { m := if n != k then -((m * l : Nat) : Int) else ((m * l : Nat) : Int), e := e + g }

def fAdd (a b : F32) : F32 :=
  match f32Dec a, f32Dec b with
  | .nan, _ | _, .nan => nanOp a b
  | .inf n, .inf k => if n == k then f32Inf n else nanOp a b
  | .inf n, _ => f32Inf n
  | _, .inf n => f32Inf n
  | .fin n m e, .fin k l g => toF32 (n && k) (dyAdd (fvDy (.fin n m e)) (fvDy (.fin k l g)))

/-- Fused multiply-add, a × b + c with one rounding (R98). -/
def fFma (a b c : F32) : F32 :=
  match f32Dec a, f32Dec b, f32Dec c with
  | .fin n m e, .fin k l g, .fin j p h =>
    let x : Dy := { m := if n != k then -((m * l : Nat) : Int) else ((m * l : Nat) : Int), e := e + g }
    toF32 ((n != k) && j) (dyAdd x (fvDy (.fin j p h)))
  | .fin _ _ _, .fin _ _ _, .inf j => f32Inf j
  | .fin _ _ _, .fin _ _ _, .nan => nanOp (fMul a b) c
  | _, _, _ => fAdd (fMul a b) c

def fNeg (a : F32) : F32 := a ^^^ 0x80000000

def fAbs (a : F32) : F32 := a &&& 0x7FFFFFFF

def fSub (a b : F32) : F32 := fAdd a (fNeg b)

/-- a < b; false when either is NaN. -/
def fLt (a b : F32) : Bool :=
  match f32Dec a, f32Dec b with
  | .nan, _ | _, .nan => false
  | .inf n, .inf k => n && !k
  | .inf n, _ => n
  | _, .inf k => !k
  | x, y => !dyLe (fvDy y) (fvDy x)

def fLe (a b : F32) : Bool := !isNan a && !isNan b && !fLt b a

def fMax (a b : F32) : F32 := if fLt a b then b else a

/-- A binary32 from bf16 or fp16 bits; a bf16 subnormal becomes zero with its sign (R179). -/
def ofBf16 (b : Nat) : F32 := match bf16Dec b with | .fin neg 0 _ => if neg then 0x80000000 else 0 | _ => BitVec.ofNat 32 (b * 2 ^ 16)
def ofFV : FV → F32
  | .nan => f32Nan
  | .inf n => f32Inf n
  | .fin n m e => toF32 n (fvDy (.fin n m e))
def ofF16 (b : Nat) : F32 := ofFV (f16Dec b)

/-- binary32 with subnormals kept: for a field of a record that is compared or multiplied exactly. -/
def f32Exact (v : F32) : FV := decIeee 8 23 false v.toNat

/-- The product of two decoded values, rounded once to fp32. -/
def fvMul (a b : FV) : F32 :=
  match a, b with
  | .nan, _ | _, .nan => f32Nan
  | .inf n, .inf k => f32Inf (n != k)
  | .inf n, .fin k m _ | .fin k m _, .inf n => if m == 0 then f32Nan else f32Inf (n != k)
  | .fin n m e, .fin k l g => toF32 (n != k) (dyMul (fvDy (.fin n m e)) (fvDy (.fin k l g)))

/-! exp2, cos and sin: the hardware's value where it meets its bound, else the nearest one (log entry 3) -/

/-- Integer square root by bisection over `n` bits. -/
def isqrt : Nat → Nat → Nat → Nat
  | 0, _, acc => acc
  | n + 1, x, acc => let t := acc + 2 ^ n; if t * t ≤ x then isqrt n x t else isqrt n x acc

/-- 2^f scaled by 2^62, f given by `n` fraction bits of `f`, highest first; `c` is 2^(2^-k) scaled by 2^62. -/
def exp2Frac : Nat → Nat → Nat → Nat → Nat
  | 0, _, _, acc => acc
  | n + 1, f, c, acc =>
    let acc := if bitOf f n then acc * c / 2 ^ 62 else acc
    exp2Frac n f (isqrt 63 (c * 2 ^ 62) 0) acc

/-- exp2 of a dyadic number to within far less than an ulp of binary32. -/
def exp2Dy (d : Dy) : Dy :=
  let n := shl d.m d.e
  let f := shl d.m (d.e + 40) - n * (2 ^ 40 : Nat)
  { m := exp2Frac 40 f.toNat (isqrt 63 (2 ^ 125) 0) (2 ^ 62), e := n - 62 }

/-- Whether a binary32 lies within k units in the last place of a positive or negative exact value. -/
def withinUlp (k : Nat) (v : F32) (x : Dy) : Bool :=
  match f32Dec v with
  | .fin _ _ _ =>
    let u : Dy := { m := k, e := (Nat.log2 x.m.natAbs : Int) + x.e - 23 }
    let diff := dyAdd (fvDy (f32Dec v)) { x with m := -x.m }
    dyLe (dyAbs diff) u
  | _ => false

/-- exp2 (R98): exact at the special values, zero where the result is subnormal, infinite where it overflows; else within 2 units in the last place. -/
def fExp2 (a : F32) : F32 :=
  match f32Dec a with
  | .nan => nanOp a a
  | .inf n => if n then 0 else f32Inf false
  | .fin n m e =>
    if m == 0 then f32One else
    let d := fvDy (.fin n m e)
    if dyLe { m := 128, e := 0 } d then f32Inf false
    else if dyLe d { m := -127, e := 0 } then 0
    else
      let x := exp2Dy d
      if withinUlp 2 (Config.exp2 a) x then Config.exp2 a else toF32 false x

/-- Fraction bits of log2, `n` of them: `x` is in [1, 2) scaled by 2^160, `acc` the bits so far. -/
def log2Bits : Nat → Nat → Nat → Nat
  | 0, _, acc => acc
  | n + 1, x, acc =>
    let y := x * x / 2 ^ 160
    if y < 2 ^ 161 then log2Bits n y (2 * acc) else log2Bits n (y / 2) (2 * acc + 1)

/-- log2 of m × 2^e for m ≥ 1, to within far less than an ulp of binary32; exactly 0 for 1. -/
def log2Dy (m : Nat) (e : Int) : Dy :=
  let k := Nat.log2 m
  { m := ((k : Int) + e) * (2 ^ 72 : Nat) + (log2Bits 72 (m * 2 ^ 160 / 2 ^ k) 0 : Nat), e := -72 }

/-- log2 (R98): NaN below zero, minus infinity at zero; else within 2 units in the last place. -/
def fLog2 (a : F32) : F32 :=
  match f32Dec a with
  | .nan => nanOp a a
  | .inf n => if n then nanOp a a else f32Inf false
  | .fin n m e =>
    if m == 0 then f32Inf true
    else if n then nanOp a a
    else
      let x := log2Dy m e
      if x.m == 0 then f32Zero else if withinUlp 2 (Config.log2 a) x then Config.log2 a else toF32 false x

/-- Reciprocal (R98): within 1 unit in the last place; a subnormal result is zero with its sign. -/
def fRecip (a : F32) : F32 :=
  match f32Dec a with
  | .nan => nanOp a a
  | .inf n => if n then 0x80000000 else 0
  | .fin n m e =>
    if m == 0 then f32Inf n else
    let q : Int := (2 ^ 200 / m : Nat)
    let x : Dy := { m := if n then -q else q, e := -200 - e }
    let r := toF32 n x
    if fvDy (f32Dec r) == dyZero then r else if withinUlp 1 (Config.recip a) x then Config.recip a else r

/-! binary64 (R138) -/

/-- Rounds a positive value to binary64, ties to even. -/
def round64 (d : Dy) : Dy := let (m, e) := rneTo 53 (-1074) d.m.natAbs d.e; { m := if d.m < 0 then -(m : Int) else (m : Int), e := e }

/-- The quotient of two positive values, rounded to binary64. -/
def div64 (a b : Dy) : Dy :=
  let n := a.m.natAbs * 2 ^ 160
  let q := n / b.m.natAbs * 2 + b2n (n % b.m.natAbs != 0)
  round64 { m := q, e := a.e - b.e - 161 }

/-- 2^-x for 0 ≤ x < 256, scaled by 2^512: `x` scaled by 2^72, `c` is 2^(-2^-k) scaled by 2^256, `n` fraction bits to come. -/
def powFrac : Nat → Nat → Nat → Nat → Nat
  | 0, _, _, acc => acc
  | n + 1, x, c, acc =>
    let acc := if bitOf x n then acc * c / 2 ^ 256 else acc
    powFrac n x (isqrt 257 (c * 2 ^ 256) 0) acc

/-- BASE^-k to far more bits than binary64 has, for BASE > 1 and 0 ≤ k < 1. -/
def powNeg (base k : Dy) : Dy :=
  let x := dyMul (log2Dy base.m.natAbs base.e) k
  let y := shl x.m (x.e + 72)
  let n := y / (2 ^ 72 : Nat)
  { m := powFrac 72 (y % (2 ^ 72 : Nat)).toNat (isqrt 257 (2 ^ 511) 0) (2 ^ 512), e := -512 - n }

/-- Whether a binary64 value lies within one unit in the last place of an exact positive one. -/
def withinUlp64 (v x : Dy) : Bool :=
  dyLe (dyAbs (dyAdd v { x with m := -x.m })) { m := 1, e := (Nat.log2 x.m.natAbs : Int) + x.e - 52 }

/-- BASE^-k in binary64: the hardware's value where it lies within one unit in the last place, else the nearest one. DESIGN CHOICE, log entry 3: R138 says that the evaluation is in binary64, and no rule bounds the power function. -/
def pow64 (baseBits : Nat) (k : Dy) : Dy :=
  let x := powNeg (fvDy (f32Exact (BitVec.ofNat 32 baseBits))) k
  let kBits := if k.m == 0 then 0 else let t := (Nat.log2 k.m.natAbs : Int) + k.e; (t + 1023).toNat * 2 ^ 52 + rneAt k.m.natAbs k.e (t - 52) % 2 ^ 52
  let v := fvDy (decIeee 11 52 false (Config.pow64 baseBits kBits))
  if withinUlp64 v x then v else round64 x

/-- 2π scaled by 2^128. -/
def twoPi : Nat := 2138057168129933495719360746323741566601

/-- The frequency of a pair for FREQ_MODE 0 (R138), F × BASE^(−2i / ROT_DIMS) / (2π): each operation rounded to binary64, then scaled by 2^56 and rounded to the nearest integer, ties away from zero. None at 256 cycles per position or more. -/
def ropeFreq64 (baseBits factorBits twoI dims : Nat) : Option Nat :=
  let k := if twoI == 0 then dyZero else div64 { m := twoI, e := 0 } { m := dims, e := 0 }
  let p := if twoI == 0 then { m := 1, e := 0 } else pow64 baseBits k
  let q := round64 (dyMul (fvDy (f32Exact (BitVec.ofNat 32 factorBits))) p)
  let r := div64 q (round64 { m := twoPi, e := -128 })
  if dyLe { m := 256, e := 0 } r then none else some ((shl r.m (r.e + 57) + 1) / 2).toNat

/-- The Taylor sum of cos or sin: `n` more terms, the next term's index `k`, x² scaled by 2^128, the last term and the sum scaled by 2^128. -/
def taylor : Nat → Nat → Int → Int → Int → Int
  | 0, _, _, _, acc => acc
  | n + 1, k, x2, t, acc =>
    let t := -(t * x2 / (2 ^ 128 : Nat)) / (k * (k + 1) : Nat)
    taylor n (k + 2) x2 t (acc + t)

/-- cos and sin of 2π × phase / 2^56, for a phase in the first eighth of the circle, scaled by 2^128. -/
def circEighth (phase : Nat) : Int × Int :=
  let x : Int := (twoPi * phase / 2 ^ 56 : Nat)
  let x2 := x * x / (2 ^ 128 : Nat)
  (taylor 24 1 x2 (2 ^ 128 : Nat) (2 ^ 128 : Nat), taylor 24 2 x2 x x)

/-- cos and sin of 2π × phase / 2^56, scaled by 2^128. -/
def circ (phase : Nat) : Int × Int :=
  let q := phase / 2 ^ 54 % 4
  let r := phase % 2 ^ 54
  let (c, s) := if r ≤ 2 ^ 53 then circEighth r else let (c, s) := circEighth (2 ^ 54 - r); (s, c)
  match q with
  | 0 => (c, s)
  | 1 => (-s, c)
  | 2 => (-c, -s)
  | _ => (s, -c)

/-- cos of a phase (R139). -/
def fCos (phase : Nat) : F32 :=
  let x : Dy := { m := (circ phase).1, e := -128 }
  if withinUlp 2 (Config.cosine phase) x then Config.cosine phase else toF32 false x

/-- sin of a phase (R139). -/
def fSin (phase : Nat) : F32 :=
  let x : Dy := { m := (circ phase).2, e := -128 }
  if withinUlp 2 (Config.sine phase) x then Config.sine phase else toF32 false x

/-! Chunk conversion (R141, R142) -/

/-- The array types of R147: E4M3, E5M2, bf16, fp16, int8. -/
structure ArrayType where
  prec : Nat
  qmin : Int
  top  : Dy
deriving DecidableEq, Repr

def arrayType : Nat → ArrayType
  | 0 => { prec := 4, qmin := -9, top := { m := 448, e := 0 } }
  | 1 => { prec := 3, qmin := -16, top := { m := 57344, e := 0 } }
  | 2 => { prec := 8, qmin := -133, top := { m := 255, e := 120 } }
  | _ => { prec := 11, qmin := -24, top := { m := 65504, e := 0 } }

/-- The smallest integer e with x × 2^-e at or below `top`; 0 for a zero. -/
def chunkExp (x top : Dy) : Int :=
  if x.m == 0 then 0 else
  let g := (Nat.log2 x.m.natAbs : Int) + x.e - ((Nat.log2 top.m.natAbs : Int) + top.e)
  if dyLe (dyScale x (-(g - 1))) top then g - 1 else if dyLe (dyScale x (-g)) top then g else g + 1

def dyMax (l : List Dy) : Dy := l.foldl (fun a x => if dyLe a (dyAbs x) then dyAbs x else a) dyZero

/-- Rounds a dyadic number to an integer, ties to even. -/
def dyRne (d : Dy) : Int := let k : Int := rneAt d.m.natAbs d.e 0; if d.m < 0 then -k else k

/-- Converts a chunk of exact values to an array type (R141): what each converted element stands for, its chunk exponent applied. -/
def convertChunk (ty : Nat) (xs : List Dy) : List Dy :=
  let big := dyMax xs
  if ty == 4 then
    let e := chunkExp big { m := 127, e := 0 }
    xs.map (fun x => { m := dyRne (dyScale x (-e)), e := e })
  else
    let a := arrayType ty
    let e := chunkExp big a.top
    xs.map (fun (x : Dy) =>
      if x.m == 0 then dyZero else
      let r := rneTo a.prec a.qmin x.m.natAbs (x.e - e)
      { m := if x.m < 0 then -(r.1 : Int) else (r.1 : Int), e := r.2 + e })

/-- Converts a chunk of queries or weights (R141, R142): int8 takes a zero point, which the value a converted element stands for has subtracted. -/
def convertAsym (ty : Nat) (xs : List Dy) : List Dy :=
  if ty != 4 then convertChunk ty xs else
  let lo := xs.foldl (fun a x => if dyLe x a then x else a) dyZero
  let hi := xs.foldl (fun a x => if dyLe a x then x else a) dyZero
  let e := chunkExp (dyAdd hi { lo with m := -lo.m }) { m := 255, e := 0 }
  let z := -128 - dyRne (dyScale lo (-e))
  xs.map (fun x => { m := max (-128) (min 127 (dyRne (dyScale x (-e)) + z)) - z, e := e })

end Sys2Proof.Machine
end

