-- ==== Sys2Proof/Machine/Codec.lean ====
section
/-! DEFINITION. The layout of a sheaf (R163-R170), its quantisation (R172-R175, R179) and the restoring of a truncated one (R225, R247). -/

namespace Sys2Proof.Machine

/-! Layout (R159, R163-R165) -/

/-- The code width in bits of a storage form (R159). -/
def codeWidth (f : Format) : Nat :=
  match f.form with
  | 0 => 4
  | 4 => 16
  | _ => 8

/-- Elements of K, or of V, in one token: G·d. -/
def tokenElems (f : Format) : Nat := f.heads * f.dim

/-- nK and nV of R163. -/
def kGroups (f : Format) : Nat := 64 * tokenElems f / f.kGroup
def vGroups (f : Format) : Nat := 64 / f.vGroup * tokenElems f

/-- The byte offsets of the sections of a body, and its size (R163). -/
structure Layout where
  kCodes   : Nat
  vCodes   : Nat
  kScales  : Nat
  vScales  : Nat
  kAnchors : Nat
  vAnchors : Nat
  size     : Nat
deriving DecidableEq, Repr

def layout (f : Format) : Layout :=
  let codes := 64 * tokenElems f * codeWidth f / 8
  let v := roundUp codes 64
  if f.form == 4 then { kCodes := 0, vCodes := v, kScales := v + codes, vScales := v + codes, kAnchors := v + codes, vAnchors := v + codes, size := v + codes }
  else
    let ks := roundUp (v + codes) 64
    let vs := roundUp (ks + kGroups f) 64
    let ka := roundUp (vs + vGroups f) 64
    let va := roundUp (ka + 2 * ceilDiv (kGroups f) 64) 64
    { kCodes := 0, vCodes := v, kScales := ks, vScales := vs, kAnchors := ka, vAnchors := va, size := va + 2 * ceilDiv (vGroups f) 64 }

/-- Chunks of a body: the smallest whole number that holds it (R220). -/
def bodyChunks (f : Format) : Nat := ceilDiv (layout f).size 1024

/-- ESC_LIMIT (R168). -/
def escLimit (f : Format) : Nat := 4 * tokenElems f

/-- Bytes of the codes of one token. -/
def runBytes (f : Format) : Nat := tokenElems f * codeWidth f / 8

/-- The K group of an element of a token, and the V group (R165). -/
def kGroupOf (f : Format) (t n : Nat) : Nat := (t * f.heads + n / f.dim) * (f.dim / f.kGroup) + n % f.dim / f.kGroup
def vGroupOf (f : Format) (t n : Nat) : Nat := t / f.vGroup * tokenElems f + n

/-! Codes (R159, R173) -/

/-- The escape code of a form; none for BF16. -/
def escCode (f : Format) : Option Nat :=
  match f.form with
  | 0 => some 0xF
  | 1 => some 0xFF
  | 2 => some 0x80
  | 3 => some 0x7F
  | _ => none

/-- What a code other than the escape stands for (R159): for keys (`key`) or for values. -/
def codeValue (f : Format) (key : Bool) (c : Nat) : FV :=
  match f.form with
  | 0 | 1 => f16Dec ((if key then f.kBook else f.vBook).getD c 0)
  | 2 => let i := ofTwos 8 c; .fin (decide (i < 0)) i.natAbs 0
  | 3 => if c == 0x80 then .fin false 0 0 else if c == 0xFF then .nan else e4m3Dec c
  | _ => bf16Dec c

/-- The codes that the quantiser writes for non-escape values, with the values, in ascending order of value. -/
def codeList (f : Format) (key : Bool) : List (Nat × Dy) :=
  let codes := match f.form with
    | 0 => List.range 15
    | 1 => List.range 255
    | 2 => (List.range 256).filter (· != 0x80)
    | _ => (List.range 256).filter (fun c => c != 0x7F && c != 0x80 && c != 0xFF)
  sortBy (fun a b => !dyLe b.2 a.2) (codes.map (fun c => (c, fvDy (codeValue f key c))))

/-- A of R159. -/
def largestCode (l : List (Nat × Dy)) : Dy := dyMax (l.map (·.2))

/-! Scales (R166, R167) -/

/-- The decoded group scale of a byte under an fp16 anchor: exact, or none for a scale that is not a number (R167). -/
def scaleOf (anchor s : Nat) : Option Dy :=
  if s == 0 then some dyZero else
  match f16Dec anchor with
  | .fin false m e => if m == 0 then none else some { m := ((m * (8 + s % 8) : Nat) : Int), e := e + (s / 8 : Nat) - 27 }
  | _ => none

/-! Sheaf images -/

/-- A sheaf as its bytes say: the body, the escapes of each written token (K_COUNT, V_COUNT) and the entries (R169, R170). -/
structure Sheaf where
  body    : List Byte
  counts  : List (Nat × Nat)
  entries : List Nat
deriving DecidableEq, Repr

/-- The 512-byte index and the entries of an escape list, padded to 64 bytes (R169, R170); a token not yet written has START equal to ESC_COUNT. -/
def escBytes (x : Sheaf) : List Byte :=
  if x.entries.isEmpty then [] else
  let step := fun (a : Nat × List Byte) (t : Nat) =>
    let (k, v) := x.counts.getD t (0, 0)
    let start := if t < x.counts.length then a.1 else x.entries.length
    (a.1 + k + v, a.2 ++ leBytes 2 start ++ leBytes 2 k ++ leBytes 2 v ++ zeros 2)
  let idx := ((List.range 64).foldl step (0, [])).2
  let bs := idx ++ (x.entries.map (leBytes 2)).flatten
  bs ++ zeros (roundUp bs.length 64 - bs.length)

/-- The sheaf that a body of `tokens` tokens and an escape list of `esc` entries spell. -/
def sheafOf (body list : List Byte) (esc tokens : Nat) : Sheaf :=
  { body := body,
    counts := (List.range tokens).map (fun t => if esc == 0 then (0, 0) else (getU list (8 * t + 2) 2, getU list (8 * t + 4) 2)),
    entries := (List.range esc).map (fun k => getU list (512 + 2 * k) 2) }

/-! The quantiser (R172-R175) -/

/-- Sets one byte, or one little-endian pair of bytes, of a body. -/
def poke (x : Sheaf) (off : Nat) (bs : List Byte) : Sheaf := { x with body := putBytes x.body off bs }

/-- The anchor of a block as its bytes hold it; 0 for a block without one. -/
def anchorAt (x : Sheaf) (base block : Nat) : Nat := getU x.body (base + 2 * block) 2

/-- Cuts a list into runs of `n`. -/
def cut {α : Type} (n : Nat) (l : List α) : List (List α) := (List.range (l.length / n)).map (fun i => (l.drop (n * i)).take n)

/-- The escape candidates of a K group (R172, step 1), given the escapes already counted. -/
def candidates (f : Format) (used : Nat) (xs : List F32) : List Bool :=
  let none_ := xs.map (fun _ => false)
  if f.escRatio % 2 ^ 15 == 0 then none_ else
  let sum := xs.foldl (fun a x => fAdd a (fAbs x)) f32Zero
  let mean := fMul sum (toF32 false { m := 1, e := -(Nat.log2 xs.length : Int) })
  let tau := fMul (ofF16 f.escRatio) mean
  let hit := xs.map (fun x => fLt tau (fAbs x))
  if used + hit.count true ≤ escLimit f then hit else none_

/-- The largest magnitude. -/
def maxAbs (xs : List F32) : F32 := xs.foldl (fun a x => fMax a (fAbs x)) f32Zero

/-- The anchor for a largest target magnitude (R172, step 3), as fp16. -/
def anchorFor (big : Dy) (amax : F32) : Nat :=
  let k : Int := if isInf amax then 15 else if amax == f32Zero then 0 else chunkExp (fvDy (f32Dec amax)) big
  ((max (-14) (min 15 k)) + 15).toNat * 1024

/-- rne(decoded scale × A), the largest magnitude that a group's scale reaches. -/
def reach (big : Dy) (sc : Dy) : F32 := toF32 false (dyMul sc big)

/-- The group-scale byte for a target magnitude (R172, step 4). -/
def scaleByte (big : Dy) (anchor : Nat) (a : F32) : Nat :=
  if a == f32Zero then 0 else
  (((List.range 255).map (· + 1)).find? (fun s => fLe a (reach big ((scaleOf anchor s).getD dyZero)))).getD 255

/-- Sets the scale bytes of groups (first index given) and the anchors of their blocks that have none (R172, steps 3 and 4). -/
def setScales (big : Dy) (scales anchors first : Nat) (as : List F32) (x : Sheaf) : Sheaf :=
  let gs := as.zipIdx.map (fun (a, i) => (first + i, a))
  let blocks := (gs.map (fun g => g.1 / 64)).eraseDups
  let x := blocks.foldl (fun x b =>
    if anchorAt x anchors b != 0 then x
    else poke x (anchors + 2 * b) (leBytes 2 (anchorFor big (maxAbs ((gs.filter (fun g => g.1 / 64 == b)).map (·.2)))))) x
  poke x (scales + first) (gs.map (fun g => BitVec.ofNat 8 (scaleByte big (anchorAt x anchors (g.1 / 64)) g.2)))

/-- nearest(x, sc) of R173. -/
def nearestCode (l : List (Nat × Dy)) (sc : Dy) (x : F32) : Nat :=
  if sc.m == 0 then
    let best := l.foldl (fun (a : Nat × Dy) v => if dyLe (dyAbs a.2) (dyAbs v.2) then a else v) (l.getD 0 (0, dyZero))
    best.1
  else
    let ks := (l.zip l.tail).map (fun (a, b) => fLt (toF32 false (dyMul sc (dyScale (dyAdd a.2 b.2) (-1)))) x)
    (l.getD (ks.count true) (0, dyZero)).1

/-- What step 5 has done so far: codes, entries of this kind, elements clamped, escapes in the sheaf counting every marked one. -/
structure Coded where
  codes   : List Nat := []
  esc     : List Nat := []
  clamped : Nat := 0
  used    : Nat
deriving DecidableEq, Repr

/-- Codes one element (R173, R174). -/
def codeElem (f : Format) (l : List (Nat × Dy)) (big sc : Dy) (cand : Bool) (x : F32) (a : Coded) : Coded :=
  let esc := (escCode f).getD 0
  if cand then { a with codes := a.codes ++ [esc], esc := a.esc ++ [toBf16 x] }
  else if fLt (reach big sc) (fAbs x) then
    if a.used < escLimit f then { a with codes := a.codes ++ [esc], esc := a.esc ++ [toBf16 x], used := a.used + 1 }
    else { a with codes := a.codes ++ [if fLt x f32Zero then (l.getD 0 (0, dyZero)).1 else (l.getLast?.getD (0, dyZero)).1], clamped := a.clamped + 1 }
  else { a with codes := a.codes ++ [nearestCode l sc x] }

/-- Packs the codes of a token (R164). -/
def packCodes (w : Nat) (codes : List Nat) : List Byte :=
  if w == 4 then (cut 2 codes).map (fun p => BitVec.ofNat 8 (p.getD 0 0 + 16 * p.getD 1 0))
  else (codes.map (leBytes (w / 8))).flatten

/-- Appends token `t` to a sheaf: the sheaf after it, and the elements clamped (R172-R175; R179 for BF16). -/
def quantToken (f : Format) (t : Nat) (ks vs : List F32) (x : Sheaf) : Sheaf × Nat :=
  let y := layout f
  let put := fun (x : Sheaf) (kc vc : List Nat) =>
    poke (poke x (y.kCodes + t * runBytes f) (packCodes (codeWidth f) kc)) (y.vCodes + t * runBytes f) (packCodes (codeWidth f) vc)
  if f.form == 4 then ({ put x (ks.map toBf16) (vs.map toBf16) with counts := x.counts ++ [(0, 0)] }, 0) else
  let kl := codeList f true
  let vl := codeList f false
  let kBig := largestCode kl
  let vBig := largestCode vl
  let cands := (cut f.kGroup ks).foldl (fun (a : List (List Bool) × Nat) g => let c := candidates f a.2 g; (a.1 ++ [c], a.2 + c.count true)) ([], x.entries.length)
  let aK := ((cut f.kGroup ks).zip cands.1).map (fun (g, c) => maxAbs (((g.zip c).filter (fun e => !e.2)).map (·.1)))
  let aV := (cut f.dim vs).map (fun h => List.replicate f.dim (fMul (toF32 false { m := f.headroom, e := 0 }) (maxAbs h)))
  let x := setScales kBig y.kScales y.kAnchors (kGroupOf f t 0) aK x
  let x := if t % f.vGroup == 0 then setScales vBig y.vScales y.vAnchors (vGroupOf f t 0) aV.flatten x else x
  let scale := fun (scales anchors g : Nat) => (scaleOf (anchorAt x anchors (g / 64)) (getU x.body (scales + g) 1)).getD dyZero
  let k := (ks.zip cands.1.flatten).zipIdx.foldl (fun a ((v, c), n) => codeElem f kl kBig (scale y.kScales y.kAnchors (kGroupOf f t n)) c v a) { used := cands.2 }
  let v := vs.zipIdx.foldl (fun a (v, n) => codeElem f vl vBig (scale y.vScales y.vAnchors (vGroupOf f t n)) false v a) { used := k.used, clamped := k.clamped }
  ({ put x k.codes v.codes with counts := x.counts ++ [(k.esc.length, v.esc.length)], entries := x.entries ++ k.esc ++ v.esc }, v.clamped)

/-- Input elements of an append as fp32 (R179). -/
def inputElem (fp16 : Bool) (b : Nat) : F32 := if fp16 then ofF16 b else ofBf16 b

/-- Whether an input element is a number (R181). -/
def elemFinite (fp16 : Bool) (b : Nat) : Bool := fvFinite (if fp16 then f16Dec b else bf16Dec b)

/-- The 16-bit elements of a run of bytes. -/
def halves : List Byte → List Nat
  | a :: b :: t => (a.toNat + 256 * b.toNat) :: halves t
  | _ => []

/-- Appends tokens `first`, `first + 1`, … from their records (R178). -/
def quantTokens (f : Format) (fp16 : Bool) : Nat → List (List Nat) → Sheaf × Nat → Sheaf × Nat
  | _, [], a => a
  | t, r :: rs, a =>
    let xs := r.map (inputElem fp16)
    let (x, n) := quantToken f t (xs.take (tokenElems f)) (xs.drop (tokenElems f)) a.1
    quantTokens f fp16 (t + 1) rs (x, a.2 + n)

/-! Restoring (R225, R247) -/

/-- Zeroes a run of bytes of a body. -/
def wipe (x : Sheaf) (off n : Nat) : Sheaf := poke x off (zeros n)

/-- The sheaf as it stood after token `n` - 1: codes, scale bytes, anchors and escapes first written by token `n` or a later one are zero. -/
def restore (f : Format) (n : Nat) (x : Sheaf) : Sheaf :=
  let y := layout f
  let r := runBytes f
  let x := wipe (wipe x (y.kCodes + n * r) ((64 - n) * r)) (y.vCodes + n * r) ((64 - n) * r)
  let keep := x.counts.take n
  let esc := sumN (keep.map (fun c => c.1 + c.2))
  let x := { x with counts := keep, entries := x.entries.take esc }
  if f.form == 4 then x else
  let kg := kGroupOf f n 0
  let vg := ceilDiv n f.vGroup * tokenElems f
  let x := wipe (wipe x (y.kScales + kg) (kGroups f - kg)) (y.vScales + vg) (vGroups f - vg)
  let kb := ceilDiv kg 64
  let vb := ceilDiv vg 64
  wipe (wipe x (y.kAnchors + 2 * kb) (2 * (ceilDiv (kGroups f) 64 - kb))) (y.vAnchors + 2 * vb) (2 * (ceilDiv (vGroups f) 64 - vb))

end Sys2Proof.Machine
end

