-- ==== Sys2Proof/Machine/CharcoalOps.lean ====
section
/-! DEFINITION. The Charcoal codec (R249-R257): streams, canonical codes, the encoder's choice of mode and code lengths, the two checks of a block. -/

namespace Sys2Proof.Machine

/-! Elements (R249, R250, R255) -/

/-- Elements in a full block. -/
def blockElems : Nat := 32768

/-- The exponent of an element. -/
def expOf (fp16 : Bool) (e : Nat) : Nat := if fp16 then bitsOf e 10 5 else bitsOf e 7 8

/-- An element from its exponent and its residue: sign above the mantissa. -/
def joinElem (fp16 : Bool) (x r : Nat) : Nat :=
  let m := if fp16 then 10 else 7
  r / 2 ^ m % 2 * 32768 + x * 2 ^ m + r % 2 ^ m

/-- The residue of an element. -/
def residueOf (fp16 : Bool) (e : Nat) : Nat :=
  let m := if fp16 then 10 else 7
  bitsOf e 15 1 * 2 ^ m + e % 2 ^ m

/-- The blocks of a list of elements, the last one shorter. -/
def blocksOf (es : List Nat) : List (List Nat) := (List.range (ceilDiv es.length blockElems)).map (fun i => (es.drop (blockElems * i)).take blockElems)

/-- The bits of a number, lowest first. -/
def bitList (w v : Nat) : List Bool := (List.range w).map (bitOf v)

/-- Packs bits into bytes, the first bit lowest (R254). -/
def packBits : Nat → List Bool → List Byte
  | 0, _ => []
  | n + 1, bs => BitVec.ofNat 8 ((bs.take 8).reverse.foldl (fun a b => 2 * a + b2n b) 0) :: packBits n (bs.drop 8)

/-- The bits of a run of bytes. -/
def unpackBits (bs : List Byte) : List Bool := (bs.map (fun b => bitList 8 b.toNat)).flatten

/-- Pads to a multiple of 8 bytes with zeros. -/
def pad8 (bs : List Byte) : List Byte := bs ++ zeros (roundUp bs.length 8 - bs.length)

/-- The residues of a block as bytes. -/
def residueBytes (fp16 : Bool) (es : List Nat) : List Byte :=
  if fp16 then packBits (ceilDiv (11 * es.length) 8) ((es.map (fun e => bitList 11 (residueOf true e))).flatten)
  else es.map (fun e => BitVec.ofNat 8 (residueOf false e))

/-- Bytes of the RESIDUE section. -/
def residueLen (fp16 : Bool) (n : Nat) : Nat := if fp16 then ceilDiv (11 * n) 8 else n

/-! Code lengths (R256) -/

/-- One round of the package-merge construction: the coins with the packages of the round before, two and two. -/
def pairUp : List (Nat × List Nat) → List (Nat × List Nat)
  | a :: b :: t => (a.1 + b.1, a.2 ++ b.2) :: pairUp t
  | _ => []

/-- Lengths of at most 15 bits with the least total, by package-merge: for each symbol its length, 0 without a code. -/
def leastLengths (counts : List Nat) : List Nat :=
  let coins := (counts.zipIdx.filter (fun e => e.1 != 0)).map (fun e => (e.1, [e.2]))
  let sort := sortBy (fun (a b : Nat × List Nat) => decide (a.1 < b.1))
  let packs := (List.range 14).foldl (fun ps _ => sort (coins ++ pairUp ps)) (sort coins)
  let used := ((packs.take (2 * coins.length - 2)).map (·.2)).flatten
  (List.range counts.length).map (fun x => used.count x)

/-- Bits that a block takes under code lengths. -/
def codedBits (counts lens : List Nat) : Nat := sumN (counts.zipWith (· * ·) lens)

/-- Whether lengths give every counted symbol, and no other, a code of at most 15 bits, fill the code space and have the least total. -/
def lengthsOk (counts lens best : List Nat) : Bool :=
  lens.length == counts.length && (counts.zip lens).all (fun e => if e.1 == 0 then e.2 == 0 else decide (1 ≤ e.2 ∧ e.2 ≤ 15)) &&
  sumN (lens.map (fun l => if l == 0 then 0 else 2 ^ (15 - l))) == 2 ^ 15 && codedBits counts lens == codedBits counts best

/-- The encoder's code lengths: of the constructions that R256 admits, the hardware's own. -/
def codeLengths (counts : List Nat) : List Nat :=
  let best := leastLengths counts
  let own := Config.huffman counts
  if lengthsOk counts own best then own else best

/-! Canonical codes (R254) -/

/-- Symbols with their lengths, in canonical order. -/
def canonical (lens : List Nat) : List (Nat × Nat) :=
  sortBy (fun (a b : Nat × Nat) => decide (a.2 < b.2)) ((lens.zipIdx.filter (fun e => e.1 != 0)).map (fun e => (e.2, e.1)))

/-- The first code of each length from 1 to 15. -/
def firstCodes (bl : List Nat) : List Nat :=
  ((List.range 15).foldl (fun (a : List Nat × Nat × Nat) i =>
    let (out, code, before) := a
    let c := (code + before) * 2
    (out ++ [c], c, bl.getD i 0)) ([], 0, 0)).1

/-- Assigns codes to symbols in canonical order: symbol, length, code. -/
def assignCodes (bl syms : List Nat) : List (Nat × Nat × Nat) :=
  let firsts := firstCodes bl
  ((List.range 15).foldl (fun (a : List (Nat × Nat × Nat) × List Nat) i =>
    let n := bl.getD i 0
    (a.1 ++ (a.2.take n).zipIdx.map (fun (x, k) => (x, i + 1, firsts.getD i 0 + k)), a.2.drop n)) ([], syms)).1

/-! The encoder (R252, R253, R256) -/

/-- A block header. -/
def blockHeader (mode : Nat) (fp16 : Bool) (const n bits len : Nat) : List Byte :=
  leBytes 1 (mode + 4 * b2n fp16) ++ leBytes 1 const ++ leBytes 2 n ++ leBytes 4 bits ++ leBytes 4 len ++ zeros 4

/-- A block as the encoder writes it, with its mode: 0 CODED, 1 RAW, 2 CONST. -/
def encodeBlock (fp16 : Bool) (es : List Nat) : Nat × List Byte :=
  let n := es.length
  let counts := (List.range (if fp16 then 32 else 256)).map (fun x => es.countP (fun e => expOf fp16 e == x))
  let raw := pad8 ((es.map (leBytes 2)).flatten)
  let res := pad8 (residueBytes fp16 es)
  match counts.zipIdx.filter (fun e => e.1 != 0) with
  | [(_, x)] => (2, blockHeader 2 fp16 x n 0 (16 + res.length) ++ res)
  | _ =>
    let lens := codeLengths counts
    let can := canonical lens
    let bl := (List.range 15).map (fun i => can.countP (fun e => e.2 == i + 1))
    let codes := assignCodes bl (can.map (·.1))
    let word := fun (e : Nat) => match codes.find? (fun c => c.1 == expOf fp16 e) with | none => [] | some (_, l, c) => (bitList l c).reverse
    let bits := codedBits counts lens
    let body := pad8 ((bl.map (leBytes 2)).flatten ++ zeros 2) ++ pad8 ((can.map (fun e => leBytes 1 e.1)).flatten) ++
      pad8 (packBits (ceilDiv bits 8) ((es.map word).flatten)) ++ res
    if body.length < raw.length then (0, blockHeader 0 fp16 0 n bits (16 + body.length) ++ body)
    else (1, blockHeader 1 fp16 0 n 0 (16 + raw.length) ++ raw)

/-- A stream, and the modes of its blocks. -/
def encodeStream (fp16 : Bool) (bs : List Byte) : List Byte × List Nat :=
  let blocks := (blocksOf (halves bs)).map (encodeBlock fp16)
  let n := blocks.length
  let start := 32 + roundUp (4 * n) 8
  let offs := (blocks.foldl (fun (a : List Nat × Nat) b => (a.1 ++ [a.2], a.2 + b.2.length)) ([], start)).1
  let head := leBytes 4 0x4C524843 ++ leBytes 1 1 ++ leBytes 1 (b2n fp16) ++ zeros 2 ++ leBytes 8 bs.length ++ leBytes 4 n ++ zeros 12
  (head ++ pad8 ((offs.map (fun o => leBytes 4 (o / 8))).flatten) ++ (blocks.map (·.2)).flatten, blocks.map (·.1))

/-! The decoder and its checks (R257) -/

/-- What a block comes to: its elements, or the check that it fails, 0 code validity and 1 length consistency. -/
inductive Decoded where
  | elems (es : List Nat)
  | failed (check : Nat)
deriving DecidableEq, Repr

/-- Decodes `n` codes: the exponents and the bits left, or the check that fails. -/
def readCodes (codes : List (Nat × Nat × Nat)) : Nat → Nat → List Bool → Nat → Nat → List Nat → Except Nat (List Nat × List Bool)
  | _, 0, bits, _, _, acc => .ok (acc.reverse, bits)
  | 0, _ + 1, _, _, _, _ => .error 1
  | _ + 1, _ + 1, [], _, _, _ => .error 1
  | fuel + 1, n + 1, b :: bits, len, code, acc =>
    let l := len + 1
    let c := 2 * code + b2n b
    match codes.find? (fun e => e.2.1 == l && e.2.2 == c) with
    | some (x, _, _) => readCodes codes fuel n bits 0 0 (x :: acc)
    | none =>
      if codes.any (fun e => decide (l < e.2.1) && e.2.2 / 2 ^ (e.2.1 - l) == c) then readCodes codes fuel (n + 1) bits l c acc else .error 0

/-- Whether SYMS is in canonical order without repeats, each in range. -/
def symsOk (fp16 : Bool) (bl syms : List Nat) : Bool :=
  let groups := ((List.range 15).foldl (fun (a : List (List Nat) × List Nat) i => (a.1 ++ [a.2.take (bl.getD i 0)], a.2.drop (bl.getD i 0))) ([], syms)).1
  groups.all (fun g => (g.zip g.tail).all (fun e => decide (e.1 < e.2))) && syms.eraseDups.length == syms.length && (!fp16 || syms.all (fun x => decide (x ≤ 31)))

/-- Decodes a block of `n` elements that starts at the head of `bs`: what it comes to, and its BLOCK_LEN when that is the length that R253 gives. -/
def decodeBlock (fp16 : Bool) (n : Nat) (bs : List Byte) : Decoded × Option Nat :=
  let flags := getU bs 0 1
  let mode := flags % 4
  let syms := getU bs 2 2
  let bits := getU bs 4 4
  let len := getU bs 8 4
  let bl := (List.range 15).map (fun i => getU bs (16 + 2 * i) 2)
  let k := sumN bl
  let table := (List.range k).map (fun i => getU bs (48 + i) 1)
  let expAt := 48 + roundUp k 8
  let resAt := if mode == 2 then 16 else expAt + roundUp (ceilDiv bits 8) 8
  let want := if mode == 1 then 16 + roundUp (2 * n) 8 else resAt + roundUp (residueLen fp16 n) 8
  let valid := mode != 3 && bitOf flags 2 == fp16 && decide (flags < 8) && getU bs 12 4 == 0 &&
    (mode != 2 || !fp16 || decide (getU bs 1 1 ≤ 31)) &&
    (mode != 0 || (getU bs 46 2 == 0 && decide (1 ≤ k ∧ k ≤ 256) && decide (sumN (bl.zipIdx.map (fun (c, i) => c * 2 ^ (14 - i))) ≤ 2 ^ 15) && symsOk fp16 bl table))
  let rs := fun (_ : Unit) =>
    let r := (bs.drop resAt).take (residueLen fp16 n)
    if fp16 then let b := unpackBits r; (List.range n).map (fun i => (((b.drop (11 * i)).take 11).reverse.foldl (fun a x => 2 * a + b2n x) 0)) else r.map (·.toNat)
  let stands := if len == want then some len else none
  if !valid then (.failed 0, stands)
  else if syms != n then (.failed 1, stands)
  else match mode with
  | 1 => if len != want || bs.length < want then (.failed 1, stands) else (.elems (halves ((bs.drop 16).take (2 * n))), stands)
  | 2 => if len != want || bs.length < want then (.failed 1, stands) else (.elems ((rs ()).map (joinElem fp16 (getU bs 1 1))), stands)
  | _ =>
    match readCodes (assignCodes bl table) (bits + 1) n ((unpackBits ((bs.drop expAt).take (ceilDiv bits 8))).take bits) 0 0 [] with
    | .error e => (.failed e, stands)
    | .ok (xs, left) =>
      if !left.isEmpty || len != want || bs.length < want then (.failed 1, stands)
      else (.elems (xs.zipWith (joinElem fp16) (rs ())), stands)

/-- ORIG_LEN and TYPE of a stream. -/
def origLen (st : List Byte) : Nat := getU st 8 8
def streamFp16 (st : List Byte) : Bool := bitOf (getU st 5 1) 0

/-- Whether the stream header stands (R258): MAGIC, VERSION, reserved bits. -/
def headerOk (st : List Byte) : Bool :=
  getU st 0 4 == 0x4C524843 && getU st 4 1 == 1 && decide (getU st 5 1 < 2) && getU st 6 2 == 0 && (st.drop 20).take 12 == zeros 12

/-- The elements that the last block must hold: ORIG_LEN / 2 − 32,768 × (BLOCKS − 1), none where that is no number of elements of the last block, for an odd ORIG_LEN or a BLOCKS that is not ⌈ORIG_LEN / 65,536⌉ (R257). -/
def lastElems (st : List Byte) : Option Nat :=
  if origLen st % 2 == 0 && getU st 16 4 == ceilDiv (origLen st) 65536 then some (origLen st / 2 - blockElems * (getU st 16 4 - 1)) else none

/-- Decodes the blocks one by one. A block's INDEX entry must equal the sum of the lengths before it, those of failed blocks among them; where the BLOCK_LEN of a block is not the length that R253 gives, the sum is unknown and the next INDEX entry is believed (log entry 35). -/
def decodeBlocks (st : List Byte) (fp16 : Bool) (count : Nat) : Nat → Nat → Option Nat → List Decoded
  | 0, _, _ => []
  | fuel + 1, i, sum =>
    if count ≤ i then [] else
    let off := 8 * getU st (32 + 4 * i) 4
    let n := if i + 1 == count then lastElems st else some blockElems
    let (d, len) := decodeBlock fp16 (n.getD blockElems) (st.drop (sum.getD off))
    let d := match d with
      | .failed 0 => .failed 0
      | d => if n.isNone || sum.getD off != off then .failed 1 else d
    d :: decodeBlocks st fp16 count fuel (i + 1) (len.map (sum.getD off + ·))

/-- The blocks of a stream. -/
def decodeStream (st : List Byte) : List Decoded :=
  let n := ceilDiv (origLen st) 65536
  if !headerOk st then List.replicate n (.failed 0)
  else decodeBlocks st (streamFp16 st) n n 0 (some (32 + roundUp (4 * n) 8))

/-- The elements that a block gives, a failed one 0xFFFF for each (R258). -/
def blockOut (orig i : Nat) : Decoded → List Byte
  | .elems es => (es.map (leBytes 2)).flatten
  | .failed _ => List.replicate (min 65536 (orig - 65536 * i)) 0xFF

/-- The failed blocks, each with its check. -/
def failedBlocks (ds : List Decoded) : List (Nat × Nat) := ds.zipIdx.filterMap (fun (d, i) => match d with | .failed k => some (i, k) | .elems _ => none)

end Sys2Proof.Machine
end

