-- ==== Sys2Proof/Machine/Attention.lean ====
section
/-! DEFINITION. The arithmetic of attention (file 04): input sections, patterns, rotation, the stages of R144, special values, the merge. -/

namespace Sys2Proof.Machine

/-! ARGS and input sections (R147, R148) -/

def atWindow (c : Cmd) : Bool := argBits c 39 0 1 == 1
def atGlobal (c : Cmd) : Bool := argBits c 39 1 1 == 1
def atRetrieved (c : Cmd) : Bool := argBits c 39 2 1 == 1
def atDense (c : Cmd) : Bool := argBits c 39 3 1 == 1
def atCausal (c : Cmd) : Bool := argBits c 39 4 1 == 1
def atWindowLen (c : Cmd) : Nat := argBits c 40 0 18
def atGlobals (c : Cmd) : Nat := argBits c 44 0 7
def atGleaner (c : Cmd) : Bool := argBits c 45 0 1 == 1
def atCount (c : Cmd) : Nat := argBits c 46 0 9
def atRows (c : Cmd) : Nat := argBits c 48 0 9
def atQueryGroup (c : Cmd) : Nat := argBits c 50 0 5
def atSpan (c : Cmd) : Nat := if argBits c 51 0 7 == 0 then 8 else argBits c 51 0 7
def atQtype (c : Cmd) : Nat := argBits c 53 0 3
def atArray (c : Cmd) : Nat := argBits c 53 4 3
def atRow (c : Cmd) : Nat := argBits c 54 0 7 + 128 * argBits c 54 7 1

/-- Query heads H (R147). -/
def atHeads (c : Cmd) (f : Format) : Nat := f.heads * atQueryGroup c

/-- Bytes of an element of QTYPE. -/
def qBytes (c : Cmd) : Nat := if atQtype c == 2 || atQtype c == 3 then 2 else 1

/-- The first bytes of QS, POS, GPOS and RLIST, and the end of the last section (R148). -/
structure Sections where
  qs : Nat
  pos : Nat
  gpos : Nat
  rlist : Nat
  stop : Nat
deriving DecidableEq, Repr

def sections (c : Cmd) (f : Format) : Sections :=
  let n := atRows c * atHeads c f
  let scaled := match atQtype c with | 0 | 1 => 4 | 4 => 8 | _ => 0
  let q := n * f.dim * qBytes c
  let qs := roundUp q 64
  let qsEnd := if scaled == 0 then q else qs + n * scaled
  let pos := roundUp qsEnd 64
  let posEnd := pos + 4 * atRows c
  let gpos := roundUp posEnd 64
  let gEnd := if atGlobal c then gpos + 4 * atGlobals c else posEnd
  let rlist := roundUp gEnd 64
  let stop := if atRetrieved c && !atGleaner c then rlist + 4 * atCount c else gEnd
  { qs := qs, pos := pos, gpos := gpos, rlist := rlist, stop := stop }

/-- The position of a row. -/
def rowPos (c : Cmd) (f : Format) (r : Nat) : Nat := inU c ((sections c f).pos + 4 * r) 4

/-- The global positions. -/
def globalList (c : Cmd) (f : Format) : List Nat := if atGlobal c then (List.range (atGlobals c)).map (fun i => inU c ((sections c f).gpos + 4 * i) 4) else []

/-- The host's list of sheaf indices. -/
def hostList (c : Cmd) (f : Format) : List Nat := if atRetrieved c && !atGleaner c then (List.range (atCount c)).map (fun i => inU c ((sections c f).rlist + 4 * i) 4) else []

/-! Patterns (R132) -/

/-- Whether a token at position `p` of sheaf `idx` is admitted to a row at `q`, and whether by a rule other than the global one. -/
def admittedBy (c : Cmd) (globals retrieved : List Nat) (idx p q : Nat) : Bool × Bool :=
  if atCausal c && decide (q < p) then (false, false)
  else if atDense c then (true, true)
  else
    let w := atWindow c && decide (p ≤ q ∧ q - p < atWindowLen c)
    let r := atRetrieved c && retrieved.contains idx
    (w || r || (atGlobal c && globals.contains p), w || r)

/-- The tokens of a sheaf that a command sees. -/
def viewTokens (v : View) : List Nat := (List.range v.tokens).filter (fun t => !v.hidden.any (fun h => decide (h.1 ≤ t ∧ t < h.2)))

/-- The tokens of a sheaf that are admitted to a row. -/
def admittedTo (c : Cmd) (globals retrieved : List Nat) (v : View) (q : Nat) : List Nat :=
  (viewTokens v).filter (fun t => (admittedBy c globals retrieved v.idx (v.basePos + t) q).1)

/-- The tokens of a sheaf that are admitted to at least one row, and whether the sheaf is read whole (R136). -/
def admittedAny (c : Cmd) (f : Format) (retrieved : List Nat) (v : View) : List Nat × Bool :=
  let globals := globalList c f
  let rows := (List.range (atRows c)).map (rowPos c f)
  let hits := (viewTokens v).map (fun t => (t, rows.map (fun q => admittedBy c globals retrieved v.idx (v.basePos + t) q)))
  ((hits.filter (fun h => h.2.any (·.1))).map (·.1), hits.any (fun h => h.2.any (·.2)))

/-! Decoding and rotation (R136, R139, R143, R144) -/

/-- An element that has entered the Kiln: its fp32 value, whether it is exact, and whether what it came from is NaN or infinite (R145). -/
structure Elem where
  v     : F32
  exact : Bool := false
  bad   : Bool := false
deriving DecidableEq, Repr

/-- The codes of a run of bytes (R164). -/
def unpackCodes (w : Nat) (bs : List Byte) : List Nat :=
  match w with
  | 4 => (bs.map (fun b => [b.toNat % 16, b.toNat / 16])).flatten
  | 8 => bs.map (·.toNat)
  | _ => halves bs

/-- Decodes one token's elements, with the escapes that belong to them. -/
def decodeRun (f : Format) (key : Bool) (scale : Nat → Option Dy) : Nat → List Nat → List Nat → List Elem
  | _, [], _ => []
  | n, c :: cs, esc =>
    if f.form == 4 then { v := ofBf16 c, bad := !fvFinite (bf16Dec c) } :: decodeRun f key scale (n + 1) cs esc
    else if some c == escCode f then
      let b := esc.headD 0
      { v := ofBf16 b, exact := true, bad := !fvFinite (bf16Dec b) } :: decodeRun f key scale (n + 1) cs esc.tail
    else
      let x := codeValue f key c
      let e : Elem := match scale n with
        | none => { v := f32Nan, bad := true }
        | some sc => { v := fvMul x (.fin (decide (sc.m < 0)) sc.m.natAbs sc.e), bad := !fvFinite x }
      e :: decodeRun f key scale (n + 1) cs esc

/-- The key (or value) elements of a token of a sheaf. -/
def tokenRun (f : Format) (x : Sheaf) (key : Bool) (t : Nat) : List Elem :=
  let y := layout f
  let start := sumN ((x.counts.take t).map (fun c => c.1 + c.2))
  let (k, v) := x.counts.getD t (0, 0)
  let esc := if key then (x.entries.drop start).take k else (x.entries.drop (start + k)).take v
  let scale := fun n =>
    if key then let g := kGroupOf f t n; scaleOf (anchorAt x y.kAnchors (g / 64)) (getU x.body (y.kScales + g) 1)
    else let g := vGroupOf f t n; scaleOf (anchorAt x y.vAnchors (g / 64)) (getU x.body (y.vScales + g) 1)
  decodeRun f key scale 0 (unpackCodes (codeWidth f) ((x.body.drop ((if key then y.kCodes else y.vCodes) + t * runBytes f)).take (runBytes f))) esc

/-- A term of a rotated element that an overflowed element makes infinite; zero where the element is finite. -/
def infTerm (x c : F32) : F32 := if isInf x then fMul x c else f32Zero

/-- Rotates the vector of one head at a position (R139): from the exact expression, an infinite element giving what IEEE 754 gives. -/
def rotate (p : Rope) (pos : Nat) (xs : List Elem) : List Elem :=
  let half := p.rotDims / 2
  let pairOf := fun (n : Nat) => if p.halves then (n % half, n / half) else (n / 2, n % 2)
  let at_ := fun (i k : Nat) => xs.getD (if p.halves then i + k * half else 2 * i + k) { v := 0 }
  xs.zipIdx.map (fun (x, n) =>
    if p.rotDims ≤ n then x else
    let (i, k) := pairOf n
    let a := at_ i 0
    let b := at_ i 1
    let phase := pos * p.freqs.getD i 0 % 2 ^ 56
    let fc := fCos phase
    let fs := fSin phase
    let co := fvDy (f32Dec fc)
    let si := fvDy (f32Dec fs)
    let va := fvDy (f32Dec a.v)
    let vb := fvDy (f32Dec b.v)
    let neg := fun (d : Dy) => { d with m := -d.m }
    let y := if k == 0 then dyAdd (dyMul va co) (neg (dyMul vb si)) else dyAdd (dyMul va si) (dyMul vb co)
    let inf := if k == 0 then fAdd (infTerm a.v fc) (infTerm b.v (fNeg fs)) else fAdd (infTerm a.v fs) (infTerm b.v fc)
    { v := if isInf a.v || isInf b.v then inf else toF32 false y, exact := a.exact || b.exact, bad := a.bad || b.bad })

def rotateBy (p : Option Rope) (pos : Nat) (xs : List Elem) : List Elem := match p with | none => xs | some p => rotate p pos xs

/-- What the elements of an operand stand for in the arrays: converted by chunks of 32, an exact element by its own value (R141, R143). -/
def convertOperand (ty : Nat) (xs : List Elem) : List Dy :=
  ((cut 32 xs).map (fun ch =>
    let conv := convertChunk ty (ch.map (fun e => if e.exact then dyZero else fvDy (f32Dec e.v)))
    ch.zipWith (fun e d => if e.exact then fvDy (f32Dec e.v) else d) conv)).flatten

/-! Queries (R144, R147) -/

/-- A query row and head: its elements, what they stand for in the score array, and its KV head. -/
structure Query where
  elems : List Elem
  conv  : List Dy
  kv    : Nat
deriving DecidableEq, Repr

/-- One element of QTYPE and its scale and zero point. -/
def queryElem (c : Cmd) (f : Format) (rh i : Nat) : Elem :=
  let sec := sections c f
  let b := inU c ((rh * f.dim + i) * qBytes c) (qBytes c)
  let scaled := fun (x : FV) (off : Nat) =>
    let sc := f32Dec (BitVec.ofNat 32 (inU c off 4))
    { v := fvMul x sc, bad := !fvFinite x || !fvFinite sc : Elem }
  match atQtype c with
  | 0 => scaled (e4m3Dec b) (sec.qs + 4 * rh)
  | 1 => scaled (e5m2Dec b) (sec.qs + 4 * rh)
  | 2 => { v := ofBf16 b, bad := !fvFinite (bf16Dec b) }
  | 3 => { v := ofF16 b, bad := !fvFinite (f16Dec b) }
  | _ => let i := ofTwos 8 b - ofTwos 8 (inU c (sec.qs + 8 * rh + 4) 1); scaled (.fin (decide (i < 0)) i.natAbs 0) (sec.qs + 8 * rh)

/-- A row and head as they enter the arrays. -/
def query (c : Cmd) (f : Format) (rope : Option Rope) (r h : Nat) : Query :=
  let xs := rotateBy rope (rowPos c f r) ((List.range f.dim).map (queryElem c f (r * atHeads c f + h)))
  { elems := xs, conv := ((cut 32 xs).map (fun ch => convertAsym (atArray c) (ch.map (fun e => fvDy (f32Dec e.v))))).flatten, kv := h / atQueryGroup c }

/-! Scores and the soft maximum (R144, R145) -/

/-- log2 e scaled by 2^128. -/
def log2E : Nat := 490923683258796565746369346286093237521

/-- The factor c (R144). -/
def scoreFactor (c : Cmd) (f : Format) : F32 :=
  let sc : F32 := BitVec.ofNat 32 (argU c 56 4)
  if sc.toNat % 2 ^ 31 == 0 then toF32 false { m := ((log2E * 2 ^ 128 / isqrt 133 (f.dim * 2 ^ 256) 0 : Nat) : Int), e := -128 }
  else toF32 false (dyMul (fvDy (f32Exact sc)) { m := (log2E : Int), e := -128 })

/-- The score where an element of either operand has overflowed to infinity: the sum of its infinite products. None where every element is finite. -/
def scoreInf (q k : List Elem) : Option F32 :=
  let terms := (q.zip k).filterMap (fun (a, b) => if isInf a.v || isInf b.v then some (fMul a.v b.v) else none)
  if terms.isEmpty then none else some (terms.foldl fAdd f32Zero)

/-- The score of a key for a query (R144). -/
def score (factor : F32) (q : Query) (k : List Elem) (kc : List Dy) : F32 :=
  match scoreInf q.elems k with
  | some v => fMul v factor
  | none =>
    let chunks := (cut 32 (q.conv.zipWith dyMul kc)).map (fun ps => toF32 false (dySum ps))
    fMul (match chunks with | [] => f32Zero | x :: t => t.foldl fAdd x) factor

/-- The empty partial. -/
def emptyPart (d : Nat) : Part := { m2 := f32Inf true, l := 0, o := List.replicate d 0, empty := true }

/-- A partial that is not a number (R145). -/
def nanPart (d : Nat) (p : Part) : Part := { p with m2 := f32Nan, l := f32Nan, o := List.replicate d f32Nan, empty := false }

/-- A sheaf in the Kiln: the tokens admitted to some row, their keys by KV head, and the values by KV head and dimension. -/
structure Block where
  view   : View
  tokens : List Nat
  keys   : List (List (List Elem × List Dy))
  vals   : List (List (List Elem))
deriving DecidableEq, Repr

/-- Brings a sheaf into the Kiln. -/
def loadBlock (c : Cmd) (f : Format) (rope : Option Rope) (retrieved : List Nat) (v : View) (x : Sheaf) : Block :=
  let (ts, _) := admittedAny c f retrieved v
  let ks := ts.map (fun t => (cut f.dim (tokenRun f x true t)).map (fun xs => let r := rotateBy rope (v.basePos + t) xs; (r, convertOperand (atArray c) r)))
  let vs := ts.map (fun t => cut f.dim (tokenRun f x false t))
  { view := v, tokens := ts, keys := ks, vals := vs }

/-- The sum of one dimension's weighted values over a sheaf: chunks of 32 tokens, each rounded once, added in ascending order (R144). `ws` are the converted weights by token, `col` the value elements by token. A value that overflowed to infinity makes its chunk infinite, or NaN once ∞ meets −∞ (R145); under a converted weight of 0 it adds nothing (DESIGN CHOICE, log entry 23: no rule states 0 × ∞ there). -/
def valueSum (ty : Nat) (ws : List Dy) (col : List Elem) : F32 :=
  let finite := (cut 32 ((convertOperand ty col).zipWith dyMul ws)).map (fun ps => toF32 false (dySum ps))
  let inf := (cut 32 (col.zip ws)).map (fun ch => ch.filterMap (fun (e, w) => if isInf e.v && w.m != 0 then some (fMul e.v (toF32 false w)) else none))
  let chunks := finite.zipWith (fun x is => is.foldl fAdd x) inf
  match chunks with | [] => f32Zero | x :: t => t.foldl fAdd x

/-- Takes one sheaf into the partial of a row and head (R144, R145). -/
def stepPart (c : Cmd) (f : Format) (factor : F32) (q : Query) (mine : List Nat) (b : Block) (p : Part) : Part :=
  if mine.isEmpty then p else
  let ix := fun (t : Nat) => (b.tokens.idxOf? t).getD 0
  let key := fun (t : Nat) => (b.keys.getD (ix t) []).getD q.kv ([], [])
  let vals := fun (t : Nat) => (b.vals.getD (ix t) []).getD q.kv []
  let good := if q.elems.any (·.bad) then [] else mine.filter (fun t => !((key t).1.any (·.bad) || (vals t).any (·.bad)))
  let bad := good.length < mine.length
  let ss := good.map (fun t => (t, score factor q (key t).1 (key t).2))
  let p := { p with empty := false, nan := p.nan || bad, sov := p.sov || ss.any (fun e => isInf e.2), nanScore := p.nanScore || ss.any (fun e => isNan e.2) }
  if bad || isNan p.m2 || ss.any (fun e => isNan e.2 || e.2 == f32Inf false) then nanPart f.dim p
  else
    let m := ss.foldl (fun a e => fMax a e.2) p.m2
    if m == f32Inf true then p else
    let alpha := if p.m2 == m then f32One else if p.m2 == f32Inf true then f32Zero else fExp2 (fSub p.m2 m)
    let ps := ss.map (fun e => (e.1, if e.2 == f32Inf true then f32Zero else fExp2 (fSub e.2 m)))
    let l := ps.foldl (fun a e => fAdd a e.2) (fMul p.l alpha)
    let weight := fun (t : Nat) => fvDy (f32Dec (((ps.find? (fun e => e.1 == t)).map (·.2)).getD f32Zero))
    let ws := ((cut 32 ((List.range 64).map weight)).map (convertAsym (atArray c))).flatten
    let col := fun (i : Nat) => (List.range 64).map (fun t => if b.tokens.contains t then (vals t).getD i { v := 0 } else { v := 0 })
    let o := p.o.zipIdx.map (fun (x, i) => fAdd (fMul x alpha) (valueSum (atArray c) ws (col i)))
    { p with m2 := m, l := l, o := o, oov := p.oov || o.any isInf }

/-- The partials of an item, in the order row, then head. -/
def itemParts (c : Cmd) (f : Format) (rope : Option Rope) (retrieved : List Nat) (bs : List Block) : List Part :=
  let factor := scoreFactor c f
  let globals := globalList c f
  ((List.range (atRows c)).map (fun r =>
    let mine := bs.map (fun b => (admittedTo c globals retrieved b.view (rowPos c f r), b))
    (List.range (atHeads c f)).map (fun h =>
      let q := query c f rope r h
      mine.foldl (fun p (e : List Nat × Block) => stepPart c f factor q e.1 e.2 p) (emptyPart f.dim)))).flatten

/-! The hub's merge and the report (R130, R144, R145) -/

/-- Merges the item partials of one row and head, in ascending item index. -/
def mergeParts (d : Nat) (ps : List Part) : Part :=
  let flags : Part := { emptyPart d with nan := ps.any (·.nan), sov := ps.any (·.sov) || (ps.any (·.nanScore) && !ps.any (·.nan)), oov := ps.any (·.oov), empty := ps.all (·.empty) }
  if ps.any (fun p => isNan p.m2) then nanPart d flags
  else
    let m := ps.foldl (fun a p => fMax a p.m2) (f32Inf true)
    if m == f32Inf true then flags
    else
      let ws := ps.map (fun p => if p.m2 == f32Inf true then f32Zero else fExp2 (fSub p.m2 m))
      let sum := fun (xs : List F32) => match xs with | [] => f32Zero | x :: t => t.foldl fAdd x
      let o := (List.range d).map (fun i => sum (ps.zipWith (fun p w => fMul (p.o.getD i 0) w) ws))
      { flags with m2 := m, l := sum (ps.zipWith (fun p w => fMul p.l w) ws), o := o, oov := flags.oov || o.any isInf }

/-- RNE(ln 2). -/
def ln2F32 : F32 := 0x3F317218

/-- The output record of a partial (R150): o, m in natural-log units, l. -/
def partBytes (p : Part) : List Byte :=
  (p.o.map (fun x => leBytes 4 x.toNat)).flatten ++ leBytes 4 (fMul p.m2 ln2F32).toNat ++ leBytes 4 p.l.toNat

end Sys2Proof.Machine
end

