-- ==== Sys2Proof/Machine/ClnState.lean ====
section
/-! DEFINITION. The state of Cloni and the host interface (file 02), the fuses (file 00), and the record of what leaves the block. -/

namespace Sys2Proof.Machine

/-- What the fuses hold: variant, enabled cores, identity, SVN and key revocations (R8, R37, R85, R459). -/
structure Fuse where
  variant : Variant := .a
  coreMap : Nat := 2 ^ 72 - 1
  uid     : BitVec 128 := 1
  svn     : Nat := 0
  revoked : Nat := 0
deriving DecidableEq, Repr

/-- The headers of a transport frame in Ethernet mode (R336): the source MAC address, the 802.1Q tag as (PCP, VLAN identifier), the version of IP with DSCP, ECN, hop limit or TTL and flow label, the IP address it goes to, and the UDP ports. In IPv4 there are no options, DF is set and the identification is 0. -/
structure EthHead where
  mac     : List Byte
  tag     : Option (Nat × Nat)
  v6      : Bool
  dscp    : Nat
  ecn     : Nat := 0
  ttl     : Nat := 64
  label   : Nat
  dstIp   : Nat
  srcPort : Nat
  dstPort : Nat
deriving DecidableEq, Repr

/-- What happens on a link as seen from outside: the frames and control messages that a port sends (files 11, 12). -/
inductive LinkOut where
  | data (cls hopsLeft lseq : Nat) (f : TFrame)
  | ack (ackSeq : Nat)
  | nak (ackSeq : Nat)
  | credit (cls units : Nat)
  | control (kind width token lanes : Nat) (uid : BitVec 128)
  | creditInit (credits : List Nat)
  | notReady (backoffUs reason : Nat)
  | ptp (kind domain : Nat) (ds : Option ClockDs)
  | hello (d : Disc)
  | query (d : Disc)
  | reply (d : Disc)
  | claim (hops : Nat) (d : Disc)
  | eth (h : EthHead) (f : TFrame)
  | ethControl (kind : EthKind) (dstIp dstPort : Nat) (d : Disc)
  | pfc (cls : Nat) (pause : Bool)
  | prbs
deriving DecidableEq, Repr

/-- What leaves the block, in the order in which it leaves: writes to host memory with their relaxed-ordering attribute (R32), MSI-X vectors, answers to reads and configuration requests, link frames, MCTP and SPDM replies, JTAG data. -/
inductive Out where
  | hostWrite (addr : Nat) (bytes : List Byte) (relaxed : Bool)
  | msix (vector : Nat)
  | readData (value : Word)
  | config (retry : Bool) (value : Nat)
  | link (port : Nat) (l : LinkOut)
  | mctp (bytes : List Byte)
  | spdm (path : MctpPath) (code : Nat) (body : List Byte)
  | jtag (value : BitVec 128)
deriving DecidableEq, Repr

/-- When a command or word was accepted, and the MCTP endpoint from which it came (R48, R72, R74, R77). -/
structure Accept where
  time : Nat := 0
  eid  : Nat := 0
deriving DecidableEq, Repr

/-- An inbound word that Cloni accepted, with the copy of PARAM (R44) and its place in the acceptance order (R72). -/
structure Accepted where
  word  : Word
  param : List Byte
  oid   : Nat
  acc   : Accept
deriving DecidableEq, Repr

/-- A reply of a mailbox channel: RESULT bytes and the CLN_MBX_OUT word (R39, R46). -/
structure Reply where
  word   : Word
  bytes  : List Byte
  /-- The bytes of RESULT that the reply places there, for the MCTP framing of R48. -/
  len    : Nat
deriving DecidableEq, Repr

/-- A mailbox channel (R39). -/
structure Mbx where
  inWord     : Word := 0
  full       : Bool := false
  collision  : Bool := false
  inEmptied  : Bool := false
  outFull    : Bool := false
  paramReject : Bool := false
  irqEn      : Bool := false
  collisions : Nat := 0
  param      : List Byte := zeros 256
  result     : List Byte := zeros 256
  outWord    : Word := 0
  accepted   : List Accepted := []
  replies    : List Reply := []
  /-- The MCTP endpoint from which the channel's latest request came (R48). -/
  eid        : Nat := 0
deriving DecidableEq, Repr

/-- The states of a ring (R61). -/
inductive RingState where
  | disabled | active | stopped | draining
deriving DecidableEq, Repr

/-- The value of a ring state (R61). -/
def ringStateCode : RingState → Nat
  | .disabled => 0
  | .active => 1
  | .stopped => 2
  | .draining => 3

/-- A ring pair (R51, R53, R55-R61). -/
structure Ring where
  state    : RingState := .disabled
  sqLog2   : Nat := 0
  cqLog2   : Nat := 0
  vector   : Nat := 0
  cls      : Nat := 0
  noVector : Bool := false
  sqBase   : Nat := 0
  cqBase   : Nat := 0
  ctx      : Nat := 0
  coalCount : Nat := 0
  coalUs   : Nat := 0
  hdlQueue : Nat := 0
  head     : Nat := 0
  tail     : Nat := 0
  cqWrite  : Nat := 0
  cqHead   : Nat := 0
  phase    : Bool := true
  outstanding : Nat := 0
  coalN    : Nat := 0
  coalSince : Option Nat := none
  /-- The mailbox channel and TAG of the RING.DESTROY that started the draining. -/
  destroyBy : Option (Nat × Nat) := none
  /-- Descriptors fetched and not completed, oldest first, by order number; R53's FENCE waits on them. -/
  live     : List Nat := []
deriving DecidableEq, Repr

/-- The event queue (R49, R463). -/
structure EventQueue where
  base     : Nat
  headAddr : Nat
  log2     : Nat
  write    : Nat := 0
  phase    : Bool := true
  head     : Nat := 0
  lastRead : Option Nat := none
  dropped  : Nat := 0
deriving DecidableEq, Repr

/-- The end of a command: its status, results, ordinary output, detail block (R54) and retry-after hint. -/
structure Done where
  status : Status := .success
  r0     : Nat := 0
  r1     : Nat := 0
  output : List Byte := []
  /-- The command's ordinary output space: the least OUT_LEN its checks require (R54). -/
  space  : Nat := 0
  detail : Option (List Byte) := none
  hint   : Nat := 0
  /-- The output is delivered poisoned (R192). -/
  poisoned : Bool := false
  /-- Runs of the output, offset and length, that are delivered poisoned in Ember (R258). -/
  badRuns : List (Nat × Nat) := []
  /-- Bytes of output that were written before the end (R390). -/
  placed : Nat := 0
deriving DecidableEq, Repr

/-- A command that is accepted and not dispatched, with its place in the acceptance order (R72). -/
structure Live where
  oid : Nat
  cmd : Cmd
  acc : Accept
deriving DecidableEq, Repr

/-- A completed ring command that waits for its completion record (R58). -/
structure Finished where
  oid  : Nat
  cmd  : Cmd
  done : Done
deriving DecidableEq, Repr

/-- What an order demands of its target: a rank of a family of R73, or a value. -/
inductive Order where
  | service (rank : Nat)
  | activation (rank : Nat)
  | content (rank : Nat)
  | value (v : Nat)
deriving DecidableEq, Repr

/-- The target object of an order (R74): the UNIT and the object within it. -/
structure Target where
  unit : Nat
  obj  : Nat
deriving DecidableEq, Repr

/-- The most recent order applied to a target (R74-R76). -/
structure Applied where
  target : Target
  issuer : Issuer
  cid    : Nat
  ctx    : Nat
  order  : Order
  acc    : Accept
deriving DecidableEq, Repr

/-- A new value that governs from the next sweep (R529). -/
inductive Change where
  | seed (param value : Nat)
  | glean (param value : Nat)
  | olnen (param value : Nat)
  | health (param value : Nat)
  | kilnAdmit (slots limit : Nat)
  | nothing
deriving DecidableEq, Repr

/-- A change that waits for the next sweep, and the completion posted with it. -/
structure Staged where
  oid    : Nat
  cmd    : Cmd
  done   : Done
  change : Change
deriving DecidableEq, Repr

/-- The start-up phases of CLN_STATUS.PHASE (R37). -/
inductive Phase where
  | bootRom | fwAuth | fwRun | unitsStarting | fullService | fault | restarting
deriving DecidableEq, Repr

/-- The value of a phase (R37). -/
def phaseCode : Phase → Nat
  | .bootRom => 0
  | .fwAuth => 1
  | .fwRun => 2
  | .unitsStarting => 3
  | .fullService => 4
  | .fault => 5
  | .restarting => 6

/-- CLN_SOW_STATUS (R37). -/
structure Sow where
  divergent  : Bool := false
  emptyPlot  : Bool := false
  lastDivergent : Bool := false
  lastEmpty  : Bool := false
  lastDiffer : Nat := 0x1FF
  lastClass  : Nat := 0
  lastOffset : Nat := 0
deriving DecidableEq, Repr

/-- One MSI-X table entry (R36, R32). -/
structure MsixEntry where
  addr   : Nat := 0
  data   : Nat := 0
  masked : Bool := true
deriving DecidableEq, Repr

/-- What the function's configuration space holds (R32, R35): the BAR bases, Device Control, the power state, and the MSI-X enable and function mask. The spec gives no reset value; log entry 76 names these. -/
structure PciCfg where
  bar0 : Nat := 0
  bar2 : Nat := 0
  bar4 : Nat := 0
  devCtl : Nat := 0x2810
  d3hot : Bool := false
  msixEnable : Bool := true
  msixMask : Bool := false
deriving DecidableEq, Repr

/-- Cloni and the host interface. Absent keys of the tables stand for the reset value of their entries. -/
structure Cln where
  phase      : Phase := .bootRom
  ready      : Bool := false
  lockstepFault : Bool := false
  restartCount : Nat := 0
  /-- The phase to return to after a restart (R79, R80). -/
  resume     : Phase := .bootRom
  fetchHold  : Bool := false
  heartbeat  : Nat := 0
  sow        : Sow := {}
  dbDrop     : Nat := 0
  badCount   : Nat := 0
  badOffset  : Nat := 0
  badBar     : Nat := 0
  mismatches : List Nat := []
  plotEmb    : Tbl Nat := []
  plotOln    : Tbl Nat := []
  plotFld    : Tbl Nat := []
  msix       : Tbl MsixEntry := []
  cfg        : PciCfg := {}
  pba        : List Nat := []
  mbx        : Tbl Mbx := []
  rings      : Tbl Ring := []
  eq         : Option EventQueue := none
  /-- The next order number. -/
  nextOid    : Nat := 0
  fetched    : List Live := []
  inflight   : Tbl Cmd := []
  done       : List Finished := []
  /-- When each command in flight was accepted, by order number. -/
  accepts    : Tbl Accept := []
  /-- The order number of the command that Cloni executes now. -/
  current    : Nat := 0
  /-- Remote commands that ended while Cloni restarts, whose answers are posted after the restart (R80). -/
  heldDone   : List Finished := []
  orders     : List Applied := []
  staged     : List Staged := []
  flr        : Bool := false
  /-- Commands whose completion a function-level reset discards (R84). -/
  discard    : List Nat := []
  /-- Descriptors fetched in the present sweep (R72). -/
  sweepFetched : Nat := 0
  /-- Whether Cloni is authenticated since PERST# deassertion, so configuration is served (R33). -/
  fwAuthed   : Bool := false
deriving DecidableEq, Repr

end Sys2Proof.Machine
end

