-- ==== Sys2Proof/Machine/GlnState.lean ====
section
/-! DEFINITION. The state of Gleaner (file 10). -/

namespace Sys2Proof.Machine

/-- A version of an item (R302): its summary as fp16, what R297 computes from it, whether its record still lies in the side list (R305), and the command whose completion makes it usable, if that is still to come (R303). -/
structure GVersion where
  tokens  : Nat
  summary : List Nat
  sketch  : Nat
  list    : Nat
  code    : List Nat
  side    : Bool := true
  waits   : Option Nat := none
deriving DecidableEq, Repr

/-- An item of a swath (R295): versions newest first. A retired item keeps its slot until the merge (R311). -/
structure GItem where
  seq     : Nat
  layer   : Nat
  group   : Nat
  idx     : Nat
  basePos : Nat
  versions : List GVersion := []
  stale   : Bool := false
  retired : Bool := false
deriving DecidableEq, Repr

/-- A swath (R294, R298). -/
structure Swath where
  ctx       : Nat
  pooled    : Bool
  dims      : Nat
  listsLog2 : Nat
  itemsLog2 : Nat
  nprobe    : Nat
  screen    : Nat
  rerank    : Nat
  waves     : Nat
  step      : Nat
  mean      : List Nat
  proj      : List Byte
  coarse    : List (List Nat)
  pq        : List (List (List Nat))
  bytes     : Nat
  items     : Tbl GItem := []
  nextSlot  : Nat := 0
  wraps     : Nat := 0
  merging   : Bool := false
  /-- Dropped, and kept until the searches accepted before have completed (R309). -/
  dropped   : Bool := false
deriving DecidableEq, Repr

/-- A binding of a layer of a sequence (R301). -/
structure Binding where
  swath  : Nat
  filter : Nat
  deny   : Bool
deriving DecidableEq, Repr

/-- A posting in the posting queue (R305). -/
structure Posting where
  swath   : Nat
  seq     : Nat
  layer   : Nat
  group   : Nat
  idx     : Nat
  basePos : Nat
  version : GVersion
deriving DecidableEq, Repr

/-- A candidate of a search: slot, item, and the version that R303 selects. -/
structure Candidate where
  slot : Nat
  item : GItem
  ver  : GVersion
deriving DecidableEq, Repr

/-- What a search for a KILN.ATTEND takes at the acceptance of the command: the swath bound, the bitmap as it was read, the versions that R303 selects (R303, R309, R312). -/
structure SearchNote where
  swath : Nat
  deny  : Bool
  map   : Option (List Byte)
  cands : List Candidate
deriving DecidableEq, Repr

/-- What a KILN.ATTEND records at its acceptance while it waits for earlier commands of its sequence: the appends whose tokens it does not see (R24, R133), its copy of the rotary profile (R140), and its search (R309). -/
structure AttendNote where
  unposted : List Nat
  rope     : Option Rope
  search   : Option SearchNote
deriving DecidableEq, Repr

/-- A sheaf to be posted once its body has been fetched, and the command whose completion makes the version usable (R301, R303). -/
structure ToPost where
  seq   : Nat
  layer : Nat
  group : Nat
  idx   : Nat
  waits : Option Nat
deriving DecidableEq, Repr

/-- A visit of a query to a list (R310): the wave in which it comes, and since when the query waits for the list. -/
structure Visit where
  query  : Nat
  list   : Nat
  wave   : Nat
  joined : Option Nat := none
deriving DecidableEq, Repr

/-- A search between acceptance and its end. Its result is settled at acceptance (R303, R308, R312); `todo` are the visits still to be made, in the order of their waves (R310). -/
structure GSearch where
  oid     : Nat
  swath   : Nat
  attend  : Bool
  queries : Nat
  todo    : List Visit
  done    : Done := {}
deriving DecidableEq, Repr

/-- A GLEAN.MERGE that waits for its swaths. -/
structure GMerge where
  oid    : Nat
  left   : List Nat
  merged : Nat := 0
deriving DecidableEq, Repr

/-- Gleaner. Bindings lie under key SEQ * 4,096 + LAYER. Parameters without an entry have the default of R318. -/
structure Gln where
  swaths   : Tbl Swath := []
  bindings : Tbl Binding := []
  queue    : List Posting := []
  toPost   : List ToPost := []
  unbound  : List Nat := []
  searches : Tbl GSearch := []
  nextSearch : Nat := 0
  merges   : List GMerge := []
  params   : Tbl Nat := []
  busy     : Nat := 0
  /-- By order number: what the KILN.ATTENDs that wait for earlier commands recorded. -/
  notes    : Tbl AttendNote := []
  /-- When the sketch screen will have done the visits begun so far (R310). -/
  screenEnd : Nat := 0
  /-- How many queries left the queue, newest first, within 1 ms: time and number (R316). -/
  served   : List (Nat × Nat) := []
deriving DecidableEq, Repr

end Sys2Proof.Machine
end

