-- ==== Sys2Proof/Machine/TrnState.lean ====
section
/-! DEFINITION. The state of the Olnen transport and of remote memory (file 12). -/

namespace Sys2Proof.Machine

/-- A DATA frame of a flow, in its traffic class. -/
structure OutFrame where
  frame : TFrame
  cls   : Nat
deriving DecidableEq, Repr

/-- A message that a flow has received in part (R382). -/
structure Inbound where
  op    : Nat
  tag   : Nat
  len   : Nat
  bytes : List Byte
deriving DecidableEq, Repr

/-- A flow slot (R364): the outbound half with its congestion state (R376), then the inbound half. Times are in ns. -/
structure Slot where
  epoch     : Nat := 0
  seq       : Nat := 0
  /-- Frames that hold a SEQ: not yet sent, and sent and not acknowledged. -/
  waiting   : List OutFrame := []
  unacked   : List OutFrame := []
  opened    : Bool := false
  cwnd      : Nat
  srtt      : Nat := 0
  rttvar    : Nat := 0
  sampled   : Bool := false
  rtts      : List (Nat × Nat) := []
  decreased : Nat := 0
  timeouts  : Nat := 0
  progress  : Nat := 0
  gapAt     : Option Nat := none
  /-- Until when a back-off holds the flow, and whether its frames are to be resent then (R373). -/
  holdUntil : Nat := 0
  resendDue : Bool := false
  pacedUntil : Option Nat := none
  resent    : Nat := 0
  peerBoot  : Option Nat := none
  /-- The address epoch under which the peer was known when the slot began (R364). -/
  peerEpoch : Option Nat := none
  /-- Next hop, queue of each class on it, as last chosen (R347, R409). -/
  port      : Option Nat := none
  queues    : Tbl Nat := []
  inEpoch   : Option Nat := none
  expected  : Nat := 0
  unackedIn : Nat := 0
  ackSince  : Option Nat := none
  echo      : Nat := 0
  echoAt    : Nat := 0
  gapSent   : Option Nat := none
  part      : Option Inbound := none
  cls       : Nat := 0
  lastUse   : Nat := 0
deriving DecidableEq, Repr

/-- A tombstone (R365). -/
structure Tombstone where
  inEpoch  : Nat
  expected : Nat
  until_   : Nat
deriving DecidableEq, Repr

/-- What an operation is (R377, R387). -/
inductive OpKind where
  | load | store | atomic | counterAdd | coreMsg | command | flag
deriving DecidableEq, Repr

/-- Whose operation it is: a segment of a command, a Field thread, a member of a multicast, the tier manager's for a body, or the node's own. -/
inductive OpOwner where
  | cmd (oid seg : Nat)
  | thread (core thread : Nat)
  | mcast (n member : Nat)
  | node
  /-- A piece of a body's record on its way to or from a composition, by its offset in the record (R239, R395). -/
  | body (b off : Nat)
deriving DecidableEq, Repr

/-- An operation that holds its tag (R402). -/
structure TOp where
  kind  : OpKind
  owner : OpOwner
  ctx   : Nat
  /-- The flow slot. -/
  key   : Nat
  bytes : Nat := 0
  counter : Nat := 0xFFFF
deriving DecidableEq, Repr

/-- A command that waits for its operations: segments left, their number, the first refusal, the result. -/
structure Xfer where
  left   : Nat
  segs   : Nat
  bad    : Option Status := none
  result : Nat := 0
  placed : Nat := 0
deriving DecidableEq, Repr

/-- A held flagged store (R387): its frame, the earlier stores not yet acknowledged, and the first that was lost. -/
structure Flag where
  ctx   : Nat
  cid   : Nat
  out   : OutFrame
  waits : List Nat
  lost  : Option Nat := none
deriving DecidableEq, Repr

/-- A multicast under way (R351, R352): for each member the status that arrived and the attempts. -/
structure Mcast where
  oid      : Nat
  ctx      : Nat
  srcCtx   : Nat
  group    : Nat
  cid      : Nat
  cls      : Nat
  message  : List Byte
  members  : List (Nat × Nat)
  status   : List (Option Status)
  attempts : List Nat
  deadline : Nat
  ended    : Bool := false
  retryAt  : Nat := 0
  tries    : Nat := 0
deriving DecidableEq, Repr

/-- A job (R379). -/
structure Job where
  ctx     : Nat
  command : Bool
  members : List (Nat × Nat)
deriving DecidableEq, Repr

/-- A window (R380). `dir` is the directory of a coherent one, in the form of R393, an absent line being uncached, and `dirEda` where the chunks that it takes in Ember begin (R392). -/
structure Window where
  ctx      : Nat
  job      : Nat
  region   : Nat
  off      : Nat
  len      : Nat
  read     : Bool
  write    : Bool
  atomic   : Bool
  coherent : Bool
  dir      : Tbl Nat := []
  dirEda   : Nat := 0
deriving DecidableEq, Repr

/-- A host's wait on an arrival counter (R389). -/
structure CounterWait where
  oid     : Nat
  counter : Nat
  target  : Nat
  until_  : Nat
deriving DecidableEq, Repr

/-- A message of a remote command queue (R384). -/
structure RCmd where
  cmd : Cmd
  cls : Nat
deriving DecidableEq, Repr

/-- A line of the remote line cache (R392, R393); `owned` is state M, else S. -/
structure CacheLine where
  home   : Nat
  window : Nat
  line   : Nat
  owned  : Bool
  data   : List Byte
deriving DecidableEq, Repr

/-- What follows once a home's recall or invalidations are done (R393): a member's request, a frame, an access of the home's own. -/
inductive CohThen where
  | get (member : Nat) (excl : Bool)
  | frame (f : OutFrame)
  | access (eda : Nat) (data : List Byte) (poisoned : Bool)
deriving DecidableEq, Repr

/-- A home's wait for a line: members that still answer a RECALL or INV, whether every copy is given up, what follows, and what waits behind it. -/
structure CohWait where
  window : Nat
  line   : Nat
  from_  : List Nat
  excl   : Bool
  next   : CohThen
  later  : List (Bool × CohThen) := []
deriving DecidableEq, Repr

/-- A member's access that waits for a line (R393). -/
structure CohPend where
  home   : Nat
  window : Nat
  line   : Nat
  off    : Nat
  core   : Nat
  thread : Nat
  kind   : Nat
  operand : Nat
  swap   : Nat
deriving DecidableEq, Repr

/-- A frame delivered to the node: where it came in, with its class. -/
structure Arrived where
  port  : Nat
  out   : OutFrame
deriving DecidableEq, Repr

/-- The transport. Slots and tombstones lie under key context * 2^24 + remote node * 2^12 + remote context. -/
structure Trn where
  /-- This start's boot identity (R367). -/
  boot     : Nat := 0
  /-- Epochs given to flow slots so far. -/
  epochs   : Nat := 0
  slots    : Tbl Slot := []
  tombs    : Tbl Tombstone := []
  /-- Frames that wait for a flow slot (R366). -/
  slotWait : List (Nat × OutFrame) := []
  refused  : Nat := 0
  ops      : Tbl TOp := []
  nextTag  : Nat := 0
  tagWaits : Nat := 0
  xfers    : Tbl Xfer := []
  flags    : Tbl Flag := []
  mcasts   : Tbl Mcast := []
  nextMcast : Nat := 0
  jobs     : Tbl Job := []
  windows  : Tbl Window := []
  counterOwner : Tbl Nat := []
  counters : Tbl Nat := []
  waits    : List CounterWait := []
  rqueues  : Tbl (List RCmd) := []
  /-- Remote commands accepted whose message was protected (R448): source node, source context, context, tag. -/
  protCmds : List (Nat × Nat × Nat × Nat) := []
  /-- Field threads that wait for a remote access: core, thread, tag (R391). -/
  blocked  : List (Nat × Nat × Nat) := []
  arrived  : List Arrived := []
  e2eDrops : Nat := 0
  /-- Boot identities that the node holds dead (R398): node and SRC_BOOT. -/
  dead     : List (Nat × Nat) := []
  /-- The stook's members in order (R392), and the members whose list differs. -/
  members  : List Nat := []
  differs  : List Nat := []
  cache    : List CacheLine := []
  cohWaits : List CohWait := []
  cohPends : List CohPend := []
deriving DecidableEq, Repr

end Sys2Proof.Machine
end

