-- ==== Sys2Proof/Machine/HdlState.lean ====
section
/-! DEFINITION. The state of Headland (file 13). -/

namespace Sys2Proof.Machine

/-- A class record (R424). -/
structure ClassRec where
  strict  : Bool
  quantum : Nat
  qbase   : Nat
  qcount  : Nat
  rqueue  : Nat
deriving DecidableEq, Repr

/-- The default class record of R424. -/
def classDefault (c : Nat) : ClassRec := { strict := false, quantum := 8, qbase := 128 * c, qcount := 128, rqueue := 1016 + c }

/-- A frame in a queue: the hops left to it, whether the node forwards it, and the port whose credits it still holds. -/
structure QFrame where
  out  : OutFrame
  hops : Nat
  held : Option Nat := none
deriving DecidableEq, Repr

/-- A deficit round robin (R413, R414): where the next search starts, whether the visit there goes on, the deficits kept. -/
structure Drr where
  cur   : Nat := 0
  visit : Bool := false
  kept  : Tbl Nat := []
deriving DecidableEq, Repr

/-- A queue of an instance: its record (R424), its packets, its next eligible time E in 1/64 ns of fabric time, and the wheel slot in which it waits (R415). -/
structure HQueue where
  quantum  : Nat := 4
  rate     : Nat := 0
  packets  : List QFrame := []
  eligible : Nat := 0
  wheel    : Option Nat := none
deriving DecidableEq, Repr

/-- A rotation (R418, R419): its entries as (duration, gates), PHASE_BASE (once active, the phase base T), TAKEOVER_AT, when it was accepted, and whose order it was. -/
structure Rotation where
  entries   : List (Nat × Nat)
  phaseBase : Nat
  takeover  : Nat
  since     : Nat
  ctx       : Nat
  mgmt      : Option Nat
deriving DecidableEq, Repr

/-- A scheduler instance (R407). Class records and queues without an entry have the defaults of R424. -/
structure HInst where
  classes : Tbl ClassRec := []
  queues  : Tbl HQueue := []
  /-- Frames of TYPE ACK, NACK and NOTICE (R410). -/
  express : List QFrame := []
  cdrr    : Drr := {}
  qdrr    : Tbl Drr := []
  /-- On the fetch instance: where the turn among the rings and remote command queues of a class and queue goes on, under class * 1,024 + queue (R411). -/
  turns   : Tbl Nat := []
  sent    : Tbl Nat := []
  rotation : Option Rotation := none
  pending : Option Rotation := none
  stopAt  : Option Nat := none
deriving DecidableEq, Repr

/-- Headland: instances 0 to 15 are the ports', 16 the fetch instance. -/
structure Hdl where
  insts : Tbl HInst := []
deriving DecidableEq, Repr

end Sys2Proof.Machine
end

