-- ==== Sys2Proof/Machine/HltState.lean ====
section
/-! DEFINITION. The state of the health functions (file 15). -/

namespace Sys2Proof.Machine

/-- An event record (R462) without its PHASE, which belongs to its place in the event queue. -/
structure EvRec where
  code     : EventCode
  injected : Bool
  lost     : Bool := false
  ctx      : Nat
  /-- The management channel that the record is raised to, as R48 numbers it. -/
  mgmt     : Option Nat
  time     : Nat
  seq      : Nat
  count    : Nat
  detail   : List Byte
deriving DecidableEq, Repr

/-- The rate limit of one code and object (R466): last record and occurrences suppressed since. -/
structure Limit where
  code : EventCode
  obj  : Nat
  last : Nat
  held : Nat
deriving DecidableEq, Repr

/-- An arm of a spark point (R469): its ARGS as armed, when it takes effect, opportunities seen and fires made. -/
structure Arm where
  spark    : Nat
  inst     : Nat
  mode     : Nat
  n        : Nat
  delayUs  : Nat
  value    : Nat
  fires    : Nat
  issuer   : Nat
  /-- The management channel of the arming issuer, if it is one. -/
  mgmt     : Option Nat
  from_    : Nat
  effective : Bool
  seen     : Nat := 0
  made     : Nat := 0
  bytes    : List Byte
deriving DecidableEq, Repr

/-- The part classes of R481 and their numbers in the fence history: core, Ember channel, lane, port, Peat group. -/
inductive PartClass where
  | core | channel | lane | port | peat
deriving DecidableEq, Repr

/-- The CLASS number of R481. -/
def partClassCode : PartClass → Nat
  | .core => 0
  | .channel => 1
  | .lane => 2
  | .port => 3
  | .peat => 4

/-- A fence of the history (R481). -/
structure FenceRec where
  time     : Nat
  cls      : PartClass
  cause    : Nat
  inst     : Nat
  injected : Bool
  unsync   : Bool
  retired  : Bool
deriving DecidableEq, Repr

/-- The tally (R478-R481). Part records lie under key class * 1024 + instance, their counts by field number in the order of R481. -/
structure Tally where
  /-- Powered time in ns up to `poweredFrom`. -/
  poweredNs  : Nat := 0
  powerCycles : Nat := 0
  unclean    : Nat := 0
  thermalCycles : Nat := 0
  peakFieldC : Nat := 0
  peakHubC   : Nat := 0
  fwUpdates  : Nat := 0
  restarts   : Nat := 0
  fences     : Nat := 0
  injected   : Nat := 0
  firstPowerOn : Nat := 0
  lastWrite  : Nat := 0
  calendarValid : Bool := true
  unsync     : Bool := true
  parts      : Tbl (Tbl Nat) := []
  history    : List FenceRec := []
deriving DecidableEq, Repr

/-- The trend record of a part (R484-R486): counts of the current 24 h by input, up to 30 completed days, score and alert. -/
structure Strain where
  today : Tbl Nat := []
  days  : List (Tbl Nat) := []
  score : Nat := 0
  high  : Bool := false
deriving DecidableEq, Repr

/-- The phases of a drain (R489); 0 stands for none. -/
inductive DrainPhase where
  | none | copy | catchUp | quiesce | ready | done | failed
deriving DecidableEq, Repr

/-- The code of a drain phase (R489). -/
def drainPhaseCode : DrainPhase → Nat
  | .none => 0
  | .copy => 1
  | .catchUp => 2
  | .quiesce => 3
  | .ready => 4
  | .done => 5
  | .failed => 6

/-- A drain (R488-R492). -/
structure Drain where
  phase    : DrainPhase := .none
  oid      : Option Nat := none
  standIn  : Nat := 0
  hotOnly  : Bool := false
  deltaMib : Nat := 256
  /-- Contexts that the stand-in cannot take (R490). -/
  notCarried : List Nat := []
  /-- When the copy or round in progress began, and the bytes that it was to copy. -/
  roundFrom : Nat := 0
  marked   : Nat := 0
  copied   : Nat := 0
  /-- The sequences left behind, as READY found them. -/
  left     : List Nat := []
  /-- Consecutive rounds that have not reduced the marked bytes (R492). -/
  stuck    : Nat := 0
  /-- Who is told (R467): context, or management channel. -/
  issuer   : Nat := 0
  mgmt     : Option Nat := none
deriving DecidableEq, Repr

/-- A tenant record (R494). EMBER_KIB_S and PEAT_KIB_S are kept in 512 bytes times ms. -/
structure Tenant where
  kilnBeats   : Nat := 0
  emberMs     : Nat := 0
  peatMs      : Nat := 0
  fabricTx    : Nat := 0
  fabricRx    : Nat := 0
  searches    : Nat := 0
  comparisons : Nat := 0
deriving DecidableEq, Repr

/-- A composition's metering record (R495). -/
structure CompRec where
  comp    : Nat
  peer    : Nat
  lender  : Bool
  cause   : Nat
  allots  : Nat
  granted : Nat
  ended   : Nat
  heldMs  : Nat
deriving DecidableEq, Repr

/-- The health functions. Parameters without an entry have the default of R499. -/
structure Hlt where
  /-- The number of event records so far; the next record's SEQ (R462). -/
  seq       : Nat := 0
  log       : List EvRec := []
  acked     : Option Nat := none
  limits    : List Limit := []
  arms      : Tbl Arm := []
  tally     : Tally := {}
  tallySaved : Tally := {}
  strain    : Tbl Strain := []
  strainSaved : Tbl Strain := []
  /-- Completed days of powered time, and as last written (R484). -/
  strainDay : Nat := 0
  strainDaySaved : Nat := 0
  /-- Since when powered time is still to be added to the tally. -/
  poweredFrom : Nat := 0
  /-- Counted fences of a unit within the window: key class * 1024 + instance, times (R477). -/
  fenceTimes : Tbl (List Nat) := []
  retired   : List Nat := []
  trough    : Nat := 0
  peak      : Nat := 0
  peakSet   : Bool := false
  straggler : Bool := false
  stragglerSince : Option Nat := none
  stragglerOkSince : Option Nat := none
  drain     : Drain := {}
  tenants   : Tbl Tenant := []
  comps     : List CompRec := []
  params    : Tbl Nat := []
deriving DecidableEq, Repr

end Sys2Proof.Machine
end

