-- ==== Sys2Proof/Machine/ModState.lean ====
section
/-! DEFINITION. The state of the module board (file 16): power, reset, sensors, throttles, shutdown, management ports, activity outputs. -/

namespace Sys2Proof.Machine

/-- The main rails (R510). -/
inductive Rails where
  | off | rising | stable
deriving DecidableEq, Repr

/-- A thermal trip (R517): latched until PWR_EN is deasserted, then cooling until PWR_EN rises while every die sensor reads 20 K below its trip threshold. -/
inductive Trip where
  | none | latched | cooling
deriving DecidableEq, Repr

/-- A temperature sensor (R515): its reading, whether its throttle is in force, whether MODULE_HOT has been raised for the crossing (and STACK_HOT for a stack), since when the coolant inlet has been hot. -/
structure Sensor where
  temp     : Nat := 0
  throttle : Bool := false
  hot      : Bool := false
  stackHot : Bool := false
  since    : Option Nat := none
deriving DecidableEq, Repr

/-- The module board. -/
structure Mod where
  /-- The zero of the start-up timeline (R510). -/
  t0       : Nat := 0
  rails    : Rails := .stable
  /-- PWR_EN and PERST# as the host drives them. -/
  pwrEn    : Bool := true
  perst    : Bool := false
  /-- The input has passed the lockout, and the overvoltage shutdown has not acted (R509). -/
  inputUp  : Bool := true
  trip     : Trip := .none
  /-- Whether the boot ROM has begun a start that no power loss has ended yet, and whether it halted (R459). -/
  running  : Bool := true
  halted   : Bool := false
  /-- The latest orderly shutdown has completed and no start has followed (R512). -/
  orderly  : Bool := false
  /-- Whether the signatures of the two banks verify, as the boot ROM will find once the rails are stable. -/
  sigs     : Option (Bool × Bool) := none
  /-- REFCLK was present at PERST# deassertion (R508). -/
  refclk   : Bool := false
  fieldTested : Bool := false
  /-- MOD.SHUTDOWN: its order number while it runs, and whether it has completed. -/
  stopOid  : Option Nat := none
  stopping : Bool := false
  shutdown : Bool := false
  sensors  : Tbl Sensor := []
  /-- Supply ceilings in mV, by sensor; one without an entry stands at the target (R533). -/
  ceilings : Tbl Nat := []
  fieldC   : Nat := 0
  flow     : Nat := 0
  /-- SMB_ADDR2..0; unconnected they read 1 each (R507). -/
  strap    : Nat := 7
  inputMv  : Nat := 52000
  inputDa  : Nat := 0
  /-- Since when R28 holds core supply below its target. -/
  heldSince : Option Nat := none
  /-- The RTC's time less the reference time base, in ns. -/
  rtc      : Int := 0
  /-- The records of the management ports (R521), and the endpoint IDs of the MCTP bindings (R520), by the number of the path. -/
  mgmt     : Tbl (List Byte) := []
  eids     : Tbl Nat := []
  /-- The activity outputs that are driven low, with the time of release (R505). -/
  act      : Tbl Nat := []
deriving DecidableEq, Repr

end Sys2Proof.Machine
end

