-- ==== Sys2Proof/Machine/OlnState.lean ====
section
/-! DEFINITION. The state of the Olnen links, of discovery, routing, multicast groups and fabric time (file 11). -/

namespace Sys2Proof.Machine

/-- The states of a port (R328). -/
inductive PortState where
  | down | training | hold | active | retrain | resize | loopback | mismatch
deriving DecidableEq, Repr

/-- The code of a port state (R328). -/
def portStateCode : PortState → Nat
  | .down => 0
  | .training => 1
  | .hold => 2
  | .active => 3
  | .retrain => 4
  | .resize => 5
  | .loopback => 6
  | .mismatch => 7

/-- The states of a lane (R362). -/
inductive LaneState where
  | active | idle | lost | quarantine | fenced | down
deriving DecidableEq, Repr

/-- The code of a lane state (R362). -/
def laneStateCode : LaneState → Nat
  | .active => 0
  | .idle => 1
  | .lost => 2
  | .quarantine => 3
  | .fenced => 4
  | .down => 5

/-- The service states of a port (R362). -/
inductive Service where
  | service | restricted | fenced | quarantine
deriving DecidableEq, Repr

/-- The code of a service state (R362). -/
def serviceCode : Service → Nat
  | .service => 0
  | .restricted => 1
  | .fenced => 2
  | .quarantine => 3

/-- A lane: its state, BER_TENTHS, when it was lost or last in quarantine, failed attempts (R335), whether an order keeps it IDLE and whether one asks that it joins (R359), whether it went from FENCED into quarantine, and the ENABLE orders that wait. -/
structure Lane where
  state    : LaneState := .active
  ber      : Nat := 0
  since    : Nat := 0
  tried    : Bool := false
  attempts : Nat := 0
  restricted : Bool := false
  asked    : Bool := false
  wasFenced : Bool := false
  enableBy : List Nat := []
deriving DecidableEq, Repr

/-- A DATA link frame in the replay buffer (R324). -/
structure Replay where
  lseq    : Nat
  cls     : Nat
  hops    : Nat
  frame   : TFrame
  resends : Nat := 0
deriving DecidableEq, Repr

/-- A RETRAIN or RESIZE request, one's own or the one accepted from the partner, with the partner's usable lanes as a mask, whether it is made for lanes that have passed quarantine, and the commands that wait for it (R333-R335). -/
structure PortReq where
  retrain : Bool
  width   : Nat
  token   : Nat
  lanes   : Nat := 15
  joins   : Bool := false
  oids    : List Nat := []
deriving DecidableEq, Repr

/-- OLN_PORT_CTRL (R362). -/
structure PortCtrl where
  autoRejoin : Bool := true
  minWidth   : Nat := 2
deriving DecidableEq, Repr

/-- A port: its page (R362) and its link state. -/
structure Port where
  state     : PortState := .down
  ethernet  : Bool := false
  /-- The Ethernet record (R360). -/
  eth       : List Byte := zeros 64
  service   : Service := .service
  neighAddr : Nat := 0
  neighValid : Bool := false
  neighUid  : Option (BitVec 128) := none
  neighEpoch : Nat := 0
  neighPort : Nat := 0
  lanes     : Tbl Lane := []
  cwCorrected : Nat := 0
  cwUncorrected : Nat := 0
  replays   : Nat := 0
  laneLost  : Bool := false
  retrained : Bool := false
  linkLost  : Bool := false
  discLimited : Bool := false
  retrainCount : Nat := 0
  droppedKind : Nat := 0
  ctrl      : PortCtrl := {}
  shadow    : Option PortCtrl := none
  ptpState  : Nat := 0
  linkDelay : Nat := 0
  ptpOffset : Int := 0
  /-- Ticks of PTP_SYNC_TIMER; Announce goes with every sixteenth. -/
  ptpTicks  : Nat := 0
  /-- Sender: next LSEQ, replay buffer, the last progress of ACK_SEQ, credits by class. -/
  lseq      : Nat := 0
  replay    : List Replay := []
  progress  : Nat := 0
  credits   : Tbl Nat := []
  /-- Receiver: next LSEQ expected, frames accepted since the last acknowledgement, when that is due, and whether a NAK has been sent since the last accepted frame. -/
  expected  : Nat := 0
  unacked   : Nat := 0
  ackSince  : Option Nat := none
  nakSent   : Bool := false
  /-- CREDIT_SHARE as the link trained with it (R326). -/
  share     : Nat := 0x2020202020202020
  /-- Classes that received priority flow control holds (R337). -/
  paused    : List Nat := []
  /-- Classes for which the port has sent XOFF and no XON since (R337). -/
  xoff      : List Nat := []
  request   : Option PortReq := none
  accepted  : Option PortReq := none
  /-- The commands that complete with the RETRAIN or RESIZE in progress. -/
  ending    : List Nat := []
  /-- Lanes that have passed quarantine and join at the next RESIZE. -/
  joining   : List Nat := []
  failures  : Nat := 0
  backoff   : Option Nat := none
  retrains  : List Nat := []
  /-- The token bucket of R341, and the echo replies of the last second (R337). -/
  bucket    : Nat := 16
  bucketAt  : Nat := 0
  echoes    : List Nat := []
  enableBy  : List Nat := []
deriving DecidableEq, Repr

/-- A claim of an address (R342). -/
structure Claim where
  addr  : Nat
  epoch : Nat
  uid   : BitVec 128
deriving DecidableEq, Repr

/-- What an OLNEN.ADDR_SET demands, at fabric time `time` (R342). -/
structure AddrSet where
  addr    : Nat
  release : Bool
  standIn : Bool
  stook   : Nat
  epoch   : Nat
  group   : Nat
  time    : Nat
deriving DecidableEq, Repr

/-- An OLNEN.DISCOVER that waits for its REPLY. -/
structure Discover where
  oid  : Nat
  port : Nat
  time : Nat
deriving DecidableEq, Repr

/-- A multicast group (R350). -/
structure McastGroup where
  ctx     : Nat
  members : List (Nat × Nat)
deriving DecidableEq, Repr

/-- The synchronisation states (R356). -/
inductive Sync where
  | freeRun | acquiring | locked | holdover
deriving DecidableEq, Repr

/-- The code of a synchronisation state (R356). -/
def syncCode : Sync → Nat
  | .freeRun => 0
  | .acquiring => 1
  | .locked => 2
  | .holdover => 3

/-- Olnen's links. The ports 16 and 17 are the management ports, of which only the ticks, state, delay and offset of PTP stand here (R355). Parameters without an entry have the default of R361 and R405. -/
structure Oln where
  ports     : Tbl Port := []
  params    : Tbl Nat := []
  /-- Whether the node accepts discovery (R329). -/
  accepts   : Bool := false
  addr      : Option Nat := none
  addrEpoch : Nat := 0
  standIn   : Bool := false
  /-- The node holds an address that another UID held with a lower epoch when it was taken (R505). -/
  tookOver  : Bool := false
  stook     : Nat := 0xFF
  fieldGroup : Nat := 0
  addrNext  : Option AddrSet := none
  /-- The highest epoch seen for each address, with its UID; and the claims already forwarded (R342). -/
  seen      : Tbl (Nat × BitVec 128) := []
  forwarded : List Claim := []
  routes    : Tbl Nat := []
  standby   : Tbl Nat := []
  swapAt    : Option Nat := none
  mcast     : Tbl McastGroup := []
  discovers : Tbl Discover := []
  /-- Clients behind Ethernet-mode ports, by node address: port and IP address (R338, R364). -/
  clients   : Tbl (Nat × Nat) := []
  /-- Fabric time less the reference time base, and the correction that is being slewed in since a time (R357). -/
  fabOffset : Int := 0
  slew      : Int := 0
  slewFrom  : Nat := 0
  sync      : Sync := .freeRun
  good      : Nat := 0
  master    : Option Nat := none
  /-- What the master said of the best clock when it last announced it (R355). -/
  best      : Option ClockDs := none
  lastSync  : Nat := 0
  ptmFabric : Nat := 0
  ptmHost   : Nat := 0
deriving DecidableEq, Repr

end Sys2Proof.Machine
end

