-- ==== Sys2Proof/Machine/SdbState.lean ====
section
/-! DEFINITION. The state of the Seedbank (file 09). -/

namespace Sys2Proof.Machine

/-- An entry: its key and the fields of its units' control words (R263, R264), its result word (R266), and whether it had a hit since the last age tick (R284). -/
structure SeedEntry where
  key      : Nat
  prio     : Nat
  pinned   : Bool
  auto     : Bool
  age      : Nat := 0
  evicting : Bool := false
  result   : List Byte
  hit      : Bool := false
  /-- Key bits that have flipped in the units and are not yet repaired (R289). -/
  keyFlip  : Nat := 0
  /-- Units, by bit, whose VALID or HEAD has flipped and is not yet repaired. -/
  unseen   : Nat := 0
deriving DecidableEq, Repr

/-- An insert queued in a bank (R278): the command whose record it is, none for a post. -/
structure SeedInsert where
  oid   : Option Nat
  /-- The sequence and sheaf of a post. -/
  post  : Nat × Nat := (0, 0)
  entry : SeedEntry
deriving DecidableEq, Repr

/-- An owned bank (R263, R265): entries by the index of their head unit. A free bank is not listed. -/
structure Bank where
  ctx     : Nat
  width   : Nat
  entries : Tbl SeedEntry := []
  queue   : List SeedInsert := []
deriving DecidableEq, Repr

/-- A SEED.INSERT in progress, or the entry of a post that has fallen due (R277-R280): records still to be placed, records in the banks' queues, records committed. -/
structure Inserting where
  oid      : Option Nat
  /-- The sequence and sheaf of a post. -/
  post     : Nat × Nat := (0, 0)
  ctx      : Nat
  width    : Nat
  records  : List SeedEntry
  inBanks  : Nat := 0
  inserted : Nat := 0
  full     : Bool := false
  overruled : Bool := false
deriving DecidableEq, Repr

/-- What an admitted command searches for (R288). -/
inductive SearchKind where
  | lookup (longest cursors : Bool)
  | step (cursor : Nat) (close : Bool)
  | census (owner : Option Nat) (banks : Nat)
deriving DecidableEq, Repr

/-- An admitted command with its searches not yet performed: keys with their masks, and the records written so far. -/
structure SearchJob where
  oid      : Nat
  ctx      : Nat
  width    : Nat
  kind     : SearchKind
  keys     : List (Nat × Nat)
  out      : List Byte := []
  matched  : Nat := 0
  multi    : Nat := 0
  searched : Nat := 0
deriving DecidableEq, Repr

/-- A cursor (R273, R274): it holds the physical index of the last entry returned. -/
structure Cursor where
  ctx   : Nat
  width : Nat
  key   : Nat
  mask  : Nat
  last  : Nat
  time  : Nat
deriving DecidableEq, Repr

/-- A pending post (R280). -/
structure SeedPost where
  ctx    : Nat
  seq    : Nat
  sheaf  : Nat
  width  : Nat
  key    : Nat
  prio   : Nat
  pinned : Bool
  user   : Nat
deriving DecidableEq, Repr

/-- The Seedbank. Parameters without an entry have the default of R290. -/
structure Sdb where
  banks     : Tbl Bank := []
  inserting : List Inserting := []
  jobs      : List SearchJob := []
  cursors   : Tbl Cursor := []
  posts     : List SeedPost := []
  params    : Tbl Nat := []
  rate      : Nat := 2000
  tempC     : Nat := 0
  busy      : Nat := 0
deriving DecidableEq, Repr

end Sys2Proof.Machine
end

