-- ==== Sys2Proof/Machine/SecState.lean ====
section
/-! DEFINITION. The state of the security unit (file 14): contexts, key slots, binding groups, firmware banks, SPDM. -/

namespace Sys2Proof.Machine

/-- A context (R428, R429): its descriptor and what the descriptor says; the next LINEAGE (R447); its profiling counters in the order of R496; the CONTEXT.DESTROY that waits for its bodies (R432). -/
structure Ctx where
  desc     : List Byte := zeros 64
  resident : Bool := true
  tenant   : Nat := 0
  protRegions : Bool := false
  requireProt : Bool := false
  isolate  : Bool := false
  profile  : Bool := false
  memKey   : Nat := 0xFFFF
  storeKey : Nat := 0xFFFF
  fabricKey : Nat := 0xFFFF
  lineage  : Nat := 0
  counters : Tbl Nat := []
  destroyBy : Option Nat := none
deriving DecidableEq, Repr

/-- The previous key of a rewritten slot (R444): its generation and bytes, when the rewrite came, and the bodies whose operations recorded it. -/
structure Shadow where
  generation : Nat
  key        : List Byte
  since      : Nat
  ops        : List Nat
deriving DecidableEq, Repr

/-- A key slot that holds a key (R438, R439). An EMPTY slot has no entry; COUNTER at 2^64 means EXHAUSTED. -/
structure KeySlot where
  usage      : Nat
  owner      : Nat
  group      : Nat
  generation : Nat
  counter    : Nat := 0
  key        : List Byte
  shadow     : Option Shadow := none
  lowWater   : Bool := false
deriving DecidableEq, Repr

/-- The member list of a binding group (R452). -/
structure KeyGroup where
  epoch   : Nat
  members : List Nat
deriving DecidableEq, Repr

/-- An SPDM connection of one path (R453): the version answered to, and how far the negotiation came. -/
structure SpdmConn where
  version : Option Nat := none
  caps    : Bool := false
  algs    : Bool := false
  /-- A chunked request in progress: handle, next sequence number, bytes so far. -/
  request : Option (Nat × Nat × List Byte) := none
  /-- A chunked response in progress: handle, next sequence number, bytes left. -/
  response : Option (Nat × Nat × List Byte) := none
  /-- The handle of the next large response. -/
  handle : Nat := 0
deriving DecidableEq, Repr

/-- An SPDM session: the path it runs on, the requester's half of the ID, whether FINISH has been accepted, key updates so far. -/
structure SpdmSession where
  path     : Nat
  reqId    : Nat
  finished : Bool := false
  updates  : Nat := 0
deriving DecidableEq, Repr

/-- A firmware header's magic number, version and stepping with zero for every other field but IMAGE_LEN 4,096: what a bank holds at least (log entry 11). -/
def firstImage : List (Nat × Byte) :=
  [(0, 0x43), (1, 0x4C), (2, 0x4E), (3, 0x46), (4, 0x01), (7, 0xB1), (10, 0x03), (21, 0x10), (24, 0x01)]

/-- The security unit. -/
structure Sec where
  ctxs     : Tbl Ctx := [(0, {})]
  keys     : Tbl KeySlot := []
  /-- The next GENERATION, and the first value not yet reserved in flash (R439). -/
  nextGen  : Nat := 0
  genLimit : Nat := 0
  groups   : Tbl KeyGroup := []
  /-- KEY.BIND_JOB: slot by job. -/
  jobKeys  : Tbl Nat := []
  /-- The regions that hold weights decrypted under a WEIGHT slot, with that slot (R451, log entry 84). -/
  weights  : Tbl Nat := []
  /-- Confidential mode in force, and as the store requests it from the next start (R456). -/
  conf     : Bool := false
  confNext : Bool := false
  securePath : Nat := 0
  secureStream : Nat := 0
  /-- The IDE streams whose keys IDE_KM has set, and those in the Secure state after IDE_KM (R435). -/
  ideKeyed : List Nat := []
  ideSecure : List Nat := []
  /-- Firmware banks as bytes that are not zero, the running bank, BOOT_BANK, the trial and its starts (R459, R460). -/
  bank0    : List (Nat × Byte) := firstImage
  bank1    : List (Nat × Byte) := []
  running  : Nat := 0
  bootBank : Nat := 0
  trial    : Bool := false
  trialStarts : Nat := 0
  /-- The bank that the boot ROM refused at this start, with the reason of FW_BANK_FALLBACK. -/
  fellBack : Option (Nat × Nat) := none
  /-- The number of the free value that is this start's KAK (R443), and whether a signed MEASUREMENTS has been sent since the start. -/
  kak      : Nat := 0
  attested : Bool := false
  /-- A debug port or spark point has been enabled since the start (R455). -/
  debugSeen : Bool := false
  /-- The fused SVN and the revoked-key fuses as measured at this start (R455). -/
  svnStart : Nat := 0
  revokedStart : Nat := 0
  conns    : Tbl SpdmConn := []
  sessions : Tbl SpdmSession := []
deriving DecidableEq, Repr

end Sys2Proof.Machine
end

