-- ==== Sys2Proof/Machine/TirState.lean ====
section
/-! DEFINITION. The state of the tier manager with Peat and Fallow (file 07) and of Charcoal (file 08). -/

namespace Sys2Proof.Machine

/-- A sheaf table entry (R211, R214). `promised` counts the tokens of accepted appends (R183), `tokens` those committed. -/
structure Entry where
  basePos  : Nat
  tokens   : Nat
  promised : Nat
  body     : Nat
deriving DecidableEq, Repr

/-- A sequence (R211, R213). Its entries lie under key layer * 256 + group, then by sheaf index. -/
structure Seq where
  ctx      : Nat
  layers   : Nat
  groups   : Nat
  formats  : List Nat
  prot     : Bool
  startPos : Nat
  entries  : Tbl (Tbl Entry) := []
  /-- The journal holds the sequence as dirty, or the record is owed (R228). -/
  dirtyMark : Bool := false
deriving DecidableEq, Repr

/-- The states of a body (R221). -/
inductive BodyState where
  | hot | writing | moving | cold | fetching | retiring | lost
deriving DecidableEq, Repr

/-- The code of a body state (R221). -/
def bodyStateCode : BodyState → Nat
  | .hot => 1
  | .writing => 2
  | .moving => 3
  | .cold => 4
  | .fetching => 5
  | .retiring => 6
  | .lost => 7

/-- Where a cold copy lies (R214). -/
inductive ColdKind where
  | none | peat | fallow | home
deriving DecidableEq, Repr

/-- The code of COLD_KIND (R214). -/
def coldKindCode : ColdKind → Nat
  | .none => 0
  | .peat => 1
  | .fallow => 2
  | .home => 3

/-- A copy of a body outside Ember: the body bytes, the escape entries with their index, and the tokens it holds. -/
structure Copy where
  bytes    : List Byte
  esc      : List Byte
  escCount : Nat
  tokens   : Nat
  /-- Poisoned lines of the body and of the escape list (R192, R258). -/
  bad      : List Nat := []
  badEsc   : List Nat := []
  /-- The Peat NAND group that holds it. -/
  group    : Nat := 0
  /-- What a record keeps of its body for the journal: format, context, protection, LINEAGE (R237, R446). -/
  fmt      : Nat := 0
  ctx      : Nat := 0
  prot     : Bool := false
  lineage  : Nat := 0
  /-- Where it lies in a composition: its offset, a multiple of 1,024 (R239). -/
  place    : Nat := 0
  /-- Pieces that could not be read back from the lender: offset and length. -/
  holes    : List (Nat × Nat) := []
deriving DecidableEq, Repr

/-- A body (R211, R214, R220-R225). -/
structure Body where
  state    : BodyState
  dirty    : Bool
  coldKind : ColdKind := .none
  coldTokens : Nat := 0
  /-- A truncate has removed tokens since its Peat copy was programmed (R247). -/
  stale    : Bool := false
  refs     : Nat
  /-- Pins of readers and writers, and pins of TIER.PIN (R222, R223). -/
  implicit : Nat := 0
  explicit : Nat := 0
  /-- Time of the last use, and its number in the order of uses (R229). -/
  lastUse  : Nat
  useNo    : Nat := 0
  fmt      : Nat
  /-- First EDA and chunks of its run in Ember; 0 chunks when it is not in Ember. -/
  eda      : Nat
  chunks   : Nat
  extents  : List Nat := []
  escCount : Nat := 0
  /-- Tokens whose bytes the body holds. -/
  tokens   : Nat := 0
  prot     : Bool
  ctx      : Nat
  lineage  : Nat := 0
  retireEpoch : Nat := 0
  /-- Changed since the write-back in flight began (R227). -/
  changed  : Bool := false
  lastAppend : Nat := 0
  /-- The composition that holds the Fallow or home copy. -/
  comp     : Option Nat := none
deriving DecidableEq, Repr

/-- A pin of TIER.PIN (R223). -/
structure Pin where
  ctx    : Nat
  seq    : Nat
  bodies : List Nat
deriving DecidableEq, Repr

/-- A region (R218, R219, R239). A composition region lists its allotments' chunks as runs (first chunk, number), in the order granted. -/
structure Region where
  ctx     : Nat
  eda     : Nat
  chunks  : Nat
  frames  : Bool
  prot    : Bool
  lineage : Nat := 0
  comp    : Option (List (Nat × Nat)) := none
deriving DecidableEq, Repr

/-- A committed entry in the journal (R228, R237). -/
structure JEntry where
  basePos : Nat
  tokens  : Nat
  body    : Nat
deriving DecidableEq, Repr

/-- A sequence in the journal (R228, R237). -/
structure JSeq where
  ctx      : Nat
  layers   : Nat
  groups   : Nat
  formats  : List Nat
  prot     : Bool
  startPos : Nat
  dirty    : Bool
  entries  : Tbl (Tbl JEntry) := []
deriving DecidableEq, Repr

/-- A journal record to be programmed: a sequence that becomes dirty or clean, or a change of the entries that the journal holds. The command that waits for it, if any. -/
inductive JRecord where
  | mark (seq : Nat) (dirty : Bool)
  | entries (seq : Nat)
deriving DecidableEq, Repr

/-- A record on its way to the journal (R228). -/
structure JPending where
  record : JRecord
  oid  : Option Nat
  done : Done := {}
deriving DecidableEq, Repr

/-- A loss record (R245). -/
structure Loss where
  seq   : Nat
  layer : Nat
  group : Nat
  cause : Nat
  pos   : Nat
deriving DecidableEq, Repr

/-- A TIER.FLUSH that waits (R226). -/
structure Flush where
  bodies  : List Nat
  /-- Bodies whose write-back had begun before the flush was accepted. -/
  early   : List Nat := []
  written : Nat := 0
  lost    : Bool := false
deriving DecidableEq, Repr

/-- A body in the write-back queue (R226). -/
structure WbEntry where
  body      : Nat
  expedited : Bool
deriving DecidableEq, Repr

/-- A body in a prefetch queue, with the command or the pin that needs it (R232). -/
structure FetchEntry where
  body : Nat
  by_  : Nat
deriving DecidableEq, Repr

/-- What a held command waits for: earlier commands of its sequence, room after the pass numbered (R231), or bodies (R233). -/
inductive Why where
  | order
  | room (pass : Nat)
  | bodies (l : List Nat)
deriving DecidableEq, Repr

/-- A command of the tier manager or of SHEAF.READ that waits, in acceptance order. `item` is the number by which RESIDENCY_TIMEOUT names it. -/
structure Held where
  oid   : Nat
  seq   : Nat
  unit  : Nat
  verb  : Nat
  why   : Why
  since : Nat
  item  : Nat
deriving DecidableEq, Repr

/-- The service state of a Peat NAND group (R474, R475). -/
inductive GroupState where
  | service | restricted | fenced | quarantine
deriving DecidableEq, Repr

/-- A Peat NAND group. -/
structure PeatGroup where
  state     : GroupState := .service
  cause     : Nat := 0
  spareUsed : Nat := 0
  fails     : List Nat := []
  enableBy  : List Nat := []
deriving DecidableEq, Repr

/-- The states of an allotment on its lender (R240). -/
inductive AllotState where
  | idle | lent | reclaiming | orphaned | zeroing
deriving DecidableEq, Repr

/-- An allotment on its lender (R239): its state, its composition and its chunks as runs (first chunk, number), ascending. -/
structure Allot where
  state : AllotState
  comp  : Option Nat := none
  runs  : List (Nat × Nat)
deriving DecidableEq, Repr

/-- A composition as its borrower holds it (R238, R239, R241, R242). `store` is the borrower's map: the bodies placed in it, the offset of each and the record that was put there. -/
structure Comp where
  ctx      : Nat
  lender   : Nat
  /-- Its number on the lender. -/
  number   : Nat
  count    : Nat
  home     : Bool
  window   : Nat
  job      : Nat
  active   : Bool := true
  draining : Bool := false
  noticeEnd : Option Nat := none
  returnBy : Option Nat := none
  store    : Tbl Copy := []
  granted  : Nat
deriving DecidableEq, Repr

/-- A composition as its lender holds it (R239, R240). -/
structure Lent where
  borrower : Nat
  allots   : List Nat
  region   : Nat
  window   : Nat
  job      : Nat
  granted  : Nat
  noticeEnd : Option Nat := none
  orphanSince : Option Nat := none
  lastProbe : Option Nat := none
deriving DecidableEq, Repr

/-- A TIER.BORROW that waits for GRANT or REFUSE (R395). -/
structure Borrowing where
  oid    : Nat
  ctx    : Nat
  lender : Nat
  count  : Nat
  home   : Bool
deriving DecidableEq, Repr

/-- Peat wear (R235, R236): host bytes, NAND bytes of the last 24 hours, P/E cycles, warnings raised. -/
structure Wear where
  hostBytes : Nat := 0
  recent    : List (Nat × Nat × Nat) := []
  peMean    : Nat := 0
  peMax     : Nat := 0
  warned    : Nat := 0
deriving DecidableEq, Repr

/-- The tier manager. Parameters without an entry have the default of R212. -/
structure Tir where
  seqs     : Tbl Seq := []
  nextSeq  : Nat := 1
  bodies   : Tbl Body := []
  nextBody : Nat := 0
  /-- Uses of bodies so far. -/
  uses     : Nat := 0
  pins     : Tbl Pin := []
  nextPin  : Nat := 1
  params   : Tbl Nat := []
  tableLog2 : Nat := 28
  glnAreaGib : Nat := 32
  trnAreaGib : Nat := 4
  epoch    : Nat := 0
  epochUs  : Nat := 50
  starving : Bool := false
  mounted  : Bool := false
  clean    : Bool := true
  readOnly : Bool := false
  wbq      : List WbEntry := []
  snaps    : Tbl Copy := []
  flushes  : Tbl Flush := []
  demand   : List FetchEntry := []
  advisory : List FetchEntry := []
  /-- Completion times of fetches within 1 ms (R232). -/
  fetchTimes : List Nat := []
  held     : List Held := []
  /-- Full passes of R229 so far. -/
  passNo   : Nat := 0
  /-- Bodies chosen by a pass whose commit has not yet come: where the copy goes. -/
  evicting : Tbl ColdKind := []
  peat     : Tbl Copy := []
  journal  : Tbl JSeq := []
  jwait    : List JPending := []
  losses   : List Loss := []
  regions  : Tbl Region := []
  nextRegion : Nat := 1
  groups   : Tbl PeatGroup := []
  wear     : Wear := {}
  offered  : Nat := 0
  /-- The frames set aside for lending (R239), ascending. -/
  aside    : List Nat := []
  allots   : Tbl Allot := []
  comps    : Tbl Comp := []
  lent     : Tbl Lent := []
  borrowing : Tbl Borrowing := []
deriving DecidableEq, Repr

/-- Charcoal's counters (R261). -/
structure Chr where
  compressed   : Nat := 0
  decompressed : Nat := 0
  failed       : Nat := 0
deriving DecidableEq, Repr

end Sys2Proof.Machine
end

