-- ==== Sys2Proof/Machine/State.lean ====
section
/-! DEFINITION. The whole state of the block, the reasons for a stop, and the state after reset. -/

namespace Sys2Proof.Machine

/-- The state of the block, and the queue of commands that wait (the model's own). `now` is the reference time base in ns (R14; log entry 2), `free` counts the free values used (the model's own; log entry 3), `out` records what has left the block, oldest first (log entry 4). -/
structure State where
  pending : List Instr := []
  now     : Nat := 0
  free    : Nat := 0
  out     : List Out := []
  fuse    : Fuse := {}
  cln     : Cln := {}
  fld     : Fld := {}
  kln     : Kln := {}
  emb     : Emb := {}
  tir     : Tir := {}
  chr     : Chr := {}
  sdb     : Sdb := {}
  gln     : Gln := {}
  hlt     : Hlt := {}
  sec     : Sec := {}
  oln     : Oln := {}
  trn     : Trn := {}
  hdl     : Hdl := {}
  mod     : Mod := {}
deriving DecidableEq, Repr

/-- The faults. -/
inductive Fault where
  /-- A device address that R189 does not name. Raised by no command: an access past the end of Ember goes on at a free place (log entry 25), and every command ends in a next state. Safe: a stop would only say less. -/
  | noSuchEmberAddress (eda : Nat)
deriving DecidableEq, Repr

/-- The refusals. -/
inductive Refusal where
  /-- Raised by the dispatch of a command that has no meaning yet. Safe: the model stops. -/
  | notModelled (mnemonic : String)
deriving DecidableEq, Repr

/-- The block right after PERST# deassertion with the rails stable (R17; log entry 1). -/
def State.reset : State := {}

end Sys2Proof.Machine
end

