-- ==== Sys2Proof/Machine/Ops.lean ====
section
/-! DEFINITION. The operations that every unit shares: free values, the variant's resources, interrupts, events, the tally, the completion of commands, conflicts between orders. -/

namespace Sys2Proof.Machine

/-! Free values and outputs -/

/-- The number of the next free value, and the state in which it is used (log entry 3). -/
def fresh (s : State) : Nat × State := (s.free, { s with free := s.free + 1 })

/-- 1 µs, 1 ms and 1 s in ns. -/
def us : Nat := 1000
def ms : Nat := 1000000
def sec : Nat := 1000000000

/-- Activity: output ACTn is low for 50 ms from now on (R505). -/
def lightAct (n : Nat) (s : State) : State := { s with mod := { s.mod with act := tblSet s.mod.act n (s.now + 50 * ms) } }

/-- The activity output that an output of the block concerns: ACT0 for PCIe TLPs, ACT1 for DATA frames. -/
def actOf : Out → Option Nat
  | .hostWrite .. | .msix _ | .readData _ | .config .. => some 0
  | .link _ (.data ..) | .link _ (.eth ..) => some 1
  | _ => none

/-- Records an output (log entry 4), with its activity. -/
def emit (o : Out) (s : State) : State :=
  let s := { s with out := s.out ++ [o] }
  match actOf o with
  | none => s
  | some n => lightAct n s

/-- What of a correction of fabric time has been slewed in by now, at 500 ppm (R357). -/
def slewed (s : State) : Int :=
  let most : Int := (((s.now - s.oln.slewFrom) / 2000 : Nat) : Int)
  max (-most) (min most s.oln.slew)

/-- Fabric time in ns (R354): the reference time base with the offset that synchronisation keeps. -/
def fabricTime (s : State) : Nat := ((s.now : Int) + s.oln.fabOffset + slewed s).toNat

/-! Variant and fuses (R3, R8, R9) -/

def isC (s : State) : Bool := s.fuse.variant == .c

/-- Ember channels of the variant (R62). -/
def nChans (s : State) : Nat := if isC s then 192 else 384

/-- Ember stacks of the variant. -/
def nStacks (s : State) : Nat := if isC s then 6 else 12

/-- Olnen ports of the variant. -/
def nPorts (s : State) : Nat := if isC s then 8 else 16

/-- CORES_GUARANTEED (R8). -/
def guaranteed (s : State) : Nat := if isC s then 36 else 64

def hasPeat (s : State) : Bool := s.fuse.variant != .b

def hasGleaner (s : State) : Bool := !isC s

/-- Chunks of 1,024 bytes in a frame: one for each bank (R189). -/
def frameChunks (s : State) : Nat := 64 * nChans s

/-- FRAME_SIZE (R189). -/
def frameSize (s : State) : Nat := 1024 * frameChunks s

/-- The number of valid EDAs (R189). -/
def emberBytes (s : State) : Nat := 32768 * frameSize s

/-- Whether the fuses enable a core (R8). -/
def coreFused (s : State) (n : Nat) : Bool := n < 72 && bitOf s.fuse.coreMap n

/-- A core; one that the fuses disable is DISABLED (R106). -/
def getCore (s : State) (n : Nat) : Core :=
  match tblGet? s.fld.cores n with
  | some c => c
  | none => if coreFused s n then {} else { state := .disabled }

/-- Replaces a core. -/
def setCore (n : Nat) (c : Core) (s : State) : State := { s with fld := { s.fld with cores := tblSet s.fld.cores n c } }

/-- Updates a core. -/
def modCore (n : Nat) (f : Core → Core) (s : State) : State := setCore n (f (getCore s n)) s

/-- The cores in a state, in ascending ID. -/
def coresIn (s : State) (p : CoreState → Bool) : List Nat := (List.range 72).filter (fun n => p (getCore s n).state)

/-- An Ember channel. -/
def getChan (s : State) (m : Nat) : Chan := tblGetD s.emb.chans m {}

def setChan (m : Nat) (c : Chan) (s : State) : State := { s with emb := { s.emb with chans := tblSet s.emb.chans m c } }

def modChan (m : Nat) (f : Chan → Chan) (s : State) : State := setChan m (f (getChan s m)) s

/-- A Peat NAND group. -/
def getGroup (s : State) (g : Nat) : PeatGroup := tblGetD s.tir.groups g {}

def modGroup (g : Nat) (f : PeatGroup → PeatGroup) (s : State) : State :=
  { s with tir := { s.tir with groups := tblSet s.tir.groups g (f (getGroup s g)) } }

/-- A mailbox channel. -/
def getMbx (s : State) (ch : Nat) : Mbx := tblGetD s.cln.mbx ch {}

def setMbx (ch : Nat) (m : Mbx) (s : State) : State := { s with cln := { s.cln with mbx := tblSet s.cln.mbx ch m } }

/-- A ring. -/
def getRing (s : State) (r : Nat) : Ring := tblGetD s.cln.rings r {}

def setRing (r : Nat) (x : Ring) (s : State) : State := { s with cln := { s.cln with rings := tblSet s.cln.rings r x } }

def modRing (r : Nat) (f : Ring → Ring) (s : State) : State := setRing r (f (getRing s r)) s

/-- A context. -/
def getCtx? (s : State) (n : Nat) : Option Ctx := tblGet? s.sec.ctxs n

/-! Parameters: the value set, or the default -/

/-- TIER.CONFIG parameters (R212). -/
def tierDefault : Nat → Nat
  | 0x01 => 50
  | 0x02 => 10
  | 0x03 => 20
  | 0x04 => 200
  | 0x05 => 5000
  | 0x06 => 750
  | 0x07 => 0
  | 0x08 => 1000
  | 0x09 => 10000
  | 0x0A => 100
  | 0x0B => 28
  | _ => 0

def tierParam (s : State) (p : Nat) : Nat := tblGetD s.tir.params p (tierDefault p)

/-- HEALTH.CONFIG parameters (R499). -/
def healthDefault : Nat → Nat
  | 0x02 => 100
  | 0x03 => 25
  | 0x04 => 600
  | 0x05 => 400
  | 0x06 => 4
  | 0x07 => 24
  | _ => 0

def healthParam (s : State) (p : Nat) : Nat := tblGetD s.hlt.params p (healthDefault p)

/-! Interrupts (R47, R58, R36) -/

/-- Whether a vector may be sent: MSI-X is enabled, the function is in D0, and neither the function nor the vector is masked (R32, R36). -/
def vectorOpen (v : Nat) (s : State) : Bool := s.cln.cfg.msixEnable && !s.cln.cfg.msixMask && !s.cln.cfg.d3hot && !(tblGetD s.cln.msix v {}).masked

/-- Whether the BARs accept no access: a function-level reset runs (R84), or the function is in D3hot (R32; PRESUMED, log entry 76). -/
def barsClosed (s : State) : Bool := s.cln.flr || s.cln.cfg.d3hot

/-- Raises an MSI-X vector: sends it, or sets its pending bit while a mask holds it. -/
def raiseVector (v : Nat) (s : State) : State :=
  if !vectorOpen v s then { s with cln := { s.cln with pba := setAdd s.cln.pba v } }
  else emit (.msix v) s

/-! Event records (R462-R467) -/

/-- A recipient of an event. -/
inductive Rcpt where
  | ctx (n : Nat)
  | mgmt (channel : Nat)
deriving DecidableEq, Repr

/-- The number by which event records and R48 name a management channel, if the channel is one (R40). -/
def mgmtNumber : Nat → Option Nat
  | 6 => some 0x06
  | 7 => some 0x07
  | 30 => some 0x36
  | 31 => some 0x37
  | _ => none

/-- The 64 bytes of an event record (R462). -/
def evBytes (e : EvRec) (phase : Bool) : List Byte :=
  leBytes 2 (eventValue e.code) ++
  leBytes 1 (eventSeverity e.code + 4 * b2n e.injected + 8 * b2n e.lost + 128 * b2n phase) ++
  leBytes 1 (eventUnit e.code) ++ leBytes 2 e.ctx ++
  leBytes 2 (match e.mgmt with | none => 0 | some c => 1 + 256 * c) ++
  leBytes 8 e.time ++ leBytes 4 e.seq ++ leBytes 4 e.count ++
  (e.detail ++ zeros 40).take 40

/-- Adds a record to the management log when R464 keeps it; the log holds the 1,024 most recent. -/
def logRecord (e : EvRec) (s : State) : State :=
  if 1 ≤ eventSeverity e.code || e.mgmt.isSome then
    let l := s.hlt.log ++ [e]
    { s with hlt := { s.hlt with log := l.drop (l.length - 1024) } }
  else s

/-- Gives a record its SEQ. -/
def takeSeq (s : State) : Nat × State := (s.hlt.seq, { s with hlt := { s.hlt with seq := (s.hlt.seq + 1) % 2 ^ 32 } })

/-- Free entries of the event queue: its entries less one, less the unread (R463). -/
def eqFree (q : EventQueue) : Nat := 2 ^ q.log2 - 1 - (q.write + 2 ^ q.log2 - q.head) % 2 ^ q.log2

/-- Reads the head word when no entry is free, at most once every 1 µs (R463). What the host wrote there is a free value that releases only records already written. -/
def eqRefresh (s : State) : State :=
  match s.cln.eq with
  | none => s
  | some q =>
    let due := match q.lastRead with | none => true | some t => decide (t + us ≤ s.now)
    if eqFree q == 0 && due then
      let (k, s) := fresh s
      let used := (q.write + 2 ^ q.log2 - q.head) % 2 ^ q.log2
      let taken := min used (Config.hostHeadWord k)
      { s with cln := { s.cln with eq := some { q with head := (q.head + taken) % 2 ^ q.log2, lastRead := some s.now } } }
    else s

/-- Writes a record to the next entry of the event queue, and raises vector 0 (R463, R47). -/
def eqWrite (e : EvRec) (s : State) : State :=
  match s.cln.eq with
  | none => s
  | some q =>
    let s := emit (.hostWrite (q.base + 64 * q.write) (evBytes e q.phase) false) s
    let wrap := q.write + 1 == 2 ^ q.log2
    let q := { q with write := if wrap then 0 else q.write + 1, phase := q.phase != wrap }
    raiseVector 0 { s with cln := { s.cln with eq := some q } }

/-- Puts a record where R463 and R464 put it: the event queue, after an overflow record when records were dropped, and the management log. `mk` makes the record from its SEQ. -/
def putRecord (e : EvRec) (s : State) : State :=
  let s := eqRefresh s
  match s.cln.eq with
  | none => let (n, s) := takeSeq s; logRecord { e with seq := n } s
  | some q =>
    if e.mgmt.isSome || eventSeverity e.code < healthParam s 0x08 then
      let (n, s) := takeSeq s; logRecord { e with seq := n } s
    else if eqFree q == 0 then
      let s := { s with cln := { s.cln with eq := some { q with dropped := q.dropped + 1 } } }
      let (n, s) := takeSeq s; logRecord { e with seq := n } s
    else if q.dropped == 0 then
      let (n, s) := takeSeq s
      logRecord { e with seq := n } (eqWrite { e with seq := n } s)
    else
      let (n, s) := takeSeq s
      let o : EvRec := { code := .eventQueueOverflow, injected := false, lost := true, ctx := 0, mgmt := none, time := fabricTime s, seq := n, count := 1, detail := leBytes 4 q.dropped }
      let s := logRecord o (eqWrite o { s with cln := { s.cln with eq := some { q with dropped := 0 } } })
      let (m, s) := takeSeq s
      match s.cln.eq with
      | none => s
      | some q =>
        if eqFree q == 0 then
          logRecord { e with seq := m } { s with cln := { s.cln with eq := some { q with dropped := 1 } } }
        else logRecord { e with seq := m, lost := true } (eqWrite { e with seq := m, lost := true } s)

/-- Raises an event to recipients, one record each, a context named twice receiving one (R467). -/
def raiseN (code : EventCode) (inj : Bool) (count : Nat) (dst : List Rcpt) (detail : List Byte) (s : State) : State :=
  dst.eraseDups.foldl (fun s r =>
    let (x, m) := match r with | .ctx n => (n, none) | .mgmt c => (0, some c)
    putRecord { code := code, injected := inj, ctx := x, mgmt := m, time := fabricTime s, seq := 0, count := count, detail := detail } s) s

def raise (code : EventCode) (dst : List Rcpt) (detail : List Byte) (s : State) : State := raiseN code false 1 dst detail s

/-- Raises an event to the node context. -/
def raiseNode (code : EventCode) (detail : List Byte) (s : State) : State := raise code [.ctx 0] detail s

/-- Raises an event that its rule limits to one per `period` ns for each object (R466). -/
def raiseLimited (code : EventCode) (inj : Bool) (obj period : Nat) (dst : List Rcpt) (detail : List Byte) (s : State) : State :=
  match s.hlt.limits.find? (fun l => l.code == code && l.obj == obj) with
  | some l =>
    if s.now < l.last + period then
      { s with hlt := { s.hlt with limits := updFirst (fun l => l.code == code && l.obj == obj) (fun l => { l with held := l.held + 1 }) s.hlt.limits } }
    else
      raiseN code inj (l.held + 1) dst detail
        { s with hlt := { s.hlt with limits := updFirst (fun l => l.code == code && l.obj == obj) (fun l => { l with held := 0, last := s.now }) s.hlt.limits } }
  | none =>
    raiseN code inj 1 dst detail { s with hlt := { s.hlt with limits := s.hlt.limits ++ [{ code := code, obj := obj, last := s.now, held := 0 }] } }

/-! The tally (R478-R481) and the trend counts (R484) -/

/-- The key of a part: class * 1024 + instance. -/
def partKey (c : PartClass) (i : Nat) : Nat := partClassCode c * 1024 + i

/-- The widths in bytes of the counts of a part record, in the order of R481. -/
def tallyWidths : PartClass → List Nat
  | .core => [4, 2, 2, 4, 4, 4, 2, 2, 4]
  | .channel => [4, 2, 2, 4, 2, 2, 2, 2, 4, 4]
  | .lane => [8, 4, 2, 2, 4]
  | .port => [8, 4, 4]
  | .peat => [8, 4, 2, 4, 4]

/-- The field of a part record that counts injected faults (R470), none for a port. -/
def injectedField : PartClass → Option Nat
  | .core => some 8
  | .channel => some 9
  | .lane => some 4
  | .port => none
  | .peat => some 4

/-- Adds to a tally count, which saturates (R478). -/
def tallyAdd (c : PartClass) (i f n : Nat) (s : State) : State :=
  let w := (tallyWidths c).getD f 4
  { s with hlt := { s.hlt with tally := { s.hlt.tally with parts := tblMod s.hlt.tally.parts (partKey c i) [] (fun r => tblMod r f 0 (fun v => satAdd (8 * w) v n)) } } }

/-- Adds to a trend count of the current day. -/
def strainAdd (c : PartClass) (i inp n : Nat) (s : State) : State :=
  { s with hlt := { s.hlt with strain := tblMod s.hlt.strain (partKey c i) {} (fun r => { r with today := tblMod r.today inp 0 (· + n) }) } }

/-- Counts an injected fault in the module summary (R470, R480). -/
def countInjected (s : State) : State := { s with hlt := { s.hlt with tally := { s.hlt.tally with injected := satAdd 32 s.hlt.tally.injected 1 } } }

/-- Counts an occurrence of a real fault in field `f`, and in trend input `inp` if it has one; an injected one counts only in INJECTED (R470). -/
def countFault (c : PartClass) (i f : Nat) (inp : Option Nat) (inj : Bool) (s : State) : State :=
  if inj then
    let s := countInjected s
    match injectedField c with
    | none => s
    | some k => tallyAdd c i k 1 s
  else
    let s := tallyAdd c i f 1 s
    match inp with
    | none => s
    | some k => strainAdd c i k 1 s

/-! Spark points (R468-R471) -/

/-- Whether an arm is in effect: DELAY_US has passed since its acceptance (R469). -/
def armLive (s : State) (a : Arm) : Bool := a.effective || decide (a.from_ + a.delayUs * us ≤ s.now)

/-- An arm's opportunity in an instance: whether it fires, with its VALUE. A fire counts towards FIRES and raises SPARK_FIRED at most once per second per arm. -/
def sparkFire (h inst : Nat) (a : Arm) (s : State) : Option Nat × State :=
  let seen := a.seen + 1
  let fire := match a.mode with | 2 => seen % (max 1 a.n) == 0 | _ => true
  let made := if fire then a.made + 1 else a.made
  let isOver := (a.mode == 0 && fire) || (a.mode == 1 && seen == a.n) || (a.fires != 0 && made == a.fires && fire)
  let arms := if isOver then tblDel s.hlt.arms h else tblSet s.hlt.arms h { a with seen := seen, made := made, effective := true }
  let s := { s with hlt := { s.hlt with arms := arms } }
  if fire then
    let dst := match a.mgmt with | some c => Rcpt.mgmt c | none => Rcpt.ctx a.issuer
    (some a.value, raiseLimited .sparkFired true h sec [dst] (leBytes 2 a.spark ++ leBytes 2 inst ++ leBytes 1 h) s)
  else (none, s)

/-- A detector's opportunity: whether an armed spark point fires, with its VALUE. -/
def sparkCheck (spark inst : Nat) (s : State) : Option Nat × State :=
  match s.hlt.arms.find? (fun e => e.2.spark == spark && (e.2.inst == 0xFFFF || e.2.inst == inst) && armLive s e.2) with
  | none => (none, s)
  | some (h, a) => sparkFire h inst a s

/-- A TLP of the host has arrived, an opportunity of spark 0x0102 (R32, R468). R468 lets a fire be an AER correctable error or an ECRC failure; the model takes the former, after which the link repairs the TLP and it has its effect (DESIGN CHOICE, log entry 65). -/
def hostTlp (s : State) : State := (sparkCheck 0x0102 0 s).2

/-- A result word or a counter is read from the hub's SRAM: spark 0x0802 puts one bit in error, which is corrected in place (R468, R472). -/
def hubRead (s : State) : State :=
  match sparkCheck 0x0802 0 s with
  | (some _, s) => countInjected s
  | (none, s) => s

/-! Commands: issuers, acceptance and completion (R50, R53, R54, R58) -/

/-- The context on whose behalf a command runs: its ring's, the destination context of a remote command, or the node context for a mailbox channel (log entry 7). -/
def issuerCtx (s : State) : Issuer → Nat
  | .ring r => (getRing s r).ctx
  | .remote _ _ d _ => d
  | _ => 0

def cmdCtx (s : State) (c : Cmd) : Nat := issuerCtx s c.issuer

/-- Whether a command came by CCS.INDIRECT on a secure channel (R50). -/
def isSecure (c : Cmd) : Bool :=
  match c.issuer with
  | .mailbox ch _ => decide (ch < 8)
  | .firmware => true
  | _ => false

/-- Whether a command may name an object of a context: its own, or any on a secure channel (R437). -/
def mayName (s : State) (c : Cmd) (owner : Nat) : Bool := isSecure c || owner == cmdCtx s c

/-- Whether an object belongs to the context that a command runs in. The checks of KILN rows ask this on every path: R137, R140 and R149 state no exception for a secure channel (log entry 7). -/
def ownsIt (s : State) (c : Cmd) (owner : Nat) : Bool := owner == cmdCtx s c

/-- The recipient of an event that goes to the issuer of a command (R467). -/
def issuerRcpt (s : State) (i : Issuer) : Rcpt :=
  match i with
  | .mailbox ch _ => match mgmtNumber ch with | some n => .mgmt n | none => .ctx 0
  | _ => .ctx (issuerCtx s i)

/-- The completion record of a command (R53): `phase` and `sqHead` are its ring's. -/
def recordBytes (c : Cmd) (d : Done) (phase : Bool) (sqHead outBytes : Nat) : List Byte :=
  leBytes 2 c.cid ++ leBytes 1 (statusCode d.status) ++ leBytes 1 (b2n phase + 2 * b2n d.detail.isSome) ++
  leBytes 2 sqHead ++ leBytes 2 0 ++ leBytes 8 d.r0 ++ leBytes 8 d.r1 ++
  leBytes 4 outBytes ++ leBytes 2 d.hint ++ leBytes 2 0

/-- Bytes of ordinary output that OUT_LEN admits. -/
def outTaken (c : Cmd) (d : Done) : List Byte := d.output.take c.outLen

/-- The detail block of R54, at the first multiple of 64 bytes after the ordinary output space, as much as OUT_LEN admits: offset and bytes. -/
def detailTaken (c : Cmd) (d : Done) : Nat × List Byte :=
  match d.detail with
  | none => (0, [])
  | some b => let off := roundUp d.space 64; (off, b.take (c.outLen - off))

/-- Posts a reply of a mailbox channel: it waits among the replies until MBX_REPLY_POST places it (R46). -/
def postReply (ch tag : Nat) (st : Status) (result : Nat) (bytes : List Byte) (len : Nat) (s : State) : State :=
  let m := getMbx s ch
  let w : Word := BitVec.ofNat 64 (result % 2 ^ 48 + (tag % 256) * 2 ^ 48 + statusCode st * 2 ^ 56)
  setMbx ch { m with replies := m.replies ++ [{ word := w, bytes := bytes, len := len }] } s

/-- Takes a context's profile counter one up by `n` (R496). -/
def profileAdd (ctx k n : Nat) (s : State) : State :=
  match getCtx? s ctx with
  | none => s
  | some x => if x.profile then { s with sec := { s.sec with ctxs := tblSet s.sec.ctxs ctx { x with counters := tblMod x.counters k 0 (fun v => (v + n) % 2 ^ 64) } } } else s

end Sys2Proof.Machine
end

