-- ==== Sys2Proof/Machine/HdlOps.lean ====
section
/-! DEFINITION. What Headland's rows share (file 13): the flow hash (R346), frame lengths, gates, queues, the deficit round robin, the wheel. -/

namespace Sys2Proof.Machine

/-! The hash of R346 -/

/-- The function of R346. -/
def olnenHash (src sctx dst dctx salt : Nat) : Nat :=
  let k := (src ||| sctx * 2 ^ 12 ||| dst * 2 ^ 24 ||| dctx * 2 ^ 36 ||| salt * 2 ^ 48) % 2 ^ 64
  let k := k ^^^ (k / 2 ^ 31)
  let k := k * 0x9C3B5A27E1D46F0B % 2 ^ 64
  (k ^^^ (k / 2 ^ 29)) % 2 ^ 16

/-- OLNEN.CONFIG parameters (R361, R405). -/
def olnenDefault (s : State) : Nat → Nat
  | 0x01 => 16
  | 0x02 => s.fuse.uid.toNat % 2 ^ 16
  | 0x03 => 100
  | 0x04 => 3
  | 0x05 => 1000
  | 0x06 => 0x2020202020202020
  | 0x08 => 128
  | 0x09 => 128
  | 0x10 => 200
  | 0x11 => 25
  | 0x12 => 20
  | 0x13 => 2000
  | 0x14 => 8
  | 0x15 => 4
  | 0x16 => 64
  | 0x17 => 4096
  | 0x18 => 8192
  | 0x19 => 4
  | _ => 0

def olnenParam (s : State) (p : Nat) : Nat := tblGetD s.oln.params p (olnenDefault s p)

/-- The hash of a transport frame's flow. -/
def flowHash (s : State) (f : TFrame) : Nat := olnenHash f.srcNode f.srcCtx f.dstNode f.dstCtx (olnenParam s 0x02)

/-! Frame lengths (R323, R336, R367) -/

/-- Bytes of a transport frame: header, payload padded to 4, CRC-32C. -/
def transportBytes (f : TFrame) : Nat := 64 + roundUp f.payload.length 4 + 4

/-- Bytes of a native DATA link frame. -/
def linkBytes (f : TFrame) : Nat := roundUp (16 + transportBytes f + 4) 8

/-- Whether a client's IP address is an IPv6 address: those of IPv4 are the numbers below 2^32. -/
def isV6 (ip : Nat) : Bool := decide (2 ^ 32 ≤ ip)

/-- Bytes of an Ethernet frame to an IP address under an Ethernet record (R336, R360). -/
def ethBytes (record : List Byte) (ip : Nat) (f : TFrame) : Nat :=
  14 + (if bitOf (getU record 6 1) 2 then 4 else 0) + (if isV6 ip then 40 else 20) + 8 + transportBytes f + 4

/-- The IP address of a client, as the last frame from it gave it (R338). -/
def clientIp (s : State) (node : Nat) : Nat := match tblGet? s.oln.clients node with | none => 0 | some (_, ip) => ip

/-- UDP_PORT of an Ethernet record; 0 means 47,010 (R360). -/
def udpPort (record : List Byte) : Nat := let n := getU record 12 2; if n == 0 then 47010 else n

/-- Credits that a DATA frame is charged (R326). -/
def frameCredits (f : TFrame) : Nat := ceilDiv (transportBytes f + 20) 64

/-! Instances -/

def getPort (s : State) (p : Nat) : Port := tblGetD s.oln.ports p {}

def setPort (p : Nat) (x : Port) (s : State) : State := { s with oln := { s.oln with ports := tblSet s.oln.ports p x } }

def modPort (p : Nat) (f : Port → Port) (s : State) : State := setPort p (f (getPort s p)) s

def getInst (s : State) (i : Nat) : HInst := tblGetD s.hdl.insts i {}

def setInst (i : Nat) (h : HInst) (s : State) : State := { s with hdl := { s.hdl with insts := tblSet s.hdl.insts i h } }

def modInst (i : Nat) (f : HInst → HInst) (s : State) : State := setInst i (f (getInst s i)) s

def classOf (h : HInst) (c : Nat) : ClassRec := tblGetD h.classes c (classDefault c)

def queueOf (h : HInst) (q : Nat) : HQueue := tblGetD h.queues q {}

def setQueue (q : Nat) (x : HQueue) (h : HInst) : HInst := { h with queues := tblSet h.queues q x }

/-- Bytes of a frame on a port's link. -/
def portBytes (s : State) (p : Nat) (f : TFrame) : Nat :=
  let x := getPort s p
  if x.ethernet then ethBytes x.eth (clientIp s f.dstNode) f else linkBytes f

/-- The headers that a port in Ethernet mode puts before a transport frame of a class (R336). -/
def ethHead (s : State) (p cls : Nat) (f : TFrame) : EthHead :=
  let r := (getPort s p).eth
  let ip := clientIp s f.dstNode
  let h := flowHash s f
  { mac := r.take 6, tag := if bitOf (getU r 6 1) 2 then some (cls, getU r 8 2) else none, v6 := isV6 ip, dscp := 8 * cls,
    label := if isV6 ip then 0x80000 + h else 0, dstIp := ip, srcPort := 49152 + h % 16384, dstPort := udpPort r }

/-! Rotations (R418-R422) -/

/-- The cycle of a rotation. -/
def cycleOf (r : Rotation) : Nat := sumN (r.entries.map (·.1))

/-- Its position at a fabric time. -/
def positionAt (r : Rotation) (t : Nat) : Nat :=
  let c : Int := (cycleOf r : Nat)
  ((((t : Int) - r.phaseBase) % c + c) % c).toNat

/-- The entry that contains a position: its index and the part of it that is left. -/
def entryAt : List (Nat × Nat) → Nat → Nat × Nat
  | [], _ => (0, 0)
  | (d, _) :: t, pos => if pos < d then (0, d - pos) else let (i, l) := entryAt t (pos - d); (i + 1, l)

/-- Whether a class's gate is open at a fabric time. -/
def gateOpen (h : HInst) (c t : Nat) : Bool :=
  match h.rotation with
  | none => true
  | some r => let (i, _) := entryAt r.entries (positionAt r t); bitOf ((r.entries.getD i (0, 0)).2) c

/-- ns for which entries keep a class open, from the first on. -/
def openRun (c : Nat) : List (Nat × Nat) → Nat
  | [] => 0
  | (d, g) :: t => if bitOf g c then d + openRun c t else 0

/-- ns until the gate of an open class next closes, none when it never does. -/
def closesIn (h : HInst) (c t : Nat) : Option Nat :=
  match h.rotation with
  | none => none
  | some r =>
    if r.entries.all (fun e => bitOf e.2 c) then none
    else
      let (i, left) := entryAt r.entries (positionAt r t)
      some (left + openRun c (r.entries.drop (i + 1) ++ r.entries))

/-! Deficit round robin (R413, R414) -/

/-- One choice among `ids`, which rise: the chosen one, and the round robin after it. `more` says whether the chosen one keeps a packet. -/
def drrPick (ids : List Nat) (eligible empty : Nat → Bool) (quantum : Nat → Nat) (d : Drr) : Option Nat × Drr :=
  let order := ids.filter (fun i => decide (d.cur ≤ i)) ++ ids.filter (fun i => decide (i < d.cur))
  match order.find? eligible with
  | none => (none, { d with visit := false, kept := d.kept.filter (fun e => !empty e.1) })
  | some i =>
    let passed := order.takeWhile (fun j => j != i)
    let kept := passed.foldl (fun k j => if empty j then tblDel k j else k) d.kept
    let q := quantum i
    let old := tblGetD kept i 0
    let now := if d.visit && d.cur == i && old != 0 then old else min (old + q) (2 * q)
    (some i, { cur := if now ≤ 1 then i + 1 else i, visit := decide (1 < now), kept := tblSet kept i (now - 1) })

/-! The wheel (R415, R417) -/

/-- The wheel slot, by the fabric time at which it starts, for an entry eligible from `e` (in 1/64 ns) on. -/
def wheelSlot (e t : Nat) : Nat := min (ceilDiv e 6400 * 100) ((t / 100 + 65535) * 100)

/-- A packet of `cost` leaves a queue: its E moves on, and the queue waits on the wheel until then. `per` is the cost of one packet unit at RATE 1, in 1/64 ns. -/
def chargeQueue (cost per t : Nat) (q : HQueue) : HQueue :=
  if q.rate == 0 then q
  else
    let e := max (64 * t) q.eligible + cost * per / q.rate
    { q with eligible := e, wheel := if 64 * t < e then some (wheelSlot e t) else none }

/-- Releases the queues of an instance whose slot has started; one that is not yet eligible is entered again. -/
def releaseQueues (t : Nat) (h : HInst) : HInst :=
  { h with queues := tblMap h.queues (fun _ q => match q.wheel with
    | none => q
    | some w => if w ≤ t then { q with wheel := if 64 * t < q.eligible then some (wheelSlot q.eligible t) else none } else q) }

/-! Queues of a port (R408, R410) -/

/-- The class of a port's queue: that whose range holds it, or its packet's own (R408, R426). -/
def queueClass (h : HInst) (q : Nat) (f : QFrame) : Nat :=
  ((List.range 8).find? (fun c => let r := classOf h c; decide (r.qbase ≤ q ∧ q < r.qbase + r.qcount))).getD f.out.cls

/-- The queue that R408 gives a frame of a class on a port now. -/
def queueFor (s : State) (p c : Nat) (f : TFrame) : Nat :=
  let r := classOf (getInst s p) c
  r.qbase + (flowHash s f / 64) % r.qcount

/-- Bytes of a class that wait on a port (R346, R427). -/
def classBytes (s : State) (p c : Nat) : Nat :=
  let h := getInst s p
  sumN (h.queues.map (fun e => sumN (e.2.packets.map (fun f => if queueClass h e.1 f == c then portBytes s p f.out.frame else 0))))

/-- Places a frame on a port: the express lane for ACK, NACK and NOTICE, else queue `q`. -/
def enqueue (p q : Nat) (f : QFrame) (s : State) : State :=
  if f.out.frame.typ == 1 then modInst p (fun h => setQueue q (let x := queueOf h q; { x with packets := x.packets ++ [f] }) h) s
  else modInst p (fun h => { h with express := h.express ++ [f] }) s

end Sys2Proof.Machine
end

