-- ==== Sys2Proof/Machine/FlowOps.lean ====
section
/-! DEFINITION. Sending over Olnen: next hops (R344-R347), protection of payloads (R449), flow slots (R364-R366), the sequence and window of a flow (R369-R376), acknowledgements (R370-R373), tags (R402). -/

namespace Sys2Proof.Machine

/-! Routing (R338, R344, R346) -/

/-- Whether a port is usable for routing: native, ACTIVE and in SERVICE. -/
def usable (s : State) (p : Nat) : Bool :=
  let x := getPort s p
  decide (p < nPorts s) && !x.ethernet && x.state == .active && x.service == .service

/-- Where a frame goes. -/
inductive Hop where
  | port (p : Nat)
  | self
  | none
deriving DecidableEq, Repr

/-- The usable next hops of a route entry, ascending (R345, R346). -/
def nextHops (s : State) (e : Nat) : List Nat :=
  if !bitOf e 0 then []
  else
    let ps := (List.range (bitsOf e 2 2 + 1)).map (fun i => bitsOf e (8 + 4 * i) 4)
    (List.range 16).filter (fun p => ps.contains p && usable s p)

/-- The port with the fewest bytes of a class, the lowest among equals. -/
def leastLoaded (s : State) (c : Nat) : List Nat → Option Nat
  | [] => Option.none
  | p :: t => match leastLoaded s c t with
    | Option.none => some p
    | some q => if classBytes s p c ≤ classBytes s q c then some p else some q

/-- The next hop of a frame of a class, `stick` being the hop that its flow keeps while it is usable (R347). -/
def chooseHop (s : State) (stick : Option Nat) (o : OutFrame) : Hop :=
  if s.oln.addr == some o.frame.dstNode then .self
  else match tblGet? s.oln.clients o.frame.dstNode with
  | some (p, _) => if (getPort s p).ethernet && (getPort s p).state == .active then .port p else .none
  | Option.none =>
    let e := tblGetD s.oln.routes o.frame.dstNode 0
    let ps := nextHops s e
    match stick with
    | some p => if ps.contains p || (usable s p && bitOf e 0) then .port p else pick e ps
    | Option.none => pick e ps
where
  /-- The choice of R346 among the usable next hops. -/
  pick (e : Nat) (ps : List Nat) : Hop :=
    if bitOf e 1 then match leastLoaded s o.cls ps with | some p => .port p | Option.none => .none
    else match ps[flowHash s o.frame % ps.length]? with | some p => .port p | Option.none => .none

/-- Whether a destination has a route now: a usable next hop, a client's port, or the node itself. -/
def hasRoute (s : State) (node : Nat) (o : OutFrame) : Bool := chooseHop s Option.none { o with frame := { o.frame with dstNode := node } } != .none

/-- Whether two transport frames belong to one flow. -/
def oneFlow (a b : TFrame) : Bool := a.srcNode == b.srcNode && a.srcCtx == b.srcCtx && a.dstNode == b.dstNode && a.dstCtx == b.dstCtx

/-- The queue of a port in which a frame of a flow and class waits already: a frame that the node forwards keeps to it, so that it leaves after that one (R409). -/
def queueKept (s : State) (p : Nat) (o : OutFrame) : Option Nat :=
  ((getInst s p).queues.find? (fun e => e.2.packets.any (fun f => oneFlow f.out.frame o.frame && f.out.cls == o.cls))).map (·.1)

/-- Sends a frame on its hop, in the queue that its flow keeps or that R408 gives. -/
def putOut (hop : Hop) (queue : Option Nat) (o : OutFrame) (hops : Nat) (held : Option Nat) (s : State) : State :=
  match hop with
  | .none => s
  | .self => { s with trn := { s.trn with arrived := s.trn.arrived ++ [{ port := 0, out := o }] } }
  | .port p => enqueue p (queue.getD (queueFor s p o.cls o.frame)) { out := o, hops := hops, held := held } s

/-! Frames -/

/-- A frame with every field that a TYPE or OP does not use zero (R367). -/
def blankFrame : TFrame :=
  { version := 1, typ := 1, syn := false, ackValid := false, last := false, flagged := false, prot := false, retransmit := false, ackNow := false,
    srcNode := 0, srcCtx := 0, dstNode := 0, dstCtx := 0, srcBoot := 0, slotEpoch := 0, echoEpoch := 0, seq := 0, ackSeq := 0, txTime := 0, echoTime := 0,
    op := 0, opFlags := 0, tag := 0, job := 0, window := 0, status := 0, msgLen := 0, offset := 0, operand := 0, payload := [], crcOk := true, tagOk := true }

/-- The key of a flow slot (R364). -/
def slotKey (ctx node rctx : Nat) : Nat := ctx * 2 ^ 24 + node * 2 ^ 12 + rctx

def keyCtx (k : Nat) : Nat := k / 2 ^ 24
def keyNode (k : Nat) : Nat := k / 2 ^ 12 % 4096
def keyRctx (k : Nat) : Nat := k % 4096

def getSlot? (s : State) (k : Nat) : Option Slot := tblGet? s.trn.slots k

def setSlot (k : Nat) (x : Slot) (s : State) : State := { s with trn := { s.trn with slots := tblSet s.trn.slots k x } }

def modSlot (k : Nat) (f : Slot → Slot) (s : State) : State := { s with trn := { s.trn with slots := tblUpd s.trn.slots k f } }

/-- Segment size of a run to a destination (R368, R449): `extra` bytes of protection go with each segment. -/
def fitPow (n : Nat) : Nat := if n == 0 then 0 else 2 ^ Nat.log2 n

/-- Room for payload in a frame to a destination: native, or what an Ethernet port's MTU leaves. -/
def payloadRoom (s : State) (node : Nat) : Nat :=
  match tblGet? s.oln.clients node with
  | Option.none => 8064
  | some (p, ip) => min 8064 ((getU (getPort s p).eth 10 2 - ((if isV6 ip then 40 else 20) + 8 + 64 + 4)) / 4 * 4)

def segmentSize (s : State) (node : Nat) (prot : Bool) : Nat := min 4096 (fitPow (payloadRoom s node - if prot then 48 else 0))

/-- Cuts bytes into pieces of at most `n`: offset and piece. -/
def cutBytes (n : Nat) : Nat → Nat → List Byte → List (Nat × List Byte)
  | 0, _, _ => []
  | fuel + 1, off, bs => if bs.length ≤ n then [(off, bs)] else (off, bs.take n) :: cutBytes n fuel (off + n) (bs.drop n)

/-! Keys (R440, R449, R450) -/

/-- One encryption under a slot: none when it is EMPTY or EXHAUSTED. -/
def useCounter (slot : Nat) (s : State) : Option State :=
  match tblGet? s.sec.keys slot with
  | Option.none => Option.none
  | some k =>
    if 2 ^ 64 ≤ k.counter then Option.none
    else
      let low := !k.lowWater && decide (2 ^ 64 - 2 ^ 32 ≤ k.counter + 1)
      let s := { s with sec := { s.sec with keys := tblSet s.sec.keys slot { k with counter := k.counter + 1, lowWater := k.lowWater || low } } }
      some (if low then raise .keyLowWater [.ctx k.owner] (leBytes 1 slot ++ zeros 3 ++ leBytes 4 k.generation) s else s)

/-- Whether a context sends its frames protected (R450). -/
def mustProtect (s : State) (ctx : Nat) : Bool := match getCtx? s ctx with | some x => x.requireProt | Option.none => false

/-- The slot that protects a frame of a context under a job: the job's, else the context's FABRIC_KEY. -/
def fabricSlot (s : State) (ctx : Nat) (job : Option Nat) : Nat :=
  match job.bind (tblGet? s.sec.jobKeys) with
  | some k => k
  | Option.none => match getCtx? s ctx with | some x => x.fabricKey | Option.none => 0xFFFF

/-- Puts the prefix and the tag of R449 around a payload, which the model keeps in the clear. -/
def sealPayload (slot : Nat) (bs : List Byte) (s : State) : Option (List Byte × State) :=
  match tblGet? s.sec.keys slot with
  | Option.none => Option.none
  | some k => (useCounter slot s).map (fun s =>
    let (n, s) := fresh s
    (leBytes 16 s.fuse.uid.toNat ++ leBytes 4 k.generation ++ leBytes 8 k.counter ++ zeros 4 ++ bs ++ (List.range 16).map (fun i => Config.junk (n * 2 ^ 32 + i)), s))

/-- The data of a received payload. -/
def openPayload (f : TFrame) : List Byte := if f.prot then (f.payload.drop 32).take (f.payload.length - 48) else f.payload

/-! Flow slots (R364-R366) -/

/-- Whether an operation is outstanding on a slot. -/
def opsOn (s : State) (k : Nat) : Bool := s.trn.ops.any (fun e => e.2.key == k)

/-- Whether a slot may be recycled now (R365). -/
def recyclable (s : State) (k : Nat) (x : Slot) : Bool :=
  x.unacked.isEmpty && x.waiting.isEmpty && x.part.isNone && !opsOn s k && decide (x.lastUse + olnenParam s 0x10 * us ≤ s.now) && decide (s.trn.tombs.length < 262144)

/-- Recycles a slot, its inbound half kept as a tombstone. -/
def recycleSlot (k : Nat) (x : Slot) (s : State) : State :=
  let s := { s with trn := { s.trn with slots := tblDel s.trn.slots k } }
  match x.inEpoch with
  | Option.none => s
  | some e => { s with trn := { s.trn with tombs := tblSet s.trn.tombs k { inEpoch := e, expected := x.expected, until_ := s.now + olnenParam s 0x11 * ms } } }

/-- A new slot: a new epoch, the initial window, the inbound half of a tombstone. -/
def freshSlot (k : Nat) (s : State) : State :=
  let t := tblGet? s.trn.tombs k
  let x : Slot := { epoch := s.trn.epochs % 2 ^ 16, cwnd := olnenParam s 0x16 * 1024, progress := s.now, lastUse := s.now, peerEpoch := (tblGet? s.oln.seen (keyNode k)).map (·.1), inEpoch := t.map (·.inEpoch), expected := (t.map (·.expected)).getD 0 }
  setSlot k x { s with trn := { s.trn with epochs := s.trn.epochs + 1, tombs := tblDel s.trn.tombs k } }

/-- Makes sure that a key has a slot, recycling one if it must; none when it cannot. -/
def openSlot (k : Nat) (s : State) : Option State :=
  if tblHas s.trn.slots k then some s
  else if s.trn.slots.length < 16384 then some (freshSlot k s)
  else (s.trn.slots.find? (fun e => recyclable s e.1 e.2)).map (fun e => freshSlot k (recycleSlot e.1 e.2 s))

/-- FLOW_SLOTS_EXHAUSTED, at most once per second. -/
def slotsExhausted (s : State) : State :=
  let s := { s with trn := { s.trn with refused := satAdd 32 s.trn.refused 1 } }
  raiseLimited .flowSlotsExhausted false 0 sec [.ctx 0] (leBytes 4 s.trn.refused) s

/-! Sending on a flow (R369, R372, R376) -/

/-- The acknowledgement fields that a frame of a slot's flow carries (R371). -/
def withAck (s : State) (x : Slot) (f : TFrame) : TFrame :=
  match x.inEpoch with
  | Option.none => { f with ackValid := false, echoEpoch := 0, ackSeq := 0, echoTime := 0 }
  | some e => { f with ackValid := true, echoEpoch := e, ackSeq := x.expected, echoTime := (x.echo + (s.now - x.echoAt)) % 2 ^ 32 }

/-- Hands a frame of a flow to Headland: hop and queue are those that the flow keeps, unless it is `quiet`, with nothing else unacknowledged (R347, R409). -/
def launch (k : Nat) (quiet : Bool) (o : OutFrame) (s : State) : State :=
  match getSlot? s k with
  | Option.none => s
  | some x =>
    let hop := chooseHop s (if quiet then Option.none else x.port) o
    let port := match hop with | .port p => some p | _ => Option.none
    let keep := !quiet && port == x.port
    let queue := match port with | Option.none => 0 | some p => match (if keep then tblGet? x.queues o.cls else Option.none) with | some q => q | Option.none => queueFor s p o.cls o.frame
    let o := { o with frame := withAck s x { o.frame with srcBoot := s.trn.boot, slotEpoch := x.epoch } }
    let s := setSlot k { x with port := port, queues := if keep then tblSet x.queues o.cls queue else [(o.cls, queue)], unackedIn := 0, ackSince := Option.none, lastUse := s.now } s
    putOut hop (some queue) o (olnenParam s 0x01) Option.none s

/-- Bytes sent and not acknowledged. -/
def flightBytes (x : Slot) : Nat := sumN (x.unacked.map (fun o => transportBytes o.frame))

/-- Sends the next frames of a flow that its window, its pacing and its back-off allow (R373, R376). -/
def pumpFlow (k : Nat) : Nat → State → State
  | 0, s => s
  | fuel + 1, s =>
    match getSlot? s k with
    | Option.none => s
    | some x =>
      match x.waiting with
      | [] => s
      | o :: rest =>
        let n := transportBytes o.frame
        let paced := match x.pacedUntil with | Option.none => false | some t => decide (s.now < t)
        let slow := decide (x.cwnd < n)
        if s.now < x.holdUntil || paced || 2 ^ 20 ≤ x.unacked.length || (!slow && x.cwnd ≤ flightBytes x) then s
        else
          let quiet := x.unacked.isEmpty
          let x := { x with waiting := rest, unacked := x.unacked ++ [o], progress := if x.unacked.isEmpty then s.now else x.progress, pacedUntil := if slow then some (s.now + x.srtt * n / x.cwnd) else Option.none }
          pumpFlow k fuel (launch k quiet o (setSlot k x s))

/-- Sends what a flow may send now. -/
def pump (k : Nat) (s : State) : State := match getSlot? s k with | Option.none => s | some x => pumpFlow k x.waiting.length s

/-- Gives a DATA frame its SEQ on its flow, with SYN on the first of an epoch, and sends what may be sent. -/
def onFlow (k : Nat) (o : OutFrame) (s : State) : State :=
  match getSlot? s k with
  | Option.none => s
  | some x =>
    let f := { o.frame with seq := x.seq, syn := !x.opened, srcCtx := keyCtx k, dstNode := keyNode k, dstCtx := keyRctx k, srcNode := s.oln.addr.getD 0 }
    pump k (setSlot k { x with seq := (x.seq + 1) % 2 ^ 32, opened := true, waiting := x.waiting ++ [{ o with frame := f }] } s)

/-- Sends a DATA frame on a flow, opening its slot; without a free slot it waits (R366). -/
def sendData (k : Nat) (o : OutFrame) (s : State) : State :=
  match openSlot k s with
  | some s => onFlow k o s
  | Option.none => slotsExhausted { s with trn := { s.trn with slotWait := s.trn.slotWait ++ [(k, o)] } }

/-- Sends what waits for flow slots, as far as there are slots. -/
def retrySlots (s : State) : State :=
  s.trn.slotWait.foldl (fun s e => match openSlot e.1 s with
    | some s => onFlow e.1 e.2 s
    | Option.none => { s with trn := { s.trn with slotWait := s.trn.slotWait ++ [e] } }) { s with trn := { s.trn with slotWait := [] } }

/-- Resends every unacknowledged frame of a flow from the oldest, with RETRANSMIT, and with SYN on the first when asked (R372, R375). -/
def resendFlow (k : Nat) (syn : Bool) (s : State) : State :=
  match getSlot? s k with
  | Option.none => s
  | some x =>
    let s := setSlot k { x with resent := satAdd 32 x.resent x.unacked.length } s
    (x.unacked.zipIdx).foldl (fun s e => launch k false { e.1 with frame := { e.1.frame with retransmit := true, syn := e.1.frame.syn || (syn && e.2 == 0) } } s) s

/-! Acknowledging (R370-R373) -/

/-- Sends a frame of TYPE ACK, NACK or NOTICE from an address to a remote endpoint, with the slot's acknowledgement fields if there is a slot. -/
def sendFrom (src k cls : Nat) (f : TFrame) (s : State) : State :=
  let f := { f with srcCtx := keyCtx k, dstNode := keyNode k, dstCtx := keyRctx k, srcNode := src, srcBoot := s.trn.boot }
  let f := match getSlot? s k with | Option.none => f | some x => { withAck s x f with slotEpoch := x.epoch }
  let o : OutFrame := { frame := f, cls := cls }
  putOut (chooseHop s ((getSlot? s k).bind (·.port)) o) Option.none o (olnenParam s 0x01) Option.none s

def sendReverse (k cls : Nat) (f : TFrame) (s : State) : State := sendFrom (s.oln.addr.getD 0) k cls f s

/-- Sends an ACK of a slot. -/
def sendAck (k : Nat) (s : State) : State :=
  match getSlot? s k with
  | Option.none => s
  | some x => sendReverse k x.cls { blankFrame with typ := 2 } (setSlot k { x with unackedIn := 0, ackSince := Option.none } s)

/-- Sends a NACK with a reason and a back-off in µs. -/
def sendNack (k cls reason backoff : Nat) (s : State) : State := sendReverse k cls { blankFrame with typ := 3, opFlags := reason, operand := backoff } s

/-- Notes an accepted frame: the next SEQ, the echoed time, and the acknowledgement, at once for ACK_NOW or the sixteenth (R370, R371). -/
def noteAccepted (k : Nat) (o : OutFrame) (s : State) : State :=
  match getSlot? s k with
  | Option.none => s
  | some x =>
    let x := { x with expected := (x.expected + 1) % 2 ^ 32, echo := o.frame.txTime, echoAt := s.now, unackedIn := x.unackedIn + 1, ackSince := some (x.ackSince.getD s.now), cls := o.cls, gapSent := Option.none, lastUse := s.now }
    let s := setSlot k x s
    if o.frame.ackNow || 16 ≤ x.unackedIn then sendAck k s else s

/-! Tags (R402) -/

/-- Free operation tags. -/
def freeTags (s : State) : Nat := 65536 - s.trn.ops.length

/-- Takes the lowest free tag from the last one on, for an operation. -/
def takeTag (op : Nat → TOp) (s : State) : Nat × State :=
  let t := (((List.range (s.trn.ops.length + 1)).map (fun i => (s.trn.nextTag + i) % 2 ^ 16)).find? (fun t => !tblHas s.trn.ops t)).getD 0
  (t, { s with trn := { s.trn with ops := tblSet s.trn.ops t (op t), nextTag := (t + 1) % 2 ^ 16 } })

/-- TAGS_EXHAUSTED, at most once per second. -/
def tagsExhausted (s : State) : State :=
  let s := { s with trn := { s.trn with tagWaits := satAdd 32 s.trn.tagWaits 1 } }
  raiseLimited .tagsExhausted false 0 sec [.ctx 0] (leBytes 4 s.trn.tagWaits) s

/-! Messages (R382) -/

/-- The frames of a message under a tag, the last with LAST set, protected under a slot when one is given; none when its key cannot be used. -/
def messageFrames (room : Nat) (op tag cls : Nat) (slot : Option Nat) (msg : List Byte) (s : State) : Option (List OutFrame × State) :=
  let room := match slot with | Option.none => room | some _ => room - 48
  let parts := cutBytes room (msg.length + 1) 0 msg
  parts.foldl (fun (a : Option (List OutFrame × State)) (off, bs) => a.bind (fun (l, s) =>
    let f : TFrame := { blankFrame with op := op, tag := tag, window := 0xFFFF, msgLen := msg.length, offset := off, last := decide (off + bs.length = msg.length), prot := slot.isSome }
    match slot with
    | Option.none => some (l ++ [{ frame := { f with payload := bs }, cls := cls }], s)
    | some k => (sealPayload k bs s).map (fun (p, s) => (l ++ [{ frame := { f with payload := p }, cls := cls }], s)))) (some ([], s))

/-- Sends frames on a flow in order. -/
def sendAll (k : Nat) (fs : List OutFrame) (s : State) : State := fs.foldl (fun s o => sendData k o s) s

/-- Sends the COMMAND_DONE message of a remote command (R382), protected when its message was or its context requires it (R448, R450). -/
def sendDone (srcNode srcCtx ctx tag : Nat) (msg : List Byte) (s : State) : State :=
  let k := slotKey ctx srcNode srcCtx
  let was := s.trn.protCmds.contains (srcNode, srcCtx, ctx, tag)
  let slot := if was || mustProtect s ctx then some (fabricSlot s ctx Option.none) else Option.none
  let s := { s with trn := { s.trn with protCmds := s.trn.protCmds.erase (srcNode, srcCtx, ctx, tag) } }
  let cls := match getSlot? s k with | some x => x.cls | Option.none => 0
  match messageFrames (payloadRoom s srcNode) 0x86 tag cls slot msg s with
  | some (fs, s) => sendAll k fs s
  | Option.none => s

end Sys2Proof.Machine
end

