-- ==== Sys2Proof/Machine/Ember.lean ====
section
/-! DEFINITION. Ember as memory (file 06): the byte store and its canonical form, the address hash, poison, the row-steps of plough operations, and what an access sees. -/

namespace Sys2Proof.Machine

/-! The byte store. An unlisted byte reads as `unlisted` (log entry 6). -/

/-- What a byte reads as that nothing has written. -/
def unlisted : Byte := 0

/-- The canonical form: addresses strictly rising, and no entry equal to what an unlisted address reads as. -/
def Memory.wf : List Host.Cell → Bool
  | [] => true
  | [(_, v)] => v != unlisted
  | (a, v) :: (b, w) :: t => v != unlisted && decide (a < b) && Memory.wf ((b, w) :: t)

/-- The byte at an address. -/
def memByte (m : List Host.Cell) (a : Nat) : Byte := tblGetD m a unlisted

/-- The `n` bytes from an address on. -/
def memBytes (m : List Host.Cell) (a n : Nat) : List Byte :=
  let near := m.filter (fun e => decide (a ≤ e.1 ∧ e.1 < a + n))
  (List.range n).map (fun i => memByte near (a + i))

/-- The cells of a list of bytes laid from an address on. -/
def cellsFrom : Nat → List Byte → List Host.Cell
  | _, [] => []
  | a, b :: t => if b == unlisted then cellsFrom (a + 1) t else (a, b) :: cellsFrom (a + 1) t

/-- Writes bytes from an address on. -/
def memPut (m : List Host.Cell) (a : Nat) (bs : List Byte) : List Host.Cell :=
  m.filter (fun e => decide (e.1 < a)) ++ cellsFrom a bs ++ m.filter (fun e => decide (a + bs.length ≤ e.1))

/-! The hash (R189, R190) -/

/-- Channel, bank, row and byte of an EDA, by the function of R190. -/
structure Place where
  chan : Nat
  bank : Nat
  row  : Nat
  byte : Nat
deriving DecidableEq, Repr

/-- The function of R190 for `n` channels. -/
def emberMap (n eda : Nat) : Place :=
  let off := eda % (n * 64 * 1024)
  let c := off / 1024
  let q := c / n
  let p := c % n
  let chan := (p + 97 * q) % n
  { chan := chan, bank := q ^^^ (chan % 64), row := eda / (n * 64 * 1024), byte := off % 1024 }

/-- The first EDA of a row of a bank of a channel: the map of R190 read backwards. -/
def rowEda (n chan bank row : Nat) : Nat :=
  let q := bank ^^^ (chan % 64)
  let p := (chan + n * 97 - 97 * q) % n
  row * (n * 64 * 1024) + (q * n + p) * 1024

/-- The channel that an EDA lies in. -/
def chanOf (s : State) (eda : Nat) : Nat := (emberMap (nChans s) eda).chan

/-- Whether a channel is out of service: FENCED or in QUARANTINE (R196). -/
def chanOut (s : State) (m : Nat) : Bool :=
  match (getChan s m).state with
  | .fenced | .quarantine => true
  | _ => false

/-- Whether a channel is in SERVICE. -/
def chanInService (s : State) (m : Nat) : Bool := (getChan s m).state == .service

/-! Lines and poison (R191, R192) -/

/-- Sets or clears the poison marker of a line. -/
def setPoison (line : Nat) (v : Bool) (s : State) : State :=
  { s with emb := { s.emb with poison := if v then setAdd s.emb.poison line else setDel s.emb.poison line } }

/-- Whether a line reads poisoned: its marker is set, or its channel is out of service (R196). -/
def linePoisoned (s : State) (line : Nat) : Bool := s.emb.poison.contains line || chanOut s (chanOf s (line * 64))

/-- The lines that `n` bytes from an EDA touch. -/
def linesOf (eda n : Nat) : List Nat := if n == 0 then [] else (List.range ((eda + n - 1) / 64 - eda / 64 + 1)).map (· + eda / 64)

/-! Plough operations by row (R197-R206) -/

def getPlough? (s : State) (k : Nat) : Option Plough := tblGet? s.emb.ploughs k

def setPlough (k : Nat) (o : Plough) (s : State) : State := { s with emb := { s.emb with ploughs := tblSet s.emb.ploughs k o } }

/-- The destination row of an operation's index in a channel, and its source rows. An index is a chunk of the span, or frame * 64 + bank. -/
def ploughRow (s : State) (o : Plough) (chan idx : Nat) : Nat × Nat × Nat :=
  if o.frames then
    let at_ := fun f => rowEda (nChans s) chan (idx % 64) (f + idx / 64)
    (at_ o.dst, at_ o.srcA, at_ o.srcB)
  else (o.dst + 1024 * idx, o.srcA + 1024 * idx, o.srcB + 1024 * idx)

/-- The indices of an operation whose destination rows lie in a channel. -/
def ploughRows (s : State) (o : Plough) (chan : Nat) : List Nat :=
  if !o.chans.contains chan then []
  else if o.frames then List.range (o.count * 64)
  else (List.range o.count).filter (fun i => chanOf s (o.dst + 1024 * i) == chan)

/-- The index whose row of a run that starts at `first` (EDA or frame) is the row at `row`, if there is one. -/
def rowIndex (s : State) (o : Plough) (first row : Nat) : Option Nat :=
  if o.frames then
    let p := emberMap (nChans s) row
    if o.chans.contains p.chan && decide (first ≤ p.row ∧ p.row < first + o.count) then some ((p.row - first) * 64 + p.bank) else none
  else if first ≤ row && row < first + 1024 * o.count then some ((row - first) / 1024) else none

/-- Whether a row of an operation has been processed, or will not be. -/
def rowDone (s : State) (o : Plough) (chan idx : Nat) : Bool :=
  (tblGetD o.done chan []).contains idx || o.skipped.contains chan || chanOut s chan

/-- The sources that an operation reads. -/
def sourcesOf (o : Plough) (a b : Nat) : List Nat :=
  match o.kind with
  | .fill _ => []
  | .copy => [a]
  | .logic _ => [a, b]

/-- One byte of a logic operation (R198). -/
def logicByte (op : Nat) (a b : Byte) : Byte :=
  match op with
  | 0 => a &&& b
  | 1 => a ||| b
  | 2 => a ^^^ b
  | _ => a &&& ~~~b

/-- The result of an operation in one line: its 64 bytes and its poison marker (R201). -/
def lineResult (s : State) (k : PloughKind) (a b : Nat) : List Byte × Bool :=
  match k with
  | .fill p => ((List.replicate 8 (leBytes 8 p)).flatten, false)
  | .copy => (memBytes s.emb.mem a 64, linePoisoned s (a / 64))
  | .logic op =>
    ((memBytes s.emb.mem a 64).zipWith (logicByte op) (memBytes s.emb.mem b 64), linePoisoned s (a / 64) || linePoisoned s (b / 64))

/-- Processes one row of an operation in a channel (R201): its 16 lines, the path taken (R200), the poisoned lines. -/
def stepRow (k : Nat) (chan idx : Nat) (s : State) : State :=
  match getPlough? s k with
  | none => s
  | some o =>
    if rowDone s o chan idx then s else
    let (d, a, b) := ploughRow s o chan idx
    let lines := (List.range 16).map (fun i => lineResult s o.kind (a + 64 * i) (b + 64 * i))
    let bad := (lines.filter (·.2)).length
    let s := { s with emb := { s.emb with mem := memPut s.emb.mem d (lines.map (·.1)).flatten } }
    let s := (List.range 16).foldl (fun s i => setPoison (d / 64 + i) ((lines.getD i ([], false)).2) s) s
    let pd := emberMap (nChans s) d
    let pa := emberMap (nChans s) a
    let fill := match o.kind with | .fill _ => true | _ => false
    let bank := fill || (pd.chan == pa.chan && pd.bank == pa.bank)
    let stack := pd.chan / 32 == pa.chan / 32
    let o := { o with
      done := tblMod o.done chan [] (fun l => setAdd l idx),
      inBank := o.inBank + b2n bank,
      bus := o.bus + b2n (!bank && stack),
      line := o.line + b2n (!bank && !stack),
      poisoned := satAdd 16 o.poisoned bad }
    setPlough k o s

/-- The plough operations, newest first. -/
def ploughOps (s : State) : List Nat := (s.emb.ploughs.map (·.1)).reverse

/-- The operations with a fence in the channel of a row, newest first. -/
def fencesAt (s : State) (row : Nat) : List Nat := (getChan s (chanOf s row)).fences.reverse

/-- The channel in which an index of an operation is processed: that of its destination row. -/
def stepChan (s : State) (o : Plough) (chan idx : Nat) : Nat := chanOf s (ploughRow s o chan idx).1

/-- The channels of the rows that an index covers: of its destination and of its sources. -/
def indexChans (s : State) (o : Plough) (chan idx : Nat) : List Nat :=
  let (d, a, b) := ploughRow s o chan idx
  (d :: sourcesOf o a b).map (chanOf s)

/-- Whether a channel still has to install the fence of an operation that covers it. -/
def unfenced (s : State) (k m : Nat) : Bool :=
  match getPlough? s k with
  | none => false
  | some o => o.chans.contains m && !o.fenced.contains m && !o.skipped.contains m && !chanOut s m

/-- A channel installs an operation's fence (R204). -/
def installFence (k m : Nat) (s : State) : State :=
  match getPlough? s k with
  | none => s
  | some o => setPlough k { o with fenced := setAdd o.fenced m } (modChan m (fun c => { c with fences := c.fences ++ [k] }) s)

/-- Installs in a channel the fences up to that of operation `k` which it still owes, oldest first. -/
def forceFences (k m : Nat) (s : State) : State :=
  (s.emb.ploughs.map (·.1)).foldl (fun s j => if j ≤ k && unfenced s j m then installFence j m s else s) s

/-- The index of an operation whose destination is a row of a channel with its fence, while it is unprocessed. -/
def dstIndex (s : State) (k row : Nat) : Option Nat :=
  match getPlough? s k with
  | none => none
  | some o => if !(fencesAt s row).contains k then none else (rowIndex s o o.dst row).filter (fun i => !rowDone s o (stepChan s o (chanOf s row) i) i)

/-- The unprocessed indices of an operation that read a row of a channel with its fence. -/
def srcIndices (s : State) (k row : Nat) : List Nat :=
  match getPlough? s k with
  | none => []
  | some o =>
    if !(fencesAt s row).contains k then []
    else ((sourcesOf o o.srcA o.srcB).filterMap (fun f => rowIndex s o f row)).filter (fun i => !rowDone s o (stepChan s o (chanOf s row) i) i)

/-- Processes an index of an operation once what goes before it has been done (R204, R206): every channel that it covers has the fence; `before false row` has brought a row up to date for reading, `before true row` for being written. -/
def stepAfter (before : Bool → Nat → State → State) (k chan idx : Nat) (s : State) : State :=
  match getPlough? s k with
  | none => s
  | some o =>
    let (d, a, b) := ploughRow s o chan idx
    let s := (indexChans s o chan idx).foldl (fun s m => forceFences k m s) s
    let s := (sourcesOf o a b).foldl (fun s r => before false r s) s
    stepRow k (chanOf s d) idx (before true d s)

/-- Runs the steps that an access to a row has to wait for, of the operations given newest first (R204-R206). A read needs the row's own pending step; a write also those that still read the row; each comes after the older ones that it shares a row with. -/
def settle : List Nat → Bool → Nat → State → State
  | [], _, _, s => s
  | k :: older, write, row, s =>
    let before := fun (w : Bool) (r : Nat) (s : State) => settle older w r s
    let s := if write then before true row s else s
    let s := match dstIndex s k row with
      | some i => stepAfter before k (chanOf s row) i s
      | none => if write then s else before false row s
    if write then (srcIndices s k row).foldl (fun s i => stepAfter before k (chanOf s row) i s) s else s

/-- The next row of an operation is processed, after what older operations owe it. -/
def settleStep (k chan idx : Nat) (s : State) : State := stepAfter (settle ((ploughOps s).filter (fun j => decide (j < k)))) k chan idx s

/-- Whether a fence delays an access to a row: a read of a destination row that is not processed, or a write to that or to one that is still to be read (R205). -/
def rowPending (s : State) (write : Bool) (k row : Nat) : Bool := (dstIndex s k row).isSome || (write && !(srcIndices s k row).isEmpty)

/-- The state that a read of a row sees: every destination row as though its step had run (R204, R205). -/
def viewRow (s : State) (row : Nat) : State := settle (ploughOps s) false row s

/-- Runs the steps that a write to a row has to wait for: the row's own, and those of the rows of which it is a source (R205). -/
def settleWrite (row : Nat) (s : State) : State := settle (ploughOps s) true row s

/-! Accesses (R192, R196, R205) -/

/-- The rows that `n` bytes from an EDA touch, as first EDAs. -/
def rowsOf (eda n : Nat) : List Nat := if n == 0 then [] else (List.range ((eda + n - 1) / 1024 - eda / 1024 + 1)).map (fun i => (eda / 1024 + i) * 1024)

/-- Counts in WAITS each row of an access that a fence delays (R205, R209). -/
def countWaits (write : Bool) (eda n : Nat) (s : State) : State :=
  (rowsOf eda n).foldl (fun s r =>
    if (fencesAt s r).any (fun k => rowPending s write k r) then modChan (chanOf s r) (fun c => { c with waits := satAdd 16 c.waits 1 }) s else s) s

/-- Whether the slot that a context names for a use holds a key. -/
def keyHeld (s : State) (ctx : Nat) (slot : Ctx → Nat) : Bool :=
  match getCtx? s ctx with
  | none => false
  | some x => tblHas s.sec.keys (slot x)

/-- Whether a line is one of a protected region or body whose MEM_KEY slot holds no key: it is delivered poisoned (R445). -/
def lineSealed (s : State) (line : Nat) : Bool :=
  let a := 64 * line
  s.tir.regions.any (fun e => e.2.prot && decide (e.2.eda ≤ a ∧ a < e.2.eda + 1024 * e.2.chunks) && !keyHeld s e.2.ctx (·.memKey)) ||
  s.tir.bodies.any (fun e => e.2.prot && (decide (e.2.eda ≤ a ∧ a < e.2.eda + 1024 * e.2.chunks) || e.2.extents.any (fun x => decide (x ≤ a ∧ a < x + 512))) && !keyHeld s e.2.ctx (·.memKey))

/-- What a read of `n` bytes delivers: the bytes, and whether any line of it is poisoned. -/
def emberRead (s : State) (eda n : Nat) : List Byte × Bool :=
  let v := (rowsOf eda n).foldl viewRow s
  (memBytes v.emb.mem eda n, (linesOf eda n).any (fun l => linePoisoned v l || lineSealed s l))

/-- Drops the bytes of a write that lie in channels out of service: they keep what the store holds (R196). -/
def maskOut (s : State) (eda : Nat) (bs : List Byte) : List Byte :=
  if (rowsOf eda bs.length).all (fun r => !chanOut s (chanOf s r)) then bs
  else (bs.zipIdx.map (fun (b, i) => if chanOut s (chanOf s (eda + i)) then memByte s.emb.mem (eda + i) else b))

/-- A write of bytes, poisoned or not. A line that the whole write covers takes the write's marker; a line that it covers in part keeps a marker that it has. -/
def emberWriteP (eda : Nat) (bs : List Byte) (poisoned : Bool) (s : State) : State :=
  let s := (rowsOf eda bs.length).foldl (fun s r => settleWrite r s) s
  let s' := { s with emb := { s.emb with mem := memPut s.emb.mem eda (maskOut s eda bs) } }
  (linesOf eda bs.length).foldl (fun t l =>
    let whole := decide (eda ≤ l * 64 ∧ (l + 1) * 64 ≤ eda + bs.length)
    if chanOut s (chanOf s (l * 64)) then t
    else if poisoned then setPoison l true t
    else if whole then setPoison l false t else t) s'

/-- An unpoisoned write. -/
def emberWrite (eda : Nat) (bs : List Byte) (s : State) : State := emberWriteP eda bs false s

/-- Whether no channel holds a plough fence, so that no access waits for a row-step. -/
def noFence (s : State) : Bool := s.emb.chans.all (fun e => e.2.fences.isEmpty)

/-- Fills chunks with zeros, skipping those in channels out of service (R219, R224). A zero is what an unlisted byte reads as, so the fill drops the cells and the markers. -/
def zeroChunks (eda chunks : Nat) (s : State) : State :=
  if noFence s then
    let hit := fun (a : Nat) => decide (eda ≤ a ∧ a < eda + 1024 * chunks) && !chanOut s (chanOf s a)
    { s with emb := { s.emb with mem := s.emb.mem.filter (fun e => !hit e.1), poison := s.emb.poison.filter (fun l => !hit (64 * l)) } }
  else
    (List.range chunks).foldl (fun s i => if chanOut s (chanOf s (eda + 1024 * i)) then s else emberWrite (eda + 1024 * i) (zeros 1024) s) s

/-- Copies `n` bytes with their poison markers, as PLOUGH.COPY and the copy engine do (R201, R225). -/
def copyBytes (src dst n : Nat) (s : State) : State :=
  let (bs, _) := emberRead s src n
  let bad := (linesOf src n).filter (linePoisoned s)
  let s := emberWrite dst bs s
  bad.foldl (fun s l => setPoison ((l * 64 + dst - src) / 64) true s) s

end Sys2Proof.Machine
end

