-- ==== Sys2Proof/Machine/Command.lean ====
section
/-! DEFINITION. How a command runs: device handles (R218), the checks that come before a unit's own, acceptance, completion (R50, R53, R54), and conflicts between orders (R73-R78). -/

namespace Sys2Proof.Machine

/-! Device handles (R218) -/

/-- The bytes of a region. -/
def regionSize (r : Region) : Nat := r.chunks * 1024

/-- The region and offset that a device handle names, when it is valid (R218). -/
def resolve (s : State) (h : Nat) : Option (Region × Nat) :=
  match tblGet? s.tir.regions (bitsOf h 40 24) with
  | none => none
  | some r => if h % 2 ^ 40 < regionSize r then some (r, h % 2 ^ 40) else none

/-- Chunk `k` of a list of runs. -/
def chunkOf : List (Nat × Nat) → Nat → Nat
  | [], _ => 0
  | (c, n) :: t, k => if k < n then c + k else chunkOf t (k - n)

/-- The EDA of a byte of a region: a composition region runs through its chunks in the order granted (R239). -/
def regionEda (r : Region) (off : Nat) : Nat :=
  match r.comp with
  | none => r.eda + off
  | some runs => chunkOf runs (off / 1024) * 1024 + off % 1024

/-- Cuts a run of a region at chunk boundaries where it is a composition region: EDA and length of each piece. -/
def regionRuns (r : Region) (off n : Nat) : List (Nat × Nat) :=
  match r.comp with
  | none => [(r.eda + off, n)]
  | some _ => (rowsOf off n).map (fun c => let a := max off c; let b := min (off + n) (c + 1024); (regionEda r a, b - a))

/-- Reads bytes of a region: what they are, and whether any line is poisoned. -/
def regionRead (s : State) (r : Region) (off n : Nat) : List Byte × Bool :=
  (regionRuns r off n).foldl (fun a e => let x := emberRead s e.1 e.2; (a.1 ++ x.1, a.2 || x.2)) ([], false)

/-- Writes bytes of a region. -/
def regionWriteP (r : Region) (off : Nat) (bs : List Byte) (poisoned : Bool) (s : State) : State :=
  ((regionRuns r off bs.length).foldl (fun a e => (emberWriteP e.1 (a.2.take e.2) poisoned a.1, a.2.drop e.2)) (s, bs)).1

/-! Checks before a unit's own (R4, R34, R50, R383, R512) -/

/-- The secure-only commands (R211, R269, R300, R359, R403, R423, R436, R497, R522) by unit and verb. -/
def secureOnly (unit verb : Nat) : Bool :=
  match unit with
  | 0x06 => [0x20, 0x30, 0x31].contains verb
  | 0x08 => [0x03, 0x20, 0x21].contains verb
  | 0x09 => verb == 0x20
  | 0x0A => [0x02, 0x10, 0x12, 0x21, 0x38, 0x3D].contains verb
  | 0x0B => [0x10, 0x11, 0x20, 0x21].contains verb
  | 0x0C => !([0x05, 0x12, 0x33].contains verb)
  | 0x0D => [0x01, 0x02, 0x23, 0x32, 0x3B, 0x40, 0x42].contains verb
  | 0x0E => [0x02, 0x03].contains verb
  | _ => false

/-- The commands accepted over Olnen (R383). -/
def remoteAllowed (unit verb : Nat) : Bool :=
  match unit with
  | 0x03 => verb == 0x01
  | 0x04 => [0x10, 0x20].contains verb
  | 0x06 => [0x01, 0x02, 0x03, 0x04, 0x05, 0x08, 0x10, 0x11].contains verb
  | 0x08 => [0x01, 0x02, 0x12, 0x10, 0x11].contains verb
  | 0x09 => verb == 0x10
  | _ => false

/-- The verbs that the chapters define, by unit (R53, R531). -/
def verbsOf : Nat → List Nat
  | 0x02 => [0x01, 0x02, 0x10, 0x11, 0x12, 0x20, 0x21, 0x22]
  | 0x03 => [0x01, 0x10, 0x11, 0x20, 0x21]
  | 0x04 => [0x01, 0x02, 0x10, 0x20]
  | 0x05 => [0x01, 0x02, 0x03]
  | 0x06 => [0x01, 0x02, 0x03, 0x04, 0x05, 0x08, 0x10, 0x11, 0x12, 0x18, 0x19, 0x20, 0x21, 0x22, 0x23, 0x30, 0x31, 0x32, 0x33]
  | 0x07 => [0x01, 0x02, 0x03]
  | 0x08 => [0x01, 0x02, 0x03, 0x10, 0x11, 0x12, 0x13, 0x20, 0x21, 0x22]
  | 0x09 => [0x01, 0x02, 0x03, 0x10, 0x11, 0x12, 0x20, 0x21]
  | 0x0A => [0x01, 0x02, 0x03, 0x04, 0x08, 0x09, 0x0A, 0x10, 0x11, 0x12, 0x13, 0x18, 0x19, 0x20, 0x21, 0x30, 0x31, 0x32, 0x33, 0x34, 0x35, 0x38, 0x39, 0x3A, 0x3B, 0x3C, 0x3D, 0x3E]
  | 0x0B => [0x01, 0x10, 0x11, 0x20, 0x21]
  | 0x0C => [0x01, 0x02, 0x03, 0x04, 0x05, 0x10, 0x11, 0x12, 0x13, 0x20, 0x30, 0x31, 0x32, 0x33, 0x34]
  | 0x0D => [0x01, 0x02, 0x03, 0x10, 0x20, 0x21, 0x22, 0x23, 0x30, 0x31, 0x32, 0x38, 0x39, 0x3A, 0x3B, 0x40, 0x41, 0x42]
  | 0x0E => [0x01, 0x02, 0x03]
  | _ => []

/-- The moment, in ms on the nominal timeline of R524, that a UNIT_STARTING hint takes for a unit. R524 gives no entry for the units themselves. DESIGN CHOICE, log entry 71: the Field, Kiln and Sheaf units at the end of the Field self-test, plough, the tier manager, the Seedbank and Gleaner at the end of Ember training, Olnen at discovery, and every other unit from the start of the CCS. -/
def serviceMs : Nat → Nat
  | 0x02 | 0x03 | 0x04 => 500
  | 0x05 | 0x06 | 0x08 | 0x09 => 350
  | 0x0A => 750
  | _ => 100

/-- Whether a unit is in service (R34, R524). -/
def inService (s : State) : Nat → Bool
  | 0x02 | 0x03 | 0x04 => s.mod.fieldTested && s.emb.trained
  | 0x05 | 0x06 | 0x08 | 0x09 => s.emb.trained
  | 0x0A => s.oln.accepts
  | _ => true

/-- The retry-after hint of UNIT_STARTING: the time to a moment on the nominal timeline (R34, R86). -/
def startHint (s : State) (atMs : Nat) : Nat := hintUs (ceilDiv (s.mod.t0 + atMs * ms - s.now) us)

/-- The time left in the journal replay, as the module estimates it (R34, R237). -/
def mountHint (s : State) : Nat × State :=
  if s.tir.clean then (startHint s 700, s) else let (k, s) := fresh s; (hintUs (Config.hint k), s)

/-- The completion of a command that needs Peat before the mount ends (R34, R233). -/
def peatStarting (s : State) : Done × State := let (h, s) := mountHint s; ({ status := .unitStarting, hint := h }, s)

/-- Where a command carries its VERSION, whose only value is 0x01 (R526): in its input buffer or in its ARGS, at which byte. -/
def versionAt (unit verb : Nat) : Option (Bool × Nat) :=
  match unit, verb with
  | 0x03, 0x01 => some (false, 55)
  | 0x04, 0x01 => some (true, 8)
  | 0x04, 0x10 => some (false, 42)
  | 0x05, _ => some (false, 35)
  | 0x06, 0x01 => some (false, 42)
  | 0x07, _ => some (false, 35)
  | 0x08, _ => some (false, 35)
  | 0x09, 0x01 => some (true, 1)
  | 0x09, 0x10 => some (false, 39)
  | 0x0C, 0x01 => some (true, 3)
  | 0x0C, 0x10 => some (true, 1)
  | _, _ => none

/-- The check of VERSION (R526). -/
def versionCheck (unit verb : Nat) (c : Cmd) : Option Status :=
  match versionAt unit verb with
  | none => none
  | some (false, off) => if argU c off 1 == 1 then none else some .unsupportedVersion
  | some (true, off) => if c.inLen ≤ off then some .badLength else if inU c off 1 == 1 then none else some .unsupportedVersion

/-- The general checks in the order of log entry 8, the VERSION check first as R526 has it; none when the command goes on to its unit's own. -/
def gate (unit verb : Nat) (c : Cmd) (s : State) : Option Done :=
  if !(verbsOf unit).contains verb then some { status := .invalidOpcode }
  else match versionCheck unit verb c with
  | some e => some { status := e }
  | none =>
    if unit == 0x09 && isC s then some { status := .unitAbsent }
    else if unit == 0x06 && (verb == 0x12 || verb == 0x22) && !hasPeat s then some { status := .unitAbsent }
    else if s.mod.shutdown && !(unit == 0x0E && verb == 0x01) then some { status := .badState }
    else if s.cln.phase == .unitsStarting && !inService s unit then some { status := .unitStarting, hint := startHint s (serviceMs unit) }
    else if secureOnly unit verb && !isSecure c then some { status := .permission }
    else if (match c.issuer with | .remote .. => !remoteAllowed unit verb | _ => false) then some { status := .permission }
    else none

/-- Whether the input lies in device memory and has a poisoned line (R192). -/
def inputPoisoned (c : Cmd) (s : State) : Bool := c.inDevice && (match resolve s c.inAddr with | none => false | some (r, off) => (regionRead s r off c.inLen).2)

/-- Whether a handle names a protected region (R448). -/
def protectedAt (s : State) (h : Nat) : Bool := match resolve s h with | none => false | some (r, _) => r.prot

/-- The WEIGHT slot whose plaintext the region of a handle holds (R451). -/
def weightsAt (s : State) (dev : Bool) (h : Nat) : Option Nat := if dev then tblGet? s.sec.weights (bitsOf h 40 24) else none

/-- Whether an identity is a member of a slot's binding group (R450, R451). -/
def inGroup (s : State) (slot uid : Nat) : Bool :=
  match tblGet? s.sec.keys slot with
  | none => false
  | some k => match tblGet? s.sec.groups k.group with | none => false | some g => g.members.contains uid

/-- Whether a handle names a protected region whose context's MEM_KEY slot holds no key (R445). -/
def handleSealed (s : State) (dev : Bool) (h : Nat) : Bool :=
  dev && (match resolve s h with
    | none => false
    | some (r, _) => r.prot && !(match getCtx? s r.ctx with | none => false | some x => tblHas s.sec.keys x.memKey))

/-- The general checks on the buffers, after a unit's VERSION check (R53, R218): lengths of at most 64 MiB, device handles that are valid and the issuer's, a key for a protected region (R445). -/
def bufferRefused (c : Cmd) (s : State) : Option Status :=
  let handle := fun (dev : Bool) (h n : Nat) =>
    if !dev then none else
    match resolve s h with
    | none => some Status.badAddress
    | some (r, off) => if !mayName s c r.ctx then some Status.badContext else if off + n ≤ regionSize r then none else some Status.badAddress
  if c.inLen > 2 ^ 26 || c.outLen > 2 ^ 26 then some .badLength
  else match handle c.inDevice c.inAddr c.inLen with
  | some e => some e
  | none =>
    match handle c.outDevice c.outAddr c.outLen with
    | some e => some e
    | none => if handleSealed s c.inDevice c.inAddr || handleSealed s c.outDevice c.outAddr then some .keyRevoked else none

/-- The general checks on the buffers, and no poison in the input (R192). -/
def bufferCheck (c : Cmd) (s : State) : Option Status :=
  match bufferRefused c s with
  | some e => some e
  | none => if inputPoisoned c s then some .memoryError else none

/-- The command with the bytes of its input buffer: the host's as the DMA read them, or those of the region that a device handle names. -/
def withInput (c : Cmd) (s : State) : Cmd :=
  if !c.inDevice then { c with input := c.input.take c.inLen } else
  match resolve s c.inAddr with
  | none => { c with input := [] }
  | some (r, off) => { c with input := (regionRead s r off (min c.inLen (regionSize r - off))).1 }

/-! Acceptance and completion -/

/-- Takes a new order number. -/
def takeOid (s : State) : Nat × State := (s.cln.nextOid, { s with cln := { s.cln with nextOid := s.cln.nextOid + 1 } })

/-- Whether the CCS accepts commands and Cloni runs (R34). -/
def ccsRuns (s : State) : Bool :=
  match s.cln.phase with
  | .unitsStarting | .fullService => true
  | _ => false

/-- Whether Cloni is halted or restarts (R79, R82). -/
def halted (s : State) : Bool :=
  match s.cln.phase with
  | .fault | .restarting => true
  | _ => false

/-- The fields of a mailbox word (R39). -/
def wordArg (w : Word) : Nat := bitsOf w.toNat 0 48
def wordTag (w : Word) : Nat := bitsOf w.toNat 48 8
def wordOp (w : Word) : Nat := bitsOf w.toNat 56 8

/-- Whether a command came through a channel. -/
def fromChannel (ch : Nat) (c : Cmd) : Bool :=
  match c.issuer with
  | .mailbox k _ => k == ch
  | _ => false

/-- Whether a CCS.INDIRECT word waits for its descriptor's FENCE: an earlier command of the channel has not completed (R50, R53). -/
def wordFenced (ch : Nat) (a : Accepted) (s : State) : Bool :=
  wordOp a.word == 0xF0 && bitOf (getU a.param 4 4) 0 && (s.cln.inflight.any (fun e => fromChannel ch e.2) || s.cln.fetched.any (fun l => fromChannel ch l.cmd))

/-- The order numbers of what is accepted and may start: fetched commands, and the oldest word of each channel that no FENCE holds. -/
def waitingOids (s : State) : List Nat :=
  s.cln.fetched.map (·.oid) ++ s.cln.mbx.filterMap (fun e => match e.2.accepted with
    | [] => none
    | a :: _ => if wordFenced e.1 a s then none else some a.oid)

/-- Whether nothing that may start was accepted before an order number: what Cloni starts, it starts in acceptance order (R46, R56, R72). -/
def isNext (s : State) (oid : Nat) : Bool := (waitingOids s).all (fun n => decide (oid ≤ n))

/-- Whether a command's row starts it: Cloni runs, and the command is the oldest that waits. A command that was never fetched is accepted by its own row, and started at once when nothing waits (log entry 72). -/
def mayStart (c : Cmd) (s : State) : Bool :=
  ccsRuns s && (match s.cln.fetched.find? (fun l => l.cmd == c) with
    | some l => isNext s l.oid
    | none => (waitingOids s).isEmpty)

/-- When a command that its own row accepts was accepted, and from which endpoint. -/
def acceptNow (c : Cmd) (s : State) : Accept :=
  { time := s.now, eid := match c.issuer with | .mailbox ch _ => (getMbx s ch).eid | _ => 0 }

/-- Gives a command an order number; a ring counts it among its fetched ones. -/
def numberCmd (c : Cmd) (s : State) : Nat × State :=
  let (oid, s) := takeOid s
  match c.issuer with
  | .ring r => (oid, modRing r (fun x => { x with outstanding := x.outstanding + 1, live := x.live ++ [oid] }) s)
  | _ => (oid, s)

/-- Notes which command Cloni executes now, and when it was accepted. -/
def startOrder (oid : Nat) (a : Accept) (s : State) : State :=
  { s with cln := { s.cln with accepts := tblSet s.cln.accepts oid a, current := oid } }

/-- Takes a command from those that are fetched and not dispatched, or accepts it now: its order number. -/
def takeOrder (c : Cmd) (s : State) : Nat × State :=
  match s.cln.fetched.find? (fun l => l.cmd == c) with
  | some l => (l.oid, startOrder l.oid l.acc { s with cln := { s.cln with fetched := removeFirst (fun l => l.cmd == c) s.cln.fetched } })
  | none => let (oid, t) := numberCmd c s; (oid, startOrder oid (acceptNow c s) t)

/-- A command whose row comes while others wait, or while Cloni does not run: it stays fetched, or is accepted behind them; nothing is accepted while the CCS does not run. -/
def putBehind (c : Cmd) (s : State) : State :=
  if !ccsRuns s || s.cln.fetched.any (fun l => l.cmd == c) then s
  else let (oid, t) := numberCmd c s; { t with cln := { t.cln with fetched := t.cln.fetched ++ [{ oid := oid, cmd := c, acc := acceptNow c s }] } }

/-- Whether data writes to output buffers carry relaxed ordering: bit 4 of Device Control enables it (R32; the bit's place PRESUMED, log entry 76). -/
def relaxedData (s : State) : Bool := bitOf s.cln.cfg.devCtl 4

/-- Writes a command's output where OUT_ADDR says: the ordinary output, then the detail block of R54. Poisoned output sets the poison of the lines that it fills; in host memory its bits are free values (R192). -/
def writeOutput (c : Cmd) (d : Done) (s : State) : State :=
  let put := fun (off : Nat) (bs : List Byte) (bad : Bool) (s : State) =>
    if bs.isEmpty then s
    else if c.outDevice then
      match resolve s c.outAddr with
      | none => s
      | some (r, o) => regionWriteP r (o + off) bs bad s
    else if bad then
      let (k, s) := fresh s
      emit (.hostWrite (c.outAddr + off) ((List.range bs.length).map (fun i => Config.junk (k * 2 ^ 32 + i))) (relaxedData s)) s
    else emit (.hostWrite (c.outAddr + off) bs (relaxedData s)) s
  let (off, det) := detailTaken c d
  let s := put 0 (outTaken c d) d.poisoned s
  let s := if c.outDevice then d.badRuns.foldl (fun s r => put r.1 (((outTaken c d).drop r.1).take r.2) true s) s else s
  put off det false s

/-- OUT_BYTES of a command (R53). -/
def outBytes (c : Cmd) (d : Done) : Nat := (outTaken c d).length + d.placed

/-- What a command whose completion a function-level reset discards still writes: output in device memory, for it runs to completion inside the module (R84). -/
def writeInside (c : Cmd) (d : Done) (s : State) : State := if c.outDevice then writeOutput c d s else s

/-- Answers a remote command by a COMMAND_DONE message (R382). -/
def answerRemote (c : Cmd) (d : Done) (s : State) : State :=
  match c.issuer with
  | .remote n x k tag => sendDone n x k tag (recordBytes c d true 0 (outBytes c d) ++ outTaken c d) s
  | _ => s

/-- Counts a completion of KILN.ATTEND (R156), whatever ends it. -/
def countAttend (c : Cmd) (d : Done) (s : State) : State :=
  if c.unit == 0x03 && c.verb == 0x01 then { s with kln := { s.kln with commands := (s.kln.commands + 1) % 2 ^ 32, nanCommands := satAdd 16 s.kln.nanCommands (b2n (bitOf d.r0 56)) } } else s

/-- Ends a command. A ring's completion waits for COMMAND_COMPLETE; CCS.INDIRECT is answered on its channel with the 32-byte record (R50); a remote one by a COMMAND_DONE message (R382), which waits while Cloni restarts (R80). -/
def complete (oid : Nat) (c : Cmd) (d : Done) (s : State) : State :=
  let s := { s with cln := { s.cln with inflight := tblDel s.cln.inflight oid, accepts := tblDel s.cln.accepts oid } }
  let s := countAttend c d (if d.status == .busy then profileAdd (cmdCtx s c) 5 1 s else s)
  match c.issuer with
  | .ring _ =>
    if s.cln.discard.contains oid then writeInside c d { s with cln := { s.cln with discard := setDel s.cln.discard oid } }
    else { s with cln := { s.cln with done := s.cln.done ++ [{ oid := oid, cmd := c, done := d }] } }
  | .mailbox ch tag =>
    let hint := d.status == .busy || d.status == .unitStarting
    if s.cln.discard.contains oid then writeInside c d { s with cln := { s.cln with discard := setDel s.cln.discard oid } }
    else postReply ch tag d.status (if hint then d.hint else 32) (recordBytes c d true 0 (outBytes c d)) 32 (writeOutput c d s)
  | .remote .. => if halted s then { s with cln := { s.cln with heldDone := s.cln.heldDone ++ [{ oid := oid, cmd := c, done := d }] } } else answerRemote c d s
  | .firmware => s

/-- Ends a command in flight by its order number. -/
def finish (oid : Nat) (d : Done) (s : State) : State :=
  match tblGet? s.cln.inflight oid with
  | none => s
  | some c => complete oid c d s

/-- What a unit answers at acceptance: the command's end, or that it is in flight. -/
inductive Answer where
  | done (d : Done)
  | wait
deriving DecidableEq, Repr

/-- An answer that only states a status. -/
def fail (st : Status) : Answer := .done { status := st }

/-- An answer of SUCCESS with results. -/
def ok (r0 : Nat := 0) (r1 : Nat := 0) : Answer := .done { r0 := r0, r1 := r1 }

/-- The end of a command that consumed a poisoned line of its input: its `n` bytes of output are delivered poisoned, with free bits (R192). -/
def poisonedEnd (n : Nat) (s : State) : Answer × State :=
  let (k, s) := fresh s
  (.done { status := .memoryError, output := (List.range n).map (fun i => Config.junk (k * 2 ^ 32 + i)), space := n, poisoned := true }, s)

/-- The answer of a command with `n` bytes of output that a check ends. -/
def failInput (e : Status) (n : Nat) (s : State) : Answer × State := if e == .memoryError then poisonedEnd n s else (fail e, s)

/-- Runs a command: takes it from the fetched ones, makes the general checks, and lets its unit answer. -/
def startCmd (unit verb : Nat) (c : Cmd) (body : Nat → Cmd → State → Answer × State) (s : State) : State :=
  let (oid, s) := takeOrder c s
  let c' := withInput c s
  match gate unit verb c' s with
  | some d => complete oid c' d s
  | none =>
    match body oid c' s with
    | (.done d, s) => complete oid c' d s
    | (.wait, s) => { s with cln := { s.cln with inflight := tblSet s.cln.inflight oid c' } }

/-- A command's row: the command runs when it is the oldest that waits, else it stays among the fetched ones (R46, R56, R72, R81). -/
def runCmd (unit verb : Nat) (c : Cmd) (body : Nat → Cmd → State → Answer × State) (s : State) : State :=
  if mayStart c s then startCmd unit verb c body s else putBehind c s

/-- Lets a command that waits be answered again by its unit. -/
def retryCmd (oid : Nat) (body : Nat → Cmd → State → Answer × State) (s : State) : State :=
  match tblGet? s.cln.inflight oid with
  | none => s
  | some c =>
    match body oid c { s with cln := { s.cln with current := oid } } with
    | (.done d, s) => complete oid c d s
    | (.wait, s) => s

/-- A change that governs from the next sweep, with the completion posted then (R529). -/
def stage (oid : Nat) (c : Cmd) (d : Done) (ch : Change) (s : State) : Answer × State :=
  (.wait, { s with cln := { s.cln with staged := s.cln.staged ++ [{ oid := oid, cmd := c, done := d, change := ch }] } })

/-- The value that a parameter will have once every staged change has been applied; a later order's checks use it. -/
def stagedValue (s : State) (pick : Change → Option Nat) (now : Nat) : Nat :=
  s.cln.staged.foldl (fun v g => (pick g.change).getD v) now

/-! Conflicts (R73-R78) -/

/-- The number of a mailbox channel in a CONFLICT record: as R48 numbers them, secure n as n and non-secure n as 0x20 + n. -/
def channelNumber (ch : Nat) : Nat := if ch < 8 then ch else 0x20 + (ch - 8)

/-- When the command that Cloni executes now was accepted, and from which endpoint it came. -/
def currentAccept (s : State) : Accept := (tblGet? s.cln.accepts s.cln.current).getD { time := s.now }

/-- The DETAIL of CONFLICT about the other issuer (R77, R467), whose order came from the MCTP endpoint `eid` if it came over MCTP. DESIGN CHOICE, log entry 73: R77 names mailbox channels and rings only; a remote issuer is named by path 0, number 0 and its TAG, firmware by path 0, number 0 and TAG 0. -/
def conflictDetail (eid : Nat) (i : Issuer) (cid : Nat) (t : Target) : List Byte :=
  let tail := leBytes 1 t.unit ++ zeros 1 ++ leBytes 4 t.obj
  match i with
  | .mailbox ch tag =>
    let m := (mgmtNumber ch).isSome
    leBytes 1 (b2n m) ++ leBytes 1 (if m then eid else 0) ++ zeros 2 ++ leBytes 4 (channelNumber ch) ++ leBytes 2 tag ++ tail
  | .ring r => zeros 4 ++ leBytes 4 r ++ leBytes 2 cid ++ tail
  | .remote _ _ _ tag => zeros 4 ++ leBytes 4 0 ++ leBytes 2 tag ++ tail
  | .firmware => zeros 8 ++ leBytes 2 0 ++ tail

/-- Whether two orders demand different things (R74): different ranks of one family, or different values. -/
def ordersDiffer : Order → Order → Bool
  | .service a, .service b => a != b
  | .activation a, .activation b => a != b
  | .content a, .content b => a != b
  | .value a, .value b => a != b
  | _, _ => false

/-- Whether the later order is less safe than the earlier: a higher rank of the same family (R73, R75). -/
def lessSafe : Order → Order → Bool
  | .service a, .service b => decide (a < b)
  | .activation a, .activation b => decide (a < b)
  | .content a, .content b => decide (a < b)
  | _, _ => false

/-- Whether two issuers are the same one (R74, R78): a channel or a ring, whatever the tag. DESIGN CHOICE, log entry 73: R74 names only channels and rings; a remote flow (node, context, local context) and Cloni's firmware each count as one issuer. -/
def sameIssuer : Issuer → Issuer → Bool
  | .mailbox a _, .mailbox b _ => a == b
  | .ring a, .ring b => a == b
  | .remote a b c _, .remote x y z _ => a == x && b == y && c == z
  | .firmware, .firmware => true
  | _, _ => false

/-- Whether two orders were accepted within 20 µs of each other (R74). -/
def within20 (a b : Accept) : Bool := decide (a.time ≤ b.time + 20 * us ∧ b.time ≤ a.time + 20 * us)

/-- Judges an order against the most recent one applied to its target (R74-R78): whether it is applied, which is recorded. A conflict raises CONFLICT to both issuers. A meaning asks after all its own checks, so that an order that a check refuses is no order applied. -/
def judge (c : Cmd) (t : Target) (o : Order) (s : State) : Bool × State :=
  let acc := currentAccept s
  let mine : Applied := { target := t, issuer := c.issuer, cid := c.cid, ctx := cmdCtx s c, order := o, acc := acc }
  let put := fun (s : State) => { s with cln := { s.cln with orders := (s.cln.orders.filter (fun a => a.target != t)) ++ [mine] } }
  match s.cln.orders.find? (fun a => a.target == t && within20 a.acc acc) with
  | none => (true, put s)
  | some a =>
    if sameIssuer a.issuer c.issuer || !ordersDiffer a.order o then (true, put s)
    else
      let s := raise .conflict [issuerRcpt s c.issuer] (conflictDetail a.acc.eid a.issuer a.cid t) s
      let s := raise .conflict [match a.issuer with | .ring _ => .ctx a.ctx | i => issuerRcpt s i] (conflictDetail acc.eid c.issuer c.cid t) s
      if lessSafe a.order o then (false, s) else (true, put s)

end Sys2Proof.Machine
end

