-- ==== Sys2Proof/Machine/Mailbox.lean ====
section
/-! DEFINITION. Mailboxes (R39-R50), Cloni's phases and restarts (R37, R79-R86), and the mailbox opcodes. -/

namespace Sys2Proof.Machine

/-- Counts a refused access in CLN_BAD_ACCESS (R36, R37). -/
def badAccess (bar : Bar) (off : Nat) (s : State) : State :=
  { s with cln := { s.cln with badCount := satAdd 32 s.cln.badCount 1, badOffset := off % 2 ^ 24, badBar := match bar with | .b0 => 0 | .b2 => 2 | .b4 => 4 } }

/-- The BAR0 offset of a channel's block (R35). -/
def mbxBase (ch : Nat) : Nat := if ch < 8 then 0x10000 + ch * 0x400 else 0x14000 + (ch - 8) * 0x400

/-- The MSI-X vector of a channel (R47). -/
def mbxVector (ch : Nat) : Nat := 1 + ch

/-- Whether a channel is one of the management channels, reachable only over MCTP (R40). -/
def isMgmt (ch : Nat) : Bool := (mgmtNumber ch).isSome

/-- SECURE_PATH as it stands: IDE while confidential mode is in force, else what SEC.CONFIG has set (R435, R456). -/
def securePathOf (s : State) : Nat := if s.sec.conf then 1 else s.sec.securePath

/-- Whether a PCIe access qualifies as secure (R435). -/
def qualifies (s : State) (ide : IdeTag) : Bool :=
  securePathOf s == 0 || (ide.stream == s.sec.secureStream && ide.secure && s.sec.ideSecure.contains ide.stream)

/-- Lets a PCIe access to a channel's block through, or refuses it (R40). -/
def mbxAccess (ch off : Nat) (ide : IdeTag) (act : State → State) (s : State) : State :=
  let s := lightAct 0 s
  if barsClosed s then s
  else if 32 ≤ ch || isMgmt ch then badAccess .b0 (mbxBase ch + off) s
  else if ch < 6 && !qualifies s ide then raiseNode .secureAccessDenied (leBytes 4 (mbxBase ch + off)) (badAccess .b0 (mbxBase ch + off) s)
  else act s

/-- Stores an inbound word (R41), or replaces the waiting one (R42). -/
def putInWord (ch : Nat) (w : Word) (s : State) : State :=
  let m := getMbx s ch
  if m.full then setMbx ch { m with inWord := w, collision := true, collisions := satAdd 8 m.collisions 1 } s
  else setMbx ch { m with inWord := w, full := true } s

/-- Stores PARAM bytes, or drops them while FULL is 1 (R45). -/
def putParam (ch off : Nat) (bs : List Byte) (s : State) : State :=
  let m := getMbx s ch
  if m.full then setMbx ch { m with paramReject := true } s
  else setMbx ch { m with param := putBytes m.param off bs } s

/-- Raises a channel's vector for a 0-to-1 transition while IRQ_EN is 1 (R47). -/
def mbxRaise (ch : Nat) (was : Bool) (s : State) : State :=
  if !was && (getMbx s ch).irqEn && !isMgmt ch then raiseVector (mbxVector ch) s else s

/-- Replies that a channel holds, counting the one in CLN_MBX_OUT (R44). -/
def repliesHeld (m : Mbx) : Nat := m.replies.length + b2n m.outFull

/-- Commands of a channel that Cloni has accepted and not answered (R46). -/
def mbxOutstanding (s : State) (ch : Nat) : Nat :=
  (getMbx s ch).accepted.length + (s.cln.inflight.filter (fun e => fromChannel ch e.2)).length + (s.cln.fetched.filter (fun l => fromChannel ch l.cmd)).length

/-- Whether Cloni's firmware runs and accepts words (R86). -/
def fwRuns (s : State) : Bool :=
  match s.cln.phase with
  | .fwRun | .unitsStarting | .fullService => true
  | _ => false

/-- The mailbox opcodes of R49. -/
def mbxOpcodes : List Nat := [0x01, 0x02, 0x10, 0x11, 0x12, 0x13, 0x18, 0x19, 0xF0]

/-- MBX_IN_WRITE (R40-R43). -/
def execMbxInWrite (ch : Nat) (word : Word) (ide : IdeTag) (s : State) : Host.Outcome State Fault Refusal :=
  .next (hostTlp (mbxAccess ch 0 ide (putInWord ch word) s))

/-- PARAM_WRITE (R40, R45). -/
def execParamWrite (ch off : Nat) (bytes : List Byte) (ide : IdeTag) (s : State) : Host.Outcome State Fault Refusal :=
  .next (hostTlp (mbxAccess ch (0x200 + off) ide (putParam ch off bytes) s))

/-- MBX_OUT_RELEASE: a write of 1 to OUT_FULL (R39, R46). -/
def execMbxOutRelease (ch : Nat) (ide : IdeTag) (s : State) : Host.Outcome State Fault Refusal :=
  .next (hostTlp (mbxAccess ch 0x10 ide (fun s => setMbx ch { getMbx s ch with outFull := false } s) s))

/-- The channel that a management-channel message names (R48). -/
def channelOfNumber : Nat → Option Nat
  | 0x06 => some 6
  | 0x07 => some 7
  | 0x36 => some 30
  | 0x37 => some 31
  | _ => none

/-- MCTP_MBX_REQUEST (R48): a request acts as writes of PARAM and of CLN_MBX_IN; before FW_RUN it is dropped (R525). DESIGN CHOICE, log entry 74: R48 drops other KIND values only; a request with a PARAM_LEN above 256 or a CHANNEL outside the table is dropped likewise. -/
def execMctpMbxRequest (eid kind channel : Nat) (param : List Byte) (word : Word) (s : State) : Host.Outcome State Fault Refusal :=
  .next (match channelOfNumber channel with
  | none => s
  | some ch =>
    if kind != 1 || 256 < param.length || s.cln.phase == .bootRom || s.cln.phase == .fwAuth then s
    else
      let s := putInWord ch word (putParam ch 0 param s)
      setMbx ch { getMbx s ch with eid := eid } s)

/-- Cloni takes a channel's word with a copy of PARAM (R44). It takes one only while the replies held and the commands outstanding are fewer than 16 together, so that R44's bound, R46's bound and the range of OUT_PENDING all hold (DEDUCED, log entry 75). A word that no opcode of R49 names, that comes before the CCS accepts commands (R86) or after a completed shutdown (R512) is answered at once. -/
def acceptWord (ch : Nat) (s : State) : State :=
  let m := getMbx s ch
  if !m.full || !fwRuns s || 16 ≤ repliesHeld m + mbxOutstanding s ch then s
  else
    let s := mbxRaise ch m.inEmptied (setMbx ch { m with full := false, inEmptied := true } s)
    let op := wordOp m.inWord
    let tag := wordTag m.inWord
    if s.cln.phase == .fwRun && op != 0x01 && op != 0x02 then postReply ch tag .unitStarting (startHint s 100) [] 0 s
    else if !mbxOpcodes.contains op then postReply ch tag .invalidOpcode 0 [] 0 s
    else if s.mod.shutdown && !([0x01, 0x02, 0xF0].contains op) then postReply ch tag .badState 0 [] 0 s
    else
      let (oid, s) := takeOid s
      setMbx ch { getMbx s ch with accepted := m.accepted ++ [{ word := m.inWord, param := m.param, oid := oid, acc := { time := s.now, eid := m.eid } }] } s

/-- MBX_ACCEPT (R44). -/
def execMbxAccept (ch : Nat) (s : State) : Host.Outcome State Fault Refusal := .next (acceptWord ch s)

/-- The MCTP reply of a management channel (R48). -/
def mctpReply (ch : Nat) (r : Reply) : List Byte :=
  leBytes 1 2 ++ leBytes 1 ((mgmtNumber ch).getD 0) ++ leBytes 2 r.len ++ leBytes 8 r.word.toNat ++ (r.bytes ++ zeros r.len).take r.len

/-- MBX_REPLY_POST (R46-R48): the oldest reply goes to RESULT and CLN_MBX_OUT, and OUT_FULL is set; a management channel's reply is sent over MCTP, which releases it. Nothing is posted while Cloni is halted or restarts (R80, R82). -/
def execMbxReplyPost (ch : Nat) (s : State) : Host.Outcome State Fault Refusal :=
  let m := getMbx s ch
  .next (match m.replies with
  | [] => s
  | r :: rest =>
    if m.outFull || halted s then s
    else
      let s := setMbx ch { m with replies := rest, result := putBytes m.result 0 r.bytes, outWord := r.word, outFull := !isMgmt ch } s
      if isMgmt ch then emit (.mctp (mctpReply ch r)) s else mbxRaise ch false s)

/-! Control register, heartbeat and restarts -/

/-- FETCH_HOLD_WRITE (R37). -/
def execFetchHoldWrite (v : Bool) (s : State) : Host.Outcome State Fault Refusal :=
  let s := lightAct 0 s
  .next (hostTlp (if barsClosed s then s else { s with cln := { s.cln with fetchHold := v } }))

/-- Restarts Cloni: READY 0, PHASE RESTARTING or FAULT, and CLONI_RESTART (R79, R82). -/
def restartCloni (toFault inj : Bool) (s : State) : State :=
  let resume := match s.cln.phase with | .fault | .restarting => s.cln.resume | p => p
  let n := satAdd 16 s.cln.restartCount 1
  let s := { s with cln := { s.cln with restartCount := n, ready := false, resume := resume, phase := if toFault then .fault else .restarting } }
  raiseN .cloniRestart inj 1 [.ctx 0] (leBytes 2 n ++ leBytes 1 (b2n toFault)) s

/-- SOFT_RESTART (R37, R82): honoured only while PHASE is FAULT. -/
def execSoftRestart (s : State) : Host.Outcome State Fault Refusal :=
  let s := lightAct 0 s
  .next (hostTlp (if s.cln.phase == .fault && !barsClosed s then restartCloni false false s else s))

/-- HEARTBEAT_TICK (R37, R38): firmware advances COUNT while it runs. -/
def execHeartbeatTick (s : State) : Host.Outcome State Fault Refusal :=
  .next (if fwRuns s then { s with cln := { s.cln with heartbeat := (s.cln.heartbeat + 1) % 2 ^ 32 } } else s)

/-- LOCKSTEP_MISMATCH (R37, R79, R82): in a restart it counts as in a run; a halted Cloni retires nothing, so none occurs there. -/
def execLockstepMismatch (s : State) : Host.Outcome State Fault Refusal :=
  .next (if s.cln.phase == .fault then s
  else
    let (fired, s) := sparkCheck 0x0101 0 s
    let inj := fired.isSome
    let times := s.now :: s.cln.mismatches.filter (fun t => decide (s.now < t + 10 * sec))
    let y := s.hlt.tally
    let y := if inj then { y with injected := satAdd 32 y.injected 1 } else { y with restarts := satAdd 32 y.restarts 1 }
    restartCloni (3 ≤ times.length) inj { s with cln := { s.cln with lockstepFault := true, mismatches := times }, hlt := { s.hlt with tally := y } })

/-- Answers every accepted word of a channel with ABORTED (R81); a function-level reset discards the answer (R84). -/
def abortWords (ch : Nat) (s : State) : State :=
  let m := getMbx s ch
  m.accepted.foldl (fun s a =>
    if s.cln.discard.contains a.oid then { s with cln := { s.cln with discard := setDel s.cln.discard a.oid } }
    else postReply ch (wordTag a.word) .aborted 0 [] 0 s) (setMbx ch { m with accepted := [] } s)

/-- CLONI_RESTART_DONE (R80, R81): Cloni runs again; commands accepted and not dispatched complete with ABORTED, and the answers held back are posted. -/
def execCloniRestartDone (s : State) : Host.Outcome State Fault Refusal :=
  .next (if s.cln.phase != .restarting then s
  else
    let waiting := s.cln.fetched
    let held := s.cln.heldDone
    let s := { s with cln := { s.cln with phase := s.cln.resume, ready := (s.cln.resume == .unitsStarting || s.cln.resume == .fullService), fetched := [], heldDone := [] } }
    let s := held.foldl (fun s f => answerRemote f.cmd f.done s) s
    let s := waiting.foldl (fun s l => complete l.oid l.cmd { status := .aborted } s) s
    (List.range 32).foldl (fun s ch => abortWords ch s) s)

/-! The mailbox opcodes (R49) -/

/-- Runs the oldest accepted word of a channel when it has the opcode, is the oldest of all that may start (R72), and no FENCE holds it: `act` gets the word as accepted. -/
def withAccepted (ch op : Nat) (act : Accepted → State → State) (s : State) : State :=
  let m := getMbx s ch
  match m.accepted with
  | [] => s
  | a :: rest =>
    if wordOp a.word == op && fwRuns s && isNext s a.oid && !wordFenced ch a s then act a (setMbx ch { m with accepted := rest } s)
    else s

/-- The same for an opcode that firmware answers: `act` gets the word's TAG, ARG and PARAM. -/
def withWord (ch op : Nat) (act : Nat → Nat → List Byte → State → State) (s : State) : State :=
  withAccepted ch op (fun a => act (wordTag a.word) (wordArg a.word) a.param) s

/-- The capability words (R8). -/
def cap0 (s : State) : Nat :=
  let c := isC s
  0xB1 + (match s.fuse.variant with | .a => 1 | .b => 2 | .c => 3) * 2 ^ 8 + (if c then 0x003F else 0x0FFF) * 2 ^ 16 +
  (if c then 0x00FF else 0xFFFF) * 2 ^ 32 + guaranteed s * 2 ^ 48 + b2n (hasGleaner s) * 2 ^ 56 + b2n (hasPeat s) * 2 ^ 57 + 2 ^ 58 + 2 ^ 59
def cap1 (s : State) : Nat :=
  (match s.fuse.variant with | .a => 32 | .b => 0 | .c => 16) + (if isC s then 384 else 768) * 2 ^ 16 + 3 * 2 ^ 32 + 3 * 2 ^ 40 + 2 * 2 ^ 48
def cap2 (s : State) : Nat := s.fuse.coreMap % 2 ^ 64
def cap3 (s : State) : Nat := bitsOf s.fuse.coreMap 64 8

/-- A firmware bank. -/
def fwBank (s : State) (b : Nat) : List (Nat × Byte) := if b == 0 then s.sec.bank0 else s.sec.bank1

/-- A field of a firmware image's header (R458). -/
def fwField (s : State) (b off n : Nat) : Nat := leNat (memBytes (fwBank s b) off n)

/-- The 64 bytes of CAP.QUERY (R85). -/
def capBytes (s : State) : List Byte :=
  leBytes 8 (cap0 s) ++ leBytes 8 (cap1 s) ++ leBytes 8 (cap2 s) ++ leBytes 8 (cap3 s) ++
  leBytes 16 s.fuse.uid.toNat ++ leBytes 8 (fwField s s.sec.running 12 4) ++ zeros 8

/-- CAP_QUERY (R49, R85). -/
def execCapQuery (ch : Nat) (s : State) : Host.Outcome State Fault Refusal :=
  .next (withWord ch 0x01 (fun tag arg _ s =>
    if arg != 0 then postReply ch tag .badParameter 0 [] 0 s else postReply ch tag .success 64 (capBytes s) 64 s) s)

/-- CLN_ECHO (R49): ARG comes back unchanged. -/
def execClnEcho (ch : Nat) (s : State) : Host.Outcome State Fault Refusal :=
  .next (withWord ch 0x02 (fun tag arg _ s => postReply ch tag .success arg [] 0 s) s)

/-- The command of a submission descriptor (R53), with the bytes read from its input buffer. -/
def cmdOf (i : Issuer) (d : List Byte) (input : List Byte) : Cmd :=
  let flags := getU d 4 4
  { issuer := i, unit := getU d 1 1, verb := getU d 0 1, cid := getU d 2 2,
    fence := bitOf flags 0, noIrq := bitOf flags 1, inDevice := bitOf flags 2, outDevice := bitOf flags 3, reserved := flags / 16,
    inAddr := getU d 8 8, inLen := getU d 16 4, outLen := getU d 20 4, outAddr := getU d 24 8,
    args := BitVec.ofNat 256 (getU d 32 32), input := input.take (getU d 16 4) }

/-- Takes a descriptor in: INVALID_OPCODE at once for a UNIT or VERB that no chapter defines (R531), else it waits for its unit's row. -/
def putFetched (oid : Nat) (acc : Accept) (c : Cmd) (s : State) : State :=
  if (verbsOf c.unit).contains c.verb then { s with cln := { s.cln with fetched := s.cln.fetched ++ [{ oid := oid, cmd := c, acc := acc }] } }
  else complete oid c { status := .invalidOpcode } s

/-- CCS_INDIRECT (R49, R50): the descriptor in PARAM is executed as though it had been fetched from a ring bound to the channel, so its FENCE waits for the channel's earlier commands. It keeps the word's place in the acceptance order. -/
def execCcsIndirect (ch : Nat) (input : List Byte) (s : State) : Host.Outcome State Fault Refusal :=
  .next (withAccepted ch 0xF0 (fun a s =>
    if wordArg a.word != 0 then postReply ch (wordTag a.word) .badParameter 0 [] 0 s
    else putFetched a.oid a.acc (cmdOf (.mailbox ch (wordTag a.word)) (a.param.take 64) input) s) s)

end Sys2Proof.Machine
end

