-- ==== Sys2Proof/Machine/Ring.lean ====
section
/-! DEFINITION. Command rings (R51-R61), the event queue's creation (R49, R527), and function-level reset (R83, R84). -/

namespace Sys2Proof.Machine

/-- Entries of a CQ written and not yet released (R57). -/
def cqUnreleased (x : Ring) : Nat := (x.cqWrite + 2 ^ x.cqLog2 - x.cqHead) % 2 ^ x.cqLog2

/-- Free CQ entries: size less one, less those not yet released (R57). -/
def cqFree (x : Ring) : Nat := 2 ^ x.cqLog2 - 1 - cqUnreleased x

/-- The reset value of a ring, which RING.CREATE finds and the end of draining leaves. -/
def ringIdle : Ring := {}

/-- The last started command of a DRAINING ring has completed: the ring is DISABLED, and RING.DESTROY replies (R61). DESIGN CHOICE, log entry 74: an interrupt that R59 still owes by coalescing goes with the ring; the rules are silent. -/
def drainEnd (r : Nat) (s : State) : State :=
  let x := getRing s r
  if x.state == .draining && x.outstanding == 0 then
    let s := { s with cln := { s.cln with rings := tblDel s.cln.rings r } }
    match x.destroyBy with
    | none => s
    | some (ch, tag) => postReply ch tag .success 0 [] 0 s
  else s

/-- Stops a ring on an error (R55, R60, R61). -/
def stopRing (r : Nat) (s : State) : State :=
  let x := getRing s r
  if x.state == .active then setRing r { x with state := .stopped } s else s

/-- The parameter block of RING.CREATE (R51): the ring number and the ring it describes. -/
def ringOf (p : List Byte) : Nat × Ring :=
  let w := getU p 4 4
  (getU p 0 4, { state := .active, sqLog2 := bitsOf w 0 5, cqLog2 := bitsOf w 8 5, vector := bitsOf w 16 11, cls := bitsOf w 27 3, noVector := bitOf w 30,
                 sqBase := getU p 8 8, cqBase := getU p 16 8, ctx := getU p 24 2, coalCount := getU p 26 1, coalUs := getU p 27 1, hdlQueue := getU p 28 2 })

/-- The checks of RING.CREATE in the order of R51 and R52. -/
def ringCheck (s : State) (n : Nat) (x : Ring) (p : List Byte) : Option Status :=
  let w := getU p 4 4
  let fits := n < 2 ^ 18 && bitsOf w 5 3 == 0 && bitsOf w 13 3 == 0 && !bitOf w 31 &&
    4 ≤ x.sqLog2 && x.sqLog2 ≤ 16 && 4 ≤ x.cqLog2 && x.cqLog2 ≤ 16 && (x.noVector || 33 ≤ x.vector) &&
    x.ctx < 4096 && x.hdlQueue < 1024 && (p.drop 30).take 34 == zeros 34
  if !fits then some .badParameter
  else if x.sqBase % 4096 != 0 || x.cqBase % 4096 != 0 then some .badAddress
  else if (getRing s n).state != .disabled then some .badState
  else if x.ctx == 0 || (match getCtx? s x.ctx with | none => true | some k => !k.resident) then some .badContext
  else if s.cln.rings.any (fun e => e.1 / 64 == n / 64 && e.2.state != .disabled && e.2.ctx != x.ctx) then some .badContext
  else none

/-- RING_CREATE (R49, R51, R52, R61). -/
def execRingCreate (ch : Nat) (s : State) : Host.Outcome State Fault Refusal :=
  .next (withWord ch 0x10 (fun tag arg param s =>
    if arg != 0 then postReply ch tag .badParameter 0 [] 0 s
    else
      let (n, x) := ringOf param
      match ringCheck s n x param with
      | some e => postReply ch tag e 0 [] 0 s
      | none => postReply ch tag .success 0 [] 0 (setRing n x s)) s)

/-- RING_DESTROY (R61): the reply comes when the ring reaches DISABLED. -/
def execRingDestroy (ch : Nat) (s : State) : Host.Outcome State Fault Refusal :=
  .next (withWord ch 0x11 (fun tag arg _ s =>
    if 2 ^ 18 ≤ arg then postReply ch tag .badParameter 0 [] 0 s
    else
      let x := getRing s arg
      if x.state == .active || x.state == .stopped then drainEnd arg (setRing arg { x with state := .draining, destroyBy := some (ch, tag) } s)
      else postReply ch tag .badState 0 [] 0 s) s)

/-- RING_RESET (R61): a STOPPED ring becomes ACTIVE with head and tail at 0. -/
def execRingReset (ch : Nat) (s : State) : Host.Outcome State Fault Refusal :=
  .next (withWord ch 0x12 (fun tag arg _ s =>
    if 2 ^ 18 ≤ arg then postReply ch tag .badParameter 0 [] 0 s
    else
      let x := getRing s arg
      if x.state == .stopped then postReply ch tag .success 0 [] 0 (setRing arg { x with state := .active, head := 0, tail := 0 } s)
      else postReply ch tag .badState 0 [] 0 s) s)

/-- RING_QUERY (R49). -/
def execRingQuery (ch : Nat) (s : State) : Host.Outcome State Fault Refusal :=
  .next (withWord ch 0x13 (fun tag arg _ s =>
    if 2 ^ 18 ≤ arg then postReply ch tag .badParameter 0 [] 0 s
    else
      let x := getRing s arg
      postReply ch tag .success (ringStateCode x.state + x.head * 2 ^ 2 + x.tail * 2 ^ 18) [] 0 s) s)

/-- EVENT_QUEUE_CREATE (R49, R463, R527). DESIGN CHOICE, log entry 15: the parameters are judged before the existing queue. -/
def execEventQueueCreate (ch : Nat) (s : State) : Host.Outcome State Fault Refusal :=
  .next (withWord ch 0x18 (fun tag arg param s =>
    let base := getU param 0 8
    let head := getU param 8 8
    if arg < 6 || 16 < arg || base % 4096 != 0 || head % 8 != 0 then postReply ch tag .badParameter 0 [] 0 s
    else if s.cln.eq.isSome then postReply ch tag .badState 0 [] 0 s
    else postReply ch tag .success 0 [] 0 { s with cln := { s.cln with eq := some { base := base, headAddr := head, log2 := arg } } }) s)

/-- EVENT_QUEUE_DESTROY (R49, R527). -/
def execEventQueueDestroy (ch : Nat) (s : State) : Host.Outcome State Fault Refusal :=
  .next (withWord ch 0x19 (fun tag arg _ s =>
    if arg != 0 then postReply ch tag .badParameter 0 [] 0 s
    else if s.cln.eq.isNone then postReply ch tag .badState 0 [] 0 s
    else postReply ch tag .success 0 [] 0 { s with cln := { s.cln with eq := none } }) s)

/-! Doorbells (R52, R55, R57) -/

/-- Counts a dropped doorbell write (R37). -/
def dropDoorbell (s : State) : State := { s with cln := { s.cln with dbDrop := satAdd 32 s.cln.dbDrop 1 } }

/-- A write to CLN_DB_SQ_TAIL of a ring (R52, R55): dropped on a DISABLED ring; a value not below the SQ size stops the ring with DOORBELL_INVALID. -/
def writeSqTail (ring value : Nat) (s : State) : State :=
  let x := getRing s ring
  let tail := value % 2 ^ 16
  if x.state == .disabled then dropDoorbell s
  else if 2 ^ x.sqLog2 ≤ tail then raise .doorbellInvalid [.ctx x.ctx] (leBytes 4 ring ++ leBytes 2 tail) (dropDoorbell (stopRing ring s))
  else setRing ring { x with tail := tail } s

/-- A write to CLN_DB_CQ_HEAD of a ring (R52, R57): releases completion records. A value not below the CQ size is ignored (log entry 9). -/
def writeCqHead (ring value : Nat) (s : State) : State :=
  let x := getRing s ring
  let head := value % 2 ^ 16
  if x.state == .disabled then dropDoorbell s
  else if 2 ^ x.cqLog2 ≤ head then s
  else setRing ring { x with cqHead := head } s

/-- DB_SQ_TAIL_WRITE (R52, R55). -/
def execDbSqTailWrite (ring value : Nat) (s : State) : Host.Outcome State Fault Refusal :=
  let s := lightAct 0 s
  .next (hostTlp (if barsClosed s then s else writeSqTail ring value s))

/-- DB_CQ_HEAD_WRITE (R52, R57). -/
def execDbCqHeadWrite (ring value : Nat) (s : State) : Host.Outcome State Fault Refusal :=
  let s := lightAct 0 s
  .next (hostTlp (if barsClosed s then s else writeCqHead ring value s))

/-! Fetching (R56, R57, R154, R491) -/

/-- Whether the backlog withholds admission credits (R154). -/
def withheld (s : State) : Bool := decide (s.kln.backlogLimit ≤ s.kln.backlog.length)

/-- Segments of a run whose window offsets are cut at multiples of the segment size (R368). -/
def segmentsOf (seg off len : Nat) : Nat := if len == 0 then 0 else ceilDiv (off % seg + len) seg

/-- The operation tags that a command needs (R402). -/
def tagsNeeded (s : State) (c : Cmd) : Nat :=
  let prot := mustProtect s (cmdCtx s c) || tblHas s.sec.jobKeys (argU c 36 2)
  let seg := segmentSize s (argBits c 32 0 12) prot
  if c.unit == 0x0A then
    match c.verb with
    | 0x31 => segmentsOf seg (argU c 40 8) c.inLen
    | 0x32 => segmentsOf seg (argU c 40 8) c.outLen
    | 0x30 | 0x33 | 0x34 | 0x35 => 1
    | 0x19 => match tblGet? s.oln.mcast (argBits c 32 0 12) with | some g => g.members.length | none => 0
    | _ => 0
  else if c.unit == 0x06 && c.verb == 0x32 then 1
  else 0

/-- Whether Headland's fetch instance lets a class and queue through: the class gate, the queue's rate limit (R411, R412, R415, R422). -/
def fetchOpen (s : State) (cls queue : Nat) : Bool :=
  let h := getInst s 16
  gateOpen h cls (fabricTime s) && (queueOf h queue).wheel.isNone

/-- What the fetch instance serves: a ring under its number, or the remote command queue of a context, which in a shared queue comes after the rings (R411, log entry 85); with the class and queue in which it takes part. -/
structure Feed where
  id    : Nat
  cls   : Nat
  queue : Nat
deriving DecidableEq, Repr

/-- The number of a context's remote command queue among what the fetch instance serves. -/
def remoteFeed (ctx : Nat) : Nat := 2 ^ 20 + ctx

/-- The ACTIVE rings and the remote command queues that hold a descriptor (R411, R412). -/
def feeds (s : State) : List Feed :=
  (s.cln.rings.filter (fun e => e.2.state == .active && e.2.head != e.2.tail)).map (fun e => { id := e.1, cls := e.2.cls, queue := e.2.hdlQueue }) ++
  s.trn.rqueues.filterMap (fun e => match e.2 with | [] => none | r :: _ => some { id := remoteFeed e.1, cls := r.cls, queue := (classOf (getInst s 16) r.cls).rqueue })

/-- Whether a command of a flow is still in progress (R384). -/
def flowBusy (s : State) (c : Cmd) : Bool :=
  let same := fun (d : Cmd) => sameIssuer d.issuer c.issuer
  s.cln.inflight.any (fun e => same e.2) || s.cln.fetched.any (fun l => same l.cmd)

/-- Whether a drain keeps commands of units 0x03 to 0x09 back (R491). -/
def drainHolds (s : State) : Bool := s.hlt.drain.phase == .quiesce || s.hlt.drain.phase == .ready

/-- Whether the fetch instance may serve what it holds for a remote command queue: FENCE, credits, a drain (R154, R384, R412, R491). -/
def remoteReady (s : State) (c : Cmd) : Bool := !(c.fence && flowBusy s c) && !((c.unit == 0x03 || c.unit == 0x04) && withheld s) && !drainHolds s

/-- Whether the next descriptor of a ring can be one that the fetch instance passes over: its FENCE, credits, a drain or tags (R53, R154, R402, R412, R491). -/
def mayPass (s : State) (x : Ring) : Bool := decide (0 < x.outstanding) || withheld s || drainHolds s || !s.trn.ops.isEmpty

/-- Whether a ring or remote command queue is eligible; `passed` are the rings whose next descriptor is passed over, which lies in host memory. -/
def feedReady (s : State) (passed : List Nat) (f : Feed) : Bool :=
  if f.id < 2 ^ 20 then (let x := getRing s f.id; !s.cln.cfg.d3hot && decide (x.outstanding < cqFree x) && !(passed.contains f.id && mayPass s x))
  else match tblGetD s.trn.rqueues (f.id - 2 ^ 20) [] with | [] => false | r :: _ => remoteReady s r.cmd

/-- The eligible ones of a class and queue, ascending. -/
def readyFeeds (s : State) (passed : List Nat) (c q : Nat) : List Nat :=
  if fetchOpen s c q then ((feeds s).filter (fun f => f.cls == c && f.queue == q && feedReady s passed f)).map (·.id) else []

/-- The queues in which something waits in a class, and those that keep a deficit there, ascending. -/
def fetchQueues (s : State) (c : Nat) : List Nat :=
  ((feeds s).filter (fun f => f.cls == c)).foldl (fun l f => setAdd l f.queue) ((tblGetD (getInst s 16).qdrr c {}).kept.map (·.1))

/-- Whether a class of the fetch instance is eligible. -/
def fetchEligible (s : State) (passed : List Nat) (c : Nat) : Bool := (fetchQueues s c).any (fun q => !(readyFeeds s passed c q).isEmpty)

/-- The next of those that take turns in a queue, from a place on. -/
def nextTurn (from_ : Nat) (ids : List Nat) : Option Nat := (ids.find? (fun i => decide (from_ ≤ i))).orElse (fun _ => ids.head?)

/-- The class that the fetch instance serves next, and its round robin (R413). -/
def fetchClass (s : State) (passed : List Nat) : Option Nat × Drr :=
  let h := getInst s 16
  match ((List.range 8).reverse).find? (fun c => (classOf h c).strict && fetchEligible s passed c) with
  | some c => (some c, h.cdrr)
  | none => drrPick ((List.range 8).filter (fun c => !(classOf h c).strict)) (fetchEligible s passed) (fun c => !(feeds s).any (fun f => f.cls == c)) (fun c => (classOf h c).quantum) h.cdrr

/-- The choice of the fetch instance among what it serves: the chosen one, and the instance after it (R411-R414). -/
def fetchPick (s : State) (passed : List Nat) : Option Nat × HInst :=
  let h := getInst s 16
  match fetchClass s passed with
  | (none, d) => (none, { h with cdrr := d })
  | (some c, d) =>
    match drrPick (fetchQueues s c) (fun q => !(readyFeeds s passed c q).isEmpty) (fun q => !(feeds s).any (fun f => f.cls == c && f.queue == q)) (fun q => (queueOf h q).quantum) (tblGetD h.qdrr c {}) with
    | (none, e) => (none, { h with cdrr := d, qdrr := tblSet h.qdrr c e })
    | (some q, e) =>
      let i := nextTurn (tblGetD h.turns (1024 * c + q) 0) (readyFeeds s passed c q)
      (i, { h with cdrr := d, qdrr := tblSet h.qdrr c e, turns := match i with | none => h.turns | some i => tblSet h.turns (1024 * c + q) (i + 1) })

/-- What holds back every fetch: Cloni does not run, FETCH_HOLD, a shutdown, 256 descriptors in this sweep (R61, R72, R412, R512). -/
def fetchHeld (s : State) : Bool := !ccsRuns s || s.cln.fetchHold || s.mod.stopping || decide (256 ≤ s.cln.sweepFetched)

/-- Counts a descriptor on the fetch instance (R415, R427). -/
def countFetch (cls queue : Nat) (s : State) : State :=
  modInst 16 (fun h => setQueue queue (chargeQueue 1 64000000 (fabricTime s) (queueOf h queue)) { h with sent := tblMod h.sent cls 0 (fun n => (n + 1) % 2 ^ 64) }) s

/-- Whether a ring's next descriptor may be fetched now (R56, R57, R61, R72, R154, R412, R491, R512). -/
def mayFetch (s : State) (x : Ring) (c : Cmd) : Bool :=
  !fetchHeld s && fetchOpen s x.cls x.hdlQueue && !s.cln.cfg.d3hot && x.state == .active && x.head != x.tail &&
  decide (x.outstanding < cqFree x) &&
  !((c.unit == 0x03 || c.unit == 0x04) && withheld s) &&
  !(drainHolds s && decide (0x03 ≤ c.unit ∧ c.unit ≤ 0x09)) &&
  !(c.fence && decide (0 < x.outstanding))

/-- The arm of spark 0x0103 that a ring's descriptor read meets (R469): its ring is VALUE [1:0] × 65,536 + INSTANCE, or every ring. -/
def ringArm (s : State) (r : Nat) : Option (Nat × Arm) :=
  s.hlt.arms.find? (fun e => e.2.spark == 0x0103 && armLive s e.2 && ((e.2.inst == 0xFFFF && bitOf e.2.value 15) || e.2.value % 4 * 65536 + e.2.inst == r))

/-- A failed DMA read or write stops the ring and raises RING_STOPPED (R60). -/
def ringFails (ring : Nat) (write : Bool) (cid : Option Nat) (inj : Bool) (s : State) : State :=
  let x := getRing s ring
  raiseN .ringStopped inj 1 [.ctx x.ctx] (leBytes 4 ring ++ leBytes 2 (cid.getD 0xFFFF) ++ leBytes 1 (b2n write)) (stopRing ring s)

/-- A command of which only the issuer and the CID are known. -/
def bareCmd (ring cid : Nat) : Cmd :=
  { issuer := .ring ring, unit := 0, verb := 0, cid := cid, fence := false, noIrq := false, inDevice := false, outDevice := false, reserved := 0,
    inAddr := 0, inLen := 0, outLen := 0, outAddr := 0, args := 0, input := [] }

/-- DESCRIPTOR_FETCH (R53, R56, R57, R411-R414, R531): the next descriptor of the ring that the fetch instance chooses, read from host memory with its input buffer. `passed` are the rings whose next descriptor Headland has passed over (log entry 85). -/
def execDescriptorFetch (ring : Nat) (passed : List Nat) (desc input : List Byte) (s : State) : Host.Outcome State Fault Refusal :=
  let x := getRing s ring
  let c := cmdOf (.ring ring) desc input
  let (pick, h) := fetchPick s passed
  .next (if !mayFetch s x c || pick != some ring then s
  else if freeTags s < tagsNeeded s c then tagsExhausted s
  else
    let (fired, s) := match ringArm s ring with | none => (none, s) | some (h, a) => sparkFire h (ring % 65536) a s
    if fired.isSome then ringFails ring false none true s
    else
      let (oid, s) := takeOid (lightAct 0 s)
      let s := setRing ring { x with head := (x.head + 1) % 2 ^ x.sqLog2, outstanding := x.outstanding + 1, live := x.live ++ [oid] } s
      let s := countFetch x.cls x.hdlQueue (setInst 16 h s)
      putFetched oid { time := s.now } c { s with cln := { s.cln with sweepFetched := s.cln.sweepFetched + 1 } })

/-! Completion (R58, R59) -/

/-- Counts a completion towards the ring's interrupt, and raises it when COAL_COUNT is reached or no delay is allowed (R59). -/
def coalesce (r : Nat) (noIrq : Bool) (s : State) : State :=
  let x := getRing s r
  if x.noVector || noIrq then s
  else if x.coalCount ≤ x.coalN + 1 || x.coalUs == 0 then raiseVector x.vector (setRing r { x with coalN := 0, coalSince := none } s)
  else setRing r { x with coalN := x.coalN + 1, coalSince := some (x.coalSince.getD s.now) } s

/-- Writes a completion record to the CQ and advances its write index and phase (R53, R57). -/
def writeRecord (r : Nat) (f : Finished) (s : State) : State :=
  let x := getRing s r
  let wrap := x.cqWrite + 1 == 2 ^ x.cqLog2
  let s := emit (.hostWrite (x.cqBase + 32 * x.cqWrite) (recordBytes f.cmd f.done x.phase x.head (outBytes f.cmd f.done)) false) s
  setRing r { x with cqWrite := if wrap then 0 else x.cqWrite + 1, phase := x.phase != wrap, outstanding := x.outstanding - 1, live := x.live.erase f.oid } s

/-- Whether a finished command is the one that a row names. -/
def isDone (ring cid : Nat) (f : Finished) : Bool := f.cmd.issuer == .ring ring && f.cmd.cid == cid

/-- COMMAND_COMPLETE (R58): output data, then the completion record, then the interrupt that counts it. -/
def execCommandComplete (ring cid : Nat) (s : State) : Host.Outcome State Fault Refusal :=
  .next (match s.cln.done.find? (isDone ring cid) with
  | none => s
  | some f =>
    if (getRing s ring).state == .disabled || cqFree (getRing s ring) == 0 || halted s || s.cln.cfg.d3hot then s
    else
      let s := { s with cln := { s.cln with done := removeFirst (isDone ring cid) s.cln.done } }
      drainEnd ring (coalesce ring f.cmd.noIrq (writeRecord ring f (writeOutput f.cmd f.done s))))

/-- RING_COAL_TIMEOUT (R59): COAL_US after the first counted completion. -/
def execRingCoalTimeout (ring : Nat) (s : State) : Host.Outcome State Fault Refusal :=
  let x := getRing s ring
  .next (match x.coalSince with
  | none => s
  | some t => if s.now < t + x.coalUs * us then s else raiseVector x.vector (setRing ring { x with coalN := 0, coalSince := none } s))

/-- RING_DMA_FAILURE (R60): the ring stops; a known CID on a writable CQ gets a completion with HOST_DMA_ERROR. -/
def execRingDmaFailure (ring : Nat) (write : Bool) (cid : Option Nat) (cqWritable : Bool) (s : State) : Host.Outcome State Fault Refusal :=
  let x := getRing s ring
  .next (if x.state == .disabled then s
  else
    let s := ringFails ring write cid false s
    match cid with
    | none => s
    | some n =>
      if write then
        if cqWritable then { s with cln := { s.cln with done := updFirst (isDone ring n) (fun f => { f with done := { f.done with status := .hostDmaError } }) s.cln.done } }
        else match s.cln.done.find? (isDone ring n) with
          | none => s
          | some f => drainEnd ring (modRing ring (fun x => { x with outstanding := x.outstanding - 1, live := x.live.erase f.oid }) { s with cln := { s.cln with done := removeFirst (isDone ring n) s.cln.done } })
      else if cqWritable && decide (x.outstanding < cqFree x) then
        let (oid, s) := numberCmd (bareCmd ring n) s
        complete oid (bareCmd ring n) { status := .hostDmaError } s
      else s)

/-! Function-level reset (R83, R84) -/

/-- A PCIe channel after a function-level reset: its registers empty, its RW fields at reset. Of the words accepted and not yet started those of CCS.INDIRECT still run, with their completions discarded; the other opcodes act on rings and the event queue, which the reset returns to DISABLED, or only reply (R83, R84). -/
def mbxFlr (m : Mbx) : Mbx :=
  { m with full := false, outFull := false, accepted := m.accepted.filter (fun a => wordOp a.word == 0xF0 && wordArg a.word == 0), replies := [], irqEn := false, param := zeros 256 }

/-- FUNCTION_LEVEL_RESET (R83, R84): commands in flight run to completion inside the module, so what a finished one writes to device memory is written, and their completions are discarded. -/
def execFunctionLevelReset (s : State) : Host.Outcome State Fault Refusal :=
  let pcie := fun (c : Cmd) => match c.issuer with | .ring _ => true | .mailbox ch _ => !isMgmt ch | _ => false
  let words := s.cln.mbx.flatMap (fun e => if isMgmt e.1 then [] else (mbxFlr e.2).accepted.map (·.oid))
  let ends := (s.cln.inflight.filter (fun e => pcie e.2)).map (·.1) ++ (s.cln.fetched.filter (fun l => pcie l.cmd)).map (·.oid) ++ words
  let waiting := s.cln.rings.filterMap (fun e => match e.2.destroyBy with | some (ch, tag) => if isMgmt ch then some (ch, tag) else none | none => none)
  let finished := s.cln.done
  let s := finished.foldl (fun s f => writeInside f.cmd f.done s) s
  let s := { s with cln := { s.cln with
    rings := [], eq := none, done := [], orders := s.cln.orders,
    discard := ends.foldl setAdd s.cln.discard,
    mbx := tblMap s.cln.mbx (fun ch m => if isMgmt ch then m else mbxFlr m),
    fetchHold := false, plotEmb := [], plotOln := [], plotFld := [], msix := [], pba := [], cfg := {}, flr := true } }
  let s := waiting.foldl (fun s e => postReply e.1 e.2 .success 0 [] 0 s) s
  .next (if s.cln.phase == .fault then restartCloni false false s else s)

/-- FUNCTION_LEVEL_RESET_DONE (R84): BAR accesses are accepted again. -/
def execFunctionLevelResetDone (s : State) : Host.Outcome State Fault Refusal :=
  .next { s with cln := { s.cln with flr := false } }

end Sys2Proof.Machine
end

