-- ==== Sys2Proof/Machine/HealthOps.lean ====
section
/-! DEFINITION. What every fence does in the health functions: the tally's record, retirement (R477-R481), the strain score (R484-R486). -/

namespace Sys2Proof.Machine

/-- The binary logarithm's fraction bits of `x / 2^40`, 1 ≤ x/2^40 < 2, by repeated squaring. -/
def log2Frac : Nat → Nat → Nat → Nat
  | 0, _, acc => acc
  | n + 1, x, acc =>
    let y := x * x / 2 ^ 40
    if 2 ^ 41 ≤ y then log2Frac n (y / 2) (acc * 2 + 1) else log2Frac n y (acc * 2)

/-- clamp(log2(num / den), 0, 4) scaled by 2^24 (R485). -/
def log2Clamped (num den : Nat) : Nat :=
  if num ≤ den then 0
  else if 16 * den ≤ num then 4 * 2 ^ 24
  else
    let k := Nat.log2 (num / den)
    k * 2 ^ 24 + log2Frac 24 (num * 2 ^ 40 / (den * 2 ^ k)) 0

/-- The weights of a part's inputs in the order of R484. -/
def strainWeights : PartClass → List Nat
  | .core => [100, 100, 150, 150, 300]
  | .channel => [100, 50, 150, 250, 300]
  | .lane => [60, 100, 80, 150, 250]
  | .port => []
  | .peat => [80, 200, 150, 300]

/-- The trend input that counts fault fences (R484), none where a class has none. -/
def fenceInput : PartClass → Option Nat
  | .core => some 4
  | .channel => some 4
  | .peat => some 3
  | _ => none

/-- t of one input, scaled by 2^24: s in the current 24 h against the mean b over the `n` completed days held (R485). -/
def strainT (n : Nat) (r : Strain) (i : Nat) : Nat :=
  let total := sumN (r.days.map (fun d => tblGetD d i 0))
  let s := tblGetD r.today i 0
  if n == 0 then log2Clamped (s + 1) 1 else log2Clamped ((s + 1) * n) (total + n)

/-- The score of R485, and the input with the largest w × t. -/
def strainScore (c : PartClass) (n : Nat) (r : Strain) : Nat × Nat :=
  let ws := (strainWeights c).zipIdx.map (fun (w, i) => w * strainT n r i)
  let total := sumN ws
  let best := (ws.zipIdx.foldl (fun (a : Nat × Nat) (v, i) => if a.1 < v then (v, i) else a) (0, 0)).2
  (min 1000 ((total + 2 ^ 23) / 2 ^ 24), best)

/-- Computes a part's score and raises STRAIN_HIGH or STRAIN_CLEARED (R486). -/
def strainUpdate (c : PartClass) (i : Nat) (s : State) : State :=
  let k := partKey c i
  let r := tblGetD s.hlt.strain k {}
  let (score, best) := strainScore c (min 30 s.hlt.strainDay) r
  let detail := leBytes 1 (partClassCode c) ++ zeros 1 ++ leBytes 2 i ++ leBytes 2 score ++ leBytes 1 best
  let put := fun (h : Bool) (s : State) => { s with hlt := { s.hlt with strain := tblSet s.hlt.strain k { r with score := score, high := h } } }
  if !r.high && healthParam s 0x04 ≤ score then raiseNode .strainHigh detail (put true s)
  else if r.high && score < healthParam s 0x05 then raiseNode .strainCleared detail (put false s)
  else put r.high s

/-- Whether a unit is retired (R477). -/
def isRetired (s : State) (c : PartClass) (i : Nat) : Bool := s.hlt.retired.contains (partKey c i)

/-- The field of a part record that counts fences (R481). -/
def fenceField : PartClass → Option Nat
  | .core => some 2
  | .channel => some 2
  | .lane => none
  | .port => none
  | .peat => some 2

/-- The field of a part record that counts retirements (R481). -/
def retireField : PartClass → Option Nat
  | .core => some 7
  | .channel => some 7
  | _ => none

/-- Writes the tally to boot flash (R478). -/
def saveTally (s : State) : State :=
  let t := { s.hlt.tally with lastWrite := fabricTime s, poweredNs := s.hlt.tally.poweredNs + (s.now - s.hlt.poweredFrom) }
  { s with hlt := { s.hlt with tally := t, tallySaved := t, strainSaved := s.hlt.strain, strainDaySaved := s.hlt.strainDay, poweredFrom := s.now } }

/-- Records a fence (R478, R481), retires a unit fenced RETIRE_FENCES times in the window other than by order or injection (R477), and computes its score (R485). `auto` says that no order caused it. -/
def recordFence (c : PartClass) (i cause : Nat) (auto inj : Bool) (s : State) : State :=
  let k := partKey c i
  let window := healthParam s 0x07 * 3600 * sec
  let times := if auto && !inj then s.now :: (tblGetD s.hlt.fenceTimes k []).filter (fun t => decide (s.now < t + window)) else tblGetD s.hlt.fenceTimes k []
  let retire := auto && !inj && decide (healthParam s 0x06 ≤ times.length) && !isRetired s c i
  let s := match fenceField c with
    | none => if inj then countFault c i 0 none true s else s
    | some f => countFault c i f (if auto then fenceInput c else none) inj s
  let s := match retireField c with | none => s | some f => if retire then tallyAdd c i f 1 s else s
  let rec_ : FenceRec := { time := fabricTime s, cls := c, cause := cause, inst := i, injected := inj, unsync := s.hlt.tally.unsync, retired := retire }
  let h := s.hlt.tally.history ++ [rec_]
  let s := { s with hlt := { s.hlt with
    fenceTimes := tblSet s.hlt.fenceTimes k times,
    retired := if retire then setAdd s.hlt.retired k else s.hlt.retired,
    tally := { s.hlt.tally with fences := if inj then s.hlt.tally.fences else satAdd 32 s.hlt.tally.fences 1, history := h.drop (h.length - 256) } } }
  let s := saveTally (strainUpdate c i s)
  if retire then raiseNode .unitRetired (leBytes 1 (partClassCode c) ++ zeros 1 ++ leBytes 2 i ++ leBytes 1 times.length) s else s

/-- Completes the ENABLE orders that wait for a unit's quarantine. -/
def endEnables (oids : List Nat) (st : Status) (s : State) : State := oids.foldl (fun s o => finish o { status := st } s) s

/-- Adds to the metering record of a context's tenant (R494). -/
def tenantAdd (ctx : Nat) (f : Tenant → Tenant) (s : State) : State :=
  match getCtx? s ctx with
  | none => s
  | some x => { s with hlt := { s.hlt with tenants := tblUpd s.hlt.tenants x.tenant f } }

/-- Whether only the named fields of ARGS are set, and no reserved bit of the descriptor (R88): byte, low bit, width of each field. -/
def argsOnly (c : Cmd) (fields : List (Nat × Nat × Nat)) : Bool :=
  let mask := fields.foldl (fun m (b, lo, w) => m ||| (2 ^ w - 1) * 2 ^ (8 * (b - 32) + lo)) 0
  c.reserved == 0 && c.args.toNat &&& (2 ^ 256 - 1 - mask) == 0

/-- Whether a command comes from what a row names by ring and CID: the ring, or mailbox channel n as 262,144 + n (log entry 10). -/
def isFrom (ring cid : Nat) (c : Cmd) : Bool :=
  c.cid == cid && (match c.issuer with | .ring r => r == ring | .mailbox ch _ => 2 ^ 18 + ch == ring | _ => false)

/-- The command in flight that a row names by ring and CID, with its order number. -/
def inflightOf (s : State) (ring cid : Nat) (p : Cmd → Bool) : Option (Nat × Cmd) :=
  s.cln.inflight.find? (fun e => isFrom ring cid e.2 && p e.2)

end Sys2Proof.Machine
end

