-- ==== Sys2Proof/Machine/TierBase.lean ====
section
/-! DEFINITION. Sequences, entries and bodies: looking them up, pinning them (R211, R214, R222). -/

namespace Sys2Proof.Machine

def getSeq? (s : State) (q : Nat) : Option Seq := tblGet? s.tir.seqs q

def setSeq (q : Nat) (x : Seq) (s : State) : State := { s with tir := { s.tir with seqs := tblSet s.tir.seqs q x } }

def getBody? (s : State) (b : Nat) : Option Body := tblGet? s.tir.bodies b

def setBody (b : Nat) (x : Body) (s : State) : State := { s with tir := { s.tir with bodies := tblSet s.tir.bodies b x } }

def modBody (b : Nat) (f : Body → Body) (s : State) : State := { s with tir := { s.tir with bodies := tblUpd s.tir.bodies b f } }

/-- The key of a (layer, group) of a sequence. -/
def lgKey (layer group : Nat) : Nat := layer * 256 + group

/-- The entries of a (layer, group), by sheaf index. -/
def entriesOf (x : Seq) (layer group : Nat) : Tbl Entry := tblGetD x.entries (lgKey layer group) []

/-- A sequence as a command without a wait of its own finds it: one that an earlier DESTROY, held for its order, names is not found any more (R217). -/
def namedSeq? (s : State) (q : Nat) : Option Seq :=
  if s.tir.held.any (fun h => h.seq == q && h.unit == 0x06 && h.verb == 0x03 && decide (h.oid < s.cln.current)) then none else getSeq? s q

/-- Sheaf table entries in use (R212, R530). -/
def entryCount (s : State) : Nat := sumN (s.tir.seqs.map (fun q => sumN (q.2.entries.map (fun g => g.2.length))))

/-- Whether the sheaf table has room for `n` more entries (R212). -/
def tableHolds (s : State) (n : Nat) : Bool := decide (entryCount s + n ≤ 2 ^ s.tir.tableLog2)

/-- The entry of a sheaf. -/
def entry? (s : State) (q layer group idx : Nat) : Option Entry :=
  match getSeq? s q with
  | none => none
  | some x => tblGet? (entriesOf x layer group) idx

/-- Replaces the entry of a sheaf. -/
def setEntry (q layer group idx : Nat) (e : Entry) (s : State) : State :=
  match getSeq? s q with
  | none => s
  | some x => setSeq q { x with entries := tblMod x.entries (lgKey layer group) [] (fun t => tblSet t idx e) } s

/-- Every entry of a sequence: key of (layer, group), index, entry. -/
def allEntries (x : Seq) : List (Nat × Nat × Entry) := (x.entries.map (fun g => g.2.map (fun e => (g.1, e.1, e.2)))).flatten

/-- The last entry of a (layer, group): the tail sheaf, with its index. -/
def tailOf (x : Seq) (layer group : Nat) : Option (Nat × Entry) := (entriesOf x layer group).getLast?

/-- NEXT_POS of a (layer, group): the position of the next token to be appended, counting accepted appends (R183). -/
def nextPos (x : Seq) (layer group : Nat) : Nat :=
  match tailOf x layer group with
  | none => x.startPos
  | some (_, e) => e.basePos + max e.tokens e.promised

/-- The (layer, group) pairs of a sequence. -/
def lgPairs (x : Seq) : List (Nat × Nat) := ((List.range x.layers).map (fun l => (List.range x.groups).map (fun g => (l, g)))).flatten

/-- NEXT_POS of a sequence as TIER.QUERY and TIER.SEQ_TRUNCATE report it: the highest over its (layer, group) pairs (R247). -/
def seqNextPos (x : Seq) : Nat :=
  let ends := x.entries.filterMap (fun g => g.2.getLast?.map (fun e => e.2.basePos + max e.2.tokens e.2.promised))
  ends.foldl max (if ends.length < x.layers * x.groups then x.startPos else 0)

/-- Whether a body can be read (R221). -/
def readable (b : Body) : Bool :=
  match b.state with
  | .hot | .writing | .moving => true
  | _ => false

/-- Whether a body occupies Ember (R221). -/
def inEmber (b : Body) : Bool := b.chunks != 0

/-- PINS of a body. -/
def pinsOf (b : Body) : Nat := b.implicit + b.explicit

/-- Discards what a composition holds of a body that does not lie in it: the copy of a move (R230). -/
def dropMove (b : Nat) (s : State) : State :=
  let home := (getBody? s b).bind (·.comp)
  { s with tir := { s.tir with comps := tblMap s.tir.comps (fun k c => if home == some k then c else { c with store := tblDel c.store b }) } }

/-- A use of a body: it becomes most recently used, and an eviction that has not committed is cancelled, its copy discarded (R229, R230). -/
def useBody (b : Nat) (s : State) : State :=
  let s := dropMove b s
  let s := modBody b (fun x => { x with lastUse := s.now, useNo := s.tir.uses, state := if x.state == .moving then .hot else x.state }) s
  { s with tir := { s.tir with uses := s.tir.uses + 1, evicting := tblDel s.tir.evicting b } }

/-- Takes an implicit pin on each body (R222). -/
def pinBodies (bs : List Nat) (s : State) : State :=
  bs.foldl (fun s b => modBody b (fun x => { x with implicit := x.implicit + 1 }) (useBody b s)) s

/-- Releases an implicit pin on each body. -/
def unpinBodies (bs : List Nat) (s : State) : State :=
  bs.foldl (fun s b => modBody b (fun x => { x with implicit := x.implicit - 1 }) s) s

/-- The bodies of a work item's sheaves. -/
def itemBodies (t : Item) : List Nat := t.views.map (·.body)

/-- Whether a sequence has a loss that is not cleared (R246). -/
def hasLoss (s : State) (q : Nat) : Bool := s.tir.losses.any (fun l => l.seq == q)

end Sys2Proof.Machine
end

