-- ==== Sys2Proof/Machine/TierOps.lean ====
section
/-! DEFINITION. What the tier manager's rows share (file 07): room in Ember, bodies and their bytes, copy on write, references, the journal, losses, queues. -/

namespace Sys2Proof.Machine

/-! Room in Ember (R219, R220, R225, R530). Halves are 512 bytes. Placement is the model's choice. -/

/-- Halves of the areas set aside at start, at the lowest EDAs: sheaf table, Gleaner area, remote command area, Seedbank shadow (R530). -/
def areaHalves (s : State) : Nat :=
  (2 ^ 24 + 32 * 2 ^ s.tir.tableLog2 + (if hasGleaner s then 2 ^ 30 * s.tir.glnAreaGib else 0) + 2 ^ 30 * s.tir.trnAreaGib) / 512

/-- The halves of Ember in use by bodies: first half and number. -/
def bodyRuns (s : State) : List (Nat × Nat) :=
  (s.tir.bodies.map (fun e => (if e.2.chunks == 0 then [] else [(e.2.eda / 512, 2 * e.2.chunks)]) ++ e.2.extents.map (fun x => (x / 512, 1)))).flatten

/-- Frames in a row as runs: first frame and number. -/
def frameRuns (fs : List Nat) : List (Nat × Nat) :=
  fs.foldr (fun f l => match l with | (a, n) :: t => if f + 1 == a then (f, n + 1) :: t else (f, 1) :: l | [] => [(f, 1)]) []

/-- Chunks of the directory of a window of `len` bytes: 1/32 of its length, in whole chunks (R392). -/
def dirChunks (len : Nat) : Nat := ceilDiv (ceilDiv len 32) 1024

/-- The halves of Ember that the directories of coherent windows take (R392). -/
def dirRuns (s : State) : List (Nat × Nat) := (s.trn.windows.filter (fun e => e.2.coherent)).map (fun e => (e.2.dirEda / 512, 2 * dirChunks e.2.len))

/-- Every run of halves in use. -/
def usedRuns (s : State) : List (Nat × Nat) :=
  bodyRuns s ++ dirRuns s ++
  (s.tir.regions.filter (fun e => e.2.comp.isNone)).map (fun e => (e.2.eda / 512, 2 * e.2.chunks)) ++
  (frameRuns s.tir.aside).map (fun r => (r.1 * 2 * frameChunks s, r.2 * 2 * frameChunks s))

/-- A run that overlaps `n` halves from `a` on. -/
def conflictAt (used : List (Nat × Nat)) (a n : Nat) : Option (Nat × Nat) := used.find? (fun u => decide (u.1 < a + n ∧ a < u.1 + u.2))

/-- The last of `n` chunks from chunk `c` on that lies in a channel not in SERVICE. -/
def badChunk (s : State) (c n : Nat) : Option Nat :=
  if (List.range (nChans s)).all (chanInService s) then none
  else ((List.range n).reverse.map (c + ·)).find? (fun k => !chanInService s (chanOf s (1024 * k)))

/-- Searches upward for `n` chunks within one frame, free, and in SERVICE. -/
def findFrom (s : State) (used : List (Nat × Nat)) (n : Nat) : Nat → Nat → Option Nat
  | 0, _ => none
  | fuel + 1, c =>
    let fc := frameChunks s
    if emberBytes s < 1024 * (c + n) || n == 0 || fc < n then none
    else if fc < c % fc + n then findFrom s used n fuel ((c / fc + 1) * fc)
    else match conflictAt used (2 * c) (2 * n) with
    | some u => findFrom s used n fuel ((u.1 + u.2 + 1) / 2)
    | none =>
      match badChunk s c n with
      | some k => findFrom s used n fuel (k + 1)
      | none => some (1024 * c)

/-- Whether any channel is in SERVICE. -/
def anyService (s : State) : Bool := (List.range (nChans s)).any (chanInService s)

/-- The lowest EDA of a free run of `n` chunks. -/
def findRun (s : State) (n : Nat) : Option Nat :=
  if anyService s then findFrom s (usedRuns s) n (2 ^ 33) ((areaHalves s + 1) / 2) else none

/-- The lowest EDA of `k` free whole frames (R219). -/
def findFrames (s : State) (k : Nat) : Option Nat :=
  let fh := 2 * frameChunks s
  let used := usedRuns s
  (firstFrom (fun f => decide (areaHalves s ≤ f * fh) && (conflictAt used (f * fh) (k * fh)).isNone) (32768 + 1 - k) 0).map (· * frameSize s)

/-- The lowest EDA of a free run of `n` chunks congruent with an EDA (R200). -/
def findCongruent (s : State) (n eda : Nat) : Option Nat :=
  let used := usedRuns s
  let off := eda % frameSize s
  (firstFrom (fun f =>
    let a := f * frameSize s + off
    decide (areaHalves s ≤ a / 512) && decide (off + 1024 * n ≤ frameSize s) && (conflictAt used (a / 512) (2 * n)).isNone && (badChunk s (a / 1024) n).isNone) 32768 0).map (fun f => f * frameSize s + off)

/-- Searches upward for a free half in SERVICE. -/
def findHalf (s : State) (used : List (Nat × Nat)) : Nat → Nat → Option Nat
  | 0, _ => none
  | fuel + 1, h =>
    if emberBytes s < 512 * (h + 1) then none
    else match conflictAt used h 1 with
    | some u => findHalf s used fuel (u.1 + u.2)
    | none => match badChunk s (h / 2) 1 with
      | some k => findHalf s used fuel (2 * (k + 1))
      | none => some (512 * h)

/-- The EDA of a free extent of 512 bytes (R220). -/
def findExtent (s : State) : Option Nat := if anyService s then findHalf s (usedRuns s) (2 ^ 33) (areaHalves s) else none

/-- Halves of the pool (R530). -/
def poolTotal (s : State) : Nat :=
  emberBytes s / 512 - areaHalves s - s.tir.aside.length * 2 * frameChunks s - sumN ((s.tir.regions.filter (fun e => e.2.comp.isNone)).map (fun e => 2 * e.2.chunks)) - sumN ((dirRuns s).map (·.2))

/-- Free halves of the pool. -/
def poolFree (s : State) : Nat := poolTotal s - sumN ((bodyRuns s).map (·.2))

/-- Halves that a body takes when it is in Ember. -/
def bodyHalves (x : Body) (chunks : Nat) : Nat := 2 * chunks + ceilDiv (if x.escCount == 0 then 0 else 512 + 2 * x.escCount) 512

/-! The bytes of a body -/

/-- The format of a FORMAT_ID. -/
def fmt? (s : State) (k : Nat) : Option Format := tblGet? s.kln.formats k

/-- The EDA runs that hold a body's first `n` bytes and its escape list. -/
def readEsc (s : State) (x : Body) : List Byte :=
  ((x.extents.map (fun e => (emberRead s e 512).1)).flatten).take (roundUp (if x.escCount == 0 then 0 else 512 + 2 * x.escCount) 64)

/-- A body as a sheaf. -/
def sheafAt (s : State) (f : Format) (x : Body) : Sheaf :=
  sheafOf (emberRead s x.eda (layout f).size).1 (readEsc s x) x.escCount x.tokens

/-- Whether a body or its escape list has a poisoned line. -/
def bodyPoisoned (s : State) (f : Format) (x : Body) : Bool :=
  (emberRead s x.eda (layout f).size).2 || x.extents.any (fun e => (emberRead s e 512).2)

/-- Gives a body as many extents as `n` bytes of escape list need; fewer when there is no room. Extents beyond the need are zeroed and freed. -/
def growExtents (b n : Nat) (s : State) : State :=
  match getBody? s b with
  | none => s
  | some x =>
    let need := ceilDiv n 512
    if need < x.extents.length then
      let s := (x.extents.drop need).foldl (fun s e => emberWrite e (zeros 512) s) s
      setBody b { x with extents := x.extents.take need } s
    else
      (List.range (need - x.extents.length)).foldl (fun s _ =>
        match findExtent s with
        | none => s
        | some e => modBody b (fun x => { x with extents := x.extents ++ [e] }) (emberWrite e (zeros 512) s)) s

/-- Whether a body has the extents that `n` bytes need. -/
def hasExtents (s : State) (b n : Nat) : Bool :=
  match getBody? s b with
  | none => false
  | some x => decide (ceilDiv n 512 ≤ x.extents.length)

/-- Writes bytes through a list of extents. -/
def writeExtents : List Nat → List Byte → State → State
  | [], _, s => s
  | e :: t, bs, s => if bs.isEmpty then s else writeExtents t (bs.drop 512) (emberWrite e (bs.take 512) s)

/-- Writes the bytes of a sheaf and of its escape list into a body's run and extents. -/
def writeBody (b : Nat) (body esc : List Byte) (s : State) : State :=
  match getBody? s b with
  | none => s
  | some y => writeExtents y.extents esc (emberWrite y.eda body s)

/-- Writes a sheaf into a body's run and extents. -/
def writeSheaf (b : Nat) (x : Sheaf) (s : State) : State := writeBody b x.body (escBytes x) s

/-- Restores a resident body to its first `n` tokens (R225, R247). -/
def restoreBody (b n : Nat) (s : State) : State :=
  match getBody? s b with
  | none => s
  | some y =>
    match fmt? s y.fmt with
    | none => s
    | some f =>
      let x := restore f n (sheafAt s f y)
      let s := growExtents b (escBytes x).length s
      modBody b (fun y => { y with tokens := n, escCount := x.entries.length }) (writeSheaf b x s)

/-! New bodies, copies, references -/

/-- Adds a zero-filled body at an EDA. -/
def addBody (x : Body) (s : State) : Nat × State :=
  let b := s.tir.nextBody
  (b, zeroChunks x.eda x.chunks (setBody b { x with lastUse := s.now, useNo := s.tir.uses } { s with tir := { s.tir with nextBody := b + 1, uses := s.tir.uses + 1 } }))

/-- Copies a shared body for its writer's entry, which holds `n` tokens (R225): the copy, with the original's REFS one lower. The copy pins the original while it reads it, which is a use (R222, R229). None when no body can be allocated. -/
def copyOnWrite (b n : Nat) (s : State) : Option (Nat × State) :=
  match getBody? s b with
  | none => none
  | some x =>
    match (match findCongruent s x.chunks x.eda with | some e => some e | none => findRun s x.chunks) with
    | none => none
    | some eda =>
      let (k, s) := addBody { x with eda := eda, extents := [], refs := 1, implicit := 0, explicit := 0, coldKind := .none, coldTokens := 0, comp := none, state := .hot, dirty := true, changed := false } s
      let s := copyBytes x.eda eda (1024 * x.chunks) s
      let s := growExtents k (512 * x.extents.length) s
      if !hasExtents s k (512 * x.extents.length) then none else
      let exts := ((getBody? s k).map (·.extents)).getD []
      let s := (x.extents.zip exts).foldl (fun s e => copyBytes e.1 e.2 512 s) s
      let s := modBody b (fun x => { x with refs := x.refs - 1 }) (useBody b s)
      some (k, if n < x.tokens then restoreBody k n s else s)

/-! The journal (R228, R237) -/

/-- The entries of every sequence that point to a body: sequence, key of (layer, group), index, entry. -/
def pointersTo (s : State) (b : Nat) : List (Nat × Nat × Nat × Entry) :=
  (s.tir.seqs.map (fun q => ((allEntries q.2).filter (fun e => e.2.2.body == b)).map (fun e => (q.1, e.1, e.2.1, e.2.2)))).flatten

/-- The sequence as the journal first records it. -/
def journalSeq (x : Seq) : JSeq := { ctx := x.ctx, layers := x.layers, groups := x.groups, formats := x.formats, prot := x.prot, startPos := x.startPos, dirty := x.dirtyMark }

def setJournal (q : Nat) (j : JSeq) (s : State) : State := { s with tir := { s.tir with journal := tblSet s.tir.journal q j } }

/-- Queues a record for the journal, with the command that waits for it. -/
def oweRecord (r : JRecord) (oid : Option Nat) (d : Done) (s : State) : State :=
  { s with tir := { s.tir with jwait := s.tir.jwait ++ [{ record := r, oid := oid, done := d }] } }

/-- Programs a record (R228): a sequence that becomes dirty, or the changes of the entries that the journal holds. -/
def programRecord (r : JRecord) (s : State) : State :=
  match r with
  | .mark q dirty =>
    match getSeq? s q with
    | none => s
    | some x => setJournal q { (tblGet? s.tir.journal q).getD (journalSeq x) with dirty := dirty } s
  | .entries q =>
    match getSeq? s q, tblGet? s.tir.journal q with
    | some x, some j =>
      let es := j.entries.map (fun g => (g.1, g.2.filterMap (fun (e : Nat × JEntry) => (tblGet? (tblGetD x.entries g.1 []) e.1).map (fun n => (e.1, { e.2 with basePos := n.basePos, tokens := n.tokens })))))
      setJournal q { j with entries := es.filter (fun g => !g.2.isEmpty) } s
    | _, _ => s

/-- Whether the journal holds an entry of a sequence. -/
def journalHolds (s : State) (q : Nat) : Bool := match tblGet? s.tir.journal q with | none => false | some j => !j.entries.isEmpty

/-- Why a command that must write the journal cannot: Peat is not mounted, or read-only (R34, R236). -/
def journalDenied (s : State) : Option (Done × State) :=
  if !hasPeat s then none
  else if !s.tir.mounted then some (peatStarting s)
  else if s.tir.readOnly then some ({ status := .wearLimit }, s)
  else none

/-- A sequence holds a dirty body: the first time, a record is owed. Whether one was. -/
def noteDirty (q : Nat) (s : State) : Bool × State :=
  match getSeq? s q with
  | none => (false, s)
  | some x => if x.dirtyMark || !hasPeat s then (false, s) else (true, setSeq q { x with dirtyMark := true } s)

/-- Whether a sequence holds a dirty body; a LOST one was never written, and stays dirty (R228). -/
def seqDirty (s : State) (x : Seq) : Bool :=
  (allEntries x).any (fun e => match getBody? s e.2.2.body with | none => false | some b => b.dirty)

/-- Records clean each of the sequences that holds no dirty body any more (R228). -/
def noteClean (qs : List Nat) (s : State) : State :=
  qs.foldl (fun s q =>
    match getSeq? s q with
    | none => s
    | some x =>
      if !x.dirtyMark || seqDirty s x then s
      else
        let s := setSeq q { x with dirtyMark := false } s
        match tblGet? s.tir.journal q with
        | none => s
        | some j => setJournal q { j with dirty := false } s) s

/-- Records a committed write-back with the entries that point to its body (R228). -/
def journalEntries (b : Nat) (s : State) : State :=
  (pointersTo s b).foldl (fun s (q, k, i, e) =>
    match getSeq? s q with
    | none => s
    | some x =>
      let j := (tblGet? s.tir.journal q).getD (journalSeq x)
      setJournal q { j with entries := tblMod j.entries k [] (fun t => tblSet t i { basePos := e.basePos, tokens := e.tokens, body := b }) } s) s

/-! Write-back and flushes (R226) -/

/-- Queues a dirty body for write-back; an expedited one goes ahead of the others. -/
def queueWb (b : Nat) (expedited : Bool) (s : State) : State :=
  match getBody? s b with
  | none => s
  | some x =>
    if !x.dirty || !hasPeat s || x.state == .lost || x.state == .retiring then s
    else match s.tir.wbq.find? (fun w => w.body == b) with
    | none => { s with tir := { s.tir with wbq := s.tir.wbq ++ [{ body := b, expedited := expedited }] } }
    | some w =>
      if expedited && !w.expedited then { s with tir := { s.tir with wbq := s.tir.wbq.filter (fun w => w.body != b) ++ [{ body := b, expedited := true }] } } else s

/-- Completes each flush that awaits no body any more (R226, R236). -/
def settleFlushes (s : State) : State :=
  s.tir.flushes.foldl (fun s (k, f) =>
    if !f.bodies.isEmpty then
      if s.tir.readOnly then finish k { status := if f.lost then .dataLost else .wearLimit, r0 := f.written } { s with tir := { s.tir with flushes := tblDel s.tir.flushes k } }
      else s
    else finish k { status := if f.lost then .dataLost else .success, r0 := f.written } { s with tir := { s.tir with flushes := tblDel s.tir.flushes k } }) s

/-- A body stops being awaited: written, lost, or gone. -/
def flushBody (b : Nat) (written lost : Bool) (s : State) : State :=
  settleFlushes { s with tir := { s.tir with flushes := tblMap s.tir.flushes (fun _ f =>
    if f.bodies.contains b then { f with bodies := setDel f.bodies b, written := f.written + b2n written, lost := f.lost || lost } else f) } }

/-! References (R217, R224) -/

/-- Takes a body out of the tier manager's tables, its rows and extents zero-filled and its copies invalidated (R224). -/
def reclaim (b : Nat) (s : State) : State :=
  match getBody? s b with
  | none => s
  | some x =>
    let s := zeroChunks x.eda x.chunks s
    let s := x.extents.foldl (fun s e => emberWrite e (zeros 512) s) s
    let s := { s with tir := { s.tir with bodies := tblDel s.tir.bodies b, peat := tblDel s.tir.peat b, snaps := tblDel s.tir.snaps b, evicting := tblDel s.tir.evicting b, wbq := s.tir.wbq.filter (fun w => w.body != b), demand := s.tir.demand.filter (fun e => e.body != b), advisory := s.tir.advisory.filter (fun e => e.body != b), comps := tblMap s.tir.comps (fun _ c => { c with store := tblDel c.store b }) } }
    flushBody b false false s

/-- Lowers REFS; a body without entries becomes RETIRING, one that pinned readers still wait for once it has arrived (R217, R224). -/
def decRef (b : Nat) (s : State) : State :=
  let waits := fun (x : Body) => (x.state == .cold || x.state == .fetching) && pinsOf x != 0
  modBody b (fun x => if x.refs ≤ 1 then { x with refs := 0, state := if waits x then x.state else .retiring, retireEpoch := s.tir.epoch } else { x with refs := x.refs - 1 }) s

/-- Whether a pinned reader can read a body (R221). -/
def resident (x : Body) : Bool := readable x || (x.state == .retiring && inEmber x)

/-- Raises REFS. -/
def incRef (b : Nat) (s : State) : State := modBody b (fun x => { x with refs := x.refs + 1 }) s

/-! Losses (R242, R245, R246, R248) -/

/-- Adds loss records; SEQ_DATA_LOST once for each sequence that enters the list. -/
def addLosses (ls : List Loss) (s : State) : State :=
  let fresh_ := (ls.map (·.seq)).eraseDups.filter (fun q => !hasLoss s q)
  let merge := fun (acc : List Loss) (l : Loss) =>
    if acc.any (fun m => m.seq == l.seq && m.layer == l.layer && m.group == l.group) then
      updFirst (fun m => m.seq == l.seq && m.layer == l.layer && m.group == l.group) (fun m => if l.pos < m.pos then l else m) acc
    else acc ++ [l]
  let s := { s with tir := { s.tir with losses := ls.foldl merge s.tir.losses } }
  fresh_.foldl (fun s q =>
    let mine := s.tir.losses.filter (fun l => l.seq == q)
    let low := mine.foldl (fun a l => min a l.pos) ((mine.map (·.pos)).headD 0)
    let cause := ((mine.map (·.cause)).headD 0)
    match getSeq? s q with
    | none => s
    | some x => raise .seqDataLost [.ctx x.ctx] (leBytes 4 q ++ leBytes 1 cause ++ zeros 3 ++ leBytes 4 low) s) s

/-- Ends the commands that still need a body that has become unreadable: their items go, and the command will complete with the status, DATA_LOST for a lost body (R233, R445). -/
def failItems (b : Nat) (s : State) (st : Status := .dataLost) : State :=
  s.kln.items.foldl (fun s (k, t) =>
    if !(itemBodies t).contains b then s
    else
      let s := unpinBodies (itemBodies t) { s with kln := { s.kln with items := tblDel s.kln.items k, backlog := setDel s.kln.backlog k } }
      if t.append then { s with kln := { s.kln with appends := tblUpd s.kln.appends t.oid (fun a => { a with bad := some st, left := a.left - 1 }) } }
      else { s with kln := { s.kln with attends := tblUpd s.kln.attends t.oid (fun a => { a with bad := some st, parts := tblSet a.parts t.idx [] }) } }) s

/-- Bodies whose data is gone: LOST, with a loss for each entry that points to them. -/
def loseBodies (bs : List Nat) (cause : Nat) (s : State) : State :=
  let ls := (bs.map (fun b => (pointersTo s b).map (fun (q, k, _, e) => Loss.mk q (k / 256) (k % 256) cause e.basePos))).flatten
  let s := bs.foldl (fun s b =>
    let s := dropMove b (modBody b (fun x => { x with state := .lost, chunks := 0, extents := [], comp := none, coldKind := .none }) s)
    let s := { s with tir := { s.tir with wbq := s.tir.wbq.filter (fun w => w.body != b), snaps := tblDel s.tir.snaps b, evicting := tblDel s.tir.evicting b } }
    flushBody b false true (failItems b s)) s
  addLosses ls s

/-! Fetches (R232) -/

/-- Queues a demand fetch of a COLD body for a command; of several that need it, the first accepted gives its place. -/
def demandFetch (b oid : Nat) (s : State) : State :=
  match getBody? s b with
  | none => s
  | some x =>
    if x.state != .cold then s
    else if s.tir.demand.any (fun e => e.body == b) then { s with tir := { s.tir with demand := s.tir.demand.map (fun e => if e.body == b then { e with by_ := min e.by_ oid } else e) } }
    else { s with tir := { s.tir with demand := s.tir.demand ++ [{ body := b, by_ := oid }], advisory := s.tir.advisory.filter (fun e => e.body != b) } }

/-- Queues an advisory fetch. -/
def adviseFetch (b by_ : Nat) (s : State) : State :=
  match getBody? s b with
  | none => s
  | some x =>
    if x.state != .cold || s.tir.demand.any (fun e => e.body == b) || s.tir.advisory.any (fun e => e.body == b) then s
    else { s with tir := { s.tir with advisory := s.tir.advisory ++ [{ body := b, by_ := by_ }] } }

/-- The commands that still need a body: those of its work items, and held ones that wait for it. -/
def needers (b : Nat) (s : State) : List Nat :=
  (s.kln.items.filter (fun t => (itemBodies t.2).contains b)).map (fun t => t.2.oid) ++ (s.tir.held.filter (fun h => match h.why with | .bodies l => l.contains b | _ => false)).map (·.oid)

/-- A fenced channel (R248): a clean body with a chunk in it becomes COLD and is fetched for the commands that need it, a dirty one LOST. How many of each. -/
def loseChannel (m : Nat) (s : State) : Nat × Nat × State :=
  let hit := fun (x : Body) => (List.range x.chunks).any (fun i => chanOf s (x.eda + 1024 * i) == m) || x.extents.any (fun e => chanOf s e == m)
  let bs := s.tir.bodies.filter (fun e => hit e.2 && e.2.state != .retiring)
  let clean := bs.filter (fun e => !e.2.dirty || e.2.state == .fetching)
  let dirty := bs.filter (fun e => e.2.dirty && e.2.state != .fetching)
  let s := clean.foldl (fun s e =>
    let s := dropMove e.1 (modBody e.1 (fun x => { x with state := .cold, chunks := 0, extents := [] }) s)
    let s := { s with tir := { s.tir with evicting := tblDel s.tir.evicting e.1, snaps := tblDel s.tir.snaps e.1 } }
    (needers e.1 s).foldl (fun s k => demandFetch e.1 k s) s) s
  (clean.length, dirty.length, loseBodies (dirty.map (·.1)) 1 s)

/-- Whether a body's only copy waits for the mount of Peat (R233). -/
def awaitsMount (s : State) (x : Body) : Bool := x.state == .cold && x.coldKind == .peat && !s.tir.mounted

/-! Keys (R445) -/

/-- Whether a body is unreadable for want of a key: protected, and its context's MEM_KEY slot is empty, or its STORE_KEY slot while its copy lies outside Ember. -/
def keyRevoked (s : State) (x : Body) : Bool :=
  x.prot && (!keyHeld s x.ctx (·.memKey) || (!readable x && !keyHeld s x.ctx (·.storeKey)))

/-! Snapshots (R227) -/

/-- A body's bytes as they stand, with the lines that are poisoned. -/
def snapshot (s : State) (f : Format) (x : Body) : Copy :=
  let n := (layout f).size
  let bad := (List.range (ceilDiv n 64)).filter (fun i => (emberRead s (x.eda + 64 * i) 64).2)
  let badEsc := ((x.extents.zipIdx.map (fun (e, k) => (List.range 8).filterMap (fun i => if (emberRead s (e + 64 * i) 64).2 then some (8 * k + i) else none))).flatten)
  { bytes := (emberRead s x.eda n).1, esc := readEsc s x, escCount := x.escCount, tokens := x.tokens, bad := bad, badEsc := badEsc, fmt := x.fmt, ctx := x.ctx, prot := x.prot, lineage := x.lineage }

end Sys2Proof.Machine
end

