-- ==== Sys2Proof/Machine/SeedOps.lean ====
section
/-! DEFINITION. What the Seedbank's rows share (file 09): order and matches, placing and committing inserts, eviction for room, cursors, posts. -/

namespace Sys2Proof.Machine

/-- SEED.CONFIG parameters (R290). -/
def seedDefault : Nat → Nat
  | 0x01 => 1000
  | 0x02 => 7
  | 0x03 => 8192
  | 0x04 => 10000
  | 0x05 => 100
  | _ => 0

def seedParam (s : State) (p : Nat) : Nat := tblGetD s.sdb.params p (seedDefault p)

def setBank (b : Nat) (x : Bank) (s : State) : State := { s with sdb := { s.sdb with banks := tblSet s.sdb.banks b x } }

/-- The banks that a context owns with a width of `w` units (R265). -/
def ownedBanks (s : State) (ctx w : Nat) : Tbl Bank := s.sdb.banks.filter (fun e => e.2.ctx == ctx && e.2.width == w)

/-- Free units of a bank, a queued insert counting as placed. -/
def bankFree (x : Bank) : Nat := 16384 - (x.entries.length + x.queue.length) * x.width

/-! Matches (R268) -/

/-- A match: bank, unit index of the head, entry. -/
structure Match where
  bank  : Nat
  unit  : Nat
  entry : SeedEntry
deriving DecidableEq, Repr

/-- The physical index of an entry (R264). -/
def physIndex (m : Match) : Nat := m.bank * 16384 + m.unit

/-- Whether an entry equals a key in every bit that the mask selects, as its units stand between a flip and its repair (R268, R289). -/
def matchesKey (key mask : Nat) (e : SeedEntry) : Bool := e.unseen == 0 && (e.key ^^^ e.keyFlip ^^^ key) &&& mask == 0

/-- The matches in a list of banks, in ascending physical index. -/
def matchesIn (banks : Tbl Bank) (key mask : Nat) : List Match :=
  (banks.map (fun b => (b.2.entries.filter (fun e => matchesKey key mask e.2)).map (fun e => { bank := b.1, unit := e.1, entry := e.2 }))).flatten

/-- The first match: highest PRIORITY, then lowest physical index. -/
def firstMatch (ms : List Match) : Option Match :=
  ms.foldl (fun a m => match a with | none => some m | some b => if b.entry.prio < m.entry.prio then some m else a) none

/-- A hit (R272): AGE becomes 0 and EVICTING is cleared; the result word is read. -/
def hitEntry (m : Match) (s : State) : State :=
  let s := hubRead s
  { s with sdb := { s.sdb with banks := tblUpd s.sdb.banks m.bank (fun b => { b with entries := tblUpd b.entries m.unit (fun e => { e with age := 0, evicting := false, hit := true }) }) } }

/-- Clears VALID of an entry. -/
def dropEntry (bank unit : Nat) (s : State) : State :=
  { s with sdb := { s.sdb with banks := tblUpd s.sdb.banks bank (fun b => { b with entries := tblDel b.entries unit }) } }

/-- The record of R271 for a match. -/
def matchRecord (m : Match) (multi : Bool) (cursor : Nat) : List Byte :=
  leBytes 1 (1 + 4 * b2n multi) ++ leBytes 1 m.entry.prio ++ leBytes 2 cursor ++ leBytes 4 (physIndex m) ++ m.entry.result ++ zeros 8

/-! Inserting (R277, R278) -/

/-- The insertion point: just after the last entry of PRIORITY at or above the new entry's. -/
def insertPoint (w prio : Nat) (es : Tbl SeedEntry) : Nat := es.foldl (fun a e => if prio ≤ e.2.prio then max a (e.1 + w) else a) 0

/-- The moves of a shift by `w` units: the new index of a unit index, and the place of the new entry. None when there is no hole. -/
def shiftFor (w p : Nat) (es : Tbl SeedEntry) : Option (Nat × (Nat → Nat)) :=
  let holes := ((List.range (16384 / w)).map (· * w)).filter (fun u => !tblHas es u)
  match holes.find? (fun u => decide (p ≤ u)) with
  | some h => some (p, fun u => if p ≤ u && u < h then u + w else u)
  | none =>
    match holes.getLast? with
    | some h => some (p - w, fun u => if h < u && u < p then u - w else u)
    | none => none

/-- Commits an insert in a bank: the block moves, cursors on moved entries move with them, the entry is VALID (R275, R278). -/
def commitInsert (bank : Nat) (e : SeedEntry) (s : State) : State :=
  match tblGet? s.sdb.banks bank with
  | none => s
  | some x =>
    match shiftFor x.width (insertPoint x.width e.prio x.entries) x.entries with
    | none => s
    | some (at_, move) =>
      let es := tblSet (x.entries.map (fun f => (move f.1, f.2))) at_ e
      let s := setBank bank { x with entries := es } s
      { s with sdb := { s.sdb with cursors := tblMap s.sdb.cursors (fun _ c =>
          if c.ctx == x.ctx && c.width == x.width && c.last / 16384 == bank && tblHas x.entries (c.last % 16384) then { c with last := bank * 16384 + move (c.last % 16384) } else c) } }

/-- The entry that eviction for room chooses (R285): highest AGE, then lowest PRIORITY, then highest physical index. -/
def evictChoice (s : State) (ctx w : Nat) : Option Match :=
  let all := ((ownedBanks s ctx w).map (fun b => (b.2.entries.filter (fun e => !e.2.pinned)).map (fun e => ({ bank := b.1, unit := e.1, entry := e.2 } : Match)))).flatten
  all.foldl (fun a m => match a with
    | none => some m
    | some b => if b.entry.age < m.entry.age || (b.entry.age == m.entry.age && decide (m.entry.prio ≤ b.entry.prio)) then some m else a) none

/-- The owned bank with the most free units, the lowest number among equals (R277). -/
def roomiest (bs : Tbl Bank) : Option (Nat × Bank) := bs.foldl (fun a b => match a with | none => some b | some c => if bankFree c.2 < bankFree b.2 then some b else a) none

/-- What happens to a record: queued in a bank, held by that bank's full queue, or without room. -/
inductive Placed where
  | queued
  | held (bank : Nat)
  | noRoom
deriving DecidableEq, Repr

/-- Places one record under R277, evicting for room once; banks in `blocked` have an earlier record waiting. -/
def placeRecord (ctx w : Nat) (ins : SeedInsert) (blocked : List Nat) (s : State) : Placed × State :=
  let pick := fun (s : State) => match roomiest (ownedBanks s ctx w) with | none => none | some b => if w ≤ bankFree b.2 then some b else none
  let put := fun (s : State) (b : Nat × Bank) =>
    if blocked.contains b.1 || 64 ≤ b.2.queue.length then (Placed.held b.1, s) else (Placed.queued, setBank b.1 { b.2 with queue := b.2.queue ++ [ins] } s)
  match pick s with
  | some b => put s b
  | none =>
    match evictChoice s ctx w with
    | none => (.noRoom, s)
    | some m =>
      let s := dropEntry m.bank m.unit s
      match pick s with
      | some b => put s b
      | none => (.noRoom, s)

/-- SEED_POST_DROPPED (R281). -/
def postDropped (ctx seq sheaf : Nat) (s : State) : State := raise .seedPostDropped [.ctx ctx] (leBytes 4 seq ++ leBytes 4 sheaf) s

/-- Places the records of one insert while its banks take them: what is left of it, and the bank that holds it up. -/
def placeRecords (blocked : List Nat) : List SeedEntry → Inserting → State → Inserting × Option Nat × State
  | [], i, s => ({ i with records := [] }, none, s)
  | e :: es, i, s =>
    match placeRecord i.ctx i.width { oid := i.oid, post := i.post, entry := e } blocked s with
    | (.queued, s) => placeRecords blocked es { i with inBanks := i.inBanks + b2n i.oid.isSome } s
    | (.held b, s) => ({ i with records := e :: es }, some b, s)
    | (.noRoom, s) => ({ i with records := [], full := true }, none, if i.oid.isNone then postDropped i.ctx i.post.1 i.post.2 s else s)

/-- Completes the inserts whose every record has committed (R277, R279). -/
def settleInserts (s : State) : State :=
  let isOver := fun (i : Inserting) => i.records.isEmpty && i.inBanks == 0
  let done := s.sdb.inserting.filter isOver
  done.foldl (fun s i => match i.oid with
    | none => s
    | some oid => finish oid { status := if i.full then .noSpace else if i.overruled then .overruled else .success, r0 := i.inserted } s)
    { s with sdb := { s.sdb with inserting := s.sdb.inserting.filter (fun i => !isOver i) } }

/-- Places what can be placed, in order of acceptance; the records bound for a bank enter its queue after those that wait for it (R278). -/
def placeAll (s : State) : State :=
  let r := s.sdb.inserting.foldl (fun (a : List Inserting × List Nat × State) i =>
    let (i', b, s) := placeRecords a.2.1 i.records i a.2.2
    (a.1 ++ [i'], (match b with | none => a.2.1 | some b => b :: a.2.1), s)) ([], [], s)
  settleInserts { r.2.2 with sdb := { r.2.2.sdb with inserting := r.1 } }

/-! AUTO entries and posts (R280, R281, R283) -/

/-- Deletes the AUTO entries of a sequence in its owner's banks, those with END_POS above `pos` when one is given, and the records of such entries that have not yet committed (R283). -/
def dropAuto (ctx seq : Nat) (pos : Option Nat) (s : State) : State :=
  let gone := fun (e : SeedEntry) => e.auto && getU e.result 4 4 == seq && (match pos with | none => true | some p => decide (p < getU e.result 8 4))
  { s with sdb := { s.sdb with
      banks := tblMap s.sdb.banks (fun _ b => if b.ctx == ctx then { b with entries := b.entries.filter (fun e => !gone e.2), queue := b.queue.filter (fun i => !gone i.entry) } else b)
      inserting := s.sdb.inserting.filter (fun i => i.ctx != ctx || i.oid.isSome || !i.records.any gone) } }

/-- Whether a sheaf holds 64 tokens in every (layer, group) of its sequence. -/
def sheafFull (x : Seq) (idx : Nat) : Bool :=
  (lgPairs x).all (fun (l, g) => match tblGet? (entriesOf x l g) idx with | none => false | some e => e.tokens == 64)

/-- END_POS of a post: that of its sheaf in layer 0 and group 0, a sheaf not yet created taking the BASE_POS that R213 would give it. -/
def postEnd (x : Seq) (sheaf : Nat) : Nat :=
  match tblGet? (entriesOf x 0 0) sheaf with
  | some e => e.basePos + 64
  | none => match tailOf x 0 0 with
    | some (i, e) => e.basePos + 64 * (sheaf - i) + 64
    | none => x.startPos + 64 * sheaf + 64

/-- Enters a post whose sheaf is complete, or drops it (R280, R281). -/
def enterPost (p : SeedPost) (x : Seq) (s : State) : State :=
  match s.oln.addr with
  | none => postDropped p.ctx p.seq p.sheaf s
  | some node =>
    if (ownedBanks s p.ctx p.width).isEmpty then postDropped p.ctx p.seq p.sheaf s
    else
      let result := leBytes 2 node ++ leBytes 2 1 ++ leBytes 4 p.seq ++ leBytes 4 (postEnd x p.sheaf) ++ leBytes 4 p.user
      let e : SeedEntry := { key := p.key, prio := p.prio, pinned := p.pinned, auto := true, result := result }
      placeAll { s with sdb := { s.sdb with inserting := s.sdb.inserting ++ [{ oid := none, post := (p.seq, p.sheaf), ctx := p.ctx, width := p.width, records := [e] }] } }

/-- Enters every post of a sequence that has fallen due. -/
def settlePosts (q : Nat) (s : State) : State :=
  match getSeq? s q with
  | none => s
  | some x =>
    let due := s.sdb.posts.filter (fun p => p.seq == q && sheafFull x p.sheaf)
    due.foldl (fun s p => enterPost p x s) { s with sdb := { s.sdb with posts := s.sdb.posts.filter (fun p => !(p.seq == q && sheafFull x p.sheaf)) } }

/-- Drops the posts of a sequence: all, or those whose END_POS exceeds `pos` (R281). -/
def dropPosts (q : Nat) (pos : Option Nat) (s : State) : State :=
  match getSeq? s q with
  | none => { s with sdb := { s.sdb with posts := s.sdb.posts.filter (fun p => p.seq != q) } }
  | some x => { s with sdb := { s.sdb with posts := s.sdb.posts.filter (fun p => p.seq != q || (match pos with | none => false | some n => decide (postEnd x p.sheaf ≤ n))) } }

end Sys2Proof.Machine
end

