-- ==== Sys2Proof/Machine/GleanOps.lean ====
section
/-! DEFINITION. What Gleaner's rows share (file 10): summaries, sketches, lists and codes, postings, the search of R306. -/

namespace Sys2Proof.Machine

/-- GLEAN.CONFIG parameters (R318). -/
def gleanDefault : Nat → Nat
  | 0x01 => 2
  | 0x02 => 4096
  | 0x03 => 32
  | 0x04 => 500
  | _ => 0

def gleanParam (s : State) (p : Nat) : Nat := tblGetD s.gln.params p (gleanDefault p)

def setSwath (k : Nat) (x : Swath) (s : State) : State := { s with gln := { s.gln with swaths := tblSet s.gln.swaths k x } }

def modSwath (k : Nat) (f : Swath → Swath) (s : State) : State := { s with gln := { s.gln with swaths := tblUpd s.gln.swaths k f } }

/-- A swath that commands can name. -/
def swath? (s : State) (k : Nat) : Option Swath := (tblGet? s.gln.swaths k).bind (fun x => if x.dropped then none else some x)

/-! Summaries (R296) -/

/-- The exact quotient of a dyadic number by a count, to 80 bits with a sticky bit. -/
def dyDiv (d : Dy) (n : Nat) : Dy :=
  let a := d.m.natAbs * 2 ^ 80
  let q := a / n * 2 + b2n (a % n != 0)
  { m := if d.m < 0 then -(q : Int) else (q : Int), e := d.e - 81 }

/-- Rounds to fp16, ties to even, overflow to infinity. -/
def toF16 (d : Dy) : Nat :=
  if d.m == 0 then 0 else
  let s := b2n (decide (d.m < 0)) * 2 ^ 15
  let (m, e) := rneTo 11 (-24) d.m.natAbs d.e
  if m == 0 then s else
  let top := (Nat.log2 m : Int) + e
  if 15 < top then s + 0x7C00
  else if top < -14 then s + rneAt m e (-24)
  else s + (top + 15).toNat * 2 ^ 10 + rneAt m e (top - 10) % 2 ^ 10

/-- The mean of a list of values, summed in order in fp32: the quotient, not yet rounded, of a finite sum; a sum that is infinite or not a number as it is. -/
def meanFV (xs : List F32) : FV :=
  match f32Dec (xs.foldl fAdd f32Zero) with
  | .fin n m e => let d := dyDiv (fvDy (.fin n m e)) xs.length; .fin (decide (d.m < 0)) d.m.natAbs d.e
  | v => v

/-- A mean as fp16, and as fp32 (R296). A NaN has a free sign and payload (log entry 69). -/
def meanF16 (xs : List F32) : Nat :=
  match meanFV xs with
  | .nan => let k := Config.nanBits 16 (2 ^ 32 + (xs.foldl fAdd f32Zero).toNat); 0x7E00 + k / 2 ^ 9 % 2 * 2 ^ 15 + k % 2 ^ 9
  | .inf n => 0x7C00 + b2n n * 2 ^ 15
  | v => toF16 (fvDy v)

def meanF32 (xs : List F32) : F32 :=
  match meanFV xs with
  | .nan => nanOp (xs.foldl fAdd f32Zero) f32Zero
  | .inf n => f32Inf n
  | v => toF32 false (fvDy v)

/-- D of a format in a swath's mode. -/
def summaryDims (pooled : Bool) (f : Format) : Nat := if pooled then f.dim else tokenElems f

/-- The summary of the first `n` tokens of a sheaf, as fp16. -/
def sheafSummary (pooled : Bool) (f : Format) (x : Sheaf) (n : Nat) : List Nat :=
  let rows := (List.range n).map (fun t => (tokenRun f x true t).map (·.v))
  if pooled then (List.range f.dim).map (fun i => meanF16 ((rows.map (fun r => (List.range f.heads).map (fun h => r.getD (h * f.dim + i) 0))).flatten))
  else (List.range (tokenElems f)).map (fun i => meanF16 (rows.map (fun r => r.getD i 0)))

/-- The query summary of a row of a KILN.ATTEND. -/
def querySummary (pooled : Bool) (c : Cmd) (f : Format) (row : Nat) : List F32 :=
  let g := atQueryGroup c
  let at_ := fun (h i : Nat) => (queryElem c f (row * atHeads c f + h) i).v
  if pooled then (List.range f.dim).map (fun i => meanF32 ((List.range (atHeads c f)).map (fun h => at_ h i)))
  else ((List.range f.heads).map (fun k => (List.range f.dim).map (fun i => meanF32 ((List.range g).map (fun j => at_ (k * g + j) i))))).flatten

/-! Sketch, list, code (R297) -/

/-- A dot product in ascending order, in fp32. -/
def dot32 (a b : List F32) : F32 := (a.zipWith fMul b).foldl fAdd f32Zero

/-- A squared distance in ascending order, in fp32. -/
def dist32 (a b : List F32) : F32 := (a.zipWith (fun x y => let d := fSub x y; fMul d d) b).foldl fAdd f32Zero

/-- The index of the smallest element, the lowest on a tie. -/
def argMin (xs : List F32) : Nat := ((xs.zipIdx.foldl (fun (a : Option (F32 × Nat)) e => match a with | none => some e | some b => if fLt e.1 b.1 then some e else a) none).map (·.2)).getD 0

/-- The sketch of a vector: bit j is 1 when its projection is above 0. -/
def sketchOf (proj : List Byte) (xs : List F32) : Nat :=
  let d := xs.length
  sumN ((List.range 256).map (fun j =>
    let sum := xs.zipIdx.foldl (fun a (x, i) => let k := j * d + i; fAdd a (if bitOf (proj.getD (k / 8) 0).toNat (k % 8) then x else fNeg x)) f32Zero
    if fLt f32Zero sum then 2 ^ j else 0))

/-- The version of an item for a summary. -/
def versionOf (w : Swath) (tokens : Nat) (summary : List Nat) (waits : Option Nat) : GVersion :=
  let xs := summary.map ofF16
  let centred := xs.zipWith fSub (w.mean.map ofF16)
  let list := argMin (w.coarse.map (fun c => dist32 xs (c.map ofF16)))
  let r := xs.zipWith fSub ((w.coarse.getD list []).map ofF16)
  let code := ((cut (w.dims / 32) r).zip w.pq).map (fun (v, cs) => argMin (cs.map (fun c => dist32 v (c.map ofF16))))
  { tokens := tokens, summary := summary, sketch := sketchOf w.proj centred, list := list, code := code, waits := waits }

/-! Postings (R295, R302, R305, R311) -/

/-- The slot of an item that is not retired. -/
def itemSlot (w : Swath) (q l g i : Nat) : Option Nat :=
  (w.items.find? (fun e => !e.2.retired && e.2.seq == q && e.2.layer == l && e.2.group == g && e.2.idx == i)).map (·.1)

/-- Side-list records of a swath, and of the node. -/
def sideOf (w : Swath) : Nat := sumN (w.items.map (fun e => (e.2.versions.filter (·.side)).length))
def sideCount (s : State) : Nat := sumN (s.gln.swaths.map (fun e => sideOf e.2))

/-- The postings of an item of swath `k` that wait in the posting queue, newest first. -/
def queuedOf (s : State) (k : Nat) (e : GItem) : List GVersion :=
  ((s.gln.queue.filter (fun p => p.swath == k && p.seq == e.seq && p.layer == e.layer && p.group == e.group && p.idx == e.idx)).map (·.version)).reverse

/-- The versions of an item, newest first, wherever they lie: what a search finds depends neither on the posting queue nor on the merge (R303, R305, R308). -/
def versionsOf (s : State) (k : Nat) (e : GItem) : List GVersion := queuedOf s k e ++ e.versions

/-- Whether an item has a live version. -/
def isLive (s : State) (k : Nat) (e : GItem) : Bool := !e.retired && !(versionsOf s k e).isEmpty

/-- Items with a live version. -/
def liveItems (s : State) (k : Nat) (w : Swath) : Nat := (w.items.filter (fun e => isLive s k e.2)).length

/-- The slot of an item, allocated when it is new: the first free one from the next on, wrapping to 0 (R295). -/
def slotFor (w : Swath) (q l g i base : Nat) : Option (Nat × Swath) :=
  match itemSlot w q l g i with
  | some k => some (k, w)
  | none =>
    let cap := 2 ^ w.itemsLog2
    let mk : GItem := { seq := q, layer := l, group := g, idx := i, basePos := base }
    let put := fun (k wraps : Nat) => some (k, { w with items := tblSet w.items k mk, nextSlot := k + 1, wraps := wraps })
    if cap ≤ w.items.length then none
    else match (List.range w.items.length.succ).find? (fun j => w.nextSlot + j < cap && !tblHas w.items (w.nextSlot + j)) with
    | some j => put (w.nextSlot + j) w.wraps
    | none => match tblFree? w.items (w.items.length + 1) with
      | some k => put k (satAdd 7 w.wraps 1)
      | none => none

/-- Starts the merges that R311 asks for: of every swath when the side list reaches MERGE_AT, and of each whose side records exceed one sixty-fourth of its live items. -/
def startMerges (s : State) : State :=
  let full := decide (gleanParam s 0x04 * 16777216 ≤ 1000 * sideCount s)
  { s with gln := { s.gln with swaths := tblMap s.gln.swaths (fun k w => if !w.dropped && (full || decide (liveItems s k w < 64 * sideOf w)) then { w with merging := true } else w) } }

/-- The item of a posting is STALE: it is to be posted again from its body (R305). -/
def markStale (p : Posting) (s : State) : State :=
  match tblGet? s.gln.swaths p.swath with
  | none => s
  | some w =>
    match slotFor w p.seq p.layer p.group p.idx p.basePos with
    | none => s
    | some (k, w) => setSwath p.swath { w with items := tblUpd w.items k (fun e => { e with stale := true }) } s

/-- A posting that cannot be kept: the item is STALE and keeps its earlier version (R305). -/
def dropPosting (p : Posting) (s : State) : State :=
  match tblGet? s.gln.swaths p.swath with
  | none => s
  | some w =>
    let s := markStale p s
    raise .gleanPostDropped [.ctx w.ctx] (leBytes 2 p.swath ++ zeros 2 ++ leBytes 4 p.seq ++ leBytes 2 p.layer ++ zeros 2 ++ leBytes 4 p.idx) s

/-- Enters a version in the side list, superseding the item's earlier ones. -/
def enterPosting (p : Posting) (s : State) : State :=
  match tblGet? s.gln.swaths p.swath with
  | none => s
  | some w =>
    match slotFor w p.seq p.layer p.group p.idx p.basePos with
    | none => dropPosting p s
    | some (k, w) => startMerges (setSwath p.swath { w with items := tblUpd w.items k (fun e => { e with versions := p.version :: e.versions, stale := false, basePos := p.basePos }) } s)

/-- Gives an item its slot, if it has none and one is free. -/
def takeSlot (p : Posting) (s : State) : State :=
  match tblGet? s.gln.swaths p.swath with
  | none => s
  | some w => match slotFor w p.seq p.layer p.group p.idx p.basePos with | none => s | some (_, w) => setSwath p.swath w s

/-- Posts a version: to the side list, to the posting queue, or dropped. An item takes its slot when it is posted, so that a search finds it in the queue too (R295, R308). -/
def post (p : Posting) (s : State) : State :=
  if sideCount s < 16777216 && s.gln.queue.isEmpty then enterPosting p s
  else if s.gln.queue.length < 1048576 then
    let s := takeSlot p s
    { s with gln := { s.gln with queue := s.gln.queue ++ [p] } }
  else dropPosting p s

/-- The binding of a layer of a sequence. -/
def binding? (s : State) (q l : Nat) : Option Binding := tblGet? s.gln.bindings (q * 4096 + l)

/-- Retires the items of a swath that a test picks (R301, R304); fewer live items can start a merge (R311). -/
def retireItems (p : GItem → Bool) (s : State) : State :=
  startMerges { s with gln := { s.gln with
      swaths := tblMap s.gln.swaths (fun _ w => { w with items := tblMap w.items (fun _ e => if p e then { e with retired := true } else e) }),
      queue := s.gln.queue.filter (fun e => !p { seq := e.seq, layer := e.layer, group := e.group, idx := e.idx, basePos := e.basePos }),
      toPost := s.gln.toPost.filter (fun x => !p { seq := x.seq, layer := x.layer, group := x.group, idx := x.idx, basePos := 0 }) } }

/-- Posts a version of a sheaf over its first `n` tokens, from its body; a COLD body is fetched first (R301). -/
def postSheaf (q l g i n : Nat) (waits : Option Nat) (s : State) : State :=
  match binding? s q l, entry? s q l g i with
  | some bd, some e =>
    match tblGet? s.gln.swaths bd.swath, getBody? s e.body with
    | some w, some b =>
      if n == 0 then s
      else if readable b then
        match fmt? s b.fmt with
        | none => s
        | some f => post { swath := bd.swath, seq := q, layer := l, group := g, idx := i, basePos := e.basePos, version := versionOf w n (sheafSummary w.pooled f (sheafAt s f b) n) waits } s
      else if b.state == .lost then s
      else adviseFetch e.body 0 { s with gln := { s.gln with toPost := s.gln.toPost ++ [{ seq := q, layer := l, group := g, idx := i, waits := waits }] } }
    | _, _ => s
  | _, _ => s

/-- The tokens of a sheaf that a version covers: a multiple of SUMMARY_STEP (R302). -/
def stepTokens (s : State) (q l tokens : Nat) : Nat :=
  match (binding? s q l).bind (fun b => tblGet? s.gln.swaths b.swath) with
  | none => 0
  | some w => tokens / w.step * w.step

/-- Posts what was waiting for a body that has arrived (R301). -/
def postArrived (b : Nat) (s : State) : State :=
  let mine := s.gln.toPost.filter (fun x => match entry? s x.seq x.layer x.group x.idx with | none => true | some e => e.body == b)
  let s := { s with gln := { s.gln with toPost := s.gln.toPost.filter (fun x => !mine.contains x) } }
  mine.foldl (fun s x => match entry? s x.seq x.layer x.group x.idx with | none => s | some e => postSheaf x.seq x.layer x.group x.idx (stepTokens s x.seq x.layer e.tokens) x.waits s) s

/-! The search (R303, R306-R308, R312) -/

/-- Whether a command has not yet posted its completion. -/
def isUnposted (s : State) (oid : Nat) : Bool :=
  tblHas s.cln.inflight oid || s.cln.done.any (fun f => f.oid == oid) || s.cln.heldDone.any (fun f => f.oid == oid)

/-- Whether a version is usable: the command that posted it has completed (R303). -/
def isUsable (s : State) (v : GVersion) : Bool := match v.waits with | none => true | some k => !isUnposted s k

/-- The candidates of swath `k`: for each item its latest usable version. -/
def candidatesOf (s : State) (k : Nat) (w : Swath) : List Candidate :=
  w.items.filterMap (fun (i, e) => if e.retired then none else ((versionsOf s k e).find? (isUsable s)).map (fun v => { slot := i, item := e, ver := v }))

/-- An allowed-item bitmap as it is read at acceptance (R312): its bytes, or why it cannot be read. -/
def readFilter (s : State) (c : Cmd) (w : Swath) (h : Nat) : Except Status (Option (List Byte)) :=
  if h == 0 then .ok none else
  let n := ceilDiv (2 ^ w.itemsLog2) 8
  match resolve s h with
  | none => .error .badAddress
  | some (r, off) =>
    if !mayName s c r.ctx then .error .badContext
    else if regionSize r < off + n then .error .badAddress
    else let (bs, bad) := regionRead s r off n; if bad then .error .memoryError else .ok (some bs)

/-- Whether a candidate passes the bitmap (R307). -/
def passesBitmap (map : Option (List Byte)) (deny : Bool) (k : Candidate) : Bool :=
  match map with
  | none => true
  | some bs => bitOf (bs.getD (k.slot / 8) 0).toNat (k.slot % 8) != deny

/-- The position test of R307 for a query position and a window length, 0 for none. -/
def passesPosition (q w : Nat) (k : Candidate) : Bool := decide (k.item.basePos ≤ q) && (w == 0 || decide (k.item.basePos + w ≤ q))

/-- What one query finds: the kept candidates with their exact scores in descending order, the lists visited, the waves used. -/
structure Found where
  hits  : List (F32 × Candidate)
  lists : List Nat
  waves : Nat
deriving DecidableEq, Repr

/-- Descending by score; ties go to the lower sequence and sheaf index. -/
def scoreBefore (a b : F32 × Candidate) : Bool :=
  fLt b.1 a.1 || (!fLt a.1 b.1 && decide (a.2.item.seq < b.2.item.seq ∨ (a.2.item.seq = b.2.item.seq ∧ a.2.item.idx < b.2.item.idx)))

/-- The waves of R306: lists still to be visited, the pool so far. -/
def waves (w : Swath) (cs : List F32) (table : List (List F32)) (sk want : Nat) (cands : List Candidate) : Nat → List Nat → List (F32 × Candidate) → List Nat → Nat → List (F32 × Candidate) × List Nat × Nat
  | 0, _, pool, seen, n => (pool, seen, n)
  | fuel + 1, lists, pool, seen, n =>
    if lists.isEmpty then (pool, seen, n) else
    let now := lists.take (if w.nprobe == 0 then 256 else w.nprobe)
    let diff := fun (k : Candidate) => ((List.range 256).filter (fun j => bitOf (sk ^^^ k.ver.sketch) j)).length
    let got := (cands.filter (fun k => now.contains k.ver.list && decide (diff k ≤ w.screen))).map (fun k =>
      ((k.ver.code.zipIdx.foldl (fun a (c, j) => fAdd a ((table.getD j []).getD c 0)) f32Zero) |> fAdd (cs.getD k.ver.list 0), k))
    let pool := pool ++ got
    if w.rerank * want ≤ pool.length then (pool, seen ++ now, n + 1)
    else waves w cs table sk want cands fuel (lists.drop now.length) pool (seen ++ now) (n + 1)

/-- The procedure of R306 for one query. -/
def findItems (w : Swath) (qs : List F32) (want : Nat) (cands : List Candidate) : Found :=
  let cs := w.coarse.map (fun c => dot32 qs (c.map ofF16))
  let order := (sortBy (fun (a b : F32 × Nat) => fLt b.1 a.1) cs.zipIdx).map (·.2)
  let table := ((cut (w.dims / 32) qs).zip w.pq).map (fun (v, ks) => ks.map (fun k => dot32 v (k.map ofF16)))
  let (pool, seen, n) := waves w cs table (sketchOf w.proj qs) want cands w.waves order [] [] 0
  let kept := (sortBy scoreBefore pool).take (w.rerank * want)
  let exact := kept.map (fun (_, k) => (dot32 qs (k.ver.summary.map ofF16), k))
  { hits := (sortBy scoreBefore exact).take want, lists := seen, waves := n }

/-- Queries waiting in Gleaner (R316, R319): those with visits still to be made. -/
def queriesWaiting (s : State) : Nat := sumN (s.gln.searches.map (fun e => ((e.2.todo.map (·.query)).eraseDups).length))

/-- The visits of a query that found `f`, wave by wave. -/
def visitsOf (w : Swath) (query : Nat) (f : Found) : List Visit :=
  f.lists.zipIdx.map (fun (l, i) => { query := query, list := l, wave := i / (if w.nprobe == 0 then 256 else w.nprobe) })

/-- Lets each query join the lists of its earliest wave that is still to be made (R306, R310). -/
def joinWaves (now : Nat) (vs : List Visit) : List Visit :=
  vs.map (fun v => if v.joined.isNone && vs.all (fun x => x.query != v.query || decide (v.wave ≤ x.wave)) then { v with joined := some now } else v)

/-- Whether a search accepted earlier still needs a swath: one in progress, or that of a KILN.ATTEND that waits (R309). -/
def swathNeeded (s : State) (k : Nat) : Bool :=
  s.gln.searches.any (fun e => e.2.swath == k) || s.gln.notes.any (fun e => e.2.search.any (fun n => n.swath == k))

/-- Frees the area of each dropped swath whose searches have completed. -/
def freeDropped (s : State) : State :=
  { s with gln := { s.gln with swaths := tblKeep s.gln.swaths (fun k w => !w.dropped || swathNeeded s k) } }

/-- Adds a search whose result is settled. -/
def addSearch (x : GSearch) (s : State) : State :=
  { s with gln := { s.gln with searches := tblSet s.gln.searches s.gln.nextSearch { x with todo := joinWaves s.now x.todo }, nextSearch := s.gln.nextSearch + 1 } }

end Sys2Proof.Machine
end

