-- ==== Sys2Proof/Machine/Work.lean ====
section
/-! DEFINITION. Commands that wait on a sequence, and KILN.ATTEND from its checks to its completion (R129-R135, R149-R151, R215, R231, R233). -/

namespace Sys2Proof.Machine

/-! Holding a command (R183, R215, R231, R233; log entry 12) -/

/-- Whether a command is held already, so that its order has been judged. -/
def isHeld (s : State) (oid : Nat) : Bool := s.tir.held.any (fun h => h.oid == oid)

/-- The bodies that a held command waits for, which it pins (R222). -/
def heldPins (w : Why) : List Nat := match w with | .bodies l => l | _ => []

/-- Takes a command out of the held ones, with its pins and with what it recorded. -/
def unhold (oid : Nat) (s : State) : State :=
  match s.tir.held.find? (fun h => h.oid == oid) with
  | none => s
  | some h => freeDropped (unpinBodies (heldPins h.why) { s with tir := { s.tir with held := s.tir.held.filter (fun h => h.oid != oid) }, gln := { s.gln with notes := tblDel s.gln.notes oid } })

/-- Holds a command for a reason, in acceptance order. Its wait for bodies counts from the moment at which it began. -/
def hold (oid q unit verb : Nat) (why : Why) (s : State) : Answer × State :=
  let put := fun (why : Why) (since item : Nat) (s : State) =>
    let h : Held := { oid := oid, seq := q, unit := unit, verb := verb, why := why, since := since, item := item }
    (Answer.wait, pinBodies (heldPins why) { s with tir := { s.tir with held := insertBy (fun (a b : Held) => decide (a.oid < b.oid)) h s.tir.held } })
  let older := fun (a b : Why) => match a, b with | .room p, .room q => Why.room (min p q) | _, w => w
  match s.tir.held.find? (fun h => h.oid == oid) with
  | some h => put (older h.why why) (if !(heldPins h.why).isEmpty && !(heldPins why).isEmpty then h.since else s.now) h.item (unhold oid s)
  | none => put why s.now s.kln.nextItem { s with kln := { s.kln with nextItem := s.kln.nextItem + 1 } }

/-- The ways in which a command uses its sequence: it reads entries, appends, changes entries, forks, or ends it. -/
inductive SeqUse where
  | read | append | change | fork | destroy
deriving DecidableEq, Repr

/-- What a held command does with its sequence. -/
def useOf (unit verb : Nat) : SeqUse :=
  match unit, verb with
  | 0x04, 0x10 => .append
  | 0x06, 0x02 => .fork
  | 0x06, 0x03 => .destroy
  | 0x06, 0x04 | 0x06, 0x05 => .change
  | _, _ => .read

/-- Whether a command must wait for an earlier one that is held: a change of entries or the end of the sequence stands before everything, an append before appends, and everything before a change or the end. -/
def waitsFor (mine theirs : SeqUse) : Bool :=
  match mine, theirs with
  | _, .change | _, .destroy => true
  | .append, .append | .fork, .append => true
  | .change, _ | .destroy, _ => true
  | _, _ => false

/-- Whether a command has to wait for earlier commands of its sequence. -/
def mustWait (s : State) (oid q : Nat) (mine : SeqUse) : Bool :=
  s.tir.held.any (fun h => h.seq == q && decide (h.oid < oid) && waitsFor mine (useOf h.unit h.verb)) ||
  ((mine == .change || mine == .fork) && s.kln.appends.any (fun e => e.2.seq == q && decide (e.1 < oid))) ||
  (mine == .change && s.kln.attends.any (fun e => e.2.seq == q && decide (e.1 < oid)))

/-- Queues demand fetches for the bodies that are COLD. -/
def demandAll (bs : List Nat) (oid : Nat) (s : State) : State := bs.foldl (fun s b => demandFetch b oid s) s

/-- The status of a command that needs bodies it cannot have: their only copy waits for the mount, or their key is gone. -/
def bodiesDenied (bs : List Nat) (s : State) : Option (Done × State) :=
  let xs := bs.filterMap (getBody? s)
  if xs.any (keyRevoked s) then some ({ status := .keyRevoked }, s)
  else if xs.any (awaitsMount s) then some (peatStarting s)
  else none

/-! Visible tokens (R24, R133) -/

/-- The appends to a sequence whose completion is not posted now, those that are held among them. -/
def appendsUnposted (s : State) (q : Nat) : List Nat :=
  ((s.kln.unposted.filter (fun u => u.seq == q && isUnposted s u.oid)).map (·.oid)).eraseDups ++ (s.tir.held.filter (fun h => h.seq == q && useOf h.unit h.verb == .append)).map (·.oid)

/-- The runs of a sheaf's tokens that a command does not see: those of appends in `ids`, which were not posted at its acceptance, and of appends accepted after it (R24, R133). -/
def hiddenRuns (s : State) (oid : Nat) (ids : List Nat) (q l g i : Nat) : List (Nat × Nat) :=
  (s.kln.unposted.filter (fun u => u.seq == q && u.layer == l && u.group == g && u.idx == i && (ids.contains u.oid || decide (oid < u.oid)))).map (fun u => (u.first, u.stop))

/-- Tokens that count of a sheaf of `n` tokens: up to the last that is not hidden. -/
def visibleTokens (n : Nat) (hidden : List (Nat × Nat)) : Nat :=
  (((List.range n).filter (fun t => !hidden.any (fun h => decide (h.1 ≤ t ∧ t < h.2)))).getLast?.map (· + 1)).getD 0

/-- The sheaves of a (layer, group) as a command sees them that does not see the appends in `ids`. -/
def viewsOf (s : State) (oid : Nat) (ids : List Nat) (q : Nat) (x : Seq) (l g : Nat) : List View :=
  ((entriesOf x l g).map (fun e =>
    let h := hiddenRuns s oid ids q l g e.1
    ({ idx := e.1, basePos := e.2.basePos, tokens := visibleTokens e.2.tokens h, body := e.2.body, hidden := h } : View))).filter (fun v => v.tokens != 0)

/-! The end of a KILN.ATTEND (R130, R151) -/

/-- The DETAIL of UNIT_FENCED: the three cores in order of execution (R123). -/
def fencedDetail (cores : List Nat) : List Byte := ((cores.map (fun n => leBytes 1 n)).flatten ++ zeros 8).take 8

/-- The partials of a command, in the order row, then head. -/
def commandParts (a : Attend) : List Part :=
  let per := a.parts.map (·.2)
  (List.range (atRows a.cmd * atHeads a.cmd a.fmt)).map (fun k =>
    if per.isEmpty then emptyPart a.fmt.dim else mergeParts a.fmt.dim (per.map (fun ps => ps.getD k (emptyPart a.fmt.dim))))

/-- The output bytes of a KILN.ATTEND: QUERIES × H × (4d + 8). -/
def attendSpace (c : Cmd) (f : Format) : Nat := atRows c * atHeads c f * (4 * f.dim + 8)

/-- The completion of a KILN.ATTEND (R151): every end carries the results, with the flags of the partials that have been formed. -/
def attendDone (a : Attend) : Done :=
  let space := attendSpace a.cmd a.fmt
  let ps := commandParts a
  let whole := match a.bad with | none | some .memoryError => true | some _ => false
  let r0 := a.admitted % 2 ^ 32 + a.read % 65536 * 2 ^ 32 + min 255 a.retried * 2 ^ 48 + b2n (ps.any (·.nan)) * 2 ^ 56 +
    b2n (ps.any (·.sov)) * 2 ^ 57 + b2n (ps.any (·.oov)) * 2 ^ 58 + b2n (whole && ps.all (·.empty)) * 2 ^ 59
  let r1 := a.items % 65536 + a.skipped % 512 * 2 ^ 16 + min 0xFFFF a.residencyUs * 2 ^ 32
  let st : Status := a.bad.getD (if a.retried == 0 then .success else .retried)
  { status := st, r0 := r0, r1 := r1, output := if whole then (ps.map partBytes).flatten else [], space := space, poisoned := st == .memoryError,
    detail := if st == .unitFenced then some (fencedDetail a.fenced) else none }

/-- Ends a KILN.ATTEND whose every item has committed. -/
def finishAttend (k : Nat) (s : State) : State :=
  match tblGet? s.kln.attends k with
  | none => s
  | some a =>
    if a.gleaning || a.parts.length < a.items then s
    else
      let d := attendDone a
      let s := profileAdd a.ctx 3 a.residencyUs { s with kln := { s.kln with attends := tblDel s.kln.attends k } }
      finish k d s

/-! Items (R129, R136, R152, R222, R224) -/

/-- Cuts a list into consecutive runs of `n`, the last one shorter. -/
def runsOf {α : Type} (n : Nat) (l : List α) : List (List α) := (List.range (ceilDiv l.length n)).map (fun i => (l.drop (n * i)).take n)

/-- Whether every body of an item is in Ember. -/
def itemResident (s : State) (t : Item) : Bool := (itemBodies t).all (fun b => match getBody? s b with | none => true | some x => resident x)

/-- Adds an item to the backlog; it pins its bodies and queues fetches for those that are COLD. -/
def addItem (t : Item) (s : State) : State :=
  let k := s.kln.nextItem
  let s := demandAll (itemBodies t) t.oid (pinBodies (itemBodies t) s)
  let t := { t with waited := if itemResident s t then some s.now else none }
  { s with kln := { s.kln with items := tblSet s.kln.items k t, nextItem := k + 1, backlog := s.kln.backlog ++ [k] } }

/-- The sheaves that a KILN.ATTEND reads, with the number of their tokens that are admitted to some row. -/
def readSheaves (a : Attend) : List (View × Nat) :=
  a.views.filterMap (fun v => let ts := (admittedAny a.cmd a.fmt a.retrieved v).1; if ts.isEmpty then none else some (v, ts.length))

/-- Forms the items of a KILN.ATTEND whose retrieved set is known. -/
def formItems (k : Nat) (s : State) : State :=
  match tblGet? s.kln.attends k with
  | none => s
  | some a =>
    let rs := readSheaves a
    let runs := runsOf (atSpan a.cmd) (rs.map (·.1))
    let s := { s with kln := { s.kln with attends := tblSet s.kln.attends k { a with gleaning := false, items := runs.length, read := rs.length, admitted := sumN (rs.map (·.2)) } } }
    let s := profileAdd a.ctx 1 runs.length s
    runs.zipIdx.foldl (fun s (vs, i) => addItem { oid := k, idx := i, ctx := a.ctx, append := false, seq := a.seq, layer := a.layer, group := a.group, views := vs, since := s.now } s) s

/-! Gleaner's search for a KILN.ATTEND (R135, R303, R307, R309) -/

/-- Comparisons of a search: one for each record in the visited lists, and one for each side-list record (R310). -/
def comparisonsOf (s : State) (w : Swath) (lists : List Nat) : Nat :=
  sumN (w.items.map (fun e => (e.2.versions.filter (fun v => !v.side && lists.contains v.list)).length)) + (if lists.isEmpty then 0 else sideCount s)

/-- What a search for a KILN.ATTEND takes at its acceptance: none when the layer has no bound swath; or why its bitmap cannot be read (R303, R309, R312). -/
def searchNote (c : Cmd) (q l g : Nat) (s : State) : Except Status (Option SearchNote) :=
  match binding? s q l with
  | none => .ok none
  | some b =>
    match swath? s b.swath with
    | none => .ok none
    | some w =>
      match readFilter s c w b.filter with
      | .error e => .error e
      | .ok map => .ok (some { swath := b.swath, deny := b.deny, map := map, cands := (candidatesOf s b.swath w).filter (fun k => k.item.seq == q && k.item.layer == l && k.item.group == g) })

/-- The recorded candidates whose items are still there, with the positions that they have now. -/
def currentCands (w : Swath) (ks : List Candidate) : List Candidate :=
  ks.filterMap (fun k => match tblGet? w.items k.slot with
    | none => none
    | some e => if !e.retired && e.seq == k.item.seq && e.layer == k.item.layer && e.group == k.item.group && e.idx == k.item.idx then some { k with item := e } else none)

/-- The retrieved set that Gleaner selects, with the search still to be made (R306-R309). -/
def attendSearch (oid : Nat) (c : Cmd) (f : Format) (q l : Nat) (x : Seq) (note : Option SearchNote) (s : State) : List Nat × Option GSearch × State :=
  match note with
  | none =>
    if s.gln.unbound.contains q then ([], none, s)
    else ([], none, raise .gleanUnbound [.ctx x.ctx] (leBytes 4 q ++ leBytes 2 l) { s with gln := { s.gln with unbound := setAdd s.gln.unbound q } })
  | some b =>
    match tblGet? s.gln.swaths b.swath with
    | none => ([], none, s)
    | some w =>
      let pos := rowPos c f (atRow c)
      let cands := (currentCands w b.cands).filter (fun k => passesPosition pos (if atWindow c then atWindowLen c else 0) k && passesBitmap b.map b.deny k)
      let r := findItems w (querySummary w.pooled c f (atRow c)) (atCount c) cands
      let n := comparisonsOf s w r.lists
      let s := tenantAdd (cmdCtx s c) (fun t => { t with comparisons := (t.comparisons + n) % 2 ^ 64 }) s
      (r.hits.map (fun h => h.2.item.idx), some { oid := oid, swath := b.swath, attend := true, queries := 1, todo := visitsOf w 0 r }, s)

/-! KILN.ATTEND (R149) -/

/-- Whether the ARGS of a KILN.ATTEND are in range: the second check of R149. -/
def attendArgs (c : Cmd) : Bool :=
  let scale : F32 := BitVec.ofNat 32 (argU c 56 4)
  argsOnly c [(32, 0, 32), (36, 0, 12), (38, 0, 8), (39, 0, 5), (40, 0, 18), (44, 0, 7), (45, 0, 1), (46, 0, 9), (48, 0, 9), (50, 0, 5), (51, 0, 7), (52, 0, 8), (53, 0, 3), (53, 4, 3), (54, 0, 8), (55, 0, 8), (56, 0, 32)] &&
  decide (atQtype c ≤ 4) && decide (atArray c ≤ 4) && decide (1 ≤ atRows c ∧ atRows c ≤ 256) && decide (1 ≤ atQueryGroup c ∧ atQueryGroup c ≤ 16) &&
  decide (atSpan c ≤ 64) && decide (atRow c < atRows c) &&
  (scale.toNat % 2 ^ 31 == 0 || (fvFinite (f32Exact scale) && !bitOf scale.toNat 31))

/-- The third check of R149: the rules. -/
def attendRules (c : Cmd) : Bool :=
  let three := atWindow c || atGlobal c || atRetrieved c
  (three != atDense c) && (!atWindow c || decide (1 ≤ atWindowLen c ∧ atWindowLen c ≤ 131072))

/-- The checks of R149 that need the sequence: its format, its sheaves, its profile. -/
def attendSeq (c : Cmd) (s : State) : Except Status (Seq × Format × Option Rope) :=
  let l := argBits c 36 0 12
  let g := argU c 38 1
  let slot := argU c 52 1
  match getSeq? s (argU c 32 4) with
  | none => .error .notFound
  | some x =>
    let rope := if slot == 0xFF then none else tblGet? s.kln.rope slot
    if !ownsIt s c x.ctx || rope.any (fun p => !ownsIt s c p.ctx) then .error .badContext
    else if (slot != 0xFF && rope.isNone) || (entriesOf x l g).isEmpty then .error .notFound
    else match fmt? s (x.formats.getD l 0) with
    | none => .error .notFound
    | some f =>
      if (match rope with | none => false | some p => decide (f.dim < p.rotDims)) then .error .badParameter
      else if c.inLen < (sections c f).stop || c.outLen < attendSpace c f then .error .badLength
      else match bufferRefused c s with
      | some e => .error e
      | none => if hasLoss s (argU c 32 4) then .error .dataLost else .ok (x, f, rope)

/-- The checks of R149 that need the sequence, with what the command records at its acceptance; or the status that ends it, with the bytes of output that a poisoned input spoils (R192). -/
def attendChecks (c : Cmd) (s : State) : Except (Status × Nat) (Seq × Format × AttendNote) :=
  match attendSeq c s with
  | .error e => .error (e, 0)
  | .ok (x, f, rope) =>
    match (if inputPoisoned c s then .error .memoryError else if atRetrieved c && atGleaner c then searchNote c (argU c 32 4) (argBits c 36 0 12) (argU c 38 1) s else .ok none) with
    | .error e => .error (e, attendSpace c f)
    | .ok b => .ok (x, f, { unposted := appendsUnposted s (argU c 32 4), rope := rope, search := b })

/-- KILN.ATTEND once nothing stands before it: records the sheaves and the retrieved set, and forms its items. -/
def attendStart (oid : Nat) (c : Cmd) (x : Seq) (f : Format) (note : AttendNote) (s : State) : Answer × State :=
  let q := argU c 32 4
  let l := argBits c 36 0 12
  let g := argU c 38 1
  let gleaner := atRetrieved c && atGleaner c
  let (retrieved, search, s) := if gleaner then attendSearch oid c f q l x note.search s else (hostList c f, none, s)
  let held := (entriesOf x l g).map (·.1)
  let a : Attend := { cmd := c, ctx := x.ctx, seq := q, layer := l, group := g, fmt := f, views := viewsOf s oid note.unposted q x l g, rope := note.rope,
                      retrieved := retrieved, skipped := if gleaner then 0 else (retrieved.filter (fun i => !held.contains i)).length }
  match bodiesDenied ((readSheaves a).map (·.1.body)) s with
  | some (d, s) => (.done d, s)
  | none =>
    let s := profileAdd x.ctx 0 1 s
    let put := fun (a : Attend) => { s with kln := { s.kln with attends := tblSet s.kln.attends oid a } }
    match search with
    | some g => if g.todo.isEmpty then (.wait, formItems oid (put a)) else (.wait, addSearch g (put { a with gleaning := true }))
    | none => if (readSheaves a).isEmpty then (.done (attendDone a), s) else (.wait, formItems oid (put a))

/-- A KILN.ATTEND that waited goes on with what it recorded, if its sequence is still there and has lost nothing (R217, R246). -/
def attendResume (oid : Nat) (c : Cmd) (note : AttendNote) (s : State) : Answer × State :=
  let q := argU c 32 4
  match getSeq? s q with
  | none => (fail .notFound, s)
  | some x =>
    match fmt? s (x.formats.getD (argBits c 36 0 12) 0) with
    | none => (fail .notFound, s)
    | some f => if hasLoss s q then (fail .dataLost, s) else attendStart oid c x f note s

/-- KILN.ATTEND at its acceptance, with every check of R149, and again when it was held for earlier commands of its sequence. -/
def attendBody (oid : Nat) (c : Cmd) (s : State) : Answer × State :=
  let q := argU c 32 4
  match tblGet? s.gln.notes oid with
  | some note =>
    if mustWait s oid q .read then (.wait, s)
    else let (a, s) := attendResume oid c note s; (a, unhold oid s)
  | none =>
    if !attendArgs c || !attendRules c then (fail .badParameter, s)
    else if 64 < atGlobals c || 256 < atCount c then (fail .limitExceeded, s)
    else if atRetrieved c && atGleaner c && !hasGleaner s then (fail .unitAbsent, s)
    else match attendChecks c s with
    | .error e => failInput e.1 e.2 s
    | .ok (x, f, note) =>
      if mustWait s oid q .read then let (a, s) := hold oid q 0x03 0x01 .order s; (a, { s with gln := { s.gln with notes := tblSet s.gln.notes oid note } })
      else attendStart oid c x f note s

end Sys2Proof.Machine
end

