-- ==== Sys2Proof/Machine/SheafWork.lean ====
section
/-! DEFINITION. SHEAF.APPEND from its checks to its completion, and SHEAF.READ (R177-R186, R213, R225, R228). -/

namespace Sys2Proof.Machine

/-! LINEAGE and room -/

/-- Draws the next LINEAGE of a context (R447); none when 2^32 values have been issued. -/
def drawLineage (ctx : Nat) (s : State) : Option (Nat × State) :=
  match getCtx? s ctx with
  | none => none
  | some x => if 2 ^ 32 ≤ x.lineage then none else some (x.lineage, { s with sec := { s.sec with ctxs := tblSet s.sec.ctxs ctx { x with lineage := x.lineage + 1 } } })

/-- What an allocation comes to: no room yet, a lineage counter that has run out, or the body and the state with it. -/
inductive Alloc where
  | noRoom
  | noLineage
  | body (b : Nat) (s : State)
deriving DecidableEq, Repr

/-- Allocates an empty body for a sequence (R213, R220). -/
def allocBody (x : Seq) (fmt : Nat) (f : Format) (s : State) : Alloc :=
  match findRun s (bodyChunks f) with
  | none => .noRoom
  | some eda =>
    let mk := fun (lineage : Nat) (s : State) =>
      let (b, s) := addBody { state := .hot, dirty := true, refs := 1, lastUse := s.now, fmt := fmt, eda := eda, chunks := bodyChunks f, prot := x.prot, ctx := x.ctx, lineage := lineage } s
      Alloc.body b s
    if x.prot then match drawLineage x.ctx s with | none => .noLineage | some (k, s) => mk k s
    else mk 0 s

/-! The end of an append (R182, R185, R228) -/

/-- The results of an append that ends without writing: P, and the position of the next token (R185). -/
def appendEnd (d : Done) (pos : Nat) : Done := { d with r0 := pos % 2 ^ 32, r1 := pos % 2 ^ 32 }

/-- The completion of an append once its items have committed or failed (R185); `next` is the position of the next token to be appended. -/
def appendDone (a : Append) (next : Nat) : Done :=
  let st : Status := match a.bad with | some st => st | none => if a.retried then .retried else .success
  { status := st,
    r0 := a.pos % 2 ^ 32 + a.written % 2 ^ 13 * 2 ^ 32 + b2n a.newTail * 2 ^ 46,
    r1 := next % 2 ^ 32 + min 0xFFFF a.escaped * 2 ^ 32 + min 0xFFFF a.clamped * 2 ^ 48,
    detail := if st == .unitFenced then some (fencedDetail a.fenced) else none }

/-- After an append that failed: entries promise no more than they hold, and empty ones at the end go (log entry 13). -/
def settlePromise (a : Append) (s : State) : State :=
  if s.kln.appends.any (fun e => e.2.seq == a.seq && e.2.layer == a.layer && e.2.group == a.group) then s
  else match getSeq? s a.seq with
  | none => s
  | some x =>
    let es := entriesOf x a.layer a.group
    let kept := (es.reverse.dropWhile (fun e => e.2.tokens == 0)).reverse
    let gone := es.drop kept.length
    let s := setSeq a.seq { x with entries := tblSet x.entries (lgKey a.layer a.group) (kept.map (fun e => (e.1, { e.2 with promised := e.2.tokens }))) } s
    gone.foldl (fun s e => decRef e.2.body s) s

/-- Ends an append whose every item has committed or failed; one that owes a journal record completes when the record is programmed. -/
def finishAppend (k : Nat) (s : State) : State :=
  match tblGet? s.kln.appends k with
  | none => s
  | some a =>
    if a.left != 0 then s
    else
      let s := { s with kln := { s.kln with appends := tblDel s.kln.appends k } }
      let s := if a.bad.isSome then settlePromise a s else s
      let s := profileAdd a.ctx 4 a.written s
      let next := if a.bad.isNone then a.pos + a.written else match getSeq? s a.seq with | none => a.pos + a.written | some x => nextPos x a.layer a.group
      let d := appendDone a next
      if s.tir.jwait.any (fun j => j.oid == some k) then
        { s with tir := { s.tir with jwait := s.tir.jwait.map (fun j => if j.oid == some k then { j with done := d } else j) } }
      else finish k d s

/-! SHEAF.APPEND (R177, R180-R184) -/

/-- The records of an append as 16-bit elements. -/
def appendRecords (c : Cmd) (f : Format) (n : Nat) : List (List Nat) :=
  let len := 4 * tokenElems f
  (List.range n).map (fun t => halves ((c.input.drop (t * len)).take len))

/-- The first token that holds an element that is not a number (R181). -/
def badToken (c : Cmd) (f : Format) (n : Nat) : Option Nat :=
  (appendRecords c f n).findIdx? (fun r => r.any (fun e => !elemFinite (argBits c 39 0 1 == 1) e))

/-- What the tail of a (layer, group) offers an append: the sheaf and token at which it begins, the BASE_POS of the next new sheaf, and the open sheaf's entry if it has room. -/
structure TailPlan where
  idx   : Nat
  tok   : Nat
  base  : Nat
  entry : Option Entry
deriving DecidableEq, Repr

def tailPlan (x : Seq) (l g : Nat) : TailPlan :=
  match tailOf x l g with
  | none => { idx := 0, tok := 0, base := x.startPos, entry := none }
  | some (i, e) =>
    let used := max e.tokens e.promised
    if 64 ≤ used then { idx := i + 1, tok := 0, base := e.basePos + 64, entry := none }
    else { idx := i, tok := used, base := e.basePos + 64, entry := some e }

/-- The pieces of an append: sheaf, first token, tokens, first record (R184). -/
def piecesFrom : Nat → Nat → Nat → Nat → Nat → List (Nat × Nat × Nat × Nat)
  | 0, _, _, _, _ => []
  | fuel + 1, idx, tok, src, n => if n == 0 then [] else let k := min n (64 - tok); (idx, tok, k, src) :: piecesFrom fuel (idx + 1) 0 (src + k) (n - k)

/-- The pieces of an append of `n` tokens at a tail. -/
def piecesOf (p : TailPlan) (n : Nat) : List (Nat × Nat × Nat × Nat) := piecesFrom 65 p.idx p.tok 0 n

/-- The pieces that open a sheaf. -/
def newPieces (p : TailPlan) (n : Nat) : List (Nat × Nat × Nat × Nat) := if p.entry.isSome then (piecesOf p n).drop 1 else piecesOf p n

/-- The body of the open tail, if the append goes on in it. -/
def tailBodies (p : TailPlan) : List Nat := match p.entry with | none => [] | some e => [e.body]

/-- Opens the new sheaves of an append. -/
def openSheaves (q l g : Nat) (x : Seq) (fmt : Nat) (f : Format) (base : Nat) : List (Nat × Nat × Nat × Nat) → State → Alloc
  | [], s => .body 0 s
  | (i, _, n, _) :: rest, s =>
    match allocBody x fmt f s with
    | .body b s => openSheaves q l g x fmt f (base + 64) rest (setEntry q l g i { basePos := base, tokens := 0, promised := n, body := b } s)
    | a => a

/-- Makes the open tail writable: a shared body is copied first (R225). -/
def writableTail (q l g : Nat) (p : TailPlan) (n : Nat) (s : State) : Option State :=
  match p.entry with
  | none => some s
  | some e =>
    let put := fun (b : Nat) (s : State) => setEntry q l g p.idx { e with body := b, promised := p.tok + n } s
    match getBody? s e.body with
    | none => some (put e.body s)
    | some b => if 1 < b.refs then (copyOnWrite e.body e.tokens s).map (fun r => put r.1 r.2) else some (put e.body s)

/-- Forms the items of an append. -/
def appendItems (oid ctx q l g : Nat) (ps : List (Nat × Nat × Nat × Nat)) (s : State) : State :=
  ps.zipIdx.foldl (fun s ((i, t, n, src), k) =>
    match entry? s q l g i with
    | none => s
    | some e => addItem { oid := oid, idx := k, ctx := ctx, append := true, seq := q, layer := l, group := g, views := [{ idx := i, basePos := e.basePos, tokens := e.tokens, body := e.body }], first := t, count := n, src := src, since := s.now } s) s

/-- SHEAF.APPEND once its sequence and format are known: R180's check for room, of positions, of sheaf table entries (R212) and of Ember, then R181's of the input, which the items make before any of them writes. -/
def appendStart (oid : Nat) (c : Cmd) (q l g n : Nat) (x : Seq) (f : Format) (s : State) : Answer × State :=
  let plan := tailPlan x l g
  let pos := nextPos x l g
  let ps := piecesOf plan n
  let fresh_ := newPieces plan n
  let tail := tailBodies plan
  let shared := tail.filter (fun b => match getBody? s b with | none => false | some y => decide (1 < y.refs) && !readable y)
  let refuse := fun (st : Status) => Answer.done (appendEnd { status := st } pos)
  if !fresh_.isEmpty && (decide (2 ^ 32 - 64 < plan.base + 64 * (fresh_.length - 1)) || !tableHolds s fresh_.length) then (refuse .noSpace, s)
  else match bodiesDenied tail s with
  | some (d, s) => (.done (appendEnd d pos), s)
  | none =>
    if x.prot && !keyHeld s x.ctx (·.memKey) then (refuse .keyRevoked, s)
    else match (if x.dirtyMark then none else journalDenied s) with
    | some (d, s) => (.done (appendEnd d pos), s)
    | none =>
      if !shared.isEmpty then hold oid q 0x04 0x10 (.bodies shared) (demandAll shared oid s)
      else
        match (writableTail q l g plan (min n (64 - plan.tok)) s).map (openSheaves q l g x (x.formats.getD l 0) f plan.base fresh_) with
        | none | some .noRoom => hold oid q 0x04 0x10 (.room s.tir.passNo) s
        | some .noLineage => (refuse .limitExceeded, s)
        | some (.body _ t) =>
          match badToken c f n with
          | some k => (.done (appendEnd { status := .badParameter, detail := some (leBytes 4 k ++ zeros 4) } pos), s)
          | none =>
          let s := t
          let a : Append := { cmd := c, ctx := x.ctx, seq := q, layer := l, group := g, fmt := f, pos := pos, tokens := n, left := ps.length, newTail := !fresh_.isEmpty }
          let s := { s with kln := { s.kln with appends := tblSet s.kln.appends oid a, unposted := s.kln.unposted.filter (fun u => isUnposted s u.oid || s.gln.notes.any (fun e => e.2.unposted.contains u.oid)) ++ ps.map (fun p => { oid := oid, seq := q, layer := l, group := g, idx := p.1, first := p.2.1, stop := p.2.1 + p.2.2.1 }) } }
          (.wait, appendItems oid x.ctx q l g ps (unhold oid s))

/-- SHEAF.APPEND at its acceptance, and again while it is held. -/
def appendBody (oid : Nat) (c : Cmd) (s : State) : Answer × State :=
  let q := argU c 32 4
  let l := argBits c 36 0 12
  let g := argU c 38 1
  let n := argBits c 40 0 13
  let expect := argU c 44 4
  if !argsOnly c [(32, 0, 32), (36, 0, 12), (38, 0, 8), (39, 0, 1), (40, 0, 13), (42, 0, 8), (44, 0, 32)] || n == 0 || 4096 < n then (fail .badParameter, s)
  else if mustWait s oid q .append then hold oid q 0x04 0x10 .order s
  else match getSeq? s q with
  | none => (fail .notFound, s)
  | some x =>
    if x.layers ≤ l || x.groups ≤ g then (fail .notFound, s)
    else if !mayName s c x.ctx then (fail .badContext, s)
    else match fmt? s (x.formats.getD l 0) with
    | none => (fail .notFound, s)
    | some f =>
      let pos := nextPos x l g
      if c.inLen < n * (4 * tokenElems f) then (fail .badLength, s)
      else match bufferCheck c s with
      | some e => (fail e, s)
      | none =>
        if hasLoss s q then (.done (appendEnd { status := .dataLost } pos), s)
        else if expect != 0xFFFFFFFF && expect != pos then
          if expect + n ≤ pos then (.done { r0 := pos % 2 ^ 32 + 2 ^ 45, r1 := pos % 2 ^ 32 }, s)
          else (.done (appendEnd { status := .badState } pos), s)
        else appendStart oid c q l g n x f s

/-! SHEAF.READ (R186, R448) -/

/-- Whether a command came as a PROTECTED COMMAND over Olnen from a member of the binding group (R448). -/
def cameProtected (s : State) (c : Cmd) : Bool :=
  match c.issuer with
  | .remote n x d t => s.trn.protCmds.contains (n, x, d, t)
  | _ => false

/-- SHEAF.READ at its acceptance, and again while it is held. -/
def readBody (oid : Nat) (c : Cmd) (s : State) : Answer × State :=
  let q := argU c 32 4
  let l := argBits c 36 0 12
  let g := argU c 38 1
  if !argsOnly c [(32, 0, 32), (36, 0, 12), (38, 0, 8), (44, 0, 32)] then (fail .badParameter, s)
  else if mustWait s oid q .read then hold oid q 0x04 0x20 .order s
  else match getSeq? s q with
  | none => (fail .notFound, s)
  | some x =>
    if x.layers ≤ l || x.groups ≤ g then (fail .notFound, s)
    else if !mayName s c x.ctx then (fail .badContext, s)
    else match tblGet? (entriesOf x l g) (argU c 44 4) with
    | none => (fail .notFound, s)
    | some e =>
      match getBody? s e.body with
      | none => (fail .notFound, s)
      | some b =>
        match fmt? s b.fmt with
        | none => (fail .notFound, s)
        | some f =>
          let bodyEnd := if b.escCount == 0 then (layout f).size else roundUp (layout f).size 64
          let space := bodyEnd + roundUp (if b.escCount == 0 then 0 else 512 + 2 * b.escCount) 64
          if b.prot && !cameProtected s c then (fail .permission, s)
          else match bufferCheck c s with
          | some e => (fail e, s)
          | none =>
            if hasLoss s q || b.state == .lost then (fail .dataLost, s)
            else match bodiesDenied [e.body] s with
            | some (d, s) => (.done d, s)
            | none =>
              if !readable b then hold oid q 0x04 0x20 (.bodies [e.body]) (demandFetch e.body oid s)
              else
                let s := useBody e.body s
                if c.outLen < space then (fail .badLength, s)
                else
                  (.done { status := if bodyPoisoned s f b then .memoryError else .success, r0 := (layout f).size + e.tokens * 2 ^ 32, r1 := b.escCount,
                           output := (emberRead s b.eda (layout f).size).1 ++ zeros (bodyEnd - (layout f).size) ++ readEsc s b, space := space, poisoned := bodyPoisoned s f b }, s)

end Sys2Proof.Machine
end

