-- ==== Sys2Proof/Machine/TierWork.lean ====
section
/-! DEFINITION. The tier manager's commands on sequences and regions that may have to wait: TRUNCATE, REMAP, FORK, DESTROY, QUERY, PIN, REGION_ALLOC (R214-R219, R223, R225, R231, R247). -/

namespace Sys2Proof.Machine

/-! Naming a sequence and its entries -/

/-- The sequence that ARGS bytes 32-35 name, if the command may name it. -/
def seqOf (c : Cmd) (s : State) : Except Status (Nat × Seq) :=
  match getSeq? s (argU c 32 4) with
  | none => .error .notFound
  | some x => if mayName s c x.ctx then .ok (argU c 32 4, x) else .error .badContext

/-- The entries that LAYER, KV_GROUP, FIRST_INDEX and COUNT name: key of (layer, group), index, entry. None for a layer or group out of range; `every` allows 0xFFFF and 0xFF for all. -/
def namedEntries (c : Cmd) (x : Seq) (every : Bool) : Option (List (Nat × Nat × Entry)) :=
  let l := argU c 36 2
  let g := argU c 38 1
  let first := argU c 40 4
  let last := first + argU c 44 4
  let allL := every && l == 0xFFFF
  let allG := every && g == 0xFF
  if (!allL && x.layers ≤ l) || (!allG && x.groups ≤ g) then none
  else some ((allEntries x).filter (fun (k, i, _) => (allL || k / 256 == l) && (allG || k % 256 == g) && decide (first ≤ i ∧ i < last)))

/-- A fresh handle for a sequence; 0xFFFF_FFFF is never one (R226). -/
def freshSeq (s : State) : Nat :=
  ((List.range (s.tir.seqs.length + s.tir.journal.length + 2)).map (fun i => (s.tir.nextSeq + i) % (2 ^ 32 - 1))).find? (fun h => h != 0 && !tblHas s.tir.seqs h && !tblHas s.tir.journal h) |>.getD 0

/-! TIER.SEQ_DESTROY (R217, R246, R281, R283, R304) -/

/-- Releases an explicit pin. -/
def dropPin (k : Nat) (s : State) : State :=
  match tblGet? s.tir.pins k with
  | none => s
  | some p => p.bodies.foldl (fun s b => modBody b (fun x => { x with explicit := x.explicit - 1 }) s) { s with tir := { s.tir with pins := tblDel s.tir.pins k } }

/-- Removes a sequence: its pins, entries, losses, journal record, AUTO entries, posts, items and bindings. -/
def destroySeq (q : Nat) (s : State) : State :=
  match getSeq? s q with
  | none => s
  | some x =>
    let s := (s.tir.pins.filter (fun p => p.2.seq == q)).foldl (fun s p => dropPin p.1 s) s
    let s := dropPosts q none (dropAuto x.ctx q none s)
    let s := retireItems (fun e => e.seq == q) s
    let s := { s with
      gln := { s.gln with bindings := s.gln.bindings.filter (fun b => b.1 / 4096 != q), unbound := setDel s.gln.unbound q },
      kln := { s.kln with unposted := s.kln.unposted.filter (fun u => u.seq != q) },
      tir := { s.tir with seqs := tblDel s.tir.seqs q, losses := s.tir.losses.filter (fun l => l.seq != q), journal := tblDel s.tir.journal q } }
    (allEntries x).foldl (fun s e => decRef e.2.2.body s) s

def destroyBody (oid : Nat) (c : Cmd) (s : State) : Answer × State :=
  if !argsOnly c [(32, 0, 32)] then (fail .badParameter, s)
  else match seqOf c s with
  | .error e => (fail e, s)
  | .ok (q, _) =>
    if mustWait s oid q .destroy then hold oid q 0x06 0x03 .order s
    else
      let (yes, s) := judge c { unit := 0x06, obj := q } (.content 1) s
      if !yes then (fail .overruled, s) else (ok, destroySeq q s)

/-! TIER.SEQ_TRUNCATE (R225, R228, R246, R247, R281, R283, R304) -/

/-- How a truncate at a position bears on an entry: kept whole, removed, or cut to a number of tokens. -/
inductive Cut where
  | keep | remove | cutTo (n : Nat)
deriving DecidableEq, Repr

def cutOf (pos : Nat) (e : Entry) : Cut :=
  if pos ≤ e.basePos then .remove else if pos < e.basePos + e.tokens then .cutTo (pos - e.basePos) else .keep

/-- Whether a truncate at a position cuts an entry. -/
def isCut (pos : Nat) (e : Entry) : Bool := match cutOf pos e with | .cutTo _ => true | _ => false

/-- Whether an entry holds the token before a position. -/
def holdsBefore (pos : Nat) (e : Entry) : Bool := decide (e.basePos < pos ∧ pos ≤ e.basePos + e.tokens)

/-- Cuts one entry: the body is copied when it is shared and else restored, becomes dirty, and loses its cold copy. None when no body can be allocated. -/
def cutEntry (q k i n : Nat) (e : Entry) (s : State) : Option State :=
  let settle := fun (b : Nat) (s : State) =>
    let s := useBody b (modBody b (fun x => { x with dirty := true, coldKind := .none, coldTokens := 0, stale := true, comp := none, changed := true }) s)
    let s := { s with tir := { s.tir with comps := tblMap s.tir.comps (fun _ c => { c with store := tblDel c.store b }) } }
    setEntry q (k / 256) (k % 256) i { e with tokens := n, promised := n, body := b } s
  match getBody? s e.body with
  | none => some s
  | some b => if 1 < b.refs then (copyOnWrite e.body n s).map (fun r => settle r.1 r.2) else some (settle e.body (restoreBody e.body n s))

/-- Cuts the entries that hold tokens on both sides of a position. -/
def cutEntries (q pos : Nat) : List (Nat × Nat × Entry) → State → Option State
  | [], s => some s
  | (k, i, e) :: rest, s =>
    match cutOf pos e with
    | .cutTo n => match cutEntry q k i n e s with | none => none | some s => cutEntries q pos rest s
    | _ => cutEntries q pos rest s

/-- Removes the entries at or after a position. -/
def removeEntries (q pos : Nat) (s : State) : State :=
  match getSeq? s q with
  | none => s
  | some x =>
    let gone := (allEntries x).filter (fun e => decide (pos ≤ e.2.2.basePos))
    let es := (x.entries.map (fun g => (g.1, g.2.filter (fun e => decide (e.2.basePos < pos))))).filter (fun g => !g.2.isEmpty)
    gone.foldl (fun s e => decRef e.2.2.body s) (setSeq q { x with entries := es } s)

/-- Gleaner's side of a truncate (R304): items of removed sheaves are retired, those of cut ones posted over whole steps or retired. -/
def truncateItems (oid q : Nat) (es : List (Nat × Nat × Entry)) (pos : Nat) (s : State) : State :=
  es.foldl (fun s (k, i, e) =>
    let mine := fun (t : GItem) => t.seq == q && t.layer == k / 256 && t.group == k % 256 && t.idx == i
    match cutOf pos e with
    | .keep => s
    | .remove => retireItems mine s
    | .cutTo n =>
      let m := stepTokens s q (k / 256) n
      if m == 0 then retireItems mine s else postSheaf q (k / 256) (k % 256) i m (some oid) s) s

/-- The tokens of a sheaf that commands must not see, after a truncate: those that it removed are no longer there to be hidden (R24, R247). -/
def cutUnposted (q pos : Nat) (x : Seq) (u : Unposted) : Option Unposted :=
  if u.seq != q then some u else
  match tblGet? (entriesOf x u.layer u.group) u.idx with
  | none => some u
  | some e =>
    match cutOf pos e with
    | .keep => some u
    | .remove => none
    | .cutTo n => if u.first < n then some { u with stop := min u.stop n } else none

/-- What a truncate does beside cutting bodies: entries go, Gleaner and Seedbank drop what named them, and losses it removes are forgotten (R246, R247, R281, R304). -/
def truncateRest (oid q pos : Nat) (x : Seq) (s : State) : State :=
  let s := truncateItems oid q (allEntries x) pos (removeEntries q pos { s with kln := { s.kln with unposted := s.kln.unposted.filterMap (cutUnposted q pos x) } })
  let s := dropPosts q (some pos) (dropAuto x.ctx q (some pos) s)
  if (s.tir.losses.filter (fun l => l.seq == q)).all (fun l => decide (pos ≤ l.pos)) then { s with tir := { s.tir with losses := s.tir.losses.filter (fun l => l.seq != q) } } else s

/-- The truncate itself, once every body it cuts is in Ember. -/
def truncateSeq (oid q pos : Nat) (x : Seq) (s : State) : Option (Answer × State) :=
  let es := allEntries x
  match cutEntries q pos es s with
  | none => none
  | some s =>
    let cutAny := es.any (fun e => isCut pos e.2.2)
    let changed := es.any (fun e => cutOf pos e.2.2 != .keep)
    let s := truncateRest oid q pos x s
    let next := match getSeq? s q with | none => pos | some x => seqNextPos x
    let d : Done := { r0 := next % 2 ^ 32 }
    let (mark, s) := if cutAny then noteDirty q s else (false, s)
    let entries := hasPeat s && changed && journalHolds s q
    let s := if mark then oweRecord (.mark q true) (if entries then none else some oid) d s else s
    let s := if entries then oweRecord (.entries q) (some oid) d s else s
    let s := noteClean [q] s
    some (if mark || entries then (.wait, unhold oid s) else (.done d, s))

def truncateBody (oid : Nat) (c : Cmd) (s : State) : Answer × State :=
  let pos := argU c 36 4
  if !argsOnly c [(32, 0, 32), (36, 0, 32)] then (fail .badParameter, s)
  else match seqOf c s with
  | .error e => (fail e, s)
  | .ok (q, x) =>
    if mustWait s oid q .change then hold oid q 0x06 0x04 .order s
    else if pos < x.startPos || seqNextPos x < pos then (fail .badParameter, s)
    else
      let es := allEntries x
      let before := (es.filter (fun e => holdsBefore pos e.2.2)).map (fun e => e.2.2.body)
      let cuts := ((es.filter (fun e => isCut pos e.2.2)).map (fun e => e.2.2.body)).eraseDups
      let absent := cuts.filter (fun b => match getBody? s b with | none => false | some y => !readable y)
      if before.any (fun b => match getBody? s b with | none => false | some y => y.state == .lost) then (fail .dataLost, s)
      else match bodiesDenied cuts s with
      | some (d, s) => (.done d, s)
      | none =>
        match (if (!cuts.isEmpty && !x.dirtyMark) || (journalHolds s q && es.any (fun e => cutOf pos e.2.2 != .keep)) then journalDenied s else none) with
        | some (d, s) => (.done d, s)
        | none =>
        if !absent.isEmpty then hold oid q 0x06 0x04 (.bodies absent) (demandAll absent oid s)
        else if (cutEntries q pos es s).isNone then hold oid q 0x06 0x04 (.room s.tir.passNo) s
        else
          let (yes, s) := judge c { unit := 0x06, obj := q } (.content 2) s
          if !yes then (fail .overruled, s)
          else match truncateSeq oid q pos x s with
          | none => hold oid q 0x06 0x04 (.room s.tir.passNo) s
          | some r => r

/-! TIER.REMAP (R215, R228, R304) -/

/-- Moves entries of a sequence by a distance, with their loss records, Gleaner's items and what waits to be posted for them (R215, R304). -/
def remapSeq (q : Nat) (delta : Int) (es : List (Nat × Nat × Entry)) (s : State) : State :=
  let moved := fun (p : Nat) => ((p : Int) + delta).toNat
  let named := fun (k i : Nat) => es.any (fun e => e.1 == k && e.2.1 == i)
  let s := es.foldl (fun s (k, i, e) => setEntry q (k / 256) (k % 256) i { e with basePos := moved e.basePos } s) s
  let lost := fun (l : Loss) => l.seq == q && es.any (fun e => e.1 == lgKey l.layer l.group && decide (e.2.2.basePos ≤ l.pos ∧ l.pos < e.2.2.basePos + 64))
  { s with
    tir := { s.tir with losses := s.tir.losses.map (fun l => if lost l then { l with pos := moved l.pos } else l) },
    gln := { s.gln with
      swaths := tblMap s.gln.swaths (fun _ w => { w with items := tblMap w.items (fun _ t => if t.seq == q && named (lgKey t.layer t.group) t.idx then { t with basePos := moved t.basePos } else t) }),
      queue := s.gln.queue.map (fun p => if p.seq == q && named (lgKey p.layer p.group) p.idx then { p with basePos := moved p.basePos } else p) } }

/-- The target of a TIER.REMAP as R74 judges it. DESIGN CHOICE, log entry 73: no rule names a REMAP's target object; the model takes the whole sequence, apart from the target of DESTROY and TRUNCATE. -/
def remapTarget (q : Nat) : Target := { unit := 0x06, obj := q + 2 ^ 32 }

def remapBody (oid : Nat) (c : Cmd) (s : State) : Answer × State :=
  let delta := ofTwos 32 (argU c 48 4)
  if !argsOnly c [(32, 0, 32), (36, 0, 16), (38, 0, 8), (40, 0, 32), (44, 0, 32), (48, 0, 32)] then (fail .badParameter, s)
  else match seqOf c s with
  | .error e => (fail e, s)
  | .ok (q, x) =>
    match namedEntries c x true with
    | none => (fail .badParameter, s)
    | some _ =>
      if mustWait s oid q .change then hold oid q 0x06 0x05 .order s
      else
        let es := (namedEntries c x true).getD []
        if es.any (fun e => decide ((e.2.2.basePos : Int) + delta < 0 ∨ 2 ^ 32 - 64 < (e.2.2.basePos : Int) + delta)) then (fail .badParameter, s)
        else match (if !es.isEmpty && journalHolds s q then journalDenied s else none) with
        | some (d, s) => (.done d, s)
        | none =>
          let (yes, s) := judge c (remapTarget q) (.value c.args.toNat) s
          if !yes then (fail .overruled, s)
          else
            let s := remapSeq q delta es s
            if hasPeat s && !es.isEmpty && journalHolds s q then (.wait, oweRecord (.entries q) (some oid) {} (unhold oid s))
            else (ok, s)

/-! TIER.SEQ_FORK (R216, R302) -/

/-- Posts for a forked entry the version of its source (R302): the latest, be it still in the posting queue; one that waits for a COLD body is posted for both when the body arrives. An item whose posting was dropped stays STALE in the fork too (R305). -/
def forkVersion (oid q new l g i : Nat) (e : Entry) (s : State) : State :=
  let due := s.gln.toPost.any (fun x => x.seq == q && x.layer == l && x.group == g && x.idx == i)
  let s := if due then { s with gln := { s.gln with toPost := s.gln.toPost ++ [{ seq := new, layer := l, group := g, idx := i, waits := some oid }] } } else s
  match binding? s q l with
  | none => s
  | some b =>
    match (tblGet? s.gln.swaths b.swath).bind (fun w => (itemSlot w q l g i).bind (fun k => tblGet? w.items k)) with
    | none => s
    | some t =>
      let p := fun (v : GVersion) => ({ swath := b.swath, seq := new, layer := l, group := g, idx := i, basePos := e.basePos, version := { v with side := true, waits := some oid } } : Posting)
      match (versionsOf s b.swath t).head? with
      | some v => if t.stale then markStale (p v) (post (p v) s) else post (p v) s
      | none => if t.stale then markStale { swath := b.swath, seq := new, layer := l, group := g, idx := i, basePos := e.basePos, version := { tokens := 0, summary := [], sketch := 0, list := 0, code := [] } } s else s

/-- The sequence that a fork at a position makes: the entries before it, the last one cut (R216). -/
def forkedSeq (pos : Nat) (x : Seq) : Seq :=
  let keep := fun (e : Entry) => decide (e.basePos < pos ∧ x.startPos < e.basePos + e.tokens)
  let cutTo := fun (e : Entry) => let n := min e.tokens (pos - e.basePos); { e with tokens := n, promised := n }
  { x with entries := (x.entries.map (fun g => (g.1, (g.2.filter (fun e => keep e.2)).map (fun e => (e.1, cutTo e.2))))).filter (fun g => !g.2.isEmpty), dirtyMark := false }

/-- A fork of a sequence at a position: a sequence of its entries before it, which share their bodies (R216). -/
def forkSeq (oid q pos : Nat) (x : Seq) (s : State) : State :=
  let new := freshSeq s
  let y := forkedSeq pos x
  let s := setSeq new y { s with tir := { s.tir with nextSeq := (new + 1) % (2 ^ 32 - 1) } }
  let s := { s with kln := { s.kln with unposted := s.kln.unposted ++ (s.kln.unposted.filter (fun u => u.seq == q)).map (fun u => { u with seq := new }) } }
  let s := (allEntries y).foldl (fun s e => incRef e.2.2.body s) s
  let s := { s with gln := { s.gln with bindings := (s.gln.bindings.filter (fun b => b.1 / 4096 == q)).foldl (fun t b => tblSet t (new * 4096 + b.1 % 4096) b.2) s.gln.bindings } }
  let s := (allEntries y).foldl (fun s (k, i, e) => forkVersion oid q new (k / 256) (k % 256) i e s) s
  let lost := (allEntries y).filterMap (fun (k, _, e) => match getBody? s e.body with
    | some b => if b.state == .lost then some (Loss.mk new (k / 256) (k % 256) (((s.tir.losses.find? (fun l => l.seq == q)).map (·.cause)).getD 0) e.basePos) else none
    | none => none)
  let s := addLosses lost s
  let (mark, s) := if seqDirty s y then noteDirty new s else (false, s)
  if mark then oweRecord (.mark new true) none {} s else s

/-- TIER.SEQ_FORK. DESIGN CHOICE, log entry 82: a fork whose entries the sheaf table cannot hold ends with NO_SPACE; R212 gives no status. -/
def forkBody (oid : Nat) (c : Cmd) (s : State) : Answer × State :=
  let pos := argU c 36 4
  if !argsOnly c [(32, 0, 32), (36, 0, 32)] then (fail .badParameter, s)
  else match seqOf c s with
  | .error e => (fail e, s)
  | .ok (q, x) =>
    if mustWait s oid q .fork then hold oid q 0x06 0x02 .order s
    else if pos ≤ x.startPos || (lgPairs x).any (fun p => decide (nextPos x p.1 p.2 < pos)) then (fail .badParameter, s)
    else if 1048576 ≤ s.tir.seqs.length then (fail .limitExceeded, s)
    else if !tableHolds s (allEntries (forkedSeq pos x)).length then (fail .noSpace, s)
    else
      (ok (freshSeq s), forkSeq oid q pos x s)

/-! TIER.QUERY (R214) -/

/-- The record of a sheaf. -/
def sheafRecord (s : State) (i : Nat) (e : Option Entry) : List Byte :=
  match e.bind (fun e => (getBody? s e.body).map (fun b => (e, b))) with
  | none => leBytes 4 i ++ zeros 28
  | some (e, b) =>
    leBytes 4 i ++ leBytes 4 e.basePos ++ leBytes 1 e.tokens ++ leBytes 1 b.coldTokens ++ leBytes 2 b.fmt ++ leBytes 2 b.escCount ++
    leBytes 1 (bodyStateCode b.state + 8 * b2n b.dirty + 16 * coldKindCode b.coldKind + 64 * b2n (decide (1 < b.refs)) + 128 * b2n b.prot) ++ zeros 1 ++
    leBytes 2 (min 0xFFFF b.refs) ++ leBytes 4 (pinsOf b) ++ leBytes 4 (min (2 ^ 32 - 1) ((s.now - b.lastUse) / ms)) ++ zeros 6

def queryBody (oid : Nat) (c : Cmd) (s : State) : Answer × State :=
  if !argsOnly c [(32, 0, 32), (36, 0, 16), (38, 0, 8), (40, 0, 32), (44, 0, 32)] then (fail .badParameter, s)
  else match seqOf c s with
  | .error e => (fail e, s)
  | .ok (q, x) =>
    let l := argU c 36 2
    let g := argU c 38 1
    let n := argU c 44 4
    if x.layers ≤ l || x.groups ≤ g then (fail .badParameter, s)
    else if mustWait s oid q .read then hold oid q 0x06 0x08 .order s
    else if c.outLen < 32 * n then (fail .badLength, s)
    else match bufferCheck c s with
    | some e => (fail e, s)
    | none =>
      let es := entriesOf x l g
      let rec_ := fun (k : Nat) => let i := argU c 40 4 + k; sheafRecord s (i % 2 ^ 32) (tblGet? es i)
      (.done { r0 := nextPos x l g % 2 ^ 32, r1 := es.length, output := ((List.range n).map rec_).flatten, space := 32 * n }, s)

/-! TIER.PIN (R223, R232) -/

/-- Halves that a body takes or will take in Ember. -/
def sizeHalves (s : State) (x : Body) : Nat := bodyHalves x (match fmt? s x.fmt with | none => x.chunks | some f => bodyChunks f)

/-- Halves that explicit pins hold; those in Ember only, when asked. -/
def pinnedHalves (s : State) (resident : Bool) : Nat :=
  sumN (s.tir.bodies.map (fun e => if e.2.explicit != 0 && (!resident || inEmber e.2) then sizeHalves s e.2 else 0))

/-- The hint of a PIN turned away by a full advisory queue, in µs. -/
def advisoryHint (s : State) : Nat :=
  let n := (s.tir.fetchTimes.filter (fun t => decide (s.now ≤ t + ms))).length
  if n == 0 then 0xFFFF else hintUs (ceilDiv ((s.tir.advisory.length - 2097152) * 1000) n)

/-- A fresh number of an explicit pin; 0 is never issued. -/
def freshPin (s : State) : Nat :=
  (((List.range (s.tir.pins.length + 2)).map (fun i => (s.tir.nextPin + i) % 2 ^ 32)).find? (fun k => k != 0 && !tblHas s.tir.pins k)).getD 0

/-- Takes an explicit pin on bodies and queues fetches of some of them (R223, R232). -/
def pinSeq (q ctx : Nat) (bodies fetch : List Nat) (s : State) : State :=
  let id := freshPin s
  let s := { s with tir := { s.tir with pins := tblSet s.tir.pins id { ctx := ctx, seq := q, bodies := bodies }, nextPin := (id + 1) % 2 ^ 32 } }
  let s := bodies.foldl (fun s b => modBody b (fun y => { y with explicit := y.explicit + 1 }) (useBody b s)) s
  fetch.foldl (fun s b => adviseFetch b id s) s

def pinBody (oid : Nat) (c : Cmd) (s : State) : Answer × State :=
  if !argsOnly c [(32, 0, 32), (36, 0, 16), (38, 0, 8), (40, 0, 32), (44, 0, 32), (52, 0, 1)] then (fail .badParameter, s)
  else match seqOf c s with
  | .error e => (fail e, s)
  | .ok (q, x) =>
    match namedEntries c x true with
    | none => (fail .badParameter, s)
    | some es =>
      if mustWait s oid q .read then hold oid q 0x06 0x10 .order s
      else
        let bodies := (es.map (fun e => e.2.2.body)).eraseDups
        let extra := sumN (bodies.map (fun b => match getBody? s b with | none => 0 | some y => if y.explicit == 0 then sizeHalves s y else 0))
        let queued := fun (b : Nat) => s.tir.demand.any (fun e => e.body == b) || s.tir.advisory.any (fun e => e.body == b)
        let cold := bodies.filter (fun b => match getBody? s b with | none => false | some y => y.state == .cold && !queued b)
        let prefetch := argBits c 52 0 1 == 1
        if 65536 ≤ (s.tir.pins.filter (fun p => p.2.ctx == x.ctx)).length then (fail .limitExceeded, s)
        else if tierParam s 0x06 * poolTotal s < (pinnedHalves s false + extra) * 1000 then (fail .limitExceeded, s)
        else if prefetch && 4194304 < s.tir.advisory.length + cold.length then (.done { status := .busy, hint := advisoryHint s }, s)
        else
          (ok (freshPin s), pinSeq q x.ctx bodies (if prefetch then cold else []) s)

/-! TIER.REGION_ALLOC (R218, R219, R231, R429, R447) -/

/-- The name under which a held allocation without a sequence is kept. -/
def noSeq : Nat := 2 ^ 32

/-- A fresh region number; 0 is never issued. -/
def freshRegion (s : State) : Nat :=
  (((List.range (s.tir.regions.length + 2)).map (fun i => (s.tir.nextRegion + i) % 2 ^ 24)).find? (fun k => k != 0 && !tblHas s.tir.regions k)).getD 0

/-- Adds a region and zero-fills it: its number. -/
def addRegion (r : Region) (s : State) : Nat × State :=
  let k := freshRegion s
  let s := { s with tir := { s.tir with regions := tblSet s.tir.regions k r, nextRegion := (k + 1) % 2 ^ 24 }, sec := { s.sec with weights := tblDel s.sec.weights k } }
  (k, if r.comp.isNone then zeroChunks r.eda r.chunks s else s)

/-- Where a region of `n` chunks can lie, congruent with another region where one is named (R200, R219). -/
def regionPlace (s : State) (n : Nat) (frames : Bool) (near : Option Region) : Option Nat :=
  match near with
  | none => if frames then findFrames s (n / frameChunks s) else findRun s n
  | some r => if frames then (if r.eda % frameSize s == 0 then findFrames s (n / frameChunks s) else none) else findCongruent s n r.eda

/-- Whether a context's new regions are protected (R429). -/
def ctxProtects (s : State) (ctx : Nat) : Bool := match getCtx? s ctx with | none => false | some x => x.protRegions

def regionAllocBody (oid : Nat) (c : Cmd) (s : State) : Answer × State :=
  let n := argU c 32 4
  let frames := argBits c 36 0 1 == 1
  let near := argU c 40 8
  let fc := frameChunks s
  if !argsOnly c [(32, 0, 32), (36, 0, 1), (40, 0, 64)] || n == 0 || (!frames && fc < n) || (frames && (n % fc != 0 || 32768 * fc < n)) then (fail .badParameter, s)
  else if frames && !isSecure c then (fail .permission, s)
  else match (if near == 0 then Except.ok none else match resolve s near with
    | none => .error Status.badAddress
    | some (r, _) => if mayName s c r.ctx then .ok (some r) else .error .badContext) with
  | .error e => (fail e, s)
  | .ok with_ =>
    let ctx := cmdCtx s c
    let prot := ctxProtects s ctx
    if 1048576 ≤ s.tir.regions.length then (fail .limitExceeded, s)
    else if prot && !keyHeld s ctx (·.memKey) then (fail .keyRevoked, s)
    else
      match regionPlace s n frames with_ with
      | none => hold oid noSeq 0x06 0x18 (.room s.tir.passNo) s
      | some eda =>
        let put := fun (lineage : Nat) (s : State) => let (k, s) := addRegion { ctx := ctx, eda := eda, chunks := n, frames := frames, prot := prot, lineage := lineage } s; (ok (k * 2 ^ 40), s)
        if prot then match drawLineage ctx s with | none => (fail .limitExceeded, s) | some (k, s) => put k s
        else put 0 s

end Sys2Proof.Machine
end

