-- ==== Sys2Proof/Machine/Settle.lean ====
section
/-! DEFINITION. Letting commands end or go on once what they waited for has come about. -/

namespace Sys2Proof.Machine

/-- The meaning that a held command's unit and verb name. -/
def bodyOf (unit verb : Nat) : Nat → Cmd → State → Answer × State :=
  match unit, verb with
  | 0x03, _ => attendBody
  | 0x04, 0x10 => appendBody
  | 0x04, _ => readBody
  | 0x06, 0x02 => forkBody
  | 0x06, 0x03 => destroyBody
  | 0x06, 0x04 => truncateBody
  | 0x06, 0x05 => remapBody
  | 0x06, 0x08 => queryBody
  | 0x06, 0x10 => pinBody
  | _, _ => regionAllocBody

/-- Tries a held command again. -/
def tryHeld (h : Held) (s : State) : State :=
  match tblGet? s.cln.inflight h.oid with
  | none => unhold h.oid s
  | some c =>
    match bodyOf h.unit h.verb h.oid c { s with cln := { s.cln with current := h.oid } } with
    | (.done d, s) => complete h.oid c d (unhold h.oid s)
    | (.wait, s) => s

/-- Whether what a held command waits for has come about. Room is tried by ALLOCATION_RESUME alone. -/
def heldReady (s : State) (h : Held) : Bool :=
  match h.why with
  | .order => !mustWait s h.oid h.seq (useOf h.unit h.verb)
  | .room _ => false
  | .bodies l => l.all (fun b => match getBody? s b with | none => true | some x => readable x || x.state == .lost)

/-- Tries every held command that is ready, in acceptance order. -/
def settleHeld (s : State) : State :=
  s.tir.held.foldl (fun s h => match s.tir.held.find? (fun x => x.oid == h.oid) with
    | none => s
    | some x => if heldReady s x then tryHeld x s else s) s

/-- Ends the Kiln and SHEAF commands that have nothing left to do. -/
def finishAll (s : State) : State :=
  let s := (s.kln.attends.map (·.1)).foldl (fun s k => finishAttend k s) s
  (s.kln.appends.map (·.1)).foldl (fun s k => finishAppend k s) s

/-- Ends what can end, then lets held commands go on, then ends what they have become. -/
def settleWork (s : State) : State := finishAll (settleHeld (finishAll s))

/-- The completion of a held command that ends: an append's carries the position that R185 reports. -/
def heldEnd (oid : Nat) (d : Done) (s : State) : Done :=
  match tblGet? s.cln.inflight oid with
  | none => d
  | some c => if c.unit == 0x04 && c.verb == 0x10 then (match getSeq? s (argU c 32 4) with | some x => appendEnd d (nextPos x (argBits c 36 0 12) (argU c 38 1)) | none => d) else d

/-- Ends a held command with a status, its wait over. -/
def failHeld (oid : Nat) (d : Done) (s : State) : State :=
  finish oid (heldEnd oid d s) (unhold oid s)

end Sys2Proof.Machine
end

