-- ==== Sys2Proof/Machine/TierMove.lean ====
section
/-! DEFINITION. How the tier manager moves bodies between Ember, Peat and Fallow: write-back, eviction, fetch, losses of a holder (R226-R242). -/

namespace Sys2Proof.Machine

/-! Keys (R440, R444) -/

/-- The encryption of a body's record under its context's STORE_KEY; a body that is not protected needs none. -/
def sealBody (x : Body) (s : State) : Option State :=
  if !x.prot then some s else (getCtx? s x.ctx).bind (fun c => useCounter c.storeKey s)

/-- Why a body's record cannot be encrypted: a key erased, or the STORE_KEY slot EXHAUSTED (R440, R445). -/
def sealDenied (s : State) (x : Body) : Option Status :=
  if !x.prot then none
  else if !keyHeld s x.ctx (·.memKey) || !keyHeld s x.ctx (·.storeKey) then some .keyRevoked
  else match (getCtx? s x.ctx).bind (fun c => tblGet? s.sec.keys c.storeKey) with
  | none => none
  | some k => if 2 ^ 64 ≤ k.counter then some .keyExhausted else none

/-- An operation on a body has ended: no shadow is held for it any more. -/
def opEnded (b : Nat) (s : State) : State :=
  { s with sec := { s.sec with keys := tblMap s.sec.keys (fun _ k => match k.shadow with | some h => if h.ops.contains b then { k with shadow := some { h with ops := setDel h.ops b } } else k | none => k) } }

/-! Charcoal on the way to and from Peat and Fallow (R227, R258, R261, R262) -/

/-- Whether a body passes through Charcoal: BF16 and not protected. -/
def isCoded (s : State) (x : Body) : Bool := !x.prot && (match fmt? s x.fmt with | some f => f.form == 4 | none => false)

/-- Counts compressed blocks. -/
def countCompressed (n : Nat) (s : State) : State := { s with chr := { s.chr with compressed := (s.chr.compressed + n) % 2 ^ 32 } }

/-- Counts decoded blocks, and failed ones. -/
def countDecoded (n bad : Nat) (s : State) : State :=
  { s with chr := { s.chr with decompressed := (s.chr.decompressed + n) % 2 ^ 32, failed := satAdd 32 s.chr.failed bad } }

/-- Host bytes of a record: the stream of a coded body, else its bytes; with the escape list. -/
def recordSize (s : State) (x : Body) (c : Copy) : Nat :=
  (if isCoded s x then (encodeStream false c.bytes).1.length else c.bytes.length) + c.esc.length

/-- The spark points of a block decode: the check that fires, if one does. -/
def blockSpark (s : State) : Option Nat × State :=
  match sparkCheck 0x0701 0 s with
  | (some _, s) => (some 0, s)
  | (none, s) => match sparkCheck 0x0702 0 s with | (some _, s) => (some 1, s) | (none, s) => (none, s)

/-- The blocks of `n` that spark points make fail, each with its check. -/
def sparkBlocks (n : Nat) (s : State) : List (Nat × Nat) × State :=
  (List.range n).foldl (fun (a : List (Nat × Nat) × State) i => match blockSpark a.2 with | (some k, s) => (a.1 ++ [(i, k)], s) | (none, s) => (a.1, s)) ([], s)

/-- CHARCOAL_DECODE_FAIL about failed blocks, each with its check. -/
def decodeFail (dst : List Rcpt) (inj : Bool) (bad : List (Nat × Nat)) (s : State) : State :=
  match bad with
  | [] => s
  | (i, k) :: _ => raiseN .charcoalDecodeFail inj 1 dst (leBytes 4 i ++ leBytes 4 bad.length ++ leBytes 1 k) s

/-! Peat (R210, R234-R237, R474) -/

/-- A group that takes new writes. -/
def groupWrites (s : State) (g : Nat) : Bool := (getGroup s g).state == .service

/-- A group that serves reads. -/
def groupReads (s : State) (g : Nat) : Bool := match (getGroup s g).state with | .service | .restricted => true | _ => false

/-- User capacity of Peat in bytes (R234). -/
def peatCapacity (s : State) : Nat := if isC s then 16 * 10 ^ 12 else 32 * 10 ^ 12

/-- Bytes of Peat's records. -/
def peatUsed (s : State) : Nat := sumN (s.tir.peat.map (fun e => e.2.bytes.length + e.2.esc.length))

/-- Whether Peat takes writes. -/
def peatWritable (s : State) : Bool := hasPeat s && s.tir.mounted && !s.tir.readOnly && (groupWrites s 0 || groupWrites s 1) && decide (peatUsed s < peatCapacity s)

/-- LIFE_USED (R235). -/
def lifeUsed (s : State) : Nat := min 0xFFFF (10000 * s.tir.wear.peMean / 3000)

/-- SPARE (R235): of the initial spare of both groups. -/
def spareLeft (s : State) : Nat :=
  let all := 2 * Config.spareBlocks
  let used := min Config.spareBlocks (getGroup s 0).spareUsed + min Config.spareBlocks (getGroup s 1).spareUsed
  (all - used) * 10000 / all

/-- PEAT_WEAR_WARN when LIFE_USED first reaches 8,000, and 9,500 (R236). -/
def wearWarn (s : State) : State :=
  let level := if 9500 ≤ lifeUsed s then 2 else if 8000 ≤ lifeUsed s then 1 else 0
  if level ≤ s.tir.wear.warned then s
  else raiseN .peatWearWarn false 1 [.ctx 0] (leBytes 2 (lifeUsed s) ++ leBytes 2 (spareLeft s)) { s with tir := { s.tir with wear := { s.tir.wear with warned := level } } }

/-- Peat becomes read-only: commands that wait to write it end with WEAR_LIMIT, an append once its items have ended (R236), and what a draining composition was to write comes back into Ember (R241). -/
def goReadOnly (s : State) : State :=
  let waiting := s.tir.jwait.filterMap (fun j => j.oid.map (fun k => (k, j.done)))
  let draining := (s.tir.bodies.filter (fun e => e.2.dirty && (match e.2.comp.bind (tblGet? s.tir.comps) with | none => false | some c => c.draining))).map (·.1)
  let s := { s with tir := { s.tir with readOnly := true, jwait := [], wbq := [] } }
  let s := draining.foldl (fun s b => adviseFetch b 0 s) s
  settleFlushes (waiting.foldl (fun s (k, d) =>
    if tblHas s.kln.appends k then { s with kln := { s.kln with appends := tblUpd s.kln.appends k (fun a => { a with bad := some (a.bad.getD .wearLimit) }) } }
    else finish k { d with status := .wearLimit } s) s)

/-- The bodies held in a group become unreachable: as lost Fallow bodies under R242, with Peat as the holder (R237). How many were lost. -/
def loseGroup (g : Nat) (s : State) : Nat × State :=
  let here := s.tir.peat.filter (fun e => e.2.group == g)
  let held := fun (b : Nat) => match getBody? s b with | none => false | some x => (x.state == .cold || x.state == .fetching) && x.coldKind == .peat
  let gone := (here.filter (fun e => held e.1)).map (·.1)
  let rest := (here.filter (fun e => !held e.1)).map (·.1)
  let s := { s with tir := { s.tir with peat := s.tir.peat.filter (fun e => e.2.group != g) } }
  let s := rest.foldl (fun s b =>
    let s := modBody b (fun x => { x with dirty := true, coldKind := if x.coldKind == .peat then .none else x.coldKind, coldTokens := if x.coldKind == .peat then 0 else x.coldTokens, stale := true }) s
    (pointersTo s b).foldl (fun s (q, _, _, _) => let (mark, s) := noteDirty q s; if mark then oweRecord (.mark q true) none {} s else s) s) s
  (gone.length, loseBodies gone 3 s)

/-- Fences a Peat NAND group (R237, R474). -/
def fencePeatGroup (g cause : Nat) (inj : Bool) (s : State) : State :=
  let waiting := (getGroup s g).enableBy
  let s := modGroup g (fun x => { x with state := .fenced, cause := cause, enableBy := [] }) s
  let s := endEnables waiting .unitFenced s
  let (n, s) := loseGroup g s
  let s := recordFence .peat g cause (cause != 1) inj s
  settleWork (raiseN .peatGroupFenced inj 1 [.ctx 0] (leBytes 1 g ++ leBytes 1 cause ++ zeros 2 ++ leBytes 4 n) s)

/-! Write-back (R226-R228) -/

/-- The lines of a body's run that a failed block fills. -/
def blockLines (bytes : Nat) (i : Nat) : List Nat := (List.range 1024).filterMap (fun j => if (1024 * i + j) * 64 < bytes then some (1024 * i + j) else none)

/-- A record read back from a composition: a stream is decoded (R227, R258). What it holds, and its failed blocks. -/
def unpackCopy (s : State) (x : Body) (cp : Copy) : Copy × List (Nat × Nat) :=
  if !isCoded s x || x.coldKind != .fallow then (cp, [])
  else
    let n := match fmt? s x.fmt with | none => 0 | some f => (layout f).size
    let ds := if origLen cp.bytes == n then decodeStream cp.bytes else List.replicate (ceilDiv n 65536) (.failed 0)
    ({ cp with bytes := ((ds.zipIdx.map (fun (d, i) => blockOut n i d)).flatten).take n }, failedBlocks ds)

/-- The lines of a body that failed blocks and pieces not read back fill: of its run, and of its escape list. -/
def spoiltLines (x : Copy) (raw : Nat) (blocks : List (Nat × Nat)) : List Nat × List Nat :=
  let n := x.bytes.length
  let lines := fun (off len : Nat) => (List.range (ceilDiv (off + len) 64 - off / 64)).map (off / 64 + ·)
  let run := fun (h : Nat × Nat) => if n ≤ h.1 then [] else if n == raw then lines h.1 (min h.2 (n - h.1)) else List.range (ceilDiv raw 64)
  let esc := fun (h : Nat × Nat) => if h.1 + h.2 ≤ n then [] else lines (h.1 - n) (h.1 + h.2 - max n h.1)
  ((blocks.map (fun e => blockLines raw e.1)).flatten ++ (x.holes.map run).flatten, (x.holes.map esc).flatten)

/-- What a write-back copies: the body in Ember, or the record that a composition holds. -/
def wbSource (s : State) (b : Nat) (x : Body) : Option Copy :=
  if x.state == .hot then (fmt? s x.fmt).map (fun f => snapshot s f x)
  else if x.state == .cold then ((x.comp.bind (fun k => tblGet? s.tir.comps k)).bind (fun c => tblGet? c.store b)).map (fun cp =>
    let (raw, bad) := unpackCopy s x cp
    let (run, esc) := spoiltLines cp raw.bytes.length bad
    { raw with bad := raw.bad ++ run, badEsc := raw.badEsc ++ esc, holes := [] })
  else none

/-- The group that takes a body's record: its number spreads them over the groups that take writes. -/
def wbGroup (s : State) (b : Nat) : Option Nat :=
  let gs := [0, 1].filter (groupWrites s)
  gs[b % gs.length]?

/-- Starts the write-back of a body, if it can start. -/
def startWb (b : Nat) (s : State) : Option State :=
  match getBody? s b, wbGroup s b with
  | some x, some g =>
    if !x.dirty || tblHas s.tir.snaps b || (x.prot && x.state == .hot && !keyHeld s x.ctx (·.memKey)) then none
    else (wbSource s b x).bind (fun cp => (sealBody x s).map (fun s =>
      let s := modBody b (fun x => { x with state := if x.state == .hot then .writing else x.state, changed := false }) (lightAct 3 s)
      { s with tir := { s.tir with snaps := tblSet s.tir.snaps b { cp with group := g }, wbq := s.tir.wbq.filter (fun w => w.body != b), advisory := if x.state == .cold then s.tir.advisory.filter (fun e => e.body != b) else s.tir.advisory } }))
  | _, _ => none

/-- Starts the first of the queued bodies that can start: expedited ones ahead of the others. -/
def startFirstWb (s : State) : State :=
  if !peatWritable s then s
  else (((s.tir.wbq.filter (·.expedited)) ++ s.tir.wbq.filter (fun w => !w.expedited)).findSome? (fun w => startWb w.body s)).getD s

/-- A program has failed: a spare block replaces the bad one and the body is programmed again. The last spare block leaves Peat read-only, and 8 failures within 1 h after that fence the group (R236, R474). -/
def programFail (b : Nat) (inj : Bool) (s : State) : State :=
  match tblGet? s.tir.snaps b with
  | none => s
  | some cp =>
    let g := cp.group
    let s := countFault .peat g 1 (some 1) inj s
    let spent := decide (Config.spareBlocks ≤ (getGroup s g).spareUsed)
    let s := if spent then modGroup g (fun x => { x with fails := s.now :: x.fails.filter (fun t => decide (s.now < t + 3600 * sec)) }) s
             else let s := modGroup g (fun x => { x with spareUsed := x.spareUsed + 1 }) s; if inj then s else strainAdd .peat g 2 1 (tallyAdd .peat g 3 1 s)
    let s := modBody b (fun x => { x with state := if x.state == .writing then .hot else x.state }) s
    let s := opEnded b { s with tir := { s.tir with snaps := tblDel s.tir.snaps b } }
    let s := queueWb b true s
    if decide (Config.spareBlocks ≤ (getGroup s g).spareUsed) && !s.tir.readOnly then goReadOnly s
    else if spent && decide (8 ≤ (getGroup s g).fails.length) && groupReads s g then fencePeatGroup g 2 inj s
    else s

/-- A program has succeeded: the record holds the body as it stood when the write-back began (R227, R228). -/
def programDone (b nandBytes peMean peMax : Nat) (x : Body) (cp : Copy) (s : State) : State :=
  let size := recordSize s x cp
  let s := if isCoded s x then countCompressed (ceilDiv cp.bytes.length 65536) s else s
  let clean := !x.changed
  let w := s.tir.wear
  let recent := (s.now, size, nandBytes) :: w.recent.filter (fun e => decide (s.now < e.1 + 86400 * sec))
  let s := { s with tir := { s.tir with
      snaps := tblDel s.tir.snaps b, peat := tblSet s.tir.peat b cp,
      wear := { w with hostBytes := w.hostBytes + size, recent := recent, peMean := peMean, peMax := peMax } } }
  let s := modBody b (fun x => { x with
      state := if x.state == .writing then .hot else x.state, dirty := x.changed, stale := false,
      coldTokens := if x.state == .cold then x.coldTokens else cp.tokens, coldKind := if x.state == .cold then x.coldKind else .peat, changed := false }) s
  let s := journalEntries b (opEnded b s)
  let s := if clean then noteClean ((pointersTo s b).map (·.1)).eraseDups s else s
  let s := wearWarn s
  let early := s.tir.flushes.any (fun f => f.2.bodies.contains b && f.2.early.contains b)
  if clean then flushBody b true false s
  else if early then queueWb b false { s with tir := { s.tir with flushes := tblMap s.tir.flushes (fun _ f => { f with early := setDel f.early b }) } }
  else flushBody b true false s

/-! Fallow (R238, R241, R242) -/

/-- Chunks of a copy in a composition. -/
def copyChunks (c : Copy) : Nat := ceilDiv (c.bytes.length + c.esc.length) 1024

/-- Where in a composition a record of `n` chunks can lie: the lowest offset, a multiple of 1,024 (R239). -/
def placeIn (c : Comp) (n : Nat) : Option Nat :=
  let used := c.store.map (fun e => (e.2.place / 1024, copyChunks e.2))
  let free := fun (a : Nat) => decide (a + n ≤ c.count * 1048576) && used.all (fun u => decide (a + n ≤ u.1 ∨ u.1 + u.2 ≤ a))
  (((0 :: used.map (fun u => u.1 + u.2)).filter free).min?).map (1024 * ·)

/-- Chunks that a body's copy will take. -/
def bodyCopyChunks (s : State) (x : Body) : Nat := ceilDiv (512 * sizeHalves s x) 1024

/-- The first composition that takes a body: ACTIVE, not draining, with room; the HOME one, or any other. -/
def compFor (s : State) (home : Bool) (x : Body) : Option Nat :=
  (s.tir.comps.find? (fun e => e.2.active && !e.2.draining && e.2.home == home && (placeIn e.2 (bodyCopyChunks s x)).isSome)).map (·.1)

/-! Eviction (R229-R231, R243) -/

/-- A body leaves Ember; its copy of the kind stated is the one that is read. -/
def becomeCold (b : Nat) (kind : ColdKind) (comp : Option Nat) (s : State) : State :=
  modBody b (fun x => { x with state := .cold, chunks := 0, extents := [], coldKind := kind, comp := comp }) { s with tir := { s.tir with evicting := tblDel s.tir.evicting b } }

/-- What R229 does with a body. -/
inductive Evict where
  | commit
  | move (kind : ColdKind)
  | expedite
  | skip
deriving DecidableEq, Repr

def evictTo (s : State) (x : Body) : Evict :=
  let policy := if hasPeat s then tierParam s 0x07 else 0
  if !x.dirty then (if 1 ≤ policy && (compFor s false x).isSome then .move .fallow else .commit)
  else if (compFor s true x).isSome then .move .home
  else if policy == 2 && !s.tir.readOnly && (compFor s false x).isSome then .move .fallow
  else if peatWritable s then .expedite
  else .skip

/-- Halves that a body holds in Ember. -/
def heldHalves (x : Body) : Nat := 2 * x.chunks + x.extents.length

/-- Halves that the moves of a pass will free. -/
def movingHalves (s : State) : Nat := sumN (s.tir.evicting.map (fun e => match getBody? s e.1 with | none => 0 | some x => heldHalves x))

/-- Whether the pool is at or above a share in ‰, counting what the pass is about to free. -/
def poolAt (s : State) (share : Nat) : Bool := decide (share * poolTotal s ≤ 1000 * (poolFree s + movingHalves s))

/-- The bodies that a pass may evict, least recently used first. -/
def evictable (s : State) : List Nat :=
  (sortBy (fun (a b : Nat × Body) => decide (a.2.useNo < b.2.useNo)) (s.tir.bodies.filter (fun e => e.2.state == .hot && pinsOf e.2 == 0))).map (·.1)

/-- The record of a body as it goes to a composition: a stream where Charcoal codes it (R227). -/
def packCopy (s : State) (x : Body) (kind : ColdKind) (cp : Copy) : Copy :=
  if isCoded s x && kind == .fallow then { cp with bytes := (encodeStream false cp.bytes).1 } else cp

/-- Starts the move of a body: its record takes a place in a composition (R229, R239). -/
def startMove (b : Nat) (x : Body) (kind : ColdKind) (s : State) : State :=
  match compFor s (kind == .home) x, fmt? s x.fmt with
  | some k, some f =>
    let raw := snapshot s f x
    let cp := packCopy s x kind raw
    (match (tblGet? s.tir.comps k).bind (fun c => placeIn c (copyChunks cp)), sealBody x s with
    | some off, some s =>
      let s := if isCoded s x && kind == .fallow then countCompressed (ceilDiv raw.bytes.length 65536) s else s
      modBody b (fun x => { x with state := .moving }) { s with tir := { s.tir with
        comps := tblUpd s.tir.comps k (fun c => { c with store := tblSet c.store b { cp with place := off } }), evicting := tblSet s.tir.evicting b kind } }
    | _, _ => s)
  | _, _ => s

/-- The composition that holds a record of a body. -/
def compHolding (s : State) (b : Nat) : Option (Nat × Comp) := s.tir.comps.find? (fun e => tblHas e.2.store b)

/-- Cancels a move: the body stays in Ember. -/
def cancelMove (b : Nat) (s : State) : State :=
  dropMove b (modBody b (fun x => { x with state := if x.state == .moving then .hot else x.state }) { s with tir := { s.tir with evicting := tblDel s.tir.evicting b } })

/-- One body of a pass. -/
def evictStep (b : Nat) (s : State) : State :=
  match getBody? s b with
  | none => s
  | some x =>
    match evictTo s x with
    | .commit => becomeCold b .peat none s
    | .move k => startMove b x k s
    | .expedite => queueWb b true s
    | .skip => s

/-- A pass of R229 over the bodies. -/
def evictPass (s : State) : State :=
  let s := (evictable s).foldl (fun s b => if poolAt s (tierParam s 0x03) then s else evictStep b s) s
  { s with tir := { s.tir with passNo := s.tir.passNo + 1, starving := !poolAt s (tierParam s 0x03) } }

/-- Whether something waits for room: a held allocation, an append's escapes, or the fetch at the head. -/
def roomWanted (s : State) : Bool :=
  s.tir.held.any (fun h => match h.why with | .room _ => true | _ => false) || s.kln.items.any (fun e => e.2.short.isSome) ||
  !s.tir.demand.isEmpty || !s.tir.advisory.isEmpty

/-- The end of a move: the composition holds the body and the body is COLD; or the body stays (R230). -/
def commitMove (b : Nat) (kind : ColdKind) (s : State) : State :=
  match getBody? s b with
  | none => cancelMove b s
  | some x =>
    if x.state != .moving || pinsOf x != 0 then opEnded b (cancelMove b s)
    else match (compHolding s b).bind (fun e => (tblGet? e.2.store b).map (fun cp => (e.1, cp))) with
    | some (k, cp) => opEnded b (modBody b (fun x => { x with coldTokens := cp.tokens }) (becomeCold b kind (some k) s))
    | none => opEnded b (cancelMove b s)

/-! Fetches (R232, R247, R258) -/

/-- The copy that a fetch reads, from the place that COLD_KIND names. -/
def coldCopy (s : State) (b : Nat) (x : Body) : Option Copy :=
  match x.coldKind with
  | .peat => if s.tir.mounted then (tblGet? s.tir.peat b).filter (fun c => groupReads s c.group) else none
  | .fallow | .home => (x.comp.bind (fun k => tblGet? s.tir.comps k)).bind (fun c => tblGet? c.store b)
  | .none => none

/-- The queued fetches in the order in which they are served: those whose body is COLD and whose copy and keys are there. -/
def fetchOrder (s : State) : List FetchEntry :=
  let ok := fun (e : FetchEntry) => match getBody? s e.body with | none => false | some x => x.state == .cold && (coldCopy s e.body x).isSome && !keyRevoked s x && (x.comp.isNone || !tblHas s.tir.snaps e.body)
  (sortBy (fun (a b : FetchEntry) => decide (a.by_ < b.by_)) s.tir.demand ++ s.tir.advisory).filter ok

/-- Starts a fetch when Ember has room for the body's run and its extents. -/
def startFetch (b : Nat) (s : State) : Option State :=
  match getBody? s b with
  | none => none
  | some x =>
    match fmt? s x.fmt, coldCopy s b x with
    | some f, some cp =>
      (findRun s (bodyChunks f)).bind (fun eda =>
        let s := setBody b { x with state := .fetching, eda := eda, chunks := bodyChunks f, extents := [] } (if x.coldKind == .peat then lightAct 3 s else s)
        let s := growExtents b cp.esc.length s
        if !hasExtents s b cp.esc.length then none
        else some { s with tir := { s.tir with demand := s.tir.demand.filter (fun e => e.body != b), advisory := s.tir.advisory.filter (fun e => e.body != b), wbq := if x.comp.isSome then s.tir.wbq.filter (fun w => w.body != b) else s.tir.wbq } })
    | _, _ => none

/-- Lays a copy into a body's run and extents; `bad` are further poisoned lines of the run. -/
def layCopy (x : Body) (cp : Copy) (bad : List Nat) (s : State) : State :=
  let s := writeExtents x.extents cp.esc (emberWrite x.eda (cp.bytes ++ zeros (1024 * x.chunks - cp.bytes.length)) s)
  let s := (cp.bad ++ bad).foldl (fun s i => setPoison (x.eda / 64 + i) true s) s
  cp.badEsc.foldl (fun s i => match x.extents[i / 8]? with | none => s | some e => setPoison (e / 64 + i % 8) true s) s

/-- Notes which items have become resident (R151). -/
def noteResident (s : State) : State :=
  { s with kln := { s.kln with items := tblMap s.kln.items (fun _ t => if t.waited.isNone && itemResident s t then { t with waited := some s.now } else t) } }

/-- What a page read comes to (R210, spark 0x0601): whether it needed a retry, and whether it failed. -/
def readPage (g : Nat) (retry : Bool) (s : State) : Bool × State :=
  match sparkCheck 0x0601 g s with
  | (some v, s) => (v == 1, countFault .peat g 0 (some 0) true s)
  | (none, s) => (false, if retry then countFault .peat g 0 (some 0) false s else s)

/-- A fetched body has arrived: it is HOT with DIRTY unchanged, or RETIRING when its last entry has gone. -/
def fetchArrived (b : Nat) (retry : Bool) (x : Body) (cp : Copy) (s : State) : State :=
  let (failed, s) := if x.coldKind == .peat then readPage cp.group retry s else (false, s)
  let (raw, broken) := unpackCopy s x cp
  let blocks := ceilDiv raw.bytes.length 65536
  let coded := isCoded s x && x.coldKind != .home
  let (sparks, s) := if coded then sparkBlocks blocks s else ([], s)
  let bad := sparks ++ broken.filter (fun e => !sparks.any (fun k => k.1 == e.1))
  let s := if coded then decodeFail [.ctx x.ctx] broken.isEmpty bad (countDecoded blocks bad.length s) else s
  let (run, esc) := spoiltLines cp raw.bytes.length bad
  let lines := if failed then List.range (ceilDiv raw.bytes.length 64) else run
  let s := layCopy x { raw with badEsc := raw.badEsc ++ esc } lines s
  let kind := if x.coldKind == .peat then ColdKind.peat else if tblHas s.tir.peat b && !x.stale then .peat else .none
  let s := { s with tir := { s.tir with
      comps := tblMap s.tir.comps (fun _ c => { c with store := tblDel c.store b }),
      fetchTimes := s.now :: s.tir.fetchTimes.filter (fun t => decide (s.now < t + ms)) } }
  let s := modBody b (fun y => { y with
      state := if y.refs == 0 then .retiring else .hot, tokens := cp.tokens, escCount := cp.escCount, coldKind := kind, comp := none,
      coldTokens := if kind == .none then 0 else match tblGet? s.tir.peat b with | none => 0 | some p => p.tokens }) s
  let s := if x.tokens < cp.tokens then restoreBody b x.tokens s else s
  postArrived b (noteResident (opEnded b s))

end Sys2Proof.Machine
end

