-- ==== Sys2Proof/Machine/Charcoal.lean ====
section
/-! DEFINITION. The meanings of the CHARCOAL rows (file 08). -/

namespace Sys2Proof.Machine

/-- Whether a handle names a protected region, or one of decrypted weights (R451, log entry 84). -/
def namesProtected (s : State) (dev : Bool) (h : Nat) : Bool := dev && (protectedAt s h || (weightsAt s dev h).isSome)

/-! Served weights (R451) -/

/-- The WEIGHT slot of a context: the lowest one that it owns. -/
def weightSlot (s : State) (ctx : Nat) : Option Nat := ((s.sec.keys.filter (fun e => e.2.usage == 3 && e.2.owner == ctx)).map (·.1)).head?

/-- The WEIGHT slot under which a CHARCOAL.DECOMPRESS decrypts its input: a device input that does not begin with a stream's MAGIC, of a context with such a slot (log entry 84). -/
def weightInput (c : Cmd) (s : State) : Option Nat :=
  if c.inDevice && 32 ≤ c.inLen && getU c.input 0 4 != 0x4C524843 then weightSlot s (cmdCtx s c) else none

/-- The stream as the WEIGHT slot decrypts it. -/
def weightStream (s : State) (slot : Nat) (bs : List Byte) : List Byte :=
  match tblGet? s.sec.keys slot with
  | none => bs
  | some k => (Config.crypto 8 (leBytes 4 k.generation ++ k.key ++ bs) ++ zeros bs.length).take bs.length

/-- The stream that a CHARCOAL.DECOMPRESS reads: its input, or what a WEIGHT slot decrypts of it. -/
def plainStream (c : Cmd) (s : State) (slot : Option Nat) : List Byte := match slot with | none => c.input | some k => weightStream s k c.input

/-- Whether decrypted weights may be put where a command's output goes: a device region that holds no weights of another slot. -/
def weightsFit (s : State) (c : Cmd) (slot : Nat) : Bool := c.outDevice && (match weightsAt s c.outDevice c.outAddr with | none => true | some k => k == slot)

/-- Notes that a region holds decrypted weights. -/
def noteWeights (c : Cmd) (slot : Option Nat) (s : State) : State :=
  match slot with
  | none => s
  | some k => { s with sec := { s.sec with weights := tblSet s.sec.weights (bitsOf c.outAddr 40 24) k } }

/-- Whether a handle is valid with `n` bytes from its offset inside its region. -/
def handleValid (s : State) (dev : Bool) (h n : Nat) : Bool := !dev || (match resolve s h with | none => false | some (r, off) => decide (off + n ≤ regionSize r))

/-- Whether a handle names a region of another context. -/
def handleForeign (s : State) (c : Cmd) (dev : Bool) (h : Nat) : Bool := dev && (match resolve s h with | none => false | some (r, _) => !mayName s c r.ctx)

/-- The checks of R260 in its order: those that every command shares, a command's own, and last a length of more than 64 MiB (R53) and a region whose key is gone (R445). -/
def charcoalChecks (c : Cmd) (s : State) (own : Option Status) : Option Status :=
  if !argsOnly c [(32, 0, 1), (35, 0, 8)] then some .badParameter
  else if !handleValid s c.inDevice c.inAddr c.inLen || !handleValid s c.outDevice c.outAddr c.outLen then some .badAddress
  else if handleForeign s c c.inDevice c.inAddr || handleForeign s c c.outDevice c.outAddr then some .badContext
  else match own with
  | some e => some e
  | none =>
    if c.inLen > 2 ^ 26 || c.outLen > 2 ^ 26 then some .badLength
    else if handleSealed s c.inDevice c.inAddr || handleSealed s c.outDevice c.outAddr then some .keyRevoked else none

/-- A result delivered with its output poisoned when the input has a poisoned line (R192). DESIGN CHOICE, log entry 80: all of the output counts as affected. -/
def spoiled (c : Cmd) (s : State) (d : Done) : Done := if inputPoisoned c s then { d with status := .memoryError, poisoned := true } else d

/-- The least OUT_LEN of a CHARCOAL.COMPRESS for `b` blocks. -/
def compressBound (b : Nat) : Nat := 32 + roundUp (4 * b) 8 + 65552 * b

/-- CHARCOAL_COMPRESS (R250-R256, R260-R262). -/
def execCharcoalCompress (c : Cmd) (s : State) : Host.Outcome State Fault Refusal :=
  .next (runCmd 0x07 0x01 c (fun _ c s =>
    let n := ceilDiv c.inLen 65536
    let own := if namesProtected s c.inDevice c.inAddr || namesProtected s c.outDevice c.outAddr then some .permission
      else if c.inLen % 2 != 0 || c.inLen < 2 || 33554432 < c.inLen || c.outLen < compressBound n then some .badLength else none
    match charcoalChecks c s own with
    | some e => (fail e, s)
    | none =>
      let (st, modes) := encodeStream (argBits c 32 0 1 == 1) c.input
      let count := fun (k : Nat) => (modes.filter (· == k)).length
      (.done (spoiled c s { r0 := n + count 1 * 2 ^ 32 + count 2 * 2 ^ 48, r1 := min 0xFFFF (st.length * 1000 / c.inLen), output := st, space := compressBound n }), countCompressed n s)) s)

/-- CHARCOAL_DECOMPRESS (R257, R258, R260, R261); of a stream of served weights, the stream as the context's WEIGHT slot decrypts it (R451). -/
def execCharcoalDecompress (c : Cmd) (s : State) : Host.Outcome State Fault Refusal :=
  .next (runCmd 0x07 0x02 c (fun _ c s =>
    let slot := weightInput c s
    let input := plainStream c s slot
    let orig := origLen input
    let own := if (weightsAt s c.inDevice c.inAddr).isSome || slot.any (fun k => !weightsFit s c k) then some .permission
      else if c.inLen < 32 then some .badLength else if streamFp16 input != (argBits c 32 0 1 == 1) then some .badParameter else if c.outLen < orig then some .badLength else none
    match charcoalChecks c s own with
    | some e => (fail e, s)
    | none =>
      let n := ceilDiv orig 65536
      let spoil := spoiled c s
      let (sparks, s) := sparkBlocks n (noteWeights c slot s)
      let blocks := (decodeStream input).zipIdx.map (fun (d, i) => match sparks.find? (fun e => e.1 == i) with | some (_, k) => Decoded.failed k | none => d)
      let bad := failedBlocks blocks
      let s := countDecoded n bad.length s
      let failed := !bad.isEmpty || !headerOk input
      let s := if failed && bad.isEmpty then raiseN .charcoalDecodeFail false 1 [issuerRcpt s c.issuer] (leBytes 4 0xFFFFFFFF ++ zeros 5) s
        else decodeFail [issuerRcpt s c.issuer] (!bad.isEmpty && bad.all (fun e => sparks.contains e)) bad s
      let out : Done := { status := if failed then .decodeError else .success, r0 := n + bad.length * 2 ^ 32, r1 := ((bad.map (fun e => e.1)).head?).getD 0xFFFFFFFF, output := (blocks.zipIdx.map (fun (d, i) => blockOut orig i d)).flatten, space := orig, detail := if bad.isEmpty then none else some ((bad.map (fun e => leBytes 4 e.1)).flatten), badRuns := bad.map (fun e => (65536 * e.1, min 65536 (orig - 65536 * e.1))) }
      (.done (spoil out), s)) s)

/-- CHARCOAL_STATUS (R261). -/
def execCharcoalStatus (c : Cmd) (s : State) : Host.Outcome State Fault Refusal :=
  .next (runCmd 0x07 0x03 c (fun _ c s =>
    match charcoalChecks c s none with
    | some e => (fail e, s)
    | none => (ok (s.chr.compressed + s.chr.decompressed * 2 ^ 32) s.chr.failed, s)) s)

end Sys2Proof.Machine
end

