-- ==== Sys2Proof/Machine/FieldOps.lean ====
section
/-! DEFINITION. What the Field's rows share (file 03): rates and corner, messages, runs, items on cores, fencing and re-execution. -/

namespace Sys2Proof.Machine

/-! Rates (R89-R92) -/

/-- Cores counted in rotation: ROTATION and RESTRICTED (R106). -/
def inRotation : CoreState → Bool
  | .rotation | .restricted => true
  | _ => false

def rotationCores (s : State) : List Nat := coresIn s inRotation

/-- FIELD_RATE: the mean of RATE over the cores in rotation (R90). -/
def fieldRate (s : State) : Nat :=
  let l := rotationCores s
  if l.isEmpty then 0 else sumN (l.map (fun n => (getCore s n).rate)) / l.length

/-- The measured core supply: the lowest of the four die sense points (R92). -/
def measuredMv (s : State) : Nat := (s.fld.sense.drop 1).foldl min (s.fld.sense.headD 0)

/-- CORNER: 0 none, 1 L, 2 N, 3 H (R92). -/
def corner (s : State) : Nat :=
  if 75 < s.mod.fieldC then 0
  else if 890 ≤ measuredMv s then 3
  else if 790 ≤ measuredMv s then 2
  else if 690 ≤ measuredMv s then 1
  else 0

/-- The guaranteed minimum rate against which R120 compares: the reported corner's, or corner L's. -/
def paceMinimum (s : State) : Nat :=
  match corner s with
  | 2 => 1200
  | 3 => 1400
  | _ => 900

/-- The median RATE of the cores in rotation (R125). DESIGN CHOICE, log entry 78: of an even number of rates it is the upper of the two middle ones, as no rule says which. -/
def medianRate (s : State) : Nat :=
  let l := sortBy (fun a b => decide (a < b)) ((rotationCores s).map (fun n => (getCore s n).rate))
  l.getD (l.length / 2) 0

/-- The target supply in mV (R94). -/
def targetMv (s : State) : Nat :=
  match s.fld.target with
  | 0 => 700
  | 1 => 800
  | 2 => 900
  | _ => s.fld.customMv

/-- The supply that the throttles allow: the lowest of the target and every ceiling (R533). -/
def ceilingMv (s : State) : Nat := (s.mod.ceilings.map (·.2)).foldl min (targetMv s)

/-- The supply that applies: the lowest that the target, a ceiling or the power hold of R28 demands (R516, R533). -/
def demandMv (s : State) : Nat := match s.fld.holdMv with | none => ceilingMv s | some h => min h (ceilingMv s)

/-- What the sense points read; the module holds the supply at or below what applies (R94, R516). -/
def takeSense (sense : List Nat) (s : State) : State := { s with fld := { s.fld with sense := sense.map (fun v => min v (demandMv s)) } }

/-- POWER_HELD: the supply is held below the target under R28 (R94, R119). -/
def powerHeld (s : State) : Bool := match s.fld.holdMv with | none => false | some h => decide (h < targetMv s)

/-- BELOW_GUARANTEE (R108). -/
def belowGuarantee (s : State) : Bool := decide ((rotationCores s).length < guaranteed s)

/-! Items and threads on a core -/

/-- The items on a core. -/
def itemsOn (s : State) (n : Nat) : List (Nat × Item) :=
  s.kln.items.filter (fun e => match e.2.placed with | some (c, _) => c == n | none => false)

/-- THREADS_LIVE (R126): threads 0 and 1 run while items hold slots, threads 2 and 3 while a run holds them. -/
def threadsLive (s : State) (n : Nat) : Nat :=
  let slots := (itemsOn s n).map (fun e => match e.2.placed with | some (_, k) => k % 2 | none => 0)
  (getCore s n).live ||| b2n (slots.contains 0) ||| 2 * b2n (slots.contains 1)

/-- Whether a blocking remote access holds a core's issue stage (R391). -/
def stageHeld (s : State) (n : Nat) : Bool := !(getCore s n).ctrl.switchRemote && s.trn.blocked.any (fun b => b.1 == n)

/-- Threads of a core stop: none of them waits for a remote access any more. -/
def unblock (n threads : Nat) (s : State) : State :=
  { s with trn := { s.trn with blocked := s.trn.blocked.filter (fun b => !(b.1 == n && bitOf threads b.2.1)), cohPends := s.trn.cohPends.filter (fun p => !(p.core == n && bitOf threads p.thread)) } }

/-! Messages (R100-R105) -/

/-- Whether messages reach a core (R106). -/
def reachable (s : State) (n : Nat) : Bool := inRotation (getCore s n).state

/-- Two messages of one source core to one destination thread keep their order (R100). -/
def sameFlow (a b : MeshMsg) : Bool := a.srcCore == b.srcCore && a.dstCore == b.dstCore && a.dstThread == b.dstThread

/-- The header of a message's entry (R101): reserved bits and bytes are zero. -/
def entryHeader (m : MeshMsg) : List Byte :=
  leBytes 1 (m.srcCore % 128) ++ leBytes 1 (m.srcThread % 4 + 4 * (m.dstThread % 4)) ++ leBytes 2 (m.payload.length % 2 ^ 13) ++ leBytes 4 m.tag ++ leBytes 4 m.seq ++ zeros 4

/-- The entry of a message in a receive queue (R101): the header, reserved bytes up to byte 63, the payload from byte 64, padded to a multiple of 64 bytes. -/
def entryBytes (m : MeshMsg) : List Byte := entryHeader m ++ zeros 48 ++ m.payload ++ zeros (roundUp m.payload.length 64 - m.payload.length)

/-- Puts a message into a thread's receive queue. -/
def receiveMsg (n t : Nat) (m : MeshMsg) (s : State) : State := modCore n (fun c => { c with rxq := tblMod c.rxq t [] (fun q => q ++ [entryBytes m]) }) s

/-- Ends a send with UNDELIVERABLE at the sending thread (R103, R126). -/
def bounce (n t : Nat) (s : State) : State :=
  modCore n (fun c => { c with bounced := true, bounceCount := satAdd 16 c.bounceCount 1, sendStatus := tblSet c.sendStatus t .undeliverable }) s

/-! Routes (R95, R100, R105): core 12 r + c lies in row r and column c -/

/-- The numbers from `a` towards `b`, both included. -/
def between (a b : Nat) : List Nat := if a ≤ b then (List.range (b - a + 1)).map (a + ·) else (List.range (a - b + 1)).map (a - ·)

/-- Along the row to the destination's column, then along that column. -/
def rowFirst (a b : Nat) : List Nat := ((between (a % 12) (b % 12)).map (a / 12 * 12 + ·)) ++ ((between (a / 12) (b / 12)).drop 1).map (· * 12 + b % 12)

/-- Along the column to the destination's row, then along that row. -/
def columnFirst (a b : Nat) : List Nat := ((between (a / 12) (b / 12)).map (· * 12 + a % 12)) ++ ((between (a % 12) (b % 12)).drop 1).map (b / 12 * 12 + ·)

/-- The route of a message: along the row first, unless that route would turn at a router set to bypass (R100, R105). -/
def routeOf (s : State) (a b : Nat) : List Nat :=
  let turn := a / 12 * 12 + b % 12
  if turn != a && turn != b && (getCore s turn).bypass then columnFirst a b else rowFirst a b

/-- Lets the messages behind a flow's first one onto the mesh, unless a returned one still stands before them or a router is being bypassed (R102, R105). What enters the mesh takes its route then. -/
def releaseMesh (s : State) : List MeshEntry → List MeshMsg → List MeshEntry
  | [], _ => []
  | e :: t, held =>
    match e.place with
    | .returned _ => e :: releaseMesh s t (e.msg :: held)
    | .onMesh => e :: releaseMesh s t held
    | .sendQueue =>
      if !s.fld.bypassing.isEmpty || held.any (sameFlow e.msg) then e :: releaseMesh s t held
      else { e with place := .onMesh, route := routeOf s e.msg.srcCore e.msg.dstCore } :: releaseMesh s t held

def settleMesh (s : State) : State := { s with fld := { s.fld with mesh := releaseMesh s s.fld.mesh [] } }

/-! Runs (R113-R117, R433) -/

def setRun (k : Nat) (r : Run) (s : State) : State := { s with fld := { s.fld with runs := tblSet s.fld.runs k r } }

/-- The threads that a run holds on its cores: those that it starts, and threads 0 and 1 when it is EXCLUSIVE (R113). -/
def heldThreads (r : Run) : Nat := if r.exclusive then r.threads ||| 3 else r.threads

/-- The entries of a run's placement table (R114): the core of each rank, and bit 7 while it is lost. -/
def tableBytes (r : Run) : List Byte := (r.ranks.map (fun x => leBytes 8 (x.core % 128 + 128 * b2n x.lost))).flatten

/-- Writes a run's placement table into the program area of each core that a rank names and has not lost (R114, R116). -/
def writeTables (r : Run) (s : State) : State :=
  (r.ranks.filter (fun x => !x.lost)).foldl (fun s x => modCore x.core (fun c => { c with tables := tblSet c.tables r.oid (tableBytes r) }) s) s

/-- Whether a run's threads can start on a core: in ROTATION, the threads free of another run, and for EXCLUSIVE no item left on it (R113, R433). -/
def canStart (s : State) (r : Run) (n : Nat) : Bool :=
  let c := getCore s n
  c.state == .rotation && (c.live &&& heldThreads r) == 0 && (c.exclusive.isNone || c.exclusive == some r.oid) && (!r.exclusive || (itemsOn s n).isEmpty)

/-- What the fill engine zeroes before a run of another context starts: the program area, and the receive queues and registers of threads 2 and 3 (R433). A word that is filled is written, so no poison is left in what is zeroed; the model lets the fill clear every poisoned word of the core (log entry 78). -/
def fillCore (c : Core) : Core :=
  { c with rxq := tblDel (tblDel c.rxq 2) 3, sregs := tblKeep c.sregs (fun k _ => k / 32 < 2), vregs := tblKeep c.vregs (fun k _ => k / 4096 < 2), image := [], tables := [], poison := [] }

/-- Starts a run's threads on a core, with ARG in scalar register 1 of each (R113); after another context's run the fill engine has cleared what it left (R433). -/
def startThreads (r : Run) (n : Nat) (s : State) : State :=
  let image := match tblGet? s.fld.programs r.program with | some p => p.image | none => []
  modCore n (fun c =>
    let c := if tblGet? c.slotCtx 4 != some r.ctx then fillCore c else c
    { c with live := c.live ||| r.threads, exclusive := if r.exclusive then some r.oid else c.exclusive, image := image,
             sregs := (List.range 4).foldl (fun t k => if bitOf r.threads k then tblSet t (k * 32 + 1) (BitVec.ofNat 64 r.arg) else t) c.sregs,
             slotCtx := tblSet c.slotCtx 4 r.ctx,
             seqOut := c.seqOut.filter (fun e => !bitOf r.threads (e.1 / 512)) }) s

/-- Starts a rank that can start: one that never has, or a lost one on the core chosen for it, whose entry takes the new core once its threads have started (R113, R116). -/
def startRank (r : Run) (a : State × List Rank) (x : Rank) : State × List Rank :=
  match x.next with
  | some n => if x.lost && canStart a.1 r n then (startThreads r n a.1, a.2 ++ [{ core := n, started := true, reruns := x.reruns + 1 }]) else (a.1, a.2 ++ [x])
  | none => if !x.started && !x.lost && canStart a.1 r x.core then (startThreads r x.core a.1, a.2 ++ [{ x with started := true }]) else (a.1, a.2 ++ [x])

/-- Starts every rank of a run that can start, and writes the placement tables where an entry changed. -/
def startRanks (k : Nat) (s : State) : State :=
  match tblGet? s.fld.runs k with
  | none => s
  | some r =>
    let (s, ranks) := r.ranks.foldl (startRank r) (s, [])
    let r := { r with ranks := ranks }
    writeTables r (setRun k r s)

/-- Starts what can start of every run, oldest first. -/
def startRuns (s : State) : State := (s.fld.runs.map (·.1)).foldl (fun s k => startRanks k s) s

/-- Frees a core of a run that ends: its threads stop, it is no longer held, and its placement table goes. -/
def leaveCore (r : Run) (x : Rank) (s : State) : State :=
  let free := fun (c : Core) => { c with exclusive := if c.exclusive == some r.oid then none else c.exclusive, tables := tblDel c.tables r.oid }
  let s := match x.next with | some n => modCore n free s | none => s
  if x.lost then s
  else if x.started then unblock x.core r.threads (modCore x.core (fun c => free { c with live := c.live &&& (15 - r.threads) }) s)
  else modCore x.core free s

/-- Ends a run: its threads stop, its cores are free, and FIELD.RUN completes (R115). -/
def endRun (k : Nat) (reason : Nat) (reg1 : Nat) (poisoned : Bool) (s : State) : State :=
  match tblGet? s.fld.runs k with
  | none => s
  | some r =>
    let s := r.ranks.foldl (fun s x => leaveCore r x s) s
    let s := { s with fld := { s.fld with runs := tblDel s.fld.runs k } }
    let lost := r.ranks.any (·.lost)
    let reran := (r.ranks.filter (fun x => decide (0 < x.reruns))).length
    let st : Status := if poisoned || r.poisoned then .memoryError else if lost then .unitFenced else if 0 < reran then .retried else .success
    startRuns (finish k { status := st, r0 := reason + (reran % 256) * 256, r1 := reg1 } s)

/-! Fencing (R104, R108, R118-R124) -/

/-- Calls the lowest-numbered reserve core when rotation is below CORES_GUARANTEED (R124); it joins at the next work boundary. A self-test of its own ends (R109). -/
def callReserve (s : State) : Option Nat × State :=
  let joining := (coresIn s (· == .reserve)).filter (fun n => (getCore s n).joining)
  if guaranteed s ≤ (rotationCores s).length + joining.length then (none, s)
  else match (coresIn s (· == .reserve)).find? (fun n => !(getCore s n).joining) with
  | none => (none, s)
  | some n => (some n, modCore n (fun c => { c with joining := true, testing := false }) s)

/-- The contexts of the commands that R467 counts as affected by a core's fence. -/
def affectedCtxs (s : State) (n : Nat) : List Nat :=
  (itemsOn s n).map (fun e => e.2.ctx) ++ (s.fld.runs.filter (fun e => e.2.ranks.any (fun x => x.core == n && !x.lost))).map (fun e => e.2.ctx)

/-- An item lost to a fence: it returns to the head of the placement queue, or ends its command after a third lost execution (R122, R123). -/
def loseItem (k : Nat) (t : Item) (s : State) : State :=
  let mark := fun (s : State) =>
    if t.append then { s with kln := { s.kln with retried := satAdd 16 s.kln.retried 1, appends := tblUpd s.kln.appends t.oid (fun a => { a with retried := true }) } }
    else { s with kln := { s.kln with retried := satAdd 16 s.kln.retried 1, attends := tblUpd s.kln.attends t.oid (fun a => { a with retried := satAdd 8 a.retried 1 }) } }
  if 3 ≤ t.cores.length then
    let s := unpinBodies (itemBodies t) s
    if t.append then { s with kln := { s.kln with items := tblDel s.kln.items k, appends := tblUpd s.kln.appends t.oid (fun a => { a with bad := some .unitFenced, fenced := t.cores, left := a.left - 1 }) } }
    else { s with kln := { s.kln with items := tblDel s.kln.items k, attends := tblUpd s.kln.attends t.oid (fun a => { a with bad := some .unitFenced, fenced := t.cores, parts := tblSet a.parts t.idx [] }) } }
  else
    let s := profileAdd t.ctx 2 1 (mark s)
    { s with kln := { s.kln with items := tblSet s.kln.items k { t with placed := none }, backlog := k :: s.kln.backlog } }

/-- Every item on a fenced core, oldest at the head of the placement queue. -/
def loseItems (n : Nat) (s : State) : State := (itemsOn s n).reverse.foldl (fun s e => loseItem e.1 e.2 s) s

/-- The ranks of runs on a fenced core are lost, and the placement tables say so; a REPLAYABLE rank waits for the reserve core that was called (R114, R116). -/
def loseRanks (n : Nat) (called : Option Nat) (s : State) : State :=
  let lose := fun (x : Rank) => if x.core == n && !x.lost then { x with lost := true, called := called } else if x.next == some n then { x with next := none } else x
  let s := { s with fld := { s.fld with runs := tblMap s.fld.runs (fun _ r => { r with ranks := r.ranks.map lose }) } }
  s.fld.runs.foldl (fun s e => writeTables e.2 s) s

/-- Raises FIELD_BELOW_GUARANTEE when the cores in rotation and the reserve cores that join it are fewer than CORES_GUARANTEED, so that no reserve core is available (R108). -/
def checkGuarantee (s : State) : State :=
  let joining := (coresIn s (· == .reserve)).filter (fun n => (getCore s n).joining)
  let below := decide ((rotationCores s).length + joining.length < guaranteed s)
  if below && !s.fld.belowRaised then
    raiseNode .fieldBelowGuarantee (leBytes 1 (rotationCores s).length ++ leBytes 1 (guaranteed s)) { s with fld := { s.fld with belowRaised := true } }
  else { s with fld := { s.fld with belowRaised := below } }

/-- Fences a core (R104, R120, R122, R124). Its shadow takes its RW fields, unless it has one already, from QUARANTINE (R69). DESIGN CHOICE, log entry 78: a message that a full queue returned to the fenced core's router is discarded like one in its send queues; R104 names the send queues and the messages on the mesh only. -/
def fenceCore (n cause : Nat) (inj : Bool) (s : State) : State :=
  let c := getCore s n
  let hit := affectedCtxs s n
  let count := satAdd 16 c.fenceCount 1
  let s := setCore n { c with state := .fenced, cause := cause, fenceCount := count, exclusive := none, live := 0, rxq := [], testing := false, joining := false, enableBy := [], shadow := some (c.shadow.getD c.ctrl), lowSince := none, slowSince := none } (unblock n 15 s)
  let s := endEnables c.enableBy .unitFenced s
  let s := { s with fld := { s.fld with mesh := s.fld.mesh.filter (fun e => e.msg.srcCore != n || e.place == .onMesh) } }
  let s := loseItems n s
  let (called, s) := callReserve s
  let s := settleWork (loseRanks n called s)
  let s := recordFence .core n cause (cause != 1) inj s
  let s := raiseN .coreFenced inj 1 (.ctx 0 :: hit.map Rcpt.ctx) (leBytes 1 n ++ leBytes 1 cause ++ leBytes 2 count ++ leBytes 1 (called.getD 0xFF)) s
  checkGuarantee s

/-- The work boundary (R118, R124): reserve cores that were called, and restricted cores that were enabled, are in ROTATION. -/
def workBoundary (s : State) : State :=
  let s := (List.range 72).foldl (fun s n =>
    let c := getCore s n
    if c.joining && (c.state == .reserve || c.state == .restricted) then setCore n { c with state := .rotation, joining := false } s else s) s
  startRuns s

/-- A core that has passed its tests enters RESERVE and, while rotation is below CORES_GUARANTEED, is called into it; its shadow is applied (R69, R124, R475). -/
def returnCore (n : Nat) (s : State) : State :=
  let c := getCore s n
  let s := setCore n { c with state := .reserve, ctrl := c.shadow.getD c.ctrl, shadow := none, enableBy := [], testing := false } s
  let s := endEnables c.enableBy .success s
  checkGuarantee (callReserve s).2

end Sys2Proof.Machine
end

