-- ==== Sys2Proof/Machine/Field.lean ====
section
/-! DEFINITION. The rows of the Field (file 03). -/

namespace Sys2Proof.Machine

/-! Rates, supply and power hold -/

/-- Takes in one core's reading (R89, R126), with spark 0x0205 making it read half the minimum (R468). The pace ring of a core out of service runs on, so its beats count and its sensor is read, but no detector judges it. -/
def readCore (r : CoreReading) (s : State) : State :=
  let c := getCore s r.core
  let out := c.state == .fenced || c.state == .quarantine
  if 72 ≤ r.core || c.state == .disabled then s
  else
    let (fired, s) := if out then (none, s) else sparkCheck 0x0205 r.core s
    let half := paceMinimum s / 2
    let rate := if fired.isSome then half else r.rate
    let low := fired.isSome || decide (rate < half)
    let rates := (s.now, rate) :: c.rates.filter (fun e => decide (s.now ≤ e.1 + sec))
    setCore r.core { c with rate := rate, rates := rates, active := min 1000 r.active, beats := min (2 ^ 64 - 1) (c.beats + 10 * rate),
                            supplyMv := r.mv % 4096, tempC := r.tempC % 256, lowSince := if low && !out then some (c.lowSince.getD s.now) else none } s

/-- Tracks which cores stand below 85 % of the median (R125). -/
def trackSlow (s : State) : State :=
  let med := medianRate s
  (rotationCores s).foldl (fun s n => modCore n (fun c => { c with slowSince := if 100 * c.rate < 85 * med then some (c.slowSince.getD s.now) else none }) s) s

/-- Tracks FIELD_RATE against the straggler floor (R487). -/
def trackStraggler (s : State) : State :=
  let f := fieldRate s
  let floor := healthParam s 0x01
  let h := s.hlt
  { s with hlt := { h with
    stragglerSince := if f < floor then some (h.stragglerSince.getD s.now) else none,
    stragglerOkSince := if floor + healthParam s 0x03 ≤ f then some (h.stragglerOkSince.getD s.now) else none } }

/-- RATE_UPDATE (R89-R91): every 10 µs. -/
def execRateUpdate (readings : List CoreReading) (s : State) : Host.Outcome State Fault Refusal :=
  .next (trackStraggler (trackSlow (readings.foldl (fun s r => readCore r s) s)))

/-- The TDP of the variant in W (R3). -/
def tdpW (s : State) : Nat := match s.fuse.variant with | .a => 2400 | .b => 2250 | .c => 1400

/-- Whether an input of `mv` mV and `da` tenths of an ampere lies above the lower of the TDP and 60 A times the input voltage (R28, R509). -/
def overPower (s : State) (mv da : Nat) : Bool := decide (min (tdpW s * 10000) (mv * 600) < mv * da)

/-- The level of the power hold: below the supply that applies while the input power is above its limit; else no lower than before, and back to the target as far as the power control asks (R28, R94). How far one adjustment goes is the power control's, `askMv`. -/
def holdLevel (s : State) (mv da askMv : Nat) : Nat := if overPower s mv da then min askMv (demandMv s - 1) else max askMv (s.fld.holdMv.getD (targetMv s))

/-- POWER_HOLD_ADJUST (R28, R94, R509): the module's power control reads its input and sets the power hold; `sense` is what the die sense points read then. -/
def execPowerHoldAdjust (mv da askMv : Nat) (sense : List Nat) (s : State) : Host.Outcome State Fault Refusal :=
  let level := holdLevel s mv da askMv
  let held := level < targetMv s
  let s := { s with fld := { s.fld with holdMv := if held then some (max 650 level) else none },
                    mod := { s.mod with inputMv := mv, inputDa := da, heldSince := if held then some (s.mod.heldSince.getD s.now) else none } }
  .next (takeSense sense s)

/-- The 8-byte record of a core in FIELD.STATUS (R119). -/
def coreRecord (s : State) (n : Nat) : List Byte :=
  let c := getCore s n
  let rate := match c.state with | .disabled | .fenced | .quarantine => 0 | _ => c.rate
  leBytes 1 (coreStateCode c.state) ++ leBytes 1 c.cause ++ leBytes 2 rate ++ leBytes 1 c.tempC ++
  leBytes 1 (threadsLive s n + 16 * b2n c.exclusive.isSome) ++ leBytes 2 c.fenceCount

/-- FIELD_STATUS (R90, R92, R119). -/
def execFieldStatus (c : Cmd) (s : State) : Host.Outcome State Fault Refusal :=
  .next (runCmd 0x02 0x01 c (fun _ c s =>
    let count := fun (p : CoreState → Bool) => (coresIn s p).length
    if !argsOnly c [] then (fail .badParameter, s)
    else match bufferCheck c s with
    | some e => (fail e, s)
    | none =>
      if c.outLen != 0 && c.outLen < 576 then (fail .badLength, s)
      else
        let r0 := count inRotation + count (· == .reserve) * 2 ^ 8 + count (· == .fenced) * 2 ^ 16 + count (· == .quarantine) * 2 ^ 24 +
          count (· == .restricted) * 2 ^ 32 + corner s * 2 ^ 40 + fieldRate s * 2 ^ 48
        let r1 := measuredMv s + s.mod.fieldC * 2 ^ 16 + s.fld.target * 2 ^ 24 + b2n (powerHeld s) * 2 ^ 28 + b2n (belowGuarantee s) * 2 ^ 29
        (.done { r0 := r0, r1 := r1, output := if c.outLen == 0 then [] else ((List.range 72).map (coreRecord s)).flatten }, s)) s)

/-- FIELD_SUPPLY (R94, R111): the target supply. -/
def execFieldSupply (c : Cmd) (s : State) : Host.Outcome State Fault Refusal :=
  .next (runCmd 0x02 0x02 c (fun _ c s =>
    let t := argBits c 32 0 2
    let mv := argU c 34 2
    if !argsOnly c [(32, 0, 2), (34, 0, 16)] || (t == 3 && (mv < 650 || 900 < mv)) then (fail .badParameter, s)
    else
      let (apply, s) := judge c { unit := 0x02, obj := 0x100 } (.value (t + 4 * (if t == 3 then mv else 0))) s
      if !apply then (fail .overruled, s)
      else (ok, { s with fld := { s.fld with target := t, customMv := if t == 3 then mv else s.fld.customMv } })) s)

/-! Service orders (R118) -/

/-- The checks that FENCE, RESTRICT and ENABLE share: the core's number, reserved bits, DISABLED. -/
def coreOrder (c : Cmd) (s : State) (act : Nat → Core → Answer × State) : Answer × State :=
  let n := argBits c 32 0 7
  if !argsOnly c [(32, 0, 7)] || 72 ≤ n then (fail .badParameter, s)
  else if (getCore s n).state == .disabled then (fail .unitAbsent, s)
  else act n (getCore s n)

/-- Judges a Service order on a core and applies it when it is not overruled. -/
def judgedCore (c : Cmd) (n rank : Nat) (s : State) (apply : State → Answer × State) : Answer × State :=
  let (yes, s) := judge c { unit := 0x02, obj := n } (.service rank) s
  if yes then apply s else (fail .overruled, s)

/-- Cores able to take work, other than one: ROTATION, or RESERVE where R118 counts it. -/
def othersAble (s : State) (n : Nat) (reserve : Bool) : Bool :=
  ((coresIn s (fun x => x == .rotation || (reserve && x == .reserve))).filter (· != n)).length != 0

/-- FIELD_FENCE (R118, R120). -/
def execFieldFence (c : Cmd) (s : State) : Host.Outcome State Fault Refusal :=
  .next (runCmd 0x02 0x10 c (fun _ c s => coreOrder c s (fun n x =>
    let alone := match x.state with
      | .rotation | .restricted | .reserve | .selfTest => !othersAble s n true
      | _ => false
    if alone then (fail .badState, s)
    else judgedCore c n 1 s (fun s => if x.state == .fenced then (ok, s) else (ok, startRuns (fenceCore n 1 false s))))) s)

/-- FIELD_RESTRICT (R118). -/
def execFieldRestrict (c : Cmd) (s : State) : Host.Outcome State Fault Refusal :=
  .next (runCmd 0x02 0x11 c (fun _ c s => coreOrder c s (fun n x =>
    if x.state == .rotation && !othersAble s n false then (fail .badState, s)
    else judgedCore c n 2 s (fun s => if x.state == .rotation then (ok, setCore n { x with state := .restricted, joining := false } s) else
      if x.state == .restricted then (ok, setCore n { x with joining := false } s) else (ok, s)))) s)

/-- FIELD_ENABLE (R118, R475, R477). -/
def execFieldEnable (c : Cmd) (s : State) : Host.Outcome State Fault Refusal :=
  .next (runCmd 0x02 0x12 c (fun oid c s => coreOrder c s (fun n y =>
    if y.state == .fenced && isRetired s .core n then (fail .unitFenced, s)
    else judgedCore c n 3 s (fun s =>
      let x := getCore s n
      match x.state with
      | .restricted => (ok, setCore n { x with joining := true } s)
      | .fenced => (.wait, setCore n { x with state := .quarantine, enableBy := [oid] } s)
      | _ => (ok, s)))) s)

/-! Programs and runs (R112-R117) -/

/-- FIELD_LOAD (R112). -/
def execFieldLoad (c : Cmd) (s : State) : Host.Outcome State Fault Refusal :=
  .next (runCmd 0x02 0x20 c (fun _ c s =>
    if !argsOnly c [] then (fail .badParameter, s)
    else if c.inLen == 0 || 2 ^ 21 < c.inLen then (fail .badLength, s)
    else match bufferCheck c s with
    | some e => (fail e, s)
    | none =>
      if 1024 ≤ s.fld.programs.length then (fail .limitExceeded, s)
      else match tblFree? s.fld.programs 1024 with
      | none => (fail .limitExceeded, s)
      | some h => (ok h, { s with fld := { s.fld with programs := tblSet s.fld.programs h { ctx := cmdCtx s c, image := c.input } } })) s)

/-- The status of R113 for a core that a run names, none when it is in ROTATION. -/
def runCoreStatus (x : CoreState) : Option Status :=
  match x with
  | .rotation => none
  | .disabled => some .unitAbsent
  | .fenced | .quarantine => some .unitFenced
  | _ => some .badState

/-- FIELD_RUN (R113, R114, R433). -/
def execFieldRun (c : Cmd) (s : State) : Host.Outcome State Fault Refusal :=
  .next (runCmd 0x02 0x21 c (fun oid c s =>
    let cores := (List.range 72).filter (fun n => bitOf (argU c 32 9) n)
    let threads := argBits c 41 0 4
    let excl := argBits c 41 4 1 == 1
    let h := argU c 48 4
    if !argsOnly c [(32, 0, 72), (41, 0, 6), (48, 0, 32), (56, 0, 64)] || cores.isEmpty || threads == 0 || (threads % 4 != 0 && !excl) then (fail .badParameter, s)
    else match tblGet? s.fld.programs h with
    | none => (fail .notFound, s)
    | some p =>
      if !mayName s c p.ctx then (fail .badContext, s)
      else match cores.findSome? (fun n => runCoreStatus (getCore s n).state) with
      | some e => (fail e, s)
      | none =>
        let r : Run := { oid := oid, ctx := p.ctx, program := h, arg := argU c 56 8, threads := threads, exclusive := excl,
                         replayable := argBits c 41 5 1 == 1, ranks := cores.map (fun n => { core := n }) }
        let s := if excl then cores.foldl (fun s n => modCore n (fun x => { x with exclusive := if x.exclusive.isNone then some oid else x.exclusive }) s) s else s
        (.wait, startRanks oid (setRun oid r s))) s)

/-- FIELD_STOP (R117): ends a run of the same issuer. Scalar register 1 of a stopped thread is a free value. -/
def execFieldStop (c : Cmd) (s : State) : Host.Outcome State Fault Refusal :=
  .next (runCmd 0x02 0x22 c (fun _ c s =>
    if !argsOnly c [(32, 0, 16)] then (fail .badParameter, s)
    else match s.cln.inflight.find? (fun e => e.2.unit == 0x02 && e.2.verb == 0x21 && e.2.cid == argU c 32 2 && sameIssuer e.2.issuer c.issuer && tblHas s.fld.runs e.1) with
    | none => (fail .notFound, s)
    | some (k, _) => let (n, s) := fresh s; (ok, endRun k 1 (Config.measure 1 n) false s)) s)

/-- Whether a lost rank of a REPLAYABLE run can still run: its reserve core joins rotation, a core was chosen for it, or some core in ROTATION is not used by the run (R116). -/
def canRerun (s : State) (r : Run) (x : Rank) : Bool :=
  r.replayable && (x.next.isSome || (match x.called with | some n => (getCore s n).joining || (getCore s n).state == .rotation | none => false) ||
    (coresIn s (· == .rotation)).any (fun n => !r.ranks.any (fun y => (y.core == n && !y.lost) || y.next == some n)))

/-- FIELD_RUN_END (R115, R116): every started thread has returned, and no lost rank can be re-run. The register is scalar register 1 of the lowest started thread of the lowest-ranked core. -/
def execFieldRunEnd (ring cid : Nat) (reg1 : Word) (poisoned : Bool) (s : State) : Host.Outcome State Fault Refusal :=
  .next (match inflightOf s ring cid (fun c => c.unit == 0x02 && c.verb == 0x21) with
  | none => s
  | some (k, _) =>
    match tblGet? s.fld.runs k with
    | none => s
    | some r => if r.ranks.all (fun x => if x.lost then !canRerun s r x else x.started) then endRun k 0 reg1.toNat poisoned s else s)

/-- Gives a lost rank the core on which it starts again; an EXCLUSIVE run holds that core from now on, so that it takes no new items. -/
def chooseCore (k rank n : Nat) (r : Run) (x : Rank) (s : State) : State :=
  let s := if r.exclusive then modCore n (fun c => { c with exclusive := if c.exclusive.isNone then some r.oid else c.exclusive }) s else s
  setRun k { r with ranks := r.ranks.set rank { x with next := some n } } s

/-- RANK_RESTART (R116): a lost rank of a REPLAYABLE run starts again, on the reserve core that was called once it is in ROTATION, or on the lowest core in ROTATION that the run does not use. Where the core's threads or, for EXCLUSIVE, its slots are still busy, the rank starts there as soon as they are free. -/
def execRankRestart (ring cid rank : Nat) (s : State) : Host.Outcome State Fault Refusal :=
  .next (match inflightOf s ring cid (fun c => c.unit == 0x02 && c.verb == 0x21) with
  | none => s
  | some (k, _) =>
    match tblGet? s.fld.runs k with
    | none => s
    | some r =>
      match r.ranks[rank]? with
      | none => s
      | some x =>
        let free := (coresIn s (· == .rotation)).find? (fun n => !r.ranks.any (fun y => (y.core == n && !y.lost) || y.next == some n))
        let pick := match x.called with
          | some n => if (getCore s n).state == .rotation then some n else if (getCore s n).joining then none else free
          | none => free
        match pick with
        | none => s
        | some n => if x.lost && r.replayable && x.next.isNone then startRanks k (chooseCore k rank n r x s) else s)

/-! Reserve cores (R109, R124) -/

/-- RESERVE_JOIN (R124). -/
def execReserveJoin (s : State) : Host.Outcome State Fault Refusal := .next (checkGuarantee (workBoundary s))

/-- RESERVE_SELF_TEST (R109). -/
def execReserveSelfTest (core : Nat) (s : State) : Host.Outcome State Fault Refusal :=
  let c := getCore s core
  .next (if c.state == .reserve && !c.joining then setCore core { c with testing := true } s else s)

/-- RESERVE_TEST_DONE (R109, R120): a core that fails is fenced with cause 5. -/
def execReserveTestDone (core : Nat) (pass : Bool) (s : State) : Host.Outcome State Fault Refusal :=
  let c := getCore s core
  .next (if c.state != .reserve || !c.testing then s
  else
    let (fired, s) := sparkCheck 0x0206 core s
    let s := setCore core { c with testing := false } s
    if pass && fired.isNone then s
    else fenceCore core 5 fired.isSome (countFault .core core 6 none fired.isSome s))

/-! Messages (R100-R105) -/

/-- MESH_SEND (R100-R103): a thread sends a message of at most 4,096 bytes. -/
def execMeshSend (core thread dstCore dstThread tag : Nat) (payload : List Byte) (s : State) : Host.Outcome State Fault Refusal :=
  let c := getCore s core
  .next (if !inRotation c.state || stageHeld s core || 4 ≤ thread || 4 ≤ dstThread || 72 ≤ dstCore || 4096 < payload.length then s
  else if !reachable s dstCore then bounce core thread s
  else
    let k := thread * 512 + dstCore * 4 + dstThread
    let m : MeshMsg := { srcCore := core, srcThread := thread, dstCore := dstCore, dstThread := dstThread, tag := tag % 2 ^ 32, seq := tblGetD c.seqOut k 0, payload := payload }
    let s := setCore core { c with seqOut := tblMod c.seqOut k 0 (fun n => (n + 1) % 2 ^ 32) } s
    settleMesh { s with fld := { s.fld with mesh := s.fld.mesh ++ [{ msg := m, place := .sendQueue, route := [] }] } })

/-- The first message under way of a flow. -/
def firstOfFlow (s : State) (core dstCore dstThread : Nat) : Option MeshEntry :=
  s.fld.mesh.find? (fun e => e.msg.srcCore == core && e.msg.dstCore == dstCore && e.msg.dstThread == dstThread)

/-- MESH_DELIVER (R100-R103): the flow's first message reaches its receive queue, is returned from a full one, or bounces off a core out of reach. -/
def execMeshDeliver (core thread dstCore dstThread : Nat) (s : State) : Host.Outcome State Fault Refusal :=
  .next (match firstOfFlow s core dstCore dstThread with
  | none => s
  | some e =>
    if e.place != .onMesh || e.msg.srcThread != thread then s
    else
      let drop := fun (s : State) => { s with fld := { s.fld with mesh := removeFirst (· == e) s.fld.mesh } }
      if !reachable s dstCore then settleMesh (bounce core thread (drop s))
      else
        let q := tblGetD (getCore s dstCore).rxq dstThread []
        if 63 ≤ q.length then { s with fld := { s.fld with mesh := updFirst (· == e) (fun e => { e with place := .returned s.now }) s.fld.mesh } }
        else settleMesh (drop (receiveMsg dstCore dstThread e.msg (modCore core (fun c => { c with sendStatus := tblSet c.sendStatus thread .success }) s))))

/-- MESH_RESEND (R102): the source router resends a returned message after 1 µs. -/
def execMeshResend (core thread dstCore dstThread : Nat) (s : State) : Host.Outcome State Fault Refusal :=
  .next (match firstOfFlow s core dstCore dstThread with
  | none => s
  | some e =>
    match e.place with
    | .returned t =>
      if e.msg.srcThread != thread || s.now < t + us then s
      else settleMesh { s with fld := { s.fld with mesh := updFirst (· == e) (fun e => { e with place := .onMesh }) s.fld.mesh } }
    | _ => s)

/-- MESH_FLIT_ERROR (R105, R120): a router resends; the eighth time within 1 ms fences its core and sets the router to bypass. -/
def execMeshFlitError (core : Nat) (s : State) : Host.Outcome State Fault Refusal :=
  let c := getCore s core
  .next (if 72 ≤ core || c.state == .disabled then s
  else
    let (fired, s) := sparkCheck 0x0203 core s
    let times := s.now :: c.resendTimes.filter (fun t => decide (s.now < t + ms))
    let s := countFault .core core 3 (some 1) fired.isSome (setCore core { c with resendTimes := times } s)
    if 8 ≤ times.length && !c.bypass then
      let s := modCore core (fun c => { c with bypass := true }) { s with fld := { s.fld with bypassing := setAdd s.fld.bypassing core } }
      if c.state == .fenced then s else startRuns (fenceCore core 4 fired.isSome s)
    else s)

/-- ROUTER_BYPASS_DONE (R105): the mesh accepts new messages again. -/
def execRouterBypassDone (core : Nat) (s : State) : Host.Outcome State Fault Refusal :=
  .next (settleMesh { s with fld := { s.fld with bypassing := setDel s.fld.bypassing core } })

/-! Detectors (R99, R120, R125) -/

/-- An item's thread has stopped on a poisoned word: the item ends, and its command will complete with MEMORY_ERROR (R99). -/
def endItemPoisoned (k : Nat) (t : Item) (s : State) : State :=
  let s := unpinBodies (itemBodies t) s
  let s := { s with kln := { s.kln with items := tblDel s.kln.items k } }
  if t.append then { s with kln := { s.kln with appends := tblUpd s.kln.appends t.oid (fun a => { a with bad := some (a.bad.getD .memoryError), left := a.left - 1 }) } }
  else { s with kln := { s.kln with attends := tblUpd s.kln.attends t.oid (fun a => { a with bad := some (a.bad.getD .memoryError), parts := tblSet a.parts t.idx [] }) } }

/-- A thread loads a poisoned word and stops (R99): a run's thread is no longer live and its run is marked; the item in the thread's slot ends. -/
def poisonThread (n t : Nat) (s : State) : State :=
  let byRun := s.fld.runs.find? (fun e => e.2.ranks.any (fun x => x.core == n && !x.lost && x.started) && bitOf e.2.threads t)
  match byRun with
  | some (k, r) => unblock n (2 ^ t) (modCore n (fun c => { c with live := c.live &&& (15 - 2 ^ t) }) (setRun k { r with poisoned := true } s))
  | none =>
    match (itemsOn s n).find? (fun e => match e.2.placed with | some (_, k) => k % 2 == t | none => false) with
    | none => s
    | some (k, i) => startRuns (settleWork (endItemPoisoned k i s))

/-- SRAM_ERROR (R99, R120): a corrected error is counted; an uncorrectable one poisons the word, which stops the thread that loads it, and the third within 1 s fences the core, whose work is re-executed. -/
def execSramError (core : Nat) (double : Bool) (word : Nat) (thread : Option Nat) (s : State) : Host.Outcome State Fault Refusal :=
  let c := getCore s core
  .next (if 72 ≤ core || c.state == .disabled || c.state == .fenced then s
  else
    let (fired, s) := sparkCheck (if double then 0x0202 else 0x0201) core s
    let inj := fired.isSome
    if !double then countFault .core core 0 (some 0) inj (setCore core { c with sramCe := satAdd 16 c.sramCe 1 } s)
    else
      let times := s.now :: c.ueTimes.filter (fun t => decide (s.now < t + sec))
      let s := countFault .core core 1 none inj (setCore core { c with sramUe := true, ueTimes := times, poison := setAdd c.poison word } s)
      if 3 ≤ times.length then startRuns (fenceCore core 3 inj s)
      else match thread with
      | none => s
      | some t => poisonThread core t s)

/-- CORE_STALL_DETECT (R120): a core with a live thread makes no issue handshake for 1 ms. -/
def execCoreStallDetect (core : Nat) (s : State) : Host.Outcome State Fault Refusal :=
  .next (if !inRotation (getCore s core).state || threadsLive s core == 0 then s
  else
    let (fired, s) := sparkCheck 0x0204 core s
    startRuns (fenceCore core 2 fired.isSome s))

/-- PACE_LOW_DETECT (R91, R120): RATE low for 10 ms, or no pace-ring handshake. -/
def execPaceLowDetect (core : Nat) (s : State) : Host.Outcome State Fault Refusal :=
  let c := getCore s core
  let due := c.rate == 0 || (match c.lowSince with | none => false | some t => decide (t + 10 * ms ≤ s.now))
  .next (if (inRotation c.state || c.state == .reserve) && due then startRuns (fenceCore core 6 false (countFault .core core 4 (some 2) false s)) else s)

/-- CORE_SLOW_DETECT (R125). DESIGN CHOICE, log entry 78: the 100 ms start anew after a CORE_SLOW, so a core that stays slow raises it again every 100 ms. CORE_SLOW, and a restriction of firmware's own where SLOW_RESTRICT is 1. -/
def execCoreSlowDetect (core : Nat) (s : State) : Host.Outcome State Fault Refusal :=
  let c := getCore s core
  let due := match c.slowSince with | none => false | some t => decide (t + 100 * ms ≤ s.now)
  .next (if c.state != .rotation || !due then s
  else
    let s := raiseNode .coreSlow (leBytes 1 core ++ zeros 1 ++ leBytes 2 c.rate ++ leBytes 2 (medianRate s)) s
    let s := countFault .core core 5 (some 3) false (modCore core (fun c => { c with slowSince := none }) s)
    if !c.ctrl.slowRestrict || !othersAble s core false then s
    else
      let (yes, s) := judge { bareCmd 0 0 with issuer := .firmware } { unit := 0x02, obj := core } (.service 2) s
      if yes then modCore core (fun c => { c with state := .restricted }) s else s)

end Sys2Proof.Machine
end

