-- ==== Sys2Proof/Machine/Kiln.lean ====
section
/-! DEFINITION. The meanings of the KILN rows and of the rows that place, commit and time out work items (files 03, 04). -/

namespace Sys2Proof.Machine

/-- KILN_ATTEND (R147-R151). -/
def execKilnAttend (c : Cmd) (s : State) : Host.Outcome State Fault Refusal := .next (settleWork (runCmd 0x03 0x01 c attendBody s))

/-! Rotary profiles (R137, R138, R146) -/

/-- The header checks of a profile: the fourth check of R137. -/
def ropeHeader (b : List Byte) : Bool :=
  let base : F32 := BitVec.ofNat 32 (getU b 4 4)
  decide (getU b 0 1 < 4) && getU b 1 1 == 0 && decide (getU b 2 2 ≤ 256) && getU b 2 2 % 2 == 0 && (b.drop 8).take 56 == zeros 56 &&
  (bitOf (getU b 0 1) 1 || (!isNan base && fLt f32One base))

/-- The frequency of pair `i` that a profile gives, none when its entry is out of range (R138). -/
def ropeFreqOf (b : List Byte) (i : Nat) : Option Nat :=
  if bitOf (getU b 0 1) 1 then some (getU b (64 + 8 * i) 8)
  else
    let f := getU b (64 + 4 * i) 4
    match f32Exact (BitVec.ofNat 32 f) with
    | .fin false m _ => if m == 0 then none else ropeFreq64 (getU b 4 4) f (2 * i) (getU b 2 2)
    | _ => none

/-- KILN_ROPE_SET (R137, R138). -/
def execKilnRopeSet (c : Cmd) (s : State) : Host.Outcome State Fault Refusal :=
  .next (runCmd 0x03 0x10 c (fun _ c s =>
    let k := argU c 32 1
    let n := inU c 2 2 / 2
    let other := (tblGet? s.kln.rope k).any (fun p => !ownsIt s c p.ctx)
    if !argsOnly c [(32, 0, 8)] || k == 0xFF then (fail .badParameter, s)
    else if other then (fail .badContext, s)
    else match bufferCheck c s with
    | some e => (fail e, s)
    | none =>
      if c.inLen < 64 then (fail .badLength, s)
      else if !ropeHeader c.input then (fail .badParameter, s)
      else if c.inLen != 64 + (if bitOf (inU c 0 1) 1 then 8 else 4) * n then (fail .badLength, s)
      else match (List.range n).mapM (ropeFreqOf c.input) with
      | none => (fail .badParameter, s)
      | some fs =>
        let (yes, s) := judge c { unit := 0x03, obj := k } (.value (1 + leNat c.input)) s
        if !yes then (fail .overruled, s)
        else
          (ok, { s with kln := { s.kln with rope := tblSet s.kln.rope k { ctx := cmdCtx s c, halves := bitOf (inU c 0 1) 0, rotDims := inU c 2 2, freqs := fs } } })) s)

/-- KILN_ROPE_CLEAR (R137, R146). -/
def execKilnRopeClear (c : Cmd) (s : State) : Host.Outcome State Fault Refusal :=
  .next (runCmd 0x03 0x11 c (fun _ c s =>
    let k := argU c 32 1
    let other := (tblGet? s.kln.rope k).any (fun p => !ownsIt s c p.ctx)
    if !argsOnly c [(32, 0, 8)] || k == 0xFF then (fail .badParameter, s)
    else if other then (fail .badContext, s)
    else
      let (yes, s) := judge c { unit := 0x03, obj := k } (.value 0) s
      if !yes then (fail .overruled, s) else (ok, { s with kln := { s.kln with rope := tblDel s.kln.rope k } })) s)

/-! Admission (R152-R156) -/

/-- KILN_ADMIT_SET (R155): the values govern from the next sweep. -/
def execKilnAdmitSet (c : Cmd) (s : State) : Host.Outcome State Fault Refusal :=
  .next (runCmd 0x03 0x20 c (fun oid c s =>
    let slots := argBits c 32 0 3
    let limit := argU c 34 2
    if !argsOnly c [(32, 0, 3), (34, 0, 16)] || slots < 1 || 4 < slots || limit < 16 || 4096 < limit then (fail .badParameter, s)
    else
      let (yes, s) := judge c { unit := 0x03, obj := 0x100 } (.value (slots + 8 * limit)) s
      if !yes then (fail .overruled, s) else stage oid c {} (.kilnAdmit slots limit) s) s)

/-- KILN_STATUS (R156). -/
def execKilnStatus (c : Cmd) (s : State) : Host.Outcome State Fault Refusal :=
  .next (runCmd 0x03 0x21 c (fun _ c s =>
    if !argsOnly c [] then (fail .badParameter, s)
    else
      let placed := (s.kln.items.filter (fun e => e.2.placed.isSome)).length
      let waiting := (s.kln.backlog.filter (fun k => match tblGet? s.kln.items k with | none => false | some t => !itemResident s t)).length
      (ok (placed % 65536 + s.kln.backlog.length % 65536 * 2 ^ 16 + waiting % 65536 * 2 ^ 32 + b2n (decide (s.kln.backlogLimit ≤ s.kln.backlog.length)) * 2 ^ 48 + s.kln.itemSlots * 2 ^ 49)
        (s.kln.commands + s.kln.retried * 2 ^ 32 + s.kln.nanCommands * 2 ^ 48), s)) s)

/-! Placing an item (R110, R152, R153, R172, R433, R434) -/

/-- Whether a context's items share no core with another's. -/
def isolated (s : State) (ctx : Nat) : Bool := match getCtx? s ctx with | none => false | some x => x.isolate

/-- Whether R434 lets an item of a context onto a core. -/
def mayShare (s : State) (ctx n : Nat) : Bool :=
  (itemsOn s n).all (fun e => e.2.ctx == ctx || (!isolated s ctx && !isolated s e.2.ctx))

/-- The cores in ROTATION with a free slot, on which no EXCLUSIVE run stands. -/
def openCores (s : State) : List Nat :=
  (coresIn s (· == .rotation)).filter (fun n => decide ((itemsOn s n).length < s.kln.itemSlots) && (getCore s n).exclusive.isNone)

/-- The core with the fewest outstanding items, the lowest ID among equals (R110). -/
def fewest (s : State) (ns : List Nat) : Option Nat :=
  ns.foldl (fun a n => match a with | none => some n | some m => if (itemsOn s n).length < (itemsOn s m).length then some n else some m) none

/-- Whether another context's item has a core reserved for it (R153). -/
def reservedAgainst (s : State) (k ctx n : Nat) : Bool :=
  match s.kln.reserved with
  | some (j, m) => m == n && j != k && (match tblGet? s.kln.items j with | none => false | some t => t.ctx != ctx)
  | none => false

/-- The core that an item goes to, if R110, R152, R153 and R434 offer one. -/
def coreFor (s : State) (k : Nat) (t : Item) : Option Nat :=
  let ns := (openCores s).filter (fun n => mayShare s t.ctx n && !reservedAgainst s k t.ctx n)
  match s.kln.reserved with
  | some (j, m) => if j == k && ns.contains m then some m else fewest s ns
  | none => fewest s ns

/-- Whether an append's item goes before another: of the same sequence, layer and group, and of the same sheaf or of an earlier append. -/
def goesBefore (e t : Item) : Bool :=
  e.append && e.seq == t.seq && e.layer == t.layer && e.group == t.group && (itemBodies e == itemBodies t || decide (e.oid < t.oid))

/-- Whether an item may start: its bodies are in Ember, and for an append no item that goes before it is still to commit, as appends take effect in acceptance order (R183). -/
def itemReady (s : State) (k : Nat) (t : Item) : Bool :=
  itemResident s t && (!t.append || !s.kln.items.any (fun e => decide (e.1 < k) && goesBefore e.2 t))

/-- What an append's item comes to: quantises its tokens onto the sheaf as the earlier items left it (R172, R184); the bytes are written by its commit (R121, R175). None when its escapes find no extent. -/
def writeItem (t : Item) (s : State) : Option (Item × State) :=
  match tblGet? s.kln.appends t.oid, t.views.head? with
  | some a, some v =>
    match getBody? s v.body with
    | none => some (t, s)
    | some b =>
      let n := 4 * tokenElems a.fmt
      let recs := (List.range t.count).map (fun i => halves ((a.cmd.input.drop ((t.src + i) * n)).take n))
      let old := restore a.fmt t.first (sheafAt s a.fmt b)
      let (x, clamped) := quantTokens a.fmt (argBits a.cmd 39 0 1 == 1) t.first recs (old, 0)
      let s := growExtents v.body (max (escBytes x).length (512 * b.extents.length)) s
      if hasExtents s v.body (escBytes x).length then some ({ t with escAfter := x.entries.length, escNew := x.entries.length - old.entries.length, clamped := clamped, made := some (x.body, escBytes x) }, s) else none
  | _, _ => some (t, s)

/-- What the fill engine zeroes before a slot stages an item of another context than its previous one: the slot's staging partition, whose bytes the model holds only as the items' views, and the registers of threads 0 and 1 (R433). -/
def clearThreads (c : Core) : Core :=
  { c with sregs := tblKeep c.sregs (fun k _ => 2 ≤ k / 32), vregs := tblKeep c.vregs (fun k _ => 2 ≤ k / 4096) }

/-- Places an item on a core, in its lowest free slot; another context's staging is cleared first (R433). -/
def placeItem (k n : Nat) (t : Item) (s : State) : State :=
  let used := (itemsOn s n).map (fun e => match e.2.placed with | some (_, x) => x | none => 0)
  let slot := ((List.range 4).find? (fun i => !used.contains i)).getD 0
  let s := modCore n (fun c => { (if (tblGet? c.slotCtx slot).any (· != t.ctx) then clearThreads c else c) with slotCtx := tblSet c.slotCtx slot t.ctx }) (lightAct 2 s)
  { s with kln := { s.kln with
      items := tblSet s.kln.items k { t with placed := some (n, slot), cores := t.cores ++ [n], short := none },
      backlog := setDel s.kln.backlog k,
      reserved := match s.kln.reserved with | some (j, m) => if j == k then none else some (j, m) | none => none } }

/-- Tries the ready items in backlog order; an append without room for its escapes is passed over. -/
def placeFirst : List (Nat × Item) → State → State
  | [], s => s
  | (k, t) :: rest, s =>
    match coreFor s k t with
    | none => placeFirst rest s
    | some n =>
      if !t.append then placeItem k n t s
      else match writeItem t s with
      | some (t, s) => placeItem k n t s
      | none => placeFirst rest { s with kln := { s.kln with items := tblSet s.kln.items k { t with short := some (t.short.getD s.tir.passNo) } } }

/-- Reserves a core for the oldest ready item when R434 alone keeps it from every core with a free slot (R153). A reservation for an item or core that is gone ends. -/
def reserveCore (ready : List (Nat × Item)) (s : State) : State :=
  let kept := match s.kln.reserved with
    | some (j, m) => s.kln.backlog.contains j && ((getCore s m).state == CoreState.rotation)
    | none => false
  let s := if kept then s else { s with kln := { s.kln with reserved := none } }
  match ready.head? with
  | none => s
  | some (k, t) =>
    if s.kln.reserved.isSome || (openCores s).isEmpty || (openCores s).any (mayShare s t.ctx) then s
    else match fewest s (coresIn s (· == .rotation)) with
    | none => s
    | some n => { s with kln := { s.kln with reserved := some (k, n) } }

/-- The items of the backlog that may start, in its order. -/
def readyItems (s : State) : List (Nat × Item) :=
  s.kln.backlog.filterMap (fun k => match tblGet? s.kln.items k with | none => none | some t => if itemReady s k t then some (k, t) else none)

/-- ITEM_PLACE (R110, R153, R154, R172): a placement decision, which is a work boundary (R124). -/
def execItemPlace (s : State) : Host.Outcome State Fault Refusal :=
  let s := workBoundary s
  .next (placeFirst (readyItems s) (reserveCore (readyItems s) s))

/-! Committing an item (R121, R130, R131, R136, R144, R145, R184, R280, R302) -/

/-- Whether a run of a body has a poisoned line. -/
def runPoisoned (s : State) (x : Body) (off n : Nat) : Bool := (emberRead s (x.eda + off) n).2

/-- Whether a run of an escape list has a poisoned line. -/
def escPoisoned (s : State) (x : Body) (off n : Nat) : Bool :=
  n != 0 && (List.range ((off + n - 1) / 64 - off / 64 + 1)).any (fun i => let o := (off / 64 + i) * 64; match x.extents[o / 512]? with | none => false | some e => (emberRead s (e + o % 512) 64).2)

/-- Whether what a token is decoded from has a poisoned line (R136, R192). -/
def tokenPoisoned (s : State) (f : Format) (b : Body) (x : Sheaf) (t : Nat) : Bool :=
  let y := layout f
  let r := runBytes f
  let start := sumN ((x.counts.take t).map (fun c => c.1 + c.2))
  let (k, v) := x.counts.getD t (0, 0)
  let kg := kGroupOf f t 0
  let vg := vGroupOf f t 0
  let nk := tokenElems f / f.kGroup
  runPoisoned s b (y.kCodes + t * r) r || runPoisoned s b (y.vCodes + t * r) r ||
  (f.form != 4 && (runPoisoned s b (y.kScales + kg) nk || runPoisoned s b (y.vScales + vg) (tokenElems f) ||
    runPoisoned s b (y.kAnchors + 2 * (kg / 64)) 2 || runPoisoned s b (y.vAnchors + 2 * (vg / 64)) (2 * ((vg + tokenElems f - 1) / 64 - vg / 64 + 1)))) ||
  (b.escCount != 0 && (escPoisoned s b (8 * t) 8 || escPoisoned s b (512 + 2 * start) (2 * (k + v))))

/-- A sheaf of an item as the Kiln takes it in, and whether a line that it consumes is poisoned. -/
def readView (s : State) (a : Attend) (v : View) : Block × Bool :=
  match getBody? s v.body with
  | none => ({ view := v, tokens := [], keys := [], vals := [] }, true)
  | some b =>
    let x := sheafAt s a.fmt b
    let (ts, whole) := admittedAny a.cmd a.fmt a.retrieved v
    (loadBlock a.cmd a.fmt a.rope a.retrieved v x, if whole then bodyPoisoned s a.fmt b else ts.any (tokenPoisoned s a.fmt b x))

/-- Commits an attention item: its partials stand, its pins are released. -/
def commitAttend (k : Nat) (t : Item) (a : Attend) (s : State) : State :=
  let rs := t.views.map (readView s a)
  let parts := itemParts a.cmd a.fmt a.rope a.retrieved (rs.map (·.1))
  let waited := match t.waited with | none => 0 | some w => (w - t.since) / us
  let a := { a with parts := tblSet a.parts t.idx parts, residencyUs := if t.idx == 0 then min 0xFFFF waited else a.residencyUs, bad := if rs.any (·.2) then some (a.bad.getD .memoryError) else a.bad }
  unpinBodies (itemBodies t) { s with kln := { s.kln with items := tblDel s.kln.items k, attends := tblSet s.kln.attends t.oid a } }

/-- Commits an append's item: its tokens are in the sheaf, which is dirty. -/
def commitAppend (k : Nat) (t : Item) (s : State) : State :=
  match tblGet? s.kln.appends t.oid, t.views.head? with
  | some a, some v =>
    let n := t.first + t.count
    let s := match t.made with | none => s | some (body, esc) => growExtents v.body esc.length (writeBody v.body body esc s)
    let s := useBody v.body (modBody v.body (fun b => { b with tokens := n, escCount := t.escAfter, dirty := true, changed := true, lastAppend := s.now }) s)
    let s := match entry? s t.seq t.layer t.group v.idx with
      | none => s
      | some e => if e.body == v.body then setEntry t.seq t.layer t.group v.idx { e with tokens := n, promised := max n e.promised } s else s
    let (mark, s) := noteDirty t.seq s
    let s := if mark then oweRecord (.mark t.seq true) (some t.oid) {} s else s
    let s := { s with kln := { s.kln with items := tblDel s.kln.items k, appends := tblSet s.kln.appends t.oid { a with left := a.left - 1, written := a.written + t.count, escaped := a.escaped + t.escNew, clamped := a.clamped + t.clamped } } }
    let s := if n != 0 && stepTokens s t.seq t.layer n == n then postSheaf t.seq t.layer t.group v.idx n (some t.oid) s else s
    let s := if n == 64 then queueWb v.body false (settlePosts t.seq s) else s
    unpinBodies (itemBodies t) s
  | _, _ => unpinBodies (itemBodies t) { s with kln := { s.kln with items := tblDel s.kln.items k } }

/-- ITEM_COMMIT (R121, R130, R151, R184, R185): the beats are those of the arrays that R494 meters. -/
def execItemCommit (item beats : Nat) (s : State) : Host.Outcome State Fault Refusal :=
  .next (match tblGet? s.kln.items item with
  | none => s
  | some t =>
    if (match t.placed with | none => true | some (n, _) => stageHeld s n) then s
    else
      let s := tenantAdd t.ctx (fun x => { x with kilnBeats := (x.kilnBeats + beats) % 2 ^ 64 }) (lightAct 2 s)
      let s := if t.append then commitAppend item t s else match tblGet? s.kln.attends t.oid with | none => s | some a => commitAttend item t a s
      startRuns (settleWork s))

/-- Ends a command's items that no core holds, its command to complete with a status. -/
def dropItems (oid : Nat) (st : Status) (s : State) : State :=
  let mine := s.kln.items.filter (fun e => e.2.oid == oid && e.2.placed.isNone)
  mine.foldl (fun s (k, t) =>
    let s := unpinBodies (itemBodies t) { s with kln := { s.kln with items := tblDel s.kln.items k, backlog := setDel s.kln.backlog k } }
    if t.append then { s with kln := { s.kln with appends := tblUpd s.kln.appends oid (fun a => { a with bad := some (a.bad.getD st), left := a.left - 1 }) } }
    else { s with kln := { s.kln with attends := tblUpd s.kln.attends oid (fun a => { a with bad := some (a.bad.getD st), parts := tblSet a.parts t.idx [] }) } }) s

/-- RESIDENCY_TIMEOUT (R233): of a work item, or of a held command that waits for bodies. -/
def execResidencyTimeout (item : Nat) (s : State) : Host.Outcome State Fault Refusal :=
  let due := fun (since : Nat) => decide (since + tierParam s 0x05 * ms ≤ s.now)
  .next (match tblGet? s.kln.items item with
  | some t => if t.placed.isNone && !itemResident s t && due t.since then settleWork (dropItems t.oid .timeout s) else s
  | none =>
    match s.tir.held.find? (fun h => h.item == item) with
    | none => s
    | some h => if !(heldPins h.why).isEmpty && due h.since then settleWork (failHeld h.oid { status := .timeout } s) else s)

end Sys2Proof.Machine
end

