-- ==== Sys2Proof/Machine/Tier.lean ====
section
/-! DEFINITION. The meanings of the TIER rows and of the rows of the tier manager's own steps (file 07); lending, borrowing and the moves between Ember, Peat and Fallow are in Fallow.lean. -/

namespace Sys2Proof.Machine

/-! Sequences and regions (R211-R219) -/

/-- TIER_SEQ_CREATE (R211-R213, R430, R530). -/
def execTierSeqCreate (c : Cmd) (s : State) : Host.Outcome State Fault Refusal :=
  .next (runCmd 0x06 0x01 c (fun _ c s =>
    let layers := argBits c 32 0 13
    let groups := argU c 34 1
    let ids := (List.range layers).map (fun i => inU c (2 * i) 2)
    if !argsOnly c [(32, 0, 13), (34, 0, 8), (35, 0, 1), (36, 0, 32), (42, 0, 8)] || layers == 0 || 4096 < layers || groups == 0 then (fail .badParameter, s)
    else match bufferCheck c s with
    | some e => (fail e, s)
    | none =>
      if c.inLen < 2 * layers then (fail .badLength, s)
      else if ids.any (fun k => (fmt? s k).isNone) then (fail .notFound, s)
      else if ids.any (fun k => match fmt? s k with | none => false | some f => !mayName s c f.ctx) then (fail .badContext, s)
      else if 1048576 ≤ s.tir.seqs.length then (fail .limitExceeded, s)
      else
        let ctx := cmdCtx s c
        let x := (getCtx? s ctx).getD {}
        let asked := argBits c 35 0 1 == 1
        if asked && x.memKey == 0xFFFF then (fail .badState, s)
        else
          let q := freshSeq s
          (ok q, setSeq q { ctx := ctx, layers := layers, groups := groups, formats := ids, prot := asked || x.protRegions, startPos := argU c 36 4 }
            { s with tir := { s.tir with nextSeq := (q + 1) % (2 ^ 32 - 1) } })) s)

/-- TIER_SEQ_FORK (R216). -/
def execTierSeqFork (c : Cmd) (s : State) : Host.Outcome State Fault Refusal := .next (settleWork (runCmd 0x06 0x02 c forkBody s))

/-- TIER_SEQ_DESTROY (R217). -/
def execTierSeqDestroy (c : Cmd) (s : State) : Host.Outcome State Fault Refusal := .next (settleWork (runCmd 0x06 0x03 c destroyBody s))

/-- TIER_SEQ_TRUNCATE (R247). -/
def execTierSeqTruncate (c : Cmd) (s : State) : Host.Outcome State Fault Refusal := .next (settleWork (runCmd 0x06 0x04 c truncateBody s))

/-- TIER_REMAP (R215). -/
def execTierRemap (c : Cmd) (s : State) : Host.Outcome State Fault Refusal := .next (settleWork (runCmd 0x06 0x05 c remapBody s))

/-- TIER_QUERY (R214). -/
def execTierQuery (c : Cmd) (s : State) : Host.Outcome State Fault Refusal := .next (settleWork (runCmd 0x06 0x08 c queryBody s))

/-- TIER_PIN (R223). -/
def execTierPin (c : Cmd) (s : State) : Host.Outcome State Fault Refusal := .next (settleWork (runCmd 0x06 0x10 c pinBody s))

/-- TIER_UNPIN (R211, R223). -/
def execTierUnpin (c : Cmd) (s : State) : Host.Outcome State Fault Refusal :=
  .next (runCmd 0x06 0x11 c (fun _ c s =>
    let k := argU c 32 4
    if !argsOnly c [(32, 0, 32)] then (fail .badParameter, s)
    else match tblGet? s.tir.pins k with
    | none => (fail .notFound, s)
    | some p => if !mayName s c p.ctx then (fail .badContext, s) else (ok, dropPin k s)) s)

/-- TIER_REGION_ALLOC (R219). -/
def execTierRegionAlloc (c : Cmd) (s : State) : Host.Outcome State Fault Refusal := .next (settleWork (runCmd 0x06 0x18 c regionAllocBody s))

/-- Removes a region, zero-filled (R219). -/
def freeRegion (k : Nat) (r : Region) (s : State) : State :=
  let s := if r.comp.isNone then zeroChunks r.eda r.chunks s else s
  { s with tir := { s.tir with regions := tblDel s.tir.regions k }, sec := { s.sec with weights := tblDel s.sec.weights k }, trn := { s.trn with windows := s.trn.windows.filter (fun e => e.2.region != k) } }

/-- TIER_REGION_FREE (R211, R218, R219). A composition region is never issued to a host context (R239). -/
def execTierRegionFree (c : Cmd) (s : State) : Host.Outcome State Fault Refusal :=
  .next (runCmd 0x06 0x19 c (fun _ c s =>
    let h := argU c 40 8
    if !argsOnly c [(40, 0, 64)] then (fail .badParameter, s)
    else match resolve s h with
    | none => (fail .badAddress, s)
    | some (r, _) =>
      if r.comp.isSome then (fail .badAddress, s)
      else if !mayName s c r.ctx then (fail .badContext, s)
      else (ok, freeRegion (bitsOf h 40 24) r s)) s)

/-! Flush, parameters, status (R212, R226, R235, R245) -/

/-- TIER_FLUSH (R226, R236). -/
def execTierFlush (c : Cmd) (s : State) : Host.Outcome State Fault Refusal :=
  .next (runCmd 0x06 0x12 c (fun oid c s =>
    let q := argU c 32 4
    let every := q == 0xFFFFFFFF
    if !argsOnly c [(32, 0, 32)] then (fail .badParameter, s)
    else match (if every then Except.ok ((s.tir.seqs.filter (fun e => e.2.ctx == cmdCtx s c && (namedSeq? s e.1).isSome)).map (·.2))
      else if (namedSeq? s q).isNone then .error .notFound else match seqOf c s with | .error e => .error e | .ok (_, x) => .ok [x]) with
    | .error e => (fail e, s)
    | .ok xs =>
      if !s.tir.mounted then let (d, s) := peatStarting s; (.done d, s)
      else
        let bodies := ((xs.map (fun x => (allEntries x).map (fun e => e.2.2.body))).flatten.eraseDups).filter (fun b => match getBody? s b with | none => false | some y => y.dirty && y.state != .lost)
        if bodies.isEmpty then (ok, s)
        else if s.tir.readOnly then (fail .wearLimit, s)
        else match bodies.findSome? (fun b => (getBody? s b).bind (sealDenied s)) with
        | some e => (fail e, s)
        | none =>
          let early := bodies.filter (fun b => tblHas s.tir.snaps b)
          let s := (bodies.filter (fun b => !early.contains b)).foldl (fun s b => queueWb b false s) s
          (.wait, { s with tir := { s.tir with flushes := tblSet s.tir.flushes oid { bodies := bodies, early := early } } })) s)

/-- Whether a value lies in a parameter's range (R212), `v` giving the other parameters' current values. -/
def tierRange (s : State) (p x : Nat) (v : Nat → Nat) : Bool :=
  match p with
  | 0x01 => decide (10 ≤ x ∧ x ≤ 1000)
  | 0x02 => decide (5 ≤ x ∧ x ≤ 100 ∧ x + 5 ≤ v 0x03)
  | 0x03 => decide (v 0x02 + 5 ≤ x ∧ x ≤ 200)
  | 0x04 => decide (x ≤ 60000)
  | 0x05 => decide (100 ≤ x ∧ x ≤ 60000)
  | 0x06 => decide (x ≤ 900)
  | 0x07 => decide (x ≤ 2) && (hasPeat s || x != 1)
  | 0x08 => decide (10 ≤ x ∧ x ≤ 60000)
  | 0x09 => decide (1000 ≤ x ∧ x ≤ 600000)
  | 0x0A => decide (10 ≤ x ∧ x ≤ 100)
  | 0x0B => decide (24 ≤ x ∧ x ≤ 29)
  | _ => false

/-- TIER_CONFIG (R212). EPOCH_US takes effect at the next epoch boundary and TABLE_LOG2 at the next start. -/
def execTierConfig (c : Cmd) (s : State) : Host.Outcome State Fault Refusal :=
  .next (runCmd 0x06 0x20 c (fun _ c s =>
    let p := argU c 32 2
    let x := argU c 40 8
    if !argsOnly c [(32, 0, 16), (40, 0, 64)] || !tierRange s p x (tierParam s) then (fail .badParameter, s)
    else
      let (yes, s) := judge c { unit := 0x06, obj := 2 ^ 33 + p } (.value x) s
      if !yes then (fail .overruled, s) else (ok (tierParam s p), { s with tir := { s.tir with params := tblSet s.tir.params p x } })) s)

/-- TIER_STATUS (R212). -/
def execTierStatus (c : Cmd) (s : State) : Host.Outcome State Fault Refusal :=
  .next (runCmd 0x06 0x21 c (fun _ c s =>
    if !argsOnly c [] then (fail .badParameter, s)
    else
      let dirty := sumN (s.tir.bodies.map (fun e => if e.2.dirty then heldHalves e.2 else 0))
      (ok (poolFree s / 2048 % 2 ^ 32 + pinnedHalves s true / 2048 * 2 ^ 32)
        (dirty / 2048 + min 0xFFFF ((s.tir.demand.length + s.tir.advisory.length) / 16) * 2 ^ 32 + b2n s.tir.mounted * 2 ^ 48 + b2n s.tir.readOnly * 2 ^ 49 + b2n s.tir.starving * 2 ^ 50), s)) s)

/-- TIER_WEAR (R235, R243). -/
def execTierWear (c : Cmd) (s : State) : Host.Outcome State Fault Refusal :=
  .next (runCmd 0x06 0x22 c (fun _ c s =>
    if !argsOnly c [] then (fail .badParameter, s)
    else
      let w := s.tir.wear
      let day := w.recent.filter (fun e => decide (s.now < e.1 + 86400 * sec))
      let host := sumN (day.map (fun e => e.2.1))
      (ok (w.hostBytes / 10 ^ 9 % 2 ^ 48 + lifeUsed s * 2 ^ 48)
        (min 0xFFFF (sumN (day.map (fun e => e.2.2)) * 100 / host) + spareLeft s * 2 ^ 16 + min 0xFFFF w.peMean * 2 ^ 32 + min 0xFFFF w.peMax * 2 ^ 48), s)) s)

/-- A loss record (R245). -/
def lossBytes (l : Loss) : List Byte := leBytes 4 l.seq ++ leBytes 2 l.layer ++ leBytes 1 l.group ++ leBytes 1 l.cause ++ leBytes 4 l.pos ++ zeros 4

/-- TIER_LOSS_LIST (R245). -/
def execTierLossList (c : Cmd) (s : State) : Host.Outcome State Fault Refusal :=
  .next (runCmd 0x06 0x23 c (fun _ c s =>
    if !argsOnly c [] then (fail .badParameter, s)
    else match bufferCheck c s with
    | some e => (fail e, s)
    | none =>
      let key := fun (l : Loss) => (l.seq * 4096 + l.layer) * 256 + l.group
      let ls := sortBy (fun (a b : Loss) => decide (key a < key b)) (s.tir.losses.filter (fun l => match getSeq? s l.seq with | none => false | some x => x.ctx == cmdCtx s c))
      if c.outLen < 16 * ls.length then (.done { status := .badLength, r0 := ls.length }, s)
      else (.done { r0 := ls.length, output := (ls.map lossBytes).flatten, space := 16 * ls.length }, s)) s)

/-! Epochs (R224, R432) -/

/-- Ends each CONTEXT.DESTROY whose bodies and regions have gone. -/
def settleDestroys (s : State) : State :=
  s.sec.ctxs.foldl (fun s (k, x) =>
    match x.destroyBy with
    | none => s
    | some oid =>
      if s.tir.bodies.any (fun e => e.2.ctx == k) || s.tir.regions.any (fun e => e.2.ctx == k) then s
      else finish oid {} { s with sec := { s.sec with ctxs := tblDel s.sec.ctxs k } }) s

/-- EPOCH_BOUNDARY (R212, R224). -/
def execEpochBoundary (s : State) : Host.Outcome State Fault Refusal :=
  let s := { s with tir := { s.tir with epoch := s.tir.epoch + 1, epochUs := tierParam s 0x01 } }
  let due := fun (x : Body) => x.refs == 0 && pinsOf x == 0 && decide (x.retireEpoch + 2 ≤ s.tir.epoch)
  let gone := (s.tir.bodies.filter (fun e => due e.2)).map (·.1)
  .next (settleWork (settleDestroys (gone.foldl (fun s b => reclaim b s) s)))

/-! Write-back (R226-R228, R474) -/

/-- TAIL_IDLE_EXPIRY (R212, R226): a dirty body with no append for TAIL_IDLE_MS. -/
def execTailIdleExpiry (body : Nat) (s : State) : Host.Outcome State Fault Refusal :=
  let t := tierParam s 0x04
  .next (match getBody? s body with
  | none => s
  | some x => if t != 0 && x.dirty && decide (x.lastAppend + t * ms ≤ s.now) then queueWb body false s else s)

/-- PEAT_PROGRAM_FAIL (R236, R474). -/
def execPeatProgramFail (body : Nat) (s : State) : Host.Outcome State Fault Refusal := .next (settleWork (programFail body false s))

/-- PEAT_CONTROLLER_TIMEOUT (R474). -/
def execPeatControllerTimeout (group : Nat) (s : State) : Host.Outcome State Fault Refusal :=
  .next (if hasPeat s && group < 2 && groupReads s group then fencePeatGroup group 3 false s else s)

/-- JOURNAL_RECORD_DONE (R228): the first record owed is programmed; the command that waits for it completes, an append only when its items have all committed. -/
def execJournalRecordDone (s : State) : Host.Outcome State Fault Refusal :=
  .next (match s.tir.jwait with
  | [] => s
  | j :: rest =>
    if !s.tir.mounted then s
    else
      let s := programRecord j.record (lightAct 3 { s with tir := { s.tir with jwait := rest } })
      match j.oid with
      | none => s
      | some k => if tblHas s.kln.appends k then settleWork s else settleWork (finish k j.done s))

/-! Eviction and allocation (R229-R231) -/

/-- Ends an allocation for which a full pass has freed too little. -/
def expireRoom (s : State) : State :=
  if !s.tir.evicting.isEmpty then s
  else
    let s := s.tir.held.foldl (fun s h => match h.why with | .room p => if p < s.tir.passNo then failHeld h.oid { status := .noSpace } s else s | _ => s) s
    (s.kln.items.filterMap (fun e => match e.2.short with | some p => if p < s.tir.passNo && e.2.placed.isNone then some e.2.oid else none | none => none)).eraseDups.foldl (fun s k => dropItems k .noSpace s) s

/-- The commands that wait for room are tried again, in acceptance order (R231). -/
def resumeHeld (s : State) : State := s.tir.held.foldl (fun s h => match h.why with | .room _ => tryHeld h s | _ => s) s

/-- The appends whose escapes found no room are tried again (R231). -/
def resumeItems (s : State) : State :=
  s.kln.items.foldl (fun s (k, t) =>
    if t.short.isNone then s
    else match writeItem t s with
    | none => s
    | some _ => { s with kln := { s.kln with items := tblUpd s.kln.items k (fun t => { t with short := none }) } }) s

/-- ALLOCATION_RESUME (R231): the allocations that wait are tried again in acceptance order. -/
def execAllocationResume (s : State) : Host.Outcome State Fault Refusal :=
  .next (settleWork (expireRoom (resumeItems (resumeHeld s))))

/-! The mount of Peat (R237) -/

/-- The bodies that a journal's entries name, each with the most tokens that an entry of it has. -/
def journalBodies (j : Tbl JSeq) : List (Nat × Nat) :=
  let all := (j.map (fun q => (q.2.entries.map (fun g => g.2.map (fun e => (e.2.body, e.2.tokens)))).flatten)).flatten
  all.foldl (fun acc e => tblMod acc e.1 0 (fun n => max n e.2)) []

/-- A body as it returns: COLD, its copy in Peat. -/
def returnedBody (s : State) (b tokens : Nat) (cp : Copy) : Body :=
  { state := .cold, dirty := false, coldKind := .peat, coldTokens := cp.tokens,
    refs := sumN (s.tir.journal.map (fun q => (q.2.entries.map (fun g => (g.2.filter (fun e => e.2.body == b)).length)).foldl (· + ·) 0)),
    lastUse := s.now, fmt := cp.fmt, eda := 0, chunks := 0, escCount := cp.escCount, tokens := min tokens cp.tokens, prot := cp.prot, ctx := cp.ctx, lineage := cp.lineage }

/-- A sequence as it returns. -/
def returnedSeq (s : State) (j : JSeq) : Seq :=
  { ctx := j.ctx, layers := j.layers, groups := j.groups, formats := j.formats, prot := j.prot, startPos := j.startPos,
    dirtyMark := j.dirty,
    entries := j.entries.map (fun g => (g.1, g.2.map (fun (e : Nat × JEntry) => let n := min e.2.tokens (((tblGet? s.tir.peat e.2.body).map (·.tokens)).getD 0); (e.1, { basePos := e.2.basePos, tokens := n, promised := n, body := e.2.body })))) }

/-- Where the tokens that a (layer, group) of a dirty sequence lost begin: at the first sheaf that is missing or not full, or behind the last one. -/
def firstLost : List (Nat × Entry) → Nat → Nat → Nat
  | [], _, pos => pos
  | (i, e) :: t, k, pos => if i != k then pos else if e.tokens < 64 then e.basePos + e.tokens else firstLost t (k + 1) (e.basePos + 64)

/-- The losses of a sequence that the journal holds as dirty. -/
def mountLosses (q : Nat) (x : Seq) : List Loss :=
  (lgPairs x).map (fun (l, g) => { seq := q, layer := l, group := g, cause := 0, pos := firstLost (entriesOf x l g) 0 x.startPos })

/-- A sequence of the journal without the entries whose record Peat no longer has; one that has lost such an entry counts as dirty. -/
def readJournal (s : State) (j : JSeq) : JSeq :=
  let gone := j.entries.any (fun g => g.2.any (fun e => !tblHas s.tir.peat e.2.body))
  { j with dirty := j.dirty || gone, entries := (j.entries.map (fun g => (g.1, g.2.filter (fun e => tblHas s.tir.peat e.2.body)))).filter (fun g => !g.2.isEmpty) }

/-- PEAT_MOUNT_DONE (R237, R244-R246): every entry that the journal holds returns, losses are listed, EMBER_ONLY clears. -/
def execPeatMountDone (s : State) : Host.Outcome State Fault Refusal :=
  .next (if !hasPeat s || s.tir.mounted then s
  else
    let live := (tblMap s.tir.journal (fun _ j => readJournal s j)).filter (fun q => q.2.entries.any (fun g => !g.2.isEmpty))
    let s := { s with tir := { s.tir with journal := live } }
    let bodies := (journalBodies live).filterMap (fun (b, n) => (tblGet? s.tir.peat b).map (fun cp => (b, returnedBody s b n cp)))
    let s := { s with tir := { s.tir with
        mounted := true,
        bodies := bodies.foldl (fun t e => tblSet t e.1 e.2) s.tir.bodies,
        peat := s.tir.peat.filter (fun e => bodies.any (fun b => b.1 == e.1) || tblHas s.tir.bodies e.1),
        seqs := live.foldl (fun t e => if tblHas t e.1 then t else tblSet t e.1 (returnedSeq s e.2)) s.tir.seqs } }
    let s := addLosses ((live.filter (fun e => e.2.dirty)).map (fun e => match getSeq? s e.1 with | none => [] | some x => mountLosses e.1 x)).flatten s
    settleWork s)

end Sys2Proof.Machine
end

