-- ==== Sys2Proof/Machine/PeerOps.lean ====
section
/-! DEFINITION. What follows in the node when remote operations end and when peers go: counters and their waits, tags and flags, copies, compositions, drains, stooks (R240, R242, R387-R390, R392-R400, R492). -/

namespace Sys2Proof.Machine

/-! Arrival counters (R389) -/

/-- Whether a counter has reached a target. -/
def reached (value target : Nat) : Bool := serialGe 64 value target

/-- Ends the waits on a counter that are satisfied. -/
def settleWaits (s : State) : State :=
  s.trn.waits.foldl (fun s w =>
    let v := tblGetD s.trn.counters w.counter 0
    if reached v w.target then finish w.oid { r0 := v } { s with trn := { s.trn with waits := s.trn.waits.erase w } } else s) s

/-- Adds to an arrival counter, which wraps modulo 2^64. -/
def addCounter (c n : Nat) (s : State) : State :=
  if c == 0xFFFF then s
  else settleWaits { s with trn := { s.trn with counters := tblMod s.trn.counters c 0 (fun v => (v + n) % 2 ^ 64) } }

/-! The end of an operation (R385, R387, R388, R390, R402) -/

/-- How an operation ends: acknowledged or answered, or lost with a status. -/
inductive OpEnd where
  | good (value : Nat)
  | lost (st : Status)
deriving DecidableEq, Repr

/-- The results of an OLNEN command whose operations have all ended. -/
def xferDone (c : Cmd) (x : Xfer) : Done :=
  let st := x.bad.getD .success
  match c.verb with
  | 0x31 => { status := st, r0 := x.segs }
  | 0x32 => { status := st, r0 := x.segs, placed := x.placed }
  | 0x33 => { status := st, r0 := if x.bad.isNone then x.result else 0 }
  | _ => { status := st }

/-- Completes a command when no segment of it is left. -/
def settleXfer (oid : Nat) (s : State) : State :=
  match tblGet? s.trn.xfers oid, tblGet? s.cln.inflight oid with
  | some x, some c => if x.left == 0 then complete oid c (xferDone c x) { s with trn := { s.trn with xfers := tblDel s.trn.xfers oid } } else s
  | _, _ => s

/-- Lets held flagged stores know that an earlier store has been acknowledged, or is lost. -/
def flagsNote (tag : Nat) (lost : Bool) (s : State) : State :=
  { s with trn := { s.trn with flags := tblMap s.trn.flags (fun _ f =>
    if f.waits.contains tag then { f with waits := setDel f.waits tag, lost := if lost then some (f.lost.getD tag) else f.lost } else f) } }

/-- Notes what a multicast member answered. -/
def mcastNote (n member : Nat) (st : Status) (s : State) : State :=
  { s with trn := { s.trn with mcasts := tblUpd s.trn.mcasts n (fun m => { m with status := m.status.set member (some st) }) } }

/-- Changes a body's record in the composition that holds it. -/
def modRecord (b : Nat) (f : Copy → Copy) (s : State) : State :=
  { s with tir := { s.tir with comps := tblMap s.tir.comps (fun _ c => { c with store := tblUpd c.store b f }) } }

/-- A piece of a body's record could not be read back. -/
def spoilPiece (b off n : Nat) (s : State) : State := modRecord b (fun c => { c with holes := c.holes ++ [(off, n)] }) s

/-- A piece of a body's record has come back from the lender (R239). -/
def fillPiece (b off : Nat) (bs : List Byte) (s : State) : State :=
  modRecord b (fun c => let all := putBytes (c.bytes ++ c.esc) off bs; { c with bytes := all.take c.bytes.length, esc := all.drop c.bytes.length }) s

/-- Ends an operation and frees its tag. -/
def endOp (tag : Nat) (e : OpEnd) (s : State) : State :=
  match tblGet? s.trn.ops tag with
  | none => s
  | some o =>
    let lost := match e with | .good _ => false | .lost _ => true
    let s := { s with trn := { s.trn with ops := tblDel s.trn.ops tag, flags := tblDel s.trn.flags tag } }
    let s := if o.kind == .store || o.kind == .atomic || o.kind == .counterAdd || o.kind == .flag then flagsNote tag lost s else s
    match o.owner with
    | .node => s
    | .body b off => if !lost then s else if o.kind == .store then cancelMove b s else spoilPiece b off o.bytes s
    | .thread c t => { s with trn := { s.trn with blocked := s.trn.blocked.filter (fun b => b != (c, t, tag)) } }
    | .mcast _ _ => s
    | .cmd oid _ =>
      let s := { s with trn := { s.trn with xfers := tblUpd s.trn.xfers oid (fun x =>
        match e with
        | .good v => { x with left := x.left - 1, result := v }
        | .lost st => { x with left := x.left - 1, bad := some (x.bad.getD st) }) } }
      let s := if lost then s else addCounter o.counter o.bytes s
      settleXfer oid s

/-! Fallow (R240-R242, R493, R495) -/

/-- Ends the metering record of a composition (R495). -/
def endComp (comp peer : Nat) (lender : Bool) (cause : Nat) (s : State) : State :=
  let hit := fun (r : CompRec) => r.comp == comp && r.peer == peer && r.lender == lender && r.cause == 0
  let cs := updFirst hit (fun r => { r with cause := cause, ended := fabricTime s, heldMs := r.allots * ((fabricTime s - r.granted) / ms) }) s.hlt.comps
  let isOver := (cs.filter (fun r => r.cause != 0)).length - 4096
  { s with hlt := { s.hlt with comps := if isOver == 0 then cs else removeFirst (fun r => r.cause != 0) cs } }

/-- The bodies whose copy a composition holds. -/
def compBodies (s : State) (k : Nat) : List (Nat × Body) := s.tir.bodies.filter (fun e => e.2.comp == some k)

/-- A clean body held in a composition becomes COLD with COLD_KIND 1 (R241, R242). -/
def toPeat (k b : Nat) (s : State) : State :=
  let s := modBody b (fun x => { x with coldKind := .peat, comp := none, coldTokens := match tblGet? s.tir.peat b with | none => 0 | some p => p.tokens }) s
  { s with tir := { s.tir with comps := tblUpd s.tir.comps k (fun c => { c with store := tblDel c.store b }) } }

/-- The clean bodies of a composition become COLD with COLD_KIND 1: how many. -/
def cleanToPeat (k : Nat) (s : State) : Nat × State :=
  let bs := (compBodies s k).filter (fun e => !e.2.dirty)
  (bs.length, bs.foldl (fun s e => toPeat k e.1 s) s)

/-- A composition of the borrower is LOST (R242): its clean bodies COLD, its dirty ones LOST, ALLOTMENT_LOST. A TIER.RETURN that waits ends with it. -/
def loseComp (k : Nat) (s : State) : State :=
  match tblGet? s.tir.comps k with
  | none => s
  | some c =>
    let dirty := ((compBodies s k).filter (fun e => e.2.dirty)).map (·.1)
    let owners := ((compBodies s k).map (fun e => e.2.ctx)).eraseDups
    let (n, s) := cleanToPeat k s
    let s := loseBodies dirty 2 s
    let s := { s with tir := { s.tir with comps := tblDel s.tir.comps k } }
    let s := endComp k c.lender false 3 s
    let s := raise .allotmentLost (owners.map Rcpt.ctx ++ [.ctx 0]) (leBytes 2 k ++ leBytes 2 c.lender ++ leBytes 4 n ++ leBytes 4 dirty.length) s
    match c.returnBy with
    | none => s
    | some oid => finish oid {} s

/-- A lender is unreachable: every composition on it is LOST, and a TIER.BORROW from it is undeliverable (R238, R242). -/
def lenderGone (node : Nat) (s : State) : State :=
  let s := ((s.tir.comps.filter (fun e => e.2.lender == node)).map (·.1)).foldl (fun s k => loseComp k s) s
  let waits := s.tir.borrowing.filter (fun e => e.2.lender == node)
  waits.foldl (fun s e => finish e.2.oid { status := .undeliverable } { s with tir := { s.tir with borrowing := tblDel s.tir.borrowing e.1 } }) s

/-- Sets the state of allotments. -/
def setAllots (ks : List Nat) (st : AllotState) (s : State) : State :=
  { s with tir := { s.tir with allots := tblMap s.tir.allots (fun k a => if ks.contains k then { a with state := st } else a) } }

/-- A composition's allotments are zeroed: its region, window and job end with it (R240). -/
def zeroLent (k cause : Nat) (s : State) : State :=
  match tblGet? s.tir.lent k with
  | none => s
  | some l =>
    let s := setAllots l.allots .zeroing s
    let s := { s with
      tir := { s.tir with lent := tblDel s.tir.lent k, regions := tblDel s.tir.regions l.region, allots := tblMap s.tir.allots (fun i a => if l.allots.contains i then { a with comp := none } else a) },
      trn := { s.trn with windows := tblDel s.trn.windows l.window, jobs := tblDel s.trn.jobs l.job } }
    endComp k l.borrower true cause s

/-- A borrower is unreachable: its LENT compositions are ORPHANED; those whose notice runs stay RECLAIMING (R240). -/
def borrowerGone (node : Nat) (s : State) : State :=
  (s.tir.lent.filter (fun e => e.2.borrower == node && e.2.orphanSince.isNone && e.2.noticeEnd.isNone)).foldl (fun s e =>
    let s := setAllots e.2.allots .orphaned s
    endComp e.1 node true 3 { s with tir := { s.tir with lent := tblUpd s.tir.lent e.1 (fun l => { l with orphanSince := some s.now }) } }) s

/-- A borrower has come back with another boot identity: its ORPHANED compositions are zeroed (R240). -/
def borrowerRestarted (node : Nat) (s : State) : State :=
  ((s.tir.lent.filter (fun e => e.2.borrower == node)).map (·.1)).foldl (fun s k => zeroLent k 3 s) s

/-! Drains (R492) -/

/-- The recipient of a drain's events. -/
def drainRcpt (s : State) : Rcpt := match s.hlt.drain.mgmt with | some m => .mgmt m | none => .ctx s.hlt.drain.issuer

/-- A drain fails: service resumes, DRAIN_FAILED, and HEALTH.DRAIN completes (R488, R489). -/
def failDrain (st : Status) (s : State) : State :=
  let d := s.hlt.drain
  match d.phase with
  | .copy | .catchUp | .quiesce | .ready =>
    let s := raise .drainFailed [drainRcpt s] (leBytes 2 d.standIn ++ leBytes 1 (drainPhaseCode d.phase) ++ leBytes 1 (statusCode st)) { s with hlt := { s.hlt with drain := { d with phase := .failed, oid := none } } }
    match d.oid with
    | none => s
    | some oid => finish oid { status := st } s
  | _ => s

/-! Stooks (R393, R400) -/

/-- The recipients of a stook's events: the node context, and each context with a coherent window. -/
def stookRcpts (s : State) : List Rcpt := .ctx 0 :: (s.trn.windows.filter (fun e => e.2.coherent)).map (fun e => .ctx e.2.ctx)

/-- A directory entry (R393): its state and its sharers or owner. -/
def dirState (e : Nat) : Nat := e / 256 % 4
def dirBits (e : Nat) : Nat := e % 256

/-- Whether two nodes are in one stook with equal lists (R392). -/
def inStook (s : State) (node : Nat) : Bool := s.trn.members.contains node && !s.trn.differs.contains node && s.oln.addr != some node

/-- The index of a member. -/
def memberIndex (s : State) (node : Nat) : Nat := (s.trn.members.findIdx? (· == node)).getD 8

/-- The EDA of a line of a window. -/
def windowEda (s : State) (w : Window) (off : Nat) : Nat :=
  match tblGet? s.tir.regions w.region with
  | none => 0
  | some r => regionEda r (w.off + off)

/-! Coherence at the home (R392-R394) -/

/-- The subtypes of COHERENCE in OP_FLAGS (log entry 30). -/
inductive CohKind where
  | getS | getM | putM | recall | inv | invAck | data | writeBack
deriving DecidableEq, Repr

def cohCode : CohKind → Nat
  | .getS => 1
  | .getM => 2
  | .putM => 3
  | .recall => 4
  | .inv => 5
  | .invAck => 6
  | .data => 7
  | .writeBack => 8

/-- Sends a COHERENCE message about a line between the node contexts. -/
def sendCoh (node : Nat) (kind : CohKind) (window line : Nat) (excl : Bool) (bytes : List Byte) (s : State) : State :=
  let op := match kind with | .invAck | .data | .writeBack => 0x88 | _ => 0x08
  sendData (slotKey 0 node 0) { frame := { blankFrame with op := op, opFlags := cohCode kind, window := window, offset := 64 * line, operand := b2n excl, payload := bytes }, cls := 0 } s

/-- The members of a sharer bitmap. -/
def membersOf (s : State) (bits : Nat) : List Nat := (List.range 8).filterMap (fun i => if bitOf bits i then s.trn.members[i]? else none)

/-- The members that hold a line against an access: the owner of an M line, and for a write every sharer, the asker apart. -/
def holders (s : State) (w : Window) (line : Nat) (excl : Bool) (asker : Option Nat) : List Nat :=
  let e := tblGetD w.dir line 0
  let l := if dirState e == 2 then (s.trn.members[dirBits e]?).toList else if dirState e == 1 && excl then membersOf s (dirBits e) else []
  l.filter (fun m => some m != asker)

/-- Sets a line's directory entry. -/
def setDir (window line e : Nat) (s : State) : State :=
  { s with trn := { s.trn with windows := tblUpd s.trn.windows window (fun w => { w with dir := if e == 0 then tblDel w.dir line else tblSet w.dir line e }) } }

/-- Sends the line to a member that asked for it, and enters it in the directory. -/
def sendLine (window line member : Nat) (excl : Bool) (s : State) : State :=
  match tblGet? s.trn.windows window with
  | none => s
  | some w =>
    let e := tblGetD w.dir line 0
    let i := memberIndex s member
    let now := if excl then 512 + i else 256 + ((if dirState e == 1 then dirBits e else 0) ||| 2 ^ i)
    sendCoh member .data window line excl (emberRead s (windowEda s w (64 * line)) 64).1 (setDir window line now s)

/-- Asks the holders of a line to give it up or back: RECALL to an owner, INV to sharers. -/
def askHolders (window line : Nat) (excl : Bool) (hs : List Nat) (s : State) : State :=
  match tblGet? s.trn.windows window with
  | none => s
  | some w =>
    let kind := if dirState (tblGetD w.dir line 0) == 2 then CohKind.recall else .inv
    hs.foldl (fun s m => sendCoh m kind window line excl [] s) s

/-- Begins to wait for a line, or waits behind one who does. -/
def waitLine (window line : Nat) (excl : Bool) (hs : List Nat) (next : CohThen) (s : State) : State :=
  let same := fun (w : CohWait) => w.window == window && w.line == line
  if s.trn.cohWaits.any same then { s with trn := { s.trn with cohWaits := updFirst same (fun w => { w with later := w.later ++ [(excl, next)] }) s.trn.cohWaits } }
  else askHolders window line excl hs { s with trn := { s.trn with cohWaits := s.trn.cohWaits ++ [{ window := window, line := line, from_ := hs, excl := excl, next := next }] } }

/-! A member is gone (R400) -/

/-- What waited for a line goes on once the member `gone` no longer keeps it: a frame is again one that has been delivered and not accepted, and what the member itself asked for is dropped (log entry 47). -/
def resumeLine (gone window line : Nat) (t : CohThen) (s : State) : State :=
  match t with
  | .get m excl => if m == gone then s else sendLine window line m excl s
  | .access eda data bad => emberWriteP eda data bad s
  | .frame o => { s with trn := { s.trn with arrived := s.trn.arrived ++ [{ port := 0, out := o }] } }

/-- Resumes what waited behind, or lets it wait for the holders that the line has now. -/
def resumeLater (gone window line : Nat) (s : State) (e : Bool × CohThen) : State :=
  match tblGet? s.trn.windows window with
  | none => s
  | some w =>
    let hs := holders s w line e.1 (match e.2 with | .get m _ => some m | _ => none)
    if hs.isEmpty && !s.trn.cohWaits.any (fun x => x.window == window && x.line == line) then resumeLine gone window line e.2 s
    else waitLine window line e.1 hs e.2 s

/-- The waits for lines in which only a member that is gone still had to answer. -/
def resumeWaits (node : Nat) (s : State) : State :=
  let waits := s.trn.cohWaits.map (fun w => { w with from_ := setDel w.from_ node })
  let s := { s with trn := { s.trn with cohWaits := waits.filter (fun w => !w.from_.isEmpty) } }
  (waits.filter (fun w => w.from_.isEmpty)).foldl (fun s w => w.later.foldl (resumeLater node w.window w.line) (resumeLine node w.window w.line w.next s)) s

/-- A member is gone: every home clears it from its directories and poisons the lines that it held in M; the node drops the lines of its windows (R400). -/
def memberGone (node : Nat) (s : State) : State :=
  if !s.trn.members.contains node || s.oln.addr == some node then s
  else
    let i := memberIndex s node
    let dst := stookRcpts s
    let s := s.trn.windows.foldl (fun s (k, w) =>
      if !w.coherent then s
      else
        let owned := w.dir.filter (fun e => dirState e.2 == 2 && dirBits e.2 == i)
        let dir := (tblMap w.dir (fun _ e => if dirState e == 1 then (let b := dirBits e &&& (255 - 2 ^ i); if b == 0 then 0 else b + 256) else if dirState e == 2 && dirBits e == i then 0 else e)).filter (fun e => e.2 != 0)
        let s := owned.foldl (fun s e => setPoison (windowEda s w (64 * e.1) / 64) true s) s
        let s := { s with trn := { s.trn with windows := tblSet s.trn.windows k { w with dir := dir } } }
        if owned.isEmpty then s else raise .coherentLineLost dst (leBytes 2 k ++ zeros 2 ++ leBytes 4 owned.length) s) s
    let mine := s.trn.cache.filter (fun l => l.home == node)
    let lost := (mine.filter (·.owned)).map (·.window)
    let s := { s with trn := { s.trn with cache := s.trn.cache.filter (fun l => l.home != node), cohPends := s.trn.cohPends.filter (fun p => p.home != node) } }
    let s := lost.eraseDups.foldl (fun s w => raise .coherentLineLost dst (leBytes 2 w ++ zeros 2 ++ leBytes 4 (lost.filter (· == w)).length) s) s
    raise .stookMemberLost dst (leBytes 2 node) (resumeWaits node s)

/-! The end of a flow (R396-R398) -/

/-- Why a peer's flows end. -/
inductive Gone where
  | unreachable
  | restarted (boot : Nat)
  | moved (epoch : Nat)
deriving DecidableEq, Repr

/-- Ends the operations of a slot with UNDELIVERABLE: how many. -/
def endOps (k : Nat) (s : State) : Nat × State :=
  let tags := (s.trn.ops.filter (fun e => e.2.key == k)).map (·.1)
  (tags.length, tags.foldl (fun s t => endOp t (.lost .undeliverable) s) s)

/-- The contexts with a slot to a slot's peer, in ascending order of their slots (R406). -/
def peerRcpts (s : State) (k : Nat) : List Rcpt := (s.trn.slots.filter (fun e => keyNode e.1 == keyNode k && keyRctx e.1 == keyRctx k)).map (fun e => .ctx (keyCtx e.1))

/-- Ends a slot: its operations, its frames, its partly received message; it takes a new epoch, and its inbound half is forgotten where the peer is another one (R396-R398). -/
def endSlot (k : Nat) (why : Gone) (s : State) : State :=
  match getSlot? s k with
  | none => s
  | some x =>
    let (n, s) := endOps k s
    let detail := leBytes 2 (keyNode k) ++ leBytes 2 (keyRctx k) ++ leBytes 4 n
    let keep := why == .unreachable
    let y := (getSlot? (freshSlot k { s with trn := { s.trn with tombs := tblDel s.trn.tombs k } }) k).getD x
    let s := setSlot k { y with inEpoch := if keep then x.inEpoch else none, expected := if keep then x.expected else 0, peerBoot := match why with | .restarted b => some b | .moved _ => none | .unreachable => x.peerBoot } { s with trn := { s.trn with epochs := s.trn.epochs + 1 } }
    match why with
    | .unreachable => raise .peerUnreachable (peerRcpts s k) detail s
    | .restarted b => raise .peerRestarted [.ctx (keyCtx k)] (detail ++ leBytes 2 b) s
    | .moved e => raise .peerAddressMoved [.ctx (keyCtx k)] (detail ++ leBytes 4 e) s

/-- What follows for compositions, stooks and a drain when a node is gone. -/
def nodeGone (node : Nat) (s : State) : State :=
  let s := memberGone node (borrowerGone node (lenderGone node s))
  if s.hlt.drain.standIn == node then failDrain .undeliverable s else s

/-- One flow's peer is unreachable (R396). A lender, a borrower or a stand-in is judged by the flow between the node contexts. -/
def peerUnreachable (k : Nat) (s : State) : State :=
  let s := endSlot k .unreachable s
  settleWork (if keyCtx k == 0 && keyRctx k == 0 then nodeGone (keyNode k) s else if s.trn.members.contains (keyNode k) then memberGone (keyNode k) s else s)

/-- Every slot to a node ends (R397), and what its old boot sends is discarded from now on (R398). -/
def endNode (node : Nat) (why : Gone) (s : State) : State :=
  let ks := (s.trn.slots.filter (fun e => keyNode e.1 == node)).map (·.1)
  let boots := (s.trn.slots.filter (fun e => keyNode e.1 == node)).filterMap (fun e => e.2.peerBoot)
  let old := boots.eraseDups.map (fun b => (node, b))
  let s := { s with trn := { s.trn with dead := s.trn.dead ++ old.filter (fun d => !s.trn.dead.contains d), tombs := s.trn.tombs.filter (fun e => keyNode e.1 != node) } }
  let s := ks.foldl (fun s k => endSlot k why s) s
  let s := nodeGone node s
  settleWork (match why with | .restarted _ => borrowerRestarted node s | _ => s)

end Sys2Proof.Machine
end

