-- ==== Sys2Proof/Machine/TransportOps.lean ====
section
/-! DEFINITION. Receiving on a flow (R367-R376, R396-R399): what becomes of a frame before its operation is acted on, acknowledgements, the window; checks of remote accesses (R381, R449, R450); coherence at the home (R393). -/

namespace Sys2Proof.Machine

/-! Acknowledgements and the window (R371, R372, R376) -/

/-- `a` precedes `b` in serial order (R369). -/
def precedes (a b : Nat) : Bool := !serialGe 32 a b

/-- The retransmission timeout in ns: the base of R372, doubled for each timeout without progress. -/
def rtoNs (s : State) (x : Slot) : Nat :=
  min (olnenParam s 0x13 * us) (max (olnenParam s 0x12 * us) (x.srtt + 4 * x.rttvar) * 2 ^ x.timeouts)

/-- `(a - b) / d` for signed differences, rounded towards zero, added to `x`. -/
def towards (x a b d : Nat) : Nat := if b ≤ a then x + (a - b) / d else x - (b - a) / d

/-- The update of R376 from one sample, in ns and bytes. -/
def sampleWindow (s : State) (rtt acked : Nat) (x : Slot) : Slot :=
  let srtt := if x.sampled then towards x.srtt rtt x.srtt 8 else rtt
  let dev := if srtt ≤ rtt then rtt - srtt else srtt - rtt
  let rttvar := if x.sampled then towards x.rttvar dev x.rttvar 4 else rtt / 2
  let rtts := (s.now, rtt) :: x.rtts.filter (fun e => decide (s.now ≤ e.1 + 10 * ms))
  let base := rtts.foldl (fun m e => min m e.2) rtt
  let target := base + olnenParam s 0x15 * us
  let most := olnenParam s 0x17 * 1024
  let x := { x with srtt := srtt, rttvar := rttvar, sampled := true, rtts := rtts }
  if rtt ≤ target then { x with cwnd := max 512 (min most (x.cwnd + olnenParam s 0x18 * acked / max 1 x.cwnd)) }
  else if x.decreased + srtt ≤ s.now then
    { x with cwnd := max 512 (min most (max (x.cwnd * (10 * rtt - 8 * (rtt - target)) / (10 * rtt)) (x.cwnd / 2))), decreased := s.now }
  else x

/-- What an acknowledged frame means for its operation. -/
def ackedFrame (o : OutFrame) (s : State) : State :=
  match o.frame.op with
  | 0x02 | 0x04 | 0x05 => endOp o.frame.tag (.good 0) s
  | 0x03 => flagsNote o.frame.tag false s
  | _ => s

/-- Takes in the acknowledgement that a frame carries (R371): frames before ACK_SEQ leave the slot, the window is updated, and the flow sends on. -/
def takeAck (k : Nat) (f : TFrame) (s : State) : State :=
  match getSlot? s k with
  | none => s
  | some x =>
    if !f.ackValid || f.echoEpoch != x.epoch then s
    else
      let done := x.unacked.takeWhile (fun o => precedes o.frame.seq f.ackSeq)
      if done.isEmpty then s
      else
        let rtt := (fabricTime s + 2 ^ 32 - f.echoTime % 2 ^ 32) % 2 ^ 32
        let bytes := sumN (done.map (fun o => transportBytes o.frame))
        let x := sampleWindow s rtt bytes { x with unacked := x.unacked.drop done.length, timeouts := 0, progress := s.now, pacedUntil := none }
        pump k (done.foldl (fun s o => ackedFrame o s) (setSlot k x s))

/-! Frames that are dropped, unknown or old (R367, R370, R373, R397, R398) -/

/-- Takes a frame from those delivered: the port and class it came with. -/
def takeArrived (f : TFrame) (s : State) : Nat × Nat × State :=
  match s.trn.arrived.find? (fun a => a.out.frame == f) with
  | none => (0, 0, s)
  | some a => (a.port, a.out.cls, { s with trn := { s.trn with arrived := removeFirst (fun a => a.out.frame == f) s.trn.arrived } })

/-- Drops a frame, counted in E2E_DROPS; a CRC failure raises E2E_CRC_ERROR (R367). -/
def dropFrame (port : Nat) (f : TFrame) (inj crc : Bool) (s : State) : State :=
  let s := { s with trn := { s.trn with e2eDrops := s.trn.e2eDrops + 1 } }
  if crc then raiseLimited .e2eCrcError inj 0 sec [.ctx 0] (leBytes 2 f.srcNode ++ leBytes 1 port) s else s

/-- The checks that come before any state of a flow: whether the frame goes on. -/
def screen (port cls : Nat) (f : TFrame) (s : State) : Bool × State :=
  let (fired, s) := sparkCheck 0x0A06 port s
  if f.version != 1 || f.typ == 0 || 5 ≤ f.typ then (false, dropFrame port f false false s)
  else if !f.crcOk || fired.isSome then (false, dropFrame port f fired.isSome true s)
  else if s.oln.addr != some f.dstNode then (false, if f.typ == 1 then sendFrom f.dstNode (slotKey f.dstCtx f.srcNode f.srcCtx) cls { blankFrame with typ := 3, opFlags := 5 } s else s)
  else if s.trn.dead.contains (f.srcNode, f.srcBoot) then (false, s)
  else if s.trn.slots.any (fun e => keyNode e.1 == f.srcNode && (match e.2.peerBoot with | some b => b != f.srcBoot | none => false)) then (true, endNode f.srcNode (.restarted f.srcBoot) s)
  else (true, s)

/-- How a DATA frame stands against its inbound half. -/
inductive Standing where
  | next | duplicate | gap | old | resync | noSlot
deriving DecidableEq, Repr

/-- Finds or makes the slot of a DATA frame, takes a SYN in, and says how the frame stands (R364-R366, R370, R375). -/
def standing (k : Nat) (f : TFrame) (s : State) : Standing × State :=
  let known := tblHas s.trn.slots k || tblHas s.trn.tombs k
  if !known && !f.syn then (.resync, s)
  else match openSlot k s with
  | none => (.noSlot, s)
  | some s =>
    match getSlot? s k with
    | none => (.noSlot, s)
    | some x =>
      let x := { x with peerBoot := some f.srcBoot }
      let take := fun (s : State) => (Standing.next, setSlot k { x with inEpoch := some f.slotEpoch, expected := f.seq, part := none } s)
      match x.inEpoch with
      | none => if f.syn then take s else (.resync, s)
      | some e =>
        if e != f.slotEpoch then (if serialGe 16 e f.slotEpoch then (.old, s) else if f.syn then take s else (.resync, s))
        else
          let s := setSlot k x s
          if f.seq == x.expected then (.next, s) else if precedes f.seq x.expected then (.duplicate, s) else (.gap, s)

/-- What acting on a frame comes to: accepted, no room for it, or held until its line is free. -/
inductive Verdict where
  | accept
  | busy (backoff : Nat)
  | hold
deriving DecidableEq, Repr

/-- The operations that R377 names. -/
def definedOps : List Nat := [0x01, 0x02, 0x03, 0x04, 0x05, 0x06, 0x07, 0x08, 0x81, 0x82, 0x83, 0x86, 0x87, 0x88]

/-- Answers a request on the reverse flow, under its TAG, protected when the request was or the context requires it (R377, R450). -/
def respond (k cls : Nat) (req : TFrame) (f : TFrame) (s : State) : State :=
  let ctx := keyCtx k
  let f := { f with tag := req.tag, job := req.job, window := req.window }
  if req.prot || mustProtect s ctx then
    match sealPayload (fabricSlot s ctx (some req.job)) f.payload s with
    | some (p, s) => sendData k { frame := { f with prot := true, payload := p }, cls := cls } s
    | none => s
  else sendData k { frame := f, cls := cls } s

/-- Answers a request with a FAULT (R377). -/
def fault (k cls : Nat) (req : TFrame) (st : Status) (s : State) : State := respond k cls req { blankFrame with op := 0x82, status := statusCode st } s

/-- A frame acted on: accepted and acknowledged, refused by NACK BUSY, or held. -/
def actOn (k : Nat) (o : OutFrame) (act : Nat → OutFrame → State → Verdict × State) (s : State) : State :=
  match (if definedOps.contains o.frame.op then act k o s else (.accept, fault k o.cls o.frame .invalidOpcode s)) with
  | (.accept, s) => takeAck k o.frame (tenantAdd (keyCtx k) (fun t => { t with fabricRx := (t.fabricRx + o.frame.payload.length) % 2 ^ 64 }) (noteAccepted k o s))
  | (.busy b, s) => sendNack k o.cls 3 b s
  | (.hold, s) => s

/-- Receives a DATA frame for a row: `mine` says whether the OP is the row's. -/
def receive (mine : Nat → Bool) (f : TFrame) (act : Nat → OutFrame → State → Verdict × State) (s : State) : State :=
  if f.typ != 1 || (definedOps.contains f.op && !mine f.op) then s
  else
    let (port, cls, s) := takeArrived f s
    match screen port cls f s with
    | (false, s) => s
    | (true, s) =>
      let k := slotKey f.dstCtx f.srcNode f.srcCtx
      match standing k f s with
      | (.next, s) => actOn k { frame := f, cls := cls } act s
      | (.duplicate, s) => sendAck k (takeAck k f s)
      | (.gap, s) =>
        match getSlot? s k with
        | none => s
        | some x =>
          let due := match x.gapSent with | none => true | some t => decide (t + x.srtt ≤ s.now)
          if due then sendNack k cls 1 0 (setSlot k { x with gapSent := some s.now } s) else s
      | (.old, s) => s
      | (.resync, s) => sendNack k cls 2 0 s
      | (.noSlot, s) => sendNack k cls 4 50 (slotsExhausted s)

/-! Checks of a remote access (R381, R394, R449, R450) -/

/-- Whether the protection of a frame verifies: the slot that its JOB or its context names, the sender in its binding group, the tag (R450). -/
def protOk (slot : Nat) (f : TFrame) (s : State) : Bool × State :=
  let (fired, s) := sparkCheck 0x0C01 0 s
  let ok := inGroup s slot (getU f.payload 0 16)
  (ok && f.tagOk && fired.isNone, s)

/-- The slot that verifies a frame under a job: the one that KEY.BIND_JOB has bound. -/
def jobSlot (s : State) (job : Nat) : Nat := (tblGet? s.sec.jobKeys job).getD 0xFFFF

/-- REMOTE_ACCESS_DENIED to the window's context, at most once per second per window. -/
def denied (f : TFrame) (st : Status) (s : State) : State :=
  match tblGet? s.trn.windows f.window with
  | none => s
  | some w => raiseLimited .remoteAccessDenied false f.window sec [.ctx w.ctx] (leBytes 2 f.srcNode ++ leBytes 2 f.srcCtx ++ leBytes 1 (statusCode st) ++ zeros 1 ++ leBytes 2 f.window) s

/-- The first two checks of R381: the job, and its members. -/
def jobCheck (s : State) (f : TFrame) : Except Status Job :=
  match tblGet? s.trn.jobs f.job with
  | none => .error .permission
  | some j => if j.ctx != f.dstCtx || !j.members.contains (f.srcNode, f.srcCtx) then .error .permission else .ok j

/-- The window that an access may use, by the checks of R381 down to its range: right needed, bytes of the access. -/
def windowCheck (s : State) (f : TFrame) (right : Window → Bool) (spans : List (Nat × Nat)) : Except Status (Window × Region) :=
  match jobCheck s f with
  | .error e => .error e
  | .ok _ =>
    match tblGet? s.trn.windows f.window with
    | none => .error .notFound
    | some w =>
      match tblGet? s.tir.regions w.region with
      | none => .error .notFound
      | some r =>
        if w.job != f.job || !right w then .error .permission
        else if spans.any (fun x => decide (w.len < x.1 + x.2)) then .error .badAddress
        else .ok (w, r)

/-- The last check of R381, with what R450 asks of a frame. -/
def protCheck (f : TFrame) (need : Bool) (slot : Nat) (s : State) : Option Status × State :=
  if f.prot then (let (ok, s) := protOk slot f s; (if ok then none else some .authFailed, s))
  else (if need then some .permission else none, s)

/-- Refuses an operation: acknowledged, no effect, answered by FAULT, reported. -/
def refuse (k : Nat) (o : OutFrame) (st : Status) (s : State) : Verdict × State := (.accept, fault k o.cls o.frame st (denied o.frame st s))

/-! Held frames (R393, R394) -/

/-- Whether a frame is held already for a line. -/
def isHeldFrame (s : State) (o : OutFrame) : Bool :=
  let is := fun (n : CohThen) => match n with | .frame p => p.frame.seq == o.frame.seq && p.frame.srcNode == o.frame.srcNode && p.frame.srcCtx == o.frame.srcCtx && p.frame.dstCtx == o.frame.dstCtx | _ => false
  s.trn.cohWaits.any (fun w => is w.next || w.later.any (fun e => is e.2))

/-- The lines that an access of a window touches. -/
def windowLines (off n : Nat) : List Nat := linesOf off n

/-- The first line of an access that members hold against it, with them. -/
def heldLine (s : State) (w : Window) (off n : Nat) (excl : Bool) : Option (Nat × List Nat) :=
  (windowLines off n).findSome? (fun l => let hs := holders s w l excl none; if hs.isEmpty then none else some (l, hs))

/-- Lets an access of a coherent window pass, or holds its frame until the lines are free (R393, R394). -/
def cohGate (f : OutFrame) (w : Window) (off n : Nat) (excl : Bool) (pass : State → Verdict × State) (s : State) : Verdict × State :=
  if !w.coherent || (!excl && !inStook s f.frame.srcNode) then pass s
  else if isHeldFrame s f then (.hold, s)
  else match heldLine s w off n excl with
  | none => pass s
  | some (l, hs) => (.hold, waitLine f.frame.window l excl hs (.frame f) s)

end Sys2Proof.Machine
end

