-- ==== Sys2Proof/Machine/Transport.lean ====
section
/-! DEFINITION. The rows of the transport's received frames, timers and coherence (file 12). -/

namespace Sys2Proof.Machine

/-! ACK, NACK and NOTICE frames (R371-R375, R392, R401) -/

/-- Receives a frame that is not DATA, for an open slot. -/
def control (typ : Nat) (ok : TFrame → Bool) (f : TFrame) (act : Nat → Slot → State → State) (s : State) : State :=
  if f.typ != typ || !ok f then s
  else
    let (port, cls, s) := takeArrived f s
    match screen port cls f s with
    | (false, s) => s
    | (true, s) =>
      let k := slotKey f.dstCtx f.srcNode f.srcCtx
      match getSlot? s k with
      | none => s
      | some x => act k x s

/-- TRANSPORT_ACK_RECEIVE (R371, R376). -/
def execTransportAckReceive (f : TFrame) (s : State) : Host.Outcome State Fault Refusal :=
  .next (control 2 (fun _ => true) f (fun k _ s => retrySlots (settleWork (takeAck k f s))) s)

/-- NACK_GAP (R372, R373): resends from ACK_SEQ, at most once per SRTT. -/
def execNackGap (f : TFrame) (s : State) : Host.Outcome State Fault Refusal :=
  .next (control 3 (fun f => f.opFlags == 1) f (fun k x s =>
    let s := takeAck k f s
    let due := match x.gapAt with | none => true | some t => decide (t + x.srtt ≤ s.now)
    settleWork (if due then resendFlow k false (modSlot k (fun x => { x with gapAt := some s.now }) s) else s)) s)

/-- NACK_RESYNC (R375, R397): resends with SYN to the same boot identity; another one means that the peer has restarted. -/
def execNackResync (f : TFrame) (s : State) : Host.Outcome State Fault Refusal :=
  .next (control 3 (fun f => f.opFlags == 2) f (fun k x s =>
    match x.peerBoot with
    | some b => if b == f.srcBoot then resendFlow k true s else endNode f.srcNode (.restarted f.srcBoot) s
    | none => resendFlow k true s) s)

/-- A back-off: the flow's frames are resent when it is over (R373). -/
def backOff (k : Nat) (f : TFrame) (s : State) : State :=
  settleWork (modSlot k (fun x => { x with holdUntil := s.now + f.operand % 2 ^ 32 * us, resendDue := true, progress := s.now + f.operand % 2 ^ 32 * us }) (takeAck k f s))

/-- NACK_BUSY (R373). -/
def execNackBusy (f : TFrame) (s : State) : Host.Outcome State Fault Refusal := .next (control 3 (fun f => f.opFlags == 3) f (fun k _ s => backOff k f s) s)

/-- NACK_NO_SLOT (R366, R373). -/
def execNackNoSlot (f : TFrame) (s : State) : Host.Outcome State Fault Refusal := .next (control 3 (fun f => f.opFlags == 4) f (fun k _ s => backOff k f s) s)

/-- NACK_NOT_HOLDER (R373, R396). -/
def execNackNotHolder (f : TFrame) (s : State) : Host.Outcome State Fault Refusal := .next (control 3 (fun f => f.opFlags == 5) f (fun k _ s => peerUnreachable k s) s)

/-- NOTICE_SHUTDOWN (R401): the flow ends at once. -/
def execNoticeShutdown (f : TFrame) (s : State) : Host.Outcome State Fault Refusal := .next (control 4 (fun f => f.opFlags == 1) f (fun k _ s => peerUnreachable k s) s)

/-- The addresses of a stook list. -/
def stookList (bs : List Byte) : List Nat := (List.range (bs.length / 2)).map (fun i => getU bs (2 * i) 2 % 4096)

/-- NOTICE_STOOK_LIST (R392): a member's list is compared with the node's own. -/
def execNoticeStookList (f : TFrame) (s : State) : Host.Outcome State Fault Refusal :=
  .next (if f.typ != 4 || f.opFlags != 2 then s
  else
    let (port, cls, s) := takeArrived f s
    match screen port cls f s with
    | (false, s) => s
    | (true, s) =>
      if !s.trn.members.contains f.srcNode then s
      else if stookList f.payload == s.trn.members then { s with trn := { s.trn with differs := setDel s.trn.differs f.srcNode } }
      else raise .stookMismatch (stookRcpts s) (leBytes 2 f.srcNode ++ leBytes 1 s.oln.stook) { s with trn := { s.trn with differs := setAdd s.trn.differs f.srcNode } })

/-! LOAD, STORE, ATOMIC, COUNTER_ADD (R377, R378, R381, R386-R390) -/

/-- Whether a request of this kind lacks the protection that its context demands (R450). -/
def lacksProt (s : State) (f : TFrame) : Bool := mustProtect s f.dstCtx && !f.prot

/-- The bytes that a LOAD asks for. -/
def loadLen (f : TFrame) : Nat := f.operand % 2 ^ 13

/-- The waits of a LOAD's bytes behind the rows that a plough operation holds. -/
def loadWaits (f : TFrame) (w : Window) (r : Region) (s : State) : State := (regionRuns r (w.off + f.offset) (loadLen f)).foldl (fun s e => countWaits false e.1 e.2 s) s

/-- The bytes of a LOAD, and whether they cannot be read. -/
def loadBytes (f : TFrame) (w : Window) (r : Region) (s : State) : List Byte × Bool := regionRead s r (w.off + f.offset) (loadLen f)

/-- Whether a LOAD may take the bytes of a region: decrypted weights go out only protected, to a member of their slot's binding group (R451). -/
def mayLoad (s : State) (f : TFrame) (region : Nat) : Bool :=
  match tblGet? s.sec.weights region with
  | none => true
  | some slot => f.prot && inGroup s slot (getU f.payload 0 16)

/-- A LOAD: its checks, its data, LOAD_DATA. -/
def loadAct (k : Nat) (o : OutFrame) (s : State) : Verdict × State :=
  let f := o.frame
  let n := loadLen f
  if n < 8 || 4096 < n || n % 8 != 0 then refuse k o .badParameter s
  else match windowCheck s f (·.read) [(f.offset, n)] with
  | .error e => refuse k o e s
  | .ok (w, r) =>
    match protCheck f r.prot (jobSlot s f.job) s with
    | (some e, s) => refuse k o e s
    | (none, s) => if !mayLoad s f w.region then refuse k o .permission s else cohGate o w f.offset n false (fun s =>
        let s := loadWaits f w r s
        let (bs, bad) := loadBytes f w r s
        if bad then (.accept, fault k o.cls f .memoryError s)
        else (.accept, respond k o.cls f { blankFrame with op := 0x81, payload := bs } s)) s

/-- The counter that a STORE or COUNTER_ADD names, and whether its context may (R389). -/
def counterOk (s : State) (f : TFrame) : Bool :=
  let c := f.msgLen % 2 ^ 16
  c == 0xFFFF || tblGet? s.trn.counterOwner c == some f.dstCtx

/-- The data of a STORE: what follows the offset of the flag word in a flagged one (log entry 31). -/
def storeData (f : TFrame) : List Byte := if f.flagged then (openPayload f).drop 8 else openPayload f

/-- The spans of the window that a STORE writes: its data, and the flag word. -/
def storeSpans (f : TFrame) : List (Nat × Nat) :=
  if f.flagged then [(f.offset, (storeData f).length), (getU (openPayload f) 0 8, 8)] else [(f.offset, (storeData f).length)]

/-- A STORE lands: its data, then the flag word, its counter in the same step (R387-R390). -/
def storeLand (f : TFrame) (w : Window) (r : Region) (s : State) : State :=
  let s := regionWriteP r (w.off + f.offset) (storeData f) false s
  let s := if f.flagged then regionWriteP r (w.off + getU (openPayload f) 0 8) (leBytes 8 f.operand) false s else s
  if f.flagged then s else addCounter (f.msgLen % 2 ^ 16) (storeData f).length s

/-- Whether a STORE or ATOMIC may change a window: a COHERENT one takes them from the stook alone. -/
def mayStore (s : State) (f : TFrame) (w : Window) : Bool := w.write && (!w.coherent || inStook s f.srcNode)

def mayAtomic (s : State) (f : TFrame) (w : Window) : Bool := w.atomic && (!w.coherent || inStook s f.srcNode)

/-- A STORE: its checks, its data, the flag word after them, its counter in the same step. A flagged one carries the offset of its flag word in the first 8 bytes of its payload and the flag in OPERAND (log entry 31). -/
def storeAct (k : Nat) (o : OutFrame) (s : State) : Verdict × State :=
  let f := o.frame
  if lacksProt s f then refuse k o .permission s
  else match windowCheck s f (mayStore s f) (storeSpans f) with
  | .error e => refuse k o e s
  | .ok (w, r) =>
    match protCheck f r.prot (jobSlot s f.job) s with
    | (some e, s) => refuse k o e s
    | (none, s) =>
      if !counterOk s f then refuse k o .permission s
      else cohGate o w f.offset (storeData f).length true (fun s => (.accept, storeLand f w r s)) s

/-- The new value of an atomic (R377). -/
def atomicOp (aop old operand swap : Nat) : Nat :=
  match aop with
  | 0 => (old + operand) % 2 ^ 64
  | 1 => old &&& operand
  | 2 => old ||| operand
  | 3 => old ^^^ operand
  | 4 => operand
  | 5 => if old == operand then swap else old
  | 6 => max old operand
  | _ => min old operand

/-- An ATOMIC changes the word `old` (R377). -/
def atomicLand (f : TFrame) (w : Window) (r : Region) (old : List Byte) (s : State) : State :=
  regionWriteP r (w.off + f.offset) (leBytes 8 (atomicOp (f.opFlags % 8) (leNat old) f.operand (getU (openPayload f) 0 8))) false s

/-- An ATOMIC on an 8-byte aligned word. -/
def atomicAct (k : Nat) (o : OutFrame) (s : State) : Verdict × State :=
  let f := o.frame
  if lacksProt s f then refuse k o .permission s
  else match windowCheck s f (mayAtomic s f) [(f.offset, 8)] with
  | .error e => refuse k o e s
  | .ok (w, r) =>
    if f.offset % 8 != 0 then refuse k o .badAddress s
    else match protCheck f r.prot (jobSlot s f.job) s with
    | (some e, s) => refuse k o e s
    | (none, s) => cohGate o w f.offset 8 true (fun s =>
        let (bs, bad) := regionRead s r (w.off + f.offset) 8
        if bad then (.accept, fault k o.cls f .memoryError s)
        else (.accept, respond k o.cls f { blankFrame with op := 0x83, payload := bs } (atomicLand f w r bs s))) s

/-- OP_LOAD (R377, R378, R381, R394). -/
def execOpLoad (f : TFrame) (s : State) : Host.Outcome State Fault Refusal := .next (settleWork (receive (· == 0x01) f loadAct s))

/-- OP_STORE (R377, R378, R381, R386-R390). -/
def execOpStore (f : TFrame) (s : State) : Host.Outcome State Fault Refusal := .next (settleWork (receive (· == 0x02) f storeAct s))

/-- OP_ATOMIC (R377, R378, R381). -/
def execOpAtomic (f : TFrame) (s : State) : Host.Outcome State Fault Refusal := .next (settleWork (receive (· == 0x03) f atomicAct s))

/-- OP_COUNTER_ADD (R377, R389, R390). -/
def execOpCounterAdd (f : TFrame) (s : State) : Host.Outcome State Fault Refusal :=
  .next (settleWork (receive (· == 0x04) f (fun k o s =>
    let f := o.frame
    if tblGet? s.trn.counterOwner (f.msgLen % 2 ^ 16) != some f.dstCtx then (.accept, fault k o.cls f .permission s)
    else (.accept, addCounter (f.msgLen % 2 ^ 16) f.operand s)) s))

/-- The mark of a thread that waits for a message and not for an operation. -/
def msgWait : Nat := 2 ^ 16

/-- The core and the thread that a CORE_MSG names. -/
def msgCore (f : TFrame) : Nat := f.offset % 128

def msgThread (f : TFrame) : Nat := f.offset / 256 % 4

/-- Whether that thread runs a program of the frame's context. -/
def msgTaken (s : State) (f : TFrame) : Bool :=
  s.fld.runs.any (fun e => e.2.ctx == f.dstCtx && bitOf e.2.threads (msgThread f) && e.2.ranks.any (fun x => x.core == msgCore f && x.started && !x.lost))

/-- A CORE_MSG is placed in its thread's queue; a thread that waits for a message goes on. -/
def placeMsg (f : TFrame) (s : State) : State :=
  let m : MeshMsg := { srcCore := 127, srcThread := 0, dstCore := msgCore f, dstThread := msgThread f, tag := f.tag, seq := f.seq, payload := openPayload f }
  let s := { s with trn := { s.trn with blocked := s.trn.blocked.filter (fun b => b != (msgCore f, msgThread f, msgWait)) } }
  receiveMsg (msgCore f) (msgThread f) m s

/-- OP_CORE_MSG (R377, R399, R450): placed in a thread that runs a program of DST_CTX, or UNDELIVERABLE. -/
def execOpCoreMsg (f : TFrame) (s : State) : Host.Outcome State Fault Refusal :=
  .next (settleWork (receive (· == 0x05) f (fun k o s =>
    let f := o.frame
    let runs := msgTaken s f
    if lacksProt s f then (.accept, fault k o.cls f .permission s)
    else match (if f.prot then protCheck f false (fabricSlot s f.dstCtx (some f.job)) s else (none, s)) with
    | (some e, s) => (.accept, fault k o.cls f e s)
    | (none, s) =>
      let q := tblGetD (getCore s (msgCore f)).rxq (msgThread f) []
      if 72 ≤ msgCore f || !reachable s (msgCore f) || !runs || 4096 < (openPayload f).length then (.accept, fault k o.cls f .undeliverable s)
      else if 63 ≤ q.length then (.busy 10, s)
      else (.accept, placeMsg f s)) s))

/-! COMMAND messages (R382-R384, R431, R491) -/

/-- Bytes of the remote command area that messages hold. -/
def stagedBytes (s : State) : Nat :=
  sumN (s.trn.rqueues.map (fun e => sumN (e.2.map (fun r => 64 + r.cmd.inLen)))) + sumN (s.trn.slots.map (fun e => match e.2.part with | some p => p.len | none => 0))

/-- The back-off of a full queue in µs, as the node estimates it, at least 10. -/
def queueBackoff (s : State) : Nat × State := let (n, s) := fresh s; (max 10 (Config.hint n), s)

/-- A whole COMMAND message goes into its context's queue; a context that is not resident answers BAD_CONTEXT. -/
def queueCommand (o : OutFrame) (msg : List Byte) (s : State) : State :=
  let f := o.frame
  let c := { cmdOf (.remote f.srcNode f.srcCtx f.dstCtx f.tag) (msg.take 64) (msg.drop 64) with inDevice := false, outDevice := false, inAddr := 0, outAddr := 0 }
  let s := if f.prot then { s with trn := { s.trn with protCmds := s.trn.protCmds ++ [(f.srcNode, f.srcCtx, f.dstCtx, f.tag)] } } else s
  match getCtx? s f.dstCtx with
  | none => sendDone f.srcNode f.srcCtx f.dstCtx f.tag (recordBytes c { status := .badContext } true 0 0) s
  | some x =>
    if !x.resident then sendDone f.srcNode f.srcCtx f.dstCtx f.tag (recordBytes c { status := .badContext } true 0 0) s
    else { s with trn := { s.trn with rqueues := tblMod s.trn.rqueues f.dstCtx [] (fun q => q ++ [{ cmd := c, cls := o.cls }]) } }

/-- A frame of a COMMAND message. -/
def commandAct (k : Nat) (o : OutFrame) (s : State) : Verdict × State :=
  let f := o.frame
  let first := f.offset == 0
  let drop := fun (st : Status) (s : State) => if first then (Verdict.accept, fault k o.cls f st (denied f st s)) else (.accept, s)
  if drainHolds s then (.busy 1000, s)
  else if s.mod.stopping || s.mod.shutdown then let (b, s) := queueBackoff s; (.busy b, s)
  else if lacksProt s f then drop .permission s
  else match jobCheck s f with
  | .error e => drop e s
  | .ok j =>
    if !j.command then drop .permission s
    else if f.msgLen < 64 || 64 + 2 ^ 24 < f.msgLen then drop .badLength s
    else if first && (256 ≤ (tblGetD s.trn.rqueues f.dstCtx []).length || s.tir.trnAreaGib * 2 ^ 30 < stagedBytes s + f.msgLen) then let (b, s) := queueBackoff s; (.busy b, s)
    else match (if f.prot then protCheck f false (fabricSlot s f.dstCtx none) s else (none, s)) with
    | (some e, s) => drop e s
    | (none, s) =>
      match getSlot? s k with
      | none => (.accept, s)
      | some x =>
        let part := if first then some { op := 0x06, tag := f.tag, len := f.msgLen, bytes := [] } else x.part
        match part with
        | none => (.accept, s)
        | some p =>
          let bytes := p.bytes ++ openPayload f
          if f.last then
            let s := setSlot k { x with part := none } s
            if bytes.length != f.msgLen || getU bytes 16 4 + 64 != f.msgLen || 2 ^ 24 < getU bytes 20 4 then (.accept, fault k o.cls f .badLength s)
            else (.accept, queueCommand o bytes s)
          else (.accept, setSlot k { x with part := some { p with bytes := bytes } } s)

/-- OP_COMMAND (R382-R384, R431, R491). -/
def execOpCommand (f : TFrame) (s : State) : Host.Outcome State Fault Refusal := .next (settleWork (receive (· == 0x06) f commandAct s))

/-- REMOTE_COMMAND_ACCEPT (R72, R154, R383, R384, R411-R414, R491): the head of the remote command queue of the context that the fetch instance chooses. `passed` are the rings whose next descriptor Headland has passed over (log entry 85). -/
def execRemoteCommandAccept (ctx : Nat) (passed : List Nat) (s : State) : Host.Outcome State Fault Refusal :=
  .next (match tblGetD s.trn.rqueues ctx [] with
  | [] => s
  | r :: rest =>
    let (pick, h) := fetchPick s passed
    if fetchHeld s || pick != some (remoteFeed ctx) then s
    else
      let (oid, s) := takeOid s
      let s := countFetch r.cls (classOf h r.cls).rqueue (setInst 16 h s)
      putFetched oid { time := s.now } r.cmd { s with trn := { s.trn with rqueues := if rest.isEmpty then tblDel s.trn.rqueues ctx else tblSet s.trn.rqueues ctx rest }, cln := { s.cln with sweepFetched := s.cln.sweepFetched + 1 } })

/-! Responses (R377, R385, R390) -/

/-- The command of an operation that a response names, with its order number, when the tag is of the kind expected. -/
def opOf (s : State) (f : TFrame) (kinds : List OpKind) : Option TOp :=
  match tblGet? s.trn.ops f.tag with
  | none => none
  | some o => if kinds.contains o.kind && o.key == slotKey f.dstCtx f.srcNode f.srcCtx then some o else none

/-- Writes a segment of a command's output where OUT_ADDR says. -/
def placeOutput (oid off : Nat) (bs : List Byte) (s : State) : State :=
  match tblGet? s.cln.inflight oid with
  | none => s
  | some c =>
    let bs := bs.take (c.outLen - off)
    let s := { s with trn := { s.trn with xfers := tblUpd s.trn.xfers oid (fun x => { x with placed := x.placed + bs.length }) } }
    if c.outDevice then (match resolve s c.outAddr with | none => s | some (r, o) => regionWriteP r (o + off) bs false s)
    else emit (.hostWrite (c.outAddr + off) bs (relaxedData s)) s

/-- LOAD_DATA (R377, R390): the data goes where the operation's owner wants it, and LOCAL_COUNTER counts it. A protected response that does not verify ends the operation with AUTH_FAILED. -/
def execLoadData (f : TFrame) (s : State) : Host.Outcome State Fault Refusal :=
  .next (settleWork (receive (· == 0x81) f (fun _ o s =>
    match opOf s f [.load] with
    | none => (.accept, s)
    | some op =>
      match (if f.prot then protCheck f false (fabricSlot s f.dstCtx (some f.job)) s else (none, s)) with
      | (some e, s) => (.accept, endOp f.tag (.lost e) s)
      | (none, s) =>
        let bs := openPayload o.frame
        let s := match op.owner with | .cmd oid seg => placeOutput oid seg (bs.take op.bytes) s | .body b off => fillPiece b off (bs.take op.bytes) s | _ => s
        (.accept, endOp f.tag (.good (leNat (bs.take 8))) s)) s))

/-- ATOMIC_OLD (R377). -/
def execAtomicOld (f : TFrame) (s : State) : Host.Outcome State Fault Refusal :=
  .next (settleWork (receive (· == 0x83) f (fun _ o s =>
    match opOf s f [.atomic] with
    | none => (.accept, s)
    | some _ =>
      match (if f.prot then protCheck f false (fabricSlot s f.dstCtx (some f.job)) s else (none, s)) with
      | (some e, s) => (.accept, endOp f.tag (.lost e) s)
      | (none, s) => (.accept, endOp f.tag (.good (getU (openPayload o.frame) 0 8)) s)) s))

/-- The status of a status code (R88). -/
def statusOf (n : Nat) : Status :=
  ([.success, .retried, .partially, .noMatch, .busy, .unitStarting, .timeout, .aborted, .noSpace, .undeliverable, .linkDown, .overruled, .invalidOpcode, .badParameter,
    .badAddress, .badLength, .badContext, .badState, .notFound, .inUse, .limitExceeded, .unsupportedVersion, .unitAbsent, .unitFenced, .decodeError, .memoryError,
    .hostDmaError, .wearLimit, .dataLost, .internalError, .permission, .confidentialMode, .keyExhausted, .keyRevoked, .authFailed, .rollbackRefused,
    .attestationRequired].find? (fun st => statusCode st == n)).getD Status.internalError

/-- OP_FAULT (R377, R388, R390): the operation completes with the status of the FAULT. -/
def execOpFault (f : TFrame) (s : State) : Host.Outcome State Fault Refusal :=
  .next (settleWork (receive (· == 0x82) f (fun _ o s =>
    match opOf s f [.load, .store, .atomic, .counterAdd, .coreMsg, .command, .flag] with
    | none => (.accept, s)
    | some _ => (.accept, endOp f.tag (.lost (statusOf o.frame.status)) s)) s))

/-- A multicast whose members have all answered completes (R351, R385). -/
def mcastRecords (m : Mcast) : List Byte :=
  ((m.members.zip (m.status.zip m.attempts)).map (fun (mem, st, n) => leBytes 8 (mem.1 + mem.2 * 2 ^ 12 + statusCode (st.getD .undeliverable) * 2 ^ 24 + n % 256 * 2 ^ 32))).flatten

/-- The bitmap of the members that have answered, or have not. -/
def mcastBits (m : Mcast) (answered : Bool) : Nat := sumN (m.status.zipIdx.map (fun (st, i) => if st.isSome == answered then 2 ^ i else 0))

/-- Completes a multicast with the members that have answered so far (R351, R385). The records are the detail block of R54 when DETAIL is set, as much of them as fits, and ordinary output when every member answered and OUT_LEN allows. -/
def endMcast (n : Nat) (s : State) : State :=
  match tblGet? s.trn.mcasts n with
  | none => s
  | some m =>
    let all := m.status.all (·.isSome)
    let some_ := m.status.any (·.isSome)
    let st : Status := if all then .success else if some_ then .partially else .undeliverable
    let fits := match tblGet? s.cln.inflight m.oid with | some c => decide (8 * m.members.length ≤ c.outLen) | none => false
    let d : Done := { status := st, r0 := mcastBits m true, r1 := mcastBits m false, output := if all && fits then mcastRecords m else [], detail := if all then none else some (mcastRecords m) }
    let s := finish m.oid d s
    if all then { s with trn := { s.trn with mcasts := tblDel s.trn.mcasts n } }
    else { s with trn := { s.trn with mcasts := tblSet s.trn.mcasts n { m with ended := true, retryAt := s.now + olnenParam s 0x05 * us } } }

/-- A member of a multicast has answered: the command completes with the last one, or MCAST_MEMBERS_RECOVERED follows a retry (R351, R352). -/
def mcastAnswer (n member : Nat) (st : Status) (s : State) : State :=
  let s := mcastNote n member st s
  match tblGet? s.trn.mcasts n with
  | none => s
  | some m =>
    if !m.status.all (·.isSome) then s
    else if !m.ended then endMcast n s
    else raise .mcastMembersRecovered [.ctx m.ctx] (leBytes 2 m.group ++ leBytes 2 m.cid) { s with trn := { s.trn with mcasts := tblDel s.trn.mcasts n } }

/-- COMMAND_DONE_MSG (R382, R385): the completion of an OLNEN.REMOTE, or of a multicast's member. -/
def execCommandDoneMsg (f : TFrame) (s : State) : Host.Outcome State Fault Refusal :=
  .next (settleWork (receive (· == 0x86) f (fun k o s =>
    match opOf s f [.command], getSlot? s k with
    | some op, some x =>
      (match (if f.prot then protCheck f false (fabricSlot s f.dstCtx none) s else (none, s)) with
      | (some e, s) => (.accept, endOp f.tag (.lost e) s)
      | (none, s) =>
        let bytes := (if f.offset == 0 then [] else match x.part with | some p => p.bytes | none => []) ++ openPayload o.frame
        if !f.last then (.accept, setSlot k { x with part := some { op := 0x86, tag := f.tag, len := f.msgLen, bytes := bytes } } s)
        else
          let s := setSlot k { x with part := none } s
          let st := getU bytes 2 1
          match op.owner with
          | .cmd oid _ =>
            let s := { s with trn := { s.trn with ops := tblDel s.trn.ops f.tag, xfers := tblDel s.trn.xfers oid } }
            (.accept, finish oid { r0 := st, output := bytes } s)
          | .mcast n member => (.accept, mcastAnswer n member (statusOf st) (endOp f.tag (.good 0) s))
          | _ => (.accept, endOp f.tag (.good 0) s))
    | _, _ => (.accept, s)) s))

/-! Timers (R365, R366, R371, R372, R396) -/

/-- RTO_TIMEOUT (R372, R376, R396): resends, or the peer is unreachable after RETRY_LIMIT timeouts without progress. -/
def execRtoTimeout (ctx node rctx : Nat) (s : State) : Host.Outcome State Fault Refusal :=
  let k := slotKey ctx node rctx
  .next (match getSlot? s k with
  | none => s
  | some x =>
    if x.unacked.isEmpty || s.now < x.progress + rtoNs s x || s.now < x.holdUntil then s
    else if olnenParam s 0x14 ≤ x.timeouts + 1 then peerUnreachable k s
    else resendFlow k false (setSlot k { x with timeouts := x.timeouts + 1, cwnd := 512, progress := s.now } s))

/-- TRANSPORT_ACK_TIMER (R371): 1 µs after acceptance. -/
def execTransportAckTimer (ctx node rctx : Nat) (s : State) : Host.Outcome State Fault Refusal :=
  let k := slotKey ctx node rctx
  .next (match getSlot? s k with
  | none => s
  | some x => match x.ackSince with | none => s | some t => if t + us ≤ s.now then sendAck k s else s)

/-- SLOT_RECYCLE (R365, R366). -/
def execSlotRecycle (ctx node rctx : Nat) (s : State) : Host.Outcome State Fault Refusal :=
  let k := slotKey ctx node rctx
  .next (match getSlot? s k with
  | none => s
  | some x => if recyclable s k x then retrySlots (recycleSlot k x s) else s)

/-- TOMBSTONE_EXPIRY (R365). -/
def execTombstoneExpiry (ctx node rctx : Nat) (s : State) : Host.Outcome State Fault Refusal :=
  let k := slotKey ctx node rctx
  .next (match tblGet? s.trn.tombs k with
  | none => s
  | some t => if t.until_ ≤ s.now then { s with trn := { s.trn with tombs := tblDel s.trn.tombs k } } else s)

/-- FLAG_SEND (R387, R388): a held flagged store is sent, or aborted after a loss. -/
def execFlagSend (tag : Nat) (s : State) : Host.Outcome State Fault Refusal :=
  .next (match tblGet? s.trn.flags tag, tblGet? s.trn.ops tag with
  | some f, some o =>
    (match f.lost with
    | none => if f.waits.isEmpty then sendData o.key f.out { s with trn := { s.trn with flags := tblDel s.trn.flags tag } } else s
    | some l =>
      let who := match o.owner with | .cmd _ _ => f.cid | _ => tag
      let s := raise .flagAborted [.ctx f.ctx] (leBytes 2 who ++ leBytes 2 l) s
      match o.owner with
      | .cmd oid _ =>
        let s := flagsNote tag true { s with trn := { s.trn with ops := tblDel s.trn.ops tag, flags := tblDel s.trn.flags tag, xfers := tblDel s.trn.xfers oid } }
        settleWork (finish oid { status := .aborted, detail := some (leBytes 2 l ++ zeros 6) } s)
      | _ => endOp tag (.lost .aborted) s)
  | _, _ => s)

/-! Coherence (R392, R393) -/

/-- Runs what waited for a line. -/
def runThen (window line : Nat) (t : CohThen) (s : State) : State :=
  match t with
  | .get m excl => sendLine window line m excl s
  | .access eda data bad => emberWriteP eda data bad s
  | .frame o =>
    let k := slotKey o.frame.dstCtx o.frame.srcNode o.frame.srcCtx
    match standing k o.frame s with
    | (.next, s) => actOn k o (match o.frame.op with | 0x01 => loadAct | 0x02 => storeAct | _ => atomicAct) s
    | (_, s) => s

/-- Serves a request for a line, or waits for its holders. -/
def serveLine (window line : Nat) (excl : Bool) (t : CohThen) (s : State) : State :=
  match tblGet? s.trn.windows window with
  | none => s
  | some w =>
    let asker := match t with | .get m _ => some m | _ => none
    let hs := holders s w line excl asker
    if hs.isEmpty && !s.trn.cohWaits.any (fun x => x.window == window && x.line == line) then runThen window line t s
    else waitLine window line excl hs t s

/-- A holder has answered: when it was the last, what waited runs, then what waits behind it. -/
def lineAnswer (window line node : Nat) (s : State) : State :=
  let same := fun (w : CohWait) => w.window == window && w.line == line
  match s.trn.cohWaits.find? same with
  | none => s
  | some w =>
    let left := setDel w.from_ node
    if !left.isEmpty then { s with trn := { s.trn with cohWaits := updFirst same (fun w => { w with from_ := left }) s.trn.cohWaits } }
    else
      let s := runThen window line w.next { s with trn := { s.trn with cohWaits := removeFirst same s.trn.cohWaits } }
      w.later.foldl (fun s e => serveLine window line e.1 e.2 s) s

/-- A coherence message between members of one stook: what it does with its window's line. -/
def cohAct (act : Nat → Nat → OutFrame → State → State) (k : Nat) (o : OutFrame) (s : State) : Verdict × State :=
  if !inStook s o.frame.srcNode then (.accept, fault k o.cls o.frame .permission s)
  else (.accept, act o.frame.window (o.frame.offset / 64) o s)

/-- Whether a line lies in a coherent window of the node. -/
def homeLine (s : State) (window line : Nat) : Bool := match tblGet? s.trn.windows window with | none => false | some w => w.coherent && decide (64 * line < w.len)

/-- Writes a line back at its home. -/
def writeLine (window line : Nat) (bs : List Byte) (s : State) : State :=
  match tblGet? s.trn.windows window with
  | none => s
  | some w => emberWrite (windowEda s w (64 * line)) (bs.take 64) s

def isCoh (op : Nat) : Bool := op == 0x08 || op == 0x88

/-- COH_GET_S (R393). -/
def execCohGetS (f : TFrame) (s : State) : Host.Outcome State Fault Refusal :=
  .next (settleWork (receive isCoh f (cohAct (fun w l o s => if homeLine s w l then serveLine w l false (.get o.frame.srcNode false) s else s)) s))

/-- COH_GET_M (R393). -/
def execCohGetM (f : TFrame) (s : State) : Host.Outcome State Fault Refusal :=
  .next (settleWork (receive isCoh f (cohAct (fun w l o s => if homeLine s w l then serveLine w l true (.get o.frame.srcNode true) s else s)) s))

/-- The member that owns a line. -/
def lineOwner (s : State) (w l : Nat) : Option Nat :=
  match tblGet? s.trn.windows w with | none => none | some x => let e := tblGetD x.dir l 0; if dirState e == 2 then s.trn.members[dirBits e]? else none

/-- COH_PUT_M (R393): the owner evicts the line; it is uncached. It answers a RECALL that crossed it. -/
def execCohPutM (f : TFrame) (s : State) : Host.Outcome State Fault Refusal :=
  .next (settleWork (receive isCoh f (cohAct (fun w l o s =>
    if lineOwner s w l != some o.frame.srcNode then s
    else lineAnswer w l o.frame.srcNode (setDir w l 0 (writeLine w l (openPayload o.frame) s)))) s))

/-- The wait that a member's answer to a RECALL belongs to. -/
def recallOf (s : State) (w l node : Nat) : Option CohWait := s.trn.cohWaits.find? (fun x => x.window == w && x.line == l && x.from_.contains node)

/-- COH_WRITE_BACK (R393): the owner's answer to a RECALL. -/
def execCohWriteBack (f : TFrame) (s : State) : Host.Outcome State Fault Refusal :=
  .next (settleWork (receive isCoh f (cohAct (fun w l o s =>
    match recallOf s w l o.frame.srcNode with
    | none => s
    | some x => lineAnswer w l o.frame.srcNode (setDir w l (if x.excl then 0 else 256 + 2 ^ memberIndex s o.frame.srcNode) (writeLine w l (openPayload o.frame) s)))) s))

/-- A member no longer shares a line. -/
def dropSharer (x : Window) (w l node : Nat) (s : State) : State :=
  let b := dirBits (tblGetD x.dir l 0) &&& (255 - 2 ^ memberIndex s node)
  if dirState (tblGetD x.dir l 0) == 1 then setDir w l (if b == 0 then 0 else 256 + b) s else s

/-- COH_INV_ACK (R393). -/
def execCohInvAck (f : TFrame) (s : State) : Host.Outcome State Fault Refusal :=
  .next (settleWork (receive isCoh f (cohAct (fun w l o s =>
    match tblGet? s.trn.windows w with
    | none => s
    | some x => lineAnswer w l o.frame.srcNode (dropSharer x w l o.frame.srcNode s))) s))

/-- The cached line of a member. -/
def cached? (s : State) (home w l : Nat) : Option CacheLine := s.trn.cache.find? (fun c => c.home == home && c.window == w && c.line == l)

def dropLine (home w l : Nat) (s : State) : State := { s with trn := { s.trn with cache := s.trn.cache.filter (fun c => !(c.home == home && c.window == w && c.line == l)) } }

/-- An owned line is given up, or kept as a shared one. -/
def giveUpLine (c : CacheLine) (whole : Bool) (s : State) : State :=
  let s := dropLine c.home c.window c.line s
  if whole then s else { s with trn := { s.trn with cache := s.trn.cache ++ [{ c with owned := false }] } }

/-- COH_RECALL (R393): the owner writes the line back, and drops it to S, or gives it up. -/
def execCohRecall (f : TFrame) (s : State) : Host.Outcome State Fault Refusal :=
  .next (settleWork (receive isCoh f (cohAct (fun w l o s =>
    match cached? s o.frame.srcNode w l with
    | none => s
    | some c =>
      if !c.owned then s
      else sendCoh c.home .writeBack w l false c.data (giveUpLine c (o.frame.operand % 2 == 1) s))) s))

/-- COH_INV (R393): the line is dropped, and INV_ACK answers even for a line no longer held. -/
def execCohInv (f : TFrame) (s : State) : Host.Outcome State Fault Refusal :=
  .next (settleWork (receive isCoh f (cohAct (fun w l o s => sendCoh o.frame.srcNode .invAck w l false [] (dropLine o.frame.srcNode w l s))) s))

/-- Applies a member's access to a line that its cache holds as the access needs. -/
def applyCached (p : CohPend) (s : State) : State :=
  let wakes := fun (s : State) => { s with trn := { s.trn with cohPends := s.trn.cohPends.erase p, blocked := s.trn.blocked.filter (fun b => !(b.1 == p.core && b.2.1 == p.thread)) } }
  match cached? s p.home p.window p.line with
  | none => s
  | some c =>
    if p.kind == 0 then wakes s
    else if !c.owned then s
    else
      let o := p.off % 64
      let v := if p.kind == 1 then p.operand else atomicOp (p.kind - 2) (getU c.data o 8) p.operand p.swap
      let s := dropLine p.home p.window p.line s
      wakes { s with trn := { s.trn with cache := s.trn.cache ++ [{ c with data := putBytes c.data o (leBytes 8 v) }] } }

/-- Makes room in a line's set of 16: the line that has stood longest leaves, written back when owned. -/
def evictLine (l : Nat) (s : State) : State :=
  let set := s.trn.cache.filter (fun c => c.line % 32768 == l % 32768)
  if set.length < 16 then s
  else match set with
  | [] => s
  | c :: _ =>
    let s := dropLine c.home c.window c.line s
    if c.owned then sendCoh c.home .putM c.window c.line false c.data s else s

/-- Installs a line in the remote line cache, and makes the accesses that wait for it. -/
def installLine (c : CacheLine) (s : State) : State :=
  let s := evictLine c.line (dropLine c.home c.window c.line s)
  let s : State := { s with trn := { s.trn with cache := s.trn.cache ++ [c] } }
  (s.trn.cohPends.filter (fun p => p.home == c.home && p.window == c.window && p.line == c.line)).foldl (fun s p => applyCached p s) s

/-- COH_DATA (R392, R393). -/
def execCohData (f : TFrame) (s : State) : Host.Outcome State Fault Refusal :=
  .next (settleWork (receive isCoh f (cohAct (fun w l o s =>
    installLine { home := o.frame.srcNode, window := w, line := l, owned := o.frame.operand % 2 == 1, data := openPayload o.frame } s)) s))

end Sys2Proof.Machine
end

