-- ==== Sys2Proof/Machine/Remote.lean ====
section
/-! DEFINITION. The rows of remote memory's commands and of the Field's remote accesses (file 12, R389-R405). -/

namespace Sys2Proof.Machine

/-! Issuing operations (R387, R396, R402) -/

/-- The class in which a command's frames travel: its ring's. -/
def cmdClass (s : State) (c : Cmd) : Nat := match c.issuer with | .ring r => (getRing s r).cls | _ => 0

/-- Why an operation to an endpoint cannot be issued: the node holds no address, or the destination has no route (R344, R396). -/
def cannotSend (s : State) (ctx node rctx : Nat) : Bool :=
  s.oln.addr.isNone || !hasRoute s node { frame := { blankFrame with srcNode := s.oln.addr.getD 0, srcCtx := ctx, dstNode := node, dstCtx := rctx }, cls := 0 }

/-- Whether frames of a context under a job are protected, and by which slot (R449, R450). -/
def protSlot (s : State) (ctx : Nat) (job : Option Nat) : Option Nat :=
  let bound := match job with | some j => tblHas s.trn.jobs j && tblHas s.sec.jobKeys j || tblHas s.sec.jobKeys j | none => false
  if mustProtect s ctx || bound then some (fabricSlot s ctx job) else none

/-- The status when a slot cannot seal a frame (R440, R445). -/
def sealStatus (s : State) (slot : Option Nat) : Option Status :=
  match slot with
  | none => none
  | some k => match tblGet? s.sec.keys k with | none => some .keyRevoked | some x => if 2 ^ 64 ≤ x.counter then some .keyExhausted else none

/-- A frame with its payload sealed when a slot is given. -/
def sealed (slot : Option Nat) (f : TFrame) (s : State) : TFrame × State :=
  match slot with
  | none => (f, s)
  | some k => match sealPayload k f.payload s with | some (p, s) => ({ f with prot := true, payload := p }, s) | none => (f, s)

/-- Issues one operation: its tag, its frame on its flow. -/
def issueOp (op : Nat → TOp) (slot : Option Nat) (cls : Nat) (f : TFrame) (s : State) : State :=
  let (t, s) := takeTag op s
  let (f, s) := sealed slot { f with tag := t } s
  sendData (op t).key { frame := f, cls := cls } s

/-- The pieces of a run: offset from its start and length, cut where window offsets are multiples of the segment size (R368). -/
def runPieces (seg : Nat) : Nat → Nat → Nat → Nat → List (Nat × Nat)
  | 0, _, _, _ => []
  | fuel + 1, at_, off, len =>
    if len == 0 then []
    else let n := min len (seg - at_ % seg); (off, n) :: runPieces seg fuel (at_ + n) (off + n) (len - n)

/-- Whether a command may send its input to a node: bytes of a region of decrypted weights go only on protected flows, to a node whose identity, as its discovery entry gives it, is in the binding group of the weights' slot (R451). -/
def maySendInput (s : State) (c : Cmd) (node : Nat) (prot : Bool) : Bool :=
  match (if c.inLen == 0 then none else weightsAt s c.inDevice c.inAddr) with
  | none => true
  | some slot => prot && (match tblGet? s.oln.seen node with | none => false | some (_, uid) => inGroup s slot uid.toNat)

/-- The checks that every sending command shares, and what goes on after them: the local context, the key of the flow, the class. -/
def sending (c : Cmd) (node rctx tags : Nat) (slot : State → Nat → Option Nat) (s : State) (go : Nat → Option Nat → State → Answer × State) : Answer × State :=
  let ctx := cmdCtx s c
  let k := slot s ctx
  if cannotSend s ctx node rctx then (fail .undeliverable, s)
  else if !maySendInput s c node k.isSome then (fail .permission, s)
  else match sealStatus s k with
  | some e => (fail e, s)
  | none =>
    if freeTags s < tags then let s := tagsExhausted s; let (n, s) := fresh s; (.done { status := .busy, hint := hintUs (Config.hint n) }, s)
    else go ctx k s

/-- Whether a command may count on a counter: none, or one of its context (R389). -/
def localCounterOk (s : State) (c : Cmd) (n : Nat) : Bool := n == 0xFFFF || tblGet? s.trn.counterOwner n == some (cmdCtx s c)

/-- Reserved bits of NODE, CTX and the other half-words of ARGS (R403). -/
def nodeFields : List (Nat × Nat × Nat) := [(32, 0, 12), (34, 0, 12)]

/-- A transfer of `n` operations begins: the command is in flight. -/
def beginXfer (oid n : Nat) (c : Cmd) (s : State) : State :=
  let s := { s with trn := { s.trn with xfers := tblSet s.trn.xfers oid { left := n, segs := n } } }
  { s with cln := { s.cln with inflight := tblSet s.cln.inflight oid c } }

/-- The pieces of a PUT or GET of `n` bytes. -/
def xferPieces (s : State) (c : Cmd) (n : Nat) : List (Nat × Nat) :=
  runPieces (segmentSize s (argU c 32 2) (protSlot s (cmdCtx s c) (some (argU c 36 2))).isSome) (n + 1) (argU c 40 8) 0 n

/-- The stores of a PUT. -/
def putPieces (oid ctx : Nat) (slot : Option Nat) (c : Cmd) (ps : List (Nat × Nat)) (s : State) : State :=
  ps.foldl (fun s (o, n) =>
    issueOp (fun _ => { kind := .store, owner := .cmd oid o, ctx := ctx, key := slotKey ctx (argU c 32 2) (argU c 34 2), bytes := n, counter := argU c 50 2 }) slot (cmdClass s c)
      { blankFrame with op := 0x02, job := argU c 36 2, window := argU c 38 2, offset := argU c 40 8 + o, msgLen := argU c 48 2, last := decide (o + n = c.input.length), payload := (c.input.drop o).take n } s) s

/-- The loads of a GET. -/
def getPieces (oid ctx : Nat) (slot : Option Nat) (c : Cmd) (ps : List (Nat × Nat)) (s : State) : State :=
  ps.foldl (fun s (o, n) =>
    issueOp (fun _ => { kind := .load, owner := .cmd oid o, ctx := ctx, key := slotKey ctx (argU c 32 2) (argU c 34 2), bytes := n, counter := argU c 50 2 }) slot (cmdClass s c)
      { blankFrame with op := 0x01, job := argU c 36 2, window := argU c 38 2, offset := argU c 40 8 + o, operand := roundUp n 8 } s) s

/-- OLNEN_PUT (R368, R389, R390, R403). -/
def execOlnenPut (c : Cmd) (s : State) : Host.Outcome State Fault Refusal :=
  .next (settleWork (runCmd 0x0A 0x31 c (fun oid c s =>
    let node := argU c 32 2
    let rctx := argU c 34 2
    let job := argU c 36 2
    if !argsOnly c (nodeFields ++ [(36, 0, 16), (38, 0, 16), (40, 0, 64), (48, 0, 16), (50, 0, 16)]) then (fail .badParameter, s)
    else match bufferCheck c s with
    | some e => (fail e, s)
    | none =>
      if !localCounterOk s c (argU c 50 2) then (fail .badContext, s)
      else
        let ps := xferPieces s c c.input.length
        sending c node rctx ps.length (fun s ctx => protSlot s ctx (some job)) s (fun ctx slot s =>
          let s := putPieces oid ctx slot c ps (beginXfer oid ps.length c s)
          if ps.isEmpty then (ok 0, s) else (.wait, s))) s))

/-- OLNEN_GET (R368, R390, R403). -/
def execOlnenGet (c : Cmd) (s : State) : Host.Outcome State Fault Refusal :=
  .next (settleWork (runCmd 0x0A 0x32 c (fun oid c s =>
    let node := argU c 32 2
    let rctx := argU c 34 2
    let job := argU c 36 2
    if !argsOnly c (nodeFields ++ [(36, 0, 16), (38, 0, 16), (40, 0, 64), (50, 0, 16)]) then (fail .badParameter, s)
    else match bufferCheck c s with
    | some e => (fail e, s)
    | none =>
      if !localCounterOk s c (argU c 50 2) then (fail .badContext, s)
      else
        let ps := xferPieces s c c.outLen
        sending c node rctx ps.length (fun s ctx => protSlot s ctx (some job)) s (fun ctx slot s =>
          let s := getPieces oid ctx slot c ps (beginXfer oid ps.length c s)
          if ps.isEmpty then (ok 0, s) else (.wait, s))) s))

/-- OLNEN_ATOMIC (R377, R403). -/
def execOlnenAtomic (c : Cmd) (s : State) : Host.Outcome State Fault Refusal :=
  .next (settleWork (runCmd 0x0A 0x33 c (fun oid c s =>
    let node := argU c 32 2
    let rctx := argU c 34 2
    let job := argU c 36 2
    let aop := argBits c 52 0 3
    if !argsOnly c (nodeFields ++ [(36, 0, 16), (38, 0, 16), (40, 0, 64), (52, 0, 3), (56, 0, 64)]) then (fail .badParameter, s)
    else match bufferCheck c s with
    | some e => (fail e, s)
    | none =>
      if aop == 5 && c.inLen < 8 then (fail .badLength, s)
      else sending c node rctx 1 (fun s ctx => protSlot s ctx (some job)) s (fun ctx slot s =>
        let s := { s with trn := { s.trn with xfers := tblSet s.trn.xfers oid { left := 1, segs := 1 } } }
        (.wait, issueOp (fun _ => { kind := .atomic, owner := .cmd oid 0, ctx := ctx, key := slotKey ctx node rctx }) slot (cmdClass s c)
          { blankFrame with op := 0x03, opFlags := aop, job := job, window := argU c 38 2, offset := argU c 40 8, operand := argU c 56 8, payload := if aop == 5 then c.input.take 8 else [] } s))) s))

/-- The operations before a flagged store that must be acknowledged first: every STORE, ATOMIC and COUNTER_ADD of its context (R387). -/
def earlierStores (s : State) (ctx : Nat) : List Nat :=
  (s.trn.ops.filter (fun e => e.2.ctx == ctx && (e.2.kind == .store || e.2.kind == .atomic || e.2.kind == .counterAdd || e.2.kind == .flag))).map (·.1)

/-- Holds a flagged store under a tag of its own. -/
def holdFlag (op : Nat → TOp) (cid : Nat) (slot : Option Nat) (cls : Nat) (f : TFrame) (s : State) : State :=
  let waits := earlierStores s (op 0).ctx
  let (t, s) := takeTag op s
  let (f, s) := sealed slot { f with tag := t } s
  { s with trn := { s.trn with flags := tblSet s.trn.flags t { ctx := (op t).ctx, cid := cid, out := { frame := f, cls := cls }, waits := waits } } }

/-- OLNEN_FLAG (R387, R403). -/
def execOlnenFlag (c : Cmd) (s : State) : Host.Outcome State Fault Refusal :=
  .next (settleWork (runCmd 0x0A 0x34 c (fun oid c s =>
    let node := argU c 32 2
    let rctx := argU c 34 2
    let job := argU c 36 2
    if !argsOnly c (nodeFields ++ [(36, 0, 16), (38, 0, 16), (40, 0, 64), (48, 0, 64), (56, 0, 64)]) then (fail .badParameter, s)
    else if 4096 < c.inLen then (fail .badLength, s)
    else match bufferCheck c s with
    | some e => (fail e, s)
    | none =>
      sending c node rctx 1 (fun s ctx => protSlot s ctx (some job)) s (fun ctx slot s =>
        let s := { s with trn := { s.trn with xfers := tblSet s.trn.xfers oid { left := 1, segs := 1 } } }
        (.wait, holdFlag (fun _ => { kind := .flag, owner := .cmd oid 0, ctx := ctx, key := slotKey ctx node rctx }) c.cid slot (cmdClass s c)
          { blankFrame with op := 0x02, flagged := true, job := job, window := argU c 38 2, offset := argU c 48 8, operand := argU c 56 8, msgLen := 0xFFFF, payload := leBytes 8 (argU c 40 8) ++ c.input } s))) s))

/-- OLNEN_MSG (R377, R399, R403). -/
def execOlnenMsg (c : Cmd) (s : State) : Host.Outcome State Fault Refusal :=
  .next (settleWork (runCmd 0x0A 0x35 c (fun oid c s =>
    let node := argU c 32 2
    let rctx := argU c 34 2
    if !argsOnly c (nodeFields ++ [(36, 0, 7), (37, 0, 2)]) || 72 ≤ argBits c 36 0 7 then (fail .badParameter, s)
    else if 4096 < c.inLen then (fail .badLength, s)
    else match bufferCheck c s with
    | some e => (fail e, s)
    | none =>
      sending c node rctx 1 (fun s ctx => protSlot s ctx none) s (fun ctx slot s =>
        let s := { s with trn := { s.trn with xfers := tblSet s.trn.xfers oid { left := 1, segs := 1 } } }
        (.wait, issueOp (fun _ => { kind := .coreMsg, owner := .cmd oid 0, ctx := ctx, key := slotKey ctx node rctx }) slot (cmdClass s c)
          { blankFrame with op := 0x05, window := 0xFFFF, offset := argBits c 36 0 7 + 256 * argBits c 37 0 2, payload := c.input } s))) s))

/-- Whether bytes are a COMMAND message (R382). -/
def isMessage (bs : List Byte) : Bool := 64 ≤ bs.length && getU bs 16 4 + 64 == bs.length && getU bs 16 4 ≤ 2 ^ 24 && getU bs 20 4 ≤ 2 ^ 24

/-- Sends a COMMAND message under a tag. -/
def issueMessage (op : Nat → TOp) (node : Nat) (slot : Option Nat) (cls : Nat) (msg : List Byte) (s : State) : State :=
  let (t, s) := takeTag op s
  match messageFrames (payloadRoom s node) 0x06 t cls slot msg s with
  | some (fs, s) => sendAll (op t).key fs s
  | none => s

/-- OLNEN_REMOTE (R382, R403). -/
def execOlnenRemote (c : Cmd) (s : State) : Host.Outcome State Fault Refusal :=
  .next (settleWork (runCmd 0x0A 0x30 c (fun oid c s =>
    let node := argU c 32 2
    let rctx := argU c 34 2
    if !argsOnly c nodeFields then (fail .badParameter, s)
    else match bufferCheck c s with
    | some e => (fail e, s)
    | none =>
      if !isMessage c.input then (fail .badLength, s)
      else sending c node rctx 1 (fun s ctx => protSlot s ctx none) s (fun ctx slot s =>
        let s := { s with trn := { s.trn with xfers := tblSet s.trn.xfers oid { left := 1, segs := 1 } } }
        (.wait, issueMessage (fun _ => { kind := .command, owner := .cmd oid 0, ctx := ctx, key := slotKey ctx node rctx }) node slot (cmdClass s c) c.input s))) s))

/-! Jobs and windows (R379, R380, R392) -/

/-- The 4-byte members of a job or of a multicast group: node and context; none when a reserved bit is set. -/
def memberList (bs : List Byte) (n : Nat) : Option (List (Nat × Nat)) :=
  let ws := (List.range n).map (fun i => getU bs (4 * i) 4)
  if ws.any (fun w => bitsOf w 12 4 != 0 || bitsOf w 28 4 != 0) then none else some (ws.map (fun w => (w % 4096, bitsOf w 16 12)))

/-- Closes windows. -/
def closeWindows (p : Nat → Window → Bool) (s : State) : State := { s with trn := { s.trn with windows := s.trn.windows.filter (fun e => !p e.1 e.2) } }

/-- OLNEN_JOB_SET (R379, R403). -/
def execOlnenJobSet (c : Cmd) (s : State) : Host.Outcome State Fault Refusal :=
  .next (runCmd 0x0A 0x38 c (fun _ c s =>
    let job := argU c 32 2
    let ctx := argU c 34 2
    let n := argU c 38 2
    if !argsOnly c [(32, 0, 16), (34, 0, 12), (36, 0, 1), (38, 0, 16)] || 1024 < n then (fail .badParameter, s)
    else match bufferCheck c s with
    | some e => (fail e, s)
    | none =>
      if c.inLen < 4 * n then (fail .badLength, s)
      else match memberList c.input n with
      | none => (fail .badParameter, s)
      | some ms =>
        if n != 0 && (getCtx? s ctx).isNone then (fail .badContext, s)
        else
          let others := s.trn.jobs.filter (fun e => e.1 != job)
          if n != 0 && (4096 ≤ others.length || 65536 < sumN (others.map (fun e => e.2.members.length)) + n) then (fail .limitExceeded, s)
          else
            let (yes, s) := judge c { unit := 0x0A, obj := 2 ^ 32 + job } (.value (leNat (leBytes 32 c.args.toNat ++ c.input.take (4 * n)))) s
            if !yes then (fail .overruled, s)
            else if n == 0 then (ok, closeWindows (fun _ w => w.job == job) { s with trn := { s.trn with jobs := tblDel s.trn.jobs job } })
            else (ok, { s with trn := { s.trn with jobs := tblSet s.trn.jobs job { ctx := ctx, command := argBits c 36 0 1 == 1, members := ms } } })) s)

/-- Where the directory of a window goes: a COHERENT one takes free chunks of Ember (R392). -/
def dirPlace (s : State) (coh : Bool) (len : Nat) : Option Nat := if coh then findRun s (dirChunks len) else some 0

/-- The window that an OLNEN.WINDOW_OPEN spells, over a region from an offset on, with its directory. -/
def windowOf (c : Cmd) (r : Region) (off dir : Nat) : Window :=
  { ctx := r.ctx, job := argU c 32 2, region := bitsOf (argU c 40 8) 40 24, off := off, len := argU c 48 8, read := argBits c 36 0 1 == 1, write := argBits c 36 1 1 == 1, atomic := argBits c 36 2 1 == 1, coherent := argBits c 36 3 1 == 1, dirEda := dir }

/-- OLNEN_WINDOW_OPEN (R380, R392, R403). -/
def execOlnenWindowOpen (c : Cmd) (s : State) : Host.Outcome State Fault Refusal :=
  .next (runCmd 0x0A 0x39 c (fun _ c s =>
    let len := argU c 48 8
    let coh := argBits c 36 3 1 == 1
    if !argsOnly c [(32, 0, 16), (36, 0, 4), (40, 0, 64), (48, 0, 64)] then (fail .badParameter, s)
    else match resolve s (argU c 40 8) with
    | none => (fail .badAddress, s)
    | some (r, off) =>
      if !mayName s c r.ctx then (fail .badContext, s)
      else match tblGet? s.trn.jobs (argU c 32 2) with
      | none => (fail .badContext, s)
      | some j =>
        if j.ctx != r.ctx then (fail .badContext, s)
        else if regionSize r < off + len then (fail .badAddress, s)
        else if coh && s.trn.members.isEmpty then (fail .badState, s)
        else match (if 65535 ≤ s.trn.windows.length then none else tblFree? s.trn.windows (s.trn.windows.length + 1)), dirPlace s coh len with
        | none, _ => (fail .limitExceeded, s)
        | _, none => (fail .noSpace, s)
        | some n, some dir =>
          let w := windowOf c r off dir
          (ok n, { s with trn := { s.trn with windows := tblSet s.trn.windows n w } })) s)

/-- OLNEN_WINDOW_CLOSE (R380, R403). -/
def execOlnenWindowClose (c : Cmd) (s : State) : Host.Outcome State Fault Refusal :=
  .next (runCmd 0x0A 0x3A c (fun _ c s =>
    if !argsOnly c [(32, 0, 16)] then (fail .badParameter, s)
    else match tblGet? s.trn.windows (argU c 32 2) with
    | none => (fail .notFound, s)
    | some w => if !mayName s c w.ctx then (fail .badContext, s) else (ok, closeWindows (fun k _ => k == argU c 32 2) s)) s)

/-! Arrival counters (R389) -/

/-- The first of `n` free counters in a row, the owned ones rising. -/
def freeRun (n : Nat) : Nat → List Nat → Option Nat
  | at_, [] => if at_ + n ≤ 65535 then some at_ else none
  | at_, k :: t => if at_ + n ≤ k then some at_ else freeRun n (k + 1) t

/-- OLNEN_COUNTER_ALLOC (R389, R403). -/
def execOlnenCounterAlloc (c : Cmd) (s : State) : Host.Outcome State Fault Refusal :=
  .next (runCmd 0x0A 0x3B c (fun _ c s =>
    let n := argU c 32 2
    let free := argBits c 34 0 1 == 1
    let first := argU c 36 2
    let ctx := cmdCtx s c
    if !argsOnly c [(32, 0, 16), (34, 0, 1), (36, 0, if free then 16 else 0)] || n == 0 || 4096 < n || (free && 65535 < first + n) then (fail .badParameter, s)
    else if free then
      let ks := (List.range n).map (first + ·)
      if ks.any (fun k => !tblHas s.trn.counterOwner k) then (fail .notFound, s)
      else if ks.any (fun k => match tblGet? s.trn.counterOwner k with | some x => !mayName s c x | none => true) then (fail .badContext, s)
      else
        let keep := fun (k : Nat) => !(decide (first ≤ k ∧ k < first + n))
        (ok first, { s with trn := { s.trn with counterOwner := s.trn.counterOwner.filter (fun e => keep e.1), counters := s.trn.counters.filter (fun e => keep e.1) } })
    else match freeRun n 0 (s.trn.counterOwner.map (·.1)) with
    | none => (fail .limitExceeded, s)
    | some k =>
      let s := { s with trn := { s.trn with counterOwner := (List.range n).foldl (fun t i => tblSet t (k + i) ctx) s.trn.counterOwner, counters := (List.range n).foldl (fun t i => tblDel t (k + i)) s.trn.counters } }
      (ok k, s)) s)

/-- OLNEN_COUNTER_WAIT (R389, R403). -/
def execOlnenCounterWait (c : Cmd) (s : State) : Host.Outcome State Fault Refusal :=
  .next (runCmd 0x0A 0x3C c (fun oid c s =>
    let k := argU c 32 2
    if !argsOnly c [(32, 0, 16), (40, 0, 64), (48, 0, 32)] || k == 0xFFFF then (fail .badParameter, s)
    else match tblGet? s.trn.counterOwner k with
    | none => (fail .notFound, s)
    | some x =>
      let v := tblGetD s.trn.counters k 0
      let s := hubRead s
      if !mayName s c x then (fail .badContext, s)
      else if reached v (argU c 40 8) then (ok v, s)
      else (.wait, { s with trn := { s.trn with waits := s.trn.waits ++ [{ oid := oid, counter := k, target := argU c 40 8, until_ := s.now + argU c 48 4 * us }] } })) s)

/-- COUNTER_WAIT_TIMEOUT (R389, R403). -/
def execCounterWaitTimeout (ring cid : Nat) (s : State) : Host.Outcome State Fault Refusal :=
  .next (match inflightOf s ring cid (fun c => c.unit == 0x0A && c.verb == 0x3C) with
  | none => s
  | some (oid, _) =>
    match s.trn.waits.find? (fun w => w.oid == oid) with
    | none => s
    | some w =>
      if s.now < w.until_ then s
      else finish oid { status := .timeout, r0 := tblGetD s.trn.counters w.counter 0 } { s with trn := { s.trn with waits := s.trn.waits.erase w } })

/-! Stooks and flows (R392, R404) -/

/-- The node takes a stook and its members, and sends the list to the others. -/
def setStook (stook : Nat) (ms : List Nat) (s : State) : State :=
  let s := { s with oln := { s.oln with stook := stook }, trn := { s.trn with members := ms, differs := [] } }
  ms.foldl (fun s m => if some m == s.oln.addr then s else sendReverse (slotKey 0 m 0) 0 { blankFrame with typ := 4, opFlags := 2, payload := (ms.map (leBytes 2)).flatten } s) s

/-- Whether a list can be a stook of the node: real addresses, each once, its own among them. -/
def stookOk (s : State) (ms : List Nat) (leave : Bool) : Bool :=
  !ms.any (4096 ≤ ·) && ms.eraseDups.length == ms.length && (leave || (match s.oln.addr with | some a => ms.contains a | none => false))

/-- OLNEN_STOOK_SET (R392, R403): the list goes to the other members in NOTICE frames. -/
def execOlnenStookSet (c : Cmd) (s : State) : Host.Outcome State Fault Refusal :=
  .next (runCmd 0x0A 0x3D c (fun _ c s =>
    let stook := argU c 32 1
    let n := argBits c 33 0 4
    let leave := stook == 0xFF
    if !argsOnly c [(32, 0, 8), (33, 0, 4)] || 8 < n || leave != (n == 0) then (fail .badParameter, s)
    else match bufferCheck c s with
    | some e => (fail e, s)
    | none =>
      let ms := (List.range n).map (fun i => inU c (2 * i) 2)
      if c.inLen < 2 * n then (fail .badLength, s)
      else if !stookOk s ms leave then (fail .badParameter, s)
      else
        let (yes, s) := judge c { unit := 0x0A, obj := 2 ^ 33 } (.value (leNat (leBytes 32 c.args.toNat ++ c.input.take (2 * n)))) s
        if !yes then (fail .overruled, s) else (ok, setStook stook ms s)) s)

/-- The record of a slot in OLNEN.FLOW_STATUS (R404). -/
def flowRecord (s : State) (k : Nat) (x : Slot) : List Byte :=
  let rtts := (x.rtts.filter (fun e => decide (s.now ≤ e.1 + 10 * ms))).map (·.2)
  let base := match rtts with | [] => 0 | r :: t => t.foldl min r
  leBytes 2 (keyNode k) ++ leBytes 2 (keyRctx k) ++ leBytes 4 x.cwnd ++ leBytes 4 (min (2 ^ 32 - 1) x.srtt) ++ leBytes 4 (min (2 ^ 32 - 1) base) ++
  leBytes 4 x.unacked.length ++ leBytes 4 x.resent ++ leBytes 2 x.epoch ++ leBytes 1 x.timeouts ++ zeros 5

/-- OLNEN_FLOW_STATUS (R403, R404). -/
def execOlnenFlowStatus (c : Cmd) (s : State) : Host.Outcome State Fault Refusal :=
  .next (runCmd 0x0A 0x3E c (fun _ c s =>
    if !argsOnly c [] then (fail .badParameter, s)
    else match bufferCheck c s with
    | some e => (fail e, s)
    | none =>
      let xs := s.trn.slots.filter (fun e => keyCtx e.1 == cmdCtx s c)
      let r0 := s.trn.slots.length + min 0xFFFF s.trn.tombs.length * 2 ^ 16
      if c.outLen < 32 * xs.length then (.done { status := .badLength, r0 := r0 }, s)
      else (.done { r0 := r0, output := (xs.map (fun e => flowRecord s e.1 e.2)).flatten, space := 32 * xs.length }, s)) s)

/-! The Field's remote accesses (R387, R391, R393, R402) -/

/-- The run that a thread of a core works for. -/
def runAt (s : State) (core thread : Nat) : Option (Nat × Run) :=
  s.fld.runs.find? (fun e => bitOf e.2.threads thread && e.2.ranks.any (fun x => x.core == core && x.started && !x.lost))

/-- Whether a thread of a core can make a remote access: the core works, the thread waits for nothing. -/
def mayAccess (s : State) (core thread : Nat) : Bool :=
  inRotation (getCore s core).state && decide (thread < 4) && !s.trn.blocked.any (fun b => b.1 == core && b.2.1 == thread) && !stageHeld s core

/-- A thread waits for an operation, or for a message. -/
def threadWaits (core thread tag : Nat) (s : State) : State := { s with trn := { s.trn with blocked := s.trn.blocked ++ [(core, thread, tag)] } }

/-- The frame of a thread's load, store or atomic. -/
def threadFrame (job window offset kind : Nat) (operand swap : Word) : TFrame :=
  let f : TFrame := { blankFrame with job := job, window := window, offset := offset }
  if kind == 0 then { f with op := 0x01, operand := 8 }
  else if kind == 1 then { f with op := 0x02, last := true, msgLen := 0xFFFF, payload := leBytes 8 operand.toNat }
  else { f with op := 0x03, opFlags := kind - 2, operand := operand.toNat, payload := if kind == 7 then leBytes 8 swap.toNat else [] }

/-- The kind of a thread's operation. -/
def threadKind (kind : Nat) : OpKind := if kind == 0 then .load else if kind == 1 then .store else .atomic

/-- FIELD_REMOTE_ACCESS (R391): `kind` 0 is a load of 8 bytes, 1 a store of `operand`, 2-9 the atomics in the order of R377, 10 a wait for a message, 11 a flagged store of the word `operand` at `offset` without data. An access to a window that its home opened COHERENT goes through the remote line cache. -/
def execFieldRemoteAccess (core thread node rctx job window offset kind : Nat) (operand swap : Word) (coherent : Bool) (s : State) : Host.Outcome State Fault Refusal :=
  .next (match runAt s core thread with
  | none => s
  | some (_, r) =>
    let wait := threadWaits core thread
    let slot := protSlot s r.ctx (some job)
    if !mayAccess s core thread || 12 ≤ kind then s
    else if kind == 10 then (if (tblGetD (getCore s core).rxq thread []).isEmpty then wait msgWait s else s)
    else if cannotSend s r.ctx node rctx || (sealStatus s slot).isSome then s
    else if freeTags s == 0 then tagsExhausted s
    else if coherent && kind != 11 && inStook s node then
      let p : CohPend := { home := node, window := window, line := offset / 64, off := offset, core := core, thread := thread, kind := kind, operand := operand.toNat, swap := swap.toNat }
      let has := match cached? s node window (offset / 64) with | none => false | some c => c.owned || kind == 0
      let s := { (wait (msgWait + 1) s) with trn := { (wait (msgWait + 1) s).trn with cohPends := s.trn.cohPends ++ [p] } }
      if has then applyCached p s else sendCoh node (if kind == 0 then .getS else .getM) window (offset / 64) (kind != 0) [] s
    else
      let f : TFrame := { blankFrame with job := job, window := window, offset := offset }
      let op := fun (k : OpKind) (_ : Nat) => ({ kind := k, owner := .thread core thread, ctx := r.ctx, key := slotKey r.ctx node rctx } : TOp)
      let tag := (takeTag (op .load) s).1
      if kind == 11 then holdFlag (op .flag) 0 slot 0 { f with op := 0x02, flagged := true, operand := operand.toNat, msgLen := 0xFFFF, payload := leBytes 8 offset } s
      else wait tag (issueOp (op (threadKind kind)) slot 0 (threadFrame job window offset kind operand swap) s))

end Sys2Proof.Machine
end

