-- ==== Sys2Proof/Machine/OlnenOps.lean ====
section
/-! DEFINITION. The state machine of a port (R321-R335): lanes and width, replay, requests, entry to ACTIVE and to DOWN; discovery messages and claims (R339-R344); the steering of fabric time (R355-R357, R420). -/

namespace Sys2Proof.Machine

/-- A port sends a link frame. -/
def sendLink (p : Nat) (l : LinkOut) (s : State) : State := emit (.link p l) s

/-! Lanes (R330-R332) -/

def laneOf (x : Port) (l : Nat) : Lane := tblGetD x.lanes l {}

def modLane (l : Nat) (f : Lane → Lane) (x : Port) : Port := { x with lanes := tblSet x.lanes l (f (laneOf x l)) }

/-- The lanes of a port in a state, ascending. -/
def lanesIn (x : Port) (st : LaneState) : List Nat := (List.range 4).filter (fun l => (laneOf x l).state == st)

/-- The width of a port: its active lanes. -/
def portWidth (x : Port) : Nat := (lanesIn x .active).length

/-- Lanes that a RETRAIN or RESIZE may use, those in use first: active, idle, those that an ENABLE names first, and those that have passed quarantine; none that an order keeps IDLE. -/
def usableLanes (x : Port) : List Nat :=
  let idle := lanesIn x .idle
  (lanesIn x .active ++ idle.filter (fun l => (laneOf x l).asked) ++ idle.filter (fun l => !(laneOf x l).asked) ++ x.joining).filter (fun l => !(laneOf x l).restricted)

/-- The usable lanes in the order in which a request takes them: one made for lanes that have passed quarantine takes these before the IDLE ones (R332, R335). -/
def laneOrder (joins : Bool) (x : Port) : List Nat :=
  let ls := usableLanes x
  if joins then ls.filter (fun l => (laneOf x l).state == .active || x.joining.contains l) ++ ls.filter (fun l => (laneOf x l).state == .idle) else ls

/-- A set of lanes as the LANES mask of R333. -/
def laneMask (ls : List Nat) : Nat := sumN (ls.map (2 ^ ·))

/-- MIN_WIDTH, other values than 2 to 4 being taken as 2 (R362). -/
def minWidth (x : Port) : Nat := if 2 ≤ x.ctrl.minWidth && x.ctrl.minWidth ≤ 4 then x.ctrl.minWidth else 2

/-- Takes `n` of the usable lanes that the mask admits into use; other active lanes become IDLE (R332). -/
def takeLanes (n mask : Nat) (joins : Bool) (x : Port) : Port :=
  let use := ((laneOrder joins x).filter (fun l => bitOf mask l)).take n
  { x with lanes := (List.range 4).foldl (fun t l =>
      let y := tblGetD t l {}
      if use.contains l then tblSet t l { y with state := .active, asked := false } else if y.state == .active then tblSet t l { y with state := .idle } else t) x.lanes }

/-- The lane index of the tally and the sparks: port × 4 + lane. -/
def laneIndex (p l : Nat) : Nat := 4 * p + l

/-- Counts something that all lanes of a port take as a strain input (R484). -/
def portStrain (p inp n : Nat) (s : State) : State := (List.range 4).foldl (fun s l => strainAdd .lane (laneIndex p l) inp n s) s

/-! Replay (R324, R325) -/

/-- LSEQ of the last frame accepted, as ACK_SEQ gives it. -/
def lastAccepted (x : Port) : Nat := (x.expected + 4095) % 4096

/-- Frees the replay buffer up to an ACK_SEQ. -/
def linkAcked (p ackSeq : Nat) (s : State) : State :=
  let x := getPort s p
  let left := x.replay.dropWhile (fun r => serialGe 12 ackSeq r.lseq)
  if left.length == x.replay.length then s else setPort p { x with replay := left, progress := s.now } s

/-- Acknowledges the frames accepted on a port. -/
def linkAck (p : Nat) (s : State) : State :=
  let x := getPort s p
  sendLink p (.ack (lastAccepted x)) (setPort p { x with unacked := 0, ackSince := none } s)

/-- Resends every unacknowledged frame of a port in LSEQ order. -/
def resendLink (p : Nat) (s : State) : State :=
  let x := getPort s p
  let n := x.replay.length
  let s := setPort p { x with replay := x.replay.map (fun r => { r with resends := r.resends + 1 }), replays := satAdd 16 x.replays n, progress := s.now } s
  let s := portStrain p 2 n (tallyAdd .port p 0 n s)
  x.replay.foldl (fun s r => sendLink p (.data r.cls r.hops r.lseq r.frame) s) s

/-! Discovery headers (R339) -/

/-- The node's own discovery header on a port. -/
def ownDisc (s : State) (p : Nat) : Disc :=
  { version := 1, addr := s.oln.addr.getD 0, addrValid := s.oln.addr.isSome, epoch := s.oln.addrEpoch, uid := s.fuse.uid, port := p,
    variant := (match s.fuse.variant with | .a => 1 | .b => 2 | .c => 3), standIn := s.oln.standIn, stook := s.oln.stook, fieldGroup := s.oln.fieldGroup,
    queryId := 0, route := 0, ret := 0, hopCount := 0, hopIndex := 0, body := [] }

/-! Entry to ACTIVE and to DOWN (R326-R329, R338, R374) -/

/-- Credits of a class under a CREDIT_SHARE, in 64-byte units (R326, R361). -/
def shareUnits (share c : Nat) : Nat := bitsOf share (8 * c) 8 * 64

/-- A trained port enters ACTIVE: CREDIT_INIT and HELLO on a native link, PORT_UP. -/
def portUp (p : Nat) (s : State) : State :=
  let s := modPort p (fun x => { x with state := .active, progress := s.now }) s
  let x := getPort s p
  let s := if x.ethernet then s else sendLink p (.hello (ownDisc s p)) (sendLink p (.creditInit ((List.range 8).map (shareUnits x.share))) s)
  raiseNode .portUp (leBytes 1 p ++ leBytes 1 (portWidth x) ++ leBytes 1 (b2n x.ethernet)) s

/-- A trained port carries traffic when the node accepts discovery, and waits in HOLD before. -/
def portTrained (p : Nat) (s : State) : State := if s.oln.accepts then portUp p s else modPort p (fun x => { x with state := .hold }) s

/-- Ends the requests of a port with a status. -/
def endRequests (p : Nat) (st : Status) (s : State) : State :=
  let x := getPort s p
  let of := fun (r : Option PortReq) => match r with | none => [] | some r => r.oids
  endEnables (of x.request ++ of x.accepted ++ x.ending) st (setPort p { x with request := none, accepted := none, ending := [] } s)

/-- The transport resends a frame of its own that a link reports unacknowledged (R327, R374). -/
def relaunch (f : TFrame) (s : State) : State :=
  let k := slotKey f.srcCtx f.dstNode f.dstCtx
  if f.typ != 1 || s.oln.addr != some f.srcNode then s
  else match getSlot? s k with
  | none => s
  | some x =>
    match x.unacked.find? (fun o => o.frame.seq == f.seq) with
    | none => s
    | some o => launch k false { o with frame := { o.frame with retransmit := true } } s

/-- Frames that wait elsewhere no longer hold credits of a port (R327). -/
def forgetHeld (p : Nat) (s : State) : State :=
  let off := fun (f : QFrame) => if f.held == some p then { f with held := none } else f
  { s with hdl := { s.hdl with insts := tblMap s.hdl.insts (fun _ h => { h with express := h.express.map off, queues := tblMap h.queues (fun _ q => { q with packets := q.packets.map off }) }) } }

/-- A port goes DOWN: its link state is discarded, and frames that were not acknowledged are resent end to end (R327, R349, R374). -/
def portDown (p : Nat) (s : State) : State :=
  let x := getPort s p
  let was := x.state
  let up := was == .active || was == .retrain || was == .resize
  let s := endRequests p .linkDown s
  let s := modPort p (fun x => { x with
    state := .down, linkLost := x.linkLost || was == .active, lseq := 0, replay := [], credits := [], expected := 0, unacked := 0, ackSince := none, nakSent := false, paused := [], xoff := [],
    lanes := (List.range 4).foldl (fun t l => let y := tblGetD t l {}; if y.state == .active || y.state == .idle || x.joining.contains l then tblSet t l { y with state := .down } else t) x.lanes,
    joining := [], neighValid := false }) s
  let s := if up then tallyAdd .port p 2 1 s else s
  let s := x.joining.foldl (fun s l => endEnables (laneOf x l).enableBy .success (modPort p (modLane l (fun y => { y with enableBy := [] })) s)) s
  x.replay.foldl (fun s r => relaunch r.frame s) (forgetHeld p s)

/-- A port that carries traffic goes DOWN with PORT_DOWN: cause 0 an order, 1 R325, 2 the width. -/
def portDownEvent (p cause : Nat) (s : State) : State :=
  let st := (getPort s p).state
  let up := st == .active || st == .retrain || st == .resize
  let s := portDown p s
  if up then raiseNode .portDown (leBytes 1 p ++ leBytes 1 cause) s else s

/-! Requests (R325, R332-R334) -/

/-- A RETRAIN or RESIZE starts, at a width that the usable lanes allow; the fourth retrain within 1 s takes the port DOWN (R325). -/
def startChange (p : Nat) (r : PortReq) (inj : Bool) (s : State) : State :=
  let x := getPort s p
  let n := min r.width (usableLanes x).length
  let x := takeLanes n r.lanes r.joins { x with ending := x.ending ++ r.oids }
  if !r.retrain then setPort p { x with state := .resize } s
  else
    let times := s.now :: x.retrains.filter (fun t => decide (s.now < t + sec))
    let s := setPort p { x with state := .retrain, retrained := true, retrainCount := satAdd 8 x.retrainCount 1, retrains := times } s
    let s := if inj then countFault .port p 1 none true s else portStrain p 3 1 (tallyAdd .port p 1 1 s)
    if 4 ≤ times.length then portDownEvent p 1 (setPort p { getPort s p with state := .active, retrains := [] } s) else s

/-- Sends a request that the port holds. -/
def sendRequest (p : Nat) (s : State) : State :=
  let x := getPort s p
  match x.request with
  | none => s
  | some r =>
    let (n, s) := fresh s
    let token := Config.random n % 2 ^ 16
    let s := setPort p { x with request := some { r with token := token } } s
    sendLink p (.control (if r.retrain then 1 else 2) r.width token (laneMask (usableLanes x)) s.fuse.uid) s

/-- Asks for a RETRAIN or RESIZE; while one is under way the request waits. A port's second request joins its first. -/
def askChange (p : Nat) (retrain : Bool) (width : Nat) (oids : List Nat) (s : State) : State :=
  let x := getPort s p
  let r : PortReq := match x.request with
    | none => { retrain := retrain, width := width, token := 0, oids := oids }
    | some o => { o with retrain := o.retrain || retrain, width := if o.retrain == retrain then width else min o.width width, oids := o.oids ++ oids }
  let s := setPort p { x with request := some r } s
  if x.state == .active && x.accepted.isNone then sendRequest p s else s

/-- A frame has been resent 8 times: the port asks for a retrain (R325). -/
def replayLimit (p : Nat) (s : State) : State :=
  let x := getPort s p
  match x.request with
  | some r => if r.retrain then s else askChange p true (portWidth x) [] s
  | none => askChange p true (portWidth x) [] s

/-- The resend of R324, or the retrain of R325. -/
def replayOut (p : Nat) (s : State) : State :=
  let x := getPort s p
  if x.replay.isEmpty then s
  else
    let (fired, s) := sparkCheck 0x0A07 p s
    if fired.isSome || x.replay.any (fun r => r.resends != 0 && r.resends % 8 == 0) then
      let s := setPort p { getPort s p with replay := x.replay.map (fun r => { r with resends := r.resends + 1 }), progress := s.now } s
      replayLimit p (if fired.isSome then countFault .port p 1 none true s else s)
    else resendLink p s

/-- Asks for the RESIZE by which the lanes that have passed quarantine join (R332, R335); a request that is pending goes first. -/
def askJoin (p : Nat) (s : State) : State :=
  let x := getPort s p
  if x.joining.isEmpty || x.request.isSome || x.accepted.isSome then s
  else
    let s := setPort p { x with request := some { retrain := false, width := min 4 (portWidth x + x.joining.length), token := 0, joins := true } } s
    if x.state == .active then sendRequest p s else s

/-- The request that waited, judged against the lanes that there are (R334): a RETRAIN runs at what is usable, a RESIZE to more lanes than that ends with BAD_STATE, and lanes that it was to make IDLE stay. -/
def nextRequest (p : Nat) (s : State) : State :=
  let x := getPort s p
  match x.request with
  | none => askJoin p s
  | some r =>
    let most := (usableLanes x).length
    if most < r.width && !r.retrain then askJoin p (endRequests p .badState (setPort p { x with lanes := tblMap x.lanes (fun _ y => if y.state == .active then { y with restricted := false } else y) } s))
    else sendRequest p (setPort p { x with request := some { r with width := min r.width most } } s)

/-- A RETRAIN or RESIZE has ended: the port is ACTIVE, resends what is unacknowledged, joining lanes have rejoined, its commands complete, and a request that waited is sent (R332, R334, R335). -/
def endChange (p : Nat) (s : State) : State :=
  let x := getPort s p
  let joined := x.joining.filter (fun l => (laneOf x l).state == .active)
  let s := setPort p { x with state := .active, progress := s.now, ending := [], joining := x.joining.filter (fun l => !joined.contains l) } s
  let s := resendLink p s
  let s := joined.foldl (fun s l =>
    let by_ := (laneOf (getPort s p) l).enableBy
    let s := raiseNode .laneRejoined (leBytes 1 p ++ leBytes 1 l ++ leBytes 1 (portWidth x)) (modPort p (modLane l (fun y => { y with enableBy := [], attempts := 0, tried := false })) s)
    endEnables by_ .success s) s
  nextRequest p (endEnables x.ending .success s)

/-! Lane loss (R330-R332, R338) -/

/-- A pending request once a lane is lost: the commands of one that was accepted wait with it (R334). -/
def keepRequest (r a : Option PortReq) : Option PortReq :=
  let oids := match a with | none => [] | some a => a.oids
  match r with
  | some r => some { r with oids := r.oids ++ oids }
  | none => if oids.isEmpty then none else a

/-- A link goes on without a lane: on the others through RESIZE, or DOWN. Pending requests are judged against the lanes that remain once the remap is done (R331, R332, R334). -/
def narrow (p : Nat) (s : State) : State :=
  let x := getPort s p
  if x.ethernet || portWidth x < minWidth x then portDownEvent p 2 s
  else if x.state == .active then setPort p { x with state := .resize, request := keepRequest x.request x.accepted, accepted := none } s
  else s

/-- A lane is lost: cause 0 signal or clock, 1 marker lock, 2 error ratio. -/
def loseLane (p l cause : Nat) (inj detected : Bool) (s : State) : State :=
  let x := getPort s p
  let st := (laneOf x l).state
  if st != .active && st != .idle then s
  else
    let s := setPort p { modLane l (fun y => { y with state := .lost, since := s.now, tried := false, attempts := 0 }) x with laneLost := true } s
    let i := laneIndex p l
    let s := strainUpdate .lane i (countFault .lane i 2 (some 4) inj s)
    let w := portWidth (getPort s p)
    let s := raiseN .laneDegraded inj 1 [.ctx 0] (leBytes 1 p ++ leBytes 1 l ++ leBytes 1 (if w < minWidth x then 0 else w) ++ leBytes 1 cause) s
    let s := if detected && !x.ethernet then sendLink p (.control 3 0 0 (2 ^ l) 0) s else s
    if st == .active then narrow p s else s

/-- Whether a port's link is trained, so that its lanes are measured. -/
def linkTrained (x : Port) : Bool := match x.state with | .down | .training => false | _ => true

/-- Starts a lane's quarantine: it is trained alone and sends PRBS31Q (R335). -/
def startQuarantine (p l : Nat) (s : State) : State :=
  sendLink p .prbs (modPort p (modLane l (fun y => { y with state := .quarantine, since := s.now, tried := true, wasFenced := y.state == .fenced })) s)

/-! Claims and addresses (R342, R343, R397) -/

/-- ACTIVE native ports. -/
def activePorts (s : State) : List Nat := (List.range (nPorts s)).filter (fun p => let x := getPort s p; !x.ethernet && x.state == .active)

/-- Remembers the highest epoch seen for an address. -/
def noteEpoch (addr epoch : Nat) (uid : BitVec 128) (s : State) : State :=
  let newer := match tblGet? s.oln.seen addr with | none => true | some (e, _) => decide (e < epoch)
  if newer then { s with oln := { s.oln with seen := tblSet s.oln.seen addr (epoch, uid) } } else s

/-- Floods the node's CLAIM on every ACTIVE native port. -/
def floodClaim (s : State) : State :=
  match s.oln.addr with
  | none => s
  | some a =>
    let c : Claim := { addr := a, epoch := s.oln.addrEpoch, uid := s.fuse.uid }
    let s := { s with oln := { s.oln with forwarded := if s.oln.forwarded.contains c then s.oln.forwarded else s.oln.forwarded ++ [c] } }
    (activePorts s).foldl (fun s p => sendLink p (.claim (olnenParam s 0x01) (ownDisc s p)) s) s

/-- The node takes or releases its address (R342). -/
def applyAddr (a : AddrSet) (s : State) : State :=
  let s := { s with oln := { s.oln with addrNext := none, stook := a.stook, standIn := a.standIn, fieldGroup := a.group } }
  let before := match tblGet? s.oln.seen a.addr with | none => false | some (e, u) => u != s.fuse.uid && decide (e < a.epoch)
  if a.release then { s with oln := { s.oln with addr := none, tookOver := false } }
  else floodClaim (noteEpoch a.addr a.epoch s.fuse.uid { s with oln := { s.oln with addr := some a.addr, addrEpoch := a.epoch, tookOver := before } })

/-- What the holder of an address does on a CLAIM or HELLO for it from another UID (R343). -/
def contest (addr epoch : Nat) (uid : BitVec 128) (s : State) : State :=
  if s.oln.addr != some addr || uid == s.fuse.uid then s
  else
    let detail := leBytes 2 addr ++ zeros 2 ++ leBytes 4 epoch ++ leBytes 16 uid.toNat
    if s.oln.addrEpoch < epoch then
      let d := s.hlt.drain
      raiseNode .addressReleased detail { s with oln := { s.oln with addr := none, tookOver := false }, hlt := { s.hlt with drain := if d.phase == .ready then { d with phase := .done } else d } }
    else if s.oln.addrEpoch == epoch then raiseNode .addressConflict detail { s with oln := { s.oln with addr := none, tookOver := false } }
    else floodClaim s

/-! Fabric time (R355-R357, R420) -/

/-- A pending rotation takes over at a fabric time (R419): it is active from then on, with T as its phase base. -/
def takeOver (i : Nat) (late : Bool) (s : State) : State :=
  let h := getInst s i
  match h.pending with
  | none => s
  | some r =>
    let t := fabricTime s
    let s := setInst i { h with rotation := some { r with phaseBase := if r.phaseBase == 0 then t else r.phaseBase }, pending := none } s
    let dst := match r.mgmt with | some c => Rcpt.mgmt c | none => Rcpt.ctx r.ctx
    raise .rotationTakeover [dst] (leBytes 1 i ++ leBytes 1 (b2n late) ++ zeros 6 ++ leBytes 8 (if r.takeover == 0 then t else r.takeover)) s

/-- A forward step of fabric time makes the takeovers that it crosses happen, late (R420). -/
def crossTakeovers (before : Nat) (s : State) : State :=
  (s.hdl.insts.map (·.1)).foldl (fun s i =>
    match (getInst s i).pending with
    | none => s
    | some r => if r.takeover != 0 && decide (before < r.takeover) && decide (r.takeover ≤ fabricTime s) then takeOver i true s else s) s

/-- Corrects fabric time by `-off` ns: slewed up to 1 ms, stepped beyond (R357). -/
def steer (off : Int) (s : State) : State :=
  let base := s.oln.fabOffset + slewed s
  if off.natAbs ≤ ms then { s with oln := { s.oln with fabOffset := base, slew := -off, slewFrom := s.now } }
  else
    let before := fabricTime s
    let s := { s with oln := { s.oln with fabOffset := base - off, slew := 0, slewFrom := s.now } }
    crossTakeovers before (raiseNode .fabricTimeStep (leBytes 8 (toTwos 64 (-off))) s)

/-- One sync interval: LOCKED after 5 in a row below 200 ns (R356). -/
def noteSync (off : Int) (s : State) : State :=
  let good := if off.natAbs < 200 then s.oln.good + 1 else 0
  let locked := s.oln.sync == .locked || decide (5 ≤ good)
  let s := { s with oln := { s.oln with good := good, lastSync := s.now, sync := if locked then .locked else .acquiring } }
  if locked then { s with hlt := { s.hlt with tally := { s.hlt.tally with unsync := false } } } else s

end Sys2Proof.Machine
end

