-- ==== Sys2Proof/Machine/OlnenLink.lean ====
section
/-! DEFINITION. The rows of Olnen's links: received link frames and control frames, training, lanes (file 11, R323-R335). -/

namespace Sys2Proof.Machine

/-! Link frames (R323-R329, R344-R348) -/

/-- Units of 64 bytes of a port's receive buffer that forwarded frames of a class still hold (R326, R337). -/
def heldUnits (s : State) (p cls : Nat) : Nat :=
  let units := fun (l : List QFrame) => sumN (l.map (fun f => if f.held == some p && f.out.cls == cls then frameCredits f.out.frame else 0))
  sumN (s.hdl.insts.map (fun e => units e.2.express + sumN (e.2.queues.map (fun q => units q.2.packets))))

/-- Priority flow control of a port in Ethernet mode, for a class of PFC_MASK: XOFF once its share of the receive buffer is 80 % full, XON at 50 % (R337). -/
def checkPfc (p cls : Nat) (s : State) : State :=
  let x := getPort s p
  let n := heldUnits s p cls
  if !bitOf (getU x.eth 7 1) cls then s
  else if !x.xoff.contains cls && 8 * shareUnits x.share cls ≤ 10 * n then sendLink p (.pfc cls true) (setPort p { x with xoff := setAdd x.xoff cls } s)
  else if x.xoff.contains cls && 2 * n ≤ shareUnits x.share cls then sendLink p (.pfc cls false) (setPort p { x with xoff := setDel x.xoff cls } s)
  else s

/-- A frame leaves the receive buffer of a port: its credits go back to the neighbour that sent it, or on a port in Ethernet mode XON may be due (R326, R337). -/
def returnCredits (p cls : Nat) (f : TFrame) (s : State) : State :=
  if (getPort s p).ethernet then checkPfc p cls s else sendLink p (.credit cls (frameCredits f)) s

/-- Counts a dropped frame in DROPPED_KIND (R362). -/
def countDropped (p : Nat) (s : State) : State := modPort p (fun x => { x with droppedKind := satAdd 16 x.droppedKind 1 }) s

/-- The estimated time until the node accepts discovery, in µs, at least 10,000 (R329, R524). -/
def holdBackoff (s : State) : Nat := max 10000 (ceilDiv (s.mod.t0 + 750 * ms - s.now) us)

/-- Credits that a neighbour returns for a class (R326). -/
def takeCredits (p cls units : Nat) (s : State) : State :=
  modPort p (fun x => if x.ethernet || x.state == .down then x else { x with credits := tblMod x.credits (cls % 8) 0 (· + units) }) s

/-- What the header of a sound frame says beside its kind: an acknowledgement, and credits returned (R323). -/
def linkHeader (p : Nat) (f : LFrame) (s : State) : State :=
  let s := if f.ackValid then linkAcked p f.ackSeq s else s
  if f.creditUnits == 0 then s else takeCredits p f.creditClass f.creditUnits s

/-- Where an accepted DATA frame goes: delivered, forwarded, or discarded with ROUTE_LOOP (R344-R348). -/
def routeIn (p cls hops : Nat) (f : TFrame) (s : State) : State :=
  let o : OutFrame := { frame := f, cls := cls }
  if s.oln.addr == some f.dstNode then returnCredits p cls f { s with trn := { s.trn with arrived := s.trn.arrived ++ [{ port := p, out := o }] } }
  else if hops == 0 then
    raiseLimited .routeLoop false p sec [.ctx 0] (leBytes 1 p ++ zeros 1 ++ leBytes 2 f.dstNode) (returnCredits p cls f (countDropped p s))
  else
    match chooseHop s none o with
    | .port q => putOut (.port q) (queueKept s q o) o (hops - 1) (some p) s
    | _ => returnCredits p cls f s

/-- LINK_DATA_RECEIVE (R323, R324, R326, R329, R346, R348): a sound frame of a reserved KIND is dropped and counted. An acknowledgement or credits that a frame of a kind with a row of its own carries come as that row after LINK_ACK_RECEIVE or LINK_CREDIT_RECEIVE (log entry 83). -/
def execLinkDataReceive (port : Nat) (f : LFrame) (s : State) : Host.Outcome State Fault Refusal :=
  .next (
    let x := getPort s port
    if x.ethernet then s
    else if f.kind != 0 then (if linkTrained x && f.crcOk then countDropped port s else s)
    else if x.state == .hold then sendLink port (.notReady (holdBackoff s) 0) s
    else if x.state != .active then s
    else
      let (fired, s) := sparkCheck 0x0A03 port s
      let s := if f.crcOk && fired.isNone then linkHeader port f s else s
      let x := getPort s port
      if !f.crcOk || fired.isSome || f.lseq != x.expected then
        if x.nakSent then s else sendLink port (.nak (lastAccepted x)) (setPort port { x with nakSent := true, unacked := 0, ackSince := none } s)
      else
        let x := { x with expected := (x.expected + 1) % 4096, nakSent := false, unacked := x.unacked + 1, ackSince := some (x.ackSince.getD s.now) }
        let s := setPort port x s
        let s := if 64 ≤ x.unacked then linkAck port s else s
        routeIn port f.cls f.hopsLeft f.frame s)

/-- LINK_ACK_RECEIVE (R324). -/
def execLinkAckReceive (port ackSeq : Nat) (s : State) : Host.Outcome State Fault Refusal := .next (linkAcked port ackSeq s)

/-- LINK_NAK_RECEIVE (R324, R325). -/
def execLinkNakReceive (port ackSeq : Nat) (s : State) : Host.Outcome State Fault Refusal :=
  .next (if (getPort s port).state == .active then replayOut port (linkAcked port ackSeq s) else linkAcked port ackSeq s)

/-- LINK_CREDIT_RECEIVE (R326). -/
def execLinkCreditReceive (port cls units : Nat) (s : State) : Host.Outcome State Fault Refusal :=
  .next (takeCredits port cls units s)

/-- LINK_REPLAY_TIMEOUT (R324, R325). -/
def execLinkReplayTimeout (port : Nat) (s : State) : Host.Outcome State Fault Refusal :=
  .next (
    let x := getPort s port
    if x.state == .active && !x.replay.isEmpty && decide (x.progress + 4 * us ≤ s.now) then replayOut port s else s)

/-- LINK_ACK_TIMER (R324). -/
def execLinkAckTimer (port : Nat) (s : State) : Host.Outcome State Fault Refusal :=
  .next (match (getPort s port).ackSince with
  | none => s
  | some t => if t + 500 ≤ s.now then linkAck port s else s)

/-! Control frames (R326, R331, R333, R334) -/

/-- The partner's request meets this port's state (R334): alone it is accepted; against a pending request the leader's kind is done at the smaller width. -/
def meetRequest (p : Nat) (r : PortReq) (uid : BitVec 128) (s : State) : State :=
  let x := getPort s p
  let most := (usableLanes x).length
  let before := match x.accepted with | none => [] | some a => a.oids
  let yields := fun (r : PortReq) (s : State) => sendLink p (.control 4 r.width r.token (laneMask (usableLanes x)) 0) (modPort p (fun x => { x with request := none, accepted := some r }) s)
  if x.ethernet || x.state != .active || uid == s.fuse.uid then s
  else match x.request with
  | none => yields { r with width := min r.width most, oids := before, joins := !x.joining.isEmpty } s
  | some o =>
    let mine := o.token * 2 ^ 128 + s.fuse.uid.toNat
    let theirs := r.token * 2 ^ 128 + uid.toNat
    let width := min (min o.width r.width) most
    let theyLead := if o.retrain == r.retrain then decide (mine < theirs) else r.retrain
    if theyLead then yields { r with width := width, oids := before ++ o.oids, joins := o.joins } s
    else setPort p { x with request := some { o with width := width, lanes := o.lanes &&& r.lanes } } s

/-- CONTROL_RETRAIN (R334). -/
def execControlRetrain (port width token lanes : Nat) (uid : BitVec 128) (s : State) : Host.Outcome State Fault Refusal :=
  .next (meetRequest port { retrain := true, width := width, token := token, lanes := lanes } uid s)

/-- CONTROL_RESIZE (R334): a request for more lanes than the port has usable is done at what it has. -/
def execControlResize (port width token lanes : Nat) (uid : BitVec 128) (s : State) : Host.Outcome State Fault Refusal :=
  .next (meetRequest port { retrain := false, width := width, token := token, lanes := lanes } uid s)

/-- CONTROL_ACCEPT (R334): the leader sends GO and begins, on lanes that both sides can use. -/
def execControlAccept (port width token lanes : Nat) (s : State) : Host.Outcome State Fault Refusal :=
  .next (
    let x := getPort s port
    match x.request with
    | none => s
    | some r =>
      if x.state != .active || r.token != token then s
      else
        let r := { r with width := min r.width width, lanes := r.lanes &&& lanes }
        startChange port r false (sendLink port (.control 5 r.width token (laneMask (usableLanes x)) 0) (setPort port { x with request := none } s)))

/-- CONTROL_GO (R334): the agreed retrain or resize begins. -/
def execControlGo (port width token lanes : Nat) (s : State) : Host.Outcome State Fault Refusal :=
  .next (
    let x := getPort s port
    match x.accepted with
    | none => s
    | some r => if x.state != .active || r.token != token then s else startChange port { r with width := min r.width width, lanes := r.lanes &&& lanes } false (setPort port { x with accepted := none } s))

/-- CONTROL_LANE_LOST (R331). -/
def execControlLaneLost (port lanes : Nat) (s : State) : Host.Outcome State Fault Refusal :=
  .next (if (getPort s port).ethernet || !linkTrained (getPort s port) then s
    else ((List.range 4).filter (bitOf lanes)).foldl (fun s l => loseLane port l 0 false false s) s)

/-- CONTROL_CREDIT_INIT (R326). -/
def execControlCreditInit (port : Nat) (credits : List Nat) (s : State) : Host.Outcome State Fault Refusal :=
  .next (modPort port (fun x => if x.ethernet || !linkTrained x then x else { x with credits := (List.range 8).map (fun c => (c, credits.getD c 0)) }) s)

/-! Link states (R328, R329, R338) -/

/-- The lanes of a port that begins training: those that were in use are DOWN. -/
def untrained (t : Tbl Lane) : Tbl Lane :=
  (List.range 4).foldl (fun t l => let y := tblGetD t l {}; if y.state == .active || y.state == .idle then tblSet t l { y with state := .down } else t) t

/-- SIGNAL_DETECT (R328). -/
def execSignalDetect (port : Nat) (s : State) : Host.Outcome State Fault Refusal :=
  .next (
    let x := getPort s port
    if nPorts s ≤ port || x.state != .down || x.service == .fenced || x.backoff.isSome then s
    else setPort port { x with state := .training, failures := 0, lanes := untrained x.lanes } s)

/-- The lanes of a mask that training has brought up. -/
def trainedOf (x : Port) (lanes : Nat) : List Nat := (List.range 4).filter (fun l => bitOf lanes l && (laneOf x l).state == .down)

/-- Whether the trained lanes are enough for the port. -/
def trainedEnough (x : Port) (lanes : Nat) : Bool :=
  if x.ethernet then (trainedOf x lanes).length == 4 else decide (minWidth x ≤ (trainedOf x lanes).length)

/-- The lanes of a port that has trained at a time: those that came up are in use, the others LOST. -/
def trainedLanes (x : Port) (lanes now : Nat) : Tbl Lane :=
  (List.range 4).foldl (fun t l =>
    let y := tblGetD t l {}
    if (trainedOf x lanes).contains l then tblSet t l { y with state := if y.restricted then .idle else .active } else if y.state == .down then tblSet t l { y with state := .lost, since := now, tried := false, attempts := 0 } else t) x.lanes

/-- LINK_TRAINING_DONE (R326, R328, R329): a port in Ethernet mode has no MISMATCH, and a partner in the other mode is a failure to it (log entry 83). The credit shares are those that CONFIG gives now. A port that an ENABLE has put in quarantine then sends PRBS31Q. -/
def execLinkTrainingDone (port : Nat) (ok : Bool) (lanes : Nat) (otherMode : Bool) (s : State) : Host.Outcome State Fault Refusal :=
  .next (
    let x := getPort s port
    if x.state != .training || portWidth x != 0 then s
    else if otherMode && !x.ethernet then raiseNode .portModeMismatch (leBytes 1 port ++ leBytes 1 (b2n (!x.ethernet))) (setPort port { x with state := .mismatch } s)
    else if ok && !otherMode && trainedEnough x lanes then
      let s := setPort port { x with failures := 0, share := olnenParam s 0x06, lanes := trainedLanes x lanes s.now } s
      if x.service == .quarantine then sendLink port .prbs s else portTrained port s
    else if x.failures + 1 < 3 then setPort port { x with failures := x.failures + 1 } s
    else setPort port { x with state := .down, failures := 0, backoff := some (s.now + sec) } s)

/-- TRAINING_BACKOFF_EXPIRY (R328). -/
def execTrainingBackoffExpiry (port : Nat) (s : State) : Host.Outcome State Fault Refusal :=
  .next (modPort port (fun x => match x.backoff with | none => x | some t => if t ≤ s.now then { x with backoff := none } else x) s)

/-- RETRAIN_DONE (R327, R328, R334). -/
def execRetrainDone (port : Nat) (s : State) : Host.Outcome State Fault Refusal :=
  .next (if (getPort s port).state == .retrain then endChange port s else s)

/-- RESIZE_DONE (R327, R328, R332). -/
def execResizeDone (port : Nat) (s : State) : Host.Outcome State Fault Refusal :=
  .next (if (getPort s port).state == .resize then endChange port s else s)

/-- DISCOVERY_ACCEPT (R329, R524): the node accepts discovery, and ports in HOLD enter ACTIVE. -/
def execDiscoveryAccept (s : State) : Host.Outcome State Fault Refusal :=
  .next (if s.oln.accepts then s
    else ((List.range (nPorts s)).filter (fun p => (getPort s p).state == .hold)).foldl (fun s p => portUp p s) { s with oln := { s.oln with accepts := true } })

/-! Lanes (R330, R331, R335) -/

/-- LANE_LOSS (R330, R331, R338): cause 0 loss of signal or clock, else loss of alignment-marker lock. -/
def execLaneLoss (port lane cause : Nat) (s : State) : Host.Outcome State Fault Refusal :=
  .next (
    let (fired, s) := sparkCheck 0x0A04 (laneIndex port lane) s
    if linkTrained (getPort s port) then loseLane port lane (min cause 1) fired.isSome true s else s)

/-- A lane's measurement is noted, and its codewords are counted. -/
def noteSample (port lane berTenths corrected uncorrected : Nat) (one two : Bool) (s : State) : State :=
  let i := laneIndex port lane
  let s := modPort port (fun x => { modLane lane (fun y => { y with ber := berTenths % 256 }) x with cwCorrected := satAdd 32 x.cwCorrected (corrected + b2n one), cwUncorrected := satAdd 16 x.cwUncorrected (uncorrected + b2n two) }) s
  let s := strainAdd .lane i 0 corrected (tallyAdd .lane i 0 corrected s)
  strainAdd .lane i 1 uncorrected (tallyAdd .lane i 1 uncorrected s)

/-- LANE_BER_SAMPLE (R330): the lane's measurement, its codeword counts, and its loss above the threshold. -/
def execLaneBerSample (port lane : Nat) (aboveThreshold : Bool) (berTenths cwCorrected cwUncorrected : Nat) (s : State) : Host.Outcome State Fault Refusal :=
  .next (
    let i := laneIndex port lane
    let x := getPort s port
    let st := (laneOf x lane).state
    if !linkTrained x || (st != .active && st != .idle) then s
    else
      let (one, s) := sparkCheck 0x0A01 i s
      let (two, s) := sparkCheck 0x0A02 i s
      let (ber, s) := sparkCheck 0x0A05 i s
      let s := noteSample port lane berTenths cwCorrected cwUncorrected one.isSome two.isSome s
      let s := if one.isSome then countFault .lane i 0 none true s else s
      let s := if two.isSome then countFault .lane i 1 none true s else s
      if aboveThreshold || ber.isSome then loseLane port lane 2 (ber.isSome && !aboveThreshold) true s else s)

/-- LANE_REJOIN_TIMER (R335). -/
def execLaneRejoinTimer (port lane : Nat) (s : State) : Host.Outcome State Fault Refusal :=
  .next (
    let x := getPort s port
    let y := laneOf x lane
    let wait := if y.tried then 60 * sec else 10 * sec
    if x.ethernet || !x.ctrl.autoRejoin || y.state != .lost || isRetired s .lane (laneIndex port lane) || s.now < y.since + wait then s
    else startQuarantine port lane s)

/-- The DETAIL of QUARANTINE_PASSED and QUARANTINE_FAILED (R467, R475). -/
def quarantineDetail (c : PartClass) (i : Nat) (step : Option Nat) : List Byte :=
  leBytes 1 (partClassCode c) ++ zeros 1 ++ leBytes 2 i ++ (match step with | none => [] | some k => leBytes 1 k)

/-- The end of a lane's quarantine (R332, R335, R475). -/
def laneQuarantined (port lane : Nat) (pass : Bool) (step : Nat) (s : State) : State :=
    let x := getPort s port
    let y := laneOf x lane
    let i := laneIndex port lane
    if y.state != .quarantine || x.joining.contains lane then s
    else if pass then
      let s := raiseNode .quarantinePassed (quarantineDetail .lane i none) s
      if x.state == .active || x.state == .retrain || x.state == .resize then
        askJoin port (setPort port { x with joining := x.joining ++ [lane] } s)
      else endEnables y.enableBy .success (setPort port (modLane lane (fun y => { y with state := .down, enableBy := [] }) x) s)
    else
      let s := raiseNode .quarantineFailed (quarantineDetail .lane i (some step)) (tallyAdd .lane i 3 1 s)
      let fence := y.wasFenced || decide (10 ≤ y.attempts + 1)
      let s := setPort port (modLane lane (fun y => { y with state := if fence then .fenced else .lost, attempts := y.attempts + 1, enableBy := [], wasFenced := false }) x) s
      endEnables y.enableBy .unitFenced (if fence then recordFence .lane i 2 true false s else s)

/-- LANE_QUARANTINE_DONE (R332, R335, R475). -/
def execLaneQuarantineDone (port lane : Nat) (pass : Bool) (step : Nat) (s : State) : Host.Outcome State Fault Refusal := .next (laneQuarantined port lane pass step s)

end Sys2Proof.Machine
end

