-- ==== Sys2Proof/Machine/OlnenFabric.lean ====
section
/-! DEFINITION. The rows of discovery, routing and multicast timers, fabric time and Ethernet mode (file 11, R336-R358). -/

namespace Sys2Proof.Machine

/-! Discovery (R339-R344) -/

/-- Whether a native port takes discovery messages: any trained link (R328). -/
def discPort (s : State) (p : Nat) : Bool := let x := getPort s p; decide (p < nPorts s) && !x.ethernet && linkTrained x

/-- A discovery message of an unknown VERSION puts the port in MISMATCH (R328). -/
def versionMismatch (p : Nat) (d : Disc) (s : State) : State :=
  if (getPort s p).state == .mismatch then s
  else raiseNode .portModeMismatch (leBytes 1 p ++ leBytes 1 d.version) (endRequests p .linkDown (modPort p (fun x => { x with state := .mismatch }) s))

/-- HELLO_RECEIVE (R340, R343). -/
def execHelloReceive (port : Nat) (d : Disc) (s : State) : Host.Outcome State Fault Refusal :=
  .next (
    if !discPort s port then s
    else if d.version != 1 then versionMismatch port d s
    else if d.uid == s.fuse.uid then
      if (getPort s port).state == .loopback then s
      else raiseNode .olnenLoopback (leBytes 1 port ++ leBytes 1 d.port) (endRequests port .linkDown (modPort port (fun x => { x with state := .loopback }) s))
    else
      let s := modPort port (fun x => { x with neighUid := some d.uid, neighAddr := d.addr, neighValid := d.addrValid, neighEpoch := d.epoch, neighPort := d.port }) s
      if d.addrValid then contest d.addr d.epoch d.uid (noteEpoch d.addr d.epoch d.uid s) else s)

/-- The 24-byte record of a port in a REPLY (R339). -/
def replyRecord (s : State) (p : Nat) : List Byte :=
  let x := getPort s p
  if nPorts s ≤ p then zeros 24
  else leBytes 1 (portStateCode x.state) ++ leBytes 1 (if x.state == .active then portWidth x else 0) ++ leBytes 1 (if x.neighUid.isSome then x.neighPort else 0) ++ zeros 5 ++ leBytes 16 (match x.neighUid with | some u => u.toNat | none => 0)

/-- Sends a discovery answer on the port on which its question came: a link frame, or in Ethernet mode over UDP to the asker's IP address, at UDP_PORT + 1 (R336, R341). -/
def sendDisc (p ip : Nat) (d : Disc) (s : State) : State :=
  if (getPort s p).ethernet then sendLink p (.ethControl .discovery ip (udpPort (getPort s p).eth + 1) d) s else sendLink p (.reply d) s

/-- Tokens of a port's bucket now: one for each 1 ms, at most 16 (R341). -/
def tokensNow (s : State) (x : Port) : Nat := min 16 (x.bucket + (s.now - x.bucketAt) / ms)

/-- A QUERY: forwarded along its route, answered, or refused at the rate limit (R341). -/
def queryAct (p ip : Nat) (d : Disc) (s : State) : State :=
  if d.hopIndex < d.hopCount then
    let out := bitsOf d.route (4 * d.hopIndex) 4
    let y := getPort s out
    if nPorts s ≤ out || y.ethernet || y.state != .active then s
    else sendLink out (.query { d with ret := d.ret ||| p * 2 ^ (4 * d.hopIndex), hopIndex := d.hopIndex + 1 }) s
  else
    let x := getPort s p
    let tokens := tokensNow s x
    let since := (s.now - x.bucketAt) % ms
    let at_ := if x.bucket + (s.now - x.bucketAt) / ms < 16 then s.now - since else s.now
    if tokens == 0 then sendLink p (.notReady (hintUs (ceilDiv (ms - since) us)) 1) (setPort p { x with discLimited := true } s)
    else
      let s := setPort p { x with bucket := tokens - 1, bucketAt := at_ } s
      sendDisc p ip { ownDisc s p with queryId := d.queryId, route := d.route, ret := d.ret, hopCount := d.hopCount, hopIndex := d.hopIndex, body := ((List.range 16).map (replyRecord s)).flatten } s

/-- QUERY_RECEIVE (R329, R341). -/
def execQueryReceive (port : Nat) (d : Disc) (s : State) : Host.Outcome State Fault Refusal :=
  .next (
    if !discPort s port then s
    else if d.version != 1 then versionMismatch port d s
    else if (getPort s port).state == .hold then sendLink port (.notReady (holdBackoff s) 0) s
    else queryAct port 0 d s)

/-- The 448 bytes of a REPLY (R339, R359). -/
def replyBytes (d : Disc) : List Byte :=
  leBytes 1 3 ++ leBytes 1 d.version ++ leBytes 2 (d.addr % 4096 + 2 ^ 15 * b2n d.addrValid) ++ leBytes 4 d.epoch ++ leBytes 16 d.uid.toNat ++
  leBytes 1 d.port ++ leBytes 1 d.variant ++ leBytes 1 (b2n d.standIn) ++ leBytes 1 d.stook ++ leBytes 2 d.fieldGroup ++ zeros 2 ++
  leBytes 8 d.queryId ++ leBytes 8 d.route ++ leBytes 8 d.ret ++ leBytes 1 d.hopCount ++ leBytes 1 d.hopIndex ++ zeros 6 ++ (d.body ++ zeros 384).take 384

/-- REPLY_RECEIVE (R341, R359). -/
def execReplyReceive (port : Nat) (d : Disc) (s : State) : Host.Outcome State Fault Refusal :=
  .next (
    if !discPort s port then s
    else if d.version != 1 then versionMismatch port d s
    else if d.hopIndex == 0 then
      match tblGet? s.oln.discovers d.queryId with
      | none => s
      | some q => finish q.oid { output := replyBytes d, space := 448 } { s with oln := { s.oln with discovers := tblDel s.oln.discovers d.queryId } }
    else
      let out := bitsOf d.ret (4 * (d.hopIndex - 1)) 4
      let y := getPort s out
      if nPorts s ≤ out || y.state != .active then s else sendDisc out 0 { d with hopIndex := d.hopIndex - 1 } s)

/-- Forwards a CLAIM on the other ACTIVE ports, once, while it has hops left (R342). -/
def forwardClaim (port hops : Nat) (d : Disc) (s : State) : State :=
  let c : Claim := { addr := d.addr, epoch := d.epoch, uid := d.uid }
  if s.oln.forwarded.contains c then s
  else
    let s := { s with oln := { s.oln with forwarded := s.oln.forwarded ++ [c] } }
    if hops == 0 then s else ((activePorts s).filter (· != port)).foldl (fun s p => sendLink p (.claim (hops - 1) d) s) s

/-- Whether a slot to an address began under a lower epoch than a CLAIM carries (R364, R397). -/
def slotBehind (s : State) (d : Disc) : Bool := s.trn.slots.any (fun e => keyNode e.1 == d.addr && (match e.2.peerEpoch with | none => false | some n => decide (n < d.epoch)))

/-- Whether an address was known under a lower epoch, by the node or by a slot; a HELLO may have told the node of the new one before. -/
def claimMoves (s : State) (d : Disc) : Bool := slotBehind s d || (match tblGet? s.oln.seen d.addr with | none => false | some (e, _) => decide (e < d.epoch))

/-- CLAIM_RECEIVE (R342, R343, R397). -/
def execClaimReceive (port hops : Nat) (d : Disc) (s : State) : Host.Outcome State Fault Refusal :=
  .next (
    if !discPort s port then s
    else if d.version != 1 then versionMismatch port d s
    else
      let moved := claimMoves s d
      let s := forwardClaim port hops d s
      let s := contest d.addr d.epoch d.uid (noteEpoch d.addr d.epoch d.uid s)
      if moved && s.oln.addr != some d.addr then endNode d.addr (.moved d.epoch) s else s)

/-- NOT_READY_RECEIVE (R329, R359): an OLNEN.DISCOVER that waits on the port completes with BUSY. -/
def execNotReadyReceive (port backoffUs reason : Nat) (s : State) : Host.Outcome State Fault Refusal :=
  .next (match s.oln.discovers.find? (fun e => e.2.port == port && decide (reason ≤ 1)) with
  | none => s
  | some (k, q) => finish q.oid { status := .busy, hint := hintUs backoffUs } { s with oln := { s.oln with discovers := tblDel s.oln.discovers k } })

/-- DISCOVER_TIMEOUT (R359). -/
def execDiscoverTimeout (queryId : Nat) (s : State) : Host.Outcome State Fault Refusal :=
  .next (match tblGet? s.oln.discovers queryId with
  | none => s
  | some q => if s.now < q.time + ms then s else finish q.oid { status := .notFound } { s with oln := { s.oln with discovers := tblDel s.oln.discovers queryId } })

/-- HELLO_TIMER (R340). -/
def execHelloTimer (port : Nat) (s : State) : Host.Outcome State Fault Refusal :=
  .next (if (activePorts s).contains port then sendLink port (.hello (ownDisc s port)) s else s)

/-- ADDR_EFFECTIVE (R342). -/
def execAddrEffective (s : State) : Host.Outcome State Fault Refusal :=
  .next (match s.oln.addrNext with
  | none => s
  | some a => if fabricTime s < a.time then s else applyAddr a s)

/-! Routing and multicast (R345, R351, R352) -/

/-- The banks swap, and the new active one is copied into the standby (R345). -/
def swapRoutes (s : State) : State := { s with oln := { s.oln with routes := s.oln.standby, swapAt := none } }

/-- ROUTE_SWAP (R345). -/
def execRouteSwap (s : State) : Host.Outcome State Fault Refusal :=
  .next (match s.oln.swapAt with
  | none => s
  | some t => if fabricTime s < t then s else swapRoutes s)

/-- MCAST_DEADLINE (R351). -/
def execMcastDeadline (mcast : Nat) (s : State) : Host.Outcome State Fault Refusal :=
  .next (match tblGet? s.trn.mcasts mcast with
  | none => s
  | some m => if m.ended || s.now < m.deadline then s else settleWork (endMcast mcast s))

/-- Sends a multicast's request to one member, unless it cannot be reached (R351, R396). -/
def mcastSend (n i : Nat) (s : State) : State :=
  match tblGet? s.trn.mcasts n with
  | none => s
  | some m =>
    let (node, rctx) := m.members.getD i (0, 0)
    let slot := protSlot s m.srcCtx none
    let s := { s with trn := { s.trn with mcasts := tblSet s.trn.mcasts n { m with attempts := m.attempts.set i (m.attempts.getD i 0 + 1) } } }
    if cannotSend s m.srcCtx node rctx || (sealStatus s slot).isSome || freeTags s == 0 then s
    else issueMessage (fun _ => { kind := .command, owner := .mcast n i, ctx := m.srcCtx, key := slotKey m.srcCtx node rctx }) node slot m.cls m.message s

/-- Sends a multicast's request again to each member that has not answered. -/
def mcastAgain (mcast : Nat) (m : Mcast) (s : State) : State :=
  let missing := (List.range m.members.length).filter (fun i => (m.status.getD i none).isNone)
  let s := { s with trn := { s.trn with mcasts := tblSet s.trn.mcasts mcast { m with tries := m.tries + 1, retryAt := s.now + olnenParam s 0x05 * us } } }
  missing.foldl (fun s i => mcastSend mcast i s) s

/-- MCAST_RETRY (R352). -/
def execMcastRetry (mcast : Nat) (s : State) : Host.Outcome State Fault Refusal :=
  .next (match tblGet? s.trn.mcasts mcast with
  | none => s
  | some m =>
    if !m.ended || s.now < m.retryAt then s
    else if olnenParam s 0x04 ≤ m.tries then
      raise .mcastMembersMissed [.ctx m.ctx] (leBytes 2 m.group ++ leBytes 2 m.cid ++ zeros 4 ++ leBytes 8 (mcastBits m false)) { s with trn := { s.trn with mcasts := tblDel s.trn.mcasts mcast } }
    else mcastAgain mcast m s)

/-! Fabric time (R355-R358) -/

/-- Whether a clock is better than another by the default best master clock algorithm: the first difference decides (R355). -/
def betterClock (a b : ClockDs) : Bool :=
  if a.prio1 != b.prio1 then decide (a.prio1 < b.prio1)
  else if a.quality != b.quality then decide (a.quality < b.quality)
  else if a.prio2 != b.prio2 then decide (a.prio2 < b.prio2)
  else if a.id != b.id then decide (a.id < b.id)
  else decide (a.steps < b.steps)

/-- The module's own clock, with the priorities that OLNEN.CONFIG sets (R355, R361). -/
def ownClock (s : State) : ClockDs := { prio1 := olnenParam s 0x08, quality := Config.clockQuality, prio2 := olnenParam s 0x09, id := Config.clockIdentity, steps := 0 }

/-- The clock that the module announces: its master's, one step further, or its own. -/
def announced (s : State) : ClockDs := match s.oln.master, s.oln.best with | some _, some b => { b with steps := b.steps + 1 } | _, _ => ownClock s

/-- Whether a port takes part in IEEE 1588: a trained Olnen port that is not fenced, or one of the management ports, 16 and 17 (R355). -/
def timePort (s : State) (p : Nat) : Bool :=
  let x := getPort s p
  if p < 16 then decide (p < nPorts s) && linkTrained x && x.service != .fenced else decide (p < 18) && s.mod.running

/-- The kinds of time frames that a port sends at a sync interval. -/
def timeKinds (s : State) (port : Nat) (first : Bool) : List Nat :=
  (if s.oln.master == some port then [] else [0x0, 0x8]) ++ [0x2] ++ (if first && s.oln.master != some port then [0xB] else [])

/-- Sends a PTP message in the domain that OLNEN.CONFIG sets; an Announce carries the clock announced (R355). -/
def sendPtp (p kind : Nat) (s : State) : State := sendLink p (.ptp kind (olnenParam s 0x07) (if kind == 0xB then some (announced s) else none)) s

/-- PTP_SYNC_TIMER (R355): Sync and its Follow_Up, except towards the master; Pdelay; Announce with every sixteenth. -/
def execPtpSyncTimer (port : Nat) (s : State) : Host.Outcome State Fault Refusal :=
  .next (
    let x := getPort s port
    if !timePort s port then s
    else
      let s := setPort port { x with ptpTicks := (x.ptpTicks + 1) % 16 } s
      (timeKinds s port (x.ptpTicks == 0)).foldl (fun s k => sendPtp port k s) s)

/-- A port becomes the slave of a clock; the one that was is a master (R355). -/
def followPort (port : Nat) (ds : ClockDs) (s : State) : State :=
  let s := match s.oln.master with | none => s | some q => modPort q (fun y => { y with ptpState := 6 }) s
  let s := modPort port (fun y => { y with ptpState := 9 }) s
  { s with oln := { s.oln with master := some port, best := some ds, good := 0, lastSync := s.now, sync := if s.oln.sync == .locked then .locked else .acquiring } }

/-- An Announce from the master: it keeps its place, or is given up for the module's own clock (R355). -/
def masterSays (port : Nat) (ds : ClockDs) (s : State) : State :=
  if betterClock (ownClock s) ds then modPort port (fun y => { y with ptpState := 6 }) { s with oln := { s.oln with master := none, best := none, good := 0, sync := .freeRun } }
  else { s with oln := { s.oln with best := some ds } }

/-- Whether a clock announced at another port than the master's takes the master's place. -/
def takesPlace (s : State) (ds : ClockDs) : Bool :=
  betterClock ds (ownClock s) && (match s.oln.master, s.oln.best with | some _, some b => betterClock ds b | _, _ => true)

/-- TIME_FRAME_RECEIVE (R355-R357): a better clock's Announce makes the port the slave; Sync from the master steers fabric time. A message of another domain is not the module's. -/
def execTimeFrameReceive (port domain : Nat) (m : PtpMsg) (s : State) : Host.Outcome State Fault Refusal :=
  .next (
    let x := getPort s port
    if !timePort s port || domain != olnenParam s 0x07 then s
    else match m with
    | .delay ns => setPort port { x with linkDelay := min 0xFFFF ns } s
    | .announce ds =>
      if s.oln.master == some port then masterSays port ds s
      else if takesPlace s ds then followPort port ds s else s
    | .sync off => if s.oln.master != some port then s else steer off (noteSync off (setPort port { x with ptpOffset := off } s)))

/-- SYNC_HOLDOVER_TIMEOUT (R356). -/
def execSyncHoldoverTimeout (port : Nat) (s : State) : Host.Outcome State Fault Refusal :=
  .next (if s.oln.master != some port || s.now < s.oln.lastSync + 3 * sec then s
    else raiseNode .timeHoldover (leBytes 1 port) (modPort port (fun y => { y with ptpState := 4 }) { s with oln := { s.oln with sync := .holdover, good := 0, master := none, best := none } }))

/-- PTM_EXCHANGE (R358). -/
def execPtmExchange (host : Nat) (s : State) : Host.Outcome State Fault Refusal :=
  .next { s with oln := { s.oln with ptmFabric := fabricTime s, ptmHost := host % 2 ^ 64 } }

/-! Ethernet mode (R336-R338) -/

/-- ETH_FRAME_RECEIVE (R328, R337, R338, R341, R525): a discovery message of an unknown VERSION is dropped and counted, as the port has no MISMATCH (log entry 83). -/
def execEthFrameReceive (port : Nat) (f : EthFrame) (s : State) : Host.Outcome State Fault Refusal :=
  .next (
    let x := getPort s port
    let mtu := getU x.eth 10 2
    let ours := f.macOk && f.ipOk && f.sumsOk && decide (f.len ≤ mtu)
    if !x.ethernet || !linkTrained x then s
    else match f.kind with
    | .arp | .neighbour => if ours then sendLink port (.ethControl f.kind f.srcIp 0 f.disc) s else countDropped port s
    | .echo =>
      let recent := x.echoes.filter (fun t => decide (s.now < t + sec))
      if !ours then countDropped port s
      else if 100 ≤ recent.length then s
      else sendLink port (.ethControl .echo f.srcIp 0 f.disc) (setPort port { x with echoes := recent ++ [s.now] } s)
    | .transport =>
      let cls := if f.tagged then f.pcp % 8 else f.dscp / 8 % 8
      if !ours || !f.portOk then countDropped port s
      else if x.state != .active then s
      else
        let s := { s with oln := { s.oln with clients := tblSet s.oln.clients f.frame.srcNode (port, f.srcIp) } }
        if s.oln.addr == some f.frame.dstNode then { s with trn := { s.trn with arrived := s.trn.arrived ++ [{ port := port, out := { frame := f.frame, cls := cls } }] } }
        else match chooseHop s none { frame := f.frame, cls := cls } with
        | .port q => checkPfc port cls (putOut (.port q) (queueKept s q { frame := f.frame, cls := cls }) { frame := f.frame, cls := cls } (olnenParam s 0x01) (some port) s)
        | _ => s
    | .discovery =>
      if !ours || !f.portOk then countDropped port s
      else if f.disc.version != 1 then countDropped port s
      else if x.state == .hold then sendLink port (.notReady (holdBackoff s) 0) s
      else queryAct port f.srcIp f.disc s
    | .other => countDropped port s)

/-- PFC_FRAME_RECEIVE (R337). -/
def execPfcFrameReceive (port cls : Nat) (pause : Bool) (s : State) : Host.Outcome State Fault Refusal :=
  .next (modPort port (fun x =>
    if !x.ethernet || !bitOf (getU x.eth 7 1) (cls % 8) then x
    else { x with paused := if pause then setAdd x.paused (cls % 8) else setDel x.paused (cls % 8) }) s)

end Sys2Proof.Machine
end

