-- ==== Sys2Proof/Machine/Fallow.lean ====
section
/-! DEFINITION. The rows of Fallow (files 07 and 12, R238-R242, R395): lending, borrowing, the exchange between tier managers, and what its timers do. -/

namespace Sys2Proof.Machine

/-! Setting aside (R238, R239) -/

/-- Chunks of an allotment. -/
def allotChunks : Nat := 1048576

/-- The most allotments that a lender offers. -/
def mostAllots (s : State) : Nat := if isC s then 320 else 640

/-- The chunks of a frame that lie in channels in SERVICE, as runs. -/
def serviceRuns (s : State) (f : Nat) : List (Nat × Nat) :=
  let fc := frameChunks s
  if (List.range (nChans s)).all (chanInService s) then [(f * fc, fc)]
  else frameRuns ((List.range fc).filterMap (fun i => if chanInService s (chanOf s (1024 * (f * fc + i))) then some (f * fc + i) else none))

/-- A run less another one. -/
def cutRun (u r : Nat × Nat) : List (Nat × Nat) :=
  if r.1 + r.2 ≤ u.1 || u.1 + u.2 ≤ r.1 then [r]
  else (if r.1 < u.1 then [(r.1, u.1 - r.1)] else []) ++ (if u.1 + u.2 < r.1 + r.2 then [(u.1 + u.2, r.1 + r.2 - (u.1 + u.2))] else [])

/-- Chunks of frames that no allotment holds, ascending. -/
def spareChunks (s : State) (fs : List Nat) : List (Nat × Nat) :=
  let held := (s.tir.allots.map (fun e => e.2.runs)).flatten
  (fs.map (fun f => held.foldl (fun rs u => (rs.map (cutRun u)).flatten) (serviceRuns s f))).flatten

/-- The first `n` chunks of runs, and the runs that are left. -/
def splitRuns : Nat → List (Nat × Nat) → List (Nat × Nat) × List (Nat × Nat)
  | _, [] => ([], [])
  | n, (a, k) :: t =>
    if n == 0 then ([], (a, k) :: t)
    else if k ≤ n then let (x, y) := splitRuns (n - k) t; ((a, k) :: x, y)
    else ([(a, n)], (a + n, k - n) :: t)

/-- Frames to set aside beside those there are, from the highest free one downward, until `need` chunks are spare; none when there are too few. -/
def moreFrames (s : State) (used : List (Nat × Nat)) : List Nat → Nat → Nat → Option (List Nat)
  | fs, need, 0 => if need == 0 then some fs else none
  | fs, need, f + 1 =>
    if need == 0 then some fs
    else
      let fh := 2 * frameChunks s
      if areaHalves s ≤ f * fh && (conflictAt used (f * fh) fh).isNone then
        moreFrames s used (f :: fs) (need - sumN ((serviceRuns s f).map (·.2))) f
      else moreFrames s used fs need f

/-- Fills runs of chunks with zeros (R239): every byte of them in channels that are not out of service. -/
def clearRuns (runs : List (Nat × Nat)) (s : State) : State :=
  let hit := fun (a : Nat) => runs.any (fun r => decide (r.1 ≤ a / 1024 ∧ a / 1024 < r.1 + r.2)) && !chanOut s (chanOf s a)
  { s with emb := { s.emb with mem := s.emb.mem.filter (fun e => !hit e.1), poison := s.emb.poison.filter (fun l => !hit (64 * l)) } }

/-- Adds `k` zeroed allotments to the offer; none when the frames do not suffice. -/
def addAllots (k : Nat) (s : State) : Option State :=
  let spare := sumN ((spareChunks s s.tir.aside).map (·.2))
  match moreFrames s (usedRuns s) [] (allotChunks * k - spare) 32768 with
  | none => none
  | some fs =>
    let s : State := { s with tir := { s.tir with aside := fs.foldl setAdd s.tir.aside } }
    let (s, _) := (List.range k).foldl (fun (s, rs) _ =>
      let (mine, left) := splitRuns allotChunks rs
      let n := (tblFree? s.tir.allots (s.tir.allots.length + 1)).getD 0
      (clearRuns mine { s with tir := { s.tir with allots := tblSet s.tir.allots n { state := .idle, runs := mine } } }, left)) (s, spareChunks s s.tir.aside)
    some s

/-- Gives whole frames that no allotment uses back to the pool. -/
def trimAside (s : State) : State :=
  let fc := frameChunks s
  { s with tir := { s.tir with aside := s.tir.aside.filter (fun f => s.tir.allots.any (fun e => e.2.runs.any (fun r => decide (r.1 < (f + 1) * fc ∧ f * fc < r.1 + r.2)))) } }

/-- Withdraws idle allotments, the highest numbers first, down to the offer. -/
def withdrawIdle (s : State) : State :=
  let idle := (s.tir.allots.filter (fun e => e.2.state == .idle)).map (·.1)
  let out := idle.reverse.take (s.tir.allots.length - s.tir.offered)
  trimAside { s with tir := { s.tir with allots := s.tir.allots.filter (fun e => !out.contains e.1) } }

/-- Allotments that serve a composition. -/
def lentCount (s : State) : Nat := (s.tir.allots.filter (fun e => match e.2.state with | .lent | .reclaiming | .orphaned => true | _ => false)).length

/-- TIER_LEND (R238, R239). -/
def execTierLend (c : Cmd) (s : State) : Host.Outcome State Fault Refusal :=
  .next (runCmd 0x06 0x30 c (fun _ c s =>
    let n := argU c 32 4
    if !argsOnly c [(32, 0, 32)] || mostAllots s < n then (fail .badParameter, s)
    else
      let more := n - s.tir.allots.length
      match (if more == 0 then some s else addAllots more s) with
      | none => (fail .noSpace, s)
      | some t =>
        let (yes, t) := judge c { unit := 0x06, obj := 2 ^ 40 } (.value n) t
        if !yes then (fail .overruled, (judge c { unit := 0x06, obj := 2 ^ 40 } (.value n) s).2)
        else
          let t := withdrawIdle { t with tir := { t.tir with offered := n } }
          (ok (lentCount t), t)) s)

/-! Messages between tier managers (R395) -/

/-- Sends a FALLOW operation to a node's tier manager. -/
def sendFallow (node op kind tag : Nat) (f : TFrame) (s : State) : State :=
  let (f, s) := sealed (protSlot s 0 none) { f with op := op, opFlags := kind, tag := tag } s
  sendData (slotKey 0 node 0) { frame := f, cls := 0 } s

/-- Gives notice of a reclaim to a composition's borrower (R239, R240). -/
def sendNotice (k ms_ : Nat) (s : State) : State :=
  match tblGet? s.tir.lent k with
  | none => s
  | some l =>
    let s := setAllots l.allots .reclaiming { s with tir := { s.tir with lent := tblSet s.tir.lent k { l with noticeEnd := some (s.now + ms_ * ms) } } }
    sendFallow l.borrower 0x07 4 0 { blankFrame with msgLen := k, operand := ms_ } s

/-- A fenced channel: the compositions with a chunk in it get a notice of 0 (R239). -/
def noticeChannel (m : Nat) (s : State) : State :=
  let hit := fun (a : Allot) => a.runs.any (fun r => (List.range r.2).any (fun i => chanOf s (1024 * (r.1 + i)) == m))
  let ks := (s.tir.lent.filter (fun e => e.2.allots.any (fun a => match tblGet? s.tir.allots a with | some x => hit x | none => false))).map (·.1)
  ks.foldl (fun s k => sendNotice k 0 s) s

/-- The oldest LENT compositions that together hold at least `n` allotments. -/
def toReclaim : Nat → List (Nat × Lent) → List Nat
  | 0, _ => []
  | _, [] => []
  | n, (k, l) :: t => k :: toReclaim (n - l.allots.length) t

/-- TIER_RECLAIM (R240). -/
def execTierReclaim (c : Cmd) (s : State) : Host.Outcome State Fault Refusal :=
  .next (runCmd 0x06 0x31 c (fun _ c s =>
    let n := argU c 32 4
    if !argsOnly c [(32, 0, 32)] then (fail .badParameter, s)
    else
      let (yes, s) := judge c { unit := 0x06, obj := 2 ^ 41 } (.value n) s
      if !yes then (fail .overruled, s)
      else
        let live := sortBy (fun (a b : Nat × Lent) => decide (a.2.granted < b.2.granted)) (s.tir.lent.filter (fun e => e.2.noticeEnd.isNone && e.2.orphanSince.isNone))
        (ok, (toReclaim n live).foldl (fun s k => sendNotice k (tierParam s 0x08) s) s)) s)

/-- TIER_BORROW (R238, R395). -/
def execTierBorrow (c : Cmd) (s : State) : Host.Outcome State Fault Refusal :=
  .next (settleWork (runCmd 0x06 0x32 c (fun oid c s =>
    let node := argU c 32 2
    let n := argU c 34 2
    let home := argBits c 36 0 1 == 1
    let held := sumN (s.tir.comps.map (fun e => e.2.count)) + sumN (s.tir.borrowing.map (fun e => e.2.count))
    if !argsOnly c [(32, 0, 12), (34, 0, 16), (36, 0, 1)] || n == 0 || 256 < n then (fail .badParameter, s)
    else if home && (s.tir.comps.any (fun e => e.2.home) || s.tir.borrowing.any (fun e => e.2.home)) then (fail .badState, s)
    else if 256 ≤ s.tir.comps.length + s.tir.borrowing.length || 4096 < held + n then (fail .limitExceeded, s)
    else sending c node 0 1 (fun s _ => protSlot s 0 none) s (fun _ slot s =>
      if cannotSend s 0 node 0 then (fail .undeliverable, s)
      else
        let op := fun (_ : Nat) => ({ kind := .command, owner := .node, ctx := 0, key := slotKey 0 node 0 } : TOp)
        let tag := (takeTag op s).1
        let s : State := { s with tir := { s.tir with borrowing := tblSet s.tir.borrowing tag { oid := oid, ctx := cmdCtx s c, lender := node, count := n, home := home } } }
        (.wait, issueOp op slot 0 { blankFrame with op := 0x07, opFlags := 1, operand := n + 2 ^ 16 * b2n home } s))) s))

/-! Draining (R241) -/

/-- A composition drains: its clean bodies become COLD in Peat at once, and each dirty one is queued both for Peat and for Ember: whichever has room first takes it, and the other forgets it. -/
def beginDrain (k : Nat) (s : State) : State :=
  let s : State := { s with tir := { s.tir with comps := tblUpd s.tir.comps k (fun c => { c with draining := true }) } }
  let (_, s) := cleanToPeat k s
  (compBodies s k).foldl (fun s e => adviseFetch e.1 0 (if s.tir.readOnly then s else queueWb e.1 true s)) s

/-- A composition of the borrower ends (R241, R495): what waits for it completes. -/
def endBorrow (k cause : Nat) (s : State) : State :=
  match tblGet? s.tir.comps k with
  | none => s
  | some c =>
    let s := endComp k c.lender false cause { s with tir := { s.tir with comps := tblDel s.tir.comps k } }
    match c.returnBy with
    | none => s
    | some oid => finish oid {} s

/-- TIER_RETURN (R241). -/
def execTierReturn (c : Cmd) (s : State) : Host.Outcome State Fault Refusal :=
  .next (settleWork (runCmd 0x06 0x33 c (fun oid c s =>
    let k := argU c 32 2
    if !argsOnly c [(32, 0, 16)] then (fail .badParameter, s)
    else match tblGet? s.tir.comps k with
    | none => (fail .notFound, s)
    | some x =>
      if !mayName s c x.ctx then (fail .badContext, s)
      else if x.returnBy.isSome then (fail .badState, s)
      else
        let s : State := { s with tir := { s.tir with comps := tblSet s.tir.comps k { x with returnBy := some oid } } }
        (.wait, if x.draining then s else beginDrain k s)) s))

/-- COMPOSITION_DRAINED (R241): the last bodies have left, and RETURN goes to the lender. -/
def execCompositionDrained (comp : Nat) (s : State) : Host.Outcome State Fault Refusal :=
  .next (match tblGet? s.tir.comps comp with
  | none => s
  | some c =>
    if !c.draining || !c.active then s
    else
      let (_, s) := cleanToPeat comp s
      if !(compBodies s comp).isEmpty then s
      else sendFallow c.lender 0x07 5 0 { blankFrame with msgLen := c.number } { s with tir := { s.tir with comps := tblUpd s.tir.comps comp (fun c => { c with active := false }) } })

/-! The lender (R238-R240) -/

/-- The highest job number that is free. -/
def freeJob (s : State) : Option Nat := lastBelow (fun j => !tblHas s.trn.jobs j) 65536

/-- Grants a composition whole, or answers none (R238, R239): its number, window and job. -/
def grant (node n : Nat) (s : State) : Option (Nat × Nat × Nat × State) :=
  let idle := ((s.tir.allots.filter (fun e => e.2.state == .idle)).map (·.1)).take n
  if n == 0 || idle.length < n || 1048576 ≤ s.tir.regions.length || 4096 ≤ s.trn.jobs.length || 65535 ≤ s.trn.windows.length then none
  else match freeJob s, tblFree? s.trn.windows (s.trn.windows.length + 1), tblFree? s.tir.lent (s.tir.lent.length + 1) with
  | some job, some w, some k =>
    let runs := (idle.map (fun i => match tblGet? s.tir.allots i with | some a => a.runs | none => [])).flatten
    let (r, s) := addRegion { ctx := 0, eda := 0, chunks := n * allotChunks, frames := false, prot := false, comp := some runs } s
    let lent : Lent := { borrower := node, allots := idle, region := r, window := w, job := job, granted := fabricTime s }
    let win : Window := { ctx := 0, job := job, region := r, off := 0, len := n * 2 ^ 30, read := true, write := true, atomic := false, coherent := false }
    let rec_ : CompRec := { comp := k, peer := node, lender := true, cause := 0, allots := n, granted := fabricTime s, ended := 0, heldMs := 0 }
    some (k, w, job, { s with
      tir := { s.tir with lent := tblSet s.tir.lent k lent, allots := tblMap s.tir.allots (fun i a => if idle.contains i then { a with state := .lent, comp := some k } else a) },
      trn := { s.trn with windows := tblSet s.trn.windows w win, jobs := tblSet s.trn.jobs job { ctx := 0, command := false, members := [(node, 0)] } },
      hlt := { s.hlt with comps := s.hlt.comps ++ [rec_] } })
  | _, _, _ => none

/-- Receives a FALLOW operation of one kind between the node contexts. -/
def fallow (op kind : Nat) (f : TFrame) (act : OutFrame → State → State) (s : State) : State :=
  if definedOps.contains f.op && (f.op != op || f.opFlags != kind) then s
  else settleWork (receive (· == op) f (fun k o s =>
    if keyCtx k != 0 || keyRctx k != 0 then (.accept, fault k o.cls o.frame .permission s) else (.accept, act o s)) s)

/-- FALLOW_BORROW (R238, R239, R395). -/
def execFallowBorrow (f : TFrame) (s : State) : Host.Outcome State Fault Refusal :=
  .next (fallow 0x07 1 f (fun o s =>
    let k := slotKey 0 o.frame.srcNode 0
    match grant o.frame.srcNode (o.frame.operand % 2 ^ 16) s with
    | some (n, w, job, s) => respond k o.cls { o.frame with job := job, window := w } { blankFrame with op := 0x87, opFlags := 2, msgLen := n } s
    | none => respond k o.cls o.frame { blankFrame with op := 0x87, opFlags := 3, status := statusCode .noSpace } s) s)

/-- The TIER.BORROW that an answer names by its TAG, from the lender that it asked. -/
def borrowingOf (s : State) (f : TFrame) : Option Borrowing :=
  match tblGet? s.tir.borrowing f.tag with
  | none => none
  | some b => if b.lender == f.srcNode then some b else none

/-- FALLOW_GRANT (R238, R241, R395). -/
def execFallowGrant (f : TFrame) (s : State) : Host.Outcome State Fault Refusal :=
  .next (fallow 0x87 2 f (fun o s =>
    match borrowingOf s o.frame with
    | none => s
    | some b =>
      let k := (tblFree? s.tir.comps (s.tir.comps.length + 1)).getD 0
      let comp : Comp := { ctx := b.ctx, lender := b.lender, number := o.frame.msgLen % 2 ^ 16, count := b.count, home := b.home, window := o.frame.window, job := o.frame.job, granted := fabricTime s }
      let rec_ : CompRec := { comp := k, peer := b.lender, lender := false, cause := 0, allots := b.count, granted := fabricTime s, ended := 0, heldMs := 0 }
      let s := endOp o.frame.tag (.good 0) s
      let s : State := { s with tir := { s.tir with borrowing := tblDel s.tir.borrowing o.frame.tag, comps := tblSet s.tir.comps k comp }, hlt := { s.hlt with comps := s.hlt.comps ++ [rec_] } }
      finish b.oid { r0 := k } s) s)

/-- FALLOW_REFUSE (R238, R395). -/
def execFallowRefuse (f : TFrame) (s : State) : Host.Outcome State Fault Refusal :=
  .next (fallow 0x87 3 f (fun o s =>
    match borrowingOf s o.frame with
    | none => s
    | some b =>
      let s := endOp o.frame.tag (.good 0) s
      finish b.oid { status := .noSpace } { s with tir := { s.tir with borrowing := tblDel s.tir.borrowing o.frame.tag } }) s)

/-- The borrower's composition that a lender's message names. -/
def compOf (s : State) (node number : Nat) : Option Nat := (s.tir.comps.find? (fun e => e.2.lender == node && e.2.number == number % 2 ^ 16)).map (·.1)

/-- FALLOW_RECLAIM_NOTICE (R239, R241, R395). -/
def execFallowReclaimNotice (f : TFrame) (s : State) : Host.Outcome State Fault Refusal :=
  .next (fallow 0x07 4 f (fun o s =>
    match compOf s o.frame.srcNode o.frame.msgLen with
    | none => s
    | some k =>
      let n := o.frame.operand % 2 ^ 32
      if n == 0 then loseComp k s
      else beginDrain k { s with tir := { s.tir with comps := tblUpd s.tir.comps k (fun c => { c with noticeEnd := some (s.now + n * ms) }) } }) s)

/-- FALLOW_RETURN (R240, R395): the allotments go to ZEROING, and RELEASED answers. -/
def execFallowReturn (f : TFrame) (s : State) : Host.Outcome State Fault Refusal :=
  .next (fallow 0x07 5 f (fun o s =>
    let n := o.frame.msgLen % 2 ^ 16
    match tblGet? s.tir.lent n with
    | none => s
    | some l =>
      if l.borrower != o.frame.srcNode then s
      else respond (slotKey 0 o.frame.srcNode 0) o.cls o.frame { blankFrame with op := 0x87, opFlags := 6, msgLen := n } (zeroLent n (if l.noticeEnd.isSome then 2 else 1) s)) s)

/-- FALLOW_RELEASED (R241, R395). -/
def execFallowReleased (f : TFrame) (s : State) : Host.Outcome State Fault Refusal :=
  .next (fallow 0x87 6 f (fun o s =>
    match compOf s o.frame.srcNode o.frame.msgLen with
    | none => s
    | some k => endBorrow k (match tblGet? s.tir.comps k with | some c => if c.noticeEnd.isSome then 2 else 1 | none => 1) s) s)

/-- FALLOW_PROBE (R395): the frame's acknowledgement is all the answer. -/
def execFallowProbe (f : TFrame) (s : State) : Host.Outcome State Fault Refusal := .next (fallow 0x07 7 f (fun _ s => s) s)

/-- An ORPHANED composition whose borrower has acknowledged a probe since, and still holds it, is LENT again (R240). -/
def adopt (holding : List Nat) (s : State) : State :=
  (s.tir.lent.filter (fun e => e.2.orphanSince.isSome && holding.contains e.1)).foldl (fun s e =>
    match getSlot? s (slotKey 0 e.2.borrower 0), e.2.lastProbe with
    | some x, some t =>
      if t ≤ x.progress && x.unacked.isEmpty && x.waiting.isEmpty then
        setAllots e.2.allots .lent { s with tir := { s.tir with lent := tblSet s.tir.lent e.1 { e.2 with orphanSince := none, lastProbe := none } } }
      else s
    | _, _ => s) s

/-- FALLOW_PROBE_TIMER (R240, R395). `holding` are the compositions that their borrowers still hold, as the lender has learnt it: no rule gives a message that tells it (DESIGN CHOICE, log entry 82). -/
def execFallowProbeTimer (holding : List Nat) (s : State) : Host.Outcome State Fault Refusal :=
  .next (
    let s := adopt holding s
    let nodes := (s.tir.lent.map (fun e => e.2.borrower)).eraseDups
    let s : State := { s with tir := { s.tir with lent := tblMap s.tir.lent (fun _ l => if l.orphanSince.isSome && l.lastProbe.isNone then { l with lastProbe := some s.now } else l) } }
    nodes.foldl (fun s n => if cannotSend s 0 n 0 then s else sendFallow n 0x07 7 0 blankFrame s) s)

/-! Bodies on their way to and from compositions (R230, R232, R239, R395) -/

/-- Whether pieces of a body's record are on their way. -/
def bodyBusy (s : State) (b : Nat) : Bool := s.trn.ops.any (fun e => match e.2.owner with | .body k _ => k == b | _ => false)

/-- Sends the operations that move a body's record between the node and the window of its composition; none where they cannot be sent now. -/
def sendRecord (b : Nat) (put : Bool) (s : State) : Option State :=
  (compHolding s b).bind (fun (_, c) => (tblGet? c.store b).bind (fun cp =>
    let slot := protSlot s 0 (some c.job)
    let wire := cp.bytes ++ cp.esc
    let ps := runPieces (segmentSize s c.lender slot.isSome) (wire.length + 1) cp.place 0 wire.length
    if cannotSend s 0 c.lender 0 || (sealStatus s slot).isSome || freeTags s < ps.length then none
    else some (ps.foldl (fun s (o, n) =>
      let op := fun (_ : Nat) => ({ kind := if put then .store else .load, owner := .body b o, ctx := 0, key := slotKey 0 c.lender 0, bytes := n } : TOp)
      let f := { blankFrame with job := c.job, window := c.window, offset := cp.place + o }
      issueOp op slot 0 (if put then { f with op := 0x02, last := decide (o + n = wire.length), payload := (wire.drop o).take n } else { f with op := 0x01, operand := roundUp n 8 }) s) s)))

/-- Sends the record of a body whose move has started; a move that cannot be sent is given up. -/
def sendMove (b : Nat) (s : State) : State := (sendRecord b true s).getD (cancelMove b s)

/-- EVICTION_PASS (R229): free Ember is below LOW_WATER, or something waits for room. -/
def execEvictionPass (s : State) : Host.Outcome State Fault Refusal :=
  .next (if !poolAt s (tierParam s 0x02) || roomWanted s then
    let t := evictPass s
    ((t.tir.evicting.map (·.1)).filter (fun b => !tblHas s.tir.evicting b)).foldl (fun s b => sendMove b s) t
  else s)

/-- EVICTION_COMMIT (R230): every piece of the record has been acknowledged. -/
def execEvictionCommit (body : Nat) (s : State) : Host.Outcome State Fault Refusal :=
  .next (match tblGet? s.tir.evicting body with
  | none => s
  | some k => if bodyBusy s body then s else commitMove body k s)

/-- Starts the transfer that brings a body's record back, where it lies in a composition. -/
def readBack (b : Nat) (s : State) : Option State :=
  match (getBody? s b).bind (·.comp) with
  | none => some s
  | some _ => sendRecord b false (modRecord b (fun c => { c with holes := [] }) s)

/-- FETCH_START (R232). -/
def execFetchStart (s : State) : Host.Outcome State Fault Refusal :=
  .next (match fetchOrder s with
  | [] => s
  | e :: _ => ((startFetch e.body s).bind (readBack e.body)).getD s)

/-- FETCH_DONE (R232, R247, R258): the whole copy has come. -/
def execFetchDone (body : Nat) (retry : Bool) (s : State) : Host.Outcome State Fault Refusal :=
  .next (match getBody? s body with
  | none => s
  | some x =>
    if x.state != .fetching || bodyBusy s body then s
    else match coldCopy s body x with
    | none => modBody body (fun x => { x with state := .cold, chunks := 0, extents := [] }) s
    | some cp => settleWork (fetchArrived body retry x cp s))

/-- WRITEBACK_START (R226, R227, R241): a body that lies in a composition is read back for it. -/
def execWritebackStart (s : State) : Host.Outcome State Fault Refusal :=
  .next (let t := startFirstWb s
    match (t.tir.snaps.map (·.1)).find? (fun b => !tblHas s.tir.snaps b) with
    | none => t
    | some b => (readBack b t).getD s)

/-- WRITEBACK_DONE (R227, R228, R235, R236): the page program's status check is the opportunity of spark 0x0602. -/
def execWritebackDone (body nandBytes peMean peMax : Nat) (s : State) : Host.Outcome State Fault Refusal :=
  .next (match tblGet? s.tir.snaps body, getBody? s body with
  | some cp, some x =>
    if bodyBusy s body then s
    else match sparkCheck 0x0602 cp.group s with
    | (some _, s) => settleWork (programFail body true s)
    | (none, s) =>
      let cp := if x.state == .cold then { (wbSource s body x).getD cp with group := cp.group } else cp
      settleWork (programDone body nandBytes peMean peMax x cp s)
  | _, _ => s)

/-! Timers (R240, R241) -/

/-- RECLAIM_NOTICE_EXPIRY (R240, R241): on the lender the allotments go to ZEROING; on the borrower what is still dirty is LOST. -/
def execReclaimNoticeExpiry (comp : Nat) (s : State) : Host.Outcome State Fault Refusal :=
  .next (
    let isOver := fun (t : Option Nat) => match t with | none => false | some t => decide (t ≤ s.now)
    let s := match tblGet? s.tir.lent comp with
      | some l => if isOver l.noticeEnd then zeroLent comp 2 s else s
      | none => s
    settleWork (match tblGet? s.tir.comps comp with
      | some c =>
        if !isOver c.noticeEnd then s
        else
          let (_, s) := cleanToPeat comp s
          endBorrow comp 2 (loseBodies ((compBodies s comp).map (·.1)) 2 s)
      | none => s))

/-- ORPHAN_EXPIRY (R240). -/
def execOrphanExpiry (comp : Nat) (s : State) : Host.Outcome State Fault Refusal :=
  .next (match tblGet? s.tir.lent comp with
  | none => s
  | some l => match l.orphanSince with
    | none => s
    | some t => if t + tierParam s 0x09 * ms ≤ s.now then zeroLent comp 3 s else s)

/-- ALLOTMENT_ZEROED (R239, R240). -/
def execAllotmentZeroed (allot : Nat) (s : State) : Host.Outcome State Fault Refusal :=
  .next (match tblGet? s.tir.allots allot with
  | none => s
  | some a =>
    if a.state != .zeroing then s
    else
      let s := clearRuns a.runs s
      if s.tir.offered < s.tir.allots.length then trimAside { s with tir := { s.tir with allots := tblDel s.tir.allots allot } }
      else { s with tir := { s.tir with allots := tblSet s.tir.allots allot { a with state := .idle } } })

end Sys2Proof.Machine
end

