-- ==== Sys2Proof/Machine/EmberErr.lean ====
section
/-! DEFINITION. The rows of Ember accesses, line errors, scrubbing and repair (file 06, R191-R196, R204, R205), and the fencing of a channel (R473). -/

namespace Sys2Proof.Machine

/-! Fencing a channel (R196, R208, R239, R248, R473) -/

/-- A plough operation leaves a channel: what is left there is not processed, and the fence is released (R208). -/
def skipChannel (m k : Nat) (s : State) : State :=
  match getPlough? s k with
  | none => s
  | some o =>
    let left := fun (i : Nat) => (indexChans s o m i).contains m && !rowDone s o (stepChan s o m i) i
    if o.chans.contains m && (List.range (if o.frames then o.count * 64 else o.count)).any left then setPlough k { o with skipped := setAdd o.skipped m } s else s

/-- Fences a channel: its plough work ends, its data is lost, EMBER_CHANNEL_FENCED, the tally, compositions lent from it. -/
def fenceChannel (m cause : Nat) (inj : Bool) (s : State) : State :=
  let s := (s.emb.ploughs.map (·.1)).foldl (fun s k => skipChannel m k s) s
  let by_ := (getChan s m).enableBy
  let s := modChan m (fun c => { c with state := .fenced, cause := cause, fences := [], enableBy := [], repairing := [] }) s
  let (cold, lost, s) := loseChannel m s
  let s := recordFence .channel m cause (cause != 1) inj s
  let s := raiseN .emberChannelFenced inj 1 [.ctx 0] (leBytes 2 m ++ leBytes 1 cause ++ zeros 1 ++ leBytes 4 cold ++ leBytes 4 lost) s
  noticeChannel m (endEnables by_ .unitFenced s)

/-! Line errors (R191, R192, R473) -/

/-- The owner of the data at an EDA: of the region or the body that holds it. -/
def ownerOf (s : State) (eda : Nat) : Option Nat :=
  let c := eda / 1024
  match s.tir.regions.find? (fun e => match e.2.comp with | none => decide (e.2.eda ≤ eda ∧ eda < e.2.eda + 1024 * e.2.chunks) | some runs => runs.any (fun r => decide (r.1 ≤ c ∧ c < r.1 + r.2))) with
  | some e => some e.2.ctx
  | none => (s.tir.bodies.find? (fun e => decide (e.2.eda ≤ eda ∧ eda < e.2.eda + 1024 * e.2.chunks) || e.2.extents.any (fun x => decide (x ≤ eda ∧ eda < x + 512)))).map (fun e => e.2.ctx)

/-- A row of a channel as frame × 64 + bank. -/
def rowId (p : Place) : Nat := p.row * 64 + p.bank

/-- A corrected error in a line (R192). -/
def lineCorrected (eda : Nat) (inj : Bool) (s : State) : State :=
  let m := chanOf s eda
  countFault .channel m 0 (some 0) inj (modChan m (fun c => { c with ceCount := satAdd 16 c.ceCount 1 }) s)

/-- An uncorrectable error: the line is poisoned, EMBER_UE is raised, and 16 distinct rows within 1 h fence the channel (R192, R473). -/
def lineLost (eda : Nat) (scrub inj : Bool) (s : State) : State :=
  let p := emberMap (nChans s) eda
  let m := p.chan
  let recent := (getChan s m).ueRows.filter (fun r => decide (s.now < r.2 + 3600 * sec))
  let rows := if recent.any (fun r => r.1 == rowId p) then recent else recent ++ [(rowId p, s.now)]
  let s := modChan m (fun c => { c with ue := true, ueRows := rows }) (setPoison (eda / 64) true s)
  let s := countFault .channel m 1 (some 3) inj s
  let dst := match ownerOf s eda with | none => [Rcpt.ctx 0] | some x => [.ctx 0, .ctx x]
  let s := raiseN .emberUe inj 1 dst (leBytes 8 eda ++ leBytes 2 m ++ leBytes 1 (b2n scrub)) s
  if 16 ≤ rows.length then fenceChannel m 3 inj s else s

/-- The stack reports a correction by its on-die ECC (R187, R209, R472). -/
def dieCorrected (m : Nat) (inj : Bool) (s : State) : State :=
  countFault .channel m 3 (some 1) inj (modChan m (fun c => { c with odeCe := satAdd 16 c.odeCe 1 }) s)

/-- What spark points do at a line read (R187, R468). -/
def lineSparks (eda : Nat) (s : State) : State :=
  let m := chanOf s eda
  let (one, s) := sparkCheck 0x0501 m s
  let (two, s) := sparkCheck 0x0502 m s
  let (ode, s) := sparkCheck 0x0503 m s
  let s := if one.isSome then lineCorrected eda true s else s
  let s := if ode.isSome then dieCorrected m true s else s
  if two.isSome then lineLost (eda / 64 * 64) false true s else s

/-- The coherent window and its line at an EDA, if one covers it. -/
def coherentAt (s : State) (eda : Nat) : Option (Nat × Nat) :=
  s.trn.windows.findSome? (fun (k, w) =>
    match tblGet? s.tir.regions w.region with
    | none => none
    | some r => if w.coherent && r.comp.isNone && decide (r.eda + w.off ≤ eda ∧ eda < r.eda + w.off + w.len) then some (k, (eda - r.eda - w.off) / 64) else none)

/-- Whether an access must wait: its channel trains, or its row is being repaired (R194, R196). -/
def accessWaits (s : State) (eda : Nat) : Bool :=
  let p := emberMap (nChans s) eda
  let c := getChan s p.chan
  c.state == .training || c.repairing.contains (rowId p)

/-- Where an access of `n` bytes goes: to its address where R189 names all of them, else to a place that the spec leaves open (DESIGN CHOICE, log entry 25). -/
def placeOf (s : State) (eda n : Nat) : Nat := if eda + n ≤ emberBytes s then eda else Config.pastEnd eda % (emberBytes s - n + 1)

/-- The on-die corrections that the stack reports for lines of an access, counted from its first. -/
def dieReports (eda n : Nat) (lines : List Nat) (s : State) : State :=
  (linesOf eda n).zipIdx.foldl (fun s e => if lines.contains e.2 && !chanOut s (chanOf s (64 * e.1)) then dieCorrected (chanOf s (64 * e.1)) false s else s) s

/-- An access to a place, once it need not wait. -/
def serveAccess (eda : Nat) (write : Bool) (data : List Byte) (poisoned : Bool) (reports : List Nat) (s : State) : State :=
    let s := dieReports eda data.length reports (countWaits write eda data.length s)
    let s := if write then s else (linesOf eda data.length).foldl (fun s l => if chanOut s (chanOf s (64 * l)) then s else lineSparks (64 * l) s) s
    let bytes := if write then data else []
    settleWork (match coherentAt s eda with
    | some (k, l) => serveLine k l write (.access eda bytes poisoned) s
    | none => if write then emberWriteP eda bytes poisoned s else s)

/-- EMBER_ACCESS (R187, R192, R196, R204, R205, R393): `data` is what a write stores; a read reads as many bytes; `reports` are the lines, counted from the first, for which the stack reports an on-die correction. -/
def execEmberAccess (eda : Nat) (write : Bool) (data : List Byte) (poisoned : Bool) (reports : List Nat) (s : State) : Host.Outcome State Fault Refusal :=
  let a := placeOf s eda data.length
  .next (if data.isEmpty || (rowsOf a data.length).any (accessWaits s) then s else serveAccess a write data poisoned reports s)

/-- EMBER_LINE_ERROR (R192, R472): a read of a line finds an error. -/
def execEmberLineError (eda : Nat) (uncorrectable scrub : Bool) (s : State) : Host.Outcome State Fault Refusal :=
  .next (
    let eda := placeOf s eda 1
    let m := chanOf s eda
    if chanOut s m then s
    else
      let (fired, s) := sparkCheck (if uncorrectable then 0x0502 else 0x0501) m s
      settleWork (if uncorrectable then lineLost (eda / 64 * 64) scrub fired.isSome s else lineCorrected eda fired.isSome s))

/-! Scrubbing and repair (R193, R194) -/

/-- The scrubber goes to the next row; after the last a pass is complete. -/
def scrubNext (m : Nat) (s : State) : State :=
  let c := getChan s m
  if c.bankNow + 1 < 64 then setChan m { c with bankNow := c.bankNow + 1 } s
  else if c.frameNow + 1 < 32768 then setChan m { c with bankNow := 0, frameNow := c.frameNow + 1 } s
  else tallyAdd .channel m 8 1 (setChan m { c with bankNow := 0, frameNow := 0, passes := satAdd 16 c.passes 1, ceRowsLast := c.ceRows, ceRows := [] } s)

/-- Whether the bank of a row still has a spare row that no repair has taken or is taking (R194). -/
def bankSpare (chan : Nat) (c : Chan) (row : Nat) : Bool :=
  decide (((c.repaired ++ c.repairing).filter (fun r => r % 64 == row % 64)).length < Config.spareRows chan (row % 64))

/-- SCRUB_STEP (R193, R194): the next row is read; `corrected` and `uncorrectable` are lines of it, 0 to 15. -/
def execScrubStep (chan : Nat) (corrected uncorrectable : List Nat) (s : State) : Host.Outcome State Fault Refusal :=
  .next (
    let c := getChan s chan
    let row := rowEda (nChans s) chan c.bankNow c.frameNow
    let id := c.frameNow * 64 + c.bankNow
    if nChans s ≤ chan || (c.state != .service && c.state != .restricted) || c.repairing.contains id then s
    else if (fencesAt s row).any (fun k => match getPlough? s k with
      | none => false
      | some o => (rowIndex s o o.dst row).isSome || (sourcesOf o o.srcA o.srcB).any (fun f => (rowIndex s o f row).isSome)) then scrubNext chan s
    else
      let s := (List.range 16).foldl (fun s i => if corrected.contains i && !uncorrectable.contains i then lineCorrected (row + 64 * i) false s else s) s
      let twice := c.ceRowsLast.contains id
      let found := (List.range 16).any (fun i => corrected.contains i)
      let s := if found then modChan chan (fun c => { c with ceRows := setAdd c.ceRows id, repairing := if twice && bankSpare chan c id then setAdd c.repairing id else c.repairing }) s else s
      let s := (List.range 16).foldl (fun s i => if uncorrectable.contains i then lineLost (row + 64 * i) true false s else s) s
      settleWork (scrubNext chan s))

/-- SOFT_REPAIR_DONE (R194): the row, as frame × 64 + bank, lies in a spare row from now on. -/
def execSoftRepairDone (chan row : Nat) (s : State) : Host.Outcome State Fault Refusal :=
  .next (
    let c := getChan s chan
    if !c.repairing.contains row then s
    else
      let s := setChan chan { c with repairing := setDel c.repairing row, repaired := setAdd c.repaired row, spareRows := c.spareRows - 1, pprDone := true, ceRows := setDel c.ceRows row, ceRowsLast := setDel c.ceRowsLast row } s
      strainAdd .channel chan 2 1 (tallyAdd .channel chan 4 1 s))

end Sys2Proof.Machine
end

