-- ==== Sys2Proof/Machine/Gleaner.lean ====
section
/-! DEFINITION. The meanings of the GLEAN rows and of Gleaner's own steps (file 10). -/

namespace Sys2Proof.Machine

/-- The swath that a command names, if it may name it. -/
def swathOf (c : Cmd) (k : Nat) (s : State) : Except Status Swath :=
  match swath? s k with
  | none => .error .notFound
  | some w => if mayName s c w.ctx then .ok w else .error .badContext

/-! Creating, dropping (R294, R298, R299, R309) -/

/-- Where the sections of a SWATH_CREATE record begin: MEAN, PROJ, COARSE, PQ, and where PQ ends. -/
structure SwathPlan where
  mean   : Nat
  proj   : Nat
  coarse : Nat
  pq     : Nat
  stop   : Nat
deriving DecidableEq, Repr

def swathPlan (d lists : Nat) : SwathPlan :=
  let proj := roundUp (64 + 2 * d) 64
  let coarse := roundUp (proj + 32 * d) 64
  let pq := roundUp (coarse + lists * 2 * d) 64
  { mean := 64, proj := proj, coarse := coarse, pq := pq, stop := pq + 512 * d }

/-- Whether the header of a record is in range (R298, R299). -/
def swathHeader (b : List Byte) : Bool :=
  let d := getU b 2 2
  decide (getU b 0 1 ≤ 1) && decide (64 ≤ d ∧ d ≤ 4096 ∧ d % 32 = 0) && decide (getU b 4 1 ≤ 16) && decide (10 ≤ getU b 5 1 ∧ getU b 5 1 ≤ 25) &&
  decide (1 ≤ getU b 8 1 ∧ getU b 8 1 ≤ 16) && decide (1 ≤ getU b 9 1 ∧ getU b 9 1 ≤ 16) && decide (getU b 10 1 ≤ 2) && (b.drop 11).take 53 == zeros 53

/-- The fp16 values of a section. -/
def section16 (b : List Byte) (off n : Nat) : List Nat := halves ((b.drop off).take (2 * n))

/-- The swath that a record spells. -/
def swathFrom (ctx : Nat) (b : List Byte) : Swath :=
  let d := getU b 2 2
  let lists := 2 ^ getU b 4 1
  let p := swathPlan d lists
  { ctx := ctx, pooled := getU b 0 1 == 1, dims := d, listsLog2 := getU b 4 1, itemsLog2 := getU b 5 1, nprobe := getU b 6 1, screen := getU b 7 1,
    rerank := getU b 8 1, waves := getU b 9 1, step := 16 * 2 ^ getU b 10 1, mean := section16 b p.mean d, proj := (b.drop p.proj).take (32 * d),
    coarse := cut d (section16 b p.coarse (lists * d)), pq := cut 256 (cut (d / 32) (section16 b p.pq (256 * d))),
    bytes := (p.stop - 64) + 80 * 2 ^ getU b 5 1 }

/-- Whether every fp16 value of a swath is finite. -/
def swathFinite (w : Swath) : Bool :=
  (w.mean ++ w.coarse.flatten ++ (w.pq.map (·.flatten)).flatten).all (fun v => fvFinite (f16Dec v))

/-- Bytes of the Gleaner area in use: trained data, full capacities, and 2·D for each distinct summary, which forked items share (R299, R302). -/
def areaUsed (s : State) : Nat :=
  sumN (s.gln.swaths.map (fun e => e.2.bytes + ((e.2.items.map (fun i => (versionsOf s e.1 i.2).map (·.summary))).flatten).eraseDups.length * 2 * e.2.dims))

/-- GLEAN_SWATH_CREATE (R294, R298, R299). -/
def execGleanSwathCreate (c : Cmd) (s : State) : Host.Outcome State Fault Refusal :=
  .next (runCmd 0x09 0x01 c (fun _ c s =>
    if !argsOnly c [] then (fail .badParameter, s)
    else match bufferCheck c s with
    | some e => (fail e, s)
    | none =>
      if c.inLen < 64 then (fail .badLength, s)
      else if !swathHeader c.input then (fail .badParameter, s)
      else if c.inLen != (swathPlan (inU c 2 2) (2 ^ inU c 4 1)).stop then (fail .badLength, s)
      else
        let w := swathFrom (cmdCtx s c) c.input
        if !swathFinite w then (fail .badParameter, s)
        else if 4096 ≤ s.gln.swaths.length || 2 ^ 30 < sumN (s.gln.swaths.map (fun e => 2 ^ e.2.itemsLog2)) + 2 ^ w.itemsLog2 then (fail .limitExceeded, s)
        else if s.tir.glnAreaGib * 2 ^ 30 < areaUsed s + w.bytes then (fail .noSpace, s)
        else match tblFree? s.gln.swaths 4096 with
        | none => (fail .limitExceeded, s)
        | some k => (ok k, setSwath k w s)) s)

/-- A swath has been merged, or is gone: the GLEAN.MERGE commands that wait for it go on. -/
def mergedSwath (k records : Nat) (s : State) : State :=
  let ms := s.gln.merges.map (fun m => if m.left.contains k then { m with left := setDel m.left k, merged := m.merged + records } else m)
  let s := { s with gln := { s.gln with merges := ms.filter (fun m => !m.left.isEmpty) } }
  (ms.filter (fun m => m.left.isEmpty)).foldl (fun s m => finish m.oid { r0 := m.merged % 2 ^ 32 } s) s

/-- Drops a swath with its bindings and postings; it stays until the searches accepted before have completed (R309). -/
def dropSwath (k : Nat) (s : State) : State :=
  let s := modSwath k (fun w => { w with dropped := true, merging := false }) s
  let s := { s with gln := { s.gln with bindings := s.gln.bindings.filter (fun b => b.2.swath != k), queue := s.gln.queue.filter (fun p => p.swath != k) } }
  freeDropped (mergedSwath k 0 s)

/-- GLEAN_SWATH_DROP (R300, R309). -/
def execGleanSwathDrop (c : Cmd) (s : State) : Host.Outcome State Fault Refusal :=
  .next (runCmd 0x09 0x02 c (fun _ c s =>
    let k := argBits c 32 0 12
    if !argsOnly c [(32, 0, 12)] then (fail .badParameter, s)
    else match swathOf c k s with
    | .error e => (fail e, s)
    | .ok _ =>
      let (yes, s) := judge c { unit := 0x09, obj := k } (.content 1) s
      if !yes then (fail .overruled, s)
      else
        (ok, dropSwath k s)) s)

/-! Binding (R301, R312) -/

/-- Whether a FILTER handle can be named for a swath: the checks of R312. -/
def filterCheck (s : State) (c : Cmd) (w : Swath) (h : Nat) : Option Status :=
  if h == 0 then none else
  match resolve s h with
  | none => some .badAddress
  | some (r, off) => if !mayName s c r.ctx then some .badContext else if regionSize r < off + ceilDiv (2 ^ w.itemsLog2) 8 then some .badAddress else none

/-- Unbinds a layer: its items are retired. -/
def unbindLayer (q l : Nat) (s : State) : State :=
  let s := retireItems (fun e => e.seq == q && e.layer == l) s
  { s with gln := { s.gln with bindings := tblDel s.gln.bindings (q * 4096 + l) } }

/-- Binds a layer: items of another swath are retired, and every sheaf that holds SUMMARY_STEP tokens is posted. How many. -/
def bindLayer (oid q l : Nat) (b : Binding) (s : State) : Nat × State :=
  let s := match binding? s q l with | some o => if o.swath != b.swath then unbindLayer q l s else s | none => s
  let s := { s with gln := { s.gln with bindings := tblSet s.gln.bindings (q * 4096 + l) b } }
  match getSeq? s q with
  | none => (0, s)
  | some x =>
    ((allEntries x).filter (fun e => e.1 / 256 == l)).foldl (fun (a : Nat × State) (k, i, e) =>
      let n := stepTokens a.2 q l e.tokens
      if n == 0 then a else (a.1 + 1, postSheaf q l (k % 256) i n (some oid) a.2)) (0, s)

/-- The swath that a GLEAN.BIND names for a sequence: none to unbind. -/
def bindTarget (s : State) (c : Cmd) (x : Seq) (k : Nat) : Except Status (Option Swath) :=
  if k == 0xFFF then .ok none else match swathOf c k s with | .error e => .error e | .ok w => if w.ctx == x.ctx then .ok (some w) else .error .badContext

/-- Whether a swath's dimensions differ from those of the summaries of a layer. -/
def dimsDiffer (s : State) (x : Seq) (w : Option Swath) (layers : List Nat) : Bool :=
  match w with
  | none => false
  | some w => layers.any (fun l => match fmt? s (x.formats.getD l 0) with | none => true | some f => summaryDims w.pooled f != w.dims)

/-- Binds layers: how many sheaves are posted. -/
def bindLayers (oid q : Nat) (layers : List Nat) (b : Binding) (s : State) : Nat × State :=
  layers.foldl (fun (a : Nat × State) l => let (m, s) := bindLayer oid q l b a.2; (a.1 + m, s)) (0, s)

/-- GLEAN_BIND (R300, R301, R312). DESIGN CHOICE, log entry 73: no rule names the target object that R74 compares; the model takes the sequence and FIRST_LAYER, so orders on overlapping layers with another first layer never conflict. -/
def execGleanBind (c : Cmd) (s : State) : Host.Outcome State Fault Refusal :=
  .next (runCmd 0x09 0x03 c (fun oid c s =>
    let q := argU c 32 4
    let first := argBits c 36 0 12
    let count := argBits c 38 0 13
    let k := argBits c 40 0 12
    let filter := argU c 48 8
    if !argsOnly c [(32, 0, 32), (36, 0, 12), (38, 0, 13), (40, 0, 12), (42, 0, 1), (48, 0, 64)] || count == 0 || 4096 < count then (fail .badParameter, s)
    else match namedSeq? s q with
    | none => (fail .notFound, s)
    | some x =>
      if !mayName s c x.ctx then (fail .badContext, s)
      else if x.layers < first + count then (fail .badParameter, s)
      else match bindTarget s c x k with
      | .error e => (fail e, s)
      | .ok w =>
        let layers := (List.range count).map (first + ·)
        if dimsDiffer s x w layers then (fail .badParameter, s)
        else match w.bind (fun w => filterCheck s c w filter) with
        | some e => (fail e, s)
        | none =>
          let (yes, s) := judge c { unit := 0x09, obj := 2 ^ 12 + q * 4096 + first } (.value c.args.toNat) s
          if !yes then (fail .overruled, s)
          else if w.isNone then (ok, layers.foldl (fun s l => unbindLayer q l s) s)
          else
            let (n, s) := bindLayers oid q layers { swath := k, filter := filter, deny := argBits c 42 0 1 == 1 } s
            (ok n, s)) s)

/-! Searching (R306-R308, R310, R314-R316) -/

/-- The records of one query: `want` of 16 bytes. -/
def resultBytes (want : Nat) (f : Found) : List Byte :=
  let hit := fun (h : F32 × Candidate) => leBytes 4 h.2.slot ++ leBytes 4 h.2.item.seq ++ leBytes 4 h.2.item.idx ++ leBytes 4 h.1.toNat
  (f.hits.map hit).flatten ++ (List.replicate (want - f.hits.length) (leBytes 4 0xFFFFFFFF ++ zeros 12)).flatten

/-- What each query of a GLEAN.SEARCH finds, with the filter that it reads. -/
def gleanFound (s : State) (c : Cmd) (w : Swath) (map : Option (List Byte)) : List Found :=
  let position := argBits c 38 0 1 == 1
  let queries := argBits c 34 0 9
  let posAt := roundUp (4 * w.dims * queries) 64
  let cands := (candidatesOf s (argBits c 32 0 12) w).filter (fun x => (argBits c 38 2 1 == 1 || x.item.seq == argU c 40 4) && passesBitmap map (argBits c 38 1 1 == 1) x)
  (List.range queries).map (fun i =>
    let qs : List F32 := (List.range w.dims).map (fun j => BitVec.ofNat 32 (inU c (4 * (i * w.dims + j)) 4))
    findItems w qs (argBits c 36 0 9) (if position then cands.filter (passesPosition (inU c (posAt + 4 * i) 4) (argBits c 44 0 18)) else cands))

/-- The comparisons of a search. -/
def gleanCost (s : State) (w : Swath) (found : List Found) : Nat := sumN (found.map (fun f => comparisonsOf s w f.lists))

/-- The completion of a search that found `found` of `want` items each (R316). -/
def gleanDone (s : State) (w : Swath) (want : Nat) (found : List Found) : Done :=
  { status := if found.all (fun f => f.hits.isEmpty) then .noMatch else .success, r0 := min (2 ^ 32 - 1) (gleanCost s w found),
    r1 := (found.filter (fun f => decide (f.hits.length < want))).length + maxN (found.map (·.waves)) * 2 ^ 16,
    output := (found.map (resultBytes want)).flatten, space := found.length * want * 16 }

/-- The list visits of a search. -/
def gleanVisits (w : Swath) (found : List Found) : List Visit := (found.zipIdx.map (fun (f, i) => visitsOf w i f)).flatten

/-- The retry-after hint of R316, in µs: the time at the rate of the last 1 ms for the queue to fall to half of QUEUE_LIMIT; the longest that the field holds when nothing left it. -/
def queueHint (s : State) : Nat :=
  let n := sumN ((s.gln.served.filter (fun e => decide (s.now < e.1 + ms))).map (·.2))
  if n == 0 then 0xFFFF else hintUs (ceilDiv ((queriesWaiting s - gleanParam s 0x02 / 2) * 1000) n)

/-- The bytes of input that a search needs. -/
def gleanInput (c : Cmd) (w : Swath) : Nat :=
  if argBits c 38 0 1 == 1 then roundUp (4 * w.dims * argBits c 34 0 9) 64 + 4 * argBits c 34 0 9 else 4 * w.dims * argBits c 34 0 9

/-- Whether a search may name the sequence that it names, if it names one. -/
def gleanSeqCheck (s : State) (c : Cmd) : Option Status :=
  if argBits c 38 2 1 == 1 then none else match namedSeq? s (argU c 40 4) with | none => some .notFound | some x => if mayName s c x.ctx then none else some .badContext

/-- GLEAN_SEARCH (R312, R314-R316): its result is settled at acceptance; the visits are still to be made. -/
def execGleanSearch (c : Cmd) (s : State) : Host.Outcome State Fault Refusal :=
  .next (runCmd 0x09 0x10 c (fun oid c s =>
    let k := argBits c 32 0 12
    let queries := argBits c 34 0 9
    let want := argBits c 36 0 9
    if !argsOnly c [(32, 0, 12), (34, 0, 9), (36, 0, 9), (38, 0, 3), (39, 0, 8), (40, 0, 32), (44, 0, 18), (48, 0, 64)] || queries == 0 || 256 < queries || want == 0 || 256 < want then (fail .badParameter, s)
    else match swathOf c k s with
    | .error e => (fail e, s)
    | .ok w =>
      match gleanSeqCheck s c with
      | some e => (fail e, s)
      | none =>
        match bufferRefused c s with
        | some e => (fail e, s)
        | none =>
          if c.inLen < gleanInput c w || c.outLen < queries * want * 16 then (fail .badLength, s)
          else match (if inputPoisoned c s then .error .memoryError else readFilter s c w (argU c 48 8)) with
          | .error e => failInput e (queries * want * 16) s
          | .ok map =>
            if gleanParam s 0x02 < queriesWaiting s + queries then
              (.done { status := .busy, hint := queueHint s }, { s with gln := { s.gln with busy := satAdd 16 s.gln.busy 1 } })
            else
              let found := gleanFound s c w map
              let d := gleanDone s w want found
              let s := tenantAdd (cmdCtx s c) (fun t => { t with comparisons := (t.comparisons + gleanCost s w found) % 2 ^ 64 }) s
              (.wait, addSearch { oid := oid, swath := k, attend := false, queries := queries, todo := gleanVisits w found, done := d } s)) s)

/-- Removes the visits of queries that wait for a list from a search, up to `n` queries: how many are left of `n`. -/
def visitList (list : Nat) : Nat → List Visit → Nat × List Visit
  | n, [] => (n, [])
  | n, v :: t => if v.list == list && v.joined.isSome && n != 0 then visitList list (n - 1) t else let (m, r) := visitList list n t; (m, v :: r)

/-- A batch of visits to a list of a swath, over the searches in order; a query whose wave is done joins the lists of its next. -/
def visitBatch (now swath list : Nat) (xs : Tbl GSearch) : Nat × Tbl GSearch :=
  xs.foldl (fun (a : Nat × Tbl GSearch) e =>
    if e.2.swath != swath then (a.1, a.2 ++ [e]) else let (n, t) := visitList list a.1 e.2.todo; (n, a.2 ++ [(e.1, { e.2 with todo := joinWaves now t })])) (256, [])

/-- The visits for which a query waits at a list of a swath. -/
def listWaiting (s : State) (swath list : Nat) : List Visit :=
  ((s.gln.searches.filter (fun e => e.2.swath == swath)).map (fun e => e.2.todo.filter (fun v => v.list == list && v.joined.isSome))).flatten

/-- Whether a visit starts (R310): 256 queries wait for the list, or BATCH_WAIT_US has passed since the first of them joined, or the screening engine is idle. -/
def visitDue (s : State) (swath list : Nat) : Bool :=
  let ws := listWaiting s swath list
  decide (256 ≤ ws.length) || ws.any (fun v => v.joined.any (fun j => decide (j + gleanParam s 0x01 * us ≤ s.now))) || decide (s.gln.screenEnd ≤ s.now)

/-- How long the sketch screen is busy with a visit of `n` queries, in ns, at its nominal 64 comparisons a ns (R317). DESIGN CHOICE, log entry 79: the rate is nominal, and the model takes it as the time that R310's idle engine is judged by. -/
def screenTime (s : State) (swath list n : Nat) : Nat :=
  match tblGet? s.gln.swaths swath with
  | none => 0
  | some w => ceilDiv (n * comparisonsOf s w [list]) 64

/-- LIST_VISIT_START (R310): a batch of up to 256 queries that wait for a list of a swath, when a visit may start. The queries that have made their last visit have left the queue (R316). -/
def execListVisitStart (swath list : Nat) (s : State) : Host.Outcome State Fault Refusal :=
  .next (if !visitDue s swath list || (listWaiting s swath list).isEmpty then s
  else
    let n := min 256 (listWaiting s swath list).length
    let before := queriesWaiting s
    let t := { s with gln := { s.gln with searches := (visitBatch s.now swath list s.gln.searches).2, screenEnd := max s.gln.screenEnd s.now + screenTime s swath list n } }
    let left := before - queriesWaiting t
    let old := t.gln.served.filter (fun e => decide (s.now < e.1 + ms))
    { t with gln := { t.gln with served := if left == 0 then old else (s.now, left) :: old } })

/-- GLEAN_SEARCH_DONE (R135, R309, R315): every visit of the search has been made. -/
def execGleanSearchDone (search : Nat) (s : State) : Host.Outcome State Fault Refusal :=
  .next (match tblGet? s.gln.searches search with
  | none => s
  | some x =>
    if !x.todo.isEmpty then s
    else
      let s := freeDropped { s with gln := { s.gln with searches := tblDel s.gln.searches search } }
      if x.attend then settleWork (formItems x.oid s) else finish x.oid x.done s)

/-! Bitmaps (R312, R313, R448) -/

/-- The bytes of a bitmap over `n` slots. -/
def bitmapBytes (n : Nat) (slots : List Nat) : List Byte :=
  (List.range n).map (fun i => BitVec.ofNat 8 (sumN ((slots.filter (fun k => k / 8 == i)).map (fun k => 2 ^ (k % 8)))))

/-- The slots that a bitmap shows: items that are in use, of a sequence or of any, whose first positions lie in a range. -/
def bitmapSlots (s : State) (k : Nat) (w : Swath) (q lo hi : Nat) : List Nat :=
  (w.items.filter (fun e => isLive s k e.2 && (q == 0xFFFFFFFF || e.2.seq == q) && decide (lo ≤ e.2.basePos ∧ e.2.basePos ≤ hi))).map (·.1)

/-- GLEAN_BITMAP (R312, R313): in a protected region it completes with PERMISSION (R448). -/
def execGleanBitmap (c : Cmd) (s : State) : Host.Outcome State Fault Refusal :=
  .next (runCmd 0x09 0x11 c (fun _ c s =>
    let q := argU c 36 4
    let lo := argU c 40 4
    let hi := argU c 44 4
    if !argsOnly c [(32, 0, 12), (36, 0, 32), (40, 0, 32), (44, 0, 32)] then (fail .badParameter, s)
    else match swathOf c (argBits c 32 0 12) s with
    | .error e => (fail e, s)
    | .ok w =>
      let n := ceilDiv (2 ^ w.itemsLog2) 8
      if !c.outDevice then (fail .badAddress, s)
      else match filterCheck s c w c.outAddr with
      | some e => (fail e, s)
      | none =>
        match bufferCheck c s with
        | some e => (fail e, s)
        | none =>
          if protectedAt s c.outAddr then (fail .permission, s)
          else if c.outLen < n then (fail .badLength, s)
          else
            let slots := bitmapSlots s (argBits c 32 0 12) w q lo hi
            (.done { r0 := slots.length, output := bitmapBytes n slots, space := n }, s)) s)

/-! The side list and the merge (R305, R311) -/

/-- The swaths that a GLEAN.MERGE names. -/
def mergeTargets (s : State) (c : Cmd) (k : Nat) : Except Status (List Nat) :=
  if k == 0xFFF then .ok ((s.gln.swaths.filter (fun e => !e.2.dropped && mayName s c e.2.ctx)).map (·.1)) else match swathOf c k s with | .error e => .error e | .ok _ => .ok [k]

/-- Swaths are merging. -/
def startMerging (ks : List Nat) (s : State) : State := ks.foldl (fun s k => modSwath k (fun w => { w with merging := true }) s) s

/-- GLEAN_MERGE (R300, R311). -/
def execGleanMerge (c : Cmd) (s : State) : Host.Outcome State Fault Refusal :=
  .next (runCmd 0x09 0x12 c (fun oid c s =>
    let k := argBits c 32 0 12
    if !argsOnly c [(32, 0, 12)] then (fail .badParameter, s)
    else match mergeTargets s c k with
    | .error e => (fail e, s)
    | .ok ks =>
      if ks.isEmpty then (ok, s)
      else
        let s := startMerging ks s
        (.wait, { s with gln := { s.gln with merges := s.gln.merges ++ [{ oid := oid, left := ks }] } })) s)

/-- The versions that a merge keeps: those up to the latest usable one. -/
def keptVersions (s : State) : List GVersion → List GVersion
  | [] => []
  | v :: t => let v' := { v with side := false }; if isUsable s v then [v'] else v' :: keptVersions s t

/-- MERGE_DONE (R311): the side records of a swath lie in their lists; superseded versions and retired items are gone. -/
def execMergeDone (swath : Nat) (s : State) : Host.Outcome State Fault Refusal :=
  .next (match tblGet? s.gln.swaths swath with
  | none => s
  | some w =>
    if !w.merging then s
    else
      let items := (w.items.filter (fun e => !e.2.retired)).map (fun e => (e.1, { e.2 with versions := if (queuedOf s swath e.2).any (isUsable s) then [] else keptVersions s e.2.versions }))
      mergedSwath swath (sideOf w) (setSwath swath { w with items := items, merging := false } s))

/-- POSTING_DEQUEUE (R305): the side list takes the next posting that waits. -/
def execPostingDequeue (s : State) : Host.Outcome State Fault Refusal :=
  .next (match s.gln.queue with
  | [] => s
  | p :: rest => if sideCount s < 16777216 then enterPosting p { s with gln := { s.gln with queue := rest } } else s)

/-- The first STALE item: swath, slot, item. -/
def firstStale (s : State) : Option (Nat × Nat × GItem) :=
  s.gln.swaths.findSome? (fun w => (w.2.items.find? (fun e => e.2.stale && !e.2.retired)).map (fun e => (w.1, e.1, e.2)))

/-- STALE_REPOST (R305): an item that lost a posting is posted again from its body when there is room. -/
def execStaleRepost (s : State) : Host.Outcome State Fault Refusal :=
  .next (if 16777216 ≤ sideCount s || !s.gln.queue.isEmpty then s
  else match firstStale s with
  | none => s
  | some (k, slot, t) =>
    let s := modSwath k (fun w => { w with items := tblUpd w.items slot (fun e => { e with stale := false }) }) s
    match entry? s t.seq t.layer t.group t.idx with
    | none => s
    | some e => postSheaf t.seq t.layer t.group t.idx (stepTokens s t.seq t.layer e.tokens) none s)

/-! Parameters and status (R318, R319) -/

/-- Whether a value lies in a parameter's range (R318). -/
def gleanRange (p x : Nat) : Bool :=
  match p with
  | 0x01 => decide (x ≤ 50)
  | 0x02 => decide (256 ≤ x ∧ x ≤ 65536)
  | 0x03 => decide (x ≤ 256)
  | 0x04 => decide (100 ≤ x ∧ x ≤ 900)
  | _ => false

/-- GLEAN_CONFIG (R318, R529). -/
def execGleanConfig (c : Cmd) (s : State) : Host.Outcome State Fault Refusal :=
  .next (runCmd 0x09 0x20 c (fun oid c s =>
    let p := argU c 32 2
    let x := argU c 40 8
    if !argsOnly c [(32, 0, 16), (40, 0, 64)] || !gleanRange p x then (fail .badParameter, s)
    else
      let (yes, s) := judge c { unit := 0x09, obj := 2 ^ 46 + p } (.value x) s
      if !yes then (fail .overruled, s)
      else
        let old := stagedValue s (fun ch => match ch with | .glean k v => if k == p then some v else none | _ => none) (gleanParam s p)
        stage oid c { r0 := old } (.glean p x) s) s)

/-- GLEAN_STATUS (R319). -/
def execGleanStatus (c : Cmd) (s : State) : Host.Outcome State Fault Refusal :=
  .next (runCmd 0x09 0x21 c (fun _ c s =>
    if !argsOnly c [(32, 0, 12)] then (fail .badParameter, s)
    else match swathOf c (argBits c 32 0 12) s with
    | .error e => (fail e, s)
    | .ok w =>
      let stale := (w.items.filter (fun e => e.2.stale && !e.2.retired)).length
      (ok (liveItems s (argBits c 32 0 12) w + sideCount s * 2 ^ 32)
        (queriesWaiting s % 65536 + s.gln.busy * 2 ^ 16 + min 0xFFFF stale * 2 ^ 32 + b2n w.merging * 2 ^ 48 + w.wraps * 2 ^ 49), s)) s)

end Sys2Proof.Machine
end

