-- ==== Sys2Proof/Machine/Seedbank.lean ====
section
/-! DEFINITION. The meanings of the SEED rows and of the Seedbank's own steps (file 09). -/

namespace Sys2Proof.Machine

/-! What the commands share (R263, R265, R270) -/

/-- Units of an entry for a WIDTH. -/
def seedUnits (width : Nat) : Nat := 2 ^ width

/-- Bytes of a key of `w` units. -/
def keyLen (w : Nat) : Nat := 8 * w

/-- The mask that compares every bit of a key of `w` units. -/
def fullMask (w : Nat) : Nat := 2 ^ (64 * w) - 1

/-- The key records of an input buffer: key and mask. -/
def keyRecords (c : Cmd) (w count : Nat) (masked : Bool) : List (Nat × Nat) :=
  let n := keyLen w
  let step := if masked then 2 * n else n
  (List.range count).map (fun i => (inU c (step * i) n, if masked then inU c (step * i + n) n else fullMask w))

/-- Bytes of `count` key records. -/
def recordsLen (w count : Nat) (masked : Bool) : Nat := count * keyLen w * (if masked then 2 else 1)

/-- The checks of length, of the buffers, and that the context owns a bank of the width. -/
def seedChecks (c : Cmd) (w inNeed outNeed : Nat) (s : State) : Option Status :=
  match bufferRefused c s with
  | some e => some e
  | none =>
    if c.inLen < inNeed || c.outLen < outNeed then some .badLength
    else if (ownedBanks s (cmdCtx s c) w).isEmpty then some .notFound
    else if inputPoisoned c s then some .memoryError else none

/-! Admission and searches (R271-R276, R287, R288) -/

/-- Searches of a job not yet performed. -/
def jobLeft (j : SearchJob) : Nat := j.keys.length

/-- Searches queued. -/
def queuedSearches (s : State) : Nat := sumN (s.sdb.jobs.map jobLeft)

/-- Admits a job, or answers BUSY (R288). -/
def admitJob (j : SearchJob) (s : State) : Answer × State :=
  let limit := seedParam s 0x03
  let queued := queuedSearches s
  if limit < queued + jobLeft j then
    (.done { status := .busy, hint := hintUs (ceilDiv (queued - limit / 2) s.sdb.rate) }, { s with sdb := { s.sdb with busy := satAdd 16 s.sdb.busy 1 } })
  else (.wait, { s with sdb := { s.sdb with jobs := s.sdb.jobs ++ [j] } })

/-- SEED_LOOKUP (R270-R272, R288). -/
def execSeedLookup (c : Cmd) (s : State) : Host.Outcome State Fault Refusal :=
  .next (runCmd 0x08 0x01 c (fun oid c s =>
    let width := argBits c 32 0 2
    let w := seedUnits width
    let masked := argBits c 32 2 1 == 1
    let n := argBits c 36 0 13
    if !argsOnly c [(32, 0, 5), (35, 0, 8), (36, 0, 13)] || width == 3 || n == 0 || 4096 < n then (fail .badParameter, s)
    else match seedChecks c w (recordsLen w n masked) (32 * n) s with
    | some e => failInput e (32 * n) s
    | none => admitJob { oid := oid, ctx := cmdCtx s c, width := w, kind := .lookup (argBits c 32 3 1 == 1) (argBits c 32 4 1 == 1), keys := keyRecords c w n masked } s) s)

/-- SEED_STEP (R273, R274, R288): a STEP that is not admitted leaves the cursor's idle time as it was. Each of COUNT records is one search. COUNT's bit [8] would be bit 0 of VERSION in byte 35, so COUNT is byte 34, 0 standing for 256 (log entry 14). -/
def execSeedStep (c : Cmd) (s : State) : Host.Outcome State Fault Refusal :=
  .next (runCmd 0x08 0x02 c (fun oid c s =>
    let k := argBits c 32 0 12
    let n := if argU c 34 1 == 0 then 256 else argU c 34 1
    if !argsOnly c [(32, 0, 12), (34, 0, 8), (35, 0, 8), (36, 0, 1)] then (fail .badParameter, s)
    else match tblGet? s.sdb.cursors k with
    | none => (fail .notFound, s)
    | some x =>
      if !mayName s c x.ctx then (fail .badContext, s)
      else match bufferCheck c s with
      | some e => (fail e, s)
      | none =>
        if c.outLen < 32 * n then (fail .badLength, s)
        else
          let used := fun (a : Answer) (t : State) => match a with | .done _ => t | .wait => { t with sdb := { t.sdb with cursors := tblUpd t.sdb.cursors k (fun x => { x with time := t.now }) } }
          let (a, t) := admitJob { oid := oid, ctx := x.ctx, width := x.width, kind := .step k (argBits c 36 0 1 == 1), keys := List.replicate n (x.key, x.mask) } s
          (a, used a t)) s)

/-- SEED_CENSUS (R276, R288). -/
def execSeedCensus (c : Cmd) (s : State) : Host.Outcome State Fault Refusal :=
  .next (runCmd 0x08 0x03 c (fun oid c s =>
    let width := argBits c 32 0 2
    let w := seedUnits width
    let masked := argBits c 32 2 1 == 1
    let owner := argU c 33 2
    let map := argU c 40 8
    if !argsOnly c [(32, 0, 3), (33, 0, 16), (35, 0, 8), (40, 0, 64)] || width == 3 || (4095 < owner && owner != 0xFFFF) then (fail .badParameter, s)
    else if s.sec.conf && owner == 0xFFFF then (fail .confidentialMode, s)
    else match bufferCheck c s with
    | some e => (fail e, s)
    | none =>
      if c.inLen < recordsLen w 1 masked then (fail .badLength, s)
      else admitJob { oid := oid, ctx := cmdCtx s c, width := w, kind := .census (if owner == 0xFFFF then none else some owner) (if map == 0 then 2 ^ 64 - 1 else map), keys := keyRecords c w 1 masked } s) s)

/-- Puts the front job back, or ends it. -/
def putJob (j : SearchJob) (s : State) : State := { s with sdb := { s.sdb with jobs := match s.sdb.jobs with | [] => [] | _ :: t => j :: t } }

def endJob (j : SearchJob) (d : Done) (s : State) : State := finish j.oid d { s with sdb := { s.sdb with jobs := s.sdb.jobs.drop 1 } }

/-- The record of a key that matched nothing, or that was not searched. -/
def bareRecord (outcome : Nat) : List Byte := leBytes 1 outcome ++ zeros 31

/-- One key of a LOOKUP. -/
def searchKey (j : SearchJob) (longest cursors : Bool) (key mask : Nat) (rest : List (Nat × Nat)) (s : State) : State :=
  let ms := matchesIn (ownedBanks s j.ctx j.width) key mask
  let j := { j with keys := rest, searched := j.searched + 1 }
  let close := fun (j : SearchJob) (s : State) =>
    if j.keys.isEmpty then endJob j { status := if j.matched == 0 then .noMatch else .success, r0 := j.matched + j.multi * 2 ^ 16 + j.searched * 2 ^ 32, output := j.out, space := j.out.length } s else putJob j s
  match firstMatch ms with
  | none =>
    if longest then close { j with out := j.out ++ bareRecord 0 ++ (rest.map (fun _ => bareRecord 2)).flatten, keys := [] } s
    else close { j with out := j.out ++ bareRecord 0 } s
  | some m =>
    let multi := decide (1 < ms.length)
    let s := hitEntry m s
    let slot := if multi && cursors then tblFree? s.sdb.cursors 4096 else none
    let s := match slot with
      | none => s
      | some k => { s with sdb := { s.sdb with cursors := tblSet s.sdb.cursors k { ctx := j.ctx, width := j.width, key := key, mask := mask, last := physIndex m, time := s.now } } }
    close { j with out := j.out ++ matchRecord m multi (slot.getD 0xFFF), matched := j.matched + 1, multi := j.multi + b2n multi } s

/-- One record of a STEP. -/
def searchNext (j : SearchJob) (k : Nat) (close : Bool) (rest : List (Nat × Nat)) (s : State) : State :=
  match tblGet? s.sdb.cursors k with
  | none => endJob j { status := .notFound } s
  | some x =>
    let ms := matchesIn (ownedBanks s x.ctx x.width) x.key x.mask
    let after := ms.filter (fun m => decide (x.last < physIndex m))
    let stop := fun (j : SearchJob) (last : Bool) (s : State) =>
      let s := if last || close then { s with sdb := { s.sdb with cursors := tblDel s.sdb.cursors k } } else s
      endJob j { r0 := j.matched + b2n last * 2 ^ 16, output := j.out, space := j.out.length } s
    match after with
    | [] => stop j true s
    | m :: more =>
      let j := { j with keys := rest, matched := j.matched + 1, out := j.out ++ matchRecord m (decide (1 < ms.length)) k }
      let s := hitEntry m { s with sdb := { s.sdb with cursors := tblSet s.sdb.cursors k { x with last := physIndex m, time := s.now } } }
      if more.isEmpty then stop j true s else if rest.isEmpty then stop j false s else putJob j s

/-- A census. -/
def searchCensus (j : SearchJob) (owner : Option Nat) (map key mask : Nat) (s : State) : State :=
  let banks := s.sdb.banks.filter (fun b => bitOf map b.1 && b.2.width == j.width && (match owner with | none => true | some o => b.2.ctx == o))
  let ms := matchesIn banks key mask
  match firstMatch ms with
  | none => endJob j { status := .noMatch, r1 := 0xFFFFF } s
  | some m => endJob j { r0 := ms.length + m.entry.prio * 2 ^ 24, r1 := physIndex m } s

/-- An entry with the bits of `flip` flipped in its unit `k` (R263, R264, R289). DESIGN CHOICE, log entry 81: the control bits other than VALID and HEAD have no effect until the repair. -/
def flipUnit (k : Nat) (flip : BitVec 80) (e : SeedEntry) : SeedEntry :=
  let slice := flip.toNat % 2 ^ 64 * 2 ^ (64 * k)
  { e with keyFlip := e.keyFlip ^^^ slice, unseen := if bitOf flip.toNat 72 || bitOf flip.toNat 73 then e.unseen ^^^ 2 ^ k else e.unseen }

/-- Applies a change to the entry that holds a unit, with the unit's number in it. -/
def onUnit (bank unit : Nat) (f : Nat → SeedEntry → SeedEntry) (s : State) : State :=
  { s with sdb := { s.sdb with banks := tblUpd s.sdb.banks bank (fun b => { b with entries := tblUpd b.entries (unit / b.width * b.width) (f (unit % b.width)) }) } }

/-- Bits that flip in units, by physical index (R289). -/
def takeFlips (flips : List (Nat × BitVec 80)) (s : State) : State :=
  flips.foldl (fun s e => onUnit (e.1 / 16384) (e.1 % 16384) (fun k => flipUnit k e.2) s) s

/-- SEED_SEARCH (R268, R271-R276, R289, R494): the next queued search is performed, on units as the flips since the last one left them. -/
def execSeedSearch (flips : List (Nat × BitVec 80)) (s : State) : Host.Outcome State Fault Refusal :=
  let s := takeFlips flips s
  .next (match s.sdb.jobs with
  | [] => s
  | j :: _ =>
    let s := tenantAdd j.ctx (fun t => { t with searches := (t.searches + 1) % 2 ^ 64 }) s
    match j.keys with
    | [] => endJob j {} s
    | (key, mask) :: rest =>
      match j.kind with
      | .lookup longest cursors => searchKey j longest cursors key mask rest s
      | .step k close => searchNext j k close rest s
      | .census owner map => searchCensus j owner map key mask s)

/-! Inserting (R277-R279) -/

/-- The target of an INSERT or DELETE: the triple of context, width and key, the key in the lowest bits. -/
def seedTarget (ctx w key : Nat) : Target := { unit := 0x08, obj := key + 2 ^ 256 * (w + 8 * ctx) }

/-- The entry of a record of SEED.INSERT: the host's result word with AUTO 0 (R266). -/
def hostEntry (c : Cmd) (w i : Nat) : SeedEntry :=
  let n := keyLen w
  let word := ((c.input.drop ((n + 16) * i + n)).take 16)
  { key := inU c ((n + 16) * i) n, prio := argU c 33 1, pinned := argBits c 32 2 1 == 1, auto := false,
    result := putBytes word 2 [BitVec.ofNat 8 (getU word 2 1 / 2 * 2)] }

/-- Judges the records of an INSERT one by one: those that are applied, and whether one was overruled. -/
def judgeRecords (c : Cmd) (ctx w : Nat) : List SeedEntry → State → List SeedEntry × Bool × State
  | [], s => ([], false, s)
  | e :: es, s =>
    let (yes, s) := judge c (seedTarget ctx w e.key) (.content 2) s
    let (l, isOver, s) := judgeRecords c ctx w es s
    (if yes then (e :: l, isOver, s) else (l, true, s))

/-- SEED_INSERT (R269, R270, R277, R278). -/
def execSeedInsert (c : Cmd) (s : State) : Host.Outcome State Fault Refusal :=
  .next (placeAll (runCmd 0x08 0x10 c (fun oid c s =>
    let width := argBits c 32 0 2
    let w := seedUnits width
    let n := argBits c 36 0 9
    if !argsOnly c [(32, 0, 3), (33, 0, 8), (35, 0, 8), (36, 0, 9)] || width == 3 || n == 0 || 256 < n then (fail .badParameter, s)
    else match seedChecks c w (n * (keyLen w + 16)) 0 s with
    | some e => (fail e, s)
    | none =>
      let ctx := cmdCtx s c
      let (records, isOver, s) := judgeRecords c ctx w ((List.range n).map (hostEntry c w)) s
      (.wait, { s with sdb := { s.sdb with inserting := s.sdb.inserting ++ [{ oid := some oid, ctx := ctx, width := w, records := records, overruled := isOver }] } })) s))

/-- Counts the commit of a command's record. -/
def countInsert (oid : Option Nat) (n : Nat) (s : State) : State :=
  match oid with
  | none => s
  | some k => { s with sdb := { s.sdb with inserting := s.sdb.inserting.map (fun i => if i.oid == some k then { i with inBanks := i.inBanks - n, inserted := i.inserted + n } else i) } }

/-- INSERT_COMMIT (R278). -/
def execInsertCommit (bank : Nat) (s : State) : Host.Outcome State Fault Refusal :=
  .next (match tblGet? s.sdb.banks bank with
  | none => s
  | some x =>
    match x.queue with
    | [] => s
    | i :: rest => placeAll (countInsert i.oid 1 (commitInsert bank i.entry (setBank bank { x with queue := rest } s))))

/-! Deleting, posting, exporting (R280-R283, R293) -/

/-- Removes what a DELETE names: entries, and records of earlier INSERTs that are not yet committed, which count as inserted. How many. -/
def deleteMatching (ctx w : Nat) (p : SeedEntry → Bool) (s : State) : Nat × State :=
  let mine := ownedBanks s ctx w
  let live := sumN (mine.map (fun b => (b.2.entries.filter (fun e => p e.2)).length))
  let queued := (mine.map (fun b => b.2.queue.filter (fun i => p i.entry))).flatten
  let s := { s with sdb := { s.sdb with banks := tblMap s.sdb.banks (fun _ b =>
      if b.ctx == ctx && b.width == w then { b with entries := b.entries.filter (fun e => !p e.2), queue := b.queue.filter (fun i => !p i.entry) } else b) } }
  let s := queued.foldl (fun s i => countInsert i.oid 1 s) s
  let waiting := sumN (s.sdb.inserting.map (fun i => if i.ctx == ctx && i.width == w then (i.records.filter p).length else 0))
  let s := { s with sdb := { s.sdb with inserting := s.sdb.inserting.map (fun i =>
      if i.ctx == ctx && i.width == w then { i with records := i.records.filter (fun e => !p e), inserted := i.inserted + (i.records.filter p).length } else i) } }
  (live + queued.length + waiting, s)

/-- SEED_DELETE (R269, R282). -/
def execSeedDelete (c : Cmd) (s : State) : Host.Outcome State Fault Refusal :=
  .next (placeAll (runCmd 0x08 0x11 c (fun _ c s =>
    let width := argBits c 32 0 2
    let w := seedUnits width
    let bySeq := argBits c 32 2 1 == 1
    if !argsOnly c [(32, 0, 3), (35, 0, 8), (36, 0, 32), (40, 0, 12)] || width == 3 then (fail .badParameter, s)
    else match seedChecks c w (keyLen w) 0 s with
    | some e => (fail e, s)
    | none =>
      let ctx := cmdCtx s c
      let key := inU c 0 (keyLen w)
      let (yes, s) := judge c (seedTarget ctx w key) (.content 1) s
      if !yes then (fail .overruled, s)
      else
        let p := fun (e : SeedEntry) => e.key == key && (!bySeq || (getU e.result 4 4 == argU c 36 4 && getU e.result 0 2 % 4096 == argBits c 40 0 12))
        let (n, s) := deleteMatching ctx w p s
        (.done { status := if n == 0 then .noMatch else .success, r0 := n }, s)) s))

/-- SEED_POST (R280). -/
def execSeedPost (c : Cmd) (s : State) : Host.Outcome State Fault Refusal :=
  .next (placeAll (runCmd 0x08 0x12 c (fun _ c s =>
    let width := argBits c 32 0 2
    let w := seedUnits width
    let q := argU c 36 4
    let sheaf := argU c 40 4
    if !argsOnly c [(32, 0, 3), (33, 0, 8), (35, 0, 8), (36, 0, 32), (40, 0, 32), (44, 0, 32)] || width == 3 || sheaf == 0xFFFFFFFF then (fail .badParameter, s)
    else match namedSeq? s q with
    | none => (fail .notFound, s)
    | some x =>
      if !mayName s c x.ctx then (fail .badContext, s)
      else match bufferCheck c s with
      | some e => (fail e, s)
      | none =>
        if c.inLen < keyLen w then (fail .badLength, s)
        else if (match (x.entries.map (fun g => (g.2.map (·.1)).headD 0)).min? with | none => false | some low => decide (sheaf < low)) then (fail .badParameter, s)
        else if (ownedBanks s x.ctx w).isEmpty then (fail .notFound, s)
        else if 65536 ≤ s.sdb.posts.length then (fail .limitExceeded, s)
        else
          let p : SeedPost := { ctx := x.ctx, seq := q, sheaf := sheaf, width := w, key := inU c 0 (keyLen w), prio := argU c 33 1, pinned := argBits c 32 2 1 == 1, user := argU c 44 4 }
          (ok, settlePosts q { s with sdb := { s.sdb with posts := s.sdb.posts ++ [p] } })) s))

/-- The record of an exported entry. -/
def exportRecord (w : Nat) (e : SeedEntry) : List Byte := leBytes (keyLen w) e.key ++ e.result ++ leBytes 1 e.prio ++ leBytes 1 (b2n e.pinned) ++ zeros 6

/-- SEED_EXPORT (R293). -/
def execSeedExport (c : Cmd) (s : State) : Host.Outcome State Fault Refusal :=
  .next (runCmd 0x08 0x13 c (fun _ c s =>
    let width := argBits c 32 0 2
    let w := seedUnits width
    if !argsOnly c [(32, 0, 2), (35, 0, 8)] || width == 3 then (fail .badParameter, s)
    else match seedChecks c w 0 0 s with
    | some e => (fail e, s)
    | none =>
      let es := ((ownedBanks s (cmdCtx s c) w).map (fun b => b.2.entries.map (·.2))).flatten
      let need := es.length * (keyLen w + 24)
      if c.outLen < need then (.done { status := .badLength, r0 := es.length }, s)
      else (.done { r0 := es.length, output := (es.map (exportRecord w)).flatten, space := need }, s)) s)

/-! Banks, parameters, status (R265, R269, R274, R287, R290, R291) -/

/-- Frees a bank: its entries go, queued records lose their place, and cursors that cover it are freed. -/
def freeBank (k : Nat) (s : State) : State :=
  match tblGet? s.sdb.banks k with
  | none => s
  | some b =>
    let s := { s with sdb := { s.sdb with banks := tblDel s.sdb.banks k, cursors := tblKeep s.sdb.cursors (fun _ x => x.ctx != b.ctx || x.width != b.width) } }
    let posts := (b.queue.filter (fun i => i.oid.isNone)).map (fun i => ({ oid := none, post := i.post, ctx := b.ctx, width := b.width, records := [i.entry] } : Inserting))
    let s := { s with sdb := { s.sdb with inserting := posts ++ s.sdb.inserting } }
    b.queue.reverse.foldl (fun s i => { s with sdb := { s.sdb with inserting := s.sdb.inserting.map (fun x => if i.oid.isSome && x.oid == i.oid then { x with inBanks := x.inBanks - 1, records := i.entry :: x.records } else x) } }) s

/-- SEED_BANK_SET (R265, R269, R274). -/
def execSeedBankSet (c : Cmd) (s : State) : Host.Outcome State Fault Refusal :=
  .next (placeAll (runCmd 0x08 0x20 c (fun _ c s =>
    let k := argBits c 32 0 6
    let erase := argBits c 32 6 1 == 1
    let width := argBits c 33 0 2
    let owner := argBits c 36 0 12
    if !argsOnly c [(32, 0, 7), (33, 0, 2), (35, 0, 8), (36, 0, 12)] || (!erase && width == 3) then (fail .badParameter, s)
    else if !erase && tblHas s.sdb.banks k then (fail .badState, s)
    else if !erase && (getCtx? s owner).isNone then (fail .badContext, s)
    else
      let (yes, s) := judge c { unit := 0x08, obj := k } (.content (if erase then 1 else 2)) s
      if !yes then (fail .overruled, s)
      else if erase then (ok, freeBank k s)
      else (ok, setBank k { ctx := owner, width := seedUnits width } s)) s))

/-- Whether a value lies in a parameter's range (R290). -/
def seedRange (p x : Nat) : Bool :=
  match p with
  | 0x01 => decide (10 ≤ x ∧ x ≤ 60000)
  | 0x02 => decide (1 ≤ x ∧ x ≤ 7)
  | 0x03 => decide (256 ≤ x ∧ x ≤ 65536)
  | 0x04 => decide (100 ≤ x ∧ x ≤ 100000)
  | 0x05 => decide (50 ≤ x ∧ x ≤ 10000)
  | _ => false

/-- SEED_CONFIG (R290, R529). -/
def execSeedConfig (c : Cmd) (s : State) : Host.Outcome State Fault Refusal :=
  .next (runCmd 0x08 0x21 c (fun oid c s =>
    let p := argU c 32 2
    let x := argU c 40 8
    if !argsOnly c [(32, 0, 16), (35, 0, 8), (40, 0, 64)] || !seedRange p x then (fail .badParameter, s)
    else
      let (yes, s) := judge c { unit := 0x08, obj := 0x100 + p } (.value x) s
      if !yes then (fail .overruled, s)
      else
        let old := stagedValue s (fun ch => match ch with | .seed k v => if k == p then some v else none | _ => none) (seedParam s p)
        stage oid c { r0 := old } (.seed p x) s) s)

/-- SEED_STATUS (R291). -/
def execSeedStatus (c : Cmd) (s : State) : Host.Outcome State Fault Refusal :=
  .next (runCmd 0x08 0x22 c (fun _ c s =>
    if !argsOnly c [(35, 0, 8)] then (fail .badParameter, s)
    else
      let used := sumN ((s.sdb.banks.filter (fun b => b.2.ctx == cmdCtx s c)).map (fun b => b.2.entries.length * b.2.width))
      (ok (used + s.sdb.rate * 2 ^ 32 + s.sdb.tempC % 256 * 2 ^ 48 + b2n (decide (85 < s.sdb.tempC)) * 2 ^ 56)
        (queuedSearches s % 2 ^ 17 + min 4095 s.sdb.cursors.length * 2 ^ 32 + s.sdb.busy * 2 ^ 48), s)) s)

/-- Whether a hub die's throttle is in force (R515). -/
def hubThrottled (s : State) : Bool := (tblGetD s.mod.sensors 4 {}).throttle || (tblGetD s.mod.sensors 5 {}).throttle

/-- SEED_RATE_UPDATE (R287): the rate in M searches/s that the HD1 temperature sets. -/
def execSeedRateUpdate (hd1C : Nat) (s : State) : Host.Outcome State Fault Refusal :=
  .next { s with sdb := { s.sdb with tempC := hd1C, rate := if hubThrottled s then 500 else if hd1C ≤ 85 then 2000 else 2000 - 75 * (min hd1C 105 - 85) } }

/-! Ageing, cursors, soft errors (R274, R284, R286, R289) -/

/-- One entry at an age tick. -/
def ageEntry (limit : Nat) (e : SeedEntry) : SeedEntry :=
  if e.pinned || e.hit then { e with hit := false }
  else let a := min 7 (e.age + 1); { e with age := a, evicting := e.evicting || decide (limit ≤ a) }

/-- AGE_TICK (R284). -/
def execAgeTick (s : State) : Host.Outcome State Fault Refusal :=
  .next { s with sdb := { s.sdb with banks := tblMap s.sdb.banks (fun _ b => { b with entries := tblMap b.entries (fun _ e => ageEntry (seedParam s 0x02) e) }) } }

/-- The marked entry of lowest physical index. -/
def nextEvicting (s : State) : Option (Nat × Nat) :=
  s.sdb.banks.findSome? (fun b => (b.2.entries.find? (fun e => e.2.evicting)).map (fun e => (b.1, e.1)))

/-- EVICTION_ENGINE_COMMIT (R286). -/
def execEvictionEngineCommit (s : State) : Host.Outcome State Fault Refusal :=
  .next (match nextEvicting s with
  | none => s
  | some (b, u) => placeAll (dropEntry b u s))

/-- CURSOR_IDLE_EXPIRY (R274): a cursor with no STEP for CURSOR_IDLE_US, none being queued. -/
def execCursorIdleExpiry (cursor : Nat) (s : State) : Host.Outcome State Fault Refusal :=
  let stepping := s.sdb.jobs.any (fun j => match j.kind with | .step k _ => k == cursor | _ => false)
  .next (match tblGet? s.sdb.cursors cursor with
  | none => s
  | some x => if !stepping && decide (x.time + seedParam s 0x04 * us ≤ s.now) then { s with sdb := { s.sdb with cursors := tblDel s.sdb.cursors cursor } } else s)

/-- SEEDBANK_SOFT_ERROR about a unit, and its entry when it has one. -/
def softError (bank unit : Nat) (lost inj : Bool) (s : State) : State :=
  match tblGet? s.sdb.banks bank with
  | none => raiseN .seedbankSoftError inj 1 [.ctx 0] (leBytes 4 (bank * 16384 + unit) ++ leBytes 1 (b2n lost)) s
  | some b =>
    let head := unit / b.width * b.width
    let seq := match tblGet? b.entries head with | some e => if e.auto then getU e.result 4 4 else 0 | none => 0
    raiseN .seedbankSoftError inj 1 [.ctx b.ctx] (leBytes 4 (bank * 16384 + head) ++ leBytes 1 (b2n lost) ++ zeros 3 ++ leBytes 4 seq) s

/-- A pass of the comparison over a bank with a live entry: the opportunity of spark 0x0801 (R470). -/
def shadowSpark (bank : Nat) (s : State) : State :=
  match tblGet? s.sdb.banks bank with
  | none => s
  | some b =>
    match b.entries.head? with
    | none => s
    | some (u, _) =>
      match sparkCheck 0x0801 bank s with
      | (none, s) => s
      | (some _, s) => softError bank u false true { s with hlt := { s.hlt with tally := { s.hlt.tally with injected := satAdd 32 s.hlt.tally.injected 1 } } }

/-- Whether the unit differs from its shadow by flips not yet repaired. -/
def isFlipped (bank unit : Nat) (s : State) : Bool :=
  match tblGet? s.sdb.banks bank with
  | none => false
  | some b =>
    match tblGet? b.entries (unit / b.width * b.width) with
    | none => false
    | some e => bitOf e.unseen (unit % b.width) || e.keyFlip / 2 ^ (64 * (unit % b.width)) % 2 ^ 64 != 0

/-- A unit of an entry rewritten from its shadow. -/
def repairUnit (k : Nat) (e : SeedEntry) : SeedEntry :=
  { e with keyFlip := e.keyFlip - e.keyFlip / 2 ^ (64 * k) % 2 ^ 64 * 2 ^ (64 * k), unseen := if bitOf e.unseen k then e.unseen ^^^ 2 ^ k else e.unseen }

/-- SHADOW_COMPARE (R289, R470): a unit that differs, by `flip` or by an earlier flip, is rewritten from its shadow; under a damaged shadow its entry goes. A pass over a bank with a live entry is the opportunity of spark 0x0801. -/
def execShadowCompare (bank unit : Nat) (flip : BitVec 80) (shadowBad : Bool) (s : State) : Host.Outcome State Fault Refusal :=
  .next (if 64 ≤ bank || 16384 ≤ unit then s
  else if shadowBad then
    let s := softError bank unit true false (shadowSpark bank s)
    match tblGet? s.sdb.banks bank with
    | none => s
    | some b => placeAll (dropEntry bank (unit / b.width * b.width) s)
  else if flip != 0 || isFlipped bank unit s then softError bank unit false false (onUnit bank unit repairUnit (shadowSpark bank s))
  else shadowSpark bank s)

end Sys2Proof.Machine
end

