-- ==== Sys2Proof/Machine/Sheaf.lean ====
section
/-! DEFINITION. The meanings of the SHEAF rows (file 05). -/

namespace Sys2Proof.Machine

/-! Formats (R158-R162) -/

/-- Codebook entries in a record of a storage form. -/
def bookSize (form : Nat) : Nat := match form with | 0 => 16 | 1 => 256 | _ => 0

/-- IN_LEN of a format record (R161). -/
def formatLen (form : Nat) : Nat := match form with | 0 => 128 | 1 => 1088 | _ => 64

/-- The format that a record spells (R158). -/
def formatOf (ctx : Nat) (b : List Byte) : Format :=
  let form := getU b 0 1 % 8
  let n := bookSize form
  { ctx := ctx, form := form, heads := getU b 1 1, dim := getU b 2 2, kGroup := 32 * 2 ^ (getU b 4 1 % 4), vGroup := if bitOf (getU b 4 1) 2 then 64 else 32,
    headroom := 2 ^ (getU b 5 1 % 4), escRatio := getU b 6 2, kBook := halves ((b.drop 64).take (2 * n)), vBook := halves ((b.drop (64 + 2 * n)).take (2 * n)) }

/-- Whether a codebook is in order (R162): finite entries, no two equal, one of them not zero; the escape index does not count. -/
def bookOk (book : List Nat) : Bool :=
  let vs := book.dropLast.map (fun e => f16Dec e)
  let ds := vs.map fvDy
  vs.all fvFinite && ds.any (fun d => d.m != 0) && ds.zipIdx.all (fun (a, i) => (ds.drop (i + 1)).all (fun b => !(dyLe a b && dyLe b a)))

/-- Whether a record is in order: the cases of R162. -/
def formatOk (b : List Byte) : Bool :=
  let f := formatOf 0 b
  let e := f.escRatio
  decide (getU b 0 1 ≤ 4) && decide (1 ≤ f.heads ∧ f.heads ≤ 16) && decide (64 ≤ f.dim ∧ f.dim ≤ 256 ∧ f.dim % 32 = 0) &&
  decide (getU b 4 1 < 8 ∧ getU b 4 1 % 4 ≤ 2) && decide (getU b 5 1 < 4) &&
  (e % 2 ^ 15 == 0 || decide (0x3C00 ≤ e ∧ e < 0x7C00)) && (b.drop 9).take 55 == zeros 55 && f.dim % f.kGroup == 0 &&
  (2 ≤ f.form || (bookOk f.kBook && bookOk f.vBook))

/-- Whether any entry records a format, or any live sequence names it (R161). -/
def formatUsed (s : State) (k : Nat) : Bool :=
  s.tir.seqs.any (fun q => q.2.formats.contains k) || s.tir.bodies.any (fun b => b.2.fmt == k && b.2.refs != 0)

/-- The checks of R161 on the owner and the use of an ID. -/
def formatHeld (c : Cmd) (k : Nat) (s : State) : Option Status :=
  match fmt? s k with
  | none => none
  | some f => if !mayName s c f.ctx then some .badContext else if formatUsed s k then some .inUse else none

/-- SHEAF_FORMAT (R158, R161, R162). -/
def execSheafFormat (c : Cmd) (s : State) : Host.Outcome State Fault Refusal :=
  .next (runCmd 0x04 0x01 c (fun _ c s =>
    let k := argBits c 32 0 12
    if !argsOnly c [(32, 0, 12)] then (fail .badParameter, s)
    else match bufferCheck c s with
    | some e => (fail e, s)
    | none =>
      if c.inLen != formatLen (inU c 0 1 % 8) then (fail .badLength, s)
      else if !formatOk c.input then (fail .badParameter, s)
      else match formatHeld c k s with
      | some e => (fail e, s)
      | none =>
        let (yes, s) := judge c { unit := 0x04, obj := k } (.value (1 + leNat c.input)) s
        if !yes then (fail .overruled, s)
        else
          let owner := match fmt? s k with | some f => f.ctx | none => cmdCtx s c
          (ok, { s with kln := { s.kln with formats := tblSet s.kln.formats k (formatOf owner c.input) } })) s)

/-- SHEAF_FORMAT_DROP (R161). -/
def execSheafFormatDrop (c : Cmd) (s : State) : Host.Outcome State Fault Refusal :=
  .next (runCmd 0x04 0x02 c (fun _ c s =>
    let k := argBits c 32 0 12
    if !argsOnly c [(32, 0, 12)] then (fail .badParameter, s)
    else if (fmt? s k).isNone then (fail .notFound, s)
    else match formatHeld c k s with
    | some e => (fail e, s)
    | none =>
      let (yes, s) := judge c { unit := 0x04, obj := k } (.value 0) s
      if !yes then (fail .overruled, s)
      else (ok, { s with kln := { s.kln with formats := tblDel s.kln.formats k } })) s)

/-- SHEAF_APPEND (R180-R184). -/
def execSheafAppend (c : Cmd) (s : State) : Host.Outcome State Fault Refusal := .next (settleWork (runCmd 0x04 0x10 c appendBody s))

/-- SHEAF_READ (R186, R448). -/
def execSheafRead (c : Cmd) (s : State) : Host.Outcome State Fault Refusal := .next (settleWork (runCmd 0x04 0x20 c readBody s))

end Sys2Proof.Machine
end

