-- ==== Sys2Proof/Machine/Security.lean ====
section
/-! DEFINITION. The meanings of the rows of the security unit (file 14): contexts, key slots, binding groups, parameters. Firmware and SPDM are in Firmware.lean and Spdm.lean. -/

namespace Sys2Proof.Machine

/-! Objects of the security unit's orders (R74, R437) -/

/-- A key slot as the target of an order. -/
def slotTarget (k : Nat) : Target := { unit := 0x0C, obj := k }

/-- A context as the target of an order. -/
def ctxTarget (k : Nat) : Target := { unit := 0x0C, obj := 2 ^ 16 + k }

/-- The inactive bank as the target of an order. -/
def bankTarget : Target := { unit := 0x0C, obj := 2 ^ 17 }

/-! Key slots (R438-R445) -/

/-- The state of a slot: EMPTY, ACTIVE, SHADOWED, EXHAUSTED (R439). -/
def slotState (s : State) (k : Nat) : Nat :=
  match tblGet? s.sec.keys k with
  | none => 0
  | some x => if x.shadow.isSome then 2 else if 2 ^ 64 ≤ x.counter then 3 else 1

/-- Discards the member lists that no slot names (R452). -/
def pruneGroups (s : State) : State :=
  { s with sec := { s.sec with groups := tblKeep s.sec.groups (fun g _ => s.sec.keys.any (fun e => e.2.group == g)) } }

/-- The bodies of contexts that name a slot for a use, protected. -/
def bodiesUnder (s : State) (slot : Ctx → Nat) (k : Nat) : List (Nat × Body) :=
  s.tir.bodies.filter (fun e => e.2.prot && (match getCtx? s e.2.ctx with | none => false | some x => slot x == k))

/-- Whether a context that names the slot as MEM_KEY holds anything protected (R444). -/
def memoryInUse (s : State) (k : Nat) : Bool :=
  s.sec.ctxs.any (fun e => e.2.memKey == k && (s.tir.bodies.any (fun b => b.2.prot && b.2.ctx == e.1) || s.tir.regions.any (fun r => r.2.prot && r.2.ctx == e.1)))

/-- Whether a Peat or Fallow record lies under a STORAGE slot (R444): a protected record of a context that names it. -/
def storageInUse (s : State) (k : Nat) : Bool :=
  let under := fun (c : Copy) => c.prot && (match getCtx? s c.ctx with | none => false | some x => x.storeKey == k)
  s.tir.peat.any (fun e => under e.2) || s.tir.comps.any (fun e => e.2.store.any (fun x => under x.2))

/-- What is under way with bodies of an erased slot ends (R445): a write-back leaves no record, a fetch leaves its body COLD. -/
def abortMoves (k : Nat) (s : State) : State :=
  (bodiesUnder s (·.storeKey) k).foldl (fun s (b, x) =>
    if x.state == .fetching then
      let s := modBody b (fun y => { y with state := .cold, chunks := 0, extents := [] }) s
      postArrived b s
    else if tblHas s.tir.snaps b then
      let s := modBody b (fun y => { y with state := if y.state == .writing then .hot else y.state, changed := false }) s
      queueWb b false { s with tir := { s.tir with snaps := tblDel s.tir.snaps b } }
    else s) s

/-- The commands that need a body whose key has been erased complete with KEY_REVOKED (R445). -/
def endRevoked (s : State) : State :=
  let bad := fun (s : State) (b : Nat) => match getBody? s b with | none => false | some x => keyRevoked s x
  let s := (s.tir.bodies.filter (fun e => keyRevoked s e.2)).foldl (fun s e => failItems e.1 s .keyRevoked) s
  let s := s.tir.held.foldl (fun s h => match h.why with | .bodies l => if l.any (bad s) then failHeld h.oid { status := .keyRevoked } s else s | _ => s) s
  let isOver := s.tir.flushes.filter (fun f => f.2.bodies.any (fun b => match getBody? s b with | none => false | some x => sealDenied s x == some .keyRevoked))
  let s := isOver.foldl (fun s f => finish f.1 { status := .keyRevoked } { s with tir := { s.tir with flushes := tblDel s.tir.flushes f.1 } }) s
  settleWork s

/-- Empties a slot and its shadow. -/
def eraseSlot (k : Nat) (s : State) : State :=
  if !tblHas s.sec.keys k then s
  else endRevoked (abortMoves k (pruneGroups { s with sec := { s.sec with keys := tblDel s.sec.keys k } }))

/-- The fields of a KEY.LOAD envelope (R442). -/
structure Envelope where
  usage   : Nat
  wrapped : Bool
  slot    : Nat
  owner   : Nat
  group   : Nat
  epoch   : Nat
  uids    : List Nat
  deriving DecidableEq, Repr

/-- Whether numbers rise strictly. -/
def rising : List Nat → Bool
  | a :: b :: t => decide (a < b) && rising (b :: t)
  | _ => true

/-- Reads an envelope: its format and its length. -/
def envelopeOf (c : Cmd) : Except Status Envelope :=
  let m := inU c 16 2
  let k := 64 + 16 * m
  let wrapped := inU c 0 1 / 128 == 1
  let uids := (List.range m).map (fun i => inU c (64 + 16 * i) 16)
  if c.inLen < 64 then .error .badLength
  else if bitsOf (inU c 0 1) 2 5 != 0 || 255 < inU c 2 2 || inU c 4 2 == 0 || 4095 < inU c 4 2 || inU c 6 2 != 0 || getU c.input 18 46 != 0 || m == 0 || 1024 < m then .error .badParameter
  else if c.inLen != k + (if wrapped then 192 else 64) then .error .badLength
  else if !rising uids || (wrapped && inU c (k + 97) 3 != 0) then .error .badParameter
  else .ok { usage := inU c 0 1 % 4, wrapped := wrapped, slot := inU c 2 2, owner := inU c 4 2, group := inU c 8 4, epoch := inU c 12 4, uids := uids }

/-- The member lists after a load, or why it is refused (R452): the lists of groups that some slot names then. -/
def groupsAfter (s : State) (e : Envelope) : Except Status (Tbl KeyGroup) :=
  let kept := tblKeep s.sec.groups (fun g _ => g == e.group || s.sec.keys.any (fun x => x.1 != e.slot && x.2.group == g))
  let bad := match tblGet? s.sec.groups e.group with
    | none => false
    | some g => decide (e.epoch < g.epoch) || (e.epoch == g.epoch && g.members != e.uids)
  let next := tblSet kept e.group { epoch := e.epoch, members := e.uids }
  if bad then .error .badState
  else if 32 < next.length || 8192 < sumN (next.map (fun x => x.2.members.length)) then .error .limitExceeded
  else .ok next

/-- The time until a slot's shadow drains (R444): 10 ms from the rewrite for a FABRIC slot; for operations that still run, a free value. -/
def shadowHint (x : KeySlot) (h : Shadow) (s : State) : Nat × State :=
  if h.ops.isEmpty then (hintUs (ceilDiv (h.since + (if x.usage == 2 then 10 * ms else 0) - s.now) us), s)
  else let (k, s) := fresh s; (hintUs (Config.hint k), s)

/-- The next GENERATION, reserved in flash in blocks of 256 (R439). -/
def drawGeneration (s : State) : Nat × State :=
  let g := s.sec.nextGen
  (g, { s with sec := { s.sec with nextGen := g + 1, genLimit := if s.sec.genLimit ≤ g then g + 256 else s.sec.genLimit } })

/-- Puts a key into a slot; the key of an ACTIVE slot stays as its shadow (R439, R444). -/
def putKey (e : Envelope) (key : List Byte) (groups : Tbl KeyGroup) (s : State) : Nat × State :=
  let ops := ((bodiesUnder s (·.storeKey) e.slot).filter (fun x => tblHas s.tir.snaps x.1 || x.2.state == .fetching)).map (·.1)
  let shadow := if slotState s e.slot == 1 then (tblGet? s.sec.keys e.slot).map (fun x => { generation := x.generation, key := x.key, since := s.now, ops := ops : Shadow }) else none
  let (g, s) := drawGeneration s
  let x : KeySlot := { usage := e.usage, owner := e.owner, group := e.group, generation := g, key := key, shadow := shadow }
  (g, { s with sec := { s.sec with keys := tblSet s.sec.keys e.slot x, groups := groups } })

/-- The shadow that a slot still holds, with what it waits for. -/
def slotShadow (s : State) (k : Nat) : Option (KeySlot × Shadow) :=
  match tblGet? s.sec.keys k with | none => none | some x => x.shadow.map (fun h => (x, h))

/-- Whether something lies under the key of a slot, so that it cannot be rewritten (R444). -/
def slotInUse (s : State) (k : Nat) : Bool :=
  match tblGet? s.sec.keys k with | some x => (x.usage == 0 && memoryInUse s k) || (x.usage == 1 && storageInUse s k) | none => false

/-- The key of an envelope: in the clear, or what its unwrapping yields for a module of its list (R443). -/
def envelopeKey (s : State) (c : Cmd) (e : Envelope) (unwrapped : Option (List Byte)) : Option (List Byte) :=
  if e.wrapped then (if e.uids.contains s.fuse.uid.toNat then unwrapped else none) else some ((c.input.drop (64 + 16 * e.uids.length)).take 64)

/-- KEY_LOAD (R439, R442-R444, R452, R457). `unwrapped` is what the unwrapping of R443 yields, none when it fails. -/
def execKeyLoad (c : Cmd) (unwrapped : Option (List Byte)) (s : State) : Host.Outcome State Fault Refusal :=
  .next (runCmd 0x0C 0x10 c (fun _ c s =>
    if !argsOnly c [] then (fail .badParameter, s)
    else match bufferCheck c s with
    | some e => (fail e, s)
    | none =>
      match envelopeOf c with
      | .error e => (fail e, s)
      | .ok e =>
        if s.sec.conf && !e.wrapped then (fail .confidentialMode, s)
        else if e.wrapped && !s.sec.attested then (fail .attestationRequired, s)
        else match envelopeKey s c e unwrapped with
        | none => (fail .authFailed, s)
        | some key =>
          match groupsAfter s e with
          | .error st => (fail st, s)
          | .ok groups =>
            match slotShadow s e.slot with
            | some (x, h) =>
              let (n, s) := shadowHint x h s
              (.done { status := .busy, hint := n }, s)
            | none =>
              if slotInUse s e.slot then (fail .inUse, s)
              else if 2 ^ 32 ≤ s.sec.nextGen then (fail .keyExhausted, s)
              else
                let (yes, s) := judge c (slotTarget e.slot) (.content 2) s
                if !yes then (fail .overruled, s)
                else let (g, s) := putKey e (key.take 64) groups s; (ok g, s)) s)

/-- KEY_ERASE (R445). -/
def execKeyErase (c : Cmd) (s : State) : Host.Outcome State Fault Refusal :=
  .next (runCmd 0x0C 0x11 c (fun _ c s =>
    if !argsOnly c [(32, 0, 8)] then (fail .badParameter, s)
    else
      let k := argU c 32 2
      let (yes, s) := judge c (slotTarget k) (.content 1) s
      if !yes then (fail .overruled, s) else (ok, eraseSlot k s)) s)

/-- KEY_QUERY (R441). -/
def execKeyQuery (c : Cmd) (s : State) : Host.Outcome State Fault Refusal :=
  .next (runCmd 0x0C 0x12 c (fun _ c s =>
    let k := argU c 32 2
    if !argsOnly c [(32, 0, 8)] then (fail .badParameter, s)
    else match tblGet? s.sec.keys k with
    | none => (ok, s)
    | some x =>
      if !mayName s c x.owner then (fail .badContext, s)
      else (ok (slotState s k + x.usage * 8 + x.owner * 2 ^ 16 + x.generation * 2 ^ 32) (min (2 ^ 64 - 1) x.counter), s)) s)

/-- Whether a slot holds a FABRIC key. -/
def fabricKey (s : State) (k : Nat) : Bool := match tblGet? s.sec.keys k with | none => false | some x => x.usage == 2

/-- The slot that a KEY.BIND_JOB is about: the one bound, or the one that it unbinds. -/
def bindTargetSlot (s : State) (job k : Nat) : Nat := if k == 0xFFFF then (tblGet? s.sec.jobKeys job).getD 0xFFFF else k

/-- KEY_BIND_JOB (R437, R450). -/
def execKeyBindJob (c : Cmd) (s : State) : Host.Outcome State Fault Refusal :=
  .next (runCmd 0x0C 0x13 c (fun _ c s =>
    let job := argU c 32 2
    let k := argU c 34 2
    if !argsOnly c [(32, 0, 32)] || (k != 0xFFFF && !fabricKey s k) then (fail .badParameter, s)
    else
      let (yes, s) := judge c (slotTarget (bindTargetSlot s job k)) (.value (job + if k == 0xFFFF then 2 ^ 16 else 0)) s
      if !yes then (fail .overruled, s)
      else (ok, { s with sec := { s.sec with jobKeys := if k == 0xFFFF then tblDel s.sec.jobKeys job else tblSet s.sec.jobKeys job k } })) s)

/-- KEY_SHADOW_DISCARD (R444): no operation holds the shadow, and for a FABRIC slot 10 ms have passed. -/
def execKeyShadowDiscard (slot : Nat) (s : State) : Host.Outcome State Fault Refusal :=
  .next (match tblGet? s.sec.keys slot with
  | none => s
  | some x =>
    match x.shadow with
    | none => s
    | some h =>
      if !h.ops.isEmpty || (x.usage == 2 && decide (s.now < h.since + 10 * ms)) then s
      else { s with sec := { s.sec with keys := tblSet s.sec.keys slot { x with shadow := none } } })

/-! Contexts (R428-R432) -/

/-- Contexts resident now, context 0 among them. -/
def residents (s : State) : Nat := (s.sec.ctxs.filter (fun e => e.2.resident)).length

/-- Whether a key field of a descriptor is good: none, or a slot that the context owns, of the usage (R429). -/
def keyField (s : State) (ctx k usage : Nat) : Bool :=
  k == 0xFFFF || (match tblGet? s.sec.keys k with | none => false | some x => x.owner == ctx && x.usage == usage)

/-- Opens the metering record of a tenant, if there is room among the 4,096 (R494). -/
def openTenant (t : Nat) (s : State) : State :=
  if tblHas s.hlt.tenants t || 4096 ≤ s.hlt.tenants.length then s else { s with hlt := { s.hlt with tenants := tblSet s.hlt.tenants t {} } }

/-- Whether the fields of a descriptor are in range (R429). -/
def ctxFieldsOk (c : Cmd) : Bool := decide (1 ≤ inU c 0 2 ∧ inU c 0 2 ≤ 4095) && decide (inU c 2 1 < 16) && getU c.input 14 50 == 0

/-- Whether the keys of a descriptor are good: slots of the context, of their usage, and those that its flags need (R429). -/
def ctxKeysOk (s : State) (c : Cmd) : Bool :=
  keyField s (inU c 0 2) (inU c 8 2) 0 && keyField s (inU c 0 2) (inU c 10 2) 1 && keyField s (inU c 0 2) (inU c 12 2) 2 &&
  !((bitOf (inU c 2 1) 0 && (inU c 8 2 == 0xFFFF || (hasPeat s && inU c 10 2 == 0xFFFF))) || (bitOf (inU c 2 1) 1 && inU c 12 2 == 0xFFFF))

/-- The context that a descriptor spells. -/
def ctxOf (s : State) (c : Cmd) : Ctx :=
  { desc := c.input.take 64, tenant := inU c 4 4, protRegions := bitOf (inU c 2 1) 0, requireProt := bitOf (inU c 2 1) 1, isolate := bitOf (inU c 2 1) 2, profile := bitOf (inU c 2 1) 3 && !s.sec.conf, memKey := inU c 8 2, storeKey := inU c 10 2, fabricKey := inU c 12 2 }

/-- CONTEXT_CREATE (R428, R429, R457). -/
def execContextCreate (c : Cmd) (s : State) : Host.Outcome State Fault Refusal :=
  .next (runCmd 0x0C 0x01 c (fun _ c s =>
    let k := inU c 0 2
    let bit := fun (i : Nat) => bitOf (inU c 2 1) i
    if !argsOnly c [] then (fail .badParameter, s)
    else match bufferCheck c s with
    | some e => (fail e, s)
    | none =>
      if c.inLen < 64 then (fail .badLength, s)
      else if !ctxFieldsOk c || !ctxKeysOk s c then (fail .badParameter, s)
      else if s.sec.conf && !bit 0 && !bit 1 then (fail .confidentialMode, s)
      else if tblHas s.sec.ctxs k then (fail .badState, s)
      else if 1024 ≤ residents s then (fail .limitExceeded, s)
      else (ok, openTenant (inU c 4 4) { s with sec := { s.sec with ctxs := tblSet s.sec.ctxs k (ctxOf s c) } })) s)

/-- Whether a ring of a context is not DISABLED. -/
def ringsOf (s : State) (k : Nat) : Bool := s.cln.rings.any (fun e => e.2.ctx == k && e.2.state != .disabled)

/-- Whether a command of a context is accepted and not complete. -/
def commandsOf (s : State) (k : Nat) : Bool :=
  s.cln.inflight.any (fun e => cmdCtx s e.2 == k) || s.cln.fetched.any (fun l => cmdCtx s l.cmd == k) || s.cln.done.any (fun f => cmdCtx s f.cmd == k)

/-- Drops every object of a context (R432). -/
def dropObjects (k : Nat) (s : State) : State :=
  let s := (s.tir.seqs.filter (fun e => e.2.ctx == k)).foldl (fun s e => destroySeq e.1 s) s
  let s := (s.tir.regions.filter (fun e => e.2.ctx == k)).foldl (fun s e => freeRegion e.1 e.2 s) s
  let s := (s.sdb.banks.filter (fun e => e.2.ctx == k)).foldl (fun s e => freeBank e.1 s) s
  let s := (s.gln.swaths.filter (fun e => e.2.ctx == k)).foldl (fun s e => dropSwath e.1 s) s
  let owned := s.trn.counterOwner.filter (fun e => e.2 == k)
  let s := closeWindows (fun _ w => w.ctx == k) s
  { s with
    kln := { s.kln with formats := tblKeep s.kln.formats (fun _ f => f.ctx != k), rope := tblKeep s.kln.rope (fun _ r => r.ctx != k) },
    fld := { s.fld with programs := tblKeep s.fld.programs (fun _ p => p.ctx != k) },
    sdb := { s.sdb with cursors := tblKeep s.sdb.cursors (fun _ x => x.ctx != k) },
    trn := { s.trn with jobs := tblKeep s.trn.jobs (fun _ j => j.ctx != k), counterOwner := tblKeep s.trn.counterOwner (fun _ x => x != k), counters := tblKeep s.trn.counters (fun n _ => !tblHas owned n) },
    oln := { s.oln with mcast := tblKeep s.oln.mcast (fun _ g => g.ctx != k) } }

/-- Erases the key slots of a context, with the job bindings to them. -/
def dropKeys (k : Nat) (s : State) : State :=
  let mine := (s.sec.keys.filter (fun e => e.2.owner == k)).map (·.1)
  let s := mine.foldl (fun s n => eraseSlot n s) s
  { s with sec := { s.sec with jobKeys := tblKeep s.sec.jobKeys (fun _ n => !mine.contains n) } }

/-- A context that a command names by its number, not context 0 (R428). -/
def namedCtx (s : State) (c : Cmd) : Except Status (Nat × Ctx) :=
  let k := argBits c 32 0 12
  if !argsOnly c [(32, 0, 12)] || k == 0 then .error .badParameter
  else match getCtx? s k with
  | none => .error .badContext
  | some x => if x.destroyBy.isSome then .error .badState else .ok (k, x)

/-- CONTEXT_DESTROY (R432): completes when every body and region has gone. -/
def execContextDestroy (c : Cmd) (s : State) : Host.Outcome State Fault Refusal :=
  .next (settleDestroys (settleWork (runCmd 0x0C 0x02 c (fun oid c s =>
    match namedCtx s c with
    | .error e => (fail e, s)
    | .ok (k, _) =>
      if ringsOf s k then (fail .inUse, s)
      else
        let (yes, s) := judge c (ctxTarget k) (.content 1) s
        if !yes then (fail .overruled, s)
        else
          let s := dropKeys k (dropObjects k s)
          (.wait, { s with sec := { s.sec with ctxs := tblUpd s.sec.ctxs k (fun x => { x with destroyBy := some oid }) } })) s)))

/-- Whether something of a context keeps it resident (R431). -/
def ctxBusy (s : State) (k : Nat) : Bool := ringsOf s k || commandsOf s k || s.trn.windows.any (fun e => e.2.ctx == k) || s.trn.jobs.any (fun e => e.2.ctx == k)

/-- CONTEXT_PARK (R431). -/
def execContextPark (c : Cmd) (s : State) : Host.Outcome State Fault Refusal :=
  .next (runCmd 0x0C 0x03 c (fun _ c s =>
    match namedCtx s c with
    | .error e => (fail e, s)
    | .ok (k, x) =>
      if ctxBusy s k then (fail .inUse, s)
      else
        let (yes, s) := judge c (ctxTarget k) (.activation 1) s
        if !yes then (fail .overruled, s) else (ok, { s with sec := { s.sec with ctxs := tblSet s.sec.ctxs k { x with resident := false } } })) s)

/-- CONTEXT_RESIDE (R428, R431). -/
def execContextReside (c : Cmd) (s : State) : Host.Outcome State Fault Refusal :=
  .next (runCmd 0x0C 0x04 c (fun _ c s =>
    match namedCtx s c with
    | .error e => (fail e, s)
    | .ok (k, x) =>
      if !x.resident && 1024 ≤ residents s then (fail .limitExceeded, s)
      else
        let (yes, s) := judge c (ctxTarget k) (.activation 2) s
        if !yes then (fail .overruled, s) else (ok, { s with sec := { s.sec with ctxs := tblSet s.sec.ctxs k { x with resident := true } } })) s)

/-- CONTEXT_QUERY (R437). -/
def execContextQuery (c : Cmd) (s : State) : Host.Outcome State Fault Refusal :=
  .next (runCmd 0x0C 0x05 c (fun _ c s =>
    let k := argBits c 32 0 12
    if !argsOnly c [(32, 0, 12)] then (fail .badParameter, s)
    else match bufferCheck c s with
    | some e => (fail e, s)
    | none =>
      match getCtx? s k with
      | none => (fail .badContext, s)
      | some x =>
        if !mayName s c k then (fail .badContext, s)
        else if c.outLen < 64 then (fail .badLength, s)
        else (.done { r0 := b2n x.resident, output := x.desc, space := 64 }, s)) s)

/-! SEC.CONFIG (R435, R437, R456) -/

/-- The value of a parameter: the mode requested, for CONFIDENTIAL. -/
def secValue (s : State) : Nat → Option Nat
  | 1 => some (securePathOf s)
  | 2 => some s.sec.secureStream
  | 3 => some (b2n s.sec.confNext)
  | _ => none

/-- A parameter of the security unit takes a value. -/
def setSecValue (p v : Nat) (s : State) : State :=
  { s with sec := match p with | 1 => { s.sec with securePath := v } | 2 => { s.sec with secureStream := v } | _ => { s.sec with confNext := v == 1 } }

/-- SEC_CONFIG. -/
def execSecConfig (c : Cmd) (s : State) : Host.Outcome State Fault Refusal :=
  .next (runCmd 0x0C 0x20 c (fun _ c s =>
    let p := argU c 32 2
    let v := argU c 40 8
    if !argsOnly c [(32, 0, 16), (40, 0, 64)] || (if p == 2 then 255 else 1) < v then (fail .badParameter, s)
    else match secValue s p with
    | none => (fail .badParameter, s)
    | some was =>
      if p == 1 && v == 0 && s.sec.conf then (fail .permission, s)
      else
        let (yes, s) := judge c { unit := 0x0C, obj := 2 ^ 18 + p } (.value v) s
        if !yes then (fail .overruled, s)
        else (ok was, setSecValue p v s)) s)

end Sys2Proof.Machine
end

