-- ==== Sys2Proof/Machine/Firmware.lean ====
section
/-! DEFINITION. Firmware images and banks (R458-R461). -/

namespace Sys2Proof.Machine

/-- The bank that is not running. -/
def idleBank (s : State) : Nat := 1 - s.sec.running

/-- Replaces a bank. -/
def setFwBank (b : Nat) (m : List (Nat × Byte)) (s : State) : State :=
  { s with sec := if b == 0 then { s.sec with bank0 := m } else { s.sec with bank1 := m } }

/-- The SVN of a bank's image. -/
def imageSvn (s : State) (b : Nat) : Nat := fwField s b 16 1 % 128

/-- Whether a bank's image is authentic: MAGIC and HEADER_VERSION, a key not revoked, a length that R458 allows, and a signature that verifies (`sigOk`). -/
def imageAuthentic (s : State) (b : Nat) (sigOk : Bool) : Bool :=
  let len := fwField s b 20 4
  fwField s b 0 4 == 0x464E4C43 && fwField s b 4 2 == 1 && !bitOf s.fuse.revoked (fwField s b 6 1 % 4) &&
  decide (4096 ≤ len ∧ len ≤ 2 ^ 24 ∧ len % 16 = 0) && sigOk

/-- The test of R459. -/
def imageOk (s : State) (b : Nat) (sigOk : Bool) : Bool :=
  imageAuthentic s b sigOk && fwField s b 7 1 == 0xB1 && decide (s.fuse.svn ≤ imageSvn s b)

/-- Whether the running bank is on trial (R460). -/
def onTrial (s : State) : Bool := s.sec.trial && s.sec.running == s.sec.bootBank

/-- RESULT0 of FW.STATUS (R461). -/
def fwResult (s : State) : Nat :=
  s.sec.running + s.sec.bootBank * 2 + b2n s.sec.trial * 4 + s.sec.trialStarts % 4 * 8 + s.fuse.svn * 2 ^ 8 + imageSvn s s.sec.running * 2 ^ 16 + s.fuse.revoked % 16 * 2 ^ 24

/-- FW_STAGE (R460): writes the inactive bank, which a stage at OFFSET 0 erases first. -/
def execFwStage (c : Cmd) (s : State) : Host.Outcome State Fault Refusal :=
  .next (runCmd 0x0C 0x30 c (fun _ c s =>
    let off := argU c 32 4
    if !argsOnly c [(32, 0, 32)] || off % 4096 != 0 then (fail .badParameter, s)
    else match bufferCheck c s with
    | some e => (fail e, s)
    | none =>
      if c.inLen < 4096 || 65536 < c.inLen then (fail .badLength, s)
      else if 2 ^ 24 < off + c.inLen then (fail .badParameter, s)
      else if onTrial s then (fail .badState, s)
      else
        let (yes, s) := judge c bankTarget (.content 2) s
        if !yes then (fail .overruled, s)
        else
          let b := idleBank s
          (ok, setFwBank b (memPut (if off == 0 then [] else fwBank s b) off c.input) s)) s)

/-- FW_ACTIVATE (R460). -/
def execFwActivate (c : Cmd) (sigOk : Bool) (s : State) : Host.Outcome State Fault Refusal :=
  .next (runCmd 0x0C 0x31 c (fun _ c s =>
    let b := idleBank s
    if !argsOnly c [] then (fail .badParameter, s)
    else
    let (fired, s) := sparkCheck 0x0C02 0 s
    if fired.isSome then (fail .authFailed, countInjected s)
    else if !imageAuthentic s b sigOk then (fail .authFailed, s)
    else if imageSvn s b < s.fuse.svn then (fail .rollbackRefused, s)
    else if fwField s b 7 1 != 0xB1 || fwField s b 10 1 != 3 then (fail .badParameter, s)
    else
      let (yes, s) := judge c bankTarget (.value 1) s
      if !yes then (fail .overruled, s)
      else
        let s := { s with sec := { s.sec with bootBank := b, trial := true, trialStarts := 0 } }
        (ok (fwResult s), s)) s)

/-- A FW.COMMIT: a running trial ends, and with `svn` the fuses take the image's SVN. -/
def commitImage (svn : Bool) (s : State) : State :=
  let s := { s with hlt := { s.hlt with tally := { s.hlt.tally with fwUpdates := satAdd 16 s.hlt.tally.fwUpdates 1 } } }
  let s := if onTrial s then { s with sec := { s.sec with trial := false, trialStarts := 0 } } else s
  if svn then { s with fuse := { s.fuse with svn := max s.fuse.svn (imageSvn s s.sec.running) } } else s

/-- FW_COMMIT (R460). -/
def execFwCommit (c : Cmd) (s : State) : Host.Outcome State Fault Refusal :=
  .next (runCmd 0x0C 0x32 c (fun _ c s =>
    if !argsOnly c [(32, 0, 1)] then (fail .badParameter, s)
    else
      let svn := argBits c 32 0 1 == 1
      let (yes, s) := judge c bankTarget (.value (2 + b2n svn)) s
      if !yes then (fail .overruled, s)
      else
        let s := commitImage svn s
        (ok s.fuse.svn, s)) s)

/-- FW_STATUS (R461). -/
def execFwStatus (c : Cmd) (sigOk : Bool) (s : State) : Host.Outcome State Fault Refusal :=
  .next (runCmd 0x0C 0x33 c (fun _ c s =>
    let b := idleBank s
    if !argsOnly c [] then (fail .badParameter, s)
    else (ok (fwResult s) (if imageOk s b sigOk then fwField s b 12 4 else 0), s)) s)

/-- FW_ERASE_BANK (R460). -/
def execFwEraseBank (c : Cmd) (s : State) : Host.Outcome State Fault Refusal :=
  .next (runCmd 0x0C 0x34 c (fun _ c s =>
    if !argsOnly c [] then (fail .badParameter, s)
    else if onTrial s then (fail .badState, s)
    else
      let (yes, s) := judge c bankTarget (.content 1) s
      if !yes then (fail .overruled, s) else (ok, setFwBank (idleBank s) [] s)) s)

/-- Why the boot ROM refuses a bank, as FW_BANK_FALLBACK gives it: 0 header, 1 key revoked, 2 signature, 3 SVN. -/
def refusal (s : State) (b : Nat) (sigOk : Bool) : Nat :=
  let len := fwField s b 20 4
  if fwField s b 0 4 != 0x464E4C43 || fwField s b 4 2 != 1 || fwField s b 7 1 != 0xB1 || len < 4096 || 2 ^ 24 < len || len % 16 != 0 then 0
  else if bitOf s.fuse.revoked (fwField s b 6 1 % 4) then 1
  else if !sigOk then 2 else 3

/-- What the boot ROM starts (R459, R460): the bank, none when neither bank passes. A trial bank that three starts have used without FW.COMMIT gives way first. -/
def bootSelect (sig0 sig1 : Bool) (s : State) : Option Nat × State :=
  let sig := fun (b : Nat) => if b == 0 then sig0 else sig1
  let old := s.sec.bootBank
  let expired := s.sec.trial && decide (3 ≤ s.sec.trialStarts)
  let s := if expired then { s with sec := { s.sec with bootBank := 1 - old, trial := false, trialStarts := 0 } } else s
  let b := s.sec.bootBank
  let s := { s with sec := { s.sec with fellBack := if expired then some (old, 4) else none } }
  if imageOk s b (sig b) then (some b, { s with sec := { s.sec with running := b, trialStarts := if s.sec.trial then s.sec.trialStarts + 1 else 0 } })
  else if imageOk s (1 - b) (sig (1 - b)) then (some (1 - b), { s with sec := { s.sec with running := 1 - b, fellBack := some (b, refusal s b (sig b)), trialStarts := if s.sec.trial then s.sec.trialStarts + 1 else 0 } })
  else (none, s)

end Sys2Proof.Machine
end

