-- ==== Sys2Proof/Machine/Headland.lean ====
section
/-! DEFINITION. The rows of Headland (file 13): what a port sends next, the wheel, rotations, and the HEADLAND unit's commands. -/

namespace Sys2Proof.Machine

/-! Picking a packet (R410, R413-R415, R422) -/

/-- Bytes that the replay buffer of a port holds (R324). -/
def replayBytes (x : Port) : Nat := sumN (x.replay.map (fun r => linkBytes r.frame))

/-- Whether the link takes a frame of a class now: ACTIVE and not held for a GO; on a native link, room in the replay buffer and credits; in Ethernet mode, a class that is not paused (R324, R326, R334, R337). -/
def linkTakes (x : Port) (o : OutFrame) : Bool :=
  x.state == .active &&
  if x.ethernet then !x.paused.contains o.cls
  else x.accepted.isNone && decide (x.replay.length < 2047) && decide (replayBytes x + linkBytes o.frame ≤ 262144) && decide (frameCredits o.frame ≤ tblGetD x.credits o.cls 0)

/-- Whether the gate of a class lets so many bytes finish before it closes, at 25 bytes per ns for each lane (R321, R422). -/
def gateLets (s : State) (p c bytes : Nat) : Bool :=
  let h := getInst s p
  gateOpen h c (fabricTime s) && (match closesIn h c (fabricTime s) with | none => true | some n => decide (bytes ≤ n * 25 * portWidth (getPort s p)))

/-- Whether a queue of a port is eligible, as one of a class. -/
def queueEligible (s : State) (p c q : Nat) : Bool :=
  let y := queueOf (getInst s p) q
  match y.packets with
  | [] => false
  | f :: _ => y.wheel.isNone && gateLets s p c (portBytes s p f.out.frame) && linkTakes (getPort s p) f.out

/-- The queues of a class that hold packets. -/
def classQueues (h : HInst) (c : Nat) : List Nat :=
  (h.queues.filter (fun e => match e.2.packets with | [] => false | f :: _ => queueClass h e.1 f == c)).map (·.1)

/-- Whether a class has an eligible queue. -/
def classEligible (s : State) (p c : Nat) : Bool := (classQueues (getInst s p) c).any (queueEligible s p c)

/-- The next queue of a class, and the class's round robin after it. -/
def fromClass (s : State) (p c : Nat) : Option Nat × Drr :=
  let h := getInst s p
  drrPick (h.queues.map (·.1)) (fun q => (classQueues h c).contains q && queueEligible s p c q) (fun q => (queueOf h q).packets.isEmpty) (fun q => (queueOf h q).quantum) (tblGetD h.qdrr c {})

/-- The class that is served next: the highest strict one that is eligible, else the shared classes' round robin. -/
def pickClass (s : State) (p : Nat) : Option Nat × Drr :=
  let h := getInst s p
  match ((List.range 8).reverse).find? (fun c => (classOf h c).strict && classEligible s p c) with
  | some c => (some c, h.cdrr)
  | none => drrPick ((List.range 8).filter (fun c => !(classOf h c).strict)) (classEligible s p) (fun c => (classQueues h c).isEmpty) (fun c => (classOf h c).quantum) h.cdrr

/-- A frame leaves a port: stamped when the node originates it, numbered, kept for replay and charged on a native link; credits that it held are returned (R324, R326, R336, R371). -/
def transmit (p : Nat) (q : QFrame) (s : State) : State :=
  let own := q.held.isNone && s.oln.addr == some q.out.frame.srcNode
  let f := if own then { q.out.frame with txTime := fabricTime s % 2 ^ 32 } else q.out.frame
  let s := match q.held with | none => s | some r => returnCredits r q.out.cls q.out.frame s
  let s := if own && f.typ == 1 then tenantAdd f.srcCtx (fun t => { t with fabricTx := (t.fabricTx + f.payload.length) % 2 ^ 64 }) s else s
  let x := getPort s p
  if x.ethernet then sendLink p (.eth (ethHead s p q.out.cls f) f) s
  else
    let n := frameCredits f
    let s := setPort p { x with lseq := (x.lseq + 1) % 4096, progress := if x.replay.isEmpty then s.now else x.progress, replay := x.replay ++ [{ lseq := x.lseq, cls := q.out.cls, hops := q.hops, frame := f }], credits := tblMod x.credits q.out.cls 0 (· - n) } s
    sendLink p (.data q.out.cls q.hops x.lseq f) s

/-- The frame at the head of a queue leaves: its class and queue are charged. -/
def sendFrom_ (p c q : Nat) (cdrr qdrr : Drr) (s : State) : State :=
  let h := getInst s p
  let y := queueOf h q
  match y.packets with
  | [] => s
  | f :: rest =>
    let y := chargeQueue (portBytes s p f.out.frame) 32000 (fabricTime s) { y with packets := rest }
    transmit p f (setInst p { (setQueue q y h) with cdrr := cdrr, qdrr := tblSet h.qdrr c qdrr, sent := tblMod h.sent c 0 (fun n => (n + 1) % 2 ^ 64) } s)

/-- The frame at the head of the express lane when the link takes it, and those behind it. -/
def expressHead (s : State) (p : Nat) : Option (QFrame × List QFrame) :=
  match (getInst s p).express with | [] => none | f :: rest => if linkTakes (getPort s p) f.out then some (f, rest) else none

/-- PORT_TRANSMIT_PICK (R410, R413). -/
def execPortTransmitPick (port : Nat) (s : State) : Host.Outcome State Fault Refusal :=
  .next (
    let h := getInst s port
    if nPorts s ≤ port then s
    else match expressHead s port with
    | some (f, rest) => transmit port f (setInst port { h with express := rest } s)
    | none =>
      match pickClass s port with
      | (none, d) => setInst port { h with cdrr := d } s
      | (some c, d) =>
        match fromClass s port c with
        | (none, e) => setInst port { h with cdrr := d, qdrr := tblSet h.qdrr c e } s
        | (some q, e) => sendFrom_ port c q d e s)

/-! The wheel (R373, R376, R415-R417) -/

/-- A flow whose pacing or back-off is over sends on (R373, R416). -/
def releaseFlow (k : Nat) (s : State) : State :=
  match getSlot? s k with
  | none => s
  | some x =>
    if s.now < x.holdUntil then s
    else
      let s := if x.resendDue then resendFlow k false (setSlot k { x with resendDue := false } s) else s
      pump k s

/-- WHEEL_SLOT_RELEASE (R417): the queues of an instance whose slot has started, and the flows of its port. -/
def execWheelSlotRelease (inst : Nat) (s : State) : Host.Outcome State Fault Refusal :=
  .next (
    let s := modInst inst (releaseQueues (fabricTime s)) s
    ((s.trn.slots.filter (fun e => e.2.port.getD 0 == inst)).map (·.1)).foldl (fun s k => releaseFlow k s) s)

/-! Rotations (R418-R421) -/

/-- A pending rotation without TAKEOVER_AT takes over at the end of a cycle that has passed since it was accepted; one with it, at its time (R419). -/
def takeoverDue (s : State) (i : Nat) : Bool :=
  let h := getInst s i
  let t := fabricTime s
  match h.pending with
  | none => false
  | some r =>
    if r.takeover != 0 then decide (r.takeover ≤ t)
    else match h.rotation with
    | none => true
    | some a => decide (r.since ≤ t - positionAt a t) && decide (positionAt a t ≤ t)

/-- Whether a pending rotation waits for the end of a cycle. -/
def waitsForCycle (s : State) (i : Nat) : Bool := match (getInst s i).pending with | some r => r.takeover == 0 | none => false

/-- ROTATION_ENTRY_END (R418, R419): the gates follow from fabric time; at the end of the cycle a pending rotation takes over. -/
def execRotationEntryEnd (inst : Nat) (s : State) : Host.Outcome State Fault Refusal :=
  .next (if waitsForCycle s inst && takeoverDue s inst then takeOver inst false s else s)

/-- ROTATION_TAKEOVER (R419). -/
def execRotationTakeover (inst : Nat) (s : State) : Host.Outcome State Fault Refusal :=
  .next (if takeoverDue s inst then takeOver inst false s else s)

/-- Removes an instance's rotations. -/
def stopRotation (i : Nat) (s : State) : State := modInst i (fun h => { h with rotation := none, pending := none, stopAt := none }) s

/-- ROTATION_STOP_AT (R421). -/
def execRotationStopAt (inst : Nat) (s : State) : Host.Outcome State Fault Refusal :=
  .next (match (getInst s inst).stopAt with
  | none => s
  | some t => if t ≤ fabricTime s then stopRotation inst s else s)

/-! Commands (R423-R427) -/

/-- The instances that a command names: none when INSTANCE is out of range; absent ones are an error. -/
def instances (s : State) (i : Nat) : Except Status (List Nat) :=
  if i == 0xFF then .ok (List.range (nPorts s)) else if 16 < i then .error .badParameter else if i != 16 && nPorts s ≤ i then .error .unitAbsent else .ok [i]

/-- Judges an order against every instance that it names. -/
def judgeAll (c : Cmd) (base : Nat) (o : Order) (is : List Nat) (s : State) : Bool × State :=
  is.foldl (fun (a : Bool × State) i => let (y, s) := judge c { unit := 0x0B, obj := base + i } o a.2; (a.1 && y, s)) (true, s)

/-- The flows that Headland's wheel holds for a port: paced, or backing off. -/
def wheelFlows (s : State) (p : Nat) : Nat :=
  (s.trn.slots.filter (fun e => e.2.port == some p && ((match e.2.pacedUntil with | some t => decide (s.now < t) | none => false) || decide (s.now < e.2.holdUntil)))).length

/-- Descriptors and remote commands that wait in a queue of the fetch instance, of a class. -/
def fetchWaiting (s : State) (cls queue : Option Nat) : Nat :=
  let is := fun (o : Option Nat) (n : Nat) => match o with | none => true | some k => k == n
  let h := getInst s 16
  sumN ((s.cln.rings.filter (fun e => e.2.state == .active && is cls e.2.cls && is queue e.2.hdlQueue)).map (fun e => (e.2.tail + 2 ^ e.2.sqLog2 - e.2.head) % 2 ^ e.2.sqLog2)) +
  sumN (s.trn.rqueues.map (fun e => match e.2 with | [] => 0 | r :: _ => if is cls r.cls && is queue (classOf h r.cls).rqueue then e.2.length else 0))

/-- The record of a class in HEADLAND.STATUS. -/
def classStatus (s : State) (i k : Nat) : List Byte :=
  let h := getInst s i
  leBytes 8 (if i == 16 then fetchWaiting s (some k) none else classBytes s i k) ++ leBytes 8 (tblGetD h.sent k 0) ++
  leBytes 1 (b2n (gateOpen h k (fabricTime s)) + 2 * b2n (classOf h k).strict) ++ zeros 15

/-- The record of a queue in HEADLAND.STATUS. -/
def queueStatus (s : State) (i q : Nat) : List Byte :=
  let h := getInst s i
  let y := queueOf h q
  leBytes 4 (if i == 16 then fetchWaiting s none (some q) else y.packets.length) ++ leBytes 1 (sumN (h.qdrr.map (fun e => tblGetD e.2.kept q 0))) ++ leBytes 1 (b2n y.wheel.isSome) ++ zeros 2

/-- The entry that a rotation is in. -/
def entryNow (s : State) (i : Nat) : Nat := match (getInst s i).rotation with | none => 0 | some r => (entryAt r.entries (positionAt r (fabricTime s))).1

/-- What the wheel of an instance holds. -/
def wheelCount (s : State) (i : Nat) : Nat := ((getInst s i).queues.filter (fun e => e.2.wheel.isSome)).length + (if i == 16 then 0 else wheelFlows s i)

/-- HEADLAND_STATUS (R427). -/
def execHeadlandStatus (c : Cmd) (s : State) : Host.Outcome State Fault Refusal :=
  .next (runCmd 0x0B 0x01 c (fun _ c s =>
    let i := argU c 32 1
    if !argsOnly c [(32, 0, 8)] || i == 0xFF then (fail .badParameter, s)
    else match instances s i with
    | .error e => (fail e, s)
    | .ok _ =>
      match bufferCheck c s with
      | some e => (fail e, s)
      | none =>
        let h := getInst s i
        if c.outLen < 8448 then (fail .badLength, s)
        else (.done { r0 := entryNow s i + 2 ^ 9 * b2n h.rotation.isSome + 2 ^ 10 * b2n h.pending.isSome, r1 := wheelCount s i % 2 ^ 32, output := ((List.range 8).map (classStatus s i)).flatten ++ ((List.range 1024).map (queueStatus s i)).flatten, space := 8448 }, s)) s)

/-- A class record, or none when a reserved bit is set or a field is out of range (R423, R424). The range of QCOUNT counts where a port instance takes the record: the fetch instance ignores it. -/
def classRecord (ports : Bool) (b : List Byte) : Option ClassRec :=
  let n := getU b 4 2
  if 2 ≤ getU b 0 1 || getU b 1 1 == 0 || 1024 ≤ getU b 2 2 || 2048 ≤ n || 1024 ≤ getU b 6 2 || (ports && (n == 0 || 1024 < n || 2 ^ Nat.log2 n != n)) then none
  else some { strict := bitOf (getU b 0 1) 0, quantum := getU b 1 1, qbase := getU b 2 2, qcount := n, rqueue := getU b 6 2 }

/-- Whether the ranges of the classes of a port instance lie within the queues and do not overlap (R424). -/
def rangesApart (rs : List ClassRec) : Bool :=
  rs.all (fun r => decide (r.qbase + r.qcount ≤ 1024)) &&
  (List.range rs.length).all (fun i => (List.range i).all (fun j =>
    match rs[i]?, rs[j]? with
    | some a, some b => decide (a.qbase + a.qcount ≤ b.qbase) || decide (b.qbase + b.qcount ≤ a.qbase)
    | _, _ => true))

/-- The class records of an order. -/
def classRecords (is : List Nat) (b : List Byte) : List ClassRec := (List.range 8).filterMap (fun k => classRecord (is.any (· != 16)) ((b.drop (8 * k)).take 8))

/-- Instances take class records. -/
def putClasses (is : List Nat) (rs : List ClassRec) (s : State) : State :=
  is.foldl (fun s i => modInst i (fun h => { h with classes := rs.zipIdx.map (fun e => (e.2, e.1)) }) s) s

/-- HEADLAND_CLASS_SET (R424, R426). -/
def execHeadlandClassSet (c : Cmd) (s : State) : Host.Outcome State Fault Refusal :=
  .next (runCmd 0x0B 0x10 c (fun _ c s =>
    if !argsOnly c [(32, 0, 8)] then (fail .badParameter, s)
    else match instances s (argU c 32 1) with
    | .error e => (fail e, s)
    | .ok is =>
      match bufferCheck c s with
      | some e => (fail e, s)
      | none =>
        if c.inLen < 64 then (fail .badLength, s)
        else
          let rs := classRecords is c.input
          if rs.length != 8 || (!is.contains 16 && !rangesApart rs) then (fail .badParameter, s)
          else
            let (yes, s) := judgeAll c (2 ^ 30) (.value (leNat (c.input.take 64))) is s
            if !yes then (fail .overruled, s) else (ok, putClasses is rs s)) s)

/-- The queue records of an order: quantum, a reserved byte, rate. -/
def queueRecords (c : Cmd) (n : Nat) : List (Nat × Nat × Nat) := (List.range n).map (fun i => (inU c (4 * i) 1, inU c (4 * i + 1) 1, inU c (4 * i + 2) 2))

/-- Instances take queue records from a queue on. -/
def putQueues (first : Nat) (is : List Nat) (rs : List (Nat × Nat × Nat)) (s : State) : State :=
  is.foldl (fun s i => modInst i (fun h => rs.zipIdx.foldl (fun h e => setQueue (first + e.2) { queueOf h (first + e.2) with quantum := e.1.1, rate := e.1.2.2 } h) h) s) s

/-- HEADLAND_QUEUE_SET (R424, R426). -/
def execHeadlandQueueSet (c : Cmd) (s : State) : Host.Outcome State Fault Refusal :=
  .next (runCmd 0x0B 0x11 c (fun _ c s =>
    let first := argBits c 34 0 10
    let n := argBits c 36 0 11
    if !argsOnly c [(32, 0, 8), (34, 0, 10), (36, 0, 11)] || n == 0 || 1024 < first + n then (fail .badParameter, s)
    else match instances s (argU c 32 1) with
    | .error e => (fail e, s)
    | .ok is =>
      match bufferCheck c s with
      | some e => (fail e, s)
      | none =>
        let recs := queueRecords c n
        if c.inLen < 4 * n then (fail .badLength, s)
        else if recs.any (fun r => r.1 == 0 || r.2.1 != 0) then (fail .badParameter, s)
        else
          let (yes, s) := judgeAll c (2 ^ 31) (.value (leNat (leBytes 32 c.args.toNat ++ c.input.take (4 * n)))) is s
          if !yes then (fail .overruled, s) else (ok, putQueues first is recs s)) s)

/-- The entries of a rotation: length in ns, gates. -/
def rotationEntries (c : Cmd) (n : Nat) : List (Nat × Nat) := (List.range n).map (fun i => (inU c (8 * i) 4, inU c (8 * i + 4) 1))

/-- Whether the entries of a rotation are in range, their reserved bytes zero. -/
def entriesOk (c : Cmd) (n : Nat) : Bool :=
  (rotationEntries c n).all (fun e => decide (100 ≤ e.1 ∧ e.1 ≤ 1000000000)) && (List.range n).all (fun i => inU c (8 * i + 5) 3 == 0)

/-- The rotation that a command orders, with whom its takeover is told. -/
def rotationOf (c : Cmd) (n : Nat) (s : State) : Rotation :=
  let who := issuerRcpt s c.issuer
  { entries := rotationEntries c n, phaseBase := argU c 48 8, takeover := argU c 40 8, since := fabricTime s, ctx := (match who with | .ctx k => k | .mgmt _ => 0), mgmt := (match who with | .mgmt m => some m | .ctx _ => none) }

/-- Instances take a rotation: pending, or active at once where none is and no time is given. -/
def putRotation (is : List Nat) (r : Rotation) (s : State) : State :=
  is.foldl (fun s i =>
    let s := modInst i (fun h => { h with pending := some r }) s
    if r.takeover == 0 && (getInst s i).rotation.isNone then takeOver i false s else s) s

/-- HEADLAND_ROTATION (R419, R425). -/
def execHeadlandRotation (c : Cmd) (s : State) : Host.Outcome State Fault Refusal :=
  .next (runCmd 0x0B 0x20 c (fun _ c s =>
    let n := argBits c 34 0 9
    let at_ := argU c 40 8
    if !argsOnly c [(32, 0, 8), (34, 0, 9), (40, 0, 64), (48, 0, 64)] || n == 0 || 256 < n then (fail .badParameter, s)
    else match instances s (argU c 32 1) with
    | .error e => (fail e, s)
    | .ok is =>
      match bufferCheck c s with
      | some e => (fail e, s)
      | none =>
        if c.inLen < 8 * n then (fail .badLength, s)
        else if !entriesOk c n then (fail .badParameter, s)
        else if at_ != 0 && at_ < fabricTime s + 2 * us then (fail .badState, s)
        else
          let (yes, s) := judgeAll c 0 (.activation 2) is s
          if !yes then (fail .overruled, s) else (ok, putRotation is (rotationOf c n s) s)) s)

/-- Rotations stop at a time, or at once when it has passed. -/
def stopRotations (t : Nat) (is : List Nat) (s : State) : State :=
  is.foldl (fun s i => if t ≤ fabricTime s then stopRotation i s else modInst i (fun h => { h with stopAt := some t }) s) s

/-- HEADLAND_ROTATION_STOP (R421). -/
def execHeadlandRotationStop (c : Cmd) (s : State) : Host.Outcome State Fault Refusal :=
  .next (runCmd 0x0B 0x21 c (fun _ c s =>
    let at_ := argU c 40 8
    if !argsOnly c [(32, 0, 8), (40, 0, 64)] then (fail .badParameter, s)
    else match instances s (argU c 32 1) with
    | .error e => (fail e, s)
    | .ok is =>
      let (yes, s) := judgeAll c 0 (.activation 1) is s
      if !yes then (fail .overruled, s)
      else (ok, stopRotations at_ is s)) s)

end Sys2Proof.Machine
end

