-- ==== Sys2Proof/Machine/Plough.lean ====
section
/-! DEFINITION. The rows of plough operations (file 06, R197-R208). -/

namespace Sys2Proof.Machine

/-- What a PLOUGH command does, by its verb. -/
def ploughKind (c : Cmd) : Nat → PloughKind
  | 0x01 => .fill (argU c 56 8)
  | 0x02 => .copy
  | _ => .logic (argBits c 33 0 2)

/-- Sources that a kind reads. -/
def sourceCount : PloughKind → Nat
  | .fill _ => 0
  | .copy => 1
  | .logic _ => 2

/-- The static check of R199: reserved bits, COUNT, frame ranges, lengths. -/
def ploughArgsOk (k : PloughKind) (c : Cmd) : Bool :=
  let frames := argBits c 32 0 1 == 1
  let n := argU c 36 4
  let b := argU c 40 8
  argsOnly c [(32, 0, 2), (33, 0, 2), (34, 0, 4), (35, 0, 8), (36, 0, 32), (40, 0, 64), (48, 0, 15), (50, 0, 15), (56, 0, 64)] && c.inLen == 0 && c.outLen == 0 && n != 0 &&
  if frames then
    decide (n ≤ 32768) && decide (argBits c 48 0 15 + n ≤ 32768) && (sourceCount k == 0 || decide (argBits c 50 0 15 + n ≤ 32768)) && (sourceCount k != 2 || decide (b + n ≤ 32768))
  else decide (n ≤ 16777216)

/-- The handles of the sources that a command reads in span mode. -/
def sourceHandles (k : PloughKind) (c : Cmd) : List Nat :=
  match k with
  | .fill _ => []
  | .copy => [c.inAddr]
  | .logic _ => [c.inAddr, argU c 40 8]

/-- Whether a span command may not touch the data that it names: a fill or logic operation on a protected span, a copy of which either span is protected between spans that are not congruent (R448), or sources of decrypted weights that the command would carry elsewhere (R451, log entry 84). -/
def ploughDenied (s : State) (k : PloughKind) (c : Cmd) (congruent : Bool) : Bool :=
  let prot := (c.outAddr :: sourceHandles k c).any (protectedAt s)
  (match k with | .copy => prot && !congruent | _ => prot) ||
  (sourceHandles k c).any (fun h => (weightsAt s true h).any (fun w => weightsAt s true c.outAddr != some w))

/-- The spans of a command in span mode, destination first, with the checks of R199 on handles, owners and extents. -/
def ploughSpans (s : State) (k : PloughKind) (c : Cmd) : Except Status (List Nat) :=
  let n := argU c 36 4
  let hs := c.outAddr :: sourceHandles k c
  let rs := hs.map (resolve s)
  if !c.outDevice || (sourceCount k != 0 && !c.inDevice) || rs.any (fun r => match r with | none => true | some (x, _) => x.comp.isSome) then .error .badAddress
  else
    let rs := rs.filterMap id
    if rs.any (fun r => !mayName s c r.1.ctx) then .error .badContext
    else if rs.any (fun r => r.2 % 1024 != 0 || decide (regionSize r.1 < r.2 + 1024 * n)) then .error .badAddress
    else .ok (rs.map (fun r => r.1.eda + r.2))

/-- Whether two runs of `n` units overlap. -/
def overlap (a b n : Nat) : Bool := decide (a < b + n ∧ b < a + n)

/-- Whether destination and sources keep to R199: no overlap, except a logic operation's exact equality. -/
def ploughApart (k : PloughKind) (d : Nat) (srcs : List Nat) (n : Nat) : Bool :=
  srcs.all (fun a => !overlap d a n || (match k with | .logic _ => a == d | _ => false))

/-- The channels that a frame-mode command covers (R63, R198). -/
def plotChans (s : State) (c : Cmd) : List Nat :=
  (List.range (nChans s)).filter (fun m => argBits c 34 3 1 == 1 || bitOf (tblGetD s.cln.plotEmb m 0) (argBits c 34 0 3))

/-- The channels of the rows of a span operation. -/
def spanChans (s : State) (starts : List Nat) (n : Nat) : List Nat :=
  (starts.map (fun a => (List.range n).map (fun i => chanOf s (a + 1024 * i)))).flatten.foldl setAdd []

/-- Accepts an operation: covered channels that are out of service are skipped, and EMBER_CHANNEL_FENCED names each (R208). -/
def acceptPlough (oid : Nat) (o : Plough) (s : State) : State :=
  let out := o.chans.filter (chanOut s)
  let s := setPlough s.emb.nextOp { o with oid := some oid, skipped := out } { s with emb := { s.emb with nextOp := s.emb.nextOp + 1 } }
  out.foldl (fun s m => raiseN .emberChannelFenced false 1 [.ctx 0] (leBytes 2 m ++ leBytes 1 (getChan s m).cause ++ zeros 9) s) s

/-- The checks of R199 in order, and acceptance. -/
def ploughBody (verb oid : Nat) (c : Cmd) (s : State) : Answer × State :=
  let k := ploughKind c verb
  let n := argU c 36 4
  let frames := argBits c 32 0 1 == 1
  let full := decide (64 ≤ s.emb.ploughs.length)
  let busy := fun (s : State) => let (h, s) := fresh s; (Answer.done { status := .busy, hint := hintUs (Config.hint h) }, s)
  if !ploughArgsOk k c then (fail .badParameter, s)
  else if frames then
    let d := argBits c 48 0 15
    let srcs := (match k with | .fill _ => [] | .copy => [argBits c 50 0 15] | .logic _ => [argBits c 50 0 15, argU c 40 8])
    let ms := plotChans s c
    if !isSecure c then (fail .permission, s)
    else if !ploughApart k d srcs n then (fail .badAddress, s)
    else if ms.all (chanOut s) then (fail .badState, s)
    else if full then busy s
    else (.wait, acceptPlough oid { oid := none, kind := k, frames := true, dst := d, srcA := srcs.getD 0 0, srcB := srcs.getD 1 0, count := n, chans := ms } s)
  else match ploughSpans s k c with
  | .error e => (fail e, s)
  | .ok [] => (fail .badAddress, s)
  | .ok (d :: srcs) =>
    let congruent := srcs.all (fun a => a % frameSize s == d % frameSize s)
    let need := match k with | .fill _ => false | .copy => argBits c 32 1 1 == 0 | .logic _ => true
    if !ploughApart k d srcs (1024 * n) then (fail .badAddress, s)
    else if need && !congruent then (fail .badAddress, s)
    else if ploughDenied s k c congruent then (fail .permission, s)
    else if full then busy s
    else (.wait, acceptPlough oid { oid := none, kind := k, frames := false, dst := d, srcA := srcs.getD 0 0, srcB := srcs.getD 1 0, count := n, chans := spanChans s (d :: srcs) n } s)

/-- PLOUGH_FILL (R197-R201). -/
def execPloughFill (c : Cmd) (s : State) : Host.Outcome State Fault Refusal := .next (runCmd 0x05 0x01 c (ploughBody 0x01) s)

/-- PLOUGH_COPY (R197-R201). -/
def execPloughCopy (c : Cmd) (s : State) : Host.Outcome State Fault Refusal := .next (runCmd 0x05 0x02 c (ploughBody 0x02) s)

/-- PLOUGH_LOGIC (R197-R201). -/
def execPloughLogic (c : Cmd) (s : State) : Host.Outcome State Fault Refusal := .next (runCmd 0x05 0x03 c (ploughBody 0x03) s)

/-- PLOUGH_FENCE_INSTALL (R204, R206): a channel that trains waits; one out of service is skipped; a channel accepts the operations that cover it in the order in which Cloni accepted them (DEDUCED, log entry 80). -/
def execPloughFenceInstall (op chan : Nat) (s : State) : Host.Outcome State Fault Refusal :=
  .next (match getPlough? s op with
  | none => s
  | some o =>
    if !o.chans.contains chan || o.fenced.contains chan || chanOut s chan || (getChan s chan).state == .training || (ploughOps s).any (fun j => decide (j < op) && unfenced s j chan) then s
    else installFence op chan s)

/-- The row activations that a channel may use in a row-step (R203, R209); none while its stack's throttle is in force (R515). -/
def budgetOf (s : State) (m : Nat) : Nat := if (tblGetD s.mod.sensors (6 + m / 32) {}).throttle then 0 else min 22 (getChan s m).rw.budget

/-- Whether every channel that an index covers lets it be processed: its fence is installed and its budget is not 0, or it is out of service (R203, R204). -/
def indexReady (s : State) (o : Plough) (op chan idx : Nat) : Bool :=
  (indexChans s o chan idx).all (fun m => chanOut s m || (!unfenced s op m && budgetOf s m != 0))

/-- PLOUGH_ROW_STEP (R201, R203-R206): the next row of an operation in a channel, after what older operations owe it. -/
def execPloughRowStep (op chan : Nat) (s : State) : Host.Outcome State Fault Refusal :=
  .next (match getPlough? s op with
  | none => s
  | some o =>
    let c := getChan s chan
    if !c.fences.contains op || (c.state != .service && c.state != .restricted) then s
    else match (ploughRows s o chan).find? (fun i => !rowDone s o chan i && indexReady s o op chan i) with
    | none => s
    | some i => settleStep op chan i s)

/-- Whether an operation has processed every row it covers in the channels that are not skipped, with every fence installed (R207). -/
def ploughOver (s : State) (o : Plough) : Bool :=
  o.chans.all (fun m => o.skipped.contains m || chanOut s m || (o.fenced.contains m && (ploughRows s o m).all (rowDone s o m)))

/-- PLOUGH_COMPLETE (R207). -/
def execPloughComplete (op : Nat) (s : State) : Host.Outcome State Fault Refusal :=
  .next (match getPlough? s op with
  | none => s
  | some o =>
    if !ploughOver s o then s
    else
      let st : Status := if o.poisoned != 0 then .memoryError else if !o.skipped.isEmpty then .partially else .success
      let s := o.chans.foldl (fun s m => modChan m (fun c => { c with fences := setDel c.fences op }) s) { s with emb := { s.emb with ploughs := tblDel s.emb.ploughs op } }
      match o.oid with
      | none => s
      | some oid => finish oid { status := st, r0 := o.inBank % 2 ^ 32 + 2 ^ 32 * (o.bus % 2 ^ 32), r1 := o.line % 2 ^ 32 + 2 ^ 32 * (o.skipped.length % 2 ^ 16) + 2 ^ 48 * min 0xFFFF o.poisoned } s)

end Sys2Proof.Machine
end

