-- ==== Sys2Proof/Machine/Spdm.lean ====
section
/-! DEFINITION. The SPDM responder (R453-R455). Message codes and error codes are those of DMTF SPDM 1.3 (PRESUMED); the bodies carry what R453-R455 fix, in the order of that standard (log entry 32). -/

namespace Sys2Proof.Machine

/-- The number of a path's connection. -/
def pathKey : MctpPath → Nat
  | .vdm => 0
  | .smbus => 1
  | .mgmt p => 2 + p

def getConn (s : State) (p : MctpPath) : SpdmConn := tblGetD s.sec.conns (pathKey p) {}

def setConn (p : MctpPath) (c : SpdmConn) (s : State) : State := { s with sec := { s.sec with conns := tblSet s.sec.conns (pathKey p) c } }

/-- Sends a message. -/
def spdmSend (p : MctpPath) (code : Nat) (body : List Byte) (s : State) : State := emit (.spdm p code body) s

/-- An ERROR response with its error code. -/
def spdmError (p : MctpPath) (e : Nat) (s : State) : State := spdmSend p 0x7F (leBytes 1 e) s

def spdmInvalid : Nat := 0x01
def spdmNoSession : Nat := 0x02
def spdmUnexpected : Nat := 0x04
def spdmDecrypt : Nat := 0x06
def spdmUnsupported : Nat := 0x07
def spdmLimit : Nat := 0x0A
def spdmNeedsSession : Nat := 0x0B
def spdmLargeCode : Nat := 0x0F
def spdmVersionMismatch : Nat := 0x41

/-- Sends a response that may be too large for one message: then a LargeResponse error with a handle, and CHUNK_GET fetches it. -/
def spdmLarge (p : MctpPath) (code : Nat) (body : List Byte) (s : State) : State :=
  if body.length ≤ Config.spdmSize then spdmSend p code body s
  else
    let c := getConn s p
    spdmSend p 0x7F (leBytes 1 spdmLargeCode ++ leBytes 1 c.handle)
      (setConn p { c with response := some (c.handle, 0, leBytes 1 code ++ body), handle := (c.handle + 1) % 256 } s)

/-- Serves a request once firmware runs (R524); before, it is dropped (R525). -/
def spdmServe (act : State → State) (s : State) : Host.Outcome State Fault Refusal := .next (if fwRuns s then act s else s)

/-- Serves a request that needs the negotiation to have ended. -/
def spdmReady (p : MctpPath) (act : State → State) (s : State) : Host.Outcome State Fault Refusal :=
  spdmServe (fun s => if (getConn s p).algs then act s else spdmError p spdmUnexpected s) s

/-- SPDM_GET_VERSION: versions 1.2 and 1.3. It begins the negotiation anew. -/
def execSpdmGetVersion (path : MctpPath) (s : State) : Host.Outcome State Fault Refusal :=
  spdmServe (fun s =>
    let s := { s with sec := { s.sec with sessions := tblKeep s.sec.sessions (fun _ x => x.path != pathKey path) } }
    spdmSend path 0x04 (leBytes 1 2 ++ leBytes 2 0x1200 ++ leBytes 2 0x1300) (setConn path { handle := (getConn s path).handle } s)) s

/-- The capabilities of R453: certificates, CHALLENGE, signed measurements, encryption, MAC, key exchange, HEARTBEAT, KEY_UPDATE, chunks, alias certificates. -/
def spdmCaps : Nat := 2 ^ 1 + 2 ^ 2 + 2 * 2 ^ 3 + 2 ^ 6 + 2 ^ 7 + 2 ^ 9 + 2 ^ 13 + 2 ^ 14 + 2 ^ 17 + 2 ^ 21

/-- SPDM_GET_CAPABILITIES: `version` is the request's, 0x12 or 0x13. -/
def execSpdmGetCapabilities (path : MctpPath) (version : Nat) (s : State) : Host.Outcome State Fault Refusal :=
  spdmServe (fun s =>
    if !tblHas s.sec.conns (pathKey path) then spdmError path spdmUnexpected s
    else if version != 0x12 && version != 0x13 then spdmError path spdmVersionMismatch s
    else spdmSend path 0x61 (leBytes 4 spdmCaps) (setConn path { getConn s path with version := some version, caps := true } s)) s

/-- SPDM_NEGOTIATE_ALGORITHMS: `algsOk` says that the request offers every algorithm of R453. The answer selects ECDSA P-384, SHA-384, secp384r1, AES-256-GCM, measurement hash SHA-384. -/
def execSpdmNegotiateAlgorithms (path : MctpPath) (algsOk : Bool) (s : State) : Host.Outcome State Fault Refusal :=
  spdmServe (fun s =>
    if !(getConn s path).caps then spdmError path spdmUnexpected s
    else if !algsOk then spdmError path spdmInvalid s
    else spdmSend path 0x63 (leBytes 4 0x80 ++ leBytes 4 0x02 ++ leBytes 2 0x10 ++ leBytes 2 0x02 ++ leBytes 4 0x04) (setConn path { getConn s path with algs := true } s)) s

/-! Certificates, digests, signatures: free values of the length that the algorithms give -/

/-- A SHA-384 digest. -/
def sha384 (what : Nat) (of : List Byte) : List Byte := (Config.crypto what of ++ zeros 48).take 48

/-- A P-384 signature by the alias key of this start. -/
def aliasSign (s : State) (of : List Byte) : List Byte := (Config.crypto 2 (leBytes 16 s.fuse.uid.toNat ++ leBytes 8 s.sec.kak ++ of) ++ zeros 96).take 96

/-- The chain of certificate slot 0 (R454): root, device certificate with the UID, alias certificate of this start. -/
def certChain (s : State) : List Byte := Config.crypto 1 (leBytes 16 s.fuse.uid.toNat ++ leBytes 8 s.sec.kak)

/-- SPDM_GET_DIGESTS: slot 0 only. -/
def execSpdmGetDigests (path : MctpPath) (s : State) : Host.Outcome State Fault Refusal :=
  spdmReady path (fun s => spdmSend path 0x01 (leBytes 1 1 ++ sha384 3 (certChain s)) s) s

/-- SPDM_GET_CERTIFICATE (R453, R454). -/
def execSpdmGetCertificate (path : MctpPath) (slot offset length : Nat) (s : State) : Host.Outcome State Fault Refusal :=
  spdmReady path (fun s =>
    let chain := certChain s
    if slot != 0 || chain.length ≤ offset then spdmError path spdmInvalid s
    else
      let part := (chain.drop offset).take length
      spdmLarge path 0x02 (leBytes 1 slot ++ leBytes 2 part.length ++ leBytes 2 (chain.length - offset - part.length) ++ part) s) s

/-- SPDM_CHALLENGE (R453, R454): a nonce of the responder's, signed by the alias key. -/
def execSpdmChallenge (path : MctpPath) (slot : Nat) (nonce : BitVec 256) (s : State) : Host.Outcome State Fault Refusal :=
  spdmReady path (fun s =>
    if slot != 0 then spdmError path spdmInvalid s
    else
      let (n, s) := fresh s
      let body := leBytes 1 slot ++ sha384 3 (certChain s) ++ leBytes 32 (Config.random n)
      spdmLarge path 0x03 (body ++ aliasSign s (leBytes 32 nonce.toNat ++ body)) s) s

/-- The bytes of the running image that its signature covers (R458). -/
def signedPart (s : State) : List Byte := memBytes (fwBank s s.sec.running) 0 (fwField s s.sec.running 20 4 - 96)

/-- The bytes of the Field kernel section of the running image (R458): the first section of TYPE 3. -/
def kernelSection (s : State) : List Byte :=
  let b := s.sec.running
  match (List.range (fwField s b 24 1)).find? (fun i => fwField s b (64 + 16 * i) 1 == 3) with
  | none => []
  | some i => memBytes (fwBank s b) (fwField s b (68 + 16 * i) 4) (fwField s b (72 + 16 * i) 4)

/-- A measurement block's value (R455). -/
def measurement (s : State) : Nat → Option (List Byte)
  | 1 => some (sha384 4 [])
  | 2 => some (sha384 5 (signedPart s))
  | 3 => some (leBytes 1 (fwField s s.sec.running 8 1) ++ leBytes 1 (fwField s s.sec.running 9 1) ++ leBytes 4 (fwField s s.sec.running 12 4) ++ leBytes 1 (imageSvn s s.sec.running) ++ leBytes 1 s.sec.running)
  | 4 => some (leBytes 1 s.sec.svnStart ++ leBytes 1 s.sec.revokedStart)
  | 5 => some (leBytes 1 (b2n s.sec.conf) ++ leBytes 1 (securePathOf s) ++ leBytes 1 s.sec.secureStream ++ leBytes 1 (b2n s.sec.debugSeen))
  | 6 => some (leBytes 8 (cap0 s) ++ leBytes 8 (cap1 s))
  | 7 => some (sha384 5 (kernelSection s))
  | 0x10 => some (leBytes 1 4 ++ (Config.crypto 6 (leBytes 8 s.sec.kak) ++ zeros 96).take 96)
  | _ => none

/-- The block indices of R455. -/
def measurementIndices : List Nat := [1, 2, 3, 4, 5, 6, 7, 0x10]

/-- A block in the DMTF format: index, specification 1, size, then value type 0x80 of raw bytes, or 0 of a digest, with its size. -/
def blockBytes (i : Nat) (v : List Byte) : List Byte :=
  let raw := !([1, 2, 7].contains i)
  leBytes 1 i ++ leBytes 1 1 ++ leBytes 2 (v.length + 3) ++ leBytes 1 (if raw then 0x80 else 0) ++ leBytes 2 v.length ++ v

/-- The blocks that a request asks for, none when one of them does not exist. -/
def measurementBlocks (s : State) (index : Nat) : Option (List (List Byte)) :=
  (if index == 0 then [] else if index == 0xFF then measurementIndices else [index]).mapM (fun i => (measurement s i).map (blockBytes i))

/-- The body of a MEASUREMENTS response. -/
def measurementBody (index n : Nat) (bs : List (List Byte)) : List Byte :=
  leBytes 1 (if index == 0 then measurementIndices.length else 0) ++ leBytes 1 bs.length ++ leBytes 3 bs.flatten.length ++ bs.flatten ++ leBytes 32 (Config.random n)

/-- SPDM_GET_MEASUREMENTS (R453, R455): index 0 asks for the number of blocks, 0xFF for all of them. A signed response is what R443 requires of a start. -/
def execSpdmGetMeasurements (path : MctpPath) (index : Nat) (signed : Bool) (nonce : BitVec 256) (s : State) : Host.Outcome State Fault Refusal :=
  spdmReady path (fun s =>
    match measurementBlocks s index with
    | none => spdmError path spdmInvalid s
    | some bs =>
      let (n, s) := fresh s
      let body := measurementBody index n bs
      if signed then spdmLarge path 0x60 (body ++ aliasSign s (leBytes 32 nonce.toNat ++ body)) { s with sec := { s.sec with attested := true } }
      else spdmLarge path 0x60 body s) s

/-! Sessions (R453): at most 8 -/

/-- A session of a path, if it exists. -/
def session? (s : State) (p : MctpPath) (k : Nat) : Option SpdmSession := (tblGet? s.sec.sessions k).filter (fun x => x.path == pathKey p)

/-- The responder's half of a new session's ID: the lowest that is free. -/
def freeSession (s : State) : Nat := ((List.range 8).find? (fun i => !(s.sec.sessions.map (fun e => e.1 / 2 ^ 16)).contains i)).getD 0

/-- The body of a KEY_EXCHANGE response. -/
def exchangeBody (rsp n : Nat) (reqPub : BitVec 768) : List Byte :=
  leBytes 2 rsp ++ leBytes 32 (Config.random n) ++ (Config.crypto 7 (leBytes 8 n ++ leBytes 96 reqPub.toNat) ++ zeros 96).take 96

/-- SPDM_KEY_EXCHANGE: the session's ID joins the requester's half and the responder's, the lowest that is free. -/
def execSpdmKeyExchange (path : MctpPath) (reqSession : Nat) (reqPub : BitVec 768) (s : State) : Host.Outcome State Fault Refusal :=
  spdmReady path (fun s =>
    if 8 ≤ s.sec.sessions.length then spdmError path spdmLimit s
    else
      let rsp := freeSession s
      let (n, s) := fresh s
      let s := { s with sec := { s.sec with sessions := tblSet s.sec.sessions (reqSession % 2 ^ 16 + rsp * 2 ^ 16) { path := pathKey path, reqId := reqSession % 2 ^ 16 } } }
      let body := exchangeBody rsp n reqPub
      spdmLarge path 0x64 (body ++ aliasSign s body) s) s

/-- SPDM_FINISH: `macOk` says that the requester's MAC verifies; a wrong one ends the session. -/
def execSpdmFinish (path : MctpPath) (session : Nat) (macOk : Bool) (s : State) : Host.Outcome State Fault Refusal :=
  spdmReady path (fun s =>
    match session? s path session with
    | none => spdmError path spdmNoSession s
    | some x =>
      if x.finished then spdmError path spdmUnexpected s
      else if !macOk then spdmError path spdmDecrypt { s with sec := { s.sec with sessions := tblDel s.sec.sessions session } }
      else spdmSend path 0x65 [] { s with sec := { s.sec with sessions := tblSet s.sec.sessions session { x with finished := true } } }) s

/-- Serves a request of a finished session. -/
def inSession (path : MctpPath) (session : Nat) (act : SpdmSession → State → State) (s : State) : Host.Outcome State Fault Refusal :=
  spdmReady path (fun s =>
    match session? s path session with
    | none => spdmError path spdmNoSession s
    | some x => if x.finished then act x s else spdmError path spdmUnexpected s) s

/-- SPDM_END_SESSION. -/
def execSpdmEndSession (path : MctpPath) (session : Nat) (s : State) : Host.Outcome State Fault Refusal :=
  inSession path session (fun _ s => spdmSend path 0x6C [] { s with sec := { s.sec with sessions := tblDel s.sec.sessions session } }) s

/-- SPDM_HEARTBEAT. -/
def execSpdmHeartbeat (path : MctpPath) (session : Nat) (s : State) : Host.Outcome State Fault Refusal :=
  inSession path session (fun _ s => spdmSend path 0x68 [] s) s

/-- SPDM_KEY_UPDATE: operation 1 updates the requester's key, 2 every key, 3 verifies the new key. -/
def execSpdmKeyUpdate (path : MctpPath) (session : Nat) (op : Nat) (s : State) : Host.Outcome State Fault Refusal :=
  inSession path session (fun x s =>
    if op == 0 || 3 < op then spdmError path spdmInvalid s
    else spdmSend path 0x69 (leBytes 1 op)
      (if op == 3 then s else { s with sec := { s.sec with sessions := tblSet s.sec.sessions session { x with updates := x.updates + 1 } } })) s

/-- An IDE_KM response: object, then status and stream. -/
def ideReply (path : MctpPath) (obj status stream : Nat) (s : State) : State := spdmSend path 0x7E (leBytes 1 obj ++ leBytes 1 status ++ leBytes 1 stream) s

/-- SPDM_VENDOR_DEFINED_REQUEST (R453): IDE_KM only, in a session. Objects: 0 QUERY, 2 KEY_PROG, 4 K_SET_GO, 5 K_SET_STOP; at most 4 selective streams have keys. -/
def execSpdmVendorDefinedRequest (path : MctpPath) (session : Nat) (ideKm : Bool) (op stream : Nat) (s : State) : Host.Outcome State Fault Refusal :=
  spdmReady path (fun s =>
    match session? s path session with
    | none => spdmError path spdmNeedsSession s
    | some x =>
      let keyed := s.sec.ideKeyed.contains stream
      if !x.finished then spdmError path spdmUnexpected s
      else if !ideKm then spdmError path spdmUnsupported s
      else match op with
      | 0 => ideReply path 1 0 stream s
      | 2 =>
        if 255 < stream || (!keyed && 4 ≤ s.sec.ideKeyed.length) then ideReply path 3 1 stream s
        else ideReply path 3 0 stream { s with sec := { s.sec with ideKeyed := setAdd s.sec.ideKeyed stream } }
      | 4 => if keyed then ideReply path 6 0 stream { s with sec := { s.sec with ideSecure := setAdd s.sec.ideSecure stream } } else spdmError path spdmInvalid s
      | 5 => if keyed then ideReply path 6 0 stream { s with sec := { s.sec with ideSecure := setDel s.sec.ideSecure stream, ideKeyed := setDel s.sec.ideKeyed stream } } else spdmError path spdmInvalid s
      | _ => spdmError path spdmInvalid s) s

/-! Chunks (R453) -/

/-- The bytes that a connection has of a chunked request, when the chunk is the next one. -/
def chunkSoFar (c : SpdmConn) (handle seqNo : Nat) : Option (List Byte) :=
  match c.request with
  | some (h, n, bs) => if seqNo == 0 then some [] else if h == handle && n == seqNo then some bs else none
  | none => if seqNo == 0 then some [] else none

/-- SPDM_CHUNK_SEND: chunks of one handle come in order from 0; the request that the last one completes is served by its own row. -/
def execSpdmChunkSend (path : MctpPath) (handle seqNo : Nat) (last : Bool) (bytes : List Byte) (s : State) : Host.Outcome State Fault Refusal :=
  spdmServe (fun s =>
    let c := getConn s path
    if !c.caps then spdmError path spdmUnexpected s
    else match chunkSoFar c handle seqNo with
    | none => spdmError path spdmInvalid (setConn path { c with request := none } s)
    | some bs => spdmSend path 0x05 (leBytes 1 handle ++ leBytes 2 seqNo) (setConn path { c with request := if last then none else some (handle, seqNo + 1, bs ++ bytes) } s)) s

/-- SPDM_CHUNK_GET: the next chunk of the large response of that handle. -/
def execSpdmChunkGet (path : MctpPath) (handle seqNo : Nat) (s : State) : Host.Outcome State Fault Refusal :=
  spdmServe (fun s =>
    let c := getConn s path
    match c.response with
    | none => spdmError path spdmUnexpected s
    | some (h, n, bs) =>
      if h != handle || n != seqNo then spdmError path spdmInvalid s
      else
        let size := max 1 Config.spdmSize
        let rest := bs.drop size
        spdmSend path 0x06 (leBytes 1 (b2n rest.isEmpty) ++ leBytes 1 handle ++ leBytes 2 seqNo ++ bs.take size)
          (setConn path { c with response := if rest.isEmpty then none else some (h, n + 1, rest) } s)) s

end Sys2Proof.Machine
end

