-- ==== Sys2Proof/Machine/Spark.lean ====
section
/-! DEFINITION. The SPARK commands (R468-R471, R532) and the tally with its daily trends (R478-R486). -/

namespace Sys2Proof.Machine

/-! Spark points -/

/-- The instances of a spark point (R468, R469): none when the ID does not exist; else how many the numbering of every variant has, and how many this one has; 0 instances where INSTANCE is ignored. -/
def sparkInsts (s : State) (id : Nat) : Option (Nat × Nat) :=
  let peat := if hasPeat s then 2 else 0
  match id with
  | 0x0101 | 0x0102 | 0x0103 | 0x0701 | 0x0702 | 0x0802 | 0x0C01 | 0x0C02 | 0x0E02 | 0x0E03 => some (0, 0)
  | 0x0201 | 0x0202 | 0x0203 | 0x0204 | 0x0205 | 0x0206 => some (72, 72)
  | 0x0501 | 0x0502 | 0x0503 | 0x0505 => some (384, nChans s)
  | 0x0504 => some (12, nStacks s)
  | 0x0601 | 0x0602 => some (2, peat)
  | 0x0801 => some (64, 64)
  | 0x0A01 | 0x0A02 | 0x0A04 | 0x0A05 => some (64, 4 * nPorts s)
  | 0x0A03 | 0x0A06 | 0x0A07 => some (16, nPorts s)
  | 0x0E01 => some (22, 22)
  | _ => none

/-- Whether a module sensor is absent in the variant (R515): stacks 6 to 11 of Speon C, the Peat zone of Speon B. -/
def sensorAbsent (s : State) (n : Nat) : Bool := (decide (6 + nStacks s ≤ n) && decide (n ≤ 17)) || (n == 19 && !hasPeat s)

/-- The checks of INSTANCE (R469). -/
def sparkInstance (s : State) (id inst : Nat) : Option Status :=
  match sparkInsts s id with
  | none => some .notFound
  | some (0, _) => none
  | some (all_, here) =>
    if inst == 0xFFFF then (if here == 0 then some .unitAbsent else none)
    else if all_ ≤ inst then some .badParameter
    else if here ≤ inst || (id == 0x0E01 && sensorAbsent s inst) then some .unitAbsent
    else none

/-- Whether the fields of a SPARK.ARM are in range (R469). -/
def armFieldsOk (c : Cmd) : Bool :=
  argBits c 36 0 2 != 3 && !(argBits c 36 0 2 != 0 && argU c 38 2 == 0) && !(argU c 32 2 == 0x0103 && bitsOf (argU c 44 2) 2 13 != 0)

/-- The arm that a SPARK.ARM spells, and whom it tells. -/
def armOf (c : Cmd) (s : State) : Arm :=
  let (issuer, mgmt) := match issuerRcpt s c.issuer with | .ctx x => (x, none) | .mgmt m => (0, some m)
  { spark := argU c 32 2, inst := if (sparkInsts s (argU c 32 2)) == some (0, 0) && argU c 32 2 != 0x0103 then 0xFFFF else argU c 34 2, mode := argBits c 36 0 2, n := argU c 38 2, delayUs := argU c 40 4, value := argU c 44 2, fires := argU c 46 2,
    issuer := issuer, mgmt := mgmt, from_ := s.now, effective := argU c 40 4 == 0, bytes := (leBytes 32 c.args.toNat).take 14 }

/-- SPARK_ARM (R469, R471). -/
def execSparkArm (c : Cmd) (s : State) : Host.Outcome State Fault Refusal :=
  .next (runCmd 0x0D 0x01 c (fun _ c s =>
    let id := argU c 32 2
    if !argsOnly c [(32, 0, 16), (34, 0, 16), (36, 0, 2), (38, 0, 16), (40, 0, 32), (44, 0, 16), (46, 0, 16)] || !armFieldsOk c then (fail .badParameter, s)
    else if s.sec.conf then (fail .confidentialMode, s)
    else match sparkInstance s id (argU c 34 2) with
    | some e => (fail e, s)
    | none =>
      match tblFree? s.hlt.arms 64 with
      | none => (fail .limitExceeded, s)
      | some h =>
        let (yes, s) := judge c { unit := 0x0D, obj := h } (.activation 2) s
        if !yes then (fail .overruled, s)
        else (ok h, { s with hlt := { s.hlt with arms := tblSet s.hlt.arms h (armOf c s) }, sec := { s.sec with debugSeen := true } })) s)

/-- SPARK_ARM_EFFECTIVE (R469): DELAY_US has passed. -/
def execSparkArmEffective (handle : Nat) (s : State) : Host.Outcome State Fault Refusal :=
  .next (match tblGet? s.hlt.arms handle with
  | none => s
  | some a => if armLive s a then { s with hlt := { s.hlt with arms := tblSet s.hlt.arms handle { a with effective := true } } } else s)

/-- Takes an arm away, unless a conflicting order stands. -/
def disarm (c : Cmd) (s : State) (h : Nat) : State :=
  let (yes, s) := judge c { unit := 0x0D, obj := h } (.activation 1) s
  if yes then { s with hlt := { s.hlt with arms := tblDel s.hlt.arms h } } else s

/-- SPARK_DISARM (R471, R497). -/
def execSparkDisarm (c : Cmd) (s : State) : Host.Outcome State Fault Refusal :=
  .next (runCmd 0x0D 0x02 c (fun _ c s =>
    let h := argU c 32 1
    let hs := if h == 0xFF then s.hlt.arms.map (·.1) else [h]
    if !argsOnly c [(32, 0, 8)] then (fail .badParameter, s)
    else if h != 0xFF && !tblHas s.hlt.arms h then (fail .notFound, s)
    else (ok, hs.foldl (disarm c) s)) s)

/-- The record of an arm (R532). -/
def armBytes (h : Nat) (a : Arm) : List Byte := putBytes a.bytes 5 (leBytes 1 h) ++ leBytes 2 (min 0xFFFF a.made)

/-- SPARK_STATUS (R532). -/
def execSparkStatus (c : Cmd) (s : State) : Host.Outcome State Fault Refusal :=
  .next (runCmd 0x0D 0x03 c (fun _ c s =>
    let n := s.hlt.arms.length
    if !argsOnly c [] then (fail .badParameter, s)
    else match bufferCheck c s with
    | some e => (fail e, s)
    | none =>
      if c.outLen < 16 * n then (.done { status := .badLength, r0 := n }, s)
      else (.done { r0 := n, output := (s.hlt.arms.map (fun e => armBytes e.1 e.2)).flatten, space := 16 * n }, s)) s)

/-! The tally -/

/-- Records and bytes of a section (R479). -/
def sectionOf (s : State) : Nat → Option (Nat × Nat)
  | 0 => some (1, 64)
  | 1 => some (72, 32)
  | 2 => some (384, 32)
  | 3 => some (64, 32)
  | 4 => some (16, 16)
  | 5 => some (2, 32)
  | 6 => some (s.hlt.tally.history.length, 16)
  | _ => none

/-- Powered time by now, in ns. -/
def poweredNow (s : State) : Nat := s.hlt.tally.poweredNs + (s.now - s.hlt.poweredFrom)

/-- The module summary (R480). -/
def summaryBytes (s : State) : List Byte :=
  let t := s.hlt.tally
  leBytes 4 (min (2 ^ 32 - 1) (poweredNow s / (60 * sec))) ++ leBytes 4 t.powerCycles ++ leBytes 4 t.unclean ++ leBytes 4 t.thermalCycles ++
  leBytes 1 t.peakFieldC ++ leBytes 1 t.peakHubC ++ leBytes 2 t.fwUpdates ++ leBytes 4 t.restarts ++ leBytes 4 t.fences ++ leBytes 4 t.injected ++
  leBytes 8 t.firstPowerOn ++ leBytes 8 t.lastWrite ++ leBytes 1 (b2n t.calendarValid + 2 * b2n t.unsync) ++ zeros 15

/-- The part record of a class (R481). -/
def tallyBytes (s : State) (c : PartClass) (i : Nat) : List Byte :=
  let r := tblGetD s.hlt.tally.parts (partKey c i) []
  let fields := (tallyWidths c).zipIdx.map (fun (w, k) => leBytes w (tblGetD r k 0) ++ (if c == .peat && k == 2 then zeros 2 else []))
  (fields.flatten ++ zeros 32).take (if c == .port then 16 else 32)

/-- A fence record (R481). -/
def fenceBytes (f : FenceRec) : List Byte :=
  leBytes 8 f.time ++ leBytes 1 (partClassCode f.cls) ++ leBytes 1 f.cause ++ leBytes 2 f.inst ++ leBytes 1 (b2n f.injected + 2 * b2n f.unsync + 4 * b2n f.retired) ++ zeros 3

/-- One record of a section; an absent instance's has no counts, so it reads as zero. -/
def sectionRecord (s : State) (sect i : Nat) : List Byte :=
  match sect with
  | 0 => summaryBytes s
  | 1 => tallyBytes s .core i
  | 2 => tallyBytes s .channel i
  | 3 => tallyBytes s .lane i
  | 4 => tallyBytes s .port i
  | 5 => tallyBytes s .peat i
  | _ => match s.hlt.tally.history[i]? with | none => [] | some f => fenceBytes f

/-- TALLY_READ (R479-R481). -/
def execTallyRead (c : Cmd) (s : State) : Host.Outcome State Fault Refusal :=
  .next (runCmd 0x0D 0x10 c (fun _ c s =>
    let sect := argU c 32 1
    let first := argU c 36 4
    let n := argU c 40 4
    match sectionOf s sect with
    | none => (fail .badParameter, s)
    | some (count, size) =>
      if !argsOnly c [(32, 0, 8), (36, 0, 64)] || count < first + n then (fail .badParameter, s)
      else match bufferCheck c s with
      | some e => (fail e, s)
      | none =>
        if c.outLen < size * n then (fail .badLength, s)
        else (.done { output := ((List.range n).map (fun i => sectionRecord s sect (first + i))).flatten, space := size * n }, s)) s)

/-- TALLY_WRITE (R478). -/
def execTallyWrite (s : State) : Host.Outcome State Fault Refusal := .next (saveTally s)

/-! Strain scores (R484-R486) -/

/-- The parts that have a score, in the order of HEALTH.STATUS (R498), with those that the variant lacks. -/
def scoredParts : List (PartClass × Nat) :=
  (List.range 72).map (fun i => (.core, i)) ++ (List.range 384).map (fun i => (.channel, i)) ++ (List.range 64).map (fun i => (.lane, i)) ++ (List.range 2).map (fun i => (.peat, i))

/-- STRAIN_COMPUTE (R485, R486): every 10 min. A part with no trend record has score 0 and nothing to report. -/
def execStrainCompute (s : State) : Host.Outcome State Fault Refusal :=
  .next ((scoredParts.filter (fun p => tblHas s.hlt.strain (partKey p.1 p.2))).foldl (fun s p => strainUpdate p.1 p.2 s) s)

/-- STRAIN_DAY_ROLLOVER (R484): a day of powered time ends. -/
def execStrainDayRollover (s : State) : Host.Outcome State Fault Refusal :=
  .next { s with hlt := { s.hlt with strainDay := s.hlt.strainDay + 1, strain := tblMap s.hlt.strain (fun _ r => { r with today := [], days := (r.today :: r.days).take 30 }) } }

/-! Thermal cycles, the RTC (R482, R483) -/

/-- Takes in a sample of the hottest Field die: a fall of 30 K below a peak that stood 30 K above the trough before it counts. -/
def thermalPoint (t : Nat) (s : State) : State :=
  let h := s.hlt
  if !h.peakSet then
    let trough := min h.trough t
    if trough + 30 ≤ t then { s with hlt := { h with trough := trough, peak := t, peakSet := true } } else { s with hlt := { h with trough := trough } }
  else
    let peak := max h.peak t
    if t + 30 ≤ peak then { s with hlt := { h with trough := t, peak := t, peakSet := false, tally := { h.tally with thermalCycles := satAdd 32 h.tally.thermalCycles 1 } } }
    else { s with hlt := { h with peak := peak } }

/-- THERMAL_CYCLE_SAMPLE (R480, R482): every 1 s. -/
def execThermalCycleSample (fieldC : Nat) (s : State) : Host.Outcome State Fault Refusal :=
  .next (thermalPoint fieldC { s with hlt := { s.hlt with tally := { s.hlt.tally with peakFieldC := max s.hlt.tally.peakFieldC (min 255 fieldC) } } })

/-- RTC_SET (R483): once an hour while fabric time is LOCKED. The RTC is held as its distance from the reference time base. -/
def execRtcSet (s : State) : Host.Outcome State Fault Refusal :=
  .next (if s.oln.sync == .locked then { s with mod := { s.mod with rtc := (fabricTime s : Int) - (s.now : Int) } } else s)

end Sys2Proof.Machine
end

