-- ==== Sys2Proof/Machine/Health.lean ====
section
/-! DEFINITION. The METER and HEALTH commands (R487-R499), drains, and the end of a quarantine (R475, R476). -/

namespace Sys2Proof.Machine

/-! Stragglers (R487) -/

/-- The DETAIL of STRAGGLER and STRAGGLER_CLEARED. -/
def stragglerDetail (s : State) : List Byte :=
  leBytes 2 (fieldRate s) ++ leBytes 2 (healthParam s 0x01) ++ leBytes 1 (corner s) ++ leBytes 1 (b2n (powerHeld s) + 2 * b2n (belowGuarantee s)) ++ leBytes 1 s.mod.fieldC

/-- Whether something has lasted for STRAGGLER_HOLD_MS since a time. -/
def stragglerHeld (s : State) (t : Option Nat) : Bool := match t with | none => false | some t => decide (t + healthParam s 0x02 * ms ≤ s.now)

/-- STRAGGLER_HOLD_EXPIRY: FIELD_RATE has stayed on one side for STRAGGLER_HOLD_MS. -/
def execStragglerHoldExpiry (s : State) : Host.Outcome State Fault Refusal :=
  .next (if !s.hlt.straggler && healthParam s 0x01 != 0 && stragglerHeld s s.hlt.stragglerSince then
      raiseNode .straggler (stragglerDetail s) { s with hlt := { s.hlt with straggler := true } }
    else if s.hlt.straggler && stragglerHeld s s.hlt.stragglerOkSince then
      raiseNode .stragglerCleared (stragglerDetail s) { s with hlt := { s.hlt with straggler := false } }
    else s)

/-! Metering (R494-R496) -/

/-- Units of 512 bytes that a context's bodies and regions hold in Ember; a shared body belongs to one context and counts once. -/
def emberHalves (s : State) (ctx : Nat) : Nat :=
  sumN ((s.tir.bodies.filter (fun e => e.2.ctx == ctx)).map (fun e => heldHalves e.2)) +
  sumN ((s.tir.regions.filter (fun e => e.2.ctx == ctx)).map (fun e => 2 * e.2.chunks))

/-- Units of 512 bytes of a context's cold copies in Peat. -/
def peatHalves (s : State) (ctx : Nat) : Nat :=
  sumN ((s.tir.peat.filter (fun e => e.2.ctx == ctx)).map (fun e => ceilDiv (e.2.bytes.length + e.2.esc.length) 512))

/-- METER_SAMPLE (R494): every 1 ms. -/
def execMeterSample (s : State) : Host.Outcome State Fault Refusal :=
  .next (s.sec.ctxs.foldl (fun s e => tenantAdd e.1 (fun t => { t with emberMs := t.emberMs + emberHalves s e.1, peatMs := t.peatMs + peatHalves s e.1 }) s) s)

/-- A tenant record (R494). -/
def tenantBytes (s : State) (k : Nat) (t : Tenant) : List Byte :=
  leBytes 4 k ++ leBytes 4 s.hlt.tally.powerCycles ++ leBytes 8 t.kilnBeats ++ leBytes 8 (t.emberMs / 2000) ++ leBytes 8 (t.peatMs / 2000) ++
  leBytes 8 t.fabricTx ++ leBytes 8 t.fabricRx ++ leBytes 8 t.searches ++ leBytes 8 t.comparisons

/-- METER_READ (R494). -/
def execMeterRead (c : Cmd) (s : State) : Host.Outcome State Fault Refusal :=
  .next (runCmd 0x0D 0x20 c (fun _ c s =>
    let n := s.hlt.tenants.length
    if !argsOnly c [] then (fail .badParameter, s)
    else match bufferCheck c s with
    | some e => (fail e, s)
    | none =>
      if c.outLen < 64 * n then (fail .badLength, s)
      else (.done { output := (s.hlt.tenants.map (fun e => tenantBytes s e.1 e.2)).flatten, space := 64 * n }, s)) s)

/-- A composition's record (R495); a live one has held its allotments until now. -/
def compBytes (s : State) (r : CompRec) : List Byte :=
  let held := if r.cause == 0 then r.allots * ((fabricTime s - r.granted) / ms) else r.heldMs
  leBytes 2 r.comp ++ leBytes 2 r.peer ++ leBytes 1 (b2n (!r.lender)) ++ leBytes 1 r.cause ++ leBytes 2 r.allots ++ leBytes 8 r.granted ++ leBytes 8 r.ended ++ leBytes 8 held

/-- METER_COMPOSITIONS (R495): an ended record is reported once. -/
def execMeterCompositions (c : Cmd) (s : State) : Host.Outcome State Fault Refusal :=
  .next (runCmd 0x0D 0x21 c (fun _ c s =>
    let n := s.hlt.comps.length
    if !argsOnly c [] then (fail .badParameter, s)
    else match bufferCheck c s with
    | some e => (fail e, s)
    | none =>
      if c.outLen < 32 * n then (fail .badLength, s)
      else (.done { output := (s.hlt.comps.map (compBytes s)).flatten, space := 32 * n }, { s with hlt := { s.hlt with comps := s.hlt.comps.filter (fun r => r.cause == 0) } })) s)

/-- METER_PROFILE (R496): in confidential mode no context keeps counters (R457). -/
def execMeterProfile (c : Cmd) (s : State) : Host.Outcome State Fault Refusal :=
  .next (runCmd 0x0D 0x22 c (fun _ c s =>
    let k := argU c 32 2
    if !argsOnly c [(32, 0, 12)] then (fail .badParameter, s)
    else match bufferCheck c s with
    | some e => (fail e, s)
    | none =>
      match getCtx? s k with
      | none => (fail .badContext, s)
      | some x =>
        if !mayName s c k then (fail .badContext, s)
        else if !x.profile then (fail .badState, s)
        else if c.outLen < 48 then (fail .badLength, s)
        else (.done { output := ((List.range 6).map (fun i => leBytes 8 (tblGetD x.counters i 0))).flatten, space := 48 }, s)) s)

/-- METER_RESET_TENANT (R494, R497). -/
def execMeterResetTenant (c : Cmd) (s : State) : Host.Outcome State Fault Refusal :=
  .next (runCmd 0x0D 0x23 c (fun _ c s =>
    let t := argU c 36 4
    if !argsOnly c [(36, 0, 32)] then (fail .badParameter, s)
    else if !tblHas s.hlt.tenants t then (fail .notFound, s)
    else
      let (yes, s) := judge c { unit := 0x0D, obj := 2 ^ 33 + t } (.content 1) s
      if !yes then (fail .overruled, s) else (ok, { s with hlt := { s.hlt with tenants := tblDel s.hlt.tenants t } })) s)

/-! Status, events, parameters (R498, R499, R528) -/

/-- Every score, in the order of R498. -/
def allScores (s : State) : List Nat := scoredParts.map (fun p => (tblGetD s.hlt.strain (partKey p.1 p.2) {}).score)

/-- The highest score and the number of the first part that has it. -/
def bestScore (s : State) : Nat × Nat :=
  (allScores s).zipIdx.foldl (fun (a : Nat × Nat) (v, i) => if a.1 < v then (v, i) else a) ((allScores s).headD 0, 0)

/-- HEALTH_STATUS (R487, R498). -/
def execHealthStatus (c : Cmd) (s : State) : Host.Outcome State Fault Refusal :=
  .next (runCmd 0x0D 0x30 c (fun _ c s =>
    let best := bestScore s
    if !argsOnly c [] then (fail .badParameter, s)
    else match bufferCheck c s with
    | some e => (fail e, s)
    | none =>
      if c.outLen != 0 && c.outLen < 1044 then (fail .badLength, s)
      else (.done { r0 := best.1 + best.2 * 2 ^ 16, r1 := b2n s.hlt.straggler + min 255 s.hlt.retired.length * 2 ^ 8, output := if c.outLen == 0 then [] else ((allScores s).map (leBytes 2)).flatten }, s)) s)

/-- The records of the log from a SEQ on. -/
def logFrom (s : State) (seq : Nat) : List EvRec := s.hlt.log.filter (fun e => serialGe 32 e.seq seq)

/-- The SEQ acknowledged after a read of records. -/
def ackedAfter (s : State) (ack : Bool) (shown : List EvRec) : Option Nat := match shown.getLast? with | some e => if ack then some e.seq else s.hlt.acked | none => s.hlt.acked

/-- HEALTH_EVENT_READ (R464, R528). -/
def execHealthEventRead (c : Cmd) (s : State) : Host.Outcome State Fault Refusal :=
  .next (runCmd 0x0D 0x31 c (fun _ c s =>
    let ack := argBits c 32 0 1 == 1
    let es := logFrom s (argU c 36 4)
    let shown := es.take (c.outLen / 64)
    if !argsOnly c [(32, 0, 1), (36, 0, 32)] then (fail .badParameter, s)
    else match bufferCheck c s with
    | some e => (fail e, s)
    | none =>
      let acked := ackedAfter s ack shown
      (.done { r0 := shown.length, r1 := es.length - shown.length, output := (shown.map (fun e => evBytes e false)).flatten }, { s with hlt := { s.hlt with acked := acked } })) s)

/-- A parameter's value once every staged change has been applied. -/
def healthNext (s : State) (p : Nat) : Nat :=
  stagedValue s (fun ch => match ch with | .health k v => if k == p then some v else none | _ => none) (healthParam s p)

/-- Whether a value lies in a parameter's range (R499). -/
def healthRange (s : State) (p x : Nat) : Bool :=
  match p with
  | 0x01 => decide (x ≤ 2000)
  | 0x02 => decide (10 ≤ x ∧ x ≤ 10000)
  | 0x03 => decide (x ≤ 200)
  | 0x04 => decide (100 ≤ x ∧ x ≤ 1000 ∧ healthNext s 0x05 + 50 ≤ x)
  | 0x05 => decide (x + 50 ≤ healthNext s 0x04)
  | 0x06 => decide (2 ≤ x ∧ x ≤ 16)
  | 0x07 => decide (1 ≤ x ∧ x ≤ 720)
  | 0x08 => decide (x ≤ 3)
  | _ => false

/-- HEALTH_CONFIG (R499, R529). -/
def execHealthConfig (c : Cmd) (s : State) : Host.Outcome State Fault Refusal :=
  .next (runCmd 0x0D 0x32 c (fun oid c s =>
    let p := argU c 32 2
    let x := argU c 40 8
    if !argsOnly c [(32, 0, 16), (40, 0, 64)] || !healthRange s p x then (fail .badParameter, s)
    else
      let (yes, s) := judge c { unit := 0x0D, obj := 2 ^ 34 + p } (.value x) s
      if !yes then (fail .overruled, s)
      else stage oid c { r0 := healthNext s p } (.health p x) s) s)

/-! Service orders on Ember channels and Peat groups (R196, R474, R475, R497) -/

/-- Whether a service order of a rank is refused with UNIT_FENCED: an ENABLE of a fenced unit that is retired (R477). -/
def enableRefused (rank : Nat) (chan : Bool) (i : Nat) (s : State) : Bool :=
  rank == 3 && (if chan then (getChan s i).state == .fenced && isRetired s .channel i else (getGroup s i).state == .fenced && isRetired s .peat i)

/-- The checks of HEALTH.FENCE, RESTRICT and ENABLE: class and instance, and for ENABLE that the unit is not retired. -/
def unitOrder (rank : Nat) (act : Bool → Nat → State → Answer × State) (c : Cmd) (s : State) : Answer × State :=
  let cls := argU c 32 1
  let i := argU c 34 2
  let chan := cls == 1
  if !argsOnly c [(32, 0, 8), (34, 0, 16)] || (!chan && cls != 4) || (if chan then 384 else 2) ≤ i then (fail .badParameter, s)
  else if (chan && nChans s ≤ i) || (!chan && !hasPeat s) then (fail .unitAbsent, s)
  else if enableRefused rank chan i s then (fail .unitFenced, s)
  else
    let (yes, s) := judge c { unit := 0x0D, obj := 2 ^ 35 + cls * 2 ^ 16 + i } (.service rank) s
    if !yes then (fail .overruled, s) else act chan i s

/-- The judge of a service order on a channel or a Peat group. -/
def unitJudge (rank : Nat) (c : Cmd) (s : State) : Bool × State := judge c { unit := 0x0D, obj := 2 ^ 35 + argU c 32 1 * 2 ^ 16 + argU c 34 2 } (.service rank) s

/-- Whether a service order names a channel or a Peat group that the variant has. -/
def unitNamed (s : State) (c : Cmd) : Bool :=
  argsOnly c [(32, 0, 8), (34, 0, 16)] && ((argU c 32 1 == 1 && decide (argU c 34 2 < nChans s)) || (argU c 32 1 == 4 && decide (argU c 34 2 < 2) && hasPeat s))

/-- HEALTH_FENCE: cause 1; no change to a unit that is FENCED. -/
def execHealthFence (c : Cmd) (s : State) : Host.Outcome State Fault Refusal :=
  .next (settleWork (runCmd 0x0D 0x38 c (fun _ c s => unitOrder 1 (fun chan i s =>
    if chan then (ok, if (getChan s i).state == .fenced then s else fenceChannel i 1 false s)
    else (ok, if (getGroup s i).state == .fenced then s else fencePeatGroup i 1 false s)) c s) s))

/-- HEALTH_RESTRICT: a unit in SERVICE becomes RESTRICTED; no change to any other. -/
def execHealthRestrict (c : Cmd) (s : State) : Host.Outcome State Fault Refusal :=
  .next (runCmd 0x0D 0x39 c (fun _ c s => unitOrder 2 (fun chan i s =>
    if chan then (ok, if (getChan s i).state == .service then modChan i (fun x => { x with state := .restricted }) s else s)
    else (ok, if (getGroup s i).state == .service then modGroup i (fun x => { x with state := .restricted }) s else s)) c s) s)

/-- HEALTH_ENABLE (R475, R477): a FENCED unit goes into quarantine, a RESTRICTED one back to SERVICE. -/
def execHealthEnable (c : Cmd) (s : State) : Host.Outcome State Fault Refusal :=
  .next (runCmd 0x0D 0x3A c (fun oid c s => unitOrder 3 (fun chan i s =>
    if chan then
      match (getChan s i).state with
      | .fenced => (.wait, modChan i (fun x => { x with state := .quarantine, enableBy := [oid] }) s)
      | .restricted => (ok, modChan i (fun x => { x with state := .service }) s)
      | _ => (ok, s)
    else
      match (getGroup s i).state with
      | .fenced => (.wait, modGroup i (fun x => { x with state := .quarantine, enableBy := [oid] }) s)
      | .restricted => (ok, modGroup i (fun x => { x with state := .service }) s)
      | _ => (ok, s)) c s) s)

/-- The class that a CLASS number names, and how many instances every variant numbers (R481). -/
def classNumber : Nat → Option (PartClass × Nat)
  | 0 => some (.core, 72)
  | 1 => some (.channel, 384)
  | 2 => some (.lane, 64)
  | 3 => some (.port, 16)
  | 4 => some (.peat, 2)
  | _ => none

/-- Whether the variant and the fuses give the module a part (R4, R474). -/
def partPresent (s : State) (cls : PartClass) (i : Nat) : Bool :=
  match cls with
  | .core => coreFused s i
  | .channel => decide (i < nChans s)
  | .lane => decide (i / 4 < nPorts s)
  | .port => decide (i < nPorts s)
  | .peat => hasPeat s

/-- HEALTH_UNRETIRE (R4, R474, R477, R497): an absent part gives UNIT_ABSENT. -/
def execHealthUnretire (c : Cmd) (s : State) : Host.Outcome State Fault Refusal :=
  .next (runCmd 0x0D 0x3B c (fun _ c s =>
    let i := argU c 34 2
    match classNumber (argU c 32 1) with
    | none => (fail .badParameter, s)
    | some (cls, n) =>
      if !argsOnly c [(32, 0, 8), (34, 0, 16)] || n ≤ i then (fail .badParameter, s)
      else if !partPresent s cls i then (fail .unitAbsent, s)
      else if !isRetired s cls i then (fail .badState, s)
      else
        let (yes, s) := judge c { unit := 0x0D, obj := 2 ^ 36 + partKey cls i } (.value 0) s
        if !yes then (fail .overruled, s)
        else (ok, { s with hlt := { s.hlt with retired := setDel s.hlt.retired (partKey cls i), fenceTimes := tblDel s.hlt.fenceTimes (partKey cls i) } })) s)

/-! The end of a quarantine (R475, R476) -/

/-- The chunks of the regions that lie in a channel are filled with zeros before it takes new work (R219), those of composition regions too (R239). -/
def refillRegions (m : Nat) (s : State) : State :=
  s.tir.regions.foldl (fun s e =>
    ((List.range e.2.chunks).filter (fun i => chanOf s (regionEda e.2 (1024 * i)) == m)).foldl (fun s i => emberWrite (regionEda e.2 (1024 * i)) (zeros 1024) s) s) s

/-- A channel's quarantine ends: the march has written every line, so no poison is left. -/
def channelQuarantined (m : Nat) (pass : Bool) (step : Nat) (s : State) : State :=
  let x := getChan s m
  if x.state != .quarantine then s
  else if pass then
    let s := raiseNode .quarantinePassed (quarantineDetail .channel m none) s
    let s := setChan m { x with state := .service, cause := 0, rw := x.shadow.getD x.rw, shadow := none, enableBy := [], ueRows := [], retrains := [] } s
    let s : State := { s with emb := { s.emb with poison := s.emb.poison.filter (fun l => chanOf s (64 * l) != m) } }
    endEnables x.enableBy .success (refillRegions m s)
  else fenceChannel m 5 false (raiseNode .quarantineFailed (quarantineDetail .channel m (some step)) s)

/-- A Peat group's quarantine ends. -/
def groupQuarantined (g : Nat) (pass : Bool) (step : Nat) (s : State) : State :=
  let x := getGroup s g
  if x.state != .quarantine then s
  else if pass then
    let s := raiseNode .quarantinePassed (quarantineDetail .peat g none) s
    endEnables x.enableBy .success (modGroup g (fun x => { x with state := .service, cause := 0, enableBy := [], fails := [] }) s)
  else fencePeatGroup g 5 false (raiseNode .quarantineFailed (quarantineDetail .peat g (some step)) s)

/-- A core's quarantine ends: its full self-test, with spark 0x0206. -/
def coreQuarantined (n : Nat) (pass : Bool) (s : State) : State :=
  if (getCore s n).state != .quarantine then s
  else
    let (fired, s) := sparkCheck 0x0206 n s
    let inj := fired.isSome
    if pass && !inj then returnCore n (raiseNode .quarantinePassed (quarantineDetail .core n none) s)
    else
      let s := raiseN .quarantineFailed inj 1 [.ctx 0] (quarantineDetail .core n (some 0)) s
      startRuns (fenceCore n 5 inj (countFault .core n 6 none inj s))

/-- A port's quarantine ends: it has trained and sent PRBS31Q for 1 s, or it is held DOWN again. -/
def portQuarantined (p : Nat) (pass : Bool) (step : Nat) (s : State) : State :=
  let x := getPort s p
  if x.service != .quarantine then s
  else if pass then
    if x.state != .training || portWidth x == 0 then s
    else
      let s := raiseNode .quarantinePassed (quarantineDetail .port p none) (setPort p { x with service := .service, enableBy := [], ctrl := x.shadow.getD x.ctrl, shadow := none } s)
      endEnables x.enableBy .success (portTrained p s)
  else
    let s := raiseNode .quarantineFailed (quarantineDetail .port p (some step)) s
    let s := recordFence .port p 2 true false (modPort p (fun y => { y with service := .fenced, enableBy := [], backoff := none }) (portDown p s))
    endEnables x.enableBy .unitFenced s

/-- QUARANTINE_DONE (R475): a lane's is that of LANE_QUARANTINE_DONE. -/
def execQuarantineDone (cls inst : Nat) (pass : Bool) (step : Nat) (s : State) : Host.Outcome State Fault Refusal :=
  .next (settleWork (match classNumber cls with
  | none => s
  | some (c, n) =>
    if n ≤ inst then s
    else match c with
    | .core => coreQuarantined inst pass s
    | .channel => channelQuarantined inst pass step s
    | .lane => laneQuarantined (inst / 4) (inst % 4) pass step s
    | .port => portQuarantined inst pass step s
    | .peat => groupQuarantined inst pass step s))

/-! Draining to the stand-in (R488-R492) -/

/-- Bytes of a body as it is copied. -/
def copyBytesOf (s : State) (x : Body) : Nat := 512 * sizeHalves s x

/-- The sequences that a drain carries (R490). -/
def carriedSeqs (s : State) (d : Drain) : Tbl Seq := s.tir.seqs.filter (fun e => !d.notCarried.contains e.2.ctx)

/-- The bodies that a drain carries: those of the carried sequences that hold data, COLD ones unless HOT_ONLY. -/
def carriedBodies (s : State) (d : Drain) : List (Nat × Body) :=
  let named := ((carriedSeqs s d).map (fun e => (allEntries e.2).map (fun t => t.2.2.body))).flatten
  s.tir.bodies.filter (fun e => named.contains e.1 && e.2.state != .lost && (readable e.2 || !d.hotOnly))

/-- The sequences that are left behind: those of contexts not carried, and with HOT_ONLY those with a body that is not in Ember. -/
def leftSeqs (s : State) (d : Drain) : List Nat :=
  (s.tir.seqs.filter (fun e => d.notCarried.contains e.2.ctx || (d.hotOnly && (allEntries e.2).any (fun t => match getBody? s t.2.2.body with | none => false | some x => !readable x)))).map (·.1)

/-- Bytes of the carried bodies written since the copy or round began: they are marked for the next one (R489). -/
def markedBytes (s : State) (d : Drain) : Nat := sumN ((carriedBodies s d).map (fun e => if d.roundFrom ≤ e.2.lastAppend then copyBytesOf s e.2 else 0))

def setDrain (d : Drain) (s : State) : State := { s with hlt := { s.hlt with drain := d } }

/-- Begins a round with the bytes now marked: QUIESCE when they are less than DELTA_MIB (R489). -/
def startRound (n : Nat) (s : State) : State :=
  let d := s.hlt.drain
  setDrain { d with phase := if n < d.deltaMib * 2 ^ 20 then .quiesce else .catchUp, marked := n, roundFrom := s.now } s

/-- Whether a drain is under way. -/
def drainActive (s : State) : Bool := match s.hlt.drain.phase with | .copy | .catchUp | .quiesce | .ready => true | _ => false

/-- The drain that a HEALTH.DRAIN begins, and whom it tells. -/
def drainOf (oid : Nat) (c : Cmd) (notCarried : List Nat) (s : State) : Drain :=
  let (issuer, mgmt) := match issuerRcpt s c.issuer with | .ctx x => (x, none) | .mgmt m => (0, some m)
  { phase := .copy, oid := some oid, standIn := argU c 32 2, hotOnly := argBits c 34 0 1 == 1, deltaMib := if argU c 36 2 == 0 then 256 else argU c 36 2, notCarried := notCarried, roundFrom := s.now, issuer := issuer, mgmt := mgmt }

/-- A drain begins: every body that it carries is marked, and the allotments lent are called back. -/
def beginCopy (d : Drain) (s : State) : State :=
  let s := setDrain { d with marked := sumN ((carriedBodies s d).map (fun e => copyBytesOf s e.2)) } s
  ((s.tir.lent.filter (fun e => e.2.noticeEnd.isNone && e.2.orphanSince.isNone)).map (·.1)).foldl (fun s k => sendNotice k (tierParam s 0x08) s) s

/-- HEALTH_DRAIN (R488-R490): the operands say what the member learns of the stand-in. -/
def execHealthDrain (c : Cmd) (standInOk groupOk reachable contextsOk : Bool) (notCarried : List Nat) (s : State) : Host.Outcome State Fault Refusal :=
  .next (runCmd 0x0D 0x40 c (fun oid c s =>
    let delta := argU c 36 2
    if !argsOnly c [(32, 0, 12), (34, 0, 1), (36, 0, 16)] || (delta != 0 && delta < 16) then (fail .badParameter, s)
    else if drainActive s then (fail .badState, s)
    else if !reachable || s.oln.addr.isNone then (fail .undeliverable, s)
    else if !standInOk || !groupOk then (fail .badState, s)
    else if !contextsOk then (fail .badContext, s)
    else (.wait, beginCopy (drainOf oid c notCarried s) s)) s)

/-- DRAIN_COPY_DONE (R489, R492): `noSpace` is the stand-in's answer to a copy. -/
def execDrainCopyDone (noSpace : Bool) (s : State) : Host.Outcome State Fault Refusal :=
  let d := s.hlt.drain
  .next (if d.phase != .copy then s
  else if noSpace then failDrain .noSpace s
  else startRound (markedBytes s d) (setDrain { d with copied := d.copied + d.marked } s))

/-- DRAIN_ROUND_DONE (R489, R492). -/
def execDrainRoundDone (noSpace : Bool) (s : State) : Host.Outcome State Fault Refusal :=
  let d := s.hlt.drain
  .next (if d.phase != .catchUp then s
  else if noSpace then failDrain .noSpace s
  else
    let n := markedBytes s d
    let stuck := if d.marked ≤ n then d.stuck + 1 else 0
    let s := setDrain { d with copied := d.copied + d.marked, stuck := stuck } s
    if 10 ≤ stuck then failDrain .busy s else startRound n s)

/-- Whether every accepted command of units 0x03 to 0x09 has completed, and no outbound flow has an unacknowledged frame (R489, R491). -/
def isQuiet (s : State) : Bool :=
  let work := fun (c : Cmd) => decide (0x03 ≤ c.unit ∧ c.unit ≤ 0x09)
  !(s.cln.inflight.any (fun e => work e.2) || s.cln.fetched.any (fun l => work l.cmd)) && s.trn.slots.all (fun e => e.2.waiting.isEmpty && e.2.unacked.isEmpty)

/-- The drain ends ready: what is left behind and what was copied are noted, DRAIN_DONE. -/
def drainReady (d : Drain) (s : State) : State :=
  let left := leftSeqs s d
  let copied := d.copied + d.marked + markedBytes s d
  let s := setDrain { d with phase := .ready, copied := copied, left := left, oid := none } s
  raise .drainDone [drainRcpt s] (leBytes 2 d.standIn ++ zeros 2 ++ leBytes 8 copied ++ leBytes 4 left.length) s

/-- DRAIN_QUIESCED (R489): the last marked bodies are copied, DRAIN_DONE, and HEALTH.DRAIN completes. -/
def execDrainQuiesced (noSpace : Bool) (s : State) : Host.Outcome State Fault Refusal :=
  let d := s.hlt.drain
  .next (if d.phase != .quiesce || !isQuiet s then s
  else if noSpace then failDrain .noSpace s
  else
    let s := drainReady d s
    match d.oid with
    | none => s
    | some oid => finish oid {} s)

/-- The sequences that a drain leaves behind: settled once it is ready. -/
def drainLeft (s : State) : List Nat := match s.hlt.drain.phase with | .copy | .catchUp | .quiesce => leftSeqs s s.hlt.drain | _ => s.hlt.drain.left

/-- HEALTH_DRAIN_STATUS (R488, R497). -/
def execHealthDrainStatus (c : Cmd) (s : State) : Host.Outcome State Fault Refusal :=
  .next (runCmd 0x0D 0x41 c (fun _ c s =>
    let d := s.hlt.drain
    let left := drainLeft s
    let r0 := drainPhaseCode d.phase + d.copied % 2 ^ 56 * 2 ^ 8
    if !argsOnly c [] then (fail .badParameter, s)
    else match bufferCheck c s with
    | some e => (fail e, s)
    | none =>
      if c.outLen < 4 * left.length then (.done { status := .badLength, r0 := r0, r1 := left.length }, s)
      else (.done { r0 := r0, r1 := left.length, output := (left.map (leBytes 4)).flatten, space := 4 * left.length }, s)) s)

/-- HEALTH_DRAIN_CANCEL (R492). -/
def execHealthDrainCancel (c : Cmd) (s : State) : Host.Outcome State Fault Refusal :=
  .next (runCmd 0x0D 0x42 c (fun _ c s =>
    if !argsOnly c [] then (fail .badParameter, s)
    else if drainActive s then (ok, failDrain .aborted s) else (fail .badState, s)) s)

end Sys2Proof.Machine
end

