-- ==== Sys2Proof/Machine/Olnen.lean ====
section
/-! DEFINITION. The commands of the OLNEN unit that act on links, discovery, routes, groups and fabric time (file 11, R359-R363, R405). -/

namespace Sys2Proof.Machine

/-! Registers of a port (R362) -/

/-- OLN_PORT_STATE. -/
def portStateReg (x : Port) : Nat :=
  portStateCode x.state + 2 ^ 3 * b2n x.ethernet + 2 ^ 4 * (if x.state == .active then portWidth x else 0) + 2 ^ 8 * serviceCode x.service +
  2 ^ 16 * (x.neighAddr % 4096) + 2 ^ 28 * b2n x.neighValid

/-- OLN_PORT_LANES. -/
def portLanesReg (x : Port) : Nat := sumN ((List.range 4).map (fun l => 2 ^ (16 * l) * (laneStateCode (laneOf x l).state + 256 * ((laneOf x l).ber % 256))))

/-- OLN_PORT_ERR. -/
def portErrReg (x : Port) : Nat := x.cwCorrected % 2 ^ 32 + 2 ^ 32 * (x.cwUncorrected % 2 ^ 16) + 2 ^ 48 * (x.replays % 2 ^ 16)

/-- OLN_PORT_EVENTS. -/
def portEventsReg (x : Port) : Nat :=
  b2n x.laneLost + 2 * b2n x.retrained + 4 * b2n x.linkLost + 8 * b2n x.discLimited + 2 ^ 8 * (x.retrainCount % 256) + 2 ^ 16 * (x.droppedKind % 2 ^ 16)

/-- OLN_PORT_CTRL. -/
def portCtrlReg (c : PortCtrl) : Nat := b2n c.autoRejoin + 16 * (c.minWidth % 8)

/-- OLN_PORT_PTP. -/
def portPtpReg (x : Port) : Nat := x.ptpState % 16 + 2 ^ 16 * (x.linkDelay % 2 ^ 16) + 2 ^ 32 * (if x.ptpState == 9 then toTwos 32 x.ptpOffset else 0)

/-- The record of a port in OLNEN.STATUS. -/
def statusRecord (s : State) (p : Nat) : List Byte :=
  if nPorts s ≤ p then zeros 32 else let x := getPort s p; leBytes 8 (portStateReg x) ++ leBytes 8 (portLanesReg x) ++ leBytes 8 (portErrReg x) ++ leBytes 8 (portPtpReg x)

/-- OLNEN_STATUS (R363). -/
def execOlnenStatus (c : Cmd) (s : State) : Host.Outcome State Fault Refusal :=
  .next (runCmd 0x0A 0x01 c (fun _ c s =>
    if !argsOnly c [] then (fail .badParameter, s)
    else match bufferCheck c s with
    | some e => (fail e, s)
    | none =>
      if c.outLen < 512 then (fail .badLength, s)
      else (.done { output := ((List.range 16).map (statusRecord s)).flatten, space := 512 }, s)) s)

/-! Ports (R332, R334, R359, R360) -/

/-- The checks of a command that names a port: its reserved bits, that it is present, and that it is not fenced. -/
def portCheck (c : Cmd) (fields : List (Nat × Nat × Nat)) (s : State) : Option Status :=
  let p := argBits c 32 0 4
  if !argsOnly c ((32, 0, 4) :: fields) then some .badParameter
  else if nPorts s ≤ p then some .unitAbsent
  else if (getPort s p).service == .fenced then some .unitFenced
  else none

/-- Whether an Ethernet record keeps to R360. -/
def ethRecordOk (r : List Byte) : Bool :=
  let b := fun (i : Nat) => getU r i 1
  let zero := fun (i n : Nat) => getU r i n == 0
  !bitOf (b 0) 0 && decide (b 6 < 8) && (bitOf (b 6) 0 || bitOf (b 6) 1) && decide (getU r 8 2 < 4096) &&
  decide (1500 ≤ getU r 10 2 ∧ getU r 10 2 ≤ 9216) && (zero 12 2 || decide (1024 ≤ getU r 12 2 ∧ getU r 12 2 ≤ 65534)) && zero 14 2 &&
  (!bitOf (b 6) 0 || decide (1 ≤ b 32 ∧ b 32 ≤ 128)) && zero 33 3 && (!bitOf (b 6) 1 || decide (1 ≤ b 40 ∧ b 40 ≤ 32)) && zero 41 3

/-- A port takes a mode, with the Ethernet record that goes with it. -/
def takeMode (p : Nat) (eth : Bool) (r : List Byte) (s : State) : State :=
  let s := if (getPort s p).ethernet != eth then portDownEvent p 0 s else s
  modPort p (fun x => { x with ethernet := eth, eth := if eth then r else x.eth, backoff := none, failures := 0 }) s

/-- OLNEN_PORT_MODE (R360). -/
def execOlnenPortMode (c : Cmd) (s : State) : Host.Outcome State Fault Refusal :=
  .next (runCmd 0x0A 0x02 c (fun _ c s =>
    let p := argBits c 32 0 4
    let eth := argBits c 33 0 1 == 1
    match portCheck c [(33, 0, 1)] s with
    | some e => (fail e, s)
    | none =>
      match bufferCheck c s with
      | some e => (fail e, s)
      | none =>
        if eth && c.inLen < 64 then (fail .badLength, s)
        else if eth && !ethRecordOk (c.input.take 64) then (fail .badParameter, s)
        else
          let (yes, s) := judge c { unit := 0x0A, obj := 2 ^ 34 + p } (.value (if eth then 1 + 2 * leNat (c.input.take 64) else 0)) s
          if !yes then (fail .overruled, s)
          else (ok, takeMode p eth (c.input.take 64) s)) s)

/-- Whether a port takes requests: native, and its link up (R334). -/
def portLink (x : Port) : Option Status :=
  if x.ethernet then some .badState
  else match x.state with
  | .active | .retrain | .resize => none
  | .loopback | .mismatch => some .badState
  | _ => some .linkDown

/-- OLNEN_RETRAIN (R334). -/
def execOlnenRetrain (c : Cmd) (s : State) : Host.Outcome State Fault Refusal :=
  .next (runCmd 0x0A 0x03 c (fun oid c s =>
    let p := argBits c 32 0 4
    match portCheck c [] s with
    | some e => (fail e, s)
    | none =>
      match portLink (getPort s p) with
      | some e => (fail e, s)
      | none => (.wait, askChange p true (portWidth (getPort s p)) [oid] s)) s)

/-- The lowest `n` IDLE lanes, that a wider link takes, whatever order made them IDLE (R332). -/
def freeIdle (p n : Nat) (s : State) : State :=
  ((lanesIn (getPort s p) .idle).take n).foldl (fun s l => modPort p (modLane l (fun y => { y with restricted := false })) s) s

/-- OLNEN_WIDTH (R332, R334). -/
def execOlnenWidth (c : Cmd) (s : State) : Host.Outcome State Fault Refusal :=
  .next (runCmd 0x0A 0x04 c (fun oid c s =>
    let p := argBits c 32 0 4
    let w := argBits c 33 0 3
    match portCheck c [(33, 0, 3)] s with
    | some e => (fail e, s)
    | none =>
      if w < 2 || 4 < w then (fail .badParameter, s)
      else match portLink (getPort s p) with
      | some e => (fail e, s)
      | none =>
        let x := getPort s p
        if (lanesIn x .idle).length < w - portWidth x then (fail .badState, s)
        else
          let (yes, s) := judge c { unit := 0x0A, obj := 2 ^ 35 + p } (.value w) s
          if !yes then (fail .overruled, s)
          else if w == portWidth x && x.state == .active && x.request.isNone then (ok, s)
          else (.wait, askChange p false w [oid] (freeIdle p (w - portWidth x) s))) s)

/-- Why an OLNEN.RESTRICT is refused: an active lane leaves by a RESIZE, so the link must be up and keep two lanes (R332, R359). -/
def restrictRefused (p l : Nat) (s : State) : Option Status :=
  let x := getPort s p
  if l != 7 && (laneOf x l).state == .active then
    match portLink x with
    | some e => some e
    | none => if ((lanesIn x .active).filter (fun k => !(laneOf x k).restricted)).length ≤ 2 then some .badState else none
  else none

/-- Why an OLNEN.ENABLE is refused: the part is retired (R477), or an IDLE lane has no link to join (R359). -/
def enableDenied (p l : Nat) (s : State) : Option Status :=
  let x := getPort s p
  if l == 7 then (if isRetired s .port p then some .unitFenced else none)
  else if isRetired s .lane (laneIndex p l) then some .unitFenced
  else if (laneOf x l).state == .idle then portLink x else none

/-- The service orders' checks, and the port and lane they name; lane 7 is the port (R359). `refuse` makes the checks of one order, before it is judged. -/
def serviceOrder (verb rank : Nat) (refuse : Nat → Nat → State → Option Status) (act : Nat → Nat → Nat → State → Answer × State) (c : Cmd) (s : State) : State :=
  runCmd 0x0A verb c (fun oid c s =>
    let p := argBits c 32 0 4
    let l := argBits c 33 0 3
    let x := getPort s p
    if !argsOnly c [(32, 0, 4), (33, 0, 3)] || (4 ≤ l && l != 7) then (fail .badParameter, s)
    else if nPorts s ≤ p then (fail .unitAbsent, s)
    else if rank != 3 && (x.service == .fenced || (l != 7 && (laneOf x l).state == .fenced)) then (fail .unitFenced, s)
    else match refuse p l s with
    | some e => (fail e, s)
    | none =>
      let (yes, s) := judge c { unit := 0x0A, obj := p * 8 + l } (.service rank) s
      if !yes then (fail .overruled, s) else act oid p l s) s

/-- Fences a port: DOWN and held (R359). -/
def fencePort (p : Nat) (s : State) : State :=
  let by_ := (getPort s p).enableBy
  let s := portDownEvent p 0 s
  endEnables by_ .unitFenced (recordFence .port p 1 false false (modPort p (fun x => { x with service := .fenced, enableBy := [], backoff := none }) s))

/-- Fences a lane: it leaves the link under R332. -/
def fenceLane (p l : Nat) (s : State) : State :=
  let x := getPort s p
  let y := laneOf x l
  let s := setPort p { modLane l (fun y => { y with state := .fenced, enableBy := [], restricted := false, wasFenced := false }) x with joining := setDel x.joining l } s
  let s := endEnables y.enableBy .unitFenced (recordFence .lane (laneIndex p l) 1 false false s)
  if y.state == .active then
    let s := if x.ethernet then s else sendLink p (.control 3 0 0 (2 ^ l) 0) s
    narrow p s
  else s

/-- OLNEN_FENCE (R359). -/
def execOlnenFence (c : Cmd) (s : State) : Host.Outcome State Fault Refusal :=
  .next (serviceOrder 0x08 1 (fun _ _ _ => none) (fun _ p l s => (ok, if l == 7 then fencePort p s else fenceLane p l s)) c s)

/-- OLNEN_RESTRICT (R359): a lane is made IDLE by a RESIZE. -/
def execOlnenRestrict (c : Cmd) (s : State) : Host.Outcome State Fault Refusal :=
  .next (serviceOrder 0x09 2 restrictRefused (fun oid p l s =>
    let x := getPort s p
    let y := laneOf x l
    if l == 7 then
      let s := setPort p { x with service := .restricted, enableBy := [], ctrl := x.shadow.getD x.ctrl, shadow := none } s
      (ok, endEnables x.enableBy .unitFenced s)
    else if y.state == .active then (.wait, askChange p false (((lanesIn x .active).filter (fun k => k != l && !(laneOf x k).restricted)).length) [oid] (setPort p (modLane l (fun y => { y with restricted := true }) x) s))
    else (ok, setPort p (modLane l (fun y => { y with restricted := true }) x) s)) c s)

/-- OLNEN_ENABLE (R335, R359, R475, R477). -/
def execOlnenEnable (c : Cmd) (s : State) : Host.Outcome State Fault Refusal :=
  .next (serviceOrder 0x0A 3 enableDenied (fun oid p l s =>
    let x := getPort s p
    let y := laneOf x l
    if l == 7 then
      match x.service with
      | .service => (ok, s)
      | .restricted => (ok, setPort p { x with service := .service } s)
      | .fenced => (.wait, setPort p { x with service := .quarantine, enableBy := [oid] } s)
      | .quarantine => (.wait, setPort p { x with enableBy := x.enableBy ++ [oid] } s)
    else match y.state with
    | .lost | .fenced => (.wait, startQuarantine p l (setPort p (modLane l (fun y => { y with enableBy := [oid], restricted := false }) x) s))
    | .quarantine => (.wait, setPort p (modLane l (fun y => { y with enableBy := y.enableBy ++ [oid] }) x) s)
    | .idle => (.wait, askChange p false (portWidth x + 1 + ((lanesIn x .idle).filter (fun k => k != l && (laneOf x k).asked)).length) [oid] (setPort p (modLane l (fun y => { y with restricted := false, asked := true }) x) s))
    | .active | .down => (ok, setPort p (modLane l (fun y => { y with restricted := false }) x) s)) c s)

/-! Addresses and discovery (R341, R342) -/

/-- The order that an OLNEN.ADDR_SET spells. -/
def addrSetOf (c : Cmd) : AddrSet :=
  { addr := argBits c 32 0 12, release := argBits c 34 0 1 == 1, standIn := argBits c 34 1 1 == 1, stook := argU c 35 1, epoch := argU c 36 4, group := argU c 40 2, time := argU c 48 8 }

/-- OLNEN_ADDR_SET (R342). -/
def execOlnenAddrSet (c : Cmd) (s : State) : Host.Outcome State Fault Refusal :=
  .next (runCmd 0x0A 0x10 c (fun _ c s =>
    if !argsOnly c [(32, 0, 12), (34, 0, 2), (35, 0, 8), (36, 0, 32), (40, 0, 16), (48, 0, 64)] then (fail .badParameter, s)
    else
      let (yes, s) := judge c { unit := 0x0A, obj := 2 ^ 36 } (.value c.args.toNat) s
      if !yes then (fail .overruled, s)
      else
        let a := addrSetOf c
        if a.time ≤ fabricTime s then (ok, applyAddr a s) else (ok, { s with oln := { s.oln with addrNext := some a } })) s)

/-- OLNEN_DISCOVER (R341, R359). -/
def execOlnenDiscover (c : Cmd) (s : State) : Host.Outcome State Fault Refusal :=
  .next (runCmd 0x0A 0x11 c (fun oid c s =>
    let p := argBits c 32 0 4
    match portCheck c [(33, 0, 4), (40, 0, 64)] s with
    | some e => (fail e, s)
    | none =>
      match bufferCheck c s with
      | some e => (fail e, s)
      | none =>
        let x := getPort s p
        if c.outLen < 448 then (fail .badLength, s)
        else if x.ethernet || !linkTrained x || x.state == .hold then (fail .linkDown, s)
        else
          let d : Disc := { ownDisc s p with queryId := oid, route := argU c 40 8, hopCount := argBits c 33 0 4 }
          (.wait, sendLink p (.query d) { s with oln := { s.oln with discovers := tblSet s.oln.discovers oid { oid := oid, port := p, time := s.now } } })) s)

/-! Routes (R345) -/

/-- Whether a route entry sets no reserved bit. -/
def routeOk (e : Nat) : Bool := bitsOf e 4 4 == 0 && bitsOf e 24 40 == 0

/-- Writes route entries from an address on into a bank. -/
def setRoutes (first : Nat) (es : List Nat) (t : Tbl Nat) : Tbl Nat :=
  es.zipIdx.foldl (fun t e => if e.1 == 0 then tblDel t (first + e.2) else tblSet t (first + e.2) e.1) t

/-- OLNEN_ROUTE_SET (R345). -/
def execOlnenRouteSet (c : Cmd) (s : State) : Host.Outcome State Fault Refusal :=
  .next (runCmd 0x0A 0x12 c (fun _ c s =>
    let first := argU c 32 2
    let n := argU c 34 2
    let at_ := argU c 40 8
    if !argsOnly c [(32, 0, 16), (34, 0, 16), (40, 0, 64)] || 4096 < n || 4096 < first + n then (fail .badParameter, s)
    else match bufferCheck c s with
    | some e => (fail e, s)
    | none =>
      let es := (List.range n).map (fun i => inU c (8 * i) 8)
      if c.inLen < 8 * n then (fail .badLength, s)
      else if !es.all routeOk then (fail .badParameter, s)
      else
        let (yes, s) := judge c { unit := 0x0A, obj := 2 ^ 37 } (.value (leNat (leBytes 32 c.args.toNat ++ c.input.take (8 * n)))) s
        if !yes then (fail .overruled, s)
        else
          let s : State := { s with oln := { s.oln with standby := setRoutes first es s.oln.standby } }
          if at_ ≤ fabricTime s then (ok, swapRoutes s) else (ok, { s with oln := { s.oln with swapAt := some at_ } })) s)

/-- OLNEN_ROUTE_GET (R359). -/
def execOlnenRouteGet (c : Cmd) (s : State) : Host.Outcome State Fault Refusal :=
  .next (runCmd 0x0A 0x13 c (fun _ c s =>
    let first := argU c 32 2
    let n := argU c 34 2
    if !argsOnly c [(32, 0, 16), (34, 0, 16), (36, 0, 1)] || 4096 < first + n then (fail .badParameter, s)
    else match bufferCheck c s with
    | some e => (fail e, s)
    | none =>
      let bank := if argBits c 36 0 1 == 1 then s.oln.standby else s.oln.routes
      if c.outLen < 8 * n then (fail .badLength, s)
      else (.done { output := ((List.range n).map (fun i => leBytes 8 (tblGetD bank (first + i) 0))).flatten, space := 8 * n }, s)) s)

/-! Multicast (R350, R351) -/

/-- A group that another context owns cannot be named. -/
def groupForeign (s : State) (c : Cmd) (g : Nat) : Bool := match tblGet? s.oln.mcast g with | none => false | some x => !mayName s c x.ctx

/-- OLNEN_MCAST_GROUP (R350). -/
def execOlnenMcastGroup (c : Cmd) (s : State) : Host.Outcome State Fault Refusal :=
  .next (runCmd 0x0A 0x18 c (fun _ c s =>
    let g := argBits c 32 0 12
    let n := argBits c 34 0 7
    if !argsOnly c [(32, 0, 12), (34, 0, 7)] || 64 < n then (fail .badParameter, s)
    else match bufferCheck c s with
    | some e => (fail e, s)
    | none =>
      if groupForeign s c g then (fail .badContext, s)
      else if c.inLen < 4 * n then (fail .badLength, s)
      else match memberList c.input n with
      | none => (fail .badParameter, s)
      | some ms =>
        let (yes, s) := judge c { unit := 0x0A, obj := 2 ^ 38 + g } (.value (leNat (leBytes 32 c.args.toNat ++ c.input.take (4 * n)))) s
        if !yes then (fail .overruled, s)
        else (ok, { s with oln := { s.oln with mcast := if n == 0 then tblDel s.oln.mcast g else tblSet s.oln.mcast g { ctx := cmdCtx s c, members := ms } } })) s)

/-- A multicast begins: one request to each member. -/
def mcastStart (oid g : Nat) (x : McastGroup) (c : Cmd) (s : State) : State :=
  let n := s.trn.nextMcast
  let m : Mcast := { oid := oid, ctx := cmdCtx s c, srcCtx := x.ctx, group := g, cid := c.cid, cls := cmdClass s c, message := c.input, members := x.members, status := x.members.map (fun _ => none), attempts := x.members.map (fun _ => 0), deadline := s.now + olnenParam s 0x03 * us }
  let s : State := { s with trn := { s.trn with nextMcast := n + 1, mcasts := tblSet s.trn.mcasts n m } }
  (List.range x.members.length).foldl (fun s i => mcastSend n i s) s

/-- OLNEN_MCAST (R351, R353, R385): one COMMAND message to each member. -/
def execOlnenMcast (c : Cmd) (s : State) : Host.Outcome State Fault Refusal :=
  .next (settleWork (runCmd 0x0A 0x19 c (fun oid c s =>
    let g := argBits c 32 0 12
    if !argsOnly c [(32, 0, 12)] then (fail .badParameter, s)
    else match bufferCheck c s with
    | some e => (fail e, s)
    | none =>
      match tblGet? s.oln.mcast g with
      | none => (fail .notFound, s)
      | some x =>
        let slot := protSlot s x.ctx none
        if !mayName s c x.ctx then (fail .badContext, s)
        else if !isMessage c.input then (fail .badLength, s)
        else if s.oln.addr.isNone then (fail .undeliverable, s)
        else if !x.members.all (fun m => maySendInput s c m.1 slot.isSome) then (fail .permission, s)
        else match sealStatus s slot with
        | some e => (fail e, s)
        | none =>
          if freeTags s < x.members.length then let s := tagsExhausted s; let (n, s) := fresh s; (.done { status := .busy, hint := hintUs (Config.hint n) }, s)
          else (.wait, mcastStart oid g x c s)) s))

/-! Fabric time and parameters (R358, R361, R405) -/

/-- The offset of the master clock. -/
def masterOffset (s : State) : Int := match s.oln.master with | none => 0 | some p => (getPort s p).ptpOffset

/-- OLNEN_TIME (R358). -/
def execOlnenTime (c : Cmd) (s : State) : Host.Outcome State Fault Refusal :=
  .next (runCmd 0x0A 0x20 c (fun _ c s =>
    if !argsOnly c [] then (fail .badParameter, s)
    else match bufferCheck c s with
    | some e => (fail e, s)
    | none =>
      if c.outLen < 40 then (fail .badLength, s)
      else (.done { output := leBytes 8 (fabricTime s) ++ leBytes 8 s.oln.ptmFabric ++ leBytes 8 s.oln.ptmHost ++ leBytes 8 (toTwos 64 (masterOffset s)) ++ leBytes 1 (syncCode s.oln.sync) ++ zeros 7, space := 40 }, s)) s)

/-- The ranges of the parameters of R361 and R405. -/
def olnenRange (p v : Nat) : Bool :=
  let within := fun (lo hi : Nat) => decide (lo ≤ v ∧ v ≤ hi)
  match p with
  | 0x01 => within 1 31
  | 0x02 => within 0 65535
  | 0x03 => within 10 10000
  | 0x04 => within 0 15
  | 0x05 => within 100 100000
  | 0x06 => (List.range 8).all (fun c => decide (4 ≤ bitsOf v (8 * c) 8 ∧ bitsOf v (8 * c) 8 ≤ 224)) && decide (sumN ((List.range 8).map (fun c => bitsOf v (8 * c) 8)) ≤ 256)
  | 0x07 => within 0 127
  | 0x08 | 0x09 => within 0 255
  | 0x10 => within 20 10000
  | 0x11 => within 5 200
  | 0x12 => within 5 1000
  | 0x13 => within 100 10000
  | 0x14 => within 2 16
  | 0x15 => within 1 100
  | 0x16 => within 8 4096
  | 0x17 => within 64 16384
  | 0x18 => within 512 65536
  | 0x19 => within 1 64
  | _ => false

/-- A parameter's value once every staged change is applied. -/
def olnenNext (s : State) (p : Nat) : Nat := stagedValue s (fun ch => match ch with | .olnen k v => if k == p then some v else none | _ => none) (olnenParam s p)

/-- Whether RETRY_LIMIT × RTO_MAX_US would stay within TOMBSTONE_MS (R405). -/
def tombstonesLast (s : State) (p v : Nat) : Bool :=
  let get := fun (q : Nat) => if q == p then v else olnenNext s q
  decide (get 0x14 * get 0x13 ≤ get 0x11 * 1000)

/-- OLNEN_CONFIG (R361, R405). -/
def execOlnenConfig (c : Cmd) (s : State) : Host.Outcome State Fault Refusal :=
  .next (runCmd 0x0A 0x21 c (fun oid c s =>
    let p := argU c 32 2
    let v := argU c 40 8
    if !argsOnly c [(32, 0, 16), (40, 0, 64)] || !olnenRange p v || ([0x11, 0x13, 0x14].contains p && !tombstonesLast s p v) then (fail .badParameter, s)
    else
      let (yes, s) := judge c { unit := 0x0A, obj := 2 ^ 39 + p } (.value v) s
      if !yes then (fail .overruled, s) else stage oid c { r0 := olnenNext s p } (.olnen p v) s) s)

end Sys2Proof.Machine
end

