-- ==== Sys2Proof/Machine/Power.lean ====
section
/-! DEFINITION. Power, reset and the first second (R244, R459, R504-R510, R524, R525). -/

namespace Sys2Proof.Machine

/-! Losing power (R244, R510) -/

/-- What the boot flash and the fuses keep of the security unit (R437, R439, R460). -/
def keptSec (x : Sec) : Sec :=
  { bank0 := x.bank0, bank1 := x.bank1, running := x.running, bootBank := x.bootBank, trial := x.trial, trialStarts := x.trialStarts,
    conf := x.conf, confNext := x.confNext, securePath := x.securePath, nextGen := x.genLimit, genLimit := x.genLimit }

/-- What Peat keeps of the tier manager (R228, R235-R237), and the parameters that apply at the next start. -/
def keptTir (x : Tir) : Tir :=
  { peat := x.peat, journal := x.journal, nextSeq := x.nextSeq, nextBody := x.nextBody, nextRegion := x.nextRegion, readOnly := x.readOnly, wear := x.wear,
    groups := tblMap x.groups (fun _ g => { spareUsed := g.spareUsed }), params := tblKeep x.params (fun k _ => k == 0x0B),
    tableLog2 := x.tableLog2, glnAreaGib := x.glnAreaGib, trnAreaGib := x.trnAreaGib }

/-- What the boot flash keeps of the tally (R478, R484). -/
def keptHlt (x : Hlt) : Hlt :=
  { tally := x.tallySaved, tallySaved := x.tallySaved, strain := x.strainSaved, strainSaved := x.strainSaved, strainDay := x.strainDaySaved, strainDaySaved := x.strainDaySaved }

/-- The module board without a running start: pins, input, readings, the RTC and the management ports' records stay. -/
def keptMod (x : Mod) : Mod :=
  { rails := x.rails, pwrEn := x.pwrEn, perst := x.perst, inputUp := x.inputUp, trip := x.trip, running := false, orderly := x.orderly,
    strap := x.strap, sensors := tblMap x.sensors (fun _ y => { temp := y.temp }), fieldC := x.fieldC, flow := x.flow, inputMv := x.inputMv, inputDa := x.inputDa,
    rtc := x.rtc, mgmt := x.mgmt }

/-- The formats that sequences of the journal name return with them (R237). -/
def keptFormats (s : State) : Tbl Format := tblKeep s.kln.formats (fun k _ => s.tir.journal.any (fun j => j.2.formats.contains k))

/-- A power loss (R244): everything volatile takes its reset value. -/
def powerLost (s : State) : State :=
  { pending := s.pending, now := s.now, free := s.free, out := s.out, fuse := s.fuse,
    kln := { formats := keptFormats s },
    emb := { hardDue := s.emb.chans.foldl (fun t e => if e.2.repaired.isEmpty then t else tblMod t e.1 [] (fun l => e.2.repaired.foldl setAdd l)) s.emb.hardDue, hardUsed := s.emb.hardUsed },
    tir := keptTir s.tir,
    gln := { params := tblKeep s.gln.params (fun k _ => k == 0x03) },
    hlt := keptHlt s.hlt,
    sec := keptSec s.sec,
    oln := { params := tblKeep s.oln.params (fun k _ => k == 0x19) },
    mod := keptMod s.mod }

/-- Ends the start that runs, if one does. -/
def endStart (s : State) : State := if s.mod.running then powerLost s else s

/-- Takes the main rails down. -/
def railsDown (s : State) : State := let s := endStart s; { s with mod := { s.mod with rails := .off, sigs := none } }

/-- Raises the main rails when PWR_EN is high, the input has passed the lockout and no trip stands (R510, R517). -/
def railsUp (s : State) : State :=
  if s.mod.pwrEn && s.mod.inputUp && s.mod.trip == .none && s.mod.rails == .off then { s with mod := { s.mod with rails := .rising } } else s

/-! The start (R459, R471, R477, R510, R524) -/

/-- The start-up timeline begins, at the later of PERST# deassertion and stable rails: the boot ROM starts. -/
def beginStart (sig0 sig1 : Bool) (s : State) : State :=
  let (boot, s) := fresh s
  let (kak, s) := fresh s
  let t := s.hlt.tally
  let s := { s with
    hlt := { s.hlt with arms := [], retired := [], tally := if s.mod.orderly then t else { t with unclean := satAdd 32 t.unclean 1 } },
    tir := { s.tir with clean := s.mod.orderly, tableLog2 := tierParam s 0x0B, glnAreaGib := gleanParam s 0x03, trnAreaGib := olnenParam s 0x19 },
    trn := { s.trn with boot := Config.random boot % 2 ^ 16 },
    sdb := {},
    sec := { s.sec with kak := kak, conf := s.sec.confNext, svnStart := s.fuse.svn, revokedStart := s.fuse.revoked },
    emb := { s.emb with mem := if s.sec.confNext == s.sec.conf then s.emb.mem else [], poison := if s.sec.confNext == s.sec.conf then s.emb.poison else [] },
    mod := { s.mod with t0 := s.now, running := true, halted := false, orderly := false, sigs := none } }
  match bootSelect sig0 sig1 s with
  | (some _, s) => s
  | (none, s) => { s with mod := { s.mod with halted := true } }

/-- Whether every die sensor, of the Field and hub dies, reads at least 20 K below its trip threshold (R517). -/
def coolEnough (temps : List Nat) : Bool := (temps.take 6).all (fun t => decide (t ≤ 95))

/-- PWR_EN_RISE (R510, R517). -/
def execPwrEnRise (mv : Nat) (temps : List Nat) (s : State) : Host.Outcome State Fault Refusal :=
  let trip := if s.mod.trip == .cooling && coolEnough temps then Trip.none else s.mod.trip
  .next (railsUp { s with mod := { s.mod with pwrEn := true, inputMv := mv, trip := trip } })

/-- PWR_EN_FALL (R510, R517): the rails go down, and a latched THERM_TRIP# is released. -/
def execPwrEnFall (s : State) : Host.Outcome State Fault Refusal :=
  let s := railsDown s
  .next { s with mod := { s.mod with pwrEn := false, trip := if s.mod.trip == .latched then .cooling else s.mod.trip } }

/-- What fabric time, the calendar and the tally take from the RTC (R354, R483). -/
def loadTime (held : Bool) (s : State) : State :=
  let t := s.hlt.tally
  if held then { s with oln := { s.oln with fabOffset := s.mod.rtc }, hlt := { s.hlt with tally := { t with calendarValid := true } } }
  else
    let off := (t.lastWrite : Int) - (s.now : Int)
    raiseNode .rtcLost [] { s with oln := { s.oln with fabOffset := off }, mod := { s.mod with rtc := off }, hlt := { s.hlt with tally := { t with calendarValid := false, unsync := true } } }

/-- The rails are stable: time is loaded, the power cycle counted, powered time begins, the inlet's temperature opens the thermal cycle (R354, R480, R482, R483). -/
def railsReady (rtcHeld : Bool) (inletC : Nat) (s : State) : State :=
  let s := loadTime rtcHeld { s with mod := { s.mod with rails := .stable } }
  let t := s.hlt.tally
  let s := { s with hlt := { s.hlt with poweredFrom := s.now, tally := { t with powerCycles := satAdd 32 t.powerCycles 1, firstPowerOn := if t.powerCycles == 0 then fabricTime s else t.firstPowerOn } } }
  thermalPoint inletC s

/-- RAILS_STABLE (R354, R480, R482, R483, R510): the RTC loads fabric time, if it held it. -/
def execRailsStable (rtcHeld : Bool) (inletC : Nat) (s : State) : Host.Outcome State Fault Refusal :=
  .next (if s.mod.rails != .rising then s
  else
    let s := railsReady rtcHeld inletC s
    match s.mod.perst, s.mod.sigs with
    | false, some (a, b) => beginStart a b s
    | _, _ => s)

/-- PERST_DEASSERT (R459, R508, R510). -/
def execPerstDeassert (refclk : Bool) (sig0 sig1 : Bool) (s : State) : Host.Outcome State Fault Refusal :=
  .next (if !s.mod.perst then s
  else
    let s := { s with mod := { s.mod with perst := false, refclk := refclk } }
    if s.mod.rails == .stable then beginStart sig0 sig1 s else { s with mod := { s.mod with sigs := some (sig0, sig1) } })

/-- PERST_ASSERT (R510): the module is reset as a power cycle does, except that the input stays on. -/
def execPerstAssert (s : State) : Host.Outcome State Fault Refusal :=
  let s := endStart s
  .next { s with mod := { s.mod with perst := true, sigs := none } }

/-- INPUT_UNDERVOLTAGE (R509). -/
def execInputUndervoltage (mv : Nat) (s : State) : Host.Outcome State Fault Refusal :=
  .next (if 41000 < mv then s else let s := railsDown s; { s with mod := { s.mod with inputUp := false, inputMv := mv } })

/-- INPUT_OVERVOLTAGE (R509). -/
def execInputOvervoltage (mv : Nat) (s : State) : Host.Outcome State Fault Refusal :=
  .next (if mv ≤ 60000 then s else let s := railsDown s; { s with mod := { s.mod with inputUp := false, inputMv := mv } })

/-- POWER_LOSS (R244): the rail that holds the trip latch goes with the input. -/
def execPowerLoss (s : State) : Host.Outcome State Fault Refusal :=
  let s := railsDown s
  .next { s with mod := { s.mod with inputUp := false, inputMv := 0, inputDa := 0, trip := .none } }

/-- UNDERVOLTAGE_LOCKOUT_RELEASE (R509, R510): the input rises past 44.0 V. -/
def execUndervoltageLockoutRelease (mv : Nat) (s : State) : Host.Outcome State Fault Refusal :=
  .next (if mv < 44000 || 60000 < mv then s else railsUp { s with mod := { s.mod with inputUp := true, inputMv := mv } })

/-- FW_AUTHENTICATED (R33, R86, R459): PHASE becomes FW_RUN. -/
def execFwAuthenticated (s : State) : Host.Outcome State Fault Refusal :=
  .next (if s.cln.phase != .bootRom || !s.mod.running || s.mod.halted then s
  else
    let s := { s with cln := { s.cln with phase := .fwRun, fwAuthed := true } }
    match s.sec.fellBack with
    | none => s
    | some (b, why) => raiseNode .fwBankFallback (leBytes 1 b ++ leBytes 1 why) s)

/-- CCS_READY (R34, R524): PHASE becomes UNITS_STARTING and READY is set. -/
def execCcsReady (s : State) : Host.Outcome State Fault Refusal :=
  .next (if s.cln.phase != .fwRun then s else { s with cln := { s.cln with phase := .unitsStarting, ready := true } })

/-- Repairs for good the rows of a channel that the last start had repaired softly, while its stack has the resources (R194). -/
def hardRepair (m : Nat) (s : State) : State :=
  let used := tblGetD s.emb.hardUsed (m / 32) 0
  let due := tblGetD s.emb.hardDue m []
  let n := min due.length (Config.hardRows (m / 32) - used)
  if n == 0 then s
  else tallyAdd .channel m 5 n { s with emb := { s.emb with hardUsed := tblSet s.emb.hardUsed (m / 32) (used + n), hardDue := if n < due.length then tblSet s.emb.hardDue m (due.drop n) else tblDel s.emb.hardDue m } }

/-- The end of a channel's training (R196, R209, R473). -/
def channelTrained (failed : List Nat) (lanes : Tbl Nat) (m : Nat) (s : State) : State :=
  if (getChan s m).state != .training then s
  else
    let (fired, s) := sparkCheck 0x0505 m s
    if failed.contains m || fired.isSome then fenceChannel m 2 fired.isSome s
    else
      let n := tblGetD lanes m 0
      let s := hardRepair m (tallyAdd .channel m 6 n s)
      modChan m (fun c => { c with state := .service, spareRows := sumN ((List.range 64).map (Config.spareRows m)), lanesRepaired := n % 256 }) s

/-- The end of a retrain of a channel's interface (R196, R209, R473): one that fails fences the channel with cause 2, and the third within 10 min with cause 4. -/
def channelRetrained (failed : List Nat) (lanes : Tbl Nat) (m : Nat) (s : State) : State :=
  let c := getChan s m
  if (c.state != .service && c.state != .restricted) || !(failed.contains m || tblHas lanes m) then s
  else
    let (fired, s) := sparkCheck 0x0505 m s
    if failed.contains m || fired.isSome then fenceChannel m 2 fired.isSome s
    else
      let n := tblGetD lanes m 0
      let times := s.now :: c.retrains.filter (fun t => decide (s.now < t + 600 * sec))
      let s := modChan m (fun c => { c with lanesRepaired := min 255 (c.lanesRepaired + n), retrains := times }) (tallyAdd .channel m 6 n s)
      if 3 ≤ times.length then fenceChannel m 4 false s else s

/-- EMBER_TRAINING_DONE (R194, R196, R473). Once the start has trained the channels, it ends a retrain of the channels that it names, by failure or with their lanes remapped (log entry 65). -/
def execEmberTrainingDone (failed : List Nat) (lanesRepaired : Tbl Nat) (s : State) : Host.Outcome State Fault Refusal :=
  .next (if s.emb.trained then settleWork ((List.range (nChans s)).foldl (fun s m => channelRetrained failed lanesRepaired m s) s)
  else
    let s := (List.range (nChans s)).foldl (fun s m => channelTrained failed lanesRepaired m s) s
    { s with emb := { s.emb with trained := true } })

/-- The self-test of the cores from `n` on, at start (R107): those that fail, with whether a spark point made them. -/
def selfTests (failed : List Nat) : List Nat → State → List (Nat × Bool) × State
  | [], s => ([], s)
  | n :: t, s =>
    let (fired, s) := sparkCheck 0x0206 n s
    let (rest, s) := selfTests failed t s
    (if failed.contains n || fired.isSome then (n, fired.isSome) :: rest else rest, s)

/-- The cores that the self-test has settled: the first that pass work, the others are reserves, the failed ones are fenced (R107, R120). -/
def fieldTested (tested : List Nat) (bad : List (Nat × Bool)) (s : State) : State :=
  let pass := tested.filter (fun n => !bad.any (fun b => b.1 == n))
  let s := (pass.take (guaranteed s)).foldl (fun s n => modCore n (fun c => { c with state := .rotation }) s) s
  let s := (pass.drop (guaranteed s)).foldl (fun s n => modCore n (fun c => { c with state := .reserve }) s) s
  let s := bad.foldl (fun s b => fenceCore b.1 5 b.2 (countFault .core b.1 6 none b.2 s)) s
  checkGuarantee { s with mod := { s.mod with fieldTested := true } }

/-- FIELD_SELF_TEST_DONE (R107, R120). -/
def execFieldSelfTestDone (failed : List Nat) (s : State) : Host.Outcome State Fault Refusal :=
  .next (if s.mod.fieldTested then s
  else
    let tested := coresIn s (· == .selfTest)
    let (bad, s) := selfTests failed tested s
    fieldTested tested bad s)

/-- FULL_SERVICE (R505, R524): PHASE becomes FULL_SERVICE once every unit is in service; Peat is not waited for. -/
def execFullService (s : State) : Host.Outcome State Fault Refusal :=
  .next (if s.cln.phase == .unitsStarting && s.emb.trained && s.mod.fieldTested && s.oln.accepts then { s with cln := { s.cln with phase := .fullService } } else s)

/-- What a 32-bit configuration register of the header holds (R31, R35): the identity and the BARs, 64-bit and non-prefetchable; the rest is a free value. -/
def headerValue (s : State) (off : Nat) (open_ : Nat) : Nat :=
  match off with
  | 0x00 => 0x1F4E + 2 ^ 16 * (match s.fuse.variant with | .a => 0x5A01 | .b => 0x5A02 | .c => 0x5A03)
  | 0x08 => 0xB1 + 2 ^ 8 * 0x120000
  | 0x10 => s.cln.cfg.bar0 % 2 ^ 32 + 4
  | 0x14 => s.cln.cfg.bar0 / 2 ^ 32
  | 0x18 => s.cln.cfg.bar2 % 2 ^ 32 + 4
  | 0x1C => s.cln.cfg.bar2 / 2 ^ 32
  | 0x20 => s.cln.cfg.bar4 % 2 ^ 32 + 4
  | 0x24 => s.cln.cfg.bar4 / 2 ^ 32
  | 0x2C => 0x1F4E + 2 ^ 16 * 0x0003
  | _ => open_ % 2 ^ 32

/-- What a configuration register holds (R31, R32, R35). The places of the fields are those of PCI Express (PRESUMED, log entry 76). -/
def configValue (s : State) (reg : CfgReg) (open_ : Nat) : Nat :=
  let g := s.cln.cfg
  match reg with
  | .header off => headerValue s off open_
  | .deviceCap => 2 + 2 ^ 5 + 2 ^ 28
  | .deviceCap3 => 6
  | .deviceControl => g.devCtl
  | .powerState => 3 * b2n g.d3hot
  | .msixControl => 2047 + 2 ^ 14 * b2n g.msixMask + 2 ^ 15 * b2n g.msixEnable

/-- A base with its lower or its upper 32 bits replaced; the bits within the BAR's size read as zero, by which software finds the size (R35). -/
def baseLow (base size v : Nat) : Nat := base / 2 ^ 32 * 2 ^ 32 + v % 2 ^ 32 / size * size
def baseHigh (base v : Nat) : Nat := v % 2 ^ 32 * 2 ^ 32 + base % 2 ^ 32

/-- The configuration after a write. -/
def configSet (reg : CfgReg) (v : Nat) (g : PciCfg) : PciCfg :=
  match reg with
  | .header 0x10 => { g with bar0 := baseLow g.bar0 (2 ^ 20) v }
  | .header 0x14 => { g with bar0 := baseHigh g.bar0 v }
  | .header 0x18 => { g with bar2 := baseLow g.bar2 (2 ^ 24) v }
  | .header 0x1C => { g with bar2 := baseHigh g.bar2 v }
  | .header 0x20 => { g with bar4 := baseLow g.bar4 (2 ^ 23) v }
  | .header 0x24 => { g with bar4 := baseHigh g.bar4 v }
  | .deviceControl => { g with devCtl := v % 2 ^ 15 }
  | .powerState => { g with d3hot := v % 4 == 3 }
  | .msixControl => { g with msixMask := bitOf v 14, msixEnable := bitOf v 15 }
  | _ => g

/-- Sends the pending vectors that nothing masks any more. -/
def sendPending (s : State) : State :=
  (s.cln.pba.filter (fun v => vectorOpen v s)).foldl (fun s v => emit (.msix v) { s with cln := { s.cln with pba := setDel s.cln.pba v } }) s

/-- PCIE_CONFIG_REQUEST (R32, R33, R35, R525): a read or a write of a configuration register, answered with CRS until the firmware is authenticated. -/
def execPcieConfigRequest (reg : CfgReg) (write : Option Nat) (s : State) : Host.Outcome State Fault Refusal :=
  .next (if !s.mod.running then s
  else hostTlp (if !s.cln.fwAuthed then emit (.config true 0) s
  else match write with
  | some v => sendPending (emit (.config false 0) { s with cln := { s.cln with cfg := configSet reg v s.cln.cfg } })
  | none => let (k, s) := fresh s; emit (.config false (configValue s reg (Config.measure (match reg with | .header off => off | _ => 0) k))) s))

/-! The outputs (R504, R505) -/

/-- READY: high in FULL_SERVICE, until an orderly shutdown completes. -/
def pinReady (s : State) : Bool := s.mod.running && s.cln.phase == .fullService && !s.mod.shutdown

/-- FAULT# is low: in FAULT, while the boot ROM has halted, and while a trip is latched, when the main rails are off but the sideband supply is up. PERST# releases it (R504, R505, R517). -/
def pinFault (s : State) : Bool :=
  (s.mod.running && (s.cln.phase == .fault || s.mod.halted)) || (s.mod.inputUp && !s.mod.perst && s.mod.trip == .latched)

/-- ALERT# is low (R464): the log holds a record of severity 2 or 3 above the last SEQ acknowledged. -/
def pinAlert (s : State) : Bool :=
  s.mod.running && s.hlt.log.any (fun e => decide (2 ≤ eventSeverity e.code) && (match s.hlt.acked with | none => true | some a => e.seq != a && serialGe 32 e.seq a))

/-- THERM_TRIP# is low, whatever PERST# does. -/
def pinThermTrip (s : State) : Bool := s.mod.trip == .latched

/-- SPARE_TAKEOVER is high. -/
def pinSpareTakeover (s : State) : Bool := s.mod.running && s.oln.standIn && s.oln.addr.isSome && s.oln.tookOver

/-- ACTn is low. -/
def pinAct (n : Nat) (s : State) : Bool := s.mod.running && (tblHas s.mod.act n || (n == 2 && s.kln.items.any (fun e => e.2.placed.isSome)))

/-- ACT_TIMER_EXPIRY (R505): 50 ms after the last activity. -/
def execActTimerExpiry (n : Nat) (s : State) : Host.Outcome State Fault Refusal :=
  .next (match tblGet? s.mod.act n with
  | none => s
  | some t => if s.now < t then s else { s with mod := { s.mod with act := tblDel s.mod.act n } })

end Sys2Proof.Machine
end

