-- ==== Sys2Proof/Machine/Module.lean ====
section
/-! DEFINITION. Sensors and throttles (R509, R511, R515-R518, R533), MOD commands (R512, R521-R523), the management paths (R519, R520, R525), JTAG (R457). -/

namespace Sys2Proof.Machine

/-! Sensors (R515-R517, R533) -/

/-- The throttle, hot and trip thresholds of a sensor. The coolant sensors have no throttle and no trip. -/
def thresholds (n : Nat) : Option Nat × Nat × Option Nat :=
  if n < 4 then (some 100, 105, some 115)
  else if n < 6 then (some 105, 108, some 115)
  else if n < 18 then (some 95, 100, some 105)
  else if n == 18 then (some 110, 115, some 125)
  else if n == 19 then (some 75, 80, some 90)
  else if n == 20 then (Option.none, 40, Option.none)
  else (Option.none, 60, Option.none)

def getSensor (s : State) (n : Nat) : Sensor := tblGetD s.mod.sensors n {}

def setSensor (n : Nat) (x : Sensor) (s : State) : State := { s with mod := { s.mod with sensors := tblSet s.mod.sensors n x } }

/-- Whether a sensor acts through a supply ceiling (R533). -/
def hasCeiling (n : Nat) : Bool := n < 4 || n == 18

/-- A comparison moves the sensor's supply ceiling (R533). -/
def moveCeiling (n t thr : Nat) (s : State) : State :=
  let target := targetMv s
  let cur := min target (tblGetD s.mod.ceilings n target)
  let new := if thr < t then max 650 (cur - 10) else if t + 3 < thr then cur + 10 else cur
  { s with mod := { s.mod with ceilings := if target ≤ new then tblDel s.mod.ceilings n else tblSet s.mod.ceilings n new } }

/-- Whether a sensor's ceiling lies below the target. -/
def ceilingHeld (s : State) (n : Nat) : Bool := decide (tblGetD s.mod.ceilings n (targetMv s) < targetMv s)

/-- Whether the coolant inlet has been hot for 10 s; any other sensor needs no hold. -/
def hotHeld (n : Nat) (x : Sensor) (s : State) : Bool := n != 20 || (match x.since with | none => false | some t => decide (t + 10 * sec ≤ s.now))

/-- What a sensor does at a comparison: throttles, and raises MODULE_HOT and STACK_HOT once for a crossing (R195, R515). -/
def compareSensor (n t : Nat) (inj : Bool) (s : State) : State :=
  let (thr, hot, _) := thresholds n
  let x := getSensor s n
  let low := t + 3 ≤ thr.getD hot
  let s := match thr with | some k => if hasCeiling n then moveCeiling n t k s else s | none => s
  let throttle := match thr with
    | none => false
    | some k => if hasCeiling n then ceilingHeld s n else if k < t then true else if low then false else x.throttle
  let x := { x with temp := t, throttle := throttle, hot := x.hot && !low, stackHot := x.stackHot && !low, since := if t < hot then none else some (x.since.getD s.now) }
  let (cold, s) := if decide (6 ≤ n ∧ n ≤ 17) && throttle && !x.stackHot then (true, raiseN .stackHot inj 1 [.ctx 0] (leBytes 1 (n - 6) ++ leBytes 1 (min 255 t)) s) else (false, s)
  let x := { x with stackHot := x.stackHot || cold }
  if hot ≤ t && hotHeld n x s && !x.hot then
    raiseN .moduleHot inj 1 [.ctx 0] (leBytes 1 n ++ leBytes 1 (min 255 t)) (setSensor n { x with hot := true } s)
  else setSensor n x s

/-- The readings from sensor `n` on, with what spark points make of them (R468, R469): reading, and whether a spark point gave it. An absent sensor reads zero. -/
def readSensors (temps : List Nat) : List Nat → State → List (Nat × Nat × Bool) × State
  | [], s => ([], s)
  | n :: rest, s =>
    if sensorAbsent s n then readSensors temps rest s
    else
      let trip := ((thresholds n).2.2).getD 256
      let (a, s) := sparkCheck 0x0E01 n s
      let (b, s) := if decide (6 ≤ n ∧ n ≤ 17) then sparkCheck 0x0504 (n - 6) s else (none, s)
      let s := if a.isSome || b.isSome then countInjected s else s
      let e := match a.orElse (fun _ => b) with | some v => (n, min v (trip - 1), true) | none => (n, temps.getD n 0, false)
      let (es, s) := readSensors temps rest s
      (e :: es, s)

/-- The highest reading of the sensors `lo` to `hi`. -/
def hottestOf (es : List (Nat × Nat × Bool)) (lo hi : Nat) : Nat := maxN ((es.filter (fun e => decide (lo ≤ e.1 ∧ e.1 ≤ hi))).map (·.2.1))

/-- Records the peak temperatures; readings that a spark point gave are left out (R470, R480). -/
def notePeaks (es : List (Nat × Nat × Bool)) (s : State) : State :=
  let real := es.filter (fun e => !e.2.2)
  let t := s.hlt.tally
  { s with hlt := { s.hlt with tally := { t with peakFieldC := max t.peakFieldC (min 255 (hottestOf real 0 3)), peakHubC := max t.peakHubC (min 255 (hottestOf real 4 5)) } } }

/-- The readings are noted and compared with the thresholds, and core supply follows (R195, R515, R516, R533). -/
def takeReadings (es : List (Nat × Nat × Bool)) (flow : Nat) (sense : List Nat) (s : State) : State :=
  let s := notePeaks es { s with mod := { s.mod with flow := flow, fieldC := min 255 (hottestOf es 0 3) } }
  let s := es.foldl (fun s e => compareSensor e.1 e.2.1 e.2.2 s) s
  takeSense sense s

/-- The first reading at its trip threshold. -/
def tripReading (es : List (Nat × Nat × Bool)) : Option (Nat × Nat × Bool) := es.find? (fun e => match (thresholds e.1).2.2 with | none => false | some trip => decide (trip ≤ e.2.1))

/-- The module trips: THERMAL_TRIP, the rails go down, the latch holds (R517). -/
def tripModule (n t : Nat) (s : State) : State :=
  let s := railsDown (raiseNode .thermalTrip (leBytes 1 n ++ leBytes 1 (min 255 t)) s)
  { s with mod := { s.mod with trip := .latched } }

/-- THERMAL_SAMPLE (R195, R515-R517, R533): every 1 ms while the rails are up; `sense` is what the die sense points read then (R92); the lowest-numbered sensor at its trip threshold trips the module. -/
def execThermalSample (temps : List Nat) (flow : Nat) (sense : List Nat) (s : State) : Host.Outcome State Fault Refusal :=
  .next (if s.mod.rails != .stable || !s.mod.running then s
  else
    let (es, s) := readSensors temps (List.range 22) s
    let s := takeReadings es flow sense s
    match tripReading es with
    | none => s
    | some e => tripModule e.1 e.2.1 s)

/-! Coolant and input power (R509, R511, R518) -/

/-- COOLANT_FLOW_LOW_DETECT (R518): the flow has stayed below 90 % of the variant's minimum for 1 s. -/
def execCoolantFlowLowDetect (flow : Nat) (s : State) : Host.Outcome State Fault Refusal :=
  let (fired, s) := sparkCheck 0x0E03 0 s
  let s := if fired.isSome then countInjected s else s
  let f := fired.getD flow
  let s := { s with mod := { s.mod with flow := f } }
  .next (if (if isC s then 2250 else 3600) ≤ f then s
  else raiseLimited .coolantFlowLow fired.isSome 0 (10 * sec) [.ctx 0] (leBytes 2 (min 65535 f) ++ leBytes 1 (min 255 (getSensor s 20).temp)) s)

/-- INPUT_POWER_FAULT_DETECT (R511): the input has lain outside 46.0-56.0 V, or the current at 60 A, for 1 ms. -/
def execInputPowerFaultDetect (mv da : Nat) (s : State) : Host.Outcome State Fault Refusal :=
  let (fired, s) := sparkCheck 0x0E02 0 s
  let s := if fired.isSome then countInjected s else s
  let v := fired.getD mv
  let s := { s with mod := { s.mod with inputMv := v, inputDa := da } }
  .next (if 46000 ≤ v && v ≤ 56000 && da < 600 then s
  else raiseLimited .inputPowerFault fired.isSome 0 (10 * sec) [.ctx 0] (leBytes 2 (min 65535 v) ++ leBytes 2 (min 65535 da)) s)

/-- The input power in W. -/
def inputW (s : State) : Nat := s.mod.inputMv * s.mod.inputDa / 10000

/-- POWER_LIMITED_DETECT (R511): R28 has held core supply below its target for 100 ms. -/
def execPowerLimitedDetect (s : State) : Host.Outcome State Fault Refusal :=
  .next (match s.mod.heldSince with
  | none => s
  | some t => if s.now < t + 100 * ms then s else raiseLimited .powerLimited false 0 (10 * sec) [.ctx 0] (leBytes 2 (measuredMv s) ++ leBytes 2 (min 65535 (inputW s))) s)

/-! MOD.STATUS (R516, R523) -/

/-- A sensor's record: its reading and its state, 0 normal, 1 throttling, 2 hot. -/
def sensorRecord (s : State) (n : Nat) : List Byte :=
  let x := getSensor s n
  if sensorAbsent s n then zeros 4
  else
    let hot := decide ((thresholds n).2.1 ≤ x.temp) && hotHeld n x s
    leBytes 1 (min 255 x.temp) ++ leBytes 1 (if hot then 2 else b2n x.throttle) ++ zeros 2

/-- THERMAL_HELD: a throttle lowers core supply. -/
def thermalHeld (s : State) : Bool := s.mod.ceilings.any (fun e => decide (e.2 < targetMv s))

/-- The sensor nearest its trip threshold, the lowest-numbered of equals. -/
def nearestTrip (s : State) : Nat :=
  let l := ((List.range 20).filter (fun n => !sensorAbsent s n)).map (fun n => (n, ((thresholds n).2.2).getD 0 - (getSensor s n).temp))
  (l.foldl (fun (a : Option (Nat × Nat)) e => match a with | none => some e | some b => if e.2 < b.2 then some e else a) none).elim 0 (·.1)

/-- RESULT0 of MOD.STATUS. -/
def modResult0 (s : State) : Nat :=
  s.mod.inputMv % 2 ^ 16 + 2 ^ 16 * (s.mod.inputDa % 2 ^ 16) + 2 ^ 32 * (inputW s % 2 ^ 16) + 2 ^ 48 * b2n (thermalHeld s) + 2 ^ 49 * b2n (powerHeld s) + 2 ^ 50 * b2n s.mod.shutdown

/-- RESULT1 of MOD.STATUS. -/
def modResult1 (s : State) : Nat :=
  let h := nearestTrip s
  s.mod.flow % 2 ^ 16 + 2 ^ 16 * min 255 (getSensor s 20).temp + 2 ^ 24 * min 255 (getSensor s 21).temp + 2 ^ 32 * h + 2 ^ 40 * min 255 (getSensor s h).temp

/-- MOD_STATUS. -/
def execModStatus (c : Cmd) (s : State) : Host.Outcome State Fault Refusal :=
  .next (runCmd 0x0E 0x01 c (fun _ c s =>
    if !argsOnly c [] then (fail .badParameter, s)
    else match bufferCheck c s with
    | some e => (fail e, s)
    | none =>
      if c.outLen != 0 && c.outLen < 88 then (fail .badLength, s)
      else (.done { r0 := modResult0 s, r1 := modResult1 s, output := if c.outLen == 0 then [] else ((List.range 22).map (sensorRecord s)).flatten, space := if c.outLen == 0 then 0 else 88 }, s)) s)

/-! MOD.SHUTDOWN (R512) -/

/-- MOD_SHUTDOWN: fetching stops, and the command waits for what has been accepted. -/
def execModShutdown (c : Cmd) (s : State) : Host.Outcome State Fault Refusal :=
  .next (runCmd 0x0E 0x02 c (fun oid c s =>
    if !argsOnly c [] then (fail .badParameter, s)
    else if s.mod.stopping then (fail .badState, s)
    else (.wait, { s with mod := { s.mod with stopping := true, stopOid := some oid } })) s)

/-- Whether every accepted command but the shutdown itself has completed. -/
def allDone (s : State) : Bool :=
  s.cln.inflight.all (fun e => some e.1 == s.mod.stopOid) && s.cln.fetched.isEmpty && s.cln.done.isEmpty && s.cln.mbx.all (fun e => e.2.accepted.isEmpty)

/-- Writes a body back whole, if Peat takes it: the bytes written so far. -/
def writeBack (b : Nat) (a : Nat × State) : Nat × State :=
  let (n, s) := a
  if !peatWritable s then a
  else match (if tblHas s.tir.snaps b then some s else startWb b s) with
  | none => a
  | some s =>
    match getBody? s b, tblGet? s.tir.snaps b with
    | some x, some cp => let size := recordSize s x cp; (n + size, programDone b size s.tir.wear.peMean s.tir.wear.peMax x cp s)
    | _, _ => (n, s)

/-- Step 3: every dirty body is written back and the journal records every sequence clean; on Speon B there is nothing to do. -/
def writeAll (s : State) : Nat × State :=
  if !hasPeat s then (0, s)
  else
    let dirty := s.tir.bodies.filter (fun e => e.2.dirty && e.2.state != .lost)
    let (n, s) := dirty.foldl (fun a e => writeBack e.1 a) (0, s)
    let s := s.tir.jwait.foldl (fun s j => programRecord j.record s) { s with tir := { s.tir with jwait := [] } }
    (n, noteClean (s.tir.seqs.map (·.1)) s)

/-- Step 4: a NOTICE of kind SHUTDOWN on every flow with an operation outstanding (R401). -/
def noticeAll (s : State) : State :=
  ((s.trn.ops.map (fun e => e.2.key)).eraseDups).foldl (fun s k => sendReverse k 0 { blankFrame with typ := 4, opFlags := 1 } s) s

/-- Steps 4 to 6: the notices, the tally, and the module is shut down. -/
def endShutdown (s : State) : State :=
  let s := saveTally (noticeAll s)
  { s with mod := { s.mod with stopping := false, stopOid := none, shutdown := true, orderly := true } }

/-- SHUTDOWN_DRAINED: steps 3 to 6, and the completion. -/
def execShutdownDrained (s : State) : Host.Outcome State Fault Refusal :=
  .next (if !s.mod.stopping || !allDone s then s
  else
    let (n, t) := writeAll s
    finish (s.mod.stopOid.getD 0) { r0 := n } (endShutdown t))

/-! Management ports (R519-R521, R525) -/

/-- Whether a record changes what a port's sessions rest on: its addresses or its MCTP port. -/
def mgmtMoved (old r : List Byte) : Bool := getU old 16 16 != getU r 16 16 || getU old 36 4 != getU r 36 4 || getU old 0 6 != getU r 0 6 || getU old 12 2 != getU r 12 2

/-- A management port takes a record; where an address changes, its connection and sessions end. -/
def setMgmt (p : Nat) (r : List Byte) (s : State) : State :=
  let k := pathKey (.mgmt p)
  let t := { s with mod := { s.mod with mgmt := tblSet s.mod.mgmt p r } }
  if mgmtMoved (tblGetD s.mod.mgmt p (zeros 64)) r then { t with sec := { t.sec with conns := tblDel t.sec.conns k, sessions := tblKeep t.sec.sessions (fun _ x => x.path != k) } } else t

/-- MOD_MGMT_SET (R521). -/
def execModMgmtSet (c : Cmd) (s : State) : Host.Outcome State Fault Refusal :=
  .next (runCmd 0x0E 0x03 c (fun _ c s =>
    let p := argU c 32 1
    let r := c.input
    if !argsOnly c [(32, 0, 8)] || 1 < p then (fail .badParameter, s)
    else match bufferCheck c s with
    | some e => (fail e, s)
    | none =>
      if c.inLen != 64 then (fail .badLength, s)
      else if !ethRecordOk r || getU r 7 1 != 0 then (fail .badParameter, s)
      else
        let (yes, s) := judge c { unit := 0x0E, obj := p } (.value (leNat r)) s
        if !yes then (fail .overruled, s) else (ok, setMgmt p r s)) s)

/-- MCTP_PORT of a management port (R521). -/
def mctpPort (s : State) (p : Nat) : Nat := let v := getU (tblGetD s.mod.mgmt p []) 12 2; if v == 0 then 47100 else v

/-- The MAC address of a management port: as set, or formed from the UID (R521). In network byte order. -/
def mgmtMac (s : State) (p : Nat) : List Byte :=
  match tblGet? s.mod.mgmt p with
  | some r => r.take 6
  | none => leBytes 1 (if p == 0 then 0x02 else 0x06) ++ (leBytes 5 s.fuse.uid.toNat).reverse

/-- What an MCTP packet comes to before the firmware runs (R525): a control message is answered ERROR_NOT_READY, any other is dropped. From FW_RUN on, the message that it completes is served by the message's own row. -/
def mctpPacket (kind : MctpKind) (s : State) : State :=
  if !s.mod.running || fwRuns s || s.cln.phase == .fault || s.cln.phase == .restarting then s
  else match kind with
  | .control => emit (.mctp (leBytes 1 0x04)) s
  | _ => s

/-- MGMT_MCTP_PACKET (R519, R520, R525): a datagram that fails its checks, or whose payload is not of 64 to 1,024 bytes, is dropped. -/
def execMgmtMctpPacket (port : Nat) (checksOk : Bool) (kind : MctpKind) (len : Nat) (s : State) : Host.Outcome State Fault Refusal :=
  .next (if 1 < port || !checksOk || len < 64 || 1024 < len then s else mctpPacket kind s)

/-- SMBUS_MCTP_PACKET (R520, R525): a packet to another address, or with a wrong PEC, is not the module's. -/
def execSmbusMctpPacket (addr : Nat) (pecOk : Bool) (kind : MctpKind) (s : State) : Host.Outcome State Fault Refusal :=
  .next (if addr != 0x60 + s.mod.strap || !pecOk then s else mctpPacket kind s)

/-- MCTP_SET_ENDPOINT_ID (R520, R525). The endpoint IDs that exist and the answer's bytes are those of DMTF DSP0236 (PRESUMED; log entry 33). -/
def execMctpSetEndpointId (path : MctpPath) (eid : Nat) (s : State) : Host.Outcome State Fault Refusal :=
  .next (if !s.mod.running then s
  else if !fwRuns s then mctpPacket .control s
  else if eid < 8 || 254 < eid then emit (.mctp (leBytes 1 0x02)) s
  else emit (.mctp (leBytes 1 0 ++ leBytes 1 0 ++ leBytes 1 eid ++ leBytes 1 0)) { s with mod := { s.mod with eids := tblSet s.mod.eids (pathKey path) eid } })

/-! JTAG (R457) -/

/-- The two instructions that are answered in confidential mode: BYPASS, all ones, and IDCODE. -/
def jtagBypass : Nat := 0xFF
def jtagIdcode : Nat := 0x01

/-- JTAG_INSTRUCTION: what the data register then holds is a free value, but for BYPASS; in confidential mode no instruction but BYPASS and IDCODE is answered (log entry 34). -/
def execJtagInstruction (ir : Nat) (s : State) : Host.Outcome State Fault Refusal :=
  .next (if !s.mod.running then s
  else if ir == jtagBypass then emit (.jtag 0) s
  else if ir == jtagIdcode then emit (.jtag (BitVec.ofNat 128 (Config.measure 0x200 ir))) s
  else if s.sec.conf then s
  else let (k, s) := fresh s; emit (.jtag (BitVec.ofNat 128 (Config.measure 0x201 k))) { s with sec := { s.sec with debugSeen := true } })

end Sys2Proof.Machine
end

