-- ==== Sys2Proof/Machine/Regs.lean ====
section
/-! DEFINITION. BAR accesses (R17-R20, R35-R40, R62-R71), the register pages (R126, R209, R362), and Cloni's sweep (R72, R529). -/

namespace Sys2Proof.Machine

/-! Fields by access type. A register is its 64 bits; a mask says which of them have a type. -/

/-- The bits `lo` to `lo + n - 1`. -/
def span (lo n : Nat) : Nat := (2 ^ n - 1) * 2 ^ lo

/-- The bits of a register by access type (R17): RC, W1C, RW, and those whose description begins "Instance:" (R67). The others are RO or reserved. -/
structure Fields where
  rc   : Nat := 0
  w1c  : Nat := 0
  rw   : Nat := 0
  inst : Nat := 0
deriving DecidableEq, Repr

/-- What a register holds after a read of the bits `lanes`: RC fields are cleared and keep the update that coincides (R17, R19). -/
def afterRead (f : Fields) (v lanes coincident : Nat) : Nat := (v &&& (2 ^ 64 - 1 - (f.rc &&& lanes))) ||| (coincident &&& f.rc &&& lanes)

/-- What a register holds after a write of `d` to the bits `lanes`, while hardware sets the W1C bits `hw` (R17, R18). -/
def afterWrite (f : Fields) (v d lanes hw : Nat) : Nat :=
  let rw := f.rw &&& lanes
  let set := (v &&& (2 ^ 64 - 1 - rw)) ||| (d &&& rw)
  (set &&& (2 ^ 64 - 1 - (d &&& f.w1c &&& lanes))) ||| (hw &&& f.w1c)

/-- The bits that an access of `size` bytes at an offset reaches. -/
def lanesOf (off size : Nat) : Nat := span (8 * (off % 8)) (8 * size)

/-- Whether the size and alignment are those of R36. -/
def aligned (off size : Nat) : Bool := (size == 8 && off % 8 == 0) || (size == 4 && off % 4 == 0)

/-! Register pages -/

/-- The registers of a page by class (0 Ember channel, 1 Olnen port, 2 core) and offset. -/
def pageFields (cls off : Nat) : Option Fields :=
  match cls, off with
  | 0, 0x000 => some { inst := span 0 4 ||| span 8 16 }
  | 0, 0x008 => some { rc := span 0 32, w1c := span 32 2, inst := span 0 32 ||| span 40 8 }
  | 0, 0x010 => some { rw := span 0 7, inst := span 16 16 ||| span 32 15 }
  | 0, 0x018 => some { rc := span 16 16, rw := span 0 5, inst := span 8 24 }
  | 1, 0x000 => some { inst := span 0 64 }
  | 1, 0x008 => some { inst := span 0 64 }
  | 1, 0x010 => some { rc := span 0 64, inst := span 0 64 }
  | 1, 0x018 => some { rc := span 8 24, w1c := span 0 4, inst := span 8 24 }
  | 1, 0x020 => some { rw := span 0 1 ||| span 4 3 }
  | 1, 0x028 => some { inst := span 0 64 }
  | 2, 0x000 => some { inst := span 0 64 }
  | 2, 0x008 => some { inst := span 0 64 }
  | 2, 0x010 => some { inst := span 0 64 }
  | 2, 0x018 => some { inst := span 0 64 }
  | 2, 0x020 => some { rw := span 0 2 }
  | 2, 0x028 => some { rc := span 0 16 ||| span 32 16, w1c := span 16 2, inst := span 0 16 ||| span 32 16 }
  | _, _ => none

/-- The lowest RATE of a core in the most recent 1 s. -/
def minRate (s : State) (c : Core) : Nat :=
  ((c.rates.filter (fun r => decide (s.now < r.1 + sec))).map (·.2)).foldl min c.rate

/-- A register of a member's page, with `sh` in place of the member's own RW fields where it is given. -/
def pageGet (s : State) (cls m off : Nat) : Nat :=
  match cls with
  | 0 =>
    let c := getChan s m
    let t := (getSensor s (6 + m / 32)).temp
    match off with
    | 0x000 => chanStateCode c.state + 2 ^ 3 * b2n (decide (85 < t)) + 2 ^ 8 * min 255 t + 2 ^ 16 * (c.lanesRepaired % 256)
    | 0x008 => c.ceCount % 2 ^ 16 + 2 ^ 16 * (c.odeCe % 2 ^ 16) + 2 ^ 32 * b2n c.ue + 2 ^ 33 * b2n c.pprDone + 2 ^ 40 * min 255 c.spareRows
    | 0x010 => c.rw.scrubHours % 128 + 2 ^ 16 * (c.passes % 2 ^ 16) + 2 ^ 32 * (c.frameNow % 2 ^ 15)
    | _ => c.rw.budget % 32 + 2 ^ 8 * min 255 c.fences.length + 2 ^ 16 * (c.waits % 2 ^ 16)
  | 1 =>
    let x := getPort s m
    match off with
    | 0x000 => portStateReg x
    | 0x008 => portLanesReg x
    | 0x010 => portErrReg x
    | 0x018 => portEventsReg x
    | 0x020 => portCtrlReg x.ctrl
    | _ => portPtpReg x
  | _ =>
    let c := getCore s m
    match off with
    | 0x000 => coreStateCode c.state + 2 ^ 3 * b2n c.exclusive.isSome + 2 ^ 4 * (threadsLive s m % 16) + 2 ^ 8 * (c.cause % 256)
    | 0x008 => c.rate % 2 ^ 16 + 2 ^ 16 * (minRate s c % 2 ^ 16) + 2 ^ 32 * (c.active % 1024)
    | 0x010 => c.beats % 2 ^ 64
    | 0x018 => c.supplyMv % 4096 + 2 ^ 16 * (c.tempC % 256)
    | 0x020 => b2n c.ctrl.switchRemote + 2 * b2n c.ctrl.slowRestrict
    | _ => c.sramCe % 2 ^ 16 + 2 ^ 16 * b2n c.sramUe + 2 ^ 17 * b2n c.bounced + 2 ^ 32 * (c.bounceCount % 2 ^ 16)

/-- Sets the fields of a member's register that reads and writes change. -/
def pageSet (cls m off v : Nat) (s : State) : State :=
  match cls with
  | 0 =>
    match off with
    | 0x008 => modChan m (fun c => { c with ceCount := bitsOf v 0 16, odeCe := bitsOf v 16 16, ue := bitOf v 32, pprDone := bitOf v 33 }) s
    | 0x010 => modChan m (fun c => { c with rw := { c.rw with scrubHours := bitsOf v 0 7 } }) s
    | 0x018 => modChan m (fun c => { c with rw := { c.rw with budget := bitsOf v 0 5 }, waits := bitsOf v 16 16 }) s
    | _ => s
  | 1 =>
    match off with
    | 0x010 => modPort m (fun x => { x with cwCorrected := bitsOf v 0 32, cwUncorrected := bitsOf v 32 16, replays := bitsOf v 48 16 }) s
    | 0x018 => modPort m (fun x => { x with laneLost := bitOf v 0, retrained := bitOf v 1, linkLost := bitOf v 2, discLimited := bitOf v 3, retrainCount := bitsOf v 8 8, droppedKind := bitsOf v 16 16 }) s
    | 0x020 => modPort m (fun x => { x with ctrl := { autoRejoin := bitOf v 0, minWidth := bitsOf v 4 3 } }) s
    | _ => s
  | _ =>
    match off with
    | 0x020 => modCore m (fun c => { c with ctrl := { switchRemote := bitOf v 0, slowRestrict := bitOf v 1 } }) s
    | 0x028 => modCore m (fun c => { c with sramCe := bitsOf v 0 16, sramUe := bitOf v 16, bounced := bitOf v 17, bounceCount := bitsOf v 32 16 }) s
    | _ => s

/-- The shadow of a member out of service, as its register would read: RW fields, and zero in all others (R69). -/
def shadowGet (s : State) (cls m off : Nat) : Nat :=
  match cls, off with
  | 0, 0x010 => let c := getChan s m; (c.shadow.getD c.rw).scrubHours % 128
  | 0, 0x018 => let c := getChan s m; (c.shadow.getD c.rw).budget % 32
  | 1, 0x020 => let x := getPort s m; portCtrlReg (x.shadow.getD x.ctrl)
  | 2, 0x020 => let c := getCore s m; let k := c.shadow.getD c.ctrl; b2n k.switchRemote + 2 * b2n k.slowRestrict
  | _, _ => 0

/-- Sets the RW fields of a shadow. -/
def shadowSet (cls m off v : Nat) (s : State) : State :=
  match cls, off with
  | 0, 0x010 => modChan m (fun c => { c with shadow := some { c.shadow.getD c.rw with scrubHours := bitsOf v 0 7 } }) s
  | 0, 0x018 => modChan m (fun c => { c with shadow := some { c.shadow.getD c.rw with budget := bitsOf v 0 5 } }) s
  | 1, 0x020 => modPort m (fun x => { x with shadow := some { autoRejoin := bitOf v 0, minWidth := bitsOf v 4 3 } }) s
  | 2, 0x020 => modCore m (fun c => { c with shadow := some { switchRemote := bitOf v 0, slowRestrict := bitOf v 1 } }) s
  | _, _ => s

/-- Members of a class, over every variant (R62). -/
def classSize : Nat → Nat
  | 0 => 384
  | 1 => 16
  | _ => 72

/-- Whether a member is present in the variant and enabled by fuse (R65, R70). -/
def present (s : State) (cls m : Nat) : Bool :=
  match cls with
  | 0 => decide (m < nChans s)
  | 1 => decide (m < nPorts s)
  | _ => coreFused s m

/-- Whether a member is out of service: FENCED or in QUARANTINE (R65). -/
def outOfService (s : State) (cls m : Nat) : Bool :=
  match cls with
  | 0 => chanOut s m
  | 1 => match (getPort s m).service with | .fenced | .quarantine => true | _ => false
  | _ => match (getCore s m).state with | .fenced | .quarantine => true | _ => false

/-- A read of a member's page (R69, R70). -/
def memberRead (s : State) (cls m off : Nat) : Nat :=
  if !present s cls m then 0 else if outOfService s cls m then shadowGet s cls m off else pageGet s cls m off

/-- A write to a member's page, or by a sowing write (R66, R69, R70). -/
def memberWrite (cls off : Nat) (f : Fields) (d lanes hw m : Nat) (s : State) : State :=
  if !present s cls m then s
  else if outOfService s cls m then shadowSet cls m off (afterWrite { rw := f.rw } (shadowGet s cls m off) d lanes 0) s
  else pageSet cls m off (afterWrite f (pageGet s cls m off) d lanes hw) s

/-! BAR4 addresses (R62) -/

/-- Whose page a BAR4 offset lies in. -/
inductive Page where
  | member (m : Nat)
  | all
  | plot (p : Nat)
deriving DecidableEq, Repr

/-- Class, page and page offset of the register at a BAR4 offset; none where it is reserved. -/
def pageAt (off : Nat) : Option (Nat × Page × Nat) :=
  let cls := off / 0x200000
  let k := off % 0x200000 / 0x1000
  let o := off % 0x1000 / 8 * 8
  if 3 ≤ cls || (pageFields cls o).isNone then none
  else if k < classSize cls then some (cls, .member k, o)
  else if k == 0x1E0 then some (cls, .all, o)
  else if 0x1E8 ≤ k && k < 0x1F0 then some (cls, .plot (k - 0x1E8), o)
  else none

/-- The plots of a member (R63). -/
def plotsOf (s : State) (cls m : Nat) : Nat :=
  match cls with
  | 0 => tblGetD s.cln.plotEmb m 0
  | 1 => tblGetD s.cln.plotOln m 0
  | _ => tblGetD s.cln.plotFld m 0

/-- The members of an alias that are present and enabled (R62, R63, R65). -/
def aliasMembers (s : State) (cls : Nat) (p : Page) : List Nat :=
  (List.range (classSize cls)).filter (fun m => present s cls m && (match p with | .member k => m == k | .all => true | .plot q => bitOf (plotsOf s cls m) q))

/-- The participating members of an alias access (R65). -/
def participating (s : State) (cls : Nat) (p : Page) : List Nat := (aliasMembers s cls p).filter (fun m => !outOfService s cls m)

/-- What an access of `size` bytes at an offset reads of a register's 64 bits. -/
def part (v off size : Nat) : Word := BitVec.ofNat 64 (bitsOf v (8 * (off % 8)) (8 * size))

/-- A refused access: a read returns zero (R36). -/
def refuseAccess (bar : Bar) (off : Nat) (write : Bool) (s : State) : State :=
  let s := badAccess bar off s
  if write then s else emit (.readData 0) s

/-- ALIAS_READ (R37, R65, R67, R68). -/
def execAliasRead (off size : Nat) (s : State) : Host.Outcome State Fault Refusal :=
  let s := lightAct 0 s
  .next (hostTlp (if barsClosed s then s
  else match pageAt off with
  | some (cls, page, o) =>
    if !aligned off size then refuseAccess .b4 off false s
    else match page with
    | .member _ => s
    | _ =>
      let note := fun (w : Sow) (s : State) => { s with cln := { s.cln with sow := { w with lastClass := cls, lastOffset := off % 2 ^ 23 } } }
      match participating s cls page with
      | [] => emit (.readData 0) (note { s.cln.sow with emptyPlot := true, lastEmpty := true, lastDivergent := false, lastDiffer := 0x1FF } s)
      | m :: rest =>
        let shared := 2 ^ 64 - 1 - ((pageFields cls o).getD {}).inst
        let v := pageGet s cls m o
        let differ := rest.find? (fun k => (pageGet s cls k o ^^^ v) &&& shared != 0)
        let w := { s.cln.sow with divergent := s.cln.sow.divergent || differ.isSome, lastDivergent := differ.isSome, lastEmpty := false, lastDiffer := differ.getD 0x1FF }
        emit (.readData (part v off size)) (note w s)
  | none => refuseAccess .b4 off false s))

/-- SOWING_WRITE (R63-R66, R68, R69). -/
def execSowingWrite (off size : Nat) (v : Word) (s : State) : Host.Outcome State Fault Refusal :=
  let s := lightAct 0 s
  .next (hostTlp (if barsClosed s then s
  else match pageAt off with
  | some (cls, page, o) =>
    if !aligned off size then refuseAccess .b4 off true s
    else match page with
    | .member _ => s
    | _ =>
      let f := (pageFields cls o).getD {}
      (aliasMembers s cls page).foldl (fun s m => memberWrite cls o f (v.toNat * 2 ^ (8 * (off % 8))) (lanesOf off size) 0 m s) s
  | none => refuseAccess .b4 off true s))

/-! BAR0 registers (R35-R37, R39, R63) -/

/-- What a BAR0 offset holds. -/
inductive Reg0 where
  | cap (n : Nat) | uid (hi : Bool) | status | ctrl | heartbeat | sow | dbDrop | badAcc
  | mbx (ch off : Nat)
  | plot (cls m : Nat)
  | msix (v : Nat) (hi : Bool)
  | pba (n : Nat)
deriving DecidableEq, Repr

/-- The register of a BAR0 offset, a multiple of 8; none where it is reserved. -/
def reg0At (o : Nat) : Option Reg0 :=
  let mbxOff := fun (x : Nat) => x ≤ 0x10 || (decide (0x200 ≤ x ∧ x < 0x400))
  if o < 0x20 then some (.cap (o / 8))
  else if o == 0x20 then some (.uid false)
  else if o == 0x28 then some (.uid true)
  else if o == 0x100 then some .status
  else if o == 0x108 then some .ctrl
  else if o == 0x110 then some .heartbeat
  else if o == 0x118 then some .sow
  else if o == 0x120 then some .dbDrop
  else if o == 0x128 then some .badAcc
  else if 0x10000 ≤ o && o < 0x12000 then (if mbxOff (o % 0x400) then some (.mbx ((o - 0x10000) / 0x400) (o % 0x400)) else none)
  else if 0x14000 ≤ o && o < 0x1A000 then (if mbxOff (o % 0x400) then some (.mbx (8 + (o - 0x14000) / 0x400) (o % 0x400)) else none)
  else if 0x20000 ≤ o && o < 0x20C00 then some (.plot 0 ((o - 0x20000) / 8))
  else if 0x21000 ≤ o && o < 0x21080 then some (.plot 1 ((o - 0x21000) / 8))
  else if 0x22000 ≤ o && o < 0x22240 then some (.plot 2 ((o - 0x22000) / 8))
  else if 0x80000 ≤ o && o < 0x88000 then some (.msix ((o - 0x80000) / 16) (o % 16 == 8))
  else if 0x88000 ≤ o && o < 0x88100 then some (.pba ((o - 0x88000) / 8))
  else none

/-- The access types of a register's fields. SOFT_RESTART and CLN_MBX_IN, which are WO, act in `reg0Write`. -/
def reg0Fields : Reg0 → Fields
  | .status => { w1c := span 6 1 }
  | .ctrl => { rw := span 0 1 }
  | .sow => { w1c := span 0 2 }
  | .dbDrop => { rc := span 0 32 }
  | .badAcc => { rc := span 0 32 }
  | .mbx _ off => if off == 0x10 then { w1c := span 1 4, rw := span 5 1, rc := span 8 8 } else {}
  | .plot _ _ => { rw := span 0 8 }
  | .msix _ hi => { rw := if hi then span 0 33 else span 0 64 }
  | _ => {}

/-- HOLD_DONE (R37). -/
def holdDone (s : State) : Bool := s.cln.fetchHold && s.cln.rings.all (fun e => e.2.outstanding == 0)

/-- EMBER_ONLY (R37, R237): Peat is fitted and not mounted. Its reset value is 0; the model lets it become 1 once firmware runs (DESIGN CHOICE, log entry 77). -/
def emberOnly (s : State) : Bool := hasPeat s && s.cln.fwAuthed && !s.tir.mounted

/-- PHASE as CLN_STATUS shows it: the boot ROM's part of a start is over at a moment that the spec does not give, and PHASE reads FW_AUTH from then until FW_RUN (R37; log entry 58). -/
def phaseShown (s : State) : Nat :=
  if s.cln.phase == .bootRom && s.mod.running && !s.mod.halted && decide (s.mod.t0 + Config.bootRomNs < s.now) then phaseCode .fwAuth else phaseCode s.cln.phase

/-- OUT_PENDING (R39): replies behind the one in CLN_MBX_OUT, or behind the one that Cloni places there next. -/
def outPending (m : Mbx) : Nat := if m.outFull then m.replies.length else m.replies.length - 1

/-- A register's 64 bits. -/
def reg0Get (s : State) : Reg0 → Nat
  | .cap n => [cap0 s, cap1 s, cap2 s, cap3 s].getD n 0
  | .uid hi => if hi then s.fuse.uid.toNat / 2 ^ 64 else s.fuse.uid.toNat % 2 ^ 64
  | .status =>
    b2n s.cln.ready + 2 * phaseShown s + 2 ^ 4 * b2n s.sec.conf + 2 ^ 5 * (s.sec.running % 2) + 2 ^ 6 * b2n s.cln.lockstepFault +
      2 ^ 7 * b2n (emberOnly s) + 2 ^ 16 * (s.cln.restartCount % 2 ^ 16)
  | .ctrl => b2n s.cln.fetchHold + 2 * b2n (holdDone s)
  | .heartbeat => s.cln.heartbeat % 2 ^ 32
  | .sow =>
    let w := s.cln.sow
    b2n w.divergent + 2 * b2n w.emptyPlot + 4 * b2n w.lastDivergent + 8 * b2n w.lastEmpty + 2 ^ 16 * (w.lastDiffer % 512) + 2 ^ 25 * (w.lastClass % 4) + 2 ^ 32 * (w.lastOffset % 2 ^ 23)
  | .dbDrop => s.cln.dbDrop % 2 ^ 32
  | .badAcc => s.cln.badCount % 2 ^ 32 + 2 ^ 32 * (s.cln.badOffset % 2 ^ 24) + 2 ^ 56 * (s.cln.badBar % 8)
  | .mbx ch off =>
    let m := getMbx s ch
    if off == 0x00 then 0
    else if off == 0x08 then m.outWord.toNat
    else if off == 0x10 then
      b2n m.full + 2 * b2n m.collision + 4 * b2n m.inEmptied + 8 * b2n m.outFull + 16 * b2n m.paramReject + 32 * b2n m.irqEn + 2 ^ 8 * (m.collisions % 256) + 2 ^ 16 * (outPending m % 256)
    else if off < 0x300 then getU m.param (off - 0x200) 8
    else getU m.result (off - 0x300) 8
  | .plot cls m => plotsOf s cls m % 256
  | .msix v hi => let e := tblGetD s.cln.msix v {}; if hi then e.data % 2 ^ 32 + 2 ^ 32 * b2n e.masked else e.addr % 2 ^ 64
  | .pba n => sumN ((s.cln.pba.filter (fun v => v / 64 == n)).map (fun v => 2 ^ (v % 64)))

/-- Sets the fields of a register that reads and writes change. A vector whose mask is cleared while it is pending is sent. -/
def reg0Set (r : Reg0) (v : Nat) (s : State) : State :=
  match r with
  | .status => { s with cln := { s.cln with lockstepFault := bitOf v 6 } }
  | .ctrl => { s with cln := { s.cln with fetchHold := bitOf v 0 } }
  | .sow => { s with cln := { s.cln with sow := { s.cln.sow with divergent := bitOf v 0, emptyPlot := bitOf v 1 } } }
  | .dbDrop => { s with cln := { s.cln with dbDrop := bitsOf v 0 32 } }
  | .badAcc => { s with cln := { s.cln with badCount := bitsOf v 0 32 } }
  | .mbx ch off =>
    if off == 0x10 then
      setMbx ch { getMbx s ch with collision := bitOf v 1, inEmptied := bitOf v 2, outFull := bitOf v 3, paramReject := bitOf v 4, irqEn := bitOf v 5, collisions := bitsOf v 8 8 } s
    else s
  | .plot cls m =>
    match cls with
    | 0 => { s with cln := { s.cln with plotEmb := tblSet s.cln.plotEmb m (v % 256) } }
    | 1 => { s with cln := { s.cln with plotOln := tblSet s.cln.plotOln m (v % 256) } }
    | _ => { s with cln := { s.cln with plotFld := tblSet s.cln.plotFld m (v % 256) } }
  | .msix k hi =>
    let e := tblGetD s.cln.msix k {}
    let e' := if hi then { e with data := bitsOf v 0 32, masked := bitOf v 32 } else { e with addr := v }
    let s := { s with cln := { s.cln with msix := tblSet s.cln.msix k e' } }
    if vectorOpen k s && s.cln.pba.contains k then emit (.msix k) { s with cln := { s.cln with pba := setDel s.cln.pba k } } else s
  | _ => s

/-- Lets an access to a BAR0 register through, or refuses it: a mailbox block has the gate of R40, any other register none. -/
def reg0Gate (r : Reg0) (off : Nat) (write : Bool) (ide : IdeTag) (act : State → State) (s : State) : State :=
  match r with
  | .mbx ch o =>
    let open_ := !(isMgmt ch) && !(decide (ch < 6) && !qualifies s ide)
    let s := mbxAccess ch (o + off % 8) ide act s
    if write || open_ then s else emit (.readData 0) s
  | _ => act s

/-- A write to a BAR0 register: WO fields act, the others take what their type says. -/
def reg0Write (r : Reg0) (off size d hw : Nat) (s : State) : State :=
  match r with
  | .mbx ch o =>
    if o == 0x00 then (if size == 8 then putInWord ch (BitVec.ofNat 64 d) s else badAccess .b0 off s)
    else if 0x200 ≤ o && o < 0x300 then putParam ch (o - 0x200 + off % 8) (leBytes size d) s
    else reg0Set r (afterWrite (reg0Fields r) (reg0Get s r) (d * 2 ^ (8 * (off % 8))) (lanesOf off size) hw) s
  | .ctrl =>
    let d' := d * 2 ^ (8 * (off % 8))
    let s := reg0Set r (afterWrite (reg0Fields r) (reg0Get s r) d' (lanesOf off size) hw) s
    if bitOf (d' &&& lanesOf off size) 8 && s.cln.phase == .fault then restartCloni false false s else s
  | _ => reg0Set r (afterWrite (reg0Fields r) (reg0Get s r) (d * 2 ^ (8 * (off % 8))) (lanesOf off size) hw) s

/-- Whether a BAR0 register accepts a read: CLN_MBX_IN accepts only 64-bit writes (R36). -/
def regReads : Reg0 → Bool
  | .mbx _ off => off != 0
  | _ => true

/-- A write to a doorbell block of BAR2: ring r's block lies at r × 0x40, SQ_TAIL at its 0x00 and CQ_HEAD at its 0x08; every other offset of it is reserved (R36, R55). -/
def doorbellWrite (off v : Nat) (s : State) : State :=
  if off % 0x40 == 0x00 then writeSqTail (off / 0x40) v s
  else if off % 0x40 == 0x08 then writeCqHead (off / 0x40) v s
  else refuseAccess .b2 off true s

/-- RC_READ (R17, R19, R36, R40, R69, R70): a read of a register. Only RC fields change, and keep the update `coincident` that hardware makes in the same cycle. DESIGN CHOICE, log entry 74: an access to a block of MBX_S0 to MBX_S5 that does not qualify (R40) and that R36 refuses too, as reserved or misaligned, is refused by R36 alone, without SECURE_ACCESS_DENIED; so is a write. -/
def execRcRead (bar : Bar) (off size : Nat) (coincident : Word) (ide : IdeTag) (s : State) : Host.Outcome State Fault Refusal :=
  let s := lightAct 0 s
  let lanes := lanesOf off size
  .next (hostTlp (if barsClosed s then s
  else if !aligned off size then refuseAccess bar off false s
  else match bar with
  | .b0 =>
    match reg0At (off / 8 * 8) with
    | none => refuseAccess .b0 off false s
    | some r =>
      reg0Gate r off false ide (fun s =>
        if !regReads r then refuseAccess .b0 off false s else
        let v := reg0Get s r
        emit (.readData (part v off size)) (reg0Set r (afterRead (reg0Fields r) v lanes coincident.toNat) s)) s
  | .b2 => refuseAccess .b2 off false s
  | .b4 =>
    match pageAt off with
    | some (cls, .member m, o) =>
      let v := memberRead s cls m o
      let f := (pageFields cls o).getD {}
      let s := emit (.readData (part v off size)) s
      if f.rc == 0 || !present s cls m || outOfService s cls m then s else pageSet cls m o (afterRead f v lanes coincident.toNat) s
    | some _ => s
    | none => refuseAccess .b4 off false s))

/-- REGISTER_WRITE (R17, R18, R20, R36, R40, R63, R69, R70): `hwSet` are the W1C bits that hardware sets in the same cycle. -/
def execRegisterWrite (bar : Bar) (off size : Nat) (v : Word) (hwSet : Word) (ide : IdeTag) (s : State) : Host.Outcome State Fault Refusal :=
  let s := lightAct 0 s
  .next (hostTlp (if barsClosed s then s
  else if !aligned off size then refuseAccess bar off true s
  else match bar with
  | .b0 =>
    match reg0At (off / 8 * 8) with
    | none => refuseAccess .b0 off true s
    | some r => reg0Gate r off true ide (reg0Write r off size (v.toNat % 2 ^ (8 * size)) hwSet.toNat) s
  | .b2 => if size == 4 then doorbellWrite off (v.toNat % 2 ^ 32) s else refuseAccess .b2 off true s
  | .b4 =>
    match pageAt off with
    | some (cls, .member m, o) => memberWrite cls o ((pageFields cls o).getD {}) (v.toNat * 2 ^ (8 * (off % 8))) (lanesOf off size) hwSet.toNat m s
    | some _ => s
    | none => refuseAccess .b4 off true s))

/-- MALFORMED_BAR_ACCESS (R36). -/
def execMalformedBarAccess (bar : Bar) (off : Nat) (write : Bool) (s : State) : Host.Outcome State Fault Refusal :=
  let s := lightAct 0 s
  .next (hostTlp (if barsClosed s then s else refuseAccess bar off write s))

/-! Cloni's sweep (R72, R529) -/

/-- A change takes hold. -/
def applyChange (c : Change) (s : State) : State :=
  match c with
  | .seed p v => { s with sdb := { s.sdb with params := tblSet s.sdb.params p v } }
  | .glean p v => startMerges { s with gln := { s.gln with params := tblSet s.gln.params p v } }
  | .olnen p v => { s with oln := { s.oln with params := tblSet s.oln.params p v } }
  | .health p v => { s with hlt := { s.hlt with params := tblSet s.hlt.params p v } }
  | .kilnAdmit n l => { s with kln := { s.kln with itemSlots := n, backlogLimit := l } }
  | .nothing => s

/-- CLONI_SWEEP (R72, R529): staged changes take hold and complete; then the words of the secure channels are accepted, then those of the non-secure ones. The ring descriptors that DESCRIPTOR_FETCH takes from then on are this sweep's. -/
def execCloniSweep (s : State) : Host.Outcome State Fault Refusal :=
  .next (if !fwRuns s then s
  else
    let waiting := s.cln.staged
    let s := { s with cln := { s.cln with staged := [], sweepFetched := 0 } }
    let s := waiting.foldl (fun s g => applyChange g.change s) s
    let s := waiting.foldl (fun s g => finish g.oid g.done s) s
    (List.range 32).foldl (fun s ch => acceptWord ch s) s)

end Sys2Proof.Machine
end

