-- ==== Sys2Proof/Machine/Dispatch.lean ====
section
/-! DEFINITION. The effect of each command on everything but the queue: one arm for each row of the opcode table. -/

namespace Sys2Proof.Machine

def exec (i : Instr) (s : State) : Host.Outcome State Fault Refusal :=
  match i with
  | .pwrEnRise mv temps => Sys2Proof.Machine.execPwrEnRise mv temps s
  | .pwrEnFall => Sys2Proof.Machine.execPwrEnFall s
  | .railsStable rtcHeld inletC => Sys2Proof.Machine.execRailsStable rtcHeld inletC s
  | .perstDeassert refclk sig0 sig1 => Sys2Proof.Machine.execPerstDeassert refclk sig0 sig1 s
  | .perstAssert => Sys2Proof.Machine.execPerstAssert s
  | .inputUndervoltage mv => Sys2Proof.Machine.execInputUndervoltage mv s
  | .inputOvervoltage mv => Sys2Proof.Machine.execInputOvervoltage mv s
  | .powerLoss => Sys2Proof.Machine.execPowerLoss s
  | .fwAuthenticated => Sys2Proof.Machine.execFwAuthenticated s
  | .ccsReady => Sys2Proof.Machine.execCcsReady s
  | .emberTrainingDone failed lanesRepaired => Sys2Proof.Machine.execEmberTrainingDone failed lanesRepaired s
  | .fieldSelfTestDone failed => Sys2Proof.Machine.execFieldSelfTestDone failed s
  | .peatMountDone => Sys2Proof.Machine.execPeatMountDone s
  | .discoveryAccept => Sys2Proof.Machine.execDiscoveryAccept s
  | .fullService => Sys2Proof.Machine.execFullService s
  | .pcieConfigRequest reg write => Sys2Proof.Machine.execPcieConfigRequest reg write s
  | .functionLevelReset => Sys2Proof.Machine.execFunctionLevelReset s
  | .mbxInWrite ch word ide => Sys2Proof.Machine.execMbxInWrite ch word ide s
  | .paramWrite ch off bytes ide => Sys2Proof.Machine.execParamWrite ch off bytes ide s
  | .mbxOutRelease ch ide => Sys2Proof.Machine.execMbxOutRelease ch ide s
  | .mctpMbxRequest eid kind channel param word => Sys2Proof.Machine.execMctpMbxRequest eid kind channel param word s
  | .mbxAccept ch => Sys2Proof.Machine.execMbxAccept ch s
  | .mbxReplyPost ch => Sys2Proof.Machine.execMbxReplyPost ch s
  | .fetchHoldWrite v => Sys2Proof.Machine.execFetchHoldWrite v s
  | .softRestart => Sys2Proof.Machine.execSoftRestart s
  | .heartbeatTick => Sys2Proof.Machine.execHeartbeatTick s
  | .aliasRead off size => Sys2Proof.Machine.execAliasRead off size s
  | .sowingWrite off size v => Sys2Proof.Machine.execSowingWrite off size v s
  | .rcRead bar off size coincident ide => Sys2Proof.Machine.execRcRead bar off size coincident ide s
  | .registerWrite bar off size v hwSet ide => Sys2Proof.Machine.execRegisterWrite bar off size v hwSet ide s
  | .malformedBarAccess bar off write => Sys2Proof.Machine.execMalformedBarAccess bar off write s
  | .dbSqTailWrite ring value => Sys2Proof.Machine.execDbSqTailWrite ring value s
  | .dbCqHeadWrite ring value => Sys2Proof.Machine.execDbCqHeadWrite ring value s
  | .cloniSweep => Sys2Proof.Machine.execCloniSweep s
  | .descriptorFetch ring passed desc input => Sys2Proof.Machine.execDescriptorFetch ring passed desc input s
  | .commandComplete ring cid => Sys2Proof.Machine.execCommandComplete ring cid s
  | .ringCoalTimeout ring => Sys2Proof.Machine.execRingCoalTimeout ring s
  | .ringDmaFailure ring write cid cqWritable => Sys2Proof.Machine.execRingDmaFailure ring write cid cqWritable s
  | .lockstepMismatch => Sys2Proof.Machine.execLockstepMismatch s
  | .cloniRestartDone => Sys2Proof.Machine.execCloniRestartDone s
  | .capQuery ch => Sys2Proof.Machine.execCapQuery ch s
  | .clnEcho ch => Sys2Proof.Machine.execClnEcho ch s
  | .ringCreate ch => Sys2Proof.Machine.execRingCreate ch s
  | .ringDestroy ch => Sys2Proof.Machine.execRingDestroy ch s
  | .ringReset ch => Sys2Proof.Machine.execRingReset ch s
  | .ringQuery ch => Sys2Proof.Machine.execRingQuery ch s
  | .eventQueueCreate ch => Sys2Proof.Machine.execEventQueueCreate ch s
  | .eventQueueDestroy ch => Sys2Proof.Machine.execEventQueueDestroy ch s
  | .ccsIndirect ch input => Sys2Proof.Machine.execCcsIndirect ch input s
  | .rateUpdate readings => Sys2Proof.Machine.execRateUpdate readings s
  | .powerHoldAdjust mv da askMv sense => Sys2Proof.Machine.execPowerHoldAdjust mv da askMv sense s
  | .fieldStatus c => Sys2Proof.Machine.execFieldStatus c s
  | .fieldSupply c => Sys2Proof.Machine.execFieldSupply c s
  | .fieldFence c => Sys2Proof.Machine.execFieldFence c s
  | .fieldRestrict c => Sys2Proof.Machine.execFieldRestrict c s
  | .fieldEnable c => Sys2Proof.Machine.execFieldEnable c s
  | .fieldLoad c => Sys2Proof.Machine.execFieldLoad c s
  | .fieldRun c => Sys2Proof.Machine.execFieldRun c s
  | .fieldStop c => Sys2Proof.Machine.execFieldStop c s
  | .fieldRunEnd ring cid reg1 poisoned => Sys2Proof.Machine.execFieldRunEnd ring cid reg1 poisoned s
  | .rankRestart ring cid rank => Sys2Proof.Machine.execRankRestart ring cid rank s
  | .itemPlace => Sys2Proof.Machine.execItemPlace s
  | .itemCommit item beats => Sys2Proof.Machine.execItemCommit item beats s
  | .reserveJoin => Sys2Proof.Machine.execReserveJoin s
  | .meshSend core thread dstCore dstThread tag payload => Sys2Proof.Machine.execMeshSend core thread dstCore dstThread tag payload s
  | .meshDeliver core thread dstCore dstThread => Sys2Proof.Machine.execMeshDeliver core thread dstCore dstThread s
  | .meshResend core thread dstCore dstThread => Sys2Proof.Machine.execMeshResend core thread dstCore dstThread s
  | .meshFlitError core => Sys2Proof.Machine.execMeshFlitError core s
  | .sramError core double word thread => Sys2Proof.Machine.execSramError core double word thread s
  | .coreStallDetect core => Sys2Proof.Machine.execCoreStallDetect core s
  | .paceLowDetect core => Sys2Proof.Machine.execPaceLowDetect core s
  | .coreSlowDetect core => Sys2Proof.Machine.execCoreSlowDetect core s
  | .reserveSelfTest core => Sys2Proof.Machine.execReserveSelfTest core s
  | .reserveTestDone core pass => Sys2Proof.Machine.execReserveTestDone core pass s
  | .kilnAttend c => Sys2Proof.Machine.execKilnAttend c s
  | .kilnRopeSet c => Sys2Proof.Machine.execKilnRopeSet c s
  | .kilnRopeClear c => Sys2Proof.Machine.execKilnRopeClear c s
  | .kilnAdmitSet c => Sys2Proof.Machine.execKilnAdmitSet c s
  | .kilnStatus c => Sys2Proof.Machine.execKilnStatus c s
  | .residencyTimeout item => Sys2Proof.Machine.execResidencyTimeout item s
  | .sheafFormat c => Sys2Proof.Machine.execSheafFormat c s
  | .sheafFormatDrop c => Sys2Proof.Machine.execSheafFormatDrop c s
  | .sheafAppend c => Sys2Proof.Machine.execSheafAppend c s
  | .sheafRead c => Sys2Proof.Machine.execSheafRead c s
  | .emberAccess eda write data poisoned reports => Sys2Proof.Machine.execEmberAccess eda write data poisoned reports s
  | .emberLineError eda uncorrectable scrub => Sys2Proof.Machine.execEmberLineError eda uncorrectable scrub s
  | .scrubStep chan corrected uncorrectable => Sys2Proof.Machine.execScrubStep chan corrected uncorrectable s
  | .ploughFill c => Sys2Proof.Machine.execPloughFill c s
  | .ploughCopy c => Sys2Proof.Machine.execPloughCopy c s
  | .ploughLogic c => Sys2Proof.Machine.execPloughLogic c s
  | .ploughFenceInstall op chan => Sys2Proof.Machine.execPloughFenceInstall op chan s
  | .ploughRowStep op chan => Sys2Proof.Machine.execPloughRowStep op chan s
  | .ploughComplete op => Sys2Proof.Machine.execPloughComplete op s
  | .tierSeqCreate c => Sys2Proof.Machine.execTierSeqCreate c s
  | .tierSeqFork c => Sys2Proof.Machine.execTierSeqFork c s
  | .tierSeqDestroy c => Sys2Proof.Machine.execTierSeqDestroy c s
  | .tierSeqTruncate c => Sys2Proof.Machine.execTierSeqTruncate c s
  | .tierRemap c => Sys2Proof.Machine.execTierRemap c s
  | .tierQuery c => Sys2Proof.Machine.execTierQuery c s
  | .tierPin c => Sys2Proof.Machine.execTierPin c s
  | .tierUnpin c => Sys2Proof.Machine.execTierUnpin c s
  | .tierFlush c => Sys2Proof.Machine.execTierFlush c s
  | .tierRegionAlloc c => Sys2Proof.Machine.execTierRegionAlloc c s
  | .tierRegionFree c => Sys2Proof.Machine.execTierRegionFree c s
  | .tierConfig c => Sys2Proof.Machine.execTierConfig c s
  | .tierStatus c => Sys2Proof.Machine.execTierStatus c s
  | .tierWear c => Sys2Proof.Machine.execTierWear c s
  | .tierLossList c => Sys2Proof.Machine.execTierLossList c s
  | .tierLend c => Sys2Proof.Machine.execTierLend c s
  | .tierReclaim c => Sys2Proof.Machine.execTierReclaim c s
  | .tierBorrow c => Sys2Proof.Machine.execTierBorrow c s
  | .tierReturn c => Sys2Proof.Machine.execTierReturn c s
  | .epochBoundary => Sys2Proof.Machine.execEpochBoundary s
  | .tailIdleExpiry body => Sys2Proof.Machine.execTailIdleExpiry body s
  | .writebackStart => Sys2Proof.Machine.execWritebackStart s
  | .writebackDone body nandBytes peMean peMax => Sys2Proof.Machine.execWritebackDone body nandBytes peMean peMax s
  | .journalRecordDone => Sys2Proof.Machine.execJournalRecordDone s
  | .evictionPass => Sys2Proof.Machine.execEvictionPass s
  | .evictionCommit body => Sys2Proof.Machine.execEvictionCommit body s
  | .allocationResume => Sys2Proof.Machine.execAllocationResume s
  | .fetchStart => Sys2Proof.Machine.execFetchStart s
  | .fetchDone body retry => Sys2Proof.Machine.execFetchDone body retry s
  | .peatProgramFail body => Sys2Proof.Machine.execPeatProgramFail body s
  | .peatControllerTimeout group => Sys2Proof.Machine.execPeatControllerTimeout group s
  | .reclaimNoticeExpiry comp => Sys2Proof.Machine.execReclaimNoticeExpiry comp s
  | .orphanExpiry comp => Sys2Proof.Machine.execOrphanExpiry comp s
  | .allotmentZeroed allot => Sys2Proof.Machine.execAllotmentZeroed allot s
  | .compositionDrained comp => Sys2Proof.Machine.execCompositionDrained comp s
  | .charcoalCompress c => Sys2Proof.Machine.execCharcoalCompress c s
  | .charcoalDecompress c => Sys2Proof.Machine.execCharcoalDecompress c s
  | .charcoalStatus c => Sys2Proof.Machine.execCharcoalStatus c s
  | .seedLookup c => Sys2Proof.Machine.execSeedLookup c s
  | .seedSearch flips => Sys2Proof.Machine.execSeedSearch flips s
  | .seedStep c => Sys2Proof.Machine.execSeedStep c s
  | .seedCensus c => Sys2Proof.Machine.execSeedCensus c s
  | .seedInsert c => Sys2Proof.Machine.execSeedInsert c s
  | .insertCommit bank => Sys2Proof.Machine.execInsertCommit bank s
  | .seedDelete c => Sys2Proof.Machine.execSeedDelete c s
  | .seedPost c => Sys2Proof.Machine.execSeedPost c s
  | .seedExport c => Sys2Proof.Machine.execSeedExport c s
  | .seedBankSet c => Sys2Proof.Machine.execSeedBankSet c s
  | .seedConfig c => Sys2Proof.Machine.execSeedConfig c s
  | .seedStatus c => Sys2Proof.Machine.execSeedStatus c s
  | .ageTick => Sys2Proof.Machine.execAgeTick s
  | .evictionEngineCommit => Sys2Proof.Machine.execEvictionEngineCommit s
  | .cursorIdleExpiry cursor => Sys2Proof.Machine.execCursorIdleExpiry cursor s
  | .seedRateUpdate hd1C => Sys2Proof.Machine.execSeedRateUpdate hd1C s
  | .shadowCompare bank unit flip shadowBad => Sys2Proof.Machine.execShadowCompare bank unit flip shadowBad s
  | .gleanSwathCreate c => Sys2Proof.Machine.execGleanSwathCreate c s
  | .gleanSwathDrop c => Sys2Proof.Machine.execGleanSwathDrop c s
  | .gleanBind c => Sys2Proof.Machine.execGleanBind c s
  | .gleanSearch c => Sys2Proof.Machine.execGleanSearch c s
  | .gleanBitmap c => Sys2Proof.Machine.execGleanBitmap c s
  | .gleanMerge c => Sys2Proof.Machine.execGleanMerge c s
  | .gleanConfig c => Sys2Proof.Machine.execGleanConfig c s
  | .gleanStatus c => Sys2Proof.Machine.execGleanStatus c s
  | .listVisitStart swath list => Sys2Proof.Machine.execListVisitStart swath list s
  | .gleanSearchDone search => Sys2Proof.Machine.execGleanSearchDone search s
  | .postingDequeue => Sys2Proof.Machine.execPostingDequeue s
  | .staleRepost => Sys2Proof.Machine.execStaleRepost s
  | .mergeDone swath => Sys2Proof.Machine.execMergeDone swath s
  | .linkDataReceive port f => Sys2Proof.Machine.execLinkDataReceive port f s
  | .linkAckReceive port ackSeq => Sys2Proof.Machine.execLinkAckReceive port ackSeq s
  | .linkNakReceive port ackSeq => Sys2Proof.Machine.execLinkNakReceive port ackSeq s
  | .linkCreditReceive port cls units => Sys2Proof.Machine.execLinkCreditReceive port cls units s
  | .controlRetrain port width token lanes uid => Sys2Proof.Machine.execControlRetrain port width token lanes uid s
  | .controlResize port width token lanes uid => Sys2Proof.Machine.execControlResize port width token lanes uid s
  | .controlLaneLost port lanes => Sys2Proof.Machine.execControlLaneLost port lanes s
  | .controlAccept port width token lanes => Sys2Proof.Machine.execControlAccept port width token lanes s
  | .controlGo port width token lanes => Sys2Proof.Machine.execControlGo port width token lanes s
  | .controlCreditInit port credits => Sys2Proof.Machine.execControlCreditInit port credits s
  | .notReadyReceive port backoffUs reason => Sys2Proof.Machine.execNotReadyReceive port backoffUs reason s
  | .timeFrameReceive port domain m => Sys2Proof.Machine.execTimeFrameReceive port domain m s
  | .helloReceive port d => Sys2Proof.Machine.execHelloReceive port d s
  | .queryReceive port d => Sys2Proof.Machine.execQueryReceive port d s
  | .replyReceive port d => Sys2Proof.Machine.execReplyReceive port d s
  | .claimReceive port hops d => Sys2Proof.Machine.execClaimReceive port hops d s
  | .linkReplayTimeout port => Sys2Proof.Machine.execLinkReplayTimeout port s
  | .linkAckTimer port => Sys2Proof.Machine.execLinkAckTimer port s
  | .signalDetect port => Sys2Proof.Machine.execSignalDetect port s
  | .linkTrainingDone port ok lanes otherMode => Sys2Proof.Machine.execLinkTrainingDone port ok lanes otherMode s
  | .trainingBackoffExpiry port => Sys2Proof.Machine.execTrainingBackoffExpiry port s
  | .retrainDone port => Sys2Proof.Machine.execRetrainDone port s
  | .resizeDone port => Sys2Proof.Machine.execResizeDone port s
  | .laneLoss port lane cause => Sys2Proof.Machine.execLaneLoss port lane cause s
  | .laneBerSample port lane aboveThreshold berTenths cwCorrected cwUncorrected => Sys2Proof.Machine.execLaneBerSample port lane aboveThreshold berTenths cwCorrected cwUncorrected s
  | .laneRejoinTimer port lane => Sys2Proof.Machine.execLaneRejoinTimer port lane s
  | .laneQuarantineDone port lane pass step => Sys2Proof.Machine.execLaneQuarantineDone port lane pass step s
  | .helloTimer port => Sys2Proof.Machine.execHelloTimer port s
  | .addrEffective => Sys2Proof.Machine.execAddrEffective s
  | .routeSwap => Sys2Proof.Machine.execRouteSwap s
  | .mcastDeadline mcast => Sys2Proof.Machine.execMcastDeadline mcast s
  | .mcastRetry mcast => Sys2Proof.Machine.execMcastRetry mcast s
  | .ptpSyncTimer port => Sys2Proof.Machine.execPtpSyncTimer port s
  | .syncHoldoverTimeout port => Sys2Proof.Machine.execSyncHoldoverTimeout port s
  | .ptmExchange host => Sys2Proof.Machine.execPtmExchange host s
  | .ethFrameReceive port f => Sys2Proof.Machine.execEthFrameReceive port f s
  | .pfcFrameReceive port cls pause => Sys2Proof.Machine.execPfcFrameReceive port cls pause s
  | .discoverTimeout queryId => Sys2Proof.Machine.execDiscoverTimeout queryId s
  | .olnenStatus c => Sys2Proof.Machine.execOlnenStatus c s
  | .olnenPortMode c => Sys2Proof.Machine.execOlnenPortMode c s
  | .olnenRetrain c => Sys2Proof.Machine.execOlnenRetrain c s
  | .olnenWidth c => Sys2Proof.Machine.execOlnenWidth c s
  | .olnenFence c => Sys2Proof.Machine.execOlnenFence c s
  | .olnenRestrict c => Sys2Proof.Machine.execOlnenRestrict c s
  | .olnenEnable c => Sys2Proof.Machine.execOlnenEnable c s
  | .olnenAddrSet c => Sys2Proof.Machine.execOlnenAddrSet c s
  | .olnenDiscover c => Sys2Proof.Machine.execOlnenDiscover c s
  | .olnenRouteSet c => Sys2Proof.Machine.execOlnenRouteSet c s
  | .olnenRouteGet c => Sys2Proof.Machine.execOlnenRouteGet c s
  | .olnenMcastGroup c => Sys2Proof.Machine.execOlnenMcastGroup c s
  | .olnenMcast c => Sys2Proof.Machine.execOlnenMcast c s
  | .olnenTime c => Sys2Proof.Machine.execOlnenTime c s
  | .olnenConfig c => Sys2Proof.Machine.execOlnenConfig c s
  | .transportAckReceive f => Sys2Proof.Machine.execTransportAckReceive f s
  | .nackGap f => Sys2Proof.Machine.execNackGap f s
  | .nackResync f => Sys2Proof.Machine.execNackResync f s
  | .nackBusy f => Sys2Proof.Machine.execNackBusy f s
  | .nackNoSlot f => Sys2Proof.Machine.execNackNoSlot f s
  | .nackNotHolder f => Sys2Proof.Machine.execNackNotHolder f s
  | .noticeShutdown f => Sys2Proof.Machine.execNoticeShutdown f s
  | .noticeStookList f => Sys2Proof.Machine.execNoticeStookList f s
  | .opLoad f => Sys2Proof.Machine.execOpLoad f s
  | .opStore f => Sys2Proof.Machine.execOpStore f s
  | .opAtomic f => Sys2Proof.Machine.execOpAtomic f s
  | .opCounterAdd f => Sys2Proof.Machine.execOpCounterAdd f s
  | .opCoreMsg f => Sys2Proof.Machine.execOpCoreMsg f s
  | .opCommand f => Sys2Proof.Machine.execOpCommand f s
  | .loadData f => Sys2Proof.Machine.execLoadData f s
  | .atomicOld f => Sys2Proof.Machine.execAtomicOld f s
  | .opFault f => Sys2Proof.Machine.execOpFault f s
  | .commandDoneMsg f => Sys2Proof.Machine.execCommandDoneMsg f s
  | .fallowBorrow f => Sys2Proof.Machine.execFallowBorrow f s
  | .fallowGrant f => Sys2Proof.Machine.execFallowGrant f s
  | .fallowRefuse f => Sys2Proof.Machine.execFallowRefuse f s
  | .fallowReclaimNotice f => Sys2Proof.Machine.execFallowReclaimNotice f s
  | .fallowReturn f => Sys2Proof.Machine.execFallowReturn f s
  | .fallowReleased f => Sys2Proof.Machine.execFallowReleased f s
  | .fallowProbe f => Sys2Proof.Machine.execFallowProbe f s
  | .fallowProbeTimer holding => Sys2Proof.Machine.execFallowProbeTimer holding s
  | .cohGetS f => Sys2Proof.Machine.execCohGetS f s
  | .cohGetM f => Sys2Proof.Machine.execCohGetM f s
  | .cohPutM f => Sys2Proof.Machine.execCohPutM f s
  | .cohRecall f => Sys2Proof.Machine.execCohRecall f s
  | .cohInv f => Sys2Proof.Machine.execCohInv f s
  | .cohInvAck f => Sys2Proof.Machine.execCohInvAck f s
  | .cohData f => Sys2Proof.Machine.execCohData f s
  | .rtoTimeout ctx node rctx => Sys2Proof.Machine.execRtoTimeout ctx node rctx s
  | .transportAckTimer ctx node rctx => Sys2Proof.Machine.execTransportAckTimer ctx node rctx s
  | .slotRecycle ctx node rctx => Sys2Proof.Machine.execSlotRecycle ctx node rctx s
  | .tombstoneExpiry ctx node rctx => Sys2Proof.Machine.execTombstoneExpiry ctx node rctx s
  | .flagSend tag => Sys2Proof.Machine.execFlagSend tag s
  | .remoteCommandAccept ctx passed => Sys2Proof.Machine.execRemoteCommandAccept ctx passed s
  | .fieldRemoteAccess core thread node rctx job window offset kind operand swap coherent => Sys2Proof.Machine.execFieldRemoteAccess core thread node rctx job window offset kind operand swap coherent s
  | .olnenRemote c => Sys2Proof.Machine.execOlnenRemote c s
  | .olnenPut c => Sys2Proof.Machine.execOlnenPut c s
  | .olnenGet c => Sys2Proof.Machine.execOlnenGet c s
  | .olnenAtomic c => Sys2Proof.Machine.execOlnenAtomic c s
  | .olnenFlag c => Sys2Proof.Machine.execOlnenFlag c s
  | .olnenMsg c => Sys2Proof.Machine.execOlnenMsg c s
  | .olnenJobSet c => Sys2Proof.Machine.execOlnenJobSet c s
  | .olnenWindowOpen c => Sys2Proof.Machine.execOlnenWindowOpen c s
  | .olnenWindowClose c => Sys2Proof.Machine.execOlnenWindowClose c s
  | .olnenCounterAlloc c => Sys2Proof.Machine.execOlnenCounterAlloc c s
  | .olnenCounterWait c => Sys2Proof.Machine.execOlnenCounterWait c s
  | .counterWaitTimeout ring cid => Sys2Proof.Machine.execCounterWaitTimeout ring cid s
  | .olnenStookSet c => Sys2Proof.Machine.execOlnenStookSet c s
  | .olnenFlowStatus c => Sys2Proof.Machine.execOlnenFlowStatus c s
  | .portTransmitPick port => Sys2Proof.Machine.execPortTransmitPick port s
  | .wheelSlotRelease inst => Sys2Proof.Machine.execWheelSlotRelease inst s
  | .rotationEntryEnd inst => Sys2Proof.Machine.execRotationEntryEnd inst s
  | .rotationTakeover inst => Sys2Proof.Machine.execRotationTakeover inst s
  | .rotationStopAt inst => Sys2Proof.Machine.execRotationStopAt inst s
  | .headlandStatus c => Sys2Proof.Machine.execHeadlandStatus c s
  | .headlandClassSet c => Sys2Proof.Machine.execHeadlandClassSet c s
  | .headlandQueueSet c => Sys2Proof.Machine.execHeadlandQueueSet c s
  | .headlandRotation c => Sys2Proof.Machine.execHeadlandRotation c s
  | .headlandRotationStop c => Sys2Proof.Machine.execHeadlandRotationStop c s
  | .contextCreate c => Sys2Proof.Machine.execContextCreate c s
  | .contextDestroy c => Sys2Proof.Machine.execContextDestroy c s
  | .contextPark c => Sys2Proof.Machine.execContextPark c s
  | .contextReside c => Sys2Proof.Machine.execContextReside c s
  | .contextQuery c => Sys2Proof.Machine.execContextQuery c s
  | .keyLoad c unwrapped => Sys2Proof.Machine.execKeyLoad c unwrapped s
  | .keyErase c => Sys2Proof.Machine.execKeyErase c s
  | .keyQuery c => Sys2Proof.Machine.execKeyQuery c s
  | .keyBindJob c => Sys2Proof.Machine.execKeyBindJob c s
  | .keyShadowDiscard slot => Sys2Proof.Machine.execKeyShadowDiscard slot s
  | .secConfig c => Sys2Proof.Machine.execSecConfig c s
  | .fwStage c => Sys2Proof.Machine.execFwStage c s
  | .fwActivate c sigOk => Sys2Proof.Machine.execFwActivate c sigOk s
  | .fwCommit c => Sys2Proof.Machine.execFwCommit c s
  | .fwStatus c sigOk => Sys2Proof.Machine.execFwStatus c sigOk s
  | .fwEraseBank c => Sys2Proof.Machine.execFwEraseBank c s
  | .spdmGetVersion path => Sys2Proof.Machine.execSpdmGetVersion path s
  | .spdmGetCapabilities path version => Sys2Proof.Machine.execSpdmGetCapabilities path version s
  | .spdmNegotiateAlgorithms path algsOk => Sys2Proof.Machine.execSpdmNegotiateAlgorithms path algsOk s
  | .spdmGetDigests path => Sys2Proof.Machine.execSpdmGetDigests path s
  | .spdmGetCertificate path slot offset length => Sys2Proof.Machine.execSpdmGetCertificate path slot offset length s
  | .spdmChallenge path slot nonce => Sys2Proof.Machine.execSpdmChallenge path slot nonce s
  | .spdmGetMeasurements path index signed nonce => Sys2Proof.Machine.execSpdmGetMeasurements path index signed nonce s
  | .spdmKeyExchange path reqSession reqPub => Sys2Proof.Machine.execSpdmKeyExchange path reqSession reqPub s
  | .spdmFinish path session macOk => Sys2Proof.Machine.execSpdmFinish path session macOk s
  | .spdmEndSession path session => Sys2Proof.Machine.execSpdmEndSession path session s
  | .spdmHeartbeat path session => Sys2Proof.Machine.execSpdmHeartbeat path session s
  | .spdmKeyUpdate path session op => Sys2Proof.Machine.execSpdmKeyUpdate path session op s
  | .spdmVendorDefinedRequest path session ideKm op stream => Sys2Proof.Machine.execSpdmVendorDefinedRequest path session ideKm op stream s
  | .spdmChunkSend path handle seqNo last bytes => Sys2Proof.Machine.execSpdmChunkSend path handle seqNo last bytes s
  | .spdmChunkGet path handle seqNo => Sys2Proof.Machine.execSpdmChunkGet path handle seqNo s
  | .sparkArm c => Sys2Proof.Machine.execSparkArm c s
  | .sparkArmEffective handle => Sys2Proof.Machine.execSparkArmEffective handle s
  | .sparkDisarm c => Sys2Proof.Machine.execSparkDisarm c s
  | .sparkStatus c => Sys2Proof.Machine.execSparkStatus c s
  | .tallyRead c => Sys2Proof.Machine.execTallyRead c s
  | .tallyWrite => Sys2Proof.Machine.execTallyWrite s
  | .strainCompute => Sys2Proof.Machine.execStrainCompute s
  | .strainDayRollover => Sys2Proof.Machine.execStrainDayRollover s
  | .thermalCycleSample fieldC => Sys2Proof.Machine.execThermalCycleSample fieldC s
  | .rtcSet => Sys2Proof.Machine.execRtcSet s
  | .stragglerHoldExpiry => Sys2Proof.Machine.execStragglerHoldExpiry s
  | .meterSample => Sys2Proof.Machine.execMeterSample s
  | .meterRead c => Sys2Proof.Machine.execMeterRead c s
  | .meterCompositions c => Sys2Proof.Machine.execMeterCompositions c s
  | .meterProfile c => Sys2Proof.Machine.execMeterProfile c s
  | .meterResetTenant c => Sys2Proof.Machine.execMeterResetTenant c s
  | .healthStatus c => Sys2Proof.Machine.execHealthStatus c s
  | .healthEventRead c => Sys2Proof.Machine.execHealthEventRead c s
  | .healthConfig c => Sys2Proof.Machine.execHealthConfig c s
  | .healthFence c => Sys2Proof.Machine.execHealthFence c s
  | .healthRestrict c => Sys2Proof.Machine.execHealthRestrict c s
  | .healthEnable c => Sys2Proof.Machine.execHealthEnable c s
  | .healthUnretire c => Sys2Proof.Machine.execHealthUnretire c s
  | .healthDrain c standInOk groupOk reachable contextsOk notCarried => Sys2Proof.Machine.execHealthDrain c standInOk groupOk reachable contextsOk notCarried s
  | .healthDrainStatus c => Sys2Proof.Machine.execHealthDrainStatus c s
  | .healthDrainCancel c => Sys2Proof.Machine.execHealthDrainCancel c s
  | .drainCopyDone noSpace => Sys2Proof.Machine.execDrainCopyDone noSpace s
  | .drainRoundDone noSpace => Sys2Proof.Machine.execDrainRoundDone noSpace s
  | .drainQuiesced noSpace => Sys2Proof.Machine.execDrainQuiesced noSpace s
  | .quarantineDone cls inst pass step => Sys2Proof.Machine.execQuarantineDone cls inst pass step s
  | .thermalSample temps flow sense => Sys2Proof.Machine.execThermalSample temps flow sense s
  | .coolantFlowLowDetect flow => Sys2Proof.Machine.execCoolantFlowLowDetect flow s
  | .inputPowerFaultDetect mv da => Sys2Proof.Machine.execInputPowerFaultDetect mv da s
  | .powerLimitedDetect => Sys2Proof.Machine.execPowerLimitedDetect s
  | .actTimerExpiry n => Sys2Proof.Machine.execActTimerExpiry n s
  | .modStatus c => Sys2Proof.Machine.execModStatus c s
  | .modShutdown c => Sys2Proof.Machine.execModShutdown c s
  | .shutdownDrained => Sys2Proof.Machine.execShutdownDrained s
  | .modMgmtSet c => Sys2Proof.Machine.execModMgmtSet c s
  | .mgmtMctpPacket port checksOk kind len => Sys2Proof.Machine.execMgmtMctpPacket port checksOk kind len s
  | .smbusMctpPacket addr pecOk kind => Sys2Proof.Machine.execSmbusMctpPacket addr pecOk kind s
  | .mctpSetEndpointId path eid => Sys2Proof.Machine.execMctpSetEndpointId path eid s
  | .jtagInstruction ir => Sys2Proof.Machine.execJtagInstruction ir s
  | .undervoltageLockoutRelease mv => Sys2Proof.Machine.execUndervoltageLockoutRelease mv s
  | .functionLevelResetDone => Sys2Proof.Machine.execFunctionLevelResetDone s
  | .routerBypassDone core => Sys2Proof.Machine.execRouterBypassDone core s
  | .softRepairDone chan row => Sys2Proof.Machine.execSoftRepairDone chan row s
  | .cohWriteBack f => Sys2Proof.Machine.execCohWriteBack f s

end Sys2Proof.Machine
end

