-- ==== Sys2Proof/Safety.lean ====
section
/-! DEFINITION. What counts as a safe run, and the shapes in which the statements say where a command completes: a host command, a mailbox opcode, an access that is let through. -/

namespace Sys2Proof.Machine

/-- Whether an outcome is a next state. -/
def goesOn : Host.Outcome State Fault Refusal → Bool
  | .next _ => true
  | .fault _ => false
  | .refused _ => false

/-- A state from which the first `n` steps all go on. -/
def safeFor : Nat → State → Prop
  | 0, _ => True
  | n + 1, s => match step s with | .next t => safeFor n t | _ => False

/-- What a command leaves as it was, or lets only grow, from a state `s` to a state `t`: the waiting commands and the time, the fuses but for the anti-rollback count, what has left the block, and the canonical form of every memory. -/
structure Keeps (s t : State) : Prop where
  pending : t.pending = s.pending
  now     : t.now = s.now
  variant : t.fuse.variant = s.fuse.variant
  coreMap : t.fuse.coreMap = s.fuse.coreMap
  uid     : t.fuse.uid = s.fuse.uid
  svn     : s.fuse.svn ≤ t.fuse.svn
  free    : s.free ≤ t.free
  out     : s.out <+: t.out
  mem     : Memory.wf s.emb.mem = true → Memory.wf t.emb.mem = true
  bank0   : Memory.wf s.sec.bank0 = true → Memory.wf t.sec.bank0 = true
  bank1   : Memory.wf s.sec.bank1 = true → Memory.wf t.sec.bank1 = true

/-- The invariant of the block: the byte stores of Ember and of the two firmware banks are in canonical form. -/
def Inv (s : State) : Prop := Memory.wf s.emb.mem = true ∧ Memory.wf s.sec.bank0 = true ∧ Memory.wf s.sec.bank1 = true

/-! Host commands. A command is met in the state `orderState`, in which it has the order number `orderOf` and in which its input has been read (R44, R50, R53). -/

/-- The order number of a command. -/
def orderOf (c : Cmd) (s : State) : Nat := (takeOrder c s).1

/-- The state in which a command runs: it has left the fetched ones. -/
def orderState (c : Cmd) (s : State) : State := (takeOrder c s).2

/-- The command with the bytes of its input buffer. -/
def cmdRead (c : Cmd) (s : State) : Cmd := withInput c (orderState c s)

/-- A command of a unit is the oldest that waits and passes the general checks, and its own condition holds: all are conditions on the operands and the state alone. -/
def admits (unit verb : Nat) (own : Cmd → State → Prop) (c : Cmd) (s : State) : Prop :=
  mayStart c s = true ∧ gate unit verb (cmdRead c s) (orderState c s) = none ∧ own (cmdRead c s) (orderState c s)

/-- Wherever a command passes the general checks and its own condition, it ends at once: `d` is its completion, `eff` all that it changes beside, and `after` what the row lets go on then. -/
def EndsThen (after : State → State) (unit verb : Nat) (row : Cmd → Instr) (own : Cmd → State → Prop) (d : Cmd → State → Done) (eff : Cmd → State → State) : Prop :=
  ∀ (c : Cmd) (s : State), admits unit verb own c s →
    exec (row c) s = .next (after (complete (orderOf c s) (cmdRead c s) (d (cmdRead c s) (orderState c s)) (eff (cmdRead c s) (orderState c s))))

/-- Wherever a command passes the general checks and its own condition, it is in flight afterwards under its order number: `eff` is all that it changes beside, and `after` what the row lets go on then. -/
def WaitsThen (after : State → State) (unit verb : Nat) (row : Cmd → Instr) (own : Cmd → State → Prop) (eff : Nat → Cmd → State → State) : Prop :=
  ∀ (c : Cmd) (s : State), admits unit verb own c s →
    exec (row c) s = .next (after (let t := eff (orderOf c s) (cmdRead c s) (orderState c s)
      { t with cln := { t.cln with inflight := tblSet t.cln.inflight (orderOf c s) (cmdRead c s) } }))

/-- A command that ends at once, with nothing that goes on after it. -/
def EndsAt (unit verb : Nat) (row : Cmd → Instr) (own : Cmd → State → Prop) (d : Cmd → State → Done) (eff : Cmd → State → State) : Prop :=
  EndsThen (fun t => t) unit verb row own d eff

/-- A command that is in flight, with nothing that goes on after it. -/
def WaitsAt (unit verb : Nat) (row : Cmd → Instr) (own : Cmd → State → Prop) (eff : Nat → Cmd → State → State) : Prop :=
  WaitsThen (fun t => t) unit verb row own eff

/-- What the judge of a service order on a port or lane says, and the state that it leaves (R77, R359). -/
def serviceJudge (rank : Nat) (c : Cmd) (s : State) : Bool × State := judge c { unit := 0x0A, obj := argBits c 32 0 4 * 8 + argBits c 33 0 3 } (.service rank) s

/-- What a KILN.ATTEND records when it starts (R129, R133, R149): the sheaves that it sees, the profile that it recorded, the retrieved sheaves. -/
def attendOf (oid : Nat) (c : Cmd) (x : Seq) (f : Format) (note : AttendNote) (retrieved : List Nat) (s : State) : Attend :=
  { cmd := c, ctx := x.ctx, seq := argU c 32 4, layer := argBits c 36 0 12, group := argU c 38 1, fmt := f,
    views := viewsOf s oid note.unposted (argU c 32 4) x (argBits c 36 0 12) (argU c 38 1), rope := note.rope, retrieved := retrieved }

/-! Mailbox opcodes (R49) -/

/-- Whether the oldest accepted word of a channel has an opcode and may start: firmware runs, nothing accepted earlier may start, and no FENCE holds it. -/
def wordReady (ch op : Nat) (s : State) : Bool :=
  match (getMbx s ch).accepted with
  | [] => false
  | a :: _ => wordOp a.word == op && fwRuns s && isNext s a.oid && !wordFenced ch a s

/-- The oldest accepted word of a channel. -/
def oldestWord (ch : Nat) (s : State) : Accepted := (getMbx s ch).accepted.headD { word := 0, param := [], oid := 0, acc := {} }

/-- The state in which a mailbox opcode runs: its word has left the accepted ones. -/
def wordState (ch : Nat) (s : State) : State := setMbx ch { getMbx s ch with accepted := (getMbx s ch).accepted.tail } s

/-- Wherever a channel's oldest word has the opcode and meets its own condition on ARG, PARAM and the state, the row has the effect `eff` of TAG, ARG and PARAM. -/
def WordRow (op : Nat) (row : Nat → Instr) (own : Nat → List Byte → State → Bool) (eff : Nat → Nat → Nat → List Byte → State → State) : Prop :=
  ∀ (ch : Nat) (s : State), wordReady ch op s = true →
    own (wordArg (oldestWord ch s).word) (oldestWord ch s).param (wordState ch s) = true →
    exec (row ch) s = .next (eff ch (wordTag (oldestWord ch s).word) (wordArg (oldestWord ch s).word) (oldestWord ch s).param (wordState ch s))

/-! Transport frames (R364-R377) -/

/-- The flow that a frame came on, as the key of its slot. -/
def flowOf (f : TFrame) : Nat := slotKey f.dstCtx f.srcNode f.srcCtx

/-- A frame with the class it came in. -/
def frameOut (f : TFrame) (s : State) : OutFrame := { frame := f, cls := (takeArrived f s).2.1 }

/-- Whether a frame passes the checks that come before any state of a flow, and the state behind them. -/
def screened (f : TFrame) (s : State) : Bool × State := screen (takeArrived f s).1 (takeArrived f s).2.1 f (takeArrived f s).2.2

/-- A DATA frame that passes the checks and is the next one of its flow. -/
def inOrder (f : TFrame) (s : State) : Prop :=
  f.typ = 1 ∧ (screened f s).1 = true ∧ (standing (flowOf f) f (screened f s).2).1 = .next

/-- A frame of another type that passes the checks and whose flow has a slot. -/
def reachesSlot (typ : Nat) (f : TFrame) (x : Slot) (s : State) : Prop :=
  f.typ = typ ∧ (screened f s).1 = true ∧ getSlot? (screened f s).2 (flowOf f) = some x

/-- The state in which a frame that is the next of its flow is acted on. -/
def frameState (f : TFrame) (s : State) : State := (standing (flowOf f) f (screened f s).2).2

/-- A frame is accepted: it is noted and counted, and the acknowledgement that it carries is taken in. -/
def acceptFrame (o : OutFrame) (s : State) : State :=
  takeAck (flowOf o.frame) o.frame (tenantAdd (keyCtx (flowOf o.frame)) (fun t => { t with fabricRx := (t.fabricRx + o.frame.payload.length) % 2 ^ 64 }) (noteAccepted (flowOf o.frame) o s))

/-- Wherever a frame with the operation is the next of its flow and its own condition holds, it is accepted: `eff` is all that it changes beside, and `after` what the row lets go on then. -/
def FrameRow (after : State → State) (op : Nat) (row : TFrame → Instr) (own : OutFrame → State → Prop) (eff : OutFrame → State → State) : Prop :=
  ∀ (f : TFrame) (s : State), f.op = op → inOrder f s → own (frameOut f s) (frameState f s) →
    exec (row f) s = .next (after (acceptFrame (frameOut f s) (eff (frameOut f s) (frameState f s))))

/-! BAR accesses (R36, R40) -/

/-- Whether a PCIe access to a channel's block is let through (R40). -/
def mbxOpen (ch : Nat) (ide : IdeTag) (s : State) : Bool :=
  !barsClosed s && decide (ch < 32) && !isMgmt ch && (decide (6 ≤ ch) || qualifies s ide)

end Sys2Proof.Machine
end

