-- ==== Sys2Proof/Certificates/Slice0/Obligations.lean ====
section
/-! DEFINITION. The statements about the model, for the provers. Each clause of a statement on rows of the opcode table says in which states a row completes and what its next state is. -/

open Sys2Proof Sys2Proof.Machine

/-! The machine as a whole: the queue, the invariant, what every command keeps -/

/-- A step takes the command at the front of the queue and runs it on the state with the queue's rest. -/
def Obligations.StepRunsFrontCommand : Prop :=
  ∀ (c : Instr) (rest : List Instr) (s : State), s.pending = c :: rest → step s = exec c { s with pending := rest }

/-- On an empty queue the reference time base runs on by 1 ns and nothing else changes: the model's choice (log entry 2), not the spec's. -/
def Obligations.EmptyQueueOnlyTicks : Prop :=
  ∀ s : State, s.pending = [] → step s = .next { s with now := s.now + 1 }

/-- What the spec says the block is like right after reset (R37, R39, R61, R63, R83): no command waits, rings are DISABLED, channels are empty with IRQ_EN 0, counts and plot entries are 0; and the invariant holds. -/
def Obligations.ResetMeetsInvariant : Prop :=
  Inv State.reset ∧ State.reset.pending = [] ∧ (∀ r, (getRing State.reset r).state = .disabled) ∧
  (∀ ch, (getMbx State.reset ch).full = false ∧ (getMbx State.reset ch).outFull = false ∧ (getMbx State.reset ch).irqEn = false ∧ reg0Get State.reset (.mbx ch 0x10) = 0) ∧
  reg0Get State.reset .ctrl = 0 ∧ reg0Get State.reset .heartbeat = 0 ∧ reg0Get State.reset .dbDrop = 0 ∧ reg0Get State.reset .badAcc = 0 ∧
  (∀ cls m, reg0Get State.reset (.plot cls m) = 0)

/-- Every step keeps the invariant: from every state in which the byte stores are in canonical form, every command leaves them so. -/
def Obligations.StepKeepsInvariant : Prop :=
  ∀ s t : State, Inv s → step s = .next t → Inv t

/-- What a step can never undo, in every state: the rest of the queue, the fuses, the anti-rollback count, the free values drawn, and what has left the block. The clock moves only on an empty queue (log entry 2). -/
def Obligations.StepNeverUndoes : Prop :=
  ∀ s t : State, step s = .next t →
    t.pending = s.pending.tail ∧ t.now = (if s.pending = [] then s.now + 1 else s.now) ∧
    t.fuse.variant = s.fuse.variant ∧ t.fuse.coreMap = s.fuse.coreMap ∧ t.fuse.uid = s.fuse.uid ∧ s.fuse.svn ≤ t.fuse.svn ∧
    s.free ≤ t.free ∧ s.out <+: t.out

/-- R7: no command changes a capability word or the UID that a host reads, whatever it fences, mounts, loses or resets. -/
def Obligations.CapabilityWordsNeverChange : Prop :=
  ∀ (i : Instr) (s t : State), exec i s = .next t →
    (∀ n, reg0Get t (.cap n) = reg0Get s (.cap n)) ∧ (∀ hi, reg0Get t (.uid hi) = reg0Get s (.uid hi))

/-- No command stops the block: every command on every state answers a next state. Past the end of Ember, where R189 names no byte, the two Ember rows act on a place that is a free value, the model's choice (log entry 25): they do there what they do at that place, which lies inside Ember. -/
def Obligations.NoCommandStops : Prop :=
  (∀ (i : Instr) (s : State), goesOn (exec i s) = true) ∧
  (∀ (eda : Nat) (write bad : Bool) (data : List Byte) (reports : List Nat) (s : State), emberBytes s < eda + data.length → data.length ≤ emberBytes s →
    placeOf s eda data.length + data.length ≤ emberBytes s ∧
    exec (.emberAccess eda write data bad reports) s = exec (.emberAccess (placeOf s eda data.length) write data bad reports) s) ∧
  (∀ (eda : Nat) (ue scrub : Bool) (s : State), emberBytes s ≤ eda →
    placeOf s eda 1 < emberBytes s ∧ exec (.emberLineError eda ue scrub) s = exec (.emberLineError (placeOf s eda 1) ue scrub) s)

/-- R190: the map from an Ember address to channel, bank, row and byte is the spec's function, and it loses nothing: the model's reading of it backwards is its inverse on both sides, for the channels of every variant. -/
def Obligations.EmberMapIsOneToOne : Prop :=
  ∀ n, n = 384 ∨ n = 192 →
    (∀ eda, emberMap n eda = (let c := eda % (n * 65536) / 1024
      { chan := (c % n + 97 * (c / n)) % n, bank := (c / n) ^^^ ((c % n + 97 * (c / n)) % n % 64), row := eda / (n * 65536), byte := eda % (n * 65536) % 1024 })) ∧
    (∀ eda, rowEda n (emberMap n eda).chan (emberMap n eda).bank (emberMap n eda).row + (emberMap n eda).byte = eda) ∧
    (∀ chan bank row byte, chan < n → bank < 64 → byte < 1024 → emberMap n (rowEda n chan bank row + byte) = { chan := chan, bank := bank, row := row, byte := byte })

/-- A store to Ember while no row operation is pending on its rows and their channels are in service: each byte stored reads back, and every other byte of Ember reads as before. -/
def Obligations.EmberStoreReadsBack : Prop :=
  ∀ (eda : Nat) (bs : List Byte) (bad : Bool) (s : State),
    (∀ r ∈ rowsOf eda bs.length, (getChan s (chanOf s r)).state = .service ∧ (getChan s (chanOf s r)).fences = []) →
    (∀ a, memByte (emberWriteP eda bs bad s).emb.mem a = if eda ≤ a ∧ a < eda + bs.length then bs.getD (a - eda) 0 else memByte s.emb.mem a) ∧
    (emberRead (emberWriteP eda bs bad s) eda bs.length).1 = bs

/-- R98: rounding m × 2^e to a multiple of 2^q goes to the nearest one, and to the even one where two are equally near. -/
def Obligations.RoundingIsNearestEven : Prop :=
  ∀ (m d : Nat) (e : Int), let k := rneAt m e (e + d)
    2 * (k * 2 ^ d) ≤ 2 * m + 2 ^ d ∧ 2 * m ≤ 2 * (k * 2 ^ d) + 2 ^ d ∧ ((2 * (k * 2 ^ d) = 2 * m + 2 ^ d ∨ 2 * m = 2 * (k * 2 ^ d) + 2 ^ d) → k % 2 = 0)

/-- R50, R436: while the module is in service, a secure-only command of the security unit that does not come on a secure channel and is the oldest that waits completes with PERMISSION and has no other effect. -/
def Obligations.SecureOnlyCommandsRefused : Prop :=
  ∀ (c : Cmd) (s : State), mayStart c s = true → isSecure c = false → s.mod.shutdown = false → s.cln.phase = .fullService →
    (∀ row ∈ [Instr.contextPark, .contextReside, .keyErase, .keyBindJob, .secConfig, .fwStage, .fwCommit, .fwEraseBank],
      exec (row c) s = .next (complete (orderOf c s) (cmdRead c s) { status := .permission } (orderState c s))) ∧
    (∀ sig, exec (.fwActivate c sig) s = .next (complete (orderOf c s) (cmdRead c s) { status := .permission } (orderState c s))) ∧
    exec (.contextDestroy c) s = .next (settleDestroys (settleWork (complete (orderOf c s) (cmdRead c s) { status := .permission } (orderState c s)))) ∧
    (versionCheck 0x0C 0x01 (cmdRead c s) = none → exec (.contextCreate c) s = .next (complete (orderOf c s) (cmdRead c s) { status := .permission } (orderState c s))) ∧
    (∀ key, versionCheck 0x0C 0x10 (cmdRead c s) = none → exec (.keyLoad c key) s = .next (complete (orderOf c s) (cmdRead c s) { status := .permission } (orderState c s)))

/-- R78: an order whose latest predecessor on the target came from the same issuer, accepted within 20 µs of it, is applied at once, raises no CONFLICT, and is the latest from then on; and an order has no effect while a command accepted before it waits, so that orders take effect in acceptance order. -/
def Obligations.SameIssuerNeverConflicts : Prop :=
  (∀ (c : Cmd) (t : Target) (o : Order) (a : Applied) (s : State),
    s.cln.orders.find? (fun a => a.target == t && decide (a.acc.time ≤ (currentAccept s).time + 20000 ∧ (currentAccept s).time ≤ a.acc.time + 20000)) = some a → sameIssuer a.issuer c.issuer = true →
    ∃ l, judge c t o s = (true, { s with cln := { s.cln with orders := l ++ [{ target := t, issuer := c.issuer, cid := c.cid, ctx := cmdCtx s c, order := o, acc := currentAccept s }] } }) ∧ ∀ b ∈ l, b.target ≠ t) ∧
  (∀ (c : Cmd) (early late : Live) (s : State), s.cln.fetched.find? (fun l => l.cmd == c) = some late → early ∈ s.cln.fetched → early.oid < late.oid →
    ∀ row ∈ [Instr.fieldSupply, .fieldRestrict, .fieldEnable, .kilnRopeSet, .kilnRopeClear, .kilnAdmitSet, .sheafFormat, .sheafFormatDrop, .olnenPortMode, .olnenWidth, .olnenAddrSet, .olnenRouteSet, .olnenMcastGroup, .olnenConfig,
      .contextCreate, .keyErase, .keyBindJob, .secConfig, .meterResetTenant, .healthConfig, .healthRestrict, .healthEnable, .healthUnretire, .tierConfig, .seedConfig, .gleanSwathDrop, .gleanBind, .gleanMerge, .gleanConfig, .headlandClassSet, .headlandQueueSet],
    exec (row c) s = .next s)

/-- R74-R76: of two conflicting orders that were accepted within 20 µs of each other, the later is not applied where it is the less safe, and is applied and becomes the latest one where it is not. -/
def Obligations.ConflictsAreJudged : Prop :=
  ∀ (c : Cmd) (t : Target) (o : Order) (a : Applied) (s : State),
    s.cln.orders.find? (fun a => a.target == t && decide (a.acc.time ≤ (currentAccept s).time + 20000 ∧ (currentAccept s).time ≤ a.acc.time + 20000)) = some a → sameIssuer a.issuer c.issuer = false → ordersDiffer a.order o = true →
    (lessSafe a.order o = true → (judge c t o s).1 = false ∧ (judge c t o s).2.cln.orders = s.cln.orders) ∧
    (lessSafe a.order o = false → (judge c t o s).1 = true ∧
      ∃ l, (judge c t o s).2.cln.orders = l ++ [{ target := t, issuer := c.issuer, cid := c.cid, ctx := cmdCtx s c, order := o, acc := currentAccept s }] ∧ ∀ b ∈ l, b.target ≠ t)

/-- R41, R42: a write of CLN_MBX_IN that R40 lets through stores the word and sets FULL; while FULL is 1 it replaces the waiting word, which is then nowhere in the channel, sets COLLISION and counts. Other channels stay as they are. -/
def Obligations.MailboxWordStoredOrReplaced : Prop :=
  ∀ (ch : Nat) (w : Word) (ide : IdeTag) (s : State), mbxOpen ch ide s = true →
    ∃ t, exec (.mbxInWrite ch w ide) s = .next t ∧
      ((getMbx s ch).full = false → getMbx t ch = { getMbx s ch with inWord := w, full := true }) ∧
      ((getMbx s ch).full = true → getMbx t ch = { getMbx s ch with inWord := w, collision := true, collisions := satAdd 8 (getMbx s ch).collisions 1 }) ∧
      ∀ k, k ≠ ch → getMbx t k = getMbx s k

/-- R67: an alias read returns the value of the lowest-numbered participating member, notes whether any other one's differs in a field that is not an instance's, and clears nothing in any member. What leaves the block after the value is the event of a spark that the access fires at most. -/
def Obligations.AliasReadTakesLowest : Prop :=
  ∀ (off size cls o m : Nat) (page : Page) (rest : List Nat) (s : State),
    barsClosed s = false → pageAt off = some (cls, page, o) → (∀ k, page ≠ .member k) → aligned off size = true → participating s cls page = m :: rest →
    let shared := 2 ^ 64 - 1 - ((pageFields cls o).getD {}).inst
    (∀ k ∈ rest, m < k) ∧
    ∃ t, exec (.aliasRead off size) s = .next t ∧ (∃ l, t.out = s.out ++ [.readData (part (pageGet s cls m o) off size)] ++ l) ∧
      t.cln.sow.lastDivergent = rest.any (fun k => (pageGet s cls k o ^^^ pageGet s cls m o) &&& shared != 0) ∧
      t.cln.sow.divergent = (s.cln.sow.divergent || t.cln.sow.lastDivergent) ∧ t.emb = s.emb ∧ t.oln = s.oln ∧ t.fld = s.fld

/-- R70: the page of a member that the variant lacks, and of a core that a fuse disables, reads as zero and ignores writes, and no shadow is kept. -/
def Obligations.AbsentMemberReadsZero : Prop :=
  ∀ (off size cls m o : Nat) (v hw : Word) (ide : IdeTag) (s : State),
    barsClosed s = false → pageAt off = some (cls, .member m, o) → aligned off size = true → present s cls m = false →
    exec (.rcRead .b4 off size hw ide) s = .next (hostTlp (emit (.readData 0) (lightAct 0 s))) ∧
    exec (.registerWrite .b4 off size v hw ide) s = .next (hostTlp (lightAct 0 s))

/-- R466: an event limited to a rate is written at most once in its period for each object; what was held back meanwhile is in COUNT of the next record. -/
def Obligations.LimitedEventsAreCounted : Prop :=
  ∀ (code : EventCode) (inj : Bool) (obj period : Nat) (dst : List Rcpt) (d : List Byte) (l : Limit) (s : State),
    s.hlt.limits.find? (fun l => l.code == code && l.obj == obj) = some l →
    (s.now < l.last + period → ∃ ls, raiseLimited code inj obj period dst d s = { s with hlt := { s.hlt with limits := ls } } ∧
      ls.find? (fun l => l.code == code && l.obj == obj) = some { l with held := l.held + 1 }) ∧
    (l.last + period ≤ s.now → ∃ ls, raiseLimited code inj obj period dst d s = raiseN code inj (l.held + 1) dst d { s with hlt := { s.hlt with limits := ls } } ∧
      ls.find? (fun l => l.code == code && l.obj == obj) = some { l with held := 0, last := s.now })

/-- R79, R80: a lockstep mismatch and a soft restart leave every ring, every mailbox channel, the fetched and the dispatched commands, the completions that wait, and plot membership as they were. -/
def Obligations.RestartPreservesCommands : Prop :=
  ∀ (i : Instr) (s t : State), i = .lockstepMismatch ∨ i = .softRestart → exec i s = .next t →
    t.cln.rings = s.cln.rings ∧ t.cln.mbx = s.cln.mbx ∧ t.cln.fetched = s.cln.fetched ∧ t.cln.inflight = s.cln.inflight ∧ t.cln.done = s.cln.done ∧
    t.cln.plotEmb = s.cln.plotEmb ∧ t.cln.plotOln = s.cln.plotOln ∧ t.cln.plotFld = s.cln.plotFld

/-- A command that only asks (its UNIT and VERB are not those of KILN.ATTEND, whose completions R156 counts), from a ring, changes nothing but Cloni's own bookkeeping, whatever its operands and whatever its status: every unit, every memory, the logs and the outputs stay as they were. -/
def Obligations.QueriesChangeOnlyCloni : Prop :=
  ∀ (r : Nat) (c : Cmd) (s : State), c.issuer = .ring r → (c.unit = 0x03 → c.verb ≠ 0x01) → s.cln.discard = [] →
    ∀ row ∈ [Instr.fieldStatus, .tierStatus, .tierLossList, .seedStatus, .gleanStatus, .olnenStatus, .olnenFlowStatus, .headlandStatus, .contextQuery, .keyQuery,
      .sparkStatus, .tallyRead, .meterRead, .meterProfile, .healthStatus, .healthDrainStatus, .modStatus],
    ∃ k : Cln, exec (row c) s = .next { s with cln := k }

/-- R517: at a reading that reaches a trip threshold the rails go down and THERM_TRIP# is held low; it is released when PWR_EN falls, and the rails then rise again only at a rise of PWR_EN with every die 20 K below its threshold. -/
def Obligations.ThermalTripHolds : Prop :=
  (∀ (temps : List Nat) (flow : Nat) (sense : List Nat) (s : State), s.mod.rails = .stable → s.mod.running = true → (tripReading (readSensors temps (List.range 22) s).1).isSome = true →
    ∃ t, exec (.thermalSample temps flow sense) s = .next t ∧ t.mod.rails = .off ∧ t.mod.running = false ∧ pinThermTrip t = true) ∧
  (∀ s : State, ∃ t, exec .pwrEnFall s = .next t ∧ pinThermTrip t = false ∧ t.mod.rails = .off ∧ (pinThermTrip s = true → t.mod.trip = .cooling)) ∧
  (∀ (mv : Nat) (temps : List Nat) (s : State), s.mod.rails = .off → s.mod.trip ≠ .none → (s.mod.trip = .latched ∨ ∃ x ∈ temps.take 6, 95 < x) →
    ∃ t, exec (.pwrEnRise mv temps) s = .next t ∧ t.mod.rails = .off) ∧
  (∀ (mv : Nat) (temps : List Nat) (s : State), s.mod.rails = .off → s.mod.inputUp = true → s.mod.trip = .cooling → (∀ x ∈ temps.take 6, x ≤ 95) →
    ∃ t, exec (.pwrEnRise mv temps) s = .next t ∧ t.mod.rails = .rising)
/-! Mailboxes and registers (file 02) -/

/-- R41, R42, R44-R46, R48: what an access to a mailbox channel, an acceptance and a posting do where they are let through. -/
def Obligations.MailboxChannelRowsComplete : Prop :=
  (∀ (ch : Nat) (w : Word) (ide : IdeTag) (s : State), mbxOpen ch ide s = true → (getMbx s ch).full = false →
    exec (.mbxInWrite ch w ide) s = .next (hostTlp (setMbx ch { getMbx s ch with inWord := w, full := true } (lightAct 0 s)))) ∧
  (∀ (ch : Nat) (w : Word) (ide : IdeTag) (s : State), mbxOpen ch ide s = true → (getMbx s ch).full = true →
    exec (.mbxInWrite ch w ide) s =
      .next (hostTlp (setMbx ch { getMbx s ch with inWord := w, collision := true, collisions := min ((getMbx s ch).collisions + 1) 0xFF } (lightAct 0 s)))) ∧
  (∀ (ch off : Nat) (bs : List Byte) (ide : IdeTag) (s : State), mbxOpen ch ide s = true →
    exec (.paramWrite ch off bs ide) s = .next (hostTlp (setMbx ch
      (if (getMbx s ch).full then { getMbx s ch with paramReject := true } else { getMbx s ch with param := putBytes (getMbx s ch).param off bs }) (lightAct 0 s)))) ∧
  (∀ (ch : Nat) (ide : IdeTag) (s : State), mbxOpen ch ide s = true →
    exec (.mbxOutRelease ch ide) s = .next (hostTlp (setMbx ch { getMbx s ch with outFull := false } (lightAct 0 s)))) ∧
  (∀ (ch n eid : Nat) (p : List Byte) (w : Word) (s : State), (ch, n) ∈ [(6, 0x06), (7, 0x07), (30, 0x36), (31, 0x37)] → fwRuns s = true →
    p.length ≤ 256 → (getMbx s ch).full = false →
    exec (.mctpMbxRequest eid 1 n p w) s =
      .next (setMbx ch { getMbx s ch with param := putBytes (getMbx s ch).param 0 p, inWord := w, full := true, eid := eid } s)) ∧
  (∀ (ch : Nat) (s : State), (getMbx s ch).full = true → ccsRuns s = true → s.mod.shutdown = false →
    repliesHeld (getMbx s ch) + mbxOutstanding s ch < 16 → mbxOpcodes.contains (wordOp (getMbx s ch).inWord) = true →
    exec (.mbxAccept ch) s =
      .next (let t := mbxRaise ch (getMbx s ch).inEmptied (setMbx ch { getMbx s ch with full := false, inEmptied := true } s)
        setMbx ch { getMbx t ch with accepted := (getMbx s ch).accepted ++ [{ word := (getMbx s ch).inWord, param := (getMbx s ch).param, oid := t.cln.nextOid, acc := { time := s.now, eid := (getMbx s ch).eid } }] }
          { t with cln := { t.cln with nextOid := t.cln.nextOid + 1 } })) ∧
  (∀ (ch : Nat) (r : Reply) (rest : List Reply) (s : State), (getMbx s ch).replies = r :: rest → (getMbx s ch).outFull = false → halted s = false →
    exec (.mbxReplyPost ch) s =
      .next (let t := setMbx ch { getMbx s ch with replies := rest, result := putBytes (getMbx s ch).result 0 r.bytes, outWord := r.word, outFull := !isMgmt ch } s
        if isMgmt ch then emit (.mctp (mctpReply ch r)) t else mbxRaise ch false t))

/-- R37, R82, R84, R468: the control bits, the heartbeat, the end of a function-level reset; and a TLP of the host changes nothing of its own while spark 0x0102 is not armed. -/
def Obligations.ControlRowsComplete : Prop :=
  (∀ (v : Bool) (s : State), barsClosed s = false →
    exec (.fetchHoldWrite v) s = .next (hostTlp { lightAct 0 s with cln := { s.cln with fetchHold := v } })) ∧
  (∀ (s : State), barsClosed s = false → s.cln.phase = .fault → exec .softRestart s = .next (hostTlp (restartCloni false false (lightAct 0 s)))) ∧
  (∀ (s : State), barsClosed s = false → s.cln.phase ≠ .fault → exec .softRestart s = .next (hostTlp (lightAct 0 s))) ∧
  (∀ (s : State), fwRuns s = true →
    exec .heartbeatTick s = .next { s with cln := { s.cln with heartbeat := (s.cln.heartbeat + 1) % 2 ^ 32 } }) ∧
  (∀ (s : State), (∀ e ∈ s.hlt.arms, e.2.spark ≠ 0x0102) → hostTlp s = s) ∧
  (∀ (s : State), exec .functionLevelResetDone s = .next { s with cln := { s.cln with flr := false } })

/-- R36, R67, R68, R17, R19, R66, R69: reads and writes of registers by BAR offset. -/
def Obligations.RegisterRowsComplete : Prop :=
  (∀ (off size cls o : Nat) (page : Page) (s : State), barsClosed s = false → pageAt off = some (cls, page, o) → aligned off size = true →
    (∀ m, page ≠ .member m) → participating s cls page = [] →
    exec (.aliasRead off size) s =
      .next (hostTlp (emit (.readData 0) { lightAct 0 s with cln := { s.cln with sow := { s.cln.sow with emptyPlot := true, lastEmpty := true, lastDivergent := false, lastDiffer := 0x1FF, lastClass := cls, lastOffset := off % 2 ^ 23 } } }))) ∧
  (∀ (off size cls o m : Nat) (page : Page) (rest : List Nat) (s : State), barsClosed s = false → pageAt off = some (cls, page, o) → aligned off size = true →
    (∀ m, page ≠ .member m) → participating s cls page = m :: rest →
    exec (.aliasRead off size) s =
      .next (hostTlp (let differ := rest.find? (fun k => (pageGet s cls k o ^^^ pageGet s cls m o) &&& (2 ^ 64 - 1 - ((pageFields cls o).getD {}).inst) != 0)
        emit (.readData (part (pageGet s cls m o) off size)) { lightAct 0 s with cln := { s.cln with sow := { s.cln.sow with
          divergent := s.cln.sow.divergent || differ.isSome, lastDivergent := differ.isSome, lastEmpty := false,
          lastDiffer := differ.getD 0x1FF, lastClass := cls, lastOffset := off % 2 ^ 23 } } }))) ∧
  (∀ (off size cls o : Nat) (page : Page) (v : Word) (s : State), barsClosed s = false → pageAt off = some (cls, page, o) → aligned off size = true →
    (∀ m, page ≠ .member m) →
    exec (.sowingWrite off size v) s =
      .next (hostTlp ((aliasMembers s cls page).foldl (fun t m => memberWrite cls o ((pageFields cls o).getD {}) (v.toNat * 2 ^ (8 * (off % 8))) (lanesOf off size) 0 m t) (lightAct 0 s)))) ∧
  (∀ (off size cls o m : Nat) (k : Word) (ide : IdeTag) (s : State), barsClosed s = false → pageAt off = some (cls, .member m, o) → aligned off size = true →
    ((pageFields cls o).getD {}).rc ≠ 0 → present s cls m = true → outOfService s cls m = false →
    exec (.rcRead .b4 off size k ide) s =
      .next (hostTlp (let v := pageGet s cls m o
        pageSet cls m o (afterRead ((pageFields cls o).getD {}) v (lanesOf off size) k.toNat) (emit (.readData (part v off size)) (lightAct 0 s))))) ∧
  (∀ (off size cls o m : Nat) (v hw : Word) (ide : IdeTag) (s : State), barsClosed s = false → pageAt off = some (cls, .member m, o) → aligned off size = true →
    present s cls m = true → outOfService s cls m = false →
    exec (.registerWrite .b4 off size v hw ide) s =
      .next (hostTlp (pageSet cls m o (afterWrite ((pageFields cls o).getD {}) (pageGet s cls m o) (v.toNat * 2 ^ (8 * (off % 8))) (lanesOf off size) hw.toNat) (lightAct 0 s)))) ∧
  (∀ (bar : Bar) (off : Nat) (write : Bool) (s : State), barsClosed s = false →
    exec (.malformedBarAccess bar off write) s =
      .next (hostTlp (let t : State := { lightAct 0 s with cln := { s.cln with badCount := min (s.cln.badCount + 1) (2 ^ 32 - 1), badOffset := off % 2 ^ 24, badBar := match bar with | .b0 => 0 | .b2 => 2 | .b4 => 4 } }
        if write then t else emit (.readData 0) t)))

/-- R49, R85, R51, R61, R527, R50: the mailbox opcodes. -/
def Obligations.MailboxOpcodesComplete : Prop :=
  WordRow 0x01 .capQuery (fun arg _ _ => arg == 0) (fun ch tag _ _ s => postReply ch tag .success 64 (capBytes s) 64 s) ∧
  WordRow 0x02 .clnEcho (fun _ _ _ => true) (fun ch tag arg _ s => postReply ch tag .success arg [] 0 s) ∧
  WordRow 0x10 .ringCreate (fun arg p s => arg == 0 && ringCheck s (ringOf p).1 (ringOf p).2 p == none)
    (fun ch tag _ p s => postReply ch tag .success 0 [] 0 (setRing (ringOf p).1 (ringOf p).2 s)) ∧
  WordRow 0x11 .ringDestroy (fun arg _ s => decide (arg < 2 ^ 18) && ((getRing s arg).state == .active || (getRing s arg).state == .stopped))
    (fun ch tag arg _ s => drainEnd arg (setRing arg { getRing s arg with state := .draining, destroyBy := some (ch, tag) } s)) ∧
  WordRow 0x11 .ringDestroy (fun arg _ s => decide (arg < 2 ^ 18) && ((getRing s arg).state == .disabled || (getRing s arg).state == .draining))
    (fun ch tag _ _ s => postReply ch tag .badState 0 [] 0 s) ∧
  WordRow 0x12 .ringReset (fun arg _ s => decide (arg < 2 ^ 18) && (getRing s arg).state == .stopped)
    (fun ch tag arg _ s => postReply ch tag .success 0 [] 0 (setRing arg { getRing s arg with state := .active, head := 0, tail := 0 } s)) ∧
  WordRow 0x12 .ringReset (fun arg _ s => decide (arg < 2 ^ 18) && (getRing s arg).state != .stopped)
    (fun ch tag _ _ s => postReply ch tag .badState 0 [] 0 s) ∧
  WordRow 0x13 .ringQuery (fun arg _ _ => decide (arg < 2 ^ 18))
    (fun ch tag arg _ s => postReply ch tag .success (ringStateCode (getRing s arg).state + (getRing s arg).head * 2 ^ 2 + (getRing s arg).tail * 2 ^ 18) [] 0 s) ∧
  WordRow 0x18 .eventQueueCreate (fun arg p s => s.cln.eq == none && decide (6 ≤ arg ∧ arg ≤ 16) && getU p 0 8 % 4096 == 0 && getU p 8 8 % 8 == 0)
    (fun ch tag arg p s => postReply ch tag .success 0 [] 0 { s with cln := { s.cln with eq := some { base := getU p 0 8, headAddr := getU p 8 8, log2 := arg } } }) ∧
  WordRow 0x18 .eventQueueCreate (fun arg p s => s.cln.eq != none && decide (6 ≤ arg ∧ arg ≤ 16) && getU p 0 8 % 4096 == 0 && getU p 8 8 % 8 == 0) (fun ch tag _ _ s => postReply ch tag .badState 0 [] 0 s) ∧
  WordRow 0x19 .eventQueueDestroy (fun arg _ s => arg == 0 && s.cln.eq != none)
    (fun ch tag _ _ s => postReply ch tag .success 0 [] 0 { s with cln := { s.cln with eq := none } }) ∧
  WordRow 0x19 .eventQueueDestroy (fun arg _ s => arg == 0 && s.cln.eq == none) (fun ch tag _ _ s => postReply ch tag .badState 0 [] 0 s) ∧
  (∀ (ch : Nat) (input : List Byte) (s : State), wordReady ch 0xF0 s = true → wordArg (oldestWord ch s).word = 0 →
    exec (.ccsIndirect ch input) s =
      .next (putFetched (oldestWord ch s).oid (oldestWord ch s).acc (cmdOf (.mailbox ch (wordTag (oldestWord ch s).word)) ((oldestWord ch s).param.take 64) input) (wordState ch s)))

/-- R52, R55, R56, R58-R60, R72, R79, R81, R84, R411-R414, R529: rings, the sweep and restarts; what the fetch instance passes over is the model's choice (log entry 85). -/
def Obligations.RingRowsComplete : Prop :=
  (∀ (r v : Nat) (s : State), barsClosed s = false → (getRing s r).state ≠ .disabled → v < 2 ^ (getRing s r).sqLog2 → v < 2 ^ 16 →
    exec (.dbSqTailWrite r v) s = .next (hostTlp (setRing r { getRing s r with tail := v } (lightAct 0 s)))) ∧
  (∀ (r v : Nat) (s : State), barsClosed s = false → (getRing s r).state ≠ .disabled → v < 2 ^ (getRing s r).cqLog2 → v < 2 ^ 16 →
    exec (.dbCqHeadWrite r v) s = .next (hostTlp (setRing r { getRing s r with cqHead := v } (lightAct 0 s)))) ∧
  (∀ (r v : Nat) (s : State), barsClosed s = false → (getRing s r).state = .disabled →
    exec (.dbSqTailWrite r v) s = .next (hostTlp { lightAct 0 s with cln := { s.cln with dbDrop := min (s.cln.dbDrop + 1) (2 ^ 32 - 1) } }) ∧
    exec (.dbCqHeadWrite r v) s = .next (hostTlp { lightAct 0 s with cln := { s.cln with dbDrop := min (s.cln.dbDrop + 1) (2 ^ 32 - 1) } })) ∧
  (∀ (s : State), fwRuns s = true → s.cln.staged = [] →
    exec .cloniSweep s = .next ((List.range 32).foldl (fun t ch => acceptWord ch t) { s with cln := { s.cln with staged := [], sweepFetched := 0 } })) ∧
  (∀ (r : Nat) (passed : List Nat) (d input : List Byte) (s : State), mayFetch s (getRing s r) (cmdOf (.ring r) d input) = true → (fetchPick s passed).1 = some r →
    tagsNeeded s (cmdOf (.ring r) d input) ≤ freeTags s → ringArm s r = none →
    exec (.descriptorFetch r passed d input) s =
      .next (let x := getRing s r
        let t := lightAct 0 s
        let t := setRing r { x with head := (x.head + 1) % 2 ^ x.sqLog2, outstanding := x.outstanding + 1, live := x.live ++ [s.cln.nextOid] } { t with cln := { t.cln with nextOid := t.cln.nextOid + 1 } }
        let t := countFetch x.cls x.hdlQueue (setInst 16 (fetchPick s passed).2 t)
        putFetched s.cln.nextOid { time := s.now } (cmdOf (.ring r) d input) { t with cln := { t.cln with sweepFetched := t.cln.sweepFetched + 1 } })) ∧
  (∀ (r cid : Nat) (f : Finished) (s : State), s.cln.done.find? (isDone r cid) = some f → (getRing s r).state ≠ .disabled → 0 < cqFree (getRing s r) → halted s = false → s.cln.cfg.d3hot = false →
    exec (.commandComplete r cid) s =
      .next (drainEnd r (coalesce r f.cmd.noIrq (writeRecord r f (writeOutput f.cmd f.done { s with cln := { s.cln with done := removeFirst (isDone r cid) s.cln.done } }))))) ∧
  (∀ (r n : Nat) (s : State), (getRing s r).coalSince = some n → n + (getRing s r).coalUs * 1000 ≤ s.now →
    exec (.ringCoalTimeout r) s = .next (raiseVector (getRing s r).vector (setRing r { getRing s r with coalN := 0, coalSince := none } s))) ∧
  (∀ (r : Nat) (w q : Bool) (s : State), (getRing s r).state = .active →
    exec (.ringDmaFailure r w none q) s =
      .next (raise .ringStopped [.ctx (getRing s r).ctx] (leBytes 4 r ++ leBytes 2 0xFFFF ++ leBytes 1 (b2n w)) (setRing r { getRing s r with state := .stopped } s))) ∧
  (∀ (s : State), s.cln.phase = .fullService → s.hlt.arms = [] → s.cln.mismatches = [] →
    exec .lockstepMismatch s =
      .next (restartCloni false false { s with cln := { s.cln with lockstepFault := true, mismatches := [s.now] }, hlt := { s.hlt with tally := { s.hlt.tally with restarts := min (s.hlt.tally.restarts + 1) (2 ^ 32 - 1) } } })) ∧
  (∀ (s : State), s.cln.phase = .restarting →
    exec .cloniRestartDone s =
      .next ((List.range 32).foldl (fun t ch => abortWords ch t)
        (s.cln.fetched.foldl (fun t l => complete l.oid l.cmd { status := .aborted } t)
          (s.cln.heldDone.foldl (fun t f => answerRemote f.cmd f.done t)
            { s with cln := { s.cln with phase := s.cln.resume, ready := (s.cln.resume == .unitsStarting || s.cln.resume == .fullService), fetched := [], heldDone := [] } })))) ∧
  (∀ (s : State), s.cln.phase = .fullService →
    (∀ f ∈ s.cln.done, f.cmd.outDevice = false) →
    ∃ t, exec .functionLevelReset s = .next t ∧ t.cln.rings = [] ∧ t.cln.done = [] ∧ t.cln.cfg = {} ∧ t.cln.eq = none ∧ t.cln.fetchHold = false ∧ t.cln.plotEmb = [] ∧ t.cln.plotOln = [] ∧ t.cln.plotFld = [] ∧ t.cln.msix = [] ∧
      t.emb = s.emb ∧ t.tir = s.tir ∧ t.sdb = s.sdb ∧ t.gln = s.gln ∧ t.sec = s.sec ∧ t.oln = s.oln ∧ t.trn = s.trn ∧ t.hdl = s.hdl)

/-! The Field (file 03) -/

/-- R94, R112-R115, R117-R120: the commands of unit 0x02. -/
def Obligations.FieldCommandsComplete : Prop :=
  EndsAt 0x02 0x01 .fieldStatus (fun c s => argsOnly c [] = true ∧ bufferCheck c s = none ∧ (c.outLen = 0 ∨ 576 ≤ c.outLen))
    (fun c s => let count := fun (p : CoreState → Bool) => (coresIn s p).length
      { r0 := count inRotation + count (· == .reserve) * 2 ^ 8 + count (· == .fenced) * 2 ^ 16 + count (· == .quarantine) * 2 ^ 24 + count (· == .restricted) * 2 ^ 32 + corner s * 2 ^ 40 + fieldRate s * 2 ^ 48, r1 := measuredMv s + s.mod.fieldC * 2 ^ 16 + s.fld.target * 2 ^ 24 + b2n (powerHeld s) * 2 ^ 28 + b2n (belowGuarantee s) * 2 ^ 29, output := if c.outLen == 0 then [] else ((List.range 72).map (coreRecord s)).flatten }) (fun _ s => s) ∧
  EndsAt 0x02 0x02 .fieldSupply (fun c s => argsOnly c [(32, 0, 2), (34, 0, 16)] && argBits c 32 0 2 != 3 && (judge c { unit := 0x02, obj := 0x100 } (.value (argBits c 32 0 2)) s).1)
    (fun _ _ => {}) (fun c s => let t := (judge c { unit := 0x02, obj := 0x100 } (.value (argBits c 32 0 2)) s).2
      { t with fld := { t.fld with target := argBits c 32 0 2 } }) ∧
  EndsAt 0x02 0x02 .fieldSupply (fun c s => argsOnly c [(32, 0, 2), (34, 0, 16)] && argBits c 32 0 2 == 3 && decide (650 ≤ argU c 34 2 ∧ argU c 34 2 ≤ 900) && (judge c { unit := 0x02, obj := 0x100 } (.value (3 + 4 * argU c 34 2)) s).1)
    (fun _ _ => {}) (fun c s => let t := (judge c { unit := 0x02, obj := 0x100 } (.value (3 + 4 * argU c 34 2)) s).2
      { t with fld := { t.fld with target := 3, customMv := argU c 34 2 } }) ∧
  EndsAt 0x02 0x10 .fieldFence (fun c s => argsOnly c [(32, 0, 7)] && decide (argBits c 32 0 7 < 72) && (getCore s (argBits c 32 0 7)).state == .rotation &&
      othersAble s (argBits c 32 0 7) true && (judge c { unit := 0x02, obj := argBits c 32 0 7 } (.service 1) s).1)
    (fun _ _ => {}) (fun c s => startRuns (fenceCore (argBits c 32 0 7) 1 false (judge c { unit := 0x02, obj := argBits c 32 0 7 } (.service 1) s).2)) ∧
  EndsAt 0x02 0x11 .fieldRestrict (fun c s => argsOnly c [(32, 0, 7)] && decide (argBits c 32 0 7 < 72) && (getCore s (argBits c 32 0 7)).state == .rotation &&
      othersAble s (argBits c 32 0 7) false && (judge c { unit := 0x02, obj := argBits c 32 0 7 } (.service 2) s).1)
    (fun _ _ => {}) (fun c s => setCore (argBits c 32 0 7) { getCore s (argBits c 32 0 7) with state := .restricted, joining := false } (judge c { unit := 0x02, obj := argBits c 32 0 7 } (.service 2) s).2) ∧
  EndsAt 0x02 0x12 .fieldEnable (fun c s => argsOnly c [(32, 0, 7)] && decide (argBits c 32 0 7 < 72) && (getCore s (argBits c 32 0 7)).state == .restricted &&
      (judge c { unit := 0x02, obj := argBits c 32 0 7 } (.service 3) s).1)
    (fun _ _ => {}) (fun c s => modCore (argBits c 32 0 7) (fun x => { x with joining := true }) (judge c { unit := 0x02, obj := argBits c 32 0 7 } (.service 3) s).2) ∧
  WaitsAt 0x02 0x12 .fieldEnable (fun c s => argsOnly c [(32, 0, 7)] && decide (argBits c 32 0 7 < 72) && (getCore s (argBits c 32 0 7)).state == .fenced &&
      !isRetired s .core (argBits c 32 0 7) && (judge c { unit := 0x02, obj := argBits c 32 0 7 } (.service 3) s).1)
    (fun oid c s => modCore (argBits c 32 0 7) (fun x => { x with state := .quarantine, enableBy := [oid] }) (judge c { unit := 0x02, obj := argBits c 32 0 7 } (.service 3) s).2) ∧
  (∀ h, EndsAt 0x02 0x20 .fieldLoad (fun c s => argsOnly c [] && decide (0 < c.inLen ∧ c.inLen ≤ 2 ^ 21) && bufferCheck c s == none && decide (s.fld.programs.length < 1024) && tblFree? s.fld.programs 1024 == some h)
    (fun _ _ => { r0 := h }) (fun c s => { s with fld := { s.fld with programs := tblSet s.fld.programs h { ctx := cmdCtx s c, image := c.input } } })) ∧
  (∀ p, WaitsAt 0x02 0x21 .fieldRun (fun c s =>
      let cores := (List.range 72).filter (fun n => bitOf (argU c 32 9) n)
      argsOnly c [(32, 0, 72), (41, 0, 6), (48, 0, 32), (56, 0, 64)] && !cores.isEmpty && argBits c 41 0 4 != 0 && (argBits c 41 0 4 % 4 == 0 || argBits c 41 4 1 == 1) &&
      tblGet? s.fld.programs (argU c 48 4) == some p && mayName s c p.ctx && cores.all (fun n => (getCore s n).state == .rotation))
    (fun oid c s =>
      let cores := (List.range 72).filter (fun n => bitOf (argU c 32 9) n)
      let t := if argBits c 41 4 1 == 1 then cores.foldl (fun s n => modCore n (fun x => { x with exclusive := if x.exclusive.isNone then some oid else x.exclusive }) s) s else s
      startRanks oid (setRun oid { oid := oid, ctx := p.ctx, program := argU c 48 4, arg := argU c 56 8, threads := argBits c 41 0 4, exclusive := argBits c 41 4 1 == 1, replayable := argBits c 41 5 1 == 1, ranks := cores.map (fun n => { core := n }) } t))) ∧
  (∀ k r, EndsAt 0x02 0x22 .fieldStop (fun c s => argsOnly c [(32, 0, 16)] &&
      s.cln.inflight.find? (fun e => e.2.unit == 0x02 && e.2.verb == 0x21 && e.2.cid == argU c 32 2 && sameIssuer e.2.issuer c.issuer && tblHas s.fld.runs e.1) == some (k, r))
    (fun _ _ => {}) (fun _ s => endRun k 1 (Config.measure 1 s.free) false { s with free := s.free + 1 }))

/-- R28, R89-R91, R94, R109, R115, R116, R120, R124, R125: rates, the power hold, runs, reserve cores and what takes a core out of rotation. -/
def Obligations.FieldEventsComplete : Prop :=
  (∀ (rs : List CoreReading) (s : State), exec (.rateUpdate rs) s = .next (trackStraggler (trackSlow (rs.foldl (fun s r => readCore r s) s)))) ∧
  (∀ (mv da ask : Nat) (sense : List Nat) (s : State), targetMv s ≤ holdLevel s mv da ask →
    exec (.powerHoldAdjust mv da ask sense) s =
      .next { s with fld := { s.fld with holdMv := none, sense := sense.map (fun v => min v (ceilingMv s)) }, mod := { s.mod with inputMv := mv, inputDa := da, heldSince := none } }) ∧
  (∀ (mv da ask : Nat) (sense : List Nat) (s : State), holdLevel s mv da ask < targetMv s →
    exec (.powerHoldAdjust mv da ask sense) s =
      .next (let h := max 650 (holdLevel s mv da ask)
        { s with fld := { s.fld with holdMv := some h, sense := sense.map (fun v => min v (min h (ceilingMv s))) }, mod := { s.mod with inputMv := mv, inputDa := da, heldSince := some (s.mod.heldSince.getD s.now) } })) ∧
  (∀ (mv da ask : Nat) (sense : List Nat) (s : State), min (tdpW s * 10000) (mv * 600) < mv * da → 650 < demandMv s →
    ∃ t, exec (.powerHoldAdjust mv da ask sense) s = .next t ∧ demandMv t < demandMv s) ∧
  (∀ (mv da ask : Nat) (sense : List Nat) (s : State), mv * da ≤ min (tdpW s * 10000) (mv * 600) → targetMv s ≤ ask →
    ∃ t, exec (.powerHoldAdjust mv da ask sense) s = .next t ∧ demandMv t = ceilingMv s) ∧
  (∀ (ring cid k : Nat) (v : Word) (bad : Bool) (c : Cmd) (r : Run) (s : State), inflightOf s ring cid (fun c => c.unit == 0x02 && c.verb == 0x21) = some (k, c) →
    tblGet? s.fld.runs k = some r → r.ranks.all (fun x => if x.lost then !canRerun s r x else x.started) = true →
    exec (.fieldRunEnd ring cid v bad) s = .next (endRun k 0 v.toNat bad s)) ∧
  (∀ (ring cid rank k n : Nat) (c : Cmd) (r : Run) (x : Rank) (s : State), inflightOf s ring cid (fun c => c.unit == 0x02 && c.verb == 0x21) = some (k, c) →
    tblGet? s.fld.runs k = some r → r.ranks[rank]? = some x → x.lost = true → x.next = none → r.replayable = true →
    ((x.called = some n ∧ (getCore s n).state = .rotation) ∨
      (x.called = none ∧ (coresIn s (· == .rotation)).find? (fun n => !r.ranks.any (fun y => (y.core == n && !y.lost) || y.next == some n)) = some n)) →
    exec (.rankRestart ring cid rank) s = .next (startRanks k (chooseCore k rank n r x s))) ∧
  (∀ (s : State), exec .reserveJoin s = .next (checkGuarantee (workBoundary s))) ∧
  (∀ (n : Nat) (s : State), (getCore s n).state = .reserve → (getCore s n).joining = false →
    exec (.reserveSelfTest n) s = .next (setCore n { getCore s n with testing := true } s)) ∧
  (∀ (n : Nat) (s : State), (getCore s n).state = .reserve → (getCore s n).testing = true → s.hlt.arms = [] →
    exec (.reserveTestDone n true) s = .next (setCore n { getCore s n with testing := false } s) ∧
    exec (.reserveTestDone n false) s = .next (fenceCore n 5 false (countFault .core n 6 none false (setCore n { getCore s n with testing := false } s)))) ∧
  (∀ (n : Nat) (s : State), inRotation (getCore s n).state = true → threadsLive s n ≠ 0 → s.hlt.arms = [] →
    exec (.coreStallDetect n) s = .next (startRuns (fenceCore n 2 false s))) ∧
  (∀ (n t : Nat) (s : State), inRotation (getCore s n).state = true → (getCore s n).lowSince = some t → t + 10000000 ≤ s.now →
    exec (.paceLowDetect n) s = .next (startRuns (fenceCore n 6 false (countFault .core n 4 (some 2) false s)))) ∧
  (∀ (n t : Nat) (s : State), (getCore s n).state = .rotation → (getCore s n).slowSince = some t → t + 100000000 ≤ s.now → (getCore s n).ctrl.slowRestrict = false →
    exec (.coreSlowDetect n) s =
      .next (let t := raiseNode .coreSlow (leBytes 1 n ++ zeros 1 ++ leBytes 2 (getCore s n).rate ++ leBytes 2 (medianRate s)) s
        countFault .core n 5 (some 3) false (modCore n (fun c => { c with slowSince := none }) t)))

/-- R99-R103, R105, R120: messages between cores, the mesh's resends, errors of the operand stores. -/
def Obligations.MeshAndStoreRowsComplete : Prop :=
  (∀ (core thread dst dt tag : Nat) (p : List Byte) (s : State), inRotation (getCore s core).state = true → stageHeld s core = false → thread < 4 → dt < 4 → dst < 72 → p.length ≤ 4096 →
    reachable s dst = true →
    exec (.meshSend core thread dst dt tag p) s =
      .next (let c := getCore s core
        let k := thread * 512 + dst * 4 + dt
        let m : MeshMsg := { srcCore := core, srcThread := thread, dstCore := dst, dstThread := dt, tag := tag % 2 ^ 32, seq := tblGetD c.seqOut k 0, payload := p }
        let t := setCore core { c with seqOut := tblMod c.seqOut k 0 (fun n => (n + 1) % 2 ^ 32) } s
        settleMesh { t with fld := { t.fld with mesh := t.fld.mesh ++ [{ msg := m, place := .sendQueue, route := [] }] } })) ∧
  (∀ (core thread dst dt tag : Nat) (p : List Byte) (s : State), inRotation (getCore s core).state = true → stageHeld s core = false → thread < 4 → dt < 4 → dst < 72 → p.length ≤ 4096 →
    reachable s dst = false →
    exec (.meshSend core thread dst dt tag p) s = .next (modCore core (fun c => { c with bounced := true, bounceCount := satAdd 16 c.bounceCount 1, sendStatus := tblSet c.sendStatus thread .undeliverable }) s)) ∧
  (∀ (core dst dt : Nat) (e : MeshEntry) (s : State), firstOfFlow s core dst dt = some e → e.place = .onMesh → reachable s dst = true → (tblGetD (getCore s dst).rxq dt []).length < 63 →
    exec (.meshDeliver core e.msg.srcThread dst dt) s =
      .next (let t := modCore core (fun c => { c with sendStatus := tblSet c.sendStatus e.msg.srcThread .success }) s
        let t := modCore dst (fun c => { c with rxq := tblMod c.rxq dt [] (fun q => q ++ [entryBytes e.msg]) }) t
        settleMesh { t with fld := { t.fld with mesh := removeFirst (· == e) t.fld.mesh } })) ∧
  (∀ (core dst dt : Nat) (e : MeshEntry) (s : State), firstOfFlow s core dst dt = some e → e.place = .onMesh → reachable s dst = true → 63 ≤ (tblGetD (getCore s dst).rxq dt []).length →
    exec (.meshDeliver core e.msg.srcThread dst dt) s =
      .next { s with fld := { s.fld with mesh := updFirst (· == e) (fun e => { e with place := .returned s.now }) s.fld.mesh } }) ∧
  (∀ (core dst dt t : Nat) (e : MeshEntry) (s : State), firstOfFlow s core dst dt = some e → e.place = .returned t → t + 1000 ≤ s.now →
    exec (.meshResend core e.msg.srcThread dst dt) s =
      .next (settleMesh { s with fld := { s.fld with mesh := updFirst (· == e) (fun e => { e with place := .onMesh }) s.fld.mesh } })) ∧
  (∀ (n : Nat) (s : State), n < 72 → (getCore s n).state ≠ .disabled → s.hlt.arms = [] → ((getCore s n).resendTimes.filter (fun t => decide (s.now < t + ms))).length < 7 →
    exec (.meshFlitError n) s =
      .next (countFault .core n 3 (some 1) false (setCore n { getCore s n with resendTimes := s.now :: (getCore s n).resendTimes.filter (fun t => decide (s.now < t + ms)) } s))) ∧
  (∀ (n : Nat) (s : State), exec (.routerBypassDone n) s = .next (settleMesh { s with fld := { s.fld with bypassing := setDel s.fld.bypassing n } })) ∧
  (∀ (n word : Nat) (t : Option Nat) (s : State), n < 72 → inRotation (getCore s n).state = true → s.hlt.arms = [] →
    exec (.sramError n false word t) s = .next (countFault .core n 0 (some 0) false (setCore n { getCore s n with sramCe := satAdd 16 (getCore s n).sramCe 1 } s))) ∧
  (∀ (n word : Nat) (s : State), n < 72 → inRotation (getCore s n).state = true → s.hlt.arms = [] → ((getCore s n).ueTimes.filter (fun t => decide (s.now < t + sec))).length < 2 →
    exec (.sramError n true word none) s =
      .next (countFault .core n 1 none false (setCore n { getCore s n with sramUe := true, ueTimes := s.now :: (getCore s n).ueTimes.filter (fun t => decide (s.now < t + sec)), poison := setAdd (getCore s n).poison word } s))) ∧
  (∀ (n word : Nat) (th : Option Nat) (s : State), n < 72 → inRotation (getCore s n).state = true → s.hlt.arms = [] → 2 ≤ ((getCore s n).ueTimes.filter (fun t => decide (s.now < t + sec))).length →
    exec (.sramError n true word th) s =
      .next (startRuns (fenceCore n 3 false (countFault .core n 1 none false (setCore n { getCore s n with sramUe := true, ueTimes := s.now :: (getCore s n).ueTimes.filter (fun t => decide (s.now < t + sec)), poison := setAdd (getCore s n).poison word } s)))))

/-! The Kiln and sheaves (files 04, 05) -/

/-- R137, R138, R149, R155, R156, R158, R161, R186, R309: the commands of units 0x03 and 0x04 that are answered at once or in flight. -/
def Obligations.KilnSheafCommandsComplete : Prop :=
  (∀ (x : Seq) (f : Format) (note : AttendNote), WaitsThen settleWork 0x03 0x01 .kilnAttend
    (fun c s => attendArgs c = true ∧ attendRules c = true ∧ atGlobals c ≤ 64 ∧ atCount c ≤ 256 ∧ (atRetrieved c && atGleaner c) = false ∧ (∀ h ∈ s.tir.held, h.seq ≠ argU c 32 4) ∧
      tblGet? s.gln.notes s.cln.current = none ∧ attendChecks c s = .ok (x, f, note) ∧
      (let a := attendOf s.cln.current c x f note (hostList c f) s
       readSheaves a ≠ [] ∧ bodiesDenied ((readSheaves a).map (·.1.body)) s = none))
    (fun oid c s =>
      let a := attendOf oid c x f note (hostList c f) s
      let t := profileAdd x.ctx 0 1 s
      formItems oid { t with kln := { t.kln with attends := tblSet t.kln.attends oid { a with skipped := ((hostList c f).filter (fun i => !((entriesOf x a.layer a.group).map (·.1)).contains i)).length } } })) ∧
  (∀ (x : Seq) (f : Format) (note : AttendNote) (found : List Nat) (g : GSearch) (t : State), WaitsThen settleWork 0x03 0x01 .kilnAttend
    (fun c s => attendArgs c = true ∧ attendRules c = true ∧ atGlobals c ≤ 64 ∧ atCount c ≤ 256 ∧ (atRetrieved c && atGleaner c) = true ∧ hasGleaner s = true ∧ (∀ h ∈ s.tir.held, h.seq ≠ argU c 32 4) ∧
      tblGet? s.gln.notes s.cln.current = none ∧ attendChecks c s = .ok (x, f, note) ∧
      attendSearch s.cln.current c f (argU c 32 4) (argBits c 36 0 12) x note.search s = (found, some g, t) ∧ g.todo ≠ [] ∧
      bodiesDenied ((readSheaves (attendOf s.cln.current c x f note found t)).map (·.1.body)) t = none)
    (fun oid c _ =>
      let u := profileAdd x.ctx 0 1 t
      addSearch g { u with kln := { u.kln with attends := tblSet u.kln.attends oid { attendOf oid c x f note found t with gleaning := true } } })) ∧
  (∀ fs, EndsAt 0x03 0x10 .kilnRopeSet (fun c s => argsOnly c [(32, 0, 8)] && argU c 32 1 != 0xFF && (match tblGet? s.kln.rope (argU c 32 1) with | none => true | some p => p.ctx == cmdCtx s c) && bufferCheck c s == none && decide (64 ≤ c.inLen) &&
      ropeHeader c.input && c.inLen == 64 + (if bitOf (inU c 0 1) 1 then 8 else 4) * (inU c 2 2 / 2) && (List.range (inU c 2 2 / 2)).mapM (ropeFreqOf c.input) == some fs &&
      (judge c { unit := 0x03, obj := argU c 32 1 } (.value (1 + leNat c.input)) s).1)
    (fun _ _ => {}) (fun c s => let t := (judge c { unit := 0x03, obj := argU c 32 1 } (.value (1 + leNat c.input)) s).2
      { t with kln := { t.kln with rope := tblSet t.kln.rope (argU c 32 1) { ctx := cmdCtx t c, halves := bitOf (inU c 0 1) 0, rotDims := inU c 2 2, freqs := fs } } })) ∧
  EndsAt 0x03 0x11 .kilnRopeClear (fun c s => argsOnly c [(32, 0, 8)] && argU c 32 1 != 0xFF && (match tblGet? s.kln.rope (argU c 32 1) with | none => true | some p => p.ctx == cmdCtx s c) &&
      (judge c { unit := 0x03, obj := argU c 32 1 } (.value 0) s).1)
    (fun _ _ => {}) (fun c s => let t := (judge c { unit := 0x03, obj := argU c 32 1 } (.value 0) s).2
      { t with kln := { t.kln with rope := tblDel t.kln.rope (argU c 32 1) } }) ∧
  WaitsAt 0x03 0x20 .kilnAdmitSet (fun c s => argsOnly c [(32, 0, 3), (34, 0, 16)] && decide (1 ≤ argBits c 32 0 3 ∧ argBits c 32 0 3 ≤ 4) && decide (16 ≤ argU c 34 2 ∧ argU c 34 2 ≤ 4096) &&
      (judge c { unit := 0x03, obj := 0x100 } (.value (argBits c 32 0 3 + 8 * argU c 34 2)) s).1)
    (fun oid c s => let t := (judge c { unit := 0x03, obj := 0x100 } (.value (argBits c 32 0 3 + 8 * argU c 34 2)) s).2
      { t with cln := { t.cln with staged := t.cln.staged ++ [{ oid := oid, cmd := c, done := {}, change := .kilnAdmit (argBits c 32 0 3) (argU c 34 2) }] } }) ∧
  EndsAt 0x03 0x21 .kilnStatus (fun c _ => argsOnly c [])
    (fun _ s => { r0 := (s.kln.items.filter (fun e => e.2.placed.isSome)).length % 65536 + s.kln.backlog.length % 65536 * 2 ^ 16 + (s.kln.backlog.filter (fun k => match tblGet? s.kln.items k with | none => false | some t => !itemResident s t)).length % 65536 * 2 ^ 32 + b2n (decide (s.kln.backlogLimit ≤ s.kln.backlog.length)) * 2 ^ 48 + s.kln.itemSlots * 2 ^ 49, r1 := s.kln.commands + s.kln.retried * 2 ^ 32 + s.kln.nanCommands * 2 ^ 48 }) (fun _ s => s) ∧
  EndsAt 0x04 0x01 .sheafFormat (fun c s => argsOnly c [(32, 0, 12)] && bufferCheck c s == none && c.inLen == formatLen (inU c 0 1 % 8) && formatOk c.input && (match fmt? s (argBits c 32 0 12) with | none => true | some f => mayName s c f.ctx && !formatUsed s (argBits c 32 0 12)) &&
      (judge c { unit := 0x04, obj := argBits c 32 0 12 } (.value (1 + leNat c.input)) s).1)
    (fun _ _ => {}) (fun c s => let t := (judge c { unit := 0x04, obj := argBits c 32 0 12 } (.value (1 + leNat c.input)) s).2
      { t with kln := { t.kln with formats := tblSet t.kln.formats (argBits c 32 0 12) (formatOf (match fmt? s (argBits c 32 0 12) with | none => cmdCtx t c | some f => f.ctx) c.input) } }) ∧
  (∀ f, EndsAt 0x04 0x02 .sheafFormatDrop (fun c s => argsOnly c [(32, 0, 12)] && fmt? s (argBits c 32 0 12) == some f && mayName s c f.ctx && !formatUsed s (argBits c 32 0 12) &&
      (judge c { unit := 0x04, obj := argBits c 32 0 12 } (.value 0) s).1)
    (fun _ _ => {}) (fun c s => let t := (judge c { unit := 0x04, obj := argBits c 32 0 12 } (.value 0) s).2
      { t with kln := { t.kln with formats := tblDel t.kln.formats (argBits c 32 0 12) } })) ∧
  (∀ (x : Seq) (e : Entry) (b : Body) (f : Format), EndsThen settleWork 0x04 0x20 .sheafRead
    (fun c s => argsOnly c [(32, 0, 32), (36, 0, 12), (38, 0, 8), (44, 0, 32)] ∧ (∀ h ∈ s.tir.held, h.seq ≠ argU c 32 4) ∧ getSeq? s (argU c 32 4) = some x ∧ argBits c 36 0 12 < x.layers ∧ argU c 38 1 < x.groups ∧ mayName s c x.ctx ∧
      tblGet? (entriesOf x (argBits c 36 0 12) (argU c 38 1)) (argU c 44 4) = some e ∧ getBody? s e.body = some b ∧ fmt? s b.fmt = some f ∧ b.prot = false ∧ bufferCheck c s = none ∧ hasLoss s (argU c 32 4) = false ∧ bodiesDenied [e.body] s = none ∧
      readable b = true ∧ (if b.escCount == 0 then (layout f).size else roundUp (layout f).size 64 + roundUp (512 + 2 * b.escCount) 64) ≤ c.outLen ∧ bodyPoisoned (useBody e.body s) f b = false)
    (fun _ s => { r0 := (layout f).size + e.tokens * 2 ^ 32, r1 := b.escCount, output := (emberRead (useBody e.body s) b.eda (layout f).size).1 ++ zeros ((if b.escCount == 0 then (layout f).size else roundUp (layout f).size 64) - (layout f).size) ++ readEsc (useBody e.body s) b, space := (if b.escCount == 0 then (layout f).size else roundUp (layout f).size 64 + roundUp (512 + 2 * b.escCount) 64) })
    (fun _ s => useBody e.body s))

/-- R180-R184: SHEAF.APPEND writes its tokens as items of its sheaves; its appended position and its items are held until they commit. -/
def Obligations.SheafAppendCompletes : Prop :=
  ∀ (x : Seq) (f : Format) (p b : Nat) (t : State), WaitsThen settleWork 0x04 0x10 .sheafAppend
    (fun c s =>
      let q := argU c 32 4
      let l := argBits c 36 0 12
      let g := argU c 38 1
      let n := argBits c 40 0 13
      let plan := tailPlan x l g
      let new := newPieces plan n
      let tail := tailBodies plan
      argsOnly c [(32, 0, 32), (36, 0, 12), (38, 0, 8), (39, 0, 1), (40, 0, 13), (42, 0, 8), (44, 0, 32)] ∧ 1 ≤ n ∧ n ≤ 4096 ∧ (∀ h ∈ s.tir.held, h.seq ≠ q) ∧ getSeq? s q = some x ∧ l < x.layers ∧ g < x.groups ∧ mayName s c x.ctx ∧
      fmt? s (x.formats.getD l 0) = some f ∧ n * (4 * tokenElems f) ≤ c.inLen ∧ bufferCheck c s = none ∧ hasLoss s q = false ∧ nextPos x l g = p ∧ (argU c 44 4 = 0xFFFFFFFF ∨ argU c 44 4 = p) ∧
      (new = [] ∨ (plan.base + 64 * (new.length - 1) ≤ 2 ^ 32 - 64 ∧ tableHolds s new.length = true)) ∧ bodiesDenied tail s = none ∧ (x.prot = false ∨ keyHeld s x.ctx (·.memKey)) ∧ (x.dirtyMark = true ∨ journalDenied s = none) ∧ badToken c f n = none ∧
      (∀ k ∈ tail, ∀ y, getBody? s k = some y → y.refs ≤ 1 ∨ readable y) ∧
      (writableTail q l g plan (min n (64 - plan.tok)) s).map (openSheaves q l g x (x.formats.getD l 0) f plan.base new) = some (.body b t))
    (fun oid c _ =>
      let q := argU c 32 4
      let l := argBits c 36 0 12
      let g := argU c 38 1
      let n := argBits c 40 0 13
      let plan := tailPlan x l g
      let ps := piecesOf plan n
      let a : Append := { cmd := c, ctx := x.ctx, seq := q, layer := l, group := g, fmt := f, pos := p, tokens := n, left := ps.length, newTail := !(newPieces plan n).isEmpty }
      let u := { t with kln := { t.kln with appends := tblSet t.kln.appends oid a, unposted := t.kln.unposted.filter (fun r => isUnposted t r.oid || t.gln.notes.any (fun e => e.2.unposted.contains r.oid)) ++ ps.map (fun p => { oid := oid, seq := q, layer := l, group := g, idx := p.1, first := p.2.1, stop := p.2.1 + p.2.2.1 }) } }
      appendItems oid x.ctx q l g ps (unhold oid u))

/-- R110, R121, R130, R184, R233: placing and committing work items, and items whose bodies come too late. -/
def Obligations.WorkItemRowsComplete : Prop :=
  (∀ (k n : Nat) (i : Item) (rest : List (Nat × Item)) (s : State), i.append = false →
    readyItems (workBoundary s) = (k, i) :: rest →
    coreFor (reserveCore ((k, i) :: rest) (workBoundary s)) k i = some n →
    exec .itemPlace s = .next (placeItem k n i (reserveCore ((k, i) :: rest) (workBoundary s)))) ∧
  (∀ (item beats n slot : Nat) (i : Item) (a : Attend) (s : State), tblGet? s.kln.items item = some i → i.placed = some (n, slot) → stageHeld s n = false → i.append = false → tblGet? s.kln.attends i.oid = some a →
    exec (.itemCommit item beats) s =
      .next (startRuns (settleWork (commitAttend item i a (tenantAdd i.ctx (fun x => { x with kilnBeats := (x.kilnBeats + beats) % 2 ^ 64 }) (lightAct 2 s)))))) ∧
  (∀ (item beats n slot : Nat) (i : Item) (s : State), tblGet? s.kln.items item = some i → i.placed = some (n, slot) → stageHeld s n = false → i.append = true →
    exec (.itemCommit item beats) s =
      .next (startRuns (settleWork (commitAppend item i (tenantAdd i.ctx (fun x => { x with kilnBeats := (x.kilnBeats + beats) % 2 ^ 64 }) (lightAct 2 s)))))) ∧
  (∀ (item : Nat) (i : Item) (s : State), tblGet? s.kln.items item = some i → i.placed = none → itemResident s i = false → i.since + tierParam s 0x05 * 1000000 ≤ s.now →
    exec (.residencyTimeout item) s = .next (settleWork (dropItems i.oid .timeout s))) ∧
  (∀ (item : Nat) (h : Held) (l : List Nat) (s : State), tblGet? s.kln.items item = none → s.tir.held.find? (fun h => h.item == item) = some h → h.why = .bodies l → l ≠ [] → h.since + tierParam s 0x05 * 1000000 ≤ s.now →
    exec (.residencyTimeout item) s = .next (settleWork (failHeld h.oid { status := .timeout } s)))

/-! Ember and plough operations (file 06) -/

/-- R189, R191-R194, R205: accesses, line errors, the scrubber and repairs. -/
def Obligations.EmberRowsComplete : Prop :=
  (∀ (eda : Nat) (data : List Byte) (bad : Bool) (reports : List Nat) (s : State), data ≠ [] → eda + data.length ≤ emberBytes s → (rowsOf eda data.length).any (accessWaits s) = false →
    coherentAt s eda = none →
    exec (.emberAccess eda true data bad reports) s = .next (settleWork (emberWriteP eda data bad (dieReports eda data.length reports (countWaits true eda data.length s))))) ∧
  (∀ (eda : Nat) (data : List Byte) (bad : Bool) (reports : List Nat) (s : State), data ≠ [] → eda + data.length ≤ emberBytes s → (rowsOf eda data.length).any (accessWaits s) = false →
    coherentAt s eda = none → s.hlt.arms = [] →
    exec (.emberAccess eda false data bad reports) s = .next (settleWork (dieReports eda data.length reports (countWaits false eda data.length s)))) ∧
  (∀ (eda : Nat) (scrub : Bool) (s : State), eda < emberBytes s → chanOut s (chanOf s eda) = false → s.hlt.arms = [] →
    exec (.emberLineError eda false scrub) s = .next (settleWork (lineCorrected eda false s)) ∧
    exec (.emberLineError eda true scrub) s = .next (settleWork (lineLost (eda / 64 * 64) scrub false s))) ∧
  (∀ (m : Nat) (s : State), m < nChans s → (getChan s m).state = .service → (getChan s m).repairing.contains ((getChan s m).frameNow * 64 + (getChan s m).bankNow) = false →
    fencesAt s (rowEda (nChans s) m (getChan s m).bankNow (getChan s m).frameNow) = [] →
    exec (.scrubStep m [] []) s = .next (settleWork (scrubNext m s))) ∧
  (∀ (m i : Nat) (s : State), m < nChans s → i < 16 → (getChan s m).state = .service → (getChan s m).repairing.contains ((getChan s m).frameNow * 64 + (getChan s m).bankNow) = false →
    fencesAt s (rowEda (nChans s) m (getChan s m).bankNow (getChan s m).frameNow) = [] → (getChan s m).ceRowsLast.contains ((getChan s m).frameNow * 64 + (getChan s m).bankNow) = true →
    exec (.scrubStep m [i] []) s =
      .next (settleWork (scrubNext m (modChan m (fun c => { c with ceRows := setAdd c.ceRows ((getChan s m).frameNow * 64 + (getChan s m).bankNow), repairing := if bankSpare m c ((getChan s m).frameNow * 64 + (getChan s m).bankNow) then setAdd c.repairing ((getChan s m).frameNow * 64 + (getChan s m).bankNow) else c.repairing })
        (lineCorrected (rowEda (nChans s) m (getChan s m).bankNow (getChan s m).frameNow + 64 * i) false s))))) ∧
  (∀ (m row : Nat) (s : State), (getChan s m).repairing.contains row = true →
    exec (.softRepairDone m row) s =
      .next (strainAdd .channel m 2 1 (tallyAdd .channel m 4 1 (setChan m { getChan s m with repairing := setDel (getChan s m).repairing row, repaired := setAdd (getChan s m).repaired row, spareRows := (getChan s m).spareRows - 1, pprDone := true, ceRows := setDel (getChan s m).ceRows row, ceRowsLast := setDel (getChan s m).ceRowsLast row } s))))

/-- R197-R201, R204-R208, R448: plough operations from their acceptance to their completion; a fill of a protected span is refused. -/
def Obligations.PloughRowsComplete : Prop :=
  (∀ d, WaitsAt 0x05 0x01 .ploughFill (fun c s => ploughArgsOk (.fill (argU c 56 8)) c = true ∧ argBits c 32 0 1 = 0 ∧ ploughSpans s (.fill (argU c 56 8)) c = .ok [d] ∧ ploughDenied s (.fill (argU c 56 8)) c true = false ∧ s.emb.ploughs.length < 64)
    (fun oid c s => acceptPlough oid { oid := none, kind := .fill (argU c 56 8), frames := false, dst := d, srcA := 0, srcB := 0, count := argU c 36 4, chans := spanChans s [d] (argU c 36 4) } s)) ∧
  WaitsAt 0x05 0x01 .ploughFill (fun c s => ploughArgsOk (.fill (argU c 56 8)) c = true ∧ argBits c 32 0 1 = 1 ∧ isSecure c = true ∧ (plotChans s c).all (chanOut s) = false ∧ s.emb.ploughs.length < 64)
    (fun oid c s => acceptPlough oid { oid := none, kind := .fill (argU c 56 8), frames := true, dst := argBits c 48 0 15, srcA := 0, srcB := 0, count := argU c 36 4, chans := plotChans s c } s) ∧
  (∀ d a, WaitsAt 0x05 0x02 .ploughCopy (fun c s => ploughArgsOk .copy c = true ∧ argBits c 32 0 1 = 0 ∧ ploughSpans s .copy c = .ok [d, a] ∧ overlap d a (1024 * argU c 36 4) = false ∧
      (argBits c 32 1 1 = 1 ∨ a % frameSize s = d % frameSize s) ∧ ploughDenied s .copy c (a % frameSize s == d % frameSize s) = false ∧ s.emb.ploughs.length < 64)
    (fun oid c s => acceptPlough oid { oid := none, kind := .copy, frames := false, dst := d, srcA := a, srcB := 0, count := argU c 36 4, chans := spanChans s [d, a] (argU c 36 4) } s)) ∧
  (∀ d a b, WaitsAt 0x05 0x03 .ploughLogic (fun c s => ploughArgsOk (.logic (argBits c 33 0 2)) c = true ∧ argBits c 32 0 1 = 0 ∧ ploughSpans s (.logic (argBits c 33 0 2)) c = .ok [d, a, b] ∧
      (a = d ∨ overlap d a (1024 * argU c 36 4) = false) ∧ (b = d ∨ overlap d b (1024 * argU c 36 4) = false) ∧ a % frameSize s = d % frameSize s ∧ b % frameSize s = d % frameSize s ∧ ploughDenied s (.logic (argBits c 33 0 2)) c true = false ∧ s.emb.ploughs.length < 64)
    (fun oid c s => acceptPlough oid { oid := none, kind := .logic (argBits c 33 0 2), frames := false, dst := d, srcA := a, srcB := b, count := argU c 36 4, chans := spanChans s [d, a, b] (argU c 36 4) } s)) ∧
  WaitsAt 0x05 0x02 .ploughCopy (fun c s => ploughArgsOk .copy c = true ∧ argBits c 32 0 1 = 1 ∧ isSecure c = true ∧ overlap (argBits c 48 0 15) (argBits c 50 0 15) (argU c 36 4) = false ∧ (plotChans s c).all (chanOut s) = false ∧ s.emb.ploughs.length < 64)
    (fun oid c s => acceptPlough oid { oid := none, kind := .copy, frames := true, dst := argBits c 48 0 15, srcA := argBits c 50 0 15, srcB := 0, count := argU c 36 4, chans := plotChans s c } s) ∧
  WaitsAt 0x05 0x03 .ploughLogic (fun c s => ploughArgsOk (.logic (argBits c 33 0 2)) c = true ∧ argBits c 32 0 1 = 1 ∧ isSecure c = true ∧ (argBits c 50 0 15 = argBits c 48 0 15 ∨ overlap (argBits c 48 0 15) (argBits c 50 0 15) (argU c 36 4) = false) ∧
      (argU c 40 8 = argBits c 48 0 15 ∨ overlap (argBits c 48 0 15) (argU c 40 8) (argU c 36 4) = false) ∧ (plotChans s c).all (chanOut s) = false ∧ s.emb.ploughs.length < 64)
    (fun oid c s => acceptPlough oid { oid := none, kind := .logic (argBits c 33 0 2), frames := true, dst := argBits c 48 0 15, srcA := argBits c 50 0 15, srcB := argU c 40 8, count := argU c 36 4, chans := plotChans s c } s) ∧
  (∀ d, EndsAt 0x05 0x01 .ploughFill (fun c s => ploughArgsOk (.fill (argU c 56 8)) c = true ∧ argBits c 32 0 1 = 0 ∧ ploughSpans s (.fill (argU c 56 8)) c = .ok [d] ∧ protectedAt s c.outAddr = true) (fun _ _ => { status := .permission }) (fun _ s => s)) ∧
  (∀ (k m : Nat) (o : Plough) (s : State), getPlough? s k = some o → o.chans.contains m = true → o.fenced.contains m = false → (getChan s m).state = .service → (∀ j ∈ ploughOps s, j < k → unfenced s j m = false) →
    exec (.ploughFenceInstall k m) s = .next (setPlough k { o with fenced := setAdd o.fenced m } (modChan m (fun c => { c with fences := c.fences ++ [k] }) s))) ∧
  (∀ (k m i : Nat) (o : Plough) (s : State), getPlough? s k = some o → (getChan s m).fences.contains k = true → (getChan s m).state = .service →
    (ploughRows s o m).find? (fun i => !rowDone s o m i && indexReady s o k m i) = some i →
    exec (.ploughRowStep k m) s = .next (settleStep k m i s)) ∧
  (∀ (k oid : Nat) (o : Plough) (s : State), getPlough? s k = some o → ploughOver s o = true → o.oid = some oid →
    exec (.ploughComplete k) s =
      .next (finish oid { status := (if o.poisoned != 0 then .memoryError else if !o.skipped.isEmpty then .partially else .success), r0 := o.inBank % 2 ^ 32 + 2 ^ 32 * (o.bus % 2 ^ 32), r1 := o.line % 2 ^ 32 + 2 ^ 32 * (o.skipped.length % 2 ^ 16) + 2 ^ 48 * min 0xFFFF o.poisoned }
        (o.chans.foldl (fun s m => modChan m (fun c => { c with fences := setDel c.fences k }) s) { s with emb := { s.emb with ploughs := tblDel s.emb.ploughs k } })))

/-! Sequences, tiers and Fallow (file 07) -/

/-- R211-R219, R223, R247: the commands on sequences, pins and regions. -/
def Obligations.TierSequenceCommandsComplete : Prop :=
  EndsAt 0x06 0x01 .tierSeqCreate (fun c s =>
      let ids := (List.range (argBits c 32 0 13)).map (fun i => inU c (2 * i) 2)
      argsOnly c [(32, 0, 13), (34, 0, 8), (35, 0, 1), (36, 0, 32), (42, 0, 8)] = true ∧ 1 ≤ argBits c 32 0 13 ∧ argBits c 32 0 13 ≤ 4096 ∧ argU c 34 1 ≠ 0 ∧ bufferCheck c s = none ∧ 2 * argBits c 32 0 13 ≤ c.inLen ∧
      (∀ k ∈ ids, ∃ f, fmt? s k = some f ∧ mayName s c f.ctx = true) ∧ s.tir.seqs.length < 1048576 ∧ argBits c 35 0 1 = 0)
    (fun _ s => { r0 := freshSeq s })
    (fun c s => setSeq (freshSeq s) { ctx := cmdCtx s c, layers := argBits c 32 0 13, groups := argU c 34 1, formats := (List.range (argBits c 32 0 13)).map (fun i => inU c (2 * i) 2), prot := ((getCtx? s (cmdCtx s c)).getD {}).protRegions, startPos := argU c 36 4 } { s with tir := { s.tir with nextSeq := (freshSeq s + 1) % (2 ^ 32 - 1) } }) ∧
  (∀ x, EndsThen settleWork 0x06 0x02 .tierSeqFork (fun c s => argsOnly c [(32, 0, 32), (36, 0, 32)] = true ∧ getSeq? s (argU c 32 4) = some x ∧ mayName s c x.ctx = true ∧ (∀ h ∈ s.tir.held, h.seq ≠ argU c 32 4) ∧ (∀ e ∈ s.kln.appends, e.2.seq ≠ argU c 32 4) ∧
      x.startPos < argU c 36 4 ∧ (∀ p ∈ lgPairs x, argU c 36 4 ≤ nextPos x p.1 p.2) ∧ s.tir.seqs.length < 1048576 ∧ tableHolds s (allEntries (forkedSeq (argU c 36 4) x)).length = true)
    (fun _ s => { r0 := freshSeq s }) (fun c s => forkSeq s.cln.current (argU c 32 4) (argU c 36 4) x s)) ∧
  (∀ x, EndsThen settleWork 0x06 0x03 .tierSeqDestroy (fun c s => argsOnly c [(32, 0, 32)] = true ∧ getSeq? s (argU c 32 4) = some x ∧ mayName s c x.ctx = true ∧ s.tir.held = [] ∧
      (judge c { unit := 0x06, obj := argU c 32 4 } (.content 1) s).1 = true)
    (fun _ _ => {}) (fun c s => destroySeq (argU c 32 4) (judge c { unit := 0x06, obj := argU c 32 4 } (.content 1) s).2)) ∧
  (∀ x, EndsThen settleWork 0x06 0x04 .tierSeqTruncate (fun c s => argsOnly c [(32, 0, 32), (36, 0, 32)] = true ∧ getSeq? s (argU c 32 4) = some x ∧ mayName s c x.ctx = true ∧ s.tir.held = [] ∧
      (∀ e ∈ s.kln.appends, e.2.seq ≠ argU c 32 4) ∧ (∀ e ∈ s.kln.attends, e.2.seq ≠ argU c 32 4) ∧ (judge c { unit := 0x06, obj := argU c 32 4 } (.content 2) s).1 = true ∧
      x.startPos ≤ argU c 36 4 ∧ argU c 36 4 ≤ seqNextPos x ∧ (∀ e ∈ allEntries x, argU c 36 4 ≤ e.2.2.basePos ∨ e.2.2.basePos + e.2.2.tokens ≤ argU c 36 4) ∧
      (∀ e ∈ allEntries x, ∀ b, getBody? s e.2.2.body = some b → b.state ≠ .lost) ∧ tblGet? s.tir.journal (argU c 32 4) = none ∧
      tblGet? (truncateRest s.cln.current (argU c 32 4) (argU c 36 4) x (judge c { unit := 0x06, obj := argU c 32 4 } (.content 2) s).2).tir.journal (argU c 32 4) = none)
    (fun c s => let t := truncateRest s.cln.current (argU c 32 4) (argU c 36 4) x (judge c { unit := 0x06, obj := argU c 32 4 } (.content 2) s).2
      { r0 := ((getSeq? t (argU c 32 4)).elim (argU c 36 4) seqNextPos) % 2 ^ 32 })
    (fun c s => noteClean [argU c 32 4] (truncateRest s.cln.current (argU c 32 4) (argU c 36 4) x (judge c { unit := 0x06, obj := argU c 32 4 } (.content 2) s).2))) ∧
  (∀ x es, EndsThen settleWork 0x06 0x05 .tierRemap (fun c s => argsOnly c [(32, 0, 32), (36, 0, 16), (38, 0, 8), (40, 0, 32), (44, 0, 32), (48, 0, 32)] = true ∧ getSeq? s (argU c 32 4) = some x ∧ mayName s c x.ctx = true ∧ s.tir.held = [] ∧
      (∀ e ∈ s.kln.appends, e.2.seq ≠ argU c 32 4) ∧ (∀ e ∈ s.kln.attends, e.2.seq ≠ argU c 32 4) ∧ namedEntries c x true = some es ∧ (judge c { unit := 0x06, obj := argU c 32 4 + 2 ^ 32 } (.value c.args.toNat) s).1 = true ∧
      (∀ e ∈ es, 0 ≤ (e.2.2.basePos : Int) + ofTwos 32 (argU c 48 4) ∧ (e.2.2.basePos : Int) + ofTwos 32 (argU c 48 4) ≤ 2 ^ 32 - 64) ∧ tblGet? s.tir.journal (argU c 32 4) = none ∧
      tblGet? (remapSeq (argU c 32 4) (ofTwos 32 (argU c 48 4)) es (judge c { unit := 0x06, obj := argU c 32 4 + 2 ^ 32 } (.value c.args.toNat) s).2).tir.journal (argU c 32 4) = none)
    (fun _ _ => {}) (fun c s => remapSeq (argU c 32 4) (ofTwos 32 (argU c 48 4)) es (judge c { unit := 0x06, obj := argU c 32 4 + 2 ^ 32 } (.value c.args.toNat) s).2)) ∧
  (∀ x, EndsThen settleWork 0x06 0x08 .tierQuery (fun c s => argsOnly c [(32, 0, 32), (36, 0, 16), (38, 0, 8), (40, 0, 32), (44, 0, 32)] = true ∧ getSeq? s (argU c 32 4) = some x ∧ mayName s c x.ctx = true ∧ argU c 36 2 < x.layers ∧ argU c 38 1 < x.groups ∧
      (∀ h ∈ s.tir.held, h.seq ≠ argU c 32 4) ∧ 32 * argU c 44 4 ≤ c.outLen ∧ bufferCheck c s = none)
    (fun c s => { r0 := nextPos x (argU c 36 2) (argU c 38 1) % 2 ^ 32, r1 := (entriesOf x (argU c 36 2) (argU c 38 1)).length, output := ((List.range (argU c 44 4)).map (fun k => sheafRecord s ((argU c 40 4 + k) % 2 ^ 32) (tblGet? (entriesOf x (argU c 36 2) (argU c 38 1)) (argU c 40 4 + k)))).flatten, space := 32 * argU c 44 4 })
    (fun _ s => s)) ∧
  (∀ x es, EndsThen settleWork 0x06 0x10 .tierPin (fun c s => argsOnly c [(32, 0, 32), (36, 0, 16), (38, 0, 8), (40, 0, 32), (44, 0, 32), (52, 0, 1)] = true ∧ getSeq? s (argU c 32 4) = some x ∧ mayName s c x.ctx = true ∧ namedEntries c x true = some es ∧
      (∀ h ∈ s.tir.held, h.seq ≠ argU c 32 4) ∧ (s.tir.pins.filter (fun p => p.2.ctx == x.ctx)).length < 65536 ∧ argBits c 52 0 1 = 0 ∧ (∀ e ∈ es, ∀ b, getBody? s e.2.2.body = some b → b.explicit ≠ 0) ∧ pinnedHalves s false * 1000 ≤ tierParam s 0x06 * poolTotal s)
    (fun _ s => { r0 := freshPin s }) (fun c s => pinSeq (argU c 32 4) x.ctx ((es.map (fun e => e.2.2.body)).eraseDups) [] s)) ∧
  (∀ p, EndsAt 0x06 0x11 .tierUnpin (fun c s => argsOnly c [(32, 0, 32)] = true ∧ tblGet? s.tir.pins (argU c 32 4) = some p ∧ mayName s c p.ctx = true)
    (fun _ _ => {}) (fun c s => dropPin (argU c 32 4) s)) ∧
  (∀ eda, EndsThen settleWork 0x06 0x18 .tierRegionAlloc (fun c s => argsOnly c [(32, 0, 32), (36, 0, 1), (40, 0, 64)] = true ∧ 1 ≤ argU c 32 4 ∧ argU c 32 4 ≤ frameChunks s ∧ argBits c 36 0 1 = 0 ∧ argU c 40 8 = 0 ∧ s.tir.regions.length < 1048576 ∧
      ctxProtects s (cmdCtx s c) = false ∧ findRun s (argU c 32 4) = some eda)
    (fun c s => { r0 := (addRegion { ctx := cmdCtx s c, eda := eda, chunks := argU c 32 4, frames := false, prot := false, lineage := 0 } s).1 * 2 ^ 40 })
    (fun c s => (addRegion { ctx := cmdCtx s c, eda := eda, chunks := argU c 32 4, frames := false, prot := false, lineage := 0 } s).2)) ∧
  (∀ r off, EndsAt 0x06 0x19 .tierRegionFree (fun c s => argsOnly c [(40, 0, 64)] = true ∧ resolve s (argU c 40 8) = some (r, off) ∧ r.comp = none ∧ mayName s c r.ctx = true)
    (fun _ _ => {}) (fun c s => freeRegion (bitsOf (argU c 40 8) 40 24) r s))

/-- R212, R226, R235, R238, R240, R241, R245: flush, parameters, reports, and the commands of Fallow. -/
def Obligations.TierOtherCommandsComplete : Prop :=
  (∀ x, EndsAt 0x06 0x12 .tierFlush (fun c s => argsOnly c [(32, 0, 32)] = true ∧ argU c 32 4 ≠ 0xFFFFFFFF ∧ namedSeq? s (argU c 32 4) = some x ∧ mayName s c x.ctx = true ∧ s.tir.mounted = true ∧ (∀ e ∈ allEntries x, ∀ b, getBody? s e.2.2.body = some b → b.dirty = false ∨ b.state = .lost))
    (fun _ _ => {}) (fun _ s => s)) ∧
  EndsAt 0x06 0x20 .tierConfig (fun c s => argsOnly c [(32, 0, 16), (40, 0, 64)] = true ∧ tierRange s (argU c 32 2) (argU c 40 8) (tierParam s) = true ∧ (judge c { unit := 0x06, obj := 2 ^ 33 + argU c 32 2 } (.value (argU c 40 8)) s).1 = true)
    (fun c s => { r0 := tierParam s (argU c 32 2) }) (fun c s => let t := (judge c { unit := 0x06, obj := 2 ^ 33 + argU c 32 2 } (.value (argU c 40 8)) s).2
      { t with tir := { t.tir with params := tblSet t.tir.params (argU c 32 2) (argU c 40 8) } }) ∧
  EndsAt 0x06 0x21 .tierStatus (fun c _ => argsOnly c [] = true)
    (fun _ s => { r0 := poolFree s / 2048 % 2 ^ 32 + pinnedHalves s true / 2048 * 2 ^ 32, r1 := sumN (s.tir.bodies.map (fun e => if e.2.dirty then heldHalves e.2 else 0)) / 2048 + min 0xFFFF ((s.tir.demand.length + s.tir.advisory.length) / 16) * 2 ^ 32 + b2n s.tir.mounted * 2 ^ 48 + b2n s.tir.readOnly * 2 ^ 49 + b2n s.tir.starving * 2 ^ 50 }) (fun _ s => s) ∧
  EndsAt 0x06 0x22 .tierWear (fun c _ => argsOnly c [] = true)
    (fun _ s => let day := s.tir.wear.recent.filter (fun e => decide (s.now < e.1 + 86400 * sec))
      { r0 := s.tir.wear.hostBytes / 10 ^ 9 % 2 ^ 48 + lifeUsed s * 2 ^ 48, r1 := min 0xFFFF (sumN (day.map (fun e => e.2.2)) * 100 / sumN (day.map (fun e => e.2.1))) + spareLeft s * 2 ^ 16 + min 0xFFFF s.tir.wear.peMean * 2 ^ 32 + min 0xFFFF s.tir.wear.peMax * 2 ^ 48 }) (fun _ s => s) ∧
  EndsAt 0x06 0x23 .tierLossList (fun c s => argsOnly c [] = true ∧ bufferCheck c s = none ∧ s.tir.losses = []) (fun _ _ => {}) (fun _ s => s) ∧
  (∀ t, EndsAt 0x06 0x30 .tierLend (fun c s => argsOnly c [(32, 0, 32)] = true ∧ argU c 32 4 ≤ mostAllots s ∧ s.tir.allots.length < argU c 32 4 ∧ addAllots (argU c 32 4 - s.tir.allots.length) s = some t ∧ (judge c { unit := 0x06, obj := 2 ^ 40 } (.value (argU c 32 4)) t).1 = true)
    (fun c _ => let u := (judge c { unit := 0x06, obj := 2 ^ 40 } (.value (argU c 32 4)) t).2
      { r0 := lentCount (withdrawIdle { u with tir := { u.tir with offered := argU c 32 4 } }) })
    (fun c _ => let u := (judge c { unit := 0x06, obj := 2 ^ 40 } (.value (argU c 32 4)) t).2
      withdrawIdle { u with tir := { u.tir with offered := argU c 32 4 } })) ∧
  EndsAt 0x06 0x31 .tierReclaim (fun c s => argsOnly c [(32, 0, 32)] = true ∧ (judge c { unit := 0x06, obj := 2 ^ 41 } (.value (argU c 32 4)) s).1 = true)
    (fun _ _ => {}) (fun c s => let t := (judge c { unit := 0x06, obj := 2 ^ 41 } (.value (argU c 32 4)) s).2
      (toReclaim (argU c 32 4) (sortBy (fun (a b : Nat × Lent) => decide (a.2.granted < b.2.granted)) (t.tir.lent.filter (fun e => e.2.noticeEnd.isNone && e.2.orphanSince.isNone)))).foldl (fun u k => sendNotice k (tierParam u 0x08) u) t) ∧
  WaitsThen settleWork 0x06 0x32 .tierBorrow (fun c s => argsOnly c [(32, 0, 12), (34, 0, 16), (36, 0, 1)] = true ∧ 1 ≤ argU c 34 2 ∧ argU c 34 2 ≤ 256 ∧ argBits c 36 0 1 = 0 ∧ s.tir.comps.length + s.tir.borrowing.length < 256 ∧
      sumN (s.tir.comps.map (fun e => e.2.count)) + sumN (s.tir.borrowing.map (fun e => e.2.count)) + argU c 34 2 ≤ 4096 ∧ cannotSend s (cmdCtx s c) (argU c 32 2) 0 = false ∧ cannotSend s 0 (argU c 32 2) 0 = false ∧ maySendInput s c (argU c 32 2) false = true ∧ protSlot s 0 none = none ∧ 1 ≤ freeTags s)
    (fun oid c s =>
      let op := fun (_ : Nat) => ({ kind := .command, owner := .node, ctx := 0, key := slotKey 0 (argU c 32 2) 0 } : TOp)
      let t : State := { s with tir := { s.tir with borrowing := tblSet s.tir.borrowing (takeTag op s).1 { oid := oid, ctx := cmdCtx s c, lender := argU c 32 2, count := argU c 34 2, home := false } } }
      issueOp op none 0 { blankFrame with op := 0x07, opFlags := 1, operand := argU c 34 2 } t) ∧
  (∀ x, WaitsThen settleWork 0x06 0x33 .tierReturn (fun c s => argsOnly c [(32, 0, 16)] = true ∧ tblGet? s.tir.comps (argU c 32 2) = some x ∧ mayName s c x.ctx = true ∧ x.returnBy = none ∧ x.draining = false)
    (fun oid c s => beginDrain (argU c 32 2) { s with tir := { s.tir with comps := tblSet s.tir.comps (argU c 32 2) { x with returnBy := some oid } } }))

/-- R224, R226-R233, R236, R237, R474: epochs, write-back, the journal, eviction, fetches and the mount of Peat. -/
def Obligations.TierEventsComplete : Prop :=
  (∀ (s : State), exec .epochBoundary s =
    .next (let t : State := { s with tir := { s.tir with epoch := s.tir.epoch + 1, epochUs := tierParam s 0x01 } }
      settleWork (settleDestroys (((t.tir.bodies.filter (fun e => e.2.refs == 0 && pinsOf e.2 == 0 && decide (e.2.retireEpoch + 2 ≤ s.tir.epoch + 1))).map (·.1)).foldl (fun u b => reclaim b u) t)))) ∧
  (∀ (b : Nat) (x : Body) (s : State), getBody? s b = some x → x.dirty = true → tierParam s 0x04 ≠ 0 → x.lastAppend + tierParam s 0x04 * 1000000 ≤ s.now →
    exec (.tailIdleExpiry b) s = .next (queueWb b false s)) ∧
  (∀ (w : WbEntry) (rest : List WbEntry) (t s : State), peatWritable s = true → s.tir.wbq = w :: rest → (∀ x ∈ rest, x.expedited = false) → w.expedited = false → startWb w.body s = some t → tblGet? s.tir.snaps w.body = none →
    (t.tir.snaps.map (·.1)).find? (fun b => !tblHas s.tir.snaps b) = some w.body → exec .writebackStart s = .next ((readBack w.body t).getD s)) ∧
  (∀ (b n m k : Nat) (cp : Copy) (x : Body) (s : State), tblGet? s.tir.snaps b = some cp → getBody? s b = some x → bodyBusy s b = false → s.hlt.arms = [] →
    exec (.writebackDone b n m k) s = .next (settleWork (programDone b n m k x (if x.state == .cold then { (wbSource s b x).getD cp with group := cp.group } else cp) s))) ∧
  (∀ (b : Nat) (s : State), exec (.peatProgramFail b) s = .next (settleWork (programFail b false s))) ∧
  (∀ (g : Nat) (s : State), hasPeat s = true → g < 2 → groupReads s g = true → exec (.peatControllerTimeout g) s = .next (fencePeatGroup g 3 false s)) ∧
  (∀ (j : JPending) (rest : List JPending) (s : State), s.tir.jwait = j :: rest → s.tir.mounted = true → j.oid = none →
    exec .journalRecordDone s = .next (programRecord j.record (lightAct 3 { s with tir := { s.tir with jwait := rest } }))) ∧
  (∀ (s : State), poolAt s (tierParam s 0x02) = false → exec .evictionPass s = .next (((evictPass s).tir.evicting.map (·.1)).filter (fun b => !tblHas s.tir.evicting b) |>.foldl (fun s b => sendMove b s) (evictPass s))) ∧
  (∀ (b : Nat) (k : ColdKind) (s : State), tblGet? s.tir.evicting b = some k → bodyBusy s b = false → exec (.evictionCommit b) s = .next (commitMove b k s)) ∧
  (∀ (s : State), exec .allocationResume s = .next (settleWork (expireRoom (resumeItems (resumeHeld s))))) ∧
  (∀ (e : FetchEntry) (rest : List FetchEntry) (t s : State), fetchOrder s = e :: rest → startFetch e.body s = some t → exec .fetchStart s = .next ((readBack e.body t).getD s)) ∧
  (∀ (b : Nat) (r : Bool) (x : Body) (cp : Copy) (s : State), getBody? s b = some x → x.state = .fetching → bodyBusy s b = false → coldCopy s b x = some cp →
    exec (.fetchDone b r) s = .next (settleWork (fetchArrived b r x cp s))) ∧
  (∀ (s : State), hasPeat s = true → s.tir.mounted = false → ∃ t, exec .peatMountDone s = .next (settleWork t) ∧ t.tir.mounted = true ∧ t.emb = s.emb ∧ t.tir.journal = (tblMap s.tir.journal (fun _ j => readJournal s j)).filter (fun q => q.2.entries.any (fun g => !g.2.isEmpty)))

/-- R238-R241, R395: the exchange between tier managers, and its timers. -/
def Obligations.FallowRowsComplete : Prop :=
  (∀ n w j t, FrameRow settleWork 0x07 .fallowBorrow (fun o s => o.frame.opFlags = 1 ∧ o.frame.dstCtx = 0 ∧ o.frame.srcCtx = 0 ∧ o.frame.srcNode < 4096 ∧ grant o.frame.srcNode (o.frame.operand % 2 ^ 16) s = some (n, w, j, t))
    (fun o _ => respond (slotKey 0 o.frame.srcNode 0) o.cls { o.frame with job := j, window := w } { blankFrame with op := 0x87, opFlags := 2, msgLen := n } t)) ∧
  FrameRow settleWork 0x07 .fallowBorrow (fun o s => o.frame.opFlags = 1 ∧ o.frame.dstCtx = 0 ∧ o.frame.srcCtx = 0 ∧ o.frame.srcNode < 4096 ∧ grant o.frame.srcNode (o.frame.operand % 2 ^ 16) s = none)
    (fun o s => respond (slotKey 0 o.frame.srcNode 0) o.cls o.frame { blankFrame with op := 0x87, opFlags := 3, status := statusCode .noSpace } s) ∧
  (∀ b, FrameRow settleWork 0x87 .fallowGrant (fun o s => o.frame.opFlags = 2 ∧ o.frame.dstCtx = 0 ∧ o.frame.srcCtx = 0 ∧ o.frame.srcNode < 4096 ∧ borrowingOf s o.frame = some b)
    (fun o s =>
      let k := (tblFree? s.tir.comps (s.tir.comps.length + 1)).getD 0
      let x : Comp := { ctx := b.ctx, lender := b.lender, number := o.frame.msgLen % 2 ^ 16, count := b.count, home := b.home, window := o.frame.window, job := o.frame.job, granted := fabricTime s }
      let y : CompRec := { comp := k, peer := b.lender, lender := false, cause := 0, allots := b.count, granted := fabricTime s, ended := 0, heldMs := 0 }
      let t := endOp o.frame.tag (.good 0) s
      finish b.oid { r0 := k } { t with tir := { t.tir with borrowing := tblDel t.tir.borrowing o.frame.tag, comps := tblSet t.tir.comps k x }, hlt := { t.hlt with comps := t.hlt.comps ++ [y] } })) ∧
  (∀ b, FrameRow settleWork 0x87 .fallowRefuse (fun o s => o.frame.opFlags = 3 ∧ o.frame.dstCtx = 0 ∧ o.frame.srcCtx = 0 ∧ o.frame.srcNode < 4096 ∧ borrowingOf s o.frame = some b)
    (fun o s => let t := endOp o.frame.tag (.good 0) s
      finish b.oid { status := .noSpace } { t with tir := { t.tir with borrowing := tblDel t.tir.borrowing o.frame.tag } })) ∧
  (∀ k, FrameRow settleWork 0x07 .fallowReclaimNotice (fun o s => o.frame.opFlags = 4 ∧ o.frame.dstCtx = 0 ∧ o.frame.srcCtx = 0 ∧ o.frame.srcNode < 4096 ∧ compOf s o.frame.srcNode o.frame.msgLen = some k ∧ o.frame.operand % 2 ^ 32 ≠ 0)
    (fun o s => beginDrain k { s with tir := { s.tir with comps := tblUpd s.tir.comps k (fun c => { c with noticeEnd := some (s.now + o.frame.operand % 2 ^ 32 * 1000000) }) } })) ∧
  (∀ l, FrameRow settleWork 0x07 .fallowReturn (fun o s => o.frame.opFlags = 5 ∧ o.frame.dstCtx = 0 ∧ o.frame.srcCtx = 0 ∧ o.frame.srcNode < 4096 ∧ tblGet? s.tir.lent (o.frame.msgLen % 2 ^ 16) = some l ∧ l.borrower = o.frame.srcNode)
    (fun o s => respond (slotKey 0 o.frame.srcNode 0) o.cls o.frame { blankFrame with op := 0x87, opFlags := 6, msgLen := o.frame.msgLen % 2 ^ 16 } (zeroLent (o.frame.msgLen % 2 ^ 16) (if l.noticeEnd.isSome then 2 else 1) s))) ∧
  (∀ k x, FrameRow settleWork 0x87 .fallowReleased (fun o s => o.frame.opFlags = 6 ∧ o.frame.dstCtx = 0 ∧ o.frame.srcCtx = 0 ∧ o.frame.srcNode < 4096 ∧ compOf s o.frame.srcNode o.frame.msgLen = some k ∧ tblGet? s.tir.comps k = some x)
    (fun _ s => endBorrow k (if x.noticeEnd.isSome then 2 else 1) s)) ∧
  FrameRow settleWork 0x07 .fallowProbe (fun o _ => o.frame.opFlags = 7 ∧ o.frame.dstCtx = 0 ∧ o.frame.srcCtx = 0 ∧ o.frame.srcNode < 4096) (fun _ s => s) ∧
  (∀ (holding : List Nat) (k n : Nat) (l : Lent) (s : State), s.tir.lent = [(k, l)] → l.orphanSince = none → l.borrower = n → cannotSend s 0 n 0 = false → exec (.fallowProbeTimer holding) s = .next (sendFallow n 0x07 7 0 blankFrame s)) ∧
  (∀ (k t : Nat) (l : Lent) (s : State), tblGet? s.tir.lent k = some l → l.noticeEnd = some t → t ≤ s.now → tblGet? (zeroLent k 2 s).tir.comps k = none →
    exec (.reclaimNoticeExpiry k) s = .next (settleWork (zeroLent k 2 s))) ∧
  (∀ (k t : Nat) (x : Comp) (s : State), tblGet? s.tir.lent k = none → tblGet? s.tir.comps k = some x → x.noticeEnd = some t → t ≤ s.now →
    exec (.reclaimNoticeExpiry k) s = .next (settleWork (endBorrow k 2 (loseBodies ((compBodies (cleanToPeat k s).2 k).map (·.1)) 2 (cleanToPeat k s).2)))) ∧
  (∀ (k t : Nat) (l : Lent) (s : State), tblGet? s.tir.lent k = some l → l.orphanSince = some t → t + tierParam s 0x09 * 1000000 ≤ s.now → exec (.orphanExpiry k) s = .next (zeroLent k 3 s)) ∧
  (∀ (k : Nat) (a : Allot) (s : State), tblGet? s.tir.allots k = some a → a.state = .zeroing → s.tir.allots.length ≤ s.tir.offered →
    exec (.allotmentZeroed k) s = .next (let t := clearRuns a.runs s
      { t with tir := { t.tir with allots := tblSet t.tir.allots k { a with state := .idle } } })) ∧
  (∀ (k : Nat) (x : Comp) (s : State), tblGet? s.tir.comps k = some x → x.draining = true → x.active = true → compBodies (cleanToPeat k s).2 k = [] →
    exec (.compositionDrained k) s =
      .next (let t := (cleanToPeat k s).2
        sendFallow x.lender 0x07 5 0 { blankFrame with msgLen := x.number } { t with tir := { t.tir with comps := tblUpd t.tir.comps k (fun c => { c with active := false }) } }))

/-! Charcoal and the Seedbank (files 08, 09) -/

/-- R250-R258, R260-R262, R451: the commands of unit 0x07, the decompression of served weights among them; which of its slots and streams are meant is the model's choice (log entry 84). -/
def Obligations.CharcoalCommandsComplete : Prop :=
  EndsAt 0x07 0x01 .charcoalCompress (fun c s => charcoalChecks c s none = none ∧ namesProtected s c.inDevice c.inAddr = false ∧ namesProtected s c.outDevice c.outAddr = false ∧
      c.inLen % 2 = 0 ∧ 2 ≤ c.inLen ∧ c.inLen ≤ 33554432 ∧ compressBound (ceilDiv c.inLen 65536) ≤ c.outLen)
    (fun c s => let x := encodeStream (argBits c 32 0 1 == 1) c.input
      spoiled c s { r0 := ceilDiv c.inLen 65536 + (x.2.filter (· == 1)).length * 2 ^ 32 + (x.2.filter (· == 2)).length * 2 ^ 48, r1 := min 0xFFFF (x.1.length * 1000 / c.inLen), output := x.1, space := compressBound (ceilDiv c.inLen 65536) })
    (fun c s => countCompressed (ceilDiv c.inLen 65536) s) ∧
  (∀ es : List (List Nat), EndsAt 0x07 0x02 .charcoalDecompress (fun c s => let x := plainStream c s (weightInput c s)
      charcoalChecks c s none = none ∧ weightsAt s c.inDevice c.inAddr = none ∧ (∀ k, weightInput c s = some k → weightsFit s c k = true) ∧ 32 ≤ c.inLen ∧ streamFp16 x = (argBits c 32 0 1 == 1) ∧ origLen x ≤ c.outLen ∧
      s.hlt.arms = [] ∧ headerOk x = true ∧ decodeStream x = es.map Decoded.elems)
    (fun c s => let x := plainStream c s (weightInput c s)
      spoiled c s { r0 := ceilDiv (origLen x) 65536, r1 := 0xFFFFFFFF, output := (es.map (fun e => (e.map (leBytes 2)).flatten)).flatten, space := origLen x })
    (fun c s => countDecoded (ceilDiv (origLen (plainStream c s (weightInput c s))) 65536) 0 (noteWeights c (weightInput c s) s))) ∧
  EndsAt 0x07 0x02 .charcoalDecompress (fun c s => charcoalChecks c s none = none ∧ ((weightsAt s c.inDevice c.inAddr).isSome = true ∨ ∃ k, weightInput c s = some k ∧ weightsFit s c k = false)) (fun _ _ => { status := .permission }) (fun _ s => s) ∧
  EndsAt 0x07 0x03 .charcoalStatus (fun c s => charcoalChecks c s none = none)
    (fun _ s => { r0 := s.chr.compressed + s.chr.decompressed * 2 ^ 32, r1 := s.chr.failed }) (fun _ s => s)

/-- R265, R270-R277, R280, R282, R288, R290, R291, R293: the commands of unit 0x08. -/
def Obligations.SeedbankCommandsComplete : Prop :=
  WaitsAt 0x08 0x01 .seedLookup (fun c s => argsOnly c [(32, 0, 5), (35, 0, 8), (36, 0, 13)] = true ∧ argBits c 32 0 2 ≠ 3 ∧ 1 ≤ argBits c 36 0 13 ∧ argBits c 36 0 13 ≤ 4096 ∧
      seedChecks c (seedUnits (argBits c 32 0 2)) (recordsLen (seedUnits (argBits c 32 0 2)) (argBits c 36 0 13) (argBits c 32 2 1 == 1)) (32 * argBits c 36 0 13) s = none ∧
      queuedSearches s + (keyRecords c (seedUnits (argBits c 32 0 2)) (argBits c 36 0 13) (argBits c 32 2 1 == 1)).length ≤ seedParam s 0x03)
    (fun oid c s => let j : SearchJob := { oid := oid, ctx := cmdCtx s c, width := seedUnits (argBits c 32 0 2), kind := .lookup (argBits c 32 3 1 == 1) (argBits c 32 4 1 == 1), keys := keyRecords c (seedUnits (argBits c 32 0 2)) (argBits c 36 0 13) (argBits c 32 2 1 == 1) }
      { s with sdb := { s.sdb with jobs := s.sdb.jobs ++ [j] } }) ∧
  (∀ x n, WaitsAt 0x08 0x02 .seedStep (fun c s => argsOnly c [(32, 0, 12), (34, 0, 8), (35, 0, 8), (36, 0, 1)] = true ∧ tblGet? s.sdb.cursors (argBits c 32 0 12) = some x ∧ mayName s c x.ctx = true ∧ bufferCheck c s = none ∧
      n = (if argU c 34 1 == 0 then 256 else argU c 34 1) ∧ 32 * n ≤ c.outLen ∧ queuedSearches s + n ≤ seedParam s 0x03)
    (fun oid c s => let j : SearchJob := { oid := oid, ctx := x.ctx, width := x.width, kind := .step (argBits c 32 0 12) (argBits c 36 0 1 == 1), keys := List.replicate n (x.key, x.mask) }
      { s with sdb := { s.sdb with cursors := tblUpd s.sdb.cursors (argBits c 32 0 12) (fun x => { x with time := s.now }), jobs := s.sdb.jobs ++ [j] } })) ∧
  WaitsAt 0x08 0x03 .seedCensus (fun c s => argsOnly c [(32, 0, 3), (33, 0, 16), (35, 0, 8), (40, 0, 64)] = true ∧ argBits c 32 0 2 ≠ 3 ∧ argU c 33 2 ≤ 4095 ∧ bufferCheck c s = none ∧
      recordsLen (seedUnits (argBits c 32 0 2)) 1 (argBits c 32 2 1 == 1) ≤ c.inLen ∧ queuedSearches s + 1 ≤ seedParam s 0x03)
    (fun oid c s => let j : SearchJob := { oid := oid, ctx := cmdCtx s c, width := seedUnits (argBits c 32 0 2), kind := .census (some (argU c 33 2)) (if argU c 40 8 == 0 then 2 ^ 64 - 1 else argU c 40 8), keys := keyRecords c (seedUnits (argBits c 32 0 2)) 1 (argBits c 32 2 1 == 1) }
      { s with sdb := { s.sdb with jobs := s.sdb.jobs ++ [j] } }) ∧
  WaitsThen placeAll 0x08 0x10 .seedInsert (fun c s => argsOnly c [(32, 0, 3), (33, 0, 8), (35, 0, 8), (36, 0, 9)] = true ∧ argBits c 32 0 2 ≠ 3 ∧ 1 ≤ argBits c 36 0 9 ∧ argBits c 36 0 9 ≤ 256 ∧
      seedChecks c (seedUnits (argBits c 32 0 2)) (argBits c 36 0 9 * (keyLen (seedUnits (argBits c 32 0 2)) + 16)) 0 s = none)
    (fun oid c s => let r := judgeRecords c (cmdCtx s c) (seedUnits (argBits c 32 0 2)) ((List.range (argBits c 36 0 9)).map (hostEntry c (seedUnits (argBits c 32 0 2)))) s
      let i : Inserting := { oid := some oid, ctx := cmdCtx s c, width := seedUnits (argBits c 32 0 2), records := r.1, overruled := r.2.1 }
      { r.2.2 with sdb := { r.2.2.sdb with inserting := r.2.2.sdb.inserting ++ [i] } }) ∧
  EndsThen placeAll 0x08 0x11 .seedDelete (fun c s => argsOnly c [(32, 0, 3), (35, 0, 8), (36, 0, 32), (40, 0, 12)] = true ∧ argBits c 32 0 2 ≠ 3 ∧ seedChecks c (seedUnits (argBits c 32 0 2)) (keyLen (seedUnits (argBits c 32 0 2))) 0 s = none ∧ argBits c 32 2 1 = 0 ∧
      (judge c (seedTarget (cmdCtx s c) (seedUnits (argBits c 32 0 2)) (inU c 0 (keyLen (seedUnits (argBits c 32 0 2))))) (.content 1) s).1 = true)
    (fun c s => let r := deleteMatching (cmdCtx s c) (seedUnits (argBits c 32 0 2)) (fun e => e.key == inU c 0 (keyLen (seedUnits (argBits c 32 0 2)))) (judge c (seedTarget (cmdCtx s c) (seedUnits (argBits c 32 0 2)) (inU c 0 (keyLen (seedUnits (argBits c 32 0 2))))) (.content 1) s).2
      { status := if r.1 == 0 then .noMatch else .success, r0 := r.1 })
    (fun c s => (deleteMatching (cmdCtx s c) (seedUnits (argBits c 32 0 2)) (fun e => e.key == inU c 0 (keyLen (seedUnits (argBits c 32 0 2)))) (judge c (seedTarget (cmdCtx s c) (seedUnits (argBits c 32 0 2)) (inU c 0 (keyLen (seedUnits (argBits c 32 0 2))))) (.content 1) s).2).2) ∧
  (∀ x, EndsThen placeAll 0x08 0x12 .seedPost (fun c s => argsOnly c [(32, 0, 3), (33, 0, 8), (35, 0, 8), (36, 0, 32), (40, 0, 32), (44, 0, 32)] = true ∧ argBits c 32 0 2 ≠ 3 ∧ argU c 40 4 ≠ 0xFFFFFFFF ∧ namedSeq? s (argU c 36 4) = some x ∧ mayName s c x.ctx = true ∧
      bufferCheck c s = none ∧ keyLen (seedUnits (argBits c 32 0 2)) ≤ c.inLen ∧ x.entries = [] ∧ (ownedBanks s x.ctx (seedUnits (argBits c 32 0 2))).isEmpty = false ∧ s.sdb.posts.length < 65536)
    (fun _ _ => {}) (fun c s =>
      let p : SeedPost := { ctx := x.ctx, seq := argU c 36 4, sheaf := argU c 40 4, width := seedUnits (argBits c 32 0 2), key := inU c 0 (keyLen (seedUnits (argBits c 32 0 2))), prio := argU c 33 1, pinned := argBits c 32 2 1 == 1, user := argU c 44 4 }
      settlePosts (argU c 36 4) { s with sdb := { s.sdb with posts := s.sdb.posts ++ [p] } })) ∧
  EndsAt 0x08 0x13 .seedExport (fun c s => argsOnly c [(32, 0, 2), (35, 0, 8)] = true ∧ argBits c 32 0 2 ≠ 3 ∧ seedChecks c (seedUnits (argBits c 32 0 2)) 0 0 s = none ∧
      (((ownedBanks s (cmdCtx s c) (seedUnits (argBits c 32 0 2))).map (fun b => b.2.entries.map (·.2))).flatten).length * (keyLen (seedUnits (argBits c 32 0 2)) + 24) ≤ c.outLen)
    (fun c s => let es := ((ownedBanks s (cmdCtx s c) (seedUnits (argBits c 32 0 2))).map (fun b => b.2.entries.map (·.2))).flatten
      { r0 := es.length, output := (es.map (exportRecord (seedUnits (argBits c 32 0 2)))).flatten, space := es.length * (keyLen (seedUnits (argBits c 32 0 2)) + 24) }) (fun _ s => s) ∧
  (∀ x, EndsThen placeAll 0x08 0x20 .seedBankSet (fun c s => argsOnly c [(32, 0, 7), (33, 0, 2), (35, 0, 8), (36, 0, 12)] = true ∧ argBits c 32 6 1 = 0 ∧ argBits c 33 0 2 ≠ 3 ∧ (judge c { unit := 0x08, obj := argBits c 32 0 6 } (.content 2) s).1 = true ∧
      tblHas s.sdb.banks (argBits c 32 0 6) = false ∧ getCtx? s (argBits c 36 0 12) = some x)
    (fun _ _ => {}) (fun c s => setBank (argBits c 32 0 6) { ctx := argBits c 36 0 12, width := seedUnits (argBits c 33 0 2) } (judge c { unit := 0x08, obj := argBits c 32 0 6 } (.content 2) s).2)) ∧
  EndsThen placeAll 0x08 0x20 .seedBankSet (fun c s => argsOnly c [(32, 0, 7), (33, 0, 2), (35, 0, 8), (36, 0, 12)] = true ∧ argBits c 32 6 1 = 1 ∧ (judge c { unit := 0x08, obj := argBits c 32 0 6 } (.content 1) s).1 = true)
    (fun _ _ => {}) (fun c s => freeBank (argBits c 32 0 6) (judge c { unit := 0x08, obj := argBits c 32 0 6 } (.content 1) s).2) ∧
  WaitsAt 0x08 0x21 .seedConfig (fun c s => argsOnly c [(32, 0, 16), (35, 0, 8), (40, 0, 64)] = true ∧ seedRange (argU c 32 2) (argU c 40 8) = true ∧ (judge c { unit := 0x08, obj := 0x100 + argU c 32 2 } (.value (argU c 40 8)) s).1 = true)
    (fun oid c s => let t := (judge c { unit := 0x08, obj := 0x100 + argU c 32 2 } (.value (argU c 40 8)) s).2
      { t with cln := { t.cln with staged := t.cln.staged ++ [{ oid := oid, cmd := c, done := { r0 := stagedValue t (fun ch => match ch with | .seed k v => if k == argU c 32 2 then some v else none | _ => none) (seedParam t (argU c 32 2)) }, change := .seed (argU c 32 2) (argU c 40 8) }] } }) ∧
  EndsAt 0x08 0x22 .seedStatus (fun c _ => argsOnly c [(35, 0, 8)] = true)
    (fun c s => { r0 := sumN ((s.sdb.banks.filter (fun b => b.2.ctx == cmdCtx s c)).map (fun b => b.2.entries.length * b.2.width)) + s.sdb.rate * 2 ^ 32 + s.sdb.tempC % 256 * 2 ^ 48 + b2n (decide (85 < s.sdb.tempC)) * 2 ^ 56, r1 := queuedSearches s % 2 ^ 17 + min 4095 s.sdb.cursors.length * 2 ^ 32 + s.sdb.busy * 2 ^ 48 }) (fun _ s => s)

/-- R268, R271-R276, R278, R284, R286, R287, R289: the Seedbank's own steps. -/
def Obligations.SeedbankEventsComplete : Prop :=
  (∀ (flips : List (Nat × BitVec 80)) (j : SearchJob) (js : List SearchJob) (key mask : Nat) (rest : List (Nat × Nat)) (long cur : Bool) (s : State), s.sdb.jobs = j :: js → j.keys = (key, mask) :: rest → j.kind = .lookup long cur →
    exec (.seedSearch flips) s = .next (searchKey j long cur key mask rest (tenantAdd j.ctx (fun t => { t with searches := (t.searches + 1) % 2 ^ 64 }) (takeFlips flips s)))) ∧
  (∀ (flips : List (Nat × BitVec 80)) (j : SearchJob) (js : List SearchJob) (key mask k : Nat) (rest : List (Nat × Nat)) (close : Bool) (s : State), s.sdb.jobs = j :: js → j.keys = (key, mask) :: rest → j.kind = .step k close →
    exec (.seedSearch flips) s = .next (searchNext j k close rest (tenantAdd j.ctx (fun t => { t with searches := (t.searches + 1) % 2 ^ 64 }) (takeFlips flips s)))) ∧
  (∀ (flips : List (Nat × BitVec 80)) (j : SearchJob) (js : List SearchJob) (key mask map : Nat) (rest : List (Nat × Nat)) (owner : Option Nat) (s : State), s.sdb.jobs = j :: js → j.keys = (key, mask) :: rest → j.kind = .census owner map →
    exec (.seedSearch flips) s = .next (searchCensus j owner map key mask (tenantAdd j.ctx (fun t => { t with searches := (t.searches + 1) % 2 ^ 64 }) (takeFlips flips s)))) ∧
  (∀ (bank : Nat) (x : Bank) (i : SeedInsert) (rest : List SeedInsert) (s : State), tblGet? s.sdb.banks bank = some x → x.queue = i :: rest →
    exec (.insertCommit bank) s = .next (placeAll (countInsert i.oid 1 (commitInsert bank i.entry (setBank bank { x with queue := rest } s))))) ∧
  (∀ (s : State), exec .ageTick s = .next { s with sdb := { s.sdb with banks := tblMap s.sdb.banks (fun _ b => { b with entries := tblMap b.entries (fun _ e => ageEntry (seedParam s 0x02) e) }) } }) ∧
  (∀ (b u : Nat) (s : State), nextEvicting s = some (b, u) → exec .evictionEngineCommit s = .next (placeAll (dropEntry b u s))) ∧
  (∀ (k : Nat) (x : Cursor) (s : State), tblGet? s.sdb.cursors k = some x → s.sdb.jobs = [] → x.time + seedParam s 0x04 * 1000 ≤ s.now →
    exec (.cursorIdleExpiry k) s = .next { s with sdb := { s.sdb with cursors := tblDel s.sdb.cursors k } }) ∧
  (∀ (t : Nat) (s : State), hubThrottled s = false → t ≤ 85 → exec (.seedRateUpdate t) s = .next { s with sdb := { s.sdb with tempC := t, rate := 2000 } }) ∧
  (∀ (t : Nat) (s : State), hubThrottled s = false → 85 < t → t ≤ 105 → exec (.seedRateUpdate t) s = .next { s with sdb := { s.sdb with tempC := t, rate := 2000 - 75 * (t - 85) } }) ∧
  (∀ (bank unit : Nat) (flip : BitVec 80) (s : State), bank < 64 → unit < 16384 → s.hlt.arms = [] → (flip ≠ 0 ∨ isFlipped bank unit s = true) →
    exec (.shadowCompare bank unit flip false) s = .next (softError bank unit false false (onUnit bank unit repairUnit s))) ∧
  (∀ (bank unit : Nat) (flip : BitVec 80) (b : Bank) (s : State), bank < 64 → unit < 16384 → s.hlt.arms = [] → tblGet? s.sdb.banks bank = some b →
    exec (.shadowCompare bank unit flip true) s = .next (placeAll (dropEntry bank (unit / b.width * b.width) (softError bank unit true false s))))

/-! Gleaner (file 10) -/

/-- R294, R298-R301, R305, R306, R309, R311-R316, R318, R319: the GLEAN commands. -/
def Obligations.GleanerCommandsComplete : Prop :=
  (∀ k, EndsAt 0x09 0x01 .gleanSwathCreate (fun c s => argsOnly c [] = true ∧ bufferCheck c s = none ∧ 64 ≤ c.inLen ∧ swathHeader c.input = true ∧ c.inLen = (swathPlan (inU c 2 2) (2 ^ inU c 4 1)).stop ∧
      swathFinite (swathFrom (cmdCtx s c) c.input) = true ∧ s.gln.swaths.length < 4096 ∧ sumN (s.gln.swaths.map (fun e => 2 ^ e.2.itemsLog2)) + 2 ^ inU c 5 1 ≤ 2 ^ 30 ∧
      areaUsed s + (swathFrom (cmdCtx s c) c.input).bytes ≤ s.tir.glnAreaGib * 2 ^ 30 ∧ tblFree? s.gln.swaths 4096 = some k)
    (fun _ _ => { r0 := k }) (fun c s => setSwath k (swathFrom (cmdCtx s c) c.input) s)) ∧
  (∀ w, EndsAt 0x09 0x02 .gleanSwathDrop (fun c s => argsOnly c [(32, 0, 12)] = true ∧ swathOf c (argBits c 32 0 12) s = .ok w ∧ (judge c { unit := 0x09, obj := argBits c 32 0 12 } (.content 1) s).1 = true)
    (fun _ _ => {}) (fun c s => dropSwath (argBits c 32 0 12) (judge c { unit := 0x09, obj := argBits c 32 0 12 } (.content 1) s).2)) ∧
  (∀ x w, EndsAt 0x09 0x03 .gleanBind (fun c s => argsOnly c [(32, 0, 32), (36, 0, 12), (38, 0, 13), (40, 0, 12), (42, 0, 1), (48, 0, 64)] = true ∧ 1 ≤ argBits c 38 0 13 ∧ argBits c 38 0 13 ≤ 4096 ∧ namedSeq? s (argU c 32 4) = some x ∧
      mayName s c x.ctx = true ∧ argBits c 36 0 12 + argBits c 38 0 13 ≤ x.layers ∧ bindTarget s c x (argBits c 40 0 12) = .ok (some w) ∧ dimsDiffer s x (some w) ((List.range (argBits c 38 0 13)).map (argBits c 36 0 12 + ·)) = false ∧
      filterCheck s c w (argU c 48 8) = none ∧ (judge c { unit := 0x09, obj := 2 ^ 12 + argU c 32 4 * 4096 + argBits c 36 0 12 } (.value c.args.toNat) s).1 = true)
    (fun c s => { r0 := (bindLayers s.cln.current (argU c 32 4) ((List.range (argBits c 38 0 13)).map (argBits c 36 0 12 + ·)) { swath := argBits c 40 0 12, filter := argU c 48 8, deny := argBits c 42 0 1 == 1 } (judge c { unit := 0x09, obj := 2 ^ 12 + argU c 32 4 * 4096 + argBits c 36 0 12 } (.value c.args.toNat) s).2).1 })
    (fun c s => (bindLayers s.cln.current (argU c 32 4) ((List.range (argBits c 38 0 13)).map (argBits c 36 0 12 + ·)) { swath := argBits c 40 0 12, filter := argU c 48 8, deny := argBits c 42 0 1 == 1 } (judge c { unit := 0x09, obj := 2 ^ 12 + argU c 32 4 * 4096 + argBits c 36 0 12 } (.value c.args.toNat) s).2).2)) ∧
  (∀ x, EndsAt 0x09 0x03 .gleanBind (fun c s => argsOnly c [(32, 0, 32), (36, 0, 12), (38, 0, 13), (40, 0, 12), (42, 0, 1), (48, 0, 64)] = true ∧ 1 ≤ argBits c 38 0 13 ∧ argBits c 38 0 13 ≤ 4096 ∧ namedSeq? s (argU c 32 4) = some x ∧
      mayName s c x.ctx = true ∧ argBits c 36 0 12 + argBits c 38 0 13 ≤ x.layers ∧ argBits c 40 0 12 = 0xFFF ∧ (judge c { unit := 0x09, obj := 2 ^ 12 + argU c 32 4 * 4096 + argBits c 36 0 12 } (.value c.args.toNat) s).1 = true)
    (fun _ _ => {}) (fun c s => ((List.range (argBits c 38 0 13)).map (argBits c 36 0 12 + ·)).foldl (fun s l => unbindLayer (argU c 32 4) l s) (judge c { unit := 0x09, obj := 2 ^ 12 + argU c 32 4 * 4096 + argBits c 36 0 12 } (.value c.args.toNat) s).2)) ∧
  (∀ w map, WaitsAt 0x09 0x10 .gleanSearch (fun c s => argsOnly c [(32, 0, 12), (34, 0, 9), (36, 0, 9), (38, 0, 3), (39, 0, 8), (40, 0, 32), (44, 0, 18), (48, 0, 64)] = true ∧ 1 ≤ argBits c 34 0 9 ∧ argBits c 34 0 9 ≤ 256 ∧
      1 ≤ argBits c 36 0 9 ∧ argBits c 36 0 9 ≤ 256 ∧ swathOf c (argBits c 32 0 12) s = .ok w ∧ gleanSeqCheck s c = none ∧ bufferCheck c s = none ∧ gleanInput c w ≤ c.inLen ∧ argBits c 34 0 9 * argBits c 36 0 9 * 16 ≤ c.outLen ∧
      readFilter s c w (argU c 48 8) = .ok map ∧ queriesWaiting s + argBits c 34 0 9 ≤ gleanParam s 0x02)
    (fun oid c s => addSearch { oid := oid, swath := argBits c 32 0 12, attend := false, queries := argBits c 34 0 9, todo := gleanVisits w (gleanFound s c w map), done := gleanDone s w (argBits c 36 0 9) (gleanFound s c w map) }
      (tenantAdd (cmdCtx s c) (fun t => { t with comparisons := (t.comparisons + gleanCost s w (gleanFound s c w map)) % 2 ^ 64 }) s))) ∧
  (∀ w, EndsAt 0x09 0x11 .gleanBitmap (fun c s => argsOnly c [(32, 0, 12), (36, 0, 32), (40, 0, 32), (44, 0, 32)] = true ∧ swathOf c (argBits c 32 0 12) s = .ok w ∧ c.outDevice = true ∧ filterCheck s c w c.outAddr = none ∧
      bufferCheck c s = none ∧ protectedAt s c.outAddr = false ∧ ceilDiv (2 ^ w.itemsLog2) 8 ≤ c.outLen)
    (fun c s => { r0 := (bitmapSlots s (argBits c 32 0 12) w (argU c 36 4) (argU c 40 4) (argU c 44 4)).length, output := bitmapBytes (ceilDiv (2 ^ w.itemsLog2) 8) (bitmapSlots s (argBits c 32 0 12) w (argU c 36 4) (argU c 40 4) (argU c 44 4)), space := ceilDiv (2 ^ w.itemsLog2) 8 })
    (fun _ s => s)) ∧
  (∀ w, EndsAt 0x09 0x11 .gleanBitmap (fun c s => argsOnly c [(32, 0, 12), (36, 0, 32), (40, 0, 32), (44, 0, 32)] = true ∧ swathOf c (argBits c 32 0 12) s = .ok w ∧ c.outDevice = true ∧ filterCheck s c w c.outAddr = none ∧
      bufferCheck c s = none ∧ protectedAt s c.outAddr = true)
    (fun _ _ => { status := .permission }) (fun _ s => s)) ∧
  (∀ k ks, WaitsAt 0x09 0x12 .gleanMerge (fun c s => argsOnly c [(32, 0, 12)] = true ∧ mergeTargets s c (argBits c 32 0 12) = .ok (k :: ks))
    (fun oid _ s => let t := startMerging (k :: ks) s
      { t with gln := { t.gln with merges := t.gln.merges ++ [{ oid := oid, left := k :: ks }] } })) ∧
  EndsAt 0x09 0x12 .gleanMerge (fun c s => argsOnly c [(32, 0, 12)] = true ∧ mergeTargets s c (argBits c 32 0 12) = .ok []) (fun _ _ => {}) (fun _ s => s) ∧
  WaitsAt 0x09 0x20 .gleanConfig (fun c s => argsOnly c [(32, 0, 16), (40, 0, 64)] = true ∧ gleanRange (argU c 32 2) (argU c 40 8) = true ∧ (judge c { unit := 0x09, obj := 2 ^ 46 + argU c 32 2 } (.value (argU c 40 8)) s).1 = true)
    (fun oid c s => let t := (judge c { unit := 0x09, obj := 2 ^ 46 + argU c 32 2 } (.value (argU c 40 8)) s).2
      { t with cln := { t.cln with staged := t.cln.staged ++ [{ oid := oid, cmd := c, done := { r0 := stagedValue t (fun ch => match ch with | .glean k v => if k == argU c 32 2 then some v else none | _ => none) (gleanParam t (argU c 32 2)) }, change := .glean (argU c 32 2) (argU c 40 8) }] } }) ∧
  (∀ w, EndsAt 0x09 0x21 .gleanStatus (fun c s => argsOnly c [(32, 0, 12)] = true ∧ swathOf c (argBits c 32 0 12) s = .ok w)
    (fun c s => { r0 := liveItems s (argBits c 32 0 12) w + sideCount s * 2 ^ 32, r1 := queriesWaiting s % 65536 + s.gln.busy * 2 ^ 16 + min 0xFFFF (w.items.filter (fun e => e.2.stale && !e.2.retired)).length * 2 ^ 32 + b2n w.merging * 2 ^ 48 + w.wraps * 2 ^ 49 })
    (fun _ s => s))

/-- R135, R305, R309-R311, R315: Gleaner's own steps. -/
def Obligations.GleanerEventsComplete : Prop :=
  (∀ (swath list : Nat) (s : State), visitDue s swath list = true → listWaiting s swath list ≠ [] →
    exec (.listVisitStart swath list) s = .next (let t : State := { s with gln := { s.gln with searches := (visitBatch s.now swath list s.gln.searches).2, screenEnd := max s.gln.screenEnd s.now + screenTime s swath list (min 256 (listWaiting s swath list).length) } }
      { t with gln := { t.gln with served := (let left := queriesWaiting s - queriesWaiting t
        let old := s.gln.served.filter (fun e => decide (s.now < e.1 + 1000000))
        if left == 0 then old else (s.now, left) :: old) } })) ∧
  (∀ (k : Nat) (x : GSearch) (s : State), tblGet? s.gln.searches k = some x → x.todo = [] → x.attend = false →
    exec (.gleanSearchDone k) s = .next (finish x.oid x.done (freeDropped { s with gln := { s.gln with searches := tblDel s.gln.searches k } }))) ∧
  (∀ (k : Nat) (x : GSearch) (s : State), tblGet? s.gln.searches k = some x → x.todo = [] → x.attend = true →
    exec (.gleanSearchDone k) s = .next (settleWork (formItems x.oid (freeDropped { s with gln := { s.gln with searches := tblDel s.gln.searches k } })))) ∧
  (∀ (p : Posting) (rest : List Posting) (s : State), s.gln.queue = p :: rest → sideCount s < 16777216 →
    exec .postingDequeue s = .next (enterPosting p { s with gln := { s.gln with queue := rest } })) ∧
  (∀ (k slot : Nat) (t : GItem) (e : Entry) (s : State), sideCount s < 16777216 → s.gln.queue = [] → firstStale s = some (k, slot, t) → entry? s t.seq t.layer t.group t.idx = some e →
    exec .staleRepost s = .next (let u := modSwath k (fun w => { w with items := tblUpd w.items slot (fun e => { e with stale := false }) }) s
      postSheaf t.seq t.layer t.group t.idx (stepTokens u t.seq t.layer e.tokens) none u)) ∧
  (∀ (k : Nat) (w : Swath) (s : State), tblGet? s.gln.swaths k = some w → w.merging = true →
    exec (.mergeDone k) s = .next (mergedSwath k (sideOf w)
      (setSwath k { w with items := (w.items.filter (fun e => !e.2.retired)).map (fun e => (e.1, { e.2 with versions := if (queuedOf s k e.2).any (isUsable s) then [] else keptVersions s e.2.versions })), merging := false } s)))

/-! Olnen (file 11) -/

/-- R323-R331, R334, R335: link frames, control frames, training and lanes. -/
def Obligations.LinkRowsComplete : Prop :=
  (∀ (p : Nat) (f : LFrame) (s : State), (getPort s p).ethernet = false → (getPort s p).state = .active → s.hlt.arms = [] → f.kind = 0 → f.crcOk = true → f.lseq = (getPort (linkHeader p f s) p).expected →
    exec (.linkDataReceive p f) s = .next
      (let t := linkHeader p f s
       let x : Port := { getPort t p with expected := ((getPort t p).expected + 1) % 4096, nakSent := false, unacked := (getPort t p).unacked + 1, ackSince := some ((getPort t p).ackSince.getD t.now) }
       routeIn p f.cls f.hopsLeft f.frame (if 64 ≤ x.unacked then linkAck p (setPort p x t) else setPort p x t))) ∧
  (∀ (p : Nat) (f : LFrame) (s : State), (getPort s p).ethernet = false → (getPort s p).state = .active → s.hlt.arms = [] → f.kind = 0 → f.crcOk = false → (getPort s p).nakSent = false →
    exec (.linkDataReceive p f) s = .next (sendLink p (.nak (lastAccepted (getPort s p))) (setPort p { getPort s p with nakSent := true, unacked := 0, ackSince := none } s))) ∧
  (∀ (p : Nat) (f : LFrame) (s : State), (getPort s p).ethernet = false → (getPort s p).state = .active → s.hlt.arms = [] → f.kind = 0 → f.crcOk = true → f.lseq ≠ (getPort (linkHeader p f s) p).expected → (getPort (linkHeader p f s) p).nakSent = false →
    exec (.linkDataReceive p f) s = .next (let t := linkHeader p f s
      sendLink p (.nak (lastAccepted (getPort t p))) (setPort p { getPort t p with nakSent := true, unacked := 0, ackSince := none } t))) ∧
  (∀ (p : Nat) (f : LFrame) (s : State), (getPort s p).ethernet = false → linkTrained (getPort s p) = true → f.kind ≠ 0 → f.crcOk = true → exec (.linkDataReceive p f) s = .next (countDropped p s)) ∧
  (∀ (p : Nat) (f : LFrame) (s : State), (getPort s p).ethernet = false → f.kind = 0 → (getPort s p).state = .hold → exec (.linkDataReceive p f) s = .next (sendLink p (.notReady (holdBackoff s) 0) s)) ∧
  (∀ (p n : Nat) (s : State), exec (.linkAckReceive p n) s = .next (linkAcked p n s)) ∧
  (∀ (p n : Nat) (s : State), (getPort s p).state = .active → exec (.linkNakReceive p n) s = .next (replayOut p (linkAcked p n s))) ∧
  (∀ (p cls units : Nat) (s : State), (getPort s p).ethernet = false → (getPort s p).state ≠ .down →
    exec (.linkCreditReceive p cls units) s = .next (setPort p { getPort s p with credits := tblMod (getPort s p).credits (cls % 8) 0 (· + units) } s)) ∧
  (∀ (p : Nat) (s : State), (getPort s p).state = .active → (getPort s p).replay ≠ [] → (getPort s p).progress + 4000 ≤ s.now → exec (.linkReplayTimeout p) s = .next (replayOut p s)) ∧
  (∀ (p t : Nat) (s : State), (getPort s p).ackSince = some t → t + 500 ≤ s.now → exec (.linkAckTimer p) s = .next (linkAck p s)) ∧
  (∀ (p width token lanes : Nat) (uid : BitVec 128) (s : State), (getPort s p).ethernet = false → (getPort s p).state = .active → uid ≠ s.fuse.uid → (getPort s p).request = none →
    exec (.controlRetrain p width token lanes uid) s = .next
      (let w := min width (usableLanes (getPort s p)).length
       sendLink p (.control 4 w token (laneMask (usableLanes (getPort s p))) 0) (setPort p { getPort s p with request := none, accepted := some { retrain := true, width := w, token := token, lanes := lanes, oids := (match (getPort s p).accepted with | none => [] | some a => a.oids), joins := !(getPort s p).joining.isEmpty } } s))) ∧
  (∀ (p width token lanes : Nat) (uid : BitVec 128) (s : State), (getPort s p).ethernet = false → (getPort s p).state = .active → uid ≠ s.fuse.uid → (getPort s p).request = none →
    exec (.controlResize p width token lanes uid) s = .next
      (let w := min width (usableLanes (getPort s p)).length
       sendLink p (.control 4 w token (laneMask (usableLanes (getPort s p))) 0) (setPort p { getPort s p with request := none, accepted := some { retrain := false, width := w, token := token, lanes := lanes, oids := (match (getPort s p).accepted with | none => [] | some a => a.oids), joins := !(getPort s p).joining.isEmpty } } s))) ∧
  (∀ (p width lanes : Nat) (r : PortReq) (s : State), (getPort s p).state = .active → (getPort s p).request = some r →
    exec (.controlAccept p width r.token lanes) s = .next
      (startChange p { r with width := min r.width width, lanes := r.lanes &&& lanes } false (sendLink p (.control 5 (min r.width width) r.token (laneMask (usableLanes (getPort s p))) 0) (setPort p { getPort s p with request := none } s)))) ∧
  (∀ (p width lanes : Nat) (r : PortReq) (s : State), (getPort s p).state = .active → (getPort s p).accepted = some r →
    exec (.controlGo p width r.token lanes) s = .next (startChange p { r with width := min r.width width, lanes := r.lanes &&& lanes } false (setPort p { getPort s p with accepted := none } s))) ∧
  (∀ (p lanes : Nat) (s : State), (getPort s p).ethernet = false → linkTrained (getPort s p) = true →
    exec (.controlLaneLost p lanes) s = .next (((List.range 4).filter (bitOf lanes)).foldl (fun s l => loseLane p l 0 false false s) s)) ∧
  (∀ (p : Nat) (credits : List Nat) (s : State), (getPort s p).ethernet = false → linkTrained (getPort s p) = true →
    exec (.controlCreditInit p credits) s = .next (setPort p { getPort s p with credits := (List.range 8).map (fun c => (c, credits.getD c 0)) } s)) ∧
  (∀ (p : Nat) (s : State), p < nPorts s → (getPort s p).state = .down → (getPort s p).service ≠ .fenced → (getPort s p).backoff = none →
    exec (.signalDetect p) s = .next (setPort p { getPort s p with state := .training, failures := 0, lanes := untrained (getPort s p).lanes } s)) ∧
  (∀ (p lanes : Nat) (s : State), (getPort s p).state = .training → portWidth (getPort s p) = 0 → trainedEnough (getPort s p) lanes = true →
    exec (.linkTrainingDone p true lanes false) s = .next
      (let t := setPort p { getPort s p with failures := 0, share := olnenParam s 0x06, lanes := trainedLanes (getPort s p) lanes s.now } s
       if (getPort s p).service == .quarantine then sendLink p .prbs t else portTrained p t)) ∧
  (∀ (p lanes : Nat) (s : State), (getPort s p).state = .training → portWidth (getPort s p) = 0 → (getPort s p).failures = 2 →
    exec (.linkTrainingDone p false lanes false) s = .next (setPort p { getPort s p with state := .down, failures := 0, backoff := some (s.now + 10 ^ 9) } s)) ∧
  (∀ (p t : Nat) (s : State), (getPort s p).backoff = some t → t ≤ s.now → exec (.trainingBackoffExpiry p) s = .next (setPort p { getPort s p with backoff := none } s)) ∧
  (∀ (p : Nat) (s : State), (getPort s p).state = .retrain → exec (.retrainDone p) s = .next (endChange p s)) ∧
  (∀ (p : Nat) (s : State), (getPort s p).state = .resize → exec (.resizeDone p) s = .next (endChange p s)) ∧
  (∀ (s : State), s.oln.accepts = false →
    exec .discoveryAccept s = .next (((List.range (nPorts s)).filter (fun p => (getPort s p).state == .hold)).foldl (fun s p => portUp p s) { s with oln := { s.oln with accepts := true } })) ∧
  (∀ (p lane cause : Nat) (s : State), s.hlt.arms = [] → linkTrained (getPort s p) = true → exec (.laneLoss p lane cause) s = .next (loseLane p lane (min cause 1) false true s)) ∧
  (∀ (p lane ber cw ucw : Nat) (s : State), s.hlt.arms = [] → linkTrained (getPort s p) = true → (laneOf (getPort s p) lane).state = .active →
    exec (.laneBerSample p lane false ber cw ucw) s = .next (noteSample p lane ber cw ucw false false s) ∧
    exec (.laneBerSample p lane true ber cw ucw) s = .next (loseLane p lane 2 false true (noteSample p lane ber cw ucw false false s))) ∧
  (∀ (p lane : Nat) (s : State), (getPort s p).ethernet = false → (getPort s p).ctrl.autoRejoin = true → (laneOf (getPort s p) lane).state = .lost → isRetired s .lane (laneIndex p lane) = false →
    (laneOf (getPort s p) lane).since + (if (laneOf (getPort s p) lane).tried then 60 else 10) * 10 ^ 9 ≤ s.now → exec (.laneRejoinTimer p lane) s = .next (startQuarantine p lane s)) ∧
  (∀ (p lane step : Nat) (s : State), (laneOf (getPort s p) lane).state = .quarantine → (getPort s p).joining.contains lane = false → (getPort s p).state = .active →
    exec (.laneQuarantineDone p lane true step) s = .next
      (askJoin p
        (setPort p { getPort s p with joining := (getPort s p).joining ++ [lane] } (raiseNode .quarantinePassed (quarantineDetail .lane (laneIndex p lane) none) s))))

/-- R339-R345, R351, R352, R355-R359, R336-R338: discovery, routes, multicast timers, fabric time, Ethernet mode; how clocks compare and when XOFF is due is the model's choice (log entries 41, 42, 86). -/
def Obligations.FabricRowsComplete : Prop :=
  (∀ (p : Nat) (d : Disc) (s : State), discPort s p = true → d.version = 1 → d.uid ≠ s.fuse.uid → d.addrValid = true →
    exec (.helloReceive p d) s = .next (contest d.addr d.epoch d.uid (noteEpoch d.addr d.epoch d.uid
      (setPort p { getPort s p with neighUid := some d.uid, neighAddr := d.addr, neighValid := true, neighEpoch := d.epoch, neighPort := d.port } s)))) ∧
  (∀ (p : Nat) (d : Disc) (s : State), discPort s p = true → d.version = 1 → (getPort s p).state ≠ .hold → exec (.queryReceive p d) s = .next (queryAct p 0 d s)) ∧
  (∀ (p : Nat) (d : Disc) (q : Discover) (s : State), discPort s p = true → d.version = 1 → d.hopIndex = 0 → tblGet? s.oln.discovers d.queryId = some q →
    exec (.replyReceive p d) s = .next (finish q.oid { output := replyBytes d, space := 448 } { s with oln := { s.oln with discovers := tblDel s.oln.discovers d.queryId } })) ∧
  (∀ (p hops : Nat) (d : Disc) (s : State), discPort s p = true → d.version = 1 → claimMoves s d = false →
    exec (.claimReceive p hops d) s = .next (contest d.addr d.epoch d.uid (noteEpoch d.addr d.epoch d.uid (forwardClaim p hops d s)))) ∧
  (∀ (p backoff reason k : Nat) (q : Discover) (s : State), reason ≤ 1 → s.oln.discovers.find? (fun e => e.2.port == p) = some (k, q) →
    exec (.notReadyReceive p backoff reason) s = .next (finish q.oid { status := .busy, hint := hintUs backoff } { s with oln := { s.oln with discovers := tblDel s.oln.discovers k } })) ∧
  (∀ (k : Nat) (q : Discover) (s : State), tblGet? s.oln.discovers k = some q → q.time + 1000000 ≤ s.now →
    exec (.discoverTimeout k) s = .next (finish q.oid { status := .notFound } { s with oln := { s.oln with discovers := tblDel s.oln.discovers k } })) ∧
  (∀ (p : Nat) (s : State), (activePorts s).contains p = true → exec (.helloTimer p) s = .next (sendLink p (.hello (ownDisc s p)) s)) ∧
  (∀ (a : AddrSet) (s : State), s.oln.addrNext = some a → a.time ≤ fabricTime s → exec .addrEffective s = .next (applyAddr a s)) ∧
  (∀ (t : Nat) (s : State), s.oln.swapAt = some t → t ≤ fabricTime s → exec .routeSwap s = .next { s with oln := { s.oln with routes := s.oln.standby, swapAt := none } }) ∧
  (∀ (n : Nat) (m : Mcast) (s : State), tblGet? s.trn.mcasts n = some m → m.ended = false → m.deadline ≤ s.now → exec (.mcastDeadline n) s = .next (settleWork (endMcast n s))) ∧
  (∀ (n : Nat) (m : Mcast) (s : State), tblGet? s.trn.mcasts n = some m → m.ended = true → m.retryAt ≤ s.now → m.tries < olnenParam s 0x04 → exec (.mcastRetry n) s = .next (mcastAgain n m s)) ∧
  (∀ (n : Nat) (m : Mcast) (s : State), tblGet? s.trn.mcasts n = some m → m.ended = true → m.retryAt ≤ s.now → olnenParam s 0x04 ≤ m.tries →
    exec (.mcastRetry n) s = .next (raise .mcastMembersMissed [.ctx m.ctx] (leBytes 2 m.group ++ leBytes 2 m.cid ++ zeros 4 ++ leBytes 8 (mcastBits m false)) { s with trn := { s.trn with mcasts := tblDel s.trn.mcasts n } })) ∧
  (∀ (p : Nat) (s : State), timePort s p = true →
    exec (.ptpSyncTimer p) s = .next ((timeKinds s p ((getPort s p).ptpTicks == 0)).foldl (fun s k => sendPtp p k s) (setPort p { getPort s p with ptpTicks := ((getPort s p).ptpTicks + 1) % 16 } s))) ∧
  (∀ (p ns : Nat) (s : State), timePort s p = true → exec (.timeFrameReceive p (olnenParam s 0x07) (.delay ns)) s = .next (setPort p { getPort s p with linkDelay := min 0xFFFF ns } s)) ∧
  (∀ (p : Nat) (ds : ClockDs) (s : State), timePort s p = true → s.oln.master ≠ some p → takesPlace s ds = true → exec (.timeFrameReceive p (olnenParam s 0x07) (.announce ds)) s = .next (followPort p ds s)) ∧
  (∀ (p : Nat) (ds : ClockDs) (s : State), timePort s p = true → s.oln.master = some p → exec (.timeFrameReceive p (olnenParam s 0x07) (.announce ds)) s = .next (masterSays p ds s)) ∧
  (∀ (p domain : Nat) (m : PtpMsg) (s : State), domain ≠ olnenParam s 0x07 → exec (.timeFrameReceive p domain m) s = .next s) ∧
  (∀ (p : Nat) (off : Int) (s : State), timePort s p = true → s.oln.master = some p →
    exec (.timeFrameReceive p (olnenParam s 0x07) (.sync off)) s = .next (steer off (noteSync off (setPort p { getPort s p with ptpOffset := off } s)))) ∧
  (∀ (p : Nat) (s : State), s.oln.master = some p → s.oln.lastSync + 3000000000 ≤ s.now →
    exec (.syncHoldoverTimeout p) s = .next (raiseNode .timeHoldover (leBytes 1 p) (setPort p { getPort s p with ptpState := 4 } { s with oln := { s.oln with sync := .holdover, good := 0, master := none, best := none } }))) ∧
  (∀ (host : Nat) (s : State), exec (.ptmExchange host) s = .next { s with oln := { s.oln with ptmFabric := fabricTime s, ptmHost := host % 2 ^ 64 } }) ∧
  (∀ (p : Nat) (f : EthFrame) (s : State), (getPort s p).ethernet = true → linkTrained (getPort s p) = true → (f.kind = .arp ∨ f.kind = .neighbour) → f.macOk = true → f.ipOk = true → f.sumsOk = true → f.len ≤ getU (getPort s p).eth 10 2 →
    exec (.ethFrameReceive p f) s = .next (sendLink p (.ethControl f.kind f.srcIp 0 f.disc) s)) ∧
  (∀ (p : Nat) (f : EthFrame) (s : State), (getPort s p).ethernet = true → (getPort s p).state = .active → f.kind = .transport → f.macOk = true → f.ipOk = true → f.sumsOk = true → f.portOk = true → f.len ≤ getU (getPort s p).eth 10 2 →
    s.oln.addr = some f.frame.dstNode → f.tagged = true →
    exec (.ethFrameReceive p f) s = .next { s with oln := { s.oln with clients := tblSet s.oln.clients f.frame.srcNode (p, f.srcIp) }, trn := { s.trn with arrived := s.trn.arrived ++ [{ port := p, out := { frame := f.frame, cls := f.pcp % 8 } }] } }) ∧
  (∀ (p q : Nat) (f : EthFrame) (s : State), (getPort s p).ethernet = true → (getPort s p).state = .active → f.kind = .transport → f.macOk = true → f.ipOk = true → f.sumsOk = true → f.portOk = true → f.len ≤ getU (getPort s p).eth 10 2 →
    s.oln.addr ≠ some f.frame.dstNode → f.tagged = true →
    (let o : OutFrame := { frame := f.frame, cls := f.pcp % 8 }
     let t : State := { s with oln := { s.oln with clients := tblSet s.oln.clients f.frame.srcNode (p, f.srcIp) } }
     chooseHop t none o = .port q → exec (.ethFrameReceive p f) s = .next (checkPfc p (f.pcp % 8) (putOut (.port q) (queueKept t q o) o (olnenParam t 0x01) (some p) t)))) ∧
  (∀ (p : Nat) (f : EthFrame) (s : State), (getPort s p).ethernet = true → linkTrained (getPort s p) = true → f.kind = .other → exec (.ethFrameReceive p f) s = .next (countDropped p s)) ∧
  (∀ (p cls : Nat) (pause : Bool) (s : State), (getPort s p).ethernet = true → bitOf (getU (getPort s p).eth 7 1) (cls % 8) = true →
    exec (.pfcFrameReceive p cls pause) s = .next (setPort p { getPort s p with paused := if pause then setAdd (getPort s p).paused (cls % 8) else setDel (getPort s p).paused (cls % 8) } s))

/-- R332, R334, R341, R342, R345, R350, R351, R358-R361, R363, R405: the OLNEN commands on links, addresses, routes, groups and time. -/
def Obligations.OlnenCommandsComplete : Prop :=
  EndsAt 0x0A 0x01 .olnenStatus (fun c s => argsOnly c [] = true ∧ bufferCheck c s = none ∧ 512 ≤ c.outLen) (fun _ s => { output := ((List.range 16).map (statusRecord s)).flatten, space := 512 }) (fun _ s => s) ∧
  EndsAt 0x0A 0x02 .olnenPortMode (fun c s => portCheck c [(33, 0, 1)] s = none ∧ bufferCheck c s = none ∧ argBits c 33 0 1 = 1 ∧ 64 ≤ c.inLen ∧ ethRecordOk (c.input.take 64) = true ∧
      (judge c { unit := 0x0A, obj := 2 ^ 34 + argBits c 32 0 4 } (.value (1 + 2 * leNat (c.input.take 64))) s).1 = true)
    (fun _ _ => {}) (fun c s => takeMode (argBits c 32 0 4) true (c.input.take 64) (judge c { unit := 0x0A, obj := 2 ^ 34 + argBits c 32 0 4 } (.value (1 + 2 * leNat (c.input.take 64))) s).2) ∧
  WaitsAt 0x0A 0x03 .olnenRetrain (fun c s => portCheck c [] s = none ∧ portLink (getPort s (argBits c 32 0 4)) = none) (fun oid c s => askChange (argBits c 32 0 4) true (portWidth (getPort s (argBits c 32 0 4))) [oid] s) ∧
  WaitsAt 0x0A 0x04 .olnenWidth (fun c s => portCheck c [(33, 0, 3)] s = none ∧ 2 ≤ argBits c 33 0 3 ∧ argBits c 33 0 3 ≤ 4 ∧ portLink (getPort s (argBits c 32 0 4)) = none ∧ argBits c 33 0 3 ≤ portWidth (getPort s (argBits c 32 0 4)) + (lanesIn (getPort s (argBits c 32 0 4)) .idle).length ∧
      argBits c 33 0 3 ≠ portWidth (getPort s (argBits c 32 0 4)) ∧ (judge c { unit := 0x0A, obj := 2 ^ 35 + argBits c 32 0 4 } (.value (argBits c 33 0 3)) s).1 = true)
    (fun oid c s => askChange (argBits c 32 0 4) false (argBits c 33 0 3) [oid]
      (freeIdle (argBits c 32 0 4) (argBits c 33 0 3 - portWidth (getPort s (argBits c 32 0 4))) (judge c { unit := 0x0A, obj := 2 ^ 35 + argBits c 32 0 4 } (.value (argBits c 33 0 3)) s).2)) ∧
  EndsAt 0x0A 0x04 .olnenWidth (fun c s => portCheck c [(33, 0, 3)] s = none ∧ 2 ≤ argBits c 33 0 3 ∧ argBits c 33 0 3 ≤ 4 ∧ portLink (getPort s (argBits c 32 0 4)) = none ∧ portWidth (getPort s (argBits c 32 0 4)) + (lanesIn (getPort s (argBits c 32 0 4)) .idle).length < argBits c 33 0 3)
    (fun _ _ => { status := .badState }) (fun _ s => s) ∧
  EndsAt 0x0A 0x08 .olnenFence (fun c s => argsOnly c [(32, 0, 4), (33, 0, 3)] = true ∧ (argBits c 33 0 3 < 4 ∨ argBits c 33 0 3 = 7) ∧ argBits c 32 0 4 < nPorts s ∧ (getPort s (argBits c 32 0 4)).service ≠ .fenced ∧
      (argBits c 33 0 3 = 7 ∨ (laneOf (getPort s (argBits c 32 0 4)) (argBits c 33 0 3)).state ≠ .fenced) ∧ (serviceJudge 1 c s).1 = true)
    (fun _ _ => {}) (fun c s => if argBits c 33 0 3 = 7 then fencePort (argBits c 32 0 4) (serviceJudge 1 c s).2 else fenceLane (argBits c 32 0 4) (argBits c 33 0 3) (serviceJudge 1 c s).2) ∧
  EndsAt 0x0A 0x09 .olnenRestrict (fun c s => argsOnly c [(32, 0, 4), (33, 0, 3)] = true ∧ argBits c 33 0 3 = 7 ∧ argBits c 32 0 4 < nPorts s ∧ (getPort s (argBits c 32 0 4)).service ≠ .fenced ∧ (serviceJudge 2 c s).1 = true)
    (fun _ _ => {}) (fun c s => endEnables (getPort s (argBits c 32 0 4)).enableBy .unitFenced (setPort (argBits c 32 0 4) { getPort s (argBits c 32 0 4) with service := .restricted, enableBy := [], ctrl := (getPort s (argBits c 32 0 4)).shadow.getD (getPort s (argBits c 32 0 4)).ctrl, shadow := none } (serviceJudge 2 c s).2)) ∧
  WaitsAt 0x0A 0x09 .olnenRestrict (fun c s => argsOnly c [(32, 0, 4), (33, 0, 3)] = true ∧ argBits c 33 0 3 < 4 ∧ argBits c 32 0 4 < nPorts s ∧ (getPort s (argBits c 32 0 4)).service ≠ .fenced ∧ (serviceJudge 2 c s).1 = true ∧
      (laneOf (getPort s (argBits c 32 0 4)) (argBits c 33 0 3)).state = .active ∧ portLink (getPort s (argBits c 32 0 4)) = none ∧ 2 < ((lanesIn (getPort s (argBits c 32 0 4)) .active).filter (fun k => !(laneOf (getPort s (argBits c 32 0 4)) k).restricted)).length)
    (fun oid c s => askChange (argBits c 32 0 4) false (((lanesIn (getPort s (argBits c 32 0 4)) .active).filter (fun k => k != argBits c 33 0 3 && !(laneOf (getPort s (argBits c 32 0 4)) k).restricted)).length) [oid]
      (setPort (argBits c 32 0 4) (modLane (argBits c 33 0 3) (fun y => { y with restricted := true }) (getPort s (argBits c 32 0 4))) (serviceJudge 2 c s).2)) ∧
  EndsAt 0x0A 0x0A .olnenEnable (fun c s => argsOnly c [(32, 0, 4), (33, 0, 3)] = true ∧ argBits c 33 0 3 = 7 ∧ argBits c 32 0 4 < nPorts s ∧ (serviceJudge 3 c s).1 = true ∧ isRetired s .port (argBits c 32 0 4) = false ∧
      (getPort s (argBits c 32 0 4)).service = .restricted)
    (fun _ _ => {}) (fun c s => setPort (argBits c 32 0 4) { getPort s (argBits c 32 0 4) with service := .service } (serviceJudge 3 c s).2) ∧
  WaitsAt 0x0A 0x0A .olnenEnable (fun c s => argsOnly c [(32, 0, 4), (33, 0, 3)] = true ∧ argBits c 33 0 3 = 7 ∧ argBits c 32 0 4 < nPorts s ∧ (serviceJudge 3 c s).1 = true ∧ isRetired s .port (argBits c 32 0 4) = false ∧
      (getPort s (argBits c 32 0 4)).service = .fenced)
    (fun oid c s => setPort (argBits c 32 0 4) { getPort s (argBits c 32 0 4) with service := .quarantine, enableBy := [oid] } (serviceJudge 3 c s).2) ∧
  EndsAt 0x0A 0x10 .olnenAddrSet (fun c s => argsOnly c [(32, 0, 12), (34, 0, 2), (35, 0, 8), (36, 0, 32), (40, 0, 16), (48, 0, 64)] = true ∧ (judge c { unit := 0x0A, obj := 2 ^ 36 } (.value c.args.toNat) s).1 = true)
    (fun _ _ => {}) (fun c s => let t := (judge c { unit := 0x0A, obj := 2 ^ 36 } (.value c.args.toNat) s).2
      if (addrSetOf c).time ≤ fabricTime t then applyAddr (addrSetOf c) t else { t with oln := { t.oln with addrNext := some (addrSetOf c) } }) ∧
  WaitsAt 0x0A 0x11 .olnenDiscover (fun c s => portCheck c [(33, 0, 4), (40, 0, 64)] s = none ∧ bufferCheck c s = none ∧ 448 ≤ c.outLen ∧ (getPort s (argBits c 32 0 4)).ethernet = false ∧
      linkTrained (getPort s (argBits c 32 0 4)) = true ∧ (getPort s (argBits c 32 0 4)).state ≠ .hold)
    (fun oid c s => sendLink (argBits c 32 0 4) (.query { ownDisc s (argBits c 32 0 4) with queryId := oid, route := argU c 40 8, hopCount := argBits c 33 0 4 })
      { s with oln := { s.oln with discovers := tblSet s.oln.discovers oid { oid := oid, port := argBits c 32 0 4, time := s.now } } }) ∧
  EndsAt 0x0A 0x12 .olnenRouteSet (fun c s => argsOnly c [(32, 0, 16), (34, 0, 16), (40, 0, 64)] = true ∧ argU c 34 2 ≤ 4096 ∧ argU c 32 2 + argU c 34 2 ≤ 4096 ∧ bufferCheck c s = none ∧ 8 * argU c 34 2 ≤ c.inLen ∧
      ((List.range (argU c 34 2)).map (fun i => inU c (8 * i) 8)).all routeOk = true ∧ (judge c { unit := 0x0A, obj := 2 ^ 37 } (.value (leNat (leBytes 32 c.args.toNat ++ c.input.take (8 * argU c 34 2)))) s).1 = true)
    (fun _ _ => {}) (fun c s => let t := (judge c { unit := 0x0A, obj := 2 ^ 37 } (.value (leNat (leBytes 32 c.args.toNat ++ c.input.take (8 * argU c 34 2)))) s).2
      let b := setRoutes (argU c 32 2) ((List.range (argU c 34 2)).map (fun i => inU c (8 * i) 8)) t.oln.standby
      if argU c 40 8 ≤ fabricTime t then { t with oln := { t.oln with standby := b, routes := b, swapAt := none } } else { t with oln := { t.oln with standby := b, swapAt := some (argU c 40 8) } }) ∧
  EndsAt 0x0A 0x13 .olnenRouteGet (fun c s => argsOnly c [(32, 0, 16), (34, 0, 16), (36, 0, 1)] = true ∧ argU c 32 2 + argU c 34 2 ≤ 4096 ∧ bufferCheck c s = none ∧ 8 * argU c 34 2 ≤ c.outLen)
    (fun c s => { output := ((List.range (argU c 34 2)).map (fun i => leBytes 8 (tblGetD (if argBits c 36 0 1 == 1 then s.oln.standby else s.oln.routes) (argU c 32 2 + i) 0))).flatten, space := 8 * argU c 34 2 }) (fun _ s => s) ∧
  (∀ ms, EndsAt 0x0A 0x18 .olnenMcastGroup (fun c s => argsOnly c [(32, 0, 12), (34, 0, 7)] = true ∧ argBits c 34 0 7 ≤ 64 ∧ bufferCheck c s = none ∧ groupForeign s c (argBits c 32 0 12) = false ∧ 4 * argBits c 34 0 7 ≤ c.inLen ∧
      memberList c.input (argBits c 34 0 7) = some ms ∧ (judge c { unit := 0x0A, obj := 2 ^ 38 + argBits c 32 0 12 } (.value (leNat (leBytes 32 c.args.toNat ++ c.input.take (4 * argBits c 34 0 7)))) s).1 = true)
    (fun _ _ => {}) (fun c s => let t := (judge c { unit := 0x0A, obj := 2 ^ 38 + argBits c 32 0 12 } (.value (leNat (leBytes 32 c.args.toNat ++ c.input.take (4 * argBits c 34 0 7)))) s).2
      { t with oln := { t.oln with mcast := if argBits c 34 0 7 == 0 then tblDel t.oln.mcast (argBits c 32 0 12) else tblSet t.oln.mcast (argBits c 32 0 12) { ctx := cmdCtx t c, members := ms } } })) ∧
  (∀ x, WaitsThen settleWork 0x0A 0x19 .olnenMcast (fun c s => argsOnly c [(32, 0, 12)] = true ∧ bufferCheck c s = none ∧ tblGet? s.oln.mcast (argBits c 32 0 12) = some x ∧ mayName s c x.ctx = true ∧ isMessage c.input = true ∧
      s.oln.addr ≠ none ∧ (∀ m ∈ x.members, maySendInput s c m.1 (protSlot s x.ctx none).isSome = true) ∧ sealStatus s (protSlot s x.ctx none) = none ∧ x.members.length ≤ freeTags s)
    (fun oid c s => mcastStart oid (argBits c 32 0 12) x c s)) ∧
  EndsAt 0x0A 0x20 .olnenTime (fun c s => argsOnly c [] = true ∧ bufferCheck c s = none ∧ 40 ≤ c.outLen)
    (fun _ s => { output := leBytes 8 (fabricTime s) ++ leBytes 8 s.oln.ptmFabric ++ leBytes 8 s.oln.ptmHost ++ leBytes 8 (toTwos 64 (masterOffset s)) ++ leBytes 1 (syncCode s.oln.sync) ++ zeros 7, space := 40 }) (fun _ s => s) ∧
  WaitsAt 0x0A 0x21 .olnenConfig (fun c s => argsOnly c [(32, 0, 16), (40, 0, 64)] = true ∧ olnenRange (argU c 32 2) (argU c 40 8) = true ∧ ([0x11, 0x13, 0x14].contains (argU c 32 2) = false ∨ tombstonesLast s (argU c 32 2) (argU c 40 8) = true) ∧
      (judge c { unit := 0x0A, obj := 2 ^ 39 + argU c 32 2 } (.value (argU c 40 8)) s).1 = true)
    (fun oid c s => let t := (judge c { unit := 0x0A, obj := 2 ^ 39 + argU c 32 2 } (.value (argU c 40 8)) s).2
      { t with cln := { t.cln with staged := t.cln.staged ++ [{ oid := oid, cmd := c, done := { r0 := olnenNext t (argU c 32 2) }, change := .olnen (argU c 32 2) (argU c 40 8) }] } })

/-! Transport and remote memory (file 12) -/

/-- R365, R366, R371-R376, R387, R392, R396, R397, R401: acknowledgements, NACK and NOTICE frames, and the timers of the flows. -/
def Obligations.FlowRowsComplete : Prop :=
  (∀ (f : TFrame) (x : Slot) (s : State), reachesSlot 2 f x s → exec (.transportAckReceive f) s = .next (retrySlots (settleWork (takeAck (flowOf f) f (screened f s).2)))) ∧
  (∀ (f : TFrame) (x : Slot) (s : State), reachesSlot 3 f x s → f.opFlags = 1 → (∀ t, x.gapAt = some t → t + x.srtt ≤ (takeAck (flowOf f) f (screened f s).2).now) →
    exec (.nackGap f) s = .next (settleWork (resendFlow (flowOf f) false (modSlot (flowOf f) (fun x => { x with gapAt := some (takeAck (flowOf f) f (screened f s).2).now }) (takeAck (flowOf f) f (screened f s).2))))) ∧
  (∀ (f : TFrame) (x : Slot) (s : State), reachesSlot 3 f x s → f.opFlags = 2 → x.peerBoot = some f.srcBoot → exec (.nackResync f) s = .next (resendFlow (flowOf f) true (screened f s).2)) ∧
  (∀ (f : TFrame) (k b : Nat) (x y : Slot) (s : State), s.hlt.arms = [] → getSlot? s k = some y → keyNode k = f.srcNode → y.peerBoot = some b → b ≠ f.srcBoot →
    reachesSlot 3 f x s → f.opFlags = 2 → x.peerBoot = some f.srcBoot →
    exec (.nackResync f) s = .next (resendFlow (flowOf f) true (endNode f.srcNode (.restarted f.srcBoot) (takeArrived f s).2.2))) ∧
  (∀ (f : TFrame) (x : Slot) (s : State), reachesSlot 3 f x s → f.opFlags = 3 → exec (.nackBusy f) s = .next (backOff (flowOf f) f (screened f s).2)) ∧
  (∀ (f : TFrame) (x : Slot) (s : State), reachesSlot 3 f x s → f.opFlags = 4 → exec (.nackNoSlot f) s = .next (backOff (flowOf f) f (screened f s).2)) ∧
  (∀ (f : TFrame) (x : Slot) (s : State), reachesSlot 3 f x s → f.opFlags = 5 → exec (.nackNotHolder f) s = .next (peerUnreachable (flowOf f) (screened f s).2)) ∧
  (∀ (f : TFrame) (x : Slot) (s : State), reachesSlot 4 f x s → f.opFlags = 1 → exec (.noticeShutdown f) s = .next (peerUnreachable (flowOf f) (screened f s).2)) ∧
  (∀ (f : TFrame) (s : State), f.typ = 4 → f.opFlags = 2 → (screened f s).1 = true → (screened f s).2.trn.members.contains f.srcNode = true → stookList f.payload = (screened f s).2.trn.members →
    exec (.noticeStookList f) s = .next (let t := (screened f s).2; { t with trn := { t.trn with differs := setDel t.trn.differs f.srcNode } })) ∧
  (∀ (f : TFrame) (s : State), f.typ = 4 → f.opFlags = 2 → (screened f s).1 = true → (screened f s).2.trn.members.contains f.srcNode = true → stookList f.payload ≠ (screened f s).2.trn.members →
    exec (.noticeStookList f) s = .next (let t := (screened f s).2
      raise .stookMismatch (stookRcpts t) (leBytes 2 f.srcNode ++ leBytes 1 t.oln.stook) { t with trn := { t.trn with differs := setAdd t.trn.differs f.srcNode } })) ∧
  (∀ (ctx node rctx : Nat) (x : Slot) (s : State), getSlot? s (slotKey ctx node rctx) = some x → x.unacked ≠ [] → x.progress + rtoNs s x ≤ s.now → x.holdUntil ≤ s.now → x.timeouts + 1 < olnenParam s 0x14 →
    exec (.rtoTimeout ctx node rctx) s = .next (resendFlow (slotKey ctx node rctx) false (setSlot (slotKey ctx node rctx) { x with timeouts := x.timeouts + 1, cwnd := 512, progress := s.now } s))) ∧
  (∀ (ctx node rctx : Nat) (x : Slot) (s : State), getSlot? s (slotKey ctx node rctx) = some x → x.unacked ≠ [] → x.progress + rtoNs s x ≤ s.now → x.holdUntil ≤ s.now → olnenParam s 0x14 ≤ x.timeouts + 1 →
    exec (.rtoTimeout ctx node rctx) s = .next (peerUnreachable (slotKey ctx node rctx) s)) ∧
  (∀ (ctx node rctx t : Nat) (x : Slot) (s : State), getSlot? s (slotKey ctx node rctx) = some x → x.ackSince = some t → t + 1000 ≤ s.now → exec (.transportAckTimer ctx node rctx) s = .next (sendAck (slotKey ctx node rctx) s)) ∧
  (∀ (ctx node rctx : Nat) (x : Slot) (s : State), getSlot? s (slotKey ctx node rctx) = some x → recyclable s (slotKey ctx node rctx) x = true →
    exec (.slotRecycle ctx node rctx) s = .next (retrySlots (recycleSlot (slotKey ctx node rctx) x s))) ∧
  (∀ (ctx node rctx : Nat) (t : Tombstone) (s : State), tblGet? s.trn.tombs (slotKey ctx node rctx) = some t → t.until_ ≤ s.now →
    exec (.tombstoneExpiry ctx node rctx) s = .next { s with trn := { s.trn with tombs := tblDel s.trn.tombs (slotKey ctx node rctx) } }) ∧
  (∀ (tag : Nat) (f : Flag) (o : TOp) (s : State), tblGet? s.trn.flags tag = some f → tblGet? s.trn.ops tag = some o → f.lost = none → f.waits = [] →
    exec (.flagSend tag) s = .next (sendData o.key f.out { s with trn := { s.trn with flags := tblDel s.trn.flags tag } })) ∧
  (∀ (tag l : Nat) (f : Flag) (o : TOp) (oid seg : Nat) (s : State), tblGet? s.trn.flags tag = some f → tblGet? s.trn.ops tag = some o → f.lost = some l → o.owner = .cmd oid seg →
    exec (.flagSend tag) s = .next (let t := raise .flagAborted [.ctx f.ctx] (leBytes 2 f.cid ++ leBytes 2 l) s
      settleWork (finish oid { status := .aborted, detail := some (leBytes 2 l ++ zeros 6) } (flagsNote tag true { t with trn := { t.trn with ops := tblDel t.trn.ops tag, flags := tblDel t.trn.flags tag, xfers := tblDel t.trn.xfers oid } })))) ∧
  (∀ (ring cid oid : Nat) (c : Cmd) (w : CounterWait) (s : State), inflightOf s ring cid (fun c => c.unit == 0x0A && c.verb == 0x3C) = some (oid, c) → s.trn.waits.find? (fun w => w.oid == oid) = some w → w.until_ ≤ s.now →
    exec (.counterWaitTimeout ring cid) s = .next (finish oid { status := .timeout, r0 := tblGetD s.trn.counters w.counter 0 } { s with trn := { s.trn with waits := s.trn.waits.erase w } }))

/-- R377-R394, R399: the operations that a flow delivers and the answers to the node's own. -/
def Obligations.RemoteOperationsComplete : Prop :=
  (∀ w r, FrameRow settleWork 0x01 .opLoad (fun o s => 8 ≤ loadLen o.frame ∧ loadLen o.frame ≤ 4096 ∧ loadLen o.frame % 8 = 0 ∧ windowCheck s o.frame (·.read) [(o.frame.offset, loadLen o.frame)] = .ok (w, r) ∧
      o.frame.prot = false ∧ r.prot = false ∧ mayLoad s o.frame w.region = true ∧ w.coherent = false ∧ (loadBytes o.frame w r (loadWaits o.frame w r s)).2 = false)
    (fun o s => respond (flowOf o.frame) o.cls o.frame { blankFrame with op := 0x81, payload := (loadBytes o.frame w r (loadWaits o.frame w r s)).1 } (loadWaits o.frame w r s))) ∧
  (∀ w r, FrameRow settleWork 0x02 .opStore (fun o s => lacksProt s o.frame = false ∧ windowCheck s o.frame (mayStore s o.frame) (storeSpans o.frame) = .ok (w, r) ∧ o.frame.prot = false ∧ r.prot = false ∧ counterOk s o.frame = true ∧ w.coherent = false)
    (fun o s => storeLand o.frame w r s)) ∧
  (∀ e, FrameRow settleWork 0x02 .opStore (fun o s => lacksProt s o.frame = false ∧ windowCheck s o.frame (mayStore s o.frame) (storeSpans o.frame) = .error e)
    (fun o s => fault (flowOf o.frame) o.cls o.frame e (denied o.frame e s))) ∧
  (∀ w r, FrameRow settleWork 0x03 .opAtomic (fun o s => lacksProt s o.frame = false ∧ windowCheck s o.frame (mayAtomic s o.frame) [(o.frame.offset, 8)] = .ok (w, r) ∧ o.frame.offset % 8 = 0 ∧ o.frame.prot = false ∧ r.prot = false ∧
      w.coherent = false ∧ (regionRead s r (w.off + o.frame.offset) 8).2 = false)
    (fun o s => respond (flowOf o.frame) o.cls o.frame { blankFrame with op := 0x83, payload := (regionRead s r (w.off + o.frame.offset) 8).1 } (atomicLand o.frame w r (regionRead s r (w.off + o.frame.offset) 8).1 s))) ∧
  FrameRow settleWork 0x04 .opCounterAdd (fun o s => tblGet? s.trn.counterOwner (o.frame.msgLen % 2 ^ 16) = some o.frame.dstCtx) (fun o s => addCounter (o.frame.msgLen % 2 ^ 16) o.frame.operand s) ∧
  FrameRow settleWork 0x05 .opCoreMsg (fun o s => lacksProt s o.frame = false ∧ o.frame.prot = false ∧ msgCore o.frame < 72 ∧ reachable s (msgCore o.frame) = true ∧ msgTaken s o.frame = true ∧ (openPayload o.frame).length ≤ 4096 ∧
      (tblGetD (getCore s (msgCore o.frame)).rxq (msgThread o.frame) []).length < 63)
    (fun o s => placeMsg o.frame s) ∧
  (∀ j x, FrameRow settleWork 0x06 .opCommand (fun o s => s.hlt.drain.phase ≠ .quiesce ∧ s.hlt.drain.phase ≠ .ready ∧ s.mod.stopping = false ∧ s.mod.shutdown = false ∧ lacksProt s o.frame = false ∧ jobCheck s o.frame = .ok j ∧ j.command = true ∧
      64 ≤ o.frame.msgLen ∧ o.frame.msgLen ≤ 64 + 2 ^ 24 ∧ o.frame.offset = 0 ∧ (tblGetD s.trn.rqueues o.frame.dstCtx []).length < 256 ∧ stagedBytes s + o.frame.msgLen ≤ s.tir.trnAreaGib * 2 ^ 30 ∧ o.frame.prot = false ∧
      getSlot? s (flowOf o.frame) = some x ∧ o.frame.last = true ∧ (openPayload o.frame).length = o.frame.msgLen ∧ getU (openPayload o.frame) 16 4 + 64 = o.frame.msgLen ∧ getU (openPayload o.frame) 20 4 ≤ 2 ^ 24)
    (fun o s => queueCommand o (openPayload o.frame) (setSlot (flowOf o.frame) { x with part := none } s))) ∧
  (∀ p oid seg, FrameRow settleWork 0x81 .loadData (fun o s => opOf s o.frame [.load] = some p ∧ o.frame.prot = false ∧ p.owner = .cmd oid seg)
    (fun o s => endOp o.frame.tag (.good (leNat ((openPayload o.frame).take 8))) (placeOutput oid seg ((openPayload o.frame).take p.bytes) s))) ∧
  (∀ p, FrameRow settleWork 0x83 .atomicOld (fun o s => opOf s o.frame [.atomic] = some p ∧ o.frame.prot = false) (fun o s => endOp o.frame.tag (.good (getU (openPayload o.frame) 0 8)) s)) ∧
  (∀ p, FrameRow settleWork 0x82 .opFault (fun o s => opOf s o.frame [.load, .store, .atomic, .counterAdd, .coreMsg, .command, .flag] = some p) (fun o s => endOp o.frame.tag (.lost (statusOf o.frame.status)) s)) ∧
  (∀ p x oid seg, FrameRow settleWork 0x86 .commandDoneMsg (fun o s => opOf s o.frame [.command] = some p ∧ getSlot? s (flowOf o.frame) = some x ∧ o.frame.prot = false ∧ o.frame.offset = 0 ∧ o.frame.last = true ∧ p.owner = .cmd oid seg)
    (fun o s => let t := setSlot (flowOf o.frame) { x with part := none } s
      finish oid { r0 := getU (openPayload o.frame) 2 1, output := openPayload o.frame } { t with trn := { t.trn with ops := tblDel t.trn.ops o.frame.tag, xfers := tblDel t.trn.xfers oid } }))

/-- R392, R393: the coherence messages of a stook. -/
def Obligations.CoherenceRowsComplete : Prop :=
  FrameRow settleWork 0x08 .cohGetS (fun o s => inStook s o.frame.srcNode = true ∧ homeLine s o.frame.window (o.frame.offset / 64) = true)
    (fun o s => serveLine o.frame.window (o.frame.offset / 64) false (.get o.frame.srcNode false) s) ∧
  FrameRow settleWork 0x08 .cohGetM (fun o s => inStook s o.frame.srcNode = true ∧ homeLine s o.frame.window (o.frame.offset / 64) = true)
    (fun o s => serveLine o.frame.window (o.frame.offset / 64) true (.get o.frame.srcNode true) s) ∧
  FrameRow settleWork 0x08 .cohPutM (fun o s => inStook s o.frame.srcNode = true ∧ lineOwner s o.frame.window (o.frame.offset / 64) = some o.frame.srcNode)
    (fun o s => lineAnswer o.frame.window (o.frame.offset / 64) o.frame.srcNode (setDir o.frame.window (o.frame.offset / 64) 0 (writeLine o.frame.window (o.frame.offset / 64) (openPayload o.frame) s))) ∧
  (∀ x, FrameRow settleWork 0x88 .cohWriteBack (fun o s => inStook s o.frame.srcNode = true ∧ recallOf s o.frame.window (o.frame.offset / 64) o.frame.srcNode = some x)
    (fun o s => lineAnswer o.frame.window (o.frame.offset / 64) o.frame.srcNode (setDir o.frame.window (o.frame.offset / 64) (if x.excl then 0 else 256 + 2 ^ memberIndex s o.frame.srcNode) (writeLine o.frame.window (o.frame.offset / 64) (openPayload o.frame) s)))) ∧
  (∀ x, FrameRow settleWork 0x88 .cohInvAck (fun o s => inStook s o.frame.srcNode = true ∧ tblGet? s.trn.windows o.frame.window = some x)
    (fun o s => lineAnswer o.frame.window (o.frame.offset / 64) o.frame.srcNode (dropSharer x o.frame.window (o.frame.offset / 64) o.frame.srcNode s))) ∧
  (∀ c, FrameRow settleWork 0x08 .cohRecall (fun o s => inStook s o.frame.srcNode = true ∧ cached? s o.frame.srcNode o.frame.window (o.frame.offset / 64) = some c ∧ c.owned = true)
    (fun o s => sendCoh c.home .writeBack o.frame.window (o.frame.offset / 64) false c.data (giveUpLine c (o.frame.operand % 2 == 1) s))) ∧
  FrameRow settleWork 0x08 .cohInv (fun o s => inStook s o.frame.srcNode = true)
    (fun o s => sendCoh o.frame.srcNode .invAck o.frame.window (o.frame.offset / 64) false [] (dropLine o.frame.srcNode o.frame.window (o.frame.offset / 64) s)) ∧
  FrameRow settleWork 0x88 .cohData (fun o s => inStook s o.frame.srcNode = true)
    (fun o s => installLine { home := o.frame.srcNode, window := o.frame.window, line := o.frame.offset / 64, owned := o.frame.operand % 2 == 1, data := openPayload o.frame } s)

/-- R368, R377-R380, R382-R384, R387, R389-R393, R396, R402-R404, R412, R491: the commands of remote memory, the Field's remote accesses, the acceptance of remote commands; the turns between rings and remote command queues are the model's choice (log entry 85). -/
def Obligations.RemoteCommandsComplete : Prop :=
  WaitsThen settleWork 0x0A 0x31 .olnenPut (fun c s => argsOnly c (nodeFields ++ [(36, 0, 16), (38, 0, 16), (40, 0, 64), (48, 0, 16), (50, 0, 16)]) = true ∧ bufferCheck c s = none ∧ localCounterOk s c (argU c 50 2) = true ∧
      cannotSend s (cmdCtx s c) (argU c 32 2) (argU c 34 2) = false ∧ maySendInput s c (argU c 32 2) (protSlot s (cmdCtx s c) (some (argU c 36 2))).isSome = true ∧ sealStatus s (protSlot s (cmdCtx s c) (some (argU c 36 2))) = none ∧ (xferPieces s c c.input.length).length ≤ freeTags s ∧ (xferPieces s c c.input.length).isEmpty = false)
    (fun oid c s => putPieces oid (cmdCtx s c) (protSlot s (cmdCtx s c) (some (argU c 36 2))) c (xferPieces s c c.input.length) (beginXfer oid (xferPieces s c c.input.length).length c s)) ∧
  WaitsThen settleWork 0x0A 0x32 .olnenGet (fun c s => argsOnly c (nodeFields ++ [(36, 0, 16), (38, 0, 16), (40, 0, 64), (50, 0, 16)]) = true ∧ bufferCheck c s = none ∧ localCounterOk s c (argU c 50 2) = true ∧
      cannotSend s (cmdCtx s c) (argU c 32 2) (argU c 34 2) = false ∧ maySendInput s c (argU c 32 2) (protSlot s (cmdCtx s c) (some (argU c 36 2))).isSome = true ∧ sealStatus s (protSlot s (cmdCtx s c) (some (argU c 36 2))) = none ∧ (xferPieces s c c.outLen).length ≤ freeTags s ∧ (xferPieces s c c.outLen).isEmpty = false)
    (fun oid c s => getPieces oid (cmdCtx s c) (protSlot s (cmdCtx s c) (some (argU c 36 2))) c (xferPieces s c c.outLen) (beginXfer oid (xferPieces s c c.outLen).length c s)) ∧
  WaitsThen settleWork 0x0A 0x33 .olnenAtomic (fun c s => argsOnly c (nodeFields ++ [(36, 0, 16), (38, 0, 16), (40, 0, 64), (52, 0, 3), (56, 0, 64)]) = true ∧ bufferCheck c s = none ∧ (argBits c 52 0 3 = 5 → 8 ≤ c.inLen) ∧
      cannotSend s (cmdCtx s c) (argU c 32 2) (argU c 34 2) = false ∧ maySendInput s c (argU c 32 2) (protSlot s (cmdCtx s c) (some (argU c 36 2))).isSome = true ∧ sealStatus s (protSlot s (cmdCtx s c) (some (argU c 36 2))) = none ∧ 1 ≤ freeTags s)
    (fun oid c s => let t : State := { s with trn := { s.trn with xfers := tblSet s.trn.xfers oid { left := 1, segs := 1 } } }
      issueOp (fun _ => { kind := .atomic, owner := .cmd oid 0, ctx := cmdCtx s c, key := slotKey (cmdCtx s c) (argU c 32 2) (argU c 34 2) }) (protSlot s (cmdCtx s c) (some (argU c 36 2))) (cmdClass t c)
        { blankFrame with op := 0x03, opFlags := argBits c 52 0 3, job := argU c 36 2, window := argU c 38 2, offset := argU c 40 8, operand := argU c 56 8, payload := if argBits c 52 0 3 == 5 then c.input.take 8 else [] } t) ∧
  WaitsThen settleWork 0x0A 0x34 .olnenFlag (fun c s => argsOnly c (nodeFields ++ [(36, 0, 16), (38, 0, 16), (40, 0, 64), (48, 0, 64), (56, 0, 64)]) = true ∧ c.inLen ≤ 4096 ∧ bufferCheck c s = none ∧
      cannotSend s (cmdCtx s c) (argU c 32 2) (argU c 34 2) = false ∧ maySendInput s c (argU c 32 2) (protSlot s (cmdCtx s c) (some (argU c 36 2))).isSome = true ∧ sealStatus s (protSlot s (cmdCtx s c) (some (argU c 36 2))) = none ∧ 1 ≤ freeTags s)
    (fun oid c s => let t : State := { s with trn := { s.trn with xfers := tblSet s.trn.xfers oid { left := 1, segs := 1 } } }
      holdFlag (fun _ => { kind := .flag, owner := .cmd oid 0, ctx := cmdCtx s c, key := slotKey (cmdCtx s c) (argU c 32 2) (argU c 34 2) }) c.cid (protSlot s (cmdCtx s c) (some (argU c 36 2))) (cmdClass t c)
        { blankFrame with op := 0x02, flagged := true, job := argU c 36 2, window := argU c 38 2, offset := argU c 48 8, operand := argU c 56 8, msgLen := 0xFFFF, payload := leBytes 8 (argU c 40 8) ++ c.input } t) ∧
  WaitsThen settleWork 0x0A 0x35 .olnenMsg (fun c s => argsOnly c (nodeFields ++ [(36, 0, 7), (37, 0, 2)]) = true ∧ argBits c 36 0 7 < 72 ∧ c.inLen ≤ 4096 ∧ bufferCheck c s = none ∧
      cannotSend s (cmdCtx s c) (argU c 32 2) (argU c 34 2) = false ∧ maySendInput s c (argU c 32 2) (protSlot s (cmdCtx s c) none).isSome = true ∧ sealStatus s (protSlot s (cmdCtx s c) none) = none ∧ 1 ≤ freeTags s)
    (fun oid c s => let t : State := { s with trn := { s.trn with xfers := tblSet s.trn.xfers oid { left := 1, segs := 1 } } }
      issueOp (fun _ => { kind := .coreMsg, owner := .cmd oid 0, ctx := cmdCtx s c, key := slotKey (cmdCtx s c) (argU c 32 2) (argU c 34 2) }) (protSlot s (cmdCtx s c) none) (cmdClass t c)
        { blankFrame with op := 0x05, window := 0xFFFF, offset := argBits c 36 0 7 + 256 * argBits c 37 0 2, payload := c.input } t) ∧
  WaitsThen settleWork 0x0A 0x30 .olnenRemote (fun c s => argsOnly c nodeFields = true ∧ bufferCheck c s = none ∧ isMessage c.input = true ∧
      cannotSend s (cmdCtx s c) (argU c 32 2) (argU c 34 2) = false ∧ maySendInput s c (argU c 32 2) (protSlot s (cmdCtx s c) none).isSome = true ∧ sealStatus s (protSlot s (cmdCtx s c) none) = none ∧ 1 ≤ freeTags s)
    (fun oid c s => let t : State := { s with trn := { s.trn with xfers := tblSet s.trn.xfers oid { left := 1, segs := 1 } } }
      issueMessage (fun _ => { kind := .command, owner := .cmd oid 0, ctx := cmdCtx s c, key := slotKey (cmdCtx s c) (argU c 32 2) (argU c 34 2) }) (argU c 32 2) (protSlot s (cmdCtx s c) none) (cmdClass t c) c.input t) ∧
  (∀ ms x, EndsAt 0x0A 0x38 .olnenJobSet (fun c s => argsOnly c [(32, 0, 16), (34, 0, 12), (36, 0, 1), (38, 0, 16)] = true ∧ 1 ≤ argU c 38 2 ∧ argU c 38 2 ≤ 1024 ∧ bufferCheck c s = none ∧ 4 * argU c 38 2 ≤ c.inLen ∧
      memberList c.input (argU c 38 2) = some ms ∧ getCtx? s (argU c 34 2) = some x ∧ (s.trn.jobs.filter (fun e => e.1 != argU c 32 2)).length < 4096 ∧
      sumN ((s.trn.jobs.filter (fun e => e.1 != argU c 32 2)).map (fun e => e.2.members.length)) + argU c 38 2 ≤ 65536 ∧
      (judge c { unit := 0x0A, obj := 2 ^ 32 + argU c 32 2 } (.value (leNat (leBytes 32 c.args.toNat ++ c.input.take (4 * argU c 38 2)))) s).1 = true)
    (fun _ _ => {}) (fun c s => let t := (judge c { unit := 0x0A, obj := 2 ^ 32 + argU c 32 2 } (.value (leNat (leBytes 32 c.args.toNat ++ c.input.take (4 * argU c 38 2)))) s).2
      { t with trn := { t.trn with jobs := tblSet t.trn.jobs (argU c 32 2) { ctx := argU c 34 2, command := argBits c 36 0 1 == 1, members := ms } } })) ∧
  (∀ r off j n dir, EndsAt 0x0A 0x39 .olnenWindowOpen (fun c s => argsOnly c [(32, 0, 16), (36, 0, 4), (40, 0, 64), (48, 0, 64)] = true ∧ resolve s (argU c 40 8) = some (r, off) ∧ mayName s c r.ctx = true ∧ tblGet? s.trn.jobs (argU c 32 2) = some j ∧
      j.ctx = r.ctx ∧ off + argU c 48 8 ≤ regionSize r ∧ (argBits c 36 3 1 = 1 → s.trn.members ≠ []) ∧ s.trn.windows.length < 65535 ∧ tblFree? s.trn.windows (s.trn.windows.length + 1) = some n ∧
      dirPlace s (argBits c 36 3 1 == 1) (argU c 48 8) = some dir)
    (fun _ _ => { r0 := n }) (fun c s => { s with trn := { s.trn with windows := tblSet s.trn.windows n (windowOf c r off dir) } })) ∧
  (∀ w, EndsAt 0x0A 0x3A .olnenWindowClose (fun c s => argsOnly c [(32, 0, 16)] = true ∧ tblGet? s.trn.windows (argU c 32 2) = some w ∧ mayName s c w.ctx = true)
    (fun _ _ => {}) (fun c s => closeWindows (fun k _ => k == argU c 32 2) s)) ∧
  (∀ k, EndsAt 0x0A 0x3B .olnenCounterAlloc (fun c s => argsOnly c [(32, 0, 16), (34, 0, 1), (36, 0, 0)] = true ∧ argBits c 34 0 1 = 0 ∧ 1 ≤ argU c 32 2 ∧ argU c 32 2 ≤ 4096 ∧ freeRun (argU c 32 2) 0 (s.trn.counterOwner.map (·.1)) = some k)
    (fun _ _ => { r0 := k }) (fun c s => { s with trn := { s.trn with counterOwner := (List.range (argU c 32 2)).foldl (fun t i => tblSet t (k + i) (cmdCtx s c)) s.trn.counterOwner, counters := (List.range (argU c 32 2)).foldl (fun t i => tblDel t (k + i)) s.trn.counters } })) ∧
  (∀ x, EndsAt 0x0A 0x3C .olnenCounterWait (fun c s => argsOnly c [(32, 0, 16), (40, 0, 64), (48, 0, 32)] = true ∧ argU c 32 2 ≠ 0xFFFF ∧ tblGet? s.trn.counterOwner (argU c 32 2) = some x ∧ s.hlt.arms = [] ∧ mayName s c x = true ∧
      reached (tblGetD s.trn.counters (argU c 32 2) 0) (argU c 40 8) = true)
    (fun c s => { r0 := tblGetD s.trn.counters (argU c 32 2) 0 }) (fun _ s => s)) ∧
  (∀ x, WaitsAt 0x0A 0x3C .olnenCounterWait (fun c s => argsOnly c [(32, 0, 16), (40, 0, 64), (48, 0, 32)] = true ∧ argU c 32 2 ≠ 0xFFFF ∧ tblGet? s.trn.counterOwner (argU c 32 2) = some x ∧ s.hlt.arms = [] ∧ mayName s c x = true ∧
      reached (tblGetD s.trn.counters (argU c 32 2) 0) (argU c 40 8) = false)
    (fun oid c s => { s with trn := { s.trn with waits := s.trn.waits ++ [{ oid := oid, counter := argU c 32 2, target := argU c 40 8, until_ := s.now + argU c 48 4 * 1000 }] } })) ∧
  EndsAt 0x0A 0x3D .olnenStookSet (fun c s => argsOnly c [(32, 0, 8), (33, 0, 4)] = true ∧ argBits c 33 0 4 ≤ 8 ∧ (argU c 32 1 = 0xFF ↔ argBits c 33 0 4 = 0) ∧ bufferCheck c s = none ∧ 2 * argBits c 33 0 4 ≤ c.inLen ∧
      stookOk s ((List.range (argBits c 33 0 4)).map (fun i => inU c (2 * i) 2)) (argU c 32 1 == 0xFF) = true ∧
      (judge c { unit := 0x0A, obj := 2 ^ 33 } (.value (leNat (leBytes 32 c.args.toNat ++ c.input.take (2 * argBits c 33 0 4)))) s).1 = true)
    (fun _ _ => {}) (fun c s => setStook (argU c 32 1) ((List.range (argBits c 33 0 4)).map (fun i => inU c (2 * i) 2)) (judge c { unit := 0x0A, obj := 2 ^ 33 } (.value (leNat (leBytes 32 c.args.toNat ++ c.input.take (2 * argBits c 33 0 4)))) s).2) ∧
  EndsAt 0x0A 0x3E .olnenFlowStatus (fun c s => argsOnly c [] = true ∧ bufferCheck c s = none ∧ 32 * (s.trn.slots.filter (fun e => keyCtx e.1 == cmdCtx s c)).length ≤ c.outLen)
    (fun c s => let xs := s.trn.slots.filter (fun e => keyCtx e.1 == cmdCtx s c)
      { r0 := s.trn.slots.length + min 0xFFFF s.trn.tombs.length * 2 ^ 16, output := (xs.map (fun e => flowRecord s e.1 e.2)).flatten, space := 32 * xs.length }) (fun _ s => s) ∧
  (∀ (core thread node rctx job window offset kind n : Nat) (operand swap : Word) (r : Run) (s : State), runAt s core thread = some (n, r) → mayAccess s core thread = true → kind ≤ 9 →
    cannotSend s r.ctx node rctx = false → sealStatus s (protSlot s r.ctx (some job)) = none → freeTags s ≠ 0 →
    exec (.fieldRemoteAccess core thread node rctx job window offset kind operand swap false) s = .next
      (threadWaits core thread (takeTag (fun _ => { kind := .load, owner := .thread core thread, ctx := r.ctx, key := slotKey r.ctx node rctx }) s).1
        (issueOp (fun _ => { kind := threadKind kind, owner := .thread core thread, ctx := r.ctx, key := slotKey r.ctx node rctx }) (protSlot s r.ctx (some job)) 0 (threadFrame job window offset kind operand swap) s))) ∧
  (∀ (ctx : Nat) (passed : List Nat) (r : RCmd) (rest : List RCmd) (s : State), tblGetD s.trn.rqueues ctx [] = r :: rest → fetchHeld s = false → (fetchPick s passed).1 = some (remoteFeed ctx) →
    exec (.remoteCommandAccept ctx passed) s = .next
      (let t := countFetch r.cls (classOf (fetchPick s passed).2 r.cls).rqueue (setInst 16 (fetchPick s passed).2 { s with cln := { s.cln with nextOid := s.cln.nextOid + 1 } })
       putFetched s.cln.nextOid { time := s.now } r.cmd { t with trn := { t.trn with rqueues := if rest.isEmpty then tblDel t.trn.rqueues ctx else tblSet t.trn.rqueues ctx rest }, cln := { t.cln with sweepFetched := t.cln.sweepFetched + 1 } }))

/-! Headland (file 13) -/

/-- R410-R424, R426, R427: what a port sends next, what the fetch instance grants, the wheel, rotations, and the HEADLAND commands; what the fetch instance passes over is the model's choice (log entry 85). -/
def Obligations.HeadlandRowsComplete : Prop :=
  (∀ (passed : List Nat) (i : Nat) (s : State), (fetchPick s passed).1 = some i →
    ∃ f ∈ feeds s, f.id = i ∧ feedReady s passed f = true ∧ gateOpen (getInst s 16) f.cls (fabricTime s) = true ∧ (queueOf (getInst s 16) f.queue).wheel = none) ∧
  (∀ (p : Nat) (f : QFrame) (rest : List QFrame) (s : State), p < nPorts s → expressHead s p = some (f, rest) →
    exec (.portTransmitPick p) s = .next (transmit p f (setInst p { getInst s p with express := rest } s))) ∧
  (∀ (p c q : Nat) (d e : Drr) (s : State), p < nPorts s → expressHead s p = none → pickClass s p = (some c, d) → fromClass s p c = (some q, e) → exec (.portTransmitPick p) s = .next (sendFrom_ p c q d e s)) ∧
  (∀ (p : Nat) (d : Drr) (s : State), p < nPorts s → expressHead s p = none → pickClass s p = (none, d) → exec (.portTransmitPick p) s = .next (setInst p { getInst s p with cdrr := d } s)) ∧
  (∀ (i : Nat) (s : State), exec (.wheelSlotRelease i) s = .next (((modInst i (releaseQueues (fabricTime s)) s).trn.slots.filter (fun e => e.2.port.getD 0 == i)).map (·.1) |>.foldl (fun s k => releaseFlow k s) (modInst i (releaseQueues (fabricTime s)) s))) ∧
  (∀ (i : Nat) (s : State), waitsForCycle s i = true → takeoverDue s i = true → exec (.rotationEntryEnd i) s = .next (takeOver i false s)) ∧
  (∀ (i : Nat) (s : State), takeoverDue s i = true → exec (.rotationTakeover i) s = .next (takeOver i false s)) ∧
  (∀ (i t : Nat) (s : State), (getInst s i).stopAt = some t → t ≤ fabricTime s →
    exec (.rotationStopAt i) s = .next (setInst i { getInst s i with rotation := none, pending := none, stopAt := none } s)) ∧
  (∀ is, EndsAt 0x0B 0x01 .headlandStatus (fun c s => argsOnly c [(32, 0, 8)] = true ∧ argU c 32 1 ≠ 0xFF ∧ instances s (argU c 32 1) = .ok is ∧ bufferCheck c s = none ∧ 8448 ≤ c.outLen)
    (fun c s => { r0 := entryNow s (argU c 32 1) + 2 ^ 9 * b2n (getInst s (argU c 32 1)).rotation.isSome + 2 ^ 10 * b2n (getInst s (argU c 32 1)).pending.isSome, r1 := wheelCount s (argU c 32 1) % 2 ^ 32, output := ((List.range 8).map (classStatus s (argU c 32 1))).flatten ++ ((List.range 1024).map (queueStatus s (argU c 32 1))).flatten, space := 8448 })
    (fun _ s => s)) ∧
  (∀ is, EndsAt 0x0B 0x10 .headlandClassSet (fun c s => argsOnly c [(32, 0, 8)] = true ∧ instances s (argU c 32 1) = .ok is ∧ bufferCheck c s = none ∧ 64 ≤ c.inLen ∧ (classRecords is c.input).length = 8 ∧ (is.contains 16 = true ∨ rangesApart (classRecords is c.input) = true) ∧
      (judgeAll c (2 ^ 30) (.value (leNat (c.input.take 64))) is s).1 = true)
    (fun _ _ => {}) (fun c s => putClasses is (classRecords is c.input) (judgeAll c (2 ^ 30) (.value (leNat (c.input.take 64))) is s).2)) ∧
  (∀ is, EndsAt 0x0B 0x11 .headlandQueueSet (fun c s => argsOnly c [(32, 0, 8), (34, 0, 10), (36, 0, 11)] = true ∧ 1 ≤ argBits c 36 0 11 ∧ argBits c 34 0 10 + argBits c 36 0 11 ≤ 1024 ∧ instances s (argU c 32 1) = .ok is ∧ bufferCheck c s = none ∧
      4 * argBits c 36 0 11 ≤ c.inLen ∧ (queueRecords c (argBits c 36 0 11)).any (fun r => r.1 == 0 || r.2.1 != 0) = false ∧ (judgeAll c (2 ^ 31) (.value (leNat (leBytes 32 c.args.toNat ++ c.input.take (4 * argBits c 36 0 11)))) is s).1 = true)
    (fun _ _ => {}) (fun c s => putQueues (argBits c 34 0 10) is (queueRecords c (argBits c 36 0 11)) (judgeAll c (2 ^ 31) (.value (leNat (leBytes 32 c.args.toNat ++ c.input.take (4 * argBits c 36 0 11)))) is s).2)) ∧
  (∀ is, EndsAt 0x0B 0x20 .headlandRotation (fun c s => argsOnly c [(32, 0, 8), (34, 0, 9), (40, 0, 64), (48, 0, 64)] = true ∧ 1 ≤ argBits c 34 0 9 ∧ argBits c 34 0 9 ≤ 256 ∧ instances s (argU c 32 1) = .ok is ∧ bufferCheck c s = none ∧ 8 * argBits c 34 0 9 ≤ c.inLen ∧
      entriesOk c (argBits c 34 0 9) = true ∧ (argU c 40 8 = 0 ∨ fabricTime s + 2000 ≤ argU c 40 8) ∧ (judgeAll c 0 (.activation 2) is s).1 = true)
    (fun _ _ => {}) (fun c s => putRotation is (rotationOf c (argBits c 34 0 9) (judgeAll c 0 (.activation 2) is s).2) (judgeAll c 0 (.activation 2) is s).2)) ∧
  (∀ is, EndsAt 0x0B 0x21 .headlandRotationStop (fun c s => argsOnly c [(32, 0, 8), (40, 0, 64)] = true ∧ instances s (argU c 32 1) = .ok is ∧ (judgeAll c 0 (.activation 1) is s).1 = true)
    (fun _ _ => {}) (fun c s => stopRotations (argU c 40 8) is (judgeAll c 0 (.activation 1) is s).2))

/-! Security (file 14) -/

/-- R428-R432, R435, R437, R439-R445, R450, R452, R456, R457: contexts, key slots and the parameters of the security unit. -/
def Obligations.SecurityCommandsComplete : Prop :=
  EndsAt 0x0C 0x01 .contextCreate (fun c s => argsOnly c [] = true ∧ bufferCheck c s = none ∧ 64 ≤ c.inLen ∧ ctxFieldsOk c = true ∧ ctxKeysOk s c = true ∧ (s.sec.conf = false ∨ bitOf (inU c 2 1) 0 = true ∨ bitOf (inU c 2 1) 1 = true) ∧
      tblHas s.sec.ctxs (inU c 0 2) = false ∧ residents s < 1024)
    (fun _ _ => {}) (fun c s => openTenant (inU c 4 4) { s with sec := { s.sec with ctxs := tblSet s.sec.ctxs (inU c 0 2) (ctxOf s c) } }) ∧
  (∀ k x, WaitsThen (fun t => settleDestroys (settleWork t)) 0x0C 0x02 .contextDestroy (fun c s => namedCtx s c = .ok (k, x) ∧ ringsOf s k = false ∧ (judge c (ctxTarget k) (.content 1) s).1 = true)
    (fun oid c s => let t := dropKeys k (dropObjects k (judge c (ctxTarget k) (.content 1) s).2)
      { t with sec := { t.sec with ctxs := tblUpd t.sec.ctxs k (fun x => { x with destroyBy := some oid }) } })) ∧
  (∀ k x, EndsAt 0x0C 0x03 .contextPark (fun c s => namedCtx s c = .ok (k, x) ∧ ctxBusy s k = false ∧ (judge c (ctxTarget k) (.activation 1) s).1 = true)
    (fun _ _ => {}) (fun c s => let t := (judge c (ctxTarget k) (.activation 1) s).2
      { t with sec := { t.sec with ctxs := tblSet t.sec.ctxs k { x with resident := false } } })) ∧
  (∀ k x, EndsAt 0x0C 0x04 .contextReside (fun c s => namedCtx s c = .ok (k, x) ∧ (x.resident = true ∨ residents s < 1024) ∧ (judge c (ctxTarget k) (.activation 2) s).1 = true)
    (fun _ _ => {}) (fun c s => let t := (judge c (ctxTarget k) (.activation 2) s).2
      { t with sec := { t.sec with ctxs := tblSet t.sec.ctxs k { x with resident := true } } })) ∧
  (∀ x, EndsAt 0x0C 0x05 .contextQuery (fun c s => argsOnly c [(32, 0, 12)] = true ∧ bufferCheck c s = none ∧ getCtx? s (argBits c 32 0 12) = some x ∧ mayName s c (argBits c 32 0 12) = true ∧ 64 ≤ c.outLen)
    (fun _ _ => { r0 := b2n x.resident, output := x.desc, space := 64 }) (fun _ s => s)) ∧
  (∀ e key groups unwrapped, EndsAt 0x0C 0x10 (fun c => .keyLoad c unwrapped) (fun c s => argsOnly c [] = true ∧ bufferCheck c s = none ∧ envelopeOf c = .ok e ∧ (s.sec.conf = false ∨ e.wrapped = true) ∧ (e.wrapped = false ∨ s.sec.attested = true) ∧
      envelopeKey s c e unwrapped = some key ∧ groupsAfter s e = .ok groups ∧ slotShadow s e.slot = none ∧ slotInUse s e.slot = false ∧ s.sec.nextGen < 2 ^ 32 ∧ (judge c (slotTarget e.slot) (.content 2) s).1 = true)
    (fun c s => { r0 := (putKey e (key.take 64) groups (judge c (slotTarget e.slot) (.content 2) s).2).1 }) (fun c s => (putKey e (key.take 64) groups (judge c (slotTarget e.slot) (.content 2) s).2).2)) ∧
  EndsAt 0x0C 0x11 .keyErase (fun c s => argsOnly c [(32, 0, 8)] = true ∧ (judge c (slotTarget (argU c 32 2)) (.content 1) s).1 = true)
    (fun _ _ => {}) (fun c s => eraseSlot (argU c 32 2) (judge c (slotTarget (argU c 32 2)) (.content 1) s).2) ∧
  (∀ x, EndsAt 0x0C 0x12 .keyQuery (fun c s => argsOnly c [(32, 0, 8)] = true ∧ tblGet? s.sec.keys (argU c 32 2) = some x ∧ mayName s c x.owner = true)
    (fun c s => { r0 := slotState s (argU c 32 2) + x.usage * 8 + x.owner * 2 ^ 16 + x.generation * 2 ^ 32, r1 := min (2 ^ 64 - 1) x.counter }) (fun _ s => s)) ∧
  EndsAt 0x0C 0x12 .keyQuery (fun c s => argsOnly c [(32, 0, 8)] = true ∧ tblGet? s.sec.keys (argU c 32 2) = none) (fun _ _ => {}) (fun _ s => s) ∧
  EndsAt 0x0C 0x13 .keyBindJob (fun c s => argsOnly c [(32, 0, 32)] = true ∧ argU c 34 2 ≠ 0xFFFF ∧ fabricKey s (argU c 34 2) = true ∧ (judge c (slotTarget (argU c 34 2)) (.value (argU c 32 2)) s).1 = true)
    (fun _ _ => {}) (fun c s => let t := (judge c (slotTarget (argU c 34 2)) (.value (argU c 32 2)) s).2
      { t with sec := { t.sec with jobKeys := tblSet t.sec.jobKeys (argU c 32 2) (argU c 34 2) } }) ∧
  (∀ (k : Nat) (x : KeySlot) (h : Shadow) (s : State), tblGet? s.sec.keys k = some x → x.shadow = some h → h.ops = [] → (x.usage = 2 → h.since + 10000000 ≤ s.now) →
    exec (.keyShadowDiscard k) s = .next { s with sec := { s.sec with keys := tblSet s.sec.keys k { x with shadow := none } } }) ∧
  (∀ was, EndsAt 0x0C 0x20 .secConfig (fun c s => argsOnly c [(32, 0, 16), (40, 0, 64)] = true ∧ argU c 40 8 ≤ (if argU c 32 2 == 2 then 255 else 1) ∧ secValue s (argU c 32 2) = some was ∧
      ¬(argU c 32 2 = 1 ∧ argU c 40 8 = 0 ∧ s.sec.conf = true) ∧ (judge c { unit := 0x0C, obj := 2 ^ 18 + argU c 32 2 } (.value (argU c 40 8)) s).1 = true)
    (fun _ _ => { r0 := was }) (fun c s => setSecValue (argU c 32 2) (argU c 40 8) (judge c { unit := 0x0C, obj := 2 ^ 18 + argU c 32 2 } (.value (argU c 40 8)) s).2))

/-- R458-R461: firmware images and banks. -/
def Obligations.FirmwareCommandsComplete : Prop :=
  EndsAt 0x0C 0x30 .fwStage (fun c s => argsOnly c [(32, 0, 32)] = true ∧ argU c 32 4 % 4096 = 0 ∧ bufferCheck c s = none ∧ 4096 ≤ c.inLen ∧ c.inLen ≤ 65536 ∧ argU c 32 4 + c.inLen ≤ 2 ^ 24 ∧ onTrial s = false ∧ (judge c bankTarget (.content 2) s).1 = true)
    (fun _ _ => {}) (fun c s => let t := (judge c bankTarget (.content 2) s).2
      setFwBank (idleBank t) (memPut (if argU c 32 4 == 0 then [] else fwBank t (idleBank t)) (argU c 32 4) c.input) t) ∧
  EndsAt 0x0C 0x31 (fun c => .fwActivate c true) (fun c s => argsOnly c [] = true ∧ s.hlt.arms = [] ∧ imageAuthentic s (idleBank s) true = true ∧ s.fuse.svn ≤ imageSvn s (idleBank s) ∧ fwField s (idleBank s) 7 1 = 0xB1 ∧ fwField s (idleBank s) 10 1 = 3 ∧
      (judge c bankTarget (.value 1) s).1 = true)
    (fun c s => let t := (judge c bankTarget (.value 1) s).2
      { r0 := fwResult { t with sec := { t.sec with bootBank := idleBank s, trial := true, trialStarts := 0 } } })
    (fun c s => let t := (judge c bankTarget (.value 1) s).2
      { t with sec := { t.sec with bootBank := idleBank s, trial := true, trialStarts := 0 } }) ∧
  EndsAt 0x0C 0x31 (fun c => .fwActivate c true) (fun c s => argsOnly c [] = true ∧ s.hlt.arms = [] ∧ imageAuthentic s (idleBank s) true = true ∧ imageSvn s (idleBank s) < s.fuse.svn) (fun _ _ => { status := .rollbackRefused }) (fun _ s => s) ∧
  EndsAt 0x0C 0x31 (fun c => .fwActivate c false) (fun c s => argsOnly c [] = true ∧ s.hlt.arms = []) (fun _ _ => { status := .authFailed }) (fun _ s => s) ∧
  EndsAt 0x0C 0x32 .fwCommit (fun c s => argsOnly c [(32, 0, 1)] = true ∧ (judge c bankTarget (.value (2 + b2n (argBits c 32 0 1 == 1))) s).1 = true)
    (fun c s => { r0 := (commitImage (argBits c 32 0 1 == 1) (judge c bankTarget (.value (2 + b2n (argBits c 32 0 1 == 1))) s).2).fuse.svn }) (fun c s => commitImage (argBits c 32 0 1 == 1) (judge c bankTarget (.value (2 + b2n (argBits c 32 0 1 == 1))) s).2) ∧
  (∀ sig, EndsAt 0x0C 0x33 (fun c => .fwStatus c sig) (fun c _ => argsOnly c [] = true) (fun _ s => { r0 := fwResult s, r1 := if imageOk s (idleBank s) sig then fwField s (idleBank s) 12 4 else 0 }) (fun _ s => s)) ∧
  EndsAt 0x0C 0x34 .fwEraseBank (fun c s => argsOnly c [] = true ∧ onTrial s = false ∧ (judge c bankTarget (.content 1) s).1 = true)
    (fun _ _ => {}) (fun c s => setFwBank (idleBank (judge c bankTarget (.content 1) s).2) [] (judge c bankTarget (.content 1) s).2)

/-- R443, R453-R455: the SPDM responder; the codes and bodies are those of log entry 32, from outside the spec. -/
def Obligations.SpdmRowsComplete : Prop :=
  (∀ (p : MctpPath) (s : State), fwRuns s = true →
    exec (.spdmGetVersion p) s = .next (let t : State := { s with sec := { s.sec with sessions := tblKeep s.sec.sessions (fun _ x => x.path != pathKey p) } }
      spdmSend p 0x04 (leBytes 1 2 ++ leBytes 2 0x1200 ++ leBytes 2 0x1300) (setConn p { handle := (getConn s p).handle } t))) ∧
  (∀ (p : MctpPath) (v : Nat) (s : State), fwRuns s = true → tblHas s.sec.conns (pathKey p) = true → v = 0x12 ∨ v = 0x13 →
    exec (.spdmGetCapabilities p v) s = .next (spdmSend p 0x61 (leBytes 4 spdmCaps) (setConn p { getConn s p with version := some v, caps := true } s))) ∧
  (∀ (p : MctpPath) (s : State), fwRuns s = true → (getConn s p).caps = true →
    exec (.spdmNegotiateAlgorithms p true) s = .next (spdmSend p 0x63 (leBytes 4 0x80 ++ leBytes 4 0x02 ++ leBytes 2 0x10 ++ leBytes 2 0x02 ++ leBytes 4 0x04) (setConn p { getConn s p with algs := true } s))) ∧
  (∀ (p : MctpPath) (s : State), fwRuns s = true → (getConn s p).algs = true → exec (.spdmGetDigests p) s = .next (spdmSend p 0x01 (leBytes 1 1 ++ sha384 3 (certChain s)) s)) ∧
  (∀ (p : MctpPath) (off len : Nat) (s : State), fwRuns s = true → (getConn s p).algs = true →
    exec (.spdmGetCertificate p 0 off len) s = .next (let part := ((certChain s).drop off).take len
      if (certChain s).length ≤ off then spdmSend p 0x7F (leBytes 1 0x01) s
      else spdmLarge p 0x02 (leBytes 1 0 ++ leBytes 2 part.length ++ leBytes 2 ((certChain s).length - off - part.length) ++ part) s)) ∧
  (∀ (p : MctpPath) (nonce : BitVec 256) (s : State), fwRuns s = true → (getConn s p).algs = true →
    exec (.spdmChallenge p 0 nonce) s = .next (let t : State := { s with free := s.free + 1 }
      let body := leBytes 1 0 ++ sha384 3 (certChain t) ++ leBytes 32 (Config.random s.free)
      spdmLarge p 0x03 (body ++ aliasSign t (leBytes 32 nonce.toNat ++ body)) t)) ∧
  (∀ (p : MctpPath) (i : Nat) (nonce : BitVec 256) (bs : List (List Byte)) (s : State), fwRuns s = true → (getConn s p).algs = true → measurementBlocks s i = some bs →
    exec (.spdmGetMeasurements p i false nonce) s = .next (spdmLarge p 0x60 (measurementBody i s.free bs) { s with free := s.free + 1 }) ∧
    exec (.spdmGetMeasurements p i true nonce) s = .next (let t : State := { s with free := s.free + 1 }
      spdmLarge p 0x60 (measurementBody i s.free bs ++ aliasSign t (leBytes 32 nonce.toNat ++ measurementBody i s.free bs)) { t with sec := { t.sec with attested := true } })) ∧
  (∀ (p : MctpPath) (id : Nat) (pub : BitVec 768) (s : State), fwRuns s = true → (getConn s p).algs = true → s.sec.sessions.length < 8 →
    exec (.spdmKeyExchange p id pub) s = .next (let t : State := { s with free := s.free + 1 }
      let u : State := { t with sec := { t.sec with sessions := tblSet t.sec.sessions (id % 2 ^ 16 + freeSession s * 2 ^ 16) { path := pathKey p, reqId := id % 2 ^ 16 } } }
      spdmLarge p 0x64 (exchangeBody (freeSession s) s.free pub ++ aliasSign u (exchangeBody (freeSession s) s.free pub)) u)) ∧
  (∀ (p : MctpPath) (k : Nat) (x : SpdmSession) (s : State), fwRuns s = true → (getConn s p).algs = true → session? s p k = some x → x.finished = false →
    exec (.spdmFinish p k true) s = .next (spdmSend p 0x65 [] { s with sec := { s.sec with sessions := tblSet s.sec.sessions k { x with finished := true } } })) ∧
  (∀ (p : MctpPath) (k : Nat) (x : SpdmSession) (s : State), fwRuns s = true → (getConn s p).algs = true → session? s p k = some x → x.finished = true →
    exec (.spdmEndSession p k) s = .next (spdmSend p 0x6C [] { s with sec := { s.sec with sessions := tblDel s.sec.sessions k } }) ∧
    exec (.spdmHeartbeat p k) s = .next (spdmSend p 0x68 [] s) ∧
    (∀ op, op = 1 ∨ op = 2 → exec (.spdmKeyUpdate p k op) s = .next (spdmSend p 0x69 (leBytes 1 op) { s with sec := { s.sec with sessions := tblSet s.sec.sessions k { x with updates := x.updates + 1 } } })) ∧
    (∀ st, st ≤ 255 → s.sec.ideKeyed.length < 4 →
      exec (.spdmVendorDefinedRequest p k true 2 st) s = .next (ideReply p 3 0 st { s with sec := { s.sec with ideKeyed := setAdd s.sec.ideKeyed st } })) ∧
    (∀ st, s.sec.ideKeyed.contains st = true →
      exec (.spdmVendorDefinedRequest p k true 4 st) s = .next (ideReply p 6 0 st { s with sec := { s.sec with ideSecure := setAdd s.sec.ideSecure st } }))) ∧
  (∀ (p : MctpPath) (h n : Nat) (last : Bool) (b have_ : List Byte) (s : State), fwRuns s = true → (getConn s p).caps = true → chunkSoFar (getConn s p) h n = some have_ →
    exec (.spdmChunkSend p h n last b) s = .next (spdmSend p 0x05 (leBytes 1 h ++ leBytes 2 n) (setConn p { getConn s p with request := if last then none else some (h, n + 1, have_ ++ b) } s))) ∧
  (∀ (p : MctpPath) (h n : Nat) (bs : List Byte) (s : State), fwRuns s = true → (getConn s p).response = some (h, n, bs) →
    exec (.spdmChunkGet p h n) s = .next (let rest := bs.drop (max 1 Config.spdmSize)
      spdmSend p 0x06 (leBytes 1 (b2n rest.isEmpty) ++ leBytes 1 h ++ leBytes 2 n ++ bs.take (max 1 Config.spdmSize)) (setConn p { getConn s p with response := if rest.isEmpty then none else some (h, n + 1, rest) } s)))

/-! Spark points, the tally, metering and health (file 15) -/

/-- R468-R471, R478-R486, R532: spark points, the tally, strain scores and the timed rows. -/
def Obligations.SparkAndTallyRowsComplete : Prop :=
  (∀ h, EndsAt 0x0D 0x01 .sparkArm (fun c s => argsOnly c [(32, 0, 16), (34, 0, 16), (36, 0, 2), (38, 0, 16), (40, 0, 32), (44, 0, 16), (46, 0, 16)] = true ∧ armFieldsOk c = true ∧ s.sec.conf = false ∧
      sparkInstance s (argU c 32 2) (argU c 34 2) = none ∧ tblFree? s.hlt.arms 64 = some h ∧ (judge c { unit := 0x0D, obj := h } (.activation 2) s).1 = true)
    (fun _ _ => { r0 := h }) (fun c s => let t := (judge c { unit := 0x0D, obj := h } (.activation 2) s).2
      { t with hlt := { t.hlt with arms := tblSet t.hlt.arms h (armOf c t) }, sec := { t.sec with debugSeen := true } })) ∧
  (∀ (h : Nat) (a : Arm) (s : State), tblGet? s.hlt.arms h = some a → a.from_ + a.delayUs * 1000 ≤ s.now →
    exec (.sparkArmEffective h) s = .next { s with hlt := { s.hlt with arms := tblSet s.hlt.arms h { a with effective := true } } }) ∧
  EndsAt 0x0D 0x02 .sparkDisarm (fun c s => argsOnly c [(32, 0, 8)] = true ∧ argU c 32 1 ≠ 0xFF ∧ tblHas s.hlt.arms (argU c 32 1) = true)
    (fun _ _ => {}) (fun c s => disarm c s (argU c 32 1)) ∧
  EndsAt 0x0D 0x02 .sparkDisarm (fun c _ => argsOnly c [(32, 0, 8)] = true ∧ argU c 32 1 = 0xFF)
    (fun _ _ => {}) (fun c s => (s.hlt.arms.map (·.1)).foldl (disarm c) s) ∧
  EndsAt 0x0D 0x03 .sparkStatus (fun c s => argsOnly c [] = true ∧ bufferCheck c s = none ∧ 16 * s.hlt.arms.length ≤ c.outLen)
    (fun _ s => { r0 := s.hlt.arms.length, output := (s.hlt.arms.map (fun e => armBytes e.1 e.2)).flatten, space := 16 * s.hlt.arms.length }) (fun _ s => s) ∧
  (∀ count size, EndsAt 0x0D 0x10 .tallyRead (fun c s => sectionOf s (argU c 32 1) = some (count, size) ∧ argsOnly c [(32, 0, 8), (36, 0, 64)] = true ∧ argU c 36 4 + argU c 40 4 ≤ count ∧ bufferCheck c s = none ∧ size * argU c 40 4 ≤ c.outLen)
    (fun c s => { output := ((List.range (argU c 40 4)).map (fun i => sectionRecord s (argU c 32 1) (argU c 36 4 + i))).flatten, space := size * argU c 40 4 }) (fun _ s => s)) ∧
  (∀ s : State, exec .tallyWrite s = .next (saveTally s)) ∧
  (∀ s : State, exec .strainCompute s = .next ((scoredParts.filter (fun p => tblHas s.hlt.strain (partKey p.1 p.2))).foldl (fun s p => strainUpdate p.1 p.2 s) s)) ∧
  (∀ s : State, exec .strainDayRollover s = .next { s with hlt := { s.hlt with strainDay := s.hlt.strainDay + 1, strain := tblMap s.hlt.strain (fun _ r => { r with today := [], days := (r.today :: r.days).take 30 }) } }) ∧
  (∀ (t : Nat) (s : State), exec (.thermalCycleSample t) s = .next (thermalPoint t { s with hlt := { s.hlt with tally := { s.hlt.tally with peakFieldC := max s.hlt.tally.peakFieldC (min 255 t) } } })) ∧
  (∀ s : State, s.oln.sync = .locked → exec .rtcSet s = .next { s with mod := { s.mod with rtc := (fabricTime s : Int) - (s.now : Int) } })

/-- R487, R494-R496: stragglers and metering. -/
def Obligations.MeterRowsComplete : Prop :=
  (∀ s : State, s.hlt.straggler = false → healthParam s 0x01 ≠ 0 → stragglerHeld s s.hlt.stragglerSince = true →
    exec .stragglerHoldExpiry s = .next (raiseNode .straggler (stragglerDetail s) { s with hlt := { s.hlt with straggler := true } })) ∧
  (∀ s : State, s.hlt.straggler = true → stragglerHeld s s.hlt.stragglerOkSince = true →
    exec .stragglerHoldExpiry s = .next (raiseNode .stragglerCleared (stragglerDetail s) { s with hlt := { s.hlt with straggler := false } })) ∧
  (∀ s : State, exec .meterSample s = .next (s.sec.ctxs.foldl (fun s e => tenantAdd e.1 (fun t => { t with emberMs := t.emberMs + emberHalves s e.1, peatMs := t.peatMs + peatHalves s e.1 }) s) s)) ∧
  EndsAt 0x0D 0x20 .meterRead (fun c s => argsOnly c [] = true ∧ bufferCheck c s = none ∧ 64 * s.hlt.tenants.length ≤ c.outLen)
    (fun _ s => { output := (s.hlt.tenants.map (fun e => tenantBytes s e.1 e.2)).flatten, space := 64 * s.hlt.tenants.length }) (fun _ s => s) ∧
  EndsAt 0x0D 0x21 .meterCompositions (fun c s => argsOnly c [] = true ∧ bufferCheck c s = none ∧ 32 * s.hlt.comps.length ≤ c.outLen)
    (fun _ s => { output := (s.hlt.comps.map (compBytes s)).flatten, space := 32 * s.hlt.comps.length }) (fun _ s => { s with hlt := { s.hlt with comps := s.hlt.comps.filter (fun r => r.cause == 0) } }) ∧
  (∀ x, EndsAt 0x0D 0x22 .meterProfile (fun c s => argsOnly c [(32, 0, 12)] = true ∧ bufferCheck c s = none ∧ getCtx? s (argU c 32 2) = some x ∧ mayName s c (argU c 32 2) = true ∧ x.profile = true ∧ 48 ≤ c.outLen)
    (fun _ _ => { output := ((List.range 6).map (fun i => leBytes 8 (tblGetD x.counters i 0))).flatten, space := 48 }) (fun _ s => s)) ∧
  EndsAt 0x0D 0x23 .meterResetTenant (fun c s => argsOnly c [(36, 0, 32)] = true ∧ tblHas s.hlt.tenants (argU c 36 4) = true ∧ (judge c { unit := 0x0D, obj := 2 ^ 33 + argU c 36 4 } (.content 1) s).1 = true)
    (fun _ _ => {}) (fun c s => let t := (judge c { unit := 0x0D, obj := 2 ^ 33 + argU c 36 4 } (.content 1) s).2
      { t with hlt := { t.hlt with tenants := tblDel t.hlt.tenants (argU c 36 4) } })

/-- R4, R196, R464, R474-R477, R487, R497-R499, R528, R529: status, events, parameters, service orders, and the end of a quarantine. -/
def Obligations.HealthCommandsComplete : Prop :=
  EndsAt 0x0D 0x30 .healthStatus (fun c s => argsOnly c [] = true ∧ bufferCheck c s = none ∧ c.outLen = 0)
    (fun _ s => { r0 := (bestScore s).1 + (bestScore s).2 * 2 ^ 16, r1 := b2n s.hlt.straggler + min 255 s.hlt.retired.length * 2 ^ 8 }) (fun _ s => s) ∧
  EndsAt 0x0D 0x30 .healthStatus (fun c s => argsOnly c [] = true ∧ bufferCheck c s = none ∧ 1044 ≤ c.outLen)
    (fun _ s => { r0 := (bestScore s).1 + (bestScore s).2 * 2 ^ 16, r1 := b2n s.hlt.straggler + min 255 s.hlt.retired.length * 2 ^ 8, output := ((allScores s).map (leBytes 2)).flatten }) (fun _ s => s) ∧
  EndsAt 0x0D 0x31 .healthEventRead (fun c s => argsOnly c [(32, 0, 1), (36, 0, 32)] = true ∧ bufferCheck c s = none)
    (fun c s => let es := logFrom s (argU c 36 4)
      let shown := es.take (c.outLen / 64)
      { r0 := shown.length, r1 := es.length - shown.length, output := (shown.map (fun e => evBytes e false)).flatten })
    (fun c s => { s with hlt := { s.hlt with acked := ackedAfter s (argBits c 32 0 1 == 1) ((logFrom s (argU c 36 4)).take (c.outLen / 64)) } }) ∧
  WaitsAt 0x0D 0x32 .healthConfig (fun c s => argsOnly c [(32, 0, 16), (40, 0, 64)] = true ∧ healthRange s (argU c 32 2) (argU c 40 8) = true ∧ (judge c { unit := 0x0D, obj := 2 ^ 34 + argU c 32 2 } (.value (argU c 40 8)) s).1 = true)
    (fun oid c s => let t := (judge c { unit := 0x0D, obj := 2 ^ 34 + argU c 32 2 } (.value (argU c 40 8)) s).2
      { t with cln := { t.cln with staged := t.cln.staged ++ [{ oid := oid, cmd := c, done := { r0 := healthNext t (argU c 32 2) }, change := .health (argU c 32 2) (argU c 40 8) }] } }) ∧
  EndsThen settleWork 0x0D 0x38 .healthFence (fun c s => unitNamed s c = true ∧ (unitJudge 1 c s).1 = true) (fun _ _ => {})
    (fun c s => let t := (unitJudge 1 c s).2
      let i := argU c 34 2
      if argU c 32 1 = 1 then (if (getChan t i).state = .fenced then t else fenceChannel i 1 false t) else (if (getGroup t i).state = .fenced then t else fencePeatGroup i 1 false t)) ∧
  EndsAt 0x0D 0x39 .healthRestrict (fun c s => unitNamed s c = true ∧ (unitJudge 2 c s).1 = true) (fun _ _ => {})
    (fun c s => let t := (unitJudge 2 c s).2
      let i := argU c 34 2
      if argU c 32 1 = 1 then (if (getChan t i).state = .service then modChan i (fun x => { x with state := .restricted }) t else t)
      else (if (getGroup t i).state = .service then modGroup i (fun x => { x with state := .restricted }) t else t)) ∧
  WaitsAt 0x0D 0x3A .healthEnable (fun c s => unitNamed s c = true ∧ (unitJudge 3 c s).1 = true ∧
      (argU c 32 1 = 1 ∧ (getChan (unitJudge 3 c s).2 (argU c 34 2)).state = .fenced ∧ isRetired s .channel (argU c 34 2) = false ∨
       argU c 32 1 = 4 ∧ (getGroup (unitJudge 3 c s).2 (argU c 34 2)).state = .fenced ∧ isRetired s .peat (argU c 34 2) = false))
    (fun oid c s => let t := (unitJudge 3 c s).2
      let i := argU c 34 2
      if argU c 32 1 = 1 then modChan i (fun x => { x with state := .quarantine, enableBy := [oid] }) t else modGroup i (fun x => { x with state := .quarantine, enableBy := [oid] }) t) ∧
  EndsAt 0x0D 0x3A .healthEnable (fun c s => unitNamed s c = true ∧ (unitJudge 3 c s).1 = true ∧
      (argU c 32 1 = 1 ∧ (getChan (unitJudge 3 c s).2 (argU c 34 2)).state = .restricted ∨ argU c 32 1 = 4 ∧ (getGroup (unitJudge 3 c s).2 (argU c 34 2)).state = .restricted))
    (fun _ _ => {}) (fun c s => let t := (unitJudge 3 c s).2
      let i := argU c 34 2
      if argU c 32 1 = 1 then modChan i (fun x => { x with state := .service }) t else modGroup i (fun x => { x with state := .service }) t) ∧
  (∀ cls n, EndsAt 0x0D 0x3B .healthUnretire (fun c s => classNumber (argU c 32 1) = some (cls, n) ∧ argsOnly c [(32, 0, 8), (34, 0, 16)] = true ∧ argU c 34 2 < n ∧ partPresent s cls (argU c 34 2) = true ∧ isRetired s cls (argU c 34 2) = true ∧
      (judge c { unit := 0x0D, obj := 2 ^ 36 + partKey cls (argU c 34 2) } (.value 0) s).1 = true)
    (fun _ _ => {}) (fun c s => let t := (judge c { unit := 0x0D, obj := 2 ^ 36 + partKey cls (argU c 34 2) } (.value 0) s).2
      { t with hlt := { t.hlt with retired := setDel t.hlt.retired (partKey cls (argU c 34 2)), fenceTimes := tblDel t.hlt.fenceTimes (partKey cls (argU c 34 2)) } })) ∧
  (∀ cls n, EndsAt 0x0D 0x3B .healthUnretire (fun c s => classNumber (argU c 32 1) = some (cls, n) ∧ argsOnly c [(32, 0, 8), (34, 0, 16)] = true ∧ argU c 34 2 < n ∧ partPresent s cls (argU c 34 2) = false)
    (fun _ _ => { status := .unitAbsent }) (fun _ s => s)) ∧
  (∀ (m step : Nat) (pass : Bool) (s : State), m < 384 → exec (.quarantineDone 1 m pass step) s = .next (settleWork (channelQuarantined m pass step s))) ∧
  (∀ (g step : Nat) (pass : Bool) (s : State), g < 2 → exec (.quarantineDone 4 g pass step) s = .next (settleWork (groupQuarantined g pass step s))) ∧
  (∀ (n step : Nat) (pass : Bool) (s : State), n < 72 → exec (.quarantineDone 0 n pass step) s = .next (settleWork (coreQuarantined n pass s))) ∧
  (∀ (p step : Nat) (pass : Bool) (s : State), p < 16 → exec (.quarantineDone 3 p pass step) s = .next (settleWork (portQuarantined p pass step s))) ∧
  (∀ (k step : Nat) (pass : Bool) (s : State), k < 64 → exec (.quarantineDone 2 k pass step) s = .next (settleWork (laneQuarantined (k / 4) (k % 4) pass step s)))

/-- R488-R492, R497: draining to the stand-in. -/
def Obligations.DrainRowsComplete : Prop :=
  (∀ notCarried, WaitsAt 0x0D 0x40 (fun c => .healthDrain c true true true true notCarried) (fun c s => argsOnly c [(32, 0, 12), (34, 0, 1), (36, 0, 16)] = true ∧ (argU c 36 2 = 0 ∨ 16 ≤ argU c 36 2) ∧ drainActive s = false ∧ s.oln.addr.isSome = true)
    (fun oid c s => beginCopy (drainOf oid c notCarried s) s)) ∧
  (∀ notCarried a b, EndsAt 0x0D 0x40 (fun c => .healthDrain c a b true true notCarried) (fun c s => argsOnly c [(32, 0, 12), (34, 0, 1), (36, 0, 16)] = true ∧ (argU c 36 2 = 0 ∨ 16 ≤ argU c 36 2) ∧ drainActive s = false ∧ s.oln.addr.isSome = true ∧ (a && b) = false)
    (fun _ _ => { status := .badState }) (fun _ s => s)) ∧
  (∀ s : State, s.hlt.drain.phase = .copy → exec (.drainCopyDone false) s = .next (startRound (markedBytes s s.hlt.drain) (setDrain { s.hlt.drain with copied := s.hlt.drain.copied + s.hlt.drain.marked } s))) ∧
  (∀ s : State, s.hlt.drain.phase = .catchUp → markedBytes s s.hlt.drain < s.hlt.drain.marked →
    exec (.drainRoundDone false) s = .next (startRound (markedBytes s s.hlt.drain) (setDrain { s.hlt.drain with copied := s.hlt.drain.copied + s.hlt.drain.marked, stuck := 0 } s))) ∧
  (∀ s : State, s.hlt.drain.phase = .catchUp → s.hlt.drain.marked ≤ markedBytes s s.hlt.drain → 9 ≤ s.hlt.drain.stuck →
    exec (.drainRoundDone false) s = .next (failDrain .busy (setDrain { s.hlt.drain with copied := s.hlt.drain.copied + s.hlt.drain.marked, stuck := s.hlt.drain.stuck + 1 } s))) ∧
  (∀ s : State, s.hlt.drain.phase = .copy → exec (.drainCopyDone true) s = .next (failDrain .noSpace s)) ∧
  (∀ s : State, s.hlt.drain.phase = .catchUp → exec (.drainRoundDone true) s = .next (failDrain .noSpace s)) ∧
  (∀ s : State, s.hlt.drain.phase = .quiesce → isQuiet s = true → exec (.drainQuiesced true) s = .next (failDrain .noSpace s)) ∧
  (∀ (oid : Nat) (s : State), s.hlt.drain.phase = .quiesce → isQuiet s = true → s.hlt.drain.oid = some oid → exec (.drainQuiesced false) s = .next (finish oid {} (drainReady s.hlt.drain s))) ∧
  EndsAt 0x0D 0x41 .healthDrainStatus (fun c s => argsOnly c [] = true ∧ bufferCheck c s = none ∧ 4 * (drainLeft s).length ≤ c.outLen)
    (fun _ s => { r0 := drainPhaseCode s.hlt.drain.phase + s.hlt.drain.copied % 2 ^ 56 * 2 ^ 8, r1 := (drainLeft s).length, output := ((drainLeft s).map (leBytes 4)).flatten, space := 4 * (drainLeft s).length }) (fun _ s => s) ∧
  EndsAt 0x0D 0x42 .healthDrainCancel (fun c s => argsOnly c [] = true ∧ drainActive s = true) (fun _ _ => {}) (fun _ s => failDrain .aborted s)

/-! The module: power, start, sensors, management (file 16) -/

/-- R244, R473, R509, R510, R517, R524: the power rows. An input voltage, the rails and the pins decide which start begins and what ends one; a retrain of a channel's interface that fails fences the channel with cause 2, and the third within 10 min with cause 4. -/
def Obligations.PowerRowsComplete : Prop :=
  (∀ (mv : Nat) (temps : List Nat) (s : State), exec (.pwrEnRise mv temps) s = .next (railsUp { s with mod := { s.mod with pwrEn := true, inputMv := mv, trip := if s.mod.trip = .cooling ∧ coolEnough temps = true then .none else s.mod.trip } })) ∧
  (∀ s : State, s.mod.running = true → exec .pwrEnFall s = .next (let t := powerLost s
    { t with mod := { t.mod with rails := .off, sigs := none, pwrEn := false, trip := if s.mod.trip = .latched then .cooling else s.mod.trip } })) ∧
  (∀ (held : Bool) (c : Nat) (s : State), s.mod.rails = .rising → (s.mod.perst = true ∨ s.mod.sigs = none) → exec (.railsStable held c) s = .next (railsReady held c s)) ∧
  (∀ (held : Bool) (c : Nat) (a b : Bool) (s : State), s.mod.rails = .rising → s.mod.perst = false → s.mod.sigs = some (a, b) →
    exec (.railsStable held c) s = .next (beginStart a b (railsReady held c s))) ∧
  (∀ (r a b : Bool) (s : State), s.mod.perst = true → s.mod.rails = .stable → exec (.perstDeassert r a b) s = .next (beginStart a b { s with mod := { s.mod with perst := false, refclk := r } })) ∧
  (∀ (r a b : Bool) (s : State), s.mod.perst = true → s.mod.rails ≠ .stable → exec (.perstDeassert r a b) s = .next { s with mod := { s.mod with perst := false, refclk := r, sigs := some (a, b) } }) ∧
  (∀ s : State, s.mod.running = true → exec .perstAssert s = .next (let t := powerLost s
    { t with mod := { t.mod with perst := true, sigs := none } })) ∧
  (∀ (mv : Nat) (s : State), mv ≤ 41000 → exec (.inputUndervoltage mv) s = .next (let t := railsDown s
    { t with mod := { t.mod with inputUp := false, inputMv := mv } })) ∧
  (∀ (mv : Nat) (s : State), 60000 < mv → exec (.inputOvervoltage mv) s = .next (let t := railsDown s
    { t with mod := { t.mod with inputUp := false, inputMv := mv } })) ∧
  (∀ s : State, exec .powerLoss s = .next (let t := railsDown s
    { t with mod := { t.mod with inputUp := false, inputMv := 0, inputDa := 0, trip := .none } })) ∧
  (∀ (mv : Nat) (s : State), 44000 ≤ mv → mv ≤ 60000 → exec (.undervoltageLockoutRelease mv) s = .next (railsUp { s with mod := { s.mod with inputUp := true, inputMv := mv } })) ∧
  (∀ s : State, s.cln.phase = .bootRom → s.mod.running = true → s.mod.halted = false → s.sec.fellBack = none →
    exec .fwAuthenticated s = .next { s with cln := { s.cln with phase := .fwRun, fwAuthed := true } }) ∧
  (∀ (b why : Nat) (s : State), s.cln.phase = .bootRom → s.mod.running = true → s.mod.halted = false → s.sec.fellBack = some (b, why) →
    exec .fwAuthenticated s = .next (raiseNode .fwBankFallback (leBytes 1 b ++ leBytes 1 why) { s with cln := { s.cln with phase := .fwRun, fwAuthed := true } })) ∧
  (∀ s : State, s.cln.phase = .fwRun → exec .ccsReady s = .next { s with cln := { s.cln with phase := .unitsStarting, ready := true } }) ∧
  (∀ (failed : List Nat) (lanes : Tbl Nat) (s : State), s.emb.trained = false →
    exec (.emberTrainingDone failed lanes) s = .next (let t := (List.range (nChans s)).foldl (fun s m => channelTrained failed lanes m s) s
      { t with emb := { t.emb with trained := true } })) ∧
  (∀ (failed : List Nat) (lanes : Tbl Nat) (s : State), s.emb.trained = true →
    exec (.emberTrainingDone failed lanes) s = .next (settleWork ((List.range (nChans s)).foldl (fun s m => channelRetrained failed lanes m s) s))) ∧
  (∀ (m n : Nat) (s : State), (getChan s m).state = .service → sparkCheck 0x0505 m s = (none, s) →
    channelRetrained [m] [] m s = fenceChannel m 2 false s ∧
    channelRetrained [] [(m, n)] m s = (let recent := (getChan s m).retrains.filter (fun t => decide (s.now < t + 600 * sec))
      let t := modChan m (fun c => { c with lanesRepaired := min 255 (c.lanesRepaired + n), retrains := s.now :: recent }) (tallyAdd .channel m 6 n s)
      if 2 ≤ recent.length then fenceChannel m 4 false t else t)) ∧
  (∀ (failed : List Nat) (s : State), s.mod.fieldTested = false →
    exec (.fieldSelfTestDone failed) s = .next (fieldTested (coresIn s (· == .selfTest)) (selfTests failed (coresIn s (· == .selfTest)) s).1 (selfTests failed (coresIn s (· == .selfTest)) s).2)) ∧
  (∀ s : State, s.cln.phase = .unitsStarting → s.emb.trained = true → s.mod.fieldTested = true → s.oln.accepts = true →
    exec .fullService s = .next { s with cln := { s.cln with phase := .fullService } })

/-- R32, R195, R505, R509, R511, R515-R518, R525, R533: configuration requests, activity outputs and the readings of the module. -/
def Obligations.ModuleReadingRowsComplete : Prop :=
  (∀ (reg : CfgReg) (s : State), s.mod.running = true → s.cln.fwAuthed = true →
    exec (.pcieConfigRequest reg none) s = .next (hostTlp (emit (.config false (configValue s reg (Config.measure (match reg with | .header off => off | _ => 0) s.free))) { s with free := s.free + 1 }))) ∧
  (∀ (reg : CfgReg) (v : Nat) (s : State), s.mod.running = true → s.cln.fwAuthed = true →
    exec (.pcieConfigRequest reg (some v)) s = .next (hostTlp (sendPending (emit (.config false 0) { s with cln := { s.cln with cfg := configSet reg v s.cln.cfg } })))) ∧
  (∀ (reg : CfgReg) (w : Option Nat) (s : State), s.mod.running = true → s.cln.fwAuthed = false → exec (.pcieConfigRequest reg w) s = .next (hostTlp (emit (.config true 0) s))) ∧
  (∀ (n t : Nat) (s : State), tblGet? s.mod.act n = some t → t ≤ s.now → exec (.actTimerExpiry n) s = .next { s with mod := { s.mod with act := tblDel s.mod.act n } }) ∧
  (∀ (temps : List Nat) (flow : Nat) (sense : List Nat) (s : State), s.mod.rails = .stable → s.mod.running = true → tripReading (readSensors temps (List.range 22) s).1 = none →
    exec (.thermalSample temps flow sense) s = .next (takeReadings (readSensors temps (List.range 22) s).1 flow sense (readSensors temps (List.range 22) s).2)) ∧
  (∀ (temps : List Nat) (flow : Nat) (sense : List Nat) (e : Nat × Nat × Bool) (s : State), s.mod.rails = .stable → s.mod.running = true → tripReading (readSensors temps (List.range 22) s).1 = some e →
    exec (.thermalSample temps flow sense) s = .next (tripModule e.1 e.2.1 (takeReadings (readSensors temps (List.range 22) s).1 flow sense (readSensors temps (List.range 22) s).2))) ∧
  (∀ (flow : Nat) (s : State), s.hlt.arms = [] → flow < (if isC s then 2250 else 3600) →
    exec (.coolantFlowLowDetect flow) s = .next (raiseLimited .coolantFlowLow false 0 (10 * 10 ^ 9) [.ctx 0] (leBytes 2 (min 65535 flow) ++ leBytes 1 (min 255 (getSensor s 20).temp)) { s with mod := { s.mod with flow := flow } })) ∧
  (∀ (mv da : Nat) (s : State), s.hlt.arms = [] → mv < 46000 ∨ 56000 < mv ∨ 600 ≤ da →
    exec (.inputPowerFaultDetect mv da) s = .next (raiseLimited .inputPowerFault false 0 (10 * 10 ^ 9) [.ctx 0] (leBytes 2 (min 65535 mv) ++ leBytes 2 (min 65535 da)) { s with mod := { s.mod with inputMv := mv, inputDa := da } })) ∧
  (∀ (t : Nat) (s : State), s.mod.heldSince = some t → t + 100 * 10 ^ 6 ≤ s.now →
    exec .powerLimitedDetect s = .next (raiseLimited .powerLimited false 0 (10 * 10 ^ 9) [.ctx 0] (leBytes 2 (measuredMv s) ++ leBytes 2 (min 65535 (inputW s))) s))

/-- R457, R512, R516, R519-R521, R523, R525: the MOD commands, the management paths and JTAG. -/
def Obligations.ModuleCommandsComplete : Prop :=
  EndsAt 0x0E 0x01 .modStatus (fun c s => argsOnly c [] = true ∧ bufferCheck c s = none ∧ c.outLen = 0) (fun _ s => { r0 := modResult0 s, r1 := modResult1 s }) (fun _ s => s) ∧
  EndsAt 0x0E 0x01 .modStatus (fun c s => argsOnly c [] = true ∧ bufferCheck c s = none ∧ 88 ≤ c.outLen)
    (fun _ s => { r0 := modResult0 s, r1 := modResult1 s, output := ((List.range 22).map (sensorRecord s)).flatten, space := 88 }) (fun _ s => s) ∧
  WaitsAt 0x0E 0x02 .modShutdown (fun c s => argsOnly c [] = true ∧ s.mod.stopping = false) (fun oid _ s => { s with mod := { s.mod with stopping := true, stopOid := some oid } }) ∧
  (∀ (oid : Nat) (s : State), s.mod.stopping = true → s.mod.stopOid = some oid → allDone s = true → exec .shutdownDrained s = .next (finish oid { r0 := (writeAll s).1 } (endShutdown (writeAll s).2))) ∧
  EndsAt 0x0E 0x03 .modMgmtSet (fun c s => argsOnly c [(32, 0, 8)] = true ∧ argU c 32 1 ≤ 1 ∧ bufferCheck c s = none ∧ c.inLen = 64 ∧ ethRecordOk c.input = true ∧ getU c.input 7 1 = 0 ∧ (judge c { unit := 0x0E, obj := argU c 32 1 } (.value (leNat c.input)) s).1 = true)
    (fun _ _ => {}) (fun c s => setMgmt (argU c 32 1) c.input (judge c { unit := 0x0E, obj := argU c 32 1 } (.value (leNat c.input)) s).2) ∧
  (∀ (port len : Nat) (kind : MctpKind) (s : State), port ≤ 1 → 64 ≤ len → len ≤ 1024 → exec (.mgmtMctpPacket port true kind len) s = .next (mctpPacket kind s)) ∧
  (∀ (kind : MctpKind) (s : State), exec (.smbusMctpPacket (0x60 + s.mod.strap) true kind) s = .next (mctpPacket kind s)) ∧
  (∀ (p : MctpPath) (eid : Nat) (s : State), s.mod.running = true → fwRuns s = true → 8 ≤ eid → eid ≤ 254 →
    exec (.mctpSetEndpointId p eid) s = .next (emit (.mctp (leBytes 1 0 ++ leBytes 1 0 ++ leBytes 1 eid ++ leBytes 1 0)) { s with mod := { s.mod with eids := tblSet s.mod.eids (pathKey p) eid } })) ∧
  (∀ s : State, s.mod.running = true → exec (.jtagInstruction 0xFF) s = .next (emit (.jtag 0) s)) ∧
  (∀ s : State, s.mod.running = true → exec (.jtagInstruction 0x01) s = .next (emit (.jtag (BitVec.ofNat 128 (Config.measure 0x200 1))) s)) ∧
  (∀ (ir : Nat) (s : State), s.mod.running = true → ir ≠ 0xFF → ir ≠ 0x01 → s.sec.conf = false →
    exec (.jtagInstruction ir) s = .next (emit (.jtag (BitVec.ofNat 128 (Config.measure 0x201 s.free))) { s with free := s.free + 1, sec := { s.sec with debugSeen := true } }))
end

