-- ==== Sys2Proof/Laws/State.lean ====
section
/-! SUPPORT. What the plain updates of the state leave as it was: one lemma per field per update, each true by unfolding. -/

namespace Sys2Proof.Machine

variable {s : State}

/-! `lightAct` -/

@[simp] theorem lightAct_pending (n : Nat) : (lightAct n s).pending = s.pending := rfl
@[simp] theorem lightAct_now (n : Nat) : (lightAct n s).now = s.now := rfl
@[simp] theorem lightAct_free (n : Nat) : (lightAct n s).free = s.free := rfl
@[simp] theorem lightAct_out (n : Nat) : (lightAct n s).out = s.out := rfl
@[simp] theorem lightAct_fuse (n : Nat) : (lightAct n s).fuse = s.fuse := rfl
@[simp] theorem lightAct_cln (n : Nat) : (lightAct n s).cln = s.cln := rfl
@[simp] theorem lightAct_fld (n : Nat) : (lightAct n s).fld = s.fld := rfl
@[simp] theorem lightAct_kln (n : Nat) : (lightAct n s).kln = s.kln := rfl
@[simp] theorem lightAct_emb (n : Nat) : (lightAct n s).emb = s.emb := rfl
@[simp] theorem lightAct_tir (n : Nat) : (lightAct n s).tir = s.tir := rfl
@[simp] theorem lightAct_chr (n : Nat) : (lightAct n s).chr = s.chr := rfl
@[simp] theorem lightAct_sdb (n : Nat) : (lightAct n s).sdb = s.sdb := rfl
@[simp] theorem lightAct_gln (n : Nat) : (lightAct n s).gln = s.gln := rfl
@[simp] theorem lightAct_hlt (n : Nat) : (lightAct n s).hlt = s.hlt := rfl
@[simp] theorem lightAct_sec (n : Nat) : (lightAct n s).sec = s.sec := rfl
@[simp] theorem lightAct_oln (n : Nat) : (lightAct n s).oln = s.oln := rfl
@[simp] theorem lightAct_trn (n : Nat) : (lightAct n s).trn = s.trn := rfl
@[simp] theorem lightAct_hdl (n : Nat) : (lightAct n s).hdl = s.hdl := rfl

/-! `setCore` -/

@[simp] theorem setCore_pending (n : Nat) (c : Core) : (setCore n c s).pending = s.pending := rfl
@[simp] theorem setCore_now (n : Nat) (c : Core) : (setCore n c s).now = s.now := rfl
@[simp] theorem setCore_free (n : Nat) (c : Core) : (setCore n c s).free = s.free := rfl
@[simp] theorem setCore_out (n : Nat) (c : Core) : (setCore n c s).out = s.out := rfl
@[simp] theorem setCore_fuse (n : Nat) (c : Core) : (setCore n c s).fuse = s.fuse := rfl
@[simp] theorem setCore_cln (n : Nat) (c : Core) : (setCore n c s).cln = s.cln := rfl
@[simp] theorem setCore_kln (n : Nat) (c : Core) : (setCore n c s).kln = s.kln := rfl
@[simp] theorem setCore_emb (n : Nat) (c : Core) : (setCore n c s).emb = s.emb := rfl
@[simp] theorem setCore_tir (n : Nat) (c : Core) : (setCore n c s).tir = s.tir := rfl
@[simp] theorem setCore_chr (n : Nat) (c : Core) : (setCore n c s).chr = s.chr := rfl
@[simp] theorem setCore_sdb (n : Nat) (c : Core) : (setCore n c s).sdb = s.sdb := rfl
@[simp] theorem setCore_gln (n : Nat) (c : Core) : (setCore n c s).gln = s.gln := rfl
@[simp] theorem setCore_hlt (n : Nat) (c : Core) : (setCore n c s).hlt = s.hlt := rfl
@[simp] theorem setCore_sec (n : Nat) (c : Core) : (setCore n c s).sec = s.sec := rfl
@[simp] theorem setCore_oln (n : Nat) (c : Core) : (setCore n c s).oln = s.oln := rfl
@[simp] theorem setCore_trn (n : Nat) (c : Core) : (setCore n c s).trn = s.trn := rfl
@[simp] theorem setCore_hdl (n : Nat) (c : Core) : (setCore n c s).hdl = s.hdl := rfl
@[simp] theorem setCore_mod (n : Nat) (c : Core) : (setCore n c s).mod = s.mod := rfl

/-! `modCore` -/

@[simp] theorem modCore_pending (n : Nat) (f : Core → Core) : (modCore n f s).pending = s.pending := rfl
@[simp] theorem modCore_now (n : Nat) (f : Core → Core) : (modCore n f s).now = s.now := rfl
@[simp] theorem modCore_free (n : Nat) (f : Core → Core) : (modCore n f s).free = s.free := rfl
@[simp] theorem modCore_out (n : Nat) (f : Core → Core) : (modCore n f s).out = s.out := rfl
@[simp] theorem modCore_fuse (n : Nat) (f : Core → Core) : (modCore n f s).fuse = s.fuse := rfl
@[simp] theorem modCore_cln (n : Nat) (f : Core → Core) : (modCore n f s).cln = s.cln := rfl
@[simp] theorem modCore_kln (n : Nat) (f : Core → Core) : (modCore n f s).kln = s.kln := rfl
@[simp] theorem modCore_emb (n : Nat) (f : Core → Core) : (modCore n f s).emb = s.emb := rfl
@[simp] theorem modCore_tir (n : Nat) (f : Core → Core) : (modCore n f s).tir = s.tir := rfl
@[simp] theorem modCore_chr (n : Nat) (f : Core → Core) : (modCore n f s).chr = s.chr := rfl
@[simp] theorem modCore_sdb (n : Nat) (f : Core → Core) : (modCore n f s).sdb = s.sdb := rfl
@[simp] theorem modCore_gln (n : Nat) (f : Core → Core) : (modCore n f s).gln = s.gln := rfl
@[simp] theorem modCore_hlt (n : Nat) (f : Core → Core) : (modCore n f s).hlt = s.hlt := rfl
@[simp] theorem modCore_sec (n : Nat) (f : Core → Core) : (modCore n f s).sec = s.sec := rfl
@[simp] theorem modCore_oln (n : Nat) (f : Core → Core) : (modCore n f s).oln = s.oln := rfl
@[simp] theorem modCore_trn (n : Nat) (f : Core → Core) : (modCore n f s).trn = s.trn := rfl
@[simp] theorem modCore_hdl (n : Nat) (f : Core → Core) : (modCore n f s).hdl = s.hdl := rfl
@[simp] theorem modCore_mod (n : Nat) (f : Core → Core) : (modCore n f s).mod = s.mod := rfl

/-! `setChan` -/

@[simp] theorem setChan_pending (m : Nat) (c : Chan) : (setChan m c s).pending = s.pending := rfl
@[simp] theorem setChan_now (m : Nat) (c : Chan) : (setChan m c s).now = s.now := rfl
@[simp] theorem setChan_free (m : Nat) (c : Chan) : (setChan m c s).free = s.free := rfl
@[simp] theorem setChan_out (m : Nat) (c : Chan) : (setChan m c s).out = s.out := rfl
@[simp] theorem setChan_fuse (m : Nat) (c : Chan) : (setChan m c s).fuse = s.fuse := rfl
@[simp] theorem setChan_cln (m : Nat) (c : Chan) : (setChan m c s).cln = s.cln := rfl
@[simp] theorem setChan_fld (m : Nat) (c : Chan) : (setChan m c s).fld = s.fld := rfl
@[simp] theorem setChan_kln (m : Nat) (c : Chan) : (setChan m c s).kln = s.kln := rfl
@[simp] theorem setChan_tir (m : Nat) (c : Chan) : (setChan m c s).tir = s.tir := rfl
@[simp] theorem setChan_chr (m : Nat) (c : Chan) : (setChan m c s).chr = s.chr := rfl
@[simp] theorem setChan_sdb (m : Nat) (c : Chan) : (setChan m c s).sdb = s.sdb := rfl
@[simp] theorem setChan_gln (m : Nat) (c : Chan) : (setChan m c s).gln = s.gln := rfl
@[simp] theorem setChan_hlt (m : Nat) (c : Chan) : (setChan m c s).hlt = s.hlt := rfl
@[simp] theorem setChan_sec (m : Nat) (c : Chan) : (setChan m c s).sec = s.sec := rfl
@[simp] theorem setChan_oln (m : Nat) (c : Chan) : (setChan m c s).oln = s.oln := rfl
@[simp] theorem setChan_trn (m : Nat) (c : Chan) : (setChan m c s).trn = s.trn := rfl
@[simp] theorem setChan_hdl (m : Nat) (c : Chan) : (setChan m c s).hdl = s.hdl := rfl
@[simp] theorem setChan_mod (m : Nat) (c : Chan) : (setChan m c s).mod = s.mod := rfl

/-! `modChan` -/

@[simp] theorem modChan_pending (m : Nat) (f : Chan → Chan) : (modChan m f s).pending = s.pending := rfl
@[simp] theorem modChan_now (m : Nat) (f : Chan → Chan) : (modChan m f s).now = s.now := rfl
@[simp] theorem modChan_free (m : Nat) (f : Chan → Chan) : (modChan m f s).free = s.free := rfl
@[simp] theorem modChan_out (m : Nat) (f : Chan → Chan) : (modChan m f s).out = s.out := rfl
@[simp] theorem modChan_fuse (m : Nat) (f : Chan → Chan) : (modChan m f s).fuse = s.fuse := rfl
@[simp] theorem modChan_cln (m : Nat) (f : Chan → Chan) : (modChan m f s).cln = s.cln := rfl
@[simp] theorem modChan_fld (m : Nat) (f : Chan → Chan) : (modChan m f s).fld = s.fld := rfl
@[simp] theorem modChan_kln (m : Nat) (f : Chan → Chan) : (modChan m f s).kln = s.kln := rfl
@[simp] theorem modChan_tir (m : Nat) (f : Chan → Chan) : (modChan m f s).tir = s.tir := rfl
@[simp] theorem modChan_chr (m : Nat) (f : Chan → Chan) : (modChan m f s).chr = s.chr := rfl
@[simp] theorem modChan_sdb (m : Nat) (f : Chan → Chan) : (modChan m f s).sdb = s.sdb := rfl
@[simp] theorem modChan_gln (m : Nat) (f : Chan → Chan) : (modChan m f s).gln = s.gln := rfl
@[simp] theorem modChan_hlt (m : Nat) (f : Chan → Chan) : (modChan m f s).hlt = s.hlt := rfl
@[simp] theorem modChan_sec (m : Nat) (f : Chan → Chan) : (modChan m f s).sec = s.sec := rfl
@[simp] theorem modChan_oln (m : Nat) (f : Chan → Chan) : (modChan m f s).oln = s.oln := rfl
@[simp] theorem modChan_trn (m : Nat) (f : Chan → Chan) : (modChan m f s).trn = s.trn := rfl
@[simp] theorem modChan_hdl (m : Nat) (f : Chan → Chan) : (modChan m f s).hdl = s.hdl := rfl
@[simp] theorem modChan_mod (m : Nat) (f : Chan → Chan) : (modChan m f s).mod = s.mod := rfl

/-! `modGroup` -/

@[simp] theorem modGroup_pending (g : Nat) (f : PeatGroup → PeatGroup) : (modGroup g f s).pending = s.pending := rfl
@[simp] theorem modGroup_now (g : Nat) (f : PeatGroup → PeatGroup) : (modGroup g f s).now = s.now := rfl
@[simp] theorem modGroup_free (g : Nat) (f : PeatGroup → PeatGroup) : (modGroup g f s).free = s.free := rfl
@[simp] theorem modGroup_out (g : Nat) (f : PeatGroup → PeatGroup) : (modGroup g f s).out = s.out := rfl
@[simp] theorem modGroup_fuse (g : Nat) (f : PeatGroup → PeatGroup) : (modGroup g f s).fuse = s.fuse := rfl
@[simp] theorem modGroup_cln (g : Nat) (f : PeatGroup → PeatGroup) : (modGroup g f s).cln = s.cln := rfl
@[simp] theorem modGroup_fld (g : Nat) (f : PeatGroup → PeatGroup) : (modGroup g f s).fld = s.fld := rfl
@[simp] theorem modGroup_kln (g : Nat) (f : PeatGroup → PeatGroup) : (modGroup g f s).kln = s.kln := rfl
@[simp] theorem modGroup_emb (g : Nat) (f : PeatGroup → PeatGroup) : (modGroup g f s).emb = s.emb := rfl
@[simp] theorem modGroup_chr (g : Nat) (f : PeatGroup → PeatGroup) : (modGroup g f s).chr = s.chr := rfl
@[simp] theorem modGroup_sdb (g : Nat) (f : PeatGroup → PeatGroup) : (modGroup g f s).sdb = s.sdb := rfl
@[simp] theorem modGroup_gln (g : Nat) (f : PeatGroup → PeatGroup) : (modGroup g f s).gln = s.gln := rfl
@[simp] theorem modGroup_hlt (g : Nat) (f : PeatGroup → PeatGroup) : (modGroup g f s).hlt = s.hlt := rfl
@[simp] theorem modGroup_sec (g : Nat) (f : PeatGroup → PeatGroup) : (modGroup g f s).sec = s.sec := rfl
@[simp] theorem modGroup_oln (g : Nat) (f : PeatGroup → PeatGroup) : (modGroup g f s).oln = s.oln := rfl
@[simp] theorem modGroup_trn (g : Nat) (f : PeatGroup → PeatGroup) : (modGroup g f s).trn = s.trn := rfl
@[simp] theorem modGroup_hdl (g : Nat) (f : PeatGroup → PeatGroup) : (modGroup g f s).hdl = s.hdl := rfl
@[simp] theorem modGroup_mod (g : Nat) (f : PeatGroup → PeatGroup) : (modGroup g f s).mod = s.mod := rfl

/-! `setMbx` -/

@[simp] theorem setMbx_pending (ch : Nat) (m : Mbx) : (setMbx ch m s).pending = s.pending := rfl
@[simp] theorem setMbx_now (ch : Nat) (m : Mbx) : (setMbx ch m s).now = s.now := rfl
@[simp] theorem setMbx_free (ch : Nat) (m : Mbx) : (setMbx ch m s).free = s.free := rfl
@[simp] theorem setMbx_out (ch : Nat) (m : Mbx) : (setMbx ch m s).out = s.out := rfl
@[simp] theorem setMbx_fuse (ch : Nat) (m : Mbx) : (setMbx ch m s).fuse = s.fuse := rfl
@[simp] theorem setMbx_fld (ch : Nat) (m : Mbx) : (setMbx ch m s).fld = s.fld := rfl
@[simp] theorem setMbx_kln (ch : Nat) (m : Mbx) : (setMbx ch m s).kln = s.kln := rfl
@[simp] theorem setMbx_emb (ch : Nat) (m : Mbx) : (setMbx ch m s).emb = s.emb := rfl
@[simp] theorem setMbx_tir (ch : Nat) (m : Mbx) : (setMbx ch m s).tir = s.tir := rfl
@[simp] theorem setMbx_chr (ch : Nat) (m : Mbx) : (setMbx ch m s).chr = s.chr := rfl
@[simp] theorem setMbx_sdb (ch : Nat) (m : Mbx) : (setMbx ch m s).sdb = s.sdb := rfl
@[simp] theorem setMbx_gln (ch : Nat) (m : Mbx) : (setMbx ch m s).gln = s.gln := rfl
@[simp] theorem setMbx_hlt (ch : Nat) (m : Mbx) : (setMbx ch m s).hlt = s.hlt := rfl
@[simp] theorem setMbx_sec (ch : Nat) (m : Mbx) : (setMbx ch m s).sec = s.sec := rfl
@[simp] theorem setMbx_oln (ch : Nat) (m : Mbx) : (setMbx ch m s).oln = s.oln := rfl
@[simp] theorem setMbx_trn (ch : Nat) (m : Mbx) : (setMbx ch m s).trn = s.trn := rfl
@[simp] theorem setMbx_hdl (ch : Nat) (m : Mbx) : (setMbx ch m s).hdl = s.hdl := rfl
@[simp] theorem setMbx_mod (ch : Nat) (m : Mbx) : (setMbx ch m s).mod = s.mod := rfl

/-! `setRing` -/

@[simp] theorem setRing_pending (r : Nat) (x : Ring) : (setRing r x s).pending = s.pending := rfl
@[simp] theorem setRing_now (r : Nat) (x : Ring) : (setRing r x s).now = s.now := rfl
@[simp] theorem setRing_free (r : Nat) (x : Ring) : (setRing r x s).free = s.free := rfl
@[simp] theorem setRing_out (r : Nat) (x : Ring) : (setRing r x s).out = s.out := rfl
@[simp] theorem setRing_fuse (r : Nat) (x : Ring) : (setRing r x s).fuse = s.fuse := rfl
@[simp] theorem setRing_fld (r : Nat) (x : Ring) : (setRing r x s).fld = s.fld := rfl
@[simp] theorem setRing_kln (r : Nat) (x : Ring) : (setRing r x s).kln = s.kln := rfl
@[simp] theorem setRing_emb (r : Nat) (x : Ring) : (setRing r x s).emb = s.emb := rfl
@[simp] theorem setRing_tir (r : Nat) (x : Ring) : (setRing r x s).tir = s.tir := rfl
@[simp] theorem setRing_chr (r : Nat) (x : Ring) : (setRing r x s).chr = s.chr := rfl
@[simp] theorem setRing_sdb (r : Nat) (x : Ring) : (setRing r x s).sdb = s.sdb := rfl
@[simp] theorem setRing_gln (r : Nat) (x : Ring) : (setRing r x s).gln = s.gln := rfl
@[simp] theorem setRing_hlt (r : Nat) (x : Ring) : (setRing r x s).hlt = s.hlt := rfl
@[simp] theorem setRing_sec (r : Nat) (x : Ring) : (setRing r x s).sec = s.sec := rfl
@[simp] theorem setRing_oln (r : Nat) (x : Ring) : (setRing r x s).oln = s.oln := rfl
@[simp] theorem setRing_trn (r : Nat) (x : Ring) : (setRing r x s).trn = s.trn := rfl
@[simp] theorem setRing_hdl (r : Nat) (x : Ring) : (setRing r x s).hdl = s.hdl := rfl
@[simp] theorem setRing_mod (r : Nat) (x : Ring) : (setRing r x s).mod = s.mod := rfl

/-! `modRing` -/

@[simp] theorem modRing_pending (r : Nat) (f : Ring → Ring) : (modRing r f s).pending = s.pending := rfl
@[simp] theorem modRing_now (r : Nat) (f : Ring → Ring) : (modRing r f s).now = s.now := rfl
@[simp] theorem modRing_free (r : Nat) (f : Ring → Ring) : (modRing r f s).free = s.free := rfl
@[simp] theorem modRing_out (r : Nat) (f : Ring → Ring) : (modRing r f s).out = s.out := rfl
@[simp] theorem modRing_fuse (r : Nat) (f : Ring → Ring) : (modRing r f s).fuse = s.fuse := rfl
@[simp] theorem modRing_fld (r : Nat) (f : Ring → Ring) : (modRing r f s).fld = s.fld := rfl
@[simp] theorem modRing_kln (r : Nat) (f : Ring → Ring) : (modRing r f s).kln = s.kln := rfl
@[simp] theorem modRing_emb (r : Nat) (f : Ring → Ring) : (modRing r f s).emb = s.emb := rfl
@[simp] theorem modRing_tir (r : Nat) (f : Ring → Ring) : (modRing r f s).tir = s.tir := rfl
@[simp] theorem modRing_chr (r : Nat) (f : Ring → Ring) : (modRing r f s).chr = s.chr := rfl
@[simp] theorem modRing_sdb (r : Nat) (f : Ring → Ring) : (modRing r f s).sdb = s.sdb := rfl
@[simp] theorem modRing_gln (r : Nat) (f : Ring → Ring) : (modRing r f s).gln = s.gln := rfl
@[simp] theorem modRing_hlt (r : Nat) (f : Ring → Ring) : (modRing r f s).hlt = s.hlt := rfl
@[simp] theorem modRing_sec (r : Nat) (f : Ring → Ring) : (modRing r f s).sec = s.sec := rfl
@[simp] theorem modRing_oln (r : Nat) (f : Ring → Ring) : (modRing r f s).oln = s.oln := rfl
@[simp] theorem modRing_trn (r : Nat) (f : Ring → Ring) : (modRing r f s).trn = s.trn := rfl
@[simp] theorem modRing_hdl (r : Nat) (f : Ring → Ring) : (modRing r f s).hdl = s.hdl := rfl
@[simp] theorem modRing_mod (r : Nat) (f : Ring → Ring) : (modRing r f s).mod = s.mod := rfl

/-! `tallyAdd` -/

@[simp] theorem tallyAdd_pending (c : PartClass) (i f n : Nat) : (tallyAdd c i f n s).pending = s.pending := rfl
@[simp] theorem tallyAdd_now (c : PartClass) (i f n : Nat) : (tallyAdd c i f n s).now = s.now := rfl
@[simp] theorem tallyAdd_free (c : PartClass) (i f n : Nat) : (tallyAdd c i f n s).free = s.free := rfl
@[simp] theorem tallyAdd_out (c : PartClass) (i f n : Nat) : (tallyAdd c i f n s).out = s.out := rfl
@[simp] theorem tallyAdd_fuse (c : PartClass) (i f n : Nat) : (tallyAdd c i f n s).fuse = s.fuse := rfl
@[simp] theorem tallyAdd_cln (c : PartClass) (i f n : Nat) : (tallyAdd c i f n s).cln = s.cln := rfl
@[simp] theorem tallyAdd_fld (c : PartClass) (i f n : Nat) : (tallyAdd c i f n s).fld = s.fld := rfl
@[simp] theorem tallyAdd_kln (c : PartClass) (i f n : Nat) : (tallyAdd c i f n s).kln = s.kln := rfl
@[simp] theorem tallyAdd_emb (c : PartClass) (i f n : Nat) : (tallyAdd c i f n s).emb = s.emb := rfl
@[simp] theorem tallyAdd_tir (c : PartClass) (i f n : Nat) : (tallyAdd c i f n s).tir = s.tir := rfl
@[simp] theorem tallyAdd_chr (c : PartClass) (i f n : Nat) : (tallyAdd c i f n s).chr = s.chr := rfl
@[simp] theorem tallyAdd_sdb (c : PartClass) (i f n : Nat) : (tallyAdd c i f n s).sdb = s.sdb := rfl
@[simp] theorem tallyAdd_gln (c : PartClass) (i f n : Nat) : (tallyAdd c i f n s).gln = s.gln := rfl
@[simp] theorem tallyAdd_sec (c : PartClass) (i f n : Nat) : (tallyAdd c i f n s).sec = s.sec := rfl
@[simp] theorem tallyAdd_oln (c : PartClass) (i f n : Nat) : (tallyAdd c i f n s).oln = s.oln := rfl
@[simp] theorem tallyAdd_trn (c : PartClass) (i f n : Nat) : (tallyAdd c i f n s).trn = s.trn := rfl
@[simp] theorem tallyAdd_hdl (c : PartClass) (i f n : Nat) : (tallyAdd c i f n s).hdl = s.hdl := rfl
@[simp] theorem tallyAdd_mod (c : PartClass) (i f n : Nat) : (tallyAdd c i f n s).mod = s.mod := rfl

/-! `strainAdd` -/

@[simp] theorem strainAdd_pending (c : PartClass) (i inp n : Nat) : (strainAdd c i inp n s).pending = s.pending := rfl
@[simp] theorem strainAdd_now (c : PartClass) (i inp n : Nat) : (strainAdd c i inp n s).now = s.now := rfl
@[simp] theorem strainAdd_free (c : PartClass) (i inp n : Nat) : (strainAdd c i inp n s).free = s.free := rfl
@[simp] theorem strainAdd_out (c : PartClass) (i inp n : Nat) : (strainAdd c i inp n s).out = s.out := rfl
@[simp] theorem strainAdd_fuse (c : PartClass) (i inp n : Nat) : (strainAdd c i inp n s).fuse = s.fuse := rfl
@[simp] theorem strainAdd_cln (c : PartClass) (i inp n : Nat) : (strainAdd c i inp n s).cln = s.cln := rfl
@[simp] theorem strainAdd_fld (c : PartClass) (i inp n : Nat) : (strainAdd c i inp n s).fld = s.fld := rfl
@[simp] theorem strainAdd_kln (c : PartClass) (i inp n : Nat) : (strainAdd c i inp n s).kln = s.kln := rfl
@[simp] theorem strainAdd_emb (c : PartClass) (i inp n : Nat) : (strainAdd c i inp n s).emb = s.emb := rfl
@[simp] theorem strainAdd_tir (c : PartClass) (i inp n : Nat) : (strainAdd c i inp n s).tir = s.tir := rfl
@[simp] theorem strainAdd_chr (c : PartClass) (i inp n : Nat) : (strainAdd c i inp n s).chr = s.chr := rfl
@[simp] theorem strainAdd_sdb (c : PartClass) (i inp n : Nat) : (strainAdd c i inp n s).sdb = s.sdb := rfl
@[simp] theorem strainAdd_gln (c : PartClass) (i inp n : Nat) : (strainAdd c i inp n s).gln = s.gln := rfl
@[simp] theorem strainAdd_sec (c : PartClass) (i inp n : Nat) : (strainAdd c i inp n s).sec = s.sec := rfl
@[simp] theorem strainAdd_oln (c : PartClass) (i inp n : Nat) : (strainAdd c i inp n s).oln = s.oln := rfl
@[simp] theorem strainAdd_trn (c : PartClass) (i inp n : Nat) : (strainAdd c i inp n s).trn = s.trn := rfl
@[simp] theorem strainAdd_hdl (c : PartClass) (i inp n : Nat) : (strainAdd c i inp n s).hdl = s.hdl := rfl
@[simp] theorem strainAdd_mod (c : PartClass) (i inp n : Nat) : (strainAdd c i inp n s).mod = s.mod := rfl

/-! `countInjected` -/

@[simp] theorem countInjected_pending  : (countInjected  s).pending = s.pending := rfl
@[simp] theorem countInjected_now  : (countInjected  s).now = s.now := rfl
@[simp] theorem countInjected_free  : (countInjected  s).free = s.free := rfl
@[simp] theorem countInjected_out  : (countInjected  s).out = s.out := rfl
@[simp] theorem countInjected_fuse  : (countInjected  s).fuse = s.fuse := rfl
@[simp] theorem countInjected_cln  : (countInjected  s).cln = s.cln := rfl
@[simp] theorem countInjected_fld  : (countInjected  s).fld = s.fld := rfl
@[simp] theorem countInjected_kln  : (countInjected  s).kln = s.kln := rfl
@[simp] theorem countInjected_emb  : (countInjected  s).emb = s.emb := rfl
@[simp] theorem countInjected_tir  : (countInjected  s).tir = s.tir := rfl
@[simp] theorem countInjected_chr  : (countInjected  s).chr = s.chr := rfl
@[simp] theorem countInjected_sdb  : (countInjected  s).sdb = s.sdb := rfl
@[simp] theorem countInjected_gln  : (countInjected  s).gln = s.gln := rfl
@[simp] theorem countInjected_sec  : (countInjected  s).sec = s.sec := rfl
@[simp] theorem countInjected_oln  : (countInjected  s).oln = s.oln := rfl
@[simp] theorem countInjected_trn  : (countInjected  s).trn = s.trn := rfl
@[simp] theorem countInjected_hdl  : (countInjected  s).hdl = s.hdl := rfl
@[simp] theorem countInjected_mod  : (countInjected  s).mod = s.mod := rfl

/-! `postReply` -/

@[simp] theorem postReply_pending (ch tag : Nat) (st : Status) (result : Nat) (bytes : List Byte) (len : Nat) : (postReply ch tag st result bytes len s).pending = s.pending := rfl
@[simp] theorem postReply_now (ch tag : Nat) (st : Status) (result : Nat) (bytes : List Byte) (len : Nat) : (postReply ch tag st result bytes len s).now = s.now := rfl
@[simp] theorem postReply_free (ch tag : Nat) (st : Status) (result : Nat) (bytes : List Byte) (len : Nat) : (postReply ch tag st result bytes len s).free = s.free := rfl
@[simp] theorem postReply_out (ch tag : Nat) (st : Status) (result : Nat) (bytes : List Byte) (len : Nat) : (postReply ch tag st result bytes len s).out = s.out := rfl
@[simp] theorem postReply_fuse (ch tag : Nat) (st : Status) (result : Nat) (bytes : List Byte) (len : Nat) : (postReply ch tag st result bytes len s).fuse = s.fuse := rfl
@[simp] theorem postReply_fld (ch tag : Nat) (st : Status) (result : Nat) (bytes : List Byte) (len : Nat) : (postReply ch tag st result bytes len s).fld = s.fld := rfl
@[simp] theorem postReply_kln (ch tag : Nat) (st : Status) (result : Nat) (bytes : List Byte) (len : Nat) : (postReply ch tag st result bytes len s).kln = s.kln := rfl
@[simp] theorem postReply_emb (ch tag : Nat) (st : Status) (result : Nat) (bytes : List Byte) (len : Nat) : (postReply ch tag st result bytes len s).emb = s.emb := rfl
@[simp] theorem postReply_tir (ch tag : Nat) (st : Status) (result : Nat) (bytes : List Byte) (len : Nat) : (postReply ch tag st result bytes len s).tir = s.tir := rfl
@[simp] theorem postReply_chr (ch tag : Nat) (st : Status) (result : Nat) (bytes : List Byte) (len : Nat) : (postReply ch tag st result bytes len s).chr = s.chr := rfl
@[simp] theorem postReply_sdb (ch tag : Nat) (st : Status) (result : Nat) (bytes : List Byte) (len : Nat) : (postReply ch tag st result bytes len s).sdb = s.sdb := rfl
@[simp] theorem postReply_gln (ch tag : Nat) (st : Status) (result : Nat) (bytes : List Byte) (len : Nat) : (postReply ch tag st result bytes len s).gln = s.gln := rfl
@[simp] theorem postReply_hlt (ch tag : Nat) (st : Status) (result : Nat) (bytes : List Byte) (len : Nat) : (postReply ch tag st result bytes len s).hlt = s.hlt := rfl
@[simp] theorem postReply_sec (ch tag : Nat) (st : Status) (result : Nat) (bytes : List Byte) (len : Nat) : (postReply ch tag st result bytes len s).sec = s.sec := rfl
@[simp] theorem postReply_oln (ch tag : Nat) (st : Status) (result : Nat) (bytes : List Byte) (len : Nat) : (postReply ch tag st result bytes len s).oln = s.oln := rfl
@[simp] theorem postReply_trn (ch tag : Nat) (st : Status) (result : Nat) (bytes : List Byte) (len : Nat) : (postReply ch tag st result bytes len s).trn = s.trn := rfl
@[simp] theorem postReply_hdl (ch tag : Nat) (st : Status) (result : Nat) (bytes : List Byte) (len : Nat) : (postReply ch tag st result bytes len s).hdl = s.hdl := rfl
@[simp] theorem postReply_mod (ch tag : Nat) (st : Status) (result : Nat) (bytes : List Byte) (len : Nat) : (postReply ch tag st result bytes len s).mod = s.mod := rfl

/-! `setPort` -/

@[simp] theorem setPort_pending (p : Nat) (x : Port) : (setPort p x s).pending = s.pending := rfl
@[simp] theorem setPort_now (p : Nat) (x : Port) : (setPort p x s).now = s.now := rfl
@[simp] theorem setPort_free (p : Nat) (x : Port) : (setPort p x s).free = s.free := rfl
@[simp] theorem setPort_out (p : Nat) (x : Port) : (setPort p x s).out = s.out := rfl
@[simp] theorem setPort_fuse (p : Nat) (x : Port) : (setPort p x s).fuse = s.fuse := rfl
@[simp] theorem setPort_cln (p : Nat) (x : Port) : (setPort p x s).cln = s.cln := rfl
@[simp] theorem setPort_fld (p : Nat) (x : Port) : (setPort p x s).fld = s.fld := rfl
@[simp] theorem setPort_kln (p : Nat) (x : Port) : (setPort p x s).kln = s.kln := rfl
@[simp] theorem setPort_emb (p : Nat) (x : Port) : (setPort p x s).emb = s.emb := rfl
@[simp] theorem setPort_tir (p : Nat) (x : Port) : (setPort p x s).tir = s.tir := rfl
@[simp] theorem setPort_chr (p : Nat) (x : Port) : (setPort p x s).chr = s.chr := rfl
@[simp] theorem setPort_sdb (p : Nat) (x : Port) : (setPort p x s).sdb = s.sdb := rfl
@[simp] theorem setPort_gln (p : Nat) (x : Port) : (setPort p x s).gln = s.gln := rfl
@[simp] theorem setPort_hlt (p : Nat) (x : Port) : (setPort p x s).hlt = s.hlt := rfl
@[simp] theorem setPort_sec (p : Nat) (x : Port) : (setPort p x s).sec = s.sec := rfl
@[simp] theorem setPort_trn (p : Nat) (x : Port) : (setPort p x s).trn = s.trn := rfl
@[simp] theorem setPort_hdl (p : Nat) (x : Port) : (setPort p x s).hdl = s.hdl := rfl
@[simp] theorem setPort_mod (p : Nat) (x : Port) : (setPort p x s).mod = s.mod := rfl

/-! `modPort` -/

@[simp] theorem modPort_pending (p : Nat) (f : Port → Port) : (modPort p f s).pending = s.pending := rfl
@[simp] theorem modPort_now (p : Nat) (f : Port → Port) : (modPort p f s).now = s.now := rfl
@[simp] theorem modPort_free (p : Nat) (f : Port → Port) : (modPort p f s).free = s.free := rfl
@[simp] theorem modPort_out (p : Nat) (f : Port → Port) : (modPort p f s).out = s.out := rfl
@[simp] theorem modPort_fuse (p : Nat) (f : Port → Port) : (modPort p f s).fuse = s.fuse := rfl
@[simp] theorem modPort_cln (p : Nat) (f : Port → Port) : (modPort p f s).cln = s.cln := rfl
@[simp] theorem modPort_fld (p : Nat) (f : Port → Port) : (modPort p f s).fld = s.fld := rfl
@[simp] theorem modPort_kln (p : Nat) (f : Port → Port) : (modPort p f s).kln = s.kln := rfl
@[simp] theorem modPort_emb (p : Nat) (f : Port → Port) : (modPort p f s).emb = s.emb := rfl
@[simp] theorem modPort_tir (p : Nat) (f : Port → Port) : (modPort p f s).tir = s.tir := rfl
@[simp] theorem modPort_chr (p : Nat) (f : Port → Port) : (modPort p f s).chr = s.chr := rfl
@[simp] theorem modPort_sdb (p : Nat) (f : Port → Port) : (modPort p f s).sdb = s.sdb := rfl
@[simp] theorem modPort_gln (p : Nat) (f : Port → Port) : (modPort p f s).gln = s.gln := rfl
@[simp] theorem modPort_hlt (p : Nat) (f : Port → Port) : (modPort p f s).hlt = s.hlt := rfl
@[simp] theorem modPort_sec (p : Nat) (f : Port → Port) : (modPort p f s).sec = s.sec := rfl
@[simp] theorem modPort_trn (p : Nat) (f : Port → Port) : (modPort p f s).trn = s.trn := rfl
@[simp] theorem modPort_hdl (p : Nat) (f : Port → Port) : (modPort p f s).hdl = s.hdl := rfl
@[simp] theorem modPort_mod (p : Nat) (f : Port → Port) : (modPort p f s).mod = s.mod := rfl

/-! `setInst` -/

@[simp] theorem setInst_pending (i : Nat) (h : HInst) : (setInst i h s).pending = s.pending := rfl
@[simp] theorem setInst_now (i : Nat) (h : HInst) : (setInst i h s).now = s.now := rfl
@[simp] theorem setInst_free (i : Nat) (h : HInst) : (setInst i h s).free = s.free := rfl
@[simp] theorem setInst_out (i : Nat) (h : HInst) : (setInst i h s).out = s.out := rfl
@[simp] theorem setInst_fuse (i : Nat) (h : HInst) : (setInst i h s).fuse = s.fuse := rfl
@[simp] theorem setInst_cln (i : Nat) (h : HInst) : (setInst i h s).cln = s.cln := rfl
@[simp] theorem setInst_fld (i : Nat) (h : HInst) : (setInst i h s).fld = s.fld := rfl
@[simp] theorem setInst_kln (i : Nat) (h : HInst) : (setInst i h s).kln = s.kln := rfl
@[simp] theorem setInst_emb (i : Nat) (h : HInst) : (setInst i h s).emb = s.emb := rfl
@[simp] theorem setInst_tir (i : Nat) (h : HInst) : (setInst i h s).tir = s.tir := rfl
@[simp] theorem setInst_chr (i : Nat) (h : HInst) : (setInst i h s).chr = s.chr := rfl
@[simp] theorem setInst_sdb (i : Nat) (h : HInst) : (setInst i h s).sdb = s.sdb := rfl
@[simp] theorem setInst_gln (i : Nat) (h : HInst) : (setInst i h s).gln = s.gln := rfl
@[simp] theorem setInst_hlt (i : Nat) (h : HInst) : (setInst i h s).hlt = s.hlt := rfl
@[simp] theorem setInst_sec (i : Nat) (h : HInst) : (setInst i h s).sec = s.sec := rfl
@[simp] theorem setInst_oln (i : Nat) (h : HInst) : (setInst i h s).oln = s.oln := rfl
@[simp] theorem setInst_trn (i : Nat) (h : HInst) : (setInst i h s).trn = s.trn := rfl
@[simp] theorem setInst_mod (i : Nat) (h : HInst) : (setInst i h s).mod = s.mod := rfl

/-! `modInst` -/

@[simp] theorem modInst_pending (i : Nat) (f : HInst → HInst) : (modInst i f s).pending = s.pending := rfl
@[simp] theorem modInst_now (i : Nat) (f : HInst → HInst) : (modInst i f s).now = s.now := rfl
@[simp] theorem modInst_free (i : Nat) (f : HInst → HInst) : (modInst i f s).free = s.free := rfl
@[simp] theorem modInst_out (i : Nat) (f : HInst → HInst) : (modInst i f s).out = s.out := rfl
@[simp] theorem modInst_fuse (i : Nat) (f : HInst → HInst) : (modInst i f s).fuse = s.fuse := rfl
@[simp] theorem modInst_cln (i : Nat) (f : HInst → HInst) : (modInst i f s).cln = s.cln := rfl
@[simp] theorem modInst_fld (i : Nat) (f : HInst → HInst) : (modInst i f s).fld = s.fld := rfl
@[simp] theorem modInst_kln (i : Nat) (f : HInst → HInst) : (modInst i f s).kln = s.kln := rfl
@[simp] theorem modInst_emb (i : Nat) (f : HInst → HInst) : (modInst i f s).emb = s.emb := rfl
@[simp] theorem modInst_tir (i : Nat) (f : HInst → HInst) : (modInst i f s).tir = s.tir := rfl
@[simp] theorem modInst_chr (i : Nat) (f : HInst → HInst) : (modInst i f s).chr = s.chr := rfl
@[simp] theorem modInst_sdb (i : Nat) (f : HInst → HInst) : (modInst i f s).sdb = s.sdb := rfl
@[simp] theorem modInst_gln (i : Nat) (f : HInst → HInst) : (modInst i f s).gln = s.gln := rfl
@[simp] theorem modInst_hlt (i : Nat) (f : HInst → HInst) : (modInst i f s).hlt = s.hlt := rfl
@[simp] theorem modInst_sec (i : Nat) (f : HInst → HInst) : (modInst i f s).sec = s.sec := rfl
@[simp] theorem modInst_oln (i : Nat) (f : HInst → HInst) : (modInst i f s).oln = s.oln := rfl
@[simp] theorem modInst_trn (i : Nat) (f : HInst → HInst) : (modInst i f s).trn = s.trn := rfl
@[simp] theorem modInst_mod (i : Nat) (f : HInst → HInst) : (modInst i f s).mod = s.mod := rfl

/-! `setSlot` -/

@[simp] theorem setSlot_pending (k : Nat) (x : Slot) : (setSlot k x s).pending = s.pending := rfl
@[simp] theorem setSlot_now (k : Nat) (x : Slot) : (setSlot k x s).now = s.now := rfl
@[simp] theorem setSlot_free (k : Nat) (x : Slot) : (setSlot k x s).free = s.free := rfl
@[simp] theorem setSlot_out (k : Nat) (x : Slot) : (setSlot k x s).out = s.out := rfl
@[simp] theorem setSlot_fuse (k : Nat) (x : Slot) : (setSlot k x s).fuse = s.fuse := rfl
@[simp] theorem setSlot_cln (k : Nat) (x : Slot) : (setSlot k x s).cln = s.cln := rfl
@[simp] theorem setSlot_fld (k : Nat) (x : Slot) : (setSlot k x s).fld = s.fld := rfl
@[simp] theorem setSlot_kln (k : Nat) (x : Slot) : (setSlot k x s).kln = s.kln := rfl
@[simp] theorem setSlot_emb (k : Nat) (x : Slot) : (setSlot k x s).emb = s.emb := rfl
@[simp] theorem setSlot_tir (k : Nat) (x : Slot) : (setSlot k x s).tir = s.tir := rfl
@[simp] theorem setSlot_chr (k : Nat) (x : Slot) : (setSlot k x s).chr = s.chr := rfl
@[simp] theorem setSlot_sdb (k : Nat) (x : Slot) : (setSlot k x s).sdb = s.sdb := rfl
@[simp] theorem setSlot_gln (k : Nat) (x : Slot) : (setSlot k x s).gln = s.gln := rfl
@[simp] theorem setSlot_hlt (k : Nat) (x : Slot) : (setSlot k x s).hlt = s.hlt := rfl
@[simp] theorem setSlot_sec (k : Nat) (x : Slot) : (setSlot k x s).sec = s.sec := rfl
@[simp] theorem setSlot_oln (k : Nat) (x : Slot) : (setSlot k x s).oln = s.oln := rfl
@[simp] theorem setSlot_hdl (k : Nat) (x : Slot) : (setSlot k x s).hdl = s.hdl := rfl
@[simp] theorem setSlot_mod (k : Nat) (x : Slot) : (setSlot k x s).mod = s.mod := rfl

/-! `modSlot` -/

@[simp] theorem modSlot_pending (k : Nat) (f : Slot → Slot) : (modSlot k f s).pending = s.pending := rfl
@[simp] theorem modSlot_now (k : Nat) (f : Slot → Slot) : (modSlot k f s).now = s.now := rfl
@[simp] theorem modSlot_free (k : Nat) (f : Slot → Slot) : (modSlot k f s).free = s.free := rfl
@[simp] theorem modSlot_out (k : Nat) (f : Slot → Slot) : (modSlot k f s).out = s.out := rfl
@[simp] theorem modSlot_fuse (k : Nat) (f : Slot → Slot) : (modSlot k f s).fuse = s.fuse := rfl
@[simp] theorem modSlot_cln (k : Nat) (f : Slot → Slot) : (modSlot k f s).cln = s.cln := rfl
@[simp] theorem modSlot_fld (k : Nat) (f : Slot → Slot) : (modSlot k f s).fld = s.fld := rfl
@[simp] theorem modSlot_kln (k : Nat) (f : Slot → Slot) : (modSlot k f s).kln = s.kln := rfl
@[simp] theorem modSlot_emb (k : Nat) (f : Slot → Slot) : (modSlot k f s).emb = s.emb := rfl
@[simp] theorem modSlot_tir (k : Nat) (f : Slot → Slot) : (modSlot k f s).tir = s.tir := rfl
@[simp] theorem modSlot_chr (k : Nat) (f : Slot → Slot) : (modSlot k f s).chr = s.chr := rfl
@[simp] theorem modSlot_sdb (k : Nat) (f : Slot → Slot) : (modSlot k f s).sdb = s.sdb := rfl
@[simp] theorem modSlot_gln (k : Nat) (f : Slot → Slot) : (modSlot k f s).gln = s.gln := rfl
@[simp] theorem modSlot_hlt (k : Nat) (f : Slot → Slot) : (modSlot k f s).hlt = s.hlt := rfl
@[simp] theorem modSlot_sec (k : Nat) (f : Slot → Slot) : (modSlot k f s).sec = s.sec := rfl
@[simp] theorem modSlot_oln (k : Nat) (f : Slot → Slot) : (modSlot k f s).oln = s.oln := rfl
@[simp] theorem modSlot_hdl (k : Nat) (f : Slot → Slot) : (modSlot k f s).hdl = s.hdl := rfl
@[simp] theorem modSlot_mod (k : Nat) (f : Slot → Slot) : (modSlot k f s).mod = s.mod := rfl

/-! `setPoison` -/

@[simp] theorem setPoison_pending (line : Nat) (v : Bool) : (setPoison line v s).pending = s.pending := rfl
@[simp] theorem setPoison_now (line : Nat) (v : Bool) : (setPoison line v s).now = s.now := rfl
@[simp] theorem setPoison_free (line : Nat) (v : Bool) : (setPoison line v s).free = s.free := rfl
@[simp] theorem setPoison_out (line : Nat) (v : Bool) : (setPoison line v s).out = s.out := rfl
@[simp] theorem setPoison_fuse (line : Nat) (v : Bool) : (setPoison line v s).fuse = s.fuse := rfl
@[simp] theorem setPoison_cln (line : Nat) (v : Bool) : (setPoison line v s).cln = s.cln := rfl
@[simp] theorem setPoison_fld (line : Nat) (v : Bool) : (setPoison line v s).fld = s.fld := rfl
@[simp] theorem setPoison_kln (line : Nat) (v : Bool) : (setPoison line v s).kln = s.kln := rfl
@[simp] theorem setPoison_tir (line : Nat) (v : Bool) : (setPoison line v s).tir = s.tir := rfl
@[simp] theorem setPoison_chr (line : Nat) (v : Bool) : (setPoison line v s).chr = s.chr := rfl
@[simp] theorem setPoison_sdb (line : Nat) (v : Bool) : (setPoison line v s).sdb = s.sdb := rfl
@[simp] theorem setPoison_gln (line : Nat) (v : Bool) : (setPoison line v s).gln = s.gln := rfl
@[simp] theorem setPoison_hlt (line : Nat) (v : Bool) : (setPoison line v s).hlt = s.hlt := rfl
@[simp] theorem setPoison_sec (line : Nat) (v : Bool) : (setPoison line v s).sec = s.sec := rfl
@[simp] theorem setPoison_oln (line : Nat) (v : Bool) : (setPoison line v s).oln = s.oln := rfl
@[simp] theorem setPoison_trn (line : Nat) (v : Bool) : (setPoison line v s).trn = s.trn := rfl
@[simp] theorem setPoison_hdl (line : Nat) (v : Bool) : (setPoison line v s).hdl = s.hdl := rfl
@[simp] theorem setPoison_mod (line : Nat) (v : Bool) : (setPoison line v s).mod = s.mod := rfl

/-! `setPlough` -/

@[simp] theorem setPlough_pending (k : Nat) (o : Plough) : (setPlough k o s).pending = s.pending := rfl
@[simp] theorem setPlough_now (k : Nat) (o : Plough) : (setPlough k o s).now = s.now := rfl
@[simp] theorem setPlough_free (k : Nat) (o : Plough) : (setPlough k o s).free = s.free := rfl
@[simp] theorem setPlough_out (k : Nat) (o : Plough) : (setPlough k o s).out = s.out := rfl
@[simp] theorem setPlough_fuse (k : Nat) (o : Plough) : (setPlough k o s).fuse = s.fuse := rfl
@[simp] theorem setPlough_cln (k : Nat) (o : Plough) : (setPlough k o s).cln = s.cln := rfl
@[simp] theorem setPlough_fld (k : Nat) (o : Plough) : (setPlough k o s).fld = s.fld := rfl
@[simp] theorem setPlough_kln (k : Nat) (o : Plough) : (setPlough k o s).kln = s.kln := rfl
@[simp] theorem setPlough_tir (k : Nat) (o : Plough) : (setPlough k o s).tir = s.tir := rfl
@[simp] theorem setPlough_chr (k : Nat) (o : Plough) : (setPlough k o s).chr = s.chr := rfl
@[simp] theorem setPlough_sdb (k : Nat) (o : Plough) : (setPlough k o s).sdb = s.sdb := rfl
@[simp] theorem setPlough_gln (k : Nat) (o : Plough) : (setPlough k o s).gln = s.gln := rfl
@[simp] theorem setPlough_hlt (k : Nat) (o : Plough) : (setPlough k o s).hlt = s.hlt := rfl
@[simp] theorem setPlough_sec (k : Nat) (o : Plough) : (setPlough k o s).sec = s.sec := rfl
@[simp] theorem setPlough_oln (k : Nat) (o : Plough) : (setPlough k o s).oln = s.oln := rfl
@[simp] theorem setPlough_trn (k : Nat) (o : Plough) : (setPlough k o s).trn = s.trn := rfl
@[simp] theorem setPlough_hdl (k : Nat) (o : Plough) : (setPlough k o s).hdl = s.hdl := rfl
@[simp] theorem setPlough_mod (k : Nat) (o : Plough) : (setPlough k o s).mod = s.mod := rfl

/-! `badAccess` -/

@[simp] theorem badAccess_pending (bar : Bar) (off : Nat) : (badAccess bar off s).pending = s.pending := rfl
@[simp] theorem badAccess_now (bar : Bar) (off : Nat) : (badAccess bar off s).now = s.now := rfl
@[simp] theorem badAccess_free (bar : Bar) (off : Nat) : (badAccess bar off s).free = s.free := rfl
@[simp] theorem badAccess_out (bar : Bar) (off : Nat) : (badAccess bar off s).out = s.out := rfl
@[simp] theorem badAccess_fuse (bar : Bar) (off : Nat) : (badAccess bar off s).fuse = s.fuse := rfl
@[simp] theorem badAccess_fld (bar : Bar) (off : Nat) : (badAccess bar off s).fld = s.fld := rfl
@[simp] theorem badAccess_kln (bar : Bar) (off : Nat) : (badAccess bar off s).kln = s.kln := rfl
@[simp] theorem badAccess_emb (bar : Bar) (off : Nat) : (badAccess bar off s).emb = s.emb := rfl
@[simp] theorem badAccess_tir (bar : Bar) (off : Nat) : (badAccess bar off s).tir = s.tir := rfl
@[simp] theorem badAccess_chr (bar : Bar) (off : Nat) : (badAccess bar off s).chr = s.chr := rfl
@[simp] theorem badAccess_sdb (bar : Bar) (off : Nat) : (badAccess bar off s).sdb = s.sdb := rfl
@[simp] theorem badAccess_gln (bar : Bar) (off : Nat) : (badAccess bar off s).gln = s.gln := rfl
@[simp] theorem badAccess_hlt (bar : Bar) (off : Nat) : (badAccess bar off s).hlt = s.hlt := rfl
@[simp] theorem badAccess_sec (bar : Bar) (off : Nat) : (badAccess bar off s).sec = s.sec := rfl
@[simp] theorem badAccess_oln (bar : Bar) (off : Nat) : (badAccess bar off s).oln = s.oln := rfl
@[simp] theorem badAccess_trn (bar : Bar) (off : Nat) : (badAccess bar off s).trn = s.trn := rfl
@[simp] theorem badAccess_hdl (bar : Bar) (off : Nat) : (badAccess bar off s).hdl = s.hdl := rfl
@[simp] theorem badAccess_mod (bar : Bar) (off : Nat) : (badAccess bar off s).mod = s.mod := rfl

/-! `dropDoorbell` -/

@[simp] theorem dropDoorbell_pending  : (dropDoorbell  s).pending = s.pending := rfl
@[simp] theorem dropDoorbell_now  : (dropDoorbell  s).now = s.now := rfl
@[simp] theorem dropDoorbell_free  : (dropDoorbell  s).free = s.free := rfl
@[simp] theorem dropDoorbell_out  : (dropDoorbell  s).out = s.out := rfl
@[simp] theorem dropDoorbell_fuse  : (dropDoorbell  s).fuse = s.fuse := rfl
@[simp] theorem dropDoorbell_fld  : (dropDoorbell  s).fld = s.fld := rfl
@[simp] theorem dropDoorbell_kln  : (dropDoorbell  s).kln = s.kln := rfl
@[simp] theorem dropDoorbell_emb  : (dropDoorbell  s).emb = s.emb := rfl
@[simp] theorem dropDoorbell_tir  : (dropDoorbell  s).tir = s.tir := rfl
@[simp] theorem dropDoorbell_chr  : (dropDoorbell  s).chr = s.chr := rfl
@[simp] theorem dropDoorbell_sdb  : (dropDoorbell  s).sdb = s.sdb := rfl
@[simp] theorem dropDoorbell_gln  : (dropDoorbell  s).gln = s.gln := rfl
@[simp] theorem dropDoorbell_hlt  : (dropDoorbell  s).hlt = s.hlt := rfl
@[simp] theorem dropDoorbell_sec  : (dropDoorbell  s).sec = s.sec := rfl
@[simp] theorem dropDoorbell_oln  : (dropDoorbell  s).oln = s.oln := rfl
@[simp] theorem dropDoorbell_trn  : (dropDoorbell  s).trn = s.trn := rfl
@[simp] theorem dropDoorbell_hdl  : (dropDoorbell  s).hdl = s.hdl := rfl
@[simp] theorem dropDoorbell_mod  : (dropDoorbell  s).mod = s.mod := rfl

/-! `countFetch` -/

@[simp] theorem countFetch_pending (cls queue : Nat) : (countFetch cls queue s).pending = s.pending := rfl
@[simp] theorem countFetch_now (cls queue : Nat) : (countFetch cls queue s).now = s.now := rfl
@[simp] theorem countFetch_free (cls queue : Nat) : (countFetch cls queue s).free = s.free := rfl
@[simp] theorem countFetch_out (cls queue : Nat) : (countFetch cls queue s).out = s.out := rfl
@[simp] theorem countFetch_fuse (cls queue : Nat) : (countFetch cls queue s).fuse = s.fuse := rfl
@[simp] theorem countFetch_cln (cls queue : Nat) : (countFetch cls queue s).cln = s.cln := rfl
@[simp] theorem countFetch_fld (cls queue : Nat) : (countFetch cls queue s).fld = s.fld := rfl
@[simp] theorem countFetch_kln (cls queue : Nat) : (countFetch cls queue s).kln = s.kln := rfl
@[simp] theorem countFetch_emb (cls queue : Nat) : (countFetch cls queue s).emb = s.emb := rfl
@[simp] theorem countFetch_tir (cls queue : Nat) : (countFetch cls queue s).tir = s.tir := rfl
@[simp] theorem countFetch_chr (cls queue : Nat) : (countFetch cls queue s).chr = s.chr := rfl
@[simp] theorem countFetch_sdb (cls queue : Nat) : (countFetch cls queue s).sdb = s.sdb := rfl
@[simp] theorem countFetch_gln (cls queue : Nat) : (countFetch cls queue s).gln = s.gln := rfl
@[simp] theorem countFetch_hlt (cls queue : Nat) : (countFetch cls queue s).hlt = s.hlt := rfl
@[simp] theorem countFetch_sec (cls queue : Nat) : (countFetch cls queue s).sec = s.sec := rfl
@[simp] theorem countFetch_oln (cls queue : Nat) : (countFetch cls queue s).oln = s.oln := rfl
@[simp] theorem countFetch_trn (cls queue : Nat) : (countFetch cls queue s).trn = s.trn := rfl
@[simp] theorem countFetch_mod (cls queue : Nat) : (countFetch cls queue s).mod = s.mod := rfl

/-! `setSeq` -/

@[simp] theorem setSeq_pending (q : Nat) (x : Seq) : (setSeq q x s).pending = s.pending := rfl
@[simp] theorem setSeq_now (q : Nat) (x : Seq) : (setSeq q x s).now = s.now := rfl
@[simp] theorem setSeq_free (q : Nat) (x : Seq) : (setSeq q x s).free = s.free := rfl
@[simp] theorem setSeq_out (q : Nat) (x : Seq) : (setSeq q x s).out = s.out := rfl
@[simp] theorem setSeq_fuse (q : Nat) (x : Seq) : (setSeq q x s).fuse = s.fuse := rfl
@[simp] theorem setSeq_cln (q : Nat) (x : Seq) : (setSeq q x s).cln = s.cln := rfl
@[simp] theorem setSeq_fld (q : Nat) (x : Seq) : (setSeq q x s).fld = s.fld := rfl
@[simp] theorem setSeq_kln (q : Nat) (x : Seq) : (setSeq q x s).kln = s.kln := rfl
@[simp] theorem setSeq_emb (q : Nat) (x : Seq) : (setSeq q x s).emb = s.emb := rfl
@[simp] theorem setSeq_chr (q : Nat) (x : Seq) : (setSeq q x s).chr = s.chr := rfl
@[simp] theorem setSeq_sdb (q : Nat) (x : Seq) : (setSeq q x s).sdb = s.sdb := rfl
@[simp] theorem setSeq_gln (q : Nat) (x : Seq) : (setSeq q x s).gln = s.gln := rfl
@[simp] theorem setSeq_hlt (q : Nat) (x : Seq) : (setSeq q x s).hlt = s.hlt := rfl
@[simp] theorem setSeq_sec (q : Nat) (x : Seq) : (setSeq q x s).sec = s.sec := rfl
@[simp] theorem setSeq_oln (q : Nat) (x : Seq) : (setSeq q x s).oln = s.oln := rfl
@[simp] theorem setSeq_trn (q : Nat) (x : Seq) : (setSeq q x s).trn = s.trn := rfl
@[simp] theorem setSeq_hdl (q : Nat) (x : Seq) : (setSeq q x s).hdl = s.hdl := rfl
@[simp] theorem setSeq_mod (q : Nat) (x : Seq) : (setSeq q x s).mod = s.mod := rfl

/-! `setBody` -/

@[simp] theorem setBody_pending (b : Nat) (x : Body) : (setBody b x s).pending = s.pending := rfl
@[simp] theorem setBody_now (b : Nat) (x : Body) : (setBody b x s).now = s.now := rfl
@[simp] theorem setBody_free (b : Nat) (x : Body) : (setBody b x s).free = s.free := rfl
@[simp] theorem setBody_out (b : Nat) (x : Body) : (setBody b x s).out = s.out := rfl
@[simp] theorem setBody_fuse (b : Nat) (x : Body) : (setBody b x s).fuse = s.fuse := rfl
@[simp] theorem setBody_cln (b : Nat) (x : Body) : (setBody b x s).cln = s.cln := rfl
@[simp] theorem setBody_fld (b : Nat) (x : Body) : (setBody b x s).fld = s.fld := rfl
@[simp] theorem setBody_kln (b : Nat) (x : Body) : (setBody b x s).kln = s.kln := rfl
@[simp] theorem setBody_emb (b : Nat) (x : Body) : (setBody b x s).emb = s.emb := rfl
@[simp] theorem setBody_chr (b : Nat) (x : Body) : (setBody b x s).chr = s.chr := rfl
@[simp] theorem setBody_sdb (b : Nat) (x : Body) : (setBody b x s).sdb = s.sdb := rfl
@[simp] theorem setBody_gln (b : Nat) (x : Body) : (setBody b x s).gln = s.gln := rfl
@[simp] theorem setBody_hlt (b : Nat) (x : Body) : (setBody b x s).hlt = s.hlt := rfl
@[simp] theorem setBody_sec (b : Nat) (x : Body) : (setBody b x s).sec = s.sec := rfl
@[simp] theorem setBody_oln (b : Nat) (x : Body) : (setBody b x s).oln = s.oln := rfl
@[simp] theorem setBody_trn (b : Nat) (x : Body) : (setBody b x s).trn = s.trn := rfl
@[simp] theorem setBody_hdl (b : Nat) (x : Body) : (setBody b x s).hdl = s.hdl := rfl
@[simp] theorem setBody_mod (b : Nat) (x : Body) : (setBody b x s).mod = s.mod := rfl

/-! `modBody` -/

@[simp] theorem modBody_pending (b : Nat) (f : Body → Body) : (modBody b f s).pending = s.pending := rfl
@[simp] theorem modBody_now (b : Nat) (f : Body → Body) : (modBody b f s).now = s.now := rfl
@[simp] theorem modBody_free (b : Nat) (f : Body → Body) : (modBody b f s).free = s.free := rfl
@[simp] theorem modBody_out (b : Nat) (f : Body → Body) : (modBody b f s).out = s.out := rfl
@[simp] theorem modBody_fuse (b : Nat) (f : Body → Body) : (modBody b f s).fuse = s.fuse := rfl
@[simp] theorem modBody_cln (b : Nat) (f : Body → Body) : (modBody b f s).cln = s.cln := rfl
@[simp] theorem modBody_fld (b : Nat) (f : Body → Body) : (modBody b f s).fld = s.fld := rfl
@[simp] theorem modBody_kln (b : Nat) (f : Body → Body) : (modBody b f s).kln = s.kln := rfl
@[simp] theorem modBody_emb (b : Nat) (f : Body → Body) : (modBody b f s).emb = s.emb := rfl
@[simp] theorem modBody_chr (b : Nat) (f : Body → Body) : (modBody b f s).chr = s.chr := rfl
@[simp] theorem modBody_sdb (b : Nat) (f : Body → Body) : (modBody b f s).sdb = s.sdb := rfl
@[simp] theorem modBody_gln (b : Nat) (f : Body → Body) : (modBody b f s).gln = s.gln := rfl
@[simp] theorem modBody_hlt (b : Nat) (f : Body → Body) : (modBody b f s).hlt = s.hlt := rfl
@[simp] theorem modBody_sec (b : Nat) (f : Body → Body) : (modBody b f s).sec = s.sec := rfl
@[simp] theorem modBody_oln (b : Nat) (f : Body → Body) : (modBody b f s).oln = s.oln := rfl
@[simp] theorem modBody_trn (b : Nat) (f : Body → Body) : (modBody b f s).trn = s.trn := rfl
@[simp] theorem modBody_hdl (b : Nat) (f : Body → Body) : (modBody b f s).hdl = s.hdl := rfl
@[simp] theorem modBody_mod (b : Nat) (f : Body → Body) : (modBody b f s).mod = s.mod := rfl

/-! `setJournal` -/

@[simp] theorem setJournal_pending (q : Nat) (j : JSeq) : (setJournal q j s).pending = s.pending := rfl
@[simp] theorem setJournal_now (q : Nat) (j : JSeq) : (setJournal q j s).now = s.now := rfl
@[simp] theorem setJournal_free (q : Nat) (j : JSeq) : (setJournal q j s).free = s.free := rfl
@[simp] theorem setJournal_out (q : Nat) (j : JSeq) : (setJournal q j s).out = s.out := rfl
@[simp] theorem setJournal_fuse (q : Nat) (j : JSeq) : (setJournal q j s).fuse = s.fuse := rfl
@[simp] theorem setJournal_cln (q : Nat) (j : JSeq) : (setJournal q j s).cln = s.cln := rfl
@[simp] theorem setJournal_fld (q : Nat) (j : JSeq) : (setJournal q j s).fld = s.fld := rfl
@[simp] theorem setJournal_kln (q : Nat) (j : JSeq) : (setJournal q j s).kln = s.kln := rfl
@[simp] theorem setJournal_emb (q : Nat) (j : JSeq) : (setJournal q j s).emb = s.emb := rfl
@[simp] theorem setJournal_chr (q : Nat) (j : JSeq) : (setJournal q j s).chr = s.chr := rfl
@[simp] theorem setJournal_sdb (q : Nat) (j : JSeq) : (setJournal q j s).sdb = s.sdb := rfl
@[simp] theorem setJournal_gln (q : Nat) (j : JSeq) : (setJournal q j s).gln = s.gln := rfl
@[simp] theorem setJournal_hlt (q : Nat) (j : JSeq) : (setJournal q j s).hlt = s.hlt := rfl
@[simp] theorem setJournal_sec (q : Nat) (j : JSeq) : (setJournal q j s).sec = s.sec := rfl
@[simp] theorem setJournal_oln (q : Nat) (j : JSeq) : (setJournal q j s).oln = s.oln := rfl
@[simp] theorem setJournal_trn (q : Nat) (j : JSeq) : (setJournal q j s).trn = s.trn := rfl
@[simp] theorem setJournal_hdl (q : Nat) (j : JSeq) : (setJournal q j s).hdl = s.hdl := rfl
@[simp] theorem setJournal_mod (q : Nat) (j : JSeq) : (setJournal q j s).mod = s.mod := rfl

/-! `setBank` -/

@[simp] theorem setBank_pending (b : Nat) (x : Bank) : (setBank b x s).pending = s.pending := rfl
@[simp] theorem setBank_now (b : Nat) (x : Bank) : (setBank b x s).now = s.now := rfl
@[simp] theorem setBank_free (b : Nat) (x : Bank) : (setBank b x s).free = s.free := rfl
@[simp] theorem setBank_out (b : Nat) (x : Bank) : (setBank b x s).out = s.out := rfl
@[simp] theorem setBank_fuse (b : Nat) (x : Bank) : (setBank b x s).fuse = s.fuse := rfl
@[simp] theorem setBank_cln (b : Nat) (x : Bank) : (setBank b x s).cln = s.cln := rfl
@[simp] theorem setBank_fld (b : Nat) (x : Bank) : (setBank b x s).fld = s.fld := rfl
@[simp] theorem setBank_kln (b : Nat) (x : Bank) : (setBank b x s).kln = s.kln := rfl
@[simp] theorem setBank_emb (b : Nat) (x : Bank) : (setBank b x s).emb = s.emb := rfl
@[simp] theorem setBank_tir (b : Nat) (x : Bank) : (setBank b x s).tir = s.tir := rfl
@[simp] theorem setBank_chr (b : Nat) (x : Bank) : (setBank b x s).chr = s.chr := rfl
@[simp] theorem setBank_gln (b : Nat) (x : Bank) : (setBank b x s).gln = s.gln := rfl
@[simp] theorem setBank_hlt (b : Nat) (x : Bank) : (setBank b x s).hlt = s.hlt := rfl
@[simp] theorem setBank_sec (b : Nat) (x : Bank) : (setBank b x s).sec = s.sec := rfl
@[simp] theorem setBank_oln (b : Nat) (x : Bank) : (setBank b x s).oln = s.oln := rfl
@[simp] theorem setBank_trn (b : Nat) (x : Bank) : (setBank b x s).trn = s.trn := rfl
@[simp] theorem setBank_hdl (b : Nat) (x : Bank) : (setBank b x s).hdl = s.hdl := rfl
@[simp] theorem setBank_mod (b : Nat) (x : Bank) : (setBank b x s).mod = s.mod := rfl

/-! `setSwath` -/

@[simp] theorem setSwath_pending (k : Nat) (x : Swath) : (setSwath k x s).pending = s.pending := rfl
@[simp] theorem setSwath_now (k : Nat) (x : Swath) : (setSwath k x s).now = s.now := rfl
@[simp] theorem setSwath_free (k : Nat) (x : Swath) : (setSwath k x s).free = s.free := rfl
@[simp] theorem setSwath_out (k : Nat) (x : Swath) : (setSwath k x s).out = s.out := rfl
@[simp] theorem setSwath_fuse (k : Nat) (x : Swath) : (setSwath k x s).fuse = s.fuse := rfl
@[simp] theorem setSwath_cln (k : Nat) (x : Swath) : (setSwath k x s).cln = s.cln := rfl
@[simp] theorem setSwath_fld (k : Nat) (x : Swath) : (setSwath k x s).fld = s.fld := rfl
@[simp] theorem setSwath_kln (k : Nat) (x : Swath) : (setSwath k x s).kln = s.kln := rfl
@[simp] theorem setSwath_emb (k : Nat) (x : Swath) : (setSwath k x s).emb = s.emb := rfl
@[simp] theorem setSwath_tir (k : Nat) (x : Swath) : (setSwath k x s).tir = s.tir := rfl
@[simp] theorem setSwath_chr (k : Nat) (x : Swath) : (setSwath k x s).chr = s.chr := rfl
@[simp] theorem setSwath_sdb (k : Nat) (x : Swath) : (setSwath k x s).sdb = s.sdb := rfl
@[simp] theorem setSwath_hlt (k : Nat) (x : Swath) : (setSwath k x s).hlt = s.hlt := rfl
@[simp] theorem setSwath_sec (k : Nat) (x : Swath) : (setSwath k x s).sec = s.sec := rfl
@[simp] theorem setSwath_oln (k : Nat) (x : Swath) : (setSwath k x s).oln = s.oln := rfl
@[simp] theorem setSwath_trn (k : Nat) (x : Swath) : (setSwath k x s).trn = s.trn := rfl
@[simp] theorem setSwath_hdl (k : Nat) (x : Swath) : (setSwath k x s).hdl = s.hdl := rfl
@[simp] theorem setSwath_mod (k : Nat) (x : Swath) : (setSwath k x s).mod = s.mod := rfl

/-! `modSwath` -/

@[simp] theorem modSwath_pending (k : Nat) (f : Swath → Swath) : (modSwath k f s).pending = s.pending := rfl
@[simp] theorem modSwath_now (k : Nat) (f : Swath → Swath) : (modSwath k f s).now = s.now := rfl
@[simp] theorem modSwath_free (k : Nat) (f : Swath → Swath) : (modSwath k f s).free = s.free := rfl
@[simp] theorem modSwath_out (k : Nat) (f : Swath → Swath) : (modSwath k f s).out = s.out := rfl
@[simp] theorem modSwath_fuse (k : Nat) (f : Swath → Swath) : (modSwath k f s).fuse = s.fuse := rfl
@[simp] theorem modSwath_cln (k : Nat) (f : Swath → Swath) : (modSwath k f s).cln = s.cln := rfl
@[simp] theorem modSwath_fld (k : Nat) (f : Swath → Swath) : (modSwath k f s).fld = s.fld := rfl
@[simp] theorem modSwath_kln (k : Nat) (f : Swath → Swath) : (modSwath k f s).kln = s.kln := rfl
@[simp] theorem modSwath_emb (k : Nat) (f : Swath → Swath) : (modSwath k f s).emb = s.emb := rfl
@[simp] theorem modSwath_tir (k : Nat) (f : Swath → Swath) : (modSwath k f s).tir = s.tir := rfl
@[simp] theorem modSwath_chr (k : Nat) (f : Swath → Swath) : (modSwath k f s).chr = s.chr := rfl
@[simp] theorem modSwath_sdb (k : Nat) (f : Swath → Swath) : (modSwath k f s).sdb = s.sdb := rfl
@[simp] theorem modSwath_hlt (k : Nat) (f : Swath → Swath) : (modSwath k f s).hlt = s.hlt := rfl
@[simp] theorem modSwath_sec (k : Nat) (f : Swath → Swath) : (modSwath k f s).sec = s.sec := rfl
@[simp] theorem modSwath_oln (k : Nat) (f : Swath → Swath) : (modSwath k f s).oln = s.oln := rfl
@[simp] theorem modSwath_trn (k : Nat) (f : Swath → Swath) : (modSwath k f s).trn = s.trn := rfl
@[simp] theorem modSwath_hdl (k : Nat) (f : Swath → Swath) : (modSwath k f s).hdl = s.hdl := rfl
@[simp] theorem modSwath_mod (k : Nat) (f : Swath → Swath) : (modSwath k f s).mod = s.mod := rfl

/-! `setRun` -/

@[simp] theorem setRun_pending (k : Nat) (r : Run) : (setRun k r s).pending = s.pending := rfl
@[simp] theorem setRun_now (k : Nat) (r : Run) : (setRun k r s).now = s.now := rfl
@[simp] theorem setRun_free (k : Nat) (r : Run) : (setRun k r s).free = s.free := rfl
@[simp] theorem setRun_out (k : Nat) (r : Run) : (setRun k r s).out = s.out := rfl
@[simp] theorem setRun_fuse (k : Nat) (r : Run) : (setRun k r s).fuse = s.fuse := rfl
@[simp] theorem setRun_cln (k : Nat) (r : Run) : (setRun k r s).cln = s.cln := rfl
@[simp] theorem setRun_kln (k : Nat) (r : Run) : (setRun k r s).kln = s.kln := rfl
@[simp] theorem setRun_emb (k : Nat) (r : Run) : (setRun k r s).emb = s.emb := rfl
@[simp] theorem setRun_tir (k : Nat) (r : Run) : (setRun k r s).tir = s.tir := rfl
@[simp] theorem setRun_chr (k : Nat) (r : Run) : (setRun k r s).chr = s.chr := rfl
@[simp] theorem setRun_sdb (k : Nat) (r : Run) : (setRun k r s).sdb = s.sdb := rfl
@[simp] theorem setRun_gln (k : Nat) (r : Run) : (setRun k r s).gln = s.gln := rfl
@[simp] theorem setRun_hlt (k : Nat) (r : Run) : (setRun k r s).hlt = s.hlt := rfl
@[simp] theorem setRun_sec (k : Nat) (r : Run) : (setRun k r s).sec = s.sec := rfl
@[simp] theorem setRun_oln (k : Nat) (r : Run) : (setRun k r s).oln = s.oln := rfl
@[simp] theorem setRun_trn (k : Nat) (r : Run) : (setRun k r s).trn = s.trn := rfl
@[simp] theorem setRun_hdl (k : Nat) (r : Run) : (setRun k r s).hdl = s.hdl := rfl
@[simp] theorem setRun_mod (k : Nat) (r : Run) : (setRun k r s).mod = s.mod := rfl

/-! `setSensor` -/

@[simp] theorem setSensor_pending (n : Nat) (x : Sensor) : (setSensor n x s).pending = s.pending := rfl
@[simp] theorem setSensor_now (n : Nat) (x : Sensor) : (setSensor n x s).now = s.now := rfl
@[simp] theorem setSensor_free (n : Nat) (x : Sensor) : (setSensor n x s).free = s.free := rfl
@[simp] theorem setSensor_out (n : Nat) (x : Sensor) : (setSensor n x s).out = s.out := rfl
@[simp] theorem setSensor_fuse (n : Nat) (x : Sensor) : (setSensor n x s).fuse = s.fuse := rfl
@[simp] theorem setSensor_cln (n : Nat) (x : Sensor) : (setSensor n x s).cln = s.cln := rfl
@[simp] theorem setSensor_fld (n : Nat) (x : Sensor) : (setSensor n x s).fld = s.fld := rfl
@[simp] theorem setSensor_kln (n : Nat) (x : Sensor) : (setSensor n x s).kln = s.kln := rfl
@[simp] theorem setSensor_emb (n : Nat) (x : Sensor) : (setSensor n x s).emb = s.emb := rfl
@[simp] theorem setSensor_tir (n : Nat) (x : Sensor) : (setSensor n x s).tir = s.tir := rfl
@[simp] theorem setSensor_chr (n : Nat) (x : Sensor) : (setSensor n x s).chr = s.chr := rfl
@[simp] theorem setSensor_sdb (n : Nat) (x : Sensor) : (setSensor n x s).sdb = s.sdb := rfl
@[simp] theorem setSensor_gln (n : Nat) (x : Sensor) : (setSensor n x s).gln = s.gln := rfl
@[simp] theorem setSensor_hlt (n : Nat) (x : Sensor) : (setSensor n x s).hlt = s.hlt := rfl
@[simp] theorem setSensor_sec (n : Nat) (x : Sensor) : (setSensor n x s).sec = s.sec := rfl
@[simp] theorem setSensor_oln (n : Nat) (x : Sensor) : (setSensor n x s).oln = s.oln := rfl
@[simp] theorem setSensor_trn (n : Nat) (x : Sensor) : (setSensor n x s).trn = s.trn := rfl
@[simp] theorem setSensor_hdl (n : Nat) (x : Sensor) : (setSensor n x s).hdl = s.hdl := rfl

/-! `setConn` -/

@[simp] theorem setConn_pending (p : MctpPath) (c : SpdmConn) : (setConn p c s).pending = s.pending := rfl
@[simp] theorem setConn_now (p : MctpPath) (c : SpdmConn) : (setConn p c s).now = s.now := rfl
@[simp] theorem setConn_free (p : MctpPath) (c : SpdmConn) : (setConn p c s).free = s.free := rfl
@[simp] theorem setConn_out (p : MctpPath) (c : SpdmConn) : (setConn p c s).out = s.out := rfl
@[simp] theorem setConn_fuse (p : MctpPath) (c : SpdmConn) : (setConn p c s).fuse = s.fuse := rfl
@[simp] theorem setConn_cln (p : MctpPath) (c : SpdmConn) : (setConn p c s).cln = s.cln := rfl
@[simp] theorem setConn_fld (p : MctpPath) (c : SpdmConn) : (setConn p c s).fld = s.fld := rfl
@[simp] theorem setConn_kln (p : MctpPath) (c : SpdmConn) : (setConn p c s).kln = s.kln := rfl
@[simp] theorem setConn_emb (p : MctpPath) (c : SpdmConn) : (setConn p c s).emb = s.emb := rfl
@[simp] theorem setConn_tir (p : MctpPath) (c : SpdmConn) : (setConn p c s).tir = s.tir := rfl
@[simp] theorem setConn_chr (p : MctpPath) (c : SpdmConn) : (setConn p c s).chr = s.chr := rfl
@[simp] theorem setConn_sdb (p : MctpPath) (c : SpdmConn) : (setConn p c s).sdb = s.sdb := rfl
@[simp] theorem setConn_gln (p : MctpPath) (c : SpdmConn) : (setConn p c s).gln = s.gln := rfl
@[simp] theorem setConn_hlt (p : MctpPath) (c : SpdmConn) : (setConn p c s).hlt = s.hlt := rfl
@[simp] theorem setConn_oln (p : MctpPath) (c : SpdmConn) : (setConn p c s).oln = s.oln := rfl
@[simp] theorem setConn_trn (p : MctpPath) (c : SpdmConn) : (setConn p c s).trn = s.trn := rfl
@[simp] theorem setConn_hdl (p : MctpPath) (c : SpdmConn) : (setConn p c s).hdl = s.hdl := rfl
@[simp] theorem setConn_mod (p : MctpPath) (c : SpdmConn) : (setConn p c s).mod = s.mod := rfl

/-! `setDrain` -/

@[simp] theorem setDrain_pending (d : Drain) : (setDrain d s).pending = s.pending := rfl
@[simp] theorem setDrain_now (d : Drain) : (setDrain d s).now = s.now := rfl
@[simp] theorem setDrain_free (d : Drain) : (setDrain d s).free = s.free := rfl
@[simp] theorem setDrain_out (d : Drain) : (setDrain d s).out = s.out := rfl
@[simp] theorem setDrain_fuse (d : Drain) : (setDrain d s).fuse = s.fuse := rfl
@[simp] theorem setDrain_cln (d : Drain) : (setDrain d s).cln = s.cln := rfl
@[simp] theorem setDrain_fld (d : Drain) : (setDrain d s).fld = s.fld := rfl
@[simp] theorem setDrain_kln (d : Drain) : (setDrain d s).kln = s.kln := rfl
@[simp] theorem setDrain_emb (d : Drain) : (setDrain d s).emb = s.emb := rfl
@[simp] theorem setDrain_tir (d : Drain) : (setDrain d s).tir = s.tir := rfl
@[simp] theorem setDrain_chr (d : Drain) : (setDrain d s).chr = s.chr := rfl
@[simp] theorem setDrain_sdb (d : Drain) : (setDrain d s).sdb = s.sdb := rfl
@[simp] theorem setDrain_gln (d : Drain) : (setDrain d s).gln = s.gln := rfl
@[simp] theorem setDrain_sec (d : Drain) : (setDrain d s).sec = s.sec := rfl
@[simp] theorem setDrain_oln (d : Drain) : (setDrain d s).oln = s.oln := rfl
@[simp] theorem setDrain_trn (d : Drain) : (setDrain d s).trn = s.trn := rfl
@[simp] theorem setDrain_hdl (d : Drain) : (setDrain d s).hdl = s.hdl := rfl
@[simp] theorem setDrain_mod (d : Drain) : (setDrain d s).mod = s.mod := rfl

end Sys2Proof.Machine
end

