-- ==== Sys2Proof/Laws/Tables.lean ====
section
/-! SUPPORT. The laws of the sparse tables and of the accessors over them: an entry reads as it was last set, and setting one leaves the others. -/

namespace Sys2Proof.Machine

variable {α : Type} {s : State}

@[simp] theorem tblGet?_tblSet_same (t : Tbl α) (k : Nat) (x : α) : tblGet? (tblSet t k x) k = some x := by
  induction t with
  | nil => simp [tblSet, tblGet?]
  | cons e t ih =>
    obtain ⟨j, v⟩ := e
    rw [tblSet]
    split
    · simp [tblGet?]
    · split
      · simp [tblGet?]
      · rename_i h
        simp only [beq_iff_eq] at h
        simp [tblGet?, h, ih]

theorem tblGet?_tblSet_other (t : Tbl α) {j k : Nat} (x : α) (h : j ≠ k) : tblGet? (tblSet t k x) j = tblGet? t j := by
  induction t with
  | nil => simp [tblSet, tblGet?, Ne.symm h]
  | cons e t ih =>
    obtain ⟨i, v⟩ := e
    rw [tblSet]
    split
    · simp [tblGet?, Ne.symm h]
    · split
      · rename_i hi
        simp only [beq_iff_eq] at hi
        subst hi
        simp [tblGet?, Ne.symm h]
      · simp only [tblGet?, ih]

theorem tblGet?_tblDel_other (t : Tbl α) {j k : Nat} (h : j ≠ k) : tblGet? (tblDel t k) j = tblGet? t j := by
  induction t with
  | nil => rfl
  | cons e t ih =>
    obtain ⟨i, v⟩ := e
    rw [tblDel]
    split
    · rename_i hi
      simp only [beq_iff_eq] at hi
      subst hi
      simp [tblGet?, Ne.symm h]
    · simp only [tblGet?, ih]

@[simp] theorem tblGetD_tblSet_same (t : Tbl α) (k : Nat) (x d : α) : tblGetD (tblSet t k x) k d = x := by simp [tblGetD]
theorem tblGetD_tblSet_other (t : Tbl α) {j k : Nat} (x d : α) (h : j ≠ k) : tblGetD (tblSet t k x) j d = tblGetD t j d := by
  simp [tblGetD, tblGet?_tblSet_other t x h]
@[simp] theorem tblHas_tblSet_same (t : Tbl α) (k : Nat) (x : α) : tblHas (tblSet t k x) k = true := by simp [tblHas]

/-- Setting an entry twice leaves the later value. -/
@[simp] theorem tblSet_tblSet (t : Tbl α) (k : Nat) (x y : α) : tblSet (tblSet t k x) k y = tblSet t k y := by
  induction t with
  | nil => simp [tblSet]
  | cons e t ih =>
    obtain ⟨j, v⟩ := e
    rw [tblSet, tblSet]
    split
    · simp [tblSet]
    · split
      · rename_i h1 h2
        simp only [beq_iff_eq] at h2
        subst h2
        simp [tblSet]
      · rename_i h1 h2
        simp only [tblSet, h1, h2, if_false, ih, Bool.false_eq_true]

@[simp] theorem getMbx_setMbx (ch : Nat) (m : Mbx) : getMbx (setMbx ch m s) ch = m := by simp [getMbx, setMbx]
theorem getMbx_setMbx_other {ch k : Nat} (m : Mbx) (h : k ≠ ch) : getMbx (setMbx ch m s) k = getMbx s k := tblGetD_tblSet_other _ _ _ h
@[simp] theorem setMbx_setMbx (ch : Nat) (m n : Mbx) : setMbx ch n (setMbx ch m s) = setMbx ch n s := by simp [setMbx]
@[simp] theorem getRing_setRing (r : Nat) (x : Ring) : getRing (setRing r x s) r = x := by simp [getRing, setRing]
theorem getRing_setRing_other {r k : Nat} (x : Ring) (h : k ≠ r) : getRing (setRing r x s) k = getRing s k := tblGetD_tblSet_other _ _ _ h
@[simp] theorem getChan_setChan (m : Nat) (c : Chan) : getChan (setChan m c s) m = c := by simp [getChan, setChan]
theorem getChan_setChan_other {m k : Nat} (c : Chan) (h : k ≠ m) : getChan (setChan m c s) k = getChan s k := tblGetD_tblSet_other _ _ _ h
@[simp] theorem getCore_setCore (n : Nat) (c : Core) : getCore (setCore n c s) n = c := by simp [getCore, setCore]
theorem getCore_setCore_other {n k : Nat} (c : Core) (h : k ≠ n) : getCore (setCore n c s) k = getCore s k := by
  unfold getCore setCore
  simp only [tblGet?_tblSet_other _ _ h]
  rfl

end Sys2Proof.Machine
end

