-- ==== Sys2Proof/Laws/Commands.lean ====
section
/-! SUPPORT. Everything that running a command can do, in the states in which the general checks let it through. -/

namespace Sys2Proof.Machine

/-- A command that may not start yet is put behind those that wait. -/
theorem runCmd_behind {u v : Nat} {c : Cmd} {s : State} (body : Nat → Cmd → State → Answer × State) (h : mayStart c s = false) : runCmd u v c body s = putBehind c s := by
  unfold runCmd
  rw [if_neg (by simp [h])]

/-- A command that a general check ends completes with that check's status. -/
theorem runCmd_refused {u v : Nat} {c : Cmd} {s : State} {d : Done} (body : Nat → Cmd → State → Answer × State) (hm : mayStart c s = true) (h : gate u v (cmdRead c s) (orderState c s) = some d) :
    runCmd u v c body s = complete (orderOf c s) (cmdRead c s) d (orderState c s) := by
  have h' : gate u v (withInput c (takeOrder c s).2) (takeOrder c s).2 = some d := h
  unfold runCmd
  rw [if_pos hm]
  simp only [startCmd, h']
  rfl

/-- A command that may start and that the general checks let through comes to what its unit answers: its completion, or that it is in flight. -/
theorem runCmd_gate {u v : Nat} {c : Cmd} {s : State} (body : Nat → Cmd → State → Answer × State) (hm : mayStart c s = true) (h : gate u v (cmdRead c s) (orderState c s) = none) :
    runCmd u v c body s = match body (orderOf c s) (cmdRead c s) (orderState c s) with
      | (.done d, t) => complete (orderOf c s) (cmdRead c s) d t
      | (.wait, t) => { t with cln := { t.cln with inflight := tblSet t.cln.inflight (orderOf c s) (cmdRead c s) } } := by
  have h' : gate u v (withInput c (takeOrder c s).2) (takeOrder c s).2 = none := h
  unfold runCmd
  rw [if_pos hm]
  simp only [startCmd, h']
  rfl

theorem runCmd_done {u v : Nat} {own : Cmd → State → Prop} {c : Cmd} {s t : State} {d : Done} (body : Nat → Cmd → State → Answer × State) (h : admits u v own c s)
    (hb : body (orderOf c s) (cmdRead c s) (orderState c s) = (.done d, t)) : runCmd u v c body s = complete (orderOf c s) (cmdRead c s) d t := by
  rw [runCmd_gate body h.1 h.2.1, hb]

theorem runCmd_wait {u v : Nat} {own : Cmd → State → Prop} {c : Cmd} {s t : State} (body : Nat → Cmd → State → Answer × State) (h : admits u v own c s)
    (hb : body (orderOf c s) (cmdRead c s) (orderState c s) = (.wait, t)) :
    runCmd u v c body s = { t with cln := { t.cln with inflight := tblSet t.cln.inflight (orderOf c s) (cmdRead c s) } } := by
  rw [runCmd_gate body h.1 h.2.1, hb]

/-- What a row that runs a command does where the command ends at once. -/
theorem ends_of {after : State → State} {u v : Nat} {row : Cmd → Instr} {own : Cmd → State → Prop} {d : Cmd → State → Done} {eff : Cmd → State → State} {body : Nat → Cmd → State → Answer × State}
    (he : ∀ c s, exec (row c) s = .next (after (runCmd u v c body s))) (hb : ∀ o c s, own c s → body o c s = (.done (d c s), eff c s)) :
    EndsThen after u v row own d eff := by
  intro c s h
  rw [he, runCmd_done body h (hb _ _ _ h.2.2)]

/-- What a row that runs a command does where the command is in flight afterwards. -/
theorem waits_of {after : State → State} {u v : Nat} {row : Cmd → Instr} {own : Cmd → State → Prop} {eff : Nat → Cmd → State → State} {body : Nat → Cmd → State → Answer × State}
    (he : ∀ c s, exec (row c) s = .next (after (runCmd u v c body s))) (hb : ∀ o c s, own c s → body o c s = (.wait, eff o c s)) :
    WaitsThen after u v row own eff := by
  intro c s h
  rw [he, runCmd_wait body h (hb _ _ _ h.2.2)]

/-- The state in which a command runs knows the order number that it has. -/
theorem orderState_current (c : Cmd) (s : State) : (orderState c s).cln.current = orderOf c s := by
  unfold orderState orderOf takeOrder
  split <;> rfl

/-- The same as `ends_of` for a body that needs to know that its order number is the one that the state holds. -/
theorem ends_current {after : State → State} {u v : Nat} {row : Cmd → Instr} {own : Cmd → State → Prop} {d : Cmd → State → Done} {eff : Cmd → State → State} {body : Nat → Cmd → State → Answer × State}
    (he : ∀ c s, exec (row c) s = .next (after (runCmd u v c body s))) (hb : ∀ c s, own c s → body s.cln.current c s = (.done (d c s), eff c s)) :
    EndsThen after u v row own d eff := by
  intro c s h
  rw [he, runCmd_done (t := eff (cmdRead c s) (orderState c s)) body h (by have := hb _ _ h.2.2; rwa [orderState_current] at this)]

/-- The same as `waits_of` for a body that needs to know that its order number is the one that the state holds. -/
theorem waits_current {after : State → State} {u v : Nat} {row : Cmd → Instr} {own : Cmd → State → Prop} {eff : Nat → Cmd → State → State} {body : Nat → Cmd → State → Answer × State}
    (he : ∀ c s, exec (row c) s = .next (after (runCmd u v c body s))) (hb : ∀ c s, own c s → body s.cln.current c s = (.wait, eff s.cln.current c s)) :
    WaitsThen after u v row own eff := by
  intro c s h
  rw [he, runCmd_wait (t := eff (orderOf c s) (cmdRead c s) (orderState c s)) body h (by have := hb _ _ h.2.2; rwa [orderState_current] at this)]

/-- A mailbox opcode row whose word waits runs its action on the word. -/
theorem withAccepted_ready {ch op : Nat} {s : State} (act : Accepted → State → State) (h : wordReady ch op s = true) :
    withAccepted ch op act s = act (oldestWord ch s) (wordState ch s) := by
  unfold wordReady at h
  unfold withAccepted oldestWord wordState
  dsimp only
  cases hm : (getMbx s ch).accepted with
  | nil => simp [hm] at h
  | cons a rest =>
    rw [hm] at h
    simp only [Bool.and_eq_true, Bool.not_eq_true'] at h
    obtain ⟨⟨⟨h1, h2⟩, h3⟩, h4⟩ := h
    simp [h1, h2, h3, h4]

/-- The same for an opcode that firmware answers. -/
theorem withWord_ready {ch op : Nat} {s : State} (act : Nat → Nat → List Byte → State → State) (h : wordReady ch op s = true) :
    withWord ch op act s = act (wordTag (oldestWord ch s).word) (wordArg (oldestWord ch s).word) (oldestWord ch s).param (wordState ch s) :=
  withAccepted_ready _ h

/-- A DATA frame of a row that is the next of its flow is acted on. -/
theorem receive_inOrder {mine : Nat → Bool} {f : TFrame} {s : State} (act : Nat → OutFrame → State → Verdict × State) (hm : mine f.op = true) (h : inOrder f s) :
    receive mine f act s = actOn (flowOf f) (frameOut f s) act (frameState f s) := by
  obtain ⟨h1, h2, h3⟩ := h
  unfold receive
  rw [if_neg (by simp [h1, hm])]
  generalize hs : screened f s = x at h2 h3
  have hs' : screen (takeArrived f s).1 (takeArrived f s).2.1 f (takeArrived f s).2.2 = x := hs
  obtain ⟨b, u⟩ := x
  dsimp only at h2 h3
  subst h2
  dsimp only
  rw [hs']
  dsimp only
  have hf : frameState f s = (standing (flowOf f) f u).2 := by unfold frameState; rw [hs]
  rw [hf]
  generalize hu : standing (flowOf f) f u = y at h3
  have hu' : standing (slotKey f.dstCtx f.srcNode f.srcCtx) f u = y := hu
  obtain ⟨w, v⟩ := y
  dsimp only at h3
  subst h3
  rw [hu']
  rfl

/-- Acting on a frame of a defined operation that is accepted. -/
theorem actOn_accept {o : OutFrame} {s t : State} (act : Nat → OutFrame → State → Verdict × State) (hd : definedOps.contains o.frame.op = true)
    (h : act (flowOf o.frame) o s = (.accept, t)) : actOn (flowOf o.frame) o act s = acceptFrame o t := by
  unfold actOn
  rw [if_pos hd, h]
  rfl

/-- What a row that receives a frame does where the frame is the next of its flow and is accepted. -/
theorem frameRow_of {after : State → State} {op : Nat} {row : TFrame → Instr} {own : OutFrame → State → Prop} {eff : OutFrame → State → State} {mine : Nat → Bool} {act : Nat → OutFrame → State → Verdict × State}
    (hm : mine op = true) (hd : definedOps.contains op = true) (he : ∀ f s, f.op = op → own (frameOut f s) (frameState f s) → exec (row f) s = .next (after (receive mine f act s)))
    (ha : ∀ o s, o.frame.op = op → own o s → act (flowOf o.frame) o s = (.accept, eff o s)) : FrameRow after op row own eff := by
  intro f s h1 h2 h3
  rw [he f s h1 h3, receive_inOrder act (by rw [h1]; exact hm) h2, show flowOf f = flowOf (frameOut f s).frame from rfl, actOn_accept act (by rw [show (frameOut f s).frame.op = op from h1]; exact hd) (ha _ _ h1 h3)]

/-- The same for a row whose action names the frame that it is given. -/
theorem frameRow_self {after : State → State} {op : Nat} {row : TFrame → Instr} {own : OutFrame → State → Prop} {eff : OutFrame → State → State} {mine : Nat → Bool} {act : TFrame → Nat → OutFrame → State → Verdict × State}
    (hm : mine op = true) (hd : definedOps.contains op = true) (he : ∀ f s, exec (row f) s = .next (after (receive mine f (act f) s)))
    (ha : ∀ o s, own o s → act o.frame (flowOf o.frame) o s = (.accept, eff o s)) : FrameRow after op row own eff := by
  intro f s h1 h2 h3
  rw [he f s, receive_inOrder (act f) (by rw [h1]; exact hm) h2, show flowOf f = flowOf (frameOut f s).frame from rfl,
    actOn_accept (act f) (by rw [show (frameOut f s).frame.op = op from h1]; exact hd) (ha (frameOut f s) _ h3)]

/-- A frame that is not DATA acts on the slot of its flow. -/
theorem control_reachesSlot {typ : Nat} {ok : TFrame → Bool} {f : TFrame} {x : Slot} {s : State} (act : Nat → Slot → State → State) (hk : ok f = true) (h : reachesSlot typ f x s) :
    control typ ok f act s = act (flowOf f) x (screened f s).2 := by
  obtain ⟨h1, h2, h3⟩ := h
  unfold control
  rw [if_neg (by simp [h1, hk])]
  generalize hs : screened f s = y at h2 h3
  have hs' : screen (takeArrived f s).1 (takeArrived f s).2.1 f (takeArrived f s).2.2 = y := hs
  obtain ⟨b, u⟩ := y
  dsimp only at h2 h3
  subst h2
  dsimp only
  rw [hs']
  dsimp only
  have h3' : getSlot? u (slotKey f.dstCtx f.srcNode f.srcCtx) = some x := h3
  rw [h3']
  rfl

/-- A PCIe access that R40 lets through acts. -/
theorem mbxAccess_open {ch off : Nat} {ide : IdeTag} {s : State} (act : State → State) (h : mbxOpen ch ide s = true) :
    mbxAccess ch off ide act s = act (lightAct 0 s) := by
  simp only [mbxOpen, Bool.and_eq_true, Bool.not_eq_true', decide_eq_true_eq, Bool.or_eq_true] at h
  obtain ⟨⟨⟨h1, h2⟩, h3⟩, h4⟩ := h
  have hq : qualifies (lightAct 0 s) ide = qualifies s ide := rfl
  have hb : barsClosed (lightAct 0 s) = barsClosed s := rfl
  unfold mbxAccess
  simp only [hb, h1, h3, hq, Bool.false_eq_true, if_false, Bool.or_false, decide_eq_true_eq]
  rw [if_neg (by omega)]
  have : (decide (ch < 6) && !qualifies s ide) = false := by
    rcases h4 with h4 | h4
    · have : ¬ ch < 6 := by omega
      simp [this]
    · simp [h4]
  simp [this]

end Sys2Proof.Machine
end

