-- ==== Sys2Proof/Laws/Events.lean ====
section
/-! SUPPORT. Everything that raising an event and judging an order can change: Cloni's state, the logs, the outputs and the activity lights. -/

namespace Sys2Proof.Machine

/-- The units as they were: all of the state but Cloni's, the logs and counts of health, the outputs, the free values and the activity lights. -/
structure SameUnits (s t : State) : Prop where
  fuse : t.fuse = s.fuse
  fld  : t.fld = s.fld
  kln  : t.kln = s.kln
  emb  : t.emb = s.emb
  tir  : t.tir = s.tir
  chr  : t.chr = s.chr
  sdb  : t.sdb = s.sdb
  gln  : t.gln = s.gln
  sec  : t.sec = s.sec
  oln  : t.oln = s.oln
  trn  : t.trn = s.trn
  hdl  : t.hdl = s.hdl
  now  : t.now = s.now
  retired : t.hlt.retired = s.hlt.retired
  mod  : { t.mod with act := [] } = { s.mod with act := [] }

theorem sameUnits_refl (s : State) : SameUnits s s := ⟨rfl, rfl, rfl, rfl, rfl, rfl, rfl, rfl, rfl, rfl, rfl, rfl, rfl, rfl, rfl⟩

theorem sameUnits_trans {r s t : State} (a : SameUnits r s) (b : SameUnits s t) : SameUnits r t :=
  ⟨b.fuse.trans a.fuse, b.fld.trans a.fld, b.kln.trans a.kln, b.emb.trans a.emb, b.tir.trans a.tir, b.chr.trans a.chr, b.sdb.trans a.sdb, b.gln.trans a.gln,
   b.sec.trans a.sec, b.oln.trans a.oln, b.trn.trans a.trn, b.hdl.trans a.hdl, b.now.trans a.now, b.retired.trans a.retired, b.mod.trans a.mod⟩

/-- Only what raising an event changes: no unit, and of Cloni the event queue and the pending vectors at most. -/
structure RaiseOnly (s t : State) : Prop extends SameUnits s t where
  cln : { t.cln with eq := none, pba := [] } = { s.cln with eq := none, pba := [] }

/-- A field of Cloni other than the event queue and the pending vectors is as it was. -/
theorem raiseOnly_field {β : Type} (g : Cln → β) {k l : Cln} (h : { k with eq := none, pba := [] } = { l with eq := none, pba := [] })
    (hg : ∀ k : Cln, g { k with eq := none, pba := [] } = g k := by intro _; rfl) : g k = g l := (hg k).symm.trans ((congrArg g h).trans (hg l))

theorem raiseOnly_refl (s : State) : RaiseOnly s s := ⟨sameUnits_refl s, rfl⟩

theorem raiseOnly_trans {r s t : State} (a : RaiseOnly r s) (b : RaiseOnly s t) : RaiseOnly r t := ⟨sameUnits_trans a.toSameUnits b.toSameUnits, b.cln.trans a.cln⟩

theorem raiseOnly_foldl {α : Type} {f : State → α → State} (h : ∀ s a, RaiseOnly s (f s a)) (l : List α) (s : State) : RaiseOnly s (l.foldl f s) := by
  induction l generalizing s with
  | nil => exact raiseOnly_refl s
  | cons a l ih => exact raiseOnly_trans (h s a) (ih _)

theorem raiseOnly_lightAct (n : Nat) (s : State) : RaiseOnly s (lightAct n s) := ⟨⟨rfl, rfl, rfl, rfl, rfl, rfl, rfl, rfl, rfl, rfl, rfl, rfl, rfl, rfl, rfl⟩, rfl⟩

theorem raiseOnly_emit (o : Out) (s : State) : RaiseOnly s (emit o s) := by
  unfold emit; dsimp only; split
  · exact ⟨⟨rfl, rfl, rfl, rfl, rfl, rfl, rfl, rfl, rfl, rfl, rfl, rfl, rfl, rfl, rfl⟩, rfl⟩
  · exact ⟨⟨rfl, rfl, rfl, rfl, rfl, rfl, rfl, rfl, rfl, rfl, rfl, rfl, rfl, rfl, rfl⟩, rfl⟩

theorem raiseOnly_raiseVector (v : Nat) (s : State) : RaiseOnly s (raiseVector v s) := by
  unfold raiseVector; split
  · exact ⟨⟨rfl, rfl, rfl, rfl, rfl, rfl, rfl, rfl, rfl, rfl, rfl, rfl, rfl, rfl, rfl⟩, rfl⟩
  · exact raiseOnly_emit _ _

theorem raiseOnly_logRecord (e : EvRec) (s : State) : RaiseOnly s (logRecord e s) := by
  unfold logRecord; split <;> exact ⟨⟨rfl, rfl, rfl, rfl, rfl, rfl, rfl, rfl, rfl, rfl, rfl, rfl, rfl, rfl, rfl⟩, rfl⟩

theorem raiseOnly_eqRefresh (s : State) : RaiseOnly s (eqRefresh s) := by
  unfold eqRefresh; split
  · exact raiseOnly_refl s
  · dsimp only; split <;> split <;> exact ⟨⟨rfl, rfl, rfl, rfl, rfl, rfl, rfl, rfl, rfl, rfl, rfl, rfl, rfl, rfl, rfl⟩, rfl⟩

theorem raiseOnly_takeSeq (s : State) : RaiseOnly s (takeSeq s).2 := ⟨⟨rfl, rfl, rfl, rfl, rfl, rfl, rfl, rfl, rfl, rfl, rfl, rfl, rfl, rfl, rfl⟩, rfl⟩

theorem raiseOnly_setEq (s : State) (q : Option EventQueue) : RaiseOnly s { s with cln := { s.cln with eq := q } } :=
  ⟨⟨rfl, rfl, rfl, rfl, rfl, rfl, rfl, rfl, rfl, rfl, rfl, rfl, rfl, rfl, rfl⟩, rfl⟩

theorem raiseOnly_eqWrite (e : EvRec) (s : State) : RaiseOnly s (eqWrite e s) := by
  unfold eqWrite; split
  · exact raiseOnly_refl s
  · exact raiseOnly_trans (raiseOnly_emit _ s) (raiseOnly_trans (raiseOnly_setEq _ _) (raiseOnly_raiseVector _ _))

theorem raiseOnly_write (e : EvRec) (q : Option EventQueue) (s : State) : RaiseOnly s (logRecord e (eqWrite e { s with cln := { s.cln with eq := q } })) :=
  raiseOnly_trans (raiseOnly_setEq s q) (raiseOnly_trans (raiseOnly_eqWrite _ _) (raiseOnly_logRecord _ _))

theorem raiseOnly_putRecord (e : EvRec) (s : State) : RaiseOnly s (putRecord e s) := by
  unfold putRecord
  refine raiseOnly_trans (raiseOnly_eqRefresh s) ?_
  dsimp only
  split
  · exact raiseOnly_trans (raiseOnly_takeSeq _) (raiseOnly_logRecord _ _)
  · split
    · exact raiseOnly_trans (raiseOnly_takeSeq _) (raiseOnly_logRecord _ _)
    · split
      · exact raiseOnly_trans (raiseOnly_setEq _ _) (raiseOnly_trans (raiseOnly_takeSeq _) (raiseOnly_logRecord _ _))
      · split
        · exact raiseOnly_trans (raiseOnly_takeSeq _) (raiseOnly_trans (raiseOnly_eqWrite _ _) (raiseOnly_logRecord _ _))
        · refine raiseOnly_trans (raiseOnly_takeSeq _) ?_
          generalize hx : logRecord _ (eqWrite _ _) = x
          have hx' : RaiseOnly (takeSeq (eqRefresh s)).2 x := by rw [← hx]; exact raiseOnly_write _ _ _
          refine raiseOnly_trans hx' ?_
          refine raiseOnly_trans (raiseOnly_takeSeq _) ?_
          split
          · exact raiseOnly_refl _
          · split
            · exact raiseOnly_trans (raiseOnly_setEq _ _) (raiseOnly_logRecord _ _)
            · exact raiseOnly_trans (raiseOnly_eqWrite _ _) (raiseOnly_logRecord _ _)

theorem raiseOnly_raiseN (code : EventCode) (inj : Bool) (n : Nat) (dst : List Rcpt) (d : List Byte) (s : State) : RaiseOnly s (raiseN code inj n dst d s) :=
  raiseOnly_foldl (fun _ _ => raiseOnly_putRecord _ _) _ _

theorem raiseOnly_raise (code : EventCode) (dst : List Rcpt) (d : List Byte) (s : State) : RaiseOnly s (raise code dst d s) := raiseOnly_raiseN _ _ _ _ _ _

theorem raiseOnly_raiseNode (code : EventCode) (d : List Byte) (s : State) : RaiseOnly s (raiseNode code d s) := raiseOnly_raise _ _ _ _

theorem raiseOnly_setHlt (s : State) (h : Hlt) (e : h.retired = s.hlt.retired) : RaiseOnly s { s with hlt := h } :=
  ⟨⟨rfl, rfl, rfl, rfl, rfl, rfl, rfl, rfl, rfl, rfl, rfl, rfl, rfl, e, rfl⟩, rfl⟩

theorem raiseOnly_afterHlt {s t : State} {h : Hlt} (k : RaiseOnly { s with hlt := h } t) (e : h.retired = s.hlt.retired) : RaiseOnly s t :=
  raiseOnly_trans (raiseOnly_setHlt s h e) k

/-- Raising an event that its rule limits to a rate (R466). -/
theorem raiseOnly_raiseLimited (code : EventCode) (inj : Bool) (obj period : Nat) (dst : List Rcpt) (d : List Byte) (s : State) :
    RaiseOnly s (raiseLimited code inj obj period dst d s) := by
  unfold raiseLimited
  split
  · split
    · exact raiseOnly_setHlt _ _ rfl
    · exact raiseOnly_afterHlt (raiseOnly_raiseN _ _ _ _ _ _) rfl
  · exact raiseOnly_afterHlt (raiseOnly_raiseN _ _ _ _ _ _) rfl

theorem raiseOnly_ite {s : State} {α : Type} {c : Prop} [Decidable c] {a b : α × State} (ha : RaiseOnly s a.2) (hb : RaiseOnly s b.2) : RaiseOnly s (if c then a else b).2 := by
  split <;> assumption

/-- A detector's opportunity changes the arms and raises SPARK_FIRED at most (R468, R470). -/
theorem raiseOnly_sparkCheck (spark inst : Nat) (s : State) : RaiseOnly s (sparkCheck spark inst s).2 := by
  unfold sparkCheck
  split
  · exact raiseOnly_refl s
  · exact raiseOnly_ite (raiseOnly_afterHlt (raiseOnly_raiseLimited _ _ _ _ _ _ _) rfl) (raiseOnly_setHlt _ _ rfl)

/-- A TLP of the host changes the arms and raises SPARK_FIRED at most (R468). -/
theorem raiseOnly_hostTlp (s : State) : RaiseOnly s (hostTlp s) := raiseOnly_sparkCheck _ _ s

/-- Without an arm of spark 0x0102 a TLP changes nothing of its own. -/
theorem hostTlp_unarmed {s : State} (h : ∀ e ∈ s.hlt.arms, e.2.spark ≠ 0x0102) : hostTlp s = s := by
  have : s.hlt.arms.find? (fun e => e.2.spark == 0x0102 && (e.2.inst == 0xFFFF || e.2.inst == 0) && armLive s e.2) = none :=
    List.find?_eq_none.mpr (fun e he => by simp [h e he])
  unfold hostTlp sparkCheck
  rw [this]

theorem sameUnits_foldl {α : Type} {f : State → α → State} (h : ∀ s a, SameUnits s (f s a)) (l : List α) (s : State) : SameUnits s (l.foldl f s) := by
  induction l generalizing s with
  | nil => exact sameUnits_refl s
  | cons a l ih => exact sameUnits_trans (h s a) (ih _)

theorem sameUnits_raiseN (code : EventCode) (inj : Bool) (n : Nat) (dst : List Rcpt) (d : List Byte) (s : State) : SameUnits s (raiseN code inj n dst d s) := (raiseOnly_raiseN code inj n dst d s).toSameUnits

theorem sameUnits_raise (code : EventCode) (dst : List Rcpt) (d : List Byte) (s : State) : SameUnits s (raise code dst d s) := (raiseOnly_raise code dst d s).toSameUnits

theorem sameUnits_raiseNode (code : EventCode) (d : List Byte) (s : State) : SameUnits s (raiseNode code d s) := (raiseOnly_raiseNode code d s).toSameUnits

theorem sameUnits_setOrders (s : State) (l : List Applied) : SameUnits s { s with cln := { s.cln with orders := l } } :=
  ⟨rfl, rfl, rfl, rfl, rfl, rfl, rfl, rfl, rfl, rfl, rfl, rfl, rfl, rfl, rfl⟩

/-- Judging an order changes no unit (R74-R78). -/
theorem sameUnits_judge (c : Cmd) (t : Target) (o : Order) (s : State) : SameUnits s (judge c t o s).2 := by
  unfold judge; dsimp only
  split
  · exact sameUnits_setOrders _ _
  · split
    · exact sameUnits_setOrders _ _
    · generalize hx : raise _ _ _ (raise _ _ _ s) = x
      have hx' : SameUnits s x := by rw [← hx]; exact sameUnits_trans (sameUnits_raise _ _ _ _) (sameUnits_raise _ _ _ _)
      refine sameUnits_trans hx' ?_
      split
      · exact sameUnits_refl _
      · exact sameUnits_setOrders _ _

end Sys2Proof.Machine
end

