-- ==== Sys2Proof/Laws/Float.lean ====
section
/-! SUPPORT. The laws of the floating-point values that the chip makes of its own choosing. -/

namespace Sys2Proof.Machine
/-- Whatever sign and payload the chip chooses, the value reads as a NaN (R145). -/
theorem isNan_nanOf (k : Nat) : isNan (nanOf k) = true := by
  unfold isNan f32Dec decIeee nanOf
  generalize Config.nanBits 32 k = n
  have h : (BitVec.ofNat 32 (0x7FC00000 + n / 2 ^ 22 % 2 * 2 ^ 31 + n % 2 ^ 22)).toNat = 0x7FC00000 + n / 2 ^ 22 % 2 * 2 ^ 31 + n % 2 ^ 22 := by
    simp only [BitVec.toNat_ofNat]; omega
  have h1 : bitsOf (0x7FC00000 + n / 2 ^ 22 % 2 * 2 ^ 31 + n % 2 ^ 22) 23 8 = 255 := by unfold bitsOf; omega
  have h2 : bitsOf (0x7FC00000 + n / 2 ^ 22 % 2 * 2 ^ 31 + n % 2 ^ 22) 0 23 ≠ 0 := by unfold bitsOf; omega
  simp only [h, h1]
  rw [if_pos (by decide), if_neg (by simpa using h2)]
  decide
end Sys2Proof.Machine
end

