-- ==== Sys2Proof/Laws/Memory.lean ====
section
/-! SUPPORT. The laws of the byte store (file 06): what a byte reads as after a write, and that every operation on it keeps the canonical form. -/

namespace Sys2Proof.Machine

variable {α : Type}

theorem tblGet?_append (l k : Tbl α) (a : Nat) : tblGet? (l ++ k) a = (tblGet? l a).or (tblGet? k a) := by
  induction l with
  | nil => simp [tblGet?]
  | cons e l ih => obtain ⟨x, v⟩ := e; simp only [List.cons_append, tblGet?, ih]; split <;> simp

/-- A selection by key keeps the entries of the keys that it admits. -/
theorem tblGet?_filter (q : Nat → Bool) (l : Tbl α) (a : Nat) : tblGet? (l.filter (fun e => q e.1)) a = if q a then tblGet? l a else none := by
  induction l with
  | nil => simp [tblGet?]
  | cons e l ih =>
    obtain ⟨x, v⟩ := e
    simp only [List.filter_cons, tblGet?, beq_iff_eq]
    by_cases hx : x = a
    · subst hx; by_cases hq : q x = true <;> simp [hq, tblGet?, ih]
    · by_cases hq : q x = true <;> simp [hq, tblGet?, ih, hx]

theorem tblGet?_cellsFrom (a : Nat) (bs : List Byte) (x : Nat) :
    (tblGet? (cellsFrom a bs) x).getD unlisted = if a ≤ x ∧ x < a + bs.length then bs.getD (x - a) unlisted else unlisted := by
  induction bs generalizing a with
  | nil => simp [cellsFrom, tblGet?]
  | cons b bs ih =>
    rw [cellsFrom]
    have step : ∀ v : Byte, (if a + 1 ≤ x ∧ x < a + 1 + bs.length then bs.getD (x - (a + 1)) unlisted else unlisted) = v → a ≠ x →
        (if a ≤ x ∧ x < a + (b :: bs).length then (b :: bs).getD (x - a) unlisted else unlisted) = v := by
      intro v h hne
      rw [← h]
      by_cases hx : a + 1 ≤ x ∧ x < a + 1 + bs.length
      · rw [if_pos hx, if_pos ⟨by omega, by simp only [List.length_cons]; omega⟩]
        obtain ⟨k, rfl⟩ : ∃ k, x = a + 1 + k := ⟨x - (a + 1), by omega⟩
        rw [show a + 1 + k - a = k + 1 from by omega, show a + 1 + k - (a + 1) = k from by omega]
        simp
      · rw [if_neg hx, if_neg (by simp only [List.length_cons]; omega)]
    split
    · rename_i hb
      rw [ih]
      by_cases hx : a = x
      · subst hx; rw [beq_iff_eq] at hb; simp [hb]
      · exact (step _ rfl hx).symm
    · rw [tblGet?]
      by_cases hx : a = x
      · subst hx; simp
      · simp only [beq_iff_eq, hx, if_false]; rw [ih]; exact (step _ rfl hx).symm

/-- A byte after a write: the byte written there, or what it was. -/
theorem memByte_memPut (m : List Host.Cell) (a : Nat) (bs : List Byte) (x : Nat) :
    memByte (memPut m a bs) x = if a ≤ x ∧ x < a + bs.length then bs.getD (x - a) unlisted else memByte m x := by
  have hc := tblGet?_cellsFrom a bs x
  unfold memByte tblGetD memPut
  have h1 := tblGet?_filter (fun k => decide (k < a)) m x
  have h2 := tblGet?_filter (fun k => decide (a + bs.length ≤ k)) m x
  rw [tblGet?_append, tblGet?_append, h1, h2]
  by_cases hx : a ≤ x ∧ x < a + bs.length
  · have n1 : ¬ x < a := by omega
    have n2 : ¬ a + bs.length ≤ x := by omega
    simp only [n1, n2, decide_false, Bool.false_eq_true, if_false, if_pos hx, Option.none_or, Option.or_none] at hc ⊢
    exact hc
  · rw [if_neg hx] at hc ⊢
    have hn : ∀ (b : Nat) (cs : List Byte), (x < b ∨ b + cs.length ≤ x) → tblGet? (cellsFrom b cs) x = none := by
      intro b cs
      induction cs generalizing b with
      | nil => intro _; rfl
      | cons c cs ih =>
        intro h
        simp only [List.length_cons] at h
        rw [cellsFrom]
        split
        · exact ih (b + 1) (by omega)
        · rw [tblGet?, if_neg (by simp only [beq_iff_eq]; omega)]; exact ih (b + 1) (by omega)
    rw [hn a bs (by omega)]
    by_cases h : x < a
    · have n2 : ¬ a + bs.length ≤ x := by omega
      simp [h, n2]
    · have n2 : a + bs.length ≤ x := by omega
      simp [h, n2]

/-- The canonical form: addresses strictly rising, and no entry that an unlisted address stands for. -/
theorem wf_iff (m : List Host.Cell) : Memory.wf m = true ↔ m.Pairwise (fun d e => d.1 < e.1) ∧ ∀ e ∈ m, e.2 ≠ unlisted := by
  induction m with
  | nil => simp [Memory.wf]
  | cons d m ih =>
    obtain ⟨a, v⟩ := d
    cases m with
    | nil => simp [Memory.wf]
    | cons e m =>
      obtain ⟨b, w⟩ := e
      simp only [Memory.wf, Bool.and_eq_true, bne_iff_ne, ne_eq, decide_eq_true_eq, ih]
      constructor
      · rintro ⟨⟨h1, h2⟩, h3, h4⟩
        refine ⟨List.pairwise_cons.2 ⟨?_, h3⟩, ?_⟩
        · intro x hx
          rcases List.mem_cons.1 hx with rfl | hx
          · exact h2
          · exact Nat.lt_trans h2 ((List.pairwise_cons.1 h3).1 x hx)
        · intro x hx
          rcases List.mem_cons.1 hx with rfl | hx
          · exact h1
          · exact h4 x hx
      · rintro ⟨h1, h2⟩
        exact ⟨⟨h2 (a, v) (by simp), (List.pairwise_cons.1 h1).1 (b, w) (by simp)⟩, (List.pairwise_cons.1 h1).2, fun e he => h2 e (List.mem_cons_of_mem _ he)⟩

theorem wf_filter (p : Host.Cell → Bool) {m : List Host.Cell} (h : Memory.wf m = true) : Memory.wf (m.filter p) = true := by
  rw [wf_iff] at h ⊢
  exact ⟨h.1.filter p, fun e he => h.2 e (List.mem_filter.1 he).1⟩

theorem cellsFrom_keys (a : Nat) (bs : List Byte) : ∀ e ∈ cellsFrom a bs, a ≤ e.1 ∧ e.1 < a + bs.length := by
  induction bs generalizing a with
  | nil => simp [cellsFrom]
  | cons b bs ih =>
    intro e he
    rw [cellsFrom] at he
    split at he
    · have := ih (a + 1) e he; simp only [List.length_cons]; omega
    · rcases List.mem_cons.1 he with rfl | he
      · simp
      · have := ih (a + 1) e he; simp only [List.length_cons]; omega

theorem wf_cellsFrom (a : Nat) (bs : List Byte) : Memory.wf (cellsFrom a bs) = true := by
  rw [wf_iff]
  induction bs generalizing a with
  | nil => simp [cellsFrom]
  | cons b bs ih =>
    rw [cellsFrom]
    split
    · exact ih (a + 1)
    · rename_i hb
      refine ⟨List.pairwise_cons.2 ⟨fun e he => ?_, (ih (a + 1)).1⟩, ?_⟩
      · have := cellsFrom_keys (a + 1) bs e he; exact this.1
      · intro e he
        rcases List.mem_cons.1 he with rfl | he
        · simpa using hb
        · exact (ih (a + 1)).2 e he

/-- A write keeps the canonical form. -/
theorem wf_memPut {m : List Host.Cell} (h : Memory.wf m = true) (a : Nat) (bs : List Byte) : Memory.wf (memPut m a bs) = true := by
  have hc := wf_cellsFrom a bs
  rw [wf_iff] at h hc ⊢
  unfold memPut
  refine ⟨?_, ?_⟩
  · rw [List.pairwise_append, List.pairwise_append]
    refine ⟨⟨h.1.filter _, hc.1, ?_⟩, h.1.filter _, ?_⟩
    · intro x hx y hy
      have hx' := (List.mem_filter.1 hx).2
      simp only [decide_eq_true_eq] at hx'
      have := cellsFrom_keys a bs y hy
      omega
    · intro x hx y hy
      have hy' := (List.mem_filter.1 hy).2
      simp only [decide_eq_true_eq] at hy'
      rcases List.mem_append.1 hx with hx | hx
      · have hx' := (List.mem_filter.1 hx).2
        simp only [decide_eq_true_eq] at hx'
        omega
      · have := cellsFrom_keys a bs x hx
        omega
  · intro e he
    rcases List.mem_append.1 he with he | he
    · rcases List.mem_append.1 he with he | he
      · exact h.2 e (List.mem_filter.1 he).1
      · exact hc.2 e he
    · exact h.2 e (List.mem_filter.1 he).1

end Sys2Proof.Machine
end

