-- ==== Sys2Proof/Laws/Keeps.lean ====
section
/-! SUPPORT. What every operation of the block keeps: the relation `Keeps` and how it passes through the forms in which operations are written. -/

namespace Sys2Proof.Machine

variable {r s t : State} {α β ε : Type}

theorem Keeps.refl (s : State) : Keeps s s := ⟨rfl, rfl, rfl, rfl, rfl, Nat.le_refl _, Nat.le_refl _, List.prefix_rfl, id, id, id⟩

theorem Keeps.trans {a b c : State} (h : Keeps a b) (k : Keeps b c) : Keeps a c :=
  ⟨k.pending.trans h.pending, k.now.trans h.now, k.variant.trans h.variant, k.coreMap.trans h.coreMap, k.uid.trans h.uid,
    Nat.le_trans h.svn k.svn, Nat.le_trans h.free k.free, h.out.trans k.out, k.mem ∘ h.mem, k.bank0 ∘ h.bank0, k.bank1 ∘ h.bank1⟩

/-- The parts of the state that `Keeps` speaks of. -/
def keptParts (s : State) : List Instr × Nat × Fuse × Nat × List Out × List Host.Cell × List Host.Cell × List Host.Cell :=
  (s.pending, s.now, s.fuse, s.free, s.out, s.emb.mem, s.sec.bank0, s.sec.bank1)

/-- An update of other parts of the state. -/
theorem keeps_same (h : Keeps r s) (e : keptParts t = keptParts s) : Keeps r t := by
  simp only [keptParts, Prod.mk.injEq] at e
  obtain ⟨e1, e2, e3, e4, e5, e6, e7, e8⟩ := e
  exact ⟨e1.trans h.pending, e2.trans h.now, e3 ▸ h.variant, e3 ▸ h.coreMap, e3 ▸ h.uid, e3 ▸ h.svn, e4 ▸ h.free, e5 ▸ h.out,
    e6 ▸ h.mem, e7 ▸ h.bank0, e8 ▸ h.bank1⟩

/-- The property of the second part of a pair. -/
def KP (P : β → Prop) (x : α × β) : Prop := P x.2
/-- The property of the first part of a pair. -/
def KF (P : α → Prop) (x : α × β) : Prop := P x.1
/-- The property of what is there. -/
def KO (P : α → Prop) (o : Option α) : Prop := ∀ x, o = some x → P x
/-- The property of a result. -/
def KE (P : α → Prop) (o : Except ε α) : Prop := ∀ x, o = .ok x → P x
/-- The property of the next state. -/
def KN (P : State → Prop) (o : Host.Outcome State Fault Refusal) : Prop := ∀ t, o = .next t → P t

theorem keeps_ite {P : α → Prop} {c : Prop} [Decidable c] {a b : α} (ha : P a) (hb : P b) : P (if c then a else b) := by split <;> assumption
theorem KP_mk {P : β → Prop} {a : α} {b : β} (h : P b) : KP P (a, b) := h
theorem KF_mk {P : α → Prop} {a : α} {b : β} (h : P a) : KF P (a, b) := h
theorem KP_snd {P : β → Prop} {x : α × β} (h : KP P x) : P x.2 := h
theorem KF_fst {P : α → Prop} {x : α × β} (h : KF P x) : P x.1 := h
theorem KO_none {P : α → Prop} : KO P none := by intro x h; cases h
theorem KO_some {P : α → Prop} {x : α} (h : P x) : KO P (some x) := by intro y e; cases e; exact h
theorem KE_error {P : α → Prop} {e : ε} : KE P (.error e) := by intro x h; cases h
theorem KE_ok {P : α → Prop} {x : α} (h : P x) : KE (ε := ε) P (.ok x) := by intro y e; cases e; exact h
theorem KN_next {P : State → Prop} (h : P s) : KN P (.next s) := by intro y e; cases e; exact h
theorem KN_fault {P : State → Prop} {f : Fault} : KN P (.fault f) := by intro y e; cases e
theorem KP_of {P : β → Prop} {x : α × β} {a : α} {b : β} (e : x = (a, b)) (h : KP P x) : P b := by subst e; exact h
theorem KF_of {P : α → Prop} {x : α × β} {a : α} {b : β} (e : x = (a, b)) (h : KF P x) : P a := by subst e; exact h
theorem KO_of {P : α → Prop} {o : Option α} {x : α} (e : o = some x) (h : KO P o) : P x := h x e
theorem KE_of {P : α → Prop} {o : Except ε α} {x : α} (e : o = .ok x) (h : KE P o) : P x := h x e
theorem keeps_pair {P : ε → Prop} {Q : β → Prop} {x : α × β} {b : α → β → ε} (hx : KP Q x) (h : ∀ a s, Q s → P (b a s)) :
    P (match (generalizing := false) x with | (a, s) => b a s) := h _ _ hx
theorem keeps_foldl {P : β → Prop} {f : β → α → β} {l : List α} {b : β} (hf : ∀ b x, P b → P (f b x)) (hb : P b) : P (l.foldl f b) := by
  induction l generalizing b with
  | nil => exact hb
  | cons x l ih => exact ih (hf _ _ hb)

theorem keeps_map {P : β → Prop} {f : α → β} {o : Option α} (h : ∀ x, P (f x)) : KO P (o.map f) := by cases o <;> intro y e <;> cases e; exact h _
theorem keeps_mapk {P : β → Prop} {Q : α → Prop} {f : α → β} {o : Option α} (h : ∀ x, Q x → P (f x)) (ho : KO Q o) : KO P (o.map f) := by
  cases o with
  | none => intro y e; cases e
  | some x => intro y e; cases e; exact h _ (ho x rfl)
theorem keeps_bind {P : β → Prop} {f : α → Option β} {o : Option α} (h : ∀ x, KO P (f x)) : KO P (o.bind f) := by
  cases o with
  | none => intro y e; cases e
  | some x => exact h x
theorem keeps_bindk {P : β → Prop} {Q : α → Prop} {f : α → Option β} {o : Option α} (h : ∀ x, Q x → KO P (f x)) (ho : KO Q o) : KO P (o.bind f) := by
  cases o with
  | none => intro y e; cases e
  | some x => exact h x (ho x rfl)
theorem keeps_getD {P : α → Prop} {o : Option α} {d : α} (ho : KO P o) (hd : P d) : P (o.getD d) := by
  cases o with
  | none => exact hd
  | some x => exact ho x rfl

end Sys2Proof.Machine
end

