-- ==== Sys2Proof/Laws/KeepsCloni.lean ====
section
/-! SUPPORT. What the operations of the shared operations, the flows, Ember, and Cloni keep (`Keeps`): one lemma per operation. -/

namespace Sys2Proof.Machine

variable {r s t : State} {α β ε : Type}

theorem keeps_fresh {a1} (g1 : Keeps r a1) : KP (Keeps r) (Sys2Proof.Machine.fresh a1) :=
  ⟨g1.pending, g1.now, g1.variant, g1.coreMap, g1.uid, g1.svn, Nat.le_succ_of_le g1.free, g1.out, g1.mem, g1.bank0, g1.bank1⟩

theorem keeps_lightAct {a1 a2} (g2 : Keeps r a2) : Keeps r (Sys2Proof.Machine.lightAct a1 a2) := by
  unfold Sys2Proof.Machine.lightAct
  exact keeps_same g2 rfl

theorem keeps_emit {a1 a2} (g2 : Keeps r a2) : Keeps r (Sys2Proof.Machine.emit a1 a2) := by
  have h : Keeps r { a2 with out := a2.out ++ [a1] } :=
    ⟨g2.pending, g2.now, g2.variant, g2.coreMap, g2.uid, g2.svn, g2.free, g2.out.trans (List.prefix_append _ _), g2.mem, g2.bank0, g2.bank1⟩
  unfold Sys2Proof.Machine.emit
  extract_lets +onlyGivenNames v
  have hv : Keeps r v := h
  clear_value v
  split
  · exact hv
  · exact keeps_lightAct hv

theorem keeps_setCore {a1 a2 a3} (g3 : Keeps r a3) : Keeps r (Sys2Proof.Machine.setCore a1 a2 a3) := by
  unfold Sys2Proof.Machine.setCore
  exact keeps_same g3 rfl

theorem keeps_modCore {a1 a2 a3} (g3 : Keeps r a3) : Keeps r (Sys2Proof.Machine.modCore a1 a2 a3) := by
  unfold Sys2Proof.Machine.modCore
  refine keeps_setCore ?_
  · exact g3

theorem keeps_setChan {a1 a2 a3} (g3 : Keeps r a3) : Keeps r (Sys2Proof.Machine.setChan a1 a2 a3) := by
  unfold Sys2Proof.Machine.setChan
  exact keeps_same g3 rfl

theorem keeps_modChan {a1 a2 a3} (g3 : Keeps r a3) : Keeps r (Sys2Proof.Machine.modChan a1 a2 a3) := by
  unfold Sys2Proof.Machine.modChan
  refine keeps_setChan ?_
  · exact g3

theorem keeps_modGroup {a1 a2 a3} (g3 : Keeps r a3) : Keeps r (Sys2Proof.Machine.modGroup a1 a2 a3) := by
  unfold Sys2Proof.Machine.modGroup
  exact keeps_same g3 rfl

theorem keeps_setMbx {a1 a2 a3} (g3 : Keeps r a3) : Keeps r (Sys2Proof.Machine.setMbx a1 a2 a3) := by
  unfold Sys2Proof.Machine.setMbx
  exact keeps_same g3 rfl

theorem keeps_setRing {a1 a2 a3} (g3 : Keeps r a3) : Keeps r (Sys2Proof.Machine.setRing a1 a2 a3) := by
  unfold Sys2Proof.Machine.setRing
  exact keeps_same g3 rfl

theorem keeps_modRing {a1 a2 a3} (g3 : Keeps r a3) : Keeps r (Sys2Proof.Machine.modRing a1 a2 a3) := by
  unfold Sys2Proof.Machine.modRing
  refine keeps_setRing ?_
  · exact g3

theorem keeps_raiseVector {a1 a2} (g2 : Keeps r a2) : Keeps r (Sys2Proof.Machine.raiseVector a1 a2) := by
  unfold Sys2Proof.Machine.raiseVector
  refine keeps_ite (P := Keeps r) ?_ ?_
  · exact keeps_same g2 rfl
  · refine keeps_emit ?_
    · exact g2

theorem keeps_logRecord {a1 a2} (g2 : Keeps r a2) : Keeps r (Sys2Proof.Machine.logRecord a1 a2) := by
  unfold Sys2Proof.Machine.logRecord
  refine keeps_ite (P := Keeps r) ?_ ?_
  · extract_lets -merge -useContext -underBinder +onlyGivenNames v1
    try clear_value v1
    exact keeps_same g2 (by simp only [keptParts])
  · exact g2

theorem keeps_takeSeq {a1} (g1 : Keeps r a1) : KP (Keeps r) (Sys2Proof.Machine.takeSeq a1) := by
  unfold Sys2Proof.Machine.takeSeq
  refine KP_mk ?_
  exact keeps_same g1 rfl

theorem keeps_eqRefresh {a1} (g1 : Keeps r a1) : Keeps r (Sys2Proof.Machine.eqRefresh a1) := by
  unfold Sys2Proof.Machine.eqRefresh
  split
  · exact g1
  · extract_lets -merge -useContext -underBinder +onlyGivenNames v1
    try clear_value v1
    refine keeps_ite (P := Keeps r) ?_ ?_
    · split
      · rename_i q2
        have h3 : Keeps r _ := KP_of q2 (by
          refine keeps_fresh ?_
          · exact g1
          )
        extract_lets -merge -useContext -underBinder +onlyGivenNames v4
        try clear_value v4
        extract_lets -merge -useContext -underBinder +onlyGivenNames v5
        try clear_value v5
        exact keeps_same h3 rfl
    · exact g1

theorem keeps_eqWrite {a1 a2} (g2 : Keeps r a2) : Keeps r (Sys2Proof.Machine.eqWrite a1 a2) := by
  unfold Sys2Proof.Machine.eqWrite
  split
  · exact g2
  · extract_lets -merge -useContext -underBinder +onlyGivenNames v1
    have h2 : Keeps r v1 := by
      subst v1
      refine keeps_emit ?_
      · exact g2
    try clear_value v1
    extract_lets -merge -useContext -underBinder +onlyGivenNames v3
    try clear_value v3
    extract_lets -merge -useContext -underBinder +onlyGivenNames v4
    try clear_value v4
    refine keeps_raiseVector ?_
    · exact keeps_same h2 rfl

theorem keeps_putRecord {a1 a2} (g2 : Keeps r a2) : Keeps r (Sys2Proof.Machine.putRecord a1 a2) := by
  unfold Sys2Proof.Machine.putRecord
  extract_lets -merge -useContext -underBinder +onlyGivenNames v1
  have h2 : Keeps r v1 := by
    subst v1
    refine keeps_eqRefresh ?_
    · exact g2
  try clear_value v1
  split
  · split
    · rename_i q3
      have h4 : Keeps r _ := KP_of q3 (by
        refine keeps_takeSeq ?_
        · exact h2
        )
      refine keeps_logRecord ?_
      · exact h4
  · refine keeps_ite (P := Keeps r) ?_ ?_
    · split
      · rename_i q5
        have h6 : Keeps r _ := KP_of q5 (by
          refine keeps_takeSeq ?_
          · exact h2
          )
        refine keeps_logRecord ?_
        · exact h6
    · refine keeps_ite (P := Keeps r) ?_ ?_
      · extract_lets -merge -useContext -underBinder +onlyGivenNames _ v7
        have h8 : Keeps r v7 := by
          subst v7
          exact keeps_same h2 rfl
        try clear_value v7
        split
        · rename_i q9
          have h10 : Keeps r _ := KP_of q9 (by
            refine keeps_takeSeq ?_
            · exact h8
            )
          refine keeps_logRecord ?_
          · exact h10
      · refine keeps_ite (P := Keeps r) ?_ ?_
        · split
          · rename_i q11
            have h12 : Keeps r _ := KP_of q11 (by
              refine keeps_takeSeq ?_
              · exact h2
              )
            refine keeps_logRecord ?_
            · refine keeps_eqWrite ?_
              · exact h12
        · split
          · rename_i q13
            have h14 : Keeps r _ := KP_of q13 (by
              refine keeps_takeSeq ?_
              · exact h2
              )
            extract_lets -merge -useContext -underBinder +onlyGivenNames v15
            try clear_value v15
            extract_lets -merge -useContext -underBinder +onlyGivenNames _ v16
            have h17 : Keeps r v16 := by
              subst v16
              refine keeps_logRecord ?_
              · refine keeps_eqWrite ?_
                · exact keeps_same h14 rfl
            try clear_value v16
            split
            · rename_i q18
              have h19 : Keeps r _ := KP_of q18 (by
                refine keeps_takeSeq ?_
                · exact h17
                )
              split
              · exact h19
              · refine keeps_ite (P := Keeps r) ?_ ?_
                · refine keeps_logRecord ?_
                  · exact keeps_same h19 rfl
                · refine keeps_logRecord ?_
                  · refine keeps_eqWrite ?_
                    · exact h19

theorem keeps_raiseN {a1 a2 a3 a4 a5 a6} (g6 : Keeps r a6) : Keeps r (Sys2Proof.Machine.raiseN a1 a2 a3 a4 a5 a6) := by
  unfold Sys2Proof.Machine.raiseN
  refine keeps_foldl (P := Keeps r) (fun _ _ h1 => ?_) ?_
  · split
    · refine keeps_putRecord ?_
      · exact h1
  · exact g6

theorem keeps_raise {a1 a2 a3 a4} (g4 : Keeps r a4) : Keeps r (Sys2Proof.Machine.raise a1 a2 a3 a4) := by
  unfold Sys2Proof.Machine.raise
  refine keeps_raiseN ?_
  · exact g4

theorem keeps_raiseNode {a1 a2 a3} (g3 : Keeps r a3) : Keeps r (Sys2Proof.Machine.raiseNode a1 a2 a3) := by
  unfold Sys2Proof.Machine.raiseNode
  refine keeps_raise ?_
  · exact g3

theorem keeps_raiseLimited {a1 a2 a3 a4 a5 a6 a7} (g7 : Keeps r a7) : Keeps r (Sys2Proof.Machine.raiseLimited a1 a2 a3 a4 a5 a6 a7) := by
  unfold Sys2Proof.Machine.raiseLimited
  split
  · refine keeps_ite (P := Keeps r) ?_ ?_
    · exact keeps_same g7 rfl
    · refine keeps_raiseN ?_
      · exact keeps_same g7 rfl
  · refine keeps_raiseN ?_
    · exact keeps_same g7 rfl

theorem keeps_tallyAdd {a1 a2 a3 a4 a5} (g5 : Keeps r a5) : Keeps r (Sys2Proof.Machine.tallyAdd a1 a2 a3 a4 a5) := by
  unfold Sys2Proof.Machine.tallyAdd
  extract_lets -merge -useContext -underBinder +onlyGivenNames v1
  try clear_value v1
  exact keeps_same g5 rfl

theorem keeps_strainAdd {a1 a2 a3 a4 a5} (g5 : Keeps r a5) : Keeps r (Sys2Proof.Machine.strainAdd a1 a2 a3 a4 a5) := by
  unfold Sys2Proof.Machine.strainAdd
  exact keeps_same g5 rfl

theorem keeps_countInjected {a1} (g1 : Keeps r a1) : Keeps r (Sys2Proof.Machine.countInjected a1) := by
  unfold Sys2Proof.Machine.countInjected
  exact keeps_same g1 rfl

theorem keeps_countFault {a1 a2 a3 a4 a5 a6} (g6 : Keeps r a6) : Keeps r (Sys2Proof.Machine.countFault a1 a2 a3 a4 a5 a6) := by
  unfold Sys2Proof.Machine.countFault
  refine keeps_ite (P := Keeps r) ?_ ?_
  · extract_lets -merge -useContext -underBinder +onlyGivenNames v1
    have h2 : Keeps r v1 := by
      subst v1
      refine keeps_countInjected ?_
      · exact g6
    try clear_value v1
    split
    · exact h2
    · refine keeps_tallyAdd ?_
      · exact h2
  · extract_lets -merge -useContext -underBinder +onlyGivenNames v3
    have h4 : Keeps r v3 := by
      subst v3
      refine keeps_tallyAdd ?_
      · exact g6
    try clear_value v3
    split
    · exact h4
    · refine keeps_strainAdd ?_
      · exact h4

theorem keeps_sparkFire {a1 a2 a3 a4} (g4 : Keeps r a4) : KP (Keeps r) (Sys2Proof.Machine.sparkFire a1 a2 a3 a4) := by
  unfold Sys2Proof.Machine.sparkFire
  extract_lets -merge -useContext -underBinder +onlyGivenNames v1
  try clear_value v1
  extract_lets -merge -useContext -underBinder +onlyGivenNames v2
  try clear_value v2
  extract_lets -merge -useContext -underBinder +onlyGivenNames v3
  try clear_value v3
  extract_lets -merge -useContext -underBinder +onlyGivenNames v4
  try clear_value v4
  extract_lets -merge -useContext -underBinder +onlyGivenNames v5
  try clear_value v5
  extract_lets -merge -useContext -underBinder +onlyGivenNames _ v6
  have h7 : Keeps r v6 := by
    subst v6
    exact keeps_same g4 rfl
  try clear_value v6
  refine keeps_ite (P := KP (Keeps r)) ?_ ?_
  · extract_lets -merge -useContext -underBinder +onlyGivenNames v8
    try clear_value v8
    refine KP_mk ?_
    refine keeps_raiseLimited ?_
    · exact h7
  · refine KP_mk ?_
    exact h7

theorem keeps_sparkCheck {a1 a2 a3} (g3 : Keeps r a3) : KP (Keeps r) (Sys2Proof.Machine.sparkCheck a1 a2 a3) := by
  unfold Sys2Proof.Machine.sparkCheck
  split
  · refine KP_mk ?_
    exact g3
  · refine keeps_sparkFire ?_
    · exact g3

theorem keeps_hostTlp {a1} (g1 : Keeps r a1) : Keeps r (Sys2Proof.Machine.hostTlp a1) := by
  unfold Sys2Proof.Machine.hostTlp
  refine KP_snd ?_
  refine keeps_sparkCheck ?_
  · exact g1

theorem keeps_hubRead {a1} (g1 : Keeps r a1) : Keeps r (Sys2Proof.Machine.hubRead a1) := by
  unfold Sys2Proof.Machine.hubRead
  split
  · rename_i q1
    have h2 : Keeps r _ := KP_of q1 (by
      refine keeps_sparkCheck ?_
      · exact g1
      )
    refine keeps_countInjected ?_
    · exact h2
  · rename_i q3
    have h4 : Keeps r _ := KP_of q3 (by
      refine keeps_sparkCheck ?_
      · exact g1
      )
    exact h4

theorem keeps_postReply {a1 a2 a3 a4 a5 a6 a7} (g7 : Keeps r a7) : Keeps r (Sys2Proof.Machine.postReply a1 a2 a3 a4 a5 a6 a7) := by
  unfold Sys2Proof.Machine.postReply
  extract_lets -merge -useContext -underBinder +onlyGivenNames v1
  try clear_value v1
  extract_lets -merge -useContext -underBinder +onlyGivenNames v2
  try clear_value v2
  refine keeps_setMbx ?_
  · exact g7

theorem keeps_profileAdd {a1 a2 a3 a4} (g4 : Keeps r a4) : Keeps r (Sys2Proof.Machine.profileAdd a1 a2 a3 a4) := by
  unfold Sys2Proof.Machine.profileAdd
  split
  · exact g4
  · refine keeps_ite (P := Keeps r) ?_ ?_
    · exact keeps_same g4 rfl
    · exact g4

theorem keeps_setPort {a1 a2 a3} (g3 : Keeps r a3) : Keeps r (Sys2Proof.Machine.setPort a1 a2 a3) := by
  unfold Sys2Proof.Machine.setPort
  exact keeps_same g3 rfl

theorem keeps_modPort {a1 a2 a3} (g3 : Keeps r a3) : Keeps r (Sys2Proof.Machine.modPort a1 a2 a3) := by
  unfold Sys2Proof.Machine.modPort
  refine keeps_setPort ?_
  · exact g3

theorem keeps_setInst {a1 a2 a3} (g3 : Keeps r a3) : Keeps r (Sys2Proof.Machine.setInst a1 a2 a3) := by
  unfold Sys2Proof.Machine.setInst
  exact keeps_same g3 rfl

theorem keeps_modInst {a1 a2 a3} (g3 : Keeps r a3) : Keeps r (Sys2Proof.Machine.modInst a1 a2 a3) := by
  unfold Sys2Proof.Machine.modInst
  refine keeps_setInst ?_
  · exact g3

theorem keeps_enqueue {a1 a2 a3 a4} (g4 : Keeps r a4) : Keeps r (Sys2Proof.Machine.enqueue a1 a2 a3 a4) := by
  unfold Sys2Proof.Machine.enqueue
  refine keeps_ite (P := Keeps r) ?_ ?_
  · refine keeps_modInst ?_
    · exact g4
  · refine keeps_modInst ?_
    · exact g4

theorem keeps_putOut {a1 a2 a3 a4 a5 a6} (g6 : Keeps r a6) : Keeps r (Sys2Proof.Machine.putOut a1 a2 a3 a4 a5 a6) := by
  unfold Sys2Proof.Machine.putOut
  split
  · exact g6
  · exact keeps_same g6 rfl
  · refine keeps_enqueue ?_
    · exact g6

theorem keeps_setSlot {a1 a2 a3} (g3 : Keeps r a3) : Keeps r (Sys2Proof.Machine.setSlot a1 a2 a3) := by
  unfold Sys2Proof.Machine.setSlot
  exact keeps_same g3 rfl

theorem keeps_modSlot {a1 a2 a3} (g3 : Keeps r a3) : Keeps r (Sys2Proof.Machine.modSlot a1 a2 a3) := by
  unfold Sys2Proof.Machine.modSlot
  exact keeps_same g3 rfl

theorem keeps_useCounter {a1 a2} (g2 : Keeps r a2) : KO (Keeps r) (Sys2Proof.Machine.useCounter a1 a2) := by
  unfold Sys2Proof.Machine.useCounter
  split
  · exact KO_none
  · refine keeps_ite (P := KO (Keeps r)) ?_ ?_
    · exact KO_none
    · extract_lets -merge -useContext -underBinder +onlyGivenNames v1
      try clear_value v1
      extract_lets -merge -useContext -underBinder +onlyGivenNames _ v2
      have h3 : Keeps r v2 := by
        subst v2
        exact keeps_same g2 rfl
      try clear_value v2
      refine KO_some ?_
      refine keeps_ite (P := Keeps r) ?_ ?_
      · refine keeps_raise ?_
        · exact h3
      · exact h3

theorem keeps_sealPayload {a1 a2 a3} (g3 : Keeps r a3) : KO (KP (Keeps r)) (Sys2Proof.Machine.sealPayload a1 a2 a3) := by
  unfold Sys2Proof.Machine.sealPayload
  split
  · exact KO_none
  · refine keeps_mapk (P := KP (Keeps r)) (Q := Keeps r) (fun _ h1 => ?_) ?_
    · split
      · rename_i q2
        have h3 : Keeps r _ := KP_of q2 (by
          refine keeps_fresh ?_
          · exact h1
          )
        refine KP_mk ?_
        exact h3
    · refine keeps_useCounter ?_
      · exact g3

theorem keeps_recycleSlot {a1 a2 a3} (g3 : Keeps r a3) : Keeps r (Sys2Proof.Machine.recycleSlot a1 a2 a3) := by
  unfold Sys2Proof.Machine.recycleSlot
  extract_lets -merge -useContext -underBinder +onlyGivenNames _ v1
  have h2 : Keeps r v1 := by
    subst v1
    exact keeps_same g3 rfl
  try clear_value v1
  split
  · exact h2
  · exact keeps_same h2 rfl

theorem keeps_freshSlot {a1 a2} (g2 : Keeps r a2) : Keeps r (Sys2Proof.Machine.freshSlot a1 a2) := by
  unfold Sys2Proof.Machine.freshSlot
  extract_lets -merge -useContext -underBinder +onlyGivenNames v1
  try clear_value v1
  extract_lets -merge -useContext -underBinder +onlyGivenNames v2
  try clear_value v2
  refine keeps_setSlot ?_
  · exact keeps_same g2 rfl

theorem keeps_openSlot {a1 a2} (g2 : Keeps r a2) : KO (Keeps r) (Sys2Proof.Machine.openSlot a1 a2) := by
  unfold Sys2Proof.Machine.openSlot
  refine keeps_ite (P := KO (Keeps r)) ?_ ?_
  · refine KO_some ?_
    exact g2
  · refine keeps_ite (P := KO (Keeps r)) ?_ ?_
    · refine KO_some ?_
      refine keeps_freshSlot ?_
      · exact g2
    · refine keeps_map (P := Keeps r) (fun _ => ?_)
      refine keeps_freshSlot ?_
      · refine keeps_recycleSlot ?_
        · exact g2

theorem keeps_slotsExhausted {a1} (g1 : Keeps r a1) : Keeps r (Sys2Proof.Machine.slotsExhausted a1) := by
  unfold Sys2Proof.Machine.slotsExhausted
  extract_lets -merge -useContext -underBinder +onlyGivenNames _ v1
  have h2 : Keeps r v1 := by
    subst v1
    exact keeps_same g1 rfl
  try clear_value v1
  refine keeps_raiseLimited ?_
  · exact h2

theorem keeps_launch {a1 a2 a3 a4} (g4 : Keeps r a4) : Keeps r (Sys2Proof.Machine.launch a1 a2 a3 a4) := by
  unfold Sys2Proof.Machine.launch
  split
  · exact g4
  · extract_lets -merge -useContext -underBinder +onlyGivenNames v1
    try clear_value v1
    extract_lets -merge -useContext -underBinder +onlyGivenNames v2
    try clear_value v2
    extract_lets -merge -useContext -underBinder +onlyGivenNames v3
    try clear_value v3
    extract_lets -merge -useContext -underBinder +onlyGivenNames v4
    try clear_value v4
    extract_lets -merge -useContext -underBinder +onlyGivenNames _ v5
    try clear_value v5
    extract_lets -merge -useContext -underBinder +onlyGivenNames v6
    have h7 : Keeps r v6 := by
      subst v6
      refine keeps_setSlot ?_
      · exact g4
    try clear_value v6
    refine keeps_putOut ?_
    · exact h7

theorem keeps_pumpFlow {a1 a2 a3} (g3 : Keeps r a3) : Keeps r (Sys2Proof.Machine.pumpFlow a1 a2 a3) := by
  induction a2 generalizing a3 with
  | zero => exact g3
  | succ n ih =>
    unfold Sys2Proof.Machine.pumpFlow
    split
    · exact g3
    · split
      · exact g3
      · extract_lets +onlyGivenNames n' paced slow
        split
        · exact g3
        · exact ih (keeps_launch (keeps_setSlot g3))

theorem keeps_pump {a1 a2} (g2 : Keeps r a2) : Keeps r (Sys2Proof.Machine.pump a1 a2) := by
  unfold Sys2Proof.Machine.pump
  split
  · exact g2
  · refine keeps_pumpFlow ?_
    · exact g2

theorem keeps_onFlow {a1 a2 a3} (g3 : Keeps r a3) : Keeps r (Sys2Proof.Machine.onFlow a1 a2 a3) := by
  unfold Sys2Proof.Machine.onFlow
  split
  · exact g3
  · extract_lets -merge -useContext -underBinder +onlyGivenNames _ v1
    try clear_value v1
    refine keeps_pump ?_
    · refine keeps_setSlot ?_
      · exact g3

theorem keeps_sendData {a1 a2 a3} (g3 : Keeps r a3) : Keeps r (Sys2Proof.Machine.sendData a1 a2 a3) := by
  unfold Sys2Proof.Machine.sendData
  split
  · rename_i q1
    have h2 : Keeps r _ := KO_of q1 (by
      refine keeps_openSlot ?_
      · exact g3
      )
    refine keeps_onFlow ?_
    · exact h2
  · refine keeps_slotsExhausted ?_
    · exact keeps_same g3 rfl

theorem keeps_retrySlots {a1} (g1 : Keeps r a1) : Keeps r (Sys2Proof.Machine.retrySlots a1) := by
  unfold Sys2Proof.Machine.retrySlots
  refine keeps_foldl (P := Keeps r) (fun _ _ h1 => ?_) ?_
  · split
    · rename_i q2
      have h3 : Keeps r _ := KO_of q2 (by
        refine keeps_openSlot ?_
        · exact h1
        )
      refine keeps_onFlow ?_
      · exact h3
    · exact keeps_same h1 rfl
  · exact keeps_same g1 rfl

theorem keeps_resendFlow {a1 a2 a3} (g3 : Keeps r a3) : Keeps r (Sys2Proof.Machine.resendFlow a1 a2 a3) := by
  unfold Sys2Proof.Machine.resendFlow
  split
  · exact g3
  · extract_lets -merge -useContext -underBinder +onlyGivenNames v1
    have h2 : Keeps r v1 := by
      subst v1
      refine keeps_setSlot ?_
      · exact g3
    try clear_value v1
    refine keeps_foldl (P := Keeps r) (fun _ _ h3 => ?_) ?_
    · refine keeps_launch ?_
      · exact h3
    · exact h2

theorem keeps_sendFrom {a1 a2 a3 a4 a5} (g5 : Keeps r a5) : Keeps r (Sys2Proof.Machine.sendFrom a1 a2 a3 a4 a5) := by
  unfold Sys2Proof.Machine.sendFrom
  extract_lets -merge -useContext -underBinder +onlyGivenNames v1
  try clear_value v1
  extract_lets -merge -useContext -underBinder +onlyGivenNames v2
  try clear_value v2
  extract_lets -merge -useContext -underBinder +onlyGivenNames v3
  try clear_value v3
  refine keeps_putOut ?_
  · exact g5

theorem keeps_sendReverse {a1 a2 a3 a4} (g4 : Keeps r a4) : Keeps r (Sys2Proof.Machine.sendReverse a1 a2 a3 a4) := by
  unfold Sys2Proof.Machine.sendReverse
  refine keeps_sendFrom ?_
  · exact g4

theorem keeps_sendAck {a1 a2} (g2 : Keeps r a2) : Keeps r (Sys2Proof.Machine.sendAck a1 a2) := by
  unfold Sys2Proof.Machine.sendAck
  split
  · exact g2
  · refine keeps_sendReverse ?_
    · refine keeps_setSlot ?_
      · exact g2

theorem keeps_sendNack {a1 a2 a3 a4 a5} (g5 : Keeps r a5) : Keeps r (Sys2Proof.Machine.sendNack a1 a2 a3 a4 a5) := by
  unfold Sys2Proof.Machine.sendNack
  refine keeps_sendReverse ?_
  · exact g5

theorem keeps_noteAccepted {a1 a2 a3} (g3 : Keeps r a3) : Keeps r (Sys2Proof.Machine.noteAccepted a1 a2 a3) := by
  unfold Sys2Proof.Machine.noteAccepted
  split
  · exact g3
  · extract_lets -merge -useContext -underBinder +onlyGivenNames v1
    try clear_value v1
    extract_lets -merge -useContext -underBinder +onlyGivenNames v2
    have h3 : Keeps r v2 := by
      subst v2
      refine keeps_setSlot ?_
      · exact g3
    try clear_value v2
    refine keeps_ite (P := Keeps r) ?_ ?_
    · refine keeps_sendAck ?_
      · exact h3
    · exact h3

theorem keeps_takeTag {a1 a2} (g2 : Keeps r a2) : KP (Keeps r) (Sys2Proof.Machine.takeTag a1 a2) := by
  unfold Sys2Proof.Machine.takeTag
  extract_lets -merge -useContext -underBinder +onlyGivenNames v1
  try clear_value v1
  refine KP_mk ?_
  exact keeps_same g2 rfl

theorem keeps_tagsExhausted {a1} (g1 : Keeps r a1) : Keeps r (Sys2Proof.Machine.tagsExhausted a1) := by
  unfold Sys2Proof.Machine.tagsExhausted
  extract_lets -merge -useContext -underBinder +onlyGivenNames _ v1
  have h2 : Keeps r v1 := by
    subst v1
    exact keeps_same g1 rfl
  try clear_value v1
  refine keeps_raiseLimited ?_
  · exact h2

theorem keeps_messageFrames {a1 a2 a3 a4 a5 a6 a7} (g7 : Keeps r a7) : KO (KP (Keeps r)) (Sys2Proof.Machine.messageFrames a1 a2 a3 a4 a5 a6 a7) := by
  unfold Sys2Proof.Machine.messageFrames
  extract_lets -merge -useContext -underBinder +onlyGivenNames v1
  try clear_value v1
  extract_lets -merge -useContext -underBinder +onlyGivenNames v2
  try clear_value v2
  refine keeps_foldl (P := KO (KP (Keeps r))) (fun _ _ h3 => ?_) ?_
  · split
    · refine keeps_bindk (P := KP (Keeps r)) (Q := KP (Keeps r)) (fun _ h4 => ?_) ?_
      · split
        · have h6 : Keeps r _ := h4
          extract_lets -merge -useContext -underBinder +onlyGivenNames _ v7
          try clear_value v7
          split
          · refine KO_some ?_
            refine KP_mk ?_
            exact h6
          · refine keeps_mapk (P := KP (Keeps r)) (Q := KP (Keeps r)) (fun _ h8 => ?_) ?_
            · split
              · have h10 : Keeps r _ := h8
                refine KP_mk ?_
                exact h10
            · refine keeps_sealPayload ?_
              · exact h6
      · exact h3
  · refine KO_some ?_
    refine KP_mk ?_
    exact g7

theorem keeps_sendAll {a1 a2 a3} (g3 : Keeps r a3) : Keeps r (Sys2Proof.Machine.sendAll a1 a2 a3) := by
  unfold Sys2Proof.Machine.sendAll
  refine keeps_foldl (P := Keeps r) (fun _ _ h1 => ?_) ?_
  · refine keeps_sendData ?_
    · exact h1
  · exact g3

theorem keeps_sendDone {a1 a2 a3 a4 a5 a6} (g6 : Keeps r a6) : Keeps r (Sys2Proof.Machine.sendDone a1 a2 a3 a4 a5 a6) := by
  unfold Sys2Proof.Machine.sendDone
  extract_lets -merge -useContext -underBinder +onlyGivenNames v1
  try clear_value v1
  extract_lets -merge -useContext -underBinder +onlyGivenNames v2
  try clear_value v2
  extract_lets -merge -useContext -underBinder +onlyGivenNames v3
  try clear_value v3
  extract_lets -merge -useContext -underBinder +onlyGivenNames _ v4
  have h5 : Keeps r v4 := by
    subst v4
    exact keeps_same g6 rfl
  try clear_value v4
  extract_lets -merge -useContext -underBinder +onlyGivenNames v6
  try clear_value v6
  split
  · rename_i q7
    have h8 : KP (Keeps r) _ := KO_of q7 (by
      refine keeps_messageFrames ?_
      · exact h5
      )
    have h8 : Keeps r _ := h8
    refine keeps_sendAll ?_
    · exact h8
  · exact h5

theorem keeps_setPoison {a1 a2 a3} (g3 : Keeps r a3) : Keeps r (Sys2Proof.Machine.setPoison a1 a2 a3) := by
  unfold Sys2Proof.Machine.setPoison
  exact keeps_same g3 rfl

theorem keeps_setPlough {a1 a2 a3} (g3 : Keeps r a3) : Keeps r (Sys2Proof.Machine.setPlough a1 a2 a3) := by
  unfold Sys2Proof.Machine.setPlough
  exact keeps_same g3 rfl

/-- A change of the contents of Ember that keeps their canonical form. -/
theorem keeps_mem {a : State} {m : List Host.Cell} {p : List Nat} (h : Keeps r a) (hm : Memory.wf a.emb.mem = true → Memory.wf m = true) :
    Keeps r { a with emb := { a.emb with mem := m, poison := p } } :=
  ⟨h.pending, h.now, h.variant, h.coreMap, h.uid, h.svn, h.free, h.out, hm ∘ h.mem, h.bank0, h.bank1⟩

theorem keeps_stepRow {a1 a2 a3 a4} (g4 : Keeps r a4) : Keeps r (Sys2Proof.Machine.stepRow a1 a2 a3 a4) := by
  unfold Sys2Proof.Machine.stepRow
  split
  · exact g4
  · split
    · exact g4
    · exact keeps_setPlough (keeps_foldl (P := Keeps r) (fun _ _ h => keeps_setPoison h) (keeps_mem g4 (fun h => wf_memPut h _ _)))

theorem keeps_installFence {a1 a2 a3} (g3 : Keeps r a3) : Keeps r (Sys2Proof.Machine.installFence a1 a2 a3) := by
  unfold Sys2Proof.Machine.installFence
  split
  · exact g3
  · refine keeps_setPlough ?_
    · refine keeps_modChan ?_
      · exact g3

theorem keeps_forceFences {a1 a2 a3} (g3 : Keeps r a3) : Keeps r (Sys2Proof.Machine.forceFences a1 a2 a3) := by
  unfold Sys2Proof.Machine.forceFences
  refine keeps_foldl (P := Keeps r) (fun _ _ h1 => ?_) ?_
  · refine keeps_ite (P := Keeps r) ?_ ?_
    · refine keeps_installFence ?_
      · exact h1
    · exact h1
  · exact g3

theorem keeps_stepAfter {a1 a2 a3 a4 a5} (g1 : ∀ b1 b2 b3, Keeps r b3 → Keeps r (a1 b1 b2 b3)) (g5 : Keeps r a5) : Keeps r (Sys2Proof.Machine.stepAfter a1 a2 a3 a4 a5) := by
  unfold Sys2Proof.Machine.stepAfter
  split
  · exact g5
  · split
    · extract_lets -merge -useContext -underBinder +onlyGivenNames v1
      have h2 : Keeps r v1 := by
        subst v1
        refine keeps_foldl (P := Keeps r) (fun _ _ h3 => ?_) ?_
        · refine keeps_forceFences ?_
          · exact h3
        · exact g5
      try clear_value v1
      extract_lets -merge -useContext -underBinder +onlyGivenNames v4
      have h5 : Keeps r v4 := by
        subst v4
        refine keeps_foldl (P := Keeps r) (fun _ _ h6 => ?_) ?_
        · refine g1 _ _ _ ?_
          · exact h6
        · exact h2
      try clear_value v4
      refine keeps_stepRow ?_
      · refine g1 _ _ _ ?_
        · exact h5

theorem keeps_settle {a1 a2 a3 a4} (g4 : Keeps r a4) : Keeps r (Sys2Proof.Machine.settle a1 a2 a3 a4) := by
  induction a1 generalizing a2 a3 a4 with
  | nil => exact g4
  | cons k older ih =>
    unfold Sys2Proof.Machine.settle
    dsimp only
    generalize hs : (if a2 = true then Sys2Proof.Machine.settle older true a3 a4 else a4) = s
    have h1 : Keeps r s := by rw [← hs]; exact keeps_ite (P := Keeps r) (ih g4) g4
    generalize dstIndex s k a3 = d
    have h2 : Keeps r (match d with
        | some i => stepAfter (fun w r s => Sys2Proof.Machine.settle older w r s) k (chanOf s a3) i s
        | none => if a2 = true then s else Sys2Proof.Machine.settle older false a3 s) := by
      cases d with
      | some i => exact keeps_stepAfter (fun _ _ _ h => ih h) h1
      | none => exact keeps_ite (P := Keeps r) h1 (ih h1)
    exact keeps_ite (P := Keeps r) (keeps_foldl (P := Keeps r) (fun _ _ h => keeps_stepAfter (fun _ _ _ h => ih h) h) h2) h2

theorem keeps_settleStep {a1 a2 a3 a4} (g4 : Keeps r a4) : Keeps r (Sys2Proof.Machine.settleStep a1 a2 a3 a4) := by
  unfold Sys2Proof.Machine.settleStep
  refine keeps_stepAfter ?_ ?_
  · intro _ _ _ h1
    refine keeps_settle ?_
    · exact h1
  · exact g4

theorem keeps_viewRow {a1 a2} (g1 : Keeps r a1) : Keeps r (Sys2Proof.Machine.viewRow a1 a2) := by
  unfold Sys2Proof.Machine.viewRow
  refine keeps_settle ?_
  · exact g1

theorem keeps_settleWrite {a1 a2} (g2 : Keeps r a2) : Keeps r (Sys2Proof.Machine.settleWrite a1 a2) := by
  unfold Sys2Proof.Machine.settleWrite
  refine keeps_settle ?_
  · exact g2

theorem keeps_countWaits {a1 a2 a3 a4} (g4 : Keeps r a4) : Keeps r (Sys2Proof.Machine.countWaits a1 a2 a3 a4) := by
  unfold Sys2Proof.Machine.countWaits
  refine keeps_foldl (P := Keeps r) (fun _ _ h1 => ?_) ?_
  · refine keeps_ite (P := Keeps r) ?_ ?_
    · refine keeps_modChan ?_
      · exact h1
    · exact h1
  · exact g4

theorem keeps_emberWriteP {a1 a2 a3 a4} (g4 : Keeps r a4) : Keeps r (Sys2Proof.Machine.emberWriteP a1 a2 a3 a4) := by
  unfold Sys2Proof.Machine.emberWriteP
  refine keeps_foldl (P := Keeps r) (fun _ _ h => ?_) (keeps_mem (keeps_foldl (P := Keeps r) (fun _ _ h => keeps_settleWrite h) g4) (fun h => wf_memPut h _ _))
  dsimp only
  split
  · exact h
  · split
    · exact keeps_setPoison h
    · split
      · exact keeps_setPoison h
      · exact h

theorem keeps_emberWrite {a1 a2 a3} (g3 : Keeps r a3) : Keeps r (Sys2Proof.Machine.emberWrite a1 a2 a3) := by
  unfold Sys2Proof.Machine.emberWrite
  refine keeps_emberWriteP ?_
  · exact g3

theorem keeps_zeroChunks {a1 a2 a3} (g3 : Keeps r a3) : Keeps r (Sys2Proof.Machine.zeroChunks a1 a2 a3) := by
  unfold Sys2Proof.Machine.zeroChunks
  split
  · exact keeps_mem g3 (fun h => wf_filter _ h)
  refine keeps_foldl (P := Keeps r) (fun _ _ h1 => ?_) ?_
  · refine keeps_ite (P := Keeps r) ?_ ?_
    · exact h1
    · refine keeps_emberWrite ?_
      · exact h1
  · exact g3

theorem keeps_copyBytes {a1 a2 a3 a4} (g4 : Keeps r a4) : Keeps r (Sys2Proof.Machine.copyBytes a1 a2 a3 a4) := by
  unfold Sys2Proof.Machine.copyBytes
  split
  · extract_lets -merge -useContext -underBinder +onlyGivenNames v1
    try clear_value v1
    extract_lets -merge -useContext -underBinder +onlyGivenNames v2
    have h3 : Keeps r v2 := by
      subst v2
      refine keeps_emberWrite ?_
      · exact g4
    try clear_value v2
    refine keeps_foldl (P := Keeps r) (fun _ _ h4 => ?_) ?_
    · refine keeps_setPoison ?_
      · exact h4
    · exact h3

theorem keeps_regionWriteP {a1 a2 a3 a4 a5} (g5 : Keeps r a5) : Keeps r (Sys2Proof.Machine.regionWriteP a1 a2 a3 a4 a5) := by
  unfold Sys2Proof.Machine.regionWriteP
  refine KF_fst ?_
  refine keeps_foldl (P := KF (Keeps r)) (fun _ _ h1 => ?_) ?_
  · refine KF_mk ?_
    refine keeps_emberWriteP ?_
    · refine KF_fst ?_
      exact h1
  · refine KF_mk ?_
    exact g5

theorem keeps_mountHint {a1} (g1 : Keeps r a1) : KP (Keeps r) (Sys2Proof.Machine.mountHint a1) := by
  unfold Sys2Proof.Machine.mountHint
  refine keeps_ite (P := KP (Keeps r)) ?_ ?_
  · refine KP_mk ?_
    exact g1
  · split
    · rename_i q1
      have h2 : Keeps r _ := KP_of q1 (by
        refine keeps_fresh ?_
        · exact g1
        )
      refine KP_mk ?_
      exact h2

theorem keeps_peatStarting {a1} (g1 : Keeps r a1) : KP (Keeps r) (Sys2Proof.Machine.peatStarting a1) := by
  unfold Sys2Proof.Machine.peatStarting
  split
  · rename_i q1
    have h2 : Keeps r _ := KP_of q1 (by
      refine keeps_mountHint ?_
      · exact g1
      )
    refine KP_mk ?_
    exact h2

theorem keeps_takeOid {a1} (g1 : Keeps r a1) : KP (Keeps r) (Sys2Proof.Machine.takeOid a1) := by
  unfold Sys2Proof.Machine.takeOid
  refine KP_mk ?_
  exact keeps_same g1 rfl

theorem keeps_numberCmd {a1 a2} (g2 : Keeps r a2) : KP (Keeps r) (Sys2Proof.Machine.numberCmd a1 a2) := by
  unfold Sys2Proof.Machine.numberCmd
  split
  · rename_i q1
    have h2 : Keeps r _ := KP_of q1 (by
      refine keeps_takeOid ?_
      · exact g2
      )
    split
    · refine KP_mk ?_
      refine keeps_modRing ?_
      · exact h2
    · refine KP_mk ?_
      exact h2

theorem keeps_startOrder {a1 a2 a3} (g3 : Keeps r a3) : Keeps r (Sys2Proof.Machine.startOrder a1 a2 a3) := by
  unfold Sys2Proof.Machine.startOrder
  exact keeps_same g3 rfl

theorem keeps_takeOrder {a1 a2} (g2 : Keeps r a2) : KP (Keeps r) (Sys2Proof.Machine.takeOrder a1 a2) := by
  unfold Sys2Proof.Machine.takeOrder
  split
  · refine KP_mk ?_
    refine keeps_startOrder ?_
    · exact keeps_same g2 rfl
  · split
    · rename_i q1
      have h2 : Keeps r _ := KP_of q1 (by
        refine keeps_numberCmd ?_
        · exact g2
        )
      refine KP_mk ?_
      refine keeps_startOrder ?_
      · exact h2

theorem keeps_putBehind {a1 a2} (g2 : Keeps r a2) : Keeps r (Sys2Proof.Machine.putBehind a1 a2) := by
  unfold Sys2Proof.Machine.putBehind
  refine keeps_ite (P := Keeps r) ?_ ?_
  · exact g2
  · split
    · rename_i q1
      have h2 : Keeps r _ := KP_of q1 (by
        refine keeps_numberCmd ?_
        · exact g2
        )
      exact keeps_same h2 rfl

theorem keeps_writeOutput {a1 a2 a3} (g3 : Keeps r a3) : Keeps r (Sys2Proof.Machine.writeOutput a1 a2 a3) := by
  unfold Sys2Proof.Machine.writeOutput
  extract_lets -merge -useContext -underBinder +onlyGivenNames v1
  have h2 : ∀ a3 a4 a5 a6, Keeps r a6 → Keeps r (v1 a3 a4 a5 a6) := by
    subst v1
    intro _ _ _ _ h7
    beta_reduce
    refine keeps_ite (P := Keeps r) ?_ ?_
    · exact h7
    · refine keeps_ite (P := Keeps r) ?_ ?_
      · split
        · exact h7
        · refine keeps_regionWriteP ?_
          · exact h7
      · refine keeps_ite (P := Keeps r) ?_ ?_
        · split
          · rename_i q8
            have h9 : Keeps r _ := KP_of q8 (by
              refine keeps_fresh ?_
              · exact h7
              )
            refine keeps_emit ?_
            · exact h9
        · refine keeps_emit ?_
          · exact h7
  try clear_value v1
  split
  · extract_lets -merge -useContext -underBinder +onlyGivenNames v10
    have h11 : Keeps r v10 := by
      subst v10
      refine h2 _ _ _ _ ?_
      · exact g3
    try clear_value v10
    extract_lets -merge -useContext -underBinder +onlyGivenNames v12
    have h13 : Keeps r v12 := by
      subst v12
      refine keeps_ite (P := Keeps r) ?_ ?_
      · refine keeps_foldl (P := Keeps r) (fun _ _ h14 => ?_) ?_
        · refine h2 _ _ _ _ ?_
          · exact h14
        · exact h11
      · exact h11
    try clear_value v12
    refine h2 _ _ _ _ ?_
    · exact h13

theorem keeps_writeInside {a1 a2 a3} (g3 : Keeps r a3) : Keeps r (Sys2Proof.Machine.writeInside a1 a2 a3) := by
  unfold Sys2Proof.Machine.writeInside
  refine keeps_ite (P := Keeps r) ?_ ?_
  · refine keeps_writeOutput ?_
    · exact g3
  · exact g3

theorem keeps_answerRemote {a1 a2 a3} (g3 : Keeps r a3) : Keeps r (Sys2Proof.Machine.answerRemote a1 a2 a3) := by
  unfold Sys2Proof.Machine.answerRemote
  split
  · refine keeps_sendDone ?_
    · exact g3
  · exact g3

theorem keeps_countAttend {a1 a2 a3} (g3 : Keeps r a3) : Keeps r (Sys2Proof.Machine.countAttend a1 a2 a3) := by
  unfold Sys2Proof.Machine.countAttend
  refine keeps_ite (P := Keeps r) ?_ ?_
  · exact keeps_same g3 rfl
  · exact g3

theorem keeps_complete {a1 a2 a3 a4} (g4 : Keeps r a4) : Keeps r (Sys2Proof.Machine.complete a1 a2 a3 a4) := by
  unfold Sys2Proof.Machine.complete
  extract_lets -merge -useContext -underBinder +onlyGivenNames _ v1
  have h2 : Keeps r v1 := by
    subst v1
    exact keeps_same g4 rfl
  try clear_value v1
  extract_lets -merge -useContext -underBinder +onlyGivenNames v3
  have h4 : Keeps r v3 := by
    subst v3
    refine keeps_countAttend ?_
    · refine keeps_ite (P := Keeps r) ?_ ?_
      · refine keeps_profileAdd ?_
        · exact h2
      · exact h2
  try clear_value v3
  split
  · refine keeps_ite (P := Keeps r) ?_ ?_
    · refine keeps_writeInside ?_
      · exact keeps_same h4 rfl
    · exact keeps_same h4 rfl
  · extract_lets -merge -useContext -underBinder +onlyGivenNames v5
    try clear_value v5
    refine keeps_ite (P := Keeps r) ?_ ?_
    · refine keeps_writeInside ?_
      · exact keeps_same h4 rfl
    · refine keeps_postReply ?_
      · refine keeps_writeOutput ?_
        · exact h4
  · refine keeps_ite (P := Keeps r) ?_ ?_
    · exact keeps_same h4 rfl
    · refine keeps_answerRemote ?_
      · exact h4
  · exact h4

theorem keeps_finish {a1 a2 a3} (g3 : Keeps r a3) : Keeps r (Sys2Proof.Machine.finish a1 a2 a3) := by
  unfold Sys2Proof.Machine.finish
  split
  · exact g3
  · refine keeps_complete ?_
    · exact g3

theorem keeps_poisonedEnd {a1 a2} (g2 : Keeps r a2) : KP (Keeps r) (Sys2Proof.Machine.poisonedEnd a1 a2) := by
  unfold Sys2Proof.Machine.poisonedEnd
  split
  · rename_i q1
    have h2 : Keeps r _ := KP_of q1 (by
      refine keeps_fresh ?_
      · exact g2
      )
    refine KP_mk ?_
    exact h2

theorem keeps_failInput {a1 a2 a3} (g3 : Keeps r a3) : KP (Keeps r) (Sys2Proof.Machine.failInput a1 a2 a3) := by
  unfold Sys2Proof.Machine.failInput
  refine keeps_ite (P := KP (Keeps r)) ?_ ?_
  · refine keeps_poisonedEnd ?_
    · exact g3
  · refine KP_mk ?_
    exact g3

theorem keeps_startCmd {a1 a2 a3 a4 a5} (g4 : ∀ b1 b2 b3, Keeps r b3 → KP (Keeps r) (a4 b1 b2 b3)) (g5 : Keeps r a5) : Keeps r (Sys2Proof.Machine.startCmd a1 a2 a3 a4 a5) := by
  unfold Sys2Proof.Machine.startCmd
  split
  · rename_i q1
    have h2 : Keeps r _ := KP_of q1 (by
      refine keeps_takeOrder ?_
      · exact g5
      )
    extract_lets -merge -useContext -underBinder +onlyGivenNames v3
    try clear_value v3
    split
    · refine keeps_complete ?_
      · exact h2
    · split
      · rename_i q4
        have h5 : Keeps r _ := KP_of q4 (by
          refine g4 _ _ _ ?_
          · exact h2
          )
        refine keeps_complete ?_
        · exact h5
      · rename_i q6
        have h7 : Keeps r _ := KP_of q6 (by
          refine g4 _ _ _ ?_
          · exact h2
          )
        exact keeps_same h7 rfl

theorem keeps_runCmd {a1 a2 a3 a4 a5} (g4 : ∀ b1 b2 b3, Keeps r b3 → KP (Keeps r) (a4 b1 b2 b3)) (g5 : Keeps r a5) : Keeps r (Sys2Proof.Machine.runCmd a1 a2 a3 a4 a5) := by
  unfold Sys2Proof.Machine.runCmd
  refine keeps_ite (P := Keeps r) ?_ ?_
  · refine keeps_startCmd ?_ ?_
    · intro _ _ _ h1
      refine g4 _ _ _ ?_
      · exact h1
    · exact g5
  · refine keeps_putBehind ?_
    · exact g5

theorem keeps_retryCmd {a1 a2 a3} (g2 : ∀ b1 b2 b3, Keeps r b3 → KP (Keeps r) (a2 b1 b2 b3)) (g3 : Keeps r a3) : Keeps r (Sys2Proof.Machine.retryCmd a1 a2 a3) := by
  unfold Sys2Proof.Machine.retryCmd
  split
  · exact g3
  · split
    · rename_i q1
      have h2 : Keeps r _ := KP_of q1 (by
        refine g2 _ _ _ ?_
        · exact keeps_same g3 rfl
        )
      refine keeps_complete ?_
      · exact h2
    · rename_i q3
      have h4 : Keeps r _ := KP_of q3 (by
        refine g2 _ _ _ ?_
        · exact keeps_same g3 rfl
        )
      exact h4

theorem keeps_stage {a1 a2 a3 a4 a5} (g5 : Keeps r a5) : KP (Keeps r) (Sys2Proof.Machine.stage a1 a2 a3 a4 a5) := by
  unfold Sys2Proof.Machine.stage
  refine KP_mk ?_
  exact keeps_same g5 rfl

theorem keeps_judge {a1 a2 a3 a4} (g4 : Keeps r a4) : KP (Keeps r) (Sys2Proof.Machine.judge a1 a2 a3 a4) := by
  unfold Sys2Proof.Machine.judge
  extract_lets -merge -useContext -underBinder +onlyGivenNames v1
  try clear_value v1
  extract_lets -merge -useContext -underBinder +onlyGivenNames v2
  try clear_value v2
  extract_lets -merge -useContext -underBinder +onlyGivenNames v3
  have h4 : ∀ a5, Keeps r a5 → Keeps r (v3 a5) := by
    subst v3
    intro _ h6
    beta_reduce
    exact keeps_same h6 rfl
  try clear_value v3
  split
  · refine KP_mk ?_
    refine h4 _ ?_
    · exact g4
  · refine keeps_ite (P := KP (Keeps r)) ?_ ?_
    · refine KP_mk ?_
      refine h4 _ ?_
      · exact g4
    · extract_lets -merge -useContext -underBinder +onlyGivenNames v7
      have h8 : Keeps r v7 := by
        subst v7
        refine keeps_raise ?_
        · exact g4
      try clear_value v7
      extract_lets -merge -useContext -underBinder +onlyGivenNames v9
      have h10 : Keeps r v9 := by
        subst v9
        refine keeps_raise ?_
        · exact h8
      try clear_value v9
      refine keeps_ite (P := KP (Keeps r)) ?_ ?_
      · refine KP_mk ?_
        exact h10
      · refine KP_mk ?_
        refine h4 _ ?_
        · exact h10

theorem keeps_badAccess {a1 a2 a3} (g3 : Keeps r a3) : Keeps r (Sys2Proof.Machine.badAccess a1 a2 a3) := by
  unfold Sys2Proof.Machine.badAccess
  exact keeps_same g3 rfl

theorem keeps_mbxAccess {a1 a2 a3 a4 a5} (g4 : ∀ b1, Keeps r b1 → Keeps r (a4 b1)) (g5 : Keeps r a5) : Keeps r (Sys2Proof.Machine.mbxAccess a1 a2 a3 a4 a5) := by
  unfold Sys2Proof.Machine.mbxAccess
  extract_lets -merge -useContext -underBinder +onlyGivenNames v1
  have h2 : Keeps r v1 := by
    subst v1
    refine keeps_lightAct ?_
    · exact g5
  try clear_value v1
  refine keeps_ite (P := Keeps r) ?_ ?_
  · exact h2
  · refine keeps_ite (P := Keeps r) ?_ ?_
    · refine keeps_badAccess ?_
      · exact h2
    · refine keeps_ite (P := Keeps r) ?_ ?_
      · refine keeps_raiseNode ?_
        · refine keeps_badAccess ?_
          · exact h2
      · refine g4 _ ?_
        · exact h2

theorem keeps_putInWord {a1 a2 a3} (g3 : Keeps r a3) : Keeps r (Sys2Proof.Machine.putInWord a1 a2 a3) := by
  unfold Sys2Proof.Machine.putInWord
  extract_lets -merge -useContext -underBinder +onlyGivenNames v1
  try clear_value v1
  refine keeps_ite (P := Keeps r) ?_ ?_
  · refine keeps_setMbx ?_
    · exact g3
  · refine keeps_setMbx ?_
    · exact g3

theorem keeps_putParam {a1 a2 a3 a4} (g4 : Keeps r a4) : Keeps r (Sys2Proof.Machine.putParam a1 a2 a3 a4) := by
  unfold Sys2Proof.Machine.putParam
  extract_lets -merge -useContext -underBinder +onlyGivenNames v1
  try clear_value v1
  refine keeps_ite (P := Keeps r) ?_ ?_
  · refine keeps_setMbx ?_
    · exact g4
  · refine keeps_setMbx ?_
    · exact g4

theorem keeps_mbxRaise {a1 a2 a3} (g3 : Keeps r a3) : Keeps r (Sys2Proof.Machine.mbxRaise a1 a2 a3) := by
  unfold Sys2Proof.Machine.mbxRaise
  refine keeps_ite (P := Keeps r) ?_ ?_
  · refine keeps_raiseVector ?_
    · exact g3
  · exact g3

theorem keeps_execMbxInWrite {a1 a2 a3 a4} (g4 : Keeps r a4) : KN (Keeps r) (Sys2Proof.Machine.execMbxInWrite a1 a2 a3 a4) := by
  unfold Sys2Proof.Machine.execMbxInWrite
  refine KN_next ?_
  refine keeps_hostTlp ?_
  · refine keeps_mbxAccess ?_ ?_
    · intro _ h1
      refine keeps_putInWord ?_
      · exact h1
    · exact g4

theorem keeps_execParamWrite {a1 a2 a3 a4 a5} (g5 : Keeps r a5) : KN (Keeps r) (Sys2Proof.Machine.execParamWrite a1 a2 a3 a4 a5) := by
  unfold Sys2Proof.Machine.execParamWrite
  refine KN_next ?_
  refine keeps_hostTlp ?_
  · refine keeps_mbxAccess ?_ ?_
    · intro _ h1
      refine keeps_putParam ?_
      · exact h1
    · exact g5

theorem keeps_execMbxOutRelease {a1 a2 a3} (g3 : Keeps r a3) : KN (Keeps r) (Sys2Proof.Machine.execMbxOutRelease a1 a2 a3) := by
  unfold Sys2Proof.Machine.execMbxOutRelease
  refine KN_next ?_
  refine keeps_hostTlp ?_
  · refine keeps_mbxAccess ?_ ?_
    · intro _ h1
      beta_reduce
      refine keeps_setMbx ?_
      · exact h1
    · exact g3

theorem keeps_execMctpMbxRequest {a1 a2 a3 a4 a5 a6} (g6 : Keeps r a6) : KN (Keeps r) (Sys2Proof.Machine.execMctpMbxRequest a1 a2 a3 a4 a5 a6) := by
  unfold Sys2Proof.Machine.execMctpMbxRequest
  refine KN_next ?_
  split
  · exact g6
  · refine keeps_ite (P := Keeps r) ?_ ?_
    · exact g6
    · extract_lets -merge -useContext -underBinder +onlyGivenNames v1
      have h2 : Keeps r v1 := by
        subst v1
        refine keeps_putInWord ?_
        · refine keeps_putParam ?_
          · exact g6
      try clear_value v1
      refine keeps_setMbx ?_
      · exact h2

theorem keeps_acceptWord {a1 a2} (g2 : Keeps r a2) : Keeps r (Sys2Proof.Machine.acceptWord a1 a2) := by
  unfold Sys2Proof.Machine.acceptWord
  extract_lets -merge -useContext -underBinder +onlyGivenNames v1
  try clear_value v1
  refine keeps_ite (P := Keeps r) ?_ ?_
  · exact g2
  · extract_lets -merge -useContext -underBinder +onlyGivenNames v2
    have h3 : Keeps r v2 := by
      subst v2
      refine keeps_mbxRaise ?_
      · refine keeps_setMbx ?_
        · exact g2
    try clear_value v2
    extract_lets -merge -useContext -underBinder +onlyGivenNames v4
    try clear_value v4
    extract_lets -merge -useContext -underBinder +onlyGivenNames v5
    try clear_value v5
    refine keeps_ite (P := Keeps r) ?_ ?_
    · refine keeps_postReply ?_
      · exact h3
    · refine keeps_ite (P := Keeps r) ?_ ?_
      · refine keeps_postReply ?_
        · exact h3
      · refine keeps_ite (P := Keeps r) ?_ ?_
        · refine keeps_postReply ?_
          · exact h3
        · split
          · rename_i q6
            have h7 : Keeps r _ := KP_of q6 (by
              refine keeps_takeOid ?_
              · exact h3
              )
            refine keeps_setMbx ?_
            · exact h7

theorem keeps_execMbxAccept {a1 a2} (g2 : Keeps r a2) : KN (Keeps r) (Sys2Proof.Machine.execMbxAccept a1 a2) := by
  unfold Sys2Proof.Machine.execMbxAccept
  refine KN_next ?_
  refine keeps_acceptWord ?_
  · exact g2

theorem keeps_execMbxReplyPost {a1 a2} (g2 : Keeps r a2) : KN (Keeps r) (Sys2Proof.Machine.execMbxReplyPost a1 a2) := by
  unfold Sys2Proof.Machine.execMbxReplyPost
  extract_lets -merge -useContext -underBinder +onlyGivenNames v1
  try clear_value v1
  refine KN_next ?_
  split
  · exact g2
  · refine keeps_ite (P := Keeps r) ?_ ?_
    · exact g2
    · extract_lets -merge -useContext -underBinder +onlyGivenNames v2
      have h3 : Keeps r v2 := by
        subst v2
        refine keeps_setMbx ?_
        · exact g2
      try clear_value v2
      refine keeps_ite (P := Keeps r) ?_ ?_
      · refine keeps_emit ?_
        · exact h3
      · refine keeps_mbxRaise ?_
        · exact h3

theorem keeps_execFetchHoldWrite {a1 a2} (g2 : Keeps r a2) : KN (Keeps r) (Sys2Proof.Machine.execFetchHoldWrite a1 a2) := by
  unfold Sys2Proof.Machine.execFetchHoldWrite
  extract_lets -merge -useContext -underBinder +onlyGivenNames v1
  have h2 : Keeps r v1 := by
    subst v1
    refine keeps_lightAct ?_
    · exact g2
  try clear_value v1
  refine KN_next ?_
  refine keeps_hostTlp ?_
  · refine keeps_ite (P := Keeps r) ?_ ?_
    · exact h2
    · exact keeps_same h2 rfl

theorem keeps_restartCloni {a1 a2 a3} (g3 : Keeps r a3) : Keeps r (Sys2Proof.Machine.restartCloni a1 a2 a3) := by
  unfold Sys2Proof.Machine.restartCloni
  extract_lets -merge -useContext -underBinder +onlyGivenNames v1
  try clear_value v1
  extract_lets -merge -useContext -underBinder +onlyGivenNames v2
  try clear_value v2
  extract_lets -merge -useContext -underBinder +onlyGivenNames _ v3
  have h4 : Keeps r v3 := by
    subst v3
    exact keeps_same g3 rfl
  try clear_value v3
  refine keeps_raiseN ?_
  · exact h4

theorem keeps_execSoftRestart {a1} (g1 : Keeps r a1) : KN (Keeps r) (Sys2Proof.Machine.execSoftRestart a1) := by
  unfold Sys2Proof.Machine.execSoftRestart
  extract_lets -merge -useContext -underBinder +onlyGivenNames v1
  have h2 : Keeps r v1 := by
    subst v1
    refine keeps_lightAct ?_
    · exact g1
  try clear_value v1
  refine KN_next ?_
  refine keeps_hostTlp ?_
  · refine keeps_ite (P := Keeps r) ?_ ?_
    · refine keeps_restartCloni ?_
      · exact h2
    · exact h2

theorem keeps_execHeartbeatTick {a1} (g1 : Keeps r a1) : KN (Keeps r) (Sys2Proof.Machine.execHeartbeatTick a1) := by
  unfold Sys2Proof.Machine.execHeartbeatTick
  refine KN_next ?_
  refine keeps_ite (P := Keeps r) ?_ ?_
  · exact keeps_same g1 rfl
  · exact g1

theorem keeps_execLockstepMismatch {a1} (g1 : Keeps r a1) : KN (Keeps r) (Sys2Proof.Machine.execLockstepMismatch a1) := by
  unfold Sys2Proof.Machine.execLockstepMismatch
  refine KN_next ?_
  refine keeps_ite (P := Keeps r) ?_ ?_
  · exact g1
  · split
    · rename_i q1
      have h2 : Keeps r _ := KP_of q1 (by
        refine keeps_sparkCheck ?_
        · exact g1
        )
      extract_lets -merge -useContext -underBinder +onlyGivenNames v3
      try clear_value v3
      extract_lets -merge -useContext -underBinder +onlyGivenNames v4
      try clear_value v4
      extract_lets -merge -useContext -underBinder +onlyGivenNames v5
      try clear_value v5
      extract_lets -merge -useContext -underBinder +onlyGivenNames v6
      try clear_value v6
      refine keeps_restartCloni ?_
      · exact keeps_same h2 rfl

theorem keeps_abortWords {a1 a2} (g2 : Keeps r a2) : Keeps r (Sys2Proof.Machine.abortWords a1 a2) := by
  unfold Sys2Proof.Machine.abortWords
  extract_lets -merge -useContext -underBinder +onlyGivenNames v1
  try clear_value v1
  refine keeps_foldl (P := Keeps r) (fun _ _ h2 => ?_) ?_
  · refine keeps_ite (P := Keeps r) ?_ ?_
    · exact keeps_same h2 rfl
    · refine keeps_postReply ?_
      · exact h2
  · refine keeps_setMbx ?_
    · exact g2

theorem keeps_execCloniRestartDone {a1} (g1 : Keeps r a1) : KN (Keeps r) (Sys2Proof.Machine.execCloniRestartDone a1) := by
  unfold Sys2Proof.Machine.execCloniRestartDone
  refine KN_next ?_
  refine keeps_ite (P := Keeps r) ?_ ?_
  · exact g1
  · extract_lets -merge -useContext -underBinder +onlyGivenNames v1
    try clear_value v1
    extract_lets -merge -useContext -underBinder +onlyGivenNames v2
    try clear_value v2
    extract_lets -merge -useContext -underBinder +onlyGivenNames _ v3
    have h4 : Keeps r v3 := by
      subst v3
      exact keeps_same g1 rfl
    try clear_value v3
    extract_lets -merge -useContext -underBinder +onlyGivenNames v5
    have h6 : Keeps r v5 := by
      subst v5
      refine keeps_foldl (P := Keeps r) (fun _ _ h7 => ?_) ?_
      · refine keeps_answerRemote ?_
        · exact h7
      · exact h4
    try clear_value v5
    extract_lets -merge -useContext -underBinder +onlyGivenNames v8
    have h9 : Keeps r v8 := by
      subst v8
      refine keeps_foldl (P := Keeps r) (fun _ _ h10 => ?_) ?_
      · refine keeps_complete ?_
        · exact h10
      · exact h6
    try clear_value v8
    refine keeps_foldl (P := Keeps r) (fun _ _ h11 => ?_) ?_
    · refine keeps_abortWords ?_
      · exact h11
    · exact h9

theorem keeps_withAccepted {a1 a2 a3 a4} (g3 : ∀ b1 b2, Keeps r b2 → Keeps r (a3 b1 b2)) (g4 : Keeps r a4) : Keeps r (Sys2Proof.Machine.withAccepted a1 a2 a3 a4) := by
  unfold Sys2Proof.Machine.withAccepted
  extract_lets -merge -useContext -underBinder +onlyGivenNames v1
  try clear_value v1
  split
  · exact g4
  · refine keeps_ite (P := Keeps r) ?_ ?_
    · refine g3 _ _ ?_
      · refine keeps_setMbx ?_
        · exact g4
    · exact g4

theorem keeps_withWord {a1 a2 a3 a4} (g3 : ∀ b1 b2 b3 b4, Keeps r b4 → Keeps r (a3 b1 b2 b3 b4)) (g4 : Keeps r a4) : Keeps r (Sys2Proof.Machine.withWord a1 a2 a3 a4) := by
  unfold Sys2Proof.Machine.withWord
  refine keeps_withAccepted ?_ ?_
  · intro _ _ h1
    beta_reduce
    refine g3 _ _ _ _ ?_
    · exact h1
  · exact g4

theorem keeps_execCapQuery {a1 a2} (g2 : Keeps r a2) : KN (Keeps r) (Sys2Proof.Machine.execCapQuery a1 a2) := by
  unfold Sys2Proof.Machine.execCapQuery
  refine KN_next ?_
  refine keeps_withWord ?_ ?_
  · intro _ _ _ _ h1
    beta_reduce
    refine keeps_ite (P := Keeps r) ?_ ?_
    · refine keeps_postReply ?_
      · exact h1
    · refine keeps_postReply ?_
      · exact h1
  · exact g2

theorem keeps_execClnEcho {a1 a2} (g2 : Keeps r a2) : KN (Keeps r) (Sys2Proof.Machine.execClnEcho a1 a2) := by
  unfold Sys2Proof.Machine.execClnEcho
  refine KN_next ?_
  refine keeps_withWord ?_ ?_
  · intro _ _ _ _ h1
    beta_reduce
    refine keeps_postReply ?_
    · exact h1
  · exact g2

theorem keeps_putFetched {a1 a2 a3 a4} (g4 : Keeps r a4) : Keeps r (Sys2Proof.Machine.putFetched a1 a2 a3 a4) := by
  unfold Sys2Proof.Machine.putFetched
  refine keeps_ite (P := Keeps r) ?_ ?_
  · exact keeps_same g4 rfl
  · refine keeps_complete ?_
    · exact g4

theorem keeps_execCcsIndirect {a1 a2 a3} (g3 : Keeps r a3) : KN (Keeps r) (Sys2Proof.Machine.execCcsIndirect a1 a2 a3) := by
  unfold Sys2Proof.Machine.execCcsIndirect
  refine KN_next ?_
  refine keeps_withAccepted ?_ ?_
  · intro _ _ h1
    beta_reduce
    refine keeps_ite (P := Keeps r) ?_ ?_
    · refine keeps_postReply ?_
      · exact h1
    · refine keeps_putFetched ?_
      · exact h1
  · exact g3

theorem keeps_drainEnd {a1 a2} (g2 : Keeps r a2) : Keeps r (Sys2Proof.Machine.drainEnd a1 a2) := by
  unfold Sys2Proof.Machine.drainEnd
  extract_lets -merge -useContext -underBinder +onlyGivenNames v1
  try clear_value v1
  refine keeps_ite (P := Keeps r) ?_ ?_
  · extract_lets -merge -useContext -underBinder +onlyGivenNames _ v2
    have h3 : Keeps r v2 := by
      subst v2
      exact keeps_same g2 rfl
    try clear_value v2
    split
    · exact h3
    · refine keeps_postReply ?_
      · exact h3
  · exact g2

theorem keeps_stopRing {a1 a2} (g2 : Keeps r a2) : Keeps r (Sys2Proof.Machine.stopRing a1 a2) := by
  unfold Sys2Proof.Machine.stopRing
  extract_lets -merge -useContext -underBinder +onlyGivenNames v1
  try clear_value v1
  refine keeps_ite (P := Keeps r) ?_ ?_
  · refine keeps_setRing ?_
    · exact g2
  · exact g2

theorem keeps_execRingCreate {a1 a2} (g2 : Keeps r a2) : KN (Keeps r) (Sys2Proof.Machine.execRingCreate a1 a2) := by
  unfold Sys2Proof.Machine.execRingCreate
  refine KN_next ?_
  refine keeps_withWord ?_ ?_
  · intro _ _ _ _ h1
    beta_reduce
    refine keeps_ite (P := Keeps r) ?_ ?_
    · refine keeps_postReply ?_
      · exact h1
    · split
      · split
        · refine keeps_postReply ?_
          · exact h1
        · refine keeps_postReply ?_
          · refine keeps_setRing ?_
            · exact h1
  · exact g2

theorem keeps_execRingDestroy {a1 a2} (g2 : Keeps r a2) : KN (Keeps r) (Sys2Proof.Machine.execRingDestroy a1 a2) := by
  unfold Sys2Proof.Machine.execRingDestroy
  refine KN_next ?_
  refine keeps_withWord ?_ ?_
  · intro _ _ _ _ h1
    beta_reduce
    refine keeps_ite (P := Keeps r) ?_ ?_
    · refine keeps_postReply ?_
      · exact h1
    · extract_lets -merge -useContext -underBinder +onlyGivenNames v2
      try clear_value v2
      refine keeps_ite (P := Keeps r) ?_ ?_
      · refine keeps_drainEnd ?_
        · refine keeps_setRing ?_
          · exact h1
      · refine keeps_postReply ?_
        · exact h1
  · exact g2

theorem keeps_execRingReset {a1 a2} (g2 : Keeps r a2) : KN (Keeps r) (Sys2Proof.Machine.execRingReset a1 a2) := by
  unfold Sys2Proof.Machine.execRingReset
  refine KN_next ?_
  refine keeps_withWord ?_ ?_
  · intro _ _ _ _ h1
    beta_reduce
    refine keeps_ite (P := Keeps r) ?_ ?_
    · refine keeps_postReply ?_
      · exact h1
    · extract_lets -merge -useContext -underBinder +onlyGivenNames v2
      try clear_value v2
      refine keeps_ite (P := Keeps r) ?_ ?_
      · refine keeps_postReply ?_
        · refine keeps_setRing ?_
          · exact h1
      · refine keeps_postReply ?_
        · exact h1
  · exact g2

theorem keeps_execRingQuery {a1 a2} (g2 : Keeps r a2) : KN (Keeps r) (Sys2Proof.Machine.execRingQuery a1 a2) := by
  unfold Sys2Proof.Machine.execRingQuery
  refine KN_next ?_
  refine keeps_withWord ?_ ?_
  · intro _ _ _ _ h1
    beta_reduce
    refine keeps_ite (P := Keeps r) ?_ ?_
    · refine keeps_postReply ?_
      · exact h1
    · extract_lets -merge -useContext -underBinder +onlyGivenNames v2
      try clear_value v2
      refine keeps_postReply ?_
      · exact h1
  · exact g2

theorem keeps_execEventQueueCreate {a1 a2} (g2 : Keeps r a2) : KN (Keeps r) (Sys2Proof.Machine.execEventQueueCreate a1 a2) := by
  unfold Sys2Proof.Machine.execEventQueueCreate
  refine KN_next ?_
  refine keeps_withWord ?_ ?_
  · intro _ _ _ _ h1
    beta_reduce
    extract_lets -merge -useContext -underBinder +onlyGivenNames v2
    try clear_value v2
    extract_lets -merge -useContext -underBinder +onlyGivenNames v3
    try clear_value v3
    refine keeps_ite (P := Keeps r) ?_ ?_
    · refine keeps_postReply ?_
      · exact h1
    · refine keeps_ite (P := Keeps r) ?_ ?_
      · refine keeps_postReply ?_
        · exact h1
      · refine keeps_postReply ?_
        · exact keeps_same h1 rfl
  · exact g2

theorem keeps_execEventQueueDestroy {a1 a2} (g2 : Keeps r a2) : KN (Keeps r) (Sys2Proof.Machine.execEventQueueDestroy a1 a2) := by
  unfold Sys2Proof.Machine.execEventQueueDestroy
  refine KN_next ?_
  refine keeps_withWord ?_ ?_
  · intro _ _ _ _ h1
    beta_reduce
    refine keeps_ite (P := Keeps r) ?_ ?_
    · refine keeps_postReply ?_
      · exact h1
    · refine keeps_ite (P := Keeps r) ?_ ?_
      · refine keeps_postReply ?_
        · exact h1
      · refine keeps_postReply ?_
        · exact keeps_same h1 rfl
  · exact g2

theorem keeps_dropDoorbell {a1} (g1 : Keeps r a1) : Keeps r (Sys2Proof.Machine.dropDoorbell a1) := by
  unfold Sys2Proof.Machine.dropDoorbell
  exact keeps_same g1 rfl

theorem keeps_writeSqTail {a1 a2 a3} (g3 : Keeps r a3) : Keeps r (Sys2Proof.Machine.writeSqTail a1 a2 a3) := by
  unfold Sys2Proof.Machine.writeSqTail
  extract_lets -merge -useContext -underBinder +onlyGivenNames v1
  try clear_value v1
  extract_lets -merge -useContext -underBinder +onlyGivenNames v2
  try clear_value v2
  refine keeps_ite (P := Keeps r) ?_ ?_
  · refine keeps_dropDoorbell ?_
    · exact g3
  · refine keeps_ite (P := Keeps r) ?_ ?_
    · refine keeps_raise ?_
      · refine keeps_dropDoorbell ?_
        · refine keeps_stopRing ?_
          · exact g3
    · refine keeps_setRing ?_
      · exact g3

theorem keeps_writeCqHead {a1 a2 a3} (g3 : Keeps r a3) : Keeps r (Sys2Proof.Machine.writeCqHead a1 a2 a3) := by
  unfold Sys2Proof.Machine.writeCqHead
  extract_lets -merge -useContext -underBinder +onlyGivenNames v1
  try clear_value v1
  extract_lets -merge -useContext -underBinder +onlyGivenNames v2
  try clear_value v2
  refine keeps_ite (P := Keeps r) ?_ ?_
  · refine keeps_dropDoorbell ?_
    · exact g3
  · refine keeps_ite (P := Keeps r) ?_ ?_
    · exact g3
    · refine keeps_setRing ?_
      · exact g3

theorem keeps_execDbSqTailWrite {a1 a2 a3} (g3 : Keeps r a3) : KN (Keeps r) (Sys2Proof.Machine.execDbSqTailWrite a1 a2 a3) := by
  unfold Sys2Proof.Machine.execDbSqTailWrite
  extract_lets -merge -useContext -underBinder +onlyGivenNames v1
  have h2 : Keeps r v1 := by
    subst v1
    refine keeps_lightAct ?_
    · exact g3
  try clear_value v1
  refine KN_next ?_
  refine keeps_hostTlp ?_
  · refine keeps_ite (P := Keeps r) ?_ ?_
    · exact h2
    · refine keeps_writeSqTail ?_
      · exact h2

theorem keeps_execDbCqHeadWrite {a1 a2 a3} (g3 : Keeps r a3) : KN (Keeps r) (Sys2Proof.Machine.execDbCqHeadWrite a1 a2 a3) := by
  unfold Sys2Proof.Machine.execDbCqHeadWrite
  extract_lets -merge -useContext -underBinder +onlyGivenNames v1
  have h2 : Keeps r v1 := by
    subst v1
    refine keeps_lightAct ?_
    · exact g3
  try clear_value v1
  refine KN_next ?_
  refine keeps_hostTlp ?_
  · refine keeps_ite (P := Keeps r) ?_ ?_
    · exact h2
    · refine keeps_writeCqHead ?_
      · exact h2

theorem keeps_countFetch {a1 a2 a3} (g3 : Keeps r a3) : Keeps r (Sys2Proof.Machine.countFetch a1 a2 a3) := by
  unfold Sys2Proof.Machine.countFetch
  refine keeps_modInst ?_
  · exact g3

theorem keeps_ringFails {a1 a2 a3 a4 a5} (g5 : Keeps r a5) : Keeps r (Sys2Proof.Machine.ringFails a1 a2 a3 a4 a5) := by
  unfold Sys2Proof.Machine.ringFails
  extract_lets -merge -useContext -underBinder +onlyGivenNames v1
  try clear_value v1
  refine keeps_raiseN ?_
  · refine keeps_stopRing ?_
    · exact g5

theorem keeps_execDescriptorFetch {a1 a2 a3 a4 a5} (g5 : Keeps r a5) : KN (Keeps r) (Sys2Proof.Machine.execDescriptorFetch a1 a2 a3 a4 a5) := by
  unfold Sys2Proof.Machine.execDescriptorFetch
  extract_lets -merge -useContext -underBinder +onlyGivenNames v1
  try clear_value v1
  extract_lets -merge -useContext -underBinder +onlyGivenNames v2
  try clear_value v2
  split
  · refine KN_next ?_
    refine keeps_ite (P := Keeps r) ?_ ?_
    · exact g5
    · refine keeps_ite (P := Keeps r) ?_ ?_
      · refine keeps_tagsExhausted ?_
        · exact g5
      · split
        · rename_i q3
          have h4 : Keeps r _ := KP_of q3 (by
            split
            · refine KP_mk ?_
              exact g5
            · refine keeps_sparkFire ?_
              · exact g5
            )
          refine keeps_ite (P := Keeps r) ?_ ?_
          · refine keeps_ringFails ?_
            · exact h4
          · split
            · rename_i q5
              have h6 : Keeps r _ := KP_of q5 (by
                refine keeps_takeOid ?_
                · refine keeps_lightAct ?_
                  · exact h4
                )
              extract_lets -merge -useContext -underBinder +onlyGivenNames v7
              have h8 : Keeps r v7 := by
                subst v7
                refine keeps_setRing ?_
                · exact h6
              try clear_value v7
              extract_lets -merge -useContext -underBinder +onlyGivenNames v9
              have h10 : Keeps r v9 := by
                subst v9
                refine keeps_countFetch ?_
                · refine keeps_setInst ?_
                  · exact h8
              try clear_value v9
              refine keeps_putFetched ?_
              · exact keeps_same h10 rfl

theorem keeps_coalesce {a1 a2 a3} (g3 : Keeps r a3) : Keeps r (Sys2Proof.Machine.coalesce a1 a2 a3) := by
  unfold Sys2Proof.Machine.coalesce
  extract_lets -merge -useContext -underBinder +onlyGivenNames v1
  try clear_value v1
  refine keeps_ite (P := Keeps r) ?_ ?_
  · exact g3
  · refine keeps_ite (P := Keeps r) ?_ ?_
    · refine keeps_raiseVector ?_
      · refine keeps_setRing ?_
        · exact g3
    · refine keeps_setRing ?_
      · exact g3

theorem keeps_writeRecord {a1 a2 a3} (g3 : Keeps r a3) : Keeps r (Sys2Proof.Machine.writeRecord a1 a2 a3) := by
  unfold Sys2Proof.Machine.writeRecord
  extract_lets -merge -useContext -underBinder +onlyGivenNames v1
  try clear_value v1
  extract_lets -merge -useContext -underBinder +onlyGivenNames v2
  try clear_value v2
  extract_lets -merge -useContext -underBinder +onlyGivenNames v3
  have h4 : Keeps r v3 := by
    subst v3
    refine keeps_emit ?_
    · exact g3
  try clear_value v3
  refine keeps_setRing ?_
  · exact h4

theorem keeps_execCommandComplete {a1 a2 a3} (g3 : Keeps r a3) : KN (Keeps r) (Sys2Proof.Machine.execCommandComplete a1 a2 a3) := by
  unfold Sys2Proof.Machine.execCommandComplete
  refine KN_next ?_
  split
  · exact g3
  · refine keeps_ite (P := Keeps r) ?_ ?_
    · exact g3
    · extract_lets -merge -useContext -underBinder +onlyGivenNames _ v1
      have h2 : Keeps r v1 := by
        subst v1
        exact keeps_same g3 rfl
      try clear_value v1
      refine keeps_drainEnd ?_
      · refine keeps_coalesce ?_
        · refine keeps_writeRecord ?_
          · refine keeps_writeOutput ?_
            · exact h2

theorem keeps_execRingCoalTimeout {a1 a2} (g2 : Keeps r a2) : KN (Keeps r) (Sys2Proof.Machine.execRingCoalTimeout a1 a2) := by
  unfold Sys2Proof.Machine.execRingCoalTimeout
  extract_lets -merge -useContext -underBinder +onlyGivenNames v1
  try clear_value v1
  refine KN_next ?_
  split
  · exact g2
  · refine keeps_ite (P := Keeps r) ?_ ?_
    · exact g2
    · refine keeps_raiseVector ?_
      · refine keeps_setRing ?_
        · exact g2

theorem keeps_execRingDmaFailure {a1 a2 a3 a4 a5} (g5 : Keeps r a5) : KN (Keeps r) (Sys2Proof.Machine.execRingDmaFailure a1 a2 a3 a4 a5) := by
  unfold Sys2Proof.Machine.execRingDmaFailure
  extract_lets -merge -useContext -underBinder +onlyGivenNames v1
  try clear_value v1
  refine KN_next ?_
  refine keeps_ite (P := Keeps r) ?_ ?_
  · exact g5
  · extract_lets -merge -useContext -underBinder +onlyGivenNames v2
    have h3 : Keeps r v2 := by
      subst v2
      refine keeps_ringFails ?_
      · exact g5
    try clear_value v2
    split
    · exact h3
    · refine keeps_ite (P := Keeps r) ?_ ?_
      · refine keeps_ite (P := Keeps r) ?_ ?_
        · exact keeps_same h3 rfl
        · split
          · exact h3
          · refine keeps_drainEnd ?_
            · refine keeps_modRing ?_
              · exact keeps_same h3 rfl
      · refine keeps_ite (P := Keeps r) ?_ ?_
        · split
          · rename_i q4
            have h5 : Keeps r _ := KP_of q4 (by
              refine keeps_numberCmd ?_
              · exact h3
              )
            refine keeps_complete ?_
            · exact h5
        · exact h3

theorem keeps_execFunctionLevelReset {a1} (g1 : Keeps r a1) : KN (Keeps r) (Sys2Proof.Machine.execFunctionLevelReset a1) := by
  unfold Sys2Proof.Machine.execFunctionLevelReset
  extract_lets -merge -useContext -underBinder +onlyGivenNames v1
  try clear_value v1
  extract_lets -merge -useContext -underBinder +onlyGivenNames v2
  try clear_value v2
  extract_lets -merge -useContext -underBinder +onlyGivenNames v3
  try clear_value v3
  extract_lets -merge -useContext -underBinder +onlyGivenNames v4
  try clear_value v4
  extract_lets -merge -useContext -underBinder +onlyGivenNames v5
  try clear_value v5
  extract_lets -merge -useContext -underBinder +onlyGivenNames v6
  have h7 : Keeps r v6 := by
    subst v6
    refine keeps_foldl (P := Keeps r) (fun _ _ h8 => ?_) ?_
    · refine keeps_writeInside ?_
      · exact h8
    · exact g1
  try clear_value v6
  extract_lets -merge -useContext -underBinder +onlyGivenNames _ v9
  have h10 : Keeps r v9 := by
    subst v9
    exact keeps_same h7 rfl
  try clear_value v9
  extract_lets -merge -useContext -underBinder +onlyGivenNames v11
  have h12 : Keeps r v11 := by
    subst v11
    refine keeps_foldl (P := Keeps r) (fun _ _ h13 => ?_) ?_
    · refine keeps_postReply ?_
      · exact h13
    · exact h10
  try clear_value v11
  refine KN_next ?_
  refine keeps_ite (P := Keeps r) ?_ ?_
  · refine keeps_restartCloni ?_
    · exact h12
  · exact h12

theorem keeps_execFunctionLevelResetDone {a1} (g1 : Keeps r a1) : KN (Keeps r) (Sys2Proof.Machine.execFunctionLevelResetDone a1) := by
  unfold Sys2Proof.Machine.execFunctionLevelResetDone
  refine KN_next ?_
  exact keeps_same g1 rfl

end Sys2Proof.Machine
end

