-- ==== Sys2Proof/Laws/KeepsTiers.lean ====
section
/-! SUPPORT. What the operations of the tier manager keep (`Keeps`): one lemma per operation. -/

namespace Sys2Proof.Machine

variable {r s t : State} {α β ε : Type}

theorem keeps_strainUpdate {a1 a2 a3} (g3 : Keeps r a3) : Keeps r (Sys2Proof.Machine.strainUpdate a1 a2 a3) := by
  unfold Sys2Proof.Machine.strainUpdate
  extract_lets -merge -useContext -underBinder +onlyGivenNames v1
  try clear_value v1
  extract_lets -merge -useContext -underBinder +onlyGivenNames v2
  try clear_value v2
  split
  · extract_lets -merge -useContext -underBinder +onlyGivenNames v3
    try clear_value v3
    extract_lets -merge -useContext -underBinder +onlyGivenNames v4
    have h5 : ∀ a6 a7, Keeps r a7 → Keeps r (v4 a6 a7) := by
      subst v4
      intro _ _ h8
      beta_reduce
      exact keeps_same h8 rfl
    try clear_value v4
    refine keeps_ite (P := Keeps r) ?_ ?_
    · refine keeps_raiseNode ?_
      · refine h5 _ _ ?_
        · exact g3
    · refine keeps_ite (P := Keeps r) ?_ ?_
      · refine keeps_raiseNode ?_
        · refine h5 _ _ ?_
          · exact g3
      · refine h5 _ _ ?_
        · exact g3

theorem keeps_saveTally {a1} (g1 : Keeps r a1) : Keeps r (Sys2Proof.Machine.saveTally a1) := by
  unfold Sys2Proof.Machine.saveTally
  extract_lets -merge -useContext -underBinder +onlyGivenNames _ v1
  try clear_value v1
  exact keeps_same g1 rfl

theorem keeps_recordFence {a1 a2 a3 a4 a5 a6} (g6 : Keeps r a6) : Keeps r (Sys2Proof.Machine.recordFence a1 a2 a3 a4 a5 a6) := by
  unfold Sys2Proof.Machine.recordFence
  extract_lets -merge -useContext -underBinder +onlyGivenNames v1
  try clear_value v1
  extract_lets -merge -useContext -underBinder +onlyGivenNames v2
  try clear_value v2
  extract_lets -merge -useContext -underBinder +onlyGivenNames v3
  try clear_value v3
  extract_lets -merge -useContext -underBinder +onlyGivenNames v4
  try clear_value v4
  extract_lets -merge -useContext -underBinder +onlyGivenNames v5
  have h6 : Keeps r v5 := by
    subst v5
    split
    · refine keeps_ite (P := Keeps r) ?_ ?_
      · refine keeps_countFault ?_
        · exact g6
      · exact g6
    · refine keeps_countFault ?_
      · exact g6
  try clear_value v5
  extract_lets -merge -useContext -underBinder +onlyGivenNames v7
  have h8 : Keeps r v7 := by
    subst v7
    split
    · exact h6
    · refine keeps_ite (P := Keeps r) ?_ ?_
      · refine keeps_tallyAdd ?_
        · exact h6
      · exact h6
  try clear_value v7
  extract_lets -merge -useContext -underBinder +onlyGivenNames v9
  try clear_value v9
  extract_lets -merge -useContext -underBinder +onlyGivenNames v10
  try clear_value v10
  extract_lets -merge -useContext -underBinder +onlyGivenNames _ _ v11
  have h12 : Keeps r v11 := by
    subst v11
    exact keeps_same h8 rfl
  try clear_value v11
  extract_lets -merge -useContext -underBinder +onlyGivenNames v13
  have h14 : Keeps r v13 := by
    subst v13
    refine keeps_saveTally ?_
    · refine keeps_strainUpdate ?_
      · exact h12
  try clear_value v13
  refine keeps_ite (P := Keeps r) ?_ ?_
  · refine keeps_raiseNode ?_
    · exact h14
  · exact h14

theorem keeps_endEnables {a1 a2 a3} (g3 : Keeps r a3) : Keeps r (Sys2Proof.Machine.endEnables a1 a2 a3) := by
  unfold Sys2Proof.Machine.endEnables
  refine keeps_foldl (P := Keeps r) (fun _ _ h1 => ?_) ?_
  · refine keeps_finish ?_
    · exact h1
  · exact g3

theorem keeps_tenantAdd {a1 a2 a3} (g3 : Keeps r a3) : Keeps r (Sys2Proof.Machine.tenantAdd a1 a2 a3) := by
  unfold Sys2Proof.Machine.tenantAdd
  split
  · exact g3
  · exact keeps_same g3 rfl

theorem keeps_setSeq {a1 a2 a3} (g3 : Keeps r a3) : Keeps r (Sys2Proof.Machine.setSeq a1 a2 a3) := by
  unfold Sys2Proof.Machine.setSeq
  exact keeps_same g3 rfl

theorem keeps_setBody {a1 a2 a3} (g3 : Keeps r a3) : Keeps r (Sys2Proof.Machine.setBody a1 a2 a3) := by
  unfold Sys2Proof.Machine.setBody
  exact keeps_same g3 rfl

theorem keeps_modBody {a1 a2 a3} (g3 : Keeps r a3) : Keeps r (Sys2Proof.Machine.modBody a1 a2 a3) := by
  unfold Sys2Proof.Machine.modBody
  exact keeps_same g3 rfl

theorem keeps_setEntry {a1 a2 a3 a4 a5 a6} (g6 : Keeps r a6) : Keeps r (Sys2Proof.Machine.setEntry a1 a2 a3 a4 a5 a6) := by
  unfold Sys2Proof.Machine.setEntry
  split
  · exact g6
  · refine keeps_setSeq ?_
    · exact g6

theorem keeps_dropMove {a1 a2} (g2 : Keeps r a2) : Keeps r (Sys2Proof.Machine.dropMove a1 a2) := by
  unfold Sys2Proof.Machine.dropMove
  extract_lets -merge -useContext -underBinder +onlyGivenNames v1
  try clear_value v1
  exact keeps_same g2 rfl

theorem keeps_useBody {a1 a2} (g2 : Keeps r a2) : Keeps r (Sys2Proof.Machine.useBody a1 a2) := by
  unfold Sys2Proof.Machine.useBody
  extract_lets -merge -useContext -underBinder +onlyGivenNames v1
  have h2 : Keeps r v1 := by
    subst v1
    refine keeps_dropMove ?_
    · exact g2
  try clear_value v1
  extract_lets -merge -useContext -underBinder +onlyGivenNames v3
  have h4 : Keeps r v3 := by
    subst v3
    refine keeps_modBody ?_
    · exact h2
  try clear_value v3
  exact keeps_same h4 rfl

theorem keeps_pinBodies {a1 a2} (g2 : Keeps r a2) : Keeps r (Sys2Proof.Machine.pinBodies a1 a2) := by
  unfold Sys2Proof.Machine.pinBodies
  refine keeps_foldl (P := Keeps r) (fun _ _ h1 => ?_) ?_
  · refine keeps_modBody ?_
    · refine keeps_useBody ?_
      · exact h1
  · exact g2

theorem keeps_unpinBodies {a1 a2} (g2 : Keeps r a2) : Keeps r (Sys2Proof.Machine.unpinBodies a1 a2) := by
  unfold Sys2Proof.Machine.unpinBodies
  refine keeps_foldl (P := Keeps r) (fun _ _ h1 => ?_) ?_
  · refine keeps_modBody ?_
    · exact h1
  · exact g2

theorem keeps_growExtents {a1 a2 a3} (g3 : Keeps r a3) : Keeps r (Sys2Proof.Machine.growExtents a1 a2 a3) := by
  unfold Sys2Proof.Machine.growExtents
  split
  · exact g3
  · extract_lets -merge -useContext -underBinder +onlyGivenNames v1
    try clear_value v1
    refine keeps_ite (P := Keeps r) ?_ ?_
    · extract_lets -merge -useContext -underBinder +onlyGivenNames v2
      have h3 : Keeps r v2 := by
        subst v2
        refine keeps_foldl (P := Keeps r) (fun _ _ h4 => ?_) ?_
        · refine keeps_emberWrite ?_
          · exact h4
        · exact g3
      try clear_value v2
      refine keeps_setBody ?_
      · exact h3
    · refine keeps_foldl (P := Keeps r) (fun _ _ h5 => ?_) ?_
      · split
        · exact h5
        · refine keeps_modBody ?_
          · refine keeps_emberWrite ?_
            · exact h5
      · exact g3

theorem keeps_writeExtents {a1 a2 a3} (g3 : Keeps r a3) : Keeps r (Sys2Proof.Machine.writeExtents a1 a2 a3) := by
  induction a1 generalizing a2 a3 with
  | nil => exact g3
  | cons e t ih =>
    unfold Sys2Proof.Machine.writeExtents
    split
    · exact g3
    · exact ih (keeps_emberWrite g3)

theorem keeps_writeBody {a1 a2 a3 a4} (g4 : Keeps r a4) : Keeps r (Sys2Proof.Machine.writeBody a1 a2 a3 a4) := by
  unfold Sys2Proof.Machine.writeBody
  split
  · exact g4
  · refine keeps_writeExtents ?_
    · refine keeps_emberWrite ?_
      · exact g4

theorem keeps_writeSheaf {a1 a2 a3} (g3 : Keeps r a3) : Keeps r (Sys2Proof.Machine.writeSheaf a1 a2 a3) := by
  unfold Sys2Proof.Machine.writeSheaf
  refine keeps_writeBody ?_
  · exact g3

theorem keeps_restoreBody {a1 a2 a3} (g3 : Keeps r a3) : Keeps r (Sys2Proof.Machine.restoreBody a1 a2 a3) := by
  unfold Sys2Proof.Machine.restoreBody
  split
  · exact g3
  · split
    · exact g3
    · extract_lets -merge -useContext -underBinder +onlyGivenNames v1
      try clear_value v1
      extract_lets -merge -useContext -underBinder +onlyGivenNames v2
      have h3 : Keeps r v2 := by
        subst v2
        refine keeps_growExtents ?_
        · exact g3
      try clear_value v2
      refine keeps_modBody ?_
      · refine keeps_writeSheaf ?_
        · exact h3

theorem keeps_addBody {a1 a2} (g2 : Keeps r a2) : KP (Keeps r) (Sys2Proof.Machine.addBody a1 a2) := by
  unfold Sys2Proof.Machine.addBody
  extract_lets -merge -useContext -underBinder +onlyGivenNames v1
  try clear_value v1
  refine KP_mk ?_
  refine keeps_zeroChunks ?_
  · refine keeps_setBody ?_
    · exact keeps_same g2 rfl

theorem keeps_copyOnWrite {a1 a2 a3} (g3 : Keeps r a3) : KO (KP (Keeps r)) (Sys2Proof.Machine.copyOnWrite a1 a2 a3) := by
  unfold Sys2Proof.Machine.copyOnWrite
  generalize getBody? a3 a1 = o
  cases o with
  | none => exact KO_none
  | some x =>
    simp only []
    have key : ∀ eda : Nat, KO (KP (Keeps r)) (match addBody { x with eda := eda, extents := [], refs := 1, implicit := 0, explicit := 0, coldKind := .none, coldTokens := 0, comp := none, state := .hot, dirty := true, changed := false } a3 with
        | (k, s) =>
          let s := copyBytes x.eda eda (1024 * x.chunks) s
          let s := growExtents k (512 * x.extents.length) s
          if !hasExtents s k (512 * x.extents.length) then none else
          let exts := ((getBody? s k).map (·.extents)).getD []
          let s := (x.extents.zip exts).foldl (fun s e => copyBytes e.1 e.2 512 s) s
          let s := modBody a1 (fun x => { x with refs := x.refs - 1 }) (useBody a1 s)
          some (k, if a2 < x.tokens then restoreBody k a2 s else s)) := by
      intro eda
      have ha : KP (Keeps r) (addBody { x with eda := eda, extents := [], refs := 1, implicit := 0, explicit := 0, coldKind := .none, coldTokens := 0, comp := none, state := .hot, dirty := true, changed := false } a3) := keeps_addBody g3
      generalize addBody { x with eda := eda, extents := [], refs := 1, implicit := 0, explicit := 0, coldKind := .none, coldTokens := 0, comp := none, state := .hot, dirty := true, changed := false } a3 = p at ha ⊢
      obtain ⟨k, s⟩ := p
      have h2 := keeps_growExtents (a1 := k) (a2 := 512 * x.extents.length) (keeps_copyBytes (a1 := x.eda) (a2 := eda) (a3 := 1024 * x.chunks) (show Keeps r s from ha))
      dsimp only
      generalize growExtents k (512 * x.extents.length) (copyBytes x.eda eda (1024 * x.chunks) s) = t at h2 ⊢
      refine keeps_ite (P := KO (KP (Keeps r))) KO_none (KO_some (KP_mk ?_))
      have h3 : Keeps r (modBody a1 (fun x => { x with refs := x.refs - 1 }) (useBody a1 ((x.extents.zip (((getBody? t k).map (·.extents)).getD [])).foldl (fun s e => copyBytes e.1 e.2 512 s) t))) :=
        keeps_modBody (keeps_useBody (keeps_foldl (P := Keeps r) (fun _ _ h => keeps_copyBytes h) h2))
      exact keeps_ite (P := Keeps r) (keeps_restoreBody h3) h3
    generalize findCongruent a3 x.chunks x.eda = o1
    generalize findRun a3 x.chunks = o2
    cases o1 with
    | some e => exact key e
    | none =>
      cases o2 with
      | some e => exact key e
      | none => exact KO_none

theorem keeps_setJournal {a1 a2 a3} (g3 : Keeps r a3) : Keeps r (Sys2Proof.Machine.setJournal a1 a2 a3) := by
  unfold Sys2Proof.Machine.setJournal
  exact keeps_same g3 rfl

theorem keeps_oweRecord {a1 a2 a3 a4} (g4 : Keeps r a4) : Keeps r (Sys2Proof.Machine.oweRecord a1 a2 a3 a4) := by
  unfold Sys2Proof.Machine.oweRecord
  exact keeps_same g4 rfl

theorem keeps_programRecord {a1 a2} (g2 : Keeps r a2) : Keeps r (Sys2Proof.Machine.programRecord a1 a2) := by
  unfold Sys2Proof.Machine.programRecord
  split
  · split
    · exact g2
    · refine keeps_setJournal ?_
      · exact g2
  · split
    · extract_lets -merge -useContext -underBinder +onlyGivenNames v1
      try clear_value v1
      refine keeps_setJournal ?_
      · exact g2
    · exact g2

theorem keeps_journalDenied {a1} (g1 : Keeps r a1) : KO (KP (Keeps r)) (Sys2Proof.Machine.journalDenied a1) := by
  unfold Sys2Proof.Machine.journalDenied
  refine keeps_ite (P := KO (KP (Keeps r))) ?_ ?_
  · exact KO_none
  · refine keeps_ite (P := KO (KP (Keeps r))) ?_ ?_
    · refine KO_some ?_
      refine keeps_peatStarting ?_
      · exact g1
    · refine keeps_ite (P := KO (KP (Keeps r))) ?_ ?_
      · refine KO_some ?_
        refine KP_mk ?_
        exact g1
      · exact KO_none

theorem keeps_noteDirty {a1 a2} (g2 : Keeps r a2) : KP (Keeps r) (Sys2Proof.Machine.noteDirty a1 a2) := by
  unfold Sys2Proof.Machine.noteDirty
  split
  · refine KP_mk ?_
    exact g2
  · refine keeps_ite (P := KP (Keeps r)) ?_ ?_
    · refine KP_mk ?_
      exact g2
    · refine KP_mk ?_
      refine keeps_setSeq ?_
      · exact g2

theorem keeps_noteClean {a1 a2} (g2 : Keeps r a2) : Keeps r (Sys2Proof.Machine.noteClean a1 a2) := by
  unfold Sys2Proof.Machine.noteClean
  refine keeps_foldl (P := Keeps r) (fun _ _ h1 => ?_) ?_
  · split
    · exact h1
    · refine keeps_ite (P := Keeps r) ?_ ?_
      · exact h1
      · extract_lets -merge -useContext -underBinder +onlyGivenNames v2
        have h3 : Keeps r v2 := by
          subst v2
          refine keeps_setSeq ?_
          · exact h1
        try clear_value v2
        split
        · exact h3
        · refine keeps_setJournal ?_
          · exact h3
  · exact g2

theorem keeps_journalEntries {a1 a2} (g2 : Keeps r a2) : Keeps r (Sys2Proof.Machine.journalEntries a1 a2) := by
  unfold Sys2Proof.Machine.journalEntries
  refine keeps_foldl (P := Keeps r) (fun _ _ h1 => ?_) ?_
  · split
    · split
      · exact h1
      · extract_lets -merge -useContext -underBinder +onlyGivenNames v2
        try clear_value v2
        refine keeps_setJournal ?_
        · exact h1
  · exact g2

theorem keeps_queueWb {a1 a2 a3} (g3 : Keeps r a3) : Keeps r (Sys2Proof.Machine.queueWb a1 a2 a3) := by
  unfold Sys2Proof.Machine.queueWb
  split
  · exact g3
  · refine keeps_ite (P := Keeps r) ?_ ?_
    · exact g3
    · split
      · exact keeps_same g3 rfl
      · refine keeps_ite (P := Keeps r) ?_ ?_
        · exact keeps_same g3 rfl
        · exact g3

theorem keeps_settleFlushes {a1} (g1 : Keeps r a1) : Keeps r (Sys2Proof.Machine.settleFlushes a1) := by
  unfold Sys2Proof.Machine.settleFlushes
  refine keeps_foldl (P := Keeps r) (fun _ _ h1 => ?_) ?_
  · split
    · refine keeps_ite (P := Keeps r) ?_ ?_
      · refine keeps_ite (P := Keeps r) ?_ ?_
        · refine keeps_finish ?_
          · exact keeps_same h1 rfl
        · exact h1
      · refine keeps_finish ?_
        · exact keeps_same h1 rfl
  · exact g1

theorem keeps_flushBody {a1 a2 a3 a4} (g4 : Keeps r a4) : Keeps r (Sys2Proof.Machine.flushBody a1 a2 a3 a4) := by
  unfold Sys2Proof.Machine.flushBody
  refine keeps_settleFlushes ?_
  · exact keeps_same g4 rfl

theorem keeps_reclaim {a1 a2} (g2 : Keeps r a2) : Keeps r (Sys2Proof.Machine.reclaim a1 a2) := by
  unfold Sys2Proof.Machine.reclaim
  split
  · exact g2
  · extract_lets -merge -useContext -underBinder +onlyGivenNames v1
    have h2 : Keeps r v1 := by
      subst v1
      refine keeps_zeroChunks ?_
      · exact g2
    try clear_value v1
    extract_lets -merge -useContext -underBinder +onlyGivenNames v3
    have h4 : Keeps r v3 := by
      subst v3
      refine keeps_foldl (P := Keeps r) (fun _ _ h5 => ?_) ?_
      · refine keeps_emberWrite ?_
        · exact h5
      · exact h2
    try clear_value v3
    extract_lets -merge -useContext -underBinder +onlyGivenNames _ v6
    have h7 : Keeps r v6 := by
      subst v6
      exact keeps_same h4 rfl
    try clear_value v6
    refine keeps_flushBody ?_
    · exact h7

theorem keeps_decRef {a1 a2} (g2 : Keeps r a2) : Keeps r (Sys2Proof.Machine.decRef a1 a2) := by
  unfold Sys2Proof.Machine.decRef
  extract_lets -merge -useContext -underBinder +onlyGivenNames v1
  try clear_value v1
  refine keeps_modBody ?_
  · exact g2

theorem keeps_incRef {a1 a2} (g2 : Keeps r a2) : Keeps r (Sys2Proof.Machine.incRef a1 a2) := by
  unfold Sys2Proof.Machine.incRef
  refine keeps_modBody ?_
  · exact g2

theorem keeps_addLosses {a1 a2} (g2 : Keeps r a2) : Keeps r (Sys2Proof.Machine.addLosses a1 a2) := by
  unfold Sys2Proof.Machine.addLosses
  extract_lets -merge -useContext -underBinder +onlyGivenNames v1
  try clear_value v1
  extract_lets -merge -useContext -underBinder +onlyGivenNames v2
  try clear_value v2
  extract_lets -merge -useContext -underBinder +onlyGivenNames _ v3
  have h4 : Keeps r v3 := by
    subst v3
    exact keeps_same g2 rfl
  try clear_value v3
  refine keeps_foldl (P := Keeps r) (fun _ _ h5 => ?_) ?_
  · extract_lets -merge -useContext -underBinder +onlyGivenNames v6
    try clear_value v6
    extract_lets -merge -useContext -underBinder +onlyGivenNames v7
    try clear_value v7
    extract_lets -merge -useContext -underBinder +onlyGivenNames v8
    try clear_value v8
    split
    · exact h5
    · refine keeps_raise ?_
      · exact h5
  · exact h4

theorem keeps_failItems {a1 a2 a3} (g2 : Keeps r a2) : Keeps r (Sys2Proof.Machine.failItems a1 a2 a3) := by
  unfold Sys2Proof.Machine.failItems
  refine keeps_foldl (P := Keeps r) (fun _ _ h1 => ?_) ?_
  · split
    · refine keeps_ite (P := Keeps r) ?_ ?_
      · exact h1
      · extract_lets -merge -useContext -underBinder +onlyGivenNames _ v2
        have h3 : Keeps r v2 := by
          subst v2
          refine keeps_unpinBodies ?_
          · exact keeps_same h1 rfl
        try clear_value v2
        refine keeps_ite (P := Keeps r) ?_ ?_
        · exact keeps_same h3 rfl
        · exact keeps_same h3 rfl
  · exact g2

theorem keeps_loseBodies {a1 a2 a3} (g3 : Keeps r a3) : Keeps r (Sys2Proof.Machine.loseBodies a1 a2 a3) := by
  unfold Sys2Proof.Machine.loseBodies
  extract_lets -merge -useContext -underBinder +onlyGivenNames v1
  try clear_value v1
  extract_lets -merge -useContext -underBinder +onlyGivenNames v2
  have h3 : Keeps r v2 := by
    subst v2
    refine keeps_foldl (P := Keeps r) (fun _ _ h4 => ?_) ?_
    · extract_lets -merge -useContext -underBinder +onlyGivenNames v5
      have h6 : Keeps r v5 := by
        subst v5
        refine keeps_dropMove ?_
        · refine keeps_modBody ?_
          · exact h4
      try clear_value v5
      extract_lets -merge -useContext -underBinder +onlyGivenNames _ v7
      have h8 : Keeps r v7 := by
        subst v7
        exact keeps_same h6 rfl
      try clear_value v7
      refine keeps_flushBody ?_
      · refine keeps_failItems ?_
        · exact h8
    · exact g3
  try clear_value v2
  refine keeps_addLosses ?_
  · exact h3

theorem keeps_demandFetch {a1 a2 a3} (g3 : Keeps r a3) : Keeps r (Sys2Proof.Machine.demandFetch a1 a2 a3) := by
  unfold Sys2Proof.Machine.demandFetch
  split
  · exact g3
  · refine keeps_ite (P := Keeps r) ?_ ?_
    · exact g3
    · refine keeps_ite (P := Keeps r) ?_ ?_
      · exact keeps_same g3 rfl
      · exact keeps_same g3 rfl

theorem keeps_adviseFetch {a1 a2 a3} (g3 : Keeps r a3) : Keeps r (Sys2Proof.Machine.adviseFetch a1 a2 a3) := by
  unfold Sys2Proof.Machine.adviseFetch
  split
  · exact g3
  · refine keeps_ite (P := Keeps r) ?_ ?_
    · exact g3
    · exact keeps_same g3 rfl

theorem keeps_loseChannel {a1 a2} (g2 : Keeps r a2) : KP (KP (Keeps r)) (Sys2Proof.Machine.loseChannel a1 a2) := by
  unfold Sys2Proof.Machine.loseChannel
  extract_lets -merge -useContext -underBinder +onlyGivenNames v1
  try clear_value v1
  extract_lets -merge -useContext -underBinder +onlyGivenNames v2
  try clear_value v2
  extract_lets -merge -useContext -underBinder +onlyGivenNames v3
  try clear_value v3
  extract_lets -merge -useContext -underBinder +onlyGivenNames v4
  try clear_value v4
  extract_lets -merge -useContext -underBinder +onlyGivenNames v5
  have h6 : Keeps r v5 := by
    subst v5
    refine keeps_foldl (P := Keeps r) (fun _ _ h7 => ?_) ?_
    · extract_lets -merge -useContext -underBinder +onlyGivenNames v8
      have h9 : Keeps r v8 := by
        subst v8
        refine keeps_dropMove ?_
        · refine keeps_modBody ?_
          · exact h7
      try clear_value v8
      extract_lets -merge -useContext -underBinder +onlyGivenNames _ v10
      have h11 : Keeps r v10 := by
        subst v10
        exact keeps_same h9 rfl
      try clear_value v10
      refine keeps_foldl (P := Keeps r) (fun _ _ h12 => ?_) ?_
      · refine keeps_demandFetch ?_
        · exact h12
      · exact h11
    · exact g2
  try clear_value v5
  refine KP_mk ?_
  refine KP_mk ?_
  refine keeps_loseBodies ?_
  · exact h6

theorem keeps_setBank {a1 a2 a3} (g3 : Keeps r a3) : Keeps r (Sys2Proof.Machine.setBank a1 a2 a3) := by
  unfold Sys2Proof.Machine.setBank
  exact keeps_same g3 rfl

theorem keeps_hitEntry {a1 a2} (g2 : Keeps r a2) : Keeps r (Sys2Proof.Machine.hitEntry a1 a2) := by
  unfold Sys2Proof.Machine.hitEntry
  extract_lets -merge -useContext -underBinder +onlyGivenNames v1
  have h2 : Keeps r v1 := by
    subst v1
    refine keeps_hubRead ?_
    · exact g2
  try clear_value v1
  exact keeps_same h2 rfl

theorem keeps_dropEntry {a1 a2 a3} (g3 : Keeps r a3) : Keeps r (Sys2Proof.Machine.dropEntry a1 a2 a3) := by
  unfold Sys2Proof.Machine.dropEntry
  exact keeps_same g3 rfl

theorem keeps_commitInsert {a1 a2 a3} (g3 : Keeps r a3) : Keeps r (Sys2Proof.Machine.commitInsert a1 a2 a3) := by
  unfold Sys2Proof.Machine.commitInsert
  split
  · exact g3
  · split
    · exact g3
    · extract_lets -merge -useContext -underBinder +onlyGivenNames v1
      try clear_value v1
      extract_lets -merge -useContext -underBinder +onlyGivenNames v2
      have h3 : Keeps r v2 := by
        subst v2
        refine keeps_setBank ?_
        · exact g3
      try clear_value v2
      exact keeps_same h3 rfl

theorem keeps_placeRecord {a1 a2 a3 a4 a5} (g5 : Keeps r a5) : KP (Keeps r) (Sys2Proof.Machine.placeRecord a1 a2 a3 a4 a5) := by
  unfold Sys2Proof.Machine.placeRecord
  extract_lets -merge -useContext -underBinder +onlyGivenNames v1
  try clear_value v1
  extract_lets -merge -useContext -underBinder +onlyGivenNames v2
  have h3 : ∀ a4 a5, Keeps r a4 → KP (Keeps r) (v2 a4 a5) := by
    subst v2
    intro _ _ h6
    beta_reduce
    refine keeps_ite (P := KP (Keeps r)) ?_ ?_
    · refine KP_mk ?_
      exact h6
    · refine KP_mk ?_
      refine keeps_setBank ?_
      · exact h6
  try clear_value v2
  split
  · refine h3 _ _ ?_
    · exact g5
  · split
    · refine KP_mk ?_
      exact g5
    · extract_lets -merge -useContext -underBinder +onlyGivenNames v7
      have h8 : Keeps r v7 := by
        subst v7
        refine keeps_dropEntry ?_
        · exact g5
      try clear_value v7
      split
      · refine h3 _ _ ?_
        · exact h8
      · refine KP_mk ?_
        exact h8

theorem keeps_postDropped {a1 a2 a3 a4} (g4 : Keeps r a4) : Keeps r (Sys2Proof.Machine.postDropped a1 a2 a3 a4) := by
  unfold Sys2Proof.Machine.postDropped
  refine keeps_raise ?_
  · exact g4

theorem keeps_placeRecords {a1 a2 a3 a4} (g4 : Keeps r a4) : KP (KP (Keeps r)) (Sys2Proof.Machine.placeRecords a1 a2 a3 a4) := by
  induction a2 generalizing a3 a4 with
  | nil => exact g4
  | cons e es ih =>
    unfold Sys2Proof.Machine.placeRecords
    split
    · rename_i q
      exact ih (KP_of (P := Keeps r) q (keeps_placeRecord g4))
    · rename_i q
      exact KP_of (P := Keeps r) q (keeps_placeRecord g4)
    · rename_i q
      have h : Keeps r _ := KP_of (P := Keeps r) q (keeps_placeRecord g4)
      refine KP_mk (KP_mk ?_)
      split
      · exact keeps_postDropped h
      · exact h

theorem keeps_settleInserts {a1} (g1 : Keeps r a1) : Keeps r (Sys2Proof.Machine.settleInserts a1) := by
  unfold Sys2Proof.Machine.settleInserts
  extract_lets -merge -useContext -underBinder +onlyGivenNames v1
  try clear_value v1
  extract_lets -merge -useContext -underBinder +onlyGivenNames v2
  try clear_value v2
  refine keeps_foldl (P := Keeps r) (fun _ _ h3 => ?_) ?_
  · split
    · exact h3
    · refine keeps_finish ?_
      · exact h3
  · exact keeps_same g1 rfl

theorem keeps_placeAll {a1} (g1 : Keeps r a1) : Keeps r (Sys2Proof.Machine.placeAll a1) := by
  unfold Sys2Proof.Machine.placeAll
  extract_lets -merge -useContext -underBinder +onlyGivenNames v1
  have h2 : KP (KP (Keeps r)) v1 := by
    subst v1
    refine keeps_foldl (P := KP (KP (Keeps r))) (fun _ _ h3 => ?_) ?_
    · split
      · rename_i q4
        have h5 : KP (Keeps r) _ := KP_of q4 (by
          refine keeps_placeRecords ?_
          · refine KP_snd ?_
            refine KP_snd ?_
            exact h3
          )
        have h5 : Keeps r _ := h5
        refine KP_mk ?_
        refine KP_mk ?_
        exact h5
    · refine KP_mk ?_
      refine KP_mk ?_
      exact g1
  try clear_value v1
  refine keeps_settleInserts ?_
  · extract_lets -merge -useContext -underBinder +onlyGivenNames v6
    have h7 : Keeps r v6 := by
      subst v6
      refine KP_snd ?_
      refine KP_snd ?_
      exact h2
    try clear_value v6
    exact keeps_same h7 rfl

theorem keeps_dropAuto {a1 a2 a3 a4} (g4 : Keeps r a4) : Keeps r (Sys2Proof.Machine.dropAuto a1 a2 a3 a4) := by
  unfold Sys2Proof.Machine.dropAuto
  extract_lets -merge -useContext -underBinder +onlyGivenNames v1
  try clear_value v1
  exact keeps_same g4 rfl

theorem keeps_enterPost {a1 a2 a3} (g3 : Keeps r a3) : Keeps r (Sys2Proof.Machine.enterPost a1 a2 a3) := by
  unfold Sys2Proof.Machine.enterPost
  split
  · refine keeps_postDropped ?_
    · exact g3
  · refine keeps_ite (P := Keeps r) ?_ ?_
    · refine keeps_postDropped ?_
      · exact g3
    · extract_lets -merge -useContext -underBinder +onlyGivenNames v1
      try clear_value v1
      extract_lets -merge -useContext -underBinder +onlyGivenNames v2
      try clear_value v2
      refine keeps_placeAll ?_
      · exact keeps_same g3 rfl

theorem keeps_settlePosts {a1 a2} (g2 : Keeps r a2) : Keeps r (Sys2Proof.Machine.settlePosts a1 a2) := by
  unfold Sys2Proof.Machine.settlePosts
  split
  · exact g2
  · extract_lets -merge -useContext -underBinder +onlyGivenNames v1
    try clear_value v1
    refine keeps_foldl (P := Keeps r) (fun _ _ h2 => ?_) ?_
    · refine keeps_enterPost ?_
      · exact h2
    · exact keeps_same g2 rfl

theorem keeps_dropPosts {a1 a2 a3} (g3 : Keeps r a3) : Keeps r (Sys2Proof.Machine.dropPosts a1 a2 a3) := by
  unfold Sys2Proof.Machine.dropPosts
  split
  · exact keeps_same g3 rfl
  · exact keeps_same g3 rfl

theorem keeps_setSwath {a1 a2 a3} (g3 : Keeps r a3) : Keeps r (Sys2Proof.Machine.setSwath a1 a2 a3) := by
  unfold Sys2Proof.Machine.setSwath
  exact keeps_same g3 rfl

theorem keeps_modSwath {a1 a2 a3} (g3 : Keeps r a3) : Keeps r (Sys2Proof.Machine.modSwath a1 a2 a3) := by
  unfold Sys2Proof.Machine.modSwath
  exact keeps_same g3 rfl

theorem keeps_startMerges {a1} (g1 : Keeps r a1) : Keeps r (Sys2Proof.Machine.startMerges a1) := by
  unfold Sys2Proof.Machine.startMerges
  extract_lets -merge -useContext -underBinder +onlyGivenNames v1
  try clear_value v1
  exact keeps_same g1 rfl

theorem keeps_markStale {a1 a2} (g2 : Keeps r a2) : Keeps r (Sys2Proof.Machine.markStale a1 a2) := by
  unfold Sys2Proof.Machine.markStale
  split
  · exact g2
  · split
    · exact g2
    · refine keeps_setSwath ?_
      · exact g2

theorem keeps_dropPosting {a1 a2} (g2 : Keeps r a2) : Keeps r (Sys2Proof.Machine.dropPosting a1 a2) := by
  unfold Sys2Proof.Machine.dropPosting
  split
  · exact g2
  · extract_lets -merge -useContext -underBinder +onlyGivenNames v1
    have h2 : Keeps r v1 := by
      subst v1
      refine keeps_markStale ?_
      · exact g2
    try clear_value v1
    refine keeps_raise ?_
    · exact h2

theorem keeps_enterPosting {a1 a2} (g2 : Keeps r a2) : Keeps r (Sys2Proof.Machine.enterPosting a1 a2) := by
  unfold Sys2Proof.Machine.enterPosting
  split
  · exact g2
  · split
    · refine keeps_dropPosting ?_
      · exact g2
    · refine keeps_startMerges ?_
      · refine keeps_setSwath ?_
        · exact g2

theorem keeps_takeSlot {a1 a2} (g2 : Keeps r a2) : Keeps r (Sys2Proof.Machine.takeSlot a1 a2) := by
  unfold Sys2Proof.Machine.takeSlot
  split
  · exact g2
  · split
    · exact g2
    · refine keeps_setSwath ?_
      · exact g2

theorem keeps_post {a1 a2} (g2 : Keeps r a2) : Keeps r (Sys2Proof.Machine.post a1 a2) := by
  unfold Sys2Proof.Machine.post
  refine keeps_ite (P := Keeps r) ?_ ?_
  · refine keeps_enterPosting ?_
    · exact g2
  · refine keeps_ite (P := Keeps r) ?_ ?_
    · extract_lets -merge -useContext -underBinder +onlyGivenNames v1
      have h2 : Keeps r v1 := by
        subst v1
        refine keeps_takeSlot ?_
        · exact g2
      try clear_value v1
      exact keeps_same h2 rfl
    · refine keeps_dropPosting ?_
      · exact g2

theorem keeps_retireItems {a1 a2} (g2 : Keeps r a2) : Keeps r (Sys2Proof.Machine.retireItems a1 a2) := by
  unfold Sys2Proof.Machine.retireItems
  refine keeps_startMerges ?_
  · exact keeps_same g2 rfl

theorem keeps_postSheaf {a1 a2 a3 a4 a5 a6 a7} (g7 : Keeps r a7) : Keeps r (Sys2Proof.Machine.postSheaf a1 a2 a3 a4 a5 a6 a7) := by
  unfold Sys2Proof.Machine.postSheaf
  split
  · split
    · refine keeps_ite (P := Keeps r) ?_ ?_
      · exact g7
      · refine keeps_ite (P := Keeps r) ?_ ?_
        · split
          · exact g7
          · refine keeps_post ?_
            · exact g7
        · refine keeps_ite (P := Keeps r) ?_ ?_
          · exact g7
          · refine keeps_adviseFetch ?_
            · exact keeps_same g7 rfl
    · exact g7
  · exact g7

theorem keeps_postArrived {a1 a2} (g2 : Keeps r a2) : Keeps r (Sys2Proof.Machine.postArrived a1 a2) := by
  unfold Sys2Proof.Machine.postArrived
  extract_lets -merge -useContext -underBinder +onlyGivenNames v1
  try clear_value v1
  extract_lets -merge -useContext -underBinder +onlyGivenNames _ v2
  have h3 : Keeps r v2 := by
    subst v2
    exact keeps_same g2 rfl
  try clear_value v2
  refine keeps_foldl (P := Keeps r) (fun _ _ h4 => ?_) ?_
  · split
    · exact h4
    · refine keeps_postSheaf ?_
      · exact h4
  · exact h3

theorem keeps_freeDropped {a1} (g1 : Keeps r a1) : Keeps r (Sys2Proof.Machine.freeDropped a1) := by
  unfold Sys2Proof.Machine.freeDropped
  exact keeps_same g1 rfl

theorem keeps_addSearch {a1 a2} (g2 : Keeps r a2) : Keeps r (Sys2Proof.Machine.addSearch a1 a2) := by
  unfold Sys2Proof.Machine.addSearch
  exact keeps_same g2 rfl

theorem keeps_unhold {a1 a2} (g2 : Keeps r a2) : Keeps r (Sys2Proof.Machine.unhold a1 a2) := by
  unfold Sys2Proof.Machine.unhold
  split
  · exact g2
  · refine keeps_freeDropped ?_
    · refine keeps_unpinBodies ?_
      · exact keeps_same g2 rfl

theorem keeps_hold {a1 a2 a3 a4 a5 a6} (g6 : Keeps r a6) : KP (Keeps r) (Sys2Proof.Machine.hold a1 a2 a3 a4 a5 a6) := by
  unfold Sys2Proof.Machine.hold
  extract_lets -merge -useContext -underBinder +onlyGivenNames v1
  have h2 : ∀ a3 a4 a5 a6, Keeps r a6 → KP (Keeps r) (v1 a3 a4 a5 a6) := by
    subst v1
    intro _ _ _ _ h7
    beta_reduce
    extract_lets -merge -useContext -underBinder +onlyGivenNames v8
    try clear_value v8
    refine KP_mk ?_
    refine keeps_pinBodies ?_
    · exact keeps_same h7 rfl
  try clear_value v1
  extract_lets -merge -useContext -underBinder +onlyGivenNames v9
  try clear_value v9
  split
  · refine h2 _ _ _ _ ?_
    · refine keeps_unhold ?_
      · exact g6
  · refine h2 _ _ _ _ ?_
    · exact keeps_same g6 rfl

theorem keeps_demandAll {a1 a2 a3} (g3 : Keeps r a3) : Keeps r (Sys2Proof.Machine.demandAll a1 a2 a3) := by
  unfold Sys2Proof.Machine.demandAll
  refine keeps_foldl (P := Keeps r) (fun _ _ h1 => ?_) ?_
  · refine keeps_demandFetch ?_
    · exact h1
  · exact g3

theorem keeps_bodiesDenied {a1 a2} (g2 : Keeps r a2) : KO (KP (Keeps r)) (Sys2Proof.Machine.bodiesDenied a1 a2) := by
  unfold Sys2Proof.Machine.bodiesDenied
  extract_lets -merge -useContext -underBinder +onlyGivenNames v1
  try clear_value v1
  refine keeps_ite (P := KO (KP (Keeps r))) ?_ ?_
  · refine KO_some ?_
    refine KP_mk ?_
    exact g2
  · refine keeps_ite (P := KO (KP (Keeps r))) ?_ ?_
    · refine KO_some ?_
      refine keeps_peatStarting ?_
      · exact g2
    · exact KO_none

theorem keeps_finishAttend {a1 a2} (g2 : Keeps r a2) : Keeps r (Sys2Proof.Machine.finishAttend a1 a2) := by
  unfold Sys2Proof.Machine.finishAttend
  split
  · exact g2
  · refine keeps_ite (P := Keeps r) ?_ ?_
    · exact g2
    · extract_lets -merge -useContext -underBinder +onlyGivenNames v1
      try clear_value v1
      extract_lets -merge -useContext -underBinder +onlyGivenNames _ v2
      have h3 : Keeps r v2 := by
        subst v2
        refine keeps_profileAdd ?_
        · exact keeps_same g2 rfl
      try clear_value v2
      refine keeps_finish ?_
      · exact h3

theorem keeps_addItem {a1 a2} (g2 : Keeps r a2) : Keeps r (Sys2Proof.Machine.addItem a1 a2) := by
  unfold Sys2Proof.Machine.addItem
  extract_lets -merge -useContext -underBinder +onlyGivenNames v1
  try clear_value v1
  extract_lets -merge -useContext -underBinder +onlyGivenNames v2
  have h3 : Keeps r v2 := by
    subst v2
    refine keeps_demandAll ?_
    · refine keeps_pinBodies ?_
      · exact g2
  try clear_value v2
  extract_lets -merge -useContext -underBinder +onlyGivenNames v4
  try clear_value v4
  exact keeps_same h3 rfl

theorem keeps_formItems {a1 a2} (g2 : Keeps r a2) : Keeps r (Sys2Proof.Machine.formItems a1 a2) := by
  unfold Sys2Proof.Machine.formItems
  split
  · exact g2
  · extract_lets -merge -useContext -underBinder +onlyGivenNames v1
    try clear_value v1
    extract_lets -merge -useContext -underBinder +onlyGivenNames v2
    try clear_value v2
    extract_lets -merge -useContext -underBinder +onlyGivenNames _ v3
    have h4 : Keeps r v3 := by
      subst v3
      exact keeps_same g2 rfl
    try clear_value v3
    extract_lets -merge -useContext -underBinder +onlyGivenNames v5
    have h6 : Keeps r v5 := by
      subst v5
      refine keeps_profileAdd ?_
      · exact h4
    try clear_value v5
    refine keeps_foldl (P := Keeps r) (fun _ _ h7 => ?_) ?_
    · split
      · refine keeps_addItem ?_
        · exact h7
    · exact h6

theorem keeps_attendSearch {a1 a2 a3 a4 a5 a6 a7 a8} (g8 : Keeps r a8) : KP (KP (Keeps r)) (Sys2Proof.Machine.attendSearch a1 a2 a3 a4 a5 a6 a7 a8) := by
  unfold Sys2Proof.Machine.attendSearch
  split
  · refine keeps_ite (P := KP (KP (Keeps r))) ?_ ?_
    · refine KP_mk ?_
      refine KP_mk ?_
      exact g8
    · refine KP_mk ?_
      refine KP_mk ?_
      refine keeps_raise ?_
      · exact keeps_same g8 rfl
  · split
    · refine KP_mk ?_
      refine KP_mk ?_
      exact g8
    · extract_lets -merge -useContext -underBinder +onlyGivenNames v1
      try clear_value v1
      extract_lets -merge -useContext -underBinder +onlyGivenNames v2
      try clear_value v2
      extract_lets -merge -useContext -underBinder +onlyGivenNames v3
      try clear_value v3
      extract_lets -merge -useContext -underBinder +onlyGivenNames v4
      try clear_value v4
      extract_lets -merge -useContext -underBinder +onlyGivenNames v5
      have h6 : Keeps r v5 := by
        subst v5
        refine keeps_tenantAdd ?_
        · exact g8
      try clear_value v5
      refine KP_mk ?_
      refine KP_mk ?_
      exact h6

theorem keeps_attendStart {a1 a2 a3 a4 a5 a6} (g6 : Keeps r a6) : KP (Keeps r) (Sys2Proof.Machine.attendStart a1 a2 a3 a4 a5 a6) := by
  unfold Sys2Proof.Machine.attendStart
  extract_lets -merge -useContext -underBinder +onlyGivenNames v1
  try clear_value v1
  extract_lets -merge -useContext -underBinder +onlyGivenNames v2
  try clear_value v2
  extract_lets -merge -useContext -underBinder +onlyGivenNames v3
  try clear_value v3
  extract_lets -merge -useContext -underBinder +onlyGivenNames v4
  try clear_value v4
  split
  · rename_i q5
    have h6 : KP (Keeps r) _ := KP_of q5 (by
      refine keeps_ite (P := KP (KP (Keeps r))) ?_ ?_
      · refine keeps_attendSearch ?_
        · exact g6
      · refine KP_mk ?_
        refine KP_mk ?_
        exact g6
      )
    have h6 : Keeps r _ := h6
    extract_lets -merge -useContext -underBinder +onlyGivenNames v7
    try clear_value v7
    extract_lets -merge -useContext -underBinder +onlyGivenNames v8
    try clear_value v8
    split
    · rename_i q9
      have h10 : KP (Keeps r) _ := KO_of q9 (by
        refine keeps_bodiesDenied ?_
        · exact h6
        )
      have h10 : Keeps r _ := h10
      refine KP_mk ?_
      exact h10
    · extract_lets -merge -useContext -underBinder +onlyGivenNames v11
      have h12 : Keeps r v11 := by
        subst v11
        refine keeps_profileAdd ?_
        · exact h6
      try clear_value v11
      extract_lets -merge -useContext -underBinder +onlyGivenNames v13
      have h14 : ∀ a15, Keeps r (v13 a15) := by
        subst v13
        intro _
        beta_reduce
        exact keeps_same h12 rfl
      try clear_value v13
      split
      · refine keeps_ite (P := KP (Keeps r)) ?_ ?_
        · refine KP_mk ?_
          refine keeps_formItems ?_
          · refine h14 _
        · refine KP_mk ?_
          refine keeps_addSearch ?_
          · refine h14 _
      · refine keeps_ite (P := KP (Keeps r)) ?_ ?_
        · refine KP_mk ?_
          exact h12
        · refine KP_mk ?_
          refine keeps_formItems ?_
          · refine h14 _

theorem keeps_attendResume {a1 a2 a3 a4} (g4 : Keeps r a4) : KP (Keeps r) (Sys2Proof.Machine.attendResume a1 a2 a3 a4) := by
  unfold Sys2Proof.Machine.attendResume
  extract_lets -merge -useContext -underBinder +onlyGivenNames v1
  try clear_value v1
  split
  · refine KP_mk ?_
    exact g4
  · split
    · refine KP_mk ?_
      exact g4
    · refine keeps_ite (P := KP (Keeps r)) ?_ ?_
      · refine KP_mk ?_
        exact g4
      · refine keeps_attendStart ?_
        · exact g4

theorem keeps_attendBody {a1 a2 a3} (g3 : Keeps r a3) : KP (Keeps r) (Sys2Proof.Machine.attendBody a1 a2 a3) := by
  unfold Sys2Proof.Machine.attendBody
  extract_lets -merge -useContext -underBinder +onlyGivenNames v1
  try clear_value v1
  split
  · refine keeps_ite (P := KP (Keeps r)) ?_ ?_
    · refine KP_mk ?_
      exact g3
    · split
      · rename_i q2
        have h3 : Keeps r _ := KP_of q2 (by
          refine keeps_attendResume ?_
          · exact g3
          )
        refine KP_mk ?_
        refine keeps_unhold ?_
        · exact h3
  · refine keeps_ite (P := KP (Keeps r)) ?_ ?_
    · refine KP_mk ?_
      exact g3
    · refine keeps_ite (P := KP (Keeps r)) ?_ ?_
      · refine KP_mk ?_
        exact g3
      · refine keeps_ite (P := KP (Keeps r)) ?_ ?_
        · refine KP_mk ?_
          exact g3
        · split
          · refine keeps_failInput ?_
            · exact g3
          · refine keeps_ite (P := KP (Keeps r)) ?_ ?_
            · split
              · rename_i q4
                have h5 : Keeps r _ := KP_of q4 (by
                  refine keeps_hold ?_
                  · exact g3
                  )
                refine KP_mk ?_
                exact keeps_same h5 rfl
            · refine keeps_attendStart ?_
              · exact g3

theorem keeps_drawLineage {a1 a2} (g2 : Keeps r a2) : KO (KP (Keeps r)) (Sys2Proof.Machine.drawLineage a1 a2) := by
  unfold Sys2Proof.Machine.drawLineage
  split
  · exact KO_none
  · refine keeps_ite (P := KO (KP (Keeps r))) ?_ ?_
    · exact KO_none
    · refine KO_some ?_
      refine KP_mk ?_
      exact keeps_same g2 rfl

theorem keeps_settlePromise {a1 a2} (g2 : Keeps r a2) : Keeps r (Sys2Proof.Machine.settlePromise a1 a2) := by
  unfold Sys2Proof.Machine.settlePromise
  refine keeps_ite (P := Keeps r) ?_ ?_
  · exact g2
  · split
    · exact g2
    · extract_lets -merge -useContext -underBinder +onlyGivenNames v1
      try clear_value v1
      extract_lets -merge -useContext -underBinder +onlyGivenNames v2
      try clear_value v2
      extract_lets -merge -useContext -underBinder +onlyGivenNames v3
      try clear_value v3
      extract_lets -merge -useContext -underBinder +onlyGivenNames v4
      have h5 : Keeps r v4 := by
        subst v4
        refine keeps_setSeq ?_
        · exact g2
      try clear_value v4
      refine keeps_foldl (P := Keeps r) (fun _ _ h6 => ?_) ?_
      · refine keeps_decRef ?_
        · exact h6
      · exact h5

theorem keeps_finishAppend {a1 a2} (g2 : Keeps r a2) : Keeps r (Sys2Proof.Machine.finishAppend a1 a2) := by
  unfold Sys2Proof.Machine.finishAppend
  split
  · exact g2
  · refine keeps_ite (P := Keeps r) ?_ ?_
    · exact g2
    · extract_lets -merge -useContext -underBinder +onlyGivenNames _ v1
      have h2 : Keeps r v1 := by
        subst v1
        exact keeps_same g2 rfl
      try clear_value v1
      extract_lets -merge -useContext -underBinder +onlyGivenNames v3
      have h4 : Keeps r v3 := by
        subst v3
        refine keeps_ite (P := Keeps r) ?_ ?_
        · refine keeps_settlePromise ?_
          · exact h2
        · exact h2
      try clear_value v3
      extract_lets -merge -useContext -underBinder +onlyGivenNames v5
      have h6 : Keeps r v5 := by
        subst v5
        refine keeps_profileAdd ?_
        · exact h4
      try clear_value v5
      extract_lets -merge -useContext -underBinder +onlyGivenNames v7
      try clear_value v7
      extract_lets -merge -useContext -underBinder +onlyGivenNames v8
      try clear_value v8
      refine keeps_ite (P := Keeps r) ?_ ?_
      · exact keeps_same h6 rfl
      · refine keeps_finish ?_
        · exact h6

theorem keeps_writableTail {a1 a2 a3 a4 a5 a6} (g6 : Keeps r a6) : KO (Keeps r) (Sys2Proof.Machine.writableTail a1 a2 a3 a4 a5 a6) := by
  unfold Sys2Proof.Machine.writableTail
  split
  · refine KO_some ?_
    exact g6
  · extract_lets -merge -useContext -underBinder +onlyGivenNames v1
    have h2 : ∀ a3 a4, Keeps r a4 → Keeps r (v1 a3 a4) := by
      subst v1
      intro _ _ h5
      beta_reduce
      refine keeps_setEntry ?_
      · exact h5
    try clear_value v1
    split
    · refine KO_some ?_
      refine h2 _ _ ?_
      · exact g6
    · refine keeps_ite (P := KO (Keeps r)) ?_ ?_
      · refine keeps_mapk (P := Keeps r) (Q := KP (Keeps r)) (fun _ h6 => ?_) ?_
        · refine h2 _ _ ?_
          · refine KP_snd ?_
            exact h6
        · refine keeps_copyOnWrite ?_
          · exact g6
      · refine KO_some ?_
        refine h2 _ _ ?_
        · exact g6

theorem keeps_appendItems {a1 a2 a3 a4 a5 a6 a7} (g7 : Keeps r a7) : Keeps r (Sys2Proof.Machine.appendItems a1 a2 a3 a4 a5 a6 a7) := by
  unfold Sys2Proof.Machine.appendItems
  refine keeps_foldl (P := Keeps r) (fun _ _ h1 => ?_) ?_
  · split
    · split
      · exact h1
      · refine keeps_addItem ?_
        · exact h1
  · exact g7

/-- The property of the state with a new body. -/
def KA (P : State → Prop) (a : Alloc) : Prop := ∀ b s, a = .body b s → P s

theorem keeps_allocBody {x : Seq} {n : Nat} {f : Format} {s : State} (h : Keeps r s) : KA (Keeps r) (allocBody x n f s) := by
  unfold allocBody
  split
  · intro b t e; cases e
  · dsimp only
    split
    · split
      · intro b t e; cases e
      · rename_i q
        have h' : KP (Keeps r) _ := KO_of q (keeps_drawLineage h)
        intro b t e
        cases e
        exact keeps_addBody h'
    · intro b t e
      cases e
      exact keeps_addBody h

theorem keeps_openSheaves {q l g : Nat} {x : Seq} {fm : Nat} {f : Format} {ps : List (Nat × Nat × Nat × Nat)} {base : Nat} {s : State} (h : Keeps r s) :
    KA (Keeps r) (openSheaves q l g x fm f base ps s) := by
  induction ps generalizing base s with
  | nil => intro b t e; cases e; exact h
  | cons p ps ih =>
    obtain ⟨i, a, n, c⟩ := p
    unfold openSheaves
    split
    · rename_i e
      exact ih (keeps_setEntry (keeps_allocBody h _ _ e))
    · exact keeps_allocBody h

theorem keeps_appendStart {a1 a2 a3 a4 a5 a6 a7 a8 a9} (g9 : Keeps r a9) : KP (Keeps r) (Sys2Proof.Machine.appendStart a1 a2 a3 a4 a5 a6 a7 a8 a9) := by
  unfold Sys2Proof.Machine.appendStart
  extract_lets +onlyGivenNames plan pos ps fr tail shared
  have hb := keeps_bodiesDenied (a1 := tail) g9
  generalize bodiesDenied tail a9 = ob at hb ⊢
  have hd : KO (KP (Keeps r)) (if a7.dirtyMark = true then none else journalDenied a9) := keeps_ite (P := KO (KP (Keeps r))) KO_none (keeps_journalDenied g9)
  refine keeps_ite (P := KP (Keeps r)) g9 ?_
  cases ob with
  | some d => exact KP_snd (hb d rfl)
  | none =>
    simp only []
    refine keeps_ite (P := KP (Keeps r)) g9 ?_
    generalize (if a7.dirtyMark = true then none else journalDenied a9) = oj at hd ⊢
    cases oj with
    | some d => exact KP_snd (hd d rfl)
    | none =>
      simp only []
      refine keeps_ite (P := KP (Keeps r)) (keeps_hold (keeps_demandAll g9)) ?_
      have hw := keeps_writableTail (a1 := a3) (a2 := a4) (a3 := a5) (a4 := plan) (a5 := min a6 (64 - plan.tok)) g9
      generalize writableTail a3 a4 a5 plan (min a6 (64 - plan.tok)) a9 = ow at hw ⊢
      cases ow with
      | none => exact keeps_hold g9
      | some t =>
        have ho := keeps_openSheaves (q := a3) (l := a4) (g := a5) (x := a7) (fm := a7.formats.getD a4 0) (f := a8) (ps := fr) (base := plan.base) (hw t rfl)
        simp only [Option.map_some]
        generalize openSheaves a3 a4 a5 a7 (a7.formats.getD a4 0) a8 plan.base fr t = al at ho ⊢
        cases al with
        | noRoom => exact keeps_hold g9
        | noLineage => exact g9
        | body b u =>
          have hu : Keeps r u := ho b u rfl
          simp only []
          generalize badToken a2 a8 a6 = ot
          cases ot with
          | some t => exact g9
          | none => exact keeps_appendItems (keeps_unhold (keeps_same hu rfl))

theorem keeps_appendBody {a1 a2 a3} (g3 : Keeps r a3) : KP (Keeps r) (Sys2Proof.Machine.appendBody a1 a2 a3) := by
  unfold Sys2Proof.Machine.appendBody
  extract_lets -merge -useContext -underBinder +onlyGivenNames v1
  try clear_value v1
  extract_lets -merge -useContext -underBinder +onlyGivenNames v2
  try clear_value v2
  extract_lets -merge -useContext -underBinder +onlyGivenNames v3
  try clear_value v3
  extract_lets -merge -useContext -underBinder +onlyGivenNames v4
  try clear_value v4
  extract_lets -merge -useContext -underBinder +onlyGivenNames v5
  try clear_value v5
  refine keeps_ite (P := KP (Keeps r)) ?_ ?_
  · refine KP_mk ?_
    exact g3
  · refine keeps_ite (P := KP (Keeps r)) ?_ ?_
    · refine keeps_hold ?_
      · exact g3
    · split
      · refine KP_mk ?_
        exact g3
      · refine keeps_ite (P := KP (Keeps r)) ?_ ?_
        · refine KP_mk ?_
          exact g3
        · refine keeps_ite (P := KP (Keeps r)) ?_ ?_
          · refine KP_mk ?_
            exact g3
          · split
            · refine KP_mk ?_
              exact g3
            · extract_lets -merge -useContext -underBinder +onlyGivenNames v6
              try clear_value v6
              refine keeps_ite (P := KP (Keeps r)) ?_ ?_
              · refine KP_mk ?_
                exact g3
              · split
                · refine KP_mk ?_
                  exact g3
                · refine keeps_ite (P := KP (Keeps r)) ?_ ?_
                  · refine KP_mk ?_
                    exact g3
                  · refine keeps_ite (P := KP (Keeps r)) ?_ ?_
                    · refine keeps_ite (P := KP (Keeps r)) ?_ ?_
                      · refine KP_mk ?_
                        exact g3
                      · refine KP_mk ?_
                        exact g3
                    · refine keeps_appendStart ?_
                      · exact g3

theorem keeps_readBody {a1 a2 a3} (g3 : Keeps r a3) : KP (Keeps r) (Sys2Proof.Machine.readBody a1 a2 a3) := by
  unfold Sys2Proof.Machine.readBody
  extract_lets -merge -useContext -underBinder +onlyGivenNames v1
  try clear_value v1
  extract_lets -merge -useContext -underBinder +onlyGivenNames v2
  try clear_value v2
  extract_lets -merge -useContext -underBinder +onlyGivenNames v3
  try clear_value v3
  refine keeps_ite (P := KP (Keeps r)) ?_ ?_
  · refine KP_mk ?_
    exact g3
  · refine keeps_ite (P := KP (Keeps r)) ?_ ?_
    · refine keeps_hold ?_
      · exact g3
    · split
      · refine KP_mk ?_
        exact g3
      · refine keeps_ite (P := KP (Keeps r)) ?_ ?_
        · refine KP_mk ?_
          exact g3
        · refine keeps_ite (P := KP (Keeps r)) ?_ ?_
          · refine KP_mk ?_
            exact g3
          · split
            · refine KP_mk ?_
              exact g3
            · split
              · refine KP_mk ?_
                exact g3
              · split
                · refine KP_mk ?_
                  exact g3
                · extract_lets -merge -useContext -underBinder +onlyGivenNames v4
                  try clear_value v4
                  extract_lets -merge -useContext -underBinder +onlyGivenNames v5
                  try clear_value v5
                  refine keeps_ite (P := KP (Keeps r)) ?_ ?_
                  · refine KP_mk ?_
                    exact g3
                  · split
                    · refine KP_mk ?_
                      exact g3
                    · refine keeps_ite (P := KP (Keeps r)) ?_ ?_
                      · refine KP_mk ?_
                        exact g3
                      · split
                        · rename_i q6
                          have h7 : KP (Keeps r) _ := KO_of q6 (by
                            refine keeps_bodiesDenied ?_
                            · exact g3
                            )
                          have h7 : Keeps r _ := h7
                          refine KP_mk ?_
                          exact h7
                        · refine keeps_ite (P := KP (Keeps r)) ?_ ?_
                          · refine keeps_hold ?_
                            · refine keeps_demandFetch ?_
                              · exact g3
                          · extract_lets -merge -useContext -underBinder +onlyGivenNames v8
                            have h9 : Keeps r v8 := by
                              subst v8
                              refine keeps_useBody ?_
                              · exact g3
                            try clear_value v8
                            refine keeps_ite (P := KP (Keeps r)) ?_ ?_
                            · refine KP_mk ?_
                              exact h9
                            · refine KP_mk ?_
                              exact h9

theorem keeps_dropPin {a1 a2} (g2 : Keeps r a2) : Keeps r (Sys2Proof.Machine.dropPin a1 a2) := by
  unfold Sys2Proof.Machine.dropPin
  split
  · exact g2
  · refine keeps_foldl (P := Keeps r) (fun _ _ h1 => ?_) ?_
    · refine keeps_modBody ?_
      · exact h1
    · exact keeps_same g2 rfl

theorem keeps_destroySeq {a1 a2} (g2 : Keeps r a2) : Keeps r (Sys2Proof.Machine.destroySeq a1 a2) := by
  unfold Sys2Proof.Machine.destroySeq
  split
  · exact g2
  · extract_lets -merge -useContext -underBinder +onlyGivenNames v1
    have h2 : Keeps r v1 := by
      subst v1
      refine keeps_foldl (P := Keeps r) (fun _ _ h3 => ?_) ?_
      · refine keeps_dropPin ?_
        · exact h3
      · exact g2
    try clear_value v1
    extract_lets -merge -useContext -underBinder +onlyGivenNames v4
    have h5 : Keeps r v4 := by
      subst v4
      refine keeps_dropPosts ?_
      · refine keeps_dropAuto ?_
        · exact h2
    try clear_value v4
    extract_lets -merge -useContext -underBinder +onlyGivenNames v6
    have h7 : Keeps r v6 := by
      subst v6
      refine keeps_retireItems ?_
      · exact h5
    try clear_value v6
    extract_lets -merge -useContext -underBinder +onlyGivenNames _ _ _ v8
    have h9 : Keeps r v8 := by
      subst v8
      exact keeps_same h7 rfl
    try clear_value v8
    refine keeps_foldl (P := Keeps r) (fun _ _ h10 => ?_) ?_
    · refine keeps_decRef ?_
      · exact h10
    · exact h9

theorem keeps_destroyBody {a1 a2 a3} (g3 : Keeps r a3) : KP (Keeps r) (Sys2Proof.Machine.destroyBody a1 a2 a3) := by
  unfold Sys2Proof.Machine.destroyBody
  refine keeps_ite (P := KP (Keeps r)) ?_ ?_
  · refine KP_mk ?_
    exact g3
  · split
    · refine KP_mk ?_
      exact g3
    · refine keeps_ite (P := KP (Keeps r)) ?_ ?_
      · refine keeps_hold ?_
        · exact g3
      · split
        · rename_i q1
          have h2 : Keeps r _ := KP_of q1 (by
            refine keeps_judge ?_
            · exact g3
            )
          refine keeps_ite (P := KP (Keeps r)) ?_ ?_
          · refine KP_mk ?_
            exact h2
          · refine KP_mk ?_
            refine keeps_destroySeq ?_
            · exact h2

theorem keeps_cutEntry {a1 a2 a3 a4 a5 a6} (g6 : Keeps r a6) : KO (Keeps r) (Sys2Proof.Machine.cutEntry a1 a2 a3 a4 a5 a6) := by
  unfold Sys2Proof.Machine.cutEntry
  extract_lets -merge -useContext -underBinder +onlyGivenNames v1
  have h2 : ∀ a3 a4, Keeps r a4 → Keeps r (v1 a3 a4) := by
    subst v1
    intro _ _ h5
    beta_reduce
    extract_lets -merge -useContext -underBinder +onlyGivenNames v6
    have h7 : Keeps r v6 := by
      subst v6
      refine keeps_useBody ?_
      · refine keeps_modBody ?_
        · exact h5
    try clear_value v6
    extract_lets -merge -useContext -underBinder +onlyGivenNames _ v8
    have h9 : Keeps r v8 := by
      subst v8
      exact keeps_same h7 rfl
    try clear_value v8
    refine keeps_setEntry ?_
    · exact h9
  try clear_value v1
  split
  · refine KO_some ?_
    exact g6
  · refine keeps_ite (P := KO (Keeps r)) ?_ ?_
    · refine keeps_mapk (P := Keeps r) (Q := KP (Keeps r)) (fun _ h10 => ?_) ?_
      · refine h2 _ _ ?_
        · refine KP_snd ?_
          exact h10
      · refine keeps_copyOnWrite ?_
        · exact g6
    · refine KO_some ?_
      refine h2 _ _ ?_
      · refine keeps_restoreBody ?_
        · exact g6

theorem keeps_cutEntries {a1 a2 a3 a4} (g4 : Keeps r a4) : KO (Keeps r) (Sys2Proof.Machine.cutEntries a1 a2 a3 a4) := by
  induction a3 generalizing a4 with
  | nil => exact KO_some g4
  | cons e t ih =>
    unfold Sys2Proof.Machine.cutEntries
    split
    · split
      · exact KO_none
      · rename_i q
        exact ih (KO_of q (keeps_cutEntry g4))
    · exact ih g4

theorem keeps_removeEntries {a1 a2 a3} (g3 : Keeps r a3) : Keeps r (Sys2Proof.Machine.removeEntries a1 a2 a3) := by
  unfold Sys2Proof.Machine.removeEntries
  split
  · exact g3
  · extract_lets -merge -useContext -underBinder +onlyGivenNames v1
    try clear_value v1
    extract_lets -merge -useContext -underBinder +onlyGivenNames v2
    try clear_value v2
    refine keeps_foldl (P := Keeps r) (fun _ _ h3 => ?_) ?_
    · refine keeps_decRef ?_
      · exact h3
    · refine keeps_setSeq ?_
      · exact g3

theorem keeps_truncateItems {a1 a2 a3 a4 a5} (g5 : Keeps r a5) : Keeps r (Sys2Proof.Machine.truncateItems a1 a2 a3 a4 a5) := by
  unfold Sys2Proof.Machine.truncateItems
  refine keeps_foldl (P := Keeps r) (fun _ _ h1 => ?_) ?_
  · split
    · extract_lets -merge -useContext -underBinder +onlyGivenNames v2
      try clear_value v2
      split
      · exact h1
      · refine keeps_retireItems ?_
        · exact h1
      · extract_lets -merge -useContext -underBinder +onlyGivenNames v3
        try clear_value v3
        refine keeps_ite (P := Keeps r) ?_ ?_
        · refine keeps_retireItems ?_
          · exact h1
        · refine keeps_postSheaf ?_
          · exact h1
  · exact g5

theorem keeps_truncateRest {a1 a2 a3 a4 a5} (g5 : Keeps r a5) : Keeps r (Sys2Proof.Machine.truncateRest a1 a2 a3 a4 a5) := by
  unfold Sys2Proof.Machine.truncateRest
  extract_lets -merge -useContext -underBinder +onlyGivenNames _ v1
  have h2 : Keeps r v1 := by
    subst v1
    refine keeps_truncateItems ?_
    · refine keeps_removeEntries ?_
      · exact keeps_same g5 rfl
  try clear_value v1
  extract_lets -merge -useContext -underBinder +onlyGivenNames v3
  have h4 : Keeps r v3 := by
    subst v3
    refine keeps_dropPosts ?_
    · refine keeps_dropAuto ?_
      · exact h2
  try clear_value v3
  refine keeps_ite (P := Keeps r) ?_ ?_
  · exact keeps_same h4 rfl
  · exact h4

theorem keeps_truncateSeq {a1 a2 a3 a4 a5} (g5 : Keeps r a5) : KO (KP (Keeps r)) (Sys2Proof.Machine.truncateSeq a1 a2 a3 a4 a5) := by
  unfold Sys2Proof.Machine.truncateSeq
  extract_lets -merge -useContext -underBinder +onlyGivenNames v1
  try clear_value v1
  split
  · exact KO_none
  · rename_i q2
    have h3 : Keeps r _ := KO_of q2 (by
      refine keeps_cutEntries ?_
      · exact g5
      )
    extract_lets -merge -useContext -underBinder +onlyGivenNames v4
    try clear_value v4
    extract_lets -merge -useContext -underBinder +onlyGivenNames v5
    try clear_value v5
    extract_lets -merge -useContext -underBinder +onlyGivenNames v6
    have h7 : Keeps r v6 := by
      subst v6
      refine keeps_truncateRest ?_
      · exact h3
    try clear_value v6
    extract_lets -merge -useContext -underBinder +onlyGivenNames v8
    try clear_value v8
    extract_lets -merge -useContext -underBinder +onlyGivenNames v9
    try clear_value v9
    split
    · rename_i q10
      have h11 : Keeps r _ := KP_of q10 (by
        refine keeps_ite (P := KP (Keeps r)) ?_ ?_
        · refine keeps_noteDirty ?_
          · exact h7
        · refine KP_mk ?_
          exact h7
        )
      extract_lets -merge -useContext -underBinder +onlyGivenNames v12
      try clear_value v12
      extract_lets -merge -useContext -underBinder +onlyGivenNames v13
      have h14 : Keeps r v13 := by
        subst v13
        refine keeps_ite (P := Keeps r) ?_ ?_
        · refine keeps_oweRecord ?_
          · exact h11
        · exact h11
      try clear_value v13
      extract_lets -merge -useContext -underBinder +onlyGivenNames v15
      have h16 : Keeps r v15 := by
        subst v15
        refine keeps_ite (P := Keeps r) ?_ ?_
        · refine keeps_oweRecord ?_
          · exact h14
        · exact h14
      try clear_value v15
      extract_lets -merge -useContext -underBinder +onlyGivenNames v17
      have h18 : Keeps r v17 := by
        subst v17
        refine keeps_noteClean ?_
        · exact h16
      try clear_value v17
      refine KO_some ?_
      refine keeps_ite (P := KP (Keeps r)) ?_ ?_
      · refine KP_mk ?_
        refine keeps_unhold ?_
        · exact h18
      · refine KP_mk ?_
        exact h18

theorem keeps_truncateBody {a1 a2 a3} (g3 : Keeps r a3) : KP (Keeps r) (Sys2Proof.Machine.truncateBody a1 a2 a3) := by
  unfold Sys2Proof.Machine.truncateBody
  extract_lets -merge -useContext -underBinder +onlyGivenNames v1
  try clear_value v1
  refine keeps_ite (P := KP (Keeps r)) ?_ ?_
  · refine KP_mk ?_
    exact g3
  · split
    · refine KP_mk ?_
      exact g3
    · refine keeps_ite (P := KP (Keeps r)) ?_ ?_
      · refine keeps_hold ?_
        · exact g3
      · refine keeps_ite (P := KP (Keeps r)) ?_ ?_
        · refine KP_mk ?_
          exact g3
        · extract_lets -merge -useContext -underBinder +onlyGivenNames v2
          try clear_value v2
          extract_lets -merge -useContext -underBinder +onlyGivenNames v3
          try clear_value v3
          extract_lets -merge -useContext -underBinder +onlyGivenNames v4
          try clear_value v4
          extract_lets -merge -useContext -underBinder +onlyGivenNames v5
          try clear_value v5
          refine keeps_ite (P := KP (Keeps r)) ?_ ?_
          · refine KP_mk ?_
            exact g3
          · split
            · rename_i q6
              have h7 : KP (Keeps r) _ := KO_of q6 (by
                refine keeps_bodiesDenied ?_
                · exact g3
                )
              have h7 : Keeps r _ := h7
              refine KP_mk ?_
              exact h7
            · split
              · rename_i q8
                have h9 : KP (Keeps r) _ := KO_of q8 (by
                  refine keeps_ite (P := KO (KP (Keeps r))) ?_ ?_
                  · refine keeps_journalDenied ?_
                    · exact g3
                  · exact KO_none
                  )
                have h9 : Keeps r _ := h9
                refine KP_mk ?_
                exact h9
              · refine keeps_ite (P := KP (Keeps r)) ?_ ?_
                · refine keeps_hold ?_
                  · refine keeps_demandAll ?_
                    · exact g3
                · refine keeps_ite (P := KP (Keeps r)) ?_ ?_
                  · refine keeps_hold ?_
                    · exact g3
                  · split
                    · rename_i q10
                      have h11 : Keeps r _ := KP_of q10 (by
                        refine keeps_judge ?_
                        · exact g3
                        )
                      refine keeps_ite (P := KP (Keeps r)) ?_ ?_
                      · refine KP_mk ?_
                        exact h11
                      · split
                        · refine keeps_hold ?_
                          · exact h11
                        · rename_i q12
                          have h13 : KP (Keeps r) _ := KO_of q12 (by
                            refine keeps_truncateSeq ?_
                            · exact h11
                            )
                          exact h13

theorem keeps_remapSeq {a1 a2 a3 a4} (g4 : Keeps r a4) : Keeps r (Sys2Proof.Machine.remapSeq a1 a2 a3 a4) := by
  unfold Sys2Proof.Machine.remapSeq
  extract_lets -merge -useContext -underBinder +onlyGivenNames v1
  try clear_value v1
  extract_lets -merge -useContext -underBinder +onlyGivenNames v2
  try clear_value v2
  extract_lets -merge -useContext -underBinder +onlyGivenNames v3
  have h4 : Keeps r v3 := by
    subst v3
    refine keeps_foldl (P := Keeps r) (fun _ _ h5 => ?_) ?_
    · split
      · refine keeps_setEntry ?_
        · exact h5
    · exact g4
  try clear_value v3
  extract_lets -merge -useContext -underBinder +onlyGivenNames v6
  try clear_value v6
  exact keeps_same h4 rfl

theorem keeps_remapBody {a1 a2 a3} (g3 : Keeps r a3) : KP (Keeps r) (Sys2Proof.Machine.remapBody a1 a2 a3) := by
  unfold Sys2Proof.Machine.remapBody
  extract_lets -merge -useContext -underBinder +onlyGivenNames v1
  try clear_value v1
  refine keeps_ite (P := KP (Keeps r)) ?_ ?_
  · refine KP_mk ?_
    exact g3
  · split
    · refine KP_mk ?_
      exact g3
    · split
      · refine KP_mk ?_
        exact g3
      · refine keeps_ite (P := KP (Keeps r)) ?_ ?_
        · refine keeps_hold ?_
          · exact g3
        · extract_lets -merge -useContext -underBinder +onlyGivenNames v2
          try clear_value v2
          refine keeps_ite (P := KP (Keeps r)) ?_ ?_
          · refine KP_mk ?_
            exact g3
          · split
            · rename_i q3
              have h4 : KP (Keeps r) _ := KO_of q3 (by
                refine keeps_ite (P := KO (KP (Keeps r))) ?_ ?_
                · refine keeps_journalDenied ?_
                  · exact g3
                · exact KO_none
                )
              have h4 : Keeps r _ := h4
              refine KP_mk ?_
              exact h4
            · split
              · rename_i q5
                have h6 : Keeps r _ := KP_of q5 (by
                  refine keeps_judge ?_
                  · exact g3
                  )
                refine keeps_ite (P := KP (Keeps r)) ?_ ?_
                · refine KP_mk ?_
                  exact h6
                · extract_lets -merge -useContext -underBinder +onlyGivenNames v7
                  have h8 : Keeps r v7 := by
                    subst v7
                    refine keeps_remapSeq ?_
                    · exact h6
                  try clear_value v7
                  refine keeps_ite (P := KP (Keeps r)) ?_ ?_
                  · refine KP_mk ?_
                    refine keeps_oweRecord ?_
                    · refine keeps_unhold ?_
                      · exact h8
                  · refine KP_mk ?_
                    exact h8

theorem keeps_forkVersion {a1 a2 a3 a4 a5 a6 a7 a8} (g8 : Keeps r a8) : Keeps r (Sys2Proof.Machine.forkVersion a1 a2 a3 a4 a5 a6 a7 a8) := by
  unfold Sys2Proof.Machine.forkVersion
  extract_lets -merge -useContext -underBinder +onlyGivenNames v1
  try clear_value v1
  extract_lets -merge -useContext -underBinder +onlyGivenNames _ v2
  have h3 : Keeps r v2 := by
    subst v2
    refine keeps_ite (P := Keeps r) ?_ ?_
    · exact keeps_same g8 rfl
    · exact g8
  try clear_value v2
  split
  · exact h3
  · split
    · exact h3
    · extract_lets -merge -useContext -underBinder +onlyGivenNames v4
      try clear_value v4
      split
      · refine keeps_ite (P := Keeps r) ?_ ?_
        · refine keeps_markStale ?_
          · refine keeps_post ?_
            · exact h3
        · refine keeps_post ?_
          · exact h3
      · refine keeps_ite (P := Keeps r) ?_ ?_
        · refine keeps_markStale ?_
          · exact h3
        · exact h3

theorem keeps_forkSeq {a1 a2 a3 a4 a5} (g5 : Keeps r a5) : Keeps r (Sys2Proof.Machine.forkSeq a1 a2 a3 a4 a5) := by
  unfold Sys2Proof.Machine.forkSeq
  extract_lets -merge -useContext -underBinder +onlyGivenNames v1
  try clear_value v1
  extract_lets -merge -useContext -underBinder +onlyGivenNames v2
  try clear_value v2
  extract_lets -merge -useContext -underBinder +onlyGivenNames _ v3
  have h4 : Keeps r v3 := by
    subst v3
    refine keeps_setSeq ?_
    · exact keeps_same g5 rfl
  try clear_value v3
  extract_lets -merge -useContext -underBinder +onlyGivenNames _ v5
  have h6 : Keeps r v5 := by
    subst v5
    exact keeps_same h4 rfl
  try clear_value v5
  extract_lets -merge -useContext -underBinder +onlyGivenNames v7
  have h8 : Keeps r v7 := by
    subst v7
    refine keeps_foldl (P := Keeps r) (fun _ _ h9 => ?_) ?_
    · refine keeps_incRef ?_
      · exact h9
    · exact h6
  try clear_value v7
  extract_lets -merge -useContext -underBinder +onlyGivenNames _ v10
  have h11 : Keeps r v10 := by
    subst v10
    exact keeps_same h8 rfl
  try clear_value v10
  extract_lets -merge -useContext -underBinder +onlyGivenNames v12
  have h13 : Keeps r v12 := by
    subst v12
    refine keeps_foldl (P := Keeps r) (fun _ _ h14 => ?_) ?_
    · split
      · refine keeps_forkVersion ?_
        · exact h14
    · exact h11
  try clear_value v12
  extract_lets -merge -useContext -underBinder +onlyGivenNames v15
  try clear_value v15
  extract_lets -merge -useContext -underBinder +onlyGivenNames v16
  have h17 : Keeps r v16 := by
    subst v16
    refine keeps_addLosses ?_
    · exact h13
  try clear_value v16
  split
  · rename_i q18
    have h19 : Keeps r _ := KP_of q18 (by
      refine keeps_ite (P := KP (Keeps r)) ?_ ?_
      · refine keeps_noteDirty ?_
        · exact h17
      · refine KP_mk ?_
        exact h17
      )
    refine keeps_ite (P := Keeps r) ?_ ?_
    · refine keeps_oweRecord ?_
      · exact h19
    · exact h19

theorem keeps_forkBody {a1 a2 a3} (g3 : Keeps r a3) : KP (Keeps r) (Sys2Proof.Machine.forkBody a1 a2 a3) := by
  unfold Sys2Proof.Machine.forkBody
  extract_lets -merge -useContext -underBinder +onlyGivenNames v1
  try clear_value v1
  refine keeps_ite (P := KP (Keeps r)) ?_ ?_
  · refine KP_mk ?_
    exact g3
  · split
    · refine KP_mk ?_
      exact g3
    · refine keeps_ite (P := KP (Keeps r)) ?_ ?_
      · refine keeps_hold ?_
        · exact g3
      · refine keeps_ite (P := KP (Keeps r)) ?_ ?_
        · refine KP_mk ?_
          exact g3
        · refine keeps_ite (P := KP (Keeps r)) ?_ ?_
          · refine KP_mk ?_
            exact g3
          · refine keeps_ite (P := KP (Keeps r)) ?_ ?_
            · refine KP_mk ?_
              exact g3
            · refine KP_mk ?_
              refine keeps_forkSeq ?_
              · exact g3

theorem keeps_queryBody {a1 a2 a3} (g3 : Keeps r a3) : KP (Keeps r) (Sys2Proof.Machine.queryBody a1 a2 a3) := by
  unfold Sys2Proof.Machine.queryBody
  refine keeps_ite (P := KP (Keeps r)) ?_ ?_
  · refine KP_mk ?_
    exact g3
  · split
    · refine KP_mk ?_
      exact g3
    · extract_lets -merge -useContext -underBinder +onlyGivenNames v1
      try clear_value v1
      extract_lets -merge -useContext -underBinder +onlyGivenNames v2
      try clear_value v2
      extract_lets -merge -useContext -underBinder +onlyGivenNames v3
      try clear_value v3
      refine keeps_ite (P := KP (Keeps r)) ?_ ?_
      · refine KP_mk ?_
        exact g3
      · refine keeps_ite (P := KP (Keeps r)) ?_ ?_
        · refine keeps_hold ?_
          · exact g3
        · refine keeps_ite (P := KP (Keeps r)) ?_ ?_
          · refine KP_mk ?_
            exact g3
          · split
            · refine KP_mk ?_
              exact g3
            · extract_lets -merge -useContext -underBinder +onlyGivenNames v4
              try clear_value v4
              extract_lets -merge -useContext -underBinder +onlyGivenNames v5
              try clear_value v5
              refine KP_mk ?_
              exact g3

theorem keeps_pinSeq {a1 a2 a3 a4 a5} (g5 : Keeps r a5) : Keeps r (Sys2Proof.Machine.pinSeq a1 a2 a3 a4 a5) := by
  unfold Sys2Proof.Machine.pinSeq
  extract_lets -merge -useContext -underBinder +onlyGivenNames v1
  try clear_value v1
  extract_lets -merge -useContext -underBinder +onlyGivenNames _ v2
  have h3 : Keeps r v2 := by
    subst v2
    exact keeps_same g5 rfl
  try clear_value v2
  extract_lets -merge -useContext -underBinder +onlyGivenNames v4
  have h5 : Keeps r v4 := by
    subst v4
    refine keeps_foldl (P := Keeps r) (fun _ _ h6 => ?_) ?_
    · refine keeps_modBody ?_
      · refine keeps_useBody ?_
        · exact h6
    · exact h3
  try clear_value v4
  refine keeps_foldl (P := Keeps r) (fun _ _ h7 => ?_) ?_
  · refine keeps_adviseFetch ?_
    · exact h7
  · exact h5

theorem keeps_pinBody {a1 a2 a3} (g3 : Keeps r a3) : KP (Keeps r) (Sys2Proof.Machine.pinBody a1 a2 a3) := by
  unfold Sys2Proof.Machine.pinBody
  refine keeps_ite (P := KP (Keeps r)) ?_ ?_
  · refine KP_mk ?_
    exact g3
  · split
    · refine KP_mk ?_
      exact g3
    · split
      · refine KP_mk ?_
        exact g3
      · refine keeps_ite (P := KP (Keeps r)) ?_ ?_
        · refine keeps_hold ?_
          · exact g3
        · extract_lets -merge -useContext -underBinder +onlyGivenNames v1
          try clear_value v1
          extract_lets -merge -useContext -underBinder +onlyGivenNames v2
          try clear_value v2
          extract_lets -merge -useContext -underBinder +onlyGivenNames v3
          try clear_value v3
          extract_lets -merge -useContext -underBinder +onlyGivenNames v4
          try clear_value v4
          extract_lets -merge -useContext -underBinder +onlyGivenNames v5
          try clear_value v5
          refine keeps_ite (P := KP (Keeps r)) ?_ ?_
          · refine KP_mk ?_
            exact g3
          · refine keeps_ite (P := KP (Keeps r)) ?_ ?_
            · refine KP_mk ?_
              exact g3
            · refine keeps_ite (P := KP (Keeps r)) ?_ ?_
              · refine KP_mk ?_
                exact g3
              · refine KP_mk ?_
                refine keeps_pinSeq ?_
                · exact g3

theorem keeps_addRegion {a1 a2} (g2 : Keeps r a2) : KP (Keeps r) (Sys2Proof.Machine.addRegion a1 a2) := by
  unfold Sys2Proof.Machine.addRegion
  extract_lets -merge -useContext -underBinder +onlyGivenNames v1
  try clear_value v1
  extract_lets -merge -useContext -underBinder +onlyGivenNames _ _ v2
  have h3 : Keeps r v2 := by
    subst v2
    exact keeps_same g2 rfl
  try clear_value v2
  refine KP_mk ?_
  refine keeps_ite (P := Keeps r) ?_ ?_
  · refine keeps_zeroChunks ?_
    · exact h3
  · exact h3

theorem keeps_regionAllocBody {a1 a2 a3} (g3 : Keeps r a3) : KP (Keeps r) (Sys2Proof.Machine.regionAllocBody a1 a2 a3) := by
  unfold Sys2Proof.Machine.regionAllocBody
  extract_lets -merge -useContext -underBinder +onlyGivenNames v1
  try clear_value v1
  extract_lets -merge -useContext -underBinder +onlyGivenNames v2
  try clear_value v2
  extract_lets -merge -useContext -underBinder +onlyGivenNames v3
  try clear_value v3
  extract_lets -merge -useContext -underBinder +onlyGivenNames v4
  try clear_value v4
  refine keeps_ite (P := KP (Keeps r)) ?_ ?_
  · refine KP_mk ?_
    exact g3
  · refine keeps_ite (P := KP (Keeps r)) ?_ ?_
    · refine KP_mk ?_
      exact g3
    · split
      · refine KP_mk ?_
        exact g3
      · extract_lets -merge -useContext -underBinder +onlyGivenNames v5
        try clear_value v5
        extract_lets -merge -useContext -underBinder +onlyGivenNames v6
        try clear_value v6
        refine keeps_ite (P := KP (Keeps r)) ?_ ?_
        · refine KP_mk ?_
          exact g3
        · refine keeps_ite (P := KP (Keeps r)) ?_ ?_
          · refine KP_mk ?_
            exact g3
          · split
            · refine keeps_hold ?_
              · exact g3
            · extract_lets -merge -useContext -underBinder +onlyGivenNames v7
              have h8 : ∀ a9 a10, Keeps r a10 → KP (Keeps r) (v7 a9 a10) := by
                subst v7
                intro _ _ h11
                beta_reduce
                split
                · rename_i q12
                  have h13 : Keeps r _ := KP_of q12 (by
                    refine keeps_addRegion ?_
                    · exact h11
                    )
                  refine KP_mk ?_
                  exact h13
              try clear_value v7
              refine keeps_ite (P := KP (Keeps r)) ?_ ?_
              · split
                · refine KP_mk ?_
                  exact g3
                · rename_i q14
                  have h15 : KP (Keeps r) _ := KO_of q14 (by
                    refine keeps_drawLineage ?_
                    · exact g3
                    )
                  have h15 : Keeps r _ := h15
                  refine h8 _ _ ?_
                  · exact h15
              · refine h8 _ _ ?_
                · exact g3

theorem keeps_bodyOf {a1 a2 a3 a4 a5} (g5 : Keeps r a5) : KP (Keeps r) (Sys2Proof.Machine.bodyOf a1 a2 a3 a4 a5) := by
  unfold Sys2Proof.Machine.bodyOf
  split
  · refine keeps_attendBody ?_
    · exact g5
  · refine keeps_appendBody ?_
    · exact g5
  · refine keeps_readBody ?_
    · exact g5
  · refine keeps_forkBody ?_
    · exact g5
  · refine keeps_destroyBody ?_
    · exact g5
  · refine keeps_truncateBody ?_
    · exact g5
  · refine keeps_remapBody ?_
    · exact g5
  · refine keeps_queryBody ?_
    · exact g5
  · refine keeps_pinBody ?_
    · exact g5
  · refine keeps_regionAllocBody ?_
    · exact g5

theorem keeps_tryHeld {a1 a2} (g2 : Keeps r a2) : Keeps r (Sys2Proof.Machine.tryHeld a1 a2) := by
  unfold Sys2Proof.Machine.tryHeld
  split
  · refine keeps_unhold ?_
    · exact g2
  · split
    · rename_i q1
      have h2 : Keeps r _ := KP_of q1 (by
        refine keeps_bodyOf ?_
        · exact keeps_same g2 rfl
        )
      refine keeps_complete ?_
      · refine keeps_unhold ?_
        · exact h2
    · rename_i q3
      have h4 : Keeps r _ := KP_of q3 (by
        refine keeps_bodyOf ?_
        · exact keeps_same g2 rfl
        )
      exact h4

theorem keeps_settleHeld {a1} (g1 : Keeps r a1) : Keeps r (Sys2Proof.Machine.settleHeld a1) := by
  unfold Sys2Proof.Machine.settleHeld
  refine keeps_foldl (P := Keeps r) (fun _ _ h1 => ?_) ?_
  · split
    · exact h1
    · refine keeps_ite (P := Keeps r) ?_ ?_
      · refine keeps_tryHeld ?_
        · exact h1
      · exact h1
  · exact g1

theorem keeps_finishAll {a1} (g1 : Keeps r a1) : Keeps r (Sys2Proof.Machine.finishAll a1) := by
  unfold Sys2Proof.Machine.finishAll
  extract_lets -merge -useContext -underBinder +onlyGivenNames v1
  have h2 : Keeps r v1 := by
    subst v1
    refine keeps_foldl (P := Keeps r) (fun _ _ h3 => ?_) ?_
    · refine keeps_finishAttend ?_
      · exact h3
    · exact g1
  try clear_value v1
  refine keeps_foldl (P := Keeps r) (fun _ _ h4 => ?_) ?_
  · refine keeps_finishAppend ?_
    · exact h4
  · exact h2

theorem keeps_settleWork {a1} (g1 : Keeps r a1) : Keeps r (Sys2Proof.Machine.settleWork a1) := by
  unfold Sys2Proof.Machine.settleWork
  refine keeps_finishAll ?_
  · refine keeps_settleHeld ?_
    · refine keeps_finishAll ?_
      · exact g1

theorem keeps_failHeld {a1 a2 a3} (g3 : Keeps r a3) : Keeps r (Sys2Proof.Machine.failHeld a1 a2 a3) := by
  unfold Sys2Proof.Machine.failHeld
  refine keeps_finish ?_
  · refine keeps_unhold ?_
    · exact g3

theorem keeps_sealBody {a1 a2} (g2 : Keeps r a2) : KO (Keeps r) (Sys2Proof.Machine.sealBody a1 a2) := by
  unfold Sys2Proof.Machine.sealBody
  refine keeps_ite (P := KO (Keeps r)) ?_ ?_
  · refine KO_some ?_
    exact g2
  · refine keeps_bind (P := Keeps r) (fun _ => ?_)
    refine keeps_useCounter ?_
    · exact g2

theorem keeps_opEnded {a1 a2} (g2 : Keeps r a2) : Keeps r (Sys2Proof.Machine.opEnded a1 a2) := by
  unfold Sys2Proof.Machine.opEnded
  exact keeps_same g2 rfl

theorem keeps_countCompressed {a1 a2} (g2 : Keeps r a2) : Keeps r (Sys2Proof.Machine.countCompressed a1 a2) := by
  unfold Sys2Proof.Machine.countCompressed
  exact keeps_same g2 rfl

theorem keeps_countDecoded {a1 a2 a3} (g3 : Keeps r a3) : Keeps r (Sys2Proof.Machine.countDecoded a1 a2 a3) := by
  unfold Sys2Proof.Machine.countDecoded
  exact keeps_same g3 rfl

theorem keeps_blockSpark {a1} (g1 : Keeps r a1) : KP (Keeps r) (Sys2Proof.Machine.blockSpark a1) := by
  unfold Sys2Proof.Machine.blockSpark
  split
  · rename_i q1
    have h2 : Keeps r _ := KP_of q1 (by
      refine keeps_sparkCheck ?_
      · exact g1
      )
    refine KP_mk ?_
    exact h2
  · rename_i q3
    have h4 : Keeps r _ := KP_of q3 (by
      refine keeps_sparkCheck ?_
      · exact g1
      )
    split
    · rename_i q5
      have h6 : Keeps r _ := KP_of q5 (by
        refine keeps_sparkCheck ?_
        · exact h4
        )
      refine KP_mk ?_
      exact h6
    · rename_i q7
      have h8 : Keeps r _ := KP_of q7 (by
        refine keeps_sparkCheck ?_
        · exact h4
        )
      refine KP_mk ?_
      exact h8

theorem keeps_sparkBlocks {a1 a2} (g2 : Keeps r a2) : KP (Keeps r) (Sys2Proof.Machine.sparkBlocks a1 a2) := by
  unfold Sys2Proof.Machine.sparkBlocks
  refine keeps_foldl (P := KP (Keeps r)) (fun _ _ h1 => ?_) ?_
  · split
    · rename_i q2
      have h3 : Keeps r _ := KP_of q2 (by
        refine keeps_blockSpark ?_
        · refine KP_snd ?_
          exact h1
        )
      refine KP_mk ?_
      exact h3
    · rename_i q4
      have h5 : Keeps r _ := KP_of q4 (by
        refine keeps_blockSpark ?_
        · refine KP_snd ?_
          exact h1
        )
      refine KP_mk ?_
      exact h5
  · refine KP_mk ?_
    exact g2

theorem keeps_decodeFail {a1 a2 a3 a4} (g4 : Keeps r a4) : Keeps r (Sys2Proof.Machine.decodeFail a1 a2 a3 a4) := by
  unfold Sys2Proof.Machine.decodeFail
  split
  · exact g4
  · refine keeps_raiseN ?_
    · exact g4

theorem keeps_wearWarn {a1} (g1 : Keeps r a1) : Keeps r (Sys2Proof.Machine.wearWarn a1) := by
  unfold Sys2Proof.Machine.wearWarn
  extract_lets -merge -useContext -underBinder +onlyGivenNames v1
  try clear_value v1
  refine keeps_ite (P := Keeps r) ?_ ?_
  · exact g1
  · refine keeps_raiseN ?_
    · exact keeps_same g1 rfl

theorem keeps_goReadOnly {a1} (g1 : Keeps r a1) : Keeps r (Sys2Proof.Machine.goReadOnly a1) := by
  unfold Sys2Proof.Machine.goReadOnly
  extract_lets -merge -useContext -underBinder +onlyGivenNames v1
  try clear_value v1
  extract_lets -merge -useContext -underBinder +onlyGivenNames v2
  try clear_value v2
  extract_lets -merge -useContext -underBinder +onlyGivenNames _ v3
  have h4 : Keeps r v3 := by
    subst v3
    exact keeps_same g1 rfl
  try clear_value v3
  extract_lets -merge -useContext -underBinder +onlyGivenNames v5
  have h6 : Keeps r v5 := by
    subst v5
    refine keeps_foldl (P := Keeps r) (fun _ _ h7 => ?_) ?_
    · refine keeps_adviseFetch ?_
      · exact h7
    · exact h4
  try clear_value v5
  refine keeps_settleFlushes ?_
  · refine keeps_foldl (P := Keeps r) (fun _ _ h8 => ?_) ?_
    · split
      · refine keeps_ite (P := Keeps r) ?_ ?_
        · exact keeps_same h8 rfl
        · refine keeps_finish ?_
          · exact h8
    · exact h6

theorem keeps_loseGroup {a1 a2} (g2 : Keeps r a2) : KP (Keeps r) (Sys2Proof.Machine.loseGroup a1 a2) := by
  unfold Sys2Proof.Machine.loseGroup
  extract_lets -merge -useContext -underBinder +onlyGivenNames v1
  try clear_value v1
  extract_lets -merge -useContext -underBinder +onlyGivenNames v2
  try clear_value v2
  extract_lets -merge -useContext -underBinder +onlyGivenNames v3
  try clear_value v3
  extract_lets -merge -useContext -underBinder +onlyGivenNames v4
  try clear_value v4
  extract_lets -merge -useContext -underBinder +onlyGivenNames _ v5
  have h6 : Keeps r v5 := by
    subst v5
    exact keeps_same g2 rfl
  try clear_value v5
  extract_lets -merge -useContext -underBinder +onlyGivenNames v7
  have h8 : Keeps r v7 := by
    subst v7
    refine keeps_foldl (P := Keeps r) (fun _ _ h9 => ?_) ?_
    · extract_lets -merge -useContext -underBinder +onlyGivenNames v10
      have h11 : Keeps r v10 := by
        subst v10
        refine keeps_modBody ?_
        · exact h9
      try clear_value v10
      refine keeps_foldl (P := Keeps r) (fun _ _ h12 => ?_) ?_
      · split
        · split
          · rename_i q13
            have h14 : Keeps r _ := KP_of q13 (by
              refine keeps_noteDirty ?_
              · exact h12
              )
            refine keeps_ite (P := Keeps r) ?_ ?_
            · refine keeps_oweRecord ?_
              · exact h14
            · exact h14
      · exact h11
    · exact h6
  try clear_value v7
  refine KP_mk ?_
  refine keeps_loseBodies ?_
  · exact h8

theorem keeps_fencePeatGroup {a1 a2 a3 a4} (g4 : Keeps r a4) : Keeps r (Sys2Proof.Machine.fencePeatGroup a1 a2 a3 a4) := by
  unfold Sys2Proof.Machine.fencePeatGroup
  extract_lets -merge -useContext -underBinder +onlyGivenNames v1
  try clear_value v1
  extract_lets -merge -useContext -underBinder +onlyGivenNames v2
  have h3 : Keeps r v2 := by
    subst v2
    refine keeps_modGroup ?_
    · exact g4
  try clear_value v2
  extract_lets -merge -useContext -underBinder +onlyGivenNames v4
  have h5 : Keeps r v4 := by
    subst v4
    refine keeps_endEnables ?_
    · exact h3
  try clear_value v4
  split
  · rename_i q6
    have h7 : Keeps r _ := KP_of q6 (by
      refine keeps_loseGroup ?_
      · exact h5
      )
    extract_lets -merge -useContext -underBinder +onlyGivenNames v8
    have h9 : Keeps r v8 := by
      subst v8
      refine keeps_recordFence ?_
      · exact h7
    try clear_value v8
    refine keeps_settleWork ?_
    · refine keeps_raiseN ?_
      · exact h9

theorem keeps_startWb {a1 a2} (g2 : Keeps r a2) : KO (Keeps r) (Sys2Proof.Machine.startWb a1 a2) := by
  unfold Sys2Proof.Machine.startWb
  split
  · refine keeps_ite (P := KO (Keeps r)) ?_ ?_
    · exact KO_none
    · refine keeps_bind (P := Keeps r) (fun _ => ?_)
      refine keeps_mapk (P := Keeps r) (Q := Keeps r) (fun _ h1 => ?_) ?_
      · extract_lets -merge -useContext -underBinder +onlyGivenNames v2
        have h3 : Keeps r v2 := by
          subst v2
          refine keeps_modBody ?_
          · refine keeps_lightAct ?_
            · exact h1
        try clear_value v2
        exact keeps_same h3 rfl
      · refine keeps_sealBody ?_
        · exact g2
  · exact KO_none

theorem keeps_startFirstWb {a1} (g1 : Keeps r a1) : Keeps r (Sys2Proof.Machine.startFirstWb a1) := by
  unfold Sys2Proof.Machine.startFirstWb
  split
  · exact g1
  · refine keeps_getD (P := Keeps r) ?_ g1
    intro x hx
    obtain ⟨w, -, hw⟩ := List.exists_of_findSome?_eq_some hx
    exact keeps_startWb g1 x hw

theorem keeps_programFail {a1 a2 a3} (g3 : Keeps r a3) : Keeps r (Sys2Proof.Machine.programFail a1 a2 a3) := by
  unfold Sys2Proof.Machine.programFail
  split
  · exact g3
  · extract_lets -merge -useContext -underBinder +onlyGivenNames v1
    try clear_value v1
    extract_lets -merge -useContext -underBinder +onlyGivenNames v2
    have h3 : Keeps r v2 := by
      subst v2
      refine keeps_countFault ?_
      · exact g3
    try clear_value v2
    extract_lets -merge -useContext -underBinder +onlyGivenNames v4
    try clear_value v4
    extract_lets -merge -useContext -underBinder +onlyGivenNames v7 v5
    have h8 : Keeps r v7 := by
      subst v7
      refine keeps_modGroup ?_
      · exact h3
    have h6 : Keeps r v5 := by
      subst v5
      clear_value v7
      refine keeps_ite (P := Keeps r) ?_ ?_
      · refine keeps_modGroup ?_
        · exact h3
      · refine keeps_ite (P := Keeps r) ?_ ?_
        · exact h8
        · refine keeps_strainAdd ?_
          · refine keeps_tallyAdd ?_
            · exact h8
    try clear_value v5
    extract_lets -merge -useContext -underBinder +onlyGivenNames v9
    have h10 : Keeps r v9 := by
      subst v9
      refine keeps_modBody ?_
      · exact h6
    try clear_value v9
    extract_lets -merge -useContext -underBinder +onlyGivenNames _ v11
    have h12 : Keeps r v11 := by
      subst v11
      refine keeps_opEnded ?_
      · exact keeps_same h10 rfl
    try clear_value v11
    extract_lets -merge -useContext -underBinder +onlyGivenNames v13
    have h14 : Keeps r v13 := by
      subst v13
      refine keeps_queueWb ?_
      · exact h12
    try clear_value v13
    refine keeps_ite (P := Keeps r) ?_ ?_
    · refine keeps_goReadOnly ?_
      · exact h14
    · refine keeps_ite (P := Keeps r) ?_ ?_
      · refine keeps_fencePeatGroup ?_
        · exact h14
      · exact h14

theorem keeps_programDone {a1 a2 a3 a4 a5 a6 a7} (g7 : Keeps r a7) : Keeps r (Sys2Proof.Machine.programDone a1 a2 a3 a4 a5 a6 a7) := by
  unfold Sys2Proof.Machine.programDone
  extract_lets -merge -useContext -underBinder +onlyGivenNames v1
  try clear_value v1
  extract_lets -merge -useContext -underBinder +onlyGivenNames v2
  have h3 : Keeps r v2 := by
    subst v2
    refine keeps_ite (P := Keeps r) ?_ ?_
    · refine keeps_countCompressed ?_
      · exact g7
    · exact g7
  try clear_value v2
  extract_lets -merge -useContext -underBinder +onlyGivenNames v4
  try clear_value v4
  extract_lets -merge -useContext -underBinder +onlyGivenNames v5
  try clear_value v5
  extract_lets -merge -useContext -underBinder +onlyGivenNames v6
  try clear_value v6
  extract_lets -merge -useContext -underBinder +onlyGivenNames _ v7
  have h8 : Keeps r v7 := by
    subst v7
    exact keeps_same h3 rfl
  try clear_value v7
  extract_lets -merge -useContext -underBinder +onlyGivenNames v9
  have h10 : Keeps r v9 := by
    subst v9
    refine keeps_modBody ?_
    · exact h8
  try clear_value v9
  extract_lets -merge -useContext -underBinder +onlyGivenNames v11
  have h12 : Keeps r v11 := by
    subst v11
    refine keeps_journalEntries ?_
    · refine keeps_opEnded ?_
      · exact h10
  try clear_value v11
  extract_lets -merge -useContext -underBinder +onlyGivenNames v13
  have h14 : Keeps r v13 := by
    subst v13
    refine keeps_ite (P := Keeps r) ?_ ?_
    · refine keeps_noteClean ?_
      · exact h12
    · exact h12
  try clear_value v13
  extract_lets -merge -useContext -underBinder +onlyGivenNames v15
  have h16 : Keeps r v15 := by
    subst v15
    refine keeps_wearWarn ?_
    · exact h14
  try clear_value v15
  extract_lets -merge -useContext -underBinder +onlyGivenNames v17
  try clear_value v17
  refine keeps_ite (P := Keeps r) ?_ ?_
  · refine keeps_flushBody ?_
    · exact h16
  · refine keeps_ite (P := Keeps r) ?_ ?_
    · refine keeps_queueWb ?_
      · exact keeps_same h16 rfl
    · refine keeps_flushBody ?_
      · exact h16

theorem keeps_becomeCold {a1 a2 a3 a4} (g4 : Keeps r a4) : Keeps r (Sys2Proof.Machine.becomeCold a1 a2 a3 a4) := by
  unfold Sys2Proof.Machine.becomeCold
  refine keeps_modBody ?_
  · exact keeps_same g4 rfl

theorem keeps_startMove {a1 a2 a3 a4} (g4 : Keeps r a4) : Keeps r (Sys2Proof.Machine.startMove a1 a2 a3 a4) := by
  unfold Sys2Proof.Machine.startMove
  split
  · extract_lets +onlyGivenNames raw cp
    have hs : KO (Keeps r) (sealBody a2 a4) := keeps_sealBody g4
    generalize sealBody a2 a4 = o at hs ⊢
    split
    · rename_i s _
      have h2 : Keeps r s := hs s rfl
      refine keeps_modBody (keeps_same (keeps_ite (P := Keeps r) (keeps_countCompressed h2) h2) rfl)
    · exact g4
  · exact g4

theorem keeps_cancelMove {a1 a2} (g2 : Keeps r a2) : Keeps r (Sys2Proof.Machine.cancelMove a1 a2) := by
  unfold Sys2Proof.Machine.cancelMove
  refine keeps_dropMove ?_
  · refine keeps_modBody ?_
    · exact keeps_same g2 rfl

theorem keeps_evictStep {a1 a2} (g2 : Keeps r a2) : Keeps r (Sys2Proof.Machine.evictStep a1 a2) := by
  unfold Sys2Proof.Machine.evictStep
  split
  · exact g2
  · split
    · refine keeps_becomeCold ?_
      · exact g2
    · refine keeps_startMove ?_
      · exact g2
    · refine keeps_queueWb ?_
      · exact g2
    · exact g2

theorem keeps_evictPass {a1} (g1 : Keeps r a1) : Keeps r (Sys2Proof.Machine.evictPass a1) := by
  unfold Sys2Proof.Machine.evictPass
  extract_lets -merge -useContext -underBinder +onlyGivenNames v1
  have h2 : Keeps r v1 := by
    subst v1
    refine keeps_foldl (P := Keeps r) (fun _ _ h3 => ?_) ?_
    · refine keeps_ite (P := Keeps r) ?_ ?_
      · exact h3
      · refine keeps_evictStep ?_
        · exact h3
    · exact g1
  try clear_value v1
  exact keeps_same h2 (by simp only [keptParts])

theorem keeps_commitMove {a1 a2 a3} (g3 : Keeps r a3) : Keeps r (Sys2Proof.Machine.commitMove a1 a2 a3) := by
  unfold Sys2Proof.Machine.commitMove
  split
  · refine keeps_cancelMove ?_
    · exact g3
  · refine keeps_ite (P := Keeps r) ?_ ?_
    · refine keeps_opEnded ?_
      · refine keeps_cancelMove ?_
        · exact g3
    · split
      · refine keeps_opEnded ?_
        · refine keeps_modBody ?_
          · refine keeps_becomeCold ?_
            · exact g3
      · refine keeps_opEnded ?_
        · refine keeps_cancelMove ?_
          · exact g3

theorem keeps_startFetch {a1 a2} (g2 : Keeps r a2) : KO (Keeps r) (Sys2Proof.Machine.startFetch a1 a2) := by
  unfold Sys2Proof.Machine.startFetch
  split
  · exact KO_none
  · split
    · refine keeps_bind (P := Keeps r) (fun _ => ?_)
      extract_lets -merge -useContext -underBinder +onlyGivenNames v1
      have h2 : Keeps r v1 := by
        subst v1
        refine keeps_setBody ?_
        · refine keeps_ite (P := Keeps r) ?_ ?_
          · refine keeps_lightAct ?_
            · exact g2
          · exact g2
      try clear_value v1
      extract_lets -merge -useContext -underBinder +onlyGivenNames v3
      have h4 : Keeps r v3 := by
        subst v3
        refine keeps_growExtents ?_
        · exact h2
      try clear_value v3
      refine keeps_ite (P := KO (Keeps r)) ?_ ?_
      · exact KO_none
      · refine KO_some ?_
        exact keeps_same h4 rfl
    · exact KO_none

theorem keeps_layCopy {a1 a2 a3 a4} (g4 : Keeps r a4) : Keeps r (Sys2Proof.Machine.layCopy a1 a2 a3 a4) := by
  unfold Sys2Proof.Machine.layCopy
  extract_lets -merge -useContext -underBinder +onlyGivenNames v1
  have h2 : Keeps r v1 := by
    subst v1
    refine keeps_writeExtents ?_
    · refine keeps_emberWrite ?_
      · exact g4
  try clear_value v1
  extract_lets -merge -useContext -underBinder +onlyGivenNames v3
  have h4 : Keeps r v3 := by
    subst v3
    refine keeps_foldl (P := Keeps r) (fun _ _ h5 => ?_) ?_
    · refine keeps_setPoison ?_
      · exact h5
    · exact h2
  try clear_value v3
  refine keeps_foldl (P := Keeps r) (fun _ _ h6 => ?_) ?_
  · split
    · exact h6
    · refine keeps_setPoison ?_
      · exact h6
  · exact h4

theorem keeps_noteResident {a1} (g1 : Keeps r a1) : Keeps r (Sys2Proof.Machine.noteResident a1) := by
  unfold Sys2Proof.Machine.noteResident
  exact keeps_same g1 rfl

theorem keeps_readPage {a1 a2 a3} (g3 : Keeps r a3) : KP (Keeps r) (Sys2Proof.Machine.readPage a1 a2 a3) := by
  unfold Sys2Proof.Machine.readPage
  split
  · rename_i q1
    have h2 : Keeps r _ := KP_of q1 (by
      refine keeps_sparkCheck ?_
      · exact g3
      )
    refine KP_mk ?_
    refine keeps_countFault ?_
    · exact h2
  · rename_i q3
    have h4 : Keeps r _ := KP_of q3 (by
      refine keeps_sparkCheck ?_
      · exact g3
      )
    refine KP_mk ?_
    refine keeps_ite (P := Keeps r) ?_ ?_
    · refine keeps_countFault ?_
      · exact h4
    · exact h4

theorem keeps_fetchArrived {a1 a2 a3 a4 a5} (g5 : Keeps r a5) : Keeps r (Sys2Proof.Machine.fetchArrived a1 a2 a3 a4 a5) := by
  unfold Sys2Proof.Machine.fetchArrived
  split
  · rename_i q1
    have h2 : Keeps r _ := KP_of q1 (by
      refine keeps_ite (P := KP (Keeps r)) ?_ ?_
      · refine keeps_readPage ?_
        · exact g5
      · refine KP_mk ?_
        exact g5
      )
    split
    · extract_lets -merge -useContext -underBinder +onlyGivenNames v3
      try clear_value v3
      extract_lets -merge -useContext -underBinder +onlyGivenNames v4
      try clear_value v4
      split
      · rename_i q5
        have h6 : Keeps r _ := KP_of q5 (by
          refine keeps_ite (P := KP (Keeps r)) ?_ ?_
          · refine keeps_sparkBlocks ?_
            · exact h2
          · refine KP_mk ?_
            exact h2
          )
        extract_lets -merge -useContext -underBinder +onlyGivenNames v7
        try clear_value v7
        extract_lets -merge -useContext -underBinder +onlyGivenNames v8
        have h9 : Keeps r v8 := by
          subst v8
          refine keeps_ite (P := Keeps r) ?_ ?_
          · refine keeps_decodeFail ?_
            · refine keeps_countDecoded ?_
              · exact h6
          · exact h6
        try clear_value v8
        split
        · extract_lets -merge -useContext -underBinder +onlyGivenNames v10
          try clear_value v10
          extract_lets -merge -useContext -underBinder +onlyGivenNames v11
          have h12 : Keeps r v11 := by
            subst v11
            refine keeps_layCopy ?_
            · exact h9
          try clear_value v11
          extract_lets -merge -useContext -underBinder +onlyGivenNames v13
          try clear_value v13
          extract_lets -merge -useContext -underBinder +onlyGivenNames _ v14
          have h15 : Keeps r v14 := by
            subst v14
            exact keeps_same h12 rfl
          try clear_value v14
          extract_lets -merge -useContext -underBinder +onlyGivenNames v16
          have h17 : Keeps r v16 := by
            subst v16
            refine keeps_modBody ?_
            · exact h15
          try clear_value v16
          extract_lets -merge -useContext -underBinder +onlyGivenNames v18
          have h19 : Keeps r v18 := by
            subst v18
            refine keeps_ite (P := Keeps r) ?_ ?_
            · refine keeps_restoreBody ?_
              · exact h17
            · exact h17
          try clear_value v18
          refine keeps_postArrived ?_
          · refine keeps_noteResident ?_
            · refine keeps_opEnded ?_
              · exact h19

end Sys2Proof.Machine
end

