-- ==== Sys2Proof/Laws/KeepsKiln.lean ====
section
/-! SUPPORT. What the operations of Charcoal, the Kiln, the Field and the tier commands keep (`Keeps`): one lemma per operation. -/

namespace Sys2Proof.Machine

variable {r s t : State} {α β ε : Type}

theorem keeps_noteWeights {a1 a2 a3} (g3 : Keeps r a3) : Keeps r (Sys2Proof.Machine.noteWeights a1 a2 a3) := by
  unfold Sys2Proof.Machine.noteWeights
  split
  · exact g3
  · exact keeps_same g3 rfl

theorem keeps_execCharcoalCompress {a1 a2} (g2 : Keeps r a2) : KN (Keeps r) (Sys2Proof.Machine.execCharcoalCompress a1 a2) := by
  unfold Sys2Proof.Machine.execCharcoalCompress
  refine KN_next ?_
  refine keeps_runCmd ?_ ?_
  · intro _ _ _ h1
    beta_reduce
    extract_lets -merge -useContext -underBinder +onlyGivenNames v2
    try clear_value v2
    extract_lets -merge -useContext -underBinder +onlyGivenNames v3
    try clear_value v3
    split
    · refine KP_mk ?_
      exact h1
    · split
      · extract_lets -merge -useContext -underBinder +onlyGivenNames v4
        try clear_value v4
        refine KP_mk ?_
        refine keeps_countCompressed ?_
        · exact h1
  · exact g2

theorem keeps_execCharcoalDecompress {a1 a2} (g2 : Keeps r a2) : KN (Keeps r) (Sys2Proof.Machine.execCharcoalDecompress a1 a2) := by
  unfold Sys2Proof.Machine.execCharcoalDecompress
  refine KN_next ?_
  refine keeps_runCmd ?_ ?_
  · intro _ _ _ h1
    beta_reduce
    extract_lets -merge -useContext -underBinder +onlyGivenNames v2
    try clear_value v2
    extract_lets -merge -useContext -underBinder +onlyGivenNames v3
    try clear_value v3
    extract_lets -merge -useContext -underBinder +onlyGivenNames v4
    try clear_value v4
    extract_lets -merge -useContext -underBinder +onlyGivenNames v5
    try clear_value v5
    split
    · refine KP_mk ?_
      exact h1
    · extract_lets -merge -useContext -underBinder +onlyGivenNames v6
      try clear_value v6
      extract_lets -merge -useContext -underBinder +onlyGivenNames v7
      try clear_value v7
      split
      · rename_i q8
        have h9 : Keeps r _ := KP_of q8 (by
          refine keeps_sparkBlocks ?_
          · refine keeps_noteWeights ?_
            · exact h1
          )
        extract_lets -merge -useContext -underBinder +onlyGivenNames v10
        try clear_value v10
        extract_lets -merge -useContext -underBinder +onlyGivenNames v11
        try clear_value v11
        extract_lets -merge -useContext -underBinder +onlyGivenNames v12
        have h13 : Keeps r v12 := by
          subst v12
          refine keeps_countDecoded ?_
          · exact h9
        try clear_value v12
        extract_lets -merge -useContext -underBinder +onlyGivenNames v14
        try clear_value v14
        extract_lets -merge -useContext -underBinder +onlyGivenNames v15
        have h16 : Keeps r v15 := by
          subst v15
          refine keeps_ite (P := Keeps r) ?_ ?_
          · refine keeps_raiseN ?_
            · exact h13
          · refine keeps_decodeFail ?_
            · exact h13
        try clear_value v15
        extract_lets -merge -useContext -underBinder +onlyGivenNames v17
        try clear_value v17
        refine KP_mk ?_
        exact h16
  · exact g2

theorem keeps_execCharcoalStatus {a1 a2} (g2 : Keeps r a2) : KN (Keeps r) (Sys2Proof.Machine.execCharcoalStatus a1 a2) := by
  unfold Sys2Proof.Machine.execCharcoalStatus
  refine KN_next ?_
  refine keeps_runCmd ?_ ?_
  · intro _ _ _ h1
    beta_reduce
    split
    · refine KP_mk ?_
      exact h1
    · refine KP_mk ?_
      exact h1
  · exact g2

theorem keeps_takeSense {a1 a2} (g2 : Keeps r a2) : Keeps r (Sys2Proof.Machine.takeSense a1 a2) := by
  unfold Sys2Proof.Machine.takeSense
  exact keeps_same g2 rfl

theorem keeps_unblock {a1 a2 a3} (g3 : Keeps r a3) : Keeps r (Sys2Proof.Machine.unblock a1 a2 a3) := by
  unfold Sys2Proof.Machine.unblock
  exact keeps_same g3 rfl

theorem keeps_receiveMsg {a1 a2 a3 a4} (g4 : Keeps r a4) : Keeps r (Sys2Proof.Machine.receiveMsg a1 a2 a3 a4) := by
  unfold Sys2Proof.Machine.receiveMsg
  refine keeps_modCore ?_
  · exact g4

theorem keeps_bounce {a1 a2 a3} (g3 : Keeps r a3) : Keeps r (Sys2Proof.Machine.bounce a1 a2 a3) := by
  unfold Sys2Proof.Machine.bounce
  refine keeps_modCore ?_
  · exact g3

theorem keeps_settleMesh {a1} (g1 : Keeps r a1) : Keeps r (Sys2Proof.Machine.settleMesh a1) := by
  unfold Sys2Proof.Machine.settleMesh
  exact keeps_same g1 rfl

theorem keeps_setRun {a1 a2 a3} (g3 : Keeps r a3) : Keeps r (Sys2Proof.Machine.setRun a1 a2 a3) := by
  unfold Sys2Proof.Machine.setRun
  exact keeps_same g3 rfl

theorem keeps_writeTables {a1 a2} (g2 : Keeps r a2) : Keeps r (Sys2Proof.Machine.writeTables a1 a2) := by
  unfold Sys2Proof.Machine.writeTables
  refine keeps_foldl (P := Keeps r) (fun _ _ h1 => ?_) ?_
  · refine keeps_modCore ?_
    · exact h1
  · exact g2

theorem keeps_startThreads {a1 a2 a3} (g3 : Keeps r a3) : Keeps r (Sys2Proof.Machine.startThreads a1 a2 a3) := by
  unfold Sys2Proof.Machine.startThreads
  extract_lets -merge -useContext -underBinder +onlyGivenNames v1
  try clear_value v1
  refine keeps_modCore ?_
  · exact g3

theorem keeps_startRank {a1 a2 a3} (g2 : KF (Keeps r) a2) : KF (Keeps r) (Sys2Proof.Machine.startRank a1 a2 a3) := by
  unfold Sys2Proof.Machine.startRank
  split
  · refine keeps_ite (P := KF (Keeps r)) ?_ ?_
    · refine KF_mk ?_
      refine keeps_startThreads ?_
      · refine KF_fst ?_
        exact g2
    · refine KF_mk ?_
      refine KF_fst ?_
      exact g2
  · refine keeps_ite (P := KF (Keeps r)) ?_ ?_
    · refine KF_mk ?_
      refine keeps_startThreads ?_
      · refine KF_fst ?_
        exact g2
    · refine KF_mk ?_
      refine KF_fst ?_
      exact g2

theorem keeps_startRanks {a1 a2} (g2 : Keeps r a2) : Keeps r (Sys2Proof.Machine.startRanks a1 a2) := by
  unfold Sys2Proof.Machine.startRanks
  split
  · exact g2
  · split
    · rename_i q1
      have h2 : Keeps r _ := KF_of q1 (by
        refine keeps_foldl (P := KF (Keeps r)) (fun _ _ h3 => ?_) ?_
        · refine keeps_startRank ?_
          · exact h3
        · refine KF_mk ?_
          exact g2
        )
      extract_lets -merge -useContext -underBinder +onlyGivenNames v4
      try clear_value v4
      refine keeps_writeTables ?_
      · refine keeps_setRun ?_
        · exact h2

theorem keeps_startRuns {a1} (g1 : Keeps r a1) : Keeps r (Sys2Proof.Machine.startRuns a1) := by
  unfold Sys2Proof.Machine.startRuns
  refine keeps_foldl (P := Keeps r) (fun _ _ h1 => ?_) ?_
  · refine keeps_startRanks ?_
    · exact h1
  · exact g1

theorem keeps_leaveCore {a1 a2 a3} (g3 : Keeps r a3) : Keeps r (Sys2Proof.Machine.leaveCore a1 a2 a3) := by
  unfold Sys2Proof.Machine.leaveCore
  extract_lets -merge -useContext -underBinder +onlyGivenNames v1
  try clear_value v1
  extract_lets -merge -useContext -underBinder +onlyGivenNames v2
  have h3 : Keeps r v2 := by
    subst v2
    split
    · refine keeps_modCore ?_
      · exact g3
    · exact g3
  try clear_value v2
  refine keeps_ite (P := Keeps r) ?_ ?_
  · exact h3
  · refine keeps_ite (P := Keeps r) ?_ ?_
    · refine keeps_unblock ?_
      · refine keeps_modCore ?_
        · exact h3
    · refine keeps_modCore ?_
      · exact h3

theorem keeps_endRun {a1 a2 a3 a4 a5} (g5 : Keeps r a5) : Keeps r (Sys2Proof.Machine.endRun a1 a2 a3 a4 a5) := by
  unfold Sys2Proof.Machine.endRun
  split
  · exact g5
  · extract_lets -merge -useContext -underBinder +onlyGivenNames v1
    have h2 : Keeps r v1 := by
      subst v1
      refine keeps_foldl (P := Keeps r) (fun _ _ h3 => ?_) ?_
      · refine keeps_leaveCore ?_
        · exact h3
      · exact g5
    try clear_value v1
    extract_lets -merge -useContext -underBinder +onlyGivenNames _ v4
    have h5 : Keeps r v4 := by
      subst v4
      exact keeps_same h2 rfl
    try clear_value v4
    extract_lets -merge -useContext -underBinder +onlyGivenNames v6
    try clear_value v6
    extract_lets -merge -useContext -underBinder +onlyGivenNames v7
    try clear_value v7
    extract_lets -merge -useContext -underBinder +onlyGivenNames v8
    try clear_value v8
    refine keeps_startRuns ?_
    · refine keeps_finish ?_
      · exact h5

theorem keeps_callReserve {a1} (g1 : Keeps r a1) : KP (Keeps r) (Sys2Proof.Machine.callReserve a1) := by
  unfold Sys2Proof.Machine.callReserve
  extract_lets -merge -useContext -underBinder +onlyGivenNames v1
  try clear_value v1
  refine keeps_ite (P := KP (Keeps r)) ?_ ?_
  · refine KP_mk ?_
    exact g1
  · split
    · refine KP_mk ?_
      exact g1
    · refine KP_mk ?_
      refine keeps_modCore ?_
      · exact g1

theorem keeps_loseItem {a1 a2 a3} (g3 : Keeps r a3) : Keeps r (Sys2Proof.Machine.loseItem a1 a2 a3) := by
  unfold Sys2Proof.Machine.loseItem
  extract_lets -merge -useContext -underBinder +onlyGivenNames v1
  have h2 : ∀ a3, Keeps r a3 → Keeps r (v1 a3) := by
    subst v1
    intro _ h4
    beta_reduce
    refine keeps_ite (P := Keeps r) ?_ ?_
    · exact keeps_same h4 rfl
    · exact keeps_same h4 rfl
  try clear_value v1
  refine keeps_ite (P := Keeps r) ?_ ?_
  · extract_lets -merge -useContext -underBinder +onlyGivenNames v5
    have h6 : Keeps r v5 := by
      subst v5
      refine keeps_unpinBodies ?_
      · exact g3
    try clear_value v5
    refine keeps_ite (P := Keeps r) ?_ ?_
    · exact keeps_same h6 rfl
    · exact keeps_same h6 rfl
  · extract_lets -merge -useContext -underBinder +onlyGivenNames v7
    have h8 : Keeps r v7 := by
      subst v7
      refine keeps_profileAdd ?_
      · refine h2 _ ?_
        · exact g3
    try clear_value v7
    exact keeps_same h8 rfl

theorem keeps_loseItems {a1 a2} (g2 : Keeps r a2) : Keeps r (Sys2Proof.Machine.loseItems a1 a2) := by
  unfold Sys2Proof.Machine.loseItems
  refine keeps_foldl (P := Keeps r) (fun _ _ h1 => ?_) ?_
  · refine keeps_loseItem ?_
    · exact h1
  · exact g2

theorem keeps_loseRanks {a1 a2 a3} (g3 : Keeps r a3) : Keeps r (Sys2Proof.Machine.loseRanks a1 a2 a3) := by
  unfold Sys2Proof.Machine.loseRanks
  extract_lets -merge -useContext -underBinder +onlyGivenNames v1
  try clear_value v1
  extract_lets -merge -useContext -underBinder +onlyGivenNames _ v2
  have h3 : Keeps r v2 := by
    subst v2
    exact keeps_same g3 rfl
  try clear_value v2
  refine keeps_foldl (P := Keeps r) (fun _ _ h4 => ?_) ?_
  · refine keeps_writeTables ?_
    · exact h4
  · exact h3

theorem keeps_checkGuarantee {a1} (g1 : Keeps r a1) : Keeps r (Sys2Proof.Machine.checkGuarantee a1) := by
  unfold Sys2Proof.Machine.checkGuarantee
  extract_lets -merge -useContext -underBinder +onlyGivenNames v1
  try clear_value v1
  extract_lets -merge -useContext -underBinder +onlyGivenNames v2
  try clear_value v2
  refine keeps_ite (P := Keeps r) ?_ ?_
  · refine keeps_raiseNode ?_
    · exact keeps_same g1 rfl
  · exact keeps_same g1 rfl

theorem keeps_fenceCore {a1 a2 a3 a4} (g4 : Keeps r a4) : Keeps r (Sys2Proof.Machine.fenceCore a1 a2 a3 a4) := by
  unfold Sys2Proof.Machine.fenceCore
  extract_lets -merge -useContext -underBinder +onlyGivenNames v1
  try clear_value v1
  extract_lets -merge -useContext -underBinder +onlyGivenNames v2
  try clear_value v2
  extract_lets -merge -useContext -underBinder +onlyGivenNames v3
  try clear_value v3
  extract_lets -merge -useContext -underBinder +onlyGivenNames v4
  have h5 : Keeps r v4 := by
    subst v4
    refine keeps_setCore ?_
    · refine keeps_unblock ?_
      · exact g4
  try clear_value v4
  extract_lets -merge -useContext -underBinder +onlyGivenNames v6
  have h7 : Keeps r v6 := by
    subst v6
    refine keeps_endEnables ?_
    · exact h5
  try clear_value v6
  extract_lets -merge -useContext -underBinder +onlyGivenNames _ v8
  have h9 : Keeps r v8 := by
    subst v8
    exact keeps_same h7 rfl
  try clear_value v8
  extract_lets -merge -useContext -underBinder +onlyGivenNames v10
  have h11 : Keeps r v10 := by
    subst v10
    refine keeps_loseItems ?_
    · exact h9
  try clear_value v10
  split
  · rename_i q12
    have h13 : Keeps r _ := KP_of q12 (by
      refine keeps_callReserve ?_
      · exact h11
      )
    extract_lets -merge -useContext -underBinder +onlyGivenNames v14
    have h15 : Keeps r v14 := by
      subst v14
      refine keeps_settleWork ?_
      · refine keeps_loseRanks ?_
        · exact h13
    try clear_value v14
    extract_lets -merge -useContext -underBinder +onlyGivenNames v16
    have h17 : Keeps r v16 := by
      subst v16
      refine keeps_recordFence ?_
      · exact h15
    try clear_value v16
    extract_lets -merge -useContext -underBinder +onlyGivenNames v18
    have h19 : Keeps r v18 := by
      subst v18
      refine keeps_raiseN ?_
      · exact h17
    try clear_value v18
    refine keeps_checkGuarantee ?_
    · exact h19

theorem keeps_workBoundary {a1} (g1 : Keeps r a1) : Keeps r (Sys2Proof.Machine.workBoundary a1) := by
  unfold Sys2Proof.Machine.workBoundary
  extract_lets -merge -useContext -underBinder +onlyGivenNames v1
  have h2 : Keeps r v1 := by
    subst v1
    refine keeps_foldl (P := Keeps r) (fun _ _ h3 => ?_) ?_
    · extract_lets -merge -useContext -underBinder +onlyGivenNames v4
      try clear_value v4
      refine keeps_ite (P := Keeps r) ?_ ?_
      · refine keeps_setCore ?_
        · exact h3
      · exact h3
    · exact g1
  try clear_value v1
  refine keeps_startRuns ?_
  · exact h2

theorem keeps_returnCore {a1 a2} (g2 : Keeps r a2) : Keeps r (Sys2Proof.Machine.returnCore a1 a2) := by
  unfold Sys2Proof.Machine.returnCore
  extract_lets -merge -useContext -underBinder +onlyGivenNames v1
  try clear_value v1
  extract_lets -merge -useContext -underBinder +onlyGivenNames v2
  have h3 : Keeps r v2 := by
    subst v2
    refine keeps_setCore ?_
    · exact g2
  try clear_value v2
  extract_lets -merge -useContext -underBinder +onlyGivenNames v4
  have h5 : Keeps r v4 := by
    subst v4
    refine keeps_endEnables ?_
    · exact h3
  try clear_value v4
  refine keeps_checkGuarantee ?_
  · refine KP_snd ?_
    refine keeps_callReserve ?_
    · exact h5

theorem keeps_execKilnAttend {a1 a2} (g2 : Keeps r a2) : KN (Keeps r) (Sys2Proof.Machine.execKilnAttend a1 a2) := by
  unfold Sys2Proof.Machine.execKilnAttend
  refine KN_next ?_
  refine keeps_settleWork ?_
  · refine keeps_runCmd ?_ ?_
    · intro _ _ _ h1
      refine keeps_attendBody ?_
      · exact h1
    · exact g2

theorem keeps_execKilnRopeSet {a1 a2} (g2 : Keeps r a2) : KN (Keeps r) (Sys2Proof.Machine.execKilnRopeSet a1 a2) := by
  unfold Sys2Proof.Machine.execKilnRopeSet
  refine KN_next ?_
  refine keeps_runCmd ?_ ?_
  · intro _ _ _ h1
    beta_reduce
    extract_lets -merge -useContext -underBinder +onlyGivenNames v2
    try clear_value v2
    extract_lets -merge -useContext -underBinder +onlyGivenNames v3
    try clear_value v3
    extract_lets -merge -useContext -underBinder +onlyGivenNames v4
    try clear_value v4
    refine keeps_ite (P := KP (Keeps r)) ?_ ?_
    · refine KP_mk ?_
      exact h1
    · refine keeps_ite (P := KP (Keeps r)) ?_ ?_
      · refine KP_mk ?_
        exact h1
      · split
        · refine KP_mk ?_
          exact h1
        · refine keeps_ite (P := KP (Keeps r)) ?_ ?_
          · refine KP_mk ?_
            exact h1
          · refine keeps_ite (P := KP (Keeps r)) ?_ ?_
            · refine KP_mk ?_
              exact h1
            · refine keeps_ite (P := KP (Keeps r)) ?_ ?_
              · refine KP_mk ?_
                exact h1
              · split
                · refine KP_mk ?_
                  exact h1
                · split
                  · rename_i q5
                    have h6 : Keeps r _ := KP_of q5 (by
                      refine keeps_judge ?_
                      · exact h1
                      )
                    refine keeps_ite (P := KP (Keeps r)) ?_ ?_
                    · refine KP_mk ?_
                      exact h6
                    · refine KP_mk ?_
                      exact keeps_same h6 rfl
  · exact g2

theorem keeps_execKilnRopeClear {a1 a2} (g2 : Keeps r a2) : KN (Keeps r) (Sys2Proof.Machine.execKilnRopeClear a1 a2) := by
  unfold Sys2Proof.Machine.execKilnRopeClear
  refine KN_next ?_
  refine keeps_runCmd ?_ ?_
  · intro _ _ _ h1
    beta_reduce
    extract_lets -merge -useContext -underBinder +onlyGivenNames v2
    try clear_value v2
    extract_lets -merge -useContext -underBinder +onlyGivenNames v3
    try clear_value v3
    refine keeps_ite (P := KP (Keeps r)) ?_ ?_
    · refine KP_mk ?_
      exact h1
    · refine keeps_ite (P := KP (Keeps r)) ?_ ?_
      · refine KP_mk ?_
        exact h1
      · split
        · rename_i q4
          have h5 : Keeps r _ := KP_of q4 (by
            refine keeps_judge ?_
            · exact h1
            )
          refine keeps_ite (P := KP (Keeps r)) ?_ ?_
          · refine KP_mk ?_
            exact h5
          · refine KP_mk ?_
            exact keeps_same h5 rfl
  · exact g2

theorem keeps_execKilnAdmitSet {a1 a2} (g2 : Keeps r a2) : KN (Keeps r) (Sys2Proof.Machine.execKilnAdmitSet a1 a2) := by
  unfold Sys2Proof.Machine.execKilnAdmitSet
  refine KN_next ?_
  refine keeps_runCmd ?_ ?_
  · intro _ _ _ h1
    beta_reduce
    extract_lets -merge -useContext -underBinder +onlyGivenNames v2
    try clear_value v2
    extract_lets -merge -useContext -underBinder +onlyGivenNames v3
    try clear_value v3
    refine keeps_ite (P := KP (Keeps r)) ?_ ?_
    · refine KP_mk ?_
      exact h1
    · split
      · rename_i q4
        have h5 : Keeps r _ := KP_of q4 (by
          refine keeps_judge ?_
          · exact h1
          )
        refine keeps_ite (P := KP (Keeps r)) ?_ ?_
        · refine KP_mk ?_
          exact h5
        · refine keeps_stage ?_
          · exact h5
  · exact g2

theorem keeps_execKilnStatus {a1 a2} (g2 : Keeps r a2) : KN (Keeps r) (Sys2Proof.Machine.execKilnStatus a1 a2) := by
  unfold Sys2Proof.Machine.execKilnStatus
  refine KN_next ?_
  refine keeps_runCmd ?_ ?_
  · intro _ _ _ h1
    beta_reduce
    refine keeps_ite (P := KP (Keeps r)) ?_ ?_
    · refine KP_mk ?_
      exact h1
    · extract_lets -merge -useContext -underBinder +onlyGivenNames v2
      try clear_value v2
      extract_lets -merge -useContext -underBinder +onlyGivenNames v3
      try clear_value v3
      refine KP_mk ?_
      exact h1
  · exact g2

theorem keeps_writeItem {a1 a2} (g2 : Keeps r a2) : KO (KP (Keeps r)) (Sys2Proof.Machine.writeItem a1 a2) := by
  unfold Sys2Proof.Machine.writeItem
  split
  · split
    · refine KO_some ?_
      refine KP_mk ?_
      exact g2
    · extract_lets -merge -useContext -underBinder +onlyGivenNames v1
      try clear_value v1
      extract_lets -merge -useContext -underBinder +onlyGivenNames v2
      try clear_value v2
      extract_lets -merge -useContext -underBinder +onlyGivenNames v3
      try clear_value v3
      split
      · extract_lets -merge -useContext -underBinder +onlyGivenNames v4
        have h5 : Keeps r v4 := by
          subst v4
          refine keeps_growExtents ?_
          · exact g2
        try clear_value v4
        refine keeps_ite (P := KO (KP (Keeps r))) ?_ ?_
        · refine KO_some ?_
          refine KP_mk ?_
          exact h5
        · exact KO_none
  · refine KO_some ?_
    refine KP_mk ?_
    exact g2

theorem keeps_placeItem {a1 a2 a3 a4} (g4 : Keeps r a4) : Keeps r (Sys2Proof.Machine.placeItem a1 a2 a3 a4) := by
  unfold Sys2Proof.Machine.placeItem
  extract_lets -merge -useContext -underBinder +onlyGivenNames v1
  try clear_value v1
  extract_lets -merge -useContext -underBinder +onlyGivenNames v2
  try clear_value v2
  extract_lets -merge -useContext -underBinder +onlyGivenNames v3
  have h4 : Keeps r v3 := by
    subst v3
    refine keeps_modCore ?_
    · refine keeps_lightAct ?_
      · exact g4
  try clear_value v3
  exact keeps_same h4 rfl

theorem keeps_placeFirst {a1 a2} (g2 : Keeps r a2) : Keeps r (Sys2Proof.Machine.placeFirst a1 a2) := by
  induction a1 generalizing a2 with
  | nil => exact g2
  | cons e t ih =>
    unfold Sys2Proof.Machine.placeFirst
    split
    · exact ih g2
    · split
      · exact keeps_placeItem g2
      · split
        · rename_i q
          have h : KP (Keeps r) _ := KO_of q (keeps_writeItem g2)
          exact keeps_placeItem (KP_snd h)
        · exact ih (keeps_same g2 rfl)

theorem keeps_reserveCore {a1 a2} (g2 : Keeps r a2) : Keeps r (Sys2Proof.Machine.reserveCore a1 a2) := by
  unfold Sys2Proof.Machine.reserveCore
  extract_lets -merge -useContext -underBinder +onlyGivenNames v1
  try clear_value v1
  extract_lets -merge -useContext -underBinder +onlyGivenNames _ v2
  have h3 : Keeps r v2 := by
    subst v2
    refine keeps_ite (P := Keeps r) ?_ ?_
    · exact g2
    · exact keeps_same g2 rfl
  try clear_value v2
  split
  · exact h3
  · refine keeps_ite (P := Keeps r) ?_ ?_
    · exact h3
    · split
      · exact h3
      · exact keeps_same h3 rfl

theorem keeps_execItemPlace {a1} (g1 : Keeps r a1) : KN (Keeps r) (Sys2Proof.Machine.execItemPlace a1) := by
  unfold Sys2Proof.Machine.execItemPlace
  extract_lets -merge -useContext -underBinder +onlyGivenNames v1
  have h2 : Keeps r v1 := by
    subst v1
    refine keeps_workBoundary ?_
    · exact g1
  try clear_value v1
  refine KN_next ?_
  refine keeps_placeFirst ?_
  · refine keeps_reserveCore ?_
    · exact h2

theorem keeps_commitAttend {a1 a2 a3 a4} (g4 : Keeps r a4) : Keeps r (Sys2Proof.Machine.commitAttend a1 a2 a3 a4) := by
  unfold Sys2Proof.Machine.commitAttend
  extract_lets -merge -useContext -underBinder +onlyGivenNames v1
  try clear_value v1
  extract_lets -merge -useContext -underBinder +onlyGivenNames v2
  try clear_value v2
  extract_lets -merge -useContext -underBinder +onlyGivenNames v3
  try clear_value v3
  extract_lets -merge -useContext -underBinder +onlyGivenNames v4
  try clear_value v4
  refine keeps_unpinBodies ?_
  · exact keeps_same g4 rfl

theorem keeps_commitAppend {a1 a2 a3} (g3 : Keeps r a3) : Keeps r (Sys2Proof.Machine.commitAppend a1 a2 a3) := by
  unfold Sys2Proof.Machine.commitAppend
  split
  · extract_lets -merge -useContext -underBinder +onlyGivenNames v1
    try clear_value v1
    extract_lets -merge -useContext -underBinder +onlyGivenNames v2
    have h3 : Keeps r v2 := by
      subst v2
      split
      · exact g3
      · refine keeps_growExtents ?_
        · refine keeps_writeBody ?_
          · exact g3
    try clear_value v2
    extract_lets -merge -useContext -underBinder +onlyGivenNames v4
    have h5 : Keeps r v4 := by
      subst v4
      refine keeps_useBody ?_
      · refine keeps_modBody ?_
        · exact h3
    try clear_value v4
    extract_lets -merge -useContext -underBinder +onlyGivenNames v6
    have h7 : Keeps r v6 := by
      subst v6
      split
      · exact h5
      · refine keeps_ite (P := Keeps r) ?_ ?_
        · refine keeps_setEntry ?_
          · exact h5
        · exact h5
    try clear_value v6
    split
    · rename_i q8
      have h9 : Keeps r _ := KP_of q8 (by
        refine keeps_noteDirty ?_
        · exact h7
        )
      extract_lets -merge -useContext -underBinder +onlyGivenNames v10
      have h11 : Keeps r v10 := by
        subst v10
        refine keeps_ite (P := Keeps r) ?_ ?_
        · refine keeps_oweRecord ?_
          · exact h9
        · exact h9
      try clear_value v10
      extract_lets -merge -useContext -underBinder +onlyGivenNames _ v12
      have h13 : Keeps r v12 := by
        subst v12
        exact keeps_same h11 rfl
      try clear_value v12
      extract_lets -merge -useContext -underBinder +onlyGivenNames v14
      have h15 : Keeps r v14 := by
        subst v14
        refine keeps_ite (P := Keeps r) ?_ ?_
        · refine keeps_postSheaf ?_
          · exact h13
        · exact h13
      try clear_value v14
      extract_lets -merge -useContext -underBinder +onlyGivenNames v16
      have h17 : Keeps r v16 := by
        subst v16
        refine keeps_ite (P := Keeps r) ?_ ?_
        · refine keeps_queueWb ?_
          · refine keeps_settlePosts ?_
            · exact h15
        · exact h15
      try clear_value v16
      refine keeps_unpinBodies ?_
      · exact h17
  · refine keeps_unpinBodies ?_
    · exact keeps_same g3 rfl

theorem keeps_execItemCommit {a1 a2 a3} (g3 : Keeps r a3) : KN (Keeps r) (Sys2Proof.Machine.execItemCommit a1 a2 a3) := by
  unfold Sys2Proof.Machine.execItemCommit
  refine KN_next ?_
  split
  · exact g3
  · refine keeps_ite (P := Keeps r) ?_ ?_
    · exact g3
    · extract_lets -merge -useContext -underBinder +onlyGivenNames v1
      have h2 : Keeps r v1 := by
        subst v1
        refine keeps_tenantAdd ?_
        · refine keeps_lightAct ?_
          · exact g3
      try clear_value v1
      extract_lets -merge -useContext -underBinder +onlyGivenNames v3
      have h4 : Keeps r v3 := by
        subst v3
        refine keeps_ite (P := Keeps r) ?_ ?_
        · refine keeps_commitAppend ?_
          · exact h2
        · split
          · exact h2
          · refine keeps_commitAttend ?_
            · exact h2
      try clear_value v3
      refine keeps_startRuns ?_
      · refine keeps_settleWork ?_
        · exact h4

theorem keeps_dropItems {a1 a2 a3} (g3 : Keeps r a3) : Keeps r (Sys2Proof.Machine.dropItems a1 a2 a3) := by
  unfold Sys2Proof.Machine.dropItems
  extract_lets -merge -useContext -underBinder +onlyGivenNames v1
  try clear_value v1
  refine keeps_foldl (P := Keeps r) (fun _ _ h2 => ?_) ?_
  · split
    · extract_lets -merge -useContext -underBinder +onlyGivenNames _ v3
      have h4 : Keeps r v3 := by
        subst v3
        refine keeps_unpinBodies ?_
        · exact keeps_same h2 rfl
      try clear_value v3
      refine keeps_ite (P := Keeps r) ?_ ?_
      · exact keeps_same h4 rfl
      · exact keeps_same h4 rfl
  · exact g3

theorem keeps_execResidencyTimeout {a1 a2} (g2 : Keeps r a2) : KN (Keeps r) (Sys2Proof.Machine.execResidencyTimeout a1 a2) := by
  unfold Sys2Proof.Machine.execResidencyTimeout
  extract_lets -merge -useContext -underBinder +onlyGivenNames v1
  try clear_value v1
  refine KN_next ?_
  split
  · refine keeps_ite (P := Keeps r) ?_ ?_
    · refine keeps_settleWork ?_
      · refine keeps_dropItems ?_
        · exact g2
    · exact g2
  · split
    · exact g2
    · refine keeps_ite (P := Keeps r) ?_ ?_
      · refine keeps_settleWork ?_
        · refine keeps_failHeld ?_
          · exact g2
      · exact g2

theorem keeps_execTierSeqCreate {a1 a2} (g2 : Keeps r a2) : KN (Keeps r) (Sys2Proof.Machine.execTierSeqCreate a1 a2) := by
  unfold Sys2Proof.Machine.execTierSeqCreate
  refine KN_next ?_
  refine keeps_runCmd ?_ ?_
  · intro _ _ _ h1
    beta_reduce
    extract_lets -merge -useContext -underBinder +onlyGivenNames v2
    try clear_value v2
    extract_lets -merge -useContext -underBinder +onlyGivenNames v3
    try clear_value v3
    extract_lets -merge -useContext -underBinder +onlyGivenNames v4
    try clear_value v4
    refine keeps_ite (P := KP (Keeps r)) ?_ ?_
    · refine KP_mk ?_
      exact h1
    · split
      · refine KP_mk ?_
        exact h1
      · refine keeps_ite (P := KP (Keeps r)) ?_ ?_
        · refine KP_mk ?_
          exact h1
        · refine keeps_ite (P := KP (Keeps r)) ?_ ?_
          · refine KP_mk ?_
            exact h1
          · refine keeps_ite (P := KP (Keeps r)) ?_ ?_
            · refine KP_mk ?_
              exact h1
            · refine keeps_ite (P := KP (Keeps r)) ?_ ?_
              · refine KP_mk ?_
                exact h1
              · extract_lets -merge -useContext -underBinder +onlyGivenNames v5
                try clear_value v5
                extract_lets -merge -useContext -underBinder +onlyGivenNames v6
                try clear_value v6
                extract_lets -merge -useContext -underBinder +onlyGivenNames v7
                try clear_value v7
                refine keeps_ite (P := KP (Keeps r)) ?_ ?_
                · refine KP_mk ?_
                  exact h1
                · extract_lets -merge -useContext -underBinder +onlyGivenNames v8
                  try clear_value v8
                  refine KP_mk ?_
                  refine keeps_setSeq ?_
                  · exact keeps_same h1 rfl
  · exact g2

theorem keeps_execTierSeqFork {a1 a2} (g2 : Keeps r a2) : KN (Keeps r) (Sys2Proof.Machine.execTierSeqFork a1 a2) := by
  unfold Sys2Proof.Machine.execTierSeqFork
  refine KN_next ?_
  refine keeps_settleWork ?_
  · refine keeps_runCmd ?_ ?_
    · intro _ _ _ h1
      refine keeps_forkBody ?_
      · exact h1
    · exact g2

theorem keeps_execTierSeqDestroy {a1 a2} (g2 : Keeps r a2) : KN (Keeps r) (Sys2Proof.Machine.execTierSeqDestroy a1 a2) := by
  unfold Sys2Proof.Machine.execTierSeqDestroy
  refine KN_next ?_
  refine keeps_settleWork ?_
  · refine keeps_runCmd ?_ ?_
    · intro _ _ _ h1
      refine keeps_destroyBody ?_
      · exact h1
    · exact g2

theorem keeps_execTierSeqTruncate {a1 a2} (g2 : Keeps r a2) : KN (Keeps r) (Sys2Proof.Machine.execTierSeqTruncate a1 a2) := by
  unfold Sys2Proof.Machine.execTierSeqTruncate
  refine KN_next ?_
  refine keeps_settleWork ?_
  · refine keeps_runCmd ?_ ?_
    · intro _ _ _ h1
      refine keeps_truncateBody ?_
      · exact h1
    · exact g2

theorem keeps_execTierRemap {a1 a2} (g2 : Keeps r a2) : KN (Keeps r) (Sys2Proof.Machine.execTierRemap a1 a2) := by
  unfold Sys2Proof.Machine.execTierRemap
  refine KN_next ?_
  refine keeps_settleWork ?_
  · refine keeps_runCmd ?_ ?_
    · intro _ _ _ h1
      refine keeps_remapBody ?_
      · exact h1
    · exact g2

theorem keeps_execTierQuery {a1 a2} (g2 : Keeps r a2) : KN (Keeps r) (Sys2Proof.Machine.execTierQuery a1 a2) := by
  unfold Sys2Proof.Machine.execTierQuery
  refine KN_next ?_
  refine keeps_settleWork ?_
  · refine keeps_runCmd ?_ ?_
    · intro _ _ _ h1
      refine keeps_queryBody ?_
      · exact h1
    · exact g2

theorem keeps_execTierPin {a1 a2} (g2 : Keeps r a2) : KN (Keeps r) (Sys2Proof.Machine.execTierPin a1 a2) := by
  unfold Sys2Proof.Machine.execTierPin
  refine KN_next ?_
  refine keeps_settleWork ?_
  · refine keeps_runCmd ?_ ?_
    · intro _ _ _ h1
      refine keeps_pinBody ?_
      · exact h1
    · exact g2

theorem keeps_execTierUnpin {a1 a2} (g2 : Keeps r a2) : KN (Keeps r) (Sys2Proof.Machine.execTierUnpin a1 a2) := by
  unfold Sys2Proof.Machine.execTierUnpin
  refine KN_next ?_
  refine keeps_runCmd ?_ ?_
  · intro _ _ _ h1
    beta_reduce
    extract_lets -merge -useContext -underBinder +onlyGivenNames v2
    try clear_value v2
    refine keeps_ite (P := KP (Keeps r)) ?_ ?_
    · refine KP_mk ?_
      exact h1
    · split
      · refine KP_mk ?_
        exact h1
      · refine keeps_ite (P := KP (Keeps r)) ?_ ?_
        · refine KP_mk ?_
          exact h1
        · refine KP_mk ?_
          refine keeps_dropPin ?_
          · exact h1
  · exact g2

theorem keeps_execTierRegionAlloc {a1 a2} (g2 : Keeps r a2) : KN (Keeps r) (Sys2Proof.Machine.execTierRegionAlloc a1 a2) := by
  unfold Sys2Proof.Machine.execTierRegionAlloc
  refine KN_next ?_
  refine keeps_settleWork ?_
  · refine keeps_runCmd ?_ ?_
    · intro _ _ _ h1
      refine keeps_regionAllocBody ?_
      · exact h1
    · exact g2

theorem keeps_freeRegion {a1 a2 a3} (g3 : Keeps r a3) : Keeps r (Sys2Proof.Machine.freeRegion a1 a2 a3) := by
  unfold Sys2Proof.Machine.freeRegion
  extract_lets -merge -useContext -underBinder +onlyGivenNames v1
  have h2 : Keeps r v1 := by
    subst v1
    refine keeps_ite (P := Keeps r) ?_ ?_
    · refine keeps_zeroChunks ?_
      · exact g3
    · exact g3
  try clear_value v1
  exact keeps_same h2 rfl

theorem keeps_execTierRegionFree {a1 a2} (g2 : Keeps r a2) : KN (Keeps r) (Sys2Proof.Machine.execTierRegionFree a1 a2) := by
  unfold Sys2Proof.Machine.execTierRegionFree
  refine KN_next ?_
  refine keeps_runCmd ?_ ?_
  · intro _ _ _ h1
    beta_reduce
    extract_lets -merge -useContext -underBinder +onlyGivenNames v2
    try clear_value v2
    refine keeps_ite (P := KP (Keeps r)) ?_ ?_
    · refine KP_mk ?_
      exact h1
    · split
      · refine KP_mk ?_
        exact h1
      · refine keeps_ite (P := KP (Keeps r)) ?_ ?_
        · refine KP_mk ?_
          exact h1
        · refine keeps_ite (P := KP (Keeps r)) ?_ ?_
          · refine KP_mk ?_
            exact h1
          · refine KP_mk ?_
            refine keeps_freeRegion ?_
            · exact h1
  · exact g2

theorem keeps_execTierFlush {a1 a2} (g2 : Keeps r a2) : KN (Keeps r) (Sys2Proof.Machine.execTierFlush a1 a2) := by
  unfold Sys2Proof.Machine.execTierFlush
  refine KN_next ?_
  refine keeps_runCmd ?_ ?_
  · intro _ _ _ h1
    beta_reduce
    extract_lets -merge -useContext -underBinder +onlyGivenNames v2
    try clear_value v2
    extract_lets -merge -useContext -underBinder +onlyGivenNames v3
    try clear_value v3
    refine keeps_ite (P := KP (Keeps r)) ?_ ?_
    · refine KP_mk ?_
      exact h1
    · split
      · refine KP_mk ?_
        exact h1
      · refine keeps_ite (P := KP (Keeps r)) ?_ ?_
        · split
          · rename_i q4
            have h5 : Keeps r _ := KP_of q4 (by
              refine keeps_peatStarting ?_
              · exact h1
              )
            refine KP_mk ?_
            exact h5
        · extract_lets -merge -useContext -underBinder +onlyGivenNames v6
          try clear_value v6
          refine keeps_ite (P := KP (Keeps r)) ?_ ?_
          · refine KP_mk ?_
            exact h1
          · refine keeps_ite (P := KP (Keeps r)) ?_ ?_
            · refine KP_mk ?_
              exact h1
            · split
              · refine KP_mk ?_
                exact h1
              · extract_lets -merge -useContext -underBinder +onlyGivenNames v7
                try clear_value v7
                extract_lets -merge -useContext -underBinder +onlyGivenNames v8
                have h9 : Keeps r v8 := by
                  subst v8
                  refine keeps_foldl (P := Keeps r) (fun _ _ h10 => ?_) ?_
                  · refine keeps_queueWb ?_
                    · exact h10
                  · exact h1
                try clear_value v8
                refine KP_mk ?_
                exact keeps_same h9 rfl
  · exact g2

theorem keeps_execTierConfig {a1 a2} (g2 : Keeps r a2) : KN (Keeps r) (Sys2Proof.Machine.execTierConfig a1 a2) := by
  unfold Sys2Proof.Machine.execTierConfig
  refine KN_next ?_
  refine keeps_runCmd ?_ ?_
  · intro _ _ _ h1
    beta_reduce
    extract_lets -merge -useContext -underBinder +onlyGivenNames v2
    try clear_value v2
    extract_lets -merge -useContext -underBinder +onlyGivenNames v3
    try clear_value v3
    refine keeps_ite (P := KP (Keeps r)) ?_ ?_
    · refine KP_mk ?_
      exact h1
    · split
      · rename_i q4
        have h5 : Keeps r _ := KP_of q4 (by
          refine keeps_judge ?_
          · exact h1
          )
        refine keeps_ite (P := KP (Keeps r)) ?_ ?_
        · refine KP_mk ?_
          exact h5
        · refine KP_mk ?_
          exact keeps_same h5 rfl
  · exact g2

theorem keeps_execTierStatus {a1 a2} (g2 : Keeps r a2) : KN (Keeps r) (Sys2Proof.Machine.execTierStatus a1 a2) := by
  unfold Sys2Proof.Machine.execTierStatus
  refine KN_next ?_
  refine keeps_runCmd ?_ ?_
  · intro _ _ _ h1
    beta_reduce
    refine keeps_ite (P := KP (Keeps r)) ?_ ?_
    · refine KP_mk ?_
      exact h1
    · extract_lets -merge -useContext -underBinder +onlyGivenNames v2
      try clear_value v2
      refine KP_mk ?_
      exact h1
  · exact g2

theorem keeps_execTierWear {a1 a2} (g2 : Keeps r a2) : KN (Keeps r) (Sys2Proof.Machine.execTierWear a1 a2) := by
  unfold Sys2Proof.Machine.execTierWear
  refine KN_next ?_
  refine keeps_runCmd ?_ ?_
  · intro _ _ _ h1
    beta_reduce
    refine keeps_ite (P := KP (Keeps r)) ?_ ?_
    · refine KP_mk ?_
      exact h1
    · extract_lets -merge -useContext -underBinder +onlyGivenNames v2
      try clear_value v2
      extract_lets -merge -useContext -underBinder +onlyGivenNames v3
      try clear_value v3
      extract_lets -merge -useContext -underBinder +onlyGivenNames v4
      try clear_value v4
      refine KP_mk ?_
      exact h1
  · exact g2

theorem keeps_execTierLossList {a1 a2} (g2 : Keeps r a2) : KN (Keeps r) (Sys2Proof.Machine.execTierLossList a1 a2) := by
  unfold Sys2Proof.Machine.execTierLossList
  refine KN_next ?_
  refine keeps_runCmd ?_ ?_
  · intro _ _ _ h1
    beta_reduce
    refine keeps_ite (P := KP (Keeps r)) ?_ ?_
    · refine KP_mk ?_
      exact h1
    · split
      · refine KP_mk ?_
        exact h1
      · extract_lets -merge -useContext -underBinder +onlyGivenNames v2
        try clear_value v2
        extract_lets -merge -useContext -underBinder +onlyGivenNames v3
        try clear_value v3
        refine keeps_ite (P := KP (Keeps r)) ?_ ?_
        · refine KP_mk ?_
          exact h1
        · refine KP_mk ?_
          exact h1
  · exact g2

theorem keeps_settleDestroys {a1} (g1 : Keeps r a1) : Keeps r (Sys2Proof.Machine.settleDestroys a1) := by
  unfold Sys2Proof.Machine.settleDestroys
  refine keeps_foldl (P := Keeps r) (fun _ _ h1 => ?_) ?_
  · split
    · split
      · exact h1
      · refine keeps_ite (P := Keeps r) ?_ ?_
        · exact h1
        · refine keeps_finish ?_
          · exact keeps_same h1 rfl
  · exact g1

theorem keeps_execEpochBoundary {a1} (g1 : Keeps r a1) : KN (Keeps r) (Sys2Proof.Machine.execEpochBoundary a1) := by
  unfold Sys2Proof.Machine.execEpochBoundary
  extract_lets -merge -useContext -underBinder +onlyGivenNames _ v1
  have h2 : Keeps r v1 := by
    subst v1
    exact keeps_same g1 rfl
  try clear_value v1
  extract_lets -merge -useContext -underBinder +onlyGivenNames v3
  try clear_value v3
  extract_lets -merge -useContext -underBinder +onlyGivenNames v4
  try clear_value v4
  refine KN_next ?_
  refine keeps_settleWork ?_
  · refine keeps_settleDestroys ?_
    · refine keeps_foldl (P := Keeps r) (fun _ _ h5 => ?_) ?_
      · refine keeps_reclaim ?_
        · exact h5
      · exact h2

theorem keeps_execTailIdleExpiry {a1 a2} (g2 : Keeps r a2) : KN (Keeps r) (Sys2Proof.Machine.execTailIdleExpiry a1 a2) := by
  unfold Sys2Proof.Machine.execTailIdleExpiry
  extract_lets -merge -useContext -underBinder +onlyGivenNames v1
  try clear_value v1
  refine KN_next ?_
  split
  · exact g2
  · refine keeps_ite (P := Keeps r) ?_ ?_
    · refine keeps_queueWb ?_
      · exact g2
    · exact g2

theorem keeps_execPeatProgramFail {a1 a2} (g2 : Keeps r a2) : KN (Keeps r) (Sys2Proof.Machine.execPeatProgramFail a1 a2) := by
  unfold Sys2Proof.Machine.execPeatProgramFail
  refine KN_next ?_
  refine keeps_settleWork ?_
  · refine keeps_programFail ?_
    · exact g2

theorem keeps_execPeatControllerTimeout {a1 a2} (g2 : Keeps r a2) : KN (Keeps r) (Sys2Proof.Machine.execPeatControllerTimeout a1 a2) := by
  unfold Sys2Proof.Machine.execPeatControllerTimeout
  refine KN_next ?_
  refine keeps_ite (P := Keeps r) ?_ ?_
  · refine keeps_fencePeatGroup ?_
    · exact g2
  · exact g2

theorem keeps_execJournalRecordDone {a1} (g1 : Keeps r a1) : KN (Keeps r) (Sys2Proof.Machine.execJournalRecordDone a1) := by
  unfold Sys2Proof.Machine.execJournalRecordDone
  refine KN_next ?_
  split
  · exact g1
  · refine keeps_ite (P := Keeps r) ?_ ?_
    · exact g1
    · extract_lets -merge -useContext -underBinder +onlyGivenNames _ v1
      have h2 : Keeps r v1 := by
        subst v1
        refine keeps_programRecord ?_
        · refine keeps_lightAct ?_
          · exact keeps_same g1 rfl
      try clear_value v1
      split
      · exact h2
      · refine keeps_ite (P := Keeps r) ?_ ?_
        · refine keeps_settleWork ?_
          · exact h2
        · refine keeps_settleWork ?_
          · refine keeps_finish ?_
            · exact h2

theorem keeps_expireRoom {a1} (g1 : Keeps r a1) : Keeps r (Sys2Proof.Machine.expireRoom a1) := by
  unfold Sys2Proof.Machine.expireRoom
  refine keeps_ite (P := Keeps r) ?_ ?_
  · exact g1
  · extract_lets -merge -useContext -underBinder +onlyGivenNames v1
    have h2 : Keeps r v1 := by
      subst v1
      refine keeps_foldl (P := Keeps r) (fun _ _ h3 => ?_) ?_
      · split
        · refine keeps_ite (P := Keeps r) ?_ ?_
          · refine keeps_failHeld ?_
            · exact h3
          · exact h3
        · exact h3
      · exact g1
    try clear_value v1
    refine keeps_foldl (P := Keeps r) (fun _ _ h4 => ?_) ?_
    · refine keeps_dropItems ?_
      · exact h4
    · exact h2

theorem keeps_resumeHeld {a1} (g1 : Keeps r a1) : Keeps r (Sys2Proof.Machine.resumeHeld a1) := by
  unfold Sys2Proof.Machine.resumeHeld
  refine keeps_foldl (P := Keeps r) (fun _ _ h1 => ?_) ?_
  · split
    · refine keeps_tryHeld ?_
      · exact h1
    · exact h1
  · exact g1

theorem keeps_resumeItems {a1} (g1 : Keeps r a1) : Keeps r (Sys2Proof.Machine.resumeItems a1) := by
  unfold Sys2Proof.Machine.resumeItems
  refine keeps_foldl (P := Keeps r) (fun _ _ h1 => ?_) ?_
  · split
    · refine keeps_ite (P := Keeps r) ?_ ?_
      · exact h1
      · split
        · exact h1
        · rename_i q2
          have h3 : KP (Keeps r) _ := KO_of q2 (by
            refine keeps_writeItem ?_
            · exact h1
            )
          exact keeps_same h1 rfl
  · exact g1

theorem keeps_execAllocationResume {a1} (g1 : Keeps r a1) : KN (Keeps r) (Sys2Proof.Machine.execAllocationResume a1) := by
  unfold Sys2Proof.Machine.execAllocationResume
  refine KN_next ?_
  refine keeps_settleWork ?_
  · refine keeps_expireRoom ?_
    · refine keeps_resumeItems ?_
      · refine keeps_resumeHeld ?_
        · exact g1

theorem keeps_execPeatMountDone {a1} (g1 : Keeps r a1) : KN (Keeps r) (Sys2Proof.Machine.execPeatMountDone a1) := by
  unfold Sys2Proof.Machine.execPeatMountDone
  refine KN_next ?_
  refine keeps_ite (P := Keeps r) ?_ ?_
  · exact g1
  · extract_lets -merge -useContext -underBinder +onlyGivenNames v1
    try clear_value v1
    extract_lets -merge -useContext -underBinder +onlyGivenNames _ v2
    have h3 : Keeps r v2 := by
      subst v2
      exact keeps_same g1 rfl
    try clear_value v2
    extract_lets -merge -useContext -underBinder +onlyGivenNames v4
    try clear_value v4
    extract_lets -merge -useContext -underBinder +onlyGivenNames _ v5
    have h6 : Keeps r v5 := by
      subst v5
      exact keeps_same h3 rfl
    try clear_value v5
    extract_lets -merge -useContext -underBinder +onlyGivenNames v7
    have h8 : Keeps r v7 := by
      subst v7
      refine keeps_addLosses ?_
      · exact h6
    try clear_value v7
    refine keeps_settleWork ?_
    · exact h8

theorem keeps_settleWaits {a1} (g1 : Keeps r a1) : Keeps r (Sys2Proof.Machine.settleWaits a1) := by
  unfold Sys2Proof.Machine.settleWaits
  refine keeps_foldl (P := Keeps r) (fun _ _ h1 => ?_) ?_
  · extract_lets -merge -useContext -underBinder +onlyGivenNames v2
    try clear_value v2
    refine keeps_ite (P := Keeps r) ?_ ?_
    · refine keeps_finish ?_
      · exact keeps_same h1 rfl
    · exact h1
  · exact g1

theorem keeps_addCounter {a1 a2 a3} (g3 : Keeps r a3) : Keeps r (Sys2Proof.Machine.addCounter a1 a2 a3) := by
  unfold Sys2Proof.Machine.addCounter
  refine keeps_ite (P := Keeps r) ?_ ?_
  · exact g3
  · refine keeps_settleWaits ?_
    · exact keeps_same g3 rfl

theorem keeps_settleXfer {a1 a2} (g2 : Keeps r a2) : Keeps r (Sys2Proof.Machine.settleXfer a1 a2) := by
  unfold Sys2Proof.Machine.settleXfer
  split
  · refine keeps_ite (P := Keeps r) ?_ ?_
    · refine keeps_complete ?_
      · exact keeps_same g2 rfl
    · exact g2
  · exact g2

theorem keeps_flagsNote {a1 a2 a3} (g3 : Keeps r a3) : Keeps r (Sys2Proof.Machine.flagsNote a1 a2 a3) := by
  unfold Sys2Proof.Machine.flagsNote
  exact keeps_same g3 rfl

theorem keeps_mcastNote {a1 a2 a3 a4} (g4 : Keeps r a4) : Keeps r (Sys2Proof.Machine.mcastNote a1 a2 a3 a4) := by
  unfold Sys2Proof.Machine.mcastNote
  exact keeps_same g4 rfl

theorem keeps_modRecord {a1 a2 a3} (g3 : Keeps r a3) : Keeps r (Sys2Proof.Machine.modRecord a1 a2 a3) := by
  unfold Sys2Proof.Machine.modRecord
  exact keeps_same g3 rfl

theorem keeps_spoilPiece {a1 a2 a3 a4} (g4 : Keeps r a4) : Keeps r (Sys2Proof.Machine.spoilPiece a1 a2 a3 a4) := by
  unfold Sys2Proof.Machine.spoilPiece
  refine keeps_modRecord ?_
  · exact g4

theorem keeps_fillPiece {a1 a2 a3 a4} (g4 : Keeps r a4) : Keeps r (Sys2Proof.Machine.fillPiece a1 a2 a3 a4) := by
  unfold Sys2Proof.Machine.fillPiece
  refine keeps_modRecord ?_
  · exact g4

theorem keeps_endOp {a1 a2 a3} (g3 : Keeps r a3) : Keeps r (Sys2Proof.Machine.endOp a1 a2 a3) := by
  unfold Sys2Proof.Machine.endOp
  split
  · exact g3
  · extract_lets -merge -useContext -underBinder +onlyGivenNames v1
    try clear_value v1
    extract_lets -merge -useContext -underBinder +onlyGivenNames _ v2
    have h3 : Keeps r v2 := by
      subst v2
      exact keeps_same g3 rfl
    try clear_value v2
    extract_lets -merge -useContext -underBinder +onlyGivenNames v4
    have h5 : Keeps r v4 := by
      subst v4
      refine keeps_ite (P := Keeps r) ?_ ?_
      · refine keeps_flagsNote ?_
        · exact h3
      · exact h3
    try clear_value v4
    split
    · exact h5
    · refine keeps_ite (P := Keeps r) ?_ ?_
      · exact h5
      · refine keeps_ite (P := Keeps r) ?_ ?_
        · refine keeps_cancelMove ?_
          · exact h5
        · refine keeps_spoilPiece ?_
          · exact h5
    · exact keeps_same h5 rfl
    · exact h5
    · extract_lets -merge -useContext -underBinder +onlyGivenNames _ v6
      have h7 : Keeps r v6 := by
        subst v6
        exact keeps_same h5 rfl
      try clear_value v6
      extract_lets -merge -useContext -underBinder +onlyGivenNames v8
      have h9 : Keeps r v8 := by
        subst v8
        refine keeps_ite (P := Keeps r) ?_ ?_
        · exact h7
        · refine keeps_addCounter ?_
          · exact h7
      try clear_value v8
      refine keeps_settleXfer ?_
      · exact h9

theorem keeps_endComp {a1 a2 a3 a4 a5} (g5 : Keeps r a5) : Keeps r (Sys2Proof.Machine.endComp a1 a2 a3 a4 a5) := by
  unfold Sys2Proof.Machine.endComp
  extract_lets -merge -useContext -underBinder +onlyGivenNames v1
  try clear_value v1
  extract_lets -merge -useContext -underBinder +onlyGivenNames v2
  try clear_value v2
  extract_lets -merge -useContext -underBinder +onlyGivenNames v3
  try clear_value v3
  exact keeps_same g5 (by simp only [keptParts])

theorem keeps_toPeat {a1 a2 a3} (g3 : Keeps r a3) : Keeps r (Sys2Proof.Machine.toPeat a1 a2 a3) := by
  unfold Sys2Proof.Machine.toPeat
  extract_lets -merge -useContext -underBinder +onlyGivenNames v1
  have h2 : Keeps r v1 := by
    subst v1
    refine keeps_modBody ?_
    · exact g3
  try clear_value v1
  exact keeps_same h2 rfl

theorem keeps_cleanToPeat {a1 a2} (g2 : Keeps r a2) : KP (Keeps r) (Sys2Proof.Machine.cleanToPeat a1 a2) := by
  unfold Sys2Proof.Machine.cleanToPeat
  extract_lets -merge -useContext -underBinder +onlyGivenNames v1
  try clear_value v1
  refine KP_mk ?_
  refine keeps_foldl (P := Keeps r) (fun _ _ h2 => ?_) ?_
  · refine keeps_toPeat ?_
    · exact h2
  · exact g2

theorem keeps_loseComp {a1 a2} (g2 : Keeps r a2) : Keeps r (Sys2Proof.Machine.loseComp a1 a2) := by
  unfold Sys2Proof.Machine.loseComp
  split
  · exact g2
  · extract_lets -merge -useContext -underBinder +onlyGivenNames v1
    try clear_value v1
    extract_lets -merge -useContext -underBinder +onlyGivenNames v2
    try clear_value v2
    split
    · rename_i q3
      have h4 : Keeps r _ := KP_of q3 (by
        refine keeps_cleanToPeat ?_
        · exact g2
        )
      extract_lets -merge -useContext -underBinder +onlyGivenNames v5
      have h6 : Keeps r v5 := by
        subst v5
        refine keeps_loseBodies ?_
        · exact h4
      try clear_value v5
      extract_lets -merge -useContext -underBinder +onlyGivenNames _ v7
      have h8 : Keeps r v7 := by
        subst v7
        exact keeps_same h6 rfl
      try clear_value v7
      extract_lets -merge -useContext -underBinder +onlyGivenNames v9
      have h10 : Keeps r v9 := by
        subst v9
        refine keeps_endComp ?_
        · exact h8
      try clear_value v9
      extract_lets -merge -useContext -underBinder +onlyGivenNames v11
      have h12 : Keeps r v11 := by
        subst v11
        refine keeps_raise ?_
        · exact h10
      try clear_value v11
      split
      · exact h12
      · refine keeps_finish ?_
        · exact h12

theorem keeps_lenderGone {a1 a2} (g2 : Keeps r a2) : Keeps r (Sys2Proof.Machine.lenderGone a1 a2) := by
  unfold Sys2Proof.Machine.lenderGone
  extract_lets -merge -useContext -underBinder +onlyGivenNames v1
  have h2 : Keeps r v1 := by
    subst v1
    refine keeps_foldl (P := Keeps r) (fun _ _ h3 => ?_) ?_
    · refine keeps_loseComp ?_
      · exact h3
    · exact g2
  try clear_value v1
  extract_lets -merge -useContext -underBinder +onlyGivenNames v4
  try clear_value v4
  refine keeps_foldl (P := Keeps r) (fun _ _ h5 => ?_) ?_
  · refine keeps_finish ?_
    · exact keeps_same h5 rfl
  · exact h2

theorem keeps_setAllots {a1 a2 a3} (g3 : Keeps r a3) : Keeps r (Sys2Proof.Machine.setAllots a1 a2 a3) := by
  unfold Sys2Proof.Machine.setAllots
  exact keeps_same g3 rfl

theorem keeps_zeroLent {a1 a2 a3} (g3 : Keeps r a3) : Keeps r (Sys2Proof.Machine.zeroLent a1 a2 a3) := by
  unfold Sys2Proof.Machine.zeroLent
  split
  · exact g3
  · extract_lets -merge -useContext -underBinder +onlyGivenNames v1
    have h2 : Keeps r v1 := by
      subst v1
      refine keeps_setAllots ?_
      · exact g3
    try clear_value v1
    extract_lets -merge -useContext -underBinder +onlyGivenNames _ _ v3
    have h4 : Keeps r v3 := by
      subst v3
      exact keeps_same h2 rfl
    try clear_value v3
    refine keeps_endComp ?_
    · exact h4

theorem keeps_borrowerGone {a1 a2} (g2 : Keeps r a2) : Keeps r (Sys2Proof.Machine.borrowerGone a1 a2) := by
  unfold Sys2Proof.Machine.borrowerGone
  refine keeps_foldl (P := Keeps r) (fun _ _ h1 => ?_) ?_
  · extract_lets -merge -useContext -underBinder +onlyGivenNames v2
    have h3 : Keeps r v2 := by
      subst v2
      refine keeps_setAllots ?_
      · exact h1
    try clear_value v2
    refine keeps_endComp ?_
    · exact keeps_same h3 rfl
  · exact g2

theorem keeps_borrowerRestarted {a1 a2} (g2 : Keeps r a2) : Keeps r (Sys2Proof.Machine.borrowerRestarted a1 a2) := by
  unfold Sys2Proof.Machine.borrowerRestarted
  refine keeps_foldl (P := Keeps r) (fun _ _ h1 => ?_) ?_
  · refine keeps_zeroLent ?_
    · exact h1
  · exact g2

theorem keeps_failDrain {a1 a2} (g2 : Keeps r a2) : Keeps r (Sys2Proof.Machine.failDrain a1 a2) := by
  unfold Sys2Proof.Machine.failDrain
  extract_lets -merge -useContext -underBinder +onlyGivenNames v1
  try clear_value v1
  split
  · extract_lets -merge -useContext -underBinder +onlyGivenNames _ v2
    have h3 : Keeps r v2 := by
      subst v2
      refine keeps_raise ?_
      · exact keeps_same g2 rfl
    try clear_value v2
    split
    · exact h3
    · refine keeps_finish ?_
      · exact h3
  · extract_lets -merge -useContext -underBinder +onlyGivenNames _ v4
    have h5 : Keeps r v4 := by
      subst v4
      refine keeps_raise ?_
      · exact keeps_same g2 rfl
    try clear_value v4
    split
    · exact h5
    · refine keeps_finish ?_
      · exact h5
  · extract_lets -merge -useContext -underBinder +onlyGivenNames _ v6
    have h7 : Keeps r v6 := by
      subst v6
      refine keeps_raise ?_
      · exact keeps_same g2 rfl
    try clear_value v6
    split
    · exact h7
    · refine keeps_finish ?_
      · exact h7
  · extract_lets -merge -useContext -underBinder +onlyGivenNames _ v8
    have h9 : Keeps r v8 := by
      subst v8
      refine keeps_raise ?_
      · exact keeps_same g2 rfl
    try clear_value v8
    split
    · exact h9
    · refine keeps_finish ?_
      · exact h9
  · exact g2

theorem keeps_sendCoh {a1 a2 a3 a4 a5 a6 a7} (g7 : Keeps r a7) : Keeps r (Sys2Proof.Machine.sendCoh a1 a2 a3 a4 a5 a6 a7) := by
  unfold Sys2Proof.Machine.sendCoh
  extract_lets -merge -useContext -underBinder +onlyGivenNames v1
  try clear_value v1
  refine keeps_sendData ?_
  · exact g7

theorem keeps_setDir {a1 a2 a3 a4} (g4 : Keeps r a4) : Keeps r (Sys2Proof.Machine.setDir a1 a2 a3 a4) := by
  unfold Sys2Proof.Machine.setDir
  exact keeps_same g4 rfl

theorem keeps_sendLine {a1 a2 a3 a4 a5} (g5 : Keeps r a5) : Keeps r (Sys2Proof.Machine.sendLine a1 a2 a3 a4 a5) := by
  unfold Sys2Proof.Machine.sendLine
  split
  · exact g5
  · extract_lets -merge -useContext -underBinder +onlyGivenNames v1
    try clear_value v1
    extract_lets -merge -useContext -underBinder +onlyGivenNames v2
    try clear_value v2
    extract_lets -merge -useContext -underBinder +onlyGivenNames v3
    try clear_value v3
    refine keeps_sendCoh ?_
    · refine keeps_setDir ?_
      · exact g5

theorem keeps_askHolders {a1 a2 a3 a4 a5} (g5 : Keeps r a5) : Keeps r (Sys2Proof.Machine.askHolders a1 a2 a3 a4 a5) := by
  unfold Sys2Proof.Machine.askHolders
  split
  · exact g5
  · extract_lets -merge -useContext -underBinder +onlyGivenNames v1
    try clear_value v1
    refine keeps_foldl (P := Keeps r) (fun _ _ h2 => ?_) ?_
    · refine keeps_sendCoh ?_
      · exact h2
    · exact g5

theorem keeps_waitLine {a1 a2 a3 a4 a5 a6} (g6 : Keeps r a6) : Keeps r (Sys2Proof.Machine.waitLine a1 a2 a3 a4 a5 a6) := by
  unfold Sys2Proof.Machine.waitLine
  extract_lets -merge -useContext -underBinder +onlyGivenNames v1
  try clear_value v1
  refine keeps_ite (P := Keeps r) ?_ ?_
  · exact keeps_same g6 rfl
  · refine keeps_askHolders ?_
    · exact keeps_same g6 rfl

theorem keeps_resumeLine {a1 a2 a3 a4 a5} (g5 : Keeps r a5) : Keeps r (Sys2Proof.Machine.resumeLine a1 a2 a3 a4 a5) := by
  unfold Sys2Proof.Machine.resumeLine
  split
  · refine keeps_ite (P := Keeps r) ?_ ?_
    · exact g5
    · refine keeps_sendLine ?_
      · exact g5
  · refine keeps_emberWriteP ?_
    · exact g5
  · exact keeps_same g5 rfl

theorem keeps_resumeLater {a1 a2 a3 a4 a5} (g4 : Keeps r a4) : Keeps r (Sys2Proof.Machine.resumeLater a1 a2 a3 a4 a5) := by
  unfold Sys2Proof.Machine.resumeLater
  split
  · exact g4
  · extract_lets -merge -useContext -underBinder +onlyGivenNames v1
    try clear_value v1
    refine keeps_ite (P := Keeps r) ?_ ?_
    · refine keeps_resumeLine ?_
      · exact g4
    · refine keeps_waitLine ?_
      · exact g4

theorem keeps_resumeWaits {a1 a2} (g2 : Keeps r a2) : Keeps r (Sys2Proof.Machine.resumeWaits a1 a2) := by
  unfold Sys2Proof.Machine.resumeWaits
  extract_lets -merge -useContext -underBinder +onlyGivenNames v1
  try clear_value v1
  extract_lets -merge -useContext -underBinder +onlyGivenNames _ v2
  have h3 : Keeps r v2 := by
    subst v2
    exact keeps_same g2 rfl
  try clear_value v2
  refine keeps_foldl (P := Keeps r) (fun _ _ h4 => ?_) ?_
  · refine keeps_foldl (P := Keeps r) (fun _ _ h5 => ?_) ?_
    · refine keeps_resumeLater ?_
      · exact h5
    · refine keeps_resumeLine ?_
      · exact h4
  · exact h3

theorem keeps_memberGone {a1 a2} (g2 : Keeps r a2) : Keeps r (Sys2Proof.Machine.memberGone a1 a2) := by
  unfold Sys2Proof.Machine.memberGone
  refine keeps_ite (P := Keeps r) ?_ ?_
  · exact g2
  · extract_lets -merge -useContext -underBinder +onlyGivenNames v1
    try clear_value v1
    extract_lets -merge -useContext -underBinder +onlyGivenNames v2
    try clear_value v2
    extract_lets -merge -useContext -underBinder +onlyGivenNames v3
    have h4 : Keeps r v3 := by
      subst v3
      refine keeps_foldl (P := Keeps r) (fun _ _ h5 => ?_) ?_
      · split
        · refine keeps_ite (P := Keeps r) ?_ ?_
          · exact h5
          · extract_lets -merge -useContext -underBinder +onlyGivenNames v6
            try clear_value v6
            extract_lets -merge -useContext -underBinder +onlyGivenNames v7
            try clear_value v7
            extract_lets -merge -useContext -underBinder +onlyGivenNames v8
            have h9 : Keeps r v8 := by
              subst v8
              refine keeps_foldl (P := Keeps r) (fun _ _ h10 => ?_) ?_
              · refine keeps_setPoison ?_
                · exact h10
              · exact h5
            try clear_value v8
            extract_lets -merge -useContext -underBinder +onlyGivenNames _ v11
            have h12 : Keeps r v11 := by
              subst v11
              exact keeps_same h9 rfl
            try clear_value v11
            refine keeps_ite (P := Keeps r) ?_ ?_
            · exact h12
            · refine keeps_raise ?_
              · exact h12
      · exact g2
    try clear_value v3
    extract_lets -merge -useContext -underBinder +onlyGivenNames v13
    try clear_value v13
    extract_lets -merge -useContext -underBinder +onlyGivenNames v14
    try clear_value v14
    extract_lets -merge -useContext -underBinder +onlyGivenNames _ v15
    have h16 : Keeps r v15 := by
      subst v15
      exact keeps_same h4 rfl
    try clear_value v15
    extract_lets -merge -useContext -underBinder +onlyGivenNames v17
    have h18 : Keeps r v17 := by
      subst v17
      refine keeps_foldl (P := Keeps r) (fun _ _ h19 => ?_) ?_
      · refine keeps_raise ?_
        · exact h19
      · exact h16
    try clear_value v17
    refine keeps_raise ?_
    · refine keeps_resumeWaits ?_
      · exact h18

theorem keeps_endOps {a1 a2} (g2 : Keeps r a2) : KP (Keeps r) (Sys2Proof.Machine.endOps a1 a2) := by
  unfold Sys2Proof.Machine.endOps
  extract_lets -merge -useContext -underBinder +onlyGivenNames v1
  try clear_value v1
  refine KP_mk ?_
  refine keeps_foldl (P := Keeps r) (fun _ _ h2 => ?_) ?_
  · refine keeps_endOp ?_
    · exact h2
  · exact g2

theorem keeps_endSlot {a1 a2 a3} (g3 : Keeps r a3) : Keeps r (Sys2Proof.Machine.endSlot a1 a2 a3) := by
  unfold Sys2Proof.Machine.endSlot
  split
  · exact g3
  · split
    · rename_i q1
      have h2 : Keeps r _ := KP_of q1 (by
        refine keeps_endOps ?_
        · exact g3
        )
      extract_lets -merge -useContext -underBinder +onlyGivenNames v3
      try clear_value v3
      extract_lets -merge -useContext -underBinder +onlyGivenNames v4
      try clear_value v4
      extract_lets -merge -useContext -underBinder +onlyGivenNames _ v5
      try clear_value v5
      extract_lets -merge -useContext -underBinder +onlyGivenNames _ v6
      have h7 : Keeps r v6 := by
        subst v6
        refine keeps_setSlot ?_
        · exact keeps_same h2 rfl
      try clear_value v6
      split
      · refine keeps_raise ?_
        · exact h7
      · refine keeps_raise ?_
        · exact h7
      · refine keeps_raise ?_
        · exact h7

theorem keeps_nodeGone {a1 a2} (g2 : Keeps r a2) : Keeps r (Sys2Proof.Machine.nodeGone a1 a2) := by
  unfold Sys2Proof.Machine.nodeGone
  extract_lets -merge -useContext -underBinder +onlyGivenNames v1
  have h2 : Keeps r v1 := by
    subst v1
    refine keeps_memberGone ?_
    · refine keeps_borrowerGone ?_
      · refine keeps_lenderGone ?_
        · exact g2
  try clear_value v1
  refine keeps_ite (P := Keeps r) ?_ ?_
  · refine keeps_failDrain ?_
    · exact h2
  · exact h2

theorem keeps_peerUnreachable {a1 a2} (g2 : Keeps r a2) : Keeps r (Sys2Proof.Machine.peerUnreachable a1 a2) := by
  unfold Sys2Proof.Machine.peerUnreachable
  extract_lets -merge -useContext -underBinder +onlyGivenNames v1
  have h2 : Keeps r v1 := by
    subst v1
    refine keeps_endSlot ?_
    · exact g2
  try clear_value v1
  refine keeps_settleWork ?_
  · refine keeps_ite (P := Keeps r) ?_ ?_
    · refine keeps_nodeGone ?_
      · exact h2
    · refine keeps_ite (P := Keeps r) ?_ ?_
      · refine keeps_memberGone ?_
        · exact h2
      · exact h2

theorem keeps_endNode {a1 a2 a3} (g3 : Keeps r a3) : Keeps r (Sys2Proof.Machine.endNode a1 a2 a3) := by
  unfold Sys2Proof.Machine.endNode
  extract_lets -merge -useContext -underBinder +onlyGivenNames v1
  try clear_value v1
  extract_lets -merge -useContext -underBinder +onlyGivenNames v2
  try clear_value v2
  extract_lets -merge -useContext -underBinder +onlyGivenNames v3
  try clear_value v3
  extract_lets -merge -useContext -underBinder +onlyGivenNames _ v4
  have h5 : Keeps r v4 := by
    subst v4
    exact keeps_same g3 rfl
  try clear_value v4
  extract_lets -merge -useContext -underBinder +onlyGivenNames v6
  have h7 : Keeps r v6 := by
    subst v6
    refine keeps_foldl (P := Keeps r) (fun _ _ h8 => ?_) ?_
    · refine keeps_endSlot ?_
      · exact h8
    · exact h5
  try clear_value v6
  extract_lets -merge -useContext -underBinder +onlyGivenNames v9
  have h10 : Keeps r v9 := by
    subst v9
    refine keeps_nodeGone ?_
    · exact h7
  try clear_value v9
  refine keeps_settleWork ?_
  · split
    · refine keeps_borrowerRestarted ?_
      · exact h10
    · exact h10

theorem keeps_ackedFrame {a1 a2} (g2 : Keeps r a2) : Keeps r (Sys2Proof.Machine.ackedFrame a1 a2) := by
  unfold Sys2Proof.Machine.ackedFrame
  split
  · refine keeps_endOp ?_
    · exact g2
  · refine keeps_endOp ?_
    · exact g2
  · refine keeps_endOp ?_
    · exact g2
  · refine keeps_flagsNote ?_
    · exact g2
  · exact g2

theorem keeps_takeAck {a1 a2 a3} (g3 : Keeps r a3) : Keeps r (Sys2Proof.Machine.takeAck a1 a2 a3) := by
  unfold Sys2Proof.Machine.takeAck
  split
  · exact g3
  · refine keeps_ite (P := Keeps r) ?_ ?_
    · exact g3
    · extract_lets -merge -useContext -underBinder +onlyGivenNames v1
      try clear_value v1
      refine keeps_ite (P := Keeps r) ?_ ?_
      · exact g3
      · extract_lets -merge -useContext -underBinder +onlyGivenNames v2
        try clear_value v2
        extract_lets -merge -useContext -underBinder +onlyGivenNames v3
        try clear_value v3
        extract_lets -merge -useContext -underBinder +onlyGivenNames v4
        try clear_value v4
        refine keeps_pump ?_
        · refine keeps_foldl (P := Keeps r) (fun _ _ h5 => ?_) ?_
          · refine keeps_ackedFrame ?_
            · exact h5
          · refine keeps_setSlot ?_
            · exact g3

theorem keeps_takeArrived {a1 a2} (g2 : Keeps r a2) : KP (KP (Keeps r)) (Sys2Proof.Machine.takeArrived a1 a2) := by
  unfold Sys2Proof.Machine.takeArrived
  split
  · refine KP_mk ?_
    refine KP_mk ?_
    exact g2
  · refine KP_mk ?_
    refine KP_mk ?_
    exact keeps_same g2 rfl

theorem keeps_dropFrame {a1 a2 a3 a4 a5} (g5 : Keeps r a5) : Keeps r (Sys2Proof.Machine.dropFrame a1 a2 a3 a4 a5) := by
  unfold Sys2Proof.Machine.dropFrame
  extract_lets -merge -useContext -underBinder +onlyGivenNames _ v1
  have h2 : Keeps r v1 := by
    subst v1
    exact keeps_same g5 rfl
  try clear_value v1
  refine keeps_ite (P := Keeps r) ?_ ?_
  · refine keeps_raiseLimited ?_
    · exact h2
  · exact h2

theorem keeps_screen {a1 a2 a3 a4} (g4 : Keeps r a4) : KP (Keeps r) (Sys2Proof.Machine.screen a1 a2 a3 a4) := by
  unfold Sys2Proof.Machine.screen
  split
  · rename_i q1
    have h2 : Keeps r _ := KP_of q1 (by
      refine keeps_sparkCheck ?_
      · exact g4
      )
    refine keeps_ite (P := KP (Keeps r)) ?_ ?_
    · refine KP_mk ?_
      refine keeps_dropFrame ?_
      · exact h2
    · refine keeps_ite (P := KP (Keeps r)) ?_ ?_
      · refine KP_mk ?_
        refine keeps_dropFrame ?_
        · exact h2
      · refine keeps_ite (P := KP (Keeps r)) ?_ ?_
        · refine KP_mk ?_
          refine keeps_ite (P := Keeps r) ?_ ?_
          · refine keeps_sendFrom ?_
            · exact h2
          · exact h2
        · refine keeps_ite (P := KP (Keeps r)) ?_ ?_
          · refine KP_mk ?_
            exact h2
          · refine keeps_ite (P := KP (Keeps r)) ?_ ?_
            · refine KP_mk ?_
              refine keeps_endNode ?_
              · exact h2
            · refine KP_mk ?_
              exact h2

theorem keeps_standing {a1 a2 a3} (g3 : Keeps r a3) : KP (Keeps r) (Sys2Proof.Machine.standing a1 a2 a3) := by
  unfold Sys2Proof.Machine.standing
  extract_lets -merge -useContext -underBinder +onlyGivenNames v1
  try clear_value v1
  refine keeps_ite (P := KP (Keeps r)) ?_ ?_
  · refine KP_mk ?_
    exact g3
  · split
    · refine KP_mk ?_
      exact g3
    · rename_i q2
      have h3 : Keeps r _ := KO_of q2 (by
        refine keeps_openSlot ?_
        · exact g3
        )
      split
      · refine KP_mk ?_
        exact h3
      · extract_lets -merge -useContext -underBinder +onlyGivenNames v4
        try clear_value v4
        extract_lets -merge -useContext -underBinder +onlyGivenNames v5
        have h6 : ∀ a7, Keeps r a7 → KP (Keeps r) (v5 a7) := by
          subst v5
          intro _ h8
          beta_reduce
          refine KP_mk ?_
          refine keeps_setSlot ?_
          · exact h8
        try clear_value v5
        split
        · refine keeps_ite (P := KP (Keeps r)) ?_ ?_
          · refine h6 _ ?_
            · exact h3
          · refine KP_mk ?_
            exact h3
        · refine keeps_ite (P := KP (Keeps r)) ?_ ?_
          · refine keeps_ite (P := KP (Keeps r)) ?_ ?_
            · refine KP_mk ?_
              exact h3
            · refine keeps_ite (P := KP (Keeps r)) ?_ ?_
              · refine h6 _ ?_
                · exact h3
              · refine KP_mk ?_
                exact h3
          · extract_lets -merge -useContext -underBinder +onlyGivenNames v9
            have h10 : Keeps r v9 := by
              subst v9
              refine keeps_setSlot ?_
              · exact h3
            try clear_value v9
            refine keeps_ite (P := KP (Keeps r)) ?_ ?_
            · refine KP_mk ?_
              exact h10
            · refine keeps_ite (P := KP (Keeps r)) ?_ ?_
              · refine KP_mk ?_
                exact h10
              · refine KP_mk ?_
                exact h10

theorem keeps_respond {a1 a2 a3 a4 a5} (g5 : Keeps r a5) : Keeps r (Sys2Proof.Machine.respond a1 a2 a3 a4 a5) := by
  unfold Sys2Proof.Machine.respond
  extract_lets -merge -useContext -underBinder +onlyGivenNames v1
  try clear_value v1
  extract_lets -merge -useContext -underBinder +onlyGivenNames v2
  try clear_value v2
  refine keeps_ite (P := Keeps r) ?_ ?_
  · split
    · rename_i q3
      have h4 : KP (Keeps r) _ := KO_of q3 (by
        refine keeps_sealPayload ?_
        · exact g5
        )
      have h4 : Keeps r _ := h4
      refine keeps_sendData ?_
      · exact h4
    · exact g5
  · refine keeps_sendData ?_
    · exact g5

theorem keeps_fault {a1 a2 a3 a4 a5} (g5 : Keeps r a5) : Keeps r (Sys2Proof.Machine.fault a1 a2 a3 a4 a5) := by
  unfold Sys2Proof.Machine.fault
  refine keeps_respond ?_
  · exact g5

theorem keeps_actOn {a1 a2 a3 a4} (g3 : ∀ b1 b2 b3, Keeps r b3 → KP (Keeps r) (a3 b1 b2 b3)) (g4 : Keeps r a4) : Keeps r (Sys2Proof.Machine.actOn a1 a2 a3 a4) := by
  unfold Sys2Proof.Machine.actOn
  split
  · rename_i q1
    have h2 : Keeps r _ := KP_of q1 (by
      refine keeps_ite (P := KP (Keeps r)) ?_ ?_
      · refine g3 _ _ _ ?_
        · exact g4
      · refine KP_mk ?_
        refine keeps_fault ?_
        · exact g4
      )
    refine keeps_takeAck ?_
    · refine keeps_tenantAdd ?_
      · refine keeps_noteAccepted ?_
        · exact h2
  · rename_i q3
    have h4 : Keeps r _ := KP_of q3 (by
      refine keeps_ite (P := KP (Keeps r)) ?_ ?_
      · refine g3 _ _ _ ?_
        · exact g4
      · refine KP_mk ?_
        refine keeps_fault ?_
        · exact g4
      )
    refine keeps_sendNack ?_
    · exact h4
  · rename_i q5
    have h6 : Keeps r _ := KP_of q5 (by
      refine keeps_ite (P := KP (Keeps r)) ?_ ?_
      · refine g3 _ _ _ ?_
        · exact g4
      · refine KP_mk ?_
        refine keeps_fault ?_
        · exact g4
      )
    exact h6

theorem keeps_receive {a1 a2 a3 a4} (g3 : ∀ b1 b2 b3, Keeps r b3 → KP (Keeps r) (a3 b1 b2 b3)) (g4 : Keeps r a4) : Keeps r (Sys2Proof.Machine.receive a1 a2 a3 a4) := by
  unfold Sys2Proof.Machine.receive
  refine keeps_ite (P := Keeps r) ?_ ?_
  · exact g4
  · split
    · rename_i q1
      have h2 : KP (Keeps r) _ := KP_of q1 (by
        refine keeps_takeArrived ?_
        · exact g4
        )
      have h2 : Keeps r _ := h2
      split
      · rename_i q3
        have h4 : Keeps r _ := KP_of q3 (by
          refine keeps_screen ?_
          · exact h2
          )
        exact h4
      · rename_i q5
        have h6 : Keeps r _ := KP_of q5 (by
          refine keeps_screen ?_
          · exact h2
          )
        extract_lets -merge -useContext -underBinder +onlyGivenNames v7
        try clear_value v7
        split
        · rename_i q8
          have h9 : Keeps r _ := KP_of q8 (by
            refine keeps_standing ?_
            · exact h6
            )
          refine keeps_actOn ?_ ?_
          · intro _ _ _ h10
            refine g3 _ _ _ ?_
            · exact h10
          · exact h9
        · rename_i q11
          have h12 : Keeps r _ := KP_of q11 (by
            refine keeps_standing ?_
            · exact h6
            )
          refine keeps_sendAck ?_
          · refine keeps_takeAck ?_
            · exact h12
        · rename_i q13
          have h14 : Keeps r _ := KP_of q13 (by
            refine keeps_standing ?_
            · exact h6
            )
          split
          · exact h14
          · extract_lets -merge -useContext -underBinder +onlyGivenNames v15
            try clear_value v15
            refine keeps_ite (P := Keeps r) ?_ ?_
            · refine keeps_sendNack ?_
              · refine keeps_setSlot ?_
                · exact h14
            · exact h14
        · rename_i q16
          have h17 : Keeps r _ := KP_of q16 (by
            refine keeps_standing ?_
            · exact h6
            )
          exact h17
        · rename_i q18
          have h19 : Keeps r _ := KP_of q18 (by
            refine keeps_standing ?_
            · exact h6
            )
          refine keeps_sendNack ?_
          · exact h19
        · rename_i q20
          have h21 : Keeps r _ := KP_of q20 (by
            refine keeps_standing ?_
            · exact h6
            )
          refine keeps_sendNack ?_
          · refine keeps_slotsExhausted ?_
            · exact h21

theorem keeps_protOk {a1 a2 a3} (g3 : Keeps r a3) : KP (Keeps r) (Sys2Proof.Machine.protOk a1 a2 a3) := by
  unfold Sys2Proof.Machine.protOk
  split
  · rename_i q1
    have h2 : Keeps r _ := KP_of q1 (by
      refine keeps_sparkCheck ?_
      · exact g3
      )
    extract_lets -merge -useContext -underBinder +onlyGivenNames v3
    try clear_value v3
    refine KP_mk ?_
    exact h2

theorem keeps_denied {a1 a2 a3} (g3 : Keeps r a3) : Keeps r (Sys2Proof.Machine.denied a1 a2 a3) := by
  unfold Sys2Proof.Machine.denied
  split
  · exact g3
  · refine keeps_raiseLimited ?_
    · exact g3

theorem keeps_protCheck {a1 a2 a3 a4} (g4 : Keeps r a4) : KP (Keeps r) (Sys2Proof.Machine.protCheck a1 a2 a3 a4) := by
  unfold Sys2Proof.Machine.protCheck
  refine keeps_ite (P := KP (Keeps r)) ?_ ?_
  · split
    · rename_i q1
      have h2 : Keeps r _ := KP_of q1 (by
        refine keeps_protOk ?_
        · exact g4
        )
      refine KP_mk ?_
      exact h2
  · refine KP_mk ?_
    exact g4

theorem keeps_refuse {a1 a2 a3 a4} (g4 : Keeps r a4) : KP (Keeps r) (Sys2Proof.Machine.refuse a1 a2 a3 a4) := by
  unfold Sys2Proof.Machine.refuse
  refine KP_mk ?_
  refine keeps_fault ?_
  · refine keeps_denied ?_
    · exact g4

theorem keeps_cohGate {a1 a2 a3 a4 a5 a6 a7} (g6 : ∀ b1, Keeps r b1 → KP (Keeps r) (a6 b1)) (g7 : Keeps r a7) : KP (Keeps r) (Sys2Proof.Machine.cohGate a1 a2 a3 a4 a5 a6 a7) := by
  unfold Sys2Proof.Machine.cohGate
  refine keeps_ite (P := KP (Keeps r)) ?_ ?_
  · refine g6 _ ?_
    · exact g7
  · refine keeps_ite (P := KP (Keeps r)) ?_ ?_
    · refine KP_mk ?_
      exact g7
    · split
      · refine g6 _ ?_
        · exact g7
      · refine KP_mk ?_
        refine keeps_waitLine ?_
        · exact g7

theorem keeps_readCore {a1 a2} (g2 : Keeps r a2) : Keeps r (Sys2Proof.Machine.readCore a1 a2) := by
  unfold Sys2Proof.Machine.readCore
  extract_lets -merge -useContext -underBinder +onlyGivenNames v1
  try clear_value v1
  extract_lets -merge -useContext -underBinder +onlyGivenNames v2
  try clear_value v2
  refine keeps_ite (P := Keeps r) ?_ ?_
  · exact g2
  · split
    · rename_i q3
      have h4 : Keeps r _ := KP_of q3 (by
        refine keeps_ite (P := KP (Keeps r)) ?_ ?_
        · refine KP_mk ?_
          exact g2
        · refine keeps_sparkCheck ?_
          · exact g2
        )
      extract_lets -merge -useContext -underBinder +onlyGivenNames v5
      try clear_value v5
      extract_lets -merge -useContext -underBinder +onlyGivenNames v6
      try clear_value v6
      extract_lets -merge -useContext -underBinder +onlyGivenNames v7
      try clear_value v7
      extract_lets -merge -useContext -underBinder +onlyGivenNames v8
      try clear_value v8
      refine keeps_setCore ?_
      · exact h4

theorem keeps_trackSlow {a1} (g1 : Keeps r a1) : Keeps r (Sys2Proof.Machine.trackSlow a1) := by
  unfold Sys2Proof.Machine.trackSlow
  extract_lets -merge -useContext -underBinder +onlyGivenNames v1
  try clear_value v1
  refine keeps_foldl (P := Keeps r) (fun _ _ h2 => ?_) ?_
  · refine keeps_modCore ?_
    · exact h2
  · exact g1

theorem keeps_trackStraggler {a1} (g1 : Keeps r a1) : Keeps r (Sys2Proof.Machine.trackStraggler a1) := by
  unfold Sys2Proof.Machine.trackStraggler
  extract_lets -merge -useContext -underBinder +onlyGivenNames v1
  try clear_value v1
  extract_lets -merge -useContext -underBinder +onlyGivenNames v2
  try clear_value v2
  extract_lets -merge -useContext -underBinder +onlyGivenNames v3
  try clear_value v3
  exact keeps_same g1 rfl

theorem keeps_execRateUpdate {a1 a2} (g2 : Keeps r a2) : KN (Keeps r) (Sys2Proof.Machine.execRateUpdate a1 a2) := by
  unfold Sys2Proof.Machine.execRateUpdate
  refine KN_next ?_
  refine keeps_trackStraggler ?_
  · refine keeps_trackSlow ?_
    · refine keeps_foldl (P := Keeps r) (fun _ _ h1 => ?_) ?_
      · refine keeps_readCore ?_
        · exact h1
      · exact g2

theorem keeps_execPowerHoldAdjust {a1 a2 a3 a4 a5} (g5 : Keeps r a5) : KN (Keeps r) (Sys2Proof.Machine.execPowerHoldAdjust a1 a2 a3 a4 a5) := by
  unfold Sys2Proof.Machine.execPowerHoldAdjust
  extract_lets -merge -useContext -underBinder +onlyGivenNames v1
  try clear_value v1
  extract_lets -merge -useContext -underBinder +onlyGivenNames v2
  try clear_value v2
  extract_lets -merge -useContext -underBinder +onlyGivenNames _ _ v3
  have h4 : Keeps r v3 := by
    subst v3
    exact keeps_same g5 rfl
  try clear_value v3
  refine KN_next ?_
  refine keeps_takeSense ?_
  · exact h4

theorem keeps_execFieldStatus {a1 a2} (g2 : Keeps r a2) : KN (Keeps r) (Sys2Proof.Machine.execFieldStatus a1 a2) := by
  unfold Sys2Proof.Machine.execFieldStatus
  refine KN_next ?_
  refine keeps_runCmd ?_ ?_
  · intro _ _ _ h1
    beta_reduce
    extract_lets -merge -useContext -underBinder +onlyGivenNames v2
    try clear_value v2
    refine keeps_ite (P := KP (Keeps r)) ?_ ?_
    · refine KP_mk ?_
      exact h1
    · split
      · refine KP_mk ?_
        exact h1
      · refine keeps_ite (P := KP (Keeps r)) ?_ ?_
        · refine KP_mk ?_
          exact h1
        · extract_lets -merge -useContext -underBinder +onlyGivenNames v3
          try clear_value v3
          extract_lets -merge -useContext -underBinder +onlyGivenNames v4
          try clear_value v4
          refine KP_mk ?_
          exact h1
  · exact g2

theorem keeps_execFieldSupply {a1 a2} (g2 : Keeps r a2) : KN (Keeps r) (Sys2Proof.Machine.execFieldSupply a1 a2) := by
  unfold Sys2Proof.Machine.execFieldSupply
  refine KN_next ?_
  refine keeps_runCmd ?_ ?_
  · intro _ _ _ h1
    beta_reduce
    extract_lets -merge -useContext -underBinder +onlyGivenNames v2
    try clear_value v2
    extract_lets -merge -useContext -underBinder +onlyGivenNames v3
    try clear_value v3
    refine keeps_ite (P := KP (Keeps r)) ?_ ?_
    · refine KP_mk ?_
      exact h1
    · split
      · rename_i q4
        have h5 : Keeps r _ := KP_of q4 (by
          refine keeps_judge ?_
          · exact h1
          )
        refine keeps_ite (P := KP (Keeps r)) ?_ ?_
        · refine KP_mk ?_
          exact h5
        · refine KP_mk ?_
          exact keeps_same h5 rfl
  · exact g2

theorem keeps_coreOrder {a1 a2 a3} (g2 : Keeps r a2) (g3 : ∀ b1 b2, KP (Keeps r) (a3 b1 b2)) : KP (Keeps r) (Sys2Proof.Machine.coreOrder a1 a2 a3) := by
  unfold Sys2Proof.Machine.coreOrder
  extract_lets -merge -useContext -underBinder +onlyGivenNames v1
  try clear_value v1
  refine keeps_ite (P := KP (Keeps r)) ?_ ?_
  · refine KP_mk ?_
    exact g2
  · refine keeps_ite (P := KP (Keeps r)) ?_ ?_
    · refine KP_mk ?_
      exact g2
    · refine g3 _ _

theorem keeps_judgedCore {a1 a2 a3 a4 a5} (g4 : Keeps r a4) (g5 : ∀ b1, Keeps r b1 → KP (Keeps r) (a5 b1)) : KP (Keeps r) (Sys2Proof.Machine.judgedCore a1 a2 a3 a4 a5) := by
  unfold Sys2Proof.Machine.judgedCore
  split
  · rename_i q1
    have h2 : Keeps r _ := KP_of q1 (by
      refine keeps_judge ?_
      · exact g4
      )
    refine keeps_ite (P := KP (Keeps r)) ?_ ?_
    · refine g5 _ ?_
      · exact h2
    · refine KP_mk ?_
      exact h2

theorem keeps_execFieldFence {a1 a2} (g2 : Keeps r a2) : KN (Keeps r) (Sys2Proof.Machine.execFieldFence a1 a2) := by
  unfold Sys2Proof.Machine.execFieldFence
  refine KN_next ?_
  refine keeps_runCmd ?_ ?_
  · intro _ _ _ h1
    beta_reduce
    refine keeps_coreOrder ?_ ?_
    · exact h1
    · intro _ _
      beta_reduce
      extract_lets -merge -useContext -underBinder +onlyGivenNames v2
      try clear_value v2
      refine keeps_ite (P := KP (Keeps r)) ?_ ?_
      · refine KP_mk ?_
        exact h1
      · refine keeps_judgedCore ?_ ?_
        · exact h1
        · intro _ h3
          beta_reduce
          refine keeps_ite (P := KP (Keeps r)) ?_ ?_
          · refine KP_mk ?_
            exact h3
          · refine KP_mk ?_
            refine keeps_startRuns ?_
            · refine keeps_fenceCore ?_
              · exact h3
  · exact g2

theorem keeps_execFieldRestrict {a1 a2} (g2 : Keeps r a2) : KN (Keeps r) (Sys2Proof.Machine.execFieldRestrict a1 a2) := by
  unfold Sys2Proof.Machine.execFieldRestrict
  refine KN_next ?_
  refine keeps_runCmd ?_ ?_
  · intro _ _ _ h1
    beta_reduce
    refine keeps_coreOrder ?_ ?_
    · exact h1
    · intro _ _
      beta_reduce
      refine keeps_ite (P := KP (Keeps r)) ?_ ?_
      · refine KP_mk ?_
        exact h1
      · refine keeps_judgedCore ?_ ?_
        · exact h1
        · intro _ h2
          beta_reduce
          refine keeps_ite (P := KP (Keeps r)) ?_ ?_
          · refine KP_mk ?_
            refine keeps_setCore ?_
            · exact h2
          · refine keeps_ite (P := KP (Keeps r)) ?_ ?_
            · refine KP_mk ?_
              refine keeps_setCore ?_
              · exact h2
            · refine KP_mk ?_
              exact h2
  · exact g2

theorem keeps_execFieldEnable {a1 a2} (g2 : Keeps r a2) : KN (Keeps r) (Sys2Proof.Machine.execFieldEnable a1 a2) := by
  unfold Sys2Proof.Machine.execFieldEnable
  refine KN_next ?_
  refine keeps_runCmd ?_ ?_
  · intro _ _ _ h1
    beta_reduce
    refine keeps_coreOrder ?_ ?_
    · exact h1
    · intro _ _
      beta_reduce
      refine keeps_ite (P := KP (Keeps r)) ?_ ?_
      · refine KP_mk ?_
        exact h1
      · refine keeps_judgedCore ?_ ?_
        · exact h1
        · intro _ h2
          beta_reduce
          extract_lets -merge -useContext -underBinder +onlyGivenNames v3
          try clear_value v3
          split
          · refine KP_mk ?_
            refine keeps_setCore ?_
            · exact h2
          · refine KP_mk ?_
            refine keeps_setCore ?_
            · exact h2
          · refine KP_mk ?_
            exact h2
  · exact g2

theorem keeps_execFieldLoad {a1 a2} (g2 : Keeps r a2) : KN (Keeps r) (Sys2Proof.Machine.execFieldLoad a1 a2) := by
  unfold Sys2Proof.Machine.execFieldLoad
  refine KN_next ?_
  refine keeps_runCmd ?_ ?_
  · intro _ _ _ h1
    beta_reduce
    refine keeps_ite (P := KP (Keeps r)) ?_ ?_
    · refine KP_mk ?_
      exact h1
    · refine keeps_ite (P := KP (Keeps r)) ?_ ?_
      · refine KP_mk ?_
        exact h1
      · split
        · refine KP_mk ?_
          exact h1
        · refine keeps_ite (P := KP (Keeps r)) ?_ ?_
          · refine KP_mk ?_
            exact h1
          · split
            · refine KP_mk ?_
              exact h1
            · refine KP_mk ?_
              exact keeps_same h1 rfl
  · exact g2

theorem keeps_execFieldRun {a1 a2} (g2 : Keeps r a2) : KN (Keeps r) (Sys2Proof.Machine.execFieldRun a1 a2) := by
  unfold Sys2Proof.Machine.execFieldRun
  refine KN_next ?_
  refine keeps_runCmd ?_ ?_
  · intro _ _ _ h1
    beta_reduce
    extract_lets -merge -useContext -underBinder +onlyGivenNames v2
    try clear_value v2
    extract_lets -merge -useContext -underBinder +onlyGivenNames v3
    try clear_value v3
    extract_lets -merge -useContext -underBinder +onlyGivenNames v4
    try clear_value v4
    extract_lets -merge -useContext -underBinder +onlyGivenNames v5
    try clear_value v5
    refine keeps_ite (P := KP (Keeps r)) ?_ ?_
    · refine KP_mk ?_
      exact h1
    · split
      · refine KP_mk ?_
        exact h1
      · refine keeps_ite (P := KP (Keeps r)) ?_ ?_
        · refine KP_mk ?_
          exact h1
        · split
          · refine KP_mk ?_
            exact h1
          · extract_lets -merge -useContext -underBinder +onlyGivenNames v6
            try clear_value v6
            extract_lets -merge -useContext -underBinder +onlyGivenNames v7
            have h8 : Keeps r v7 := by
              subst v7
              refine keeps_ite (P := Keeps r) ?_ ?_
              · refine keeps_foldl (P := Keeps r) (fun _ _ h9 => ?_) ?_
                · refine keeps_modCore ?_
                  · exact h9
                · exact h1
              · exact h1
            try clear_value v7
            refine KP_mk ?_
            refine keeps_startRanks ?_
            · refine keeps_setRun ?_
              · exact h8
  · exact g2

theorem keeps_execFieldStop {a1 a2} (g2 : Keeps r a2) : KN (Keeps r) (Sys2Proof.Machine.execFieldStop a1 a2) := by
  unfold Sys2Proof.Machine.execFieldStop
  refine KN_next ?_
  refine keeps_runCmd ?_ ?_
  · intro _ _ _ h1
    beta_reduce
    refine keeps_ite (P := KP (Keeps r)) ?_ ?_
    · refine KP_mk ?_
      exact h1
    · split
      · refine KP_mk ?_
        exact h1
      · split
        · rename_i q2
          have h3 : Keeps r _ := KP_of q2 (by
            refine keeps_fresh ?_
            · exact h1
            )
          refine KP_mk ?_
          refine keeps_endRun ?_
          · exact h3
  · exact g2

theorem keeps_execFieldRunEnd {a1 a2 a3 a4 a5} (g5 : Keeps r a5) : KN (Keeps r) (Sys2Proof.Machine.execFieldRunEnd a1 a2 a3 a4 a5) := by
  unfold Sys2Proof.Machine.execFieldRunEnd
  refine KN_next ?_
  split
  · exact g5
  · split
    · exact g5
    · refine keeps_ite (P := Keeps r) ?_ ?_
      · refine keeps_endRun ?_
        · exact g5
      · exact g5

theorem keeps_chooseCore {a1 a2 a3 a4 a5 a6} (g6 : Keeps r a6) : Keeps r (Sys2Proof.Machine.chooseCore a1 a2 a3 a4 a5 a6) := by
  unfold Sys2Proof.Machine.chooseCore
  extract_lets -merge -useContext -underBinder +onlyGivenNames v1
  have h2 : Keeps r v1 := by
    subst v1
    refine keeps_ite (P := Keeps r) ?_ ?_
    · refine keeps_modCore ?_
      · exact g6
    · exact g6
  try clear_value v1
  refine keeps_setRun ?_
  · exact h2

theorem keeps_execRankRestart {a1 a2 a3 a4} (g4 : Keeps r a4) : KN (Keeps r) (Sys2Proof.Machine.execRankRestart a1 a2 a3 a4) := by
  unfold Sys2Proof.Machine.execRankRestart
  refine KN_next ?_
  split
  · exact g4
  · split
    · exact g4
    · split
      · exact g4
      · extract_lets -merge -useContext -underBinder +onlyGivenNames v1
        try clear_value v1
        extract_lets -merge -useContext -underBinder +onlyGivenNames v2
        try clear_value v2
        split
        · exact g4
        · refine keeps_ite (P := Keeps r) ?_ ?_
          · refine keeps_startRanks ?_
            · refine keeps_chooseCore ?_
              · exact g4
          · exact g4

theorem keeps_execReserveJoin {a1} (g1 : Keeps r a1) : KN (Keeps r) (Sys2Proof.Machine.execReserveJoin a1) := by
  unfold Sys2Proof.Machine.execReserveJoin
  refine KN_next ?_
  refine keeps_checkGuarantee ?_
  · refine keeps_workBoundary ?_
    · exact g1

theorem keeps_execReserveSelfTest {a1 a2} (g2 : Keeps r a2) : KN (Keeps r) (Sys2Proof.Machine.execReserveSelfTest a1 a2) := by
  unfold Sys2Proof.Machine.execReserveSelfTest
  extract_lets -merge -useContext -underBinder +onlyGivenNames v1
  try clear_value v1
  refine KN_next ?_
  refine keeps_ite (P := Keeps r) ?_ ?_
  · refine keeps_setCore ?_
    · exact g2
  · exact g2

theorem keeps_execReserveTestDone {a1 a2 a3} (g3 : Keeps r a3) : KN (Keeps r) (Sys2Proof.Machine.execReserveTestDone a1 a2 a3) := by
  unfold Sys2Proof.Machine.execReserveTestDone
  extract_lets -merge -useContext -underBinder +onlyGivenNames v1
  try clear_value v1
  refine KN_next ?_
  refine keeps_ite (P := Keeps r) ?_ ?_
  · exact g3
  · split
    · rename_i q2
      have h3 : Keeps r _ := KP_of q2 (by
        refine keeps_sparkCheck ?_
        · exact g3
        )
      extract_lets -merge -useContext -underBinder +onlyGivenNames v4
      have h5 : Keeps r v4 := by
        subst v4
        refine keeps_setCore ?_
        · exact h3
      try clear_value v4
      refine keeps_ite (P := Keeps r) ?_ ?_
      · exact h5
      · refine keeps_fenceCore ?_
        · refine keeps_countFault ?_
          · exact h5

theorem keeps_execMeshSend {a1 a2 a3 a4 a5 a6 a7} (g7 : Keeps r a7) : KN (Keeps r) (Sys2Proof.Machine.execMeshSend a1 a2 a3 a4 a5 a6 a7) := by
  unfold Sys2Proof.Machine.execMeshSend
  extract_lets -merge -useContext -underBinder +onlyGivenNames v1
  try clear_value v1
  refine KN_next ?_
  refine keeps_ite (P := Keeps r) ?_ ?_
  · exact g7
  · refine keeps_ite (P := Keeps r) ?_ ?_
    · refine keeps_bounce ?_
      · exact g7
    · extract_lets -merge -useContext -underBinder +onlyGivenNames v2
      try clear_value v2
      extract_lets -merge -useContext -underBinder +onlyGivenNames v3
      try clear_value v3
      extract_lets -merge -useContext -underBinder +onlyGivenNames v4
      have h5 : Keeps r v4 := by
        subst v4
        refine keeps_setCore ?_
        · exact g7
      try clear_value v4
      refine keeps_settleMesh ?_
      · exact keeps_same h5 rfl

theorem keeps_execMeshDeliver {a1 a2 a3 a4 a5} (g5 : Keeps r a5) : KN (Keeps r) (Sys2Proof.Machine.execMeshDeliver a1 a2 a3 a4 a5) := by
  unfold Sys2Proof.Machine.execMeshDeliver
  refine KN_next ?_
  split
  · exact g5
  · refine keeps_ite (P := Keeps r) ?_ ?_
    · exact g5
    · extract_lets -merge -useContext -underBinder +onlyGivenNames v1
      have h2 : ∀ a3, Keeps r a3 → Keeps r (v1 a3) := by
        subst v1
        intro _ h4
        beta_reduce
        exact keeps_same h4 rfl
      try clear_value v1
      refine keeps_ite (P := Keeps r) ?_ ?_
      · refine keeps_settleMesh ?_
        · refine keeps_bounce ?_
          · refine h2 _ ?_
            · exact g5
      · extract_lets -merge -useContext -underBinder +onlyGivenNames v5
        try clear_value v5
        refine keeps_ite (P := Keeps r) ?_ ?_
        · exact keeps_same g5 rfl
        · refine keeps_settleMesh ?_
          · refine h2 _ ?_
            · refine keeps_receiveMsg ?_
              · refine keeps_modCore ?_
                · exact g5

theorem keeps_execMeshResend {a1 a2 a3 a4 a5} (g5 : Keeps r a5) : KN (Keeps r) (Sys2Proof.Machine.execMeshResend a1 a2 a3 a4 a5) := by
  unfold Sys2Proof.Machine.execMeshResend
  refine KN_next ?_
  split
  · exact g5
  · split
    · refine keeps_ite (P := Keeps r) ?_ ?_
      · exact g5
      · refine keeps_settleMesh ?_
        · exact keeps_same g5 rfl
    · exact g5

theorem keeps_execMeshFlitError {a1 a2} (g2 : Keeps r a2) : KN (Keeps r) (Sys2Proof.Machine.execMeshFlitError a1 a2) := by
  unfold Sys2Proof.Machine.execMeshFlitError
  extract_lets -merge -useContext -underBinder +onlyGivenNames v1
  try clear_value v1
  refine KN_next ?_
  refine keeps_ite (P := Keeps r) ?_ ?_
  · exact g2
  · split
    · rename_i q2
      have h3 : Keeps r _ := KP_of q2 (by
        refine keeps_sparkCheck ?_
        · exact g2
        )
      extract_lets -merge -useContext -underBinder +onlyGivenNames v4
      try clear_value v4
      extract_lets -merge -useContext -underBinder +onlyGivenNames v5
      have h6 : Keeps r v5 := by
        subst v5
        refine keeps_countFault ?_
        · refine keeps_setCore ?_
          · exact h3
      try clear_value v5
      refine keeps_ite (P := Keeps r) ?_ ?_
      · extract_lets -merge -useContext -underBinder +onlyGivenNames _ v7
        have h8 : Keeps r v7 := by
          subst v7
          refine keeps_modCore ?_
          · exact keeps_same h6 rfl
        try clear_value v7
        refine keeps_ite (P := Keeps r) ?_ ?_
        · exact h8
        · refine keeps_startRuns ?_
          · refine keeps_fenceCore ?_
            · exact h8
      · exact h6

theorem keeps_execRouterBypassDone {a1 a2} (g2 : Keeps r a2) : KN (Keeps r) (Sys2Proof.Machine.execRouterBypassDone a1 a2) := by
  unfold Sys2Proof.Machine.execRouterBypassDone
  refine KN_next ?_
  refine keeps_settleMesh ?_
  · exact keeps_same g2 rfl

theorem keeps_endItemPoisoned {a1 a2 a3} (g3 : Keeps r a3) : Keeps r (Sys2Proof.Machine.endItemPoisoned a1 a2 a3) := by
  unfold Sys2Proof.Machine.endItemPoisoned
  extract_lets -merge -useContext -underBinder +onlyGivenNames v1
  have h2 : Keeps r v1 := by
    subst v1
    refine keeps_unpinBodies ?_
    · exact g3
  try clear_value v1
  extract_lets -merge -useContext -underBinder +onlyGivenNames _ v3
  have h4 : Keeps r v3 := by
    subst v3
    exact keeps_same h2 rfl
  try clear_value v3
  refine keeps_ite (P := Keeps r) ?_ ?_
  · exact keeps_same h4 rfl
  · exact keeps_same h4 rfl

theorem keeps_poisonThread {a1 a2 a3} (g3 : Keeps r a3) : Keeps r (Sys2Proof.Machine.poisonThread a1 a2 a3) := by
  unfold Sys2Proof.Machine.poisonThread
  extract_lets -merge -useContext -underBinder +onlyGivenNames v1
  try clear_value v1
  split
  · refine keeps_unblock ?_
    · refine keeps_modCore ?_
      · refine keeps_setRun ?_
        · exact g3
  · split
    · exact g3
    · refine keeps_startRuns ?_
      · refine keeps_settleWork ?_
        · refine keeps_endItemPoisoned ?_
          · exact g3

theorem keeps_execSramError {a1 a2 a3 a4 a5} (g5 : Keeps r a5) : KN (Keeps r) (Sys2Proof.Machine.execSramError a1 a2 a3 a4 a5) := by
  unfold Sys2Proof.Machine.execSramError
  extract_lets -merge -useContext -underBinder +onlyGivenNames v1
  try clear_value v1
  refine KN_next ?_
  refine keeps_ite (P := Keeps r) ?_ ?_
  · exact g5
  · split
    · rename_i q2
      have h3 : Keeps r _ := KP_of q2 (by
        refine keeps_sparkCheck ?_
        · exact g5
        )
      extract_lets -merge -useContext -underBinder +onlyGivenNames v4
      try clear_value v4
      refine keeps_ite (P := Keeps r) ?_ ?_
      · refine keeps_countFault ?_
        · refine keeps_setCore ?_
          · exact h3
      · extract_lets -merge -useContext -underBinder +onlyGivenNames v5
        try clear_value v5
        extract_lets -merge -useContext -underBinder +onlyGivenNames v6
        have h7 : Keeps r v6 := by
          subst v6
          refine keeps_countFault ?_
          · refine keeps_setCore ?_
            · exact h3
        try clear_value v6
        refine keeps_ite (P := Keeps r) ?_ ?_
        · refine keeps_startRuns ?_
          · refine keeps_fenceCore ?_
            · exact h7
        · split
          · exact h7
          · refine keeps_poisonThread ?_
            · exact h7

theorem keeps_execCoreStallDetect {a1 a2} (g2 : Keeps r a2) : KN (Keeps r) (Sys2Proof.Machine.execCoreStallDetect a1 a2) := by
  unfold Sys2Proof.Machine.execCoreStallDetect
  refine KN_next ?_
  refine keeps_ite (P := Keeps r) ?_ ?_
  · exact g2
  · split
    · rename_i q1
      have h2 : Keeps r _ := KP_of q1 (by
        refine keeps_sparkCheck ?_
        · exact g2
        )
      refine keeps_startRuns ?_
      · refine keeps_fenceCore ?_
        · exact h2

theorem keeps_execPaceLowDetect {a1 a2} (g2 : Keeps r a2) : KN (Keeps r) (Sys2Proof.Machine.execPaceLowDetect a1 a2) := by
  unfold Sys2Proof.Machine.execPaceLowDetect
  extract_lets -merge -useContext -underBinder +onlyGivenNames v1
  try clear_value v1
  extract_lets -merge -useContext -underBinder +onlyGivenNames v2
  try clear_value v2
  refine KN_next ?_
  refine keeps_ite (P := Keeps r) ?_ ?_
  · refine keeps_startRuns ?_
    · refine keeps_fenceCore ?_
      · refine keeps_countFault ?_
        · exact g2
  · exact g2

theorem keeps_execCoreSlowDetect {a1 a2} (g2 : Keeps r a2) : KN (Keeps r) (Sys2Proof.Machine.execCoreSlowDetect a1 a2) := by
  unfold Sys2Proof.Machine.execCoreSlowDetect
  extract_lets -merge -useContext -underBinder +onlyGivenNames v1
  try clear_value v1
  extract_lets -merge -useContext -underBinder +onlyGivenNames v2
  try clear_value v2
  refine KN_next ?_
  refine keeps_ite (P := Keeps r) ?_ ?_
  · exact g2
  · extract_lets -merge -useContext -underBinder +onlyGivenNames v3
    have h4 : Keeps r v3 := by
      subst v3
      refine keeps_raiseNode ?_
      · exact g2
    try clear_value v3
    extract_lets -merge -useContext -underBinder +onlyGivenNames v5
    have h6 : Keeps r v5 := by
      subst v5
      refine keeps_countFault ?_
      · refine keeps_modCore ?_
        · exact h4
    try clear_value v5
    refine keeps_ite (P := Keeps r) ?_ ?_
    · exact h6
    · split
      · rename_i q7
        have h8 : Keeps r _ := KP_of q7 (by
          refine keeps_judge ?_
          · exact h6
          )
        refine keeps_ite (P := Keeps r) ?_ ?_
        · refine keeps_modCore ?_
          · exact h8
        · exact h8

end Sys2Proof.Machine
end

