-- ==== Sys2Proof/Laws/KeepsTransport.lean ====
section
/-! SUPPORT. What the operations of the transport and remote memory keep (`Keeps`): one lemma per operation. -/

namespace Sys2Proof.Machine

variable {r s t : State} {α β ε : Type}

theorem keeps_control {a1 a2 a3 a4 a5} (g4 : ∀ b1 b2 b3, Keeps r b3 → Keeps r (a4 b1 b2 b3)) (g5 : Keeps r a5) : Keeps r (Sys2Proof.Machine.control a1 a2 a3 a4 a5) := by
  unfold Sys2Proof.Machine.control
  refine keeps_ite (P := Keeps r) ?_ ?_
  · exact g5
  · split
    · rename_i q1
      have h2 : KP (Keeps r) _ := KP_of q1 (by
        refine keeps_takeArrived ?_
        · exact g5
        )
      have h2 : Keeps r _ := h2
      split
      · rename_i q3
        have h4 : Keeps r _ := KP_of q3 (by
          refine keeps_screen ?_
          · exact h2
          )
        exact h4
      · rename_i q5
        have h6 : Keeps r _ := KP_of q5 (by
          refine keeps_screen ?_
          · exact h2
          )
        extract_lets -merge -useContext -underBinder +onlyGivenNames v7
        try clear_value v7
        split
        · exact h6
        · refine g4 _ _ _ ?_
          · exact h6

theorem keeps_execTransportAckReceive {a1 a2} (g2 : Keeps r a2) : KN (Keeps r) (Sys2Proof.Machine.execTransportAckReceive a1 a2) := by
  unfold Sys2Proof.Machine.execTransportAckReceive
  refine KN_next ?_
  refine keeps_control ?_ ?_
  · intro _ _ _ h1
    beta_reduce
    refine keeps_retrySlots ?_
    · refine keeps_settleWork ?_
      · refine keeps_takeAck ?_
        · exact h1
  · exact g2

theorem keeps_execNackGap {a1 a2} (g2 : Keeps r a2) : KN (Keeps r) (Sys2Proof.Machine.execNackGap a1 a2) := by
  unfold Sys2Proof.Machine.execNackGap
  refine KN_next ?_
  refine keeps_control ?_ ?_
  · intro _ _ _ h1
    beta_reduce
    extract_lets -merge -useContext -underBinder +onlyGivenNames v2
    have h3 : Keeps r v2 := by
      subst v2
      refine keeps_takeAck ?_
      · exact h1
    try clear_value v2
    extract_lets -merge -useContext -underBinder +onlyGivenNames v4
    try clear_value v4
    refine keeps_settleWork ?_
    · refine keeps_ite (P := Keeps r) ?_ ?_
      · refine keeps_resendFlow ?_
        · refine keeps_modSlot ?_
          · exact h3
      · exact h3
  · exact g2

theorem keeps_execNackResync {a1 a2} (g2 : Keeps r a2) : KN (Keeps r) (Sys2Proof.Machine.execNackResync a1 a2) := by
  unfold Sys2Proof.Machine.execNackResync
  refine KN_next ?_
  refine keeps_control ?_ ?_
  · intro _ _ _ h1
    beta_reduce
    split
    · refine keeps_ite (P := Keeps r) ?_ ?_
      · refine keeps_resendFlow ?_
        · exact h1
      · refine keeps_endNode ?_
        · exact h1
    · refine keeps_resendFlow ?_
      · exact h1
  · exact g2

theorem keeps_backOff {a1 a2 a3} (g3 : Keeps r a3) : Keeps r (Sys2Proof.Machine.backOff a1 a2 a3) := by
  unfold Sys2Proof.Machine.backOff
  refine keeps_settleWork ?_
  · refine keeps_modSlot ?_
    · refine keeps_takeAck ?_
      · exact g3

theorem keeps_execNackBusy {a1 a2} (g2 : Keeps r a2) : KN (Keeps r) (Sys2Proof.Machine.execNackBusy a1 a2) := by
  unfold Sys2Proof.Machine.execNackBusy
  refine KN_next ?_
  refine keeps_control ?_ ?_
  · intro _ _ _ h1
    beta_reduce
    refine keeps_backOff ?_
    · exact h1
  · exact g2

theorem keeps_execNackNoSlot {a1 a2} (g2 : Keeps r a2) : KN (Keeps r) (Sys2Proof.Machine.execNackNoSlot a1 a2) := by
  unfold Sys2Proof.Machine.execNackNoSlot
  refine KN_next ?_
  refine keeps_control ?_ ?_
  · intro _ _ _ h1
    beta_reduce
    refine keeps_backOff ?_
    · exact h1
  · exact g2

theorem keeps_execNackNotHolder {a1 a2} (g2 : Keeps r a2) : KN (Keeps r) (Sys2Proof.Machine.execNackNotHolder a1 a2) := by
  unfold Sys2Proof.Machine.execNackNotHolder
  refine KN_next ?_
  refine keeps_control ?_ ?_
  · intro _ _ _ h1
    beta_reduce
    refine keeps_peerUnreachable ?_
    · exact h1
  · exact g2

theorem keeps_execNoticeShutdown {a1 a2} (g2 : Keeps r a2) : KN (Keeps r) (Sys2Proof.Machine.execNoticeShutdown a1 a2) := by
  unfold Sys2Proof.Machine.execNoticeShutdown
  refine KN_next ?_
  refine keeps_control ?_ ?_
  · intro _ _ _ h1
    beta_reduce
    refine keeps_peerUnreachable ?_
    · exact h1
  · exact g2

theorem keeps_execNoticeStookList {a1 a2} (g2 : Keeps r a2) : KN (Keeps r) (Sys2Proof.Machine.execNoticeStookList a1 a2) := by
  unfold Sys2Proof.Machine.execNoticeStookList
  refine KN_next ?_
  refine keeps_ite (P := Keeps r) ?_ ?_
  · exact g2
  · split
    · rename_i q1
      have h2 : KP (Keeps r) _ := KP_of q1 (by
        refine keeps_takeArrived ?_
        · exact g2
        )
      have h2 : Keeps r _ := h2
      split
      · rename_i q3
        have h4 : Keeps r _ := KP_of q3 (by
          refine keeps_screen ?_
          · exact h2
          )
        exact h4
      · rename_i q5
        have h6 : Keeps r _ := KP_of q5 (by
          refine keeps_screen ?_
          · exact h2
          )
        refine keeps_ite (P := Keeps r) ?_ ?_
        · exact h6
        · refine keeps_ite (P := Keeps r) ?_ ?_
          · exact keeps_same h6 rfl
          · refine keeps_raise ?_
            · exact keeps_same h6 rfl

theorem keeps_loadWaits {a1 a2 a3 a4} (g4 : Keeps r a4) : Keeps r (Sys2Proof.Machine.loadWaits a1 a2 a3 a4) := by
  unfold Sys2Proof.Machine.loadWaits
  refine keeps_foldl (P := Keeps r) (fun _ _ h1 => ?_) ?_
  · refine keeps_countWaits ?_
    · exact h1
  · exact g4

theorem keeps_loadAct {a1 a2 a3} (g3 : Keeps r a3) : KP (Keeps r) (Sys2Proof.Machine.loadAct a1 a2 a3) := by
  unfold Sys2Proof.Machine.loadAct
  extract_lets -merge -useContext -underBinder +onlyGivenNames v1
  try clear_value v1
  extract_lets -merge -useContext -underBinder +onlyGivenNames v2
  try clear_value v2
  refine keeps_ite (P := KP (Keeps r)) ?_ ?_
  · refine keeps_refuse ?_
    · exact g3
  · split
    · refine keeps_refuse ?_
      · exact g3
    · split
      · rename_i q3
        have h4 : Keeps r _ := KP_of q3 (by
          refine keeps_protCheck ?_
          · exact g3
          )
        refine keeps_refuse ?_
        · exact h4
      · rename_i q5
        have h6 : Keeps r _ := KP_of q5 (by
          refine keeps_protCheck ?_
          · exact g3
          )
        refine keeps_ite (P := KP (Keeps r)) ?_ ?_
        · refine keeps_refuse ?_
          · exact h6
        · refine keeps_cohGate ?_ ?_
          · intro _ h7
            beta_reduce
            extract_lets -merge -useContext -underBinder +onlyGivenNames v8
            have h9 : Keeps r v8 := by
              subst v8
              refine keeps_loadWaits ?_
              · exact h7
            try clear_value v8
            split
            · refine keeps_ite (P := KP (Keeps r)) ?_ ?_
              · refine KP_mk ?_
                refine keeps_fault ?_
                · exact h9
              · refine KP_mk ?_
                refine keeps_respond ?_
                · exact h9
          · exact h6

theorem keeps_storeLand {a1 a2 a3 a4} (g4 : Keeps r a4) : Keeps r (Sys2Proof.Machine.storeLand a1 a2 a3 a4) := by
  unfold Sys2Proof.Machine.storeLand
  extract_lets -merge -useContext -underBinder +onlyGivenNames v1
  have h2 : Keeps r v1 := by
    subst v1
    refine keeps_regionWriteP ?_
    · exact g4
  try clear_value v1
  extract_lets -merge -useContext -underBinder +onlyGivenNames v3
  have h4 : Keeps r v3 := by
    subst v3
    refine keeps_ite (P := Keeps r) ?_ ?_
    · refine keeps_regionWriteP ?_
      · exact h2
    · exact h2
  try clear_value v3
  refine keeps_ite (P := Keeps r) ?_ ?_
  · exact h4
  · refine keeps_addCounter ?_
    · exact h4

theorem keeps_storeAct {a1 a2 a3} (g3 : Keeps r a3) : KP (Keeps r) (Sys2Proof.Machine.storeAct a1 a2 a3) := by
  unfold Sys2Proof.Machine.storeAct
  extract_lets -merge -useContext -underBinder +onlyGivenNames v1
  try clear_value v1
  refine keeps_ite (P := KP (Keeps r)) ?_ ?_
  · refine keeps_refuse ?_
    · exact g3
  · split
    · refine keeps_refuse ?_
      · exact g3
    · split
      · rename_i q2
        have h3 : Keeps r _ := KP_of q2 (by
          refine keeps_protCheck ?_
          · exact g3
          )
        refine keeps_refuse ?_
        · exact h3
      · rename_i q4
        have h5 : Keeps r _ := KP_of q4 (by
          refine keeps_protCheck ?_
          · exact g3
          )
        refine keeps_ite (P := KP (Keeps r)) ?_ ?_
        · refine keeps_refuse ?_
          · exact h5
        · refine keeps_cohGate ?_ ?_
          · intro _ h6
            beta_reduce
            refine KP_mk ?_
            refine keeps_storeLand ?_
            · exact h6
          · exact h5

theorem keeps_atomicLand {a1 a2 a3 a4 a5} (g5 : Keeps r a5) : Keeps r (Sys2Proof.Machine.atomicLand a1 a2 a3 a4 a5) := by
  unfold Sys2Proof.Machine.atomicLand
  refine keeps_regionWriteP ?_
  · exact g5

theorem keeps_atomicAct {a1 a2 a3} (g3 : Keeps r a3) : KP (Keeps r) (Sys2Proof.Machine.atomicAct a1 a2 a3) := by
  unfold Sys2Proof.Machine.atomicAct
  extract_lets -merge -useContext -underBinder +onlyGivenNames v1
  try clear_value v1
  refine keeps_ite (P := KP (Keeps r)) ?_ ?_
  · refine keeps_refuse ?_
    · exact g3
  · split
    · refine keeps_refuse ?_
      · exact g3
    · refine keeps_ite (P := KP (Keeps r)) ?_ ?_
      · refine keeps_refuse ?_
        · exact g3
      · split
        · rename_i q2
          have h3 : Keeps r _ := KP_of q2 (by
            refine keeps_protCheck ?_
            · exact g3
            )
          refine keeps_refuse ?_
          · exact h3
        · rename_i q4
          have h5 : Keeps r _ := KP_of q4 (by
            refine keeps_protCheck ?_
            · exact g3
            )
          refine keeps_cohGate ?_ ?_
          · intro _ h6
            beta_reduce
            split
            · refine keeps_ite (P := KP (Keeps r)) ?_ ?_
              · refine KP_mk ?_
                refine keeps_fault ?_
                · exact h6
              · refine KP_mk ?_
                refine keeps_respond ?_
                · refine keeps_atomicLand ?_
                  · exact h6
          · exact h5

theorem keeps_execOpLoad {a1 a2} (g2 : Keeps r a2) : KN (Keeps r) (Sys2Proof.Machine.execOpLoad a1 a2) := by
  unfold Sys2Proof.Machine.execOpLoad
  refine KN_next ?_
  refine keeps_settleWork ?_
  · refine keeps_receive ?_ ?_
    · intro _ _ _ h1
      refine keeps_loadAct ?_
      · exact h1
    · exact g2

theorem keeps_execOpStore {a1 a2} (g2 : Keeps r a2) : KN (Keeps r) (Sys2Proof.Machine.execOpStore a1 a2) := by
  unfold Sys2Proof.Machine.execOpStore
  refine KN_next ?_
  refine keeps_settleWork ?_
  · refine keeps_receive ?_ ?_
    · intro _ _ _ h1
      refine keeps_storeAct ?_
      · exact h1
    · exact g2

theorem keeps_execOpAtomic {a1 a2} (g2 : Keeps r a2) : KN (Keeps r) (Sys2Proof.Machine.execOpAtomic a1 a2) := by
  unfold Sys2Proof.Machine.execOpAtomic
  refine KN_next ?_
  refine keeps_settleWork ?_
  · refine keeps_receive ?_ ?_
    · intro _ _ _ h1
      refine keeps_atomicAct ?_
      · exact h1
    · exact g2

theorem keeps_execOpCounterAdd {a1 a2} (g2 : Keeps r a2) : KN (Keeps r) (Sys2Proof.Machine.execOpCounterAdd a1 a2) := by
  unfold Sys2Proof.Machine.execOpCounterAdd
  refine KN_next ?_
  refine keeps_settleWork ?_
  · refine keeps_receive ?_ ?_
    · intro _ _ _ h1
      beta_reduce
      extract_lets -merge -useContext -underBinder +onlyGivenNames v2
      try clear_value v2
      refine keeps_ite (P := KP (Keeps r)) ?_ ?_
      · refine KP_mk ?_
        refine keeps_fault ?_
        · exact h1
      · refine KP_mk ?_
        refine keeps_addCounter ?_
        · exact h1
    · exact g2

theorem keeps_placeMsg {a1 a2} (g2 : Keeps r a2) : Keeps r (Sys2Proof.Machine.placeMsg a1 a2) := by
  unfold Sys2Proof.Machine.placeMsg
  extract_lets -merge -useContext -underBinder +onlyGivenNames v1
  try clear_value v1
  extract_lets -merge -useContext -underBinder +onlyGivenNames _ v2
  have h3 : Keeps r v2 := by
    subst v2
    exact keeps_same g2 rfl
  try clear_value v2
  refine keeps_receiveMsg ?_
  · exact h3

theorem keeps_execOpCoreMsg {a1 a2} (g2 : Keeps r a2) : KN (Keeps r) (Sys2Proof.Machine.execOpCoreMsg a1 a2) := by
  unfold Sys2Proof.Machine.execOpCoreMsg
  refine KN_next ?_
  refine keeps_settleWork ?_
  · refine keeps_receive ?_ ?_
    · intro _ _ _ h1
      beta_reduce
      extract_lets -merge -useContext -underBinder +onlyGivenNames v2
      try clear_value v2
      extract_lets -merge -useContext -underBinder +onlyGivenNames v3
      try clear_value v3
      refine keeps_ite (P := KP (Keeps r)) ?_ ?_
      · refine KP_mk ?_
        refine keeps_fault ?_
        · exact h1
      · split
        · rename_i q4
          have h5 : Keeps r _ := KP_of q4 (by
            refine keeps_ite (P := KP (Keeps r)) ?_ ?_
            · refine keeps_protCheck ?_
              · exact h1
            · refine KP_mk ?_
              exact h1
            )
          refine KP_mk ?_
          refine keeps_fault ?_
          · exact h5
        · rename_i q6
          have h7 : Keeps r _ := KP_of q6 (by
            refine keeps_ite (P := KP (Keeps r)) ?_ ?_
            · refine keeps_protCheck ?_
              · exact h1
            · refine KP_mk ?_
              exact h1
            )
          extract_lets -merge -useContext -underBinder +onlyGivenNames v8
          try clear_value v8
          refine keeps_ite (P := KP (Keeps r)) ?_ ?_
          · refine KP_mk ?_
            refine keeps_fault ?_
            · exact h7
          · refine keeps_ite (P := KP (Keeps r)) ?_ ?_
            · refine KP_mk ?_
              exact h7
            · refine KP_mk ?_
              refine keeps_placeMsg ?_
              · exact h7
    · exact g2

theorem keeps_queueBackoff {a1} (g1 : Keeps r a1) : KP (Keeps r) (Sys2Proof.Machine.queueBackoff a1) := by
  unfold Sys2Proof.Machine.queueBackoff
  split
  · rename_i q1
    have h2 : Keeps r _ := KP_of q1 (by
      refine keeps_fresh ?_
      · exact g1
      )
    refine KP_mk ?_
    exact h2

theorem keeps_queueCommand {a1 a2 a3} (g3 : Keeps r a3) : Keeps r (Sys2Proof.Machine.queueCommand a1 a2 a3) := by
  unfold Sys2Proof.Machine.queueCommand
  extract_lets -merge -useContext -underBinder +onlyGivenNames v1
  try clear_value v1
  extract_lets -merge -useContext -underBinder +onlyGivenNames _ v2
  try clear_value v2
  extract_lets -merge -useContext -underBinder +onlyGivenNames _ v3
  have h4 : Keeps r v3 := by
    subst v3
    refine keeps_ite (P := Keeps r) ?_ ?_
    · exact keeps_same g3 rfl
    · exact g3
  try clear_value v3
  split
  · refine keeps_sendDone ?_
    · exact h4
  · refine keeps_ite (P := Keeps r) ?_ ?_
    · refine keeps_sendDone ?_
      · exact h4
    · exact keeps_same h4 rfl

theorem keeps_commandAct {a1 a2 a3} (g3 : Keeps r a3) : KP (Keeps r) (Sys2Proof.Machine.commandAct a1 a2 a3) := by
  unfold Sys2Proof.Machine.commandAct
  extract_lets -merge -useContext -underBinder +onlyGivenNames v1
  try clear_value v1
  extract_lets -merge -useContext -underBinder +onlyGivenNames v2
  try clear_value v2
  extract_lets -merge -useContext -underBinder +onlyGivenNames v3
  have h4 : ∀ a5 a6, Keeps r a6 → KP (Keeps r) (v3 a5 a6) := by
    subst v3
    intro _ _ h7
    beta_reduce
    refine keeps_ite (P := KP (Keeps r)) ?_ ?_
    · refine KP_mk ?_
      refine keeps_fault ?_
      · refine keeps_denied ?_
        · exact h7
    · refine KP_mk ?_
      exact h7
  try clear_value v3
  refine keeps_ite (P := KP (Keeps r)) ?_ ?_
  · refine KP_mk ?_
    exact g3
  · refine keeps_ite (P := KP (Keeps r)) ?_ ?_
    · split
      · rename_i q8
        have h9 : Keeps r _ := KP_of q8 (by
          refine keeps_queueBackoff ?_
          · exact g3
          )
        refine KP_mk ?_
        exact h9
    · refine keeps_ite (P := KP (Keeps r)) ?_ ?_
      · refine h4 _ _ ?_
        · exact g3
      · split
        · refine h4 _ _ ?_
          · exact g3
        · refine keeps_ite (P := KP (Keeps r)) ?_ ?_
          · refine h4 _ _ ?_
            · exact g3
          · refine keeps_ite (P := KP (Keeps r)) ?_ ?_
            · refine h4 _ _ ?_
              · exact g3
            · refine keeps_ite (P := KP (Keeps r)) ?_ ?_
              · split
                · rename_i q10
                  have h11 : Keeps r _ := KP_of q10 (by
                    refine keeps_queueBackoff ?_
                    · exact g3
                    )
                  refine KP_mk ?_
                  exact h11
              · split
                · rename_i q12
                  have h13 : Keeps r _ := KP_of q12 (by
                    refine keeps_ite (P := KP (Keeps r)) ?_ ?_
                    · refine keeps_protCheck ?_
                      · exact g3
                    · refine KP_mk ?_
                      exact g3
                    )
                  refine h4 _ _ ?_
                  · exact h13
                · rename_i q14
                  have h15 : Keeps r _ := KP_of q14 (by
                    refine keeps_ite (P := KP (Keeps r)) ?_ ?_
                    · refine keeps_protCheck ?_
                      · exact g3
                    · refine KP_mk ?_
                      exact g3
                    )
                  split
                  · refine KP_mk ?_
                    exact h15
                  · extract_lets -merge -useContext -underBinder +onlyGivenNames v16
                    try clear_value v16
                    split
                    · refine KP_mk ?_
                      exact h15
                    · extract_lets -merge -useContext -underBinder +onlyGivenNames v17
                      try clear_value v17
                      refine keeps_ite (P := KP (Keeps r)) ?_ ?_
                      · extract_lets -merge -useContext -underBinder +onlyGivenNames v18
                        have h19 : Keeps r v18 := by
                          subst v18
                          refine keeps_setSlot ?_
                          · exact h15
                        try clear_value v18
                        refine keeps_ite (P := KP (Keeps r)) ?_ ?_
                        · refine KP_mk ?_
                          refine keeps_fault ?_
                          · exact h19
                        · refine KP_mk ?_
                          refine keeps_queueCommand ?_
                          · exact h19
                      · refine KP_mk ?_
                        refine keeps_setSlot ?_
                        · exact h15

theorem keeps_execOpCommand {a1 a2} (g2 : Keeps r a2) : KN (Keeps r) (Sys2Proof.Machine.execOpCommand a1 a2) := by
  unfold Sys2Proof.Machine.execOpCommand
  refine KN_next ?_
  refine keeps_settleWork ?_
  · refine keeps_receive ?_ ?_
    · intro _ _ _ h1
      refine keeps_commandAct ?_
      · exact h1
    · exact g2

theorem keeps_execRemoteCommandAccept {a1 a2 a3} (g3 : Keeps r a3) : KN (Keeps r) (Sys2Proof.Machine.execRemoteCommandAccept a1 a2 a3) := by
  unfold Sys2Proof.Machine.execRemoteCommandAccept
  refine KN_next ?_
  split
  · exact g3
  · split
    · refine keeps_ite (P := Keeps r) ?_ ?_
      · exact g3
      · split
        · rename_i q1
          have h2 : Keeps r _ := KP_of q1 (by
            refine keeps_takeOid ?_
            · exact g3
            )
          extract_lets -merge -useContext -underBinder +onlyGivenNames v3
          have h4 : Keeps r v3 := by
            subst v3
            refine keeps_countFetch ?_
            · refine keeps_setInst ?_
              · exact h2
          try clear_value v3
          refine keeps_putFetched ?_
          · exact keeps_same h4 rfl

theorem keeps_placeOutput {a1 a2 a3 a4} (g4 : Keeps r a4) : Keeps r (Sys2Proof.Machine.placeOutput a1 a2 a3 a4) := by
  unfold Sys2Proof.Machine.placeOutput
  split
  · exact g4
  · extract_lets -merge -useContext -underBinder +onlyGivenNames v1
    try clear_value v1
    extract_lets -merge -useContext -underBinder +onlyGivenNames _ v2
    have h3 : Keeps r v2 := by
      subst v2
      exact keeps_same g4 rfl
    try clear_value v2
    refine keeps_ite (P := Keeps r) ?_ ?_
    · split
      · exact h3
      · refine keeps_regionWriteP ?_
        · exact h3
    · refine keeps_emit ?_
      · exact h3

theorem keeps_execLoadData {a1 a2} (g2 : Keeps r a2) : KN (Keeps r) (Sys2Proof.Machine.execLoadData a1 a2) := by
  unfold Sys2Proof.Machine.execLoadData
  refine KN_next ?_
  refine keeps_settleWork ?_
  · refine keeps_receive ?_ ?_
    · intro _ _ _ h1
      beta_reduce
      split
      · refine KP_mk ?_
        exact h1
      · split
        · rename_i q2
          have h3 : Keeps r _ := KP_of q2 (by
            refine keeps_ite (P := KP (Keeps r)) ?_ ?_
            · refine keeps_protCheck ?_
              · exact h1
            · refine KP_mk ?_
              exact h1
            )
          refine KP_mk ?_
          refine keeps_endOp ?_
          · exact h3
        · rename_i q4
          have h5 : Keeps r _ := KP_of q4 (by
            refine keeps_ite (P := KP (Keeps r)) ?_ ?_
            · refine keeps_protCheck ?_
              · exact h1
            · refine KP_mk ?_
              exact h1
            )
          extract_lets -merge -useContext -underBinder +onlyGivenNames v6
          try clear_value v6
          extract_lets -merge -useContext -underBinder +onlyGivenNames v7
          have h8 : Keeps r v7 := by
            subst v7
            split
            · refine keeps_placeOutput ?_
              · exact h5
            · refine keeps_fillPiece ?_
              · exact h5
            · exact h5
          try clear_value v7
          refine KP_mk ?_
          refine keeps_endOp ?_
          · exact h8
    · exact g2

theorem keeps_execAtomicOld {a1 a2} (g2 : Keeps r a2) : KN (Keeps r) (Sys2Proof.Machine.execAtomicOld a1 a2) := by
  unfold Sys2Proof.Machine.execAtomicOld
  refine KN_next ?_
  refine keeps_settleWork ?_
  · refine keeps_receive ?_ ?_
    · intro _ _ _ h1
      beta_reduce
      split
      · refine KP_mk ?_
        exact h1
      · split
        · rename_i q2
          have h3 : Keeps r _ := KP_of q2 (by
            refine keeps_ite (P := KP (Keeps r)) ?_ ?_
            · refine keeps_protCheck ?_
              · exact h1
            · refine KP_mk ?_
              exact h1
            )
          refine KP_mk ?_
          refine keeps_endOp ?_
          · exact h3
        · rename_i q4
          have h5 : Keeps r _ := KP_of q4 (by
            refine keeps_ite (P := KP (Keeps r)) ?_ ?_
            · refine keeps_protCheck ?_
              · exact h1
            · refine KP_mk ?_
              exact h1
            )
          refine KP_mk ?_
          refine keeps_endOp ?_
          · exact h5
    · exact g2

theorem keeps_execOpFault {a1 a2} (g2 : Keeps r a2) : KN (Keeps r) (Sys2Proof.Machine.execOpFault a1 a2) := by
  unfold Sys2Proof.Machine.execOpFault
  refine KN_next ?_
  refine keeps_settleWork ?_
  · refine keeps_receive ?_ ?_
    · intro _ _ _ h1
      beta_reduce
      split
      · refine KP_mk ?_
        exact h1
      · refine KP_mk ?_
        refine keeps_endOp ?_
        · exact h1
    · exact g2

theorem keeps_endMcast {a1 a2} (g2 : Keeps r a2) : Keeps r (Sys2Proof.Machine.endMcast a1 a2) := by
  unfold Sys2Proof.Machine.endMcast
  split
  · exact g2
  · extract_lets -merge -useContext -underBinder +onlyGivenNames v1
    try clear_value v1
    extract_lets -merge -useContext -underBinder +onlyGivenNames v2
    try clear_value v2
    extract_lets -merge -useContext -underBinder +onlyGivenNames v3
    try clear_value v3
    extract_lets -merge -useContext -underBinder +onlyGivenNames v4
    try clear_value v4
    extract_lets -merge -useContext -underBinder +onlyGivenNames v5
    try clear_value v5
    extract_lets -merge -useContext -underBinder +onlyGivenNames v6
    have h7 : Keeps r v6 := by
      subst v6
      refine keeps_finish ?_
      · exact g2
    try clear_value v6
    refine keeps_ite (P := Keeps r) ?_ ?_
    · exact keeps_same h7 rfl
    · exact keeps_same h7 rfl

theorem keeps_mcastAnswer {a1 a2 a3 a4} (g4 : Keeps r a4) : Keeps r (Sys2Proof.Machine.mcastAnswer a1 a2 a3 a4) := by
  unfold Sys2Proof.Machine.mcastAnswer
  extract_lets -merge -useContext -underBinder +onlyGivenNames v1
  have h2 : Keeps r v1 := by
    subst v1
    refine keeps_mcastNote ?_
    · exact g4
  try clear_value v1
  split
  · exact h2
  · refine keeps_ite (P := Keeps r) ?_ ?_
    · exact h2
    · refine keeps_ite (P := Keeps r) ?_ ?_
      · refine keeps_endMcast ?_
        · exact h2
      · refine keeps_raise ?_
        · exact keeps_same h2 rfl

theorem keeps_execCommandDoneMsg {a1 a2} (g2 : Keeps r a2) : KN (Keeps r) (Sys2Proof.Machine.execCommandDoneMsg a1 a2) := by
  unfold Sys2Proof.Machine.execCommandDoneMsg
  refine KN_next ?_
  refine keeps_settleWork ?_
  · refine keeps_receive ?_ ?_
    · intro _ _ _ h1
      beta_reduce
      split
      · split
        · rename_i q2
          have h3 : Keeps r _ := KP_of q2 (by
            refine keeps_ite (P := KP (Keeps r)) ?_ ?_
            · refine keeps_protCheck ?_
              · exact h1
            · refine KP_mk ?_
              exact h1
            )
          refine KP_mk ?_
          refine keeps_endOp ?_
          · exact h3
        · rename_i q4
          have h5 : Keeps r _ := KP_of q4 (by
            refine keeps_ite (P := KP (Keeps r)) ?_ ?_
            · refine keeps_protCheck ?_
              · exact h1
            · refine KP_mk ?_
              exact h1
            )
          extract_lets -merge -useContext -underBinder +onlyGivenNames v6
          try clear_value v6
          refine keeps_ite (P := KP (Keeps r)) ?_ ?_
          · refine KP_mk ?_
            refine keeps_setSlot ?_
            · exact h5
          · extract_lets -merge -useContext -underBinder +onlyGivenNames v7
            have h8 : Keeps r v7 := by
              subst v7
              refine keeps_setSlot ?_
              · exact h5
            try clear_value v7
            extract_lets -merge -useContext -underBinder +onlyGivenNames v9
            try clear_value v9
            split
            · extract_lets -merge -useContext -underBinder +onlyGivenNames _ v10
              have h11 : Keeps r v10 := by
                subst v10
                exact keeps_same h8 rfl
              try clear_value v10
              refine KP_mk ?_
              refine keeps_finish ?_
              · exact h11
            · refine KP_mk ?_
              refine keeps_mcastAnswer ?_
              · refine keeps_endOp ?_
                · exact h8
            · refine KP_mk ?_
              refine keeps_endOp ?_
              · exact h8
      · refine KP_mk ?_
        exact h1
    · exact g2

theorem keeps_execRtoTimeout {a1 a2 a3 a4} (g4 : Keeps r a4) : KN (Keeps r) (Sys2Proof.Machine.execRtoTimeout a1 a2 a3 a4) := by
  unfold Sys2Proof.Machine.execRtoTimeout
  extract_lets -merge -useContext -underBinder +onlyGivenNames v1
  try clear_value v1
  refine KN_next ?_
  split
  · exact g4
  · refine keeps_ite (P := Keeps r) ?_ ?_
    · exact g4
    · refine keeps_ite (P := Keeps r) ?_ ?_
      · refine keeps_peerUnreachable ?_
        · exact g4
      · refine keeps_resendFlow ?_
        · refine keeps_setSlot ?_
          · exact g4

theorem keeps_execTransportAckTimer {a1 a2 a3 a4} (g4 : Keeps r a4) : KN (Keeps r) (Sys2Proof.Machine.execTransportAckTimer a1 a2 a3 a4) := by
  unfold Sys2Proof.Machine.execTransportAckTimer
  extract_lets -merge -useContext -underBinder +onlyGivenNames v1
  try clear_value v1
  refine KN_next ?_
  split
  · exact g4
  · split
    · exact g4
    · refine keeps_ite (P := Keeps r) ?_ ?_
      · refine keeps_sendAck ?_
        · exact g4
      · exact g4

theorem keeps_execSlotRecycle {a1 a2 a3 a4} (g4 : Keeps r a4) : KN (Keeps r) (Sys2Proof.Machine.execSlotRecycle a1 a2 a3 a4) := by
  unfold Sys2Proof.Machine.execSlotRecycle
  extract_lets -merge -useContext -underBinder +onlyGivenNames v1
  try clear_value v1
  refine KN_next ?_
  split
  · exact g4
  · refine keeps_ite (P := Keeps r) ?_ ?_
    · refine keeps_retrySlots ?_
      · refine keeps_recycleSlot ?_
        · exact g4
    · exact g4

theorem keeps_execTombstoneExpiry {a1 a2 a3 a4} (g4 : Keeps r a4) : KN (Keeps r) (Sys2Proof.Machine.execTombstoneExpiry a1 a2 a3 a4) := by
  unfold Sys2Proof.Machine.execTombstoneExpiry
  extract_lets -merge -useContext -underBinder +onlyGivenNames v1
  try clear_value v1
  refine KN_next ?_
  split
  · exact g4
  · refine keeps_ite (P := Keeps r) ?_ ?_
    · exact keeps_same g4 rfl
    · exact g4

theorem keeps_execFlagSend {a1 a2} (g2 : Keeps r a2) : KN (Keeps r) (Sys2Proof.Machine.execFlagSend a1 a2) := by
  unfold Sys2Proof.Machine.execFlagSend
  refine KN_next ?_
  split
  · split
    · refine keeps_ite (P := Keeps r) ?_ ?_
      · refine keeps_sendData ?_
        · exact keeps_same g2 rfl
      · exact g2
    · extract_lets -merge -useContext -underBinder +onlyGivenNames v1
      try clear_value v1
      extract_lets -merge -useContext -underBinder +onlyGivenNames v2
      have h3 : Keeps r v2 := by
        subst v2
        refine keeps_raise ?_
        · exact g2
      try clear_value v2
      split
      · extract_lets -merge -useContext -underBinder +onlyGivenNames _ v4
        have h5 : Keeps r v4 := by
          subst v4
          refine keeps_flagsNote ?_
          · exact keeps_same h3 rfl
        try clear_value v4
        refine keeps_settleWork ?_
        · refine keeps_finish ?_
          · exact h5
      · refine keeps_endOp ?_
        · exact h3
  · exact g2

theorem keeps_runThen {a1 a2 a3 a4} (g4 : Keeps r a4) : Keeps r (Sys2Proof.Machine.runThen a1 a2 a3 a4) := by
  unfold Sys2Proof.Machine.runThen
  split
  · exact keeps_sendLine g4
  · exact keeps_emberWriteP g4
  · rename_i o
    have hs := keeps_standing (a1 := slotKey o.frame.dstCtx o.frame.srcNode o.frame.srcCtx) (a2 := o.frame) g4
    have hact : ∀ b1 b2 b3, Keeps r b3 → KP (Keeps r) ((match o.frame.op with | 0x01 => loadAct | 0x02 => storeAct | _ => atomicAct) b1 b2 b3) := by
      intro b1 b2 b3 h
      generalize o.frame.op = n
      match n with
      | 0x01 => exact keeps_loadAct h
      | 0x02 => exact keeps_storeAct h
      | 0 | (_ + 3) => exact keeps_atomicAct h
    dsimp only
    split
    · rename_i q
      exact keeps_actOn hact (KP_of q hs)
    · rename_i q
      exact KP_of q hs

theorem keeps_serveLine {a1 a2 a3 a4 a5} (g5 : Keeps r a5) : Keeps r (Sys2Proof.Machine.serveLine a1 a2 a3 a4 a5) := by
  unfold Sys2Proof.Machine.serveLine
  split
  · exact g5
  · extract_lets -merge -useContext -underBinder +onlyGivenNames v1
    try clear_value v1
    extract_lets -merge -useContext -underBinder +onlyGivenNames v2
    try clear_value v2
    refine keeps_ite (P := Keeps r) ?_ ?_
    · refine keeps_runThen ?_
      · exact g5
    · refine keeps_waitLine ?_
      · exact g5

theorem keeps_lineAnswer {a1 a2 a3 a4} (g4 : Keeps r a4) : Keeps r (Sys2Proof.Machine.lineAnswer a1 a2 a3 a4) := by
  unfold Sys2Proof.Machine.lineAnswer
  extract_lets -merge -useContext -underBinder +onlyGivenNames v1
  try clear_value v1
  split
  · exact g4
  · extract_lets -merge -useContext -underBinder +onlyGivenNames v2
    try clear_value v2
    refine keeps_ite (P := Keeps r) ?_ ?_
    · exact keeps_same g4 rfl
    · extract_lets -merge -useContext -underBinder +onlyGivenNames _ v3
      have h4 : Keeps r v3 := by
        subst v3
        refine keeps_runThen ?_
        · exact keeps_same g4 rfl
      try clear_value v3
      refine keeps_foldl (P := Keeps r) (fun _ _ h5 => ?_) ?_
      · refine keeps_serveLine ?_
        · exact h5
      · exact h4

theorem keeps_cohAct {a1 a2 a3 a4} (g1 : ∀ b1 b2 b3 b4, Keeps r b4 → Keeps r (a1 b1 b2 b3 b4)) (g4 : Keeps r a4) : KP (Keeps r) (Sys2Proof.Machine.cohAct a1 a2 a3 a4) := by
  unfold Sys2Proof.Machine.cohAct
  refine keeps_ite (P := KP (Keeps r)) ?_ ?_
  · refine KP_mk ?_
    refine keeps_fault ?_
    · exact g4
  · refine KP_mk ?_
    refine g1 _ _ _ _ ?_
    · exact g4

theorem keeps_writeLine {a1 a2 a3 a4} (g4 : Keeps r a4) : Keeps r (Sys2Proof.Machine.writeLine a1 a2 a3 a4) := by
  unfold Sys2Proof.Machine.writeLine
  split
  · exact g4
  · refine keeps_emberWrite ?_
    · exact g4

theorem keeps_execCohGetS {a1 a2} (g2 : Keeps r a2) : KN (Keeps r) (Sys2Proof.Machine.execCohGetS a1 a2) := by
  unfold Sys2Proof.Machine.execCohGetS
  refine KN_next ?_
  refine keeps_settleWork ?_
  · refine keeps_receive ?_ ?_
    · intro _ _ _ h1
      refine keeps_cohAct ?_ ?_
      · intro _ _ _ _ h2
        beta_reduce
        refine keeps_ite (P := Keeps r) ?_ ?_
        · refine keeps_serveLine ?_
          · exact h2
        · exact h2
      · exact h1
    · exact g2

theorem keeps_execCohGetM {a1 a2} (g2 : Keeps r a2) : KN (Keeps r) (Sys2Proof.Machine.execCohGetM a1 a2) := by
  unfold Sys2Proof.Machine.execCohGetM
  refine KN_next ?_
  refine keeps_settleWork ?_
  · refine keeps_receive ?_ ?_
    · intro _ _ _ h1
      refine keeps_cohAct ?_ ?_
      · intro _ _ _ _ h2
        beta_reduce
        refine keeps_ite (P := Keeps r) ?_ ?_
        · refine keeps_serveLine ?_
          · exact h2
        · exact h2
      · exact h1
    · exact g2

theorem keeps_execCohPutM {a1 a2} (g2 : Keeps r a2) : KN (Keeps r) (Sys2Proof.Machine.execCohPutM a1 a2) := by
  unfold Sys2Proof.Machine.execCohPutM
  refine KN_next ?_
  refine keeps_settleWork ?_
  · refine keeps_receive ?_ ?_
    · intro _ _ _ h1
      refine keeps_cohAct ?_ ?_
      · intro _ _ _ _ h2
        beta_reduce
        refine keeps_ite (P := Keeps r) ?_ ?_
        · exact h2
        · refine keeps_lineAnswer ?_
          · refine keeps_setDir ?_
            · refine keeps_writeLine ?_
              · exact h2
      · exact h1
    · exact g2

theorem keeps_execCohWriteBack {a1 a2} (g2 : Keeps r a2) : KN (Keeps r) (Sys2Proof.Machine.execCohWriteBack a1 a2) := by
  unfold Sys2Proof.Machine.execCohWriteBack
  refine KN_next ?_
  refine keeps_settleWork ?_
  · refine keeps_receive ?_ ?_
    · intro _ _ _ h1
      refine keeps_cohAct ?_ ?_
      · intro _ _ _ _ h2
        beta_reduce
        split
        · exact h2
        · refine keeps_lineAnswer ?_
          · refine keeps_setDir ?_
            · refine keeps_writeLine ?_
              · exact h2
      · exact h1
    · exact g2

theorem keeps_dropSharer {a1 a2 a3 a4 a5} (g5 : Keeps r a5) : Keeps r (Sys2Proof.Machine.dropSharer a1 a2 a3 a4 a5) := by
  unfold Sys2Proof.Machine.dropSharer
  extract_lets -merge -useContext -underBinder +onlyGivenNames v1
  try clear_value v1
  refine keeps_ite (P := Keeps r) ?_ ?_
  · refine keeps_setDir ?_
    · exact g5
  · exact g5

theorem keeps_execCohInvAck {a1 a2} (g2 : Keeps r a2) : KN (Keeps r) (Sys2Proof.Machine.execCohInvAck a1 a2) := by
  unfold Sys2Proof.Machine.execCohInvAck
  refine KN_next ?_
  refine keeps_settleWork ?_
  · refine keeps_receive ?_ ?_
    · intro _ _ _ h1
      refine keeps_cohAct ?_ ?_
      · intro _ _ _ _ h2
        beta_reduce
        split
        · exact h2
        · refine keeps_lineAnswer ?_
          · refine keeps_dropSharer ?_
            · exact h2
      · exact h1
    · exact g2

theorem keeps_dropLine {a1 a2 a3 a4} (g4 : Keeps r a4) : Keeps r (Sys2Proof.Machine.dropLine a1 a2 a3 a4) := by
  unfold Sys2Proof.Machine.dropLine
  exact keeps_same g4 rfl

theorem keeps_giveUpLine {a1 a2 a3} (g3 : Keeps r a3) : Keeps r (Sys2Proof.Machine.giveUpLine a1 a2 a3) := by
  unfold Sys2Proof.Machine.giveUpLine
  extract_lets -merge -useContext -underBinder +onlyGivenNames v1
  have h2 : Keeps r v1 := by
    subst v1
    refine keeps_dropLine ?_
    · exact g3
  try clear_value v1
  refine keeps_ite (P := Keeps r) ?_ ?_
  · exact h2
  · exact keeps_same h2 rfl

theorem keeps_execCohRecall {a1 a2} (g2 : Keeps r a2) : KN (Keeps r) (Sys2Proof.Machine.execCohRecall a1 a2) := by
  unfold Sys2Proof.Machine.execCohRecall
  refine KN_next ?_
  refine keeps_settleWork ?_
  · refine keeps_receive ?_ ?_
    · intro _ _ _ h1
      refine keeps_cohAct ?_ ?_
      · intro _ _ _ _ h2
        beta_reduce
        split
        · exact h2
        · refine keeps_ite (P := Keeps r) ?_ ?_
          · exact h2
          · refine keeps_sendCoh ?_
            · refine keeps_giveUpLine ?_
              · exact h2
      · exact h1
    · exact g2

theorem keeps_execCohInv {a1 a2} (g2 : Keeps r a2) : KN (Keeps r) (Sys2Proof.Machine.execCohInv a1 a2) := by
  unfold Sys2Proof.Machine.execCohInv
  refine KN_next ?_
  refine keeps_settleWork ?_
  · refine keeps_receive ?_ ?_
    · intro _ _ _ h1
      refine keeps_cohAct ?_ ?_
      · intro _ _ _ _ h2
        beta_reduce
        refine keeps_sendCoh ?_
        · refine keeps_dropLine ?_
          · exact h2
      · exact h1
    · exact g2

theorem keeps_applyCached {a1 a2} (g2 : Keeps r a2) : Keeps r (Sys2Proof.Machine.applyCached a1 a2) := by
  unfold Sys2Proof.Machine.applyCached
  extract_lets -merge -useContext -underBinder +onlyGivenNames v1
  have h2 : ∀ a3, Keeps r a3 → Keeps r (v1 a3) := by
    subst v1
    intro _ h4
    beta_reduce
    exact keeps_same h4 rfl
  try clear_value v1
  split
  · exact g2
  · refine keeps_ite (P := Keeps r) ?_ ?_
    · refine h2 _ ?_
      · exact g2
    · refine keeps_ite (P := Keeps r) ?_ ?_
      · exact g2
      · extract_lets -merge -useContext -underBinder +onlyGivenNames v5
        try clear_value v5
        extract_lets -merge -useContext -underBinder +onlyGivenNames v6
        try clear_value v6
        extract_lets -merge -useContext -underBinder +onlyGivenNames v7
        have h8 : Keeps r v7 := by
          subst v7
          refine keeps_dropLine ?_
          · exact g2
        try clear_value v7
        refine h2 _ ?_
        · exact keeps_same h8 rfl

theorem keeps_evictLine {a1 a2} (g2 : Keeps r a2) : Keeps r (Sys2Proof.Machine.evictLine a1 a2) := by
  unfold Sys2Proof.Machine.evictLine
  extract_lets -merge -useContext -underBinder +onlyGivenNames v1
  try clear_value v1
  refine keeps_ite (P := Keeps r) ?_ ?_
  · exact g2
  · split
    · exact g2
    · extract_lets -merge -useContext -underBinder +onlyGivenNames v2
      have h3 : Keeps r v2 := by
        subst v2
        refine keeps_dropLine ?_
        · exact g2
      try clear_value v2
      refine keeps_ite (P := Keeps r) ?_ ?_
      · refine keeps_sendCoh ?_
        · exact h3
      · exact h3

theorem keeps_installLine {a1 a2} (g2 : Keeps r a2) : Keeps r (Sys2Proof.Machine.installLine a1 a2) := by
  unfold Sys2Proof.Machine.installLine
  extract_lets -merge -useContext -underBinder +onlyGivenNames v1
  have h2 : Keeps r v1 := by
    subst v1
    refine keeps_evictLine ?_
    · refine keeps_dropLine ?_
      · exact g2
  try clear_value v1
  extract_lets -merge -useContext -underBinder +onlyGivenNames _ v3
  have h4 : Keeps r v3 := by
    subst v3
    exact keeps_same h2 rfl
  try clear_value v3
  refine keeps_foldl (P := Keeps r) (fun _ _ h5 => ?_) ?_
  · refine keeps_applyCached ?_
    · exact h5
  · exact h4

theorem keeps_execCohData {a1 a2} (g2 : Keeps r a2) : KN (Keeps r) (Sys2Proof.Machine.execCohData a1 a2) := by
  unfold Sys2Proof.Machine.execCohData
  refine KN_next ?_
  refine keeps_settleWork ?_
  · refine keeps_receive ?_ ?_
    · intro _ _ _ h1
      refine keeps_cohAct ?_ ?_
      · intro _ _ _ _ h2
        beta_reduce
        refine keeps_installLine ?_
        · exact h2
      · exact h1
    · exact g2

theorem keeps_sealed {a1 a2 a3} (g3 : Keeps r a3) : KP (Keeps r) (Sys2Proof.Machine.sealed a1 a2 a3) := by
  unfold Sys2Proof.Machine.sealed
  split
  · refine KP_mk ?_
    exact g3
  · split
    · rename_i q1
      have h2 : KP (Keeps r) _ := KO_of q1 (by
        refine keeps_sealPayload ?_
        · exact g3
        )
      have h2 : Keeps r _ := h2
      refine KP_mk ?_
      exact h2
    · refine KP_mk ?_
      exact g3

theorem keeps_issueOp {a1 a2 a3 a4 a5} (g5 : Keeps r a5) : Keeps r (Sys2Proof.Machine.issueOp a1 a2 a3 a4 a5) := by
  unfold Sys2Proof.Machine.issueOp
  split
  · rename_i q1
    have h2 : Keeps r _ := KP_of q1 (by
      refine keeps_takeTag ?_
      · exact g5
      )
    split
    · rename_i q3
      have h4 : Keeps r _ := KP_of q3 (by
        refine keeps_sealed ?_
        · exact h2
        )
      refine keeps_sendData ?_
      · exact h4

theorem keeps_sending {a1 a2 a3 a4 a5 a6 a7} (g6 : Keeps r a6) (g7 : ∀ b1 b2 b3, Keeps r b3 → KP (Keeps r) (a7 b1 b2 b3)) : KP (Keeps r) (Sys2Proof.Machine.sending a1 a2 a3 a4 a5 a6 a7) := by
  unfold Sys2Proof.Machine.sending
  extract_lets -merge -useContext -underBinder +onlyGivenNames v1
  try clear_value v1
  extract_lets -merge -useContext -underBinder +onlyGivenNames v2
  try clear_value v2
  refine keeps_ite (P := KP (Keeps r)) ?_ ?_
  · refine KP_mk ?_
    exact g6
  · refine keeps_ite (P := KP (Keeps r)) ?_ ?_
    · refine KP_mk ?_
      exact g6
    · split
      · refine KP_mk ?_
        exact g6
      · refine keeps_ite (P := KP (Keeps r)) ?_ ?_
        · extract_lets -merge -useContext -underBinder +onlyGivenNames v3
          have h4 : Keeps r v3 := by
            subst v3
            refine keeps_tagsExhausted ?_
            · exact g6
          try clear_value v3
          split
          · rename_i q5
            have h6 : Keeps r _ := KP_of q5 (by
              refine keeps_fresh ?_
              · exact h4
              )
            refine KP_mk ?_
            exact h6
        · refine g7 _ _ _ ?_
          · exact g6

theorem keeps_beginXfer {a1 a2 a3 a4} (g4 : Keeps r a4) : Keeps r (Sys2Proof.Machine.beginXfer a1 a2 a3 a4) := by
  unfold Sys2Proof.Machine.beginXfer
  extract_lets -merge -useContext -underBinder +onlyGivenNames _ v1
  have h2 : Keeps r v1 := by
    subst v1
    exact keeps_same g4 rfl
  try clear_value v1
  exact keeps_same h2 rfl

theorem keeps_putPieces {a1 a2 a3 a4 a5 a6} (g6 : Keeps r a6) : Keeps r (Sys2Proof.Machine.putPieces a1 a2 a3 a4 a5 a6) := by
  unfold Sys2Proof.Machine.putPieces
  refine keeps_foldl (P := Keeps r) (fun _ _ h1 => ?_) ?_
  · split
    · refine keeps_issueOp ?_
      · exact h1
  · exact g6

theorem keeps_getPieces {a1 a2 a3 a4 a5 a6} (g6 : Keeps r a6) : Keeps r (Sys2Proof.Machine.getPieces a1 a2 a3 a4 a5 a6) := by
  unfold Sys2Proof.Machine.getPieces
  refine keeps_foldl (P := Keeps r) (fun _ _ h1 => ?_) ?_
  · split
    · refine keeps_issueOp ?_
      · exact h1
  · exact g6

theorem keeps_execOlnenPut {a1 a2} (g2 : Keeps r a2) : KN (Keeps r) (Sys2Proof.Machine.execOlnenPut a1 a2) := by
  unfold Sys2Proof.Machine.execOlnenPut
  refine KN_next ?_
  refine keeps_settleWork ?_
  · refine keeps_runCmd ?_ ?_
    · intro _ _ _ h1
      beta_reduce
      extract_lets -merge -useContext -underBinder +onlyGivenNames v2
      try clear_value v2
      extract_lets -merge -useContext -underBinder +onlyGivenNames v3
      try clear_value v3
      extract_lets -merge -useContext -underBinder +onlyGivenNames v4
      try clear_value v4
      refine keeps_ite (P := KP (Keeps r)) ?_ ?_
      · refine KP_mk ?_
        exact h1
      · split
        · refine KP_mk ?_
          exact h1
        · refine keeps_ite (P := KP (Keeps r)) ?_ ?_
          · refine KP_mk ?_
            exact h1
          · extract_lets -merge -useContext -underBinder +onlyGivenNames v5
            try clear_value v5
            refine keeps_sending ?_ ?_
            · exact h1
            · intro _ _ _ h6
              beta_reduce
              extract_lets -merge -useContext -underBinder +onlyGivenNames v7
              have h8 : Keeps r v7 := by
                subst v7
                refine keeps_putPieces ?_
                · refine keeps_beginXfer ?_
                  · exact h6
              try clear_value v7
              refine keeps_ite (P := KP (Keeps r)) ?_ ?_
              · refine KP_mk ?_
                exact h8
              · refine KP_mk ?_
                exact h8
    · exact g2

theorem keeps_execOlnenGet {a1 a2} (g2 : Keeps r a2) : KN (Keeps r) (Sys2Proof.Machine.execOlnenGet a1 a2) := by
  unfold Sys2Proof.Machine.execOlnenGet
  refine KN_next ?_
  refine keeps_settleWork ?_
  · refine keeps_runCmd ?_ ?_
    · intro _ _ _ h1
      beta_reduce
      extract_lets -merge -useContext -underBinder +onlyGivenNames v2
      try clear_value v2
      extract_lets -merge -useContext -underBinder +onlyGivenNames v3
      try clear_value v3
      extract_lets -merge -useContext -underBinder +onlyGivenNames v4
      try clear_value v4
      refine keeps_ite (P := KP (Keeps r)) ?_ ?_
      · refine KP_mk ?_
        exact h1
      · split
        · refine KP_mk ?_
          exact h1
        · refine keeps_ite (P := KP (Keeps r)) ?_ ?_
          · refine KP_mk ?_
            exact h1
          · extract_lets -merge -useContext -underBinder +onlyGivenNames v5
            try clear_value v5
            refine keeps_sending ?_ ?_
            · exact h1
            · intro _ _ _ h6
              beta_reduce
              extract_lets -merge -useContext -underBinder +onlyGivenNames v7
              have h8 : Keeps r v7 := by
                subst v7
                refine keeps_getPieces ?_
                · refine keeps_beginXfer ?_
                  · exact h6
              try clear_value v7
              refine keeps_ite (P := KP (Keeps r)) ?_ ?_
              · refine KP_mk ?_
                exact h8
              · refine KP_mk ?_
                exact h8
    · exact g2

theorem keeps_execOlnenAtomic {a1 a2} (g2 : Keeps r a2) : KN (Keeps r) (Sys2Proof.Machine.execOlnenAtomic a1 a2) := by
  unfold Sys2Proof.Machine.execOlnenAtomic
  refine KN_next ?_
  refine keeps_settleWork ?_
  · refine keeps_runCmd ?_ ?_
    · intro _ _ _ h1
      beta_reduce
      extract_lets -merge -useContext -underBinder +onlyGivenNames v2
      try clear_value v2
      extract_lets -merge -useContext -underBinder +onlyGivenNames v3
      try clear_value v3
      extract_lets -merge -useContext -underBinder +onlyGivenNames v4
      try clear_value v4
      extract_lets -merge -useContext -underBinder +onlyGivenNames v5
      try clear_value v5
      refine keeps_ite (P := KP (Keeps r)) ?_ ?_
      · refine KP_mk ?_
        exact h1
      · split
        · refine KP_mk ?_
          exact h1
        · refine keeps_ite (P := KP (Keeps r)) ?_ ?_
          · refine KP_mk ?_
            exact h1
          · refine keeps_sending ?_ ?_
            · exact h1
            · intro _ _ _ h6
              beta_reduce
              extract_lets -merge -useContext -underBinder +onlyGivenNames _ v7
              have h8 : Keeps r v7 := by
                subst v7
                exact keeps_same h6 rfl
              try clear_value v7
              refine KP_mk ?_
              refine keeps_issueOp ?_
              · exact h8
    · exact g2

theorem keeps_holdFlag {a1 a2 a3 a4 a5 a6} (g6 : Keeps r a6) : Keeps r (Sys2Proof.Machine.holdFlag a1 a2 a3 a4 a5 a6) := by
  unfold Sys2Proof.Machine.holdFlag
  extract_lets -merge -useContext -underBinder +onlyGivenNames v1
  try clear_value v1
  split
  · rename_i q2
    have h3 : Keeps r _ := KP_of q2 (by
      refine keeps_takeTag ?_
      · exact g6
      )
    split
    · rename_i q4
      have h5 : Keeps r _ := KP_of q4 (by
        refine keeps_sealed ?_
        · exact h3
        )
      exact keeps_same h5 rfl

theorem keeps_execOlnenFlag {a1 a2} (g2 : Keeps r a2) : KN (Keeps r) (Sys2Proof.Machine.execOlnenFlag a1 a2) := by
  unfold Sys2Proof.Machine.execOlnenFlag
  refine KN_next ?_
  refine keeps_settleWork ?_
  · refine keeps_runCmd ?_ ?_
    · intro _ _ _ h1
      beta_reduce
      extract_lets -merge -useContext -underBinder +onlyGivenNames v2
      try clear_value v2
      extract_lets -merge -useContext -underBinder +onlyGivenNames v3
      try clear_value v3
      extract_lets -merge -useContext -underBinder +onlyGivenNames v4
      try clear_value v4
      refine keeps_ite (P := KP (Keeps r)) ?_ ?_
      · refine KP_mk ?_
        exact h1
      · refine keeps_ite (P := KP (Keeps r)) ?_ ?_
        · refine KP_mk ?_
          exact h1
        · split
          · refine KP_mk ?_
            exact h1
          · refine keeps_sending ?_ ?_
            · exact h1
            · intro _ _ _ h5
              beta_reduce
              extract_lets -merge -useContext -underBinder +onlyGivenNames _ v6
              have h7 : Keeps r v6 := by
                subst v6
                exact keeps_same h5 rfl
              try clear_value v6
              refine KP_mk ?_
              refine keeps_holdFlag ?_
              · exact h7
    · exact g2

theorem keeps_execOlnenMsg {a1 a2} (g2 : Keeps r a2) : KN (Keeps r) (Sys2Proof.Machine.execOlnenMsg a1 a2) := by
  unfold Sys2Proof.Machine.execOlnenMsg
  refine KN_next ?_
  refine keeps_settleWork ?_
  · refine keeps_runCmd ?_ ?_
    · intro _ _ _ h1
      beta_reduce
      extract_lets -merge -useContext -underBinder +onlyGivenNames v2
      try clear_value v2
      extract_lets -merge -useContext -underBinder +onlyGivenNames v3
      try clear_value v3
      refine keeps_ite (P := KP (Keeps r)) ?_ ?_
      · refine KP_mk ?_
        exact h1
      · refine keeps_ite (P := KP (Keeps r)) ?_ ?_
        · refine KP_mk ?_
          exact h1
        · split
          · refine KP_mk ?_
            exact h1
          · refine keeps_sending ?_ ?_
            · exact h1
            · intro _ _ _ h4
              beta_reduce
              extract_lets -merge -useContext -underBinder +onlyGivenNames _ v5
              have h6 : Keeps r v5 := by
                subst v5
                exact keeps_same h4 rfl
              try clear_value v5
              refine KP_mk ?_
              refine keeps_issueOp ?_
              · exact h6
    · exact g2

theorem keeps_issueMessage {a1 a2 a3 a4 a5 a6} (g6 : Keeps r a6) : Keeps r (Sys2Proof.Machine.issueMessage a1 a2 a3 a4 a5 a6) := by
  unfold Sys2Proof.Machine.issueMessage
  split
  · rename_i q1
    have h2 : Keeps r _ := KP_of q1 (by
      refine keeps_takeTag ?_
      · exact g6
      )
    split
    · rename_i q3
      have h4 : KP (Keeps r) _ := KO_of q3 (by
        refine keeps_messageFrames ?_
        · exact h2
        )
      have h4 : Keeps r _ := h4
      refine keeps_sendAll ?_
      · exact h4
    · exact h2

theorem keeps_execOlnenRemote {a1 a2} (g2 : Keeps r a2) : KN (Keeps r) (Sys2Proof.Machine.execOlnenRemote a1 a2) := by
  unfold Sys2Proof.Machine.execOlnenRemote
  refine KN_next ?_
  refine keeps_settleWork ?_
  · refine keeps_runCmd ?_ ?_
    · intro _ _ _ h1
      beta_reduce
      extract_lets -merge -useContext -underBinder +onlyGivenNames v2
      try clear_value v2
      extract_lets -merge -useContext -underBinder +onlyGivenNames v3
      try clear_value v3
      refine keeps_ite (P := KP (Keeps r)) ?_ ?_
      · refine KP_mk ?_
        exact h1
      · split
        · refine KP_mk ?_
          exact h1
        · refine keeps_ite (P := KP (Keeps r)) ?_ ?_
          · refine KP_mk ?_
            exact h1
          · refine keeps_sending ?_ ?_
            · exact h1
            · intro _ _ _ h4
              beta_reduce
              extract_lets -merge -useContext -underBinder +onlyGivenNames _ v5
              have h6 : Keeps r v5 := by
                subst v5
                exact keeps_same h4 rfl
              try clear_value v5
              refine KP_mk ?_
              refine keeps_issueMessage ?_
              · exact h6
    · exact g2

theorem keeps_closeWindows {a1 a2} (g2 : Keeps r a2) : Keeps r (Sys2Proof.Machine.closeWindows a1 a2) := by
  unfold Sys2Proof.Machine.closeWindows
  exact keeps_same g2 rfl

theorem keeps_execOlnenJobSet {a1 a2} (g2 : Keeps r a2) : KN (Keeps r) (Sys2Proof.Machine.execOlnenJobSet a1 a2) := by
  unfold Sys2Proof.Machine.execOlnenJobSet
  refine KN_next ?_
  refine keeps_runCmd ?_ ?_
  · intro _ _ _ h1
    beta_reduce
    extract_lets -merge -useContext -underBinder +onlyGivenNames v2
    try clear_value v2
    extract_lets -merge -useContext -underBinder +onlyGivenNames v3
    try clear_value v3
    extract_lets -merge -useContext -underBinder +onlyGivenNames v4
    try clear_value v4
    refine keeps_ite (P := KP (Keeps r)) ?_ ?_
    · refine KP_mk ?_
      exact h1
    · split
      · refine KP_mk ?_
        exact h1
      · refine keeps_ite (P := KP (Keeps r)) ?_ ?_
        · refine KP_mk ?_
          exact h1
        · split
          · refine KP_mk ?_
            exact h1
          · refine keeps_ite (P := KP (Keeps r)) ?_ ?_
            · refine KP_mk ?_
              exact h1
            · extract_lets -merge -useContext -underBinder +onlyGivenNames v5
              try clear_value v5
              refine keeps_ite (P := KP (Keeps r)) ?_ ?_
              · refine KP_mk ?_
                exact h1
              · split
                · rename_i q6
                  have h7 : Keeps r _ := KP_of q6 (by
                    refine keeps_judge ?_
                    · exact h1
                    )
                  refine keeps_ite (P := KP (Keeps r)) ?_ ?_
                  · refine KP_mk ?_
                    exact h7
                  · refine keeps_ite (P := KP (Keeps r)) ?_ ?_
                    · refine KP_mk ?_
                      refine keeps_closeWindows ?_
                      · exact keeps_same h7 rfl
                    · refine KP_mk ?_
                      exact keeps_same h7 rfl
  · exact g2

theorem keeps_execOlnenWindowOpen {a1 a2} (g2 : Keeps r a2) : KN (Keeps r) (Sys2Proof.Machine.execOlnenWindowOpen a1 a2) := by
  unfold Sys2Proof.Machine.execOlnenWindowOpen
  refine KN_next ?_
  refine keeps_runCmd ?_ ?_
  · intro _ _ _ h1
    beta_reduce
    extract_lets -merge -useContext -underBinder +onlyGivenNames v2
    try clear_value v2
    extract_lets -merge -useContext -underBinder +onlyGivenNames v3
    try clear_value v3
    refine keeps_ite (P := KP (Keeps r)) ?_ ?_
    · refine KP_mk ?_
      exact h1
    · split
      · refine KP_mk ?_
        exact h1
      · refine keeps_ite (P := KP (Keeps r)) ?_ ?_
        · refine KP_mk ?_
          exact h1
        · split
          · refine KP_mk ?_
            exact h1
          · refine keeps_ite (P := KP (Keeps r)) ?_ ?_
            · refine KP_mk ?_
              exact h1
            · refine keeps_ite (P := KP (Keeps r)) ?_ ?_
              · refine KP_mk ?_
                exact h1
              · refine keeps_ite (P := KP (Keeps r)) ?_ ?_
                · refine KP_mk ?_
                  exact h1
                · split
                  · refine KP_mk ?_
                    exact h1
                  · refine KP_mk ?_
                    exact h1
                  · extract_lets -merge -useContext -underBinder +onlyGivenNames v4
                    try clear_value v4
                    refine KP_mk ?_
                    exact keeps_same h1 rfl
  · exact g2

theorem keeps_execOlnenWindowClose {a1 a2} (g2 : Keeps r a2) : KN (Keeps r) (Sys2Proof.Machine.execOlnenWindowClose a1 a2) := by
  unfold Sys2Proof.Machine.execOlnenWindowClose
  refine KN_next ?_
  refine keeps_runCmd ?_ ?_
  · intro _ _ _ h1
    beta_reduce
    refine keeps_ite (P := KP (Keeps r)) ?_ ?_
    · refine KP_mk ?_
      exact h1
    · split
      · refine KP_mk ?_
        exact h1
      · refine keeps_ite (P := KP (Keeps r)) ?_ ?_
        · refine KP_mk ?_
          exact h1
        · refine KP_mk ?_
          refine keeps_closeWindows ?_
          · exact h1
  · exact g2

theorem keeps_execOlnenCounterAlloc {a1 a2} (g2 : Keeps r a2) : KN (Keeps r) (Sys2Proof.Machine.execOlnenCounterAlloc a1 a2) := by
  unfold Sys2Proof.Machine.execOlnenCounterAlloc
  refine KN_next ?_
  refine keeps_runCmd ?_ ?_
  · intro _ _ _ h1
    beta_reduce
    extract_lets -merge -useContext -underBinder +onlyGivenNames v2
    try clear_value v2
    extract_lets -merge -useContext -underBinder +onlyGivenNames v3
    try clear_value v3
    extract_lets -merge -useContext -underBinder +onlyGivenNames v4
    try clear_value v4
    extract_lets -merge -useContext -underBinder +onlyGivenNames v5
    try clear_value v5
    refine keeps_ite (P := KP (Keeps r)) ?_ ?_
    · refine KP_mk ?_
      exact h1
    · refine keeps_ite (P := KP (Keeps r)) ?_ ?_
      · extract_lets -merge -useContext -underBinder +onlyGivenNames v6
        try clear_value v6
        refine keeps_ite (P := KP (Keeps r)) ?_ ?_
        · refine KP_mk ?_
          exact h1
        · refine keeps_ite (P := KP (Keeps r)) ?_ ?_
          · refine KP_mk ?_
            exact h1
          · extract_lets -merge -useContext -underBinder +onlyGivenNames v7
            try clear_value v7
            refine KP_mk ?_
            exact keeps_same h1 rfl
      · split
        · refine KP_mk ?_
          exact h1
        · extract_lets -merge -useContext -underBinder +onlyGivenNames _ v8
          have h9 : Keeps r v8 := by
            subst v8
            exact keeps_same h1 rfl
          try clear_value v8
          refine KP_mk ?_
          exact h9
  · exact g2

theorem keeps_execOlnenCounterWait {a1 a2} (g2 : Keeps r a2) : KN (Keeps r) (Sys2Proof.Machine.execOlnenCounterWait a1 a2) := by
  unfold Sys2Proof.Machine.execOlnenCounterWait
  refine KN_next ?_
  refine keeps_runCmd ?_ ?_
  · intro _ _ _ h1
    beta_reduce
    extract_lets -merge -useContext -underBinder +onlyGivenNames v2
    try clear_value v2
    refine keeps_ite (P := KP (Keeps r)) ?_ ?_
    · refine KP_mk ?_
      exact h1
    · split
      · refine KP_mk ?_
        exact h1
      · extract_lets -merge -useContext -underBinder +onlyGivenNames v3
        try clear_value v3
        extract_lets -merge -useContext -underBinder +onlyGivenNames v4
        have h5 : Keeps r v4 := by
          subst v4
          refine keeps_hubRead ?_
          · exact h1
        try clear_value v4
        refine keeps_ite (P := KP (Keeps r)) ?_ ?_
        · refine KP_mk ?_
          exact h5
        · refine keeps_ite (P := KP (Keeps r)) ?_ ?_
          · refine KP_mk ?_
            exact h5
          · refine KP_mk ?_
            exact keeps_same h5 rfl
  · exact g2

theorem keeps_execCounterWaitTimeout {a1 a2 a3} (g3 : Keeps r a3) : KN (Keeps r) (Sys2Proof.Machine.execCounterWaitTimeout a1 a2 a3) := by
  unfold Sys2Proof.Machine.execCounterWaitTimeout
  refine KN_next ?_
  split
  · exact g3
  · split
    · exact g3
    · refine keeps_ite (P := Keeps r) ?_ ?_
      · exact g3
      · refine keeps_finish ?_
        · exact keeps_same g3 rfl

theorem keeps_setStook {a1 a2 a3} (g3 : Keeps r a3) : Keeps r (Sys2Proof.Machine.setStook a1 a2 a3) := by
  unfold Sys2Proof.Machine.setStook
  extract_lets -merge -useContext -underBinder +onlyGivenNames _ _ v1
  have h2 : Keeps r v1 := by
    subst v1
    exact keeps_same g3 rfl
  try clear_value v1
  refine keeps_foldl (P := Keeps r) (fun _ _ h3 => ?_) ?_
  · refine keeps_ite (P := Keeps r) ?_ ?_
    · exact h3
    · refine keeps_sendReverse ?_
      · exact h3
  · exact h2

theorem keeps_execOlnenStookSet {a1 a2} (g2 : Keeps r a2) : KN (Keeps r) (Sys2Proof.Machine.execOlnenStookSet a1 a2) := by
  unfold Sys2Proof.Machine.execOlnenStookSet
  refine KN_next ?_
  refine keeps_runCmd ?_ ?_
  · intro _ _ _ h1
    beta_reduce
    extract_lets -merge -useContext -underBinder +onlyGivenNames v2
    try clear_value v2
    extract_lets -merge -useContext -underBinder +onlyGivenNames v3
    try clear_value v3
    extract_lets -merge -useContext -underBinder +onlyGivenNames v4
    try clear_value v4
    refine keeps_ite (P := KP (Keeps r)) ?_ ?_
    · refine KP_mk ?_
      exact h1
    · split
      · refine KP_mk ?_
        exact h1
      · extract_lets -merge -useContext -underBinder +onlyGivenNames v5
        try clear_value v5
        refine keeps_ite (P := KP (Keeps r)) ?_ ?_
        · refine KP_mk ?_
          exact h1
        · refine keeps_ite (P := KP (Keeps r)) ?_ ?_
          · refine KP_mk ?_
            exact h1
          · split
            · rename_i q6
              have h7 : Keeps r _ := KP_of q6 (by
                refine keeps_judge ?_
                · exact h1
                )
              refine keeps_ite (P := KP (Keeps r)) ?_ ?_
              · refine KP_mk ?_
                exact h7
              · refine KP_mk ?_
                refine keeps_setStook ?_
                · exact h7
  · exact g2

theorem keeps_execOlnenFlowStatus {a1 a2} (g2 : Keeps r a2) : KN (Keeps r) (Sys2Proof.Machine.execOlnenFlowStatus a1 a2) := by
  unfold Sys2Proof.Machine.execOlnenFlowStatus
  refine KN_next ?_
  refine keeps_runCmd ?_ ?_
  · intro _ _ _ h1
    beta_reduce
    refine keeps_ite (P := KP (Keeps r)) ?_ ?_
    · refine KP_mk ?_
      exact h1
    · split
      · refine KP_mk ?_
        exact h1
      · extract_lets -merge -useContext -underBinder +onlyGivenNames v2
        try clear_value v2
        extract_lets -merge -useContext -underBinder +onlyGivenNames v3
        try clear_value v3
        refine keeps_ite (P := KP (Keeps r)) ?_ ?_
        · refine KP_mk ?_
          exact h1
        · refine KP_mk ?_
          exact h1
  · exact g2

theorem keeps_threadWaits {a1 a2 a3 a4} (g4 : Keeps r a4) : Keeps r (Sys2Proof.Machine.threadWaits a1 a2 a3 a4) := by
  unfold Sys2Proof.Machine.threadWaits
  exact keeps_same g4 rfl

theorem keeps_execFieldRemoteAccess {a1 a2 a3 a4 a5 a6 a7 a8 a9 a10 a11 a12} (g12 : Keeps r a12) : KN (Keeps r) (Sys2Proof.Machine.execFieldRemoteAccess a1 a2 a3 a4 a5 a6 a7 a8 a9 a10 a11 a12) := by
  unfold Sys2Proof.Machine.execFieldRemoteAccess
  refine KN_next ?_
  split
  · exact g12
  · extract_lets -merge -useContext -underBinder +onlyGivenNames v1
    have h2 : ∀ a3 a4, Keeps r a4 → Keeps r (v1 a3 a4) := by
      subst v1
      intro _ _ h5
      refine keeps_threadWaits ?_
      · exact h5
    try clear_value v1
    extract_lets -merge -useContext -underBinder +onlyGivenNames v6
    try clear_value v6
    refine keeps_ite (P := Keeps r) ?_ ?_
    · exact g12
    · refine keeps_ite (P := Keeps r) ?_ ?_
      · refine keeps_ite (P := Keeps r) ?_ ?_
        · refine h2 _ _ ?_
          · exact g12
        · exact g12
      · refine keeps_ite (P := Keeps r) ?_ ?_
        · exact g12
        · refine keeps_ite (P := Keeps r) ?_ ?_
          · refine keeps_tagsExhausted ?_
            · exact g12
          · refine keeps_ite (P := Keeps r) ?_ ?_
            · extract_lets -merge -useContext -underBinder +onlyGivenNames v7
              try clear_value v7
              extract_lets -merge -useContext -underBinder +onlyGivenNames v8
              try clear_value v8
              extract_lets -merge -useContext -underBinder +onlyGivenNames _ _ v9
              have h10 : Keeps r v9 := by
                subst v9
                exact keeps_same (h2 _ _ g12) rfl
              try clear_value v9
              refine keeps_ite (P := Keeps r) ?_ ?_
              · refine keeps_applyCached ?_
                · exact h10
              · refine keeps_sendCoh ?_
                · exact h10
            · extract_lets -merge -useContext -underBinder +onlyGivenNames _ v13
              try clear_value v13
              extract_lets -merge -useContext -underBinder +onlyGivenNames v14
              try clear_value v14
              extract_lets -merge -useContext -underBinder +onlyGivenNames v15
              try clear_value v15
              refine keeps_ite (P := Keeps r) ?_ ?_
              · refine keeps_holdFlag ?_
                · exact g12
              · refine h2 _ _ ?_
                · refine keeps_issueOp ?_
                  · exact g12

end Sys2Proof.Machine
end

