-- ==== Sys2Proof/Laws/KeepsOlnen.lean ====
section
/-! SUPPORT. What the operations of the links, the fabric, Fallow and the errors of Ember keep (`Keeps`): one lemma per operation. -/

namespace Sys2Proof.Machine

variable {r s t : State} {α β ε : Type}

theorem keeps_sendLink {a1 a2 a3} (g3 : Keeps r a3) : Keeps r (Sys2Proof.Machine.sendLink a1 a2 a3) := by
  unfold Sys2Proof.Machine.sendLink
  refine keeps_emit ?_
  · exact g3

theorem keeps_portStrain {a1 a2 a3 a4} (g4 : Keeps r a4) : Keeps r (Sys2Proof.Machine.portStrain a1 a2 a3 a4) := by
  unfold Sys2Proof.Machine.portStrain
  refine keeps_foldl (P := Keeps r) (fun _ _ h1 => ?_) ?_
  · refine keeps_strainAdd ?_
    · exact h1
  · exact g4

theorem keeps_linkAcked {a1 a2 a3} (g3 : Keeps r a3) : Keeps r (Sys2Proof.Machine.linkAcked a1 a2 a3) := by
  unfold Sys2Proof.Machine.linkAcked
  extract_lets -merge -useContext -underBinder +onlyGivenNames v1
  try clear_value v1
  extract_lets -merge -useContext -underBinder +onlyGivenNames v2
  try clear_value v2
  refine keeps_ite (P := Keeps r) ?_ ?_
  · exact g3
  · refine keeps_setPort ?_
    · exact g3

theorem keeps_linkAck {a1 a2} (g2 : Keeps r a2) : Keeps r (Sys2Proof.Machine.linkAck a1 a2) := by
  unfold Sys2Proof.Machine.linkAck
  extract_lets -merge -useContext -underBinder +onlyGivenNames v1
  try clear_value v1
  refine keeps_sendLink ?_
  · refine keeps_setPort ?_
    · exact g2

theorem keeps_resendLink {a1 a2} (g2 : Keeps r a2) : Keeps r (Sys2Proof.Machine.resendLink a1 a2) := by
  unfold Sys2Proof.Machine.resendLink
  extract_lets -merge -useContext -underBinder +onlyGivenNames v1
  try clear_value v1
  extract_lets -merge -useContext -underBinder +onlyGivenNames v2
  try clear_value v2
  extract_lets -merge -useContext -underBinder +onlyGivenNames v3
  have h4 : Keeps r v3 := by
    subst v3
    refine keeps_setPort ?_
    · exact g2
  try clear_value v3
  extract_lets -merge -useContext -underBinder +onlyGivenNames v5
  have h6 : Keeps r v5 := by
    subst v5
    refine keeps_portStrain ?_
    · refine keeps_tallyAdd ?_
      · exact h4
  try clear_value v5
  refine keeps_foldl (P := Keeps r) (fun _ _ h7 => ?_) ?_
  · refine keeps_sendLink ?_
    · exact h7
  · exact h6

theorem keeps_portUp {a1 a2} (g2 : Keeps r a2) : Keeps r (Sys2Proof.Machine.portUp a1 a2) := by
  unfold Sys2Proof.Machine.portUp
  extract_lets -merge -useContext -underBinder +onlyGivenNames v1
  have h2 : Keeps r v1 := by
    subst v1
    refine keeps_modPort ?_
    · exact g2
  try clear_value v1
  extract_lets -merge -useContext -underBinder +onlyGivenNames v3
  try clear_value v3
  extract_lets -merge -useContext -underBinder +onlyGivenNames v4
  have h5 : Keeps r v4 := by
    subst v4
    refine keeps_ite (P := Keeps r) ?_ ?_
    · exact h2
    · refine keeps_sendLink ?_
      · refine keeps_sendLink ?_
        · exact h2
  try clear_value v4
  refine keeps_raiseNode ?_
  · exact h5

theorem keeps_portTrained {a1 a2} (g2 : Keeps r a2) : Keeps r (Sys2Proof.Machine.portTrained a1 a2) := by
  unfold Sys2Proof.Machine.portTrained
  refine keeps_ite (P := Keeps r) ?_ ?_
  · refine keeps_portUp ?_
    · exact g2
  · refine keeps_modPort ?_
    · exact g2

theorem keeps_endRequests {a1 a2 a3} (g3 : Keeps r a3) : Keeps r (Sys2Proof.Machine.endRequests a1 a2 a3) := by
  unfold Sys2Proof.Machine.endRequests
  extract_lets -merge -useContext -underBinder +onlyGivenNames v1
  try clear_value v1
  extract_lets -merge -useContext -underBinder +onlyGivenNames v2
  try clear_value v2
  refine keeps_endEnables ?_
  · refine keeps_setPort ?_
    · exact g3

theorem keeps_relaunch {a1 a2} (g2 : Keeps r a2) : Keeps r (Sys2Proof.Machine.relaunch a1 a2) := by
  unfold Sys2Proof.Machine.relaunch
  extract_lets -merge -useContext -underBinder +onlyGivenNames v1
  try clear_value v1
  refine keeps_ite (P := Keeps r) ?_ ?_
  · exact g2
  · split
    · exact g2
    · split
      · exact g2
      · refine keeps_launch ?_
        · exact g2

theorem keeps_forgetHeld {a1 a2} (g2 : Keeps r a2) : Keeps r (Sys2Proof.Machine.forgetHeld a1 a2) := by
  unfold Sys2Proof.Machine.forgetHeld
  extract_lets -merge -useContext -underBinder +onlyGivenNames v1
  try clear_value v1
  exact keeps_same g2 rfl

theorem keeps_portDown {a1 a2} (g2 : Keeps r a2) : Keeps r (Sys2Proof.Machine.portDown a1 a2) := by
  unfold Sys2Proof.Machine.portDown
  extract_lets -merge -useContext -underBinder +onlyGivenNames v1
  try clear_value v1
  extract_lets -merge -useContext -underBinder +onlyGivenNames v2
  try clear_value v2
  extract_lets -merge -useContext -underBinder +onlyGivenNames v3
  try clear_value v3
  extract_lets -merge -useContext -underBinder +onlyGivenNames v4
  have h5 : Keeps r v4 := by
    subst v4
    refine keeps_endRequests ?_
    · exact g2
  try clear_value v4
  extract_lets -merge -useContext -underBinder +onlyGivenNames v6
  have h7 : Keeps r v6 := by
    subst v6
    refine keeps_modPort ?_
    · exact h5
  try clear_value v6
  extract_lets -merge -useContext -underBinder +onlyGivenNames v8
  have h9 : Keeps r v8 := by
    subst v8
    refine keeps_ite (P := Keeps r) ?_ ?_
    · refine keeps_tallyAdd ?_
      · exact h7
    · exact h7
  try clear_value v8
  extract_lets -merge -useContext -underBinder +onlyGivenNames v10
  have h11 : Keeps r v10 := by
    subst v10
    refine keeps_foldl (P := Keeps r) (fun _ _ h12 => ?_) ?_
    · refine keeps_endEnables ?_
      · refine keeps_modPort ?_
        · exact h12
    · exact h9
  try clear_value v10
  refine keeps_foldl (P := Keeps r) (fun _ _ h13 => ?_) ?_
  · refine keeps_relaunch ?_
    · exact h13
  · refine keeps_forgetHeld ?_
    · exact h11

theorem keeps_portDownEvent {a1 a2 a3} (g3 : Keeps r a3) : Keeps r (Sys2Proof.Machine.portDownEvent a1 a2 a3) := by
  unfold Sys2Proof.Machine.portDownEvent
  extract_lets -merge -useContext -underBinder +onlyGivenNames v1
  try clear_value v1
  extract_lets -merge -useContext -underBinder +onlyGivenNames v2
  try clear_value v2
  extract_lets -merge -useContext -underBinder +onlyGivenNames v3
  have h4 : Keeps r v3 := by
    subst v3
    refine keeps_portDown ?_
    · exact g3
  try clear_value v3
  refine keeps_ite (P := Keeps r) ?_ ?_
  · refine keeps_raiseNode ?_
    · exact h4
  · exact h4

theorem keeps_startChange {a1 a2 a3 a4} (g4 : Keeps r a4) : Keeps r (Sys2Proof.Machine.startChange a1 a2 a3 a4) := by
  unfold Sys2Proof.Machine.startChange
  extract_lets -merge -useContext -underBinder +onlyGivenNames v1
  try clear_value v1
  extract_lets -merge -useContext -underBinder +onlyGivenNames v2
  try clear_value v2
  extract_lets -merge -useContext -underBinder +onlyGivenNames v3
  try clear_value v3
  refine keeps_ite (P := Keeps r) ?_ ?_
  · refine keeps_setPort ?_
    · exact g4
  · extract_lets -merge -useContext -underBinder +onlyGivenNames v4
    try clear_value v4
    extract_lets -merge -useContext -underBinder +onlyGivenNames v5
    have h6 : Keeps r v5 := by
      subst v5
      refine keeps_setPort ?_
      · exact g4
    try clear_value v5
    extract_lets -merge -useContext -underBinder +onlyGivenNames v7
    have h8 : Keeps r v7 := by
      subst v7
      refine keeps_ite (P := Keeps r) ?_ ?_
      · refine keeps_countFault ?_
        · exact h6
      · refine keeps_portStrain ?_
        · refine keeps_tallyAdd ?_
          · exact h6
    try clear_value v7
    refine keeps_ite (P := Keeps r) ?_ ?_
    · refine keeps_portDownEvent ?_
      · refine keeps_setPort ?_
        · exact h8
    · exact h8

theorem keeps_sendRequest {a1 a2} (g2 : Keeps r a2) : Keeps r (Sys2Proof.Machine.sendRequest a1 a2) := by
  unfold Sys2Proof.Machine.sendRequest
  extract_lets -merge -useContext -underBinder +onlyGivenNames v1
  try clear_value v1
  split
  · exact g2
  · split
    · rename_i q2
      have h3 : Keeps r _ := KP_of q2 (by
        refine keeps_fresh ?_
        · exact g2
        )
      extract_lets -merge -useContext -underBinder +onlyGivenNames v4
      try clear_value v4
      extract_lets -merge -useContext -underBinder +onlyGivenNames v5
      have h6 : Keeps r v5 := by
        subst v5
        refine keeps_setPort ?_
        · exact h3
      try clear_value v5
      refine keeps_sendLink ?_
      · exact h6

theorem keeps_askChange {a1 a2 a3 a4 a5} (g5 : Keeps r a5) : Keeps r (Sys2Proof.Machine.askChange a1 a2 a3 a4 a5) := by
  unfold Sys2Proof.Machine.askChange
  extract_lets -merge -useContext -underBinder +onlyGivenNames v1
  try clear_value v1
  extract_lets -merge -useContext -underBinder +onlyGivenNames v2
  try clear_value v2
  extract_lets -merge -useContext -underBinder +onlyGivenNames v3
  have h4 : Keeps r v3 := by
    subst v3
    refine keeps_setPort ?_
    · exact g5
  try clear_value v3
  refine keeps_ite (P := Keeps r) ?_ ?_
  · refine keeps_sendRequest ?_
    · exact h4
  · exact h4

theorem keeps_replayLimit {a1 a2} (g2 : Keeps r a2) : Keeps r (Sys2Proof.Machine.replayLimit a1 a2) := by
  unfold Sys2Proof.Machine.replayLimit
  extract_lets -merge -useContext -underBinder +onlyGivenNames v1
  try clear_value v1
  split
  · refine keeps_ite (P := Keeps r) ?_ ?_
    · exact g2
    · refine keeps_askChange ?_
      · exact g2
  · refine keeps_askChange ?_
    · exact g2

theorem keeps_replayOut {a1 a2} (g2 : Keeps r a2) : Keeps r (Sys2Proof.Machine.replayOut a1 a2) := by
  unfold Sys2Proof.Machine.replayOut
  extract_lets -merge -useContext -underBinder +onlyGivenNames v1
  try clear_value v1
  refine keeps_ite (P := Keeps r) ?_ ?_
  · exact g2
  · split
    · rename_i q2
      have h3 : Keeps r _ := KP_of q2 (by
        refine keeps_sparkCheck ?_
        · exact g2
        )
      refine keeps_ite (P := Keeps r) ?_ ?_
      · extract_lets -merge -useContext -underBinder +onlyGivenNames _ v4
        have h5 : Keeps r v4 := by
          subst v4
          refine keeps_setPort ?_
          · exact h3
        try clear_value v4
        refine keeps_replayLimit ?_
        · refine keeps_ite (P := Keeps r) ?_ ?_
          · refine keeps_countFault ?_
            · exact h5
          · exact h5
      · refine keeps_resendLink ?_
        · exact h3

theorem keeps_askJoin {a1 a2} (g2 : Keeps r a2) : Keeps r (Sys2Proof.Machine.askJoin a1 a2) := by
  unfold Sys2Proof.Machine.askJoin
  extract_lets -merge -useContext -underBinder +onlyGivenNames v1
  try clear_value v1
  refine keeps_ite (P := Keeps r) ?_ ?_
  · exact g2
  · extract_lets -merge -useContext -underBinder +onlyGivenNames v2
    have h3 : Keeps r v2 := by
      subst v2
      refine keeps_setPort ?_
      · exact g2
    try clear_value v2
    refine keeps_ite (P := Keeps r) ?_ ?_
    · refine keeps_sendRequest ?_
      · exact h3
    · exact h3

theorem keeps_nextRequest {a1 a2} (g2 : Keeps r a2) : Keeps r (Sys2Proof.Machine.nextRequest a1 a2) := by
  unfold Sys2Proof.Machine.nextRequest
  extract_lets -merge -useContext -underBinder +onlyGivenNames v1
  try clear_value v1
  split
  · refine keeps_askJoin ?_
    · exact g2
  · extract_lets -merge -useContext -underBinder +onlyGivenNames v2
    try clear_value v2
    refine keeps_ite (P := Keeps r) ?_ ?_
    · refine keeps_askJoin ?_
      · refine keeps_endRequests ?_
        · refine keeps_setPort ?_
          · exact g2
    · refine keeps_sendRequest ?_
      · refine keeps_setPort ?_
        · exact g2

theorem keeps_endChange {a1 a2} (g2 : Keeps r a2) : Keeps r (Sys2Proof.Machine.endChange a1 a2) := by
  unfold Sys2Proof.Machine.endChange
  extract_lets -merge -useContext -underBinder +onlyGivenNames v1
  try clear_value v1
  extract_lets -merge -useContext -underBinder +onlyGivenNames v2
  try clear_value v2
  extract_lets -merge -useContext -underBinder +onlyGivenNames v3
  have h4 : Keeps r v3 := by
    subst v3
    refine keeps_setPort ?_
    · exact g2
  try clear_value v3
  extract_lets -merge -useContext -underBinder +onlyGivenNames v5
  have h6 : Keeps r v5 := by
    subst v5
    refine keeps_resendLink ?_
    · exact h4
  try clear_value v5
  extract_lets -merge -useContext -underBinder +onlyGivenNames v7
  have h8 : Keeps r v7 := by
    subst v7
    refine keeps_foldl (P := Keeps r) (fun _ _ h9 => ?_) ?_
    · extract_lets -merge -useContext -underBinder +onlyGivenNames v10
      try clear_value v10
      extract_lets -merge -useContext -underBinder +onlyGivenNames v11
      have h12 : Keeps r v11 := by
        subst v11
        refine keeps_raiseNode ?_
        · refine keeps_modPort ?_
          · exact h9
      try clear_value v11
      refine keeps_endEnables ?_
      · exact h12
    · exact h6
  try clear_value v7
  refine keeps_nextRequest ?_
  · refine keeps_endEnables ?_
    · exact h8

theorem keeps_narrow {a1 a2} (g2 : Keeps r a2) : Keeps r (Sys2Proof.Machine.narrow a1 a2) := by
  unfold Sys2Proof.Machine.narrow
  extract_lets +onlyGivenNames x
  split
  · exact keeps_portDownEvent g2
  · split
    · exact keeps_setPort g2
    · exact g2

theorem keeps_loseLane {a1 a2 a3 a4 a5 a6} (g6 : Keeps r a6) : Keeps r (Sys2Proof.Machine.loseLane a1 a2 a3 a4 a5 a6) := by
  unfold Sys2Proof.Machine.loseLane
  extract_lets -merge -useContext -underBinder +onlyGivenNames v1
  try clear_value v1
  extract_lets -merge -useContext -underBinder +onlyGivenNames v2
  try clear_value v2
  refine keeps_ite (P := Keeps r) ?_ ?_
  · exact g6
  · extract_lets -merge -useContext -underBinder +onlyGivenNames _ v3
    have h4 : Keeps r v3 := by
      subst v3
      refine keeps_setPort ?_
      · exact g6
    try clear_value v3
    extract_lets -merge -useContext -underBinder +onlyGivenNames v5
    try clear_value v5
    extract_lets -merge -useContext -underBinder +onlyGivenNames v6
    have h7 : Keeps r v6 := by
      subst v6
      refine keeps_strainUpdate ?_
      · refine keeps_countFault ?_
        · exact h4
    try clear_value v6
    extract_lets -merge -useContext -underBinder +onlyGivenNames v8
    try clear_value v8
    extract_lets -merge -useContext -underBinder +onlyGivenNames v9
    have h10 : Keeps r v9 := by
      subst v9
      refine keeps_raiseN ?_
      · exact h7
    try clear_value v9
    extract_lets -merge -useContext -underBinder +onlyGivenNames v11
    have h12 : Keeps r v11 := by
      subst v11
      refine keeps_ite (P := Keeps r) ?_ ?_
      · refine keeps_sendLink ?_
        · exact h10
      · exact h10
    try clear_value v11
    refine keeps_ite (P := Keeps r) ?_ ?_
    · refine keeps_narrow ?_
      · exact h12
    · exact h12

theorem keeps_startQuarantine {a1 a2 a3} (g3 : Keeps r a3) : Keeps r (Sys2Proof.Machine.startQuarantine a1 a2 a3) := by
  unfold Sys2Proof.Machine.startQuarantine
  refine keeps_sendLink ?_
  · refine keeps_modPort ?_
    · exact g3

theorem keeps_noteEpoch {a1 a2 a3 a4} (g4 : Keeps r a4) : Keeps r (Sys2Proof.Machine.noteEpoch a1 a2 a3 a4) := by
  unfold Sys2Proof.Machine.noteEpoch
  extract_lets -merge -useContext -underBinder +onlyGivenNames v1
  try clear_value v1
  refine keeps_ite (P := Keeps r) ?_ ?_
  · exact keeps_same g4 rfl
  · exact g4

theorem keeps_floodClaim {a1} (g1 : Keeps r a1) : Keeps r (Sys2Proof.Machine.floodClaim a1) := by
  unfold Sys2Proof.Machine.floodClaim
  split
  · exact g1
  · extract_lets -merge -useContext -underBinder +onlyGivenNames v1
    try clear_value v1
    extract_lets -merge -useContext -underBinder +onlyGivenNames _ v2
    have h3 : Keeps r v2 := by
      subst v2
      exact keeps_same g1 rfl
    try clear_value v2
    refine keeps_foldl (P := Keeps r) (fun _ _ h4 => ?_) ?_
    · refine keeps_sendLink ?_
      · exact h4
    · exact h3

theorem keeps_applyAddr {a1 a2} (g2 : Keeps r a2) : Keeps r (Sys2Proof.Machine.applyAddr a1 a2) := by
  unfold Sys2Proof.Machine.applyAddr
  extract_lets -merge -useContext -underBinder +onlyGivenNames _ v1
  have h2 : Keeps r v1 := by
    subst v1
    exact keeps_same g2 rfl
  try clear_value v1
  extract_lets -merge -useContext -underBinder +onlyGivenNames v3
  try clear_value v3
  refine keeps_ite (P := Keeps r) ?_ ?_
  · exact keeps_same h2 rfl
  · refine keeps_floodClaim ?_
    · refine keeps_noteEpoch ?_
      · exact keeps_same h2 rfl

theorem keeps_contest {a1 a2 a3 a4} (g4 : Keeps r a4) : Keeps r (Sys2Proof.Machine.contest a1 a2 a3 a4) := by
  unfold Sys2Proof.Machine.contest
  refine keeps_ite (P := Keeps r) ?_ ?_
  · exact g4
  · extract_lets -merge -useContext -underBinder +onlyGivenNames v1
    try clear_value v1
    refine keeps_ite (P := Keeps r) ?_ ?_
    · extract_lets -merge -useContext -underBinder +onlyGivenNames v2
      try clear_value v2
      refine keeps_raiseNode ?_
      · exact keeps_same g4 rfl
    · refine keeps_ite (P := Keeps r) ?_ ?_
      · refine keeps_raiseNode ?_
        · exact keeps_same g4 rfl
      · refine keeps_floodClaim ?_
        · exact g4

theorem keeps_takeOver {a1 a2 a3} (g3 : Keeps r a3) : Keeps r (Sys2Proof.Machine.takeOver a1 a2 a3) := by
  unfold Sys2Proof.Machine.takeOver
  extract_lets -merge -useContext -underBinder +onlyGivenNames v1
  try clear_value v1
  split
  · exact g3
  · extract_lets -merge -useContext -underBinder +onlyGivenNames v2
    try clear_value v2
    extract_lets -merge -useContext -underBinder +onlyGivenNames v3
    have h4 : Keeps r v3 := by
      subst v3
      refine keeps_setInst ?_
      · exact g3
    try clear_value v3
    extract_lets -merge -useContext -underBinder +onlyGivenNames v5
    try clear_value v5
    refine keeps_raise ?_
    · exact h4

theorem keeps_crossTakeovers {a1 a2} (g2 : Keeps r a2) : Keeps r (Sys2Proof.Machine.crossTakeovers a1 a2) := by
  unfold Sys2Proof.Machine.crossTakeovers
  refine keeps_foldl (P := Keeps r) (fun _ _ h1 => ?_) ?_
  · split
    · exact h1
    · refine keeps_ite (P := Keeps r) ?_ ?_
      · refine keeps_takeOver ?_
        · exact h1
      · exact h1
  · exact g2

theorem keeps_steer {a1 a2} (g2 : Keeps r a2) : Keeps r (Sys2Proof.Machine.steer a1 a2) := by
  unfold Sys2Proof.Machine.steer
  extract_lets -merge -useContext -underBinder +onlyGivenNames v1
  try clear_value v1
  refine keeps_ite (P := Keeps r) ?_ ?_
  · exact keeps_same g2 rfl
  · extract_lets -merge -useContext -underBinder +onlyGivenNames v2
    try clear_value v2
    extract_lets -merge -useContext -underBinder +onlyGivenNames _ v3
    have h4 : Keeps r v3 := by
      subst v3
      exact keeps_same g2 rfl
    try clear_value v3
    refine keeps_crossTakeovers ?_
    · refine keeps_raiseNode ?_
      · exact h4

theorem keeps_noteSync {a1 a2} (g2 : Keeps r a2) : Keeps r (Sys2Proof.Machine.noteSync a1 a2) := by
  unfold Sys2Proof.Machine.noteSync
  extract_lets -merge -useContext -underBinder +onlyGivenNames v1
  try clear_value v1
  extract_lets -merge -useContext -underBinder +onlyGivenNames v2
  try clear_value v2
  extract_lets -merge -useContext -underBinder +onlyGivenNames _ v3
  have h4 : Keeps r v3 := by
    subst v3
    exact keeps_same g2 rfl
  try clear_value v3
  refine keeps_ite (P := Keeps r) ?_ ?_
  · exact keeps_same h4 rfl
  · exact h4

theorem keeps_checkPfc {a1 a2 a3} (g3 : Keeps r a3) : Keeps r (Sys2Proof.Machine.checkPfc a1 a2 a3) := by
  unfold Sys2Proof.Machine.checkPfc
  extract_lets -merge -useContext -underBinder +onlyGivenNames v1
  try clear_value v1
  extract_lets -merge -useContext -underBinder +onlyGivenNames v2
  try clear_value v2
  refine keeps_ite (P := Keeps r) ?_ ?_
  · exact g3
  · refine keeps_ite (P := Keeps r) ?_ ?_
    · refine keeps_sendLink ?_
      · refine keeps_setPort ?_
        · exact g3
    · refine keeps_ite (P := Keeps r) ?_ ?_
      · refine keeps_sendLink ?_
        · refine keeps_setPort ?_
          · exact g3
      · exact g3

theorem keeps_returnCredits {a1 a2 a3 a4} (g4 : Keeps r a4) : Keeps r (Sys2Proof.Machine.returnCredits a1 a2 a3 a4) := by
  unfold Sys2Proof.Machine.returnCredits
  refine keeps_ite (P := Keeps r) ?_ ?_
  · refine keeps_checkPfc ?_
    · exact g4
  · refine keeps_sendLink ?_
    · exact g4

theorem keeps_countDropped {a1 a2} (g2 : Keeps r a2) : Keeps r (Sys2Proof.Machine.countDropped a1 a2) := by
  unfold Sys2Proof.Machine.countDropped
  refine keeps_modPort ?_
  · exact g2

theorem keeps_takeCredits {a1 a2 a3 a4} (g4 : Keeps r a4) : Keeps r (Sys2Proof.Machine.takeCredits a1 a2 a3 a4) := by
  unfold Sys2Proof.Machine.takeCredits
  refine keeps_modPort ?_
  · exact g4

theorem keeps_linkHeader {a1 a2 a3} (g3 : Keeps r a3) : Keeps r (Sys2Proof.Machine.linkHeader a1 a2 a3) := by
  unfold Sys2Proof.Machine.linkHeader
  extract_lets -merge -useContext -underBinder +onlyGivenNames v1
  have h2 : Keeps r v1 := by
    subst v1
    refine keeps_ite (P := Keeps r) ?_ ?_
    · refine keeps_linkAcked ?_
      · exact g3
    · exact g3
  try clear_value v1
  refine keeps_ite (P := Keeps r) ?_ ?_
  · exact h2
  · refine keeps_takeCredits ?_
    · exact h2

theorem keeps_routeIn {a1 a2 a3 a4 a5} (g5 : Keeps r a5) : Keeps r (Sys2Proof.Machine.routeIn a1 a2 a3 a4 a5) := by
  unfold Sys2Proof.Machine.routeIn
  extract_lets -merge -useContext -underBinder +onlyGivenNames v1
  try clear_value v1
  refine keeps_ite (P := Keeps r) ?_ ?_
  · refine keeps_returnCredits ?_
    · exact keeps_same g5 rfl
  · refine keeps_ite (P := Keeps r) ?_ ?_
    · refine keeps_raiseLimited ?_
      · refine keeps_returnCredits ?_
        · refine keeps_countDropped ?_
          · exact g5
    · split
      · refine keeps_putOut ?_
        · exact g5
      · refine keeps_returnCredits ?_
        · exact g5

theorem keeps_execLinkDataReceive {a1 a2 a3} (g3 : Keeps r a3) : KN (Keeps r) (Sys2Proof.Machine.execLinkDataReceive a1 a2 a3) := by
  unfold Sys2Proof.Machine.execLinkDataReceive
  refine KN_next ?_
  extract_lets -merge -useContext -underBinder +onlyGivenNames v1
  try clear_value v1
  refine keeps_ite (P := Keeps r) ?_ ?_
  · exact g3
  · refine keeps_ite (P := Keeps r) ?_ ?_
    · refine keeps_ite (P := Keeps r) ?_ ?_
      · refine keeps_countDropped ?_
        · exact g3
      · exact g3
    · refine keeps_ite (P := Keeps r) ?_ ?_
      · refine keeps_sendLink ?_
        · exact g3
      · refine keeps_ite (P := Keeps r) ?_ ?_
        · exact g3
        · split
          · rename_i q2
            have h3 : Keeps r _ := KP_of q2 (by
              refine keeps_sparkCheck ?_
              · exact g3
              )
            extract_lets -merge -useContext -underBinder +onlyGivenNames v4
            have h5 : Keeps r v4 := by
              subst v4
              refine keeps_ite (P := Keeps r) ?_ ?_
              · refine keeps_linkHeader ?_
                · exact h3
              · exact h3
            try clear_value v4
            extract_lets -merge -useContext -underBinder +onlyGivenNames v6
            try clear_value v6
            refine keeps_ite (P := Keeps r) ?_ ?_
            · refine keeps_ite (P := Keeps r) ?_ ?_
              · exact h5
              · refine keeps_sendLink ?_
                · refine keeps_setPort ?_
                  · exact h5
            · extract_lets -merge -useContext -underBinder +onlyGivenNames v7
              try clear_value v7
              extract_lets -merge -useContext -underBinder +onlyGivenNames v8
              have h9 : Keeps r v8 := by
                subst v8
                refine keeps_setPort ?_
                · exact h5
              try clear_value v8
              extract_lets -merge -useContext -underBinder +onlyGivenNames v10
              have h11 : Keeps r v10 := by
                subst v10
                refine keeps_ite (P := Keeps r) ?_ ?_
                · refine keeps_linkAck ?_
                  · exact h9
                · exact h9
              try clear_value v10
              refine keeps_routeIn ?_
              · exact h11

theorem keeps_execLinkAckReceive {a1 a2 a3} (g3 : Keeps r a3) : KN (Keeps r) (Sys2Proof.Machine.execLinkAckReceive a1 a2 a3) := by
  unfold Sys2Proof.Machine.execLinkAckReceive
  refine KN_next ?_
  refine keeps_linkAcked ?_
  · exact g3

theorem keeps_execLinkNakReceive {a1 a2 a3} (g3 : Keeps r a3) : KN (Keeps r) (Sys2Proof.Machine.execLinkNakReceive a1 a2 a3) := by
  unfold Sys2Proof.Machine.execLinkNakReceive
  refine KN_next ?_
  refine keeps_ite (P := Keeps r) ?_ ?_
  · refine keeps_replayOut ?_
    · refine keeps_linkAcked ?_
      · exact g3
  · refine keeps_linkAcked ?_
    · exact g3

theorem keeps_execLinkCreditReceive {a1 a2 a3 a4} (g4 : Keeps r a4) : KN (Keeps r) (Sys2Proof.Machine.execLinkCreditReceive a1 a2 a3 a4) := by
  unfold Sys2Proof.Machine.execLinkCreditReceive
  refine KN_next ?_
  refine keeps_takeCredits ?_
  · exact g4

theorem keeps_execLinkReplayTimeout {a1 a2} (g2 : Keeps r a2) : KN (Keeps r) (Sys2Proof.Machine.execLinkReplayTimeout a1 a2) := by
  unfold Sys2Proof.Machine.execLinkReplayTimeout
  refine KN_next ?_
  extract_lets -merge -useContext -underBinder +onlyGivenNames v1
  try clear_value v1
  refine keeps_ite (P := Keeps r) ?_ ?_
  · refine keeps_replayOut ?_
    · exact g2
  · exact g2

theorem keeps_execLinkAckTimer {a1 a2} (g2 : Keeps r a2) : KN (Keeps r) (Sys2Proof.Machine.execLinkAckTimer a1 a2) := by
  unfold Sys2Proof.Machine.execLinkAckTimer
  refine KN_next ?_
  split
  · exact g2
  · refine keeps_ite (P := Keeps r) ?_ ?_
    · refine keeps_linkAck ?_
      · exact g2
    · exact g2

theorem keeps_meetRequest {a1 a2 a3 a4} (g4 : Keeps r a4) : Keeps r (Sys2Proof.Machine.meetRequest a1 a2 a3 a4) := by
  unfold Sys2Proof.Machine.meetRequest
  extract_lets -merge -useContext -underBinder +onlyGivenNames v1
  try clear_value v1
  extract_lets -merge -useContext -underBinder +onlyGivenNames v2
  try clear_value v2
  extract_lets -merge -useContext -underBinder +onlyGivenNames v3
  try clear_value v3
  extract_lets -merge -useContext -underBinder +onlyGivenNames v4
  have h5 : ∀ a6 a7, Keeps r a7 → Keeps r (v4 a6 a7) := by
    subst v4
    intro _ _ h8
    beta_reduce
    refine keeps_sendLink ?_
    · refine keeps_modPort ?_
      · exact h8
  try clear_value v4
  refine keeps_ite (P := Keeps r) ?_ ?_
  · exact g4
  · split
    · refine h5 _ _ ?_
      · exact g4
    · extract_lets -merge -useContext -underBinder +onlyGivenNames v9
      try clear_value v9
      extract_lets -merge -useContext -underBinder +onlyGivenNames v10
      try clear_value v10
      extract_lets -merge -useContext -underBinder +onlyGivenNames v11
      try clear_value v11
      extract_lets -merge -useContext -underBinder +onlyGivenNames v12
      try clear_value v12
      refine keeps_ite (P := Keeps r) ?_ ?_
      · refine h5 _ _ ?_
        · exact g4
      · refine keeps_setPort ?_
        · exact g4

theorem keeps_execControlRetrain {a1 a2 a3 a4 a5 a6} (g6 : Keeps r a6) : KN (Keeps r) (Sys2Proof.Machine.execControlRetrain a1 a2 a3 a4 a5 a6) := by
  unfold Sys2Proof.Machine.execControlRetrain
  refine KN_next ?_
  refine keeps_meetRequest ?_
  · exact g6

theorem keeps_execControlResize {a1 a2 a3 a4 a5 a6} (g6 : Keeps r a6) : KN (Keeps r) (Sys2Proof.Machine.execControlResize a1 a2 a3 a4 a5 a6) := by
  unfold Sys2Proof.Machine.execControlResize
  refine KN_next ?_
  refine keeps_meetRequest ?_
  · exact g6

theorem keeps_execControlAccept {a1 a2 a3 a4 a5} (g5 : Keeps r a5) : KN (Keeps r) (Sys2Proof.Machine.execControlAccept a1 a2 a3 a4 a5) := by
  unfold Sys2Proof.Machine.execControlAccept
  refine KN_next ?_
  extract_lets -merge -useContext -underBinder +onlyGivenNames v1
  try clear_value v1
  split
  · exact g5
  · refine keeps_ite (P := Keeps r) ?_ ?_
    · exact g5
    · extract_lets -merge -useContext -underBinder +onlyGivenNames v2
      try clear_value v2
      refine keeps_startChange ?_
      · refine keeps_sendLink ?_
        · refine keeps_setPort ?_
          · exact g5

theorem keeps_execControlGo {a1 a2 a3 a4 a5} (g5 : Keeps r a5) : KN (Keeps r) (Sys2Proof.Machine.execControlGo a1 a2 a3 a4 a5) := by
  unfold Sys2Proof.Machine.execControlGo
  refine KN_next ?_
  extract_lets -merge -useContext -underBinder +onlyGivenNames v1
  try clear_value v1
  split
  · exact g5
  · refine keeps_ite (P := Keeps r) ?_ ?_
    · exact g5
    · refine keeps_startChange ?_
      · refine keeps_setPort ?_
        · exact g5

theorem keeps_execControlLaneLost {a1 a2 a3} (g3 : Keeps r a3) : KN (Keeps r) (Sys2Proof.Machine.execControlLaneLost a1 a2 a3) := by
  unfold Sys2Proof.Machine.execControlLaneLost
  refine KN_next ?_
  refine keeps_ite (P := Keeps r) ?_ ?_
  · exact g3
  · refine keeps_foldl (P := Keeps r) (fun _ _ h1 => ?_) ?_
    · refine keeps_loseLane ?_
      · exact h1
    · exact g3

theorem keeps_execControlCreditInit {a1 a2 a3} (g3 : Keeps r a3) : KN (Keeps r) (Sys2Proof.Machine.execControlCreditInit a1 a2 a3) := by
  unfold Sys2Proof.Machine.execControlCreditInit
  refine KN_next ?_
  refine keeps_modPort ?_
  · exact g3

theorem keeps_execSignalDetect {a1 a2} (g2 : Keeps r a2) : KN (Keeps r) (Sys2Proof.Machine.execSignalDetect a1 a2) := by
  unfold Sys2Proof.Machine.execSignalDetect
  refine KN_next ?_
  extract_lets -merge -useContext -underBinder +onlyGivenNames v1
  try clear_value v1
  refine keeps_ite (P := Keeps r) ?_ ?_
  · exact g2
  · refine keeps_setPort ?_
    · exact g2

theorem keeps_execLinkTrainingDone {a1 a2 a3 a4 a5} (g5 : Keeps r a5) : KN (Keeps r) (Sys2Proof.Machine.execLinkTrainingDone a1 a2 a3 a4 a5) := by
  unfold Sys2Proof.Machine.execLinkTrainingDone
  refine KN_next ?_
  extract_lets -merge -useContext -underBinder +onlyGivenNames v1
  try clear_value v1
  refine keeps_ite (P := Keeps r) ?_ ?_
  · exact g5
  · refine keeps_ite (P := Keeps r) ?_ ?_
    · refine keeps_raiseNode ?_
      · refine keeps_setPort ?_
        · exact g5
    · refine keeps_ite (P := Keeps r) ?_ ?_
      · extract_lets -merge -useContext -underBinder +onlyGivenNames v2
        have h3 : Keeps r v2 := by
          subst v2
          refine keeps_setPort ?_
          · exact g5
        try clear_value v2
        refine keeps_ite (P := Keeps r) ?_ ?_
        · refine keeps_sendLink ?_
          · exact h3
        · refine keeps_portTrained ?_
          · exact h3
      · refine keeps_ite (P := Keeps r) ?_ ?_
        · refine keeps_setPort ?_
          · exact g5
        · refine keeps_setPort ?_
          · exact g5

theorem keeps_execTrainingBackoffExpiry {a1 a2} (g2 : Keeps r a2) : KN (Keeps r) (Sys2Proof.Machine.execTrainingBackoffExpiry a1 a2) := by
  unfold Sys2Proof.Machine.execTrainingBackoffExpiry
  refine KN_next ?_
  refine keeps_modPort ?_
  · exact g2

theorem keeps_execRetrainDone {a1 a2} (g2 : Keeps r a2) : KN (Keeps r) (Sys2Proof.Machine.execRetrainDone a1 a2) := by
  unfold Sys2Proof.Machine.execRetrainDone
  refine KN_next ?_
  refine keeps_ite (P := Keeps r) ?_ ?_
  · refine keeps_endChange ?_
    · exact g2
  · exact g2

theorem keeps_execResizeDone {a1 a2} (g2 : Keeps r a2) : KN (Keeps r) (Sys2Proof.Machine.execResizeDone a1 a2) := by
  unfold Sys2Proof.Machine.execResizeDone
  refine KN_next ?_
  refine keeps_ite (P := Keeps r) ?_ ?_
  · refine keeps_endChange ?_
    · exact g2
  · exact g2

theorem keeps_execDiscoveryAccept {a1} (g1 : Keeps r a1) : KN (Keeps r) (Sys2Proof.Machine.execDiscoveryAccept a1) := by
  unfold Sys2Proof.Machine.execDiscoveryAccept
  refine KN_next ?_
  refine keeps_ite (P := Keeps r) ?_ ?_
  · exact g1
  · refine keeps_foldl (P := Keeps r) (fun _ _ h1 => ?_) ?_
    · refine keeps_portUp ?_
      · exact h1
    · exact keeps_same g1 rfl

theorem keeps_execLaneLoss {a1 a2 a3 a4} (g4 : Keeps r a4) : KN (Keeps r) (Sys2Proof.Machine.execLaneLoss a1 a2 a3 a4) := by
  unfold Sys2Proof.Machine.execLaneLoss
  refine KN_next ?_
  split
  · rename_i q1
    have h2 : Keeps r _ := KP_of q1 (by
      refine keeps_sparkCheck ?_
      · exact g4
      )
    refine keeps_ite (P := Keeps r) ?_ ?_
    · refine keeps_loseLane ?_
      · exact h2
    · exact h2

theorem keeps_noteSample {a1 a2 a3 a4 a5 a6 a7 a8} (g8 : Keeps r a8) : Keeps r (Sys2Proof.Machine.noteSample a1 a2 a3 a4 a5 a6 a7 a8) := by
  unfold Sys2Proof.Machine.noteSample
  extract_lets -merge -useContext -underBinder +onlyGivenNames v1
  try clear_value v1
  extract_lets -merge -useContext -underBinder +onlyGivenNames v2
  have h3 : Keeps r v2 := by
    subst v2
    refine keeps_modPort ?_
    · exact g8
  try clear_value v2
  extract_lets -merge -useContext -underBinder +onlyGivenNames v4
  have h5 : Keeps r v4 := by
    subst v4
    refine keeps_strainAdd ?_
    · refine keeps_tallyAdd ?_
      · exact h3
  try clear_value v4
  refine keeps_strainAdd ?_
  · refine keeps_tallyAdd ?_
    · exact h5

theorem keeps_execLaneBerSample {a1 a2 a3 a4 a5 a6 a7} (g7 : Keeps r a7) : KN (Keeps r) (Sys2Proof.Machine.execLaneBerSample a1 a2 a3 a4 a5 a6 a7) := by
  unfold Sys2Proof.Machine.execLaneBerSample
  refine KN_next ?_
  extract_lets -merge -useContext -underBinder +onlyGivenNames v1
  try clear_value v1
  extract_lets -merge -useContext -underBinder +onlyGivenNames v2
  try clear_value v2
  extract_lets -merge -useContext -underBinder +onlyGivenNames v3
  try clear_value v3
  refine keeps_ite (P := Keeps r) ?_ ?_
  · exact g7
  · split
    · rename_i q4
      have h5 : Keeps r _ := KP_of q4 (by
        refine keeps_sparkCheck ?_
        · exact g7
        )
      split
      · rename_i q6
        have h7 : Keeps r _ := KP_of q6 (by
          refine keeps_sparkCheck ?_
          · exact h5
          )
        split
        · rename_i q8
          have h9 : Keeps r _ := KP_of q8 (by
            refine keeps_sparkCheck ?_
            · exact h7
            )
          extract_lets -merge -useContext -underBinder +onlyGivenNames v10
          have h11 : Keeps r v10 := by
            subst v10
            refine keeps_noteSample ?_
            · exact h9
          try clear_value v10
          extract_lets -merge -useContext -underBinder +onlyGivenNames v12
          have h13 : Keeps r v12 := by
            subst v12
            refine keeps_ite (P := Keeps r) ?_ ?_
            · refine keeps_countFault ?_
              · exact h11
            · exact h11
          try clear_value v12
          extract_lets -merge -useContext -underBinder +onlyGivenNames v14
          have h15 : Keeps r v14 := by
            subst v14
            refine keeps_ite (P := Keeps r) ?_ ?_
            · refine keeps_countFault ?_
              · exact h13
            · exact h13
          try clear_value v14
          refine keeps_ite (P := Keeps r) ?_ ?_
          · refine keeps_loseLane ?_
            · exact h15
          · exact h15

theorem keeps_execLaneRejoinTimer {a1 a2 a3} (g3 : Keeps r a3) : KN (Keeps r) (Sys2Proof.Machine.execLaneRejoinTimer a1 a2 a3) := by
  unfold Sys2Proof.Machine.execLaneRejoinTimer
  refine KN_next ?_
  extract_lets -merge -useContext -underBinder +onlyGivenNames v1
  try clear_value v1
  extract_lets -merge -useContext -underBinder +onlyGivenNames v2
  try clear_value v2
  extract_lets -merge -useContext -underBinder +onlyGivenNames v3
  try clear_value v3
  refine keeps_ite (P := Keeps r) ?_ ?_
  · exact g3
  · refine keeps_startQuarantine ?_
    · exact g3

theorem keeps_laneQuarantined {a1 a2 a3 a4 a5} (g5 : Keeps r a5) : Keeps r (Sys2Proof.Machine.laneQuarantined a1 a2 a3 a4 a5) := by
  unfold Sys2Proof.Machine.laneQuarantined
  extract_lets -merge -useContext -underBinder +onlyGivenNames v1
  try clear_value v1
  extract_lets -merge -useContext -underBinder +onlyGivenNames v2
  try clear_value v2
  extract_lets -merge -useContext -underBinder +onlyGivenNames v3
  try clear_value v3
  refine keeps_ite (P := Keeps r) ?_ ?_
  · exact g5
  · refine keeps_ite (P := Keeps r) ?_ ?_
    · extract_lets -merge -useContext -underBinder +onlyGivenNames v4
      have h5 : Keeps r v4 := by
        subst v4
        refine keeps_raiseNode ?_
        · exact g5
      try clear_value v4
      refine keeps_ite (P := Keeps r) ?_ ?_
      · refine keeps_askJoin ?_
        · refine keeps_setPort ?_
          · exact h5
      · refine keeps_endEnables ?_
        · refine keeps_setPort ?_
          · exact h5
    · extract_lets -merge -useContext -underBinder +onlyGivenNames v6
      have h7 : Keeps r v6 := by
        subst v6
        refine keeps_raiseNode ?_
        · refine keeps_tallyAdd ?_
          · exact g5
      try clear_value v6
      extract_lets -merge -useContext -underBinder +onlyGivenNames v8
      try clear_value v8
      extract_lets -merge -useContext -underBinder +onlyGivenNames v9
      have h10 : Keeps r v9 := by
        subst v9
        refine keeps_setPort ?_
        · exact h7
      try clear_value v9
      refine keeps_endEnables ?_
      · refine keeps_ite (P := Keeps r) ?_ ?_
        · refine keeps_recordFence ?_
          · exact h10
        · exact h10

theorem keeps_execLaneQuarantineDone {a1 a2 a3 a4 a5} (g5 : Keeps r a5) : KN (Keeps r) (Sys2Proof.Machine.execLaneQuarantineDone a1 a2 a3 a4 a5) := by
  unfold Sys2Proof.Machine.execLaneQuarantineDone
  refine KN_next ?_
  refine keeps_laneQuarantined ?_
  · exact g5

theorem keeps_versionMismatch {a1 a2 a3} (g3 : Keeps r a3) : Keeps r (Sys2Proof.Machine.versionMismatch a1 a2 a3) := by
  unfold Sys2Proof.Machine.versionMismatch
  refine keeps_ite (P := Keeps r) ?_ ?_
  · exact g3
  · refine keeps_raiseNode ?_
    · refine keeps_endRequests ?_
      · refine keeps_modPort ?_
        · exact g3

theorem keeps_execHelloReceive {a1 a2 a3} (g3 : Keeps r a3) : KN (Keeps r) (Sys2Proof.Machine.execHelloReceive a1 a2 a3) := by
  unfold Sys2Proof.Machine.execHelloReceive
  refine KN_next ?_
  refine keeps_ite (P := Keeps r) ?_ ?_
  · exact g3
  · refine keeps_ite (P := Keeps r) ?_ ?_
    · refine keeps_versionMismatch ?_
      · exact g3
    · refine keeps_ite (P := Keeps r) ?_ ?_
      · refine keeps_ite (P := Keeps r) ?_ ?_
        · exact g3
        · refine keeps_raiseNode ?_
          · refine keeps_endRequests ?_
            · refine keeps_modPort ?_
              · exact g3
      · extract_lets -merge -useContext -underBinder +onlyGivenNames v1
        have h2 : Keeps r v1 := by
          subst v1
          refine keeps_modPort ?_
          · exact g3
        try clear_value v1
        refine keeps_ite (P := Keeps r) ?_ ?_
        · refine keeps_contest ?_
          · refine keeps_noteEpoch ?_
            · exact h2
        · exact h2

theorem keeps_sendDisc {a1 a2 a3 a4} (g4 : Keeps r a4) : Keeps r (Sys2Proof.Machine.sendDisc a1 a2 a3 a4) := by
  unfold Sys2Proof.Machine.sendDisc
  refine keeps_ite (P := Keeps r) ?_ ?_
  · refine keeps_sendLink ?_
    · exact g4
  · refine keeps_sendLink ?_
    · exact g4

theorem keeps_queryAct {a1 a2 a3 a4} (g4 : Keeps r a4) : Keeps r (Sys2Proof.Machine.queryAct a1 a2 a3 a4) := by
  unfold Sys2Proof.Machine.queryAct
  refine keeps_ite (P := Keeps r) ?_ ?_
  · extract_lets -merge -useContext -underBinder +onlyGivenNames v1
    try clear_value v1
    extract_lets -merge -useContext -underBinder +onlyGivenNames v2
    try clear_value v2
    refine keeps_ite (P := Keeps r) ?_ ?_
    · exact g4
    · refine keeps_sendLink ?_
      · exact g4
  · extract_lets -merge -useContext -underBinder +onlyGivenNames v3
    try clear_value v3
    extract_lets -merge -useContext -underBinder +onlyGivenNames v4
    try clear_value v4
    extract_lets -merge -useContext -underBinder +onlyGivenNames v5
    try clear_value v5
    extract_lets -merge -useContext -underBinder +onlyGivenNames v6
    try clear_value v6
    refine keeps_ite (P := Keeps r) ?_ ?_
    · refine keeps_sendLink ?_
      · refine keeps_setPort ?_
        · exact g4
    · extract_lets -merge -useContext -underBinder +onlyGivenNames v7
      have h8 : Keeps r v7 := by
        subst v7
        refine keeps_setPort ?_
        · exact g4
      try clear_value v7
      refine keeps_sendDisc ?_
      · exact h8

theorem keeps_execQueryReceive {a1 a2 a3} (g3 : Keeps r a3) : KN (Keeps r) (Sys2Proof.Machine.execQueryReceive a1 a2 a3) := by
  unfold Sys2Proof.Machine.execQueryReceive
  refine KN_next ?_
  refine keeps_ite (P := Keeps r) ?_ ?_
  · exact g3
  · refine keeps_ite (P := Keeps r) ?_ ?_
    · refine keeps_versionMismatch ?_
      · exact g3
    · refine keeps_ite (P := Keeps r) ?_ ?_
      · refine keeps_sendLink ?_
        · exact g3
      · refine keeps_queryAct ?_
        · exact g3

theorem keeps_execReplyReceive {a1 a2 a3} (g3 : Keeps r a3) : KN (Keeps r) (Sys2Proof.Machine.execReplyReceive a1 a2 a3) := by
  unfold Sys2Proof.Machine.execReplyReceive
  refine KN_next ?_
  refine keeps_ite (P := Keeps r) ?_ ?_
  · exact g3
  · refine keeps_ite (P := Keeps r) ?_ ?_
    · refine keeps_versionMismatch ?_
      · exact g3
    · refine keeps_ite (P := Keeps r) ?_ ?_
      · split
        · exact g3
        · refine keeps_finish ?_
          · exact keeps_same g3 rfl
      · extract_lets -merge -useContext -underBinder +onlyGivenNames v1
        try clear_value v1
        extract_lets -merge -useContext -underBinder +onlyGivenNames v2
        try clear_value v2
        refine keeps_ite (P := Keeps r) ?_ ?_
        · exact g3
        · refine keeps_sendDisc ?_
          · exact g3

theorem keeps_forwardClaim {a1 a2 a3 a4} (g4 : Keeps r a4) : Keeps r (Sys2Proof.Machine.forwardClaim a1 a2 a3 a4) := by
  unfold Sys2Proof.Machine.forwardClaim
  extract_lets -merge -useContext -underBinder +onlyGivenNames v1
  try clear_value v1
  refine keeps_ite (P := Keeps r) ?_ ?_
  · exact g4
  · extract_lets -merge -useContext -underBinder +onlyGivenNames _ v2
    have h3 : Keeps r v2 := by
      subst v2
      exact keeps_same g4 rfl
    try clear_value v2
    refine keeps_ite (P := Keeps r) ?_ ?_
    · exact h3
    · refine keeps_foldl (P := Keeps r) (fun _ _ h4 => ?_) ?_
      · refine keeps_sendLink ?_
        · exact h4
      · exact h3

theorem keeps_execClaimReceive {a1 a2 a3 a4} (g4 : Keeps r a4) : KN (Keeps r) (Sys2Proof.Machine.execClaimReceive a1 a2 a3 a4) := by
  unfold Sys2Proof.Machine.execClaimReceive
  refine KN_next ?_
  refine keeps_ite (P := Keeps r) ?_ ?_
  · exact g4
  · refine keeps_ite (P := Keeps r) ?_ ?_
    · refine keeps_versionMismatch ?_
      · exact g4
    · extract_lets -merge -useContext -underBinder +onlyGivenNames v1
      try clear_value v1
      extract_lets -merge -useContext -underBinder +onlyGivenNames v2
      have h3 : Keeps r v2 := by
        subst v2
        refine keeps_forwardClaim ?_
        · exact g4
      try clear_value v2
      extract_lets -merge -useContext -underBinder +onlyGivenNames v4
      have h5 : Keeps r v4 := by
        subst v4
        refine keeps_contest ?_
        · refine keeps_noteEpoch ?_
          · exact h3
      try clear_value v4
      refine keeps_ite (P := Keeps r) ?_ ?_
      · refine keeps_endNode ?_
        · exact h5
      · exact h5

theorem keeps_execNotReadyReceive {a1 a2 a3 a4} (g4 : Keeps r a4) : KN (Keeps r) (Sys2Proof.Machine.execNotReadyReceive a1 a2 a3 a4) := by
  unfold Sys2Proof.Machine.execNotReadyReceive
  refine KN_next ?_
  split
  · exact g4
  · refine keeps_finish ?_
    · exact keeps_same g4 rfl

theorem keeps_execDiscoverTimeout {a1 a2} (g2 : Keeps r a2) : KN (Keeps r) (Sys2Proof.Machine.execDiscoverTimeout a1 a2) := by
  unfold Sys2Proof.Machine.execDiscoverTimeout
  refine KN_next ?_
  split
  · exact g2
  · refine keeps_ite (P := Keeps r) ?_ ?_
    · exact g2
    · refine keeps_finish ?_
      · exact keeps_same g2 rfl

theorem keeps_execHelloTimer {a1 a2} (g2 : Keeps r a2) : KN (Keeps r) (Sys2Proof.Machine.execHelloTimer a1 a2) := by
  unfold Sys2Proof.Machine.execHelloTimer
  refine KN_next ?_
  refine keeps_ite (P := Keeps r) ?_ ?_
  · refine keeps_sendLink ?_
    · exact g2
  · exact g2

theorem keeps_execAddrEffective {a1} (g1 : Keeps r a1) : KN (Keeps r) (Sys2Proof.Machine.execAddrEffective a1) := by
  unfold Sys2Proof.Machine.execAddrEffective
  refine KN_next ?_
  split
  · exact g1
  · refine keeps_ite (P := Keeps r) ?_ ?_
    · exact g1
    · refine keeps_applyAddr ?_
      · exact g1

theorem keeps_swapRoutes {a1} (g1 : Keeps r a1) : Keeps r (Sys2Proof.Machine.swapRoutes a1) := by
  unfold Sys2Proof.Machine.swapRoutes
  exact keeps_same g1 rfl

theorem keeps_execRouteSwap {a1} (g1 : Keeps r a1) : KN (Keeps r) (Sys2Proof.Machine.execRouteSwap a1) := by
  unfold Sys2Proof.Machine.execRouteSwap
  refine KN_next ?_
  split
  · exact g1
  · refine keeps_ite (P := Keeps r) ?_ ?_
    · exact g1
    · refine keeps_swapRoutes ?_
      · exact g1

theorem keeps_execMcastDeadline {a1 a2} (g2 : Keeps r a2) : KN (Keeps r) (Sys2Proof.Machine.execMcastDeadline a1 a2) := by
  unfold Sys2Proof.Machine.execMcastDeadline
  refine KN_next ?_
  split
  · exact g2
  · refine keeps_ite (P := Keeps r) ?_ ?_
    · exact g2
    · refine keeps_settleWork ?_
      · refine keeps_endMcast ?_
        · exact g2

theorem keeps_mcastSend {a1 a2 a3} (g3 : Keeps r a3) : Keeps r (Sys2Proof.Machine.mcastSend a1 a2 a3) := by
  unfold Sys2Proof.Machine.mcastSend
  split
  · exact g3
  · split
    · extract_lets -merge -useContext -underBinder +onlyGivenNames v1
      try clear_value v1
      extract_lets -merge -useContext -underBinder +onlyGivenNames _ v2
      have h3 : Keeps r v2 := by
        subst v2
        exact keeps_same g3 rfl
      try clear_value v2
      refine keeps_ite (P := Keeps r) ?_ ?_
      · exact h3
      · refine keeps_issueMessage ?_
        · exact h3

theorem keeps_mcastAgain {a1 a2 a3} (g3 : Keeps r a3) : Keeps r (Sys2Proof.Machine.mcastAgain a1 a2 a3) := by
  unfold Sys2Proof.Machine.mcastAgain
  extract_lets -merge -useContext -underBinder +onlyGivenNames v1
  try clear_value v1
  extract_lets -merge -useContext -underBinder +onlyGivenNames _ v2
  have h3 : Keeps r v2 := by
    subst v2
    exact keeps_same g3 rfl
  try clear_value v2
  refine keeps_foldl (P := Keeps r) (fun _ _ h4 => ?_) ?_
  · refine keeps_mcastSend ?_
    · exact h4
  · exact h3

theorem keeps_execMcastRetry {a1 a2} (g2 : Keeps r a2) : KN (Keeps r) (Sys2Proof.Machine.execMcastRetry a1 a2) := by
  unfold Sys2Proof.Machine.execMcastRetry
  refine KN_next ?_
  split
  · exact g2
  · refine keeps_ite (P := Keeps r) ?_ ?_
    · exact g2
    · refine keeps_ite (P := Keeps r) ?_ ?_
      · refine keeps_raise ?_
        · exact keeps_same g2 rfl
      · refine keeps_mcastAgain ?_
        · exact g2

theorem keeps_sendPtp {a1 a2 a3} (g3 : Keeps r a3) : Keeps r (Sys2Proof.Machine.sendPtp a1 a2 a3) := by
  unfold Sys2Proof.Machine.sendPtp
  refine keeps_sendLink ?_
  · exact g3

theorem keeps_execPtpSyncTimer {a1 a2} (g2 : Keeps r a2) : KN (Keeps r) (Sys2Proof.Machine.execPtpSyncTimer a1 a2) := by
  unfold Sys2Proof.Machine.execPtpSyncTimer
  refine KN_next ?_
  extract_lets -merge -useContext -underBinder +onlyGivenNames v1
  try clear_value v1
  refine keeps_ite (P := Keeps r) ?_ ?_
  · exact g2
  · extract_lets -merge -useContext -underBinder +onlyGivenNames v2
    have h3 : Keeps r v2 := by
      subst v2
      refine keeps_setPort ?_
      · exact g2
    try clear_value v2
    refine keeps_foldl (P := Keeps r) (fun _ _ h4 => ?_) ?_
    · refine keeps_sendPtp ?_
      · exact h4
    · exact h3

theorem keeps_followPort {a1 a2 a3} (g3 : Keeps r a3) : Keeps r (Sys2Proof.Machine.followPort a1 a2 a3) := by
  unfold Sys2Proof.Machine.followPort
  extract_lets -merge -useContext -underBinder +onlyGivenNames v1
  have h2 : Keeps r v1 := by
    subst v1
    split
    · exact g3
    · refine keeps_modPort ?_
      · exact g3
  try clear_value v1
  extract_lets -merge -useContext -underBinder +onlyGivenNames v3
  have h4 : Keeps r v3 := by
    subst v3
    refine keeps_modPort ?_
    · exact h2
  try clear_value v3
  exact keeps_same h4 rfl

theorem keeps_masterSays {a1 a2 a3} (g3 : Keeps r a3) : Keeps r (Sys2Proof.Machine.masterSays a1 a2 a3) := by
  unfold Sys2Proof.Machine.masterSays
  refine keeps_ite (P := Keeps r) ?_ ?_
  · refine keeps_modPort ?_
    · exact keeps_same g3 rfl
  · exact keeps_same g3 rfl

theorem keeps_execTimeFrameReceive {a1 a2 a3 a4} (g4 : Keeps r a4) : KN (Keeps r) (Sys2Proof.Machine.execTimeFrameReceive a1 a2 a3 a4) := by
  unfold Sys2Proof.Machine.execTimeFrameReceive
  refine KN_next ?_
  extract_lets -merge -useContext -underBinder +onlyGivenNames v1
  try clear_value v1
  refine keeps_ite (P := Keeps r) ?_ ?_
  · exact g4
  · split
    · refine keeps_setPort ?_
      · exact g4
    · refine keeps_ite (P := Keeps r) ?_ ?_
      · refine keeps_masterSays ?_
        · exact g4
      · refine keeps_ite (P := Keeps r) ?_ ?_
        · refine keeps_followPort ?_
          · exact g4
        · exact g4
    · refine keeps_ite (P := Keeps r) ?_ ?_
      · exact g4
      · refine keeps_steer ?_
        · refine keeps_noteSync ?_
          · refine keeps_setPort ?_
            · exact g4

theorem keeps_execSyncHoldoverTimeout {a1 a2} (g2 : Keeps r a2) : KN (Keeps r) (Sys2Proof.Machine.execSyncHoldoverTimeout a1 a2) := by
  unfold Sys2Proof.Machine.execSyncHoldoverTimeout
  refine KN_next ?_
  refine keeps_ite (P := Keeps r) ?_ ?_
  · exact g2
  · refine keeps_raiseNode ?_
    · refine keeps_modPort ?_
      · exact keeps_same g2 rfl

theorem keeps_execPtmExchange {a1 a2} (g2 : Keeps r a2) : KN (Keeps r) (Sys2Proof.Machine.execPtmExchange a1 a2) := by
  unfold Sys2Proof.Machine.execPtmExchange
  refine KN_next ?_
  exact keeps_same g2 rfl

theorem keeps_execEthFrameReceive {a1 a2 a3} (g3 : Keeps r a3) : KN (Keeps r) (Sys2Proof.Machine.execEthFrameReceive a1 a2 a3) := by
  unfold Sys2Proof.Machine.execEthFrameReceive
  refine KN_next ?_
  extract_lets -merge -useContext -underBinder +onlyGivenNames v1
  try clear_value v1
  extract_lets -merge -useContext -underBinder +onlyGivenNames v2
  try clear_value v2
  extract_lets -merge -useContext -underBinder +onlyGivenNames v3
  try clear_value v3
  refine keeps_ite (P := Keeps r) ?_ ?_
  · exact g3
  · split
    · refine keeps_ite (P := Keeps r) ?_ ?_
      · refine keeps_sendLink ?_
        · exact g3
      · refine keeps_countDropped ?_
        · exact g3
    · refine keeps_ite (P := Keeps r) ?_ ?_
      · refine keeps_sendLink ?_
        · exact g3
      · refine keeps_countDropped ?_
        · exact g3
    · extract_lets -merge -useContext -underBinder +onlyGivenNames v4
      try clear_value v4
      refine keeps_ite (P := Keeps r) ?_ ?_
      · refine keeps_countDropped ?_
        · exact g3
      · refine keeps_ite (P := Keeps r) ?_ ?_
        · exact g3
        · refine keeps_sendLink ?_
          · refine keeps_setPort ?_
            · exact g3
    · extract_lets -merge -useContext -underBinder +onlyGivenNames v5
      try clear_value v5
      refine keeps_ite (P := Keeps r) ?_ ?_
      · refine keeps_countDropped ?_
        · exact g3
      · refine keeps_ite (P := Keeps r) ?_ ?_
        · exact g3
        · extract_lets -merge -useContext -underBinder +onlyGivenNames _ v6
          have h7 : Keeps r v6 := by
            subst v6
            exact keeps_same g3 rfl
          try clear_value v6
          refine keeps_ite (P := Keeps r) ?_ ?_
          · exact keeps_same h7 rfl
          · split
            · refine keeps_checkPfc ?_
              · refine keeps_putOut ?_
                · exact h7
            · exact h7
    · refine keeps_ite (P := Keeps r) ?_ ?_
      · refine keeps_countDropped ?_
        · exact g3
      · refine keeps_ite (P := Keeps r) ?_ ?_
        · refine keeps_countDropped ?_
          · exact g3
        · refine keeps_ite (P := Keeps r) ?_ ?_
          · refine keeps_sendLink ?_
            · exact g3
          · refine keeps_queryAct ?_
            · exact g3
    · refine keeps_countDropped ?_
      · exact g3

theorem keeps_execPfcFrameReceive {a1 a2 a3 a4} (g4 : Keeps r a4) : KN (Keeps r) (Sys2Proof.Machine.execPfcFrameReceive a1 a2 a3 a4) := by
  unfold Sys2Proof.Machine.execPfcFrameReceive
  refine KN_next ?_
  refine keeps_modPort ?_
  · exact g4

theorem keeps_clearRuns {a1 a2} (g2 : Keeps r a2) : Keeps r (Sys2Proof.Machine.clearRuns a1 a2) := by
  unfold Sys2Proof.Machine.clearRuns
  exact keeps_mem g2 (fun h => wf_filter _ h)

theorem keeps_addAllots {a1 a2} (g2 : Keeps r a2) : KO (Keeps r) (Sys2Proof.Machine.addAllots a1 a2) := by
  unfold Sys2Proof.Machine.addAllots
  extract_lets +onlyGivenNames spare
  generalize moreFrames a2 (usedRuns a2) [] (allotChunks * a1 - spare) 32768 = o
  cases o with
  | none => exact KO_none
  | some fs =>
    simp only []
    refine KO_some (KF_fst (keeps_foldl (P := KF (Keeps r)) (fun b _ h => ?_) ?_))
    · obtain ⟨s, l⟩ := b
      simp only []
      generalize splitRuns allotChunks l = p
      exact keeps_clearRuns (keeps_same (show Keeps r s from h) rfl)
    · exact keeps_same (s := a2) g2 (by simp only [keptParts])

theorem keeps_trimAside {a1} (g1 : Keeps r a1) : Keeps r (Sys2Proof.Machine.trimAside a1) := by
  unfold Sys2Proof.Machine.trimAside
  extract_lets -merge -useContext -underBinder +onlyGivenNames v1
  try clear_value v1
  exact keeps_same g1 rfl

theorem keeps_withdrawIdle {a1} (g1 : Keeps r a1) : Keeps r (Sys2Proof.Machine.withdrawIdle a1) := by
  unfold Sys2Proof.Machine.withdrawIdle
  extract_lets -merge -useContext -underBinder +onlyGivenNames v1
  try clear_value v1
  extract_lets -merge -useContext -underBinder +onlyGivenNames v2
  try clear_value v2
  refine keeps_trimAside ?_
  · exact keeps_same g1 rfl

theorem keeps_execTierLend {a1 a2} (g2 : Keeps r a2) : KN (Keeps r) (Sys2Proof.Machine.execTierLend a1 a2) := by
  unfold Sys2Proof.Machine.execTierLend
  refine KN_next ?_
  refine keeps_runCmd ?_ ?_
  · intro _ _ _ h1
    beta_reduce
    extract_lets -merge -useContext -underBinder +onlyGivenNames v2
    try clear_value v2
    refine keeps_ite (P := KP (Keeps r)) ?_ ?_
    · refine KP_mk ?_
      exact h1
    · extract_lets -merge -useContext -underBinder +onlyGivenNames v3
      try clear_value v3
      split
      · refine KP_mk ?_
        exact h1
      · rename_i q4
        have h5 : Keeps r _ := KO_of q4 (by
          refine keeps_ite (P := KO (Keeps r)) ?_ ?_
          · refine KO_some ?_
            exact h1
          · refine keeps_addAllots ?_
            · exact h1
          )
        split
        · rename_i q6
          have h7 : Keeps r _ := KP_of q6 (by
            refine keeps_judge ?_
            · exact h5
            )
          refine keeps_ite (P := KP (Keeps r)) ?_ ?_
          · refine KP_mk ?_
            refine KP_snd ?_
            refine keeps_judge ?_
            · exact h1
          · extract_lets -merge -useContext -underBinder +onlyGivenNames _ v8
            have h9 : Keeps r v8 := by
              subst v8
              refine keeps_withdrawIdle ?_
              · exact keeps_same h7 rfl
            try clear_value v8
            refine KP_mk ?_
            exact h9
  · exact g2

theorem keeps_sendFallow {a1 a2 a3 a4 a5 a6} (g6 : Keeps r a6) : Keeps r (Sys2Proof.Machine.sendFallow a1 a2 a3 a4 a5 a6) := by
  unfold Sys2Proof.Machine.sendFallow
  split
  · rename_i q1
    have h2 : Keeps r _ := KP_of q1 (by
      refine keeps_sealed ?_
      · exact g6
      )
    refine keeps_sendData ?_
    · exact h2

theorem keeps_sendNotice {a1 a2 a3} (g3 : Keeps r a3) : Keeps r (Sys2Proof.Machine.sendNotice a1 a2 a3) := by
  unfold Sys2Proof.Machine.sendNotice
  split
  · exact g3
  · extract_lets -merge -useContext -underBinder +onlyGivenNames _ v1
    have h2 : Keeps r v1 := by
      subst v1
      refine keeps_setAllots ?_
      · exact keeps_same g3 rfl
    try clear_value v1
    refine keeps_sendFallow ?_
    · exact h2

theorem keeps_noticeChannel {a1 a2} (g2 : Keeps r a2) : Keeps r (Sys2Proof.Machine.noticeChannel a1 a2) := by
  unfold Sys2Proof.Machine.noticeChannel
  extract_lets -merge -useContext -underBinder +onlyGivenNames v1
  try clear_value v1
  extract_lets -merge -useContext -underBinder +onlyGivenNames v2
  try clear_value v2
  refine keeps_foldl (P := Keeps r) (fun _ _ h3 => ?_) ?_
  · refine keeps_sendNotice ?_
    · exact h3
  · exact g2

theorem keeps_execTierReclaim {a1 a2} (g2 : Keeps r a2) : KN (Keeps r) (Sys2Proof.Machine.execTierReclaim a1 a2) := by
  unfold Sys2Proof.Machine.execTierReclaim
  refine KN_next ?_
  refine keeps_runCmd ?_ ?_
  · intro _ _ _ h1
    beta_reduce
    extract_lets -merge -useContext -underBinder +onlyGivenNames v2
    try clear_value v2
    refine keeps_ite (P := KP (Keeps r)) ?_ ?_
    · refine KP_mk ?_
      exact h1
    · split
      · rename_i q3
        have h4 : Keeps r _ := KP_of q3 (by
          refine keeps_judge ?_
          · exact h1
          )
        refine keeps_ite (P := KP (Keeps r)) ?_ ?_
        · refine KP_mk ?_
          exact h4
        · extract_lets -merge -useContext -underBinder +onlyGivenNames v5
          try clear_value v5
          refine KP_mk ?_
          refine keeps_foldl (P := Keeps r) (fun _ _ h6 => ?_) ?_
          · refine keeps_sendNotice ?_
            · exact h6
          · exact h4
  · exact g2

theorem keeps_execTierBorrow {a1 a2} (g2 : Keeps r a2) : KN (Keeps r) (Sys2Proof.Machine.execTierBorrow a1 a2) := by
  unfold Sys2Proof.Machine.execTierBorrow
  refine KN_next ?_
  refine keeps_settleWork ?_
  · refine keeps_runCmd ?_ ?_
    · intro _ _ _ h1
      beta_reduce
      extract_lets -merge -useContext -underBinder +onlyGivenNames v2
      try clear_value v2
      extract_lets -merge -useContext -underBinder +onlyGivenNames v3
      try clear_value v3
      extract_lets -merge -useContext -underBinder +onlyGivenNames v4
      try clear_value v4
      extract_lets -merge -useContext -underBinder +onlyGivenNames v5
      try clear_value v5
      refine keeps_ite (P := KP (Keeps r)) ?_ ?_
      · refine KP_mk ?_
        exact h1
      · refine keeps_ite (P := KP (Keeps r)) ?_ ?_
        · refine KP_mk ?_
          exact h1
        · refine keeps_ite (P := KP (Keeps r)) ?_ ?_
          · refine KP_mk ?_
            exact h1
          · refine keeps_sending ?_ ?_
            · exact h1
            · intro _ _ _ h6
              beta_reduce
              refine keeps_ite (P := KP (Keeps r)) ?_ ?_
              · refine KP_mk ?_
                exact h6
              · extract_lets -merge -useContext -underBinder +onlyGivenNames v7
                try clear_value v7
                extract_lets -merge -useContext -underBinder +onlyGivenNames v8
                try clear_value v8
                extract_lets -merge -useContext -underBinder +onlyGivenNames _ v9
                have h10 : Keeps r v9 := by
                  subst v9
                  exact keeps_same h6 rfl
                try clear_value v9
                refine KP_mk ?_
                refine keeps_issueOp ?_
                · exact h10
    · exact g2

theorem keeps_beginDrain {a1 a2} (g2 : Keeps r a2) : Keeps r (Sys2Proof.Machine.beginDrain a1 a2) := by
  unfold Sys2Proof.Machine.beginDrain
  extract_lets -merge -useContext -underBinder +onlyGivenNames _ v1
  have h2 : Keeps r v1 := by
    subst v1
    exact keeps_same g2 rfl
  try clear_value v1
  split
  · rename_i q3
    have h4 : Keeps r _ := KP_of q3 (by
      refine keeps_cleanToPeat ?_
      · exact h2
      )
    refine keeps_foldl (P := Keeps r) (fun _ _ h5 => ?_) ?_
    · refine keeps_adviseFetch ?_
      · refine keeps_ite (P := Keeps r) ?_ ?_
        · exact h5
        · refine keeps_queueWb ?_
          · exact h5
    · exact h4

theorem keeps_endBorrow {a1 a2 a3} (g3 : Keeps r a3) : Keeps r (Sys2Proof.Machine.endBorrow a1 a2 a3) := by
  unfold Sys2Proof.Machine.endBorrow
  split
  · exact g3
  · extract_lets -merge -useContext -underBinder +onlyGivenNames _ v1
    have h2 : Keeps r v1 := by
      subst v1
      refine keeps_endComp ?_
      · exact keeps_same g3 rfl
    try clear_value v1
    split
    · exact h2
    · refine keeps_finish ?_
      · exact h2

theorem keeps_execTierReturn {a1 a2} (g2 : Keeps r a2) : KN (Keeps r) (Sys2Proof.Machine.execTierReturn a1 a2) := by
  unfold Sys2Proof.Machine.execTierReturn
  refine KN_next ?_
  refine keeps_settleWork ?_
  · refine keeps_runCmd ?_ ?_
    · intro _ _ _ h1
      beta_reduce
      extract_lets -merge -useContext -underBinder +onlyGivenNames v2
      try clear_value v2
      refine keeps_ite (P := KP (Keeps r)) ?_ ?_
      · refine KP_mk ?_
        exact h1
      · split
        · refine KP_mk ?_
          exact h1
        · refine keeps_ite (P := KP (Keeps r)) ?_ ?_
          · refine KP_mk ?_
            exact h1
          · refine keeps_ite (P := KP (Keeps r)) ?_ ?_
            · refine KP_mk ?_
              exact h1
            · extract_lets -merge -useContext -underBinder +onlyGivenNames _ v3
              have h4 : Keeps r v3 := by
                subst v3
                exact keeps_same h1 rfl
              try clear_value v3
              refine KP_mk ?_
              refine keeps_ite (P := Keeps r) ?_ ?_
              · exact h4
              · refine keeps_beginDrain ?_
                · exact h4
    · exact g2

theorem keeps_execCompositionDrained {a1 a2} (g2 : Keeps r a2) : KN (Keeps r) (Sys2Proof.Machine.execCompositionDrained a1 a2) := by
  unfold Sys2Proof.Machine.execCompositionDrained
  refine KN_next ?_
  split
  · exact g2
  · refine keeps_ite (P := Keeps r) ?_ ?_
    · exact g2
    · split
      · rename_i q1
        have h2 : Keeps r _ := KP_of q1 (by
          refine keeps_cleanToPeat ?_
          · exact g2
          )
        refine keeps_ite (P := Keeps r) ?_ ?_
        · exact h2
        · refine keeps_sendFallow ?_
          · exact keeps_same h2 rfl

theorem keeps_grant {a1 a2 a3} (g3 : Keeps r a3) : KO (KP (KP (KP (Keeps r)))) (Sys2Proof.Machine.grant a1 a2 a3) := by
  unfold Sys2Proof.Machine.grant
  extract_lets -merge -useContext -underBinder +onlyGivenNames v1
  try clear_value v1
  refine keeps_ite (P := KO (KP (KP (KP (Keeps r))))) ?_ ?_
  · exact KO_none
  · split
    · extract_lets -merge -useContext -underBinder +onlyGivenNames v2
      try clear_value v2
      split
      · rename_i q3
        have h4 : Keeps r _ := KP_of q3 (by
          refine keeps_addRegion ?_
          · exact g3
          )
        extract_lets -merge -useContext -underBinder +onlyGivenNames v5
        try clear_value v5
        extract_lets -merge -useContext -underBinder +onlyGivenNames v6
        try clear_value v6
        extract_lets -merge -useContext -underBinder +onlyGivenNames v7
        try clear_value v7
        refine KO_some ?_
        refine KP_mk ?_
        refine KP_mk ?_
        refine KP_mk ?_
        exact keeps_same h4 rfl
    · exact KO_none

theorem keeps_fallow {a1 a2 a3 a4 a5} (g4 : ∀ b1 b2, Keeps r b2 → Keeps r (a4 b1 b2)) (g5 : Keeps r a5) : Keeps r (Sys2Proof.Machine.fallow a1 a2 a3 a4 a5) := by
  unfold Sys2Proof.Machine.fallow
  refine keeps_ite (P := Keeps r) ?_ ?_
  · exact g5
  · refine keeps_settleWork ?_
    · refine keeps_receive ?_ ?_
      · intro _ _ _ h1
        beta_reduce
        refine keeps_ite (P := KP (Keeps r)) ?_ ?_
        · refine KP_mk ?_
          refine keeps_fault ?_
          · exact h1
        · refine KP_mk ?_
          refine g4 _ _ ?_
          · exact h1
      · exact g5

theorem keeps_execFallowBorrow {a1 a2} (g2 : Keeps r a2) : KN (Keeps r) (Sys2Proof.Machine.execFallowBorrow a1 a2) := by
  unfold Sys2Proof.Machine.execFallowBorrow
  refine KN_next ?_
  refine keeps_fallow ?_ ?_
  · intro _ _ h1
    beta_reduce
    extract_lets -merge -useContext -underBinder +onlyGivenNames v2
    try clear_value v2
    split
    · rename_i q3
      have h4 : KP (KP (KP (Keeps r))) _ := KO_of q3 (by
        refine keeps_grant ?_
        · exact h1
        )
      have h4 : Keeps r _ := h4
      refine keeps_respond ?_
      · exact h4
    · refine keeps_respond ?_
      · exact h1
  · exact g2

theorem keeps_execFallowGrant {a1 a2} (g2 : Keeps r a2) : KN (Keeps r) (Sys2Proof.Machine.execFallowGrant a1 a2) := by
  unfold Sys2Proof.Machine.execFallowGrant
  refine KN_next ?_
  refine keeps_fallow ?_ ?_
  · intro _ _ h1
    beta_reduce
    split
    · exact h1
    · extract_lets -merge -useContext -underBinder +onlyGivenNames v2
      try clear_value v2
      extract_lets -merge -useContext -underBinder +onlyGivenNames v3
      try clear_value v3
      extract_lets -merge -useContext -underBinder +onlyGivenNames v4
      try clear_value v4
      extract_lets -merge -useContext -underBinder +onlyGivenNames v5
      have h6 : Keeps r v5 := by
        subst v5
        refine keeps_endOp ?_
        · exact h1
      try clear_value v5
      extract_lets -merge -useContext -underBinder +onlyGivenNames _ _ v7
      have h8 : Keeps r v7 := by
        subst v7
        exact keeps_same h6 rfl
      try clear_value v7
      refine keeps_finish ?_
      · exact h8
  · exact g2

theorem keeps_execFallowRefuse {a1 a2} (g2 : Keeps r a2) : KN (Keeps r) (Sys2Proof.Machine.execFallowRefuse a1 a2) := by
  unfold Sys2Proof.Machine.execFallowRefuse
  refine KN_next ?_
  refine keeps_fallow ?_ ?_
  · intro _ _ h1
    beta_reduce
    split
    · exact h1
    · extract_lets -merge -useContext -underBinder +onlyGivenNames v2
      have h3 : Keeps r v2 := by
        subst v2
        refine keeps_endOp ?_
        · exact h1
      try clear_value v2
      refine keeps_finish ?_
      · exact keeps_same h3 rfl
  · exact g2

theorem keeps_execFallowReclaimNotice {a1 a2} (g2 : Keeps r a2) : KN (Keeps r) (Sys2Proof.Machine.execFallowReclaimNotice a1 a2) := by
  unfold Sys2Proof.Machine.execFallowReclaimNotice
  refine KN_next ?_
  refine keeps_fallow ?_ ?_
  · intro _ _ h1
    beta_reduce
    split
    · exact h1
    · extract_lets -merge -useContext -underBinder +onlyGivenNames v2
      try clear_value v2
      refine keeps_ite (P := Keeps r) ?_ ?_
      · refine keeps_loseComp ?_
        · exact h1
      · refine keeps_beginDrain ?_
        · exact keeps_same h1 rfl
  · exact g2

theorem keeps_execFallowReturn {a1 a2} (g2 : Keeps r a2) : KN (Keeps r) (Sys2Proof.Machine.execFallowReturn a1 a2) := by
  unfold Sys2Proof.Machine.execFallowReturn
  refine KN_next ?_
  refine keeps_fallow ?_ ?_
  · intro _ _ h1
    beta_reduce
    extract_lets -merge -useContext -underBinder +onlyGivenNames v2
    try clear_value v2
    split
    · exact h1
    · refine keeps_ite (P := Keeps r) ?_ ?_
      · exact h1
      · refine keeps_respond ?_
        · refine keeps_zeroLent ?_
          · exact h1
  · exact g2

theorem keeps_execFallowReleased {a1 a2} (g2 : Keeps r a2) : KN (Keeps r) (Sys2Proof.Machine.execFallowReleased a1 a2) := by
  unfold Sys2Proof.Machine.execFallowReleased
  refine KN_next ?_
  refine keeps_fallow ?_ ?_
  · intro _ _ h1
    beta_reduce
    split
    · exact h1
    · refine keeps_endBorrow ?_
      · exact h1
  · exact g2

theorem keeps_execFallowProbe {a1 a2} (g2 : Keeps r a2) : KN (Keeps r) (Sys2Proof.Machine.execFallowProbe a1 a2) := by
  unfold Sys2Proof.Machine.execFallowProbe
  refine KN_next ?_
  refine keeps_fallow ?_ ?_
  · intro _ _ h1
    beta_reduce
    exact h1
  · exact g2

theorem keeps_adopt {a1 a2} (g2 : Keeps r a2) : Keeps r (Sys2Proof.Machine.adopt a1 a2) := by
  unfold Sys2Proof.Machine.adopt
  refine keeps_foldl (P := Keeps r) (fun _ _ h1 => ?_) ?_
  · split
    · refine keeps_ite (P := Keeps r) ?_ ?_
      · refine keeps_setAllots ?_
        · exact keeps_same h1 rfl
      · exact h1
    · exact h1
  · exact g2

theorem keeps_execFallowProbeTimer {a1 a2} (g2 : Keeps r a2) : KN (Keeps r) (Sys2Proof.Machine.execFallowProbeTimer a1 a2) := by
  unfold Sys2Proof.Machine.execFallowProbeTimer
  refine KN_next ?_
  extract_lets -merge -useContext -underBinder +onlyGivenNames v1
  have h2 : Keeps r v1 := by
    subst v1
    refine keeps_adopt ?_
    · exact g2
  try clear_value v1
  extract_lets -merge -useContext -underBinder +onlyGivenNames v3
  try clear_value v3
  extract_lets -merge -useContext -underBinder +onlyGivenNames _ v4
  have h5 : Keeps r v4 := by
    subst v4
    exact keeps_same h2 rfl
  try clear_value v4
  refine keeps_foldl (P := Keeps r) (fun _ _ h6 => ?_) ?_
  · refine keeps_ite (P := Keeps r) ?_ ?_
    · exact h6
    · refine keeps_sendFallow ?_
      · exact h6
  · exact h5

theorem keeps_sendRecord {a1 a2 a3} (g3 : Keeps r a3) : KO (Keeps r) (Sys2Proof.Machine.sendRecord a1 a2 a3) := by
  unfold Sys2Proof.Machine.sendRecord
  refine keeps_bind (P := Keeps r) (fun _ => ?_)
  split
  · refine keeps_bind (P := Keeps r) (fun _ => ?_)
    extract_lets -merge -useContext -underBinder +onlyGivenNames v1
    try clear_value v1
    extract_lets -merge -useContext -underBinder +onlyGivenNames v2
    try clear_value v2
    extract_lets -merge -useContext -underBinder +onlyGivenNames v3
    try clear_value v3
    refine keeps_ite (P := KO (Keeps r)) ?_ ?_
    · exact KO_none
    · refine KO_some ?_
      refine keeps_foldl (P := Keeps r) (fun _ _ h4 => ?_) ?_
      · split
        · extract_lets -merge -useContext -underBinder +onlyGivenNames v5
          try clear_value v5
          extract_lets -merge -useContext -underBinder +onlyGivenNames _ v6
          try clear_value v6
          refine keeps_issueOp ?_
          · exact h4
      · exact g3

theorem keeps_sendMove {a1 a2} (g2 : Keeps r a2) : Keeps r (Sys2Proof.Machine.sendMove a1 a2) := by
  unfold Sys2Proof.Machine.sendMove
  refine keeps_getD (P := Keeps r) ?_ ?_
  · refine keeps_sendRecord ?_
    · exact g2
  · refine keeps_cancelMove ?_
    · exact g2

theorem keeps_execEvictionPass {a1} (g1 : Keeps r a1) : KN (Keeps r) (Sys2Proof.Machine.execEvictionPass a1) := by
  unfold Sys2Proof.Machine.execEvictionPass
  refine KN_next ?_
  refine keeps_ite (P := Keeps r) ?_ ?_
  · extract_lets -merge -useContext -underBinder +onlyGivenNames v1
    have h2 : Keeps r v1 := by
      subst v1
      refine keeps_evictPass ?_
      · exact g1
    try clear_value v1
    refine keeps_foldl (P := Keeps r) (fun _ _ h3 => ?_) ?_
    · refine keeps_sendMove ?_
      · exact h3
    · exact h2
  · exact g1

theorem keeps_execEvictionCommit {a1 a2} (g2 : Keeps r a2) : KN (Keeps r) (Sys2Proof.Machine.execEvictionCommit a1 a2) := by
  unfold Sys2Proof.Machine.execEvictionCommit
  refine KN_next ?_
  split
  · exact g2
  · refine keeps_ite (P := Keeps r) ?_ ?_
    · exact g2
    · refine keeps_commitMove ?_
      · exact g2

theorem keeps_readBack {a1 a2} (g2 : Keeps r a2) : KO (Keeps r) (Sys2Proof.Machine.readBack a1 a2) := by
  unfold Sys2Proof.Machine.readBack
  split
  · refine KO_some ?_
    exact g2
  · refine keeps_sendRecord ?_
    · refine keeps_modRecord ?_
      · exact g2

theorem keeps_execFetchStart {a1} (g1 : Keeps r a1) : KN (Keeps r) (Sys2Proof.Machine.execFetchStart a1) := by
  unfold Sys2Proof.Machine.execFetchStart
  refine KN_next ?_
  split
  · exact g1
  · refine keeps_getD (P := Keeps r) ?_ ?_
    · refine keeps_bindk (P := Keeps r) (Q := Keeps r) (fun _ h1 => ?_) ?_
      · refine keeps_readBack ?_
        · exact h1
      · refine keeps_startFetch ?_
        · exact g1
    · exact g1

theorem keeps_execFetchDone {a1 a2 a3} (g3 : Keeps r a3) : KN (Keeps r) (Sys2Proof.Machine.execFetchDone a1 a2 a3) := by
  unfold Sys2Proof.Machine.execFetchDone
  refine KN_next ?_
  split
  · exact g3
  · refine keeps_ite (P := Keeps r) ?_ ?_
    · exact g3
    · split
      · refine keeps_modBody ?_
        · exact g3
      · refine keeps_settleWork ?_
        · refine keeps_fetchArrived ?_
          · exact g3

theorem keeps_execWritebackStart {a1} (g1 : Keeps r a1) : KN (Keeps r) (Sys2Proof.Machine.execWritebackStart a1) := by
  unfold Sys2Proof.Machine.execWritebackStart
  refine KN_next ?_
  extract_lets -merge -useContext -underBinder +onlyGivenNames v1
  have h2 : Keeps r v1 := by
    subst v1
    refine keeps_startFirstWb ?_
    · exact g1
  try clear_value v1
  split
  · exact h2
  · refine keeps_getD (P := Keeps r) ?_ ?_
    · refine keeps_readBack ?_
      · exact h2
    · exact g1

theorem keeps_execWritebackDone {a1 a2 a3 a4 a5} (g5 : Keeps r a5) : KN (Keeps r) (Sys2Proof.Machine.execWritebackDone a1 a2 a3 a4 a5) := by
  unfold Sys2Proof.Machine.execWritebackDone
  refine KN_next ?_
  split
  · refine keeps_ite (P := Keeps r) ?_ ?_
    · exact g5
    · split
      · rename_i q1
        have h2 : Keeps r _ := KP_of q1 (by
          refine keeps_sparkCheck ?_
          · exact g5
          )
        refine keeps_settleWork ?_
        · refine keeps_programFail ?_
          · exact h2
      · rename_i q3
        have h4 : Keeps r _ := KP_of q3 (by
          refine keeps_sparkCheck ?_
          · exact g5
          )
        extract_lets -merge -useContext -underBinder +onlyGivenNames _ v5
        try clear_value v5
        refine keeps_settleWork ?_
        · refine keeps_programDone ?_
          · exact h4
  · exact g5

theorem keeps_execReclaimNoticeExpiry {a1 a2} (g2 : Keeps r a2) : KN (Keeps r) (Sys2Proof.Machine.execReclaimNoticeExpiry a1 a2) := by
  unfold Sys2Proof.Machine.execReclaimNoticeExpiry
  refine KN_next ?_
  extract_lets -merge -useContext -underBinder +onlyGivenNames v1
  try clear_value v1
  extract_lets -merge -useContext -underBinder +onlyGivenNames v2
  have h3 : Keeps r v2 := by
    subst v2
    split
    · refine keeps_ite (P := Keeps r) ?_ ?_
      · refine keeps_zeroLent ?_
        · exact g2
      · exact g2
    · exact g2
  try clear_value v2
  refine keeps_settleWork ?_
  · split
    · refine keeps_ite (P := Keeps r) ?_ ?_
      · exact h3
      · split
        · rename_i q4
          have h5 : Keeps r _ := KP_of q4 (by
            refine keeps_cleanToPeat ?_
            · exact h3
            )
          refine keeps_endBorrow ?_
          · refine keeps_loseBodies ?_
            · exact h5
    · exact h3

theorem keeps_execOrphanExpiry {a1 a2} (g2 : Keeps r a2) : KN (Keeps r) (Sys2Proof.Machine.execOrphanExpiry a1 a2) := by
  unfold Sys2Proof.Machine.execOrphanExpiry
  refine KN_next ?_
  split
  · exact g2
  · split
    · exact g2
    · refine keeps_ite (P := Keeps r) ?_ ?_
      · refine keeps_zeroLent ?_
        · exact g2
      · exact g2

theorem keeps_execAllotmentZeroed {a1 a2} (g2 : Keeps r a2) : KN (Keeps r) (Sys2Proof.Machine.execAllotmentZeroed a1 a2) := by
  unfold Sys2Proof.Machine.execAllotmentZeroed
  refine KN_next ?_
  split
  · exact g2
  · refine keeps_ite (P := Keeps r) ?_ ?_
    · exact g2
    · extract_lets -merge -useContext -underBinder +onlyGivenNames v1
      have h2 : Keeps r v1 := by
        subst v1
        refine keeps_clearRuns ?_
        · exact g2
      try clear_value v1
      refine keeps_ite (P := Keeps r) ?_ ?_
      · refine keeps_trimAside ?_
        · exact keeps_same h2 rfl
      · exact keeps_same h2 rfl

theorem keeps_skipChannel {a1 a2 a3} (g3 : Keeps r a3) : Keeps r (Sys2Proof.Machine.skipChannel a1 a2 a3) := by
  unfold Sys2Proof.Machine.skipChannel
  split
  · exact g3
  · extract_lets -merge -useContext -underBinder +onlyGivenNames v1
    try clear_value v1
    refine keeps_ite (P := Keeps r) ?_ ?_
    · refine keeps_setPlough ?_
      · exact g3
    · exact g3

theorem keeps_fenceChannel {a1 a2 a3 a4} (g4 : Keeps r a4) : Keeps r (Sys2Proof.Machine.fenceChannel a1 a2 a3 a4) := by
  unfold Sys2Proof.Machine.fenceChannel
  extract_lets -merge -useContext -underBinder +onlyGivenNames v1
  have h2 : Keeps r v1 := by
    subst v1
    refine keeps_foldl (P := Keeps r) (fun _ _ h3 => ?_) ?_
    · refine keeps_skipChannel ?_
      · exact h3
    · exact g4
  try clear_value v1
  extract_lets -merge -useContext -underBinder +onlyGivenNames v4
  try clear_value v4
  extract_lets -merge -useContext -underBinder +onlyGivenNames v5
  have h6 : Keeps r v5 := by
    subst v5
    refine keeps_modChan ?_
    · exact h2
  try clear_value v5
  split
  · rename_i q7
    have h8 : KP (Keeps r) _ := KP_of q7 (by
      refine keeps_loseChannel ?_
      · exact h6
      )
    have h8 : Keeps r _ := h8
    extract_lets -merge -useContext -underBinder +onlyGivenNames v9
    have h10 : Keeps r v9 := by
      subst v9
      refine keeps_recordFence ?_
      · exact h8
    try clear_value v9
    extract_lets -merge -useContext -underBinder +onlyGivenNames v11
    have h12 : Keeps r v11 := by
      subst v11
      refine keeps_raiseN ?_
      · exact h10
    try clear_value v11
    refine keeps_noticeChannel ?_
    · refine keeps_endEnables ?_
      · exact h12

theorem keeps_lineCorrected {a1 a2 a3} (g3 : Keeps r a3) : Keeps r (Sys2Proof.Machine.lineCorrected a1 a2 a3) := by
  unfold Sys2Proof.Machine.lineCorrected
  extract_lets -merge -useContext -underBinder +onlyGivenNames v1
  try clear_value v1
  refine keeps_countFault ?_
  · refine keeps_modChan ?_
    · exact g3

theorem keeps_lineLost {a1 a2 a3 a4} (g4 : Keeps r a4) : Keeps r (Sys2Proof.Machine.lineLost a1 a2 a3 a4) := by
  unfold Sys2Proof.Machine.lineLost
  extract_lets -merge -useContext -underBinder +onlyGivenNames v1
  try clear_value v1
  extract_lets -merge -useContext -underBinder +onlyGivenNames v2
  try clear_value v2
  extract_lets -merge -useContext -underBinder +onlyGivenNames v3
  try clear_value v3
  extract_lets -merge -useContext -underBinder +onlyGivenNames v4
  try clear_value v4
  extract_lets -merge -useContext -underBinder +onlyGivenNames v5
  have h6 : Keeps r v5 := by
    subst v5
    refine keeps_modChan ?_
    · refine keeps_setPoison ?_
      · exact g4
  try clear_value v5
  extract_lets -merge -useContext -underBinder +onlyGivenNames v7
  have h8 : Keeps r v7 := by
    subst v7
    refine keeps_countFault ?_
    · exact h6
  try clear_value v7
  extract_lets -merge -useContext -underBinder +onlyGivenNames v9
  try clear_value v9
  extract_lets -merge -useContext -underBinder +onlyGivenNames v10
  have h11 : Keeps r v10 := by
    subst v10
    refine keeps_raiseN ?_
    · exact h8
  try clear_value v10
  refine keeps_ite (P := Keeps r) ?_ ?_
  · refine keeps_fenceChannel ?_
    · exact h11
  · exact h11

theorem keeps_dieCorrected {a1 a2 a3} (g3 : Keeps r a3) : Keeps r (Sys2Proof.Machine.dieCorrected a1 a2 a3) := by
  unfold Sys2Proof.Machine.dieCorrected
  refine keeps_countFault ?_
  · refine keeps_modChan ?_
    · exact g3

theorem keeps_lineSparks {a1 a2} (g2 : Keeps r a2) : Keeps r (Sys2Proof.Machine.lineSparks a1 a2) := by
  unfold Sys2Proof.Machine.lineSparks
  extract_lets -merge -useContext -underBinder +onlyGivenNames v1
  try clear_value v1
  split
  · rename_i q2
    have h3 : Keeps r _ := KP_of q2 (by
      refine keeps_sparkCheck ?_
      · exact g2
      )
    split
    · rename_i q4
      have h5 : Keeps r _ := KP_of q4 (by
        refine keeps_sparkCheck ?_
        · exact h3
        )
      split
      · rename_i q6
        have h7 : Keeps r _ := KP_of q6 (by
          refine keeps_sparkCheck ?_
          · exact h5
          )
        extract_lets -merge -useContext -underBinder +onlyGivenNames v8
        have h9 : Keeps r v8 := by
          subst v8
          refine keeps_ite (P := Keeps r) ?_ ?_
          · refine keeps_lineCorrected ?_
            · exact h7
          · exact h7
        try clear_value v8
        extract_lets -merge -useContext -underBinder +onlyGivenNames v10
        have h11 : Keeps r v10 := by
          subst v10
          refine keeps_ite (P := Keeps r) ?_ ?_
          · refine keeps_dieCorrected ?_
            · exact h9
          · exact h9
        try clear_value v10
        refine keeps_ite (P := Keeps r) ?_ ?_
        · refine keeps_lineLost ?_
          · exact h11
        · exact h11

theorem keeps_dieReports {a1 a2 a3 a4} (g4 : Keeps r a4) : Keeps r (Sys2Proof.Machine.dieReports a1 a2 a3 a4) := by
  unfold Sys2Proof.Machine.dieReports
  refine keeps_foldl (P := Keeps r) (fun _ _ h1 => ?_) ?_
  · refine keeps_ite (P := Keeps r) ?_ ?_
    · refine keeps_dieCorrected ?_
      · exact h1
    · exact h1
  · exact g4

theorem keeps_serveAccess {a1 a2 a3 a4 a5 a6} (g6 : Keeps r a6) : Keeps r (Sys2Proof.Machine.serveAccess a1 a2 a3 a4 a5 a6) := by
  unfold Sys2Proof.Machine.serveAccess
  extract_lets -merge -useContext -underBinder +onlyGivenNames v1
  have h2 : Keeps r v1 := by
    subst v1
    refine keeps_dieReports ?_
    · refine keeps_countWaits ?_
      · exact g6
  try clear_value v1
  extract_lets -merge -useContext -underBinder +onlyGivenNames v3
  have h4 : Keeps r v3 := by
    subst v3
    refine keeps_ite (P := Keeps r) ?_ ?_
    · exact h2
    · refine keeps_foldl (P := Keeps r) (fun _ _ h5 => ?_) ?_
      · refine keeps_ite (P := Keeps r) ?_ ?_
        · exact h5
        · refine keeps_lineSparks ?_
          · exact h5
      · exact h2
  try clear_value v3
  extract_lets -merge -useContext -underBinder +onlyGivenNames v6
  try clear_value v6
  refine keeps_settleWork ?_
  · split
    · refine keeps_serveLine ?_
      · exact h4
    · refine keeps_ite (P := Keeps r) ?_ ?_
      · refine keeps_emberWriteP ?_
        · exact h4
      · exact h4

theorem keeps_execEmberAccess {a1 a2 a3 a4 a5 a6} (g6 : Keeps r a6) : KN (Keeps r) (Sys2Proof.Machine.execEmberAccess a1 a2 a3 a4 a5 a6) := by
  unfold Sys2Proof.Machine.execEmberAccess
  extract_lets -merge -useContext -underBinder +onlyGivenNames v1
  try clear_value v1
  refine KN_next ?_
  refine keeps_ite (P := Keeps r) ?_ ?_
  · exact g6
  · refine keeps_serveAccess ?_
    · exact g6

theorem keeps_execEmberLineError {a1 a2 a3 a4} (g4 : Keeps r a4) : KN (Keeps r) (Sys2Proof.Machine.execEmberLineError a1 a2 a3 a4) := by
  unfold Sys2Proof.Machine.execEmberLineError
  refine KN_next ?_
  extract_lets -merge -useContext -underBinder +onlyGivenNames v1
  try clear_value v1
  extract_lets -merge -useContext -underBinder +onlyGivenNames v2
  try clear_value v2
  refine keeps_ite (P := Keeps r) ?_ ?_
  · exact g4
  · split
    · rename_i q3
      have h4 : Keeps r _ := KP_of q3 (by
        refine keeps_sparkCheck ?_
        · exact g4
        )
      refine keeps_settleWork ?_
      · refine keeps_ite (P := Keeps r) ?_ ?_
        · refine keeps_lineLost ?_
          · exact h4
        · refine keeps_lineCorrected ?_
          · exact h4

theorem keeps_scrubNext {a1 a2} (g2 : Keeps r a2) : Keeps r (Sys2Proof.Machine.scrubNext a1 a2) := by
  unfold Sys2Proof.Machine.scrubNext
  extract_lets -merge -useContext -underBinder +onlyGivenNames v1
  try clear_value v1
  refine keeps_ite (P := Keeps r) ?_ ?_
  · refine keeps_setChan ?_
    · exact g2
  · refine keeps_ite (P := Keeps r) ?_ ?_
    · refine keeps_setChan ?_
      · exact g2
    · refine keeps_tallyAdd ?_
      · refine keeps_setChan ?_
        · exact g2

theorem keeps_execScrubStep {a1 a2 a3 a4} (g4 : Keeps r a4) : KN (Keeps r) (Sys2Proof.Machine.execScrubStep a1 a2 a3 a4) := by
  unfold Sys2Proof.Machine.execScrubStep
  refine KN_next ?_
  extract_lets -merge -useContext -underBinder +onlyGivenNames v1
  try clear_value v1
  extract_lets -merge -useContext -underBinder +onlyGivenNames v2
  try clear_value v2
  extract_lets -merge -useContext -underBinder +onlyGivenNames v3
  try clear_value v3
  refine keeps_ite (P := Keeps r) ?_ ?_
  · exact g4
  · refine keeps_ite (P := Keeps r) ?_ ?_
    · refine keeps_scrubNext ?_
      · exact g4
    · extract_lets -merge -useContext -underBinder +onlyGivenNames v4
      have h5 : Keeps r v4 := by
        subst v4
        refine keeps_foldl (P := Keeps r) (fun _ _ h6 => ?_) ?_
        · refine keeps_ite (P := Keeps r) ?_ ?_
          · refine keeps_lineCorrected ?_
            · exact h6
          · exact h6
        · exact g4
      try clear_value v4
      extract_lets -merge -useContext -underBinder +onlyGivenNames v7
      try clear_value v7
      extract_lets -merge -useContext -underBinder +onlyGivenNames v8
      try clear_value v8
      extract_lets -merge -useContext -underBinder +onlyGivenNames v9
      have h10 : Keeps r v9 := by
        subst v9
        refine keeps_ite (P := Keeps r) ?_ ?_
        · refine keeps_modChan ?_
          · exact h5
        · exact h5
      try clear_value v9
      extract_lets -merge -useContext -underBinder +onlyGivenNames v11
      have h12 : Keeps r v11 := by
        subst v11
        refine keeps_foldl (P := Keeps r) (fun _ _ h13 => ?_) ?_
        · refine keeps_ite (P := Keeps r) ?_ ?_
          · refine keeps_lineLost ?_
            · exact h13
          · exact h13
        · exact h10
      try clear_value v11
      refine keeps_settleWork ?_
      · refine keeps_scrubNext ?_
        · exact h12

theorem keeps_execSoftRepairDone {a1 a2 a3} (g3 : Keeps r a3) : KN (Keeps r) (Sys2Proof.Machine.execSoftRepairDone a1 a2 a3) := by
  unfold Sys2Proof.Machine.execSoftRepairDone
  refine KN_next ?_
  extract_lets -merge -useContext -underBinder +onlyGivenNames v1
  try clear_value v1
  refine keeps_ite (P := Keeps r) ?_ ?_
  · exact g3
  · extract_lets -merge -useContext -underBinder +onlyGivenNames v2
    have h3 : Keeps r v2 := by
      subst v2
      refine keeps_setChan ?_
      · exact g3
    try clear_value v2
    refine keeps_strainAdd ?_
    · refine keeps_tallyAdd ?_
      · exact h3

end Sys2Proof.Machine
end

