-- ==== Sys2Proof/Laws/KeepsSearch.lean ====
section
/-! SUPPORT. What the operations of the Seedbank, the Gleaner, security and Headland keep (`Keeps`): one lemma per operation. -/

namespace Sys2Proof.Machine

variable {r s t : State} {α β ε : Type}

theorem keeps_admitJob {a1 a2} (g2 : Keeps r a2) : KP (Keeps r) (Sys2Proof.Machine.admitJob a1 a2) := by
  unfold Sys2Proof.Machine.admitJob
  extract_lets -merge -useContext -underBinder +onlyGivenNames v1
  try clear_value v1
  extract_lets -merge -useContext -underBinder +onlyGivenNames v2
  try clear_value v2
  refine keeps_ite (P := KP (Keeps r)) ?_ ?_
  · refine KP_mk ?_
    exact keeps_same g2 rfl
  · refine KP_mk ?_
    exact keeps_same g2 rfl

theorem keeps_execSeedLookup {a1 a2} (g2 : Keeps r a2) : KN (Keeps r) (Sys2Proof.Machine.execSeedLookup a1 a2) := by
  unfold Sys2Proof.Machine.execSeedLookup
  refine KN_next ?_
  refine keeps_runCmd ?_ ?_
  · intro _ _ _ h1
    beta_reduce
    extract_lets -merge -useContext -underBinder +onlyGivenNames v2
    try clear_value v2
    extract_lets -merge -useContext -underBinder +onlyGivenNames v3
    try clear_value v3
    extract_lets -merge -useContext -underBinder +onlyGivenNames v4
    try clear_value v4
    extract_lets -merge -useContext -underBinder +onlyGivenNames v5
    try clear_value v5
    refine keeps_ite (P := KP (Keeps r)) ?_ ?_
    · refine KP_mk ?_
      exact h1
    · split
      · refine keeps_failInput ?_
        · exact h1
      · refine keeps_admitJob ?_
        · exact h1
  · exact g2

theorem keeps_execSeedStep {a1 a2} (g2 : Keeps r a2) : KN (Keeps r) (Sys2Proof.Machine.execSeedStep a1 a2) := by
  unfold Sys2Proof.Machine.execSeedStep
  refine KN_next ?_
  refine keeps_runCmd ?_ ?_
  · intro _ _ _ h1
    beta_reduce
    extract_lets -merge -useContext -underBinder +onlyGivenNames v2
    try clear_value v2
    extract_lets -merge -useContext -underBinder +onlyGivenNames v3
    try clear_value v3
    refine keeps_ite (P := KP (Keeps r)) ?_ ?_
    · refine KP_mk ?_
      exact h1
    · split
      · refine KP_mk ?_
        exact h1
      · refine keeps_ite (P := KP (Keeps r)) ?_ ?_
        · refine KP_mk ?_
          exact h1
        · split
          · refine KP_mk ?_
            exact h1
          · refine keeps_ite (P := KP (Keeps r)) ?_ ?_
            · refine KP_mk ?_
              exact h1
            · extract_lets -merge -useContext -underBinder +onlyGivenNames v4
              have h5 : ∀ a6 a7, Keeps r a7 → Keeps r (v4 a6 a7) := by
                subst v4
                intro _ _ h8
                beta_reduce
                split
                · exact h8
                · exact keeps_same h8 rfl
              try clear_value v4
              split
              · rename_i q9
                have h10 : Keeps r _ := KP_of q9 (by
                  refine keeps_admitJob ?_
                  · exact h1
                  )
                refine KP_mk ?_
                refine h5 _ _ ?_
                · exact h10
  · exact g2

theorem keeps_execSeedCensus {a1 a2} (g2 : Keeps r a2) : KN (Keeps r) (Sys2Proof.Machine.execSeedCensus a1 a2) := by
  unfold Sys2Proof.Machine.execSeedCensus
  refine KN_next ?_
  refine keeps_runCmd ?_ ?_
  · intro _ _ _ h1
    beta_reduce
    extract_lets -merge -useContext -underBinder +onlyGivenNames v2
    try clear_value v2
    extract_lets -merge -useContext -underBinder +onlyGivenNames v3
    try clear_value v3
    extract_lets -merge -useContext -underBinder +onlyGivenNames v4
    try clear_value v4
    extract_lets -merge -useContext -underBinder +onlyGivenNames v5
    try clear_value v5
    extract_lets -merge -useContext -underBinder +onlyGivenNames v6
    try clear_value v6
    refine keeps_ite (P := KP (Keeps r)) ?_ ?_
    · refine KP_mk ?_
      exact h1
    · refine keeps_ite (P := KP (Keeps r)) ?_ ?_
      · refine KP_mk ?_
        exact h1
      · split
        · refine KP_mk ?_
          exact h1
        · refine keeps_ite (P := KP (Keeps r)) ?_ ?_
          · refine KP_mk ?_
            exact h1
          · refine keeps_admitJob ?_
            · exact h1
  · exact g2

theorem keeps_putJob {a1 a2} (g2 : Keeps r a2) : Keeps r (Sys2Proof.Machine.putJob a1 a2) := by
  unfold Sys2Proof.Machine.putJob
  exact keeps_same g2 rfl

theorem keeps_endJob {a1 a2 a3} (g3 : Keeps r a3) : Keeps r (Sys2Proof.Machine.endJob a1 a2 a3) := by
  unfold Sys2Proof.Machine.endJob
  refine keeps_finish ?_
  · exact keeps_same g3 rfl

theorem keeps_searchKey {a1 a2 a3 a4 a5 a6 a7} (g7 : Keeps r a7) : Keeps r (Sys2Proof.Machine.searchKey a1 a2 a3 a4 a5 a6 a7) := by
  unfold Sys2Proof.Machine.searchKey
  extract_lets -merge -useContext -underBinder +onlyGivenNames v1
  try clear_value v1
  extract_lets -merge -useContext -underBinder +onlyGivenNames v2
  try clear_value v2
  extract_lets -merge -useContext -underBinder +onlyGivenNames v3
  have h4 : ∀ a5 a6, Keeps r a6 → Keeps r (v3 a5 a6) := by
    subst v3
    intro _ _ h7
    beta_reduce
    refine keeps_ite (P := Keeps r) ?_ ?_
    · refine keeps_endJob ?_
      · exact h7
    · refine keeps_putJob ?_
      · exact h7
  try clear_value v3
  split
  · refine keeps_ite (P := Keeps r) ?_ ?_
    · refine h4 _ _ ?_
      · exact g7
    · refine h4 _ _ ?_
      · exact g7
  · extract_lets -merge -useContext -underBinder +onlyGivenNames v8
    try clear_value v8
    extract_lets -merge -useContext -underBinder +onlyGivenNames v9
    have h10 : Keeps r v9 := by
      subst v9
      refine keeps_hitEntry ?_
      · exact g7
    try clear_value v9
    extract_lets -merge -useContext -underBinder +onlyGivenNames v11
    try clear_value v11
    extract_lets -merge -useContext -underBinder +onlyGivenNames v12
    have h13 : Keeps r v12 := by
      subst v12
      split
      · exact h10
      · exact keeps_same h10 rfl
    try clear_value v12
    refine h4 _ _ ?_
    · exact h13

theorem keeps_searchNext {a1 a2 a3 a4 a5} (g5 : Keeps r a5) : Keeps r (Sys2Proof.Machine.searchNext a1 a2 a3 a4 a5) := by
  unfold Sys2Proof.Machine.searchNext
  split
  · refine keeps_endJob ?_
    · exact g5
  · extract_lets -merge -useContext -underBinder +onlyGivenNames v1
    try clear_value v1
    extract_lets -merge -useContext -underBinder +onlyGivenNames v2
    try clear_value v2
    extract_lets -merge -useContext -underBinder +onlyGivenNames v3
    have h4 : ∀ a5 a6 a7, Keeps r a7 → Keeps r (v3 a5 a6 a7) := by
      subst v3
      intro _ _ _ h8
      beta_reduce
      extract_lets -merge -useContext -underBinder +onlyGivenNames _ v9
      have h10 : Keeps r v9 := by
        subst v9
        refine keeps_ite (P := Keeps r) ?_ ?_
        · exact keeps_same h8 rfl
        · exact h8
      try clear_value v9
      refine keeps_endJob ?_
      · exact h10
    try clear_value v3
    split
    · refine h4 _ _ _ ?_
      · exact g5
    · extract_lets -merge -useContext -underBinder +onlyGivenNames v11
      try clear_value v11
      extract_lets -merge -useContext -underBinder +onlyGivenNames _ v12
      have h13 : Keeps r v12 := by
        subst v12
        refine keeps_hitEntry ?_
        · exact keeps_same g5 rfl
      try clear_value v12
      refine keeps_ite (P := Keeps r) ?_ ?_
      · refine h4 _ _ _ ?_
        · exact h13
      · refine keeps_ite (P := Keeps r) ?_ ?_
        · refine h4 _ _ _ ?_
          · exact h13
        · refine keeps_putJob ?_
          · exact h13

theorem keeps_searchCensus {a1 a2 a3 a4 a5 a6} (g6 : Keeps r a6) : Keeps r (Sys2Proof.Machine.searchCensus a1 a2 a3 a4 a5 a6) := by
  unfold Sys2Proof.Machine.searchCensus
  extract_lets -merge -useContext -underBinder +onlyGivenNames v1
  try clear_value v1
  extract_lets -merge -useContext -underBinder +onlyGivenNames v2
  try clear_value v2
  split
  · refine keeps_endJob ?_
    · exact g6
  · refine keeps_endJob ?_
    · exact g6

theorem keeps_onUnit {a1 a2 a3 a4} (g4 : Keeps r a4) : Keeps r (Sys2Proof.Machine.onUnit a1 a2 a3 a4) := by
  unfold Sys2Proof.Machine.onUnit
  exact keeps_same g4 rfl

theorem keeps_takeFlips {a1 a2} (g2 : Keeps r a2) : Keeps r (Sys2Proof.Machine.takeFlips a1 a2) := by
  unfold Sys2Proof.Machine.takeFlips
  refine keeps_foldl (P := Keeps r) (fun _ _ h1 => ?_) ?_
  · refine keeps_onUnit ?_
    · exact h1
  · exact g2

theorem keeps_execSeedSearch {a1 a2} (g2 : Keeps r a2) : KN (Keeps r) (Sys2Proof.Machine.execSeedSearch a1 a2) := by
  unfold Sys2Proof.Machine.execSeedSearch
  extract_lets -merge -useContext -underBinder +onlyGivenNames v1
  have h2 : Keeps r v1 := by
    subst v1
    refine keeps_takeFlips ?_
    · exact g2
  try clear_value v1
  refine KN_next ?_
  split
  · exact h2
  · extract_lets -merge -useContext -underBinder +onlyGivenNames v3
    have h4 : Keeps r v3 := by
      subst v3
      refine keeps_tenantAdd ?_
      · exact h2
    try clear_value v3
    split
    · refine keeps_endJob ?_
      · exact h4
    · split
      · refine keeps_searchKey ?_
        · exact h4
      · refine keeps_searchNext ?_
        · exact h4
      · refine keeps_searchCensus ?_
        · exact h4

theorem keeps_judgeRecords {a1 a2 a3 a4 a5} (g5 : Keeps r a5) : KP (KP (Keeps r)) (Sys2Proof.Machine.judgeRecords a1 a2 a3 a4 a5) := by
  induction a4 generalizing a5 with
  | nil => exact g5
  | cons e es ih =>
    unfold Sys2Proof.Machine.judgeRecords
    have h := ih (KP_snd (keeps_judge (a1 := a1) (a2 := seedTarget a2 a3 e.key) (a3 := .content 2) g5))
    dsimp only
    split <;> exact h

theorem keeps_execSeedInsert {a1 a2} (g2 : Keeps r a2) : KN (Keeps r) (Sys2Proof.Machine.execSeedInsert a1 a2) := by
  unfold Sys2Proof.Machine.execSeedInsert
  refine KN_next ?_
  refine keeps_placeAll ?_
  · refine keeps_runCmd ?_ ?_
    · intro _ _ _ h1
      beta_reduce
      extract_lets -merge -useContext -underBinder +onlyGivenNames v2
      try clear_value v2
      extract_lets -merge -useContext -underBinder +onlyGivenNames v3
      try clear_value v3
      extract_lets -merge -useContext -underBinder +onlyGivenNames v4
      try clear_value v4
      refine keeps_ite (P := KP (Keeps r)) ?_ ?_
      · refine KP_mk ?_
        exact h1
      · split
        · refine KP_mk ?_
          exact h1
        · extract_lets -merge -useContext -underBinder +onlyGivenNames v5
          try clear_value v5
          split
          · rename_i q6
            have h7 : KP (Keeps r) _ := KP_of q6 (by
              refine keeps_judgeRecords ?_
              · exact h1
              )
            have h7 : Keeps r _ := h7
            refine KP_mk ?_
            exact keeps_same h7 rfl
    · exact g2

theorem keeps_countInsert {a1 a2 a3} (g3 : Keeps r a3) : Keeps r (Sys2Proof.Machine.countInsert a1 a2 a3) := by
  unfold Sys2Proof.Machine.countInsert
  split
  · exact g3
  · exact keeps_same g3 rfl

theorem keeps_execInsertCommit {a1 a2} (g2 : Keeps r a2) : KN (Keeps r) (Sys2Proof.Machine.execInsertCommit a1 a2) := by
  unfold Sys2Proof.Machine.execInsertCommit
  refine KN_next ?_
  split
  · exact g2
  · split
    · exact g2
    · refine keeps_placeAll ?_
      · refine keeps_countInsert ?_
        · refine keeps_commitInsert ?_
          · refine keeps_setBank ?_
            · exact g2

theorem keeps_deleteMatching {a1 a2 a3 a4} (g4 : Keeps r a4) : KP (Keeps r) (Sys2Proof.Machine.deleteMatching a1 a2 a3 a4) := by
  unfold Sys2Proof.Machine.deleteMatching
  extract_lets -merge -useContext -underBinder +onlyGivenNames v1
  try clear_value v1
  extract_lets -merge -useContext -underBinder +onlyGivenNames v2
  try clear_value v2
  extract_lets -merge -useContext -underBinder +onlyGivenNames v3
  try clear_value v3
  extract_lets -merge -useContext -underBinder +onlyGivenNames _ v4
  have h5 : Keeps r v4 := by
    subst v4
    exact keeps_same g4 rfl
  try clear_value v4
  extract_lets -merge -useContext -underBinder +onlyGivenNames v6
  have h7 : Keeps r v6 := by
    subst v6
    refine keeps_foldl (P := Keeps r) (fun _ _ h8 => ?_) ?_
    · refine keeps_countInsert ?_
      · exact h8
    · exact h5
  try clear_value v6
  extract_lets -merge -useContext -underBinder +onlyGivenNames v9
  try clear_value v9
  extract_lets -merge -useContext -underBinder +onlyGivenNames _ v10
  have h11 : Keeps r v10 := by
    subst v10
    exact keeps_same h7 rfl
  try clear_value v10
  refine KP_mk ?_
  exact h11

theorem keeps_execSeedDelete {a1 a2} (g2 : Keeps r a2) : KN (Keeps r) (Sys2Proof.Machine.execSeedDelete a1 a2) := by
  unfold Sys2Proof.Machine.execSeedDelete
  refine KN_next ?_
  refine keeps_placeAll ?_
  · refine keeps_runCmd ?_ ?_
    · intro _ _ _ h1
      beta_reduce
      extract_lets -merge -useContext -underBinder +onlyGivenNames v2
      try clear_value v2
      extract_lets -merge -useContext -underBinder +onlyGivenNames v3
      try clear_value v3
      extract_lets -merge -useContext -underBinder +onlyGivenNames v4
      try clear_value v4
      refine keeps_ite (P := KP (Keeps r)) ?_ ?_
      · refine KP_mk ?_
        exact h1
      · split
        · refine KP_mk ?_
          exact h1
        · extract_lets -merge -useContext -underBinder +onlyGivenNames v5
          try clear_value v5
          extract_lets -merge -useContext -underBinder +onlyGivenNames v6
          try clear_value v6
          split
          · rename_i q7
            have h8 : Keeps r _ := KP_of q7 (by
              refine keeps_judge ?_
              · exact h1
              )
            refine keeps_ite (P := KP (Keeps r)) ?_ ?_
            · refine KP_mk ?_
              exact h8
            · extract_lets -merge -useContext -underBinder +onlyGivenNames v9
              try clear_value v9
              split
              · rename_i q10
                have h11 : Keeps r _ := KP_of q10 (by
                  refine keeps_deleteMatching ?_
                  · exact h8
                  )
                refine KP_mk ?_
                exact h11
    · exact g2

theorem keeps_execSeedPost {a1 a2} (g2 : Keeps r a2) : KN (Keeps r) (Sys2Proof.Machine.execSeedPost a1 a2) := by
  unfold Sys2Proof.Machine.execSeedPost
  refine KN_next ?_
  refine keeps_placeAll ?_
  · refine keeps_runCmd ?_ ?_
    · intro _ _ _ h1
      beta_reduce
      extract_lets -merge -useContext -underBinder +onlyGivenNames v2
      try clear_value v2
      extract_lets -merge -useContext -underBinder +onlyGivenNames v3
      try clear_value v3
      extract_lets -merge -useContext -underBinder +onlyGivenNames v4
      try clear_value v4
      extract_lets -merge -useContext -underBinder +onlyGivenNames v5
      try clear_value v5
      refine keeps_ite (P := KP (Keeps r)) ?_ ?_
      · refine KP_mk ?_
        exact h1
      · split
        · refine KP_mk ?_
          exact h1
        · refine keeps_ite (P := KP (Keeps r)) ?_ ?_
          · refine KP_mk ?_
            exact h1
          · split
            · refine KP_mk ?_
              exact h1
            · refine keeps_ite (P := KP (Keeps r)) ?_ ?_
              · refine KP_mk ?_
                exact h1
              · refine keeps_ite (P := KP (Keeps r)) ?_ ?_
                · refine KP_mk ?_
                  exact h1
                · refine keeps_ite (P := KP (Keeps r)) ?_ ?_
                  · refine KP_mk ?_
                    exact h1
                  · refine keeps_ite (P := KP (Keeps r)) ?_ ?_
                    · refine KP_mk ?_
                      exact h1
                    · extract_lets -merge -useContext -underBinder +onlyGivenNames v6
                      try clear_value v6
                      refine KP_mk ?_
                      refine keeps_settlePosts ?_
                      · exact keeps_same h1 rfl
    · exact g2

theorem keeps_execSeedExport {a1 a2} (g2 : Keeps r a2) : KN (Keeps r) (Sys2Proof.Machine.execSeedExport a1 a2) := by
  unfold Sys2Proof.Machine.execSeedExport
  refine KN_next ?_
  refine keeps_runCmd ?_ ?_
  · intro _ _ _ h1
    beta_reduce
    extract_lets -merge -useContext -underBinder +onlyGivenNames v2
    try clear_value v2
    extract_lets -merge -useContext -underBinder +onlyGivenNames v3
    try clear_value v3
    refine keeps_ite (P := KP (Keeps r)) ?_ ?_
    · refine KP_mk ?_
      exact h1
    · split
      · refine KP_mk ?_
        exact h1
      · extract_lets -merge -useContext -underBinder +onlyGivenNames v4
        try clear_value v4
        extract_lets -merge -useContext -underBinder +onlyGivenNames v5
        try clear_value v5
        refine keeps_ite (P := KP (Keeps r)) ?_ ?_
        · refine KP_mk ?_
          exact h1
        · refine KP_mk ?_
          exact h1
  · exact g2

theorem keeps_freeBank {a1 a2} (g2 : Keeps r a2) : Keeps r (Sys2Proof.Machine.freeBank a1 a2) := by
  unfold Sys2Proof.Machine.freeBank
  split
  · exact g2
  · extract_lets -merge -useContext -underBinder +onlyGivenNames _ v1
    have h2 : Keeps r v1 := by
      subst v1
      exact keeps_same g2 rfl
    try clear_value v1
    extract_lets -merge -useContext -underBinder +onlyGivenNames v3
    try clear_value v3
    extract_lets -merge -useContext -underBinder +onlyGivenNames _ v4
    have h5 : Keeps r v4 := by
      subst v4
      exact keeps_same h2 rfl
    try clear_value v4
    refine keeps_foldl (P := Keeps r) (fun _ _ h6 => ?_) ?_
    · exact keeps_same h6 rfl
    · exact h5

theorem keeps_execSeedBankSet {a1 a2} (g2 : Keeps r a2) : KN (Keeps r) (Sys2Proof.Machine.execSeedBankSet a1 a2) := by
  unfold Sys2Proof.Machine.execSeedBankSet
  refine KN_next ?_
  refine keeps_placeAll ?_
  · refine keeps_runCmd ?_ ?_
    · intro _ _ _ h1
      beta_reduce
      extract_lets -merge -useContext -underBinder +onlyGivenNames v2
      try clear_value v2
      extract_lets -merge -useContext -underBinder +onlyGivenNames v3
      try clear_value v3
      extract_lets -merge -useContext -underBinder +onlyGivenNames v4
      try clear_value v4
      extract_lets -merge -useContext -underBinder +onlyGivenNames v5
      try clear_value v5
      refine keeps_ite (P := KP (Keeps r)) ?_ ?_
      · refine KP_mk ?_
        exact h1
      · refine keeps_ite (P := KP (Keeps r)) ?_ ?_
        · refine KP_mk ?_
          exact h1
        · refine keeps_ite (P := KP (Keeps r)) ?_ ?_
          · refine KP_mk ?_
            exact h1
          · split
            · rename_i q6
              have h7 : Keeps r _ := KP_of q6 (by
                refine keeps_judge ?_
                · exact h1
                )
              refine keeps_ite (P := KP (Keeps r)) ?_ ?_
              · refine KP_mk ?_
                exact h7
              · refine keeps_ite (P := KP (Keeps r)) ?_ ?_
                · refine KP_mk ?_
                  refine keeps_freeBank ?_
                  · exact h7
                · refine KP_mk ?_
                  refine keeps_setBank ?_
                  · exact h7
    · exact g2

theorem keeps_execSeedConfig {a1 a2} (g2 : Keeps r a2) : KN (Keeps r) (Sys2Proof.Machine.execSeedConfig a1 a2) := by
  unfold Sys2Proof.Machine.execSeedConfig
  refine KN_next ?_
  refine keeps_runCmd ?_ ?_
  · intro _ _ _ h1
    beta_reduce
    extract_lets -merge -useContext -underBinder +onlyGivenNames v2
    try clear_value v2
    extract_lets -merge -useContext -underBinder +onlyGivenNames v3
    try clear_value v3
    refine keeps_ite (P := KP (Keeps r)) ?_ ?_
    · refine KP_mk ?_
      exact h1
    · split
      · rename_i q4
        have h5 : Keeps r _ := KP_of q4 (by
          refine keeps_judge ?_
          · exact h1
          )
        refine keeps_ite (P := KP (Keeps r)) ?_ ?_
        · refine KP_mk ?_
          exact h5
        · extract_lets -merge -useContext -underBinder +onlyGivenNames v6
          try clear_value v6
          refine keeps_stage ?_
          · exact h5
  · exact g2

theorem keeps_execSeedStatus {a1 a2} (g2 : Keeps r a2) : KN (Keeps r) (Sys2Proof.Machine.execSeedStatus a1 a2) := by
  unfold Sys2Proof.Machine.execSeedStatus
  refine KN_next ?_
  refine keeps_runCmd ?_ ?_
  · intro _ _ _ h1
    beta_reduce
    refine keeps_ite (P := KP (Keeps r)) ?_ ?_
    · refine KP_mk ?_
      exact h1
    · extract_lets -merge -useContext -underBinder +onlyGivenNames v2
      try clear_value v2
      refine KP_mk ?_
      exact h1
  · exact g2

theorem keeps_execSeedRateUpdate {a1 a2} (g2 : Keeps r a2) : KN (Keeps r) (Sys2Proof.Machine.execSeedRateUpdate a1 a2) := by
  unfold Sys2Proof.Machine.execSeedRateUpdate
  refine KN_next ?_
  exact keeps_same g2 rfl

theorem keeps_execAgeTick {a1} (g1 : Keeps r a1) : KN (Keeps r) (Sys2Proof.Machine.execAgeTick a1) := by
  unfold Sys2Proof.Machine.execAgeTick
  refine KN_next ?_
  exact keeps_same g1 rfl

theorem keeps_execEvictionEngineCommit {a1} (g1 : Keeps r a1) : KN (Keeps r) (Sys2Proof.Machine.execEvictionEngineCommit a1) := by
  unfold Sys2Proof.Machine.execEvictionEngineCommit
  refine KN_next ?_
  split
  · exact g1
  · refine keeps_placeAll ?_
    · refine keeps_dropEntry ?_
      · exact g1

theorem keeps_execCursorIdleExpiry {a1 a2} (g2 : Keeps r a2) : KN (Keeps r) (Sys2Proof.Machine.execCursorIdleExpiry a1 a2) := by
  unfold Sys2Proof.Machine.execCursorIdleExpiry
  extract_lets -merge -useContext -underBinder +onlyGivenNames v1
  try clear_value v1
  refine KN_next ?_
  split
  · exact g2
  · refine keeps_ite (P := Keeps r) ?_ ?_
    · exact keeps_same g2 rfl
    · exact g2

theorem keeps_softError {a1 a2 a3 a4 a5} (g5 : Keeps r a5) : Keeps r (Sys2Proof.Machine.softError a1 a2 a3 a4 a5) := by
  unfold Sys2Proof.Machine.softError
  split
  · refine keeps_raiseN ?_
    · exact g5
  · extract_lets -merge -useContext -underBinder +onlyGivenNames v1
    try clear_value v1
    extract_lets -merge -useContext -underBinder +onlyGivenNames v2
    try clear_value v2
    refine keeps_raiseN ?_
    · exact g5

theorem keeps_shadowSpark {a1 a2} (g2 : Keeps r a2) : Keeps r (Sys2Proof.Machine.shadowSpark a1 a2) := by
  unfold Sys2Proof.Machine.shadowSpark
  split
  · exact g2
  · split
    · exact g2
    · split
      · rename_i q1
        have h2 : Keeps r _ := KP_of q1 (by
          refine keeps_sparkCheck ?_
          · exact g2
          )
        exact h2
      · rename_i q3
        have h4 : Keeps r _ := KP_of q3 (by
          refine keeps_sparkCheck ?_
          · exact g2
          )
        refine keeps_softError ?_
        · exact keeps_same h4 rfl

theorem keeps_execShadowCompare {a1 a2 a3 a4 a5} (g5 : Keeps r a5) : KN (Keeps r) (Sys2Proof.Machine.execShadowCompare a1 a2 a3 a4 a5) := by
  unfold Sys2Proof.Machine.execShadowCompare
  refine KN_next ?_
  refine keeps_ite (P := Keeps r) ?_ ?_
  · exact g5
  · refine keeps_ite (P := Keeps r) ?_ ?_
    · extract_lets -merge -useContext -underBinder +onlyGivenNames v1
      have h2 : Keeps r v1 := by
        subst v1
        refine keeps_softError ?_
        · refine keeps_shadowSpark ?_
          · exact g5
      try clear_value v1
      split
      · exact h2
      · refine keeps_placeAll ?_
        · refine keeps_dropEntry ?_
          · exact h2
    · refine keeps_ite (P := Keeps r) ?_ ?_
      · refine keeps_softError ?_
        · refine keeps_onUnit ?_
          · refine keeps_shadowSpark ?_
            · exact g5
      · refine keeps_shadowSpark ?_
        · exact g5

theorem keeps_execGleanSwathCreate {a1 a2} (g2 : Keeps r a2) : KN (Keeps r) (Sys2Proof.Machine.execGleanSwathCreate a1 a2) := by
  unfold Sys2Proof.Machine.execGleanSwathCreate
  refine KN_next ?_
  refine keeps_runCmd ?_ ?_
  · intro _ _ _ h1
    beta_reduce
    refine keeps_ite (P := KP (Keeps r)) ?_ ?_
    · refine KP_mk ?_
      exact h1
    · split
      · refine KP_mk ?_
        exact h1
      · refine keeps_ite (P := KP (Keeps r)) ?_ ?_
        · refine KP_mk ?_
          exact h1
        · refine keeps_ite (P := KP (Keeps r)) ?_ ?_
          · refine KP_mk ?_
            exact h1
          · refine keeps_ite (P := KP (Keeps r)) ?_ ?_
            · refine KP_mk ?_
              exact h1
            · extract_lets -merge -useContext -underBinder +onlyGivenNames v2
              try clear_value v2
              refine keeps_ite (P := KP (Keeps r)) ?_ ?_
              · refine KP_mk ?_
                exact h1
              · refine keeps_ite (P := KP (Keeps r)) ?_ ?_
                · refine KP_mk ?_
                  exact h1
                · refine keeps_ite (P := KP (Keeps r)) ?_ ?_
                  · refine KP_mk ?_
                    exact h1
                  · split
                    · refine KP_mk ?_
                      exact h1
                    · refine KP_mk ?_
                      refine keeps_setSwath ?_
                      · exact h1
  · exact g2

theorem keeps_mergedSwath {a1 a2 a3} (g3 : Keeps r a3) : Keeps r (Sys2Proof.Machine.mergedSwath a1 a2 a3) := by
  unfold Sys2Proof.Machine.mergedSwath
  extract_lets -merge -useContext -underBinder +onlyGivenNames v1
  try clear_value v1
  extract_lets -merge -useContext -underBinder +onlyGivenNames _ v2
  have h3 : Keeps r v2 := by
    subst v2
    exact keeps_same g3 rfl
  try clear_value v2
  refine keeps_foldl (P := Keeps r) (fun _ _ h4 => ?_) ?_
  · refine keeps_finish ?_
    · exact h4
  · exact h3

theorem keeps_dropSwath {a1 a2} (g2 : Keeps r a2) : Keeps r (Sys2Proof.Machine.dropSwath a1 a2) := by
  unfold Sys2Proof.Machine.dropSwath
  extract_lets -merge -useContext -underBinder +onlyGivenNames v1
  have h2 : Keeps r v1 := by
    subst v1
    refine keeps_modSwath ?_
    · exact g2
  try clear_value v1
  extract_lets -merge -useContext -underBinder +onlyGivenNames _ v3
  have h4 : Keeps r v3 := by
    subst v3
    exact keeps_same h2 rfl
  try clear_value v3
  refine keeps_freeDropped ?_
  · refine keeps_mergedSwath ?_
    · exact h4

theorem keeps_execGleanSwathDrop {a1 a2} (g2 : Keeps r a2) : KN (Keeps r) (Sys2Proof.Machine.execGleanSwathDrop a1 a2) := by
  unfold Sys2Proof.Machine.execGleanSwathDrop
  refine KN_next ?_
  refine keeps_runCmd ?_ ?_
  · intro _ _ _ h1
    beta_reduce
    extract_lets -merge -useContext -underBinder +onlyGivenNames v2
    try clear_value v2
    refine keeps_ite (P := KP (Keeps r)) ?_ ?_
    · refine KP_mk ?_
      exact h1
    · split
      · refine KP_mk ?_
        exact h1
      · split
        · rename_i q3
          have h4 : Keeps r _ := KP_of q3 (by
            refine keeps_judge ?_
            · exact h1
            )
          refine keeps_ite (P := KP (Keeps r)) ?_ ?_
          · refine KP_mk ?_
            exact h4
          · refine KP_mk ?_
            refine keeps_dropSwath ?_
            · exact h4
  · exact g2

theorem keeps_unbindLayer {a1 a2 a3} (g3 : Keeps r a3) : Keeps r (Sys2Proof.Machine.unbindLayer a1 a2 a3) := by
  unfold Sys2Proof.Machine.unbindLayer
  extract_lets -merge -useContext -underBinder +onlyGivenNames v1
  have h2 : Keeps r v1 := by
    subst v1
    refine keeps_retireItems ?_
    · exact g3
  try clear_value v1
  exact keeps_same h2 rfl

theorem keeps_bindLayer {a1 a2 a3 a4 a5} (g5 : Keeps r a5) : KP (Keeps r) (Sys2Proof.Machine.bindLayer a1 a2 a3 a4 a5) := by
  unfold Sys2Proof.Machine.bindLayer
  extract_lets -merge -useContext -underBinder +onlyGivenNames v1
  have h2 : Keeps r v1 := by
    subst v1
    split
    · refine keeps_ite (P := Keeps r) ?_ ?_
      · refine keeps_unbindLayer ?_
        · exact g5
      · exact g5
    · exact g5
  try clear_value v1
  extract_lets -merge -useContext -underBinder +onlyGivenNames _ v3
  have h4 : Keeps r v3 := by
    subst v3
    exact keeps_same h2 rfl
  try clear_value v3
  split
  · refine KP_mk ?_
    exact h4
  · refine keeps_foldl (P := KP (Keeps r)) (fun _ _ h5 => ?_) ?_
    · split
      · extract_lets -merge -useContext -underBinder +onlyGivenNames v6
        try clear_value v6
        refine keeps_ite (P := KP (Keeps r)) ?_ ?_
        · exact h5
        · refine KP_mk ?_
          refine keeps_postSheaf ?_
          · refine KP_snd ?_
            exact h5
    · refine KP_mk ?_
      exact h4

theorem keeps_bindLayers {a1 a2 a3 a4 a5} (g5 : Keeps r a5) : KP (Keeps r) (Sys2Proof.Machine.bindLayers a1 a2 a3 a4 a5) := by
  unfold Sys2Proof.Machine.bindLayers
  refine keeps_foldl (P := KP (Keeps r)) (fun _ _ h1 => ?_) ?_
  · split
    · rename_i q2
      have h3 : Keeps r _ := KP_of q2 (by
        refine keeps_bindLayer ?_
        · refine KP_snd ?_
          exact h1
        )
      refine KP_mk ?_
      exact h3
  · refine KP_mk ?_
    exact g5

theorem keeps_execGleanBind {a1 a2} (g2 : Keeps r a2) : KN (Keeps r) (Sys2Proof.Machine.execGleanBind a1 a2) := by
  unfold Sys2Proof.Machine.execGleanBind
  refine KN_next ?_
  refine keeps_runCmd ?_ ?_
  · intro _ _ _ h1
    beta_reduce
    extract_lets -merge -useContext -underBinder +onlyGivenNames v2
    try clear_value v2
    extract_lets -merge -useContext -underBinder +onlyGivenNames v3
    try clear_value v3
    extract_lets -merge -useContext -underBinder +onlyGivenNames v4
    try clear_value v4
    extract_lets -merge -useContext -underBinder +onlyGivenNames v5
    try clear_value v5
    extract_lets -merge -useContext -underBinder +onlyGivenNames v6
    try clear_value v6
    refine keeps_ite (P := KP (Keeps r)) ?_ ?_
    · refine KP_mk ?_
      exact h1
    · split
      · refine KP_mk ?_
        exact h1
      · refine keeps_ite (P := KP (Keeps r)) ?_ ?_
        · refine KP_mk ?_
          exact h1
        · refine keeps_ite (P := KP (Keeps r)) ?_ ?_
          · refine KP_mk ?_
            exact h1
          · split
            · refine KP_mk ?_
              exact h1
            · extract_lets -merge -useContext -underBinder +onlyGivenNames v7
              try clear_value v7
              refine keeps_ite (P := KP (Keeps r)) ?_ ?_
              · refine KP_mk ?_
                exact h1
              · split
                · refine KP_mk ?_
                  exact h1
                · split
                  · rename_i q8
                    have h9 : Keeps r _ := KP_of q8 (by
                      refine keeps_judge ?_
                      · exact h1
                      )
                    refine keeps_ite (P := KP (Keeps r)) ?_ ?_
                    · refine KP_mk ?_
                      exact h9
                    · refine keeps_ite (P := KP (Keeps r)) ?_ ?_
                      · refine KP_mk ?_
                        refine keeps_foldl (P := Keeps r) (fun _ _ h10 => ?_) ?_
                        · refine keeps_unbindLayer ?_
                          · exact h10
                        · exact h9
                      · split
                        · rename_i q11
                          have h12 : Keeps r _ := KP_of q11 (by
                            refine keeps_bindLayers ?_
                            · exact h9
                            )
                          refine KP_mk ?_
                          exact h12
  · exact g2

theorem keeps_execGleanSearch {a1 a2} (g2 : Keeps r a2) : KN (Keeps r) (Sys2Proof.Machine.execGleanSearch a1 a2) := by
  unfold Sys2Proof.Machine.execGleanSearch
  refine KN_next ?_
  refine keeps_runCmd ?_ ?_
  · intro _ _ _ h1
    beta_reduce
    extract_lets -merge -useContext -underBinder +onlyGivenNames v2
    try clear_value v2
    extract_lets -merge -useContext -underBinder +onlyGivenNames v3
    try clear_value v3
    extract_lets -merge -useContext -underBinder +onlyGivenNames v4
    try clear_value v4
    refine keeps_ite (P := KP (Keeps r)) ?_ ?_
    · refine KP_mk ?_
      exact h1
    · split
      · refine KP_mk ?_
        exact h1
      · split
        · refine KP_mk ?_
          exact h1
        · split
          · refine KP_mk ?_
            exact h1
          · refine keeps_ite (P := KP (Keeps r)) ?_ ?_
            · refine KP_mk ?_
              exact h1
            · split
              · refine keeps_failInput ?_
                · exact h1
              · refine keeps_ite (P := KP (Keeps r)) ?_ ?_
                · refine KP_mk ?_
                  exact keeps_same h1 rfl
                · extract_lets -merge -useContext -underBinder +onlyGivenNames v5
                  try clear_value v5
                  extract_lets -merge -useContext -underBinder +onlyGivenNames v6
                  try clear_value v6
                  extract_lets -merge -useContext -underBinder +onlyGivenNames v7
                  have h8 : Keeps r v7 := by
                    subst v7
                    refine keeps_tenantAdd ?_
                    · exact h1
                  try clear_value v7
                  refine KP_mk ?_
                  refine keeps_addSearch ?_
                  · exact h8
  · exact g2

theorem keeps_execListVisitStart {a1 a2 a3} (g3 : Keeps r a3) : KN (Keeps r) (Sys2Proof.Machine.execListVisitStart a1 a2 a3) := by
  unfold Sys2Proof.Machine.execListVisitStart
  refine KN_next ?_
  refine keeps_ite (P := Keeps r) ?_ ?_
  · exact g3
  · extract_lets -merge -useContext -underBinder +onlyGivenNames v1
    try clear_value v1
    extract_lets -merge -useContext -underBinder +onlyGivenNames v2
    try clear_value v2
    extract_lets -merge -useContext -underBinder +onlyGivenNames _ v3
    have h4 : Keeps r v3 := by
      subst v3
      exact keeps_same g3 rfl
    try clear_value v3
    extract_lets -merge -useContext -underBinder +onlyGivenNames v5
    try clear_value v5
    extract_lets -merge -useContext -underBinder +onlyGivenNames v6
    try clear_value v6
    exact keeps_same h4 rfl

theorem keeps_execGleanSearchDone {a1 a2} (g2 : Keeps r a2) : KN (Keeps r) (Sys2Proof.Machine.execGleanSearchDone a1 a2) := by
  unfold Sys2Proof.Machine.execGleanSearchDone
  refine KN_next ?_
  split
  · exact g2
  · refine keeps_ite (P := Keeps r) ?_ ?_
    · exact g2
    · extract_lets -merge -useContext -underBinder +onlyGivenNames _ v1
      have h2 : Keeps r v1 := by
        subst v1
        refine keeps_freeDropped ?_
        · exact keeps_same g2 rfl
      try clear_value v1
      refine keeps_ite (P := Keeps r) ?_ ?_
      · refine keeps_settleWork ?_
        · refine keeps_formItems ?_
          · exact h2
      · refine keeps_finish ?_
        · exact h2

theorem keeps_execGleanBitmap {a1 a2} (g2 : Keeps r a2) : KN (Keeps r) (Sys2Proof.Machine.execGleanBitmap a1 a2) := by
  unfold Sys2Proof.Machine.execGleanBitmap
  refine KN_next ?_
  refine keeps_runCmd ?_ ?_
  · intro _ _ _ h1
    beta_reduce
    extract_lets -merge -useContext -underBinder +onlyGivenNames v2
    try clear_value v2
    extract_lets -merge -useContext -underBinder +onlyGivenNames v3
    try clear_value v3
    extract_lets -merge -useContext -underBinder +onlyGivenNames v4
    try clear_value v4
    refine keeps_ite (P := KP (Keeps r)) ?_ ?_
    · refine KP_mk ?_
      exact h1
    · split
      · refine KP_mk ?_
        exact h1
      · extract_lets -merge -useContext -underBinder +onlyGivenNames v5
        try clear_value v5
        refine keeps_ite (P := KP (Keeps r)) ?_ ?_
        · refine KP_mk ?_
          exact h1
        · split
          · refine KP_mk ?_
            exact h1
          · split
            · refine KP_mk ?_
              exact h1
            · refine keeps_ite (P := KP (Keeps r)) ?_ ?_
              · refine KP_mk ?_
                exact h1
              · refine keeps_ite (P := KP (Keeps r)) ?_ ?_
                · refine KP_mk ?_
                  exact h1
                · extract_lets -merge -useContext -underBinder +onlyGivenNames v6
                  try clear_value v6
                  refine KP_mk ?_
                  exact h1
  · exact g2

theorem keeps_startMerging {a1 a2} (g2 : Keeps r a2) : Keeps r (Sys2Proof.Machine.startMerging a1 a2) := by
  unfold Sys2Proof.Machine.startMerging
  refine keeps_foldl (P := Keeps r) (fun _ _ h1 => ?_) ?_
  · refine keeps_modSwath ?_
    · exact h1
  · exact g2

theorem keeps_execGleanMerge {a1 a2} (g2 : Keeps r a2) : KN (Keeps r) (Sys2Proof.Machine.execGleanMerge a1 a2) := by
  unfold Sys2Proof.Machine.execGleanMerge
  refine KN_next ?_
  refine keeps_runCmd ?_ ?_
  · intro _ _ _ h1
    beta_reduce
    extract_lets -merge -useContext -underBinder +onlyGivenNames v2
    try clear_value v2
    refine keeps_ite (P := KP (Keeps r)) ?_ ?_
    · refine KP_mk ?_
      exact h1
    · split
      · refine KP_mk ?_
        exact h1
      · refine keeps_ite (P := KP (Keeps r)) ?_ ?_
        · refine KP_mk ?_
          exact h1
        · extract_lets -merge -useContext -underBinder +onlyGivenNames v3
          have h4 : Keeps r v3 := by
            subst v3
            refine keeps_startMerging ?_
            · exact h1
          try clear_value v3
          refine KP_mk ?_
          exact keeps_same h4 rfl
  · exact g2

theorem keeps_execMergeDone {a1 a2} (g2 : Keeps r a2) : KN (Keeps r) (Sys2Proof.Machine.execMergeDone a1 a2) := by
  unfold Sys2Proof.Machine.execMergeDone
  refine KN_next ?_
  split
  · exact g2
  · refine keeps_ite (P := Keeps r) ?_ ?_
    · exact g2
    · extract_lets -merge -useContext -underBinder +onlyGivenNames v1
      try clear_value v1
      refine keeps_mergedSwath ?_
      · refine keeps_setSwath ?_
        · exact g2

theorem keeps_execPostingDequeue {a1} (g1 : Keeps r a1) : KN (Keeps r) (Sys2Proof.Machine.execPostingDequeue a1) := by
  unfold Sys2Proof.Machine.execPostingDequeue
  refine KN_next ?_
  split
  · exact g1
  · refine keeps_ite (P := Keeps r) ?_ ?_
    · refine keeps_enterPosting ?_
      · exact keeps_same g1 rfl
    · exact g1

theorem keeps_execStaleRepost {a1} (g1 : Keeps r a1) : KN (Keeps r) (Sys2Proof.Machine.execStaleRepost a1) := by
  unfold Sys2Proof.Machine.execStaleRepost
  refine KN_next ?_
  refine keeps_ite (P := Keeps r) ?_ ?_
  · exact g1
  · split
    · exact g1
    · extract_lets -merge -useContext -underBinder +onlyGivenNames v1
      have h2 : Keeps r v1 := by
        subst v1
        refine keeps_modSwath ?_
        · exact g1
      try clear_value v1
      split
      · exact h2
      · refine keeps_postSheaf ?_
        · exact h2

theorem keeps_execGleanConfig {a1 a2} (g2 : Keeps r a2) : KN (Keeps r) (Sys2Proof.Machine.execGleanConfig a1 a2) := by
  unfold Sys2Proof.Machine.execGleanConfig
  refine KN_next ?_
  refine keeps_runCmd ?_ ?_
  · intro _ _ _ h1
    beta_reduce
    extract_lets -merge -useContext -underBinder +onlyGivenNames v2
    try clear_value v2
    extract_lets -merge -useContext -underBinder +onlyGivenNames v3
    try clear_value v3
    refine keeps_ite (P := KP (Keeps r)) ?_ ?_
    · refine KP_mk ?_
      exact h1
    · split
      · rename_i q4
        have h5 : Keeps r _ := KP_of q4 (by
          refine keeps_judge ?_
          · exact h1
          )
        refine keeps_ite (P := KP (Keeps r)) ?_ ?_
        · refine KP_mk ?_
          exact h5
        · extract_lets -merge -useContext -underBinder +onlyGivenNames v6
          try clear_value v6
          refine keeps_stage ?_
          · exact h5
  · exact g2

theorem keeps_execGleanStatus {a1 a2} (g2 : Keeps r a2) : KN (Keeps r) (Sys2Proof.Machine.execGleanStatus a1 a2) := by
  unfold Sys2Proof.Machine.execGleanStatus
  refine KN_next ?_
  refine keeps_runCmd ?_ ?_
  · intro _ _ _ h1
    beta_reduce
    refine keeps_ite (P := KP (Keeps r)) ?_ ?_
    · refine KP_mk ?_
      exact h1
    · split
      · refine KP_mk ?_
        exact h1
      · extract_lets -merge -useContext -underBinder +onlyGivenNames v2
        try clear_value v2
        refine KP_mk ?_
        exact h1
  · exact g2

theorem keeps_execSheafFormat {a1 a2} (g2 : Keeps r a2) : KN (Keeps r) (Sys2Proof.Machine.execSheafFormat a1 a2) := by
  unfold Sys2Proof.Machine.execSheafFormat
  refine KN_next ?_
  refine keeps_runCmd ?_ ?_
  · intro _ _ _ h1
    beta_reduce
    extract_lets -merge -useContext -underBinder +onlyGivenNames v2
    try clear_value v2
    refine keeps_ite (P := KP (Keeps r)) ?_ ?_
    · refine KP_mk ?_
      exact h1
    · split
      · refine KP_mk ?_
        exact h1
      · refine keeps_ite (P := KP (Keeps r)) ?_ ?_
        · refine KP_mk ?_
          exact h1
        · refine keeps_ite (P := KP (Keeps r)) ?_ ?_
          · refine KP_mk ?_
            exact h1
          · split
            · refine KP_mk ?_
              exact h1
            · split
              · rename_i q3
                have h4 : Keeps r _ := KP_of q3 (by
                  refine keeps_judge ?_
                  · exact h1
                  )
                refine keeps_ite (P := KP (Keeps r)) ?_ ?_
                · refine KP_mk ?_
                  exact h4
                · extract_lets -merge -useContext -underBinder +onlyGivenNames v5
                  try clear_value v5
                  refine KP_mk ?_
                  exact keeps_same h4 rfl
  · exact g2

theorem keeps_execSheafFormatDrop {a1 a2} (g2 : Keeps r a2) : KN (Keeps r) (Sys2Proof.Machine.execSheafFormatDrop a1 a2) := by
  unfold Sys2Proof.Machine.execSheafFormatDrop
  refine KN_next ?_
  refine keeps_runCmd ?_ ?_
  · intro _ _ _ h1
    beta_reduce
    extract_lets -merge -useContext -underBinder +onlyGivenNames v2
    try clear_value v2
    refine keeps_ite (P := KP (Keeps r)) ?_ ?_
    · refine KP_mk ?_
      exact h1
    · refine keeps_ite (P := KP (Keeps r)) ?_ ?_
      · refine KP_mk ?_
        exact h1
      · split
        · refine KP_mk ?_
          exact h1
        · split
          · rename_i q3
            have h4 : Keeps r _ := KP_of q3 (by
              refine keeps_judge ?_
              · exact h1
              )
            refine keeps_ite (P := KP (Keeps r)) ?_ ?_
            · refine KP_mk ?_
              exact h4
            · refine KP_mk ?_
              exact keeps_same h4 rfl
  · exact g2

theorem keeps_execSheafAppend {a1 a2} (g2 : Keeps r a2) : KN (Keeps r) (Sys2Proof.Machine.execSheafAppend a1 a2) := by
  unfold Sys2Proof.Machine.execSheafAppend
  refine KN_next ?_
  refine keeps_settleWork ?_
  · refine keeps_runCmd ?_ ?_
    · intro _ _ _ h1
      refine keeps_appendBody ?_
      · exact h1
    · exact g2

theorem keeps_execSheafRead {a1 a2} (g2 : Keeps r a2) : KN (Keeps r) (Sys2Proof.Machine.execSheafRead a1 a2) := by
  unfold Sys2Proof.Machine.execSheafRead
  refine KN_next ?_
  refine keeps_settleWork ?_
  · refine keeps_runCmd ?_ ?_
    · intro _ _ _ h1
      refine keeps_readBody ?_
      · exact h1
    · exact g2

theorem keeps_pruneGroups {a1} (g1 : Keeps r a1) : Keeps r (Sys2Proof.Machine.pruneGroups a1) := by
  unfold Sys2Proof.Machine.pruneGroups
  exact keeps_same g1 rfl

theorem keeps_abortMoves {a1 a2} (g2 : Keeps r a2) : Keeps r (Sys2Proof.Machine.abortMoves a1 a2) := by
  unfold Sys2Proof.Machine.abortMoves
  refine keeps_foldl (P := Keeps r) (fun _ _ h1 => ?_) ?_
  · split
    · refine keeps_ite (P := Keeps r) ?_ ?_
      · extract_lets -merge -useContext -underBinder +onlyGivenNames v2
        have h3 : Keeps r v2 := by
          subst v2
          refine keeps_modBody ?_
          · exact h1
        try clear_value v2
        refine keeps_postArrived ?_
        · exact h3
      · refine keeps_ite (P := Keeps r) ?_ ?_
        · extract_lets -merge -useContext -underBinder +onlyGivenNames v4
          have h5 : Keeps r v4 := by
            subst v4
            refine keeps_modBody ?_
            · exact h1
          try clear_value v4
          refine keeps_queueWb ?_
          · exact keeps_same h5 rfl
        · exact h1
  · exact g2

theorem keeps_endRevoked {a1} (g1 : Keeps r a1) : Keeps r (Sys2Proof.Machine.endRevoked a1) := by
  unfold Sys2Proof.Machine.endRevoked
  extract_lets -merge -useContext -underBinder +onlyGivenNames v1
  try clear_value v1
  extract_lets -merge -useContext -underBinder +onlyGivenNames v2
  have h3 : Keeps r v2 := by
    subst v2
    refine keeps_foldl (P := Keeps r) (fun _ _ h4 => ?_) ?_
    · refine keeps_failItems ?_
      · exact h4
    · exact g1
  try clear_value v2
  extract_lets -merge -useContext -underBinder +onlyGivenNames v5
  have h6 : Keeps r v5 := by
    subst v5
    refine keeps_foldl (P := Keeps r) (fun _ _ h7 => ?_) ?_
    · split
      · refine keeps_ite (P := Keeps r) ?_ ?_
        · refine keeps_failHeld ?_
          · exact h7
        · exact h7
      · exact h7
    · exact h3
  try clear_value v5
  extract_lets -merge -useContext -underBinder +onlyGivenNames v8
  try clear_value v8
  extract_lets -merge -useContext -underBinder +onlyGivenNames v9
  have h10 : Keeps r v9 := by
    subst v9
    refine keeps_foldl (P := Keeps r) (fun _ _ h11 => ?_) ?_
    · refine keeps_finish ?_
      · exact keeps_same h11 rfl
    · exact h6
  try clear_value v9
  refine keeps_settleWork ?_
  · exact h10

theorem keeps_eraseSlot {a1 a2} (g2 : Keeps r a2) : Keeps r (Sys2Proof.Machine.eraseSlot a1 a2) := by
  unfold Sys2Proof.Machine.eraseSlot
  refine keeps_ite (P := Keeps r) ?_ ?_
  · exact g2
  · refine keeps_endRevoked ?_
    · refine keeps_abortMoves ?_
      · refine keeps_pruneGroups ?_
        · exact keeps_same g2 rfl

theorem keeps_shadowHint {a1 a2 a3} (g3 : Keeps r a3) : KP (Keeps r) (Sys2Proof.Machine.shadowHint a1 a2 a3) := by
  unfold Sys2Proof.Machine.shadowHint
  refine keeps_ite (P := KP (Keeps r)) ?_ ?_
  · refine KP_mk ?_
    exact g3
  · split
    · rename_i q1
      have h2 : Keeps r _ := KP_of q1 (by
        refine keeps_fresh ?_
        · exact g3
        )
      refine KP_mk ?_
      exact h2

theorem keeps_drawGeneration {a1} (g1 : Keeps r a1) : KP (Keeps r) (Sys2Proof.Machine.drawGeneration a1) := by
  unfold Sys2Proof.Machine.drawGeneration
  extract_lets -merge -useContext -underBinder +onlyGivenNames v1
  try clear_value v1
  refine KP_mk ?_
  exact keeps_same g1 rfl

theorem keeps_putKey {a1 a2 a3 a4} (g4 : Keeps r a4) : KP (Keeps r) (Sys2Proof.Machine.putKey a1 a2 a3 a4) := by
  unfold Sys2Proof.Machine.putKey
  extract_lets -merge -useContext -underBinder +onlyGivenNames v1
  try clear_value v1
  extract_lets -merge -useContext -underBinder +onlyGivenNames v2
  try clear_value v2
  split
  · rename_i q3
    have h4 : Keeps r _ := KP_of q3 (by
      refine keeps_drawGeneration ?_
      · exact g4
      )
    extract_lets -merge -useContext -underBinder +onlyGivenNames v5
    try clear_value v5
    refine KP_mk ?_
    exact keeps_same h4 rfl

theorem keeps_execKeyLoad {a1 a2 a3} (g3 : Keeps r a3) : KN (Keeps r) (Sys2Proof.Machine.execKeyLoad a1 a2 a3) := by
  unfold Sys2Proof.Machine.execKeyLoad
  refine KN_next ?_
  refine keeps_runCmd ?_ ?_
  · intro _ _ _ h1
    beta_reduce
    refine keeps_ite (P := KP (Keeps r)) ?_ ?_
    · refine KP_mk ?_
      exact h1
    · split
      · refine KP_mk ?_
        exact h1
      · split
        · refine KP_mk ?_
          exact h1
        · refine keeps_ite (P := KP (Keeps r)) ?_ ?_
          · refine KP_mk ?_
            exact h1
          · refine keeps_ite (P := KP (Keeps r)) ?_ ?_
            · refine KP_mk ?_
              exact h1
            · split
              · refine KP_mk ?_
                exact h1
              · split
                · refine KP_mk ?_
                  exact h1
                · split
                  · split
                    · rename_i q2
                      have h3 : Keeps r _ := KP_of q2 (by
                        refine keeps_shadowHint ?_
                        · exact h1
                        )
                      refine KP_mk ?_
                      exact h3
                  · refine keeps_ite (P := KP (Keeps r)) ?_ ?_
                    · refine KP_mk ?_
                      exact h1
                    · refine keeps_ite (P := KP (Keeps r)) ?_ ?_
                      · refine KP_mk ?_
                        exact h1
                      · split
                        · rename_i q4
                          have h5 : Keeps r _ := KP_of q4 (by
                            refine keeps_judge ?_
                            · exact h1
                            )
                          refine keeps_ite (P := KP (Keeps r)) ?_ ?_
                          · refine KP_mk ?_
                            exact h5
                          · split
                            · rename_i q6
                              have h7 : Keeps r _ := KP_of q6 (by
                                refine keeps_putKey ?_
                                · exact h5
                                )
                              refine KP_mk ?_
                              exact h7
  · exact g3

theorem keeps_execKeyErase {a1 a2} (g2 : Keeps r a2) : KN (Keeps r) (Sys2Proof.Machine.execKeyErase a1 a2) := by
  unfold Sys2Proof.Machine.execKeyErase
  refine KN_next ?_
  refine keeps_runCmd ?_ ?_
  · intro _ _ _ h1
    beta_reduce
    refine keeps_ite (P := KP (Keeps r)) ?_ ?_
    · refine KP_mk ?_
      exact h1
    · extract_lets -merge -useContext -underBinder +onlyGivenNames v2
      try clear_value v2
      split
      · rename_i q3
        have h4 : Keeps r _ := KP_of q3 (by
          refine keeps_judge ?_
          · exact h1
          )
        refine keeps_ite (P := KP (Keeps r)) ?_ ?_
        · refine KP_mk ?_
          exact h4
        · refine KP_mk ?_
          refine keeps_eraseSlot ?_
          · exact h4
  · exact g2

theorem keeps_execKeyQuery {a1 a2} (g2 : Keeps r a2) : KN (Keeps r) (Sys2Proof.Machine.execKeyQuery a1 a2) := by
  unfold Sys2Proof.Machine.execKeyQuery
  refine KN_next ?_
  refine keeps_runCmd ?_ ?_
  · intro _ _ _ h1
    beta_reduce
    extract_lets -merge -useContext -underBinder +onlyGivenNames v2
    try clear_value v2
    refine keeps_ite (P := KP (Keeps r)) ?_ ?_
    · refine KP_mk ?_
      exact h1
    · split
      · refine KP_mk ?_
        exact h1
      · refine keeps_ite (P := KP (Keeps r)) ?_ ?_
        · refine KP_mk ?_
          exact h1
        · refine KP_mk ?_
          exact h1
  · exact g2

theorem keeps_execKeyBindJob {a1 a2} (g2 : Keeps r a2) : KN (Keeps r) (Sys2Proof.Machine.execKeyBindJob a1 a2) := by
  unfold Sys2Proof.Machine.execKeyBindJob
  refine KN_next ?_
  refine keeps_runCmd ?_ ?_
  · intro _ _ _ h1
    beta_reduce
    extract_lets -merge -useContext -underBinder +onlyGivenNames v2
    try clear_value v2
    extract_lets -merge -useContext -underBinder +onlyGivenNames v3
    try clear_value v3
    refine keeps_ite (P := KP (Keeps r)) ?_ ?_
    · refine KP_mk ?_
      exact h1
    · split
      · rename_i q4
        have h5 : Keeps r _ := KP_of q4 (by
          refine keeps_judge ?_
          · exact h1
          )
        refine keeps_ite (P := KP (Keeps r)) ?_ ?_
        · refine KP_mk ?_
          exact h5
        · refine KP_mk ?_
          exact keeps_same h5 rfl
  · exact g2

theorem keeps_execKeyShadowDiscard {a1 a2} (g2 : Keeps r a2) : KN (Keeps r) (Sys2Proof.Machine.execKeyShadowDiscard a1 a2) := by
  unfold Sys2Proof.Machine.execKeyShadowDiscard
  refine KN_next ?_
  split
  · exact g2
  · split
    · exact g2
    · refine keeps_ite (P := Keeps r) ?_ ?_
      · exact g2
      · exact keeps_same g2 rfl

theorem keeps_openTenant {a1 a2} (g2 : Keeps r a2) : Keeps r (Sys2Proof.Machine.openTenant a1 a2) := by
  unfold Sys2Proof.Machine.openTenant
  refine keeps_ite (P := Keeps r) ?_ ?_
  · exact g2
  · exact keeps_same g2 rfl

theorem keeps_execContextCreate {a1 a2} (g2 : Keeps r a2) : KN (Keeps r) (Sys2Proof.Machine.execContextCreate a1 a2) := by
  unfold Sys2Proof.Machine.execContextCreate
  refine KN_next ?_
  refine keeps_runCmd ?_ ?_
  · intro _ _ _ h1
    beta_reduce
    extract_lets -merge -useContext -underBinder +onlyGivenNames v2
    try clear_value v2
    extract_lets -merge -useContext -underBinder +onlyGivenNames v3
    try clear_value v3
    refine keeps_ite (P := KP (Keeps r)) ?_ ?_
    · refine KP_mk ?_
      exact h1
    · split
      · refine KP_mk ?_
        exact h1
      · refine keeps_ite (P := KP (Keeps r)) ?_ ?_
        · refine KP_mk ?_
          exact h1
        · refine keeps_ite (P := KP (Keeps r)) ?_ ?_
          · refine KP_mk ?_
            exact h1
          · refine keeps_ite (P := KP (Keeps r)) ?_ ?_
            · refine KP_mk ?_
              exact h1
            · refine keeps_ite (P := KP (Keeps r)) ?_ ?_
              · refine KP_mk ?_
                exact h1
              · refine keeps_ite (P := KP (Keeps r)) ?_ ?_
                · refine KP_mk ?_
                  exact h1
                · refine KP_mk ?_
                  refine keeps_openTenant ?_
                  · exact keeps_same h1 rfl
  · exact g2

theorem keeps_dropObjects {a1 a2} (g2 : Keeps r a2) : Keeps r (Sys2Proof.Machine.dropObjects a1 a2) := by
  unfold Sys2Proof.Machine.dropObjects
  extract_lets -merge -useContext -underBinder +onlyGivenNames v1
  have h2 : Keeps r v1 := by
    subst v1
    refine keeps_foldl (P := Keeps r) (fun _ _ h3 => ?_) ?_
    · refine keeps_destroySeq ?_
      · exact h3
    · exact g2
  try clear_value v1
  extract_lets -merge -useContext -underBinder +onlyGivenNames v4
  have h5 : Keeps r v4 := by
    subst v4
    refine keeps_foldl (P := Keeps r) (fun _ _ h6 => ?_) ?_
    · refine keeps_freeRegion ?_
      · exact h6
    · exact h2
  try clear_value v4
  extract_lets -merge -useContext -underBinder +onlyGivenNames v7
  have h8 : Keeps r v7 := by
    subst v7
    refine keeps_foldl (P := Keeps r) (fun _ _ h9 => ?_) ?_
    · refine keeps_freeBank ?_
      · exact h9
    · exact h5
  try clear_value v7
  extract_lets -merge -useContext -underBinder +onlyGivenNames v10
  have h11 : Keeps r v10 := by
    subst v10
    refine keeps_foldl (P := Keeps r) (fun _ _ h12 => ?_) ?_
    · refine keeps_dropSwath ?_
      · exact h12
    · exact h8
  try clear_value v10
  extract_lets -merge -useContext -underBinder +onlyGivenNames v13
  try clear_value v13
  extract_lets -merge -useContext -underBinder +onlyGivenNames v14
  have h15 : Keeps r v14 := by
    subst v14
    refine keeps_closeWindows ?_
    · exact h11
  try clear_value v14
  exact keeps_same h15 rfl

theorem keeps_dropKeys {a1 a2} (g2 : Keeps r a2) : Keeps r (Sys2Proof.Machine.dropKeys a1 a2) := by
  unfold Sys2Proof.Machine.dropKeys
  extract_lets -merge -useContext -underBinder +onlyGivenNames v1
  try clear_value v1
  extract_lets -merge -useContext -underBinder +onlyGivenNames v2
  have h3 : Keeps r v2 := by
    subst v2
    refine keeps_foldl (P := Keeps r) (fun _ _ h4 => ?_) ?_
    · refine keeps_eraseSlot ?_
      · exact h4
    · exact g2
  try clear_value v2
  exact keeps_same h3 rfl

theorem keeps_execContextDestroy {a1 a2} (g2 : Keeps r a2) : KN (Keeps r) (Sys2Proof.Machine.execContextDestroy a1 a2) := by
  unfold Sys2Proof.Machine.execContextDestroy
  refine KN_next ?_
  refine keeps_settleDestroys ?_
  · refine keeps_settleWork ?_
    · refine keeps_runCmd ?_ ?_
      · intro _ _ _ h1
        beta_reduce
        split
        · refine KP_mk ?_
          exact h1
        · refine keeps_ite (P := KP (Keeps r)) ?_ ?_
          · refine KP_mk ?_
            exact h1
          · split
            · rename_i q2
              have h3 : Keeps r _ := KP_of q2 (by
                refine keeps_judge ?_
                · exact h1
                )
              refine keeps_ite (P := KP (Keeps r)) ?_ ?_
              · refine KP_mk ?_
                exact h3
              · extract_lets -merge -useContext -underBinder +onlyGivenNames v4
                have h5 : Keeps r v4 := by
                  subst v4
                  refine keeps_dropKeys ?_
                  · refine keeps_dropObjects ?_
                    · exact h3
                try clear_value v4
                refine KP_mk ?_
                exact keeps_same h5 rfl
      · exact g2

theorem keeps_execContextPark {a1 a2} (g2 : Keeps r a2) : KN (Keeps r) (Sys2Proof.Machine.execContextPark a1 a2) := by
  unfold Sys2Proof.Machine.execContextPark
  refine KN_next ?_
  refine keeps_runCmd ?_ ?_
  · intro _ _ _ h1
    beta_reduce
    split
    · refine KP_mk ?_
      exact h1
    · refine keeps_ite (P := KP (Keeps r)) ?_ ?_
      · refine KP_mk ?_
        exact h1
      · split
        · rename_i q2
          have h3 : Keeps r _ := KP_of q2 (by
            refine keeps_judge ?_
            · exact h1
            )
          refine keeps_ite (P := KP (Keeps r)) ?_ ?_
          · refine KP_mk ?_
            exact h3
          · refine KP_mk ?_
            exact keeps_same h3 rfl
  · exact g2

theorem keeps_execContextReside {a1 a2} (g2 : Keeps r a2) : KN (Keeps r) (Sys2Proof.Machine.execContextReside a1 a2) := by
  unfold Sys2Proof.Machine.execContextReside
  refine KN_next ?_
  refine keeps_runCmd ?_ ?_
  · intro _ _ _ h1
    beta_reduce
    split
    · refine KP_mk ?_
      exact h1
    · refine keeps_ite (P := KP (Keeps r)) ?_ ?_
      · refine KP_mk ?_
        exact h1
      · split
        · rename_i q2
          have h3 : Keeps r _ := KP_of q2 (by
            refine keeps_judge ?_
            · exact h1
            )
          refine keeps_ite (P := KP (Keeps r)) ?_ ?_
          · refine KP_mk ?_
            exact h3
          · refine KP_mk ?_
            exact keeps_same h3 rfl
  · exact g2

theorem keeps_execContextQuery {a1 a2} (g2 : Keeps r a2) : KN (Keeps r) (Sys2Proof.Machine.execContextQuery a1 a2) := by
  unfold Sys2Proof.Machine.execContextQuery
  refine KN_next ?_
  refine keeps_runCmd ?_ ?_
  · intro _ _ _ h1
    beta_reduce
    extract_lets -merge -useContext -underBinder +onlyGivenNames v2
    try clear_value v2
    refine keeps_ite (P := KP (Keeps r)) ?_ ?_
    · refine KP_mk ?_
      exact h1
    · split
      · refine KP_mk ?_
        exact h1
      · split
        · refine KP_mk ?_
          exact h1
        · refine keeps_ite (P := KP (Keeps r)) ?_ ?_
          · refine KP_mk ?_
            exact h1
          · refine keeps_ite (P := KP (Keeps r)) ?_ ?_
            · refine KP_mk ?_
              exact h1
            · refine KP_mk ?_
              exact h1
  · exact g2

theorem keeps_setSecValue {a1 a2 a3} (g3 : Keeps r a3) : Keeps r (Sys2Proof.Machine.setSecValue a1 a2 a3) := by
  unfold Sys2Proof.Machine.setSecValue
  split
  · exact keeps_same g3 rfl
  · exact keeps_same g3 rfl
  · exact keeps_same g3 rfl

theorem keeps_execSecConfig {a1 a2} (g2 : Keeps r a2) : KN (Keeps r) (Sys2Proof.Machine.execSecConfig a1 a2) := by
  unfold Sys2Proof.Machine.execSecConfig
  refine KN_next (keeps_runCmd (fun _ c s h => ?_) g2)
  dsimp only
  generalize argU c 32 2 = p
  generalize argU c 40 8 = v
  refine keeps_ite (P := KP (Keeps r)) h ?_
  generalize secValue s p = o
  cases o with
  | none => exact h
  | some was =>
    simp only []
    have hj := keeps_judge (a1 := c) (a2 := { unit := 0x0C, obj := 2 ^ 18 + p }) (a3 := .value v) h
    generalize judge c { unit := 0x0C, obj := 2 ^ 18 + p } (.value v) s = q at hj ⊢
    obtain ⟨y, t⟩ := q
    have ht : Keeps r t := hj
    refine keeps_ite (P := KP (Keeps r)) h (keeps_ite (P := KP (Keeps r)) ht (KP_mk ?_))
    match p with
    | 1 => exact keeps_same ht rfl
    | 2 => exact keeps_same ht rfl
    | 0 | (_ + 3) => exact keeps_same ht rfl

/-- A change of a firmware bank that keeps its canonical form. -/
theorem keeps_setFwBank {a1 a2 a3} (g3 : Keeps r a3) (hm : Memory.wf (if a1 == 0 then a3.sec.bank0 else a3.sec.bank1) = true → Memory.wf a2 = true) :
    Keeps r (Sys2Proof.Machine.setFwBank a1 a2 a3) := by
  unfold Sys2Proof.Machine.setFwBank
  by_cases h : (a1 == 0) = true
  · simp only [h, if_true] at hm ⊢
    exact ⟨g3.pending, g3.now, g3.variant, g3.coreMap, g3.uid, g3.svn, g3.free, g3.out, g3.mem, hm ∘ g3.bank0, g3.bank1⟩
  · simp only [h, if_false, Bool.false_eq_true] at hm ⊢
    exact ⟨g3.pending, g3.now, g3.variant, g3.coreMap, g3.uid, g3.svn, g3.free, g3.out, g3.mem, g3.bank0, hm ∘ g3.bank1⟩

theorem keeps_execFwStage {a1 a2} (g2 : Keeps r a2) : KN (Keeps r) (Sys2Proof.Machine.execFwStage a1 a2) := by
  unfold Sys2Proof.Machine.execFwStage
  refine KN_next (keeps_runCmd (fun _ _ _ h => ?_) g2)
  dsimp only
  repeat' split
  all_goals first
    | exact h
    | exact KP_mk (KP_snd (keeps_judge h))
    | refine KP_mk (keeps_setFwBank (KP_snd (keeps_judge h)) (fun hm => wf_memPut ?_ _ _))
  · rfl
  · exact hm

theorem keeps_execFwActivate {a1 a2 a3} (g3 : Keeps r a3) : KN (Keeps r) (Sys2Proof.Machine.execFwActivate a1 a2 a3) := by
  unfold Sys2Proof.Machine.execFwActivate
  refine KN_next ?_
  refine keeps_runCmd ?_ ?_
  · intro _ _ _ h1
    beta_reduce
    extract_lets -merge -useContext -underBinder +onlyGivenNames v2
    try clear_value v2
    refine keeps_ite (P := KP (Keeps r)) ?_ ?_
    · refine KP_mk ?_
      exact h1
    · split
      · rename_i q3
        have h4 : Keeps r _ := KP_of q3 (by
          refine keeps_sparkCheck ?_
          · exact h1
          )
        refine keeps_ite (P := KP (Keeps r)) ?_ ?_
        · refine KP_mk ?_
          refine keeps_countInjected ?_
          · exact h4
        · refine keeps_ite (P := KP (Keeps r)) ?_ ?_
          · refine KP_mk ?_
            exact h4
          · refine keeps_ite (P := KP (Keeps r)) ?_ ?_
            · refine KP_mk ?_
              exact h4
            · refine keeps_ite (P := KP (Keeps r)) ?_ ?_
              · refine KP_mk ?_
                exact h4
              · split
                · rename_i q5
                  have h6 : Keeps r _ := KP_of q5 (by
                    refine keeps_judge ?_
                    · exact h4
                    )
                  refine keeps_ite (P := KP (Keeps r)) ?_ ?_
                  · refine KP_mk ?_
                    exact h6
                  · extract_lets -merge -useContext -underBinder +onlyGivenNames _ v7
                    have h8 : Keeps r v7 := by
                      subst v7
                      exact keeps_same h6 rfl
                    try clear_value v7
                    refine KP_mk ?_
                    exact h8
  · exact g3

/-- A rise of the anti-rollback count. -/
theorem keeps_svn {a : State} {n : Nat} (h : Keeps r a) : Keeps r { a with fuse := { a.fuse with svn := max a.fuse.svn n } } :=
  ⟨h.pending, h.now, h.variant, h.coreMap, h.uid, Nat.le_trans h.svn (Nat.le_max_left _ _), h.free, h.out, h.mem, h.bank0, h.bank1⟩

theorem keeps_commitImage {a1 a2} (g2 : Keeps r a2) : Keeps r (Sys2Proof.Machine.commitImage a1 a2) := by
  unfold Sys2Proof.Machine.commitImage
  have h2 : ∀ x : State, Keeps r x → Keeps r (if onTrial x then { x with sec := { x.sec with trial := false, trialStarts := 0 } } else x) :=
    fun x h => keeps_ite (P := Keeps r) (keeps_same h rfl) h
  have h3 := h2 { a2 with hlt := { a2.hlt with tally := { a2.hlt.tally with fwUpdates := satAdd 16 a2.hlt.tally.fwUpdates 1 } } } (keeps_same g2 rfl)
  exact keeps_ite (P := Keeps r) (keeps_svn h3) h3

theorem keeps_execFwCommit {a1 a2} (g2 : Keeps r a2) : KN (Keeps r) (Sys2Proof.Machine.execFwCommit a1 a2) := by
  unfold Sys2Proof.Machine.execFwCommit
  refine KN_next (keeps_runCmd (fun _ c s h => ?_) g2)
  beta_reduce
  split
  · exact h
  · extract_lets -merge -useContext -underBinder +onlyGivenNames svn
    split
    rename_i yes t q
    have ht : Keeps r t := KP_of q (keeps_judge h)
    clear q
    dsimp only
    split
    · exact ht
    · exact keeps_commitImage ht

theorem keeps_execFwStatus {a1 a2 a3} (g3 : Keeps r a3) : KN (Keeps r) (Sys2Proof.Machine.execFwStatus a1 a2 a3) := by
  unfold Sys2Proof.Machine.execFwStatus
  refine KN_next ?_
  refine keeps_runCmd ?_ ?_
  · intro _ _ _ h1
    beta_reduce
    extract_lets -merge -useContext -underBinder +onlyGivenNames v2
    try clear_value v2
    refine keeps_ite (P := KP (Keeps r)) ?_ ?_
    · refine KP_mk ?_
      exact h1
    · refine KP_mk ?_
      exact h1
  · exact g3

theorem keeps_execFwEraseBank {a1 a2} (g2 : Keeps r a2) : KN (Keeps r) (Sys2Proof.Machine.execFwEraseBank a1 a2) := by
  unfold Sys2Proof.Machine.execFwEraseBank
  refine KN_next (keeps_runCmd (fun _ _ _ h => ?_) g2)
  dsimp only
  repeat' split
  all_goals first
    | exact h
    | exact KP_mk (KP_snd (keeps_judge h))
    | exact KP_mk (keeps_setFwBank (KP_snd (keeps_judge h)) (fun _ => rfl))

theorem keeps_bootSelect {a1 a2 a3} (g3 : Keeps r a3) : KP (Keeps r) (Sys2Proof.Machine.bootSelect a1 a2 a3) := by
  unfold Sys2Proof.Machine.bootSelect
  extract_lets -merge -useContext -underBinder +onlyGivenNames v1
  try clear_value v1
  extract_lets -merge -useContext -underBinder +onlyGivenNames v2
  try clear_value v2
  extract_lets -merge -useContext -underBinder +onlyGivenNames v3
  try clear_value v3
  extract_lets -merge -useContext -underBinder +onlyGivenNames _ v4
  have h5 : Keeps r v4 := by
    subst v4
    refine keeps_ite (P := Keeps r) ?_ ?_
    · exact keeps_same g3 rfl
    · exact g3
  try clear_value v4
  extract_lets -merge -useContext -underBinder +onlyGivenNames v6
  try clear_value v6
  extract_lets -merge -useContext -underBinder +onlyGivenNames _ v7
  have h8 : Keeps r v7 := by
    subst v7
    exact keeps_same h5 rfl
  try clear_value v7
  refine keeps_ite (P := KP (Keeps r)) ?_ ?_
  · refine KP_mk ?_
    exact keeps_same h8 rfl
  · refine keeps_ite (P := KP (Keeps r)) ?_ ?_
    · refine KP_mk ?_
      exact keeps_same h8 rfl
    · refine KP_mk ?_
      exact h8

theorem keeps_transmit {a1 a2 a3} (g3 : Keeps r a3) : Keeps r (Sys2Proof.Machine.transmit a1 a2 a3) := by
  unfold Sys2Proof.Machine.transmit
  extract_lets -merge -useContext -underBinder +onlyGivenNames v1
  try clear_value v1
  extract_lets -merge -useContext -underBinder +onlyGivenNames _ v2
  try clear_value v2
  extract_lets -merge -useContext -underBinder +onlyGivenNames v3
  have h4 : Keeps r v3 := by
    subst v3
    split
    · exact g3
    · refine keeps_returnCredits ?_
      · exact g3
  try clear_value v3
  extract_lets -merge -useContext -underBinder +onlyGivenNames v5
  have h6 : Keeps r v5 := by
    subst v5
    refine keeps_ite (P := Keeps r) ?_ ?_
    · refine keeps_tenantAdd ?_
      · exact h4
    · exact h4
  try clear_value v5
  extract_lets -merge -useContext -underBinder +onlyGivenNames v7
  try clear_value v7
  refine keeps_ite (P := Keeps r) ?_ ?_
  · refine keeps_sendLink ?_
    · exact h6
  · extract_lets -merge -useContext -underBinder +onlyGivenNames v8
    try clear_value v8
    extract_lets -merge -useContext -underBinder +onlyGivenNames v9
    have h10 : Keeps r v9 := by
      subst v9
      refine keeps_setPort ?_
      · exact h6
    try clear_value v9
    refine keeps_sendLink ?_
    · exact h10

theorem keeps_sendFrom_ {a1 a2 a3 a4 a5 a6} (g6 : Keeps r a6) : Keeps r (Sys2Proof.Machine.sendFrom_ a1 a2 a3 a4 a5 a6) := by
  unfold Sys2Proof.Machine.sendFrom_
  extract_lets -merge -useContext -underBinder +onlyGivenNames v1
  try clear_value v1
  extract_lets -merge -useContext -underBinder +onlyGivenNames v2
  try clear_value v2
  split
  · exact g6
  · extract_lets -merge -useContext -underBinder +onlyGivenNames v3
    try clear_value v3
    refine keeps_transmit ?_
    · refine keeps_setInst ?_
      · exact g6

theorem keeps_execPortTransmitPick {a1 a2} (g2 : Keeps r a2) : KN (Keeps r) (Sys2Proof.Machine.execPortTransmitPick a1 a2) := by
  unfold Sys2Proof.Machine.execPortTransmitPick
  refine KN_next ?_
  extract_lets -merge -useContext -underBinder +onlyGivenNames v1
  try clear_value v1
  refine keeps_ite (P := Keeps r) ?_ ?_
  · exact g2
  · split
    · refine keeps_transmit ?_
      · refine keeps_setInst ?_
        · exact g2
    · split
      · refine keeps_setInst ?_
        · exact g2
      · split
        · refine keeps_setInst ?_
          · exact g2
        · refine keeps_sendFrom_ ?_
          · exact g2

theorem keeps_releaseFlow {a1 a2} (g2 : Keeps r a2) : Keeps r (Sys2Proof.Machine.releaseFlow a1 a2) := by
  unfold Sys2Proof.Machine.releaseFlow
  split
  · exact g2
  · refine keeps_ite (P := Keeps r) ?_ ?_
    · exact g2
    · extract_lets -merge -useContext -underBinder +onlyGivenNames v1
      have h2 : Keeps r v1 := by
        subst v1
        refine keeps_ite (P := Keeps r) ?_ ?_
        · refine keeps_resendFlow ?_
          · refine keeps_setSlot ?_
            · exact g2
        · exact g2
      try clear_value v1
      refine keeps_pump ?_
      · exact h2

theorem keeps_execWheelSlotRelease {a1 a2} (g2 : Keeps r a2) : KN (Keeps r) (Sys2Proof.Machine.execWheelSlotRelease a1 a2) := by
  unfold Sys2Proof.Machine.execWheelSlotRelease
  refine KN_next ?_
  extract_lets -merge -useContext -underBinder +onlyGivenNames v1
  have h2 : Keeps r v1 := by
    subst v1
    refine keeps_modInst ?_
    · exact g2
  try clear_value v1
  refine keeps_foldl (P := Keeps r) (fun _ _ h3 => ?_) ?_
  · refine keeps_releaseFlow ?_
    · exact h3
  · exact h2

theorem keeps_execRotationEntryEnd {a1 a2} (g2 : Keeps r a2) : KN (Keeps r) (Sys2Proof.Machine.execRotationEntryEnd a1 a2) := by
  unfold Sys2Proof.Machine.execRotationEntryEnd
  refine KN_next ?_
  refine keeps_ite (P := Keeps r) ?_ ?_
  · refine keeps_takeOver ?_
    · exact g2
  · exact g2

theorem keeps_execRotationTakeover {a1 a2} (g2 : Keeps r a2) : KN (Keeps r) (Sys2Proof.Machine.execRotationTakeover a1 a2) := by
  unfold Sys2Proof.Machine.execRotationTakeover
  refine KN_next ?_
  refine keeps_ite (P := Keeps r) ?_ ?_
  · refine keeps_takeOver ?_
    · exact g2
  · exact g2

theorem keeps_stopRotation {a1 a2} (g2 : Keeps r a2) : Keeps r (Sys2Proof.Machine.stopRotation a1 a2) := by
  unfold Sys2Proof.Machine.stopRotation
  refine keeps_modInst ?_
  · exact g2

theorem keeps_execRotationStopAt {a1 a2} (g2 : Keeps r a2) : KN (Keeps r) (Sys2Proof.Machine.execRotationStopAt a1 a2) := by
  unfold Sys2Proof.Machine.execRotationStopAt
  refine KN_next ?_
  split
  · exact g2
  · refine keeps_ite (P := Keeps r) ?_ ?_
    · refine keeps_stopRotation ?_
      · exact g2
    · exact g2

theorem keeps_judgeAll {a1 a2 a3 a4 a5} (g5 : Keeps r a5) : KP (Keeps r) (Sys2Proof.Machine.judgeAll a1 a2 a3 a4 a5) := by
  unfold Sys2Proof.Machine.judgeAll
  refine keeps_foldl (P := KP (Keeps r)) (fun _ _ h1 => ?_) ?_
  · split
    · rename_i q2
      have h3 : Keeps r _ := KP_of q2 (by
        refine keeps_judge ?_
        · refine KP_snd ?_
          exact h1
        )
      refine KP_mk ?_
      exact h3
  · refine KP_mk ?_
    exact g5

theorem keeps_execHeadlandStatus {a1 a2} (g2 : Keeps r a2) : KN (Keeps r) (Sys2Proof.Machine.execHeadlandStatus a1 a2) := by
  unfold Sys2Proof.Machine.execHeadlandStatus
  refine KN_next ?_
  refine keeps_runCmd ?_ ?_
  · intro _ _ _ h1
    beta_reduce
    extract_lets -merge -useContext -underBinder +onlyGivenNames v2
    try clear_value v2
    refine keeps_ite (P := KP (Keeps r)) ?_ ?_
    · refine KP_mk ?_
      exact h1
    · split
      · refine KP_mk ?_
        exact h1
      · split
        · refine KP_mk ?_
          exact h1
        · extract_lets -merge -useContext -underBinder +onlyGivenNames v3
          try clear_value v3
          refine keeps_ite (P := KP (Keeps r)) ?_ ?_
          · refine KP_mk ?_
            exact h1
          · refine KP_mk ?_
            exact h1
  · exact g2

theorem keeps_putClasses {a1 a2 a3} (g3 : Keeps r a3) : Keeps r (Sys2Proof.Machine.putClasses a1 a2 a3) := by
  unfold Sys2Proof.Machine.putClasses
  refine keeps_foldl (P := Keeps r) (fun _ _ h1 => ?_) ?_
  · refine keeps_modInst ?_
    · exact h1
  · exact g3

theorem keeps_execHeadlandClassSet {a1 a2} (g2 : Keeps r a2) : KN (Keeps r) (Sys2Proof.Machine.execHeadlandClassSet a1 a2) := by
  unfold Sys2Proof.Machine.execHeadlandClassSet
  refine KN_next ?_
  refine keeps_runCmd ?_ ?_
  · intro _ _ _ h1
    beta_reduce
    refine keeps_ite (P := KP (Keeps r)) ?_ ?_
    · refine KP_mk ?_
      exact h1
    · split
      · refine KP_mk ?_
        exact h1
      · split
        · refine KP_mk ?_
          exact h1
        · refine keeps_ite (P := KP (Keeps r)) ?_ ?_
          · refine KP_mk ?_
            exact h1
          · extract_lets -merge -useContext -underBinder +onlyGivenNames v2
            try clear_value v2
            refine keeps_ite (P := KP (Keeps r)) ?_ ?_
            · refine KP_mk ?_
              exact h1
            · split
              · rename_i q3
                have h4 : Keeps r _ := KP_of q3 (by
                  refine keeps_judgeAll ?_
                  · exact h1
                  )
                refine keeps_ite (P := KP (Keeps r)) ?_ ?_
                · refine KP_mk ?_
                  exact h4
                · refine KP_mk ?_
                  refine keeps_putClasses ?_
                  · exact h4
  · exact g2

theorem keeps_putQueues {a1 a2 a3 a4} (g4 : Keeps r a4) : Keeps r (Sys2Proof.Machine.putQueues a1 a2 a3 a4) := by
  unfold Sys2Proof.Machine.putQueues
  refine keeps_foldl (P := Keeps r) (fun _ _ h1 => ?_) ?_
  · refine keeps_modInst ?_
    · exact h1
  · exact g4

theorem keeps_execHeadlandQueueSet {a1 a2} (g2 : Keeps r a2) : KN (Keeps r) (Sys2Proof.Machine.execHeadlandQueueSet a1 a2) := by
  unfold Sys2Proof.Machine.execHeadlandQueueSet
  refine KN_next ?_
  refine keeps_runCmd ?_ ?_
  · intro _ _ _ h1
    beta_reduce
    extract_lets -merge -useContext -underBinder +onlyGivenNames v2
    try clear_value v2
    extract_lets -merge -useContext -underBinder +onlyGivenNames v3
    try clear_value v3
    refine keeps_ite (P := KP (Keeps r)) ?_ ?_
    · refine KP_mk ?_
      exact h1
    · split
      · refine KP_mk ?_
        exact h1
      · split
        · refine KP_mk ?_
          exact h1
        · extract_lets -merge -useContext -underBinder +onlyGivenNames v4
          try clear_value v4
          refine keeps_ite (P := KP (Keeps r)) ?_ ?_
          · refine KP_mk ?_
            exact h1
          · refine keeps_ite (P := KP (Keeps r)) ?_ ?_
            · refine KP_mk ?_
              exact h1
            · split
              · rename_i q5
                have h6 : Keeps r _ := KP_of q5 (by
                  refine keeps_judgeAll ?_
                  · exact h1
                  )
                refine keeps_ite (P := KP (Keeps r)) ?_ ?_
                · refine KP_mk ?_
                  exact h6
                · refine KP_mk ?_
                  refine keeps_putQueues ?_
                  · exact h6
  · exact g2

theorem keeps_putRotation {a1 a2 a3} (g3 : Keeps r a3) : Keeps r (Sys2Proof.Machine.putRotation a1 a2 a3) := by
  unfold Sys2Proof.Machine.putRotation
  refine keeps_foldl (P := Keeps r) (fun _ _ h1 => ?_) ?_
  · extract_lets -merge -useContext -underBinder +onlyGivenNames v2
    have h3 : Keeps r v2 := by
      subst v2
      refine keeps_modInst ?_
      · exact h1
    try clear_value v2
    refine keeps_ite (P := Keeps r) ?_ ?_
    · refine keeps_takeOver ?_
      · exact h3
    · exact h3
  · exact g3

theorem keeps_execHeadlandRotation {a1 a2} (g2 : Keeps r a2) : KN (Keeps r) (Sys2Proof.Machine.execHeadlandRotation a1 a2) := by
  unfold Sys2Proof.Machine.execHeadlandRotation
  refine KN_next ?_
  refine keeps_runCmd ?_ ?_
  · intro _ _ _ h1
    beta_reduce
    extract_lets -merge -useContext -underBinder +onlyGivenNames v2
    try clear_value v2
    extract_lets -merge -useContext -underBinder +onlyGivenNames v3
    try clear_value v3
    refine keeps_ite (P := KP (Keeps r)) ?_ ?_
    · refine KP_mk ?_
      exact h1
    · split
      · refine KP_mk ?_
        exact h1
      · split
        · refine KP_mk ?_
          exact h1
        · refine keeps_ite (P := KP (Keeps r)) ?_ ?_
          · refine KP_mk ?_
            exact h1
          · refine keeps_ite (P := KP (Keeps r)) ?_ ?_
            · refine KP_mk ?_
              exact h1
            · refine keeps_ite (P := KP (Keeps r)) ?_ ?_
              · refine KP_mk ?_
                exact h1
              · split
                · rename_i q4
                  have h5 : Keeps r _ := KP_of q4 (by
                    refine keeps_judgeAll ?_
                    · exact h1
                    )
                  refine keeps_ite (P := KP (Keeps r)) ?_ ?_
                  · refine KP_mk ?_
                    exact h5
                  · refine KP_mk ?_
                    refine keeps_putRotation ?_
                    · exact h5
  · exact g2

theorem keeps_stopRotations {a1 a2 a3} (g3 : Keeps r a3) : Keeps r (Sys2Proof.Machine.stopRotations a1 a2 a3) := by
  unfold Sys2Proof.Machine.stopRotations
  refine keeps_foldl (P := Keeps r) (fun _ _ h1 => ?_) ?_
  · refine keeps_ite (P := Keeps r) ?_ ?_
    · refine keeps_stopRotation ?_
      · exact h1
    · refine keeps_modInst ?_
      · exact h1
  · exact g3

theorem keeps_execHeadlandRotationStop {a1 a2} (g2 : Keeps r a2) : KN (Keeps r) (Sys2Proof.Machine.execHeadlandRotationStop a1 a2) := by
  unfold Sys2Proof.Machine.execHeadlandRotationStop
  refine KN_next ?_
  refine keeps_runCmd ?_ ?_
  · intro _ _ _ h1
    beta_reduce
    extract_lets -merge -useContext -underBinder +onlyGivenNames v2
    try clear_value v2
    refine keeps_ite (P := KP (Keeps r)) ?_ ?_
    · refine KP_mk ?_
      exact h1
    · split
      · refine KP_mk ?_
        exact h1
      · split
        · rename_i q3
          have h4 : Keeps r _ := KP_of q3 (by
            refine keeps_judgeAll ?_
            · exact h1
            )
          refine keeps_ite (P := KP (Keeps r)) ?_ ?_
          · refine KP_mk ?_
            exact h4
          · refine KP_mk ?_
            refine keeps_stopRotations ?_
            · exact h4
  · exact g2

theorem keeps_setConn {a1 a2 a3} (g3 : Keeps r a3) : Keeps r (Sys2Proof.Machine.setConn a1 a2 a3) := by
  unfold Sys2Proof.Machine.setConn
  exact keeps_same g3 rfl

theorem keeps_spdmSend {a1 a2 a3 a4} (g4 : Keeps r a4) : Keeps r (Sys2Proof.Machine.spdmSend a1 a2 a3 a4) := by
  unfold Sys2Proof.Machine.spdmSend
  refine keeps_emit ?_
  · exact g4

theorem keeps_spdmError {a1 a2 a3} (g3 : Keeps r a3) : Keeps r (Sys2Proof.Machine.spdmError a1 a2 a3) := by
  unfold Sys2Proof.Machine.spdmError
  refine keeps_spdmSend ?_
  · exact g3

theorem keeps_spdmLarge {a1 a2 a3 a4} (g4 : Keeps r a4) : Keeps r (Sys2Proof.Machine.spdmLarge a1 a2 a3 a4) := by
  unfold Sys2Proof.Machine.spdmLarge
  refine keeps_ite (P := Keeps r) ?_ ?_
  · refine keeps_spdmSend ?_
    · exact g4
  · extract_lets -merge -useContext -underBinder +onlyGivenNames v1
    try clear_value v1
    refine keeps_spdmSend ?_
    · refine keeps_setConn ?_
      · exact g4

theorem keeps_spdmServe {a1 a2} (g1 : ∀ b1, Keeps r b1 → Keeps r (a1 b1)) (g2 : Keeps r a2) : KN (Keeps r) (Sys2Proof.Machine.spdmServe a1 a2) := by
  unfold Sys2Proof.Machine.spdmServe
  refine KN_next ?_
  refine keeps_ite (P := Keeps r) ?_ ?_
  · refine g1 _ ?_
    · exact g2
  · exact g2

theorem keeps_spdmReady {a1 a2 a3} (g2 : ∀ b1, Keeps r b1 → Keeps r (a2 b1)) (g3 : Keeps r a3) : KN (Keeps r) (Sys2Proof.Machine.spdmReady a1 a2 a3) := by
  unfold Sys2Proof.Machine.spdmReady
  refine keeps_spdmServe ?_ ?_
  · intro _ h1
    beta_reduce
    refine keeps_ite (P := Keeps r) ?_ ?_
    · refine g2 _ ?_
      · exact h1
    · refine keeps_spdmError ?_
      · exact h1
  · exact g3

theorem keeps_execSpdmGetVersion {a1 a2} (g2 : Keeps r a2) : KN (Keeps r) (Sys2Proof.Machine.execSpdmGetVersion a1 a2) := by
  unfold Sys2Proof.Machine.execSpdmGetVersion
  refine keeps_spdmServe ?_ ?_
  · intro _ h1
    beta_reduce
    extract_lets -merge -useContext -underBinder +onlyGivenNames _ v2
    have h3 : Keeps r v2 := by
      subst v2
      exact keeps_same h1 rfl
    try clear_value v2
    refine keeps_spdmSend ?_
    · refine keeps_setConn ?_
      · exact h3
  · exact g2

theorem keeps_execSpdmGetCapabilities {a1 a2 a3} (g3 : Keeps r a3) : KN (Keeps r) (Sys2Proof.Machine.execSpdmGetCapabilities a1 a2 a3) := by
  unfold Sys2Proof.Machine.execSpdmGetCapabilities
  refine keeps_spdmServe ?_ ?_
  · intro _ h1
    beta_reduce
    refine keeps_ite (P := Keeps r) ?_ ?_
    · refine keeps_spdmError ?_
      · exact h1
    · refine keeps_ite (P := Keeps r) ?_ ?_
      · refine keeps_spdmError ?_
        · exact h1
      · refine keeps_spdmSend ?_
        · refine keeps_setConn ?_
          · exact h1
  · exact g3

theorem keeps_execSpdmNegotiateAlgorithms {a1 a2 a3} (g3 : Keeps r a3) : KN (Keeps r) (Sys2Proof.Machine.execSpdmNegotiateAlgorithms a1 a2 a3) := by
  unfold Sys2Proof.Machine.execSpdmNegotiateAlgorithms
  refine keeps_spdmServe ?_ ?_
  · intro _ h1
    beta_reduce
    refine keeps_ite (P := Keeps r) ?_ ?_
    · refine keeps_spdmError ?_
      · exact h1
    · refine keeps_ite (P := Keeps r) ?_ ?_
      · refine keeps_spdmError ?_
        · exact h1
      · refine keeps_spdmSend ?_
        · refine keeps_setConn ?_
          · exact h1
  · exact g3

theorem keeps_execSpdmGetDigests {a1 a2} (g2 : Keeps r a2) : KN (Keeps r) (Sys2Proof.Machine.execSpdmGetDigests a1 a2) := by
  unfold Sys2Proof.Machine.execSpdmGetDigests
  refine keeps_spdmReady ?_ ?_
  · intro _ h1
    beta_reduce
    refine keeps_spdmSend ?_
    · exact h1
  · exact g2

theorem keeps_execSpdmGetCertificate {a1 a2 a3 a4 a5} (g5 : Keeps r a5) : KN (Keeps r) (Sys2Proof.Machine.execSpdmGetCertificate a1 a2 a3 a4 a5) := by
  unfold Sys2Proof.Machine.execSpdmGetCertificate
  refine keeps_spdmReady ?_ ?_
  · intro _ h1
    beta_reduce
    extract_lets -merge -useContext -underBinder +onlyGivenNames v2
    try clear_value v2
    refine keeps_ite (P := Keeps r) ?_ ?_
    · refine keeps_spdmError ?_
      · exact h1
    · extract_lets -merge -useContext -underBinder +onlyGivenNames v3
      try clear_value v3
      refine keeps_spdmLarge ?_
      · exact h1
  · exact g5

theorem keeps_execSpdmChallenge {a1 a2 a3 a4} (g4 : Keeps r a4) : KN (Keeps r) (Sys2Proof.Machine.execSpdmChallenge a1 a2 a3 a4) := by
  unfold Sys2Proof.Machine.execSpdmChallenge
  refine keeps_spdmReady ?_ ?_
  · intro _ h1
    beta_reduce
    refine keeps_ite (P := Keeps r) ?_ ?_
    · refine keeps_spdmError ?_
      · exact h1
    · split
      · rename_i q2
        have h3 : Keeps r _ := KP_of q2 (by
          refine keeps_fresh ?_
          · exact h1
          )
        extract_lets -merge -useContext -underBinder +onlyGivenNames v4
        try clear_value v4
        refine keeps_spdmLarge ?_
        · exact h3
  · exact g4

theorem keeps_execSpdmGetMeasurements {a1 a2 a3 a4 a5} (g5 : Keeps r a5) : KN (Keeps r) (Sys2Proof.Machine.execSpdmGetMeasurements a1 a2 a3 a4 a5) := by
  unfold Sys2Proof.Machine.execSpdmGetMeasurements
  refine keeps_spdmReady ?_ ?_
  · intro _ h1
    beta_reduce
    split
    · refine keeps_spdmError ?_
      · exact h1
    · split
      · rename_i q2
        have h3 : Keeps r _ := KP_of q2 (by
          refine keeps_fresh ?_
          · exact h1
          )
        extract_lets -merge -useContext -underBinder +onlyGivenNames v4
        try clear_value v4
        refine keeps_ite (P := Keeps r) ?_ ?_
        · refine keeps_spdmLarge ?_
          · exact keeps_same h3 rfl
        · refine keeps_spdmLarge ?_
          · exact h3
  · exact g5

theorem keeps_execSpdmKeyExchange {a1 a2 a3 a4} (g4 : Keeps r a4) : KN (Keeps r) (Sys2Proof.Machine.execSpdmKeyExchange a1 a2 a3 a4) := by
  unfold Sys2Proof.Machine.execSpdmKeyExchange
  refine keeps_spdmReady ?_ ?_
  · intro _ h1
    beta_reduce
    refine keeps_ite (P := Keeps r) ?_ ?_
    · refine keeps_spdmError ?_
      · exact h1
    · extract_lets -merge -useContext -underBinder +onlyGivenNames v2
      try clear_value v2
      split
      · rename_i q3
        have h4 : Keeps r _ := KP_of q3 (by
          refine keeps_fresh ?_
          · exact h1
          )
        extract_lets -merge -useContext -underBinder +onlyGivenNames _ v5
        have h6 : Keeps r v5 := by
          subst v5
          exact keeps_same h4 rfl
        try clear_value v5
        extract_lets -merge -useContext -underBinder +onlyGivenNames v7
        try clear_value v7
        refine keeps_spdmLarge ?_
        · exact h6
  · exact g4

theorem keeps_execSpdmFinish {a1 a2 a3 a4} (g4 : Keeps r a4) : KN (Keeps r) (Sys2Proof.Machine.execSpdmFinish a1 a2 a3 a4) := by
  unfold Sys2Proof.Machine.execSpdmFinish
  refine keeps_spdmReady ?_ ?_
  · intro _ h1
    beta_reduce
    split
    · refine keeps_spdmError ?_
      · exact h1
    · refine keeps_ite (P := Keeps r) ?_ ?_
      · refine keeps_spdmError ?_
        · exact h1
      · refine keeps_ite (P := Keeps r) ?_ ?_
        · refine keeps_spdmError ?_
          · exact keeps_same h1 rfl
        · refine keeps_spdmSend ?_
          · exact keeps_same h1 rfl
  · exact g4

theorem keeps_inSession {a1 a2 a3 a4} (g3 : ∀ b1 b2, Keeps r b2 → Keeps r (a3 b1 b2)) (g4 : Keeps r a4) : KN (Keeps r) (Sys2Proof.Machine.inSession a1 a2 a3 a4) := by
  unfold Sys2Proof.Machine.inSession
  refine keeps_spdmReady ?_ ?_
  · intro _ h1
    beta_reduce
    split
    · refine keeps_spdmError ?_
      · exact h1
    · refine keeps_ite (P := Keeps r) ?_ ?_
      · refine g3 _ _ ?_
        · exact h1
      · refine keeps_spdmError ?_
        · exact h1
  · exact g4

theorem keeps_execSpdmEndSession {a1 a2 a3} (g3 : Keeps r a3) : KN (Keeps r) (Sys2Proof.Machine.execSpdmEndSession a1 a2 a3) := by
  unfold Sys2Proof.Machine.execSpdmEndSession
  refine keeps_inSession ?_ ?_
  · intro _ _ h1
    beta_reduce
    refine keeps_spdmSend ?_
    · exact keeps_same h1 rfl
  · exact g3

theorem keeps_execSpdmHeartbeat {a1 a2 a3} (g3 : Keeps r a3) : KN (Keeps r) (Sys2Proof.Machine.execSpdmHeartbeat a1 a2 a3) := by
  unfold Sys2Proof.Machine.execSpdmHeartbeat
  refine keeps_inSession ?_ ?_
  · intro _ _ h1
    beta_reduce
    refine keeps_spdmSend ?_
    · exact h1
  · exact g3

theorem keeps_execSpdmKeyUpdate {a1 a2 a3 a4} (g4 : Keeps r a4) : KN (Keeps r) (Sys2Proof.Machine.execSpdmKeyUpdate a1 a2 a3 a4) := by
  unfold Sys2Proof.Machine.execSpdmKeyUpdate
  refine keeps_inSession ?_ ?_
  · intro _ _ h1
    beta_reduce
    refine keeps_ite (P := Keeps r) ?_ ?_
    · refine keeps_spdmError ?_
      · exact h1
    · refine keeps_spdmSend ?_
      · refine keeps_ite (P := Keeps r) ?_ ?_
        · exact h1
        · exact keeps_same h1 rfl
  · exact g4

theorem keeps_ideReply {a1 a2 a3 a4 a5} (g5 : Keeps r a5) : Keeps r (Sys2Proof.Machine.ideReply a1 a2 a3 a4 a5) := by
  unfold Sys2Proof.Machine.ideReply
  refine keeps_spdmSend ?_
  · exact g5

theorem keeps_execSpdmVendorDefinedRequest {a1 a2 a3 a4 a5 a6} (g6 : Keeps r a6) : KN (Keeps r) (Sys2Proof.Machine.execSpdmVendorDefinedRequest a1 a2 a3 a4 a5 a6) := by
  unfold Sys2Proof.Machine.execSpdmVendorDefinedRequest
  refine keeps_spdmReady ?_ ?_
  · intro _ h1
    beta_reduce
    split
    · refine keeps_spdmError ?_
      · exact h1
    · extract_lets -merge -useContext -underBinder +onlyGivenNames v2
      try clear_value v2
      refine keeps_ite (P := Keeps r) ?_ ?_
      · refine keeps_spdmError ?_
        · exact h1
      · refine keeps_ite (P := Keeps r) ?_ ?_
        · refine keeps_spdmError ?_
          · exact h1
        · split
          · refine keeps_ideReply ?_
            · exact h1
          · refine keeps_ite (P := Keeps r) ?_ ?_
            · refine keeps_ideReply ?_
              · exact h1
            · refine keeps_ideReply ?_
              · exact keeps_same h1 rfl
          · refine keeps_ite (P := Keeps r) ?_ ?_
            · refine keeps_ideReply ?_
              · exact keeps_same h1 rfl
            · refine keeps_spdmError ?_
              · exact h1
          · refine keeps_ite (P := Keeps r) ?_ ?_
            · refine keeps_ideReply ?_
              · exact keeps_same h1 rfl
            · refine keeps_spdmError ?_
              · exact h1
          · refine keeps_spdmError ?_
            · exact h1
  · exact g6

theorem keeps_execSpdmChunkSend {a1 a2 a3 a4 a5 a6} (g6 : Keeps r a6) : KN (Keeps r) (Sys2Proof.Machine.execSpdmChunkSend a1 a2 a3 a4 a5 a6) := by
  unfold Sys2Proof.Machine.execSpdmChunkSend
  refine keeps_spdmServe ?_ ?_
  · intro _ h1
    beta_reduce
    extract_lets -merge -useContext -underBinder +onlyGivenNames v2
    try clear_value v2
    refine keeps_ite (P := Keeps r) ?_ ?_
    · refine keeps_spdmError ?_
      · exact h1
    · split
      · refine keeps_spdmError ?_
        · refine keeps_setConn ?_
          · exact h1
      · refine keeps_spdmSend ?_
        · refine keeps_setConn ?_
          · exact h1
  · exact g6

theorem keeps_execSpdmChunkGet {a1 a2 a3 a4} (g4 : Keeps r a4) : KN (Keeps r) (Sys2Proof.Machine.execSpdmChunkGet a1 a2 a3 a4) := by
  unfold Sys2Proof.Machine.execSpdmChunkGet
  refine keeps_spdmServe ?_ ?_
  · intro _ h1
    beta_reduce
    extract_lets -merge -useContext -underBinder +onlyGivenNames v2
    try clear_value v2
    split
    · refine keeps_spdmError ?_
      · exact h1
    · refine keeps_ite (P := Keeps r) ?_ ?_
      · refine keeps_spdmError ?_
        · exact h1
      · extract_lets -merge -useContext -underBinder +onlyGivenNames v3
        try clear_value v3
        extract_lets -merge -useContext -underBinder +onlyGivenNames v4
        try clear_value v4
        refine keeps_spdmSend ?_
        · refine keeps_setConn ?_
          · exact h1
  · exact g4

theorem keeps_execSparkArm {a1 a2} (g2 : Keeps r a2) : KN (Keeps r) (Sys2Proof.Machine.execSparkArm a1 a2) := by
  unfold Sys2Proof.Machine.execSparkArm
  refine KN_next ?_
  refine keeps_runCmd ?_ ?_
  · intro _ _ _ h1
    beta_reduce
    extract_lets -merge -useContext -underBinder +onlyGivenNames v2
    try clear_value v2
    refine keeps_ite (P := KP (Keeps r)) ?_ ?_
    · refine KP_mk ?_
      exact h1
    · refine keeps_ite (P := KP (Keeps r)) ?_ ?_
      · refine KP_mk ?_
        exact h1
      · split
        · refine KP_mk ?_
          exact h1
        · split
          · refine KP_mk ?_
            exact h1
          · split
            · rename_i q3
              have h4 : Keeps r _ := KP_of q3 (by
                refine keeps_judge ?_
                · exact h1
                )
              refine keeps_ite (P := KP (Keeps r)) ?_ ?_
              · refine KP_mk ?_
                exact h4
              · refine KP_mk ?_
                exact keeps_same h4 rfl
  · exact g2

theorem keeps_execSparkArmEffective {a1 a2} (g2 : Keeps r a2) : KN (Keeps r) (Sys2Proof.Machine.execSparkArmEffective a1 a2) := by
  unfold Sys2Proof.Machine.execSparkArmEffective
  refine KN_next ?_
  split
  · exact g2
  · refine keeps_ite (P := Keeps r) ?_ ?_
    · exact keeps_same g2 rfl
    · exact g2

theorem keeps_disarm {a1 a2 a3} (g2 : Keeps r a2) : Keeps r (Sys2Proof.Machine.disarm a1 a2 a3) := by
  unfold Sys2Proof.Machine.disarm
  split
  · rename_i q1
    have h2 : Keeps r _ := KP_of q1 (by
      refine keeps_judge ?_
      · exact g2
      )
    refine keeps_ite (P := Keeps r) ?_ ?_
    · exact keeps_same h2 rfl
    · exact h2

theorem keeps_execSparkDisarm {a1 a2} (g2 : Keeps r a2) : KN (Keeps r) (Sys2Proof.Machine.execSparkDisarm a1 a2) := by
  unfold Sys2Proof.Machine.execSparkDisarm
  refine KN_next ?_
  refine keeps_runCmd ?_ ?_
  · intro _ _ _ h1
    beta_reduce
    extract_lets -merge -useContext -underBinder +onlyGivenNames v2
    try clear_value v2
    extract_lets -merge -useContext -underBinder +onlyGivenNames v3
    try clear_value v3
    refine keeps_ite (P := KP (Keeps r)) ?_ ?_
    · refine KP_mk ?_
      exact h1
    · refine keeps_ite (P := KP (Keeps r)) ?_ ?_
      · refine KP_mk ?_
        exact h1
      · refine KP_mk ?_
        refine keeps_foldl (P := Keeps r) (fun _ _ h4 => ?_) ?_
        · refine keeps_disarm ?_
          · exact h4
        · exact h1
  · exact g2

theorem keeps_execSparkStatus {a1 a2} (g2 : Keeps r a2) : KN (Keeps r) (Sys2Proof.Machine.execSparkStatus a1 a2) := by
  unfold Sys2Proof.Machine.execSparkStatus
  refine KN_next ?_
  refine keeps_runCmd ?_ ?_
  · intro _ _ _ h1
    beta_reduce
    extract_lets -merge -useContext -underBinder +onlyGivenNames v2
    try clear_value v2
    refine keeps_ite (P := KP (Keeps r)) ?_ ?_
    · refine KP_mk ?_
      exact h1
    · split
      · refine KP_mk ?_
        exact h1
      · refine keeps_ite (P := KP (Keeps r)) ?_ ?_
        · refine KP_mk ?_
          exact h1
        · refine KP_mk ?_
          exact h1
  · exact g2

theorem keeps_execTallyRead {a1 a2} (g2 : Keeps r a2) : KN (Keeps r) (Sys2Proof.Machine.execTallyRead a1 a2) := by
  unfold Sys2Proof.Machine.execTallyRead
  refine KN_next ?_
  refine keeps_runCmd ?_ ?_
  · intro _ _ _ h1
    beta_reduce
    extract_lets -merge -useContext -underBinder +onlyGivenNames v2
    try clear_value v2
    extract_lets -merge -useContext -underBinder +onlyGivenNames v3
    try clear_value v3
    extract_lets -merge -useContext -underBinder +onlyGivenNames v4
    try clear_value v4
    split
    · refine KP_mk ?_
      exact h1
    · refine keeps_ite (P := KP (Keeps r)) ?_ ?_
      · refine KP_mk ?_
        exact h1
      · split
        · refine KP_mk ?_
          exact h1
        · refine keeps_ite (P := KP (Keeps r)) ?_ ?_
          · refine KP_mk ?_
            exact h1
          · refine KP_mk ?_
            exact h1
  · exact g2

theorem keeps_execTallyWrite {a1} (g1 : Keeps r a1) : KN (Keeps r) (Sys2Proof.Machine.execTallyWrite a1) := by
  unfold Sys2Proof.Machine.execTallyWrite
  refine KN_next ?_
  refine keeps_saveTally ?_
  · exact g1

theorem keeps_execStrainCompute {a1} (g1 : Keeps r a1) : KN (Keeps r) (Sys2Proof.Machine.execStrainCompute a1) := by
  unfold Sys2Proof.Machine.execStrainCompute
  refine KN_next ?_
  refine keeps_foldl (P := Keeps r) (fun _ _ h1 => ?_) ?_
  · refine keeps_strainUpdate ?_
    · exact h1
  · exact g1

theorem keeps_execStrainDayRollover {a1} (g1 : Keeps r a1) : KN (Keeps r) (Sys2Proof.Machine.execStrainDayRollover a1) := by
  unfold Sys2Proof.Machine.execStrainDayRollover
  refine KN_next ?_
  exact keeps_same g1 rfl

theorem keeps_thermalPoint {a1 a2} (g2 : Keeps r a2) : Keeps r (Sys2Proof.Machine.thermalPoint a1 a2) := by
  unfold Sys2Proof.Machine.thermalPoint
  extract_lets -merge -useContext -underBinder +onlyGivenNames v1
  try clear_value v1
  refine keeps_ite (P := Keeps r) ?_ ?_
  · extract_lets -merge -useContext -underBinder +onlyGivenNames v2
    try clear_value v2
    refine keeps_ite (P := Keeps r) ?_ ?_
    · exact keeps_same g2 rfl
    · exact keeps_same g2 rfl
  · extract_lets -merge -useContext -underBinder +onlyGivenNames v3
    try clear_value v3
    refine keeps_ite (P := Keeps r) ?_ ?_
    · exact keeps_same g2 rfl
    · exact keeps_same g2 rfl

theorem keeps_execThermalCycleSample {a1 a2} (g2 : Keeps r a2) : KN (Keeps r) (Sys2Proof.Machine.execThermalCycleSample a1 a2) := by
  unfold Sys2Proof.Machine.execThermalCycleSample
  refine KN_next ?_
  refine keeps_thermalPoint ?_
  · exact keeps_same g2 rfl

theorem keeps_execRtcSet {a1} (g1 : Keeps r a1) : KN (Keeps r) (Sys2Proof.Machine.execRtcSet a1) := by
  unfold Sys2Proof.Machine.execRtcSet
  refine KN_next ?_
  refine keeps_ite (P := Keeps r) ?_ ?_
  · exact keeps_same g1 rfl
  · exact g1

theorem keeps_acceptPlough {a1 a2 a3} (g3 : Keeps r a3) : Keeps r (Sys2Proof.Machine.acceptPlough a1 a2 a3) := by
  unfold Sys2Proof.Machine.acceptPlough
  extract_lets -merge -useContext -underBinder +onlyGivenNames v1
  try clear_value v1
  extract_lets -merge -useContext -underBinder +onlyGivenNames _ v2
  have h3 : Keeps r v2 := by
    subst v2
    refine keeps_setPlough ?_
    · exact keeps_same g3 rfl
  try clear_value v2
  refine keeps_foldl (P := Keeps r) (fun _ _ h4 => ?_) ?_
  · refine keeps_raiseN ?_
    · exact h4
  · exact h3

theorem keeps_ploughBody {a1 a2 a3 a4} (g4 : Keeps r a4) : KP (Keeps r) (Sys2Proof.Machine.ploughBody a1 a2 a3 a4) := by
  unfold Sys2Proof.Machine.ploughBody
  extract_lets -merge -useContext -underBinder +onlyGivenNames v1
  try clear_value v1
  extract_lets -merge -useContext -underBinder +onlyGivenNames v2
  try clear_value v2
  extract_lets -merge -useContext -underBinder +onlyGivenNames v3
  try clear_value v3
  extract_lets -merge -useContext -underBinder +onlyGivenNames v4
  try clear_value v4
  extract_lets -merge -useContext -underBinder +onlyGivenNames v5
  have h6 : ∀ a7, Keeps r a7 → KP (Keeps r) (v5 a7) := by
    subst v5
    intro _ h8
    beta_reduce
    split
    · rename_i q9
      have h10 : Keeps r _ := KP_of q9 (by
        refine keeps_fresh ?_
        · exact h8
        )
      refine KP_mk ?_
      exact h10
  try clear_value v5
  refine keeps_ite (P := KP (Keeps r)) ?_ ?_
  · refine KP_mk ?_
    exact g4
  · refine keeps_ite (P := KP (Keeps r)) ?_ ?_
    · extract_lets -merge -useContext -underBinder +onlyGivenNames v11
      try clear_value v11
      extract_lets -merge -useContext -underBinder +onlyGivenNames v12
      try clear_value v12
      extract_lets -merge -useContext -underBinder +onlyGivenNames v13
      try clear_value v13
      refine keeps_ite (P := KP (Keeps r)) ?_ ?_
      · refine KP_mk ?_
        exact g4
      · refine keeps_ite (P := KP (Keeps r)) ?_ ?_
        · refine KP_mk ?_
          exact g4
        · refine keeps_ite (P := KP (Keeps r)) ?_ ?_
          · refine KP_mk ?_
            exact g4
          · refine keeps_ite (P := KP (Keeps r)) ?_ ?_
            · refine h6 _ ?_
              · exact g4
            · refine KP_mk ?_
              refine keeps_acceptPlough ?_
              · exact g4
    · split
      · refine KP_mk ?_
        exact g4
      · refine KP_mk ?_
        exact g4
      · extract_lets -merge -useContext -underBinder +onlyGivenNames v14
        try clear_value v14
        extract_lets -merge -useContext -underBinder +onlyGivenNames v15
        try clear_value v15
        refine keeps_ite (P := KP (Keeps r)) ?_ ?_
        · refine KP_mk ?_
          exact g4
        · refine keeps_ite (P := KP (Keeps r)) ?_ ?_
          · refine KP_mk ?_
            exact g4
          · refine keeps_ite (P := KP (Keeps r)) ?_ ?_
            · refine KP_mk ?_
              exact g4
            · refine keeps_ite (P := KP (Keeps r)) ?_ ?_
              · refine h6 _ ?_
                · exact g4
              · refine KP_mk ?_
                refine keeps_acceptPlough ?_
                · exact g4

theorem keeps_execPloughFill {a1 a2} (g2 : Keeps r a2) : KN (Keeps r) (Sys2Proof.Machine.execPloughFill a1 a2) := by
  unfold Sys2Proof.Machine.execPloughFill
  refine KN_next ?_
  refine keeps_runCmd ?_ ?_
  · intro _ _ _ h1
    refine keeps_ploughBody ?_
    · exact h1
  · exact g2

theorem keeps_execPloughCopy {a1 a2} (g2 : Keeps r a2) : KN (Keeps r) (Sys2Proof.Machine.execPloughCopy a1 a2) := by
  unfold Sys2Proof.Machine.execPloughCopy
  refine KN_next ?_
  refine keeps_runCmd ?_ ?_
  · intro _ _ _ h1
    refine keeps_ploughBody ?_
    · exact h1
  · exact g2

theorem keeps_execPloughLogic {a1 a2} (g2 : Keeps r a2) : KN (Keeps r) (Sys2Proof.Machine.execPloughLogic a1 a2) := by
  unfold Sys2Proof.Machine.execPloughLogic
  refine KN_next ?_
  refine keeps_runCmd ?_ ?_
  · intro _ _ _ h1
    refine keeps_ploughBody ?_
    · exact h1
  · exact g2

theorem keeps_execPloughFenceInstall {a1 a2 a3} (g3 : Keeps r a3) : KN (Keeps r) (Sys2Proof.Machine.execPloughFenceInstall a1 a2 a3) := by
  unfold Sys2Proof.Machine.execPloughFenceInstall
  refine KN_next ?_
  split
  · exact g3
  · refine keeps_ite (P := Keeps r) ?_ ?_
    · exact g3
    · refine keeps_installFence ?_
      · exact g3

theorem keeps_execPloughRowStep {a1 a2 a3} (g3 : Keeps r a3) : KN (Keeps r) (Sys2Proof.Machine.execPloughRowStep a1 a2 a3) := by
  unfold Sys2Proof.Machine.execPloughRowStep
  refine KN_next ?_
  split
  · exact g3
  · extract_lets -merge -useContext -underBinder +onlyGivenNames v1
    try clear_value v1
    refine keeps_ite (P := Keeps r) ?_ ?_
    · exact g3
    · split
      · exact g3
      · refine keeps_settleStep ?_
        · exact g3

theorem keeps_execPloughComplete {a1 a2} (g2 : Keeps r a2) : KN (Keeps r) (Sys2Proof.Machine.execPloughComplete a1 a2) := by
  unfold Sys2Proof.Machine.execPloughComplete
  refine KN_next ?_
  split
  · exact g2
  · refine keeps_ite (P := Keeps r) ?_ ?_
    · exact g2
    · extract_lets -merge -useContext -underBinder +onlyGivenNames v1
      try clear_value v1
      extract_lets -merge -useContext -underBinder +onlyGivenNames _ v2
      have h3 : Keeps r v2 := by
        subst v2
        refine keeps_foldl (P := Keeps r) (fun _ _ h4 => ?_) ?_
        · refine keeps_modChan ?_
          · exact h4
        · exact keeps_same g2 rfl
      try clear_value v2
      split
      · exact h3
      · refine keeps_finish ?_
        · exact h3

end Sys2Proof.Machine
end

