-- ==== Sys2Proof/Laws/KeepsModule.lean ====
section
/-! SUPPORT. What the operations of health, power, the Olnen commands, the module and the registers keep (`Keeps`): one lemma per operation. -/

namespace Sys2Proof.Machine

variable {r s t : State} {α β ε : Type}

theorem keeps_execStragglerHoldExpiry {a1} (g1 : Keeps r a1) : KN (Keeps r) (Sys2Proof.Machine.execStragglerHoldExpiry a1) := by
  unfold Sys2Proof.Machine.execStragglerHoldExpiry
  refine KN_next ?_
  refine keeps_ite (P := Keeps r) ?_ ?_
  · refine keeps_raiseNode ?_
    · exact keeps_same g1 rfl
  · refine keeps_ite (P := Keeps r) ?_ ?_
    · refine keeps_raiseNode ?_
      · exact keeps_same g1 rfl
    · exact g1

theorem keeps_execMeterSample {a1} (g1 : Keeps r a1) : KN (Keeps r) (Sys2Proof.Machine.execMeterSample a1) := by
  unfold Sys2Proof.Machine.execMeterSample
  refine KN_next ?_
  refine keeps_foldl (P := Keeps r) (fun _ _ h1 => ?_) ?_
  · refine keeps_tenantAdd ?_
    · exact h1
  · exact g1

theorem keeps_execMeterRead {a1 a2} (g2 : Keeps r a2) : KN (Keeps r) (Sys2Proof.Machine.execMeterRead a1 a2) := by
  unfold Sys2Proof.Machine.execMeterRead
  refine KN_next ?_
  refine keeps_runCmd ?_ ?_
  · intro _ _ _ h1
    beta_reduce
    extract_lets -merge -useContext -underBinder +onlyGivenNames v2
    try clear_value v2
    refine keeps_ite (P := KP (Keeps r)) ?_ ?_
    · refine KP_mk ?_
      exact h1
    · split
      · refine KP_mk ?_
        exact h1
      · refine keeps_ite (P := KP (Keeps r)) ?_ ?_
        · refine KP_mk ?_
          exact h1
        · refine KP_mk ?_
          exact h1
  · exact g2

theorem keeps_execMeterCompositions {a1 a2} (g2 : Keeps r a2) : KN (Keeps r) (Sys2Proof.Machine.execMeterCompositions a1 a2) := by
  unfold Sys2Proof.Machine.execMeterCompositions
  refine KN_next ?_
  refine keeps_runCmd ?_ ?_
  · intro _ _ _ h1
    beta_reduce
    extract_lets -merge -useContext -underBinder +onlyGivenNames v2
    try clear_value v2
    refine keeps_ite (P := KP (Keeps r)) ?_ ?_
    · refine KP_mk ?_
      exact h1
    · split
      · refine KP_mk ?_
        exact h1
      · refine keeps_ite (P := KP (Keeps r)) ?_ ?_
        · refine KP_mk ?_
          exact h1
        · refine KP_mk ?_
          exact keeps_same h1 rfl
  · exact g2

theorem keeps_execMeterProfile {a1 a2} (g2 : Keeps r a2) : KN (Keeps r) (Sys2Proof.Machine.execMeterProfile a1 a2) := by
  unfold Sys2Proof.Machine.execMeterProfile
  refine KN_next ?_
  refine keeps_runCmd ?_ ?_
  · intro _ _ _ h1
    beta_reduce
    extract_lets -merge -useContext -underBinder +onlyGivenNames v2
    try clear_value v2
    refine keeps_ite (P := KP (Keeps r)) ?_ ?_
    · refine KP_mk ?_
      exact h1
    · split
      · refine KP_mk ?_
        exact h1
      · split
        · refine KP_mk ?_
          exact h1
        · refine keeps_ite (P := KP (Keeps r)) ?_ ?_
          · refine KP_mk ?_
            exact h1
          · refine keeps_ite (P := KP (Keeps r)) ?_ ?_
            · refine KP_mk ?_
              exact h1
            · refine keeps_ite (P := KP (Keeps r)) ?_ ?_
              · refine KP_mk ?_
                exact h1
              · refine KP_mk ?_
                exact h1
  · exact g2

theorem keeps_execMeterResetTenant {a1 a2} (g2 : Keeps r a2) : KN (Keeps r) (Sys2Proof.Machine.execMeterResetTenant a1 a2) := by
  unfold Sys2Proof.Machine.execMeterResetTenant
  refine KN_next ?_
  refine keeps_runCmd ?_ ?_
  · intro _ _ _ h1
    beta_reduce
    extract_lets -merge -useContext -underBinder +onlyGivenNames v2
    try clear_value v2
    refine keeps_ite (P := KP (Keeps r)) ?_ ?_
    · refine KP_mk ?_
      exact h1
    · refine keeps_ite (P := KP (Keeps r)) ?_ ?_
      · refine KP_mk ?_
        exact h1
      · split
        · rename_i q3
          have h4 : Keeps r _ := KP_of q3 (by
            refine keeps_judge ?_
            · exact h1
            )
          refine keeps_ite (P := KP (Keeps r)) ?_ ?_
          · refine KP_mk ?_
            exact h4
          · refine KP_mk ?_
            exact keeps_same h4 rfl
  · exact g2

theorem keeps_execHealthStatus {a1 a2} (g2 : Keeps r a2) : KN (Keeps r) (Sys2Proof.Machine.execHealthStatus a1 a2) := by
  unfold Sys2Proof.Machine.execHealthStatus
  refine KN_next ?_
  refine keeps_runCmd ?_ ?_
  · intro _ _ _ h1
    beta_reduce
    extract_lets -merge -useContext -underBinder +onlyGivenNames v2
    try clear_value v2
    refine keeps_ite (P := KP (Keeps r)) ?_ ?_
    · refine KP_mk ?_
      exact h1
    · split
      · refine KP_mk ?_
        exact h1
      · refine keeps_ite (P := KP (Keeps r)) ?_ ?_
        · refine KP_mk ?_
          exact h1
        · refine KP_mk ?_
          exact h1
  · exact g2

theorem keeps_execHealthEventRead {a1 a2} (g2 : Keeps r a2) : KN (Keeps r) (Sys2Proof.Machine.execHealthEventRead a1 a2) := by
  unfold Sys2Proof.Machine.execHealthEventRead
  refine KN_next ?_
  refine keeps_runCmd ?_ ?_
  · intro _ _ _ h1
    beta_reduce
    extract_lets -merge -useContext -underBinder +onlyGivenNames v2
    try clear_value v2
    extract_lets -merge -useContext -underBinder +onlyGivenNames v3
    try clear_value v3
    extract_lets -merge -useContext -underBinder +onlyGivenNames v4
    try clear_value v4
    refine keeps_ite (P := KP (Keeps r)) ?_ ?_
    · refine KP_mk ?_
      exact h1
    · split
      · refine KP_mk ?_
        exact h1
      · extract_lets -merge -useContext -underBinder +onlyGivenNames v5
        try clear_value v5
        refine KP_mk ?_
        exact keeps_same h1 rfl
  · exact g2

theorem keeps_execHealthConfig {a1 a2} (g2 : Keeps r a2) : KN (Keeps r) (Sys2Proof.Machine.execHealthConfig a1 a2) := by
  unfold Sys2Proof.Machine.execHealthConfig
  refine KN_next ?_
  refine keeps_runCmd ?_ ?_
  · intro _ _ _ h1
    beta_reduce
    extract_lets -merge -useContext -underBinder +onlyGivenNames v2
    try clear_value v2
    extract_lets -merge -useContext -underBinder +onlyGivenNames v3
    try clear_value v3
    refine keeps_ite (P := KP (Keeps r)) ?_ ?_
    · refine KP_mk ?_
      exact h1
    · split
      · rename_i q4
        have h5 : Keeps r _ := KP_of q4 (by
          refine keeps_judge ?_
          · exact h1
          )
        refine keeps_ite (P := KP (Keeps r)) ?_ ?_
        · refine KP_mk ?_
          exact h5
        · refine keeps_stage ?_
          · exact h5
  · exact g2

theorem keeps_unitOrder {a1 a2 a3 a4} (g2 : ∀ b1 b2 b3, Keeps r b3 → KP (Keeps r) (a2 b1 b2 b3)) (g4 : Keeps r a4) : KP (Keeps r) (Sys2Proof.Machine.unitOrder a1 a2 a3 a4) := by
  unfold Sys2Proof.Machine.unitOrder
  extract_lets -merge -useContext -underBinder +onlyGivenNames v1
  try clear_value v1
  extract_lets -merge -useContext -underBinder +onlyGivenNames v2
  try clear_value v2
  extract_lets -merge -useContext -underBinder +onlyGivenNames v3
  try clear_value v3
  refine keeps_ite (P := KP (Keeps r)) ?_ ?_
  · refine KP_mk ?_
    exact g4
  · refine keeps_ite (P := KP (Keeps r)) ?_ ?_
    · refine KP_mk ?_
      exact g4
    · refine keeps_ite (P := KP (Keeps r)) ?_ ?_
      · refine KP_mk ?_
        exact g4
      · split
        · rename_i q4
          have h5 : Keeps r _ := KP_of q4 (by
            refine keeps_judge ?_
            · exact g4
            )
          refine keeps_ite (P := KP (Keeps r)) ?_ ?_
          · refine KP_mk ?_
            exact h5
          · refine g2 _ _ _ ?_
            · exact h5

theorem keeps_unitJudge {a1 a2 a3} (g3 : Keeps r a3) : KP (Keeps r) (Sys2Proof.Machine.unitJudge a1 a2 a3) := by
  unfold Sys2Proof.Machine.unitJudge
  refine keeps_judge ?_
  · exact g3

theorem keeps_execHealthFence {a1 a2} (g2 : Keeps r a2) : KN (Keeps r) (Sys2Proof.Machine.execHealthFence a1 a2) := by
  unfold Sys2Proof.Machine.execHealthFence
  refine KN_next ?_
  refine keeps_settleWork ?_
  · refine keeps_runCmd ?_ ?_
    · intro _ _ _ h1
      beta_reduce
      refine keeps_unitOrder ?_ ?_
      · intro _ _ _ h2
        beta_reduce
        refine keeps_ite (P := KP (Keeps r)) ?_ ?_
        · refine KP_mk ?_
          refine keeps_ite (P := Keeps r) ?_ ?_
          · exact h2
          · refine keeps_fenceChannel ?_
            · exact h2
        · refine KP_mk ?_
          refine keeps_ite (P := Keeps r) ?_ ?_
          · exact h2
          · refine keeps_fencePeatGroup ?_
            · exact h2
      · exact h1
    · exact g2

theorem keeps_execHealthRestrict {a1 a2} (g2 : Keeps r a2) : KN (Keeps r) (Sys2Proof.Machine.execHealthRestrict a1 a2) := by
  unfold Sys2Proof.Machine.execHealthRestrict
  refine KN_next ?_
  refine keeps_runCmd ?_ ?_
  · intro _ _ _ h1
    beta_reduce
    refine keeps_unitOrder ?_ ?_
    · intro _ _ _ h2
      beta_reduce
      refine keeps_ite (P := KP (Keeps r)) ?_ ?_
      · refine KP_mk ?_
        refine keeps_ite (P := Keeps r) ?_ ?_
        · refine keeps_modChan ?_
          · exact h2
        · exact h2
      · refine KP_mk ?_
        refine keeps_ite (P := Keeps r) ?_ ?_
        · refine keeps_modGroup ?_
          · exact h2
        · exact h2
    · exact h1
  · exact g2

theorem keeps_execHealthEnable {a1 a2} (g2 : Keeps r a2) : KN (Keeps r) (Sys2Proof.Machine.execHealthEnable a1 a2) := by
  unfold Sys2Proof.Machine.execHealthEnable
  refine KN_next ?_
  refine keeps_runCmd ?_ ?_
  · intro _ _ _ h1
    beta_reduce
    refine keeps_unitOrder ?_ ?_
    · intro _ _ _ h2
      beta_reduce
      refine keeps_ite (P := KP (Keeps r)) ?_ ?_
      · split
        · refine KP_mk ?_
          refine keeps_modChan ?_
          · exact h2
        · refine KP_mk ?_
          refine keeps_modChan ?_
          · exact h2
        · refine KP_mk ?_
          exact h2
      · split
        · refine KP_mk ?_
          refine keeps_modGroup ?_
          · exact h2
        · refine KP_mk ?_
          refine keeps_modGroup ?_
          · exact h2
        · refine KP_mk ?_
          exact h2
    · exact h1
  · exact g2

theorem keeps_execHealthUnretire {a1 a2} (g2 : Keeps r a2) : KN (Keeps r) (Sys2Proof.Machine.execHealthUnretire a1 a2) := by
  unfold Sys2Proof.Machine.execHealthUnretire
  refine KN_next ?_
  refine keeps_runCmd ?_ ?_
  · intro _ _ _ h1
    beta_reduce
    extract_lets -merge -useContext -underBinder +onlyGivenNames v2
    try clear_value v2
    split
    · refine KP_mk ?_
      exact h1
    · refine keeps_ite (P := KP (Keeps r)) ?_ ?_
      · refine KP_mk ?_
        exact h1
      · refine keeps_ite (P := KP (Keeps r)) ?_ ?_
        · refine KP_mk ?_
          exact h1
        · refine keeps_ite (P := KP (Keeps r)) ?_ ?_
          · refine KP_mk ?_
            exact h1
          · split
            · rename_i q3
              have h4 : Keeps r _ := KP_of q3 (by
                refine keeps_judge ?_
                · exact h1
                )
              refine keeps_ite (P := KP (Keeps r)) ?_ ?_
              · refine KP_mk ?_
                exact h4
              · refine KP_mk ?_
                exact keeps_same h4 rfl
  · exact g2

theorem keeps_refillRegions {a1 a2} (g2 : Keeps r a2) : Keeps r (Sys2Proof.Machine.refillRegions a1 a2) := by
  unfold Sys2Proof.Machine.refillRegions
  refine keeps_foldl (P := Keeps r) (fun _ _ h1 => ?_) ?_
  · refine keeps_foldl (P := Keeps r) (fun _ _ h2 => ?_) ?_
    · refine keeps_emberWrite ?_
      · exact h2
    · exact h1
  · exact g2

theorem keeps_channelQuarantined {a1 a2 a3 a4} (g4 : Keeps r a4) : Keeps r (Sys2Proof.Machine.channelQuarantined a1 a2 a3 a4) := by
  unfold Sys2Proof.Machine.channelQuarantined
  extract_lets -merge -useContext -underBinder +onlyGivenNames v1
  try clear_value v1
  refine keeps_ite (P := Keeps r) ?_ ?_
  · exact g4
  · refine keeps_ite (P := Keeps r) ?_ ?_
    · extract_lets -merge -useContext -underBinder +onlyGivenNames v2
      have h3 : Keeps r v2 := by
        subst v2
        refine keeps_raiseNode ?_
        · exact g4
      try clear_value v2
      extract_lets -merge -useContext -underBinder +onlyGivenNames v4
      have h5 : Keeps r v4 := by
        subst v4
        refine keeps_setChan ?_
        · exact h3
      try clear_value v4
      extract_lets -merge -useContext -underBinder +onlyGivenNames _ v6
      have h7 : Keeps r v6 := by
        subst v6
        exact keeps_same h5 rfl
      try clear_value v6
      refine keeps_endEnables ?_
      · refine keeps_refillRegions ?_
        · exact h7
    · refine keeps_fenceChannel ?_
      · refine keeps_raiseNode ?_
        · exact g4

theorem keeps_groupQuarantined {a1 a2 a3 a4} (g4 : Keeps r a4) : Keeps r (Sys2Proof.Machine.groupQuarantined a1 a2 a3 a4) := by
  unfold Sys2Proof.Machine.groupQuarantined
  extract_lets -merge -useContext -underBinder +onlyGivenNames v1
  try clear_value v1
  refine keeps_ite (P := Keeps r) ?_ ?_
  · exact g4
  · refine keeps_ite (P := Keeps r) ?_ ?_
    · extract_lets -merge -useContext -underBinder +onlyGivenNames v2
      have h3 : Keeps r v2 := by
        subst v2
        refine keeps_raiseNode ?_
        · exact g4
      try clear_value v2
      refine keeps_endEnables ?_
      · refine keeps_modGroup ?_
        · exact h3
    · refine keeps_fencePeatGroup ?_
      · refine keeps_raiseNode ?_
        · exact g4

theorem keeps_coreQuarantined {a1 a2 a3} (g3 : Keeps r a3) : Keeps r (Sys2Proof.Machine.coreQuarantined a1 a2 a3) := by
  unfold Sys2Proof.Machine.coreQuarantined
  refine keeps_ite (P := Keeps r) ?_ ?_
  · exact g3
  · split
    · rename_i q1
      have h2 : Keeps r _ := KP_of q1 (by
        refine keeps_sparkCheck ?_
        · exact g3
        )
      extract_lets -merge -useContext -underBinder +onlyGivenNames v3
      try clear_value v3
      refine keeps_ite (P := Keeps r) ?_ ?_
      · refine keeps_returnCore ?_
        · refine keeps_raiseNode ?_
          · exact h2
      · extract_lets -merge -useContext -underBinder +onlyGivenNames v4
        have h5 : Keeps r v4 := by
          subst v4
          refine keeps_raiseN ?_
          · exact h2
        try clear_value v4
        refine keeps_startRuns ?_
        · refine keeps_fenceCore ?_
          · refine keeps_countFault ?_
            · exact h5

theorem keeps_portQuarantined {a1 a2 a3 a4} (g4 : Keeps r a4) : Keeps r (Sys2Proof.Machine.portQuarantined a1 a2 a3 a4) := by
  unfold Sys2Proof.Machine.portQuarantined
  extract_lets -merge -useContext -underBinder +onlyGivenNames v1
  try clear_value v1
  refine keeps_ite (P := Keeps r) ?_ ?_
  · exact g4
  · refine keeps_ite (P := Keeps r) ?_ ?_
    · refine keeps_ite (P := Keeps r) ?_ ?_
      · exact g4
      · extract_lets -merge -useContext -underBinder +onlyGivenNames v2
        have h3 : Keeps r v2 := by
          subst v2
          refine keeps_raiseNode ?_
          · refine keeps_setPort ?_
            · exact g4
        try clear_value v2
        refine keeps_endEnables ?_
        · refine keeps_portTrained ?_
          · exact h3
    · extract_lets -merge -useContext -underBinder +onlyGivenNames v4
      have h5 : Keeps r v4 := by
        subst v4
        refine keeps_raiseNode ?_
        · exact g4
      try clear_value v4
      extract_lets -merge -useContext -underBinder +onlyGivenNames v6
      have h7 : Keeps r v6 := by
        subst v6
        refine keeps_recordFence ?_
        · refine keeps_modPort ?_
          · refine keeps_portDown ?_
            · exact h5
      try clear_value v6
      refine keeps_endEnables ?_
      · exact h7

theorem keeps_execQuarantineDone {a1 a2 a3 a4 a5} (g5 : Keeps r a5) : KN (Keeps r) (Sys2Proof.Machine.execQuarantineDone a1 a2 a3 a4 a5) := by
  unfold Sys2Proof.Machine.execQuarantineDone
  refine KN_next ?_
  refine keeps_settleWork ?_
  · split
    · exact g5
    · refine keeps_ite (P := Keeps r) ?_ ?_
      · exact g5
      · split
        · refine keeps_coreQuarantined ?_
          · exact g5
        · refine keeps_channelQuarantined ?_
          · exact g5
        · refine keeps_laneQuarantined ?_
          · exact g5
        · refine keeps_portQuarantined ?_
          · exact g5
        · refine keeps_groupQuarantined ?_
          · exact g5

theorem keeps_setDrain {a1 a2} (g2 : Keeps r a2) : Keeps r (Sys2Proof.Machine.setDrain a1 a2) := by
  unfold Sys2Proof.Machine.setDrain
  exact keeps_same g2 rfl

theorem keeps_startRound {a1 a2} (g2 : Keeps r a2) : Keeps r (Sys2Proof.Machine.startRound a1 a2) := by
  unfold Sys2Proof.Machine.startRound
  extract_lets -merge -useContext -underBinder +onlyGivenNames v1
  try clear_value v1
  refine keeps_setDrain ?_
  · exact g2

theorem keeps_beginCopy {a1 a2} (g2 : Keeps r a2) : Keeps r (Sys2Proof.Machine.beginCopy a1 a2) := by
  unfold Sys2Proof.Machine.beginCopy
  extract_lets -merge -useContext -underBinder +onlyGivenNames v1
  have h2 : Keeps r v1 := by
    subst v1
    refine keeps_setDrain ?_
    · exact g2
  try clear_value v1
  refine keeps_foldl (P := Keeps r) (fun _ _ h3 => ?_) ?_
  · refine keeps_sendNotice ?_
    · exact h3
  · exact h2

theorem keeps_execHealthDrain {a1 a2 a3 a4 a5 a6 a7} (g7 : Keeps r a7) : KN (Keeps r) (Sys2Proof.Machine.execHealthDrain a1 a2 a3 a4 a5 a6 a7) := by
  unfold Sys2Proof.Machine.execHealthDrain
  refine KN_next ?_
  refine keeps_runCmd ?_ ?_
  · intro _ _ _ h1
    beta_reduce
    extract_lets -merge -useContext -underBinder +onlyGivenNames v2
    try clear_value v2
    refine keeps_ite (P := KP (Keeps r)) ?_ ?_
    · refine KP_mk ?_
      exact h1
    · refine keeps_ite (P := KP (Keeps r)) ?_ ?_
      · refine KP_mk ?_
        exact h1
      · refine keeps_ite (P := KP (Keeps r)) ?_ ?_
        · refine KP_mk ?_
          exact h1
        · refine keeps_ite (P := KP (Keeps r)) ?_ ?_
          · refine KP_mk ?_
            exact h1
          · refine keeps_ite (P := KP (Keeps r)) ?_ ?_
            · refine KP_mk ?_
              exact h1
            · refine KP_mk ?_
              refine keeps_beginCopy ?_
              · exact h1
  · exact g7

theorem keeps_execDrainCopyDone {a1 a2} (g2 : Keeps r a2) : KN (Keeps r) (Sys2Proof.Machine.execDrainCopyDone a1 a2) := by
  unfold Sys2Proof.Machine.execDrainCopyDone
  extract_lets -merge -useContext -underBinder +onlyGivenNames v1
  try clear_value v1
  refine KN_next ?_
  refine keeps_ite (P := Keeps r) ?_ ?_
  · exact g2
  · refine keeps_ite (P := Keeps r) ?_ ?_
    · refine keeps_failDrain ?_
      · exact g2
    · refine keeps_startRound ?_
      · refine keeps_setDrain ?_
        · exact g2

theorem keeps_execDrainRoundDone {a1 a2} (g2 : Keeps r a2) : KN (Keeps r) (Sys2Proof.Machine.execDrainRoundDone a1 a2) := by
  unfold Sys2Proof.Machine.execDrainRoundDone
  extract_lets -merge -useContext -underBinder +onlyGivenNames v1
  try clear_value v1
  refine KN_next ?_
  refine keeps_ite (P := Keeps r) ?_ ?_
  · exact g2
  · refine keeps_ite (P := Keeps r) ?_ ?_
    · refine keeps_failDrain ?_
      · exact g2
    · extract_lets -merge -useContext -underBinder +onlyGivenNames v2
      try clear_value v2
      extract_lets -merge -useContext -underBinder +onlyGivenNames v3
      try clear_value v3
      extract_lets -merge -useContext -underBinder +onlyGivenNames v4
      have h5 : Keeps r v4 := by
        subst v4
        refine keeps_setDrain ?_
        · exact g2
      try clear_value v4
      refine keeps_ite (P := Keeps r) ?_ ?_
      · refine keeps_failDrain ?_
        · exact h5
      · refine keeps_startRound ?_
        · exact h5

theorem keeps_drainReady {a1 a2} (g2 : Keeps r a2) : Keeps r (Sys2Proof.Machine.drainReady a1 a2) := by
  unfold Sys2Proof.Machine.drainReady
  extract_lets -merge -useContext -underBinder +onlyGivenNames v1
  try clear_value v1
  extract_lets -merge -useContext -underBinder +onlyGivenNames v2
  try clear_value v2
  extract_lets -merge -useContext -underBinder +onlyGivenNames v3
  have h4 : Keeps r v3 := by
    subst v3
    refine keeps_setDrain ?_
    · exact g2
  try clear_value v3
  refine keeps_raise ?_
  · exact h4

theorem keeps_execDrainQuiesced {a1 a2} (g2 : Keeps r a2) : KN (Keeps r) (Sys2Proof.Machine.execDrainQuiesced a1 a2) := by
  unfold Sys2Proof.Machine.execDrainQuiesced
  extract_lets -merge -useContext -underBinder +onlyGivenNames v1
  try clear_value v1
  refine KN_next ?_
  refine keeps_ite (P := Keeps r) ?_ ?_
  · exact g2
  · refine keeps_ite (P := Keeps r) ?_ ?_
    · refine keeps_failDrain ?_
      · exact g2
    · extract_lets -merge -useContext -underBinder +onlyGivenNames v2
      have h3 : Keeps r v2 := by
        subst v2
        refine keeps_drainReady ?_
        · exact g2
      try clear_value v2
      split
      · exact h3
      · refine keeps_finish ?_
        · exact h3

theorem keeps_execHealthDrainStatus {a1 a2} (g2 : Keeps r a2) : KN (Keeps r) (Sys2Proof.Machine.execHealthDrainStatus a1 a2) := by
  unfold Sys2Proof.Machine.execHealthDrainStatus
  refine KN_next ?_
  refine keeps_runCmd ?_ ?_
  · intro _ _ _ h1
    beta_reduce
    extract_lets -merge -useContext -underBinder +onlyGivenNames v2
    try clear_value v2
    extract_lets -merge -useContext -underBinder +onlyGivenNames v3
    try clear_value v3
    extract_lets -merge -useContext -underBinder +onlyGivenNames v4
    try clear_value v4
    refine keeps_ite (P := KP (Keeps r)) ?_ ?_
    · refine KP_mk ?_
      exact h1
    · split
      · refine KP_mk ?_
        exact h1
      · refine keeps_ite (P := KP (Keeps r)) ?_ ?_
        · refine KP_mk ?_
          exact h1
        · refine KP_mk ?_
          exact h1
  · exact g2

theorem keeps_execHealthDrainCancel {a1 a2} (g2 : Keeps r a2) : KN (Keeps r) (Sys2Proof.Machine.execHealthDrainCancel a1 a2) := by
  unfold Sys2Proof.Machine.execHealthDrainCancel
  refine KN_next ?_
  refine keeps_runCmd ?_ ?_
  · intro _ _ _ h1
    beta_reduce
    refine keeps_ite (P := KP (Keeps r)) ?_ ?_
    · refine KP_mk ?_
      exact h1
    · refine keeps_ite (P := KP (Keeps r)) ?_ ?_
      · refine KP_mk ?_
        refine keeps_failDrain ?_
        · exact h1
      · refine KP_mk ?_
        exact h1
  · exact g2

theorem keeps_powerLost {a1} (g1 : Keeps r a1) : Keeps r (Sys2Proof.Machine.powerLost a1) :=
  ⟨g1.pending, g1.now, g1.variant, g1.coreMap, g1.uid, g1.svn, g1.free, g1.out, fun _ => rfl, g1.bank0, g1.bank1⟩

theorem keeps_endStart {a1} (g1 : Keeps r a1) : Keeps r (Sys2Proof.Machine.endStart a1) := by
  unfold Sys2Proof.Machine.endStart
  refine keeps_ite (P := Keeps r) ?_ ?_
  · refine keeps_powerLost ?_
    · exact g1
  · exact g1

theorem keeps_railsDown {a1} (g1 : Keeps r a1) : Keeps r (Sys2Proof.Machine.railsDown a1) := by
  unfold Sys2Proof.Machine.railsDown
  extract_lets -merge -useContext -underBinder +onlyGivenNames v1
  have h2 : Keeps r v1 := by
    subst v1
    refine keeps_endStart ?_
    · exact g1
  try clear_value v1
  exact keeps_same h2 rfl

theorem keeps_railsUp {a1} (g1 : Keeps r a1) : Keeps r (Sys2Proof.Machine.railsUp a1) := by
  unfold Sys2Proof.Machine.railsUp
  refine keeps_ite (P := Keeps r) ?_ ?_
  · exact keeps_same g1 rfl
  · exact g1

theorem keeps_beginStart {a1 a2 a3} (g3 : Keeps r a3) : Keeps r (Sys2Proof.Machine.beginStart a1 a2 a3) := by
  unfold Sys2Proof.Machine.beginStart
  have h := KP_snd (keeps_fresh (KP_snd (keeps_fresh g3)))
  have hs : ∀ (t : State), Keeps r t → ∀ (u : State), u.pending = t.pending → u.now = t.now → u.fuse = t.fuse → u.free = t.free → u.out = t.out →
      (u.emb.mem = t.emb.mem ∨ u.emb.mem = []) → u.sec.bank0 = t.sec.bank0 → u.sec.bank1 = t.sec.bank1 → Keeps r u := by
    intro t k u e1 e2 e3 e4 e5 e6 e7 e8
    refine ⟨e1.trans k.pending, e2.trans k.now, e3 ▸ k.variant, e3 ▸ k.coreMap, e3 ▸ k.uid, e3 ▸ k.svn, e4 ▸ k.free, e5 ▸ k.out, ?_, e7 ▸ k.bank0, e8 ▸ k.bank1⟩
    rcases e6 with e6 | e6
    · rw [e6]; exact k.mem
    · intro _; rw [e6]; rfl
  dsimp only
  split
  · rename_i q
    refine KP_of q (keeps_bootSelect ?_)
    refine hs _ h _ rfl rfl rfl rfl rfl ?_ rfl rfl
    dsimp only
    split
    · exact Or.inl rfl
    · exact Or.inr rfl
  · rename_i q
    refine keeps_same (KP_of q (keeps_bootSelect (r := r) ?_)) rfl
    refine hs _ h _ rfl rfl rfl rfl rfl ?_ rfl rfl
    dsimp only
    split
    · exact Or.inl rfl
    · exact Or.inr rfl

theorem keeps_execPwrEnRise {a1 a2 a3} (g3 : Keeps r a3) : KN (Keeps r) (Sys2Proof.Machine.execPwrEnRise a1 a2 a3) := by
  unfold Sys2Proof.Machine.execPwrEnRise
  extract_lets -merge -useContext -underBinder +onlyGivenNames v1
  try clear_value v1
  refine KN_next ?_
  refine keeps_railsUp ?_
  · exact keeps_same g3 rfl

theorem keeps_execPwrEnFall {a1} (g1 : Keeps r a1) : KN (Keeps r) (Sys2Proof.Machine.execPwrEnFall a1) := by
  unfold Sys2Proof.Machine.execPwrEnFall
  extract_lets -merge -useContext -underBinder +onlyGivenNames v1
  have h2 : Keeps r v1 := by
    subst v1
    refine keeps_railsDown ?_
    · exact g1
  try clear_value v1
  refine KN_next ?_
  exact keeps_same h2 rfl

theorem keeps_loadTime {a1 a2} (g2 : Keeps r a2) : Keeps r (Sys2Proof.Machine.loadTime a1 a2) := by
  unfold Sys2Proof.Machine.loadTime
  extract_lets -merge -useContext -underBinder +onlyGivenNames v1
  try clear_value v1
  refine keeps_ite (P := Keeps r) ?_ ?_
  · exact keeps_same g2 rfl
  · extract_lets -merge -useContext -underBinder +onlyGivenNames v2
    try clear_value v2
    refine keeps_raiseNode ?_
    · exact keeps_same g2 rfl

theorem keeps_railsReady {a1 a2 a3} (g3 : Keeps r a3) : Keeps r (Sys2Proof.Machine.railsReady a1 a2 a3) := by
  unfold Sys2Proof.Machine.railsReady
  extract_lets -merge -useContext -underBinder +onlyGivenNames _ v1
  have h2 : Keeps r v1 := by
    subst v1
    refine keeps_loadTime ?_
    · exact keeps_same g3 rfl
  try clear_value v1
  extract_lets -merge -useContext -underBinder +onlyGivenNames v3
  try clear_value v3
  extract_lets -merge -useContext -underBinder +onlyGivenNames _ v4
  have h5 : Keeps r v4 := by
    subst v4
    exact keeps_same h2 rfl
  try clear_value v4
  refine keeps_thermalPoint ?_
  · exact h5

theorem keeps_execRailsStable {a1 a2 a3} (g3 : Keeps r a3) : KN (Keeps r) (Sys2Proof.Machine.execRailsStable a1 a2 a3) := by
  unfold Sys2Proof.Machine.execRailsStable
  refine KN_next ?_
  refine keeps_ite (P := Keeps r) ?_ ?_
  · exact g3
  · extract_lets -merge -useContext -underBinder +onlyGivenNames v1
    have h2 : Keeps r v1 := by
      subst v1
      refine keeps_railsReady ?_
      · exact g3
    try clear_value v1
    split
    · refine keeps_beginStart ?_
      · exact h2
    · exact h2

theorem keeps_execPerstDeassert {a1 a2 a3 a4} (g4 : Keeps r a4) : KN (Keeps r) (Sys2Proof.Machine.execPerstDeassert a1 a2 a3 a4) := by
  unfold Sys2Proof.Machine.execPerstDeassert
  refine KN_next ?_
  refine keeps_ite (P := Keeps r) ?_ ?_
  · exact g4
  · extract_lets -merge -useContext -underBinder +onlyGivenNames _ v1
    have h2 : Keeps r v1 := by
      subst v1
      exact keeps_same g4 rfl
    try clear_value v1
    refine keeps_ite (P := Keeps r) ?_ ?_
    · refine keeps_beginStart ?_
      · exact h2
    · exact keeps_same h2 rfl

theorem keeps_execPerstAssert {a1} (g1 : Keeps r a1) : KN (Keeps r) (Sys2Proof.Machine.execPerstAssert a1) := by
  unfold Sys2Proof.Machine.execPerstAssert
  extract_lets -merge -useContext -underBinder +onlyGivenNames v1
  have h2 : Keeps r v1 := by
    subst v1
    refine keeps_endStart ?_
    · exact g1
  try clear_value v1
  refine KN_next ?_
  exact keeps_same h2 rfl

theorem keeps_execInputUndervoltage {a1 a2} (g2 : Keeps r a2) : KN (Keeps r) (Sys2Proof.Machine.execInputUndervoltage a1 a2) := by
  unfold Sys2Proof.Machine.execInputUndervoltage
  refine KN_next ?_
  refine keeps_ite (P := Keeps r) ?_ ?_
  · exact g2
  · extract_lets -merge -useContext -underBinder +onlyGivenNames v1
    have h2 : Keeps r v1 := by
      subst v1
      refine keeps_railsDown ?_
      · exact g2
    try clear_value v1
    exact keeps_same h2 rfl

theorem keeps_execInputOvervoltage {a1 a2} (g2 : Keeps r a2) : KN (Keeps r) (Sys2Proof.Machine.execInputOvervoltage a1 a2) := by
  unfold Sys2Proof.Machine.execInputOvervoltage
  refine KN_next ?_
  refine keeps_ite (P := Keeps r) ?_ ?_
  · exact g2
  · extract_lets -merge -useContext -underBinder +onlyGivenNames v1
    have h2 : Keeps r v1 := by
      subst v1
      refine keeps_railsDown ?_
      · exact g2
    try clear_value v1
    exact keeps_same h2 rfl

theorem keeps_execPowerLoss {a1} (g1 : Keeps r a1) : KN (Keeps r) (Sys2Proof.Machine.execPowerLoss a1) := by
  unfold Sys2Proof.Machine.execPowerLoss
  extract_lets -merge -useContext -underBinder +onlyGivenNames v1
  have h2 : Keeps r v1 := by
    subst v1
    refine keeps_railsDown ?_
    · exact g1
  try clear_value v1
  refine KN_next ?_
  exact keeps_same h2 rfl

theorem keeps_execUndervoltageLockoutRelease {a1 a2} (g2 : Keeps r a2) : KN (Keeps r) (Sys2Proof.Machine.execUndervoltageLockoutRelease a1 a2) := by
  unfold Sys2Proof.Machine.execUndervoltageLockoutRelease
  refine KN_next ?_
  refine keeps_ite (P := Keeps r) ?_ ?_
  · exact g2
  · refine keeps_railsUp ?_
    · exact keeps_same g2 rfl

theorem keeps_execFwAuthenticated {a1} (g1 : Keeps r a1) : KN (Keeps r) (Sys2Proof.Machine.execFwAuthenticated a1) := by
  unfold Sys2Proof.Machine.execFwAuthenticated
  refine KN_next ?_
  refine keeps_ite (P := Keeps r) ?_ ?_
  · exact g1
  · extract_lets -merge -useContext -underBinder +onlyGivenNames _ v1
    have h2 : Keeps r v1 := by
      subst v1
      exact keeps_same g1 rfl
    try clear_value v1
    split
    · exact h2
    · refine keeps_raiseNode ?_
      · exact h2

theorem keeps_execCcsReady {a1} (g1 : Keeps r a1) : KN (Keeps r) (Sys2Proof.Machine.execCcsReady a1) := by
  unfold Sys2Proof.Machine.execCcsReady
  refine KN_next ?_
  refine keeps_ite (P := Keeps r) ?_ ?_
  · exact g1
  · exact keeps_same g1 rfl

theorem keeps_hardRepair {a1 a2} (g2 : Keeps r a2) : Keeps r (Sys2Proof.Machine.hardRepair a1 a2) := by
  unfold Sys2Proof.Machine.hardRepair
  extract_lets -merge -useContext -underBinder +onlyGivenNames v1
  try clear_value v1
  extract_lets -merge -useContext -underBinder +onlyGivenNames v2
  try clear_value v2
  extract_lets -merge -useContext -underBinder +onlyGivenNames v3
  try clear_value v3
  refine keeps_ite (P := Keeps r) ?_ ?_
  · exact g2
  · refine keeps_tallyAdd ?_
    · exact keeps_same g2 rfl

theorem keeps_channelTrained {a1 a2 a3 a4} (g4 : Keeps r a4) : Keeps r (Sys2Proof.Machine.channelTrained a1 a2 a3 a4) := by
  unfold Sys2Proof.Machine.channelTrained
  refine keeps_ite (P := Keeps r) ?_ ?_
  · exact g4
  · split
    · rename_i q1
      have h2 : Keeps r _ := KP_of q1 (by
        refine keeps_sparkCheck ?_
        · exact g4
        )
      refine keeps_ite (P := Keeps r) ?_ ?_
      · refine keeps_fenceChannel ?_
        · exact h2
      · extract_lets -merge -useContext -underBinder +onlyGivenNames v3
        try clear_value v3
        extract_lets -merge -useContext -underBinder +onlyGivenNames v4
        have h5 : Keeps r v4 := by
          subst v4
          refine keeps_hardRepair ?_
          · refine keeps_tallyAdd ?_
            · exact h2
        try clear_value v4
        refine keeps_modChan ?_
        · exact h5

theorem keeps_channelRetrained {a1 a2 a3 a4} (g4 : Keeps r a4) : Keeps r (Sys2Proof.Machine.channelRetrained a1 a2 a3 a4) := by
  unfold Sys2Proof.Machine.channelRetrained
  extract_lets -merge -useContext -underBinder +onlyGivenNames v1
  try clear_value v1
  refine keeps_ite (P := Keeps r) ?_ ?_
  · exact g4
  · split
    · rename_i q2
      have h3 : Keeps r _ := KP_of q2 (by
        refine keeps_sparkCheck ?_
        · exact g4
        )
      refine keeps_ite (P := Keeps r) ?_ ?_
      · refine keeps_fenceChannel ?_
        · exact h3
      · extract_lets -merge -useContext -underBinder +onlyGivenNames v4
        try clear_value v4
        extract_lets -merge -useContext -underBinder +onlyGivenNames v5
        try clear_value v5
        extract_lets -merge -useContext -underBinder +onlyGivenNames v6
        have h7 : Keeps r v6 := by
          subst v6
          refine keeps_modChan ?_
          · refine keeps_tallyAdd ?_
            · exact h3
        try clear_value v6
        refine keeps_ite (P := Keeps r) ?_ ?_
        · refine keeps_fenceChannel ?_
          · exact h7
        · exact h7

theorem keeps_execEmberTrainingDone {a1 a2 a3} (g3 : Keeps r a3) : KN (Keeps r) (Sys2Proof.Machine.execEmberTrainingDone a1 a2 a3) := by
  unfold Sys2Proof.Machine.execEmberTrainingDone
  refine KN_next ?_
  refine keeps_ite (P := Keeps r) ?_ ?_
  · refine keeps_settleWork ?_
    · refine keeps_foldl (P := Keeps r) (fun _ _ h1 => ?_) ?_
      · refine keeps_channelRetrained ?_
        · exact h1
      · exact g3
  · extract_lets -merge -useContext -underBinder +onlyGivenNames v2
    have h3 : Keeps r v2 := by
      subst v2
      refine keeps_foldl (P := Keeps r) (fun _ _ h4 => ?_) ?_
      · refine keeps_channelTrained ?_
        · exact h4
      · exact g3
    try clear_value v2
    exact keeps_same h3 rfl

theorem keeps_selfTests {a1 a2 a3} (g3 : Keeps r a3) : KP (Keeps r) (Sys2Proof.Machine.selfTests a1 a2 a3) := by
  induction a2 generalizing a3 with
  | nil => exact g3
  | cons n t ih =>
    unfold Sys2Proof.Machine.selfTests
    exact ih (KP_snd (keeps_sparkCheck (a1 := 0x0206) (a2 := n) g3))

theorem keeps_fieldTested {a1 a2 a3} (g3 : Keeps r a3) : Keeps r (Sys2Proof.Machine.fieldTested a1 a2 a3) := by
  unfold Sys2Proof.Machine.fieldTested
  extract_lets -merge -useContext -underBinder +onlyGivenNames v1
  try clear_value v1
  extract_lets -merge -useContext -underBinder +onlyGivenNames v2
  have h3 : Keeps r v2 := by
    subst v2
    refine keeps_foldl (P := Keeps r) (fun _ _ h4 => ?_) ?_
    · refine keeps_modCore ?_
      · exact h4
    · exact g3
  try clear_value v2
  extract_lets -merge -useContext -underBinder +onlyGivenNames v5
  have h6 : Keeps r v5 := by
    subst v5
    refine keeps_foldl (P := Keeps r) (fun _ _ h7 => ?_) ?_
    · refine keeps_modCore ?_
      · exact h7
    · exact h3
  try clear_value v5
  extract_lets -merge -useContext -underBinder +onlyGivenNames v8
  have h9 : Keeps r v8 := by
    subst v8
    refine keeps_foldl (P := Keeps r) (fun _ _ h10 => ?_) ?_
    · refine keeps_fenceCore ?_
      · refine keeps_countFault ?_
        · exact h10
    · exact h6
  try clear_value v8
  refine keeps_checkGuarantee ?_
  · exact keeps_same h9 rfl

theorem keeps_execFieldSelfTestDone {a1 a2} (g2 : Keeps r a2) : KN (Keeps r) (Sys2Proof.Machine.execFieldSelfTestDone a1 a2) := by
  unfold Sys2Proof.Machine.execFieldSelfTestDone
  refine KN_next ?_
  refine keeps_ite (P := Keeps r) ?_ ?_
  · exact g2
  · extract_lets -merge -useContext -underBinder +onlyGivenNames v1
    try clear_value v1
    split
    · rename_i q2
      have h3 : Keeps r _ := KP_of q2 (by
        refine keeps_selfTests ?_
        · exact g2
        )
      refine keeps_fieldTested ?_
      · exact h3

theorem keeps_execFullService {a1} (g1 : Keeps r a1) : KN (Keeps r) (Sys2Proof.Machine.execFullService a1) := by
  unfold Sys2Proof.Machine.execFullService
  refine KN_next ?_
  refine keeps_ite (P := Keeps r) ?_ ?_
  · exact keeps_same g1 rfl
  · exact g1

theorem keeps_sendPending {a1} (g1 : Keeps r a1) : Keeps r (Sys2Proof.Machine.sendPending a1) := by
  unfold Sys2Proof.Machine.sendPending
  refine keeps_foldl (P := Keeps r) (fun _ _ h1 => ?_) ?_
  · refine keeps_emit ?_
    · exact keeps_same h1 rfl
  · exact g1

theorem keeps_execPcieConfigRequest {a1 a2 a3} (g3 : Keeps r a3) : KN (Keeps r) (Sys2Proof.Machine.execPcieConfigRequest a1 a2 a3) := by
  unfold Sys2Proof.Machine.execPcieConfigRequest
  refine KN_next ?_
  refine keeps_ite (P := Keeps r) ?_ ?_
  · exact g3
  · refine keeps_hostTlp ?_
    · refine keeps_ite (P := Keeps r) ?_ ?_
      · refine keeps_emit ?_
        · exact g3
      · split
        · refine keeps_sendPending ?_
          · refine keeps_emit ?_
            · exact keeps_same g3 rfl
        · split
          · rename_i q1
            have h2 : Keeps r _ := KP_of q1 (by
              refine keeps_fresh ?_
              · exact g3
              )
            refine keeps_emit ?_
            · exact h2

theorem keeps_execActTimerExpiry {a1 a2} (g2 : Keeps r a2) : KN (Keeps r) (Sys2Proof.Machine.execActTimerExpiry a1 a2) := by
  unfold Sys2Proof.Machine.execActTimerExpiry
  refine KN_next ?_
  split
  · exact g2
  · refine keeps_ite (P := Keeps r) ?_ ?_
    · exact g2
    · exact keeps_same g2 rfl

theorem keeps_execOlnenStatus {a1 a2} (g2 : Keeps r a2) : KN (Keeps r) (Sys2Proof.Machine.execOlnenStatus a1 a2) := by
  unfold Sys2Proof.Machine.execOlnenStatus
  refine KN_next ?_
  refine keeps_runCmd ?_ ?_
  · intro _ _ _ h1
    beta_reduce
    refine keeps_ite (P := KP (Keeps r)) ?_ ?_
    · refine KP_mk ?_
      exact h1
    · split
      · refine KP_mk ?_
        exact h1
      · refine keeps_ite (P := KP (Keeps r)) ?_ ?_
        · refine KP_mk ?_
          exact h1
        · refine KP_mk ?_
          exact h1
  · exact g2

theorem keeps_takeMode {a1 a2 a3 a4} (g4 : Keeps r a4) : Keeps r (Sys2Proof.Machine.takeMode a1 a2 a3 a4) := by
  unfold Sys2Proof.Machine.takeMode
  extract_lets -merge -useContext -underBinder +onlyGivenNames v1
  have h2 : Keeps r v1 := by
    subst v1
    refine keeps_ite (P := Keeps r) ?_ ?_
    · refine keeps_portDownEvent ?_
      · exact g4
    · exact g4
  try clear_value v1
  refine keeps_modPort ?_
  · exact h2

theorem keeps_execOlnenPortMode {a1 a2} (g2 : Keeps r a2) : KN (Keeps r) (Sys2Proof.Machine.execOlnenPortMode a1 a2) := by
  unfold Sys2Proof.Machine.execOlnenPortMode
  refine KN_next ?_
  refine keeps_runCmd ?_ ?_
  · intro _ _ _ h1
    beta_reduce
    extract_lets -merge -useContext -underBinder +onlyGivenNames v2
    try clear_value v2
    extract_lets -merge -useContext -underBinder +onlyGivenNames v3
    try clear_value v3
    split
    · refine KP_mk ?_
      exact h1
    · split
      · refine KP_mk ?_
        exact h1
      · refine keeps_ite (P := KP (Keeps r)) ?_ ?_
        · refine KP_mk ?_
          exact h1
        · refine keeps_ite (P := KP (Keeps r)) ?_ ?_
          · refine KP_mk ?_
            exact h1
          · split
            · rename_i q4
              have h5 : Keeps r _ := KP_of q4 (by
                refine keeps_judge ?_
                · exact h1
                )
              refine keeps_ite (P := KP (Keeps r)) ?_ ?_
              · refine KP_mk ?_
                exact h5
              · refine KP_mk ?_
                refine keeps_takeMode ?_
                · exact h5
  · exact g2

theorem keeps_execOlnenRetrain {a1 a2} (g2 : Keeps r a2) : KN (Keeps r) (Sys2Proof.Machine.execOlnenRetrain a1 a2) := by
  unfold Sys2Proof.Machine.execOlnenRetrain
  refine KN_next ?_
  refine keeps_runCmd ?_ ?_
  · intro _ _ _ h1
    beta_reduce
    extract_lets -merge -useContext -underBinder +onlyGivenNames v2
    try clear_value v2
    split
    · refine KP_mk ?_
      exact h1
    · split
      · refine KP_mk ?_
        exact h1
      · refine KP_mk ?_
        refine keeps_askChange ?_
        · exact h1
  · exact g2

theorem keeps_freeIdle {a1 a2 a3} (g3 : Keeps r a3) : Keeps r (Sys2Proof.Machine.freeIdle a1 a2 a3) := by
  unfold Sys2Proof.Machine.freeIdle
  refine keeps_foldl (P := Keeps r) (fun _ _ h1 => ?_) ?_
  · refine keeps_modPort ?_
    · exact h1
  · exact g3

theorem keeps_execOlnenWidth {a1 a2} (g2 : Keeps r a2) : KN (Keeps r) (Sys2Proof.Machine.execOlnenWidth a1 a2) := by
  unfold Sys2Proof.Machine.execOlnenWidth
  refine KN_next ?_
  refine keeps_runCmd ?_ ?_
  · intro _ _ _ h1
    beta_reduce
    extract_lets -merge -useContext -underBinder +onlyGivenNames v2
    try clear_value v2
    extract_lets -merge -useContext -underBinder +onlyGivenNames v3
    try clear_value v3
    split
    · refine KP_mk ?_
      exact h1
    · refine keeps_ite (P := KP (Keeps r)) ?_ ?_
      · refine KP_mk ?_
        exact h1
      · split
        · refine KP_mk ?_
          exact h1
        · extract_lets -merge -useContext -underBinder +onlyGivenNames v4
          try clear_value v4
          refine keeps_ite (P := KP (Keeps r)) ?_ ?_
          · refine KP_mk ?_
            exact h1
          · split
            · rename_i q5
              have h6 : Keeps r _ := KP_of q5 (by
                refine keeps_judge ?_
                · exact h1
                )
              refine keeps_ite (P := KP (Keeps r)) ?_ ?_
              · refine KP_mk ?_
                exact h6
              · refine keeps_ite (P := KP (Keeps r)) ?_ ?_
                · refine KP_mk ?_
                  exact h6
                · refine KP_mk ?_
                  refine keeps_askChange ?_
                  · refine keeps_freeIdle ?_
                    · exact h6
  · exact g2

theorem keeps_serviceOrder {a1 a2 a3 a4 a5 a6} (g4 : ∀ b1 b2 b3 b4, Keeps r b4 → KP (Keeps r) (a4 b1 b2 b3 b4)) (g6 : Keeps r a6) : Keeps r (Sys2Proof.Machine.serviceOrder a1 a2 a3 a4 a5 a6) := by
  unfold Sys2Proof.Machine.serviceOrder
  refine keeps_runCmd ?_ ?_
  · intro _ _ _ h1
    beta_reduce
    extract_lets -merge -useContext -underBinder +onlyGivenNames v2
    try clear_value v2
    extract_lets -merge -useContext -underBinder +onlyGivenNames v3
    try clear_value v3
    extract_lets -merge -useContext -underBinder +onlyGivenNames v4
    try clear_value v4
    refine keeps_ite (P := KP (Keeps r)) ?_ ?_
    · refine KP_mk ?_
      exact h1
    · refine keeps_ite (P := KP (Keeps r)) ?_ ?_
      · refine KP_mk ?_
        exact h1
      · refine keeps_ite (P := KP (Keeps r)) ?_ ?_
        · refine KP_mk ?_
          exact h1
        · split
          · refine KP_mk ?_
            exact h1
          · split
            · rename_i q5
              have h6 : Keeps r _ := KP_of q5 (by
                refine keeps_judge ?_
                · exact h1
                )
              refine keeps_ite (P := KP (Keeps r)) ?_ ?_
              · refine KP_mk ?_
                exact h6
              · refine g4 _ _ _ _ ?_
                · exact h6
  · exact g6

theorem keeps_fencePort {a1 a2} (g2 : Keeps r a2) : Keeps r (Sys2Proof.Machine.fencePort a1 a2) := by
  unfold Sys2Proof.Machine.fencePort
  extract_lets -merge -useContext -underBinder +onlyGivenNames v1
  try clear_value v1
  extract_lets -merge -useContext -underBinder +onlyGivenNames v2
  have h3 : Keeps r v2 := by
    subst v2
    refine keeps_portDownEvent ?_
    · exact g2
  try clear_value v2
  refine keeps_endEnables ?_
  · refine keeps_recordFence ?_
    · refine keeps_modPort ?_
      · exact h3

theorem keeps_fenceLane {a1 a2 a3} (g3 : Keeps r a3) : Keeps r (Sys2Proof.Machine.fenceLane a1 a2 a3) := by
  unfold Sys2Proof.Machine.fenceLane
  extract_lets -merge -useContext -underBinder +onlyGivenNames v1
  try clear_value v1
  extract_lets -merge -useContext -underBinder +onlyGivenNames v2
  try clear_value v2
  extract_lets -merge -useContext -underBinder +onlyGivenNames _ v3
  have h4 : Keeps r v3 := by
    subst v3
    refine keeps_setPort ?_
    · exact g3
  try clear_value v3
  extract_lets -merge -useContext -underBinder +onlyGivenNames v5
  have h6 : Keeps r v5 := by
    subst v5
    refine keeps_endEnables ?_
    · refine keeps_recordFence ?_
      · exact h4
  try clear_value v5
  refine keeps_ite (P := Keeps r) ?_ ?_
  · extract_lets -merge -useContext -underBinder +onlyGivenNames v7
    have h8 : Keeps r v7 := by
      subst v7
      refine keeps_ite (P := Keeps r) ?_ ?_
      · exact h6
      · refine keeps_sendLink ?_
        · exact h6
    try clear_value v7
    refine keeps_narrow ?_
    · exact h8
  · exact h6

theorem keeps_execOlnenFence {a1 a2} (g2 : Keeps r a2) : KN (Keeps r) (Sys2Proof.Machine.execOlnenFence a1 a2) := by
  unfold Sys2Proof.Machine.execOlnenFence
  refine KN_next ?_
  refine keeps_serviceOrder ?_ ?_
  · intro _ _ _ _ h1
    beta_reduce
    refine KP_mk ?_
    refine keeps_ite (P := Keeps r) ?_ ?_
    · refine keeps_fencePort ?_
      · exact h1
    · refine keeps_fenceLane ?_
      · exact h1
  · exact g2

theorem keeps_execOlnenRestrict {a1 a2} (g2 : Keeps r a2) : KN (Keeps r) (Sys2Proof.Machine.execOlnenRestrict a1 a2) := by
  unfold Sys2Proof.Machine.execOlnenRestrict
  refine KN_next ?_
  refine keeps_serviceOrder ?_ ?_
  · intro _ _ _ _ h1
    beta_reduce
    extract_lets -merge -useContext -underBinder +onlyGivenNames v2
    try clear_value v2
    extract_lets -merge -useContext -underBinder +onlyGivenNames v3
    try clear_value v3
    refine keeps_ite (P := KP (Keeps r)) ?_ ?_
    · extract_lets -merge -useContext -underBinder +onlyGivenNames v4
      have h5 : Keeps r v4 := by
        subst v4
        refine keeps_setPort ?_
        · exact h1
      try clear_value v4
      refine KP_mk ?_
      refine keeps_endEnables ?_
      · exact h5
    · refine keeps_ite (P := KP (Keeps r)) ?_ ?_
      · refine KP_mk ?_
        refine keeps_askChange ?_
        · refine keeps_setPort ?_
          · exact h1
      · refine KP_mk ?_
        refine keeps_setPort ?_
        · exact h1
  · exact g2

theorem keeps_execOlnenEnable {a1 a2} (g2 : Keeps r a2) : KN (Keeps r) (Sys2Proof.Machine.execOlnenEnable a1 a2) := by
  unfold Sys2Proof.Machine.execOlnenEnable
  refine KN_next ?_
  refine keeps_serviceOrder ?_ ?_
  · intro _ _ _ _ h1
    beta_reduce
    extract_lets -merge -useContext -underBinder +onlyGivenNames v2
    try clear_value v2
    extract_lets -merge -useContext -underBinder +onlyGivenNames v3
    try clear_value v3
    refine keeps_ite (P := KP (Keeps r)) ?_ ?_
    · split
      · refine KP_mk ?_
        exact h1
      · refine KP_mk ?_
        refine keeps_setPort ?_
        · exact h1
      · refine KP_mk ?_
        refine keeps_setPort ?_
        · exact h1
      · refine KP_mk ?_
        refine keeps_setPort ?_
        · exact h1
    · split
      · refine KP_mk ?_
        refine keeps_startQuarantine ?_
        · refine keeps_setPort ?_
          · exact h1
      · refine KP_mk ?_
        refine keeps_startQuarantine ?_
        · refine keeps_setPort ?_
          · exact h1
      · refine KP_mk ?_
        refine keeps_setPort ?_
        · exact h1
      · refine KP_mk ?_
        refine keeps_askChange ?_
        · refine keeps_setPort ?_
          · exact h1
      · refine KP_mk ?_
        refine keeps_setPort ?_
        · exact h1
      · refine KP_mk ?_
        refine keeps_setPort ?_
        · exact h1
  · exact g2

theorem keeps_execOlnenAddrSet {a1 a2} (g2 : Keeps r a2) : KN (Keeps r) (Sys2Proof.Machine.execOlnenAddrSet a1 a2) := by
  unfold Sys2Proof.Machine.execOlnenAddrSet
  refine KN_next ?_
  refine keeps_runCmd ?_ ?_
  · intro _ _ _ h1
    beta_reduce
    refine keeps_ite (P := KP (Keeps r)) ?_ ?_
    · refine KP_mk ?_
      exact h1
    · split
      · rename_i q2
        have h3 : Keeps r _ := KP_of q2 (by
          refine keeps_judge ?_
          · exact h1
          )
        refine keeps_ite (P := KP (Keeps r)) ?_ ?_
        · refine KP_mk ?_
          exact h3
        · extract_lets -merge -useContext -underBinder +onlyGivenNames v4
          try clear_value v4
          refine keeps_ite (P := KP (Keeps r)) ?_ ?_
          · refine KP_mk ?_
            refine keeps_applyAddr ?_
            · exact h3
          · refine KP_mk ?_
            exact keeps_same h3 rfl
  · exact g2

theorem keeps_execOlnenDiscover {a1 a2} (g2 : Keeps r a2) : KN (Keeps r) (Sys2Proof.Machine.execOlnenDiscover a1 a2) := by
  unfold Sys2Proof.Machine.execOlnenDiscover
  refine KN_next ?_
  refine keeps_runCmd ?_ ?_
  · intro _ _ _ h1
    beta_reduce
    extract_lets -merge -useContext -underBinder +onlyGivenNames v2
    try clear_value v2
    split
    · refine KP_mk ?_
      exact h1
    · split
      · refine KP_mk ?_
        exact h1
      · extract_lets -merge -useContext -underBinder +onlyGivenNames v3
        try clear_value v3
        refine keeps_ite (P := KP (Keeps r)) ?_ ?_
        · refine KP_mk ?_
          exact h1
        · refine keeps_ite (P := KP (Keeps r)) ?_ ?_
          · refine KP_mk ?_
            exact h1
          · extract_lets -merge -useContext -underBinder +onlyGivenNames _ v4
            try clear_value v4
            refine KP_mk ?_
            refine keeps_sendLink ?_
            · exact keeps_same h1 rfl
  · exact g2

theorem keeps_execOlnenRouteSet {a1 a2} (g2 : Keeps r a2) : KN (Keeps r) (Sys2Proof.Machine.execOlnenRouteSet a1 a2) := by
  unfold Sys2Proof.Machine.execOlnenRouteSet
  refine KN_next ?_
  refine keeps_runCmd ?_ ?_
  · intro _ _ _ h1
    beta_reduce
    extract_lets -merge -useContext -underBinder +onlyGivenNames v2
    try clear_value v2
    extract_lets -merge -useContext -underBinder +onlyGivenNames v3
    try clear_value v3
    extract_lets -merge -useContext -underBinder +onlyGivenNames v4
    try clear_value v4
    refine keeps_ite (P := KP (Keeps r)) ?_ ?_
    · refine KP_mk ?_
      exact h1
    · split
      · refine KP_mk ?_
        exact h1
      · extract_lets -merge -useContext -underBinder +onlyGivenNames v5
        try clear_value v5
        refine keeps_ite (P := KP (Keeps r)) ?_ ?_
        · refine KP_mk ?_
          exact h1
        · refine keeps_ite (P := KP (Keeps r)) ?_ ?_
          · refine KP_mk ?_
            exact h1
          · split
            · rename_i q6
              have h7 : Keeps r _ := KP_of q6 (by
                refine keeps_judge ?_
                · exact h1
                )
              refine keeps_ite (P := KP (Keeps r)) ?_ ?_
              · refine KP_mk ?_
                exact h7
              · extract_lets -merge -useContext -underBinder +onlyGivenNames _ v8
                have h9 : Keeps r v8 := by
                  subst v8
                  exact keeps_same h7 rfl
                try clear_value v8
                refine keeps_ite (P := KP (Keeps r)) ?_ ?_
                · refine KP_mk ?_
                  refine keeps_swapRoutes ?_
                  · exact h9
                · refine KP_mk ?_
                  exact keeps_same h9 rfl
  · exact g2

theorem keeps_execOlnenRouteGet {a1 a2} (g2 : Keeps r a2) : KN (Keeps r) (Sys2Proof.Machine.execOlnenRouteGet a1 a2) := by
  unfold Sys2Proof.Machine.execOlnenRouteGet
  refine KN_next ?_
  refine keeps_runCmd ?_ ?_
  · intro _ _ _ h1
    beta_reduce
    extract_lets -merge -useContext -underBinder +onlyGivenNames v2
    try clear_value v2
    extract_lets -merge -useContext -underBinder +onlyGivenNames v3
    try clear_value v3
    refine keeps_ite (P := KP (Keeps r)) ?_ ?_
    · refine KP_mk ?_
      exact h1
    · split
      · refine KP_mk ?_
        exact h1
      · extract_lets -merge -useContext -underBinder +onlyGivenNames v4
        try clear_value v4
        refine keeps_ite (P := KP (Keeps r)) ?_ ?_
        · refine KP_mk ?_
          exact h1
        · refine KP_mk ?_
          exact h1
  · exact g2

theorem keeps_execOlnenMcastGroup {a1 a2} (g2 : Keeps r a2) : KN (Keeps r) (Sys2Proof.Machine.execOlnenMcastGroup a1 a2) := by
  unfold Sys2Proof.Machine.execOlnenMcastGroup
  refine KN_next ?_
  refine keeps_runCmd ?_ ?_
  · intro _ _ _ h1
    beta_reduce
    extract_lets -merge -useContext -underBinder +onlyGivenNames v2
    try clear_value v2
    extract_lets -merge -useContext -underBinder +onlyGivenNames v3
    try clear_value v3
    refine keeps_ite (P := KP (Keeps r)) ?_ ?_
    · refine KP_mk ?_
      exact h1
    · split
      · refine KP_mk ?_
        exact h1
      · refine keeps_ite (P := KP (Keeps r)) ?_ ?_
        · refine KP_mk ?_
          exact h1
        · refine keeps_ite (P := KP (Keeps r)) ?_ ?_
          · refine KP_mk ?_
            exact h1
          · split
            · refine KP_mk ?_
              exact h1
            · split
              · rename_i q4
                have h5 : Keeps r _ := KP_of q4 (by
                  refine keeps_judge ?_
                  · exact h1
                  )
                refine keeps_ite (P := KP (Keeps r)) ?_ ?_
                · refine KP_mk ?_
                  exact h5
                · refine KP_mk ?_
                  exact keeps_same h5 rfl
  · exact g2

theorem keeps_mcastStart {a1 a2 a3 a4 a5} (g5 : Keeps r a5) : Keeps r (Sys2Proof.Machine.mcastStart a1 a2 a3 a4 a5) := by
  unfold Sys2Proof.Machine.mcastStart
  extract_lets -merge -useContext -underBinder +onlyGivenNames v1
  try clear_value v1
  extract_lets -merge -useContext -underBinder +onlyGivenNames v2
  try clear_value v2
  extract_lets -merge -useContext -underBinder +onlyGivenNames _ v3
  have h4 : Keeps r v3 := by
    subst v3
    exact keeps_same g5 rfl
  try clear_value v3
  refine keeps_foldl (P := Keeps r) (fun _ _ h5 => ?_) ?_
  · refine keeps_mcastSend ?_
    · exact h5
  · exact h4

theorem keeps_execOlnenMcast {a1 a2} (g2 : Keeps r a2) : KN (Keeps r) (Sys2Proof.Machine.execOlnenMcast a1 a2) := by
  unfold Sys2Proof.Machine.execOlnenMcast
  refine KN_next ?_
  refine keeps_settleWork ?_
  · refine keeps_runCmd ?_ ?_
    · intro _ _ _ h1
      beta_reduce
      extract_lets -merge -useContext -underBinder +onlyGivenNames v2
      try clear_value v2
      refine keeps_ite (P := KP (Keeps r)) ?_ ?_
      · refine KP_mk ?_
        exact h1
      · split
        · refine KP_mk ?_
          exact h1
        · split
          · refine KP_mk ?_
            exact h1
          · extract_lets -merge -useContext -underBinder +onlyGivenNames v3
            try clear_value v3
            refine keeps_ite (P := KP (Keeps r)) ?_ ?_
            · refine KP_mk ?_
              exact h1
            · refine keeps_ite (P := KP (Keeps r)) ?_ ?_
              · refine KP_mk ?_
                exact h1
              · refine keeps_ite (P := KP (Keeps r)) ?_ ?_
                · refine KP_mk ?_
                  exact h1
                · refine keeps_ite (P := KP (Keeps r)) ?_ ?_
                  · refine KP_mk ?_
                    exact h1
                  · split
                    · refine KP_mk ?_
                      exact h1
                    · refine keeps_ite (P := KP (Keeps r)) ?_ ?_
                      · extract_lets -merge -useContext -underBinder +onlyGivenNames v4
                        have h5 : Keeps r v4 := by
                          subst v4
                          refine keeps_tagsExhausted ?_
                          · exact h1
                        try clear_value v4
                        split
                        · rename_i q6
                          have h7 : Keeps r _ := KP_of q6 (by
                            refine keeps_fresh ?_
                            · exact h5
                            )
                          refine KP_mk ?_
                          exact h7
                      · refine KP_mk ?_
                        refine keeps_mcastStart ?_
                        · exact h1
    · exact g2

theorem keeps_execOlnenTime {a1 a2} (g2 : Keeps r a2) : KN (Keeps r) (Sys2Proof.Machine.execOlnenTime a1 a2) := by
  unfold Sys2Proof.Machine.execOlnenTime
  refine KN_next ?_
  refine keeps_runCmd ?_ ?_
  · intro _ _ _ h1
    beta_reduce
    refine keeps_ite (P := KP (Keeps r)) ?_ ?_
    · refine KP_mk ?_
      exact h1
    · split
      · refine KP_mk ?_
        exact h1
      · refine keeps_ite (P := KP (Keeps r)) ?_ ?_
        · refine KP_mk ?_
          exact h1
        · refine KP_mk ?_
          exact h1
  · exact g2

theorem keeps_execOlnenConfig {a1 a2} (g2 : Keeps r a2) : KN (Keeps r) (Sys2Proof.Machine.execOlnenConfig a1 a2) := by
  unfold Sys2Proof.Machine.execOlnenConfig
  refine KN_next ?_
  refine keeps_runCmd ?_ ?_
  · intro _ _ _ h1
    beta_reduce
    extract_lets -merge -useContext -underBinder +onlyGivenNames v2
    try clear_value v2
    extract_lets -merge -useContext -underBinder +onlyGivenNames v3
    try clear_value v3
    refine keeps_ite (P := KP (Keeps r)) ?_ ?_
    · refine KP_mk ?_
      exact h1
    · split
      · rename_i q4
        have h5 : Keeps r _ := KP_of q4 (by
          refine keeps_judge ?_
          · exact h1
          )
        refine keeps_ite (P := KP (Keeps r)) ?_ ?_
        · refine KP_mk ?_
          exact h5
        · refine keeps_stage ?_
          · exact h5
  · exact g2

theorem keeps_setSensor {a1 a2 a3} (g3 : Keeps r a3) : Keeps r (Sys2Proof.Machine.setSensor a1 a2 a3) := by
  unfold Sys2Proof.Machine.setSensor
  exact keeps_same g3 rfl

theorem keeps_moveCeiling {a1 a2 a3 a4} (g4 : Keeps r a4) : Keeps r (Sys2Proof.Machine.moveCeiling a1 a2 a3 a4) := by
  unfold Sys2Proof.Machine.moveCeiling
  extract_lets -merge -useContext -underBinder +onlyGivenNames v1
  try clear_value v1
  extract_lets -merge -useContext -underBinder +onlyGivenNames v2
  try clear_value v2
  extract_lets -merge -useContext -underBinder +onlyGivenNames v3
  try clear_value v3
  exact keeps_same g4 rfl

theorem keeps_compareSensor {a1 a2 a3 a4} (g4 : Keeps r a4) : Keeps r (Sys2Proof.Machine.compareSensor a1 a2 a3 a4) := by
  unfold Sys2Proof.Machine.compareSensor
  split
  · extract_lets -merge -useContext -underBinder +onlyGivenNames v1
    try clear_value v1
    extract_lets -merge -useContext -underBinder +onlyGivenNames v2
    try clear_value v2
    extract_lets -merge -useContext -underBinder +onlyGivenNames v3
    have h4 : Keeps r v3 := by
      subst v3
      split
      · refine keeps_ite (P := Keeps r) ?_ ?_
        · refine keeps_moveCeiling ?_
          · exact g4
        · exact g4
      · exact g4
    try clear_value v3
    extract_lets -merge -useContext -underBinder +onlyGivenNames v5
    try clear_value v5
    extract_lets -merge -useContext -underBinder +onlyGivenNames v6
    try clear_value v6
    split
    · rename_i q7
      have h8 : Keeps r _ := KP_of q7 (by
        refine keeps_ite (P := KP (Keeps r)) ?_ ?_
        · refine KP_mk ?_
          refine keeps_raiseN ?_
          · exact h4
        · refine KP_mk ?_
          exact h4
        )
      extract_lets -merge -useContext -underBinder +onlyGivenNames v9
      try clear_value v9
      refine keeps_ite (P := Keeps r) ?_ ?_
      · refine keeps_raiseN ?_
        · refine keeps_setSensor ?_
          · exact h8
      · refine keeps_setSensor ?_
        · exact h8

theorem keeps_readSensors {a1 a2 a3} (g3 : Keeps r a3) : KP (Keeps r) (Sys2Proof.Machine.readSensors a1 a2 a3) := by
  induction a2 generalizing a3 with
  | nil => exact g3
  | cons n t ih =>
    unfold Sys2Proof.Machine.readSensors
    split
    · exact ih g3
    · refine ih ?_
      have h1 : Keeps r (sparkCheck 0x0E01 n a3).2 := KP_snd (keeps_sparkCheck g3)
      refine keeps_ite (P := Keeps r) (keeps_countInjected ?_) ?_ <;>
        exact KP_snd (keeps_ite (P := KP (Keeps r)) (keeps_sparkCheck h1) h1)

theorem keeps_notePeaks {a1 a2} (g2 : Keeps r a2) : Keeps r (Sys2Proof.Machine.notePeaks a1 a2) := by
  unfold Sys2Proof.Machine.notePeaks
  extract_lets -merge -useContext -underBinder +onlyGivenNames v1
  try clear_value v1
  extract_lets -merge -useContext -underBinder +onlyGivenNames v2
  try clear_value v2
  exact keeps_same g2 rfl

theorem keeps_takeReadings {a1 a2 a3 a4} (g4 : Keeps r a4) : Keeps r (Sys2Proof.Machine.takeReadings a1 a2 a3 a4) := by
  unfold Sys2Proof.Machine.takeReadings
  extract_lets -merge -useContext -underBinder +onlyGivenNames _ v1
  have h2 : Keeps r v1 := by
    subst v1
    refine keeps_notePeaks ?_
    · exact keeps_same g4 rfl
  try clear_value v1
  extract_lets -merge -useContext -underBinder +onlyGivenNames v3
  have h4 : Keeps r v3 := by
    subst v3
    refine keeps_foldl (P := Keeps r) (fun _ _ h5 => ?_) ?_
    · refine keeps_compareSensor ?_
      · exact h5
    · exact h2
  try clear_value v3
  refine keeps_takeSense ?_
  · exact h4

theorem keeps_tripModule {a1 a2 a3} (g3 : Keeps r a3) : Keeps r (Sys2Proof.Machine.tripModule a1 a2 a3) := by
  unfold Sys2Proof.Machine.tripModule
  extract_lets -merge -useContext -underBinder +onlyGivenNames v1
  have h2 : Keeps r v1 := by
    subst v1
    refine keeps_railsDown ?_
    · refine keeps_raiseNode ?_
      · exact g3
  try clear_value v1
  exact keeps_same h2 rfl

theorem keeps_execThermalSample {a1 a2 a3 a4} (g4 : Keeps r a4) : KN (Keeps r) (Sys2Proof.Machine.execThermalSample a1 a2 a3 a4) := by
  unfold Sys2Proof.Machine.execThermalSample
  refine KN_next ?_
  refine keeps_ite (P := Keeps r) ?_ ?_
  · exact g4
  · split
    · rename_i q1
      have h2 : Keeps r _ := KP_of q1 (by
        refine keeps_readSensors ?_
        · exact g4
        )
      extract_lets -merge -useContext -underBinder +onlyGivenNames v3
      have h4 : Keeps r v3 := by
        subst v3
        refine keeps_takeReadings ?_
        · exact h2
      try clear_value v3
      split
      · exact h4
      · refine keeps_tripModule ?_
        · exact h4

theorem keeps_execCoolantFlowLowDetect {a1 a2} (g2 : Keeps r a2) : KN (Keeps r) (Sys2Proof.Machine.execCoolantFlowLowDetect a1 a2) := by
  unfold Sys2Proof.Machine.execCoolantFlowLowDetect
  split
  · rename_i q1
    have h2 : Keeps r _ := KP_of q1 (by
      refine keeps_sparkCheck ?_
      · exact g2
      )
    extract_lets -merge -useContext -underBinder +onlyGivenNames v3
    have h4 : Keeps r v3 := by
      subst v3
      refine keeps_ite (P := Keeps r) ?_ ?_
      · refine keeps_countInjected ?_
        · exact h2
      · exact h2
    try clear_value v3
    extract_lets -merge -useContext -underBinder +onlyGivenNames v5
    try clear_value v5
    extract_lets -merge -useContext -underBinder +onlyGivenNames _ v6
    have h7 : Keeps r v6 := by
      subst v6
      exact keeps_same h4 rfl
    try clear_value v6
    refine KN_next ?_
    refine keeps_ite (P := Keeps r) ?_ ?_
    · exact h7
    · refine keeps_raiseLimited ?_
      · exact h7

theorem keeps_execInputPowerFaultDetect {a1 a2 a3} (g3 : Keeps r a3) : KN (Keeps r) (Sys2Proof.Machine.execInputPowerFaultDetect a1 a2 a3) := by
  unfold Sys2Proof.Machine.execInputPowerFaultDetect
  split
  · rename_i q1
    have h2 : Keeps r _ := KP_of q1 (by
      refine keeps_sparkCheck ?_
      · exact g3
      )
    extract_lets -merge -useContext -underBinder +onlyGivenNames v3
    have h4 : Keeps r v3 := by
      subst v3
      refine keeps_ite (P := Keeps r) ?_ ?_
      · refine keeps_countInjected ?_
        · exact h2
      · exact h2
    try clear_value v3
    extract_lets -merge -useContext -underBinder +onlyGivenNames v5
    try clear_value v5
    extract_lets -merge -useContext -underBinder +onlyGivenNames _ v6
    have h7 : Keeps r v6 := by
      subst v6
      exact keeps_same h4 rfl
    try clear_value v6
    refine KN_next ?_
    refine keeps_ite (P := Keeps r) ?_ ?_
    · exact h7
    · refine keeps_raiseLimited ?_
      · exact h7

theorem keeps_execPowerLimitedDetect {a1} (g1 : Keeps r a1) : KN (Keeps r) (Sys2Proof.Machine.execPowerLimitedDetect a1) := by
  unfold Sys2Proof.Machine.execPowerLimitedDetect
  refine KN_next ?_
  split
  · exact g1
  · refine keeps_ite (P := Keeps r) ?_ ?_
    · exact g1
    · refine keeps_raiseLimited ?_
      · exact g1

theorem keeps_execModStatus {a1 a2} (g2 : Keeps r a2) : KN (Keeps r) (Sys2Proof.Machine.execModStatus a1 a2) := by
  unfold Sys2Proof.Machine.execModStatus
  refine KN_next ?_
  refine keeps_runCmd ?_ ?_
  · intro _ _ _ h1
    beta_reduce
    refine keeps_ite (P := KP (Keeps r)) ?_ ?_
    · refine KP_mk ?_
      exact h1
    · split
      · refine KP_mk ?_
        exact h1
      · refine keeps_ite (P := KP (Keeps r)) ?_ ?_
        · refine KP_mk ?_
          exact h1
        · refine KP_mk ?_
          exact h1
  · exact g2

theorem keeps_execModShutdown {a1 a2} (g2 : Keeps r a2) : KN (Keeps r) (Sys2Proof.Machine.execModShutdown a1 a2) := by
  unfold Sys2Proof.Machine.execModShutdown
  refine KN_next ?_
  refine keeps_runCmd ?_ ?_
  · intro _ _ _ h1
    beta_reduce
    refine keeps_ite (P := KP (Keeps r)) ?_ ?_
    · refine KP_mk ?_
      exact h1
    · refine keeps_ite (P := KP (Keeps r)) ?_ ?_
      · refine KP_mk ?_
        exact h1
      · refine KP_mk ?_
        exact keeps_same h1 rfl
  · exact g2

theorem keeps_writeBack {a1 a2} (g2 : KP (Keeps r) a2) : KP (Keeps r) (Sys2Proof.Machine.writeBack a1 a2) := by
  unfold Sys2Proof.Machine.writeBack
  split
  · have h2 : Keeps r _ := g2
    refine keeps_ite (P := KP (Keeps r)) ?_ ?_
    · exact g2
    · split
      · exact g2
      · rename_i q3
        have h4 : Keeps r _ := KO_of q3 (by
          refine keeps_ite (P := KO (Keeps r)) ?_ ?_
          · refine KO_some ?_
            exact h2
          · refine keeps_startWb ?_
            · exact h2
          )
        split
        · extract_lets -merge -useContext -underBinder +onlyGivenNames v5
          try clear_value v5
          refine KP_mk ?_
          refine keeps_programDone ?_
          · exact h4
        · refine KP_mk ?_
          exact h4

theorem keeps_writeAll {a1} (g1 : Keeps r a1) : KP (Keeps r) (Sys2Proof.Machine.writeAll a1) := by
  unfold Sys2Proof.Machine.writeAll
  refine keeps_ite (P := KP (Keeps r)) ?_ ?_
  · refine KP_mk ?_
    exact g1
  · extract_lets -merge -useContext -underBinder +onlyGivenNames v1
    try clear_value v1
    split
    · rename_i q2
      have h3 : Keeps r _ := KP_of q2 (by
        refine keeps_foldl (P := KP (Keeps r)) (fun _ _ h4 => ?_) ?_
        · refine keeps_writeBack ?_
          · exact h4
        · refine KP_mk ?_
          exact g1
        )
      extract_lets -merge -useContext -underBinder +onlyGivenNames _ v5
      have h6 : Keeps r v5 := by
        subst v5
        refine keeps_foldl (P := Keeps r) (fun _ _ h7 => ?_) ?_
        · refine keeps_programRecord ?_
          · exact h7
        · exact keeps_same h3 rfl
      try clear_value v5
      refine KP_mk ?_
      refine keeps_noteClean ?_
      · exact h6

theorem keeps_noticeAll {a1} (g1 : Keeps r a1) : Keeps r (Sys2Proof.Machine.noticeAll a1) := by
  unfold Sys2Proof.Machine.noticeAll
  refine keeps_foldl (P := Keeps r) (fun _ _ h1 => ?_) ?_
  · refine keeps_sendReverse ?_
    · exact h1
  · exact g1

theorem keeps_endShutdown {a1} (g1 : Keeps r a1) : Keeps r (Sys2Proof.Machine.endShutdown a1) := by
  unfold Sys2Proof.Machine.endShutdown
  extract_lets -merge -useContext -underBinder +onlyGivenNames v1
  have h2 : Keeps r v1 := by
    subst v1
    refine keeps_saveTally ?_
    · refine keeps_noticeAll ?_
      · exact g1
  try clear_value v1
  exact keeps_same h2 rfl

theorem keeps_execShutdownDrained {a1} (g1 : Keeps r a1) : KN (Keeps r) (Sys2Proof.Machine.execShutdownDrained a1) := by
  unfold Sys2Proof.Machine.execShutdownDrained
  refine KN_next ?_
  refine keeps_ite (P := Keeps r) ?_ ?_
  · exact g1
  · split
    · rename_i q1
      have h2 : Keeps r _ := KP_of q1 (by
        refine keeps_writeAll ?_
        · exact g1
        )
      refine keeps_finish ?_
      · refine keeps_endShutdown ?_
        · exact h2

theorem keeps_setMgmt {a1 a2 a3} (g3 : Keeps r a3) : Keeps r (Sys2Proof.Machine.setMgmt a1 a2 a3) := by
  unfold Sys2Proof.Machine.setMgmt
  extract_lets -merge -useContext -underBinder +onlyGivenNames v1
  try clear_value v1
  extract_lets -merge -useContext -underBinder +onlyGivenNames _ v2
  have h3 : Keeps r v2 := by
    subst v2
    exact keeps_same g3 rfl
  try clear_value v2
  refine keeps_ite (P := Keeps r) ?_ ?_
  · exact keeps_same h3 rfl
  · exact h3

theorem keeps_execModMgmtSet {a1 a2} (g2 : Keeps r a2) : KN (Keeps r) (Sys2Proof.Machine.execModMgmtSet a1 a2) := by
  unfold Sys2Proof.Machine.execModMgmtSet
  refine KN_next ?_
  refine keeps_runCmd ?_ ?_
  · intro _ _ _ h1
    beta_reduce
    extract_lets -merge -useContext -underBinder +onlyGivenNames v2
    try clear_value v2
    extract_lets -merge -useContext -underBinder +onlyGivenNames v3
    try clear_value v3
    refine keeps_ite (P := KP (Keeps r)) ?_ ?_
    · refine KP_mk ?_
      exact h1
    · split
      · refine KP_mk ?_
        exact h1
      · refine keeps_ite (P := KP (Keeps r)) ?_ ?_
        · refine KP_mk ?_
          exact h1
        · refine keeps_ite (P := KP (Keeps r)) ?_ ?_
          · refine KP_mk ?_
            exact h1
          · split
            · rename_i q4
              have h5 : Keeps r _ := KP_of q4 (by
                refine keeps_judge ?_
                · exact h1
                )
              refine keeps_ite (P := KP (Keeps r)) ?_ ?_
              · refine KP_mk ?_
                exact h5
              · refine KP_mk ?_
                refine keeps_setMgmt ?_
                · exact h5
  · exact g2

theorem keeps_mctpPacket {a1 a2} (g2 : Keeps r a2) : Keeps r (Sys2Proof.Machine.mctpPacket a1 a2) := by
  unfold Sys2Proof.Machine.mctpPacket
  refine keeps_ite (P := Keeps r) ?_ ?_
  · exact g2
  · split
    · refine keeps_emit ?_
      · exact g2
    · exact g2

theorem keeps_execMgmtMctpPacket {a1 a2 a3 a4 a5} (g5 : Keeps r a5) : KN (Keeps r) (Sys2Proof.Machine.execMgmtMctpPacket a1 a2 a3 a4 a5) := by
  unfold Sys2Proof.Machine.execMgmtMctpPacket
  refine KN_next ?_
  refine keeps_ite (P := Keeps r) ?_ ?_
  · exact g5
  · refine keeps_mctpPacket ?_
    · exact g5

theorem keeps_execSmbusMctpPacket {a1 a2 a3 a4} (g4 : Keeps r a4) : KN (Keeps r) (Sys2Proof.Machine.execSmbusMctpPacket a1 a2 a3 a4) := by
  unfold Sys2Proof.Machine.execSmbusMctpPacket
  refine KN_next ?_
  refine keeps_ite (P := Keeps r) ?_ ?_
  · exact g4
  · refine keeps_mctpPacket ?_
    · exact g4

theorem keeps_execMctpSetEndpointId {a1 a2 a3} (g3 : Keeps r a3) : KN (Keeps r) (Sys2Proof.Machine.execMctpSetEndpointId a1 a2 a3) := by
  unfold Sys2Proof.Machine.execMctpSetEndpointId
  refine KN_next ?_
  refine keeps_ite (P := Keeps r) ?_ ?_
  · exact g3
  · refine keeps_ite (P := Keeps r) ?_ ?_
    · refine keeps_mctpPacket ?_
      · exact g3
    · refine keeps_ite (P := Keeps r) ?_ ?_
      · refine keeps_emit ?_
        · exact g3
      · refine keeps_emit ?_
        · exact keeps_same g3 rfl

theorem keeps_execJtagInstruction {a1 a2} (g2 : Keeps r a2) : KN (Keeps r) (Sys2Proof.Machine.execJtagInstruction a1 a2) := by
  unfold Sys2Proof.Machine.execJtagInstruction
  refine KN_next ?_
  refine keeps_ite (P := Keeps r) ?_ ?_
  · exact g2
  · refine keeps_ite (P := Keeps r) ?_ ?_
    · refine keeps_emit ?_
      · exact g2
    · refine keeps_ite (P := Keeps r) ?_ ?_
      · refine keeps_emit ?_
        · exact g2
      · refine keeps_ite (P := Keeps r) ?_ ?_
        · exact g2
        · split
          · rename_i q1
            have h2 : Keeps r _ := KP_of q1 (by
              refine keeps_fresh ?_
              · exact g2
              )
            refine keeps_emit ?_
            · exact keeps_same h2 rfl

theorem keeps_pageSet {a1 a2 a3 a4 a5} (g5 : Keeps r a5) : Keeps r (Sys2Proof.Machine.pageSet a1 a2 a3 a4 a5) := by
  unfold Sys2Proof.Machine.pageSet
  split
  · split
    · refine keeps_modChan ?_
      · exact g5
    · refine keeps_modChan ?_
      · exact g5
    · refine keeps_modChan ?_
      · exact g5
    · exact g5
  · split
    · refine keeps_modPort ?_
      · exact g5
    · refine keeps_modPort ?_
      · exact g5
    · refine keeps_modPort ?_
      · exact g5
    · exact g5
  · split
    · refine keeps_modCore ?_
      · exact g5
    · refine keeps_modCore ?_
      · exact g5
    · exact g5

theorem keeps_shadowSet {a1 a2 a3 a4 a5} (g5 : Keeps r a5) : Keeps r (Sys2Proof.Machine.shadowSet a1 a2 a3 a4 a5) := by
  unfold Sys2Proof.Machine.shadowSet
  split
  · refine keeps_modChan ?_
    · exact g5
  · refine keeps_modChan ?_
    · exact g5
  · refine keeps_modPort ?_
    · exact g5
  · refine keeps_modCore ?_
    · exact g5
  · exact g5

theorem keeps_memberWrite {a1 a2 a3 a4 a5 a6 a7 a8} (g8 : Keeps r a8) : Keeps r (Sys2Proof.Machine.memberWrite a1 a2 a3 a4 a5 a6 a7 a8) := by
  unfold Sys2Proof.Machine.memberWrite
  refine keeps_ite (P := Keeps r) ?_ ?_
  · exact g8
  · refine keeps_ite (P := Keeps r) ?_ ?_
    · refine keeps_shadowSet ?_
      · exact g8
    · refine keeps_pageSet ?_
      · exact g8

theorem keeps_refuseAccess {a1 a2 a3 a4} (g4 : Keeps r a4) : Keeps r (Sys2Proof.Machine.refuseAccess a1 a2 a3 a4) := by
  unfold Sys2Proof.Machine.refuseAccess
  extract_lets -merge -useContext -underBinder +onlyGivenNames v1
  have h2 : Keeps r v1 := by
    subst v1
    refine keeps_badAccess ?_
    · exact g4
  try clear_value v1
  refine keeps_ite (P := Keeps r) ?_ ?_
  · exact h2
  · refine keeps_emit ?_
    · exact h2

theorem keeps_execAliasRead {a1 a2 a3} (g3 : Keeps r a3) : KN (Keeps r) (Sys2Proof.Machine.execAliasRead a1 a2 a3) := by
  unfold Sys2Proof.Machine.execAliasRead
  extract_lets -merge -useContext -underBinder +onlyGivenNames v1
  have h2 : Keeps r v1 := by
    subst v1
    refine keeps_lightAct ?_
    · exact g3
  try clear_value v1
  refine KN_next ?_
  refine keeps_hostTlp ?_
  · refine keeps_ite (P := Keeps r) ?_ ?_
    · exact h2
    · split
      · refine keeps_ite (P := Keeps r) ?_ ?_
        · refine keeps_refuseAccess ?_
          · exact h2
        · split
          · exact h2
          · extract_lets -merge -useContext -underBinder +onlyGivenNames v3
            have h4 : ∀ a5 a6, Keeps r a6 → Keeps r (v3 a5 a6) := by
              subst v3
              intro _ _ h7
              beta_reduce
              exact keeps_same h7 rfl
            try clear_value v3
            split
            · refine keeps_emit ?_
              · refine h4 _ _ ?_
                · exact h2
            · extract_lets -merge -useContext -underBinder +onlyGivenNames v8
              try clear_value v8
              extract_lets -merge -useContext -underBinder +onlyGivenNames v9
              try clear_value v9
              extract_lets -merge -useContext -underBinder +onlyGivenNames v10
              try clear_value v10
              extract_lets -merge -useContext -underBinder +onlyGivenNames _ v11
              try clear_value v11
              refine keeps_emit ?_
              · refine h4 _ _ ?_
                · exact h2
      · refine keeps_refuseAccess ?_
        · exact h2

theorem keeps_execSowingWrite {a1 a2 a3 a4} (g4 : Keeps r a4) : KN (Keeps r) (Sys2Proof.Machine.execSowingWrite a1 a2 a3 a4) := by
  unfold Sys2Proof.Machine.execSowingWrite
  extract_lets -merge -useContext -underBinder +onlyGivenNames v1
  have h2 : Keeps r v1 := by
    subst v1
    refine keeps_lightAct ?_
    · exact g4
  try clear_value v1
  refine KN_next ?_
  refine keeps_hostTlp ?_
  · refine keeps_ite (P := Keeps r) ?_ ?_
    · exact h2
    · split
      · refine keeps_ite (P := Keeps r) ?_ ?_
        · refine keeps_refuseAccess ?_
          · exact h2
        · split
          · exact h2
          · extract_lets -merge -useContext -underBinder +onlyGivenNames v3
            try clear_value v3
            refine keeps_foldl (P := Keeps r) (fun _ _ h4 => ?_) ?_
            · refine keeps_memberWrite ?_
              · exact h4
            · exact h2
      · refine keeps_refuseAccess ?_
        · exact h2

theorem keeps_reg0Set {a1 a2 a3} (g3 : Keeps r a3) : Keeps r (Sys2Proof.Machine.reg0Set a1 a2 a3) := by
  unfold Sys2Proof.Machine.reg0Set
  split
  · exact keeps_same g3 rfl
  · exact keeps_same g3 rfl
  · exact keeps_same g3 rfl
  · exact keeps_same g3 rfl
  · exact keeps_same g3 rfl
  · refine keeps_ite (P := Keeps r) ?_ ?_
    · refine keeps_setMbx ?_
      · exact g3
    · exact g3
  · split
    · exact keeps_same g3 rfl
    · exact keeps_same g3 rfl
    · exact keeps_same g3 rfl
  · extract_lets -merge -useContext -underBinder +onlyGivenNames v1
    try clear_value v1
    extract_lets -merge -useContext -underBinder +onlyGivenNames v2
    try clear_value v2
    extract_lets -merge -useContext -underBinder +onlyGivenNames _ v3
    have h4 : Keeps r v3 := by
      subst v3
      exact keeps_same g3 rfl
    try clear_value v3
    refine keeps_ite (P := Keeps r) ?_ ?_
    · refine keeps_emit ?_
      · exact keeps_same h4 rfl
    · exact h4
  · exact g3

theorem keeps_reg0Gate {a1 a2 a3 a4 a5 a6} (g5 : ∀ b1, Keeps r b1 → Keeps r (a5 b1)) (g6 : Keeps r a6) : Keeps r (Sys2Proof.Machine.reg0Gate a1 a2 a3 a4 a5 a6) := by
  unfold Sys2Proof.Machine.reg0Gate
  split
  · extract_lets -merge -useContext -underBinder +onlyGivenNames v1
    try clear_value v1
    extract_lets -merge -useContext -underBinder +onlyGivenNames v2
    have h3 : Keeps r v2 := by
      subst v2
      refine keeps_mbxAccess ?_ ?_
      · intro _ h4
        refine g5 _ ?_
        · exact h4
      · exact g6
    try clear_value v2
    refine keeps_ite (P := Keeps r) ?_ ?_
    · exact h3
    · refine keeps_emit ?_
      · exact h3
  · refine g5 _ ?_
    · exact g6

theorem keeps_reg0Write {a1 a2 a3 a4 a5 a6} (g6 : Keeps r a6) : Keeps r (Sys2Proof.Machine.reg0Write a1 a2 a3 a4 a5 a6) := by
  unfold Sys2Proof.Machine.reg0Write
  split
  · refine keeps_ite (P := Keeps r) ?_ ?_
    · refine keeps_ite (P := Keeps r) ?_ ?_
      · refine keeps_putInWord ?_
        · exact g6
      · refine keeps_badAccess ?_
        · exact g6
    · refine keeps_ite (P := Keeps r) ?_ ?_
      · refine keeps_putParam ?_
        · exact g6
      · refine keeps_reg0Set ?_
        · exact g6
  · extract_lets -merge -useContext -underBinder +onlyGivenNames v1
    try clear_value v1
    extract_lets -merge -useContext -underBinder +onlyGivenNames v2
    have h3 : Keeps r v2 := by
      subst v2
      refine keeps_reg0Set ?_
      · exact g6
    try clear_value v2
    refine keeps_ite (P := Keeps r) ?_ ?_
    · refine keeps_restartCloni ?_
      · exact h3
    · exact h3
  · refine keeps_reg0Set ?_
    · exact g6

theorem keeps_doorbellWrite {a1 a2 a3} (g3 : Keeps r a3) : Keeps r (Sys2Proof.Machine.doorbellWrite a1 a2 a3) := by
  unfold Sys2Proof.Machine.doorbellWrite
  refine keeps_ite (P := Keeps r) ?_ ?_
  · refine keeps_writeSqTail ?_
    · exact g3
  · refine keeps_ite (P := Keeps r) ?_ ?_
    · refine keeps_writeCqHead ?_
      · exact g3
    · refine keeps_refuseAccess ?_
      · exact g3

theorem keeps_execRcRead {a1 a2 a3 a4 a5 a6} (g6 : Keeps r a6) : KN (Keeps r) (Sys2Proof.Machine.execRcRead a1 a2 a3 a4 a5 a6) := by
  unfold Sys2Proof.Machine.execRcRead
  extract_lets -merge -useContext -underBinder +onlyGivenNames v1
  have h2 : Keeps r v1 := by
    subst v1
    refine keeps_lightAct ?_
    · exact g6
  try clear_value v1
  extract_lets -merge -useContext -underBinder +onlyGivenNames v3
  try clear_value v3
  refine KN_next ?_
  refine keeps_hostTlp ?_
  · refine keeps_ite (P := Keeps r) ?_ ?_
    · exact h2
    · refine keeps_ite (P := Keeps r) ?_ ?_
      · refine keeps_refuseAccess ?_
        · exact h2
      · split
        · split
          · refine keeps_refuseAccess ?_
            · exact h2
          · refine keeps_reg0Gate ?_ ?_
            · intro _ h4
              beta_reduce
              refine keeps_ite (P := Keeps r) ?_ ?_
              · refine keeps_refuseAccess ?_
                · exact h4
              · extract_lets -merge -useContext -underBinder +onlyGivenNames v5
                try clear_value v5
                refine keeps_emit ?_
                · refine keeps_reg0Set ?_
                  · exact h4
            · exact h2
        · refine keeps_refuseAccess ?_
          · exact h2
        · split
          · extract_lets -merge -useContext -underBinder +onlyGivenNames v6
            try clear_value v6
            extract_lets -merge -useContext -underBinder +onlyGivenNames v7
            try clear_value v7
            extract_lets -merge -useContext -underBinder +onlyGivenNames v8
            have h9 : Keeps r v8 := by
              subst v8
              refine keeps_emit ?_
              · exact h2
            try clear_value v8
            refine keeps_ite (P := Keeps r) ?_ ?_
            · exact h9
            · refine keeps_pageSet ?_
              · exact h9
          · exact h2
          · refine keeps_refuseAccess ?_
            · exact h2

theorem keeps_execRegisterWrite {a1 a2 a3 a4 a5 a6 a7} (g7 : Keeps r a7) : KN (Keeps r) (Sys2Proof.Machine.execRegisterWrite a1 a2 a3 a4 a5 a6 a7) := by
  unfold Sys2Proof.Machine.execRegisterWrite
  extract_lets -merge -useContext -underBinder +onlyGivenNames v1
  have h2 : Keeps r v1 := by
    subst v1
    refine keeps_lightAct ?_
    · exact g7
  try clear_value v1
  refine KN_next ?_
  refine keeps_hostTlp ?_
  · refine keeps_ite (P := Keeps r) ?_ ?_
    · exact h2
    · refine keeps_ite (P := Keeps r) ?_ ?_
      · refine keeps_refuseAccess ?_
        · exact h2
      · split
        · split
          · refine keeps_refuseAccess ?_
            · exact h2
          · refine keeps_reg0Gate ?_ ?_
            · intro _ h3
              refine keeps_reg0Write ?_
              · exact h3
            · exact h2
        · refine keeps_ite (P := Keeps r) ?_ ?_
          · refine keeps_doorbellWrite ?_
            · exact h2
          · refine keeps_refuseAccess ?_
            · exact h2
        · split
          · refine keeps_memberWrite ?_
            · exact h2
          · exact h2
          · refine keeps_refuseAccess ?_
            · exact h2

theorem keeps_execMalformedBarAccess {a1 a2 a3 a4} (g4 : Keeps r a4) : KN (Keeps r) (Sys2Proof.Machine.execMalformedBarAccess a1 a2 a3 a4) := by
  unfold Sys2Proof.Machine.execMalformedBarAccess
  extract_lets -merge -useContext -underBinder +onlyGivenNames v1
  have h2 : Keeps r v1 := by
    subst v1
    refine keeps_lightAct ?_
    · exact g4
  try clear_value v1
  refine KN_next ?_
  refine keeps_hostTlp ?_
  · refine keeps_ite (P := Keeps r) ?_ ?_
    · exact h2
    · refine keeps_refuseAccess ?_
      · exact h2

theorem keeps_applyChange {a1 a2} (g2 : Keeps r a2) : Keeps r (Sys2Proof.Machine.applyChange a1 a2) := by
  unfold Sys2Proof.Machine.applyChange
  split
  · exact keeps_same g2 rfl
  · refine keeps_startMerges ?_
    · exact keeps_same g2 rfl
  · exact keeps_same g2 rfl
  · exact keeps_same g2 rfl
  · exact keeps_same g2 rfl
  · exact g2

theorem keeps_execCloniSweep {a1} (g1 : Keeps r a1) : KN (Keeps r) (Sys2Proof.Machine.execCloniSweep a1) := by
  unfold Sys2Proof.Machine.execCloniSweep
  refine KN_next ?_
  refine keeps_ite (P := Keeps r) ?_ ?_
  · exact g1
  · extract_lets -merge -useContext -underBinder +onlyGivenNames v1
    try clear_value v1
    extract_lets -merge -useContext -underBinder +onlyGivenNames _ v2
    have h3 : Keeps r v2 := by
      subst v2
      exact keeps_same g1 rfl
    try clear_value v2
    extract_lets -merge -useContext -underBinder +onlyGivenNames v4
    have h5 : Keeps r v4 := by
      subst v4
      refine keeps_foldl (P := Keeps r) (fun _ _ h6 => ?_) ?_
      · refine keeps_applyChange ?_
        · exact h6
      · exact h3
    try clear_value v4
    extract_lets -merge -useContext -underBinder +onlyGivenNames v7
    have h8 : Keeps r v7 := by
      subst v7
      refine keeps_foldl (P := Keeps r) (fun _ _ h9 => ?_) ?_
      · refine keeps_finish ?_
        · exact h9
      · exact h5
    try clear_value v7
    refine keeps_foldl (P := Keeps r) (fun _ _ h10 => ?_) ?_
    · refine keeps_acceptWord ?_
      · exact h10
    · exact h8

end Sys2Proof.Machine
end

