-- ==== Sys2Proof/Laws/KeepsExec.lean ====
section
/-! SUPPORT. What every command keeps (`Keeps`). -/

namespace Sys2Proof.Machine

/-- A command leaves the waiting commands and the time as they are, takes nothing back that has left the block, lowers no anti-rollback count, and keeps the canonical form of every memory. -/
theorem keeps_exec {i : Instr} {s t : State} (h : exec i s = .next t) : Keeps s t := by
  cases i with
  | pwrEnRise => exact keeps_execPwrEnRise (Keeps.refl s) t h
  | pwrEnFall => exact keeps_execPwrEnFall (Keeps.refl s) t h
  | railsStable => exact keeps_execRailsStable (Keeps.refl s) t h
  | perstDeassert => exact keeps_execPerstDeassert (Keeps.refl s) t h
  | perstAssert => exact keeps_execPerstAssert (Keeps.refl s) t h
  | inputUndervoltage => exact keeps_execInputUndervoltage (Keeps.refl s) t h
  | inputOvervoltage => exact keeps_execInputOvervoltage (Keeps.refl s) t h
  | powerLoss => exact keeps_execPowerLoss (Keeps.refl s) t h
  | fwAuthenticated => exact keeps_execFwAuthenticated (Keeps.refl s) t h
  | ccsReady => exact keeps_execCcsReady (Keeps.refl s) t h
  | emberTrainingDone => exact keeps_execEmberTrainingDone (Keeps.refl s) t h
  | fieldSelfTestDone => exact keeps_execFieldSelfTestDone (Keeps.refl s) t h
  | peatMountDone => exact keeps_execPeatMountDone (Keeps.refl s) t h
  | discoveryAccept => exact keeps_execDiscoveryAccept (Keeps.refl s) t h
  | fullService => exact keeps_execFullService (Keeps.refl s) t h
  | pcieConfigRequest => exact keeps_execPcieConfigRequest (Keeps.refl s) t h
  | functionLevelReset => exact keeps_execFunctionLevelReset (Keeps.refl s) t h
  | mbxInWrite => exact keeps_execMbxInWrite (Keeps.refl s) t h
  | paramWrite => exact keeps_execParamWrite (Keeps.refl s) t h
  | mbxOutRelease => exact keeps_execMbxOutRelease (Keeps.refl s) t h
  | mctpMbxRequest => exact keeps_execMctpMbxRequest (Keeps.refl s) t h
  | mbxAccept => exact keeps_execMbxAccept (Keeps.refl s) t h
  | mbxReplyPost => exact keeps_execMbxReplyPost (Keeps.refl s) t h
  | fetchHoldWrite => exact keeps_execFetchHoldWrite (Keeps.refl s) t h
  | softRestart => exact keeps_execSoftRestart (Keeps.refl s) t h
  | heartbeatTick => exact keeps_execHeartbeatTick (Keeps.refl s) t h
  | aliasRead => exact keeps_execAliasRead (Keeps.refl s) t h
  | sowingWrite => exact keeps_execSowingWrite (Keeps.refl s) t h
  | rcRead => exact keeps_execRcRead (Keeps.refl s) t h
  | registerWrite => exact keeps_execRegisterWrite (Keeps.refl s) t h
  | malformedBarAccess => exact keeps_execMalformedBarAccess (Keeps.refl s) t h
  | dbSqTailWrite => exact keeps_execDbSqTailWrite (Keeps.refl s) t h
  | dbCqHeadWrite => exact keeps_execDbCqHeadWrite (Keeps.refl s) t h
  | cloniSweep => exact keeps_execCloniSweep (Keeps.refl s) t h
  | descriptorFetch => exact keeps_execDescriptorFetch (Keeps.refl s) t h
  | commandComplete => exact keeps_execCommandComplete (Keeps.refl s) t h
  | ringCoalTimeout => exact keeps_execRingCoalTimeout (Keeps.refl s) t h
  | ringDmaFailure => exact keeps_execRingDmaFailure (Keeps.refl s) t h
  | lockstepMismatch => exact keeps_execLockstepMismatch (Keeps.refl s) t h
  | cloniRestartDone => exact keeps_execCloniRestartDone (Keeps.refl s) t h
  | capQuery => exact keeps_execCapQuery (Keeps.refl s) t h
  | clnEcho => exact keeps_execClnEcho (Keeps.refl s) t h
  | ringCreate => exact keeps_execRingCreate (Keeps.refl s) t h
  | ringDestroy => exact keeps_execRingDestroy (Keeps.refl s) t h
  | ringReset => exact keeps_execRingReset (Keeps.refl s) t h
  | ringQuery => exact keeps_execRingQuery (Keeps.refl s) t h
  | eventQueueCreate => exact keeps_execEventQueueCreate (Keeps.refl s) t h
  | eventQueueDestroy => exact keeps_execEventQueueDestroy (Keeps.refl s) t h
  | ccsIndirect => exact keeps_execCcsIndirect (Keeps.refl s) t h
  | rateUpdate => exact keeps_execRateUpdate (Keeps.refl s) t h
  | powerHoldAdjust => exact keeps_execPowerHoldAdjust (Keeps.refl s) t h
  | fieldStatus => exact keeps_execFieldStatus (Keeps.refl s) t h
  | fieldSupply => exact keeps_execFieldSupply (Keeps.refl s) t h
  | fieldFence => exact keeps_execFieldFence (Keeps.refl s) t h
  | fieldRestrict => exact keeps_execFieldRestrict (Keeps.refl s) t h
  | fieldEnable => exact keeps_execFieldEnable (Keeps.refl s) t h
  | fieldLoad => exact keeps_execFieldLoad (Keeps.refl s) t h
  | fieldRun => exact keeps_execFieldRun (Keeps.refl s) t h
  | fieldStop => exact keeps_execFieldStop (Keeps.refl s) t h
  | fieldRunEnd => exact keeps_execFieldRunEnd (Keeps.refl s) t h
  | rankRestart => exact keeps_execRankRestart (Keeps.refl s) t h
  | itemPlace => exact keeps_execItemPlace (Keeps.refl s) t h
  | itemCommit => exact keeps_execItemCommit (Keeps.refl s) t h
  | reserveJoin => exact keeps_execReserveJoin (Keeps.refl s) t h
  | meshSend => exact keeps_execMeshSend (Keeps.refl s) t h
  | meshDeliver => exact keeps_execMeshDeliver (Keeps.refl s) t h
  | meshResend => exact keeps_execMeshResend (Keeps.refl s) t h
  | meshFlitError => exact keeps_execMeshFlitError (Keeps.refl s) t h
  | sramError => exact keeps_execSramError (Keeps.refl s) t h
  | coreStallDetect => exact keeps_execCoreStallDetect (Keeps.refl s) t h
  | paceLowDetect => exact keeps_execPaceLowDetect (Keeps.refl s) t h
  | coreSlowDetect => exact keeps_execCoreSlowDetect (Keeps.refl s) t h
  | reserveSelfTest => exact keeps_execReserveSelfTest (Keeps.refl s) t h
  | reserveTestDone => exact keeps_execReserveTestDone (Keeps.refl s) t h
  | kilnAttend => exact keeps_execKilnAttend (Keeps.refl s) t h
  | kilnRopeSet => exact keeps_execKilnRopeSet (Keeps.refl s) t h
  | kilnRopeClear => exact keeps_execKilnRopeClear (Keeps.refl s) t h
  | kilnAdmitSet => exact keeps_execKilnAdmitSet (Keeps.refl s) t h
  | kilnStatus => exact keeps_execKilnStatus (Keeps.refl s) t h
  | residencyTimeout => exact keeps_execResidencyTimeout (Keeps.refl s) t h
  | sheafFormat => exact keeps_execSheafFormat (Keeps.refl s) t h
  | sheafFormatDrop => exact keeps_execSheafFormatDrop (Keeps.refl s) t h
  | sheafAppend => exact keeps_execSheafAppend (Keeps.refl s) t h
  | sheafRead => exact keeps_execSheafRead (Keeps.refl s) t h
  | emberAccess => exact keeps_execEmberAccess (Keeps.refl s) t h
  | emberLineError => exact keeps_execEmberLineError (Keeps.refl s) t h
  | scrubStep => exact keeps_execScrubStep (Keeps.refl s) t h
  | ploughFill => exact keeps_execPloughFill (Keeps.refl s) t h
  | ploughCopy => exact keeps_execPloughCopy (Keeps.refl s) t h
  | ploughLogic => exact keeps_execPloughLogic (Keeps.refl s) t h
  | ploughFenceInstall => exact keeps_execPloughFenceInstall (Keeps.refl s) t h
  | ploughRowStep => exact keeps_execPloughRowStep (Keeps.refl s) t h
  | ploughComplete => exact keeps_execPloughComplete (Keeps.refl s) t h
  | tierSeqCreate => exact keeps_execTierSeqCreate (Keeps.refl s) t h
  | tierSeqFork => exact keeps_execTierSeqFork (Keeps.refl s) t h
  | tierSeqDestroy => exact keeps_execTierSeqDestroy (Keeps.refl s) t h
  | tierSeqTruncate => exact keeps_execTierSeqTruncate (Keeps.refl s) t h
  | tierRemap => exact keeps_execTierRemap (Keeps.refl s) t h
  | tierQuery => exact keeps_execTierQuery (Keeps.refl s) t h
  | tierPin => exact keeps_execTierPin (Keeps.refl s) t h
  | tierUnpin => exact keeps_execTierUnpin (Keeps.refl s) t h
  | tierFlush => exact keeps_execTierFlush (Keeps.refl s) t h
  | tierRegionAlloc => exact keeps_execTierRegionAlloc (Keeps.refl s) t h
  | tierRegionFree => exact keeps_execTierRegionFree (Keeps.refl s) t h
  | tierConfig => exact keeps_execTierConfig (Keeps.refl s) t h
  | tierStatus => exact keeps_execTierStatus (Keeps.refl s) t h
  | tierWear => exact keeps_execTierWear (Keeps.refl s) t h
  | tierLossList => exact keeps_execTierLossList (Keeps.refl s) t h
  | tierLend => exact keeps_execTierLend (Keeps.refl s) t h
  | tierReclaim => exact keeps_execTierReclaim (Keeps.refl s) t h
  | tierBorrow => exact keeps_execTierBorrow (Keeps.refl s) t h
  | tierReturn => exact keeps_execTierReturn (Keeps.refl s) t h
  | epochBoundary => exact keeps_execEpochBoundary (Keeps.refl s) t h
  | tailIdleExpiry => exact keeps_execTailIdleExpiry (Keeps.refl s) t h
  | writebackStart => exact keeps_execWritebackStart (Keeps.refl s) t h
  | writebackDone => exact keeps_execWritebackDone (Keeps.refl s) t h
  | journalRecordDone => exact keeps_execJournalRecordDone (Keeps.refl s) t h
  | evictionPass => exact keeps_execEvictionPass (Keeps.refl s) t h
  | evictionCommit => exact keeps_execEvictionCommit (Keeps.refl s) t h
  | allocationResume => exact keeps_execAllocationResume (Keeps.refl s) t h
  | fetchStart => exact keeps_execFetchStart (Keeps.refl s) t h
  | fetchDone => exact keeps_execFetchDone (Keeps.refl s) t h
  | peatProgramFail => exact keeps_execPeatProgramFail (Keeps.refl s) t h
  | peatControllerTimeout => exact keeps_execPeatControllerTimeout (Keeps.refl s) t h
  | reclaimNoticeExpiry => exact keeps_execReclaimNoticeExpiry (Keeps.refl s) t h
  | orphanExpiry => exact keeps_execOrphanExpiry (Keeps.refl s) t h
  | allotmentZeroed => exact keeps_execAllotmentZeroed (Keeps.refl s) t h
  | compositionDrained => exact keeps_execCompositionDrained (Keeps.refl s) t h
  | charcoalCompress => exact keeps_execCharcoalCompress (Keeps.refl s) t h
  | charcoalDecompress => exact keeps_execCharcoalDecompress (Keeps.refl s) t h
  | charcoalStatus => exact keeps_execCharcoalStatus (Keeps.refl s) t h
  | seedLookup => exact keeps_execSeedLookup (Keeps.refl s) t h
  | seedSearch => exact keeps_execSeedSearch (Keeps.refl s) t h
  | seedStep => exact keeps_execSeedStep (Keeps.refl s) t h
  | seedCensus => exact keeps_execSeedCensus (Keeps.refl s) t h
  | seedInsert => exact keeps_execSeedInsert (Keeps.refl s) t h
  | insertCommit => exact keeps_execInsertCommit (Keeps.refl s) t h
  | seedDelete => exact keeps_execSeedDelete (Keeps.refl s) t h
  | seedPost => exact keeps_execSeedPost (Keeps.refl s) t h
  | seedExport => exact keeps_execSeedExport (Keeps.refl s) t h
  | seedBankSet => exact keeps_execSeedBankSet (Keeps.refl s) t h
  | seedConfig => exact keeps_execSeedConfig (Keeps.refl s) t h
  | seedStatus => exact keeps_execSeedStatus (Keeps.refl s) t h
  | ageTick => exact keeps_execAgeTick (Keeps.refl s) t h
  | evictionEngineCommit => exact keeps_execEvictionEngineCommit (Keeps.refl s) t h
  | cursorIdleExpiry => exact keeps_execCursorIdleExpiry (Keeps.refl s) t h
  | seedRateUpdate => exact keeps_execSeedRateUpdate (Keeps.refl s) t h
  | shadowCompare => exact keeps_execShadowCompare (Keeps.refl s) t h
  | gleanSwathCreate => exact keeps_execGleanSwathCreate (Keeps.refl s) t h
  | gleanSwathDrop => exact keeps_execGleanSwathDrop (Keeps.refl s) t h
  | gleanBind => exact keeps_execGleanBind (Keeps.refl s) t h
  | gleanSearch => exact keeps_execGleanSearch (Keeps.refl s) t h
  | gleanBitmap => exact keeps_execGleanBitmap (Keeps.refl s) t h
  | gleanMerge => exact keeps_execGleanMerge (Keeps.refl s) t h
  | gleanConfig => exact keeps_execGleanConfig (Keeps.refl s) t h
  | gleanStatus => exact keeps_execGleanStatus (Keeps.refl s) t h
  | listVisitStart => exact keeps_execListVisitStart (Keeps.refl s) t h
  | gleanSearchDone => exact keeps_execGleanSearchDone (Keeps.refl s) t h
  | postingDequeue => exact keeps_execPostingDequeue (Keeps.refl s) t h
  | staleRepost => exact keeps_execStaleRepost (Keeps.refl s) t h
  | mergeDone => exact keeps_execMergeDone (Keeps.refl s) t h
  | linkDataReceive => exact keeps_execLinkDataReceive (Keeps.refl s) t h
  | linkAckReceive => exact keeps_execLinkAckReceive (Keeps.refl s) t h
  | linkNakReceive => exact keeps_execLinkNakReceive (Keeps.refl s) t h
  | linkCreditReceive => exact keeps_execLinkCreditReceive (Keeps.refl s) t h
  | controlRetrain => exact keeps_execControlRetrain (Keeps.refl s) t h
  | controlResize => exact keeps_execControlResize (Keeps.refl s) t h
  | controlLaneLost => exact keeps_execControlLaneLost (Keeps.refl s) t h
  | controlAccept => exact keeps_execControlAccept (Keeps.refl s) t h
  | controlGo => exact keeps_execControlGo (Keeps.refl s) t h
  | controlCreditInit => exact keeps_execControlCreditInit (Keeps.refl s) t h
  | notReadyReceive => exact keeps_execNotReadyReceive (Keeps.refl s) t h
  | timeFrameReceive => exact keeps_execTimeFrameReceive (Keeps.refl s) t h
  | helloReceive => exact keeps_execHelloReceive (Keeps.refl s) t h
  | queryReceive => exact keeps_execQueryReceive (Keeps.refl s) t h
  | replyReceive => exact keeps_execReplyReceive (Keeps.refl s) t h
  | claimReceive => exact keeps_execClaimReceive (Keeps.refl s) t h
  | linkReplayTimeout => exact keeps_execLinkReplayTimeout (Keeps.refl s) t h
  | linkAckTimer => exact keeps_execLinkAckTimer (Keeps.refl s) t h
  | signalDetect => exact keeps_execSignalDetect (Keeps.refl s) t h
  | linkTrainingDone => exact keeps_execLinkTrainingDone (Keeps.refl s) t h
  | trainingBackoffExpiry => exact keeps_execTrainingBackoffExpiry (Keeps.refl s) t h
  | retrainDone => exact keeps_execRetrainDone (Keeps.refl s) t h
  | resizeDone => exact keeps_execResizeDone (Keeps.refl s) t h
  | laneLoss => exact keeps_execLaneLoss (Keeps.refl s) t h
  | laneBerSample => exact keeps_execLaneBerSample (Keeps.refl s) t h
  | laneRejoinTimer => exact keeps_execLaneRejoinTimer (Keeps.refl s) t h
  | laneQuarantineDone => exact keeps_execLaneQuarantineDone (Keeps.refl s) t h
  | helloTimer => exact keeps_execHelloTimer (Keeps.refl s) t h
  | addrEffective => exact keeps_execAddrEffective (Keeps.refl s) t h
  | routeSwap => exact keeps_execRouteSwap (Keeps.refl s) t h
  | mcastDeadline => exact keeps_execMcastDeadline (Keeps.refl s) t h
  | mcastRetry => exact keeps_execMcastRetry (Keeps.refl s) t h
  | ptpSyncTimer => exact keeps_execPtpSyncTimer (Keeps.refl s) t h
  | syncHoldoverTimeout => exact keeps_execSyncHoldoverTimeout (Keeps.refl s) t h
  | ptmExchange => exact keeps_execPtmExchange (Keeps.refl s) t h
  | ethFrameReceive => exact keeps_execEthFrameReceive (Keeps.refl s) t h
  | pfcFrameReceive => exact keeps_execPfcFrameReceive (Keeps.refl s) t h
  | discoverTimeout => exact keeps_execDiscoverTimeout (Keeps.refl s) t h
  | olnenStatus => exact keeps_execOlnenStatus (Keeps.refl s) t h
  | olnenPortMode => exact keeps_execOlnenPortMode (Keeps.refl s) t h
  | olnenRetrain => exact keeps_execOlnenRetrain (Keeps.refl s) t h
  | olnenWidth => exact keeps_execOlnenWidth (Keeps.refl s) t h
  | olnenFence => exact keeps_execOlnenFence (Keeps.refl s) t h
  | olnenRestrict => exact keeps_execOlnenRestrict (Keeps.refl s) t h
  | olnenEnable => exact keeps_execOlnenEnable (Keeps.refl s) t h
  | olnenAddrSet => exact keeps_execOlnenAddrSet (Keeps.refl s) t h
  | olnenDiscover => exact keeps_execOlnenDiscover (Keeps.refl s) t h
  | olnenRouteSet => exact keeps_execOlnenRouteSet (Keeps.refl s) t h
  | olnenRouteGet => exact keeps_execOlnenRouteGet (Keeps.refl s) t h
  | olnenMcastGroup => exact keeps_execOlnenMcastGroup (Keeps.refl s) t h
  | olnenMcast => exact keeps_execOlnenMcast (Keeps.refl s) t h
  | olnenTime => exact keeps_execOlnenTime (Keeps.refl s) t h
  | olnenConfig => exact keeps_execOlnenConfig (Keeps.refl s) t h
  | transportAckReceive => exact keeps_execTransportAckReceive (Keeps.refl s) t h
  | nackGap => exact keeps_execNackGap (Keeps.refl s) t h
  | nackResync => exact keeps_execNackResync (Keeps.refl s) t h
  | nackBusy => exact keeps_execNackBusy (Keeps.refl s) t h
  | nackNoSlot => exact keeps_execNackNoSlot (Keeps.refl s) t h
  | nackNotHolder => exact keeps_execNackNotHolder (Keeps.refl s) t h
  | noticeShutdown => exact keeps_execNoticeShutdown (Keeps.refl s) t h
  | noticeStookList => exact keeps_execNoticeStookList (Keeps.refl s) t h
  | opLoad => exact keeps_execOpLoad (Keeps.refl s) t h
  | opStore => exact keeps_execOpStore (Keeps.refl s) t h
  | opAtomic => exact keeps_execOpAtomic (Keeps.refl s) t h
  | opCounterAdd => exact keeps_execOpCounterAdd (Keeps.refl s) t h
  | opCoreMsg => exact keeps_execOpCoreMsg (Keeps.refl s) t h
  | opCommand => exact keeps_execOpCommand (Keeps.refl s) t h
  | loadData => exact keeps_execLoadData (Keeps.refl s) t h
  | atomicOld => exact keeps_execAtomicOld (Keeps.refl s) t h
  | opFault => exact keeps_execOpFault (Keeps.refl s) t h
  | commandDoneMsg => exact keeps_execCommandDoneMsg (Keeps.refl s) t h
  | fallowBorrow => exact keeps_execFallowBorrow (Keeps.refl s) t h
  | fallowGrant => exact keeps_execFallowGrant (Keeps.refl s) t h
  | fallowRefuse => exact keeps_execFallowRefuse (Keeps.refl s) t h
  | fallowReclaimNotice => exact keeps_execFallowReclaimNotice (Keeps.refl s) t h
  | fallowReturn => exact keeps_execFallowReturn (Keeps.refl s) t h
  | fallowReleased => exact keeps_execFallowReleased (Keeps.refl s) t h
  | fallowProbe => exact keeps_execFallowProbe (Keeps.refl s) t h
  | fallowProbeTimer => exact keeps_execFallowProbeTimer (Keeps.refl s) t h
  | cohGetS => exact keeps_execCohGetS (Keeps.refl s) t h
  | cohGetM => exact keeps_execCohGetM (Keeps.refl s) t h
  | cohPutM => exact keeps_execCohPutM (Keeps.refl s) t h
  | cohRecall => exact keeps_execCohRecall (Keeps.refl s) t h
  | cohInv => exact keeps_execCohInv (Keeps.refl s) t h
  | cohInvAck => exact keeps_execCohInvAck (Keeps.refl s) t h
  | cohData => exact keeps_execCohData (Keeps.refl s) t h
  | rtoTimeout => exact keeps_execRtoTimeout (Keeps.refl s) t h
  | transportAckTimer => exact keeps_execTransportAckTimer (Keeps.refl s) t h
  | slotRecycle => exact keeps_execSlotRecycle (Keeps.refl s) t h
  | tombstoneExpiry => exact keeps_execTombstoneExpiry (Keeps.refl s) t h
  | flagSend => exact keeps_execFlagSend (Keeps.refl s) t h
  | remoteCommandAccept => exact keeps_execRemoteCommandAccept (Keeps.refl s) t h
  | fieldRemoteAccess => exact keeps_execFieldRemoteAccess (Keeps.refl s) t h
  | olnenRemote => exact keeps_execOlnenRemote (Keeps.refl s) t h
  | olnenPut => exact keeps_execOlnenPut (Keeps.refl s) t h
  | olnenGet => exact keeps_execOlnenGet (Keeps.refl s) t h
  | olnenAtomic => exact keeps_execOlnenAtomic (Keeps.refl s) t h
  | olnenFlag => exact keeps_execOlnenFlag (Keeps.refl s) t h
  | olnenMsg => exact keeps_execOlnenMsg (Keeps.refl s) t h
  | olnenJobSet => exact keeps_execOlnenJobSet (Keeps.refl s) t h
  | olnenWindowOpen => exact keeps_execOlnenWindowOpen (Keeps.refl s) t h
  | olnenWindowClose => exact keeps_execOlnenWindowClose (Keeps.refl s) t h
  | olnenCounterAlloc => exact keeps_execOlnenCounterAlloc (Keeps.refl s) t h
  | olnenCounterWait => exact keeps_execOlnenCounterWait (Keeps.refl s) t h
  | counterWaitTimeout => exact keeps_execCounterWaitTimeout (Keeps.refl s) t h
  | olnenStookSet => exact keeps_execOlnenStookSet (Keeps.refl s) t h
  | olnenFlowStatus => exact keeps_execOlnenFlowStatus (Keeps.refl s) t h
  | portTransmitPick => exact keeps_execPortTransmitPick (Keeps.refl s) t h
  | wheelSlotRelease => exact keeps_execWheelSlotRelease (Keeps.refl s) t h
  | rotationEntryEnd => exact keeps_execRotationEntryEnd (Keeps.refl s) t h
  | rotationTakeover => exact keeps_execRotationTakeover (Keeps.refl s) t h
  | rotationStopAt => exact keeps_execRotationStopAt (Keeps.refl s) t h
  | headlandStatus => exact keeps_execHeadlandStatus (Keeps.refl s) t h
  | headlandClassSet => exact keeps_execHeadlandClassSet (Keeps.refl s) t h
  | headlandQueueSet => exact keeps_execHeadlandQueueSet (Keeps.refl s) t h
  | headlandRotation => exact keeps_execHeadlandRotation (Keeps.refl s) t h
  | headlandRotationStop => exact keeps_execHeadlandRotationStop (Keeps.refl s) t h
  | contextCreate => exact keeps_execContextCreate (Keeps.refl s) t h
  | contextDestroy => exact keeps_execContextDestroy (Keeps.refl s) t h
  | contextPark => exact keeps_execContextPark (Keeps.refl s) t h
  | contextReside => exact keeps_execContextReside (Keeps.refl s) t h
  | contextQuery => exact keeps_execContextQuery (Keeps.refl s) t h
  | keyLoad => exact keeps_execKeyLoad (Keeps.refl s) t h
  | keyErase => exact keeps_execKeyErase (Keeps.refl s) t h
  | keyQuery => exact keeps_execKeyQuery (Keeps.refl s) t h
  | keyBindJob => exact keeps_execKeyBindJob (Keeps.refl s) t h
  | keyShadowDiscard => exact keeps_execKeyShadowDiscard (Keeps.refl s) t h
  | secConfig => exact keeps_execSecConfig (Keeps.refl s) t h
  | fwStage => exact keeps_execFwStage (Keeps.refl s) t h
  | fwActivate => exact keeps_execFwActivate (Keeps.refl s) t h
  | fwCommit => exact keeps_execFwCommit (Keeps.refl s) t h
  | fwStatus => exact keeps_execFwStatus (Keeps.refl s) t h
  | fwEraseBank => exact keeps_execFwEraseBank (Keeps.refl s) t h
  | spdmGetVersion => exact keeps_execSpdmGetVersion (Keeps.refl s) t h
  | spdmGetCapabilities => exact keeps_execSpdmGetCapabilities (Keeps.refl s) t h
  | spdmNegotiateAlgorithms => exact keeps_execSpdmNegotiateAlgorithms (Keeps.refl s) t h
  | spdmGetDigests => exact keeps_execSpdmGetDigests (Keeps.refl s) t h
  | spdmGetCertificate => exact keeps_execSpdmGetCertificate (Keeps.refl s) t h
  | spdmChallenge => exact keeps_execSpdmChallenge (Keeps.refl s) t h
  | spdmGetMeasurements => exact keeps_execSpdmGetMeasurements (Keeps.refl s) t h
  | spdmKeyExchange => exact keeps_execSpdmKeyExchange (Keeps.refl s) t h
  | spdmFinish => exact keeps_execSpdmFinish (Keeps.refl s) t h
  | spdmEndSession => exact keeps_execSpdmEndSession (Keeps.refl s) t h
  | spdmHeartbeat => exact keeps_execSpdmHeartbeat (Keeps.refl s) t h
  | spdmKeyUpdate => exact keeps_execSpdmKeyUpdate (Keeps.refl s) t h
  | spdmVendorDefinedRequest => exact keeps_execSpdmVendorDefinedRequest (Keeps.refl s) t h
  | spdmChunkSend => exact keeps_execSpdmChunkSend (Keeps.refl s) t h
  | spdmChunkGet => exact keeps_execSpdmChunkGet (Keeps.refl s) t h
  | sparkArm => exact keeps_execSparkArm (Keeps.refl s) t h
  | sparkArmEffective => exact keeps_execSparkArmEffective (Keeps.refl s) t h
  | sparkDisarm => exact keeps_execSparkDisarm (Keeps.refl s) t h
  | sparkStatus => exact keeps_execSparkStatus (Keeps.refl s) t h
  | tallyRead => exact keeps_execTallyRead (Keeps.refl s) t h
  | tallyWrite => exact keeps_execTallyWrite (Keeps.refl s) t h
  | strainCompute => exact keeps_execStrainCompute (Keeps.refl s) t h
  | strainDayRollover => exact keeps_execStrainDayRollover (Keeps.refl s) t h
  | thermalCycleSample => exact keeps_execThermalCycleSample (Keeps.refl s) t h
  | rtcSet => exact keeps_execRtcSet (Keeps.refl s) t h
  | stragglerHoldExpiry => exact keeps_execStragglerHoldExpiry (Keeps.refl s) t h
  | meterSample => exact keeps_execMeterSample (Keeps.refl s) t h
  | meterRead => exact keeps_execMeterRead (Keeps.refl s) t h
  | meterCompositions => exact keeps_execMeterCompositions (Keeps.refl s) t h
  | meterProfile => exact keeps_execMeterProfile (Keeps.refl s) t h
  | meterResetTenant => exact keeps_execMeterResetTenant (Keeps.refl s) t h
  | healthStatus => exact keeps_execHealthStatus (Keeps.refl s) t h
  | healthEventRead => exact keeps_execHealthEventRead (Keeps.refl s) t h
  | healthConfig => exact keeps_execHealthConfig (Keeps.refl s) t h
  | healthFence => exact keeps_execHealthFence (Keeps.refl s) t h
  | healthRestrict => exact keeps_execHealthRestrict (Keeps.refl s) t h
  | healthEnable => exact keeps_execHealthEnable (Keeps.refl s) t h
  | healthUnretire => exact keeps_execHealthUnretire (Keeps.refl s) t h
  | healthDrain => exact keeps_execHealthDrain (Keeps.refl s) t h
  | healthDrainStatus => exact keeps_execHealthDrainStatus (Keeps.refl s) t h
  | healthDrainCancel => exact keeps_execHealthDrainCancel (Keeps.refl s) t h
  | drainCopyDone => exact keeps_execDrainCopyDone (Keeps.refl s) t h
  | drainRoundDone => exact keeps_execDrainRoundDone (Keeps.refl s) t h
  | drainQuiesced => exact keeps_execDrainQuiesced (Keeps.refl s) t h
  | quarantineDone => exact keeps_execQuarantineDone (Keeps.refl s) t h
  | thermalSample => exact keeps_execThermalSample (Keeps.refl s) t h
  | coolantFlowLowDetect => exact keeps_execCoolantFlowLowDetect (Keeps.refl s) t h
  | inputPowerFaultDetect => exact keeps_execInputPowerFaultDetect (Keeps.refl s) t h
  | powerLimitedDetect => exact keeps_execPowerLimitedDetect (Keeps.refl s) t h
  | actTimerExpiry => exact keeps_execActTimerExpiry (Keeps.refl s) t h
  | modStatus => exact keeps_execModStatus (Keeps.refl s) t h
  | modShutdown => exact keeps_execModShutdown (Keeps.refl s) t h
  | shutdownDrained => exact keeps_execShutdownDrained (Keeps.refl s) t h
  | modMgmtSet => exact keeps_execModMgmtSet (Keeps.refl s) t h
  | mgmtMctpPacket => exact keeps_execMgmtMctpPacket (Keeps.refl s) t h
  | smbusMctpPacket => exact keeps_execSmbusMctpPacket (Keeps.refl s) t h
  | mctpSetEndpointId => exact keeps_execMctpSetEndpointId (Keeps.refl s) t h
  | jtagInstruction => exact keeps_execJtagInstruction (Keeps.refl s) t h
  | undervoltageLockoutRelease => exact keeps_execUndervoltageLockoutRelease (Keeps.refl s) t h
  | functionLevelResetDone => exact keeps_execFunctionLevelResetDone (Keeps.refl s) t h
  | routerBypassDone => exact keeps_execRouterBypassDone (Keeps.refl s) t h
  | softRepairDone => exact keeps_execSoftRepairDone (Keeps.refl s) t h
  | cohWriteBack => exact keeps_execCohWriteBack (Keeps.refl s) t h

end Sys2Proof.Machine
end

