-- ==== Sys2Proof/WellFormed.lean ====
section
/-! DEFINITION. When a command's operands lie in the ranges that the manual's encodings give them. -/

namespace Sys2Proof

/-- An issuer that exists: 32 mailbox channels (R39), 262,144 rings (R51), node addresses and contexts of 12 bits. -/
def Issuer.wf : Issuer → Bool
  | .mailbox ch tag => decide (ch < 32) && decide (tag < 256)
  | .ring r => decide (r < 262144)
  | .remote n c d t => decide (n < 4096) && decide (c < 4096) && decide (d < 4096) && decide (t < 65536)
  | .firmware => true

/-- A submission descriptor whose fields fit (R53), with as many input bytes as a host buffer gives. -/
def Cmd.wf (c : Cmd) : Bool :=
  c.issuer.wf && decide (c.unit < 256) && decide (c.verb < 256) && decide (c.cid < 65536) && decide (c.inAddr < 2 ^ 64) && decide (c.outAddr < 2 ^ 64) &&
  decide (c.inLen < 2 ^ 32) && decide (c.outLen < 2 ^ 32) && (c.inDevice || c.input.length == c.inLen)

/-- A transport frame whose fields fit (R367). -/
def TFrame.wf (f : TFrame) : Bool :=
  decide (f.version < 16) && decide (f.typ < 16) && decide (f.srcNode < 4096) && decide (f.srcCtx < 4096) && decide (f.dstNode < 4096) && decide (f.dstCtx < 4096) &&
  decide (f.seq < 2 ^ 32) && decide (f.ackSeq < 2 ^ 32) && decide (f.op < 256) && decide (f.tag < 65536) && decide (f.job < 65536) && decide (f.window < 65536) &&
  decide (f.offset < 2 ^ 64) && decide (f.operand < 2 ^ 64) && decide (f.msgLen < 2 ^ 32) && decide (f.payload.length ≤ 8064)

/-- A link frame whose fields fit (R323). -/
def LFrame.wf (f : LFrame) : Bool := (f.kind == 0 || decide (8 ≤ f.kind ∧ f.kind < 16)) && decide (f.cls < 8) && decide (f.hopsLeft < 32) && decide (f.lseq < 4096) && decide (f.ackSeq < 4096) && decide (f.creditUnits < 2 ^ 16) && decide (f.creditClass < 8) && f.frame.wf

/-- A discovery message whose fields fit (R339). -/
def Disc.wf (d : Disc) : Bool := decide (d.addr < 4096) && decide (d.port < 16) && decide (d.queryId < 2 ^ 64) && decide (d.hopCount < 16) && decide (d.hopIndex < 16)

/-- An Ethernet frame whose fields fit (R337). -/
def EthFrame.wf (f : EthFrame) : Bool := decide (f.pcp < 8) && decide (f.dscp < 64) && decide (f.srcIp < 2 ^ 128) && f.frame.wf && f.disc.wf

/-- An Announce whose fields fit (R355, R361). -/
def PtpMsg.wf : PtpMsg → Bool
  | .announce ds => decide (ds.prio1 < 256) && decide (ds.quality < 2 ^ 32) && decide (ds.prio2 < 256) && decide (ds.id < 2 ^ 64) && decide (ds.steps < 2 ^ 16)
  | _ => true

/-- Whether a command is well formed. -/
def WellFormed (i : Instr) : Bool :=
  match i with
  | .pwrEnRise mv _ => decide (mv < 2 ^ 17)
  | .pwrEnFall => true
  | .railsStable _ _ => true
  | .perstDeassert _ _ _ => true
  | .perstAssert => true
  | .inputUndervoltage mv => decide (mv < 2 ^ 17)
  | .inputOvervoltage mv => decide (mv < 2 ^ 17)
  | .powerLoss => true
  | .fwAuthenticated => true
  | .ccsReady => true
  | .emberTrainingDone _ _ => true
  | .fieldSelfTestDone _ => true
  | .peatMountDone => true
  | .discoveryAccept => true
  | .fullService => true
  | .pcieConfigRequest reg w => (match reg with | .header off => decide (off < 0x40 ∧ off % 4 = 0) | _ => true) && (match w with | none => true | some v => decide (v < 2 ^ 32))
  | .functionLevelReset => true
  | .mbxInWrite ch _ _ => decide (ch < 32)
  | .paramWrite ch off _ _ => decide (ch < 32) && decide (off < 2 ^ 32)
  | .mbxOutRelease ch _ => decide (ch < 32)
  | .mctpMbxRequest _ _ _ _ _ => true
  | .mbxAccept ch => decide (ch < 32)
  | .mbxReplyPost ch => decide (ch < 32)
  | .fetchHoldWrite _ => true
  | .softRestart => true
  | .heartbeatTick => true
  | .aliasRead off size => decide (off < 2 ^ 32) && decide (size < 9)
  | .sowingWrite off size _ => decide (off < 2 ^ 32) && decide (size < 9)
  | .rcRead _ off size _ _ => decide (off < 2 ^ 32) && decide (size < 9)
  | .registerWrite _ off size _ _ _ => decide (off < 2 ^ 32) && decide (size < 9)
  | .malformedBarAccess _ off _ => decide (off < 2 ^ 32)
  | .dbSqTailWrite ring _ => decide (ring < 278528)
  | .dbCqHeadWrite ring _ => decide (ring < 278528)
  | .cloniSweep => true
  | .descriptorFetch ring passed _ _ => decide (ring < 278528) && passed.all (fun r => decide (r < 278528))
  | .commandComplete ring cid => decide (ring < 278528) && decide (cid < 65536)
  | .ringCoalTimeout ring => decide (ring < 278528)
  | .ringDmaFailure ring _ _ _ => decide (ring < 278528)
  | .lockstepMismatch => true
  | .cloniRestartDone => true
  | .capQuery ch => decide (ch < 32)
  | .clnEcho ch => decide (ch < 32)
  | .ringCreate ch => decide (ch < 32)
  | .ringDestroy ch => decide (ch < 32)
  | .ringReset ch => decide (ch < 32)
  | .ringQuery ch => decide (ch < 32)
  | .eventQueueCreate ch => decide (ch < 32)
  | .eventQueueDestroy ch => decide (ch < 32)
  | .ccsIndirect ch _ => decide (ch < 32)
  | .rateUpdate _ => true
  | .powerHoldAdjust mv _ _ sense => decide (mv < 2 ^ 17) && decide (sense.length = 4)
  | .fieldStatus c => c.wf
  | .fieldSupply c => c.wf
  | .fieldFence c => c.wf
  | .fieldRestrict c => c.wf
  | .fieldEnable c => c.wf
  | .fieldLoad c => c.wf
  | .fieldRun c => c.wf
  | .fieldStop c => c.wf
  | .fieldRunEnd ring cid _ _ => decide (ring < 278528) && decide (cid < 65536)
  | .rankRestart ring cid _ => decide (ring < 278528) && decide (cid < 65536)
  | .itemPlace => true
  | .itemCommit _ _ => true
  | .reserveJoin => true
  | .meshSend core thread dstCore dstThread tag _ => decide (core < 72) && decide (thread < 4) && decide (dstCore < 72) && decide (dstThread < 4) && decide (tag < 256)
  | .meshDeliver core thread dstCore dstThread => decide (core < 72) && decide (thread < 4) && decide (dstCore < 72) && decide (dstThread < 4)
  | .meshResend core thread dstCore dstThread => decide (core < 72) && decide (thread < 4) && decide (dstCore < 72) && decide (dstThread < 4)
  | .meshFlitError core => decide (core < 72)
  | .sramError core _ word _ => decide (core < 72) && decide (word < 1572864)
  | .coreStallDetect core => decide (core < 72)
  | .paceLowDetect core => decide (core < 72)
  | .coreSlowDetect core => decide (core < 72)
  | .reserveSelfTest core => decide (core < 72)
  | .reserveTestDone core _ => decide (core < 72)
  | .kilnAttend c => c.wf
  | .kilnRopeSet c => c.wf
  | .kilnRopeClear c => c.wf
  | .kilnAdmitSet c => c.wf
  | .kilnStatus c => c.wf
  | .residencyTimeout _ => true
  | .sheafFormat c => c.wf
  | .sheafFormatDrop c => c.wf
  | .sheafAppend c => c.wf
  | .sheafRead c => c.wf
  | .emberAccess eda _ _ _ _ => decide (eda < 824633720832)
  | .emberLineError eda _ _ => decide (eda < 824633720832)
  | .scrubStep chan _ _ => decide (chan < 384)
  | .ploughFill c => c.wf
  | .ploughCopy c => c.wf
  | .ploughLogic c => c.wf
  | .ploughFenceInstall _ chan => decide (chan < 384)
  | .ploughRowStep _ chan => decide (chan < 384)
  | .ploughComplete _ => true
  | .tierSeqCreate c => c.wf
  | .tierSeqFork c => c.wf
  | .tierSeqDestroy c => c.wf
  | .tierSeqTruncate c => c.wf
  | .tierRemap c => c.wf
  | .tierQuery c => c.wf
  | .tierPin c => c.wf
  | .tierUnpin c => c.wf
  | .tierFlush c => c.wf
  | .tierRegionAlloc c => c.wf
  | .tierRegionFree c => c.wf
  | .tierConfig c => c.wf
  | .tierStatus c => c.wf
  | .tierWear c => c.wf
  | .tierLossList c => c.wf
  | .tierLend c => c.wf
  | .tierReclaim c => c.wf
  | .tierBorrow c => c.wf
  | .tierReturn c => c.wf
  | .epochBoundary => true
  | .tailIdleExpiry _ => true
  | .writebackStart => true
  | .writebackDone _ _ _ _ => true
  | .journalRecordDone => true
  | .evictionPass => true
  | .evictionCommit _ => true
  | .allocationResume => true
  | .fetchStart => true
  | .fetchDone _ _ => true
  | .peatProgramFail _ => true
  | .peatControllerTimeout group => decide (group < 2)
  | .reclaimNoticeExpiry comp => decide (comp < 2 ^ 16)
  | .orphanExpiry comp => decide (comp < 2 ^ 16)
  | .allotmentZeroed allot => decide (allot < 640)
  | .compositionDrained comp => decide (comp < 2 ^ 16)
  | .charcoalCompress c => c.wf
  | .charcoalDecompress c => c.wf
  | .charcoalStatus c => c.wf
  | .seedLookup c => c.wf
  | .seedSearch flips => flips.all (fun e => decide (e.1 < 1048576))
  | .seedStep c => c.wf
  | .seedCensus c => c.wf
  | .seedInsert c => c.wf
  | .insertCommit bank => decide (bank < 64)
  | .seedDelete c => c.wf
  | .seedPost c => c.wf
  | .seedExport c => c.wf
  | .seedBankSet c => c.wf
  | .seedConfig c => c.wf
  | .seedStatus c => c.wf
  | .ageTick => true
  | .evictionEngineCommit => true
  | .cursorIdleExpiry cursor => decide (cursor < 4096)
  | .seedRateUpdate _ => true
  | .shadowCompare bank unit _ _ => decide (bank < 64) && decide (unit < 16384)
  | .gleanSwathCreate c => c.wf
  | .gleanSwathDrop c => c.wf
  | .gleanBind c => c.wf
  | .gleanSearch c => c.wf
  | .gleanBitmap c => c.wf
  | .gleanMerge c => c.wf
  | .gleanConfig c => c.wf
  | .gleanStatus c => c.wf
  | .listVisitStart swath _ => decide (swath < 4096)
  | .gleanSearchDone _ => true
  | .postingDequeue => true
  | .staleRepost => true
  | .mergeDone swath => decide (swath < 4096)
  | .linkDataReceive port f => decide (port < 16) && f.wf
  | .linkAckReceive port ackSeq => decide (port < 16) && decide (ackSeq < 2 ^ 16)
  | .linkNakReceive port ackSeq => decide (port < 16) && decide (ackSeq < 2 ^ 16)
  | .linkCreditReceive port cls _ => decide (port < 16) && decide (cls < 2 ^ 8)
  | .controlRetrain port width token lanes _ => decide (port < 16) && decide (width < 2 ^ 8) && decide (token < 2 ^ 16) && decide (lanes < 16)
  | .controlResize port width token lanes _ => decide (port < 16) && decide (width < 2 ^ 8) && decide (token < 2 ^ 16) && decide (lanes < 16)
  | .controlLaneLost port lanes => decide (port < 16) && decide (lanes < 16)
  | .controlAccept port width token lanes => decide (port < 16) && decide (width < 2 ^ 8) && decide (token < 2 ^ 16) && decide (lanes < 16)
  | .controlGo port width token lanes => decide (port < 16) && decide (width < 2 ^ 8) && decide (token < 2 ^ 16) && decide (lanes < 16)
  | .controlCreditInit port _ => decide (port < 16)
  | .notReadyReceive port _ _ => decide (port < 16)
  | .timeFrameReceive port domain m => decide (port < 18) && decide (domain < 256) && m.wf
  | .helloReceive port d => decide (port < 16) && d.wf
  | .queryReceive port d => decide (port < 16) && d.wf
  | .replyReceive port d => decide (port < 16) && d.wf
  | .claimReceive port _ d => decide (port < 16) && d.wf
  | .linkReplayTimeout port => decide (port < 16)
  | .linkAckTimer port => decide (port < 16)
  | .signalDetect port => decide (port < 16)
  | .linkTrainingDone port _ lanes _ => decide (port < 16) && decide (lanes < 16)
  | .trainingBackoffExpiry port => decide (port < 16)
  | .retrainDone port => decide (port < 16)
  | .resizeDone port => decide (port < 16)
  | .laneLoss port lane _ => decide (port < 16) && decide (lane < 4)
  | .laneBerSample port lane _ _ _ _ => decide (port < 16) && decide (lane < 4)
  | .laneRejoinTimer port lane => decide (port < 16) && decide (lane < 4)
  | .laneQuarantineDone port lane _ _ => decide (port < 16) && decide (lane < 4)
  | .helloTimer port => decide (port < 16)
  | .addrEffective => true
  | .routeSwap => true
  | .mcastDeadline mcast => decide (mcast < 2 ^ 16)
  | .mcastRetry mcast => decide (mcast < 2 ^ 16)
  | .ptpSyncTimer port => decide (port < 18)
  | .syncHoldoverTimeout port => decide (port < 16)
  | .ptmExchange _ => true
  | .ethFrameReceive port f => decide (port < 16) && f.wf
  | .pfcFrameReceive port cls _ => decide (port < 16) && decide (cls < 2 ^ 8)
  | .discoverTimeout _ => true
  | .olnenStatus c => c.wf
  | .olnenPortMode c => c.wf
  | .olnenRetrain c => c.wf
  | .olnenWidth c => c.wf
  | .olnenFence c => c.wf
  | .olnenRestrict c => c.wf
  | .olnenEnable c => c.wf
  | .olnenAddrSet c => c.wf
  | .olnenDiscover c => c.wf
  | .olnenRouteSet c => c.wf
  | .olnenRouteGet c => c.wf
  | .olnenMcastGroup c => c.wf
  | .olnenMcast c => c.wf
  | .olnenTime c => c.wf
  | .olnenConfig c => c.wf
  | .transportAckReceive f => f.wf
  | .nackGap f => f.wf
  | .nackResync f => f.wf
  | .nackBusy f => f.wf
  | .nackNoSlot f => f.wf
  | .nackNotHolder f => f.wf
  | .noticeShutdown f => f.wf
  | .noticeStookList f => f.wf
  | .opLoad f => f.wf
  | .opStore f => f.wf
  | .opAtomic f => f.wf
  | .opCounterAdd f => f.wf
  | .opCoreMsg f => f.wf
  | .opCommand f => f.wf
  | .loadData f => f.wf
  | .atomicOld f => f.wf
  | .opFault f => f.wf
  | .commandDoneMsg f => f.wf
  | .fallowBorrow f => f.wf
  | .fallowGrant f => f.wf
  | .fallowRefuse f => f.wf
  | .fallowReclaimNotice f => f.wf
  | .fallowReturn f => f.wf
  | .fallowReleased f => f.wf
  | .fallowProbe f => f.wf
  | .fallowProbeTimer _ => true
  | .cohGetS f => f.wf
  | .cohGetM f => f.wf
  | .cohPutM f => f.wf
  | .cohRecall f => f.wf
  | .cohInv f => f.wf
  | .cohInvAck f => f.wf
  | .cohData f => f.wf
  | .rtoTimeout ctx node rctx => decide (ctx < 4096) && decide (node < 4096) && decide (rctx < 4096)
  | .transportAckTimer ctx node rctx => decide (ctx < 4096) && decide (node < 4096) && decide (rctx < 4096)
  | .slotRecycle ctx node rctx => decide (ctx < 4096) && decide (node < 4096) && decide (rctx < 4096)
  | .tombstoneExpiry ctx node rctx => decide (ctx < 4096) && decide (node < 4096) && decide (rctx < 4096)
  | .flagSend tag => decide (tag < 256)
  | .remoteCommandAccept ctx passed => decide (ctx < 4096) && passed.all (fun r => decide (r < 278528))
  | .fieldRemoteAccess core thread node rctx job window _ _ _ _ _ => decide (core < 72) && decide (thread < 4) && decide (node < 4096) && decide (rctx < 4096) && decide (job < 65536) && decide (window < 65536)
  | .olnenRemote c => c.wf
  | .olnenPut c => c.wf
  | .olnenGet c => c.wf
  | .olnenAtomic c => c.wf
  | .olnenFlag c => c.wf
  | .olnenMsg c => c.wf
  | .olnenJobSet c => c.wf
  | .olnenWindowOpen c => c.wf
  | .olnenWindowClose c => c.wf
  | .olnenCounterAlloc c => c.wf
  | .olnenCounterWait c => c.wf
  | .counterWaitTimeout ring cid => decide (ring < 278528) && decide (cid < 65536)
  | .olnenStookSet c => c.wf
  | .olnenFlowStatus c => c.wf
  | .portTransmitPick port => decide (port < 16)
  | .wheelSlotRelease inst => decide (inst < 2 ^ 16)
  | .rotationEntryEnd inst => decide (inst < 2 ^ 16)
  | .rotationTakeover inst => decide (inst < 2 ^ 16)
  | .rotationStopAt inst => decide (inst < 2 ^ 16)
  | .headlandStatus c => c.wf
  | .headlandClassSet c => c.wf
  | .headlandQueueSet c => c.wf
  | .headlandRotation c => c.wf
  | .headlandRotationStop c => c.wf
  | .contextCreate c => c.wf
  | .contextDestroy c => c.wf
  | .contextPark c => c.wf
  | .contextReside c => c.wf
  | .contextQuery c => c.wf
  | .keyLoad c _ => c.wf
  | .keyErase c => c.wf
  | .keyQuery c => c.wf
  | .keyBindJob c => c.wf
  | .keyShadowDiscard slot => decide (slot < 2 ^ 12)
  | .secConfig c => c.wf
  | .fwStage c => c.wf
  | .fwActivate c _ => c.wf
  | .fwCommit c => c.wf
  | .fwStatus c _ => c.wf
  | .fwEraseBank c => c.wf
  | .spdmGetVersion _ => true
  | .spdmGetCapabilities _ _ => true
  | .spdmNegotiateAlgorithms _ _ => true
  | .spdmGetDigests _ => true
  | .spdmGetCertificate _ slot _ _ => decide (slot < 2 ^ 16)
  | .spdmChallenge _ slot _ => decide (slot < 2 ^ 16)
  | .spdmGetMeasurements _ _ _ _ => true
  | .spdmKeyExchange _ _ _ => true
  | .spdmFinish _ _ _ => true
  | .spdmEndSession _ _ => true
  | .spdmHeartbeat _ _ => true
  | .spdmKeyUpdate _ _ _ => true
  | .spdmVendorDefinedRequest _ _ _ _ stream => decide (stream < 256)
  | .spdmChunkSend _ handle _ _ _ => decide (handle < 2 ^ 16)
  | .spdmChunkGet _ handle _ => decide (handle < 2 ^ 16)
  | .sparkArm c => c.wf
  | .sparkArmEffective handle => decide (handle < 64)
  | .sparkDisarm c => c.wf
  | .sparkStatus c => c.wf
  | .tallyRead c => c.wf
  | .tallyWrite => true
  | .strainCompute => true
  | .strainDayRollover => true
  | .thermalCycleSample _ => true
  | .rtcSet => true
  | .stragglerHoldExpiry => true
  | .meterSample => true
  | .meterRead c => c.wf
  | .meterCompositions c => c.wf
  | .meterProfile c => c.wf
  | .meterResetTenant c => c.wf
  | .healthStatus c => c.wf
  | .healthEventRead c => c.wf
  | .healthConfig c => c.wf
  | .healthFence c => c.wf
  | .healthRestrict c => c.wf
  | .healthEnable c => c.wf
  | .healthUnretire c => c.wf
  | .healthDrain c _ _ _ _ _ => c.wf
  | .healthDrainStatus c => c.wf
  | .healthDrainCancel c => c.wf
  | .drainCopyDone _ => true
  | .drainRoundDone _ => true
  | .drainQuiesced _ => true
  | .quarantineDone cls inst _ _ => decide (cls < 2 ^ 8) && decide (inst < 2 ^ 16)
  | .thermalSample _ _ sense => decide (sense.length = 4)
  | .coolantFlowLowDetect _ => true
  | .inputPowerFaultDetect mv _ => decide (mv < 2 ^ 17)
  | .powerLimitedDetect => true
  | .actTimerExpiry _ => true
  | .modStatus c => c.wf
  | .modShutdown c => c.wf
  | .shutdownDrained => true
  | .modMgmtSet c => c.wf
  | .mgmtMctpPacket port _ _ _ => decide (port < 16)
  | .smbusMctpPacket _ _ _ => true
  | .mctpSetEndpointId _ _ => true
  | .jtagInstruction ir => decide (ir < 2 ^ 8)
  | .undervoltageLockoutRelease mv => decide (mv < 2 ^ 17)
  | .functionLevelResetDone => true
  | .routerBypassDone core => decide (core < 72)
  | .softRepairDone chan row => decide (chan < 384) && decide (row < 2 ^ 21)
  | .cohWriteBack f => f.wf

end Sys2Proof
end

