-- ==== Sys2Proof/Tests/Slice0.lean ====
section
/-! SUPPORT. The package's own tests: ill-formed commands that the check refuses, worked examples of the manual, and witnesses that the hypotheses of the certificate's statements can be met. -/

namespace Sys2Proof.Tests
open Sys2Proof Sys2Proof.Machine

set_option Elab.async false

/-- The block in full service. -/
def up : State :=
  { cln := { phase := .fullService, ready := true, fwAuthed := true }, emb := { trained := true }, tir := { mounted := true }, mod := { running := true, fieldTested := true }, oln := { accepts := true, addr := some 5 } }

/-- A command on the secure channel 0: its ARGS as (byte, value), its input, room for 1 MiB of output in host memory. -/
def cmd (unit verb : Nat) (args : List (Nat × Nat)) (input : List Byte := []) (outLen : Nat := 2 ^ 20) : Cmd :=
  { issuer := .mailbox 0 7, unit := unit, verb := verb, cid := 0, fence := false, noIrq := false, inDevice := false, outDevice := false, reserved := 0,
    inAddr := 0, inLen := input.length, outLen := outLen, outAddr := 0, args := BitVec.ofNat 256 (sumN (args.map (fun a => a.2 * 2 ^ (8 * (a.1 - 32))))), input := input }

/-- A plain IDE tag. -/
def noIde : IdeTag := { stream := 0, secure := false }

/-- The block with a word accepted on channel 8. -/
def word (op arg : Nat) (param : List Byte := zeros 256) (s : State := up) : State := setMbx 8 { accepted := [{ word := BitVec.ofNat 64 (arg + op * 2 ^ 56), param := param, oid := 3, acc := {} }] } s

/-- A ring with 16 entries each, of context 1, with one descriptor to fetch. -/
def ring : Ring := { state := .active, sqLog2 := 4, cqLog2 := 4, ctx := 1, tail := 1, noVector := true }

/-- A context with every right, and its contexts' table. -/
def ctx1 : Ctx := {}
def withCtx (s : State := up) : State := { s with sec := { s.sec with ctxs := [(1, ctx1)] } }

/-- A raw format with one head of 64 elements, a sequence with one sheaf of one token, and its body. -/
def fmtA : Format := { ctx := 0, form := 4, heads := 1, dim := 64, kGroup := 32, vGroup := 32, headroom := 1, escRatio := 0, kBook := [], vBook := [] }
def seqA (es : Tbl Entry := [(0, { basePos := 0, tokens := 1, promised := 0, body := 0 })]) : Seq := { ctx := 0, layers := 1, groups := 1, formats := [0], prot := false, startPos := 0, entries := [(0, es)] }
def bodyA : Body := { state := .hot, dirty := true, refs := 1, lastUse := 0, fmt := 0, eda := 0, chunks := 16, tokens := 1, prot := false, ctx := 0 }
def sheafUp (b : Body := bodyA) : State := { up with kln := { formats := [(0, fmtA)] }, tir := { up.tir with seqs := [(1, seqA)], bodies := [(0, b)], nextBody := 1 } }

/-- A dense KILN.ATTEND of one row over it, as the block holds it. -/
def attendCmd : Cmd := { cmd 3 1 [(32, 1), (39, 8), (48, 1), (50, 1), (52, 0xFF), (55, 1)] with inLen := 4096 }
def attendA (cells : Nat := 0) : Attend := { cmd := attendCmd, ctx := 0, seq := 1, layer := 0, group := 0, fmt := fmtA, views := viewsOf sheafUp 7 [] 1 seqA 0 0, rope := none, items := cells }

/-- Channels in SERVICE, and Ember's regions as one of 64 chunks. -/
def chansUp (c : Chan := { state := .service }) : State := { up with emb := { up.emb with chans := [(0, c)] }, tir := { up.tir with regions := [(1, { ctx := 0, eda := 0, chunks := 1024, frames := false, prot := false })] } }

/-- A plough command with device buffers in region 1. -/
def ploughCmd (verb : Nat) (args : List (Nat × Nat)) (outOff inOff : Nat) : Cmd :=
  { cmd 5 verb ((35, 1) :: args) with inDevice := true, outDevice := true, outLen := 0, outAddr := 2 ^ 40 + outOff, inAddr := 2 ^ 40 + inOff }

/-- A plough operation of one row of channel 0. -/
def ploughA (fenced : List Nat := []) (done : Tbl (List Nat) := []) : Plough := { oid := some 7, kind := .fill 0, frames := false, dst := 0, srcA := 0, srcB := 0, count := 1, chans := [0], fenced := fenced, done := done }

/-- A port to node 9. -/
def fab : State := { up with oln := { up.oln with ports := [(0, { state := .active })], routes := [(9, 1)] } }

/-- A DATA frame from node 9 that opens its flow, in one piece. -/
def frame (op flags : Nat) (len : Nat := 0) (operand : Nat := 0) (payload : List Byte := []) : TFrame :=
  { blankFrame with syn := true, last := true, srcNode := 9, dstNode := 5, op := op, opFlags := flags, msgLen := len, operand := operand, payload := payload }

/-- A block of variant C with every channel in SERVICE, and its first allotment. -/
def offerUp : State := { up with fuse := { up.fuse with variant := .c }, emb := { up.emb with chans := (List.range 192).map (fun m => (m, { state := .service })) } }
def offerNext : State := orderState (cmd 6 0x30 [(32, 1)]) offerUp
theorem offer_fits : (addAllots 1 offerNext).isSome = true := by decide +kernel

/-- A body in Peat and its fetch. -/
def fetchFrom : State := { sheafUp { bodyA with state := .cold, dirty := false, coldKind := .peat, chunks := 0 } with fuse := offerUp.fuse, emb := offerUp.emb, tir := { (sheafUp { bodyA with state := .cold, dirty := false, coldKind := .peat, chunks := 0 }).tir with peat := [(0, { bytes := [], esc := [], escCount := 0, tokens := 1 })], demand := [{ body := 0, by_ := 3 }] } }
theorem fetch_starts : (startFetch 0 fetchFrom).isSome = true := by decide +kernel

/-- A CHARCOAL stream of one CONST block of two elements: the header of R251, INDEX, the block header of R253, the residues. -/
def charcoalStream : List Byte := [0x43, 0x48, 0x52, 0x4C, 1, 0, 0, 0, 4, 0, 0, 0, 0, 0, 0, 0, 1, 0, 0, 0] ++ zeros 12 ++ [5, 0, 0, 0, 0, 0, 0, 0] ++ [2, 0x3F, 2, 0, 0, 0, 0, 0, 24, 0, 0, 0, 0, 0, 0, 0] ++ [0x80, 0x80, 0, 0, 0, 0, 0, 0]

/-- A bank, its entry, and a block that holds the bank. -/
def seedEntry : SeedEntry := { key := 5, prio := 0, pinned := false, auto := false, result := zeros 16 }
def bankUp (x : Bank := { ctx := 0, width := 1, entries := [(0, seedEntry)] }) : State := { up with sdb := { up.sdb with banks := [(63, x)] } }
def jobUp (k : SearchKind) : State := { bankUp with sdb := { bankUp.sdb with jobs := [{ oid := 7, ctx := 0, width := 1, kind := k, keys := [(5, 0xFF)] }], cursors := [(2, { ctx := 0, width := 1, key := 5, mask := 0xFF, last := 0, time := 0 })] }, cln := { up.cln with inflight := [(7, cmd 8 1 [])] } }

/-- A MEM key in slot 0. -/
def keyA : KeySlot := { usage := 1, owner := 0, group := 0, generation := 1, key := zeros 32 }

/-- A swath of 64 dimensions and 1,024 items. -/
def swathA : Swath := { ctx := 0, pooled := false, dims := 64, listsLog2 := 0, itemsLog2 := 10, nprobe := 0, screen := 0, rerank := 1, waves := 1, step := 16, mean := [], proj := [], coarse := [], pq := [], bytes := 0 }
def swathUp (w : Swath := swathA) : State := { sheafUp with gln := { up.gln with swaths := [(3, w)] }, tir := { sheafUp.tir with regions := [(1, { ctx := 0, eda := 0, chunks := 1024, frames := false, prot := false }), (2, { ctx := 0, eda := 2 ^ 20, chunks := 1024, frames := false, prot := true })] } }

/-- A triple whose middle is there. -/
theorem some_middle {α β γ : Type} (r : α × Option β × γ) (h : r.2.1.isSome = true) : r = (r.1, some (r.2.1.get h), r.2.2) := by
  obtain ⟨a, b, c⟩ := r
  cases b with
  | none => cases h
  | some x => rfl

/-- A KILN.ATTEND that asks Gleaner for one item, over a swath that holds the one sheaf. -/
def gleanCmd : Cmd := { cmd 3 1 [(32, 1), (39, 4), (45, 1), (46, 1), (48, 1), (50, 1), (52, 0xFF), (55, 1)] with inLen := 4096 }
def gleanVer : GVersion := { tokens := 1, summary := [], sketch := 0, list := 0, code := [] }
def gleanUp : State := { swathUp { swathA with coarse := [List.replicate 64 0], items := [(0, { seq := 1, layer := 0, group := 0, idx := 0, basePos := 0, versions := [gleanVer] })] } with gln := { (swathUp { swathA with coarse := [List.replicate 64 0], items := [(0, { seq := 1, layer := 0, group := 0, idx := 0, basePos := 0, versions := [gleanVer] })] }).gln with bindings := [(4096, { swath := 3, filter := 0, deny := false })] } }
def gleanNote : AttendNote := { unposted := [], rope := none, search := some { swath := 3, deny := false, map := none, cands := [{ slot := 0, item := { seq := 1, layer := 0, group := 0, idx := 0, basePos := 0, versions := [gleanVer] }, ver := gleanVer }] } }
def gleanRes : List Nat × Option GSearch × State :=
  attendSearch (orderState gleanCmd gleanUp).cln.current (cmdRead gleanCmd gleanUp) fmtA (argU (cmdRead gleanCmd gleanUp) 32 4) (argBits (cmdRead gleanCmd gleanUp) 36 0 12) seqA gleanNote.search (orderState gleanCmd gleanUp)
theorem glean_found : gleanRes.2.1.isSome = true := by decide +kernel
theorem glean_eq : gleanRes = (gleanRes.1, some (gleanRes.2.1.get glean_found), gleanRes.2.2) := some_middle gleanRes glean_found
theorem glean_checks : (attendChecks (cmdRead gleanCmd gleanUp) (orderState gleanCmd gleanUp)).toOption = some (seqA, fmtA, gleanNote) := by decide +kernel
theorem glean_left : (gleanRes.2.1.get glean_found).todo ≠ [] := by decide +kernel

/-- A sound link frame of kind 0, the first of its link. -/
def link0 : LFrame := { kind := 0, cls := 0, hopsLeft := 0, lseq := 0, ackSeq := 0, ackValid := false, creditUnits := 0, creditClass := 0, crcOk := true, frame := frame 1 0 }

/-- Port 2 in a state. -/
def portUp (x : Port := { state := .active }) : State := { up with oln := { up.oln with ports := [(2, x)] } }
def disc (epoch : Nat := 1) : Disc := { version := 1, addr := 9, addrValid := true, epoch := epoch, uid := 99, port := 3, variant := 0, standIn := false, stook := 0, fieldGroup := 0, queryId := 7, route := 0, ret := 0, hopCount := 0, hopIndex := 0, body := [] }
def eth (kind : EthKind) : EthFrame := { macOk := true, ipOk := true, portOk := true, sumsOk := true, len := 100, tagged := true, pcp := 0, dscp := 0, srcIp := 1, kind := kind, frame := frame 1 0, disc := disc }
def mcastA (ended : Bool) (tries : Nat := 0) : Mcast := { oid := 7, ctx := 0, srcCtx := 0, group := 3, cid := 0, cls := 0, message := zeros 64, members := [(9, 0)], status := [none], attempts := [1], deadline := 0, ended := ended, tries := tries }

/-- The block with job 4, a window 6, a coherent window 7, counter 8 and a stook of the two nodes. -/
def winUp : State :=
  { fab with emb := chansUp.emb, tir := chansUp.tir, trn := { up.trn with jobs := [(4, { ctx := 0, command := true, members := [(9, 0)] })], windows := [(6, { ctx := 0, job := 4, region := 1, off := 0, len := 4096, read := true, write := true, atomic := true, coherent := false }), (7, { ctx := 0, job := 4, region := 1, off := 8192, len := 4096, read := true, write := true, atomic := true, coherent := true, dir := [(0, 512 + 1)] })], counterOwner := [(8, 0)], members := [5, 9] } }
def access (op : Nat) (off operand : Nat) (payload : List Byte := []) (window : Nat := 6) : TFrame := { frame op 0 0xFFFF operand payload with job := 4, window := window, offset := off }

/-- A flow slot with node 9, and operation 3 on it. -/
def slotA : Slot := { cwnd := 4096, peerBoot := some 0 }
def slotUp (x : Slot := slotA) : State := { winUp with trn := { winUp.trn with slots := [(slotKey 0 9 0, x)] } }
def opUp (kind : OpKind) (owner : OpOwner := .cmd 7 0) : State := { winUp with trn := { winUp.trn with ops := [(3, { kind := kind, owner := owner, ctx := 0, key := slotKey 0 9 0 })], xfers := [(7, { left := 1, segs := 1 })] }, cln := { up.cln with inflight := [(7, cmd 10 0x30 [])] } }
def reply (op status : Nat) (payload : List Byte := []) : TFrame := { frame op 0 0 0 payload with tag := 3, status := status }
def data1 : OutFrame := { frame := frame 1 0, cls := 0 }

/-- An arm of spark 0x0802. -/
def armA : Arm := { spark := 0x0802, inst := 0xFFFF, mode := 0, n := 0, delayUs := 0, value := 0, fires := 0, issuer := 0, mgmt := none, from_ := 0, effective := false, bytes := [] }

/-- What an answer holds, read through its option. -/
theorem ok_of_option {ε α : Type} {x : Except ε α} {a : α} (h : x.toOption = some a) : x = .ok a := by
  cases x with
  | error e => cases h
  | ok b => cases h; rfl

/-! WellFormed refuses an ill-formed term of each check. -/

/-- A well-formed command, and one with a unit code of nine bits. -/
def cmd0 : Cmd := cmd 0 0 []
def badCmd : Cmd := { cmd0 with unit := 256 }

/-- A well-formed transport frame and link frame, and ill-formed frames of each kind. -/
def frame0 : TFrame := frame 1 0
def badFrame : TFrame := { frame0 with version := 16 }
def badLink : LFrame := { link0 with cls := 8 }
def disc0 : Disc := disc
def badDisc : Disc := { disc0 with addr := 4096 }
def eth0 : EthFrame := eth .transport
def badEth : EthFrame := { eth0 with pcp := 8 }

theorem test_wf_command : ([{ cmd0 with issuer := .mailbox 32 0 }, { cmd0 with issuer := .mailbox 0 256 }, { cmd0 with issuer := .ring 262144 }, { cmd0 with issuer := .remote 4096 0 0 0 },
    { cmd0 with issuer := .remote 0 4096 0 0 }, { cmd0 with issuer := .remote 0 0 4096 0 }, { cmd0 with issuer := .remote 0 0 0 65536 }, badCmd, { cmd0 with verb := 256 }, { cmd0 with cid := 65536 },
    { cmd0 with inAddr := 2 ^ 64 }, { cmd0 with outAddr := 2 ^ 64 }, { cmd0 with inDevice := true, inLen := 2 ^ 32 }, { cmd0 with outLen := 2 ^ 32 }, { cmd0 with inLen := 1 }] : List Cmd).all (fun c => !c.wf) = true := by decide

theorem test_wf_frames : ([badFrame, { frame0 with typ := 16 }, { frame0 with srcNode := 4096 }, { frame0 with srcCtx := 4096 }, { frame0 with dstNode := 4096 }, { frame0 with dstCtx := 4096 }, { frame0 with seq := 2 ^ 32 },
    { frame0 with ackSeq := 2 ^ 32 }, { frame0 with op := 256 }, { frame0 with tag := 65536 }, { frame0 with job := 65536 }, { frame0 with window := 65536 }, { frame0 with offset := 2 ^ 64 },
    { frame0 with operand := 2 ^ 64 }, { frame0 with msgLen := 2 ^ 32 }] : List TFrame).all (fun f => !f.wf) = true := by decide

theorem test_wf_payload : ({ frame0 with payload := zeros 8065 } : TFrame).wf = false := by decide +kernel

theorem test_wf_carriers : (([badLink, { link0 with hopsLeft := 256 }, { link0 with lseq := 65536 }, { link0 with kind := 16 }, { link0 with kind := 7 }, { link0 with frame := badFrame }] : List LFrame).all (fun f => !f.wf) &&
    ([badDisc, { disc0 with port := 16 }, { disc0 with queryId := 2 ^ 64 }, { disc0 with hopCount := 16 }, { disc0 with hopIndex := 16 }] : List Disc).all (fun f => !f.wf) &&
    ([badEth, { eth0 with dscp := 64 }, { eth0 with srcIp := 2 ^ 128 }, { eth0 with frame := badFrame }, { eth0 with disc := badDisc }] : List EthFrame).all (fun f => !f.wf)) = true := by decide

/-- A clock whose priority 1 is its only field that is not 0. -/
def clock0 (prio1 : Nat := 0) : ClockDs := { prio1 := prio1, quality := 0, prio2 := 0, id := 0, steps := 0 }

theorem test_wf_clocks : ([clock0 256, { clock0 with quality := 2 ^ 32 }, { clock0 with prio2 := 256 }, { clock0 with id := 2 ^ 64 }, { clock0 with steps := 2 ^ 16 }] : List ClockDs).all (fun d => !PtpMsg.wf (.announce d)) = true := by decide

theorem test_wf_accepts : (cmd0.wf && frame0.wf && link0.wf && disc0.wf && eth0.wf) = true := by decide

theorem test_wf_fields_1 : ([.fieldStatus badCmd, .fieldSupply badCmd, .fieldFence badCmd, .fieldRestrict badCmd, .fieldEnable badCmd, .fieldLoad badCmd, .fieldRun badCmd,
    .fieldStop badCmd, .kilnAttend badCmd, .kilnRopeSet badCmd, .kilnRopeClear badCmd, .kilnAdmitSet badCmd, .kilnStatus badCmd, .sheafFormat badCmd,
    .sheafFormatDrop badCmd, .sheafAppend badCmd, .sheafRead badCmd, .ploughFill badCmd, .ploughCopy badCmd, .ploughLogic badCmd, .tierSeqCreate badCmd,
    .tierSeqFork badCmd, .tierSeqDestroy badCmd, .tierSeqTruncate badCmd, .tierRemap badCmd, .tierQuery badCmd, .tierPin badCmd, .tierUnpin badCmd,
    .tierFlush badCmd, .tierRegionAlloc badCmd, .tierRegionFree badCmd, .tierConfig badCmd, .tierStatus badCmd, .tierWear badCmd, .tierLossList badCmd,
    .tierLend badCmd, .tierReclaim badCmd, .tierBorrow badCmd, .tierReturn badCmd, .charcoalCompress badCmd, .charcoalDecompress badCmd,
    .charcoalStatus badCmd, .seedLookup badCmd, .seedStep badCmd, .seedCensus badCmd, .seedInsert badCmd, .seedDelete badCmd, .seedPost badCmd,
    .seedExport badCmd, .seedBankSet badCmd, .seedConfig badCmd, .seedStatus badCmd, .gleanSwathCreate badCmd, .gleanSwathDrop badCmd, .gleanBind badCmd,
    .gleanSearch badCmd, .gleanBitmap badCmd, .gleanMerge badCmd, .gleanConfig badCmd, .gleanStatus badCmd] : List Instr).all (fun i => !WellFormed i) = true := by decide

theorem test_wf_fields_2 : ([.linkDataReceive 0 badLink, .helloReceive 0 badDisc, .queryReceive 0 badDisc, .replyReceive 0 badDisc, .claimReceive 0 0 badDisc,
    .ethFrameReceive 0 badEth, .olnenStatus badCmd, .olnenPortMode badCmd, .olnenRetrain badCmd, .olnenWidth badCmd, .olnenFence badCmd,
    .olnenRestrict badCmd, .olnenEnable badCmd, .olnenAddrSet badCmd, .olnenDiscover badCmd, .olnenRouteSet badCmd, .olnenRouteGet badCmd,
    .olnenMcastGroup badCmd, .olnenMcast badCmd, .olnenTime badCmd, .olnenConfig badCmd, .transportAckReceive badFrame, .nackGap badFrame,
    .nackResync badFrame, .nackBusy badFrame, .nackNoSlot badFrame, .nackNotHolder badFrame, .noticeShutdown badFrame, .noticeStookList badFrame,
    .opLoad badFrame, .opStore badFrame, .opAtomic badFrame, .opCounterAdd badFrame, .opCoreMsg badFrame, .opCommand badFrame, .loadData badFrame,
    .atomicOld badFrame, .opFault badFrame, .commandDoneMsg badFrame, .fallowBorrow badFrame, .fallowGrant badFrame, .fallowRefuse badFrame,
    .fallowReclaimNotice badFrame, .fallowReturn badFrame, .fallowReleased badFrame, .fallowProbe badFrame, .cohGetS badFrame, .cohGetM badFrame,
    .cohPutM badFrame, .cohRecall badFrame, .cohInv badFrame, .cohInvAck badFrame, .cohData badFrame, .olnenRemote badCmd, .olnenPut badCmd,
    .olnenGet badCmd, .olnenAtomic badCmd, .olnenFlag badCmd, .olnenMsg badCmd, .olnenJobSet badCmd] : List Instr).all (fun i => !WellFormed i) = true := by decide

theorem test_wf_fields_3 : ([.olnenWindowOpen badCmd, .olnenWindowClose badCmd, .olnenCounterAlloc badCmd, .olnenCounterWait badCmd, .olnenStookSet badCmd, .olnenFlowStatus badCmd,
    .headlandStatus badCmd, .headlandClassSet badCmd, .headlandQueueSet badCmd, .headlandRotation badCmd, .headlandRotationStop badCmd,
    .contextCreate badCmd, .contextDestroy badCmd, .contextPark badCmd, .contextReside badCmd, .contextQuery badCmd, .keyLoad badCmd none,
    .keyErase badCmd, .keyQuery badCmd, .keyBindJob badCmd, .secConfig badCmd, .fwStage badCmd, .fwActivate badCmd false, .fwCommit badCmd,
    .fwStatus badCmd false, .fwEraseBank badCmd, .sparkArm badCmd, .sparkDisarm badCmd, .sparkStatus badCmd, .tallyRead badCmd, .meterRead badCmd,
    .meterCompositions badCmd, .meterProfile badCmd, .meterResetTenant badCmd, .healthStatus badCmd, .healthEventRead badCmd, .healthConfig badCmd,
    .healthFence badCmd, .healthRestrict badCmd, .healthEnable badCmd, .healthUnretire badCmd, .healthDrain badCmd false false false false [],
    .healthDrainStatus badCmd, .healthDrainCancel badCmd, .modStatus badCmd, .modShutdown badCmd, .modMgmtSet badCmd, .cohWriteBack badFrame] : List Instr).all (fun i => !WellFormed i) = true := by decide

theorem test_wf_ranges_1 : ([.pwrEnRise (2 ^ 17) [], .inputUndervoltage (2 ^ 17), .inputOvervoltage (2 ^ 17), .pcieConfigRequest (.header 2) none,
    .pcieConfigRequest .deviceCap (some (2 ^ 32)), .mbxInWrite 32 0 noIde, .paramWrite 32 0 [] noIde, .paramWrite 0 (2 ^ 32) [] noIde,
    .mbxOutRelease 32 noIde, .mbxAccept 32, .mbxReplyPost 32, .aliasRead (2 ^ 32) 0, .aliasRead 0 9, .sowingWrite (2 ^ 32) 0 0, .sowingWrite 0 9 0,
    .rcRead .b0 (2 ^ 32) 0 0 noIde, .rcRead .b0 0 9 0 noIde, .registerWrite .b0 (2 ^ 32) 0 0 0 noIde, .registerWrite .b0 0 9 0 0 noIde,
    .malformedBarAccess .b0 (2 ^ 32) false, .dbSqTailWrite 278528 0, .dbCqHeadWrite 278528 0, .descriptorFetch 278528 [] [] [],
    .descriptorFetch 0 [278528] [] [], .commandComplete 278528 0, .commandComplete 0 65536, .ringCoalTimeout 278528,
    .ringDmaFailure 278528 false none false, .capQuery 32, .clnEcho 32, .ringCreate 32, .ringDestroy 32, .ringReset 32, .ringQuery 32,
    .eventQueueCreate 32, .eventQueueDestroy 32, .ccsIndirect 32 [], .powerHoldAdjust (2 ^ 17) 0 0 [700, 700, 700, 700], .powerHoldAdjust 0 0 0 [700],
    .fieldRunEnd 278528 0 0 false, .fieldRunEnd 0 65536 0 false, .rankRestart 278528 0 0, .rankRestart 0 65536 0, .meshSend 72 0 0 0 0 [],
    .meshSend 0 4 0 0 0 [], .meshSend 0 0 72 0 0 [], .meshSend 0 0 0 4 0 [], .meshSend 0 0 0 0 256 [], .meshDeliver 72 0 0 0, .meshDeliver 0 4 0 0,
    .meshDeliver 0 0 72 0, .meshDeliver 0 0 0 4, .meshResend 72 0 0 0, .meshResend 0 4 0 0, .meshResend 0 0 72 0, .meshResend 0 0 0 4, .meshFlitError 72,
    .sramError 72 false 0 none, .sramError 0 false 1572864 none, .coreStallDetect 72] : List Instr).all (fun i => !WellFormed i) = true := by decide

theorem test_wf_ranges_2 : ([.paceLowDetect 72, .coreSlowDetect 72, .reserveSelfTest 72, .reserveTestDone 72 false, .emberAccess 824633720832 false [] false [],
    .emberLineError 824633720832 false false, .scrubStep 384 [] [], .ploughFenceInstall 0 384, .ploughRowStep 0 384, .peatControllerTimeout 2,
    .reclaimNoticeExpiry (2 ^ 16), .orphanExpiry (2 ^ 16), .allotmentZeroed 640, .compositionDrained (2 ^ 16), .seedSearch [(1048576, 1)],
    .insertCommit 64, .cursorIdleExpiry 4096, .shadowCompare 64 0 0 false, .shadowCompare 0 16384 0 false, .listVisitStart 4096 0, .mergeDone 4096,
    .linkDataReceive 16 link0, .linkAckReceive 16 0, .linkAckReceive 0 (2 ^ 16), .linkNakReceive 16 0, .linkNakReceive 0 (2 ^ 16),
    .linkCreditReceive 16 0 0, .linkCreditReceive 0 (2 ^ 8) 0, .controlRetrain 16 0 0 0 0, .controlRetrain 0 (2 ^ 8) 0 0 0,
    .controlRetrain 0 0 (2 ^ 16) 0 0, .controlRetrain 0 0 0 16 0, .controlResize 16 0 0 0 0, .controlResize 0 (2 ^ 8) 0 0 0,
    .controlResize 0 0 (2 ^ 16) 0 0, .controlResize 0 0 0 16 0, .controlLaneLost 16 0, .controlLaneLost 0 16, .controlAccept 16 0 0 0,
    .controlAccept 0 (2 ^ 8) 0 0, .controlAccept 0 0 (2 ^ 16) 0, .controlAccept 0 0 0 16, .controlGo 16 0 0 0, .controlGo 0 (2 ^ 8) 0 0,
    .controlGo 0 0 (2 ^ 16) 0, .controlGo 0 0 0 16, .controlCreditInit 16 [], .notReadyReceive 16 0 0, .timeFrameReceive 18 0 (.delay 0),
    .timeFrameReceive 0 256 (.delay 0), .timeFrameReceive 0 0 (.announce (clock0 256)), .helloReceive 16 disc0, .queryReceive 16 disc0,
    .replyReceive 16 disc0, .claimReceive 16 0 disc0, .linkReplayTimeout 16, .linkAckTimer 16, .signalDetect 16, .linkTrainingDone 16 false 0 false,
    .linkTrainingDone 0 false 16 false] : List Instr).all (fun i => !WellFormed i) = true := by decide

theorem test_wf_ranges_3 : ([.trainingBackoffExpiry 16, .retrainDone 16, .resizeDone 16, .laneLoss 16 0 0, .laneLoss 0 4 0, .laneBerSample 16 0 false 0 0 0,
    .laneBerSample 0 4 false 0 0 0, .laneRejoinTimer 16 0, .laneRejoinTimer 0 4, .laneQuarantineDone 16 0 false 0, .laneQuarantineDone 0 4 false 0,
    .helloTimer 16, .mcastDeadline (2 ^ 16), .mcastRetry (2 ^ 16), .ptpSyncTimer 18, .syncHoldoverTimeout 16, .ethFrameReceive 16 eth0,
    .pfcFrameReceive 16 0 false, .pfcFrameReceive 0 (2 ^ 8) false, .rtoTimeout 4096 0 0, .rtoTimeout 0 4096 0, .rtoTimeout 0 0 4096,
    .transportAckTimer 4096 0 0, .transportAckTimer 0 4096 0, .transportAckTimer 0 0 4096, .slotRecycle 4096 0 0, .slotRecycle 0 4096 0,
    .slotRecycle 0 0 4096, .tombstoneExpiry 4096 0 0, .tombstoneExpiry 0 4096 0, .tombstoneExpiry 0 0 4096, .flagSend 256, .remoteCommandAccept 4096 [],
    .remoteCommandAccept 0 [278528], .fieldRemoteAccess 72 0 0 0 0 0 0 0 0 0 false, .fieldRemoteAccess 0 4 0 0 0 0 0 0 0 0 false,
    .fieldRemoteAccess 0 0 4096 0 0 0 0 0 0 0 false, .fieldRemoteAccess 0 0 0 4096 0 0 0 0 0 0 false, .fieldRemoteAccess 0 0 0 0 65536 0 0 0 0 0 false,
    .fieldRemoteAccess 0 0 0 0 0 65536 0 0 0 0 false, .counterWaitTimeout 278528 0, .counterWaitTimeout 0 65536, .portTransmitPick 16,
    .wheelSlotRelease (2 ^ 16), .rotationEntryEnd (2 ^ 16), .rotationTakeover (2 ^ 16), .rotationStopAt (2 ^ 16), .keyShadowDiscard (2 ^ 12),
    .spdmGetCertificate .vdm (2 ^ 16) 0 0, .spdmChallenge .vdm (2 ^ 16) 0, .spdmVendorDefinedRequest .vdm 0 false 0 256,
    .spdmChunkSend .vdm (2 ^ 16) 0 false [], .spdmChunkGet .vdm (2 ^ 16) 0, .sparkArmEffective 64, .quarantineDone (2 ^ 8) 0 false 0,
    .quarantineDone 0 (2 ^ 16) false 0, .thermalSample [] 0 [700], .inputPowerFaultDetect (2 ^ 17) 0, .mgmtMctpPacket 16 false .other 0,
    .jtagInstruction (2 ^ 8)] : List Instr).all (fun i => !WellFormed i) = true := by decide

theorem test_wf_ranges_4 : ([.undervoltageLockoutRelease (2 ^ 17), .routerBypassDone 72, .softRepairDone 384 0, .softRepairDone 0 (2 ^ 21)] : List Instr).all (fun i => !WellFormed i) = true := by decide

/-! Worked examples of the manual. -/

/-- File 06: EDA 0x0792_3456 lies in channel 304, bank 51, row 5, at byte 86. -/
theorem test_ember_map : emberMap 384 0x07923456 = { chan := 304, bank := 51, row := 5, byte := 86 } := by decide

/-- The worked model's format of file 05: 8 heads of 128 elements, CODE4, groups of 32. -/
def worked : Format := { fmtA with form := 0, heads := 8, dim := 128 }

/-- File 05, R163: the worked column of the body's sections, and the 8,704 bytes of the longest escape list (R170). -/
theorem test_layout : ((layout worked).vCodes, (layout worked).kScales, (layout worked).vScales, (layout worked).kAnchors, (layout worked).vAnchors, (layout worked).size) = (32768, 65536, 67584, 69632, 69696, 69760) := by decide
theorem test_worked_sizes : (bodyChunks worked, runBytes worked, 512 + 2 * escLimit worked, (layout { worked with form := 4 }).size) = (69, 512, 8704, 262144) := by decide

/-- File 05, the worked K group: group 1 of head 3 in token 5 has index 173. -/
theorem test_k_group : kGroupOf worked 5 (3 * 128 + 32) = 173 := by decide

/-- File 05, the same group: under the anchor 4.0, targets 1.3 and 2.9 take scale bytes 0xB3 and 0xBC. -/
theorem test_scale_bytes : (scaleByte { m := 1, e := 0 } 0x4400 0x3FA66666, scaleByte { m := 1, e := 0 } 0x4400 0x4039999A) = (0xB3, 0xBC) := by decide +kernel

/-- File 08: canonical assignment for the block with five exponents. -/
theorem test_canonical : assignCodes [1, 1, 1, 2] [0x7C, 0x7B, 0x7D, 0x79, 0x7A] = [(0x7C, 1, 0), (0x7B, 2, 2), (0x7D, 3, 6), (0x79, 4, 14), (0x7A, 4, 15)] := by decide

/-- File 02, R42: a word to a full channel replaces the waiting word. -/
theorem test_mailbox_full : (match exec (.mbxInWrite 8 7 noIde) { up with cln := { up.cln with mbx := [(8, { full := true, inWord := 5 })] } } with
    | .next s => ((getMbx s 8).inWord, (getMbx s 8).collision, (getMbx s 8).collisions)
    | _ => (0, false, 0)) = (7, true, 1) := by decide

/-- File 02, the pages of the worked sowing example (plot 2 of the Ember channels at 0x1E_A000, channel 17 at 0x1_1000), at the offset 0x010 of EMB_CHAN_SCRUB: file 06 lists no register at the example's own offset 0x040. -/
theorem test_sowing_pages : (pageAt 0x1EA010, pageAt 0x11010, pageAt 0x1EA040) = (some (0, .plot 2, 0x010), some (0, .member 17, 0x010), none) := by decide

/-- An idle step only advances the clock (log entry 2). -/
theorem test_idle_step : step up = .next { up with now := up.now + 1 } := rfl

/-! Witnesses: for each statement of the certificate, states and operands that meet the hypotheses of each of its clauses. -/

theorem witness_StepRunsFrontCommand : ∃ (c : Instr) (rest : List Instr) (s : State), s.pending = c :: rest := by
    refine ⟨.tallyWrite, [], { up with pending := [.tallyWrite] }, ?_⟩
    repeat' apply And.intro
    all_goals first | rfl | decide

theorem witness_EmptyQueueOnlyTicks : ∃ s : State, s.pending = [] := by
    refine ⟨up, ?_⟩
    repeat' apply And.intro
    all_goals first | rfl | decide

theorem witness_StepKeepsInvariant : ∃ s t : State, Inv s ∧ step s = .next t := ⟨State.reset, _, ⟨⟨rfl, by decide, by decide⟩, rfl⟩⟩

theorem witness_StepNeverUndoes : ∃ s t : State, step s = .next t := ⟨up, _, rfl⟩

theorem witness_CapabilityWordsNeverChange : ∃ (i : Instr) (s t : State), exec i s = .next t := ⟨.tallyWrite, up, _, rfl⟩

theorem witness_NoCommandStops :
    (∃ (eda : Nat) (write bad : Bool) (data : List Byte) (reports : List Nat) (s : State), emberBytes s < eda + data.length ∧ data.length ≤ emberBytes s) ∧
    (∃ (eda : Nat) (ue scrub : Bool) (s : State), emberBytes s ≤ eda) :=
  ⟨(by
      refine ⟨824633720831, true, false, [1, 2], [], up, ?_⟩
      repeat' apply And.intro
      all_goals first | rfl | decide),
   (by
      refine ⟨824633720832, false, false, up, ?_⟩
      repeat' apply And.intro
      all_goals first | rfl | decide)⟩

theorem witness_EmberMapIsOneToOne : ∃ chan bank row byte : Nat, chan < 384 ∧ bank < 64 ∧ byte < 1024 ∧ row < 32768 := by
    refine ⟨383, 63, 32767, 1023, ?_⟩
    repeat' apply And.intro
    all_goals first | rfl | decide

theorem witness_EmberStoreReadsBack : ∃ (eda : Nat) (bs : List Byte) (s : State), bs ≠ [] ∧ ∀ r ∈ rowsOf eda bs.length, (getChan s (chanOf s r)).state = .service ∧ (getChan s (chanOf s r)).fences = [] := by
    refine ⟨0, [1, 2], { up with emb := { up.emb with chans := [(0, { state := .service })] } }, ?_⟩
    decide

theorem witness_SecureOnlyCommandsRefused :
    (∃ (c : Cmd) (s : State), isSecure c = false ∧ s.mod.shutdown = false ∧ s.cln.phase = .fullService) ∧
    (∃ (c : Cmd) (s : State), isSecure c = false ∧ s.mod.shutdown = false ∧ s.cln.phase = .fullService ∧ versionCheck 0x0C 0x01 (cmdRead c s) = none) ∧
    (∃ (c : Cmd) (s : State), isSecure c = false ∧ s.mod.shutdown = false ∧ s.cln.phase = .fullService ∧ versionCheck 0x0C 0x10 (cmdRead c s) = none) :=
  ⟨(by
      refine ⟨{ cmd 0x0C 0x03 [] with issuer := .ring 0 }, up, ?_⟩
      repeat' apply And.intro
      all_goals first | rfl | decide),
   (by
      refine ⟨{ cmd 0x0C 0x01 [] [0, 0, 0, 1] with issuer := .ring 0 }, up, ?_⟩
      repeat' apply And.intro
      all_goals first | rfl | decide),
   (by
      refine ⟨{ cmd 0x0C 0x10 [] [0, 1] with issuer := .mailbox 8 0 }, up, ?_⟩
      repeat' apply And.intro
      all_goals first | rfl | decide)⟩

theorem witness_SameIssuerNeverConflicts :
    (∃ (c : Cmd) (t : Target) (o : Order) (a : Applied) (s : State), s.cln.orders.find? (fun a => a.target == t && decide (a.acc.time ≤ (currentAccept s).time + 20000 ∧ (currentAccept s).time ≤ a.acc.time + 20000)) = some a ∧ sameIssuer a.issuer c.issuer = true) ∧
    (∃ (c : Cmd) (early late : Live) (s : State), s.cln.fetched.find? (fun l => l.cmd == c) = some late ∧ early ∈ s.cln.fetched ∧ early.oid < late.oid) :=
  ⟨(by
      refine ⟨{ cmd 12 1 [] with issuer := .ring 3 }, { unit := 12, obj := 1 }, .service 1, { target := { unit := 12, obj := 1 }, issuer := .ring 3, cid := 0, ctx := 1, order := .service 2, acc := {} }, { up with now := 20000, cln := { up.cln with orders := [{ target := { unit := 12, obj := 1 }, issuer := .ring 3, cid := 0, ctx := 1, order := .service 2, acc := {} }] } }, ?_⟩
      decide +kernel),
   (by
      refine ⟨cmd 2 0x12 [(32, 3)], { oid := 0, cmd := cmd 2 1 [], acc := {} }, { oid := 1, cmd := cmd 2 0x12 [(32, 3)], acc := {} }, { up with cln := { up.cln with fetched := [{ oid := 0, cmd := cmd 2 1 [], acc := {} }, { oid := 1, cmd := cmd 2 0x12 [(32, 3)], acc := {} }] } }, ?_⟩
      exact ⟨by decide, by decide, by decide⟩)⟩

theorem witness_ConflictsAreJudged :
    (∃ (c : Cmd) (t : Target) (o : Order) (a : Applied) (s : State), s.cln.orders.find? (fun a => a.target == t && decide (a.acc.time ≤ (currentAccept s).time + 20000 ∧ (currentAccept s).time ≤ a.acc.time + 20000)) = some a ∧ sameIssuer a.issuer c.issuer = false ∧ ordersDiffer a.order o = true ∧ lessSafe a.order o = true) ∧
    (∃ (c : Cmd) (t : Target) (o : Order) (a : Applied) (s : State), s.cln.orders.find? (fun a => a.target == t && decide (a.acc.time ≤ (currentAccept s).time + 20000 ∧ (currentAccept s).time ≤ a.acc.time + 20000)) = some a ∧ sameIssuer a.issuer c.issuer = false ∧ ordersDiffer a.order o = true ∧ lessSafe a.order o = false) :=
  ⟨(by
      refine ⟨cmd 12 1 [], { unit := 12, obj := 1 }, .service 3, { target := { unit := 12, obj := 1 }, issuer := .ring 3, cid := 0, ctx := 1, order := .service 1, acc := {} }, { up with now := 20000, cln := { up.cln with orders := [{ target := { unit := 12, obj := 1 }, issuer := .ring 3, cid := 0, ctx := 1, order := .service 1, acc := {} }] } }, ?_⟩
      decide +kernel),
   (by
      refine ⟨cmd 12 1 [], { unit := 12, obj := 1 }, .service 1, { target := { unit := 12, obj := 1 }, issuer := .ring 3, cid := 0, ctx := 1, order := .service 3, acc := {} }, { up with now := 20000, cln := { up.cln with orders := [{ target := { unit := 12, obj := 1 }, issuer := .ring 3, cid := 0, ctx := 1, order := .service 3, acc := {} }] } }, ?_⟩
      decide +kernel)⟩

theorem witness_MailboxWordStoredOrReplaced :
    (∃ (ch : Nat) (ide : IdeTag) (s : State), mbxOpen ch ide s = true ∧ (getMbx s ch).full = false) ∧
    (∃ (ch : Nat) (ide : IdeTag) (s : State), mbxOpen ch ide s = true ∧ (getMbx s ch).full = true) :=
  ⟨(by
      refine ⟨31 - 2, noIde, up, ?_⟩
      repeat' apply And.intro
      all_goals first | rfl | decide),
   (by
      refine ⟨8, noIde, setMbx 8 { full := true } up, ?_⟩
      repeat' apply And.intro
      all_goals first | rfl | decide)⟩

theorem witness_AliasReadTakesLowest : ∃ (off size cls o m : Nat) (page : Page) (rest : List Nat) (s : State), s.cln.flr = false ∧ pageAt off = some (cls, page, o) ∧ (∀ k, page ≠ .member k) ∧ aligned off size = true ∧ participating s cls page = m :: rest := ⟨0x3E0000, 8, 1, 0, 0, .all, _, { up with oln := { up.oln with ports := [(0, { service := .service })] } }, rfl, rfl, fun k h => by simp at h, rfl, rfl⟩

theorem witness_AbsentMemberReadsZero : ∃ (off size cls m o : Nat) (s : State), s.cln.flr = false ∧ pageAt off = some (cls, .member m, o) ∧ aligned off size = true ∧ present s cls m = false := by
    refine ⟨0xC0000, 8, 0, 192, 0, { up with fuse := { up.fuse with variant := .c } }, ?_⟩
    repeat' apply And.intro
    all_goals first | rfl | decide

theorem witness_LimitedEventsAreCounted :
    (∃ (code : EventCode) (obj period : Nat) (l : Limit) (s : State), s.hlt.limits.find? (fun l => l.code == code && l.obj == obj) = some l ∧ s.now < l.last + period) ∧
    (∃ (code : EventCode) (obj period : Nat) (l : Limit) (s : State), s.hlt.limits.find? (fun l => l.code == code && l.obj == obj) = some l ∧ l.last + period ≤ s.now) :=
  ⟨⟨.stackHot, 0, 10, _, { up with now := 9, hlt := { up.hlt with limits := [{ code := .stackHot, obj := 0, last := 0, held := 0 }] } }, rfl, by decide⟩,
   ⟨.stackHot, 0, 10, _, { up with now := 10, hlt := { up.hlt with limits := [{ code := .stackHot, obj := 0, last := 0, held := 3 }] } }, rfl, by decide⟩⟩

theorem witness_RestartPreservesCommands : ∃ t u : State, exec .lockstepMismatch up = .next t ∧ exec .softRestart up = .next u := ⟨_, _, rfl, rfl⟩

theorem witness_QueriesChangeOnlyCloni : ∃ (r : Nat) (c : Cmd) (s : State), c.issuer = .ring r ∧ s.cln.discard = [] := by
    refine ⟨3, { cmd 0x0E 0x01 [] with issuer := .ring 3 }, up, ?_⟩
    repeat' apply And.intro
    all_goals first | rfl | decide

theorem witness_ThermalTripHolds :
    (∃ (temps : List Nat) (flow : Nat) (sense : List Nat) (s : State), s.mod.rails = .stable ∧ s.mod.running = true ∧ (tripReading (readSensors temps (List.range 22) s).1).isSome = true) ∧
    (∃ (mv : Nat) (temps : List Nat) (s : State), s.mod.rails = .off ∧ s.mod.trip ≠ .none ∧ ((s.mod.trip = .latched ∨ ∃ x ∈ temps.take 6, 95 < x))) ∧
    (∃ (temps : List Nat) (s : State), s.mod.rails = .off ∧ s.mod.inputUp = true ∧ s.mod.trip = .cooling ∧ ∀ x ∈ temps.take 6, x ≤ 95) :=
  ⟨(by
      refine ⟨(115 :: List.replicate 21 20), 0, [700, 700, 700, 700], up, ?_⟩
      repeat' apply And.intro
      all_goals first | rfl | decide),
   (by
      refine ⟨52000, [96], { up with mod := { up.mod with rails := .off, trip := .cooling } }, ?_⟩
      refine ⟨rfl, by decide, .inr ⟨96, by decide, by decide⟩⟩),
   (by
      refine ⟨[95, 95, 95, 95, 95, 95], { up with mod := { up.mod with rails := .off, trip := .cooling } }, ?_⟩
      repeat' apply And.intro
      all_goals first | rfl | decide)⟩

theorem witness_MailboxChannelRowsComplete :
    (∃ (ch : Nat) (w : Word) (ide : IdeTag) (s : State), mbxOpen ch ide s = true ∧ (getMbx s ch).full = false) ∧
    (∃ (ch : Nat) (w : Word) (ide : IdeTag) (s : State), mbxOpen ch ide s = true ∧ (getMbx s ch).full = true) ∧
    (∃ (ch off : Nat) (bs : List Byte) (ide : IdeTag) (s : State), mbxOpen ch ide s = true) ∧
    (∃ (ch : Nat) (ide : IdeTag) (s : State), mbxOpen ch ide s = true) ∧
    (∃ (ch n eid : Nat) (p : List Byte) (w : Word) (s : State), (ch, n) ∈ [(6, 0x06), (7, 0x07), (30, 0x36), (31, 0x37)] ∧ fwRuns s = true ∧ p.length ≤ 256 ∧ (getMbx s ch).full = false) ∧
    (∃ (ch : Nat) (s : State), (getMbx s ch).full = true ∧ ccsRuns s = true ∧ s.mod.shutdown = false ∧ repliesHeld (getMbx s ch) + mbxOutstanding s ch < 16 ∧ mbxOpcodes.contains (wordOp (getMbx s ch).inWord) = true) ∧
    (∃ (ch : Nat) (r : Reply) (rest : List Reply) (s : State), (getMbx s ch).replies = r :: rest ∧ (getMbx s ch).outFull = false ∧ halted s = false) :=
  ⟨(by
      refine ⟨8, 1, noIde, up, ?_⟩
      repeat' apply And.intro
      all_goals first | rfl | decide),
   (by
      refine ⟨8, 1, noIde, setMbx 8 { full := true } up, ?_⟩
      repeat' apply And.intro
      all_goals first | rfl | decide),
   (by
      refine ⟨8, 0, [1], noIde, up, ?_⟩
      repeat' apply And.intro
      all_goals first | rfl | decide),
   (by
      refine ⟨8, noIde, up, ?_⟩
      repeat' apply And.intro
      all_goals first | rfl | decide),
   (by
      refine ⟨31, 0x37, 0, [1], 1, up, ?_⟩
      repeat' apply And.intro
      all_goals first | rfl | decide),
   (by
      refine ⟨8, setMbx 8 { full := true, inWord := 0x0200000000000000 } up, ?_⟩
      repeat' apply And.intro
      all_goals first | rfl | decide),
   (by
      refine ⟨8, { word := 1, bytes := [], len := 0 }, [], setMbx 8 { replies := [{ word := 1, bytes := [], len := 0 }] } up, ?_⟩
      repeat' apply And.intro
      all_goals first | rfl | decide)⟩

theorem witness_ControlRowsComplete :
    (∃ (v : Bool) (s : State), barsClosed s = false) ∧
    (∃ (s : State), barsClosed s = false ∧ s.cln.phase = .fault) ∧
    (∃ (s : State), barsClosed s = false ∧ s.cln.phase ≠ .fault) ∧
    (∃ (s : State), fwRuns s = true) ∧
    (∃ (s : State), ((∀ e ∈ s.hlt.arms, e.2.spark ≠ 0x0102))) :=
  ⟨(by
      refine ⟨true, up, ?_⟩
      repeat' apply And.intro
      all_goals first | rfl | decide),
   (by
      refine ⟨{ up with cln := { up.cln with phase := .fault } }, ?_⟩
      repeat' apply And.intro
      all_goals first | rfl | decide),
   (by
      refine ⟨up, ?_⟩
      decide),
   (by
      refine ⟨up, ?_⟩
      repeat' apply And.intro
      all_goals first | rfl | decide),
   (by
      refine ⟨up, ?_⟩
      repeat' apply And.intro
      all_goals first | rfl | decide)⟩

theorem witness_RegisterRowsComplete :
    (∃ (off size cls o : Nat) (page : Page) (s : State), barsClosed s = false ∧ pageAt off = some (cls, page, o) ∧ aligned off size = true ∧ ((∀ m, page ≠ .member m)) ∧ participating s cls page = []) ∧
    (∃ (off size cls o m : Nat) (page : Page) (rest : List Nat) (s : State), barsClosed s = false ∧ pageAt off = some (cls, page, o) ∧ aligned off size = true ∧ ((∀ m, page ≠ .member m)) ∧ participating s cls page = m :: rest) ∧
    (∃ (off size cls o : Nat) (page : Page) (v : Word) (s : State), barsClosed s = false ∧ pageAt off = some (cls, page, o) ∧ aligned off size = true ∧ ((∀ m, page ≠ .member m))) ∧
    (∃ (off size cls o m : Nat) (k : Word) (ide : IdeTag) (s : State), barsClosed s = false ∧ pageAt off = some (cls, .member m, o) ∧ aligned off size = true ∧ ((pageFields cls o).getD {}).rc ≠ 0 ∧ present s cls m = true ∧ outOfService s cls m = false) ∧
    (∃ (off size cls o m : Nat) (v hw : Word) (ide : IdeTag) (s : State), barsClosed s = false ∧ pageAt off = some (cls, .member m, o) ∧ aligned off size = true ∧ present s cls m = true ∧ outOfService s cls m = false) ∧
    (∃ (bar : Bar) (off : Nat) (write : Bool) (s : State), barsClosed s = false) :=
  ⟨(by
      refine ⟨0x1E8000, 8, 0, 0, .plot 0, up, ?_⟩
      exact ⟨rfl, rfl, rfl, fun k h => by simp at h, rfl⟩),
   ⟨0x3E0000, 8, 1, 0, 0, .all, _, { up with oln := { up.oln with ports := [(0, { service := .service })] } }, rfl, rfl, rfl, fun k h => by simp at h, rfl⟩,
   (by
      refine ⟨0x1E0010, 8, 0, 0x10, .all, 1, up, ?_⟩
      exact ⟨rfl, rfl, rfl, fun k h => by simp at h⟩),
   (by
      refine ⟨8, 4, 0, 8, 0, 0, noIde, { up with emb := { up.emb with chans := [(0, { state := .service })] } }, ?_⟩
      repeat' apply And.intro
      all_goals first | rfl | decide),
   (by
      refine ⟨16, 8, 0, 16, 0, 5, 0, noIde, { up with emb := { up.emb with chans := [(0, { state := .service })] } }, ?_⟩
      repeat' apply And.intro
      all_goals first | rfl | decide),
   (by
      refine ⟨.b2, 0, true, up, ?_⟩
      repeat' apply And.intro
      all_goals first | rfl | decide)⟩

theorem witness_MailboxOpcodesComplete :
    (∃ ch s, wordReady ch 0x01 s = true ∧ (fun arg _ _ => arg == 0) (wordArg (oldestWord ch s).word) (oldestWord ch s).param (wordState ch s) = true) ∧
    (∃ ch s, wordReady ch 0x02 s = true ∧ (fun _ _ _ => true) (wordArg (oldestWord ch s).word) (oldestWord ch s).param (wordState ch s) = true) ∧
    (∃ ch s, wordReady ch 0x10 s = true ∧ (fun arg p s => arg == 0 && ringCheck s (ringOf p).1 (ringOf p).2 p == none) (wordArg (oldestWord ch s).word) (oldestWord ch s).param (wordState ch s) = true) ∧
    (∃ ch s, wordReady ch 0x11 s = true ∧ (fun arg _ s => decide (arg < 2 ^ 18) && ((getRing s arg).state == .active || (getRing s arg).state == .stopped)) (wordArg (oldestWord ch s).word) (oldestWord ch s).param (wordState ch s) = true) ∧
    (∃ ch s, wordReady ch 0x11 s = true ∧ (fun arg _ s => decide (arg < 2 ^ 18) && ((getRing s arg).state == .disabled || (getRing s arg).state == .draining)) (wordArg (oldestWord ch s).word) (oldestWord ch s).param (wordState ch s) = true) ∧
    (∃ ch s, wordReady ch 0x12 s = true ∧ (fun arg _ s => decide (arg < 2 ^ 18) && (getRing s arg).state == .stopped) (wordArg (oldestWord ch s).word) (oldestWord ch s).param (wordState ch s) = true) ∧
    (∃ ch s, wordReady ch 0x12 s = true ∧ (fun arg _ s => decide (arg < 2 ^ 18) && (getRing s arg).state != .stopped) (wordArg (oldestWord ch s).word) (oldestWord ch s).param (wordState ch s) = true) ∧
    (∃ ch s, wordReady ch 0x13 s = true ∧ (fun arg _ _ => decide (arg < 2 ^ 18)) (wordArg (oldestWord ch s).word) (oldestWord ch s).param (wordState ch s) = true) ∧
    (∃ ch s, wordReady ch 0x18 s = true ∧ (fun arg p s => s.cln.eq == none && decide (6 ≤ arg ∧ arg ≤ 16) && getU p 0 8 % 4096 == 0 && getU p 8 8 % 8 == 0) (wordArg (oldestWord ch s).word) (oldestWord ch s).param (wordState ch s) = true) ∧
    (∃ ch s, wordReady ch 0x18 s = true ∧ (fun arg p s => s.cln.eq != none && decide (6 ≤ arg ∧ arg ≤ 16) && getU p 0 8 % 4096 == 0 && getU p 8 8 % 8 == 0) (wordArg (oldestWord ch s).word) (oldestWord ch s).param (wordState ch s) = true) ∧
    (∃ ch s, wordReady ch 0x19 s = true ∧ (fun arg _ s => arg == 0 && s.cln.eq != none) (wordArg (oldestWord ch s).word) (oldestWord ch s).param (wordState ch s) = true) ∧
    (∃ ch s, wordReady ch 0x19 s = true ∧ (fun arg _ s => arg == 0 && s.cln.eq == none) (wordArg (oldestWord ch s).word) (oldestWord ch s).param (wordState ch s) = true) ∧
    (∃ (ch : Nat) (input : List Byte) (s : State), wordReady ch 0xF0 s = true ∧ wordArg (oldestWord ch s).word = 0) :=
  ⟨(by
      refine ⟨8, word 1 0, ?_⟩
      repeat' apply And.intro
      all_goals first | rfl | decide),
   (by
      refine ⟨8, word 2 77, ?_⟩
      repeat' apply And.intro
      all_goals first | rfl | decide),
   (by
      refine ⟨8, word 0x10 0 (leBytes 4 5 ++ leBytes 4 0x40000404 ++ zeros 16 ++ leBytes 2 1 ++ zeros 230) withCtx, ?_⟩
      repeat' apply And.intro
      all_goals first | rfl | decide),
   (by
      refine ⟨8, word 0x11 5 (zeros 256) (setRing 5 ring up), ?_⟩
      repeat' apply And.intro
      all_goals first | rfl | decide),
   (by
      refine ⟨8, word 0x11 262143, ?_⟩
      repeat' apply And.intro
      all_goals first | rfl | decide),
   (by
      refine ⟨8, word 0x12 5 (zeros 256) (setRing 5 { ring with state := .stopped } up), ?_⟩
      repeat' apply And.intro
      all_goals first | rfl | decide),
   (by
      refine ⟨8, word 0x12 0, ?_⟩
      repeat' apply And.intro
      all_goals first | rfl | decide),
   (by
      refine ⟨8, word 0x13 0, ?_⟩
      repeat' apply And.intro
      all_goals first | rfl | decide),
   (by
      refine ⟨8, word 0x18 16, ?_⟩
      repeat' apply And.intro
      all_goals first | rfl | decide),
   (by
      refine ⟨8, word 0x18 6 (zeros 256) { up with cln := { up.cln with eq := some { base := 0, headAddr := 0, log2 := 6 } } }, ?_⟩
      repeat' apply And.intro
      all_goals first | rfl | decide),
   (by
      refine ⟨8, word 0x19 0 (zeros 256) { up with cln := { up.cln with eq := some { base := 0, headAddr := 0, log2 := 6 } } }, ?_⟩
      repeat' apply And.intro
      all_goals first | rfl | decide),
   (by
      refine ⟨8, word 0x19 0, ?_⟩
      repeat' apply And.intro
      all_goals first | rfl | decide),
   (by
      refine ⟨8, [], word 0xF0 0, ?_⟩
      repeat' apply And.intro
      all_goals first | rfl | decide)⟩

theorem witness_RingRowsComplete :
    (∃ (r v : Nat) (s : State), barsClosed s = false ∧ (getRing s r).state ≠ .disabled ∧ v < 2 ^ (getRing s r).sqLog2 ∧ v < 2 ^ 16) ∧
    (∃ (r v : Nat) (s : State), barsClosed s = false ∧ (getRing s r).state ≠ .disabled ∧ v < 2 ^ (getRing s r).cqLog2 ∧ v < 2 ^ 16) ∧
    (∃ (r v : Nat) (s : State), barsClosed s = false ∧ (getRing s r).state = .disabled) ∧
    (∃ (s : State), fwRuns s = true ∧ s.cln.staged = []) ∧
    (∃ (r : Nat) (passed : List Nat) (d input : List Byte) (s : State), mayFetch s (getRing s r) (cmdOf (.ring r) d input) = true ∧ (fetchPick s passed).1 = some r ∧ tagsNeeded s (cmdOf (.ring r) d input) ≤ freeTags s ∧ ringArm s r = none) ∧
    (∃ (r cid : Nat) (f : Finished) (s : State), s.cln.done.find? (isDone r cid) = some f ∧ (getRing s r).state ≠ .disabled ∧ 0 < cqFree (getRing s r) ∧ halted s = false ∧ s.cln.cfg.d3hot = false) ∧
    (∃ (r n : Nat) (s : State), (getRing s r).coalSince = some n ∧ n + (getRing s r).coalUs * 1000 ≤ s.now) ∧
    (∃ (r : Nat) (w q : Bool) (s : State), (getRing s r).state = .active) ∧
    (∃ (s : State), s.cln.phase = .fullService ∧ s.hlt.arms = [] ∧ s.cln.mismatches = []) ∧
    (∃ (s : State), s.cln.phase = .restarting) ∧
    (∃ (s : State), s.cln.phase = .fullService ∧ ((∀ f ∈ s.cln.done, f.cmd.outDevice = false))) :=
  ⟨(by
      refine ⟨5, 15, setRing 5 ring up, ?_⟩
      decide),
   (by
      refine ⟨5, 15, setRing 5 ring up, ?_⟩
      decide),
   (by
      refine ⟨5, 0, up, ?_⟩
      repeat' apply And.intro
      all_goals first | rfl | decide),
   (by
      refine ⟨up, ?_⟩
      repeat' apply And.intro
      all_goals first | rfl | decide),
   (by
      refine ⟨5, [], zeros 64, [], setRing 5 ring withCtx, ?_⟩
      repeat' apply And.intro
      all_goals first | rfl | decide),
   (by
      refine ⟨5, 0, { oid := 0, cmd := bareCmd 5 0, done := {} }, setRing 5 ring { up with cln := { up.cln with done := [{ oid := 0, cmd := bareCmd 5 0, done := {} }] } }, ?_⟩
      decide),
   (by
      refine ⟨5, 0, setRing 5 { ring with coalSince := some 0, coalUs := 1 } { up with now := 1000 }, ?_⟩
      decide),
   (by
      refine ⟨5, true, true, setRing 5 ring up, ?_⟩
      repeat' apply And.intro
      all_goals first | rfl | decide),
   (by
      refine ⟨up, ?_⟩
      repeat' apply And.intro
      all_goals first | rfl | decide),
   (by
      refine ⟨{ up with cln := { up.cln with phase := .restarting } }, ?_⟩
      repeat' apply And.intro
      all_goals first | rfl | decide),
   (by
      refine ⟨up, ?_⟩
      repeat' apply And.intro
      all_goals first | rfl | decide)⟩

theorem witness_FieldCommandsComplete :
    (∃ c s, admits 0x02 0x01 (fun c s => argsOnly c [] = true ∧ bufferCheck c s = none ∧ (c.outLen = 0 ∨ 576 ≤ c.outLen)) c s) ∧
    (∃ c s, admits 0x02 0x02 (fun c s => argsOnly c [(32, 0, 2), (34, 0, 16)] && argBits c 32 0 2 != 3 && (judge c { unit := 0x02, obj := 0x100 } (.value (argBits c 32 0 2)) s).1) c s) ∧
    (∃ c s, admits 0x02 0x02 (fun c s => argsOnly c [(32, 0, 2), (34, 0, 16)] && argBits c 32 0 2 == 3 && decide (650 ≤ argU c 34 2 ∧ argU c 34 2 ≤ 900) && (judge c { unit := 0x02, obj := 0x100 } (.value (3 + 4 * argU c 34 2)) s).1) c s) ∧
    (∃ c s, admits 0x02 0x10 (fun c s => argsOnly c [(32, 0, 7)] && decide (argBits c 32 0 7 < 72) && (getCore s (argBits c 32 0 7)).state == .rotation &&
      othersAble s (argBits c 32 0 7) true && (judge c { unit := 0x02, obj := argBits c 32 0 7 } (.service 1) s).1) c s) ∧
    (∃ c s, admits 0x02 0x11 (fun c s => argsOnly c [(32, 0, 7)] && decide (argBits c 32 0 7 < 72) && (getCore s (argBits c 32 0 7)).state == .rotation &&
      othersAble s (argBits c 32 0 7) false && (judge c { unit := 0x02, obj := argBits c 32 0 7 } (.service 2) s).1) c s) ∧
    (∃ c s, admits 0x02 0x12 (fun c s => argsOnly c [(32, 0, 7)] && decide (argBits c 32 0 7 < 72) && (getCore s (argBits c 32 0 7)).state == .restricted &&
      (judge c { unit := 0x02, obj := argBits c 32 0 7 } (.service 3) s).1) c s) ∧
    (∃ c s, admits 0x02 0x12 (fun c s => argsOnly c [(32, 0, 7)] && decide (argBits c 32 0 7 < 72) && (getCore s (argBits c 32 0 7)).state == .fenced &&
      !isRetired s .core (argBits c 32 0 7) && (judge c { unit := 0x02, obj := argBits c 32 0 7 } (.service 3) s).1) c s) ∧
    (∃ h, ∃ c s, admits 0x02 0x20 (fun c s => argsOnly c [] && decide (0 < c.inLen ∧ c.inLen ≤ 2 ^ 21) && bufferCheck c s == none && decide (s.fld.programs.length < 1024) && tblFree? s.fld.programs 1024 == some h) c s) ∧
    (∃ p, ∃ c s, admits 0x02 0x21 (fun c s =>
      let cores := (List.range 72).filter (fun n => bitOf (argU c 32 9) n)
      argsOnly c [(32, 0, 72), (41, 0, 6), (48, 0, 32), (56, 0, 64)] && !cores.isEmpty && argBits c 41 0 4 != 0 && (argBits c 41 0 4 % 4 == 0 || argBits c 41 4 1 == 1) &&
      tblGet? s.fld.programs (argU c 48 4) == some p && mayName s c p.ctx && cores.all (fun n => (getCore s n).state == .rotation)) c s) ∧
    (∃ k r, ∃ c s, admits 0x02 0x22 (fun c s => argsOnly c [(32, 0, 16)] &&
      s.cln.inflight.find? (fun e => e.2.unit == 0x02 && e.2.verb == 0x21 && e.2.cid == argU c 32 2 && sameIssuer e.2.issuer c.issuer && tblHas s.fld.runs e.1) == some (k, r)) c s) :=
  ⟨(by
      refine ⟨cmd 2 1 [], up, ?_⟩
      repeat' apply And.intro
      all_goals first | rfl | decide),
   (by
      refine ⟨cmd 2 2 [(32, 1)], up, ?_⟩
      repeat' apply And.intro
      all_goals first | rfl | decide),
   (by
      refine ⟨cmd 2 2 [(32, 3), (34, 750)], up, ?_⟩
      repeat' apply And.intro
      all_goals first | rfl | decide),
   (by
      refine ⟨cmd 2 0x10 [(32, 3)], (setCore 3 { state := .rotation } (setCore 5 { state := .rotation } up)), ?_⟩
      repeat' apply And.intro
      all_goals first | rfl | decide),
   (by
      refine ⟨cmd 2 0x11 [(32, 3)], (setCore 3 { state := .rotation } (setCore 5 { state := .rotation } up)), ?_⟩
      repeat' apply And.intro
      all_goals first | rfl | decide),
   (by
      refine ⟨cmd 2 0x12 [(32, 3)], (setCore 3 { state := .restricted } (up)), ?_⟩
      repeat' apply And.intro
      all_goals first | rfl | decide),
   (by
      refine ⟨cmd 2 0x12 [(32, 71)], (setCore 71 { state := .fenced } (up)), ?_⟩
      repeat' apply And.intro
      all_goals first | rfl | decide),
   (by
      refine ⟨0, cmd 2 0x20 [] [1, 2], up, ?_⟩
      exact ⟨rfl, rfl, by decide +kernel⟩),
   (by
      refine ⟨{ ctx := 0, image := [1] }, cmd 2 0x21 [(32, 2 ^ 3 + 2 ^ 5), (41, 4)], { (setCore 3 { state := .rotation } (setCore 5 { state := .rotation } up)) with fld := { (setCore 3 { state := .rotation } (setCore 5 { state := .rotation } up)).fld with programs := [(0, { ctx := 0, image := [1] })] } }, ?_⟩
      repeat' apply And.intro
      all_goals first | rfl | decide),
   (by
      refine ⟨9, cmd 2 0x21 [], cmd 2 0x22 [], { up with cln := { up.cln with inflight := [(9, cmd 2 0x21 [])] }, fld := { up.fld with runs := [(9, { oid := 9, ctx := 0, program := 0, arg := 0, threads := 4, exclusive := false, replayable := true, ranks := [] })] } }, ?_⟩
      repeat' apply And.intro
      all_goals first | rfl | decide)⟩

theorem witness_FieldEventsComplete :
    (∃ (mv da ask : Nat) (sense : List Nat) (s : State), targetMv s ≤ holdLevel s mv da ask) ∧
    (∃ (mv da ask : Nat) (sense : List Nat) (s : State), holdLevel s mv da ask < targetMv s) ∧
    (∃ (mv da ask : Nat) (sense : List Nat) (s : State), min (tdpW s * 10000) (mv * 600) < mv * da ∧ 650 < demandMv s) ∧
    (∃ (mv da ask : Nat) (sense : List Nat) (s : State), mv * da ≤ min (tdpW s * 10000) (mv * 600) ∧ targetMv s ≤ ask) ∧
    (∃ (ring cid k : Nat) (v : Word) (bad : Bool) (c : Cmd) (r : Run) (s : State), inflightOf s ring cid (fun c => c.unit == 0x02 && c.verb == 0x21) = some (k, c) ∧ tblGet? s.fld.runs k = some r ∧ r.ranks.all (fun x => if x.lost then !canRerun s r x else x.started) = true) ∧
    (∃ (ring cid rank k n : Nat) (c : Cmd) (r : Run) (x : Rank) (s : State), inflightOf s ring cid (fun c => c.unit == 0x02 && c.verb == 0x21) = some (k, c) ∧ tblGet? s.fld.runs k = some r ∧ r.ranks[rank]? = some x ∧ x.lost = true ∧ x.next = none ∧ r.replayable = true ∧ ((x.called = some n ∧ (getCore s n).state = .rotation) ∨
      (x.called = none ∧ (coresIn s (· == .rotation)).find? (fun n => !r.ranks.any (fun y => (y.core == n && !y.lost) || y.next == some n)) = some n))) ∧
    (∃ (n : Nat) (s : State), (getCore s n).state = .reserve ∧ (getCore s n).joining = false) ∧
    (∃ (n : Nat) (s : State), (getCore s n).state = .reserve ∧ (getCore s n).testing = true ∧ s.hlt.arms = []) ∧
    (∃ (n : Nat) (s : State), inRotation (getCore s n).state = true ∧ threadsLive s n ≠ 0 ∧ s.hlt.arms = []) ∧
    (∃ (n t : Nat) (s : State), inRotation (getCore s n).state = true ∧ (getCore s n).lowSince = some t ∧ t + 10000000 ≤ s.now) ∧
    (∃ (n t : Nat) (s : State), (getCore s n).state = .rotation ∧ (getCore s n).slowSince = some t ∧ t + 100000000 ≤ s.now ∧ (getCore s n).ctrl.slowRestrict = false) :=
  ⟨(by
      refine ⟨54000, 0, 800, [700, 700, 700, 700], up, ?_⟩
      decide +kernel),
   (by
      refine ⟨54000, 600, 650, [700, 700, 700, 700], up, ?_⟩
      decide +kernel),
   (by
      refine ⟨54000, 600, 800, [700, 700, 700, 700], up, ?_⟩
      decide +kernel),
   (by
      refine ⟨54000, 0, 800, [700, 700, 700, 700], up, ?_⟩
      decide +kernel),
   ⟨5, 0, 9, 0, false, _, _, { up with cln := { up.cln with inflight := [(9, { cmd 2 0x21 [] with issuer := .ring 5 })] }, fld := { up.fld with runs := [(9, { oid := 9, ctx := 0, program := 0, arg := 0, threads := 4, exclusive := false, replayable := true, ranks := [{ core := 3, started := true }] })] } }, rfl, rfl, rfl⟩,
   ⟨5, 0, 0, 9, 5, _, _, _, { (setCore 3 { state := .rotation } (setCore 5 { state := .rotation } up)) with cln := { (setCore 3 { state := .rotation } (setCore 5 { state := .rotation } up)).cln with inflight := [(9, { cmd 2 0x21 [] with issuer := .ring 5 })] }, fld := { (setCore 3 { state := .rotation } (setCore 5 { state := .rotation } up)).fld with runs := [(9, { oid := 9, ctx := 0, program := 0, arg := 0, threads := 4, exclusive := false, replayable := true, ranks := [{ core := 3, lost := true, called := some 5 }] })] } }, ⟨rfl, rfl, rfl, rfl, rfl, rfl, .inl ⟨rfl, rfl⟩⟩⟩,
   (by
      refine ⟨3, (setCore 3 { state := .reserve } (up)), ?_⟩
      repeat' apply And.intro
      all_goals first | rfl | decide),
   (by
      refine ⟨3, (setCore 3 { state := .reserve, testing := true } up), ?_⟩
      repeat' apply And.intro
      all_goals first | rfl | decide),
   (by
      refine ⟨3, (setCore 3 { state := .rotation, live := 4 } up), ?_⟩
      repeat' apply And.intro
      all_goals first | rfl | decide),
   (by
      refine ⟨3, 0, (setCore 3 { state := .rotation, lowSince := some 0 } { up with now := 10000000 }), ?_⟩
      repeat' apply And.intro
      all_goals first | rfl | decide),
   (by
      refine ⟨3, 0, (setCore 3 { state := .rotation, slowSince := some 0, ctrl := { slowRestrict := false } } { up with now := 100000000 }), ?_⟩
      repeat' apply And.intro
      all_goals first | rfl | decide)⟩

theorem witness_MeshAndStoreRowsComplete :
    (∃ (core thread dst dt tag : Nat) (p : List Byte) (s : State), inRotation (getCore s core).state = true ∧ stageHeld s core = false ∧ thread < 4 ∧ dt < 4 ∧ dst < 72 ∧ p.length ≤ 4096 ∧ reachable s dst = true) ∧
    (∃ (core thread dst dt tag : Nat) (p : List Byte) (s : State), inRotation (getCore s core).state = true ∧ stageHeld s core = false ∧ thread < 4 ∧ dt < 4 ∧ dst < 72 ∧ p.length ≤ 4096 ∧ reachable s dst = false) ∧
    (∃ (core dst dt : Nat) (e : MeshEntry) (s : State), firstOfFlow s core dst dt = some e ∧ e.place = .onMesh ∧ reachable s dst = true ∧ (tblGetD (getCore s dst).rxq dt []).length < 63) ∧
    (∃ (core dst dt : Nat) (e : MeshEntry) (s : State), firstOfFlow s core dst dt = some e ∧ e.place = .onMesh ∧ reachable s dst = true ∧ 63 ≤ (tblGetD (getCore s dst).rxq dt []).length) ∧
    (∃ (core dst dt t : Nat) (e : MeshEntry) (s : State), firstOfFlow s core dst dt = some e ∧ e.place = .returned t ∧ t + 1000 ≤ s.now) ∧
    (∃ (n : Nat) (s : State), n < 72 ∧ (getCore s n).state ≠ .disabled ∧ s.hlt.arms = [] ∧ ((getCore s n).resendTimes.filter (fun t => decide (s.now < t + ms))).length < 7) ∧
    (∃ (n word : Nat) (t : Option Nat) (s : State), n < 72 ∧ inRotation (getCore s n).state = true ∧ s.hlt.arms = []) ∧
    (∃ (n word : Nat) (s : State), n < 72 ∧ inRotation (getCore s n).state = true ∧ s.hlt.arms = [] ∧ ((getCore s n).ueTimes.filter (fun t => decide (s.now < t + sec))).length < 2) ∧
    (∃ (n word : Nat) (th : Option Nat) (s : State), n < 72 ∧ inRotation (getCore s n).state = true ∧ s.hlt.arms = [] ∧ 2 ≤ ((getCore s n).ueTimes.filter (fun t => decide (s.now < t + sec))).length) :=
  ⟨(by
      refine ⟨3, 0, 5, 3, 0, [1], (setCore 3 { state := .rotation } (setCore 5 { state := .rotation } up)), ?_⟩
      repeat' apply And.intro
      all_goals first | rfl | decide),
   (by
      refine ⟨3, 0, 6, 3, 0, [1], (setCore 3 { state := .rotation } (setCore 5 { state := .rotation } up)), ?_⟩
      repeat' apply And.intro
      all_goals first | rfl | decide),
   ⟨3, 5, 2, _, { (setCore 3 { state := .rotation } (setCore 5 { state := .rotation } up)) with fld := { (setCore 3 { state := .rotation } (setCore 5 { state := .rotation } up)).fld with mesh := [{ msg := { srcCore := 3, srcThread := 0, dstCore := 5, dstThread := 2, tag := 0, seq := 0, payload := [1] }, place := .onMesh, route := [3, 4, 5] }] } }, rfl, rfl, rfl, by decide⟩,
   ⟨3, 5, 2, _, { (setCore 5 { state := .rotation, rxq := [(2, List.replicate 63 [1])] } up) with fld := { (setCore 5 { state := .rotation, rxq := [(2, List.replicate 63 [1])] } up).fld with mesh := [{ msg := { srcCore := 3, srcThread := 0, dstCore := 5, dstThread := 2, tag := 0, seq := 0, payload := [1] }, place := .onMesh, route := [3, 4, 5] }] } }, rfl, rfl, rfl, by decide⟩,
   ⟨3, 5, 2, 0, _, { { (setCore 3 { state := .rotation } (setCore 5 { state := .rotation } up)) with fld := { (setCore 3 { state := .rotation } (setCore 5 { state := .rotation } up)).fld with mesh := [{ msg := { srcCore := 3, srcThread := 0, dstCore := 5, dstThread := 2, tag := 0, seq := 0, payload := [1] }, place := .returned 0, route := [3, 4, 5] }] } } with now := 1000 }, rfl, rfl, by decide⟩,
   (by
      refine ⟨3, (setCore 3 { state := .rotation } (setCore 5 { state := .rotation } up)), ?_⟩
      repeat' apply And.intro
      all_goals first | rfl | decide),
   (by
      refine ⟨71, 8, none, (setCore 71 { state := .rotation } (up)), ?_⟩
      repeat' apply And.intro
      all_goals first | rfl | decide),
   (by
      refine ⟨3, 8, (setCore 3 { state := .rotation } (setCore 5 { state := .rotation } up)), ?_⟩
      repeat' apply And.intro
      all_goals first | rfl | decide),
   (by
      refine ⟨3, 8, none, (setCore 3 { state := .rotation, ueTimes := [0, 0] } up), ?_⟩
      repeat' apply And.intro
      all_goals first | rfl | decide)⟩

theorem witness_KilnSheafCommandsComplete :
    (∃ (x : Seq) (f : Format) (note : AttendNote), ∃ c s, admits 0x03 0x01 (fun c s => attendArgs c = true ∧ attendRules c = true ∧ atGlobals c ≤ 64 ∧ atCount c ≤ 256 ∧ (atRetrieved c && atGleaner c) = false ∧ (∀ h ∈ s.tir.held, h.seq ≠ argU c 32 4) ∧
      tblGet? s.gln.notes s.cln.current = none ∧ attendChecks c s = .ok (x, f, note) ∧
      (let a := attendOf s.cln.current c x f note (hostList c f) s
       readSheaves a ≠ [] ∧ bodiesDenied ((readSheaves a).map (·.1.body)) s = none)) c s) ∧
    (∃ (x : Seq) (f : Format) (note : AttendNote) (found : List Nat) (g : GSearch) (t : State), ∃ c s, admits 0x03 0x01 (fun c s => attendArgs c = true ∧ attendRules c = true ∧ atGlobals c ≤ 64 ∧ atCount c ≤ 256 ∧ (atRetrieved c && atGleaner c) = true ∧ hasGleaner s = true ∧ (∀ h ∈ s.tir.held, h.seq ≠ argU c 32 4) ∧
      tblGet? s.gln.notes s.cln.current = none ∧ attendChecks c s = .ok (x, f, note) ∧
      attendSearch s.cln.current c f (argU c 32 4) (argBits c 36 0 12) x note.search s = (found, some g, t) ∧ g.todo ≠ [] ∧
      bodiesDenied ((readSheaves (attendOf s.cln.current c x f note found t)).map (·.1.body)) t = none) c s) ∧
    (∃ fs, ∃ c s, admits 0x03 0x10 (fun c s => argsOnly c [(32, 0, 8)] && argU c 32 1 != 0xFF && (match tblGet? s.kln.rope (argU c 32 1) with | none => true | some p => p.ctx == cmdCtx s c) && bufferCheck c s == none && decide (64 ≤ c.inLen) &&
      ropeHeader c.input && c.inLen == 64 + (if bitOf (inU c 0 1) 1 then 8 else 4) * (inU c 2 2 / 2) && (List.range (inU c 2 2 / 2)).mapM (ropeFreqOf c.input) == some fs &&
      (judge c { unit := 0x03, obj := argU c 32 1 } (.value (1 + leNat c.input)) s).1) c s) ∧
    (∃ c s, admits 0x03 0x11 (fun c s => argsOnly c [(32, 0, 8)] && argU c 32 1 != 0xFF && (match tblGet? s.kln.rope (argU c 32 1) with | none => true | some p => p.ctx == cmdCtx s c) &&
      (judge c { unit := 0x03, obj := argU c 32 1 } (.value 0) s).1) c s) ∧
    (∃ c s, admits 0x03 0x20 (fun c s => argsOnly c [(32, 0, 3), (34, 0, 16)] && decide (1 ≤ argBits c 32 0 3 ∧ argBits c 32 0 3 ≤ 4) && decide (16 ≤ argU c 34 2 ∧ argU c 34 2 ≤ 4096) &&
      (judge c { unit := 0x03, obj := 0x100 } (.value (argBits c 32 0 3 + 8 * argU c 34 2)) s).1) c s) ∧
    (∃ c s, admits 0x03 0x21 (fun c _ => argsOnly c []) c s) ∧
    (∃ c s, admits 0x04 0x01 (fun c s => argsOnly c [(32, 0, 12)] && bufferCheck c s == none && c.inLen == formatLen (inU c 0 1 % 8) && formatOk c.input && (match fmt? s (argBits c 32 0 12) with | none => true | some f => mayName s c f.ctx && !formatUsed s (argBits c 32 0 12)) &&
      (judge c { unit := 0x04, obj := argBits c 32 0 12 } (.value (1 + leNat c.input)) s).1) c s) ∧
    (∃ f, ∃ c s, admits 0x04 0x02 (fun c s => argsOnly c [(32, 0, 12)] && fmt? s (argBits c 32 0 12) == some f && mayName s c f.ctx && !formatUsed s (argBits c 32 0 12) &&
      (judge c { unit := 0x04, obj := argBits c 32 0 12 } (.value 0) s).1) c s) ∧
    (∃ (x : Seq) (e : Entry) (b : Body) (f : Format), ∃ c s, admits 0x04 0x20 (fun c s => argsOnly c [(32, 0, 32), (36, 0, 12), (38, 0, 8), (44, 0, 32)] ∧ (∀ h ∈ s.tir.held, h.seq ≠ argU c 32 4) ∧ getSeq? s (argU c 32 4) = some x ∧ argBits c 36 0 12 < x.layers ∧ argU c 38 1 < x.groups ∧ mayName s c x.ctx ∧
      tblGet? (entriesOf x (argBits c 36 0 12) (argU c 38 1)) (argU c 44 4) = some e ∧ getBody? s e.body = some b ∧ fmt? s b.fmt = some f ∧ b.prot = false ∧ bufferCheck c s = none ∧ hasLoss s (argU c 32 4) = false ∧ bodiesDenied [e.body] s = none ∧
      readable b = true ∧ (if b.escCount == 0 then (layout f).size else roundUp (layout f).size 64 + roundUp (512 + 2 * b.escCount) 64) ≤ c.outLen ∧ bodyPoisoned (useBody e.body s) f b = false) c s) :=
  ⟨(by
      refine ⟨seqA, fmtA, { unposted := [], rope := none, search := none }, attendCmd, sheafUp, ?_⟩
      exact ⟨rfl, rfl, rfl, rfl, by decide, by decide, rfl, (fun _ h => nomatch h), rfl, ok_of_option (by decide +kernel), by decide +kernel, by decide +kernel⟩),
   (by
      refine ⟨seqA, fmtA, gleanNote, gleanRes.1, gleanRes.2.1.get glean_found, gleanRes.2.2, gleanCmd, gleanUp, ?_⟩
      exact ⟨rfl, rfl, rfl, rfl, by decide +kernel, by decide +kernel, by decide +kernel, rfl, (fun _ h => nomatch h), rfl, ok_of_option glean_checks, glean_eq, glean_left, by decide +kernel⟩),
   (by
      refine ⟨[1], cmd 3 0x10 [] ([2, 0, 2, 0] ++ zeros 60 ++ [1, 0, 0, 0, 0, 0, 0, 0]), up, ?_⟩
      exact ⟨rfl, rfl, by decide +kernel⟩),
   (by
      refine ⟨cmd 3 0x11 [], up, ?_⟩
      repeat' apply And.intro
      all_goals first | rfl | decide),
   (by
      refine ⟨cmd 3 0x20 [(32, 4), (34, 4096)], up, ?_⟩
      repeat' apply And.intro
      all_goals first | rfl | decide),
   (by
      refine ⟨cmd 3 0x21 [], up, ?_⟩
      repeat' apply And.intro
      all_goals first | rfl | decide),
   (by
      refine ⟨cmd 4 1 [(32, 4095)] ([3, 1, 64, 0, 1, 0, 0, 0, 1] ++ zeros 55), up, ?_⟩
      repeat' apply And.intro
      all_goals first | rfl | decide),
   (by
      refine ⟨fmtA, cmd 4 2 [], { up with kln := { formats := [(0, fmtA)] } }, ?_⟩
      repeat' apply And.intro
      all_goals first | rfl | decide),
   ⟨_, _, _, _, cmd 4 0x20 [(32, 1)], sheafUp, rfl, rfl, rfl, (fun _ h => nomatch h), rfl, by decide, by decide, rfl, rfl, rfl, rfl, rfl, rfl, rfl, rfl, rfl, by decide, by decide +kernel⟩⟩

theorem witness_SheafAppendCompletes : ∃ (x : Seq) (f : Format) (p b : Nat) (t : State), ∃ c s, admits 0x04 0x10 (fun c s =>
      let q := argU c 32 4
      let l := argBits c 36 0 12
      let g := argU c 38 1
      let n := argBits c 40 0 13
      let plan := tailPlan x l g
      let new := newPieces plan n
      let tail := tailBodies plan
      argsOnly c [(32, 0, 32), (36, 0, 12), (38, 0, 8), (39, 0, 1), (40, 0, 13), (42, 0, 8), (44, 0, 32)] ∧ 1 ≤ n ∧ n ≤ 4096 ∧ (∀ h ∈ s.tir.held, h.seq ≠ q) ∧ getSeq? s q = some x ∧ l < x.layers ∧ g < x.groups ∧ mayName s c x.ctx ∧
      fmt? s (x.formats.getD l 0) = some f ∧ n * (4 * tokenElems f) ≤ c.inLen ∧ bufferCheck c s = none ∧ hasLoss s q = false ∧ nextPos x l g = p ∧ (argU c 44 4 = 0xFFFFFFFF ∨ argU c 44 4 = p) ∧
      (new = [] ∨ (plan.base + 64 * (new.length - 1) ≤ 2 ^ 32 - 64 ∧ tableHolds s new.length = true)) ∧ bodiesDenied tail s = none ∧ (x.prot = false ∨ keyHeld s x.ctx (·.memKey)) ∧ (x.dirtyMark = true ∨ journalDenied s = none) ∧ badToken c f n = none ∧
      (∀ k ∈ tail, ∀ y, getBody? s k = some y → y.refs ≤ 1 ∨ readable y) ∧
      (writableTail q l g plan (min n (64 - plan.tok)) s).map (openSheaves q l g x (x.formats.getD l 0) f plan.base new) = some (.body b t)) c s := ⟨_, _, _, _, _, { cmd 4 0x10 [(32, 1), (40, 1), (42, 1), (44, 0xFFFFFFFF)] with inLen := 512 }, sheafUp, rfl, rfl, by decide +kernel, by decide +kernel, by decide +kernel, (fun _ h => nomatch h), rfl, by decide +kernel, by decide +kernel, rfl, rfl, by decide +kernel, rfl, rfl, rfl, .inl rfl, .inl rfl, rfl, .inl rfl, .inr rfl, by decide +kernel, (by decide), rfl⟩

theorem witness_WorkItemRowsComplete :
    (∃ (k n : Nat) (i : Item) (rest : List (Nat × Item)) (s : State), i.append = false ∧ readyItems (workBoundary s) = (k, i) :: rest ∧ coreFor (reserveCore ((k, i) :: rest) (workBoundary s)) k i = some n) ∧
    (∃ (item beats n slot : Nat) (i : Item) (a : Attend) (s : State), tblGet? s.kln.items item = some i ∧ i.placed = some (n, slot) ∧ stageHeld s n = false ∧ i.append = false ∧ tblGet? s.kln.attends i.oid = some a) ∧
    (∃ (item beats n slot : Nat) (i : Item) (s : State), tblGet? s.kln.items item = some i ∧ i.placed = some (n, slot) ∧ stageHeld s n = false ∧ i.append = true) ∧
    (∃ (item : Nat) (i : Item) (s : State), tblGet? s.kln.items item = some i ∧ i.placed = none ∧ itemResident s i = false ∧ i.since + tierParam s 0x05 * 1000000 ≤ s.now) ∧
    (∃ (item : Nat) (h : Held) (l : List Nat) (s : State), tblGet? s.kln.items item = none ∧ s.tir.held.find? (fun h => h.item == item) = some h ∧ h.why = .bodies l ∧ l ≠ [] ∧ h.since + tierParam s 0x05 * 1000000 ≤ s.now) :=
  ⟨(by
      refine ⟨4, 3, { oid := 7, idx := 0, ctx := 0, append := false, seq := 1, layer := 0, group := 0, views := [{ idx := 0, basePos := 0, tokens := 1, body := 0 }], since := 0 }, [], { (sheafUp { bodyA with implicit := 1 }) with kln := { (sheafUp { bodyA with implicit := 1 }).kln with items := [(4, { oid := 7, idx := 0, ctx := 0, append := false, seq := 1, layer := 0, group := 0, views := [{ idx := 0, basePos := 0, tokens := 1, body := 0 }], since := 0 })], attends := [(7, attendA 1)], backlog := [4] }, fld := { cores := [(3, { state := .rotation })] } }, ?_⟩
      exact ⟨rfl, by decide +kernel, by decide +kernel⟩),
   ⟨4, 100, 3, 0, _, _, { (sheafUp { bodyA with implicit := 1 }) with kln := { (sheafUp { bodyA with implicit := 1 }).kln with items := [(4, { oid := 7, idx := 0, ctx := 0, append := false, seq := 1, layer := 0, group := 0, views := [{ idx := 0, basePos := 0, tokens := 1, body := 0 }], since := 0, placed := some (3, 0) })], attends := [(7, attendA 1)], backlog := [4] }, fld := { cores := [(3, { state := .rotation })] } }, rfl, rfl, by decide, rfl, rfl⟩,
   ⟨4, 100, 3, 0, _, { (sheafUp { bodyA with implicit := 1 }) with kln := { (sheafUp { bodyA with implicit := 1 }).kln with items := [(4, { oid := 7, idx := 0, ctx := 0, append := true, seq := 1, layer := 0, group := 0, views := [{ idx := 0, basePos := 0, tokens := 1, body := 0 }], since := 0, placed := some (3, 0) })], attends := [(7, attendA 1)], backlog := [4] }, fld := { cores := [(3, { state := .rotation })] } }, rfl, rfl, by decide, rfl⟩,
   ⟨4, _, { ({ (sheafUp { bodyA with state := .cold, coldKind := .peat }) with kln := { (sheafUp { bodyA with state := .cold, coldKind := .peat }).kln with items := [(4, { oid := 7, idx := 0, ctx := 0, append := false, seq := 1, layer := 0, group := 0, views := [{ idx := 0, basePos := 0, tokens := 1, body := 0 }], since := 0 })], attends := [(7, attendA 1)], backlog := [4] }, fld := { cores := [(3, { state := .rotation })] } }) with now := 10000000 * 1000 }, rfl, rfl, by decide, by decide⟩,
   ⟨12, _, [0], { sheafUp { bodyA with state := .cold, coldKind := .peat } with now := 10000000000, tir := { (sheafUp { bodyA with state := .cold, coldKind := .peat }).tir with held := [{ oid := 7, seq := 1, unit := 4, verb := 0x20, why := .bodies [0], since := 0, item := 12 }] } }, rfl, rfl, rfl, by decide, by decide⟩⟩

theorem witness_EmberRowsComplete :
    (∃ (eda : Nat) (data : List Byte) (bad : Bool) (reports : List Nat) (s : State), data ≠ [] ∧ eda + data.length ≤ emberBytes s ∧ (rowsOf eda data.length).any (accessWaits s) = false ∧ coherentAt s eda = none) ∧
    (∃ (eda : Nat) (data : List Byte) (bad : Bool) (reports : List Nat) (s : State), data ≠ [] ∧ eda + data.length ≤ emberBytes s ∧ (rowsOf eda data.length).any (accessWaits s) = false ∧ coherentAt s eda = none ∧ s.hlt.arms = []) ∧
    (∃ (eda : Nat) (scrub : Bool) (s : State), eda < emberBytes s ∧ chanOut s (chanOf s eda) = false ∧ s.hlt.arms = []) ∧
    (∃ (m : Nat) (s : State), m < nChans s ∧ (getChan s m).state = .service ∧ (getChan s m).repairing.contains ((getChan s m).frameNow * 64 + (getChan s m).bankNow) = false ∧ fencesAt s (rowEda (nChans s) m (getChan s m).bankNow (getChan s m).frameNow) = []) ∧
    (∃ (m i : Nat) (s : State), m < nChans s ∧ i < 16 ∧ (getChan s m).state = .service ∧ (getChan s m).repairing.contains ((getChan s m).frameNow * 64 + (getChan s m).bankNow) = false ∧ fencesAt s (rowEda (nChans s) m (getChan s m).bankNow (getChan s m).frameNow) = [] ∧ (getChan s m).ceRowsLast.contains ((getChan s m).frameNow * 64 + (getChan s m).bankNow) = true) ∧
    (∃ (m row : Nat) (s : State), (getChan s m).repairing.contains row = true) :=
  ⟨(by
      refine ⟨64, [1, 2], true, [], chansUp, ?_⟩
      repeat' apply And.intro
      all_goals first | rfl | decide),
   (by
      refine ⟨0, [0], false, [], chansUp, ?_⟩
      repeat' apply And.intro
      all_goals first | rfl | decide),
   (by
      refine ⟨0, false, chansUp, ?_⟩
      repeat' apply And.intro
      all_goals first | rfl | decide),
   (by
      refine ⟨0, chansUp, ?_⟩
      repeat' apply And.intro
      all_goals first | rfl | decide),
   (by
      refine ⟨0, 15, chansUp { state := .service, ceRowsLast := [0] }, ?_⟩
      repeat' apply And.intro
      all_goals first | rfl | decide),
   (by
      refine ⟨0, 3, chansUp { state := .service, repairing := [3] }, ?_⟩
      repeat' apply And.intro
      all_goals first | rfl | decide)⟩

theorem witness_PloughRowsComplete :
    (∃ d, ∃ c s, admits 0x05 0x01 (fun c s => ploughArgsOk (.fill (argU c 56 8)) c = true ∧ argBits c 32 0 1 = 0 ∧ ploughSpans s (.fill (argU c 56 8)) c = .ok [d] ∧ ploughDenied s (.fill (argU c 56 8)) c true = false ∧ s.emb.ploughs.length < 64) c s) ∧
    (∃ c s, admits 0x05 0x01 (fun c s => ploughArgsOk (.fill (argU c 56 8)) c = true ∧ argBits c 32 0 1 = 1 ∧ isSecure c = true ∧ (plotChans s c).all (chanOut s) = false ∧ s.emb.ploughs.length < 64) c s) ∧
    (∃ d a, ∃ c s, admits 0x05 0x02 (fun c s => ploughArgsOk .copy c = true ∧ argBits c 32 0 1 = 0 ∧ ploughSpans s .copy c = .ok [d, a] ∧ overlap d a (1024 * argU c 36 4) = false ∧
      (argBits c 32 1 1 = 1 ∨ a % frameSize s = d % frameSize s) ∧ ploughDenied s .copy c (a % frameSize s == d % frameSize s) = false ∧ s.emb.ploughs.length < 64) c s) ∧
    (∃ d a b, ∃ c s, admits 0x05 0x03 (fun c s => ploughArgsOk (.logic (argBits c 33 0 2)) c = true ∧ argBits c 32 0 1 = 0 ∧ ploughSpans s (.logic (argBits c 33 0 2)) c = .ok [d, a, b] ∧
      (a = d ∨ overlap d a (1024 * argU c 36 4) = false) ∧ (b = d ∨ overlap d b (1024 * argU c 36 4) = false) ∧ a % frameSize s = d % frameSize s ∧ b % frameSize s = d % frameSize s ∧ ploughDenied s (.logic (argBits c 33 0 2)) c true = false ∧ s.emb.ploughs.length < 64) c s) ∧
    (∃ c s, admits 0x05 0x02 (fun c s => ploughArgsOk .copy c = true ∧ argBits c 32 0 1 = 1 ∧ isSecure c = true ∧ overlap (argBits c 48 0 15) (argBits c 50 0 15) (argU c 36 4) = false ∧ (plotChans s c).all (chanOut s) = false ∧ s.emb.ploughs.length < 64) c s) ∧
    (∃ c s, admits 0x05 0x03 (fun c s => ploughArgsOk (.logic (argBits c 33 0 2)) c = true ∧ argBits c 32 0 1 = 1 ∧ isSecure c = true ∧ (argBits c 50 0 15 = argBits c 48 0 15 ∨ overlap (argBits c 48 0 15) (argBits c 50 0 15) (argU c 36 4) = false) ∧
      (argU c 40 8 = argBits c 48 0 15 ∨ overlap (argBits c 48 0 15) (argU c 40 8) (argU c 36 4) = false) ∧ (plotChans s c).all (chanOut s) = false ∧ s.emb.ploughs.length < 64) c s) ∧
    (∃ d, ∃ c s, admits 0x05 0x01 (fun c s => ploughArgsOk (.fill (argU c 56 8)) c = true ∧ argBits c 32 0 1 = 0 ∧ ploughSpans s (.fill (argU c 56 8)) c = .ok [d] ∧ protectedAt s c.outAddr = true) c s) ∧
    (∃ (k m : Nat) (o : Plough) (s : State), getPlough? s k = some o ∧ o.chans.contains m = true ∧ o.fenced.contains m = false ∧ (getChan s m).state = .service ∧ ((∀ j ∈ ploughOps s, j < k → unfenced s j m = false))) ∧
    (∃ (k m i : Nat) (o : Plough) (s : State), getPlough? s k = some o ∧ (getChan s m).fences.contains k = true ∧ (getChan s m).state = .service ∧ (ploughRows s o m).find? (fun i => !rowDone s o m i && indexReady s o k m i) = some i) ∧
    (∃ (k oid : Nat) (o : Plough) (s : State), getPlough? s k = some o ∧ ploughOver s o = true ∧ o.oid = some oid) :=
  ⟨(by
      refine ⟨0, ploughCmd 1 [(36, 1)] 0 0, chansUp, ?_⟩
      exact ⟨rfl, rfl, rfl, rfl, rfl, rfl, by decide⟩),
   (by
      refine ⟨{ ploughCmd 1 [(32, 1), (34, 8), (36, 1)] 0 0 with inDevice := false, outDevice := false, inAddr := 0, outAddr := 0 }, chansUp, ?_⟩
      exact ⟨rfl, rfl, rfl, rfl, rfl, by decide +kernel, by decide⟩),
   (by
      refine ⟨0, 1024, ploughCmd 2 [(32, 2), (36, 1)] 0 1024, chansUp, ?_⟩
      exact ⟨rfl, rfl, rfl, rfl, rfl, rfl, .inl rfl, rfl, by decide⟩),
   (by
      refine ⟨0, 0, 0, ploughCmd 3 [(36, 1), (40, 2 ^ 40)] 0 0, chansUp, ?_⟩
      exact ⟨rfl, rfl, rfl, rfl, rfl, .inl rfl, .inl rfl, rfl, rfl, rfl, by decide⟩),
   (by
      refine ⟨{ ploughCmd 2 [(32, 1), (34, 8), (36, 1), (50, 1)] 0 0 with inDevice := false, outDevice := false, inAddr := 0, outAddr := 0 }, chansUp, ?_⟩
      exact ⟨rfl, rfl, rfl, rfl, rfl, rfl, by decide +kernel, by decide⟩),
   (by
      refine ⟨{ ploughCmd 3 [(32, 1), (34, 8), (36, 1)] 0 0 with inDevice := false, outDevice := false, inAddr := 0, outAddr := 0 }, chansUp, ?_⟩
      exact ⟨rfl, rfl, rfl, rfl, rfl, .inl rfl, .inl rfl, by decide +kernel, by decide⟩),
   (by
      refine ⟨0, ploughCmd 1 [(36, 1)] 0 0, { (chansUp) with tir := { (chansUp).tir with regions := [(1, { ctx := 0, eda := 0, chunks := 1024, frames := false, prot := true })] } }, ?_⟩
      exact ⟨rfl, rfl, rfl, rfl, rfl, rfl⟩),
   ⟨3, 0, _, { chansUp with emb := { chansUp.emb with ploughs := [(3, ploughA)] } }, rfl, rfl, rfl, rfl, by decide⟩,
   ⟨3, 0, 0, _, { chansUp { state := .service, fences := [3] } with emb := { (chansUp { state := .service, fences := [3] }).emb with ploughs := [(3, ploughA [0])] } }, rfl, rfl, rfl, by decide⟩,
   ⟨3, 7, _, { chansUp with emb := { chansUp.emb with ploughs := [(3, ploughA [0] [(0, [0])])] } }, rfl, rfl, rfl⟩⟩

theorem witness_TierSequenceCommandsComplete :
    (∃ c s, admits 0x06 0x01 (fun c s =>
      let ids := (List.range (argBits c 32 0 13)).map (fun i => inU c (2 * i) 2)
      argsOnly c [(32, 0, 13), (34, 0, 8), (35, 0, 1), (36, 0, 32), (42, 0, 8)] = true ∧ 1 ≤ argBits c 32 0 13 ∧ argBits c 32 0 13 ≤ 4096 ∧ argU c 34 1 ≠ 0 ∧ bufferCheck c s = none ∧ 2 * argBits c 32 0 13 ≤ c.inLen ∧
      (∀ k ∈ ids, ∃ f, fmt? s k = some f ∧ mayName s c f.ctx = true) ∧ s.tir.seqs.length < 1048576 ∧ argBits c 35 0 1 = 0) c s) ∧
    (∃ x, ∃ c s, admits 0x06 0x02 (fun c s => argsOnly c [(32, 0, 32), (36, 0, 32)] = true ∧ getSeq? s (argU c 32 4) = some x ∧ mayName s c x.ctx = true ∧ (∀ h ∈ s.tir.held, h.seq ≠ argU c 32 4) ∧ (∀ e ∈ s.kln.appends, e.2.seq ≠ argU c 32 4) ∧
      x.startPos < argU c 36 4 ∧ (∀ p ∈ lgPairs x, argU c 36 4 ≤ nextPos x p.1 p.2) ∧ s.tir.seqs.length < 1048576 ∧ tableHolds s (allEntries (forkedSeq (argU c 36 4) x)).length = true) c s) ∧
    (∃ x, ∃ c s, admits 0x06 0x03 (fun c s => argsOnly c [(32, 0, 32)] = true ∧ getSeq? s (argU c 32 4) = some x ∧ mayName s c x.ctx = true ∧ s.tir.held = [] ∧
      (judge c { unit := 0x06, obj := argU c 32 4 } (.content 1) s).1 = true) c s) ∧
    (∃ x, ∃ c s, admits 0x06 0x04 (fun c s => argsOnly c [(32, 0, 32), (36, 0, 32)] = true ∧ getSeq? s (argU c 32 4) = some x ∧ mayName s c x.ctx = true ∧ s.tir.held = [] ∧
      (∀ e ∈ s.kln.appends, e.2.seq ≠ argU c 32 4) ∧ (∀ e ∈ s.kln.attends, e.2.seq ≠ argU c 32 4) ∧ (judge c { unit := 0x06, obj := argU c 32 4 } (.content 2) s).1 = true ∧
      x.startPos ≤ argU c 36 4 ∧ argU c 36 4 ≤ seqNextPos x ∧ (∀ e ∈ allEntries x, argU c 36 4 ≤ e.2.2.basePos ∨ e.2.2.basePos + e.2.2.tokens ≤ argU c 36 4) ∧
      (∀ e ∈ allEntries x, ∀ b, getBody? s e.2.2.body = some b → b.state ≠ .lost) ∧ tblGet? s.tir.journal (argU c 32 4) = none ∧
      tblGet? (truncateRest s.cln.current (argU c 32 4) (argU c 36 4) x (judge c { unit := 0x06, obj := argU c 32 4 } (.content 2) s).2).tir.journal (argU c 32 4) = none) c s) ∧
    (∃ x es, ∃ c s, admits 0x06 0x05 (fun c s => argsOnly c [(32, 0, 32), (36, 0, 16), (38, 0, 8), (40, 0, 32), (44, 0, 32), (48, 0, 32)] = true ∧ getSeq? s (argU c 32 4) = some x ∧ mayName s c x.ctx = true ∧ s.tir.held = [] ∧
      (∀ e ∈ s.kln.appends, e.2.seq ≠ argU c 32 4) ∧ (∀ e ∈ s.kln.attends, e.2.seq ≠ argU c 32 4) ∧ namedEntries c x true = some es ∧ (judge c { unit := 0x06, obj := argU c 32 4 + 2 ^ 32 } (.value c.args.toNat) s).1 = true ∧
      (∀ e ∈ es, 0 ≤ (e.2.2.basePos : Int) + ofTwos 32 (argU c 48 4) ∧ (e.2.2.basePos : Int) + ofTwos 32 (argU c 48 4) ≤ 2 ^ 32 - 64) ∧ tblGet? s.tir.journal (argU c 32 4) = none ∧
      tblGet? (remapSeq (argU c 32 4) (ofTwos 32 (argU c 48 4)) es (judge c { unit := 0x06, obj := argU c 32 4 + 2 ^ 32 } (.value c.args.toNat) s).2).tir.journal (argU c 32 4) = none) c s) ∧
    (∃ x, ∃ c s, admits 0x06 0x08 (fun c s => argsOnly c [(32, 0, 32), (36, 0, 16), (38, 0, 8), (40, 0, 32), (44, 0, 32)] = true ∧ getSeq? s (argU c 32 4) = some x ∧ mayName s c x.ctx = true ∧ argU c 36 2 < x.layers ∧ argU c 38 1 < x.groups ∧
      (∀ h ∈ s.tir.held, h.seq ≠ argU c 32 4) ∧ 32 * argU c 44 4 ≤ c.outLen ∧ bufferCheck c s = none) c s) ∧
    (∃ x es, ∃ c s, admits 0x06 0x10 (fun c s => argsOnly c [(32, 0, 32), (36, 0, 16), (38, 0, 8), (40, 0, 32), (44, 0, 32), (52, 0, 1)] = true ∧ getSeq? s (argU c 32 4) = some x ∧ mayName s c x.ctx = true ∧ namedEntries c x true = some es ∧
      (∀ h ∈ s.tir.held, h.seq ≠ argU c 32 4) ∧ (s.tir.pins.filter (fun p => p.2.ctx == x.ctx)).length < 65536 ∧ argBits c 52 0 1 = 0 ∧ (∀ e ∈ es, ∀ b, getBody? s e.2.2.body = some b → b.explicit ≠ 0) ∧ pinnedHalves s false * 1000 ≤ tierParam s 0x06 * poolTotal s) c s) ∧
    (∃ p, ∃ c s, admits 0x06 0x11 (fun c s => argsOnly c [(32, 0, 32)] = true ∧ tblGet? s.tir.pins (argU c 32 4) = some p ∧ mayName s c p.ctx = true) c s) ∧
    (∃ eda, ∃ c s, admits 0x06 0x18 (fun c s => argsOnly c [(32, 0, 32), (36, 0, 1), (40, 0, 64)] = true ∧ 1 ≤ argU c 32 4 ∧ argU c 32 4 ≤ frameChunks s ∧ argBits c 36 0 1 = 0 ∧ argU c 40 8 = 0 ∧ s.tir.regions.length < 1048576 ∧
      ctxProtects s (cmdCtx s c) = false ∧ findRun s (argU c 32 4) = some eda) c s) ∧
    (∃ r off, ∃ c s, admits 0x06 0x19 (fun c s => argsOnly c [(40, 0, 64)] = true ∧ resolve s (argU c 40 8) = some (r, off) ∧ r.comp = none ∧ mayName s c r.ctx = true) c s) :=
  ⟨(by
      refine ⟨cmd 6 1 [(32, 1), (34, 1), (42, 1)] [0, 0], { up with kln := { formats := [(0, fmtA)] } }, ?_⟩
      exact ⟨rfl, rfl, rfl, by decide, by decide, by decide, rfl, by decide, by decide, by decide, rfl⟩),
   ⟨_, cmd 6 2 [(32, 1), (36, 1)], sheafUp, rfl, rfl, rfl, rfl, rfl, (fun _ h => nomatch h), (fun _ h => nomatch h), by decide, by decide, by decide⟩,
   ⟨_, cmd 6 3 [(32, 1)], sheafUp, rfl, rfl, rfl, rfl, rfl, rfl, rfl⟩,
   ⟨_, cmd 6 4 [(32, 1), (36, 1)], sheafUp, rfl, rfl, rfl, rfl, rfl, rfl, (fun _ h => nomatch h), (fun _ h => nomatch h), rfl, by decide, by decide, by decide, by decide, rfl, rfl⟩,
   ⟨_, _, cmd 6 5 [(32, 1), (36, 0xFFFF), (38, 0xFF), (44, 1), (48, 64)], sheafUp, rfl, rfl, rfl, rfl, rfl, rfl, (fun _ h => nomatch h), (fun _ h => nomatch h), rfl, rfl, by decide, rfl, rfl⟩,
   ⟨_, cmd 6 8 [(32, 1), (44, 1)], sheafUp, rfl, rfl, rfl, rfl, rfl, by decide, by decide, (fun _ h => nomatch h), by decide, rfl⟩,
   ⟨_, _, cmd 6 0x10 [(32, 1), (36, 0xFFFF), (38, 0xFF), (44, 1)], sheafUp { bodyA with explicit := 1 }, rfl, rfl, rfl, rfl, rfl, rfl, (fun _ h => nomatch h), by decide, rfl, by decide, by decide⟩,
   (by
      refine ⟨{ ctx := 0, seq := 1, bodies := [] }, cmd 6 0x11 [(32, 1)], { up with tir := { up.tir with pins := [(1, { ctx := 0, seq := 1, bodies := [] })] } }, ?_⟩
      repeat' apply And.intro
      all_goals first | rfl | decide),
   (by
      refine ⟨47261417472, cmd 6 0x18 [(32, 1)], chansUp, ?_⟩
      exact ⟨rfl, rfl, rfl, by decide, by decide, rfl, rfl, by decide, rfl, by decide +kernel⟩),
   ⟨_, _, cmd 6 0x19 [(40, 2 ^ 40 + 1)], chansUp, rfl, rfl, rfl, rfl, rfl, rfl⟩⟩

theorem witness_TierOtherCommandsComplete :
    (∃ x, ∃ c s, admits 0x06 0x12 (fun c s => argsOnly c [(32, 0, 32)] = true ∧ argU c 32 4 ≠ 0xFFFFFFFF ∧ namedSeq? s (argU c 32 4) = some x ∧ mayName s c x.ctx = true ∧ s.tir.mounted = true ∧ (∀ e ∈ allEntries x, ∀ b, getBody? s e.2.2.body = some b → b.dirty = false ∨ b.state = .lost)) c s) ∧
    (∃ c s, admits 0x06 0x20 (fun c s => argsOnly c [(32, 0, 16), (40, 0, 64)] = true ∧ tierRange s (argU c 32 2) (argU c 40 8) (tierParam s) = true ∧ (judge c { unit := 0x06, obj := 2 ^ 33 + argU c 32 2 } (.value (argU c 40 8)) s).1 = true) c s) ∧
    (∃ c s, admits 0x06 0x21 (fun c _ => argsOnly c [] = true) c s) ∧
    (∃ c s, admits 0x06 0x22 (fun c _ => argsOnly c [] = true) c s) ∧
    (∃ c s, admits 0x06 0x23 (fun c s => argsOnly c [] = true ∧ bufferCheck c s = none ∧ s.tir.losses = []) c s) ∧
    (∃ t, ∃ c s, admits 0x06 0x30 (fun c s => argsOnly c [(32, 0, 32)] = true ∧ argU c 32 4 ≤ mostAllots s ∧ s.tir.allots.length < argU c 32 4 ∧ addAllots (argU c 32 4 - s.tir.allots.length) s = some t ∧ (judge c { unit := 0x06, obj := 2 ^ 40 } (.value (argU c 32 4)) t).1 = true) c s) ∧
    (∃ c s, admits 0x06 0x31 (fun c s => argsOnly c [(32, 0, 32)] = true ∧ (judge c { unit := 0x06, obj := 2 ^ 41 } (.value (argU c 32 4)) s).1 = true) c s) ∧
    (∃ c s, admits 0x06 0x32 (fun c s => argsOnly c [(32, 0, 12), (34, 0, 16), (36, 0, 1)] = true ∧ 1 ≤ argU c 34 2 ∧ argU c 34 2 ≤ 256 ∧ argBits c 36 0 1 = 0 ∧ s.tir.comps.length + s.tir.borrowing.length < 256 ∧
      sumN (s.tir.comps.map (fun e => e.2.count)) + sumN (s.tir.borrowing.map (fun e => e.2.count)) + argU c 34 2 ≤ 4096 ∧ cannotSend s (cmdCtx s c) (argU c 32 2) 0 = false ∧ cannotSend s 0 (argU c 32 2) 0 = false ∧ maySendInput s c (argU c 32 2) false = true ∧ protSlot s 0 none = none ∧ 1 ≤ freeTags s) c s) ∧
    (∃ x, ∃ c s, admits 0x06 0x33 (fun c s => argsOnly c [(32, 0, 16)] = true ∧ tblGet? s.tir.comps (argU c 32 2) = some x ∧ mayName s c x.ctx = true ∧ x.returnBy = none ∧ x.draining = false) c s) :=
  ⟨⟨_, cmd 6 0x12 [(32, 1)], sheafUp { bodyA with dirty := false }, rfl, rfl, rfl, by decide, rfl, rfl, rfl, by decide⟩,
   (by
      refine ⟨cmd 6 0x20 [(32, 3), (40, 55)], up, ?_⟩
      repeat' apply And.intro
      all_goals first | rfl | decide),
   (by
      refine ⟨cmd 6 0x21 [], up, ?_⟩
      repeat' apply And.intro
      all_goals first | rfl | decide),
   (by
      refine ⟨cmd 6 0x22 [], up, ?_⟩
      repeat' apply And.intro
      all_goals first | rfl | decide),
   (by
      refine ⟨cmd 6 0x23 [], up, ?_⟩
      repeat' apply And.intro
      all_goals first | rfl | decide),
   (by
      refine ⟨(addAllots 1 offerNext).get offer_fits, cmd 6 0x30 [(32, 1)], offerUp, ?_⟩
      exact ⟨rfl, rfl, rfl, by decide +kernel, by decide, (Option.some_get offer_fits).symm, by decide +kernel⟩),
   (by
      refine ⟨cmd 6 0x31 [(32, 2)], up, ?_⟩
      repeat' apply And.intro
      all_goals first | rfl | decide),
   (by
      refine ⟨cmd 6 0x32 [(32, 9), (34, 256)], fab, ?_⟩
      repeat' apply And.intro
      all_goals first | rfl | decide),
   (by
      refine ⟨{ ctx := 0, lender := 9, number := 3, count := 1, home := false, window := 0, job := 0, granted := 0 }, cmd 6 0x33 [(32, 4)], { up with tir := { up.tir with comps := [(4, { ctx := 0, lender := 9, number := 3, count := 1, home := false, window := 0, job := 0, granted := 0 })] } }, ?_⟩
      repeat' apply And.intro
      all_goals first | rfl | decide)⟩

theorem witness_TierEventsComplete :
    (∃ (b : Nat) (x : Body) (s : State), getBody? s b = some x ∧ x.dirty = true ∧ tierParam s 0x04 ≠ 0 ∧ x.lastAppend + tierParam s 0x04 * 1000000 ≤ s.now) ∧
    (∃ (w : WbEntry) (rest : List WbEntry) (t s : State), peatWritable s = true ∧ s.tir.wbq = w :: rest ∧ ((∀ x ∈ rest, x.expedited = false)) ∧ w.expedited = false ∧ startWb w.body s = some t ∧ tblGet? s.tir.snaps w.body = none ∧ (t.tir.snaps.map (·.1)).find? (fun b => !tblHas s.tir.snaps b) = some w.body) ∧
    (∃ (b n m k : Nat) (cp : Copy) (x : Body) (s : State), tblGet? s.tir.snaps b = some cp ∧ getBody? s b = some x ∧ bodyBusy s b = false ∧ s.hlt.arms = []) ∧
    (∃ (g : Nat) (s : State), hasPeat s = true ∧ g < 2 ∧ groupReads s g = true) ∧
    (∃ (j : JPending) (rest : List JPending) (s : State), s.tir.jwait = j :: rest ∧ s.tir.mounted = true ∧ j.oid = none) ∧
    (∃ (s : State), poolAt s (tierParam s 0x02) = false) ∧
    (∃ (b : Nat) (k : ColdKind) (s : State), tblGet? s.tir.evicting b = some k ∧ bodyBusy s b = false) ∧
    (∃ (e : FetchEntry) (rest : List FetchEntry) (t s : State), fetchOrder s = e :: rest ∧ startFetch e.body s = some t) ∧
    (∃ (b : Nat) (r : Bool) (x : Body) (cp : Copy) (s : State), getBody? s b = some x ∧ x.state = .fetching ∧ bodyBusy s b = false ∧ coldCopy s b x = some cp) ∧
    (∃ (s : State), hasPeat s = true ∧ s.tir.mounted = false) :=
  ⟨⟨0, _, { (sheafUp) with now := 10000000000 }, rfl, rfl, by decide, by decide⟩,
   ⟨{ body := 0, expedited := false }, [], _, { (sheafUp) with tir := { (sheafUp).tir with wbq := [{ body := 0, expedited := false }] } }, rfl, rfl, by decide, rfl, rfl, rfl, by decide +kernel⟩,
   ⟨0, 16384, 1, 2, _, _, { (sheafUp) with tir := { (sheafUp).tir with snaps := [(0, { bytes := [], esc := [], escCount := 0, tokens := 1 })] } }, rfl, rfl, rfl, rfl⟩,
   (by
      refine ⟨1, up, ?_⟩
      repeat' apply And.intro
      all_goals first | rfl | decide),
   (by
      refine ⟨{ record := .mark 1 true, oid := none }, [], { up with tir := { up.tir with jwait := [{ record := .mark 1 true, oid := none }] } }, ?_⟩
      repeat' apply And.intro
      all_goals first | rfl | decide),
   (by
      refine ⟨{ sheafUp with tir := { sheafUp.tir with params := [(2, 1001)] } }, ?_⟩
      repeat' apply And.intro
      all_goals first | rfl | decide),
   (by
      refine ⟨0, .peat, { (sheafUp) with tir := { (sheafUp).tir with evicting := [(0, .peat)] } }, ?_⟩
      repeat' apply And.intro
      all_goals first | rfl | decide),
   (by
      refine ⟨{ body := 0, by_ := 3 }, [], (startFetch 0 fetchFrom).get fetch_starts, fetchFrom, ?_⟩
      exact ⟨rfl, (Option.some_get fetch_starts).symm⟩),
   ⟨0, true, _, _, { (sheafUp { bodyA with state := .fetching, dirty := false, coldKind := .peat }) with tir := { (sheafUp { bodyA with state := .fetching, dirty := false, coldKind := .peat }).tir with peat := [(0, { bytes := [], esc := [], escCount := 0, tokens := 1 })] } }, rfl, rfl, rfl, rfl⟩,
   (by
      refine ⟨{ up with tir := { up.tir with mounted := false } }, ?_⟩
      repeat' apply And.intro
      all_goals first | rfl | decide)⟩

theorem witness_FallowRowsComplete :
    (∃ n w j t, ∃ f s, f.op = 0x07 ∧ inOrder f s ∧ (fun o s => o.frame.opFlags = 1 ∧ o.frame.dstCtx = 0 ∧ o.frame.srcCtx = 0 ∧ o.frame.srcNode < 4096 ∧ grant o.frame.srcNode (o.frame.operand % 2 ^ 16) s = some (n, w, j, t)) (frameOut f s) (frameState f s)) ∧
    (∃ f s, f.op = 0x07 ∧ inOrder f s ∧ (fun o s => o.frame.opFlags = 1 ∧ o.frame.dstCtx = 0 ∧ o.frame.srcCtx = 0 ∧ o.frame.srcNode < 4096 ∧ grant o.frame.srcNode (o.frame.operand % 2 ^ 16) s = none) (frameOut f s) (frameState f s)) ∧
    (∃ b, ∃ f s, f.op = 0x87 ∧ inOrder f s ∧ (fun o s => o.frame.opFlags = 2 ∧ o.frame.dstCtx = 0 ∧ o.frame.srcCtx = 0 ∧ o.frame.srcNode < 4096 ∧ borrowingOf s o.frame = some b) (frameOut f s) (frameState f s)) ∧
    (∃ b, ∃ f s, f.op = 0x87 ∧ inOrder f s ∧ (fun o s => o.frame.opFlags = 3 ∧ o.frame.dstCtx = 0 ∧ o.frame.srcCtx = 0 ∧ o.frame.srcNode < 4096 ∧ borrowingOf s o.frame = some b) (frameOut f s) (frameState f s)) ∧
    (∃ k, ∃ f s, f.op = 0x07 ∧ inOrder f s ∧ (fun o s => o.frame.opFlags = 4 ∧ o.frame.dstCtx = 0 ∧ o.frame.srcCtx = 0 ∧ o.frame.srcNode < 4096 ∧ compOf s o.frame.srcNode o.frame.msgLen = some k ∧ o.frame.operand % 2 ^ 32 ≠ 0) (frameOut f s) (frameState f s)) ∧
    (∃ l, ∃ f s, f.op = 0x07 ∧ inOrder f s ∧ (fun o s => o.frame.opFlags = 5 ∧ o.frame.dstCtx = 0 ∧ o.frame.srcCtx = 0 ∧ o.frame.srcNode < 4096 ∧ tblGet? s.tir.lent (o.frame.msgLen % 2 ^ 16) = some l ∧ l.borrower = o.frame.srcNode) (frameOut f s) (frameState f s)) ∧
    (∃ k x, ∃ f s, f.op = 0x87 ∧ inOrder f s ∧ (fun o s => o.frame.opFlags = 6 ∧ o.frame.dstCtx = 0 ∧ o.frame.srcCtx = 0 ∧ o.frame.srcNode < 4096 ∧ compOf s o.frame.srcNode o.frame.msgLen = some k ∧ tblGet? s.tir.comps k = some x) (frameOut f s) (frameState f s)) ∧
    (∃ f s, f.op = 0x07 ∧ inOrder f s ∧ (fun o _ => o.frame.opFlags = 7 ∧ o.frame.dstCtx = 0 ∧ o.frame.srcCtx = 0 ∧ o.frame.srcNode < 4096) (frameOut f s) (frameState f s)) ∧
    (∃ (holding : List Nat) (k n : Nat) (l : Lent) (s : State), s.tir.lent = [(k, l)] ∧ l.orphanSince = none ∧ l.borrower = n ∧ cannotSend s 0 n 0 = false) ∧
    (∃ (k t : Nat) (l : Lent) (s : State), tblGet? s.tir.lent k = some l ∧ l.noticeEnd = some t ∧ t ≤ s.now ∧ tblGet? (zeroLent k 2 s).tir.comps k = none) ∧
    (∃ (k t : Nat) (x : Comp) (s : State), tblGet? s.tir.lent k = none ∧ tblGet? s.tir.comps k = some x ∧ x.noticeEnd = some t ∧ t ≤ s.now) ∧
    (∃ (k t : Nat) (l : Lent) (s : State), tblGet? s.tir.lent k = some l ∧ l.orphanSince = some t ∧ t + tierParam s 0x09 * 1000000 ≤ s.now) ∧
    (∃ (k : Nat) (a : Allot) (s : State), tblGet? s.tir.allots k = some a ∧ a.state = .zeroing ∧ s.tir.allots.length ≤ s.tir.offered) ∧
    (∃ (k : Nat) (x : Comp) (s : State), tblGet? s.tir.comps k = some x ∧ x.draining = true ∧ x.active = true ∧ compBodies (cleanToPeat k s).2 k = []) :=
  ⟨⟨_, _, _, _, frame 7 1 0 1, { winUp with tir := { winUp.tir with allots := [(0, { state := .idle, runs := [(0, 1048576)] })] } }, ⟨rfl, ⟨rfl, rfl, rfl⟩, rfl, rfl, rfl, by decide, rfl⟩⟩,
   (by
      refine ⟨frame 7 1 0 1, winUp, ?_⟩
      exact ⟨rfl, ⟨rfl, rfl, rfl⟩, rfl, rfl, rfl, by decide, rfl⟩),
   ⟨_, frame 0x87 2 0 0, { winUp with tir := { winUp.tir with borrowing := [(0, { oid := 7, ctx := 0, lender := 9, count := 1, home := false })] } }, ⟨rfl, ⟨rfl, rfl, rfl⟩, rfl, rfl, rfl, by decide, rfl⟩⟩,
   ⟨_, frame 0x87 3 0 0, { winUp with tir := { winUp.tir with borrowing := [(0, { oid := 7, ctx := 0, lender := 9, count := 1, home := false })] } }, ⟨rfl, ⟨rfl, rfl, rfl⟩, rfl, rfl, rfl, by decide, rfl⟩⟩,
   (by
      refine ⟨4, frame 7 4 3 1, { winUp with tir := { winUp.tir with comps := [(4, { ctx := 0, lender := 9, number := 3, count := 1, home := false, window := 0, job := 0, granted := 0 })] } }, ?_⟩
      exact ⟨rfl, ⟨rfl, rfl, rfl⟩, rfl, rfl, rfl, by decide, rfl, by decide⟩),
   ⟨_, frame 7 5 4 0, { winUp with tir := { winUp.tir with lent := [(4, { borrower := 9, allots := [0], region := 2, window := 0, job := 0, granted := 0 })] } }, ⟨rfl, ⟨rfl, rfl, rfl⟩, rfl, rfl, rfl, by decide, rfl, rfl⟩⟩,
   ⟨4, _, frame 0x87 6 3 0, { winUp with tir := { winUp.tir with comps := [(4, { ctx := 0, lender := 9, number := 3, count := 1, home := false, window := 0, job := 0, granted := 0 })] } }, ⟨rfl, ⟨rfl, rfl, rfl⟩, rfl, rfl, rfl, by decide, rfl, rfl⟩⟩,
   (by
      refine ⟨frame 7 7 0 0, winUp, ?_⟩
      exact ⟨rfl, ⟨rfl, rfl, rfl⟩, rfl, rfl, rfl, by decide⟩),
   ⟨[4], 4, 9, _, { winUp with tir := { winUp.tir with lent := [(4, { borrower := 9, allots := [0], region := 2, window := 0, job := 0, granted := 0 })] } }, rfl, rfl, rfl, rfl⟩,
   ⟨4, 0, _, { winUp with tir := { winUp.tir with lent := [(4, { borrower := 9, allots := [0], region := 2, window := 0, job := 0, granted := 0, noticeEnd := some 0 })] } }, rfl, rfl, by decide, rfl⟩,
   ⟨4, 0, _, { winUp with tir := { winUp.tir with comps := [(4, { ctx := 0, lender := 9, number := 3, count := 1, home := false, window := 0, job := 0, granted := 0, noticeEnd := some 0 })] } }, rfl, rfl, rfl, by decide⟩,
   ⟨4, 0, _, { { winUp with tir := { winUp.tir with lent := [(4, { borrower := 9, allots := [0], region := 2, window := 0, job := 0, granted := 0, orphanSince := some 0 })] } } with now := 10 ^ 13 }, rfl, rfl, by decide⟩,
   ⟨0, _, { winUp with tir := { winUp.tir with allots := [(0, { state := .zeroing, runs := [] })], offered := 1 } }, rfl, rfl, by decide⟩,
   ⟨4, _, { winUp with tir := { winUp.tir with comps := [(4, { ctx := 0, lender := 9, number := 3, count := 1, home := false, window := 0, job := 0, granted := 0, draining := true })] } }, rfl, rfl, rfl, rfl⟩⟩

theorem witness_CharcoalCommandsComplete :
    (∃ c s, admits 0x07 0x01 (fun c s => charcoalChecks c s none = none ∧ namesProtected s c.inDevice c.inAddr = false ∧ namesProtected s c.outDevice c.outAddr = false ∧
      c.inLen % 2 = 0 ∧ 2 ≤ c.inLen ∧ c.inLen ≤ 33554432 ∧ compressBound (ceilDiv c.inLen 65536) ≤ c.outLen) c s) ∧
    (∃ es : List (List Nat), ∃ c s, admits 0x07 0x02 (fun c s => let x := plainStream c s (weightInput c s)
      charcoalChecks c s none = none ∧ weightsAt s c.inDevice c.inAddr = none ∧ (∀ k, weightInput c s = some k → weightsFit s c k = true) ∧ 32 ≤ c.inLen ∧ streamFp16 x = (argBits c 32 0 1 == 1) ∧ origLen x ≤ c.outLen ∧
      s.hlt.arms = [] ∧ headerOk x = true ∧ decodeStream x = es.map Decoded.elems) c s) ∧
    (∃ c s, admits 0x07 0x02 (fun c s => charcoalChecks c s none = none ∧ ((weightsAt s c.inDevice c.inAddr).isSome = true ∨ ∃ k, weightInput c s = some k ∧ weightsFit s c k = false)) c s) ∧
    (∃ c s, admits 0x07 0x03 (fun c s => charcoalChecks c s none = none) c s) :=
  ⟨(by
      refine ⟨{ cmd 7 1 [(35, 1)] with inLen := 2 }, up, ?_⟩
      repeat' apply And.intro
      all_goals first | rfl | decide),
   (by
      refine ⟨[[0x9F80, 0x9F80]], cmd 7 2 [(35, 1)] charcoalStream, up, ?_⟩
      exact ⟨rfl, rfl, rfl, rfl, (fun _ h => nomatch h), by decide, rfl, by decide, rfl, by decide +kernel, by decide +kernel⟩),
   (by
      refine ⟨{ cmd 7 2 [(35, 1)] with inDevice := true, inAddr := 2 ^ 40, inLen := 64 }, { chansUp with sec := { up.sec with weights := [(1, 9)] } }, ?_⟩
      exact ⟨rfl, rfl, rfl, .inl rfl⟩),
   (by
      refine ⟨cmd 7 3 [(35, 1)], up, ?_⟩
      repeat' apply And.intro
      all_goals first | rfl | decide)⟩

theorem witness_SeedbankCommandsComplete :
    (∃ c s, admits 0x08 0x01 (fun c s => argsOnly c [(32, 0, 5), (35, 0, 8), (36, 0, 13)] = true ∧ argBits c 32 0 2 ≠ 3 ∧ 1 ≤ argBits c 36 0 13 ∧ argBits c 36 0 13 ≤ 4096 ∧
      seedChecks c (seedUnits (argBits c 32 0 2)) (recordsLen (seedUnits (argBits c 32 0 2)) (argBits c 36 0 13) (argBits c 32 2 1 == 1)) (32 * argBits c 36 0 13) s = none ∧
      queuedSearches s + (keyRecords c (seedUnits (argBits c 32 0 2)) (argBits c 36 0 13) (argBits c 32 2 1 == 1)).length ≤ seedParam s 0x03) c s) ∧
    (∃ x n, ∃ c s, admits 0x08 0x02 (fun c s => argsOnly c [(32, 0, 12), (34, 0, 8), (35, 0, 8), (36, 0, 1)] = true ∧ tblGet? s.sdb.cursors (argBits c 32 0 12) = some x ∧ mayName s c x.ctx = true ∧ bufferCheck c s = none ∧
      n = (if argU c 34 1 == 0 then 256 else argU c 34 1) ∧ 32 * n ≤ c.outLen ∧ queuedSearches s + n ≤ seedParam s 0x03) c s) ∧
    (∃ c s, admits 0x08 0x03 (fun c s => argsOnly c [(32, 0, 3), (33, 0, 16), (35, 0, 8), (40, 0, 64)] = true ∧ argBits c 32 0 2 ≠ 3 ∧ argU c 33 2 ≤ 4095 ∧ bufferCheck c s = none ∧
      recordsLen (seedUnits (argBits c 32 0 2)) 1 (argBits c 32 2 1 == 1) ≤ c.inLen ∧ queuedSearches s + 1 ≤ seedParam s 0x03) c s) ∧
    (∃ c s, admits 0x08 0x10 (fun c s => argsOnly c [(32, 0, 3), (33, 0, 8), (35, 0, 8), (36, 0, 9)] = true ∧ argBits c 32 0 2 ≠ 3 ∧ 1 ≤ argBits c 36 0 9 ∧ argBits c 36 0 9 ≤ 256 ∧
      seedChecks c (seedUnits (argBits c 32 0 2)) (argBits c 36 0 9 * (keyLen (seedUnits (argBits c 32 0 2)) + 16)) 0 s = none) c s) ∧
    (∃ c s, admits 0x08 0x11 (fun c s => argsOnly c [(32, 0, 3), (35, 0, 8), (36, 0, 32), (40, 0, 12)] = true ∧ argBits c 32 0 2 ≠ 3 ∧ seedChecks c (seedUnits (argBits c 32 0 2)) (keyLen (seedUnits (argBits c 32 0 2))) 0 s = none ∧ argBits c 32 2 1 = 0 ∧
      (judge c (seedTarget (cmdCtx s c) (seedUnits (argBits c 32 0 2)) (inU c 0 (keyLen (seedUnits (argBits c 32 0 2))))) (.content 1) s).1 = true) c s) ∧
    (∃ x, ∃ c s, admits 0x08 0x12 (fun c s => argsOnly c [(32, 0, 3), (33, 0, 8), (35, 0, 8), (36, 0, 32), (40, 0, 32), (44, 0, 32)] = true ∧ argBits c 32 0 2 ≠ 3 ∧ argU c 40 4 ≠ 0xFFFFFFFF ∧ namedSeq? s (argU c 36 4) = some x ∧ mayName s c x.ctx = true ∧
      bufferCheck c s = none ∧ keyLen (seedUnits (argBits c 32 0 2)) ≤ c.inLen ∧ x.entries = [] ∧ (ownedBanks s x.ctx (seedUnits (argBits c 32 0 2))).isEmpty = false ∧ s.sdb.posts.length < 65536) c s) ∧
    (∃ c s, admits 0x08 0x13 (fun c s => argsOnly c [(32, 0, 2), (35, 0, 8)] = true ∧ argBits c 32 0 2 ≠ 3 ∧ seedChecks c (seedUnits (argBits c 32 0 2)) 0 0 s = none ∧
      (((ownedBanks s (cmdCtx s c) (seedUnits (argBits c 32 0 2))).map (fun b => b.2.entries.map (·.2))).flatten).length * (keyLen (seedUnits (argBits c 32 0 2)) + 24) ≤ c.outLen) c s) ∧
    (∃ x, ∃ c s, admits 0x08 0x20 (fun c s => argsOnly c [(32, 0, 7), (33, 0, 2), (35, 0, 8), (36, 0, 12)] = true ∧ argBits c 32 6 1 = 0 ∧ argBits c 33 0 2 ≠ 3 ∧ (judge c { unit := 0x08, obj := argBits c 32 0 6 } (.content 2) s).1 = true ∧
      tblHas s.sdb.banks (argBits c 32 0 6) = false ∧ getCtx? s (argBits c 36 0 12) = some x) c s) ∧
    (∃ c s, admits 0x08 0x20 (fun c s => argsOnly c [(32, 0, 7), (33, 0, 2), (35, 0, 8), (36, 0, 12)] = true ∧ argBits c 32 6 1 = 1 ∧ (judge c { unit := 0x08, obj := argBits c 32 0 6 } (.content 1) s).1 = true) c s) ∧
    (∃ c s, admits 0x08 0x21 (fun c s => argsOnly c [(32, 0, 16), (35, 0, 8), (40, 0, 64)] = true ∧ seedRange (argU c 32 2) (argU c 40 8) = true ∧ (judge c { unit := 0x08, obj := 0x100 + argU c 32 2 } (.value (argU c 40 8)) s).1 = true) c s) ∧
    (∃ c s, admits 0x08 0x22 (fun c _ => argsOnly c [(35, 0, 8)] = true) c s) :=
  ⟨(by
      refine ⟨cmd 8 1 [(35, 1), (36, 1)] [5, 0, 0, 0, 0, 0, 0, 0], bankUp, ?_⟩
      repeat' apply And.intro
      all_goals first | rfl | decide),
   ⟨_, 256, cmd 8 2 [(35, 1), (32, 2)] [], { jobUp (.lookup false false) with sdb := { (jobUp (.lookup false false)).sdb with jobs := [] } }, rfl, rfl, rfl, rfl, rfl, rfl, rfl, by decide, by decide⟩,
   (by
      refine ⟨cmd 8 3 [(35, 1), (32, 0)] [5, 0, 0, 0, 0, 0, 0, 0], up, ?_⟩
      repeat' apply And.intro
      all_goals first | rfl | decide),
   (by
      refine ⟨cmd 8 16 [(35, 1), (36, 1)] (zeros 24), bankUp, ?_⟩
      repeat' apply And.intro
      all_goals first | rfl | decide),
   (by
      refine ⟨cmd 8 17 [(35, 1), (32, 0)] [5, 0, 0, 0, 0, 0, 0, 0], bankUp, ?_⟩
      repeat' apply And.intro
      all_goals first | rfl | decide),
   ⟨_, cmd 8 18 [(35, 1), (36, 1), (40, 3)] (zeros 8), { bankUp with tir := { up.tir with seqs := [(1, { seqA with entries := [] })] } }, rfl, rfl, rfl, by decide, by decide, rfl, rfl, rfl, by decide, rfl, rfl, by decide⟩,
   (by
      refine ⟨cmd 8 19 [(35, 1), (32, 0)] [], bankUp, ?_⟩
      repeat' apply And.intro
      all_goals first | rfl | decide),
   ⟨_, cmd 8 32 [(35, 1), (32, 63), (36, 1)] [], withCtx, rfl, rfl, rfl, rfl, by decide, rfl, rfl, rfl⟩,
   (by
      refine ⟨cmd 8 32 [(35, 1), (32, 64 + 63)] [], bankUp, ?_⟩
      repeat' apply And.intro
      all_goals first | rfl | decide),
   (by
      refine ⟨cmd 8 33 [(35, 1), (32, 2), (40, 7)] [], up, ?_⟩
      repeat' apply And.intro
      all_goals first | rfl | decide),
   (by
      refine ⟨cmd 8 34 [(35, 1), (32, 0)] [], up, ?_⟩
      repeat' apply And.intro
      all_goals first | rfl | decide)⟩

theorem witness_SeedbankEventsComplete :
    (∃ (flips : List (Nat × BitVec 80)) (j : SearchJob) (js : List SearchJob) (key mask : Nat) (rest : List (Nat × Nat)) (long cur : Bool) (s : State), s.sdb.jobs = j :: js ∧ j.keys = (key, mask) :: rest ∧ j.kind = .lookup long cur) ∧
    (∃ (flips : List (Nat × BitVec 80)) (j : SearchJob) (js : List SearchJob) (key mask k : Nat) (rest : List (Nat × Nat)) (close : Bool) (s : State), s.sdb.jobs = j :: js ∧ j.keys = (key, mask) :: rest ∧ j.kind = .step k close) ∧
    (∃ (flips : List (Nat × BitVec 80)) (j : SearchJob) (js : List SearchJob) (key mask map : Nat) (rest : List (Nat × Nat)) (owner : Option Nat) (s : State), s.sdb.jobs = j :: js ∧ j.keys = (key, mask) :: rest ∧ j.kind = .census owner map) ∧
    (∃ (bank : Nat) (x : Bank) (i : SeedInsert) (rest : List SeedInsert) (s : State), tblGet? s.sdb.banks bank = some x ∧ x.queue = i :: rest) ∧
    (∃ (b u : Nat) (s : State), nextEvicting s = some (b, u)) ∧
    (∃ (k : Nat) (x : Cursor) (s : State), tblGet? s.sdb.cursors k = some x ∧ s.sdb.jobs = [] ∧ x.time + seedParam s 0x04 * 1000 ≤ s.now) ∧
    (∃ (t : Nat) (s : State), hubThrottled s = false ∧ t ≤ 85) ∧
    (∃ (t : Nat) (s : State), hubThrottled s = false ∧ 85 < t ∧ t ≤ 105) ∧
    (∃ (bank unit : Nat) (flip : BitVec 80) (s : State), bank < 64 ∧ unit < 16384 ∧ s.hlt.arms = [] ∧ ((flip ≠ 0 ∨ isFlipped bank unit s = true))) ∧
    (∃ (bank unit : Nat) (flip : BitVec 80) (b : Bank) (s : State), bank < 64 ∧ unit < 16384 ∧ s.hlt.arms = [] ∧ tblGet? s.sdb.banks bank = some b) :=
  ⟨⟨[], _, [], 5, 0xFF, [], true, false, jobUp (.lookup true false), rfl, rfl, rfl⟩,
   ⟨[], _, [], 5, 0xFF, 2, [], true, jobUp (.step 2 true), rfl, rfl, rfl⟩,
   ⟨[], _, [], 5, 0xFF, 0, [], none, jobUp (.census none 0), rfl, rfl, rfl⟩,
   ⟨63, _, _, [], bankUp { ctx := 0, width := 1, queue := [{ oid := some 7, entry := seedEntry }] }, rfl, rfl⟩,
   (by
      refine ⟨63, 0, bankUp { ctx := 0, width := 1, entries := [(0, { seedEntry with evicting := true })] }, ?_⟩
      repeat' apply And.intro
      all_goals first | rfl | decide),
   ⟨2, _, { jobUp (.step 2 true) with now := 10 ^ 9, sdb := { (jobUp (.step 2 true)).sdb with jobs := [] } }, rfl, rfl, by decide⟩,
   (by
      refine ⟨85, up, ?_⟩
      repeat' apply And.intro
      all_goals first | rfl | decide),
   (by
      refine ⟨105, up, ?_⟩
      repeat' apply And.intro
      all_goals first | rfl | decide),
   (by
      refine ⟨63, 16383, 1, up, ?_⟩
      exact ⟨by decide, by decide, rfl, .inl (by decide)⟩),
   ⟨63, 0, 0, _, bankUp, by decide, by decide, rfl, rfl⟩⟩

theorem witness_GleanerCommandsComplete :
    (∃ k, ∃ c s, admits 0x09 0x01 (fun c s => argsOnly c [] = true ∧ bufferCheck c s = none ∧ 64 ≤ c.inLen ∧ swathHeader c.input = true ∧ c.inLen = (swathPlan (inU c 2 2) (2 ^ inU c 4 1)).stop ∧
      swathFinite (swathFrom (cmdCtx s c) c.input) = true ∧ s.gln.swaths.length < 4096 ∧ sumN (s.gln.swaths.map (fun e => 2 ^ e.2.itemsLog2)) + 2 ^ inU c 5 1 ≤ 2 ^ 30 ∧
      areaUsed s + (swathFrom (cmdCtx s c) c.input).bytes ≤ s.tir.glnAreaGib * 2 ^ 30 ∧ tblFree? s.gln.swaths 4096 = some k) c s) ∧
    (∃ w, ∃ c s, admits 0x09 0x02 (fun c s => argsOnly c [(32, 0, 12)] = true ∧ swathOf c (argBits c 32 0 12) s = .ok w ∧ (judge c { unit := 0x09, obj := argBits c 32 0 12 } (.content 1) s).1 = true) c s) ∧
    (∃ x w, ∃ c s, admits 0x09 0x03 (fun c s => argsOnly c [(32, 0, 32), (36, 0, 12), (38, 0, 13), (40, 0, 12), (42, 0, 1), (48, 0, 64)] = true ∧ 1 ≤ argBits c 38 0 13 ∧ argBits c 38 0 13 ≤ 4096 ∧ namedSeq? s (argU c 32 4) = some x ∧
      mayName s c x.ctx = true ∧ argBits c 36 0 12 + argBits c 38 0 13 ≤ x.layers ∧ bindTarget s c x (argBits c 40 0 12) = .ok (some w) ∧ dimsDiffer s x (some w) ((List.range (argBits c 38 0 13)).map (argBits c 36 0 12 + ·)) = false ∧
      filterCheck s c w (argU c 48 8) = none ∧ (judge c { unit := 0x09, obj := 2 ^ 12 + argU c 32 4 * 4096 + argBits c 36 0 12 } (.value c.args.toNat) s).1 = true) c s) ∧
    (∃ x, ∃ c s, admits 0x09 0x03 (fun c s => argsOnly c [(32, 0, 32), (36, 0, 12), (38, 0, 13), (40, 0, 12), (42, 0, 1), (48, 0, 64)] = true ∧ 1 ≤ argBits c 38 0 13 ∧ argBits c 38 0 13 ≤ 4096 ∧ namedSeq? s (argU c 32 4) = some x ∧
      mayName s c x.ctx = true ∧ argBits c 36 0 12 + argBits c 38 0 13 ≤ x.layers ∧ argBits c 40 0 12 = 0xFFF ∧ (judge c { unit := 0x09, obj := 2 ^ 12 + argU c 32 4 * 4096 + argBits c 36 0 12 } (.value c.args.toNat) s).1 = true) c s) ∧
    (∃ w map, ∃ c s, admits 0x09 0x10 (fun c s => argsOnly c [(32, 0, 12), (34, 0, 9), (36, 0, 9), (38, 0, 3), (39, 0, 8), (40, 0, 32), (44, 0, 18), (48, 0, 64)] = true ∧ 1 ≤ argBits c 34 0 9 ∧ argBits c 34 0 9 ≤ 256 ∧
      1 ≤ argBits c 36 0 9 ∧ argBits c 36 0 9 ≤ 256 ∧ swathOf c (argBits c 32 0 12) s = .ok w ∧ gleanSeqCheck s c = none ∧ bufferCheck c s = none ∧ gleanInput c w ≤ c.inLen ∧ argBits c 34 0 9 * argBits c 36 0 9 * 16 ≤ c.outLen ∧
      readFilter s c w (argU c 48 8) = .ok map ∧ queriesWaiting s + argBits c 34 0 9 ≤ gleanParam s 0x02) c s) ∧
    (∃ w, ∃ c s, admits 0x09 0x11 (fun c s => argsOnly c [(32, 0, 12), (36, 0, 32), (40, 0, 32), (44, 0, 32)] = true ∧ swathOf c (argBits c 32 0 12) s = .ok w ∧ c.outDevice = true ∧ filterCheck s c w c.outAddr = none ∧
      bufferCheck c s = none ∧ protectedAt s c.outAddr = false ∧ ceilDiv (2 ^ w.itemsLog2) 8 ≤ c.outLen) c s) ∧
    (∃ w, ∃ c s, admits 0x09 0x11 (fun c s => argsOnly c [(32, 0, 12), (36, 0, 32), (40, 0, 32), (44, 0, 32)] = true ∧ swathOf c (argBits c 32 0 12) s = .ok w ∧ c.outDevice = true ∧ filterCheck s c w c.outAddr = none ∧
      bufferCheck c s = none ∧ protectedAt s c.outAddr = true) c s) ∧
    (∃ k ks, ∃ c s, admits 0x09 0x12 (fun c s => argsOnly c [(32, 0, 12)] = true ∧ mergeTargets s c (argBits c 32 0 12) = .ok (k :: ks)) c s) ∧
    (∃ c s, admits 0x09 0x12 (fun c s => argsOnly c [(32, 0, 12)] = true ∧ mergeTargets s c (argBits c 32 0 12) = .ok []) c s) ∧
    (∃ c s, admits 0x09 0x20 (fun c s => argsOnly c [(32, 0, 16), (40, 0, 64)] = true ∧ gleanRange (argU c 32 2) (argU c 40 8) = true ∧ (judge c { unit := 0x09, obj := 2 ^ 46 + argU c 32 2 } (.value (argU c 40 8)) s).1 = true) c s) ∧
    (∃ w, ∃ c s, admits 0x09 0x21 (fun c s => argsOnly c [(32, 0, 12)] = true ∧ swathOf c (argBits c 32 0 12) s = .ok w) c s) :=
  ⟨(by
      refine ⟨0, { cmd 9 1 [] ([0, 0, 64, 0, 0, 10, 0, 0, 1, 1, 0] ++ zeros 53) with inLen := (swathPlan 64 1).stop, input := [0, 1, 64, 0, 0, 10, 0, 0, 1, 1, 0] ++ zeros 53 }, up, ?_⟩
      exact ⟨rfl, rfl, rfl, rfl, by decide, by decide +kernel, rfl, by decide +kernel, by decide, by decide, by decide, by decide +kernel⟩),
   ⟨_, cmd 9 2 [(32, 3)], swathUp, rfl, rfl, rfl, rfl, rfl⟩,
   ⟨_, _, cmd 9 3 [(32, 1), (38, 1), (40, 3)], swathUp, rfl, rfl, rfl, by decide, by decide, rfl, rfl, by decide, rfl, rfl, rfl, rfl⟩,
   ⟨_, cmd 9 3 [(32, 1), (38, 1), (40, 0xFFF)], swathUp, rfl, rfl, rfl, by decide, by decide, rfl, rfl, by decide, rfl, rfl⟩,
   ⟨_, _, { cmd 9 16 [(32, 3), (34, 1), (36, 1), (38, 4), (39, 1)] with inLen := 256 }, swathUp, rfl, rfl, rfl, by decide, by decide, by decide, by decide, rfl, rfl, rfl, by decide, by decide, rfl, by decide⟩,
   ⟨_, { cmd 9 17 [(32, 3)] with outDevice := true, outAddr := 2 ^ 40, outLen := 128 }, swathUp, rfl, rfl, rfl, rfl, rfl, rfl, rfl, rfl, by decide⟩,
   ⟨_, { cmd 9 17 [(32, 3)] with outDevice := true, outAddr := 2 ^ 41, outLen := 128 }, { swathUp with sec := { up.sec with ctxs := [(0, ctx1)], keys := [(ctx1.memKey, keyA)] } }, rfl, rfl, rfl, rfl, rfl, rfl, rfl, rfl⟩,
   ⟨_, _, cmd 9 18 [(32, 3)], swathUp, rfl, rfl, rfl, rfl⟩,
   (by
      refine ⟨cmd 9 18 [(32, 0xFFF)], up, ?_⟩
      exact ⟨rfl, rfl, rfl, rfl⟩),
   (by
      refine ⟨cmd 9 32 [(32, 4), (40, 900)], up, ?_⟩
      repeat' apply And.intro
      all_goals first | rfl | decide),
   ⟨_, cmd 9 33 [(32, 3)], swathUp, rfl, rfl, rfl, rfl⟩⟩

theorem witness_GleanerEventsComplete :
    (∃ (swath list : Nat) (s : State), visitDue s swath list = true ∧ listWaiting s swath list ≠ []) ∧
    (∃ (k : Nat) (x : GSearch) (s : State), tblGet? s.gln.searches k = some x ∧ x.todo = [] ∧ x.attend = false) ∧
    (∃ (k : Nat) (x : GSearch) (s : State), tblGet? s.gln.searches k = some x ∧ x.todo = [] ∧ x.attend = true) ∧
    (∃ (p : Posting) (rest : List Posting) (s : State), s.gln.queue = p :: rest ∧ sideCount s < 16777216) ∧
    (∃ (k slot : Nat) (t : GItem) (e : Entry) (s : State), sideCount s < 16777216 ∧ s.gln.queue = [] ∧ firstStale s = some (k, slot, t) ∧ entry? s t.seq t.layer t.group t.idx = some e) ∧
    (∃ (k : Nat) (w : Swath) (s : State), tblGet? s.gln.swaths k = some w ∧ w.merging = true) :=
  ⟨(by
      refine ⟨3, 0, { up with gln := { up.gln with searches := [(4, { oid := 7, swath := 3, attend := false, queries := 1, todo := [{ query := 0, list := 0, wave := 0, joined := some 0 }] })] } }, ?_⟩
      decide +kernel),
   ⟨4, _, { up with gln := { up.gln with searches := [(4, { oid := 7, swath := 3, attend := false, queries := 1, todo := [] })] } }, rfl, rfl, rfl⟩,
   ⟨4, _, { up with gln := { up.gln with searches := [(4, { oid := 7, swath := 3, attend := true, queries := 1, todo := [] })] } }, rfl, rfl, rfl⟩,
   ⟨_, [], { swathUp with gln := { swathUp.gln with queue := [{ swath := 3, seq := 1, layer := 0, group := 0, idx := 0, basePos := 0, version := { tokens := 1, summary := [], sketch := 0, list := 0, code := [] } }] } }, rfl, by decide⟩,
   ⟨3, 0, _, _, swathUp { swathA with items := [(0, { seq := 1, layer := 0, group := 0, idx := 0, basePos := 0, stale := true })] }, by decide, rfl, rfl, rfl⟩,
   ⟨3, _, swathUp { swathA with merging := true }, rfl, rfl⟩⟩

theorem witness_LinkRowsComplete :
    (∃ (p : Nat) (f : LFrame) (s : State), (getPort s p).ethernet = false ∧ (getPort s p).state = .active ∧ s.hlt.arms = [] ∧ f.kind = 0 ∧ f.crcOk = true ∧ f.lseq = (getPort (linkHeader p f s) p).expected) ∧
    (∃ (p : Nat) (f : LFrame) (s : State), (getPort s p).ethernet = false ∧ (getPort s p).state = .active ∧ s.hlt.arms = [] ∧ f.kind = 0 ∧ f.crcOk = false ∧ (getPort s p).nakSent = false) ∧
    (∃ (p : Nat) (f : LFrame) (s : State), (getPort s p).ethernet = false ∧ (getPort s p).state = .active ∧ s.hlt.arms = [] ∧ f.kind = 0 ∧ f.crcOk = true ∧ f.lseq ≠ (getPort (linkHeader p f s) p).expected ∧ (getPort (linkHeader p f s) p).nakSent = false) ∧
    (∃ (p : Nat) (f : LFrame) (s : State), (getPort s p).ethernet = false ∧ linkTrained (getPort s p) = true ∧ f.kind ≠ 0 ∧ f.crcOk = true) ∧
    (∃ (p : Nat) (f : LFrame) (s : State), (getPort s p).ethernet = false ∧ f.kind = 0 ∧ (getPort s p).state = .hold) ∧
    (∃ (p n : Nat) (s : State), (getPort s p).state = .active) ∧
    (∃ (p cls units : Nat) (s : State), (getPort s p).ethernet = false ∧ (getPort s p).state ≠ .down) ∧
    (∃ (p : Nat) (s : State), (getPort s p).state = .active ∧ (getPort s p).replay ≠ [] ∧ (getPort s p).progress + 4000 ≤ s.now) ∧
    (∃ (p t : Nat) (s : State), (getPort s p).ackSince = some t ∧ t + 500 ≤ s.now) ∧
    (∃ (p width token lanes : Nat) (uid : BitVec 128) (s : State), (getPort s p).ethernet = false ∧ (getPort s p).state = .active ∧ uid ≠ s.fuse.uid ∧ (getPort s p).request = none) ∧
    (∃ (p width token lanes : Nat) (uid : BitVec 128) (s : State), (getPort s p).ethernet = false ∧ (getPort s p).state = .active ∧ uid ≠ s.fuse.uid ∧ (getPort s p).request = none) ∧
    (∃ (p width lanes : Nat) (r : PortReq) (s : State), (getPort s p).state = .active ∧ (getPort s p).request = some r) ∧
    (∃ (p width lanes : Nat) (r : PortReq) (s : State), (getPort s p).state = .active ∧ (getPort s p).accepted = some r) ∧
    (∃ (p lanes : Nat) (s : State), (getPort s p).ethernet = false ∧ linkTrained (getPort s p) = true) ∧
    (∃ (p : Nat) (credits : List Nat) (s : State), (getPort s p).ethernet = false ∧ linkTrained (getPort s p) = true) ∧
    (∃ (p : Nat) (s : State), p < nPorts s ∧ (getPort s p).state = .down ∧ (getPort s p).service ≠ .fenced ∧ (getPort s p).backoff = none) ∧
    (∃ (p lanes : Nat) (s : State), (getPort s p).state = .training ∧ portWidth (getPort s p) = 0 ∧ trainedEnough (getPort s p) lanes = true) ∧
    (∃ (p lanes : Nat) (s : State), (getPort s p).state = .training ∧ portWidth (getPort s p) = 0 ∧ (getPort s p).failures = 2) ∧
    (∃ (p t : Nat) (s : State), (getPort s p).backoff = some t ∧ t ≤ s.now) ∧
    (∃ (p : Nat) (s : State), (getPort s p).state = .retrain) ∧
    (∃ (p : Nat) (s : State), (getPort s p).state = .resize) ∧
    (∃ (s : State), s.oln.accepts = false) ∧
    (∃ (p lane cause : Nat) (s : State), s.hlt.arms = [] ∧ linkTrained (getPort s p) = true) ∧
    (∃ (p lane ber cw ucw : Nat) (s : State), s.hlt.arms = [] ∧ linkTrained (getPort s p) = true ∧ (laneOf (getPort s p) lane).state = .active) ∧
    (∃ (p lane : Nat) (s : State), (getPort s p).ethernet = false ∧ (getPort s p).ctrl.autoRejoin = true ∧ (laneOf (getPort s p) lane).state = .lost ∧ isRetired s .lane (laneIndex p lane) = false ∧ (laneOf (getPort s p) lane).since + (if (laneOf (getPort s p) lane).tried then 60 else 10) * 10 ^ 9 ≤ s.now) ∧
    (∃ (p lane step : Nat) (s : State), (laneOf (getPort s p) lane).state = .quarantine ∧ (getPort s p).joining.contains lane = false ∧ (getPort s p).state = .active) :=
  ⟨(by
      refine ⟨2, { link0 with hopsLeft := 3, lseq := 0, crcOk := true }, portUp, ?_⟩
      repeat' apply And.intro
      all_goals first | rfl | decide),
   (by
      refine ⟨2, { link0 with hopsLeft := 3, lseq := 0, crcOk := false }, portUp, ?_⟩
      repeat' apply And.intro
      all_goals first | rfl | decide),
   (by
      refine ⟨2, { link0 with hopsLeft := 3, lseq := 1, crcOk := true }, portUp, ?_⟩
      repeat' apply And.intro
      all_goals first | rfl | decide),
   (by
      refine ⟨2, { link0 with kind := 8, crcOk := true }, portUp, ?_⟩
      repeat' apply And.intro
      all_goals first | rfl | decide),
   (by
      refine ⟨2, link0, portUp { state := .hold }, ?_⟩
      repeat' apply And.intro
      all_goals first | rfl | decide),
   (by
      refine ⟨2, 0, portUp, ?_⟩
      repeat' apply And.intro
      all_goals first | rfl | decide),
   (by
      refine ⟨2, 0, 1, portUp, ?_⟩
      repeat' apply And.intro
      all_goals first | rfl | decide),
   (by
      refine ⟨2, { portUp { state := .active, replay := [{ lseq := 0, cls := 0, hops := 0, frame := frame 1 0 }] } with now := 4000 }, ?_⟩
      repeat' apply And.intro
      all_goals first | rfl | decide),
   (by
      refine ⟨2, 0, { portUp { state := .active, ackSince := some 0 } with now := 500 }, ?_⟩
      repeat' apply And.intro
      all_goals first | rfl | decide),
   (by
      refine ⟨2, 4, 0, 15, 99, portUp, ?_⟩
      repeat' apply And.intro
      all_goals first | rfl | decide),
   (by
      refine ⟨2, 4, 0, 15, 99, portUp, ?_⟩
      repeat' apply And.intro
      all_goals first | rfl | decide),
   ⟨2, 4, 15, _, portUp { state := .active, request := some { retrain := true, width := 4, token := 0 } }, rfl, rfl⟩,
   ⟨2, 4, 15, _, portUp { state := .active, accepted := some { retrain := true, width := 4, token := 0 } }, rfl, rfl⟩,
   (by
      refine ⟨2, 15, portUp, ?_⟩
      repeat' apply And.intro
      all_goals first | rfl | decide),
   (by
      refine ⟨2, [], portUp, ?_⟩
      repeat' apply And.intro
      all_goals first | rfl | decide),
   (by
      refine ⟨15, up, ?_⟩
      repeat' apply And.intro
      all_goals first | rfl | decide),
   (by
      refine ⟨2, 15, portUp { state := .training, lanes := [(0, { state := .down }), (1, { state := .down }), (2, { state := .down }), (3, { state := .down })] }, ?_⟩
      repeat' apply And.intro
      all_goals first | rfl | decide),
   (by
      refine ⟨2, 1, portUp { state := .training, failures := 2, lanes := [(0, { state := .down }), (1, { state := .down }), (2, { state := .down }), (3, { state := .down })] }, ?_⟩
      repeat' apply And.intro
      all_goals first | rfl | decide),
   (by
      refine ⟨2, 5, { portUp { backoff := some 5 } with now := 5 }, ?_⟩
      repeat' apply And.intro
      all_goals first | rfl | decide),
   (by
      refine ⟨2, portUp { state := .retrain }, ?_⟩
      repeat' apply And.intro
      all_goals first | rfl | decide),
   (by
      refine ⟨2, portUp { state := .resize }, ?_⟩
      repeat' apply And.intro
      all_goals first | rfl | decide),
   (by
      refine ⟨State.reset, ?_⟩
      repeat' apply And.intro
      all_goals first | rfl | decide),
   (by
      refine ⟨2, 3, 1, portUp, ?_⟩
      repeat' apply And.intro
      all_goals first | rfl | decide),
   (by
      refine ⟨2, 3, 40, 0, 0, portUp, ?_⟩
      repeat' apply And.intro
      all_goals first | rfl | decide),
   (by
      refine ⟨2, 3, { portUp { state := .active, lanes := [(3, { state := .lost })] } with now := 10 ^ 10 }, ?_⟩
      repeat' apply And.intro
      all_goals first | rfl | decide),
   (by
      refine ⟨2, 3, 2, portUp { state := .active, lanes := [(3, { state := .quarantine })] }, ?_⟩
      repeat' apply And.intro
      all_goals first | rfl | decide)⟩

theorem witness_FabricRowsComplete :
    (∃ (p : Nat) (d : Disc) (s : State), discPort s p = true ∧ d.version = 1 ∧ d.uid ≠ s.fuse.uid ∧ d.addrValid = true) ∧
    (∃ (p : Nat) (d : Disc) (s : State), discPort s p = true ∧ d.version = 1 ∧ (getPort s p).state ≠ .hold) ∧
    (∃ (p : Nat) (d : Disc) (q : Discover) (s : State), discPort s p = true ∧ d.version = 1 ∧ d.hopIndex = 0 ∧ tblGet? s.oln.discovers d.queryId = some q) ∧
    (∃ (p hops : Nat) (d : Disc) (s : State), discPort s p = true ∧ d.version = 1 ∧ claimMoves s d = false) ∧
    (∃ (p backoff reason k : Nat) (q : Discover) (s : State), reason ≤ 1 ∧ s.oln.discovers.find? (fun e => e.2.port == p) = some (k, q)) ∧
    (∃ (k : Nat) (q : Discover) (s : State), tblGet? s.oln.discovers k = some q ∧ q.time + 1000000 ≤ s.now) ∧
    (∃ (p : Nat) (s : State), (activePorts s).contains p = true) ∧
    (∃ (a : AddrSet) (s : State), s.oln.addrNext = some a ∧ a.time ≤ fabricTime s) ∧
    (∃ (t : Nat) (s : State), s.oln.swapAt = some t ∧ t ≤ fabricTime s) ∧
    (∃ (n : Nat) (m : Mcast) (s : State), tblGet? s.trn.mcasts n = some m ∧ m.ended = false ∧ m.deadline ≤ s.now) ∧
    (∃ (n : Nat) (m : Mcast) (s : State), tblGet? s.trn.mcasts n = some m ∧ m.ended = true ∧ m.retryAt ≤ s.now ∧ m.tries < olnenParam s 0x04) ∧
    (∃ (n : Nat) (m : Mcast) (s : State), tblGet? s.trn.mcasts n = some m ∧ m.ended = true ∧ m.retryAt ≤ s.now ∧ olnenParam s 0x04 ≤ m.tries) ∧
    (∃ (p : Nat) (s : State), timePort s p = true) ∧
    (∃ (p ns : Nat) (s : State), timePort s p = true) ∧
    (∃ (p : Nat) (ds : ClockDs) (s : State), timePort s p = true ∧ s.oln.master ≠ some p ∧ takesPlace s ds = true) ∧
    (∃ (p : Nat) (ds : ClockDs) (s : State), timePort s p = true ∧ s.oln.master = some p) ∧
    (∃ (p domain : Nat) (m : PtpMsg) (s : State), domain ≠ olnenParam s 0x07) ∧
    (∃ (p : Nat) (off : Int) (s : State), timePort s p = true ∧ s.oln.master = some p) ∧
    (∃ (p : Nat) (s : State), s.oln.master = some p ∧ s.oln.lastSync + 3000000000 ≤ s.now) ∧
    (∃ (p : Nat) (f : EthFrame) (s : State), (getPort s p).ethernet = true ∧ linkTrained (getPort s p) = true ∧ ((f.kind = .arp ∨ f.kind = .neighbour)) ∧ f.macOk = true ∧ f.ipOk = true ∧ f.sumsOk = true ∧ f.len ≤ getU (getPort s p).eth 10 2) ∧
    (∃ (p : Nat) (f : EthFrame) (s : State), (getPort s p).ethernet = true ∧ (getPort s p).state = .active ∧ f.kind = .transport ∧ f.macOk = true ∧ f.ipOk = true ∧ f.sumsOk = true ∧ f.portOk = true ∧ f.len ≤ getU (getPort s p).eth 10 2 ∧ s.oln.addr = some f.frame.dstNode ∧ f.tagged = true) ∧
    (∃ (p q : Nat) (f : EthFrame) (s : State), (getPort s p).ethernet = true ∧ (getPort s p).state = .active ∧ f.kind = .transport ∧ f.macOk = true ∧ f.ipOk = true ∧ f.sumsOk = true ∧ f.portOk = true ∧ f.len ≤ getU (getPort s p).eth 10 2 ∧ s.oln.addr ≠ some f.frame.dstNode ∧ f.tagged = true) ∧
    (∃ (p : Nat) (f : EthFrame) (s : State), (getPort s p).ethernet = true ∧ linkTrained (getPort s p) = true ∧ f.kind = .other) ∧
    (∃ (p cls : Nat) (pause : Bool) (s : State), (getPort s p).ethernet = true ∧ bitOf (getU (getPort s p).eth 7 1) (cls % 8) = true) :=
  ⟨(by
      refine ⟨2, disc, portUp, ?_⟩
      repeat' apply And.intro
      all_goals first | rfl | decide),
   (by
      refine ⟨2, disc, portUp, ?_⟩
      repeat' apply And.intro
      all_goals first | rfl | decide),
   (by
      refine ⟨2, disc, { oid := 7, port := 2, time := 0 }, { portUp with oln := { portUp.oln with discovers := [(7, { oid := 7, port := 2, time := 0 })] } }, ?_⟩
      repeat' apply And.intro
      all_goals first | rfl | decide),
   (by
      refine ⟨2, 3, disc, { portUp with oln := { portUp.oln with seen := [(9, (1, 99))] } }, ?_⟩
      repeat' apply And.intro
      all_goals first | rfl | decide),
   (by
      refine ⟨2, 5, 1, 7, { oid := 7, port := 2, time := 0 }, { portUp with oln := { portUp.oln with discovers := [(7, { oid := 7, port := 2, time := 0 })] } }, ?_⟩
      repeat' apply And.intro
      all_goals first | rfl | decide),
   (by
      refine ⟨7, { oid := 7, port := 2, time := 0 }, { { portUp with oln := { portUp.oln with discovers := [(7, { oid := 7, port := 2, time := 0 })] } } with now := 1000000 }, ?_⟩
      repeat' apply And.intro
      all_goals first | rfl | decide),
   (by
      refine ⟨2, portUp, ?_⟩
      repeat' apply And.intro
      all_goals first | rfl | decide),
   ⟨_, { portUp with oln := { portUp.oln with addrNext := some { addr := 7, release := false, standIn := false, stook := 0, epoch := 1, group := 0, time := 0 } } }, rfl, by decide⟩,
   (by
      refine ⟨0, { portUp with oln := { portUp.oln with swapAt := some 0 } }, ?_⟩
      repeat' apply And.intro
      all_goals first | rfl | decide),
   ⟨4, _, { portUp with trn := { portUp.trn with mcasts := [(4, mcastA false)] } }, rfl, rfl, by decide⟩,
   ⟨4, _, { portUp with trn := { portUp.trn with mcasts := [(4, mcastA true)] } }, rfl, rfl, by decide, by decide⟩,
   ⟨4, _, { portUp with trn := { portUp.trn with mcasts := [(4, mcastA true 15)] } }, rfl, rfl, by decide, by decide⟩,
   (by
      refine ⟨2, portUp, ?_⟩
      repeat' apply And.intro
      all_goals first | rfl | decide),
   (by
      refine ⟨2, 5, portUp, ?_⟩
      repeat' apply And.intro
      all_goals first | rfl | decide),
   (by
      refine ⟨2, { prio1 := 0, quality := 0, prio2 := 0, id := 0, steps := 0 }, portUp, ?_⟩
      exact ⟨rfl, by decide, rfl⟩),
   (by
      refine ⟨2, { prio1 := 0, quality := 0, prio2 := 0, id := 0, steps := 0 }, { portUp with oln := { portUp.oln with master := some 2 } }, ?_⟩
      repeat' apply And.intro
      all_goals first | rfl | decide),
   (by
      refine ⟨2, 300, .delay 0, up, ?_⟩
      repeat' apply And.intro
      all_goals first | rfl | decide),
   (by
      refine ⟨2, -5, { portUp with oln := { portUp.oln with master := some 2 } }, ?_⟩
      repeat' apply And.intro
      all_goals first | rfl | decide),
   (by
      refine ⟨2, { { portUp with oln := { portUp.oln with master := some 2 } } with now := 3000000000 }, ?_⟩
      repeat' apply And.intro
      all_goals first | rfl | decide),
   (by
      refine ⟨2, eth .arp, portUp { state := .active, ethernet := true, eth := zeros 7 ++ [1] ++ zeros 2 ++ [0xDC, 5] ++ zeros 52 }, ?_⟩
      repeat' apply And.intro
      all_goals first | rfl | decide),
   (by
      refine ⟨2, eth .transport, portUp { state := .active, ethernet := true, eth := zeros 7 ++ [1] ++ zeros 2 ++ [0xDC, 5] ++ zeros 52 }, ?_⟩
      repeat' apply And.intro
      all_goals first | rfl | decide),
   (by
      refine ⟨2, 1, { eth .transport with frame := { frame 1 0 with dstNode := 9 } }, { portUp with oln := { portUp.oln with routes := [(9, 1)], ports := [(1, { state := .active }), (2, { state := .active, ethernet := true, eth := zeros 7 ++ [1] ++ zeros 2 ++ [0xDC, 5] ++ zeros 52 })] } }, ?_⟩
      repeat' apply And.intro
      all_goals first | rfl | decide),
   (by
      refine ⟨2, eth .other, portUp { state := .active, ethernet := true, eth := zeros 7 ++ [1] ++ zeros 2 ++ [0xDC, 5] ++ zeros 52 }, ?_⟩
      repeat' apply And.intro
      all_goals first | rfl | decide),
   (by
      refine ⟨2, 8, true, portUp { state := .active, ethernet := true, eth := zeros 7 ++ [1] ++ zeros 2 ++ [0xDC, 5] ++ zeros 52 }, ?_⟩
      repeat' apply And.intro
      all_goals first | rfl | decide)⟩

theorem witness_OlnenCommandsComplete :
    (∃ c s, admits 0x0A 0x01 (fun c s => argsOnly c [] = true ∧ bufferCheck c s = none ∧ 512 ≤ c.outLen) c s) ∧
    (∃ c s, admits 0x0A 0x02 (fun c s => portCheck c [(33, 0, 1)] s = none ∧ bufferCheck c s = none ∧ argBits c 33 0 1 = 1 ∧ 64 ≤ c.inLen ∧ ethRecordOk (c.input.take 64) = true ∧
      (judge c { unit := 0x0A, obj := 2 ^ 34 + argBits c 32 0 4 } (.value (1 + 2 * leNat (c.input.take 64))) s).1 = true) c s) ∧
    (∃ c s, admits 0x0A 0x03 (fun c s => portCheck c [] s = none ∧ portLink (getPort s (argBits c 32 0 4)) = none) c s) ∧
    (∃ c s, admits 0x0A 0x04 (fun c s => portCheck c [(33, 0, 3)] s = none ∧ 2 ≤ argBits c 33 0 3 ∧ argBits c 33 0 3 ≤ 4 ∧ portLink (getPort s (argBits c 32 0 4)) = none ∧ argBits c 33 0 3 ≤ portWidth (getPort s (argBits c 32 0 4)) + (lanesIn (getPort s (argBits c 32 0 4)) .idle).length ∧
      argBits c 33 0 3 ≠ portWidth (getPort s (argBits c 32 0 4)) ∧ (judge c { unit := 0x0A, obj := 2 ^ 35 + argBits c 32 0 4 } (.value (argBits c 33 0 3)) s).1 = true) c s) ∧
    (∃ c s, admits 0x0A 0x04 (fun c s => portCheck c [(33, 0, 3)] s = none ∧ 2 ≤ argBits c 33 0 3 ∧ argBits c 33 0 3 ≤ 4 ∧ portLink (getPort s (argBits c 32 0 4)) = none ∧ portWidth (getPort s (argBits c 32 0 4)) + (lanesIn (getPort s (argBits c 32 0 4)) .idle).length < argBits c 33 0 3) c s) ∧
    (∃ c s, admits 0x0A 0x08 (fun c s => argsOnly c [(32, 0, 4), (33, 0, 3)] = true ∧ (argBits c 33 0 3 < 4 ∨ argBits c 33 0 3 = 7) ∧ argBits c 32 0 4 < nPorts s ∧ (getPort s (argBits c 32 0 4)).service ≠ .fenced ∧
      (argBits c 33 0 3 = 7 ∨ (laneOf (getPort s (argBits c 32 0 4)) (argBits c 33 0 3)).state ≠ .fenced) ∧ (serviceJudge 1 c s).1 = true) c s) ∧
    (∃ c s, admits 0x0A 0x09 (fun c s => argsOnly c [(32, 0, 4), (33, 0, 3)] = true ∧ argBits c 33 0 3 = 7 ∧ argBits c 32 0 4 < nPorts s ∧ (getPort s (argBits c 32 0 4)).service ≠ .fenced ∧ (serviceJudge 2 c s).1 = true) c s) ∧
    (∃ c s, admits 0x0A 0x09 (fun c s => argsOnly c [(32, 0, 4), (33, 0, 3)] = true ∧ argBits c 33 0 3 < 4 ∧ argBits c 32 0 4 < nPorts s ∧ (getPort s (argBits c 32 0 4)).service ≠ .fenced ∧ (serviceJudge 2 c s).1 = true ∧
      (laneOf (getPort s (argBits c 32 0 4)) (argBits c 33 0 3)).state = .active ∧ portLink (getPort s (argBits c 32 0 4)) = none ∧ 2 < ((lanesIn (getPort s (argBits c 32 0 4)) .active).filter (fun k => !(laneOf (getPort s (argBits c 32 0 4)) k).restricted)).length) c s) ∧
    (∃ c s, admits 0x0A 0x0A (fun c s => argsOnly c [(32, 0, 4), (33, 0, 3)] = true ∧ argBits c 33 0 3 = 7 ∧ argBits c 32 0 4 < nPorts s ∧ (serviceJudge 3 c s).1 = true ∧ isRetired s .port (argBits c 32 0 4) = false ∧
      (getPort s (argBits c 32 0 4)).service = .restricted) c s) ∧
    (∃ c s, admits 0x0A 0x0A (fun c s => argsOnly c [(32, 0, 4), (33, 0, 3)] = true ∧ argBits c 33 0 3 = 7 ∧ argBits c 32 0 4 < nPorts s ∧ (serviceJudge 3 c s).1 = true ∧ isRetired s .port (argBits c 32 0 4) = false ∧
      (getPort s (argBits c 32 0 4)).service = .fenced) c s) ∧
    (∃ c s, admits 0x0A 0x10 (fun c s => argsOnly c [(32, 0, 12), (34, 0, 2), (35, 0, 8), (36, 0, 32), (40, 0, 16), (48, 0, 64)] = true ∧ (judge c { unit := 0x0A, obj := 2 ^ 36 } (.value c.args.toNat) s).1 = true) c s) ∧
    (∃ c s, admits 0x0A 0x11 (fun c s => portCheck c [(33, 0, 4), (40, 0, 64)] s = none ∧ bufferCheck c s = none ∧ 448 ≤ c.outLen ∧ (getPort s (argBits c 32 0 4)).ethernet = false ∧
      linkTrained (getPort s (argBits c 32 0 4)) = true ∧ (getPort s (argBits c 32 0 4)).state ≠ .hold) c s) ∧
    (∃ c s, admits 0x0A 0x12 (fun c s => argsOnly c [(32, 0, 16), (34, 0, 16), (40, 0, 64)] = true ∧ argU c 34 2 ≤ 4096 ∧ argU c 32 2 + argU c 34 2 ≤ 4096 ∧ bufferCheck c s = none ∧ 8 * argU c 34 2 ≤ c.inLen ∧
      ((List.range (argU c 34 2)).map (fun i => inU c (8 * i) 8)).all routeOk = true ∧ (judge c { unit := 0x0A, obj := 2 ^ 37 } (.value (leNat (leBytes 32 c.args.toNat ++ c.input.take (8 * argU c 34 2)))) s).1 = true) c s) ∧
    (∃ c s, admits 0x0A 0x13 (fun c s => argsOnly c [(32, 0, 16), (34, 0, 16), (36, 0, 1)] = true ∧ argU c 32 2 + argU c 34 2 ≤ 4096 ∧ bufferCheck c s = none ∧ 8 * argU c 34 2 ≤ c.outLen) c s) ∧
    (∃ ms, ∃ c s, admits 0x0A 0x18 (fun c s => argsOnly c [(32, 0, 12), (34, 0, 7)] = true ∧ argBits c 34 0 7 ≤ 64 ∧ bufferCheck c s = none ∧ groupForeign s c (argBits c 32 0 12) = false ∧ 4 * argBits c 34 0 7 ≤ c.inLen ∧
      memberList c.input (argBits c 34 0 7) = some ms ∧ (judge c { unit := 0x0A, obj := 2 ^ 38 + argBits c 32 0 12 } (.value (leNat (leBytes 32 c.args.toNat ++ c.input.take (4 * argBits c 34 0 7)))) s).1 = true) c s) ∧
    (∃ x, ∃ c s, admits 0x0A 0x19 (fun c s => argsOnly c [(32, 0, 12)] = true ∧ bufferCheck c s = none ∧ tblGet? s.oln.mcast (argBits c 32 0 12) = some x ∧ mayName s c x.ctx = true ∧ isMessage c.input = true ∧
      s.oln.addr ≠ none ∧ (∀ m ∈ x.members, maySendInput s c m.1 (protSlot s x.ctx none).isSome = true) ∧ sealStatus s (protSlot s x.ctx none) = none ∧ x.members.length ≤ freeTags s) c s) ∧
    (∃ c s, admits 0x0A 0x20 (fun c s => argsOnly c [] = true ∧ bufferCheck c s = none ∧ 40 ≤ c.outLen) c s) ∧
    (∃ c s, admits 0x0A 0x21 (fun c s => argsOnly c [(32, 0, 16), (40, 0, 64)] = true ∧ olnenRange (argU c 32 2) (argU c 40 8) = true ∧ ([0x11, 0x13, 0x14].contains (argU c 32 2) = false ∨ tombstonesLast s (argU c 32 2) (argU c 40 8) = true) ∧
      (judge c { unit := 0x0A, obj := 2 ^ 39 + argU c 32 2 } (.value (argU c 40 8)) s).1 = true) c s) :=
  ⟨(by
      refine ⟨cmd 10 1 [], up, ?_⟩
      repeat' apply And.intro
      all_goals first | rfl | decide),
   (by
      refine ⟨cmd 10 2 [(32, 2), (33, 1)] ([0, 0, 0, 0, 0, 0, 1, 0, 0, 0, 0xDC, 5] ++ zeros 20 ++ [64] ++ zeros 31), portUp, ?_⟩
      repeat' apply And.intro
      all_goals first | rfl | decide),
   (by
      refine ⟨cmd 10 3 [(32, 2)], portUp, ?_⟩
      repeat' apply And.intro
      all_goals first | rfl | decide),
   (by
      refine ⟨cmd 10 4 [(32, 2), (33, 4)], portUp { state := .active, lanes := [(3, { state := .idle })] }, ?_⟩
      repeat' apply And.intro
      all_goals first | rfl | decide),
   (by
      refine ⟨cmd 10 4 [(32, 2), (33, 4)], portUp { state := .active, lanes := [(3, { state := .lost })] }, ?_⟩
      repeat' apply And.intro
      all_goals first | rfl | decide),
   (by
      refine ⟨cmd 10 8 [(32, 2), (33, 7)], portUp, ?_⟩
      repeat' apply And.intro
      all_goals first | rfl | decide),
   (by
      refine ⟨cmd 10 9 [(32, 2), (33, 7)], portUp, ?_⟩
      repeat' apply And.intro
      all_goals first | rfl | decide),
   (by
      refine ⟨cmd 10 9 [(32, 2), (33, 3)], portUp, ?_⟩
      repeat' apply And.intro
      all_goals first | rfl | decide),
   (by
      refine ⟨cmd 10 10 [(32, 2), (33, 7)], portUp { service := .restricted }, ?_⟩
      repeat' apply And.intro
      all_goals first | rfl | decide),
   (by
      refine ⟨cmd 10 10 [(32, 2), (33, 7)], portUp { service := .fenced }, ?_⟩
      repeat' apply And.intro
      all_goals first | rfl | decide),
   (by
      refine ⟨cmd 10 16 [(32, 7), (36, 2)], up, ?_⟩
      repeat' apply And.intro
      all_goals first | rfl | decide),
   (by
      refine ⟨cmd 10 17 [(32, 2)], portUp, ?_⟩
      repeat' apply And.intro
      all_goals first | rfl | decide),
   (by
      refine ⟨cmd 10 18 [(32, 9), (34, 1)] [1, 0, 0, 0, 0, 0, 0, 0], up, ?_⟩
      repeat' apply And.intro
      all_goals first | rfl | decide),
   (by
      refine ⟨cmd 10 19 [(34, 1)], up, ?_⟩
      repeat' apply And.intro
      all_goals first | rfl | decide),
   (by
      refine ⟨[(9, 1)], cmd 10 24 [(32, 3), (34, 1)] [9, 0, 1, 0], up, ?_⟩
      repeat' apply And.intro
      all_goals first | rfl | decide),
   ⟨_, cmd 10 25 [(32, 3)] (zeros 64), { portUp with oln := { portUp.oln with mcast := [(3, { ctx := 0, members := [(9, 1)] })] } }, rfl, rfl, rfl, rfl, rfl, rfl, rfl, by decide, by decide, rfl, by decide⟩,
   (by
      refine ⟨cmd 10 32 [], up, ?_⟩
      repeat' apply And.intro
      all_goals first | rfl | decide),
   (by
      refine ⟨cmd 10 33 [(32, 1), (40, 31)], up, ?_⟩
      repeat' apply And.intro
      all_goals first | rfl | decide)⟩

theorem witness_FlowRowsComplete :
    (∃ (f : TFrame) (x : Slot) (s : State), reachesSlot 2 f x s) ∧
    (∃ (f : TFrame) (x : Slot) (s : State), reachesSlot 3 f x s ∧ f.opFlags = 1 ∧ ((∀ t, x.gapAt = some t → t + x.srtt ≤ (takeAck (flowOf f) f (screened f s).2).now))) ∧
    (∃ (f : TFrame) (x : Slot) (s : State), reachesSlot 3 f x s ∧ f.opFlags = 2 ∧ x.peerBoot = some f.srcBoot) ∧
    (∃ (f : TFrame) (k b : Nat) (x y : Slot) (s : State), s.hlt.arms = [] ∧ getSlot? s k = some y ∧ keyNode k = f.srcNode ∧ y.peerBoot = some b ∧ b ≠ f.srcBoot ∧ reachesSlot 3 f x s ∧ f.opFlags = 2 ∧ x.peerBoot = some f.srcBoot) ∧
    (∃ (f : TFrame) (x : Slot) (s : State), reachesSlot 3 f x s ∧ f.opFlags = 3) ∧
    (∃ (f : TFrame) (x : Slot) (s : State), reachesSlot 3 f x s ∧ f.opFlags = 4) ∧
    (∃ (f : TFrame) (x : Slot) (s : State), reachesSlot 3 f x s ∧ f.opFlags = 5) ∧
    (∃ (f : TFrame) (x : Slot) (s : State), reachesSlot 4 f x s ∧ f.opFlags = 1) ∧
    (∃ (f : TFrame) (s : State), f.typ = 4 ∧ f.opFlags = 2 ∧ (screened f s).1 = true ∧ (screened f s).2.trn.members.contains f.srcNode = true ∧ stookList f.payload = (screened f s).2.trn.members) ∧
    (∃ (f : TFrame) (s : State), f.typ = 4 ∧ f.opFlags = 2 ∧ (screened f s).1 = true ∧ (screened f s).2.trn.members.contains f.srcNode = true ∧ stookList f.payload ≠ (screened f s).2.trn.members) ∧
    (∃ (ctx node rctx : Nat) (x : Slot) (s : State), getSlot? s (slotKey ctx node rctx) = some x ∧ x.unacked ≠ [] ∧ x.progress + rtoNs s x ≤ s.now ∧ x.holdUntil ≤ s.now ∧ x.timeouts + 1 < olnenParam s 0x14) ∧
    (∃ (ctx node rctx : Nat) (x : Slot) (s : State), getSlot? s (slotKey ctx node rctx) = some x ∧ x.unacked ≠ [] ∧ x.progress + rtoNs s x ≤ s.now ∧ x.holdUntil ≤ s.now ∧ olnenParam s 0x14 ≤ x.timeouts + 1) ∧
    (∃ (ctx node rctx t : Nat) (x : Slot) (s : State), getSlot? s (slotKey ctx node rctx) = some x ∧ x.ackSince = some t ∧ t + 1000 ≤ s.now) ∧
    (∃ (ctx node rctx : Nat) (x : Slot) (s : State), getSlot? s (slotKey ctx node rctx) = some x ∧ recyclable s (slotKey ctx node rctx) x = true) ∧
    (∃ (ctx node rctx : Nat) (t : Tombstone) (s : State), tblGet? s.trn.tombs (slotKey ctx node rctx) = some t ∧ t.until_ ≤ s.now) ∧
    (∃ (tag : Nat) (f : Flag) (o : TOp) (s : State), tblGet? s.trn.flags tag = some f ∧ tblGet? s.trn.ops tag = some o ∧ f.lost = none ∧ f.waits = []) ∧
    (∃ (tag l : Nat) (f : Flag) (o : TOp) (oid seg : Nat) (s : State), tblGet? s.trn.flags tag = some f ∧ tblGet? s.trn.ops tag = some o ∧ f.lost = some l ∧ o.owner = .cmd oid seg) ∧
    (∃ (ring cid oid : Nat) (c : Cmd) (w : CounterWait) (s : State), inflightOf s ring cid (fun c => c.unit == 0x0A && c.verb == 0x3C) = some (oid, c) ∧ s.trn.waits.find? (fun w => w.oid == oid) = some w ∧ w.until_ ≤ s.now) :=
  ⟨(by
      refine ⟨{ frame 0 0 with typ := 2 }, slotA, slotUp, ?_⟩
      exact ⟨rfl, by decide +kernel, by decide +kernel⟩),
   (by
      refine ⟨{ frame 0 1 with typ := 3 }, slotA, slotUp, ?_⟩
      exact ⟨⟨rfl, by decide +kernel, by decide +kernel⟩, rfl, (fun t h => nomatch h)⟩),
   (by
      refine ⟨{ frame 0 2 with typ := 3 }, slotA, slotUp, ?_⟩
      exact ⟨⟨rfl, by decide +kernel, by decide +kernel⟩, rfl, rfl⟩),
   (by
      refine ⟨{ frame 0 2 with typ := 3, srcBoot := 5 }, slotKey 0 9 0, 4, { cwnd := 65536, peerBoot := some 5 }, { slotA with peerBoot := some 4 }, slotUp { slotA with peerBoot := some 4 }, ?_⟩
      exact ⟨rfl, by decide +kernel, by decide +kernel, rfl, by decide, ⟨rfl, by decide +kernel, by decide +kernel⟩, rfl, rfl⟩),
   (by
      refine ⟨{ frame 0 3 with typ := 3 }, slotA, slotUp, ?_⟩
      exact ⟨⟨rfl, by decide +kernel, by decide +kernel⟩, rfl⟩),
   (by
      refine ⟨{ frame 0 4 with typ := 3 }, slotA, slotUp, ?_⟩
      exact ⟨⟨rfl, by decide +kernel, by decide +kernel⟩, rfl⟩),
   (by
      refine ⟨{ frame 0 5 with typ := 3 }, slotA, slotUp, ?_⟩
      exact ⟨⟨rfl, by decide +kernel, by decide +kernel⟩, rfl⟩),
   (by
      refine ⟨{ frame 0 1 with typ := 4 }, slotA, slotUp, ?_⟩
      exact ⟨⟨rfl, by decide +kernel, by decide +kernel⟩, rfl⟩),
   (by
      refine ⟨{ frame 0 2 0 0 [5, 0, 9, 0] with typ := 4 }, winUp, ?_⟩
      exact ⟨rfl, rfl, rfl, rfl, rfl⟩),
   (by
      refine ⟨{ frame 0 2 0 0 [9, 0, 5, 0] with typ := 4 }, winUp, ?_⟩
      exact ⟨rfl, rfl, rfl, rfl, by decide⟩),
   ⟨0, 9, 0, _, { slotUp { slotA with unacked := [data1] } with now := 10 ^ 12 }, rfl, by decide, by decide, by decide, by decide⟩,
   ⟨0, 9, 0, _, { slotUp { slotA with unacked := [data1], timeouts := 15 } with now := 10 ^ 15 }, rfl, by decide, by decide, by decide, by decide⟩,
   ⟨0, 9, 0, 0, _, { slotUp { slotA with ackSince := some 0 } with now := 1000 }, rfl, rfl, by decide⟩,
   ⟨0, 9, 0, _, { slotUp with now := 10 ^ 12 }, rfl, by decide⟩,
   ⟨0, 9, 0, _, { winUp with trn := { winUp.trn with tombs := [(slotKey 0 9 0, { inEpoch := 1, expected := 3, until_ := 0 })] } }, rfl, by decide⟩,
   ⟨3, _, _, { opUp .flag with trn := { (opUp .flag).trn with flags := [(3, { ctx := 0, cid := 0, out := data1, waits := [] })] } }, rfl, rfl, rfl, rfl⟩,
   ⟨3, 2, _, _, 7, 0, { opUp .flag with trn := { (opUp .flag).trn with flags := [(3, { ctx := 0, cid := 0, out := data1, waits := [], lost := some 2 })] } }, rfl, rfl, rfl, rfl⟩,
   ⟨5, 0, 7, _, _, { up with cln := { up.cln with inflight := [(7, { cmd 10 0x3C [] with issuer := .ring 5 })] }, trn := { up.trn with waits := [{ oid := 7, counter := 8, target := 1, until_ := 0 }] } }, rfl, rfl, by decide⟩⟩

theorem witness_RemoteOperationsComplete :
    (∃ w r, ∃ f s, f.op = 0x01 ∧ inOrder f s ∧ (fun o s => 8 ≤ loadLen o.frame ∧ loadLen o.frame ≤ 4096 ∧ loadLen o.frame % 8 = 0 ∧ windowCheck s o.frame (·.read) [(o.frame.offset, loadLen o.frame)] = .ok (w, r) ∧
      o.frame.prot = false ∧ r.prot = false ∧ mayLoad s o.frame w.region = true ∧ w.coherent = false ∧ (loadBytes o.frame w r (loadWaits o.frame w r s)).2 = false) (frameOut f s) (frameState f s)) ∧
    (∃ w r, ∃ f s, f.op = 0x02 ∧ inOrder f s ∧ (fun o s => lacksProt s o.frame = false ∧ windowCheck s o.frame (mayStore s o.frame) (storeSpans o.frame) = .ok (w, r) ∧ o.frame.prot = false ∧ r.prot = false ∧ counterOk s o.frame = true ∧ w.coherent = false) (frameOut f s) (frameState f s)) ∧
    (∃ e, ∃ f s, f.op = 0x02 ∧ inOrder f s ∧ (fun o s => lacksProt s o.frame = false ∧ windowCheck s o.frame (mayStore s o.frame) (storeSpans o.frame) = .error e) (frameOut f s) (frameState f s)) ∧
    (∃ w r, ∃ f s, f.op = 0x03 ∧ inOrder f s ∧ (fun o s => lacksProt s o.frame = false ∧ windowCheck s o.frame (mayAtomic s o.frame) [(o.frame.offset, 8)] = .ok (w, r) ∧ o.frame.offset % 8 = 0 ∧ o.frame.prot = false ∧ r.prot = false ∧
      w.coherent = false ∧ (regionRead s r (w.off + o.frame.offset) 8).2 = false) (frameOut f s) (frameState f s)) ∧
    (∃ f s, f.op = 0x04 ∧ inOrder f s ∧ (fun o s => tblGet? s.trn.counterOwner (o.frame.msgLen % 2 ^ 16) = some o.frame.dstCtx) (frameOut f s) (frameState f s)) ∧
    (∃ f s, f.op = 0x05 ∧ inOrder f s ∧ (fun o s => lacksProt s o.frame = false ∧ o.frame.prot = false ∧ msgCore o.frame < 72 ∧ reachable s (msgCore o.frame) = true ∧ msgTaken s o.frame = true ∧ (openPayload o.frame).length ≤ 4096 ∧
      (tblGetD (getCore s (msgCore o.frame)).rxq (msgThread o.frame) []).length < 63) (frameOut f s) (frameState f s)) ∧
    (∃ j x, ∃ f s, f.op = 0x06 ∧ inOrder f s ∧ (fun o s => s.hlt.drain.phase ≠ .quiesce ∧ s.hlt.drain.phase ≠ .ready ∧ s.mod.stopping = false ∧ s.mod.shutdown = false ∧ lacksProt s o.frame = false ∧ jobCheck s o.frame = .ok j ∧ j.command = true ∧
      64 ≤ o.frame.msgLen ∧ o.frame.msgLen ≤ 64 + 2 ^ 24 ∧ o.frame.offset = 0 ∧ (tblGetD s.trn.rqueues o.frame.dstCtx []).length < 256 ∧ stagedBytes s + o.frame.msgLen ≤ s.tir.trnAreaGib * 2 ^ 30 ∧ o.frame.prot = false ∧
      getSlot? s (flowOf o.frame) = some x ∧ o.frame.last = true ∧ (openPayload o.frame).length = o.frame.msgLen ∧ getU (openPayload o.frame) 16 4 + 64 = o.frame.msgLen ∧ getU (openPayload o.frame) 20 4 ≤ 2 ^ 24) (frameOut f s) (frameState f s)) ∧
    (∃ p oid seg, ∃ f s, f.op = 0x81 ∧ inOrder f s ∧ (fun o s => opOf s o.frame [.load] = some p ∧ o.frame.prot = false ∧ p.owner = .cmd oid seg) (frameOut f s) (frameState f s)) ∧
    (∃ p, ∃ f s, f.op = 0x83 ∧ inOrder f s ∧ (fun o s => opOf s o.frame [.atomic] = some p ∧ o.frame.prot = false) (frameOut f s) (frameState f s)) ∧
    (∃ p, ∃ f s, f.op = 0x82 ∧ inOrder f s ∧ (fun o s => opOf s o.frame [.load, .store, .atomic, .counterAdd, .coreMsg, .command, .flag] = some p) (frameOut f s) (frameState f s)) ∧
    (∃ p x oid seg, ∃ f s, f.op = 0x86 ∧ inOrder f s ∧ (fun o s => opOf s o.frame [.command] = some p ∧ getSlot? s (flowOf o.frame) = some x ∧ o.frame.prot = false ∧ o.frame.offset = 0 ∧ o.frame.last = true ∧ p.owner = .cmd oid seg) (frameOut f s) (frameState f s)) :=
  ⟨⟨_, _, access 1 8 16, winUp, ⟨rfl, ⟨rfl, rfl, rfl⟩, by decide, by decide, by decide, rfl, rfl, rfl, rfl, rfl, by decide⟩⟩,
   ⟨_, _, access 2 4088 0 (zeros 8), winUp, ⟨rfl, ⟨rfl, rfl, rfl⟩, rfl, rfl, rfl, rfl, rfl, rfl⟩⟩,
   (by
      refine ⟨.badAddress, access 2 4089 0 (zeros 8), winUp, ?_⟩
      exact ⟨rfl, ⟨rfl, rfl, rfl⟩, rfl, rfl⟩),
   ⟨_, _, access 3 8 1, winUp, ⟨rfl, ⟨rfl, rfl, rfl⟩, rfl, rfl, rfl, rfl, rfl, rfl, by decide⟩⟩,
   (by
      refine ⟨{ frame 4 0 with msgLen := 8 }, winUp, ?_⟩
      exact ⟨rfl, ⟨rfl, rfl, rfl⟩, rfl⟩),
   (by
      refine ⟨{ frame 5 0 with offset := 256 * 2 + 3 }, { winUp with fld := { (setCore 3 { state := .rotation } up).fld with runs := [(9, { oid := 9, ctx := 0, program := 0, arg := 0, threads := 4, exclusive := false, replayable := true, ranks := [{ core := 3, started := true }] })] } }, ?_⟩
      exact ⟨rfl, ⟨rfl, rfl, rfl⟩, rfl, rfl, by decide, rfl, rfl, by decide, by decide⟩),
   (by
      refine ⟨{ ctx := 0, command := true, members := [(9, 0)] }, { cwnd := 65536, peerBoot := some 0, inEpoch := some 0 }, { frame 6 0 64 0 (zeros 64) with job := 4 }, winUp, ?_⟩
      refine ⟨rfl, ⟨rfl, by decide +kernel, by decide +kernel⟩, ?_⟩
      repeat' apply And.intro
      all_goals first | decide +kernel | rfl),
   (by
      refine ⟨{ kind := .load, owner := .cmd 7 0, ctx := 0, key := slotKey 0 9 0 }, 7, 0, reply 0x81 0 (zeros 8), opUp .load, ?_⟩
      refine ⟨rfl, ⟨rfl, by decide +kernel, by decide +kernel⟩, ?_⟩
      decide +kernel),
   (by
      refine ⟨{ kind := .atomic, owner := .cmd 7 0, ctx := 0, key := slotKey 0 9 0 }, reply 0x83 0 (zeros 8), opUp .atomic, ?_⟩
      refine ⟨rfl, ⟨rfl, by decide +kernel, by decide +kernel⟩, ?_⟩
      decide +kernel),
   (by
      refine ⟨{ kind := .store, owner := .cmd 7 0, ctx := 0, key := slotKey 0 9 0 }, reply 0x82 1, opUp .store, ?_⟩
      refine ⟨rfl, ⟨rfl, by decide +kernel, by decide +kernel⟩, ?_⟩
      decide +kernel),
   (by
      refine ⟨{ kind := .command, owner := .cmd 7 0, ctx := 0, key := slotKey 0 9 0 }, { cwnd := 65536, peerBoot := some 0, inEpoch := some 0 }, 7, 0, reply 0x86 0 (zeros 64), opUp .command, ?_⟩
      refine ⟨rfl, ⟨rfl, by decide +kernel, by decide +kernel⟩, ?_⟩
      decide +kernel)⟩

theorem witness_CoherenceRowsComplete :
    (∃ f s, f.op = 0x08 ∧ inOrder f s ∧ (fun o s => inStook s o.frame.srcNode = true ∧ homeLine s o.frame.window (o.frame.offset / 64) = true) (frameOut f s) (frameState f s)) ∧
    (∃ f s, f.op = 0x08 ∧ inOrder f s ∧ (fun o s => inStook s o.frame.srcNode = true ∧ homeLine s o.frame.window (o.frame.offset / 64) = true) (frameOut f s) (frameState f s)) ∧
    (∃ f s, f.op = 0x08 ∧ inOrder f s ∧ (fun o s => inStook s o.frame.srcNode = true ∧ lineOwner s o.frame.window (o.frame.offset / 64) = some o.frame.srcNode) (frameOut f s) (frameState f s)) ∧
    (∃ x, ∃ f s, f.op = 0x88 ∧ inOrder f s ∧ (fun o s => inStook s o.frame.srcNode = true ∧ recallOf s o.frame.window (o.frame.offset / 64) o.frame.srcNode = some x) (frameOut f s) (frameState f s)) ∧
    (∃ x, ∃ f s, f.op = 0x88 ∧ inOrder f s ∧ (fun o s => inStook s o.frame.srcNode = true ∧ tblGet? s.trn.windows o.frame.window = some x) (frameOut f s) (frameState f s)) ∧
    (∃ c, ∃ f s, f.op = 0x08 ∧ inOrder f s ∧ (fun o s => inStook s o.frame.srcNode = true ∧ cached? s o.frame.srcNode o.frame.window (o.frame.offset / 64) = some c ∧ c.owned = true) (frameOut f s) (frameState f s)) ∧
    (∃ f s, f.op = 0x08 ∧ inOrder f s ∧ (fun o s => inStook s o.frame.srcNode = true) (frameOut f s) (frameState f s)) ∧
    (∃ f s, f.op = 0x88 ∧ inOrder f s ∧ (fun o s => inStook s o.frame.srcNode = true) (frameOut f s) (frameState f s)) :=
  ⟨(by
      refine ⟨access 8 64 0 [] 7, winUp, ?_⟩
      exact ⟨rfl, ⟨rfl, rfl, rfl⟩, rfl, rfl⟩),
   (by
      refine ⟨access 8 64 0 [] 7, winUp, ?_⟩
      exact ⟨rfl, ⟨rfl, rfl, rfl⟩, rfl, rfl⟩),
   (by
      refine ⟨access 8 0 0 (zeros 64) 7, winUp, ?_⟩
      exact ⟨rfl, ⟨rfl, rfl, rfl⟩, rfl, rfl⟩),
   ⟨_, access 0x88 0 0 (zeros 64) 7, { winUp with trn := { winUp.trn with cohWaits := [{ window := 7, line := 0, from_ := [9], excl := true, next := .get 9 true }] } }, ⟨rfl, ⟨rfl, rfl, rfl⟩, rfl, rfl⟩⟩,
   ⟨_, access 0x88 64 0 [] 7, winUp, ⟨rfl, ⟨rfl, rfl, rfl⟩, rfl, rfl⟩⟩,
   ⟨_, access 8 64 0 [] 7, { winUp with trn := { winUp.trn with cache := [{ home := 9, window := 7, line := 1, owned := true, data := zeros 64 }] } }, ⟨rfl, ⟨rfl, rfl, rfl⟩, rfl, rfl, rfl⟩⟩,
   (by
      refine ⟨access 8 64 0 [] 7, winUp, ?_⟩
      exact ⟨rfl, ⟨rfl, rfl, rfl⟩, rfl⟩),
   (by
      refine ⟨access 0x88 64 0 [] 7, winUp, ?_⟩
      exact ⟨rfl, ⟨rfl, rfl, rfl⟩, rfl⟩)⟩

theorem witness_RemoteCommandsComplete :
    (∃ c s, admits 0x0A 0x31 (fun c s => argsOnly c (nodeFields ++ [(36, 0, 16), (38, 0, 16), (40, 0, 64), (48, 0, 16), (50, 0, 16)]) = true ∧ bufferCheck c s = none ∧ localCounterOk s c (argU c 50 2) = true ∧
      cannotSend s (cmdCtx s c) (argU c 32 2) (argU c 34 2) = false ∧ maySendInput s c (argU c 32 2) (protSlot s (cmdCtx s c) (some (argU c 36 2))).isSome = true ∧ sealStatus s (protSlot s (cmdCtx s c) (some (argU c 36 2))) = none ∧ (xferPieces s c c.input.length).length ≤ freeTags s ∧ (xferPieces s c c.input.length).isEmpty = false) c s) ∧
    (∃ c s, admits 0x0A 0x32 (fun c s => argsOnly c (nodeFields ++ [(36, 0, 16), (38, 0, 16), (40, 0, 64), (50, 0, 16)]) = true ∧ bufferCheck c s = none ∧ localCounterOk s c (argU c 50 2) = true ∧
      cannotSend s (cmdCtx s c) (argU c 32 2) (argU c 34 2) = false ∧ maySendInput s c (argU c 32 2) (protSlot s (cmdCtx s c) (some (argU c 36 2))).isSome = true ∧ sealStatus s (protSlot s (cmdCtx s c) (some (argU c 36 2))) = none ∧ (xferPieces s c c.outLen).length ≤ freeTags s ∧ (xferPieces s c c.outLen).isEmpty = false) c s) ∧
    (∃ c s, admits 0x0A 0x33 (fun c s => argsOnly c (nodeFields ++ [(36, 0, 16), (38, 0, 16), (40, 0, 64), (52, 0, 3), (56, 0, 64)]) = true ∧ bufferCheck c s = none ∧ (argBits c 52 0 3 = 5 → 8 ≤ c.inLen) ∧
      cannotSend s (cmdCtx s c) (argU c 32 2) (argU c 34 2) = false ∧ maySendInput s c (argU c 32 2) (protSlot s (cmdCtx s c) (some (argU c 36 2))).isSome = true ∧ sealStatus s (protSlot s (cmdCtx s c) (some (argU c 36 2))) = none ∧ 1 ≤ freeTags s) c s) ∧
    (∃ c s, admits 0x0A 0x34 (fun c s => argsOnly c (nodeFields ++ [(36, 0, 16), (38, 0, 16), (40, 0, 64), (48, 0, 64), (56, 0, 64)]) = true ∧ c.inLen ≤ 4096 ∧ bufferCheck c s = none ∧
      cannotSend s (cmdCtx s c) (argU c 32 2) (argU c 34 2) = false ∧ maySendInput s c (argU c 32 2) (protSlot s (cmdCtx s c) (some (argU c 36 2))).isSome = true ∧ sealStatus s (protSlot s (cmdCtx s c) (some (argU c 36 2))) = none ∧ 1 ≤ freeTags s) c s) ∧
    (∃ c s, admits 0x0A 0x35 (fun c s => argsOnly c (nodeFields ++ [(36, 0, 7), (37, 0, 2)]) = true ∧ argBits c 36 0 7 < 72 ∧ c.inLen ≤ 4096 ∧ bufferCheck c s = none ∧
      cannotSend s (cmdCtx s c) (argU c 32 2) (argU c 34 2) = false ∧ maySendInput s c (argU c 32 2) (protSlot s (cmdCtx s c) none).isSome = true ∧ sealStatus s (protSlot s (cmdCtx s c) none) = none ∧ 1 ≤ freeTags s) c s) ∧
    (∃ c s, admits 0x0A 0x30 (fun c s => argsOnly c nodeFields = true ∧ bufferCheck c s = none ∧ isMessage c.input = true ∧
      cannotSend s (cmdCtx s c) (argU c 32 2) (argU c 34 2) = false ∧ maySendInput s c (argU c 32 2) (protSlot s (cmdCtx s c) none).isSome = true ∧ sealStatus s (protSlot s (cmdCtx s c) none) = none ∧ 1 ≤ freeTags s) c s) ∧
    (∃ ms x, ∃ c s, admits 0x0A 0x38 (fun c s => argsOnly c [(32, 0, 16), (34, 0, 12), (36, 0, 1), (38, 0, 16)] = true ∧ 1 ≤ argU c 38 2 ∧ argU c 38 2 ≤ 1024 ∧ bufferCheck c s = none ∧ 4 * argU c 38 2 ≤ c.inLen ∧
      memberList c.input (argU c 38 2) = some ms ∧ getCtx? s (argU c 34 2) = some x ∧ (s.trn.jobs.filter (fun e => e.1 != argU c 32 2)).length < 4096 ∧
      sumN ((s.trn.jobs.filter (fun e => e.1 != argU c 32 2)).map (fun e => e.2.members.length)) + argU c 38 2 ≤ 65536 ∧
      (judge c { unit := 0x0A, obj := 2 ^ 32 + argU c 32 2 } (.value (leNat (leBytes 32 c.args.toNat ++ c.input.take (4 * argU c 38 2)))) s).1 = true) c s) ∧
    (∃ r off j n dir, ∃ c s, admits 0x0A 0x39 (fun c s => argsOnly c [(32, 0, 16), (36, 0, 4), (40, 0, 64), (48, 0, 64)] = true ∧ resolve s (argU c 40 8) = some (r, off) ∧ mayName s c r.ctx = true ∧ tblGet? s.trn.jobs (argU c 32 2) = some j ∧
      j.ctx = r.ctx ∧ off + argU c 48 8 ≤ regionSize r ∧ (argBits c 36 3 1 = 1 → s.trn.members ≠ []) ∧ s.trn.windows.length < 65535 ∧ tblFree? s.trn.windows (s.trn.windows.length + 1) = some n ∧
      dirPlace s (argBits c 36 3 1 == 1) (argU c 48 8) = some dir) c s) ∧
    (∃ w, ∃ c s, admits 0x0A 0x3A (fun c s => argsOnly c [(32, 0, 16)] = true ∧ tblGet? s.trn.windows (argU c 32 2) = some w ∧ mayName s c w.ctx = true) c s) ∧
    (∃ k, ∃ c s, admits 0x0A 0x3B (fun c s => argsOnly c [(32, 0, 16), (34, 0, 1), (36, 0, 0)] = true ∧ argBits c 34 0 1 = 0 ∧ 1 ≤ argU c 32 2 ∧ argU c 32 2 ≤ 4096 ∧ freeRun (argU c 32 2) 0 (s.trn.counterOwner.map (·.1)) = some k) c s) ∧
    (∃ x, ∃ c s, admits 0x0A 0x3C (fun c s => argsOnly c [(32, 0, 16), (40, 0, 64), (48, 0, 32)] = true ∧ argU c 32 2 ≠ 0xFFFF ∧ tblGet? s.trn.counterOwner (argU c 32 2) = some x ∧ s.hlt.arms = [] ∧ mayName s c x = true ∧
      reached (tblGetD s.trn.counters (argU c 32 2) 0) (argU c 40 8) = true) c s) ∧
    (∃ x, ∃ c s, admits 0x0A 0x3C (fun c s => argsOnly c [(32, 0, 16), (40, 0, 64), (48, 0, 32)] = true ∧ argU c 32 2 ≠ 0xFFFF ∧ tblGet? s.trn.counterOwner (argU c 32 2) = some x ∧ s.hlt.arms = [] ∧ mayName s c x = true ∧
      reached (tblGetD s.trn.counters (argU c 32 2) 0) (argU c 40 8) = false) c s) ∧
    (∃ c s, admits 0x0A 0x3D (fun c s => argsOnly c [(32, 0, 8), (33, 0, 4)] = true ∧ argBits c 33 0 4 ≤ 8 ∧ (argU c 32 1 = 0xFF ↔ argBits c 33 0 4 = 0) ∧ bufferCheck c s = none ∧ 2 * argBits c 33 0 4 ≤ c.inLen ∧
      stookOk s ((List.range (argBits c 33 0 4)).map (fun i => inU c (2 * i) 2)) (argU c 32 1 == 0xFF) = true ∧
      (judge c { unit := 0x0A, obj := 2 ^ 33 } (.value (leNat (leBytes 32 c.args.toNat ++ c.input.take (2 * argBits c 33 0 4)))) s).1 = true) c s) ∧
    (∃ c s, admits 0x0A 0x3E (fun c s => argsOnly c [] = true ∧ bufferCheck c s = none ∧ 32 * (s.trn.slots.filter (fun e => keyCtx e.1 == cmdCtx s c)).length ≤ c.outLen) c s) ∧
    (∃ (core thread node rctx job window offset kind n : Nat) (operand swap : Word) (r : Run) (s : State), runAt s core thread = some (n, r) ∧ mayAccess s core thread = true ∧ kind ≤ 9 ∧ cannotSend s r.ctx node rctx = false ∧ sealStatus s (protSlot s r.ctx (some job)) = none ∧ freeTags s ≠ 0) ∧
    (∃ (ctx : Nat) (passed : List Nat) (r : RCmd) (rest : List RCmd) (s : State), tblGetD s.trn.rqueues ctx [] = r :: rest ∧ fetchHeld s = false ∧ (fetchPick s passed).1 = some (remoteFeed ctx)) :=
  ⟨(by
      refine ⟨cmd 10 0x31 [(32, 9), (36, 4), (38, 6), (48, 0xFFFF), (50, 8)] (zeros 8), winUp, ?_⟩
      repeat' apply And.intro
      all_goals first | rfl | decide),
   (by
      refine ⟨{ cmd 10 0x32 [(32, 9), (36, 4), (38, 6), (50, 0xFFFF)] with outLen := 8 }, winUp, ?_⟩
      repeat' apply And.intro
      all_goals first | rfl | decide),
   (by
      refine ⟨cmd 10 0x33 [(32, 9), (36, 4), (38, 6), (52, 5)] (zeros 8), winUp, ?_⟩
      exact ⟨rfl, rfl, rfl, rfl, (fun _ => by decide), rfl, rfl, by decide⟩),
   (by
      refine ⟨cmd 10 0x34 [(32, 9), (36, 4), (38, 6)] (zeros 8), winUp, ?_⟩
      repeat' apply And.intro
      all_goals first | rfl | decide),
   (by
      refine ⟨cmd 10 0x35 [(32, 9), (36, 71), (37, 3)] (zeros 8), winUp, ?_⟩
      repeat' apply And.intro
      all_goals first | rfl | decide),
   (by
      refine ⟨cmd 10 0x30 [(32, 9), (36, 0)] (zeros 64), winUp, ?_⟩
      repeat' apply And.intro
      all_goals first | rfl | decide),
   ⟨[(9, 0)], _, cmd 10 0x38 [(32, 4), (34, 1), (38, 1)] [9, 0, 0, 0], { winUp with sec := withCtx.sec }, rfl, rfl, rfl, by decide, by decide, rfl, by decide, rfl, rfl, by decide, by decide, rfl⟩,
   ⟨_, _, _, 0, 0, cmd 10 0x39 [(32, 4), (36, 7), (40, 2 ^ 40), (48, 4096)], winUp, rfl, rfl, rfl, rfl, rfl, rfl, rfl, by decide, by decide, by decide, rfl, rfl⟩,
   ⟨_, cmd 10 0x3A [(32, 6)], winUp, rfl, rfl, rfl, rfl, rfl⟩,
   (by
      refine ⟨0, cmd 10 0x3B [(32, 1)], winUp, ?_⟩
      repeat' apply And.intro
      all_goals first | rfl | decide),
   (by
      refine ⟨0, cmd 10 0x3C [(32, 8), (40, 0)], winUp, ?_⟩
      repeat' apply And.intro
      all_goals first | decide +kernel | rfl),
   (by
      refine ⟨0, cmd 10 0x3C [(32, 8), (40, 1)], winUp, ?_⟩
      repeat' apply And.intro
      all_goals first | decide +kernel | rfl),
   (by
      refine ⟨cmd 10 0x3D [(32, 2), (33, 2)] [5, 0, 9, 0], winUp, ?_⟩
      repeat' apply And.intro
      all_goals first | rfl | decide),
   (by
      refine ⟨cmd 10 0x3E [], slotUp, ?_⟩
      repeat' apply And.intro
      all_goals first | rfl | decide),
   ⟨3, 2, 9, 0, 4, 6, 0, 9, 9, 1, 0, _, { winUp with fld := { (setCore 3 { state := .rotation } up).fld with runs := [(9, { oid := 9, ctx := 0, program := 0, arg := 0, threads := 4, exclusive := false, replayable := true, ranks := [{ core := 3, started := true }] })] } }, rfl, rfl, by decide, rfl, rfl, by decide⟩,
   (by
      refine ⟨1, [], { cmd := cmd 2 1 [], cls := 0 }, [], { up with trn := { up.trn with rqueues := [(1, [{ cmd := cmd 2 1 [], cls := 0 }])] } }, ?_⟩
      repeat' apply And.intro
      all_goals first | rfl | decide)⟩

theorem witness_HeadlandRowsComplete :
    (∃ (passed : List Nat) (i : Nat) (s : State), (fetchPick s passed).1 = some i) ∧
    (∃ (p : Nat) (f : QFrame) (rest : List QFrame) (s : State), p < nPorts s ∧ expressHead s p = some (f, rest)) ∧
    (∃ (p c q : Nat) (d e : Drr) (s : State), p < nPorts s ∧ expressHead s p = none ∧ pickClass s p = (some c, d) ∧ fromClass s p c = (some q, e)) ∧
    (∃ (p : Nat) (d : Drr) (s : State), p < nPorts s ∧ expressHead s p = none ∧ pickClass s p = (none, d)) ∧
    (∃ (i : Nat) (s : State), waitsForCycle s i = true ∧ takeoverDue s i = true) ∧
    (∃ (i : Nat) (s : State), takeoverDue s i = true) ∧
    (∃ (i t : Nat) (s : State), (getInst s i).stopAt = some t ∧ t ≤ fabricTime s) ∧
    (∃ is, ∃ c s, admits 0x0B 0x01 (fun c s => argsOnly c [(32, 0, 8)] = true ∧ argU c 32 1 ≠ 0xFF ∧ instances s (argU c 32 1) = .ok is ∧ bufferCheck c s = none ∧ 8448 ≤ c.outLen) c s) ∧
    (∃ is, ∃ c s, admits 0x0B 0x10 (fun c s => argsOnly c [(32, 0, 8)] = true ∧ instances s (argU c 32 1) = .ok is ∧ bufferCheck c s = none ∧ 64 ≤ c.inLen ∧ (classRecords is c.input).length = 8 ∧ (is.contains 16 = true ∨ rangesApart (classRecords is c.input) = true) ∧
      (judgeAll c (2 ^ 30) (.value (leNat (c.input.take 64))) is s).1 = true) c s) ∧
    (∃ is, ∃ c s, admits 0x0B 0x11 (fun c s => argsOnly c [(32, 0, 8), (34, 0, 10), (36, 0, 11)] = true ∧ 1 ≤ argBits c 36 0 11 ∧ argBits c 34 0 10 + argBits c 36 0 11 ≤ 1024 ∧ instances s (argU c 32 1) = .ok is ∧ bufferCheck c s = none ∧
      4 * argBits c 36 0 11 ≤ c.inLen ∧ (queueRecords c (argBits c 36 0 11)).any (fun r => r.1 == 0 || r.2.1 != 0) = false ∧ (judgeAll c (2 ^ 31) (.value (leNat (leBytes 32 c.args.toNat ++ c.input.take (4 * argBits c 36 0 11)))) is s).1 = true) c s) ∧
    (∃ is, ∃ c s, admits 0x0B 0x20 (fun c s => argsOnly c [(32, 0, 8), (34, 0, 9), (40, 0, 64), (48, 0, 64)] = true ∧ 1 ≤ argBits c 34 0 9 ∧ argBits c 34 0 9 ≤ 256 ∧ instances s (argU c 32 1) = .ok is ∧ bufferCheck c s = none ∧ 8 * argBits c 34 0 9 ≤ c.inLen ∧
      entriesOk c (argBits c 34 0 9) = true ∧ (argU c 40 8 = 0 ∨ fabricTime s + 2000 ≤ argU c 40 8) ∧ (judgeAll c 0 (.activation 2) is s).1 = true) c s) ∧
    (∃ is, ∃ c s, admits 0x0B 0x21 (fun c s => argsOnly c [(32, 0, 8), (40, 0, 64)] = true ∧ instances s (argU c 32 1) = .ok is ∧ (judgeAll c 0 (.activation 1) is s).1 = true) c s) :=
  ⟨(by
      refine ⟨[], 5, setRing 5 ring withCtx, ?_⟩
      decide +kernel),
   ⟨2, _, [], { (portUp { state := .active, credits := [(0, 9)] }) with hdl := { insts := [(2, { express := [{ out := data1, hops := 9 }] })] } }, by decide, rfl⟩,
   ⟨2, 0, 5, _, _, { (portUp { state := .active, credits := [(0, 9)] }) with hdl := { insts := [(2, { queues := [(5, { packets := [{ out := data1, hops := 9 }] })] })] } }, by decide, rfl, rfl, rfl⟩,
   ⟨2, _, portUp, by decide, rfl, rfl⟩,
   (by
      refine ⟨16, { (up) with hdl := { insts := [(16, { pending := some { entries := [(1000, 255)], phaseBase := 0, takeover := 0, since := 0, ctx := 0, mgmt := none } })] } }, ?_⟩
      repeat' apply And.intro
      all_goals first | rfl | decide),
   (by
      refine ⟨16, { (up) with hdl := { insts := [(16, { pending := some { entries := [(1000, 255)], phaseBase := 0, takeover := 0, since := 0, ctx := 0, mgmt := none } })] } }, ?_⟩
      repeat' apply And.intro
      all_goals first | rfl | decide),
   (by
      refine ⟨16, 0, { (up) with hdl := { insts := [(16, { stopAt := some 0 })] } }, ?_⟩
      repeat' apply And.intro
      all_goals first | rfl | decide),
   (by
      refine ⟨[16], cmd 11 1 [(32, 16)], up, ?_⟩
      repeat' apply And.intro
      all_goals first | rfl | decide),
   (by
      refine ⟨[2], cmd 11 16 [(32, 2)] ((List.range 8).map (fun k => [0, 8, BitVec.ofNat 8 (128 * k % 256), BitVec.ofNat 8 (k / 2), 128, 0, 0, 0])).flatten, up, ?_⟩
      exact ⟨rfl, rfl, rfl, rfl, rfl, by decide, by decide +kernel, .inr (by decide +kernel), by decide +kernel⟩),
   (by
      refine ⟨[2], cmd 11 17 [(32, 2), (34, 1023), (36, 1)] [4, 0, 0, 0], up, ?_⟩
      repeat' apply And.intro
      all_goals first | rfl | decide),
   (by
      refine ⟨[16], cmd 11 32 [(32, 16), (34, 1), (40, 0), (48, 1)] [100, 0, 0, 0, 255, 0, 0, 0], up, ?_⟩
      exact ⟨rfl, rfl, rfl, by decide, by decide, rfl, rfl, by decide, rfl, .inl rfl, rfl⟩),
   (by
      refine ⟨[16], cmd 11 33 [(32, 16)], up, ?_⟩
      repeat' apply And.intro
      all_goals first | rfl | decide)⟩

theorem witness_SecurityCommandsComplete :
    (∃ c s, admits 0x0C 0x01 (fun c s => argsOnly c [] = true ∧ bufferCheck c s = none ∧ 64 ≤ c.inLen ∧ ctxFieldsOk c = true ∧ ctxKeysOk s c = true ∧ (s.sec.conf = false ∨ bitOf (inU c 2 1) 0 = true ∨ bitOf (inU c 2 1) 1 = true) ∧
      tblHas s.sec.ctxs (inU c 0 2) = false ∧ residents s < 1024) c s) ∧
    (∃ k x, ∃ c s, admits 0x0C 0x02 (fun c s => namedCtx s c = .ok (k, x) ∧ ringsOf s k = false ∧ (judge c (ctxTarget k) (.content 1) s).1 = true) c s) ∧
    (∃ k x, ∃ c s, admits 0x0C 0x03 (fun c s => namedCtx s c = .ok (k, x) ∧ ctxBusy s k = false ∧ (judge c (ctxTarget k) (.activation 1) s).1 = true) c s) ∧
    (∃ k x, ∃ c s, admits 0x0C 0x04 (fun c s => namedCtx s c = .ok (k, x) ∧ (x.resident = true ∨ residents s < 1024) ∧ (judge c (ctxTarget k) (.activation 2) s).1 = true) c s) ∧
    (∃ x, ∃ c s, admits 0x0C 0x05 (fun c s => argsOnly c [(32, 0, 12)] = true ∧ bufferCheck c s = none ∧ getCtx? s (argBits c 32 0 12) = some x ∧ mayName s c (argBits c 32 0 12) = true ∧ 64 ≤ c.outLen) c s) ∧
    (∃ (e : Envelope) (key : List Byte) (groups : Tbl KeyGroup) (unwrapped : Option (List Byte)) (c : Cmd) (s : State), admits 0x0C 0x10 (fun c s => argsOnly c [] = true ∧ bufferCheck c s = none ∧ envelopeOf c = .ok e ∧ (s.sec.conf = false ∨ e.wrapped = true) ∧ (e.wrapped = false ∨ s.sec.attested = true) ∧
      envelopeKey s c e unwrapped = some key ∧ groupsAfter s e = .ok groups ∧ slotShadow s e.slot = none ∧ slotInUse s e.slot = false ∧ s.sec.nextGen < 2 ^ 32 ∧ (judge c (slotTarget e.slot) (.content 2) s).1 = true) c s) ∧
    (∃ c s, admits 0x0C 0x11 (fun c s => argsOnly c [(32, 0, 8)] = true ∧ (judge c (slotTarget (argU c 32 2)) (.content 1) s).1 = true) c s) ∧
    (∃ x, ∃ c s, admits 0x0C 0x12 (fun c s => argsOnly c [(32, 0, 8)] = true ∧ tblGet? s.sec.keys (argU c 32 2) = some x ∧ mayName s c x.owner = true) c s) ∧
    (∃ c s, admits 0x0C 0x12 (fun c s => argsOnly c [(32, 0, 8)] = true ∧ tblGet? s.sec.keys (argU c 32 2) = none) c s) ∧
    (∃ c s, admits 0x0C 0x13 (fun c s => argsOnly c [(32, 0, 32)] = true ∧ argU c 34 2 ≠ 0xFFFF ∧ fabricKey s (argU c 34 2) = true ∧ (judge c (slotTarget (argU c 34 2)) (.value (argU c 32 2)) s).1 = true) c s) ∧
    (∃ (k : Nat) (x : KeySlot) (h : Shadow) (s : State), tblGet? s.sec.keys k = some x ∧ x.shadow = some h ∧ h.ops = [] ∧ (x.usage = 2 → h.since + 10000000 ≤ s.now)) ∧
    (∃ was, ∃ c s, admits 0x0C 0x20 (fun c s => argsOnly c [(32, 0, 16), (40, 0, 64)] = true ∧ argU c 40 8 ≤ (if argU c 32 2 == 2 then 255 else 1) ∧ secValue s (argU c 32 2) = some was ∧
      ¬(argU c 32 2 = 1 ∧ argU c 40 8 = 0 ∧ s.sec.conf = true) ∧ (judge c { unit := 0x0C, obj := 2 ^ 18 + argU c 32 2 } (.value (argU c 40 8)) s).1 = true) c s) :=
  ⟨(by
      refine ⟨cmd 12 1 [] ([1, 0, 4, 1, 0, 0, 0, 0, 0xFF, 0xFF, 0xFF, 0xFF, 0xFF, 0xFF] ++ zeros 50), up, ?_⟩
      repeat' apply And.intro
      all_goals first | rfl | decide),
   ⟨1, _, cmd 12 2 [(32, 1)], { up with sec := { up.sec with ctxs := [(0, {}), (1, ctx1)] } }, rfl, rfl, rfl, rfl, rfl⟩,
   ⟨1, _, cmd 12 3 [(32, 1)], { up with sec := { up.sec with ctxs := [(0, {}), (1, ctx1)] } }, rfl, rfl, rfl, rfl, rfl⟩,
   ⟨1, _, cmd 12 4 [(32, 1)], { up with sec := { up.sec with ctxs := [(0, {}), (1, ctx1)] } }, rfl, rfl, rfl, .inl rfl, rfl⟩,
   ⟨_, cmd 12 5 [(32, 1)], { up with sec := { up.sec with ctxs := [(0, {}), (1, ctx1)] } }, rfl, rfl, rfl, rfl, rfl, rfl, by decide⟩,
   (by
      refine ⟨({ usage := 0, wrapped := false, slot := 5, owner := 1, group := 0, epoch := 0, uids := [1] } : Envelope), zeros 64, [(0, { epoch := 0, members := [1] })], none, cmd 12 16 [] ([0, 1, 5, 0, 1, 0, 0, 0, 0, 0, 0, 0, 0, 0, 0, 0, 1, 0] ++ zeros 46 ++ leBytes 16 1 ++ zeros 64), up, ?_⟩
      exact ⟨rfl, by decide +kernel, by decide +kernel, by decide +kernel, ok_of_option (by decide +kernel), .inl rfl, .inl rfl, by decide +kernel, ok_of_option (by decide +kernel), rfl, rfl, by decide, by decide +kernel⟩),
   (by
      refine ⟨cmd 12 17 [(32, 5)], { up with sec := { up.sec with keys := [(5, keyA)] } }, ?_⟩
      repeat' apply And.intro
      all_goals first | rfl | decide),
   ⟨_, cmd 12 18 [(32, 5)], { up with sec := { up.sec with keys := [(5, keyA)] } }, rfl, rfl, rfl, rfl, rfl⟩,
   (by
      refine ⟨cmd 12 18 [(32, 5)], up, ?_⟩
      repeat' apply And.intro
      all_goals first | rfl | decide),
   (by
      refine ⟨cmd 12 19 [(32, 4), (34, 5)], { up with sec := { up.sec with keys := [(5, { keyA with usage := 2 })] } }, ?_⟩
      repeat' apply And.intro
      all_goals first | rfl | decide),
   ⟨5, _, _, { { up with sec := { up.sec with keys := [(5, { keyA with usage := 2, shadow := some { generation := 0, key := [], since := 0, ops := [] } })] } } with now := 10000000 }, rfl, rfl, rfl, fun _ => by decide⟩,
   (by
      refine ⟨0, cmd 12 32 [(32, 3), (40, 1)], up, ?_⟩
      repeat' apply And.intro
      all_goals first | rfl | decide)⟩

theorem witness_FirmwareCommandsComplete :
    (∃ c s, admits 0x0C 0x30 (fun c s => argsOnly c [(32, 0, 32)] = true ∧ argU c 32 4 % 4096 = 0 ∧ bufferCheck c s = none ∧ 4096 ≤ c.inLen ∧ c.inLen ≤ 65536 ∧ argU c 32 4 + c.inLen ≤ 2 ^ 24 ∧ onTrial s = false ∧ (judge c bankTarget (.content 2) s).1 = true) c s) ∧
    (∃ c s, admits 0x0C 0x31 (fun c s => argsOnly c [] = true ∧ s.hlt.arms = [] ∧ imageAuthentic s (idleBank s) true = true ∧ s.fuse.svn ≤ imageSvn s (idleBank s) ∧ fwField s (idleBank s) 7 1 = 0xB1 ∧ fwField s (idleBank s) 10 1 = 3 ∧
      (judge c bankTarget (.value 1) s).1 = true) c s) ∧
    (∃ c s, admits 0x0C 0x31 (fun c s => argsOnly c [] = true ∧ s.hlt.arms = [] ∧ imageAuthentic s (idleBank s) true = true ∧ imageSvn s (idleBank s) < s.fuse.svn) c s) ∧
    (∃ c s, admits 0x0C 0x31 (fun c s => argsOnly c [] = true ∧ s.hlt.arms = []) c s) ∧
    (∃ c s, admits 0x0C 0x32 (fun c s => argsOnly c [(32, 0, 1)] = true ∧ (judge c bankTarget (.value (2 + b2n (argBits c 32 0 1 == 1))) s).1 = true) c s) ∧
    (∃ c s, admits 0x0C 0x33 (fun c _ => argsOnly c [] = true) c s) ∧
    (∃ c s, admits 0x0C 0x34 (fun c s => argsOnly c [] = true ∧ onTrial s = false ∧ (judge c bankTarget (.content 1) s).1 = true) c s) :=
  ⟨(by
      refine ⟨{ cmd 12 48 [(32, 4096)] with inLen := 4096 }, up, ?_⟩
      repeat' apply And.intro
      all_goals first | rfl | decide),
   (by
      refine ⟨cmd 12 49 [], { up with sec := { up.sec with bank1 := firstImage } }, ?_⟩
      repeat' apply And.intro
      all_goals first | rfl | decide),
   (by
      refine ⟨cmd 12 49 [], { { up with sec := { up.sec with bank1 := firstImage } } with fuse := { up.fuse with svn := 1 } }, ?_⟩
      repeat' apply And.intro
      all_goals first | rfl | decide),
   (by
      refine ⟨cmd 12 49 [], up, ?_⟩
      repeat' apply And.intro
      all_goals first | rfl | decide),
   (by
      refine ⟨cmd 12 50 [(32, 1)], up, ?_⟩
      repeat' apply And.intro
      all_goals first | rfl | decide),
   (by
      refine ⟨cmd 12 51 [], up, ?_⟩
      repeat' apply And.intro
      all_goals first | rfl | decide),
   (by
      refine ⟨cmd 12 52 [], up, ?_⟩
      repeat' apply And.intro
      all_goals first | rfl | decide)⟩

theorem witness_SpdmRowsComplete :
    (∃ (p : MctpPath) (s : State), fwRuns s = true) ∧
    (∃ (p : MctpPath) (v : Nat) (s : State), fwRuns s = true ∧ tblHas s.sec.conns (pathKey p) = true ∧ (v = 0x12 ∨ v = 0x13)) ∧
    (∃ (p : MctpPath) (s : State), fwRuns s = true ∧ (getConn s p).caps = true) ∧
    (∃ (p : MctpPath) (s : State), fwRuns s = true ∧ (getConn s p).algs = true) ∧
    (∃ (p : MctpPath) (off len : Nat) (s : State), fwRuns s = true ∧ (getConn s p).algs = true) ∧
    (∃ (p : MctpPath) (nonce : BitVec 256) (s : State), fwRuns s = true ∧ (getConn s p).algs = true) ∧
    (∃ (p : MctpPath) (i : Nat) (nonce : BitVec 256) (bs : List (List Byte)) (s : State), fwRuns s = true ∧ (getConn s p).algs = true ∧ measurementBlocks s i = some bs) ∧
    (∃ (p : MctpPath) (id : Nat) (pub : BitVec 768) (s : State), fwRuns s = true ∧ (getConn s p).algs = true ∧ s.sec.sessions.length < 8) ∧
    (∃ (p : MctpPath) (k : Nat) (x : SpdmSession) (s : State), fwRuns s = true ∧ (getConn s p).algs = true ∧ session? s p k = some x ∧ x.finished = false) ∧
    (∃ (p : MctpPath) (k : Nat) (x : SpdmSession) (s : State), fwRuns s = true ∧ (getConn s p).algs = true ∧ session? s p k = some x ∧ x.finished = true) ∧
    (∃ (p : MctpPath) (h n : Nat) (last : Bool) (b have_ : List Byte) (s : State), fwRuns s = true ∧ (getConn s p).caps = true ∧ chunkSoFar (getConn s p) h n = some have_) ∧
    (∃ (p : MctpPath) (h n : Nat) (bs : List Byte) (s : State), fwRuns s = true ∧ (getConn s p).response = some (h, n, bs)) :=
  ⟨(by
      refine ⟨.vdm, up, ?_⟩
      repeat' apply And.intro
      all_goals first | rfl | decide),
   (by
      refine ⟨.vdm, 0x13, { up with sec := { up.sec with conns := [(0, { caps := true, algs := true })] } }, ?_⟩
      exact ⟨rfl, rfl, .inr rfl⟩),
   (by
      refine ⟨.vdm, { up with sec := { up.sec with conns := [(0, { caps := true, algs := true })] } }, ?_⟩
      repeat' apply And.intro
      all_goals first | rfl | decide),
   (by
      refine ⟨.vdm, { up with sec := { up.sec with conns := [(0, { caps := true, algs := true })] } }, ?_⟩
      repeat' apply And.intro
      all_goals first | rfl | decide),
   (by
      refine ⟨.vdm, 0, 0, { up with sec := { up.sec with conns := [(0, { caps := true, algs := true })] } }, ?_⟩
      repeat' apply And.intro
      all_goals first | rfl | decide),
   (by
      refine ⟨.vdm, 0, { up with sec := { up.sec with conns := [(0, { caps := true, algs := true })] } }, ?_⟩
      repeat' apply And.intro
      all_goals first | rfl | decide),
   (by
      refine ⟨.vdm, 0, 0, [], { up with sec := { up.sec with conns := [(0, { caps := true, algs := true })] } }, ?_⟩
      repeat' apply And.intro
      all_goals first | rfl | decide),
   (by
      refine ⟨.vdm, 0, 0, { up with sec := { up.sec with conns := [(0, { caps := true, algs := true })] } }, ?_⟩
      repeat' apply And.intro
      all_goals first | rfl | decide),
   ⟨.vdm, 7, _, { up with sec := { up.sec with conns := [(0, { caps := true, algs := true })], sessions := [(7, { path := 0, reqId := 7, finished := false })] } }, rfl, rfl, rfl, rfl⟩,
   ⟨.vdm, 7, _, { up with sec := { up.sec with conns := [(0, { caps := true, algs := true })], sessions := [(7, { path := 0, reqId := 7, finished := true })] } }, rfl, rfl, rfl, rfl⟩,
   (by
      refine ⟨.vdm, 1, 0, true, [], [], { up with sec := { up.sec with conns := [(0, { caps := true, algs := true })] } }, ?_⟩
      repeat' apply And.intro
      all_goals first | rfl | decide),
   (by
      refine ⟨.vdm, 1, 0, [], { up with sec := { up.sec with conns := [(0, { response := some (1, 0, []) })] } }, ?_⟩
      repeat' apply And.intro
      all_goals first | rfl | decide)⟩

theorem witness_SparkAndTallyRowsComplete :
    (∃ h, ∃ c s, admits 0x0D 0x01 (fun c s => argsOnly c [(32, 0, 16), (34, 0, 16), (36, 0, 2), (38, 0, 16), (40, 0, 32), (44, 0, 16), (46, 0, 16)] = true ∧ armFieldsOk c = true ∧ s.sec.conf = false ∧
      sparkInstance s (argU c 32 2) (argU c 34 2) = none ∧ tblFree? s.hlt.arms 64 = some h ∧ (judge c { unit := 0x0D, obj := h } (.activation 2) s).1 = true) c s) ∧
    (∃ (h : Nat) (a : Arm) (s : State), tblGet? s.hlt.arms h = some a ∧ a.from_ + a.delayUs * 1000 ≤ s.now) ∧
    (∃ c s, admits 0x0D 0x02 (fun c s => argsOnly c [(32, 0, 8)] = true ∧ argU c 32 1 ≠ 0xFF ∧ tblHas s.hlt.arms (argU c 32 1) = true) c s) ∧
    (∃ c s, admits 0x0D 0x02 (fun c _ => argsOnly c [(32, 0, 8)] = true ∧ argU c 32 1 = 0xFF) c s) ∧
    (∃ c s, admits 0x0D 0x03 (fun c s => argsOnly c [] = true ∧ bufferCheck c s = none ∧ 16 * s.hlt.arms.length ≤ c.outLen) c s) ∧
    (∃ count size, ∃ c s, admits 0x0D 0x10 (fun c s => sectionOf s (argU c 32 1) = some (count, size) ∧ argsOnly c [(32, 0, 8), (36, 0, 64)] = true ∧ argU c 36 4 + argU c 40 4 ≤ count ∧ bufferCheck c s = none ∧ size * argU c 40 4 ≤ c.outLen) c s) ∧
    (∃ s : State, s.oln.sync = .locked) :=
  ⟨(by
      refine ⟨0, cmd 13 1 [(32, 0x0802)], up, ?_⟩
      exact ⟨rfl, rfl, rfl, rfl, rfl, rfl, by decide, rfl⟩),
   ⟨3, _, { up with hlt := { up.hlt with arms := [(3, armA)] } }, rfl, by decide⟩,
   (by
      refine ⟨cmd 13 2 [(32, 3)], { up with hlt := { up.hlt with arms := [(3, armA)] } }, ?_⟩
      repeat' apply And.intro
      all_goals first | rfl | decide),
   (by
      refine ⟨cmd 13 2 [(32, 0xFF)], up, ?_⟩
      repeat' apply And.intro
      all_goals first | rfl | decide),
   (by
      refine ⟨cmd 13 3 [], up, ?_⟩
      repeat' apply And.intro
      all_goals first | rfl | decide),
   (by
      refine ⟨72, 32, cmd 13 16 [(32, 1), (40, 72)], up, ?_⟩
      repeat' apply And.intro
      all_goals first | rfl | decide),
   (by
      refine ⟨{ up with oln := { up.oln with sync := .locked } }, ?_⟩
      repeat' apply And.intro
      all_goals first | rfl | decide)⟩

theorem witness_MeterRowsComplete :
    (∃ s : State, s.hlt.straggler = false ∧ healthParam s 0x01 ≠ 0 ∧ stragglerHeld s s.hlt.stragglerSince = true) ∧
    (∃ s : State, s.hlt.straggler = true ∧ stragglerHeld s s.hlt.stragglerOkSince = true) ∧
    (∃ c s, admits 0x0D 0x20 (fun c s => argsOnly c [] = true ∧ bufferCheck c s = none ∧ 64 * s.hlt.tenants.length ≤ c.outLen) c s) ∧
    (∃ c s, admits 0x0D 0x21 (fun c s => argsOnly c [] = true ∧ bufferCheck c s = none ∧ 32 * s.hlt.comps.length ≤ c.outLen) c s) ∧
    (∃ x, ∃ c s, admits 0x0D 0x22 (fun c s => argsOnly c [(32, 0, 12)] = true ∧ bufferCheck c s = none ∧ getCtx? s (argU c 32 2) = some x ∧ mayName s c (argU c 32 2) = true ∧ x.profile = true ∧ 48 ≤ c.outLen) c s) ∧
    (∃ c s, admits 0x0D 0x23 (fun c s => argsOnly c [(36, 0, 32)] = true ∧ tblHas s.hlt.tenants (argU c 36 4) = true ∧ (judge c { unit := 0x0D, obj := 2 ^ 33 + argU c 36 4 } (.content 1) s).1 = true) c s) :=
  ⟨(by
      refine ⟨{ { up with hlt := { up.hlt with stragglerSince := some 0, params := [(1, 1000)] } } with now := 10 ^ 12 }, ?_⟩
      repeat' apply And.intro
      all_goals first | rfl | decide),
   (by
      refine ⟨{ { up with hlt := { up.hlt with straggler := true, stragglerOkSince := some 0 } } with now := 10 ^ 12 }, ?_⟩
      exact ⟨rfl, by decide +kernel⟩),
   (by
      refine ⟨cmd 13 32 [], up, ?_⟩
      repeat' apply And.intro
      all_goals first | rfl | decide),
   (by
      refine ⟨cmd 13 33 [], up, ?_⟩
      repeat' apply And.intro
      all_goals first | rfl | decide),
   ⟨_, cmd 13 34 [(32, 1)], { up with sec := { up.sec with ctxs := [(1, { profile := true })] } }, rfl, rfl, rfl, rfl, rfl, rfl, rfl, by decide⟩,
   (by
      refine ⟨cmd 13 35 [(36, 7)], { up with hlt := { up.hlt with tenants := [(7, {})] } }, ?_⟩
      repeat' apply And.intro
      all_goals first | rfl | decide)⟩

theorem witness_HealthCommandsComplete :
    (∃ c s, admits 0x0D 0x30 (fun c s => argsOnly c [] = true ∧ bufferCheck c s = none ∧ c.outLen = 0) c s) ∧
    (∃ c s, admits 0x0D 0x30 (fun c s => argsOnly c [] = true ∧ bufferCheck c s = none ∧ 1044 ≤ c.outLen) c s) ∧
    (∃ c s, admits 0x0D 0x31 (fun c s => argsOnly c [(32, 0, 1), (36, 0, 32)] = true ∧ bufferCheck c s = none) c s) ∧
    (∃ c s, admits 0x0D 0x32 (fun c s => argsOnly c [(32, 0, 16), (40, 0, 64)] = true ∧ healthRange s (argU c 32 2) (argU c 40 8) = true ∧ (judge c { unit := 0x0D, obj := 2 ^ 34 + argU c 32 2 } (.value (argU c 40 8)) s).1 = true) c s) ∧
    (∃ c s, admits 0x0D 0x38 (fun c s => unitNamed s c = true ∧ (unitJudge 1 c s).1 = true) c s) ∧
    (∃ c s, admits 0x0D 0x39 (fun c s => unitNamed s c = true ∧ (unitJudge 2 c s).1 = true) c s) ∧
    (∃ c s, admits 0x0D 0x3A (fun c s => unitNamed s c = true ∧ (unitJudge 3 c s).1 = true ∧
      (argU c 32 1 = 1 ∧ (getChan (unitJudge 3 c s).2 (argU c 34 2)).state = .fenced ∧ isRetired s .channel (argU c 34 2) = false ∨
       argU c 32 1 = 4 ∧ (getGroup (unitJudge 3 c s).2 (argU c 34 2)).state = .fenced ∧ isRetired s .peat (argU c 34 2) = false)) c s) ∧
    (∃ c s, admits 0x0D 0x3A (fun c s => unitNamed s c = true ∧ (unitJudge 3 c s).1 = true ∧
      (argU c 32 1 = 1 ∧ (getChan (unitJudge 3 c s).2 (argU c 34 2)).state = .restricted ∨ argU c 32 1 = 4 ∧ (getGroup (unitJudge 3 c s).2 (argU c 34 2)).state = .restricted)) c s) ∧
    (∃ cls n, ∃ c s, admits 0x0D 0x3B (fun c s => classNumber (argU c 32 1) = some (cls, n) ∧ argsOnly c [(32, 0, 8), (34, 0, 16)] = true ∧ argU c 34 2 < n ∧ partPresent s cls (argU c 34 2) = true ∧ isRetired s cls (argU c 34 2) = true ∧
      (judge c { unit := 0x0D, obj := 2 ^ 36 + partKey cls (argU c 34 2) } (.value 0) s).1 = true) c s) ∧
    (∃ cls n, ∃ c s, admits 0x0D 0x3B (fun c s => classNumber (argU c 32 1) = some (cls, n) ∧ argsOnly c [(32, 0, 8), (34, 0, 16)] = true ∧ argU c 34 2 < n ∧ partPresent s cls (argU c 34 2) = false) c s) ∧
    (∃ (m step : Nat) (pass : Bool) (s : State), m < 384) ∧
    (∃ (g step : Nat) (pass : Bool) (s : State), g < 2) ∧
    (∃ (n step : Nat) (pass : Bool) (s : State), n < 72) ∧
    (∃ (p step : Nat) (pass : Bool) (s : State), p < 16) ∧
    (∃ (k step : Nat) (pass : Bool) (s : State), k < 64) :=
  ⟨(by
      refine ⟨{ cmd 13 48 [] with outLen := 0 }, up, ?_⟩
      repeat' apply And.intro
      all_goals first | rfl | decide),
   (by
      refine ⟨cmd 13 48 [], up, ?_⟩
      repeat' apply And.intro
      all_goals first | rfl | decide),
   (by
      refine ⟨cmd 13 49 [(32, 1), (36, 5)], up, ?_⟩
      repeat' apply And.intro
      all_goals first | rfl | decide),
   (by
      refine ⟨cmd 13 50 [(32, 8), (40, 3)], up, ?_⟩
      repeat' apply And.intro
      all_goals first | rfl | decide),
   (by
      refine ⟨cmd 13 56 [(32, 1), (34, 383)], up, ?_⟩
      repeat' apply And.intro
      all_goals first | rfl | decide),
   (by
      refine ⟨cmd 13 57 [(32, 4), (34, 1)], up, ?_⟩
      repeat' apply And.intro
      all_goals first | rfl | decide),
   (by
      refine ⟨cmd 13 58 [(32, 1), (34, 0)], chansUp { state := .fenced }, ?_⟩
      exact ⟨rfl, rfl, rfl, rfl, .inl ⟨rfl, rfl, rfl⟩⟩),
   (by
      refine ⟨cmd 13 58 [(32, 1), (34, 0)], chansUp { state := .restricted }, ?_⟩
      exact ⟨rfl, rfl, rfl, rfl, .inl ⟨rfl, rfl⟩⟩),
   (by
      refine ⟨.core, 72, cmd 13 59 [(32, 0), (34, 5)], { up with hlt := { up.hlt with retired := [partKey .core 5] } }, ?_⟩
      repeat' apply And.intro
      all_goals first | rfl | decide),
   (by
      refine ⟨.channel, 384, cmd 13 59 [(32, 1), (34, 383)], offerUp, ?_⟩
      repeat' apply And.intro
      all_goals first | rfl | decide),
   (by
      refine ⟨383, 0, true, up, ?_⟩
      repeat' apply And.intro
      all_goals first | rfl | decide),
   (by
      refine ⟨1, 0, true, up, ?_⟩
      repeat' apply And.intro
      all_goals first | rfl | decide),
   (by
      refine ⟨71, 0, true, up, ?_⟩
      repeat' apply And.intro
      all_goals first | rfl | decide),
   (by
      refine ⟨15, 0, true, up, ?_⟩
      repeat' apply And.intro
      all_goals first | rfl | decide),
   (by
      refine ⟨63, 0, true, up, ?_⟩
      repeat' apply And.intro
      all_goals first | rfl | decide)⟩

theorem witness_DrainRowsComplete :
    (∃ c s, admits 0x0D 0x40 (fun c s => argsOnly c [(32, 0, 12), (34, 0, 1), (36, 0, 16)] = true ∧ (argU c 36 2 = 0 ∨ 16 ≤ argU c 36 2) ∧ drainActive s = false ∧ s.oln.addr.isSome = true) c s) ∧
    (∃ (a b : Bool) (c : Cmd) (s : State), admits 0x0D 0x40 (fun c s => argsOnly c [(32, 0, 12), (34, 0, 1), (36, 0, 16)] = true ∧ (argU c 36 2 = 0 ∨ 16 ≤ argU c 36 2) ∧ drainActive s = false ∧ s.oln.addr.isSome = true ∧ (a && b) = false) c s) ∧
    (∃ s : State, s.hlt.drain.phase = .copy) ∧
    (∃ s : State, s.hlt.drain.phase = .catchUp ∧ markedBytes s s.hlt.drain < s.hlt.drain.marked) ∧
    (∃ s : State, s.hlt.drain.phase = .catchUp ∧ s.hlt.drain.marked ≤ markedBytes s s.hlt.drain ∧ 9 ≤ s.hlt.drain.stuck) ∧
    (∃ s : State, s.hlt.drain.phase = .copy) ∧
    (∃ s : State, s.hlt.drain.phase = .catchUp) ∧
    (∃ s : State, s.hlt.drain.phase = .quiesce ∧ isQuiet s = true) ∧
    (∃ (oid : Nat) (s : State), s.hlt.drain.phase = .quiesce ∧ isQuiet s = true ∧ s.hlt.drain.oid = some oid) ∧
    (∃ c s, admits 0x0D 0x41 (fun c s => argsOnly c [] = true ∧ bufferCheck c s = none ∧ 4 * (drainLeft s).length ≤ c.outLen) c s) ∧
    (∃ c s, admits 0x0D 0x42 (fun c s => argsOnly c [] = true ∧ drainActive s = true) c s) :=
  ⟨(by
      refine ⟨cmd 13 64 [(32, 9), (36, 16)], up, ?_⟩
      exact ⟨rfl, rfl, rfl, .inr (by decide), rfl, rfl⟩),
   (by
      refine ⟨false, true, cmd 13 64 [(32, 9)], up, ?_⟩
      exact ⟨rfl, rfl, rfl, .inl rfl, rfl, rfl, rfl⟩),
   (by
      refine ⟨{ up with hlt := { up.hlt with drain := { phase := .copy } } }, ?_⟩
      repeat' apply And.intro
      all_goals first | rfl | decide),
   (by
      refine ⟨{ up with hlt := { up.hlt with drain := { phase := .catchUp, marked := 1 } } }, ?_⟩
      repeat' apply And.intro
      all_goals first | rfl | decide),
   (by
      refine ⟨{ up with hlt := { up.hlt with drain := { phase := .catchUp, stuck := 9 } } }, ?_⟩
      repeat' apply And.intro
      all_goals first | rfl | decide),
   (by
      refine ⟨{ up with hlt := { up.hlt with drain := { phase := .copy } } }, ?_⟩
      repeat' apply And.intro
      all_goals first | rfl | decide),
   (by
      refine ⟨{ up with hlt := { up.hlt with drain := { phase := .catchUp } } }, ?_⟩
      repeat' apply And.intro
      all_goals first | rfl | decide),
   (by
      refine ⟨{ up with hlt := { up.hlt with drain := { phase := .quiesce } } }, ?_⟩
      repeat' apply And.intro
      all_goals first | rfl | decide),
   (by
      refine ⟨7, { up with hlt := { up.hlt with drain := { phase := .quiesce, oid := some 7 } } }, ?_⟩
      repeat' apply And.intro
      all_goals first | rfl | decide),
   (by
      refine ⟨cmd 13 65 [], up, ?_⟩
      repeat' apply And.intro
      all_goals first | rfl | decide),
   (by
      refine ⟨cmd 13 66 [], { up with hlt := { up.hlt with drain := { phase := .ready } } }, ?_⟩
      repeat' apply And.intro
      all_goals first | rfl | decide)⟩

theorem witness_PowerRowsComplete :
    (∃ s : State, s.mod.running = true) ∧
    (∃ (held : Bool) (c : Nat) (s : State), s.mod.rails = .rising ∧ ((s.mod.perst = true ∨ s.mod.sigs = none))) ∧
    (∃ (held : Bool) (c : Nat) (a b : Bool) (s : State), s.mod.rails = .rising ∧ s.mod.perst = false ∧ s.mod.sigs = some (a, b)) ∧
    (∃ (r a b : Bool) (s : State), s.mod.perst = true ∧ s.mod.rails = .stable) ∧
    (∃ (r a b : Bool) (s : State), s.mod.perst = true ∧ s.mod.rails ≠ .stable) ∧
    (∃ s : State, s.mod.running = true) ∧
    (∃ (mv : Nat) (s : State), mv ≤ 41000) ∧
    (∃ (mv : Nat) (s : State), 60000 < mv) ∧
    (∃ (mv : Nat) (s : State), 44000 ≤ mv ∧ mv ≤ 60000) ∧
    (∃ s : State, s.cln.phase = .bootRom ∧ s.mod.running = true ∧ s.mod.halted = false ∧ s.sec.fellBack = none) ∧
    (∃ (b why : Nat) (s : State), s.cln.phase = .bootRom ∧ s.mod.running = true ∧ s.mod.halted = false ∧ s.sec.fellBack = some (b, why)) ∧
    (∃ s : State, s.cln.phase = .fwRun) ∧
    (∃ (failed : List Nat) (lanes : Tbl Nat) (s : State), s.emb.trained = false) ∧
    (∃ (failed : List Nat) (lanes : Tbl Nat) (s : State), s.emb.trained = true) ∧
    (∃ (m n : Nat) (s : State), (getChan s m).state = .service ∧ sparkCheck 0x0505 m s = (none, s)) ∧
    (∃ (failed : List Nat) (s : State), s.mod.fieldTested = false) ∧
    (∃ s : State, s.cln.phase = .unitsStarting ∧ s.emb.trained = true ∧ s.mod.fieldTested = true ∧ s.oln.accepts = true) :=
  ⟨(by
      refine ⟨up, ?_⟩
      repeat' apply And.intro
      all_goals first | rfl | decide),
   (by
      refine ⟨true, 20, { up with mod := { up.mod with rails := .rising } }, ?_⟩
      exact ⟨rfl, .inr rfl⟩),
   (by
      refine ⟨true, 20, true, false, { up with mod := { up.mod with rails := .rising, sigs := some (true, false) } }, ?_⟩
      repeat' apply And.intro
      all_goals first | rfl | decide),
   (by
      refine ⟨true, true, true, { up with mod := { up.mod with perst := true } }, ?_⟩
      repeat' apply And.intro
      all_goals first | rfl | decide),
   (by
      refine ⟨true, true, true, { up with mod := { up.mod with perst := true, rails := .off } }, ?_⟩
      repeat' apply And.intro
      all_goals first | rfl | decide),
   (by
      refine ⟨up, ?_⟩
      repeat' apply And.intro
      all_goals first | rfl | decide),
   (by
      refine ⟨40999, up, ?_⟩
      repeat' apply And.intro
      all_goals first | rfl | decide),
   (by
      refine ⟨60001, up, ?_⟩
      repeat' apply And.intro
      all_goals first | rfl | decide),
   (by
      refine ⟨44000, up, ?_⟩
      repeat' apply And.intro
      all_goals first | rfl | decide),
   (by
      refine ⟨State.reset, ?_⟩
      repeat' apply And.intro
      all_goals first | rfl | decide),
   (by
      refine ⟨1, 2, { State.reset with sec := { State.reset.sec with fellBack := some (1, 2) } }, ?_⟩
      repeat' apply And.intro
      all_goals first | rfl | decide),
   (by
      refine ⟨{ State.reset with cln := { State.reset.cln with phase := .fwRun } }, ?_⟩
      repeat' apply And.intro
      all_goals first | rfl | decide),
   (by
      refine ⟨[], [], State.reset, ?_⟩
      repeat' apply And.intro
      all_goals first | rfl | decide),
   (by
      refine ⟨[], [(0, 1)], up, ?_⟩
      repeat' apply And.intro
      all_goals first | rfl | decide),
   (by
      refine ⟨3, 1, (setChan 3 { state := .service, retrains := [0, 1] } up), ?_⟩
      repeat' apply And.intro
      all_goals first | rfl | decide),
   (by
      refine ⟨[], State.reset, ?_⟩
      repeat' apply And.intro
      all_goals first | rfl | decide),
   (by
      refine ⟨{ up with cln := { up.cln with phase := .unitsStarting } }, ?_⟩
      repeat' apply And.intro
      all_goals first | rfl | decide)⟩

theorem witness_ModuleReadingRowsComplete :
    (∃ (reg : CfgReg) (s : State), s.mod.running = true ∧ s.cln.fwAuthed = true) ∧
    (∃ (reg : CfgReg) (v : Nat) (s : State), s.mod.running = true ∧ s.cln.fwAuthed = true) ∧
    (∃ (reg : CfgReg) (w : Option Nat) (s : State), s.mod.running = true ∧ s.cln.fwAuthed = false) ∧
    (∃ (n t : Nat) (s : State), tblGet? s.mod.act n = some t ∧ t ≤ s.now) ∧
    (∃ (temps : List Nat) (flow : Nat) (sense : List Nat) (s : State), s.mod.rails = .stable ∧ s.mod.running = true ∧ tripReading (readSensors temps (List.range 22) s).1 = none) ∧
    (∃ (temps : List Nat) (flow : Nat) (sense : List Nat) (e : Nat × Nat × Bool) (s : State), s.mod.rails = .stable ∧ s.mod.running = true ∧ tripReading (readSensors temps (List.range 22) s).1 = some e) ∧
    (∃ (flow : Nat) (s : State), s.hlt.arms = [] ∧ flow < (if isC s then 2250 else 3600)) ∧
    (∃ (mv da : Nat) (s : State), s.hlt.arms = [] ∧ (mv < 46000 ∨ 56000 < mv ∨ 600 ≤ da)) ∧
    (∃ (t : Nat) (s : State), s.mod.heldSince = some t ∧ t + 100 * 10 ^ 6 ≤ s.now) :=
  ⟨(by
      refine ⟨.header 0, up, ?_⟩
      repeat' apply And.intro
      all_goals first | rfl | decide),
   (by
      refine ⟨.deviceControl, 16, up, ?_⟩
      repeat' apply And.intro
      all_goals first | rfl | decide),
   (by
      refine ⟨.msixControl, none, { up with cln := { up.cln with fwAuthed := false } }, ?_⟩
      repeat' apply And.intro
      all_goals first | rfl | decide),
   (by
      refine ⟨0, 5, { { up with mod := { up.mod with act := [(0, 5)] } } with now := 5 }, ?_⟩
      repeat' apply And.intro
      all_goals first | rfl | decide),
   (by
      refine ⟨(List.replicate 22 20), 5000, [700, 700, 700, 700], up, ?_⟩
      repeat' apply And.intro
      all_goals first | rfl | decide),
   ⟨(115 :: List.replicate 21 20), 5000, [700, 700, 700, 700], _, up, rfl, rfl, rfl⟩,
   (by
      refine ⟨3599, up, ?_⟩
      repeat' apply And.intro
      all_goals first | rfl | decide),
   (by
      refine ⟨45999, 0, up, ?_⟩
      exact ⟨rfl, .inl (by decide)⟩),
   (by
      refine ⟨0, { { up with mod := { up.mod with heldSince := some 0 } } with now := 10 ^ 8 }, ?_⟩
      repeat' apply And.intro
      all_goals first | rfl | decide)⟩

theorem witness_ModuleCommandsComplete :
    (∃ c s, admits 0x0E 0x01 (fun c s => argsOnly c [] = true ∧ bufferCheck c s = none ∧ c.outLen = 0) c s) ∧
    (∃ c s, admits 0x0E 0x01 (fun c s => argsOnly c [] = true ∧ bufferCheck c s = none ∧ 88 ≤ c.outLen) c s) ∧
    (∃ c s, admits 0x0E 0x02 (fun c s => argsOnly c [] = true ∧ s.mod.stopping = false) c s) ∧
    (∃ (oid : Nat) (s : State), s.mod.stopping = true ∧ s.mod.stopOid = some oid ∧ allDone s = true) ∧
    (∃ c s, admits 0x0E 0x03 (fun c s => argsOnly c [(32, 0, 8)] = true ∧ argU c 32 1 ≤ 1 ∧ bufferCheck c s = none ∧ c.inLen = 64 ∧ ethRecordOk c.input = true ∧ getU c.input 7 1 = 0 ∧ (judge c { unit := 0x0E, obj := argU c 32 1 } (.value (leNat c.input)) s).1 = true) c s) ∧
    (∃ (port len : Nat) (kind : MctpKind) (s : State), port ≤ 1 ∧ 64 ≤ len ∧ len ≤ 1024) ∧
    (∃ (p : MctpPath) (eid : Nat) (s : State), s.mod.running = true ∧ fwRuns s = true ∧ 8 ≤ eid ∧ eid ≤ 254) ∧
    (∃ s : State, s.mod.running = true) ∧
    (∃ s : State, s.mod.running = true) ∧
    (∃ (ir : Nat) (s : State), s.mod.running = true ∧ ir ≠ 0xFF ∧ ir ≠ 0x01 ∧ s.sec.conf = false) :=
  ⟨(by
      refine ⟨{ cmd 14 1 [] with outLen := 0 }, up, ?_⟩
      repeat' apply And.intro
      all_goals first | rfl | decide),
   (by
      refine ⟨cmd 14 1 [], up, ?_⟩
      repeat' apply And.intro
      all_goals first | rfl | decide),
   (by
      refine ⟨cmd 14 2 [], up, ?_⟩
      repeat' apply And.intro
      all_goals first | rfl | decide),
   (by
      refine ⟨7, { up with mod := { up.mod with stopping := true, stopOid := some 7 } }, ?_⟩
      repeat' apply And.intro
      all_goals first | rfl | decide),
   (by
      refine ⟨cmd 14 3 [(32, 1)] ([0, 0, 0, 0, 0, 0, 1, 0, 0, 0, 0xDC, 5] ++ zeros 20 ++ [64] ++ zeros 31), up, ?_⟩
      repeat' apply And.intro
      all_goals first | rfl | decide),
   (by
      refine ⟨1, 1024, .other, up, ?_⟩
      repeat' apply And.intro
      all_goals first | rfl | decide),
   (by
      refine ⟨.vdm, 254, up, ?_⟩
      repeat' apply And.intro
      all_goals first | rfl | decide),
   (by
      refine ⟨up, ?_⟩
      repeat' apply And.intro
      all_goals first | rfl | decide),
   (by
      refine ⟨up, ?_⟩
      repeat' apply And.intro
      all_goals first | rfl | decide),
   (by
      refine ⟨5, up, ?_⟩
      repeat' apply And.intro
      all_goals first | rfl | decide)⟩

end Sys2Proof.Tests
end

/-! SUPPORT. The statements of `spec/00_scope.md`: what a host reads of the fuses never changes (R7), accesses by BAR offset complete (R17 to R20, R36, R66 to R69), and so do the HEALTH rows (R464, R474 to R477, R497 to R499). -/

namespace Sys2Proof.Machine

variable {s t : State}

/-! The capability words and the UID are functions of the fuses that no command changes (R7, R8). -/

theorem cap0_of_variant (h : t.fuse.variant = s.fuse.variant) : cap0 t = cap0 s := by
  unfold cap0 guaranteed hasGleaner hasPeat isC
  rw [h]

theorem cap1_of_variant (h : t.fuse.variant = s.fuse.variant) : cap1 t = cap1 s := by
  unfold cap1 isC
  rw [h]

theorem cap2_of_coreMap (h : t.fuse.coreMap = s.fuse.coreMap) : cap2 t = cap2 s := by
  simp only [cap2, h]

theorem cap3_of_coreMap (h : t.fuse.coreMap = s.fuse.coreMap) : cap3 t = cap3 s := by
  simp only [cap3, h]

theorem Keeps.reg0Get_cap (h : Keeps s t) (n : Nat) : reg0Get t (.cap n) = reg0Get s (.cap n) := by
  simp only [reg0Get, cap0_of_variant h.variant, cap1_of_variant h.variant, cap2_of_coreMap h.coreMap, cap3_of_coreMap h.coreMap]

theorem Keeps.reg0Get_uid (h : Keeps s t) (hi : Bool) : reg0Get t (.uid hi) = reg0Get s (.uid hi) := by
  simp only [reg0Get, h.uid]

/-- Settles O6: every command keeps the fuses but for the anti-rollback count (`keeps_exec`), and the capability words and the UID are read from the kept ones. -/
theorem capabilityWordsNeverChange : Obligations.CapabilityWordsNeverChange := by
  intro i s t h
  have hk : Keeps s t := keeps_exec h
  exact ⟨hk.reg0Get_cap, hk.reg0Get_uid⟩

/-! What an access sees of the register pages: the arrival of its TLP changes none of it. -/

@[simp] theorem barsClosed_lightAct (n : Nat) : barsClosed (lightAct n s) = barsClosed s := rfl
@[simp] theorem present_lightAct (n cls m : Nat) : present (lightAct n s) cls m = present s cls m := rfl
@[simp] theorem outOfService_lightAct (n cls m : Nat) : outOfService (lightAct n s) cls m = outOfService s cls m := rfl
@[simp] theorem aliasMembers_lightAct (n cls : Nat) (p : Page) : aliasMembers (lightAct n s) cls p = aliasMembers s cls p := rfl
@[simp] theorem participating_lightAct (n cls : Nat) (p : Page) : participating (lightAct n s) cls p = participating s cls p := rfl
@[simp] theorem pageGet_lightAct (n cls m o : Nat) : pageGet (lightAct n s) cls m o = pageGet s cls m o := rfl

theorem SameUnits.present (h : SameUnits s t) (cls m : Nat) : Machine.present t cls m = Machine.present s cls m := by
  unfold Machine.present nChans nPorts isC coreFused
  rw [h.fuse]

theorem SameUnits.outOfService (h : SameUnits s t) (cls m : Nat) : Machine.outOfService t cls m = Machine.outOfService s cls m := by
  unfold Machine.outOfService chanOut getChan getPort getCore coreFused
  rw [h.emb, h.oln, h.fld, h.fuse]

@[simp] theorem present_emit (o : Out) (cls m : Nat) : present (emit o s) cls m = present s cls m := (raiseOnly_emit o s).toSameUnits.present cls m
@[simp] theorem outOfService_emit (o : Out) (cls m : Nat) : outOfService (emit o s) cls m = outOfService s cls m := (raiseOnly_emit o s).toSameUnits.outOfService cls m

/-- A member that is present and in service is read at its register (R69, R70). -/
theorem memberRead_inService {cls m : Nat} (o : Nat) (hp : present s cls m = true) (ho : outOfService s cls m = false) :
    memberRead s cls m o = pageGet s cls m o := by
  simp [memberRead, hp, ho]

/-- A member that is present and in service is written at its register (R69, R70). -/
theorem memberWrite_inService {cls m : Nat} (o : Nat) (f : Fields) (d lanes hw : Nat) (hp : present s cls m = true) (ho : outOfService s cls m = false) :
    memberWrite cls o f d lanes hw m s = pageSet cls m o (afterWrite f (pageGet s cls m o) d lanes hw) s := by
  simp [memberWrite, hp, ho]

/-! Each row of BAR accesses where it completes. -/

section Access

variable {off size cls o m : Nat} {page : Page} {rest : List Nat}

/-- An alias read that no member answers reads zero and is noted as such (R68). -/
theorem exec_aliasRead_none (hb : barsClosed s = false) (hp : pageAt off = some (cls, page, o)) (ha : aligned off size = true)
    (hm : ∀ m, page ≠ .member m) (hn : participating s cls page = []) :
    exec (.aliasRead off size) s =
      .next (hostTlp (emit (.readData 0) { lightAct 0 s with cln := { s.cln with sow := { s.cln.sow with
        emptyPlot := true, lastEmpty := true, lastDivergent := false, lastDiffer := 0x1FF, lastClass := cls, lastOffset := off % 2 ^ 23 } } })) := by
  change execAliasRead off size s = _
  cases page with
  | member m => exact absurd rfl (hm m)
  | _ => simp [execAliasRead, hb, hp, ha, hn]

/-- An alias read that members answer reads the first one's register, and notes the first member that differs in a shared field (R67). -/
theorem exec_aliasRead_first (hb : barsClosed s = false) (hp : pageAt off = some (cls, page, o)) (ha : aligned off size = true)
    (hm : ∀ m, page ≠ .member m) (hn : participating s cls page = m :: rest) :
    exec (.aliasRead off size) s =
      .next (hostTlp (let differ := rest.find? (fun k => (pageGet s cls k o ^^^ pageGet s cls m o) &&& (2 ^ 64 - 1 - ((pageFields cls o).getD {}).inst) != 0)
        emit (.readData (part (pageGet s cls m o) off size)) { lightAct 0 s with cln := { s.cln with sow := { s.cln.sow with
          divergent := s.cln.sow.divergent || differ.isSome, lastDivergent := differ.isSome, lastEmpty := false,
          lastDiffer := differ.getD 0x1FF, lastClass := cls, lastOffset := off % 2 ^ 23 } } })) := by
  change execAliasRead off size s = _
  cases page with
  | member m => exact absurd rfl (hm m)
  | _ => simp [execAliasRead, hb, hp, ha, hn]

/-- A sowing write reaches every member of the alias, the shadow of one that is out of service (R66, R69). -/
theorem exec_sowingWrite_members (v : Word) (hb : barsClosed s = false) (hp : pageAt off = some (cls, page, o)) (ha : aligned off size = true)
    (hm : ∀ m, page ≠ .member m) :
    exec (.sowingWrite off size v) s =
      .next (hostTlp ((aliasMembers s cls page).foldl (fun t m => memberWrite cls o ((pageFields cls o).getD {}) (v.toNat * 2 ^ (8 * (off % 8))) (lanesOf off size) 0 m t) (lightAct 0 s))) := by
  change execSowingWrite off size v s = _
  cases page with
  | member m => exact absurd rfl (hm m)
  | _ => simp [execSowingWrite, hb, hp, ha]

/-- A read of a member's register clears its RC fields but for the update that coincides (R17, R19). -/
theorem exec_rcRead_member (k : Word) (ide : IdeTag) (hb : barsClosed s = false) (hp : pageAt off = some (cls, .member m, o)) (ha : aligned off size = true)
    (hr : ((pageFields cls o).getD {}).rc ≠ 0) (hm : present s cls m = true) (ho : outOfService s cls m = false) :
    exec (.rcRead .b4 off size k ide) s =
      .next (hostTlp (let v := pageGet s cls m o
        pageSet cls m o (afterRead ((pageFields cls o).getD {}) v (lanesOf off size) k.toNat) (emit (.readData (part v off size)) (lightAct 0 s)))) := by
  have hv : memberRead (lightAct 0 s) cls m o = pageGet s cls m o := memberRead_inService (s := lightAct 0 s) o hm ho
  change execRcRead .b4 off size k ide s = _
  simp [execRcRead, hb, hp, ha, hv, hr, hm, ho]

/-- A write to a member's register takes what the types of its fields say (R17, R18). -/
theorem exec_registerWrite_member (v hw : Word) (ide : IdeTag) (hb : barsClosed s = false) (hp : pageAt off = some (cls, .member m, o)) (ha : aligned off size = true)
    (hm : present s cls m = true) (ho : outOfService s cls m = false) :
    exec (.registerWrite .b4 off size v hw ide) s =
      .next (hostTlp (pageSet cls m o (afterWrite ((pageFields cls o).getD {}) (pageGet s cls m o) (v.toNat * 2 ^ (8 * (off % 8))) (lanesOf off size) hw.toNat) (lightAct 0 s))) := by
  change execRegisterWrite .b4 off size v hw ide s = _
  simp [execRegisterWrite, hb, hp, ha, memberWrite_inService (s := lightAct 0 s) o _ _ _ _ hm ho]

/-- A malformed access is counted and noted, and a read of this kind returns zero (R36). -/
theorem exec_malformedBarAccess_refused (bar : Bar) (off : Nat) (write : Bool) (hb : barsClosed s = false) :
    exec (.malformedBarAccess bar off write) s = .next (hostTlp (refuseAccess bar off write (lightAct 0 s))) := by
  change execMalformedBarAccess bar off write s = _
  simp [execMalformedBarAccess, hb]

end Access

/-- Settles O23: the case lemma of each row where its conditions hold. -/
theorem registerRowsComplete : Obligations.RegisterRowsComplete :=
  ⟨fun _ _ _ _ _ _ hb hp ha hm hn => exec_aliasRead_none hb hp ha hm hn,
   fun _ _ _ _ _ _ _ _ hb hp ha hm hn => exec_aliasRead_first hb hp ha hm hn,
   fun _ _ _ _ _ v _ hb hp ha hm => exec_sowingWrite_members v hb hp ha hm,
   fun _ _ _ _ _ k ide _ hb hp ha hr hm ho => exec_rcRead_member k ide hb hp ha hr hm ho,
   fun _ _ _ _ _ v hw ide _ hb hp ha hm ho => exec_registerWrite_member v hw ide hb hp ha hm ho,
   fun bar off write _ hb => exec_malformedBarAccess_refused bar off write hb⟩

/-! Service orders on Ember channels and Peat groups (R196, R474, R497). -/

/-- An order that is not overruled is judged with yes and the state that the judgement leaves. -/
theorem judge_applied {c : Cmd} {o : Target} {r : Order} (h : (judge c o r s).1 = true) : judge c o r s = (true, (judge c o r s).2) := Prod.ext h rfl

theorem nChans_le (s : State) : nChans s ≤ 384 := by
  unfold nChans; split <;> omega

/-- What a service order names: a channel of the variant, or a Peat group. -/
theorem unitNamed_iff {c : Cmd} : unitNamed s c = true ↔ argsOnly c [(32, 0, 8), (34, 0, 16)] = true ∧
    (argU c 32 1 = 1 ∧ argU c 34 2 < nChans s ∨ argU c 32 1 = 4 ∧ argU c 34 2 < 2 ∧ hasPeat s = true) := by
  simp [unitNamed, and_assoc]

/-- A service order that names a unit of the variant, is not refused for retirement and is not overruled acts on that unit. -/
theorem unitOrder_applied {rank : Nat} {c : Cmd} (act : Bool → Nat → State → Answer × State) (hn : unitNamed s c = true)
    (hr : enableRefused rank (argU c 32 1 == 1) (argU c 34 2) s = false) (hj : (unitJudge rank c s).1 = true) :
    unitOrder rank act c s = act (argU c 32 1 == 1) (argU c 34 2) (unitJudge rank c s).2 := by
  obtain ⟨ha, hu⟩ := unitNamed_iff.mp hn
  have hjudge : judge c { unit := 0x0D, obj := 2 ^ 35 + argU c 32 1 * 2 ^ 16 + argU c 34 2 } (.service rank) s = (true, (unitJudge rank c s).2) := judge_applied hj
  unfold unitOrder
  dsimp only
  rw [hjudge, hr]
  rcases hu with ⟨hc, hi⟩ | ⟨hc, hi, hp⟩
  · have hn384 : argU c 34 2 < 384 := Nat.lt_of_lt_of_le hi (nChans_le s)
    simp [ha, hc, Nat.not_le.mpr hi, Nat.not_le.mpr hn384]
  · simp [ha, hc, hp, Nat.not_le.mpr hi]

/-- Only an ENABLE is refused for retirement (R477). -/
theorem enableRefused_of_ne {rank : Nat} (h : rank ≠ 3) (chan : Bool) (i : Nat) (s : State) : enableRefused rank chan i s = false := by
  simp [enableRefused, h]

@[simp] theorem getChan_unitJudge (rank : Nat) (c : Cmd) (i : Nat) : getChan (unitJudge rank c s).2 i = getChan s i :=
  congrArg (fun e : Emb => tblGetD e.chans i {}) (sameUnits_judge _ _ _ _).emb

@[simp] theorem getGroup_unitJudge (rank : Nat) (c : Cmd) (i : Nat) : getGroup (unitJudge rank c s).2 i = getGroup s i :=
  congrArg (fun e : Tir => tblGetD e.groups i {}) (sameUnits_judge _ _ _ _).tir

/-! Status, events, parameters (R487, R498, R499, R528, R529). -/

theorem healthStatus_ends_summary : EndsAt 0x0D 0x30 .healthStatus (fun c s => argsOnly c [] = true ∧ bufferCheck c s = none ∧ c.outLen = 0)
    (fun _ s => { r0 := (bestScore s).1 + (bestScore s).2 * 2 ^ 16, r1 := b2n s.hlt.straggler + min 255 s.hlt.retired.length * 2 ^ 8 }) (fun _ s => s) := by
  refine ends_of (fun _ _ => rfl) ?_
  rintro _ c s ⟨ha, hb, hl⟩
  simp [ha, hb, hl]

theorem healthStatus_ends_scores : EndsAt 0x0D 0x30 .healthStatus (fun c s => argsOnly c [] = true ∧ bufferCheck c s = none ∧ 1044 ≤ c.outLen)
    (fun _ s => { r0 := (bestScore s).1 + (bestScore s).2 * 2 ^ 16, r1 := b2n s.hlt.straggler + min 255 s.hlt.retired.length * 2 ^ 8, output := ((allScores s).map (leBytes 2)).flatten }) (fun _ s => s) := by
  refine ends_of (fun _ _ => rfl) ?_
  rintro _ c s ⟨ha, hb, hl⟩
  have h0 : c.outLen ≠ 0 := by omega
  simp [ha, hb, h0, Nat.not_lt.mpr hl]

theorem healthEventRead_ends : EndsAt 0x0D 0x31 .healthEventRead (fun c s => argsOnly c [(32, 0, 1), (36, 0, 32)] = true ∧ bufferCheck c s = none)
    (fun c s => let es := logFrom s (argU c 36 4)
      let shown := es.take (c.outLen / 64)
      { r0 := shown.length, r1 := es.length - shown.length, output := (shown.map (fun e => evBytes e false)).flatten })
    (fun c s => { s with hlt := { s.hlt with acked := ackedAfter s (argBits c 32 0 1 == 1) ((logFrom s (argU c 36 4)).take (c.outLen / 64)) } }) := by
  refine ends_of (fun _ _ => rfl) ?_
  rintro _ c s ⟨ha, hb⟩
  simp [ha, hb]

theorem healthConfig_waits : WaitsAt 0x0D 0x32 .healthConfig (fun c s => argsOnly c [(32, 0, 16), (40, 0, 64)] = true ∧ healthRange s (argU c 32 2) (argU c 40 8) = true ∧
      (judge c { unit := 0x0D, obj := 2 ^ 34 + argU c 32 2 } (.value (argU c 40 8)) s).1 = true)
    (fun oid c s => let t := (judge c { unit := 0x0D, obj := 2 ^ 34 + argU c 32 2 } (.value (argU c 40 8)) s).2
      { t with cln := { t.cln with staged := t.cln.staged ++ [{ oid := oid, cmd := c, done := { r0 := healthNext t (argU c 32 2) }, change := .health (argU c 32 2) (argU c 40 8) }] } }) := by
  refine waits_of (fun _ _ => rfl) ?_
  rintro _ c s ⟨ha, hr, hj⟩
  dsimp only
  rw [judge_applied hj]
  simp [ha, hr, stage]

/-! FENCE, RESTRICT, ENABLE and UNRETIRE (R196, R474, R475, R477). -/

theorem healthFence_ends : EndsThen settleWork 0x0D 0x38 .healthFence (fun c s => unitNamed s c = true ∧ (unitJudge 1 c s).1 = true) (fun _ _ => {})
    (fun c s => let t := (unitJudge 1 c s).2
      let i := argU c 34 2
      if argU c 32 1 = 1 then (if (getChan t i).state = .fenced then t else fenceChannel i 1 false t) else (if (getGroup t i).state = .fenced then t else fencePeatGroup i 1 false t)) := by
  refine ends_of (fun _ _ => rfl) ?_
  rintro _ c s ⟨hn, hj⟩
  dsimp only
  rw [unitOrder_applied _ hn (enableRefused_of_ne (by decide) _ _ _) hj]
  by_cases hc : argU c 32 1 = 1 <;> simp [hc, ok]

theorem healthRestrict_ends : EndsAt 0x0D 0x39 .healthRestrict (fun c s => unitNamed s c = true ∧ (unitJudge 2 c s).1 = true) (fun _ _ => {})
    (fun c s => let t := (unitJudge 2 c s).2
      let i := argU c 34 2
      if argU c 32 1 = 1 then (if (getChan t i).state = .service then modChan i (fun x => { x with state := .restricted }) t else t)
      else (if (getGroup t i).state = .service then modGroup i (fun x => { x with state := .restricted }) t else t)) := by
  refine ends_of (fun _ _ => rfl) ?_
  rintro _ c s ⟨hn, hj⟩
  dsimp only
  rw [unitOrder_applied _ hn (enableRefused_of_ne (by decide) _ _ _) hj]
  by_cases hc : argU c 32 1 = 1 <;> simp [hc, ok]

theorem healthEnable_waits : WaitsAt 0x0D 0x3A .healthEnable (fun c s => unitNamed s c = true ∧ (unitJudge 3 c s).1 = true ∧
      (argU c 32 1 = 1 ∧ (getChan (unitJudge 3 c s).2 (argU c 34 2)).state = .fenced ∧ isRetired s .channel (argU c 34 2) = false ∨
       argU c 32 1 = 4 ∧ (getGroup (unitJudge 3 c s).2 (argU c 34 2)).state = .fenced ∧ isRetired s .peat (argU c 34 2) = false))
    (fun oid c s => let t := (unitJudge 3 c s).2
      let i := argU c 34 2
      if argU c 32 1 = 1 then modChan i (fun x => { x with state := .quarantine, enableBy := [oid] }) t else modGroup i (fun x => { x with state := .quarantine, enableBy := [oid] }) t) := by
  refine waits_of (fun _ _ => rfl) ?_
  rintro _ c s ⟨hn, hj, hu⟩
  rw [getChan_unitJudge, getGroup_unitJudge] at hu
  dsimp only
  rcases hu with ⟨hc, hs, hr⟩ | ⟨hc, hs, hr⟩
  · rw [unitOrder_applied _ hn (by simp [enableRefused, hc, hr]) hj]
    simp [hc, hs]
  · rw [unitOrder_applied _ hn (by simp [enableRefused, hc, hr]) hj]
    simp [hc, hs]

theorem healthEnable_ends : EndsAt 0x0D 0x3A .healthEnable (fun c s => unitNamed s c = true ∧ (unitJudge 3 c s).1 = true ∧
      (argU c 32 1 = 1 ∧ (getChan (unitJudge 3 c s).2 (argU c 34 2)).state = .restricted ∨ argU c 32 1 = 4 ∧ (getGroup (unitJudge 3 c s).2 (argU c 34 2)).state = .restricted))
    (fun _ _ => {}) (fun c s => let t := (unitJudge 3 c s).2
      let i := argU c 34 2
      if argU c 32 1 = 1 then modChan i (fun x => { x with state := .service }) t else modGroup i (fun x => { x with state := .service }) t) := by
  refine ends_of (fun _ _ => rfl) ?_
  rintro _ c s ⟨hn, hj, hu⟩
  rw [getChan_unitJudge, getGroup_unitJudge] at hu
  dsimp only
  rcases hu with ⟨hc, hs⟩ | ⟨hc, hs⟩
  · rw [unitOrder_applied _ hn (by simp [enableRefused, hc, hs]) hj]
    simp [hc, hs, ok]
  · rw [unitOrder_applied _ hn (by simp [enableRefused, hc, hs]) hj]
    simp [hc, hs, ok]

theorem healthUnretire_ends (cls : PartClass) (n : Nat) : EndsAt 0x0D 0x3B .healthUnretire (fun c s => classNumber (argU c 32 1) = some (cls, n) ∧ argsOnly c [(32, 0, 8), (34, 0, 16)] = true ∧
      argU c 34 2 < n ∧ partPresent s cls (argU c 34 2) = true ∧ isRetired s cls (argU c 34 2) = true ∧
      (judge c { unit := 0x0D, obj := 2 ^ 36 + partKey cls (argU c 34 2) } (.value 0) s).1 = true)
    (fun _ _ => {}) (fun c s => let t := (judge c { unit := 0x0D, obj := 2 ^ 36 + partKey cls (argU c 34 2) } (.value 0) s).2
      { t with hlt := { t.hlt with retired := setDel t.hlt.retired (partKey cls (argU c 34 2)), fenceTimes := tblDel t.hlt.fenceTimes (partKey cls (argU c 34 2)) } }) := by
  refine ends_of (fun _ _ => rfl) ?_
  rintro _ c s ⟨hc, ha, hi, hp, hr, hj⟩
  dsimp only
  rw [hc]
  dsimp only
  rw [judge_applied hj]
  simp [ha, Nat.not_le.mpr hi, hp, hr, ok]

theorem healthUnretire_absent (cls : PartClass) (n : Nat) : EndsAt 0x0D 0x3B .healthUnretire (fun c s => classNumber (argU c 32 1) = some (cls, n) ∧ argsOnly c [(32, 0, 8), (34, 0, 16)] = true ∧
      argU c 34 2 < n ∧ partPresent s cls (argU c 34 2) = false)
    (fun _ _ => { status := .unitAbsent }) (fun _ s => s) := by
  refine ends_of (fun _ _ => rfl) ?_
  rintro _ c s ⟨hc, ha, hi, hp⟩
  simp [hc, ha, Nat.not_le.mpr hi, hp, fail]

/-! The end of a quarantine (R475, R476). -/

/-- What the end of a quarantine does to a part of a class. -/
def partQuarantined : PartClass → Nat → Bool → Nat → State → State
  | .core, i, pass, _, s => coreQuarantined i pass s
  | .channel, i, pass, step, s => channelQuarantined i pass step s
  | .lane, i, pass, step, s => laneQuarantined (i / 4) (i % 4) pass step s
  | .port, i, pass, step, s => portQuarantined i pass step s
  | .peat, i, pass, step, s => groupQuarantined i pass step s

/-- QUARANTINE_DONE of a part that its class numbers ends that part's quarantine. -/
theorem exec_quarantineDone {cls n inst : Nat} {k : PartClass} (hc : classNumber cls = some (k, n)) (hi : inst < n) (pass : Bool) (step : Nat) (s : State) :
    exec (.quarantineDone cls inst pass step) s = .next (settleWork (partQuarantined k inst pass step s)) := by
  change execQuarantineDone cls inst pass step s = _
  cases k <;> simp [execQuarantineDone, hc, Nat.not_le.mpr hi, partQuarantined]

/-- Settles O56: the HEALTH commands end or wait as their lemmas say, and QUARANTINE_DONE reaches the part of each class. -/
theorem healthCommandsComplete : Obligations.HealthCommandsComplete :=
  ⟨healthStatus_ends_summary, healthStatus_ends_scores, healthEventRead_ends, healthConfig_waits, healthFence_ends, healthRestrict_ends,
   healthEnable_waits, healthEnable_ends, healthUnretire_ends, healthUnretire_absent,
   fun _ step pass s h => exec_quarantineDone (k := .channel) rfl h pass step s,
   fun _ step pass s h => exec_quarantineDone (k := .peat) rfl h pass step s,
   fun _ step pass s h => exec_quarantineDone (k := .core) rfl h pass step s,
   fun _ step pass s h => exec_quarantineDone (k := .port) rfl h pass step s,
   fun _ step pass s h => exec_quarantineDone (k := .lane) rfl h pass step s⟩

end Sys2Proof.Machine

/-! SUPPORT. The statements of `spec/01_speon_at_a_glance.md`: the power hold (R28, R94), runs and reserve cores (R109, R115, R116, R124), and what takes a core out of rotation (R91, R120, R125). -/

namespace Sys2Proof.Machine

variable {s : State} {mv da ask ring cid k n : Nat} {c : Cmd} {r : Run}

/-- No spark point fires while none is armed (R468). -/
theorem sparkCheck_unarmed (h : s.hlt.arms = []) (spark inst : Nat) : sparkCheck spark inst s = (none, s) := by
  simp [sparkCheck, h]

/-! The power hold (R28, R94, R516). -/

/-- The throttles only lower the supply below the target (R533). -/
theorem ceilingMv_le_targetMv (s : State) : ceilingMv s ≤ targetMv s := by
  unfold ceilingMv
  rw [List.foldl_min]
  exact Nat.min_le_left _ _

/-- No hold raises the supply above what the throttles allow (R533). -/
theorem demandMv_le_ceilingMv (s : State) : demandMv s ≤ ceilingMv s := by
  unfold demandMv
  split
  · exact Nat.le_refl _
  · exact Nat.min_le_right _ _

/-- While the input power is above its limit, the level is below the supply that applies (R28). -/
theorem holdLevel_lt_demandMv (ho : min (tdpW s * 10000) (mv * 600) < mv * da) (hd : 0 < demandMv s) : holdLevel s mv da ask < demandMv s := by
  rw [holdLevel, if_pos (by simpa [overPower] using ho)]
  omega

/-- Within the limit, the level is no lower than what the power control asks for (R28). -/
theorem le_holdLevel_of_not_over (ho : mv * da ≤ min (tdpW s * 10000) (mv * 600)) : ask ≤ holdLevel s mv da ask := by
  rw [holdLevel, if_neg (by simpa [overPower] using ho)]
  exact Nat.le_max_left _ _

/-- A level that reaches the target ends the hold. -/
theorem exec_powerHoldAdjust_released (sense : List Nat) (h : targetMv s ≤ holdLevel s mv da ask) :
    exec (.powerHoldAdjust mv da ask sense) s =
      .next { s with fld := { s.fld with holdMv := none, sense := sense.map (fun v => min v (ceilingMv s)) },
                     mod := { s.mod with inputMv := mv, inputDa := da, heldSince := none } } := by
  change execPowerHoldAdjust mv da ask sense s = _
  simp only [execPowerHoldAdjust, if_neg (Nat.not_lt.mpr h)]
  rfl

/-- A level below the target becomes the hold, no lower than 650 mV, and the time of the hold runs on from its start (R28, R94). -/
theorem exec_powerHoldAdjust_held (sense : List Nat) (h : holdLevel s mv da ask < targetMv s) :
    exec (.powerHoldAdjust mv da ask sense) s =
      .next { s with fld := { s.fld with holdMv := some (max 650 (holdLevel s mv da ask)), sense := sense.map (fun v => min v (min (max 650 (holdLevel s mv da ask)) (ceilingMv s))) },
                     mod := { s.mod with inputMv := mv, inputDa := da, heldSince := some (s.mod.heldSince.getD s.now) } } := by
  change execPowerHoldAdjust mv da ask sense s = _
  simp only [execPowerHoldAdjust, if_pos h]
  rfl

/-- Above the limit the supply that applies falls, as long as it stands above 650 mV (R28). -/
theorem exec_powerHoldAdjust_lowers (sense : List Nat) (ho : min (tdpW s * 10000) (mv * 600) < mv * da) (hd : 650 < demandMv s) :
    ∃ t, exec (.powerHoldAdjust mv da ask sense) s = .next t ∧ demandMv t < demandMv s := by
  have hl : holdLevel s mv da ask < demandMv s := holdLevel_lt_demandMv ho (by omega)
  have ht : demandMv s ≤ targetMv s := (demandMv_le_ceilingMv s).trans (ceilingMv_le_targetMv s)
  refine ⟨_, exec_powerHoldAdjust_held sense (hl.trans_le ht), ?_⟩
  exact (Nat.min_le_left _ _).trans_lt (max_lt hd hl)

/-- Within the limit an ask at or above the target gives the supply back to what the throttles allow (R28, R94). -/
theorem exec_powerHoldAdjust_restores (sense : List Nat) (ho : mv * da ≤ min (tdpW s * 10000) (mv * 600)) (ha : targetMv s ≤ ask) :
    ∃ t, exec (.powerHoldAdjust mv da ask sense) s = .next t ∧ demandMv t = ceilingMv s :=
  ⟨_, exec_powerHoldAdjust_released sense (ha.trans (le_holdLevel_of_not_over ho)), rfl⟩

/-! Runs (R115, R116). -/

/-- A run ends once its started threads have returned and no lost rank can run again (R115, R116). -/
theorem exec_fieldRunEnd_ended (v : Word) (bad : Bool) (hc : inflightOf s ring cid (fun c => c.unit == 0x02 && c.verb == 0x21) = some (k, c))
    (hr : tblGet? s.fld.runs k = some r) (hall : r.ranks.all (fun x => if x.lost then !canRerun s r x else x.started) = true) :
    exec (.fieldRunEnd ring cid v bad) s = .next (endRun k 0 v.toNat bad s) := by
  change execFieldRunEnd ring cid v bad s = _
  simp only [execFieldRunEnd, hc, hr, hall, if_true]

/-- A lost rank of a REPLAYABLE run restarts on its called reserve core once that is in ROTATION, and one with no called core on the lowest core in ROTATION that the run does not use (R116). -/
theorem exec_rankRestart_chosen {rank : Nat} {x : Rank} (hc : inflightOf s ring cid (fun c => c.unit == 0x02 && c.verb == 0x21) = some (k, c))
    (hr : tblGet? s.fld.runs k = some r) (hx : r.ranks[rank]? = some x) (hlost : x.lost = true) (hnext : x.next = none) (hrep : r.replayable = true)
    (hn : (x.called = some n ∧ (getCore s n).state = .rotation) ∨
      (x.called = none ∧ (coresIn s (· == .rotation)).find? (fun n => !r.ranks.any (fun y => (y.core == n && !y.lost) || y.next == some n)) = some n)) :
    exec (.rankRestart ring cid rank) s = .next (startRanks k (chooseCore k rank n r x s)) := by
  change execRankRestart ring cid rank s = _
  rcases hn with ⟨hcall, hrot⟩ | ⟨hcall, hfree⟩
  · simp [execRankRestart, hc, hr, hx, hcall, hrot, hlost, hnext, hrep]
  · simp only [execRankRestart, hc, hr, hx, hcall, hfree]
    simp [hlost, hnext, hrep]

/-! Reserve cores (R109). -/

/-- A reserve core that is not called into rotation can start its self-test (R109). -/
theorem exec_reserveSelfTest_begins (hs : (getCore s n).state = .reserve) (hj : (getCore s n).joining = false) :
    exec (.reserveSelfTest n) s = .next (setCore n { getCore s n with testing := true } s) := by
  change execReserveSelfTest n s = _
  simp [execReserveSelfTest, hs, hj]

/-- A self-test that no spark point disturbs ends as the core passes it or not; a core that fails is fenced with cause 5 (R109, R120). -/
theorem exec_reserveTestDone_unarmed (pass : Bool) (hs : (getCore s n).state = .reserve) (ht : (getCore s n).testing = true) (ha : s.hlt.arms = []) :
    exec (.reserveTestDone n pass) s = .next (let t := setCore n { getCore s n with testing := false } s
      if pass then t else fenceCore n 5 false (countFault .core n 6 none false t)) := by
  change execReserveTestDone n pass s = _
  simp [execReserveTestDone, hs, ht, sparkCheck_unarmed ha]

/-! What takes a core out of rotation (R91, R120, R125). -/

/-- A core whose live threads make no issue handshake is fenced with cause 2 (R120). -/
theorem exec_coreStallDetect_unarmed (hs : inRotation (getCore s n).state = true) (hl : threadsLive s n ≠ 0) (ha : s.hlt.arms = []) :
    exec (.coreStallDetect n) s = .next (startRuns (fenceCore n 2 false s)) := by
  change execCoreStallDetect n s = _
  simp [execCoreStallDetect, hs, hl, sparkCheck_unarmed ha]

/-- A core in rotation whose RATE has been low for 10 ms is fenced with cause 6 (R91, R120). -/
theorem exec_paceLowDetect_due {t : Nat} (hs : inRotation (getCore s n).state = true) (hl : (getCore s n).lowSince = some t) (ht : t + 10 * ms ≤ s.now) :
    exec (.paceLowDetect n) s = .next (startRuns (fenceCore n 6 false (countFault .core n 4 (some 2) false s))) := by
  change execPaceLowDetect n s = _
  simp [execPaceLowDetect, hs, hl, ht]

/-- A core below 85 % of the median for 100 ms is reported, and stays in ROTATION while SLOW_RESTRICT is 0 (R125). -/
theorem exec_coreSlowDetect_reported {t : Nat} (hs : (getCore s n).state = .rotation) (hl : (getCore s n).slowSince = some t) (ht : t + 100 * ms ≤ s.now)
    (hc : (getCore s n).ctrl.slowRestrict = false) :
    exec (.coreSlowDetect n) s =
      .next (countFault .core n 5 (some 3) false (modCore n (fun c => { c with slowSince := none })
        (raiseNode .coreSlow (leBytes 1 n ++ zeros 1 ++ leBytes 2 (getCore s n).rate ++ leBytes 2 (medianRate s)) s))) := by
  change execCoreSlowDetect n s = _
  simp [execCoreSlowDetect, hs, hl, ht, hc]

/-- Settles O27: RATE_UPDATE and RESERVE_JOIN are their definitions, and each other row is its case lemma where its conditions hold. -/
theorem fieldEventsComplete : Obligations.FieldEventsComplete :=
  ⟨fun _ _ => rfl,
   fun _ _ _ sense _ h => exec_powerHoldAdjust_released sense h,
   fun _ _ _ sense _ h => exec_powerHoldAdjust_held sense h,
   fun _ _ _ sense _ ho hd => exec_powerHoldAdjust_lowers sense ho hd,
   fun _ _ _ sense _ ho ha => exec_powerHoldAdjust_restores sense ho ha,
   fun _ _ _ v bad _ _ _ hc hr hall => exec_fieldRunEnd_ended v bad hc hr hall,
   fun _ _ _ _ _ _ _ _ _ hc hr hx hlost hnext hrep hn => exec_rankRestart_chosen hc hr hx hlost hnext hrep hn,
   fun _ => rfl,
   fun _ _ hs hj => exec_reserveSelfTest_begins hs hj,
   fun _ _ hs ht ha => ⟨exec_reserveTestDone_unarmed true hs ht ha, exec_reserveTestDone_unarmed false hs ht ha⟩,
   fun _ _ hs hl ha => exec_coreStallDetect_unarmed hs hl ha,
   fun _ _ _ hs hl ht => exec_paceLowDetect_due hs hl ht,
   fun _ _ _ hs hl ht hc => exec_coreSlowDetect_reported hs hl ht hc⟩

end Sys2Proof.Machine

/-! SUPPORT. The statements of `spec/02_cloni_control_interface.md`: mailboxes (R39 to R50), rings and doorbells (R51 to R61), reads that several members answer, and absent members (R67, R70), conflicts between orders (R73 to R78), restarts and resets (R79 to R84), queries, and the readings of the module. -/

namespace Sys2Proof.Machine

variable {s t : State}

/-! The state after reset (R37, R39, R61, R63, R83). -/

theorem inv_reset : Inv State.reset := ⟨rfl, by decide, by decide⟩

/-- No member is in a plot after reset (R63). -/
theorem reg0Get_reset_plot (cls m : Nat) : reg0Get State.reset (.plot cls m) = 0 := by
  match cls with
  | 0 | 1 | _ + 2 => rfl

/-- Settles O3: the tables of the reset state are empty, so that every ring, channel and plot entry reads as its default. -/
theorem resetMeetsInvariant : Obligations.ResetMeetsInvariant :=
  ⟨inv_reset, rfl, fun _ => rfl, fun _ => ⟨rfl, rfl, rfl, rfl⟩, rfl, rfl, rfl, rfl, reg0Get_reset_plot⟩

/-! What raising an event leaves of Cloni and of the module: everything but the event queue, the pending vectors and the activity lights. -/

theorem RaiseOnly.mbx (h : RaiseOnly s t) : t.cln.mbx = s.cln.mbx := raiseOnly_field Cln.mbx h.cln
theorem RaiseOnly.phase (h : RaiseOnly s t) : t.cln.phase = s.cln.phase := raiseOnly_field Cln.phase h.cln
theorem RaiseOnly.orders (h : RaiseOnly s t) : t.cln.orders = s.cln.orders := raiseOnly_field Cln.orders h.cln
theorem RaiseOnly.sow (h : RaiseOnly s t) : t.cln.sow = s.cln.sow := raiseOnly_field Cln.sow h.cln

theorem RaiseOnly.getMbx (h : RaiseOnly s t) (ch : Nat) : Machine.getMbx t ch = Machine.getMbx s ch := by
  unfold Machine.getMbx
  rw [h.mbx]

theorem RaiseOnly.shutdown (h : RaiseOnly s t) : t.mod.shutdown = s.mod.shutdown := by
  have hm := congrArg Mod.shutdown h.mod
  exact hm

/-! Mailbox channels (R39-R48). -/

section Mailbox

variable {ch off n eid : Nat} {w : Word} {ide : IdeTag} {bs : List Byte}

@[simp] theorem getMbx_lightAct (n k : Nat) : getMbx (lightAct n s) k = getMbx s k := rfl

/-- A word stored while FULL is 0 sets FULL (R41). -/
theorem putInWord_empty (w : Word) (h : (getMbx s ch).full = false) : putInWord ch w s = setMbx ch { getMbx s ch with inWord := w, full := true } s := by
  simp [putInWord, h]

/-- A word stored while FULL is 1 replaces the waiting one, sets COLLISION and counts (R42). -/
theorem putInWord_full (w : Word) (h : (getMbx s ch).full = true) :
    putInWord ch w s = setMbx ch { getMbx s ch with inWord := w, collision := true, collisions := satAdd 8 (getMbx s ch).collisions 1 } s := by
  simp [putInWord, h]

/-- PARAM bytes are stored while FULL is 0 and dropped while it is 1 (R45). -/
theorem putParam_eq (ch off : Nat) (bs : List Byte) (s : State) :
    putParam ch off bs s = setMbx ch (if (getMbx s ch).full then { getMbx s ch with paramReject := true } else { getMbx s ch with param := putBytes (getMbx s ch).param off bs }) s := by
  unfold putParam
  dsimp only
  split <;> rfl

theorem exec_mbxInWrite_open (w : Word) (h : mbxOpen ch ide s = true) : exec (.mbxInWrite ch w ide) s = .next (hostTlp (putInWord ch w (lightAct 0 s))) := by
  change execMbxInWrite ch w ide s = _
  rw [execMbxInWrite, mbxAccess_open _ h]

theorem exec_mbxInWrite_stored (w : Word) (h : mbxOpen ch ide s = true) (hf : (getMbx s ch).full = false) :
    exec (.mbxInWrite ch w ide) s = .next (hostTlp (setMbx ch { getMbx s ch with inWord := w, full := true } (lightAct 0 s))) := by
  rw [exec_mbxInWrite_open w h, putInWord_empty (s := lightAct 0 s) w hf, getMbx_lightAct]

theorem exec_mbxInWrite_replaced (w : Word) (h : mbxOpen ch ide s = true) (hf : (getMbx s ch).full = true) :
    exec (.mbxInWrite ch w ide) s =
      .next (hostTlp (setMbx ch { getMbx s ch with inWord := w, collision := true, collisions := min ((getMbx s ch).collisions + 1) 0xFF } (lightAct 0 s))) := by
  rw [exec_mbxInWrite_open w h]
  exact congrArg (fun u => Host.Outcome.next (hostTlp u)) (putInWord_full (s := lightAct 0 s) w hf)

theorem exec_paramWrite_open (off : Nat) (bs : List Byte) (h : mbxOpen ch ide s = true) :
    exec (.paramWrite ch off bs ide) s = .next (hostTlp (setMbx ch
      (if (getMbx s ch).full then { getMbx s ch with paramReject := true } else { getMbx s ch with param := putBytes (getMbx s ch).param off bs }) (lightAct 0 s))) := by
  change execParamWrite ch off bs ide s = _
  rw [execParamWrite, mbxAccess_open _ h, putParam_eq, getMbx_lightAct]

theorem exec_mbxOutRelease_open (h : mbxOpen ch ide s = true) :
    exec (.mbxOutRelease ch ide) s = .next (hostTlp (setMbx ch { getMbx s ch with outFull := false } (lightAct 0 s))) := by
  change execMbxOutRelease ch ide s = _
  rw [execMbxOutRelease, mbxAccess_open _ h, getMbx_lightAct]

/-- What a write to one channel, followed by the arrival of its TLP, leaves in every channel. -/
theorem getMbx_hostTlp_setMbx (ch k : Nat) (m : Mbx) (s : State) : getMbx (hostTlp (setMbx ch m (lightAct 0 s))) k = if k = ch then m else getMbx s k := by
  rw [(raiseOnly_hostTlp _).getMbx]
  split
  · next h => rw [h, getMbx_setMbx]
  · next h => rw [getMbx_setMbx_other _ h, getMbx_lightAct]

/-- Settles O14: the word is stored or replaces the waiting one as FULL says, and the other channels are those of before. -/
theorem mailboxWordStoredOrReplaced : Obligations.MailboxWordStoredOrReplaced := by
  intro ch w ide s h
  cases hf : (getMbx s ch).full with
  | false =>
    refine ⟨_, exec_mbxInWrite_stored w h hf, fun _ => ?_, fun hc => absurd hc Bool.false_ne_true, fun k hk => ?_⟩
    · exact (getMbx_hostTlp_setMbx ch ch _ s).trans (if_pos rfl)
    · exact (getMbx_hostTlp_setMbx ch k _ s).trans (if_neg hk)
  | true =>
    refine ⟨_, exec_mbxInWrite_replaced w h hf, fun hc => absurd hc.symm Bool.false_ne_true, fun _ => ?_, fun k hk => ?_⟩
    · exact (getMbx_hostTlp_setMbx ch ch _ s).trans (if_pos rfl)
    · exact (getMbx_hostTlp_setMbx ch k _ s).trans (if_neg hk)

/-- A request that names a management channel acts as writes of PARAM and of CLN_MBX_IN (R48). -/
theorem exec_mctpMbxRequest_stored (hc : channelOfNumber n = some ch) (hr : fwRuns s = true) (hl : bs.length ≤ 256) (hf : (getMbx s ch).full = false) :
    exec (.mctpMbxRequest eid 1 n bs w) s =
      .next (setMbx ch { getMbx s ch with param := putBytes (getMbx s ch).param 0 bs, inWord := w, full := true, eid := eid } s) := by
  change execMctpMbxRequest eid 1 n bs w s = _
  have hb : s.cln.phase ≠ .bootRom := by rintro hp; simp [fwRuns, hp] at hr
  have ha : s.cln.phase ≠ .fwAuth := by rintro hp; simp [fwRuns, hp] at hr
  simp [execMctpMbxRequest, hc, hb, ha, Nat.not_lt.mpr hl, putParam_eq, hf, putInWord_empty]

/-- A channel's vector is raised, or nothing happens (R47). -/
theorem raiseOnly_mbxRaise (ch : Nat) (was : Bool) (s : State) : RaiseOnly s (mbxRaise ch was s) := by
  unfold mbxRaise
  split
  · exact raiseOnly_raiseVector _ _
  · exact raiseOnly_refl s

theorem fwRuns_of_ccsRuns (h : ccsRuns s = true) : fwRuns s = true ∧ s.cln.phase ≠ .fwRun := by
  unfold ccsRuns at h
  unfold fwRuns
  split at h <;> simp_all

/-- A word with an opcode is accepted, in acceptance order, while the CCS runs and the channel has room (R44, R46). -/
theorem exec_mbxAccept_accepted (hf : (getMbx s ch).full = true) (hr : ccsRuns s = true) (hs : s.mod.shutdown = false)
    (hroom : repliesHeld (getMbx s ch) + mbxOutstanding s ch < 16) (hop : mbxOpcodes.contains (wordOp (getMbx s ch).inWord) = true) :
    exec (.mbxAccept ch) s =
      .next (let t := mbxRaise ch (getMbx s ch).inEmptied (setMbx ch { getMbx s ch with full := false, inEmptied := true } s)
        setMbx ch { getMbx t ch with accepted := (getMbx s ch).accepted ++ [{ word := (getMbx s ch).inWord, param := (getMbx s ch).param, oid := t.cln.nextOid, acc := { time := s.now, eid := (getMbx s ch).eid } }] }
          { t with cln := { t.cln with nextOid := t.cln.nextOid + 1 } }) := by
  obtain ⟨hfw, hp⟩ := fwRuns_of_ccsRuns hr
  have htaken : ¬ (!(getMbx s ch).full || !fwRuns s || decide (16 ≤ repliesHeld (getMbx s ch) + mbxOutstanding s ch)) = true := by
    simp [hf, hfw, hroom]
  have ho := raiseOnly_mbxRaise ch (getMbx s ch).inEmptied (setMbx ch { getMbx s ch with full := false, inEmptied := true } s)
  change Host.Outcome.next (acceptWord ch s) = _
  unfold acceptWord
  dsimp only
  rw [if_neg htaken]
  generalize mbxRaise ch _ _ = u at ho
  have hnow : u.now = s.now := ho.now
  have hstarted : ¬ (u.cln.phase == .fwRun && wordOp (getMbx s ch).inWord != 0x01 && wordOp (getMbx s ch).inWord != 0x02) = true := by
    have hphase : u.cln.phase ≠ .fwRun := fun e => hp (ho.phase.symm.trans e)
    simp [hphase]
  have hknown : ¬ (!mbxOpcodes.contains (wordOp (getMbx s ch).inWord)) = true := by
    rw [hop]
    exact Bool.false_ne_true
  have hopen : ¬ (u.mod.shutdown && !([0x01, 0x02, 0xF0].contains (wordOp (getMbx s ch).inWord))) = true := by
    have hshut : u.mod.shutdown = false := ho.shutdown.trans hs
    simp [hshut]
  rw [← hnow]
  exact congrArg Host.Outcome.next ((if_neg hstarted).trans ((if_neg hknown).trans (if_neg hopen)))

/-- The oldest reply goes to RESULT and CLN_MBX_OUT; a management channel's is sent over MCTP (R46-R48). -/
theorem exec_mbxReplyPost_posted {r : Reply} {rest : List Reply} (hr : (getMbx s ch).replies = r :: rest) (ho : (getMbx s ch).outFull = false) (hh : halted s = false) :
    exec (.mbxReplyPost ch) s =
      .next (let t := setMbx ch { getMbx s ch with replies := rest, result := putBytes (getMbx s ch).result 0 r.bytes, outWord := r.word, outFull := !isMgmt ch } s
        if isMgmt ch then emit (.mctp (mctpReply ch r)) t else mbxRaise ch false t) := by
  change execMbxReplyPost ch s = _
  simp [execMbxReplyPost, hr, ho, hh]

end Mailbox

/-- The four management channels by the numbers of R48. -/
theorem channelOfNumber_of_mem {ch n : Nat} (h : (ch, n) ∈ [(6, 0x06), (7, 0x07), (30, 0x36), (31, 0x37)]) : channelOfNumber n = some ch := by
  simp only [List.mem_cons, Prod.mk.injEq, List.not_mem_nil, or_false] at h
  rcases h with ⟨rfl, rfl⟩ | ⟨rfl, rfl⟩ | ⟨rfl, rfl⟩ | ⟨rfl, rfl⟩ <;> rfl

/-- Settles O21: the case lemma of each row where its conditions hold. -/
theorem mailboxChannelRowsComplete : Obligations.MailboxChannelRowsComplete :=
  ⟨fun _ w _ _ h hf => exec_mbxInWrite_stored w h hf,
   fun _ w _ _ h hf => exec_mbxInWrite_replaced w h hf,
   fun _ off bs _ _ h => exec_paramWrite_open off bs h,
   fun _ _ _ h => exec_mbxOutRelease_open h,
   fun _ _ _ _ _ _ hc hr hl hf => exec_mctpMbxRequest_stored (channelOfNumber_of_mem hc) hr hl hf,
   fun _ _ hf hr hs hroom hop => exec_mbxAccept_accepted hf hr hs hroom hop,
   fun _ _ _ _ hr ho hh => exec_mbxReplyPost_posted hr ho hh⟩

/-! Control bits, the heartbeat (R37, R82, R84). -/

theorem exec_fetchHoldWrite_open (v : Bool) (hb : barsClosed s = false) :
    exec (.fetchHoldWrite v) s = .next (hostTlp { lightAct 0 s with cln := { s.cln with fetchHold := v } }) := by
  change execFetchHoldWrite v s = _
  simp [execFetchHoldWrite, hb]

theorem exec_softRestart_fault (hb : barsClosed s = false) (hp : s.cln.phase = .fault) : exec .softRestart s = .next (hostTlp (restartCloni false false (lightAct 0 s))) := by
  change execSoftRestart s = _
  simp [execSoftRestart, hb, hp]

/-- SOFT_RESTART is honoured only while PHASE is FAULT (R37). -/
theorem exec_softRestart_ignored (hp : s.cln.phase ≠ .fault) : exec .softRestart s = .next (hostTlp (lightAct 0 s)) := by
  change execSoftRestart s = _
  simp [execSoftRestart, hp]

theorem exec_heartbeatTick_runs (hr : fwRuns s = true) : exec .heartbeatTick s = .next { s with cln := { s.cln with heartbeat := (s.cln.heartbeat + 1) % 2 ^ 32 } } := by
  change execHeartbeatTick s = _
  simp [execHeartbeatTick, hr]

/-- Settles O22: the case lemma of each row where its conditions hold; a TLP meets no arm of spark 0x0102 where there is none. -/
theorem controlRowsComplete : Obligations.ControlRowsComplete :=
  ⟨fun v _ hb => exec_fetchHoldWrite_open v hb,
   fun _ hb hp => exec_softRestart_fault hb hp,
   fun _ _ hp => exec_softRestart_ignored hp,
   fun _ hr => exec_heartbeatTick_runs hr,
   fun _ h => hostTlp_unarmed h,
   fun _ => rfl⟩

/-! What a restart of Cloni leaves as it was (R79, R80). -/

/-- Rings, mailbox channels, the commands in their stages, and plot membership as they were. -/
structure SameCommands (s t : State) : Prop where
  rings    : t.cln.rings = s.cln.rings
  mbx      : t.cln.mbx = s.cln.mbx
  fetched  : t.cln.fetched = s.cln.fetched
  inflight : t.cln.inflight = s.cln.inflight
  done     : t.cln.done = s.cln.done
  plotEmb  : t.cln.plotEmb = s.cln.plotEmb
  plotOln  : t.cln.plotOln = s.cln.plotOln
  plotFld  : t.cln.plotFld = s.cln.plotFld

theorem SameCommands.refl (s : State) : SameCommands s s := ⟨rfl, rfl, rfl, rfl, rfl, rfl, rfl, rfl⟩

theorem SameCommands.trans {r s t : State} (a : SameCommands r s) (b : SameCommands s t) : SameCommands r t :=
  ⟨b.rings.trans a.rings, b.mbx.trans a.mbx, b.fetched.trans a.fetched, b.inflight.trans a.inflight, b.done.trans a.done,
   b.plotEmb.trans a.plotEmb, b.plotOln.trans a.plotOln, b.plotFld.trans a.plotFld⟩

theorem RaiseOnly.sameCommands (h : RaiseOnly s t) : SameCommands s t :=
  ⟨raiseOnly_field Cln.rings h.cln, h.mbx, raiseOnly_field Cln.fetched h.cln, raiseOnly_field Cln.inflight h.cln, raiseOnly_field Cln.done h.cln,
   raiseOnly_field Cln.plotEmb h.cln, raiseOnly_field Cln.plotOln h.cln, raiseOnly_field Cln.plotFld h.cln⟩

theorem sameCommands_restartCloni (toFault inj : Bool) (s : State) : SameCommands s (restartCloni toFault inj s) := by
  unfold restartCloni
  refine SameCommands.trans ?_ (raiseOnly_raiseN _ _ _ _ _ _).sameCommands
  exact ⟨rfl, rfl, rfl, rfl, rfl, rfl, rfl, rfl⟩

theorem sameCommands_softRestart (h : exec .softRestart s = .next t) : SameCommands s t := by
  change execSoftRestart s = _ at h
  cases h
  refine SameCommands.trans ?_ (raiseOnly_hostTlp _).sameCommands
  have ha : SameCommands s (lightAct 0 s) := (raiseOnly_lightAct 0 s).sameCommands
  split
  · exact ha.trans (sameCommands_restartCloni _ _ _)
  · exact ha

theorem sameCommands_lockstepMismatch (h : exec .lockstepMismatch s = .next t) : SameCommands s t := by
  change execLockstepMismatch s = _ at h
  cases h
  split
  · exact .refl s
  · refine (raiseOnly_sparkCheck 0x0101 0 s).sameCommands.trans (SameCommands.trans ?_ (sameCommands_restartCloni _ _ _))
    exact ⟨rfl, rfl, rfl, rfl, rfl, rfl, rfl, rfl⟩

/-- Settles O18: both rows come down to a restart and to events raised around it, and neither touches what is named. -/
theorem restartPreservesCommands : Obligations.RestartPreservesCommands := by
  rintro i s t hi h
  have hk : SameCommands s t := by
    rcases hi with rfl | rfl
    · exact sameCommands_lockstepMismatch h
    · exact sameCommands_softRestart h
  exact ⟨hk.rings, hk.mbx, hk.fetched, hk.inflight, hk.done, hk.plotEmb, hk.plotOln, hk.plotFld⟩

/-! The mailbox opcodes (R49, R85). -/

/-- A row that answers its channel's word has the effect of its action where the word's own condition holds. -/
theorem wordRow_of {op : Nat} {row : Nat → Instr} {own : Nat → List Byte → State → Bool} {eff act : Nat → Nat → Nat → List Byte → State → State}
    (he : ∀ ch s, exec (row ch) s = .next (withWord ch op (act ch) s)) (ha : ∀ ch tag arg p s, own arg p s = true → act ch tag arg p s = eff ch tag arg p s) :
    WordRow op row own eff := by
  intro ch s hw ho
  rw [he, withWord_ready _ hw, ha _ _ _ _ _ ho]

theorem exec_ccsIndirect_ready {ch : Nat} (input : List Byte) (hw : wordReady ch 0xF0 s = true) (ha : wordArg (oldestWord ch s).word = 0) :
    exec (.ccsIndirect ch input) s =
      .next (putFetched (oldestWord ch s).oid (oldestWord ch s).acc (cmdOf (.mailbox ch (wordTag (oldestWord ch s).word)) ((oldestWord ch s).param.take 64) input) (wordState ch s)) := by
  change execCcsIndirect ch input s = _
  rw [execCcsIndirect, withAccepted_ready _ hw]
  simp [ha]

/-- Settles O24: each opcode's row runs its action on the oldest word, whose checks the conditions settle. -/
theorem mailboxOpcodesComplete : Obligations.MailboxOpcodesComplete := by
  refine ⟨wordRow_of (fun _ _ => rfl) ?capQuery, wordRow_of (fun _ _ => rfl) ?echo, wordRow_of (fun _ _ => rfl) ?create, wordRow_of (fun _ _ => rfl) ?destroy,
    wordRow_of (fun _ _ => rfl) ?destroyBad, wordRow_of (fun _ _ => rfl) ?reset, wordRow_of (fun _ _ => rfl) ?resetBad, wordRow_of (fun _ _ => rfl) ?query,
    wordRow_of (fun _ _ => rfl) ?eqCreate, wordRow_of (fun _ _ => rfl) ?eqCreateBad, wordRow_of (fun _ _ => rfl) ?eqDestroy, wordRow_of (fun _ _ => rfl) ?eqDestroyBad,
    fun _ input _ hw ha => exec_ccsIndirect_ready input hw ha⟩
  all_goals
    intro ch tag arg p s h
    simp only [Bool.and_eq_true, Bool.or_eq_true, beq_iff_eq, bne_iff_ne, ne_eq, decide_eq_true_eq] at h
  case capQuery => simp [h]
  case echo => rfl
  case create =>
    obtain ⟨harg, hcheck⟩ := h
    simp [harg, hcheck]
  case destroy =>
    obtain ⟨harg, hstate⟩ := h
    rw [if_neg (Nat.not_le.mpr harg)]
    rcases hstate with hstate | hstate <;> simp [hstate]
  case destroyBad =>
    obtain ⟨harg, hstate⟩ := h
    rw [if_neg (Nat.not_le.mpr harg)]
    rcases hstate with hstate | hstate <;> simp [hstate]
  case reset =>
    obtain ⟨harg, hstate⟩ := h
    rw [if_neg (Nat.not_le.mpr harg)]
    simp [hstate]
  case resetBad =>
    obtain ⟨harg, hstate⟩ := h
    rw [if_neg (Nat.not_le.mpr harg)]
    simp [hstate]
  case query => rw [if_neg (Nat.not_le.mpr h)]
  case eqCreate =>
    obtain ⟨⟨⟨hq, hlo, hhi⟩, hbase⟩, hhead⟩ := h
    simp [hq, Nat.not_lt.mpr hlo, Nat.not_lt.mpr hhi, hbase, hhead]
  case eqCreateBad =>
    obtain ⟨⟨⟨hq, hlo, hhi⟩, hbase⟩, hhead⟩ := h
    simp [Option.isSome_iff_ne_none, hq, Nat.not_lt.mpr hlo, Nat.not_lt.mpr hhi, hbase, hhead]
  case eqDestroy =>
    obtain ⟨harg, hq⟩ := h
    simp [harg, hq]
  case eqDestroyBad =>
    obtain ⟨harg, hq⟩ := h
    simp [harg, hq]

/-! Alias reads and absent members (R67, R70). -/

section Pages

variable {off size cls o m : Nat} {page : Page} {rest : List Nat} {f : Fields}

@[simp] theorem emit_out (o : Out) (s : State) : (emit o s).out = s.out ++ [o] := by
  unfold emit
  dsimp only
  split <;> rfl

/-- Participating members come in ascending order (R67). -/
theorem participating_sorted (s : State) (cls : Nat) (page : Page) : (participating s cls page).Pairwise (· < ·) :=
  (List.pairwise_lt_range.filter _).filter _

/-- An output and the arrival of the TLP that asked for it change no more than raising an event does. -/
theorem raiseOnly_hostTlp_emit (o : Out) (s : State) : RaiseOnly s (hostTlp (emit o s)) :=
  raiseOnly_trans (raiseOnly_emit o s) (raiseOnly_hostTlp _)

/-- What leaves the block after an output is what the arrival of its TLP sends. -/
theorem hostTlp_emit_out (o : Out) (s : State) : ∃ l, (hostTlp (emit o s)).out = s.out ++ [o] ++ l := by
  obtain ⟨l, hl⟩ := (keeps_hostTlp (Keeps.refl (emit o s))).out
  exact ⟨l, by rw [← hl, emit_out]⟩

/-- Settles O15: the lowest member is the head of a rising list, and beside the value and its note only the arrival of the TLP acts. -/
theorem aliasReadTakesLowest : Obligations.AliasReadTakesLowest := by
  intro off size cls o m page rest s hb hp hm ha hn
  have hlowest : ∀ k ∈ rest, m < k := (List.pairwise_cons.mp (hn ▸ participating_sorted s cls page)).1
  refine ⟨hlowest, _, exec_aliasRead_first hb hp ha hm hn, hostTlp_emit_out _ _, ?_, ?_,
    (raiseOnly_hostTlp_emit _ _).emb, (raiseOnly_hostTlp_emit _ _).oln, (raiseOnly_hostTlp_emit _ _).fld⟩
  · rw [(raiseOnly_hostTlp_emit _ _).sow]
    exact List.isSome_find?
  · rw [(raiseOnly_hostTlp_emit _ _).sow]

/-- A member that the variant lacks, or that a fuse disables, reads as zero (R70). -/
theorem memberRead_absent (o : Nat) (hp : present s cls m = false) : memberRead s cls m o = 0 := by
  simp [memberRead, hp]

/-- A member that the variant lacks, or that a fuse disables, ignores writes (R70). -/
theorem memberWrite_absent (o : Nat) (f : Fields) (d lanes hw : Nat) (hp : present s cls m = false) : memberWrite cls o f d lanes hw m s = s := by
  simp [memberWrite, hp]

@[simp] theorem part_zero (off size : Nat) : part 0 off size = 0 := by
  simp [part, bitsOf]

theorem exec_rcRead_absent (k : Word) (ide : IdeTag) (hb : barsClosed s = false) (hp : pageAt off = some (cls, .member m, o)) (ha : aligned off size = true)
    (hm : present s cls m = false) : exec (.rcRead .b4 off size k ide) s = .next (hostTlp (emit (.readData 0) (lightAct 0 s))) := by
  change execRcRead .b4 off size k ide s = _
  simp [execRcRead, hb, hp, ha, memberRead_absent (s := lightAct 0 s) o hm, hm]

theorem exec_registerWrite_absent (v hw : Word) (ide : IdeTag) (hb : barsClosed s = false) (hp : pageAt off = some (cls, .member m, o)) (ha : aligned off size = true)
    (hm : present s cls m = false) : exec (.registerWrite .b4 off size v hw ide) s = .next (hostTlp (lightAct 0 s)) := by
  change execRegisterWrite .b4 off size v hw ide s = _
  simp [execRegisterWrite, hb, hp, ha, memberWrite_absent (s := lightAct 0 s) o _ _ _ _ hm]

end Pages

/-- Settles O16: both accesses to an absent member come to the arrival of their TLP, and the read to a zero. -/
theorem absentMemberReadsZero : Obligations.AbsentMemberReadsZero :=
  fun _ _ _ _ _ v hw ide _ hb hp ha hm => ⟨exec_rcRead_absent hw ide hb hp ha hm, exec_registerWrite_absent v hw ide hb hp ha hm⟩

/-! Commands that the general checks end, and commands that wait (R46, R50, R72). -/

section Commands

variable {c : Cmd} {u v : Nat} {row : Cmd → Instr} {after : State → State} {body : Nat → Cmd → State → Answer × State}

/-- Taking a command's order number changes nothing but the records that Cloni keeps of the commands. -/
theorem orderState_eq (c : Cmd) (s : State) : orderState c s = { s with cln := { s.cln with
    nextOid := (orderState c s).cln.nextOid, rings := (orderState c s).cln.rings, fetched := (orderState c s).cln.fetched,
    accepts := (orderState c s).cln.accepts, current := (orderState c s).cln.current } } := by
  unfold orderState takeOrder numberCmd
  split
  · rfl
  · cases c.issuer <;> rfl

theorem orderState_phase (c : Cmd) (s : State) : (orderState c s).cln.phase = s.cln.phase := by rw [orderState_eq]

theorem orderState_discard (c : Cmd) (s : State) : (orderState c s).cln.discard = s.cln.discard := by rw [orderState_eq]

theorem orderState_shutdown (c : Cmd) (s : State) : (orderState c s).mod.shutdown = s.mod.shutdown := by rw [orderState_eq]

/-- Reading a command's input changes its input alone. -/
theorem withInput_eq (c : Cmd) (s : State) : withInput c s = { c with input := (withInput c s).input } := by
  unfold withInput
  split
  · rfl
  · split <;> rfl

theorem cmdRead_issuer (c : Cmd) (s : State) : (cmdRead c s).issuer = c.issuer := by
  unfold cmdRead
  rw [withInput_eq]

theorem isSecure_cmdRead (c : Cmd) (s : State) : isSecure (cmdRead c s) = isSecure c := by
  unfold isSecure
  rw [cmdRead_issuer]

/-- In full service a secure-only command of the security unit that comes on another channel ends with PERMISSION at the general checks (R50, R436). -/
theorem gate_secureOnly (hd : (verbsOf 0x0C).contains v = true) (ho : secureOnly 0x0C v = true) (hv : versionCheck 0x0C v c = none)
    (hs : isSecure c = false) (hsd : s.mod.shutdown = false) (hp : s.cln.phase = .fullService) : gate 0x0C v c s = some { status := .permission } := by
  simp [gate, List.contains_iff_mem.mp hd, ho, hv, hs, hsd, hp]

theorem exec_secureOnly (he : exec (row c) s = .next (after (runCmd 0x0C v c body s))) (hd : (verbsOf 0x0C).contains v = true) (ho : secureOnly 0x0C v = true)
    (hv : versionCheck 0x0C v (cmdRead c s) = none) (hm : mayStart c s = true) (hs : isSecure c = false) (hsd : s.mod.shutdown = false) (hp : s.cln.phase = .fullService) :
    exec (row c) s = .next (after (complete (orderOf c s) (cmdRead c s) { status := .permission } (orderState c s))) := by
  rw [he, runCmd_refused body hm (gate_secureOnly hd ho hv (by rw [isSecure_cmdRead, hs]) (by rw [orderState_shutdown, hsd]) (by rw [orderState_phase, hp]))]

end Commands

/-- Settles O11: each row runs its command, and the general checks end it; only CONTEXT.CREATE and KEY.LOAD carry a VERSION. -/
theorem secureOnlyCommandsRefused : Obligations.SecureOnlyCommandsRefused := by
  intro c s hm hs hsd hp
  refine ⟨fun row hrow => ?_, fun sig => ?_, ?_, fun hv => ?_, fun key hv => ?_⟩
  · simp only [List.mem_cons, List.not_mem_nil, or_false] at hrow
    rcases hrow with rfl | rfl | rfl | rfl | rfl | rfl | rfl | rfl
    all_goals exact exec_secureOnly (after := id) rfl rfl rfl rfl hm hs hsd hp
  · exact exec_secureOnly (row := fun c => .fwActivate c sig) (after := id) rfl rfl rfl rfl hm hs hsd hp
  · exact exec_secureOnly (after := fun t => settleDestroys (settleWork t)) rfl rfl rfl rfl hm hs hsd hp
  · exact exec_secureOnly (after := id) rfl rfl rfl hv hm hs hsd hp
  · exact exec_secureOnly (row := fun c => .keyLoad c key) (after := id) rfl rfl rfl hv hm hs hsd hp

/-! Orders on one target (R73-R78). -/

section Orders

variable {c : Cmd} {o : Order} {a : Applied}

/-- The record of an order once it is applied (R74). -/
def appliedNow (c : Cmd) (t : Target) (o : Order) (s : State) : Applied :=
  { target := t, issuer := c.issuer, cid := c.cid, ctx := cmdCtx s c, order := o, acc := currentAccept s }

/-- The orders on other targets. -/
def otherOrders (t : Target) (s : State) : List Applied := s.cln.orders.filter (fun a => a.target != t)

theorem target_of_mem_otherOrders {t : Target} {b : Applied} (h : b ∈ otherOrders t s) : b.target ≠ t := by
  simpa using (List.mem_filter.mp h).2

/-- The latest order on a target, where it was accepted within 20 µs of the present one (R74, R76). -/
def latestNear (t : Target) (s : State) : Option Applied :=
  s.cln.orders.find? (fun a => a.target == t && within20 a.acc (currentAccept s))

/-- An order that does not conflict is applied at once (R74, R78). -/
theorem judge_sameIssuer {t : Target} (hl : latestNear t s = some a) (hi : sameIssuer a.issuer c.issuer = true) :
    judge c t o s = (true, { s with cln := { s.cln with orders := otherOrders t s ++ [appliedNow c t o s] } }) := by
  unfold latestNear at hl
  unfold judge
  dsimp only
  rw [hl]
  simp [hi, otherOrders, appliedNow]

/-- A conflict raises its events, and then the later order is applied where it is not the less safe one (R74-R77). -/
theorem judge_conflict {t : Target} (o : Order) (hl : latestNear t s = some a) (hi : sameIssuer a.issuer c.issuer = false) (hd : ordersDiffer a.order o = true) :
    ∃ u, RaiseOnly s u ∧ judge c t o s = if lessSafe a.order o then (false, u) else (true, { u with cln := { u.cln with orders := otherOrders t u ++ [appliedNow c t o s] } }) := by
  unfold latestNear at hl
  unfold judge
  dsimp only
  rw [hl]
  simp only [hi, hd]
  exact ⟨_, raiseOnly_trans (raiseOnly_raise _ _ _ _) (raiseOnly_raise _ _ _ _), rfl⟩

/-- Settles O13: of a conflict's two outcomes the order's safety decides, and the events that are raised leave the orders as they were. -/
theorem conflictsAreJudged : Obligations.ConflictsAreJudged := by
  intro c t o a s hl hi hd
  obtain ⟨u, hu, hj⟩ := judge_conflict o hl hi hd
  rw [hj]
  refine ⟨fun hs => ?_, fun hs => ?_⟩
  · simp [hs, hu.orders]
  · simp only [hs]
    exact ⟨rfl, _, rfl, fun b hb => target_of_mem_otherOrders hb⟩

/-- A row that does nothing but run a command of its unit. -/
def RunsCommand (row : Cmd → Instr) : Prop := ∃ u v body, ∀ c s, exec (row c) s = .next (runCmd u v c body s)

/-- A command that was accepted behind another one that waits may not start (R46, R56, R72). -/
theorem mayStart_behind {early late : Live} (hl : s.cln.fetched.find? (fun l => l.cmd == c) = some late) (he : early ∈ s.cln.fetched) (ho : early.oid < late.oid) :
    mayStart c s = false := by
  have hw : early.oid ∈ waitingOids s := List.mem_append_left _ (List.mem_map_of_mem he)
  have hn : isNext s late.oid = false := by
    simp only [isNext, List.all_eq_false, decide_eq_true_eq]
    exact ⟨early.oid, hw, Nat.not_le.mpr ho⟩
  simp [mayStart, hl, hn]

/-- A fetched command that is put behind the others stays where it is. -/
theorem putBehind_fetched {late : Live} (hl : s.cln.fetched.find? (fun l => l.cmd == c) = some late) : putBehind c s = s := by
  have ha : s.cln.fetched.any (fun l => l.cmd == c) = true := List.any_eq_true.mpr ⟨late, List.mem_of_find?_eq_some hl, List.find?_some (p := fun l : Live => l.cmd == c) hl⟩
  simp [putBehind, ha]

theorem RunsCommand.exec_behind {row : Cmd → Instr} {early late : Live} (hr : RunsCommand row) (hl : s.cln.fetched.find? (fun l => l.cmd == c) = some late)
    (he : early ∈ s.cln.fetched) (ho : early.oid < late.oid) : exec (row c) s = .next s := by
  obtain ⟨u, v, body, hrun⟩ := hr
  rw [hrun, runCmd_behind body (mayStart_behind hl he ho), putBehind_fetched hl]

/-- Settles O12: an order of the same issuer finds no conflict, and each order's row leaves a command that was accepted later where it waits. -/
theorem sameIssuerNeverConflicts : Obligations.SameIssuerNeverConflicts := by
  refine ⟨fun c t o a s hl hi => ⟨_, judge_sameIssuer hl hi, fun b hb => target_of_mem_otherOrders hb⟩, fun c early late s hl he ho row hrow => ?_⟩
  refine RunsCommand.exec_behind ?_ hl he ho
  revert row
  simp only [List.forall_mem_cons, List.not_mem_nil, false_imp_iff, implies_true, and_true]
  and_intros
  all_goals exact ⟨_, _, _, fun _ _ => rfl⟩

end Orders

/-! Queries (R54, R59). -/

section Queries

variable {c : Cmd} {d : Done} {x : Answer × State} {row : Cmd → Instr}

/-- An answer that ends the command, not with BUSY, and leaves the state as it is. -/
def AnswersOnly (s : State) (x : Answer × State) : Prop := ∃ d, x = (.done d, s) ∧ d.status ≠ .busy

theorem answersOnly_done (h : d.status ≠ .busy) : AnswersOnly s (.done d, s) := ⟨d, rfl, h⟩

theorem answersOnly_fail {e : Status} (h : e ≠ .busy) : AnswersOnly s (fail e, s) := answersOnly_done h

theorem answersOnly_ok (r0 r1 : Nat) : AnswersOnly s (ok r0 r1, s) := answersOnly_done nofun

/-- An answer after a check that ends the command with another status than BUSY. -/
theorem answersOnly_check {p : Prop} [Decidable p] {e : Status} (he : e ≠ .busy) (h : AnswersOnly s x) : AnswersOnly s (if p then (fail e, s) else x) := by
  split
  · exact answersOnly_fail he
  · exact h

theorem answersOnly_ite {p : Prop} [Decidable p] {y : Answer × State} (hx : AnswersOnly s x) (hy : AnswersOnly s y) : AnswersOnly s (if p then x else y) := by
  split
  · exact hx
  · exact hy

theorem bufferRefused_ne_busy : bufferRefused c s ≠ some .busy := by
  unfold bufferRefused
  extract_lets handle
  have hh : ∀ dev h n, handle dev h n ≠ some .busy := by
    intro dev h n
    simp only [handle]
    split_ifs
    · simp
    · split
      · simp
      · split_ifs <;> simp
  clear_value handle
  split
  · simp
  · split
    · next e he => rw [← he]; exact hh _ _ _
    · split
      · next e he => rw [← he]; exact hh _ _ _
      · split_ifs <;> simp

theorem bufferCheck_ne_busy : bufferCheck c s ≠ some .busy := by
  unfold bufferCheck
  split
  · next e he => rw [← he]; exact bufferRefused_ne_busy
  · split_ifs <;> simp

/-- The buffer checks never end a command with BUSY. -/
theorem answersOnly_buffer (h : AnswersOnly s x) : AnswersOnly s (match bufferCheck c s with | some e => (fail e, s) | none => x) := by
  split
  · next e he => exact answersOnly_fail (fun hb => bufferCheck_ne_busy (hb ▸ he))
  · exact h

theorem versionCheck_ne_busy {u v : Nat} : versionCheck u v c ≠ some .busy := by
  unfold versionCheck
  split
  · simp
  · split_ifs <;> simp
  · split_ifs <;> simp

/-- The general checks never end a command with BUSY. -/
theorem gate_ne_busy {u v : Nat} (h : gate u v c s = some d) : d.status ≠ .busy := by
  rintro hb
  unfold gate at h
  split at h
  · cases h; cases hb
  · split at h
    · next e he =>
        cases h
        exact versionCheck_ne_busy (he.trans (congrArg some hb))
    · split_ifs at h <;> cases h <;> cases hb

/-- A ring's completion waits in Cloni, and touches nothing else where it is neither BUSY, nor discarded, nor one that R156 counts. -/
theorem complete_ring {r oid : Nat} (hi : c.issuer = .ring r) (hk : c.unit = 0x03 → c.verb ≠ 0x01) (hd : s.cln.discard = []) (hb : d.status ≠ .busy) :
    ∃ k : Cln, complete oid c d s = { s with cln := k } := by
  have hu : (c.unit == 0x03 && c.verb == 0x01) = false := by simpa using hk
  simp [complete, countAttend, hi, hu, hd, hb]

/-- A row that runs a command whose unit only answers. -/
def OnlyAsks (row : Cmd → Instr) : Prop :=
  ∃ u v body, (∀ c s, exec (row c) s = .next (runCmd u v c body s)) ∧ ∀ o c s, AnswersOnly s (body o c s)

theorem putBehind_cln (c : Cmd) (s : State) : ∃ k : Cln, putBehind c s = { s with cln := k } := by
  unfold putBehind numberCmd
  split
  · exact ⟨s.cln, rfl⟩
  · cases c.issuer <;> exact ⟨_, rfl⟩

/-- A query from a ring changes Cloni's own state alone, whether it waits, a general check ends it, or its unit answers it. -/
theorem OnlyAsks.exec_cln {r : Nat} (hq : OnlyAsks row) (hi : c.issuer = .ring r) (hk : c.unit = 0x03 → c.verb ≠ 0x01) (hd : s.cln.discard = []) :
    ∃ k : Cln, exec (row c) s = .next { s with cln := k } := by
  obtain ⟨u, v, body, hrun, hans⟩ := hq
  have hdone : ∀ d : Done, d.status ≠ .busy → ∃ k : Cln, complete (orderOf c s) (cmdRead c s) d (orderState c s) = { s with cln := k } := by
    intro d hb
    have hread : cmdRead c s = { c with input := (cmdRead c s).input } := withInput_eq c (orderState c s)
    obtain ⟨k, hc⟩ := complete_ring (oid := orderOf c s) (c := cmdRead c s) (s := orderState c s) (by rw [cmdRead_issuer, hi])
      (by rw [hread]; exact hk) (by rw [orderState_discard, hd]) hb
    rw [orderState_eq] at hc
    exact ⟨k, by rw [orderState_eq]; exact hc⟩
  suffices h : ∃ k : Cln, runCmd u v c body s = { s with cln := k } by
    obtain ⟨k, hk⟩ := h
    exact ⟨k, by rw [hrun, hk]⟩
  cases hm : mayStart c s with
  | false => rw [runCmd_behind body hm]; exact putBehind_cln c s
  | true =>
    cases hg : gate u v (cmdRead c s) (orderState c s) with
    | some d => rw [runCmd_refused body hm hg]; exact hdone d (gate_ne_busy hg)
    | none =>
      obtain ⟨d, ha, hb⟩ := hans (orderOf c s) (cmdRead c s) (orderState c s)
      rw [runCmd_gate body hm hg, ha]
      exact hdone d hb

theorem onlyAsks_fieldStatus : OnlyAsks .fieldStatus :=
  ⟨_, _, _, fun _ _ => rfl, fun _ _ _ => answersOnly_check nofun (answersOnly_buffer (answersOnly_check nofun (answersOnly_done nofun)))⟩

theorem onlyAsks_tierStatus : OnlyAsks .tierStatus :=
  ⟨_, _, _, fun _ _ => rfl, fun _ _ _ => answersOnly_check nofun (answersOnly_ok _ _)⟩

theorem onlyAsks_tierLossList : OnlyAsks .tierLossList :=
  ⟨_, _, _, fun _ _ => rfl, fun _ _ _ => answersOnly_check nofun (answersOnly_buffer (answersOnly_ite (answersOnly_done nofun) (answersOnly_done nofun)))⟩

theorem onlyAsks_seedStatus : OnlyAsks .seedStatus :=
  ⟨_, _, _, fun _ _ => rfl, fun _ _ _ => answersOnly_check nofun (answersOnly_ok _ _)⟩

theorem onlyAsks_gleanStatus : OnlyAsks .gleanStatus := by
  refine ⟨_, _, _, fun _ _ => rfl, fun _ c s => answersOnly_check nofun ?_⟩
  split
  · next e he =>
    refine answersOnly_fail ?_
    unfold swathOf at he
    split at he
    · cases he; nofun
    · split_ifs at he
      cases he; nofun
  · exact answersOnly_ok _ _

theorem onlyAsks_olnenStatus : OnlyAsks .olnenStatus :=
  ⟨_, _, _, fun _ _ => rfl, fun _ _ _ => answersOnly_check nofun (answersOnly_buffer (answersOnly_check nofun (answersOnly_done nofun)))⟩

theorem onlyAsks_olnenFlowStatus : OnlyAsks .olnenFlowStatus :=
  ⟨_, _, _, fun _ _ => rfl, fun _ _ _ => answersOnly_check nofun (answersOnly_buffer (answersOnly_ite (answersOnly_done nofun) (answersOnly_done nofun)))⟩

theorem onlyAsks_headlandStatus : OnlyAsks .headlandStatus := by
  refine ⟨_, _, _, fun _ _ => rfl, fun _ c s => answersOnly_check nofun ?_⟩
  split
  · next e he =>
    refine answersOnly_fail ?_
    unfold instances at he
    split_ifs at he <;> cases he <;> nofun
  · exact answersOnly_buffer (answersOnly_check nofun (answersOnly_done nofun))

theorem onlyAsks_contextQuery : OnlyAsks .contextQuery := by
  refine ⟨_, _, _, fun _ _ => rfl, fun _ c s => answersOnly_check nofun (answersOnly_buffer ?_)⟩
  split
  · exact answersOnly_fail nofun
  · exact answersOnly_check nofun (answersOnly_check nofun (answersOnly_done nofun))

theorem onlyAsks_keyQuery : OnlyAsks .keyQuery := by
  refine ⟨_, _, _, fun _ _ => rfl, fun _ c s => answersOnly_check nofun ?_⟩
  split
  · exact answersOnly_ok _ _
  · exact answersOnly_check nofun (answersOnly_ok _ _)

theorem onlyAsks_sparkStatus : OnlyAsks .sparkStatus :=
  ⟨_, _, _, fun _ _ => rfl, fun _ _ _ => answersOnly_check nofun (answersOnly_buffer (answersOnly_ite (answersOnly_done nofun) (answersOnly_done nofun)))⟩

theorem onlyAsks_tallyRead : OnlyAsks .tallyRead := by
  refine ⟨_, _, _, fun _ _ => rfl, fun _ c s => ?_⟩
  dsimp only
  split
  · exact answersOnly_fail nofun
  · exact answersOnly_check nofun (answersOnly_buffer (answersOnly_check nofun (answersOnly_done nofun)))

theorem onlyAsks_meterRead : OnlyAsks .meterRead :=
  ⟨_, _, _, fun _ _ => rfl, fun _ _ _ => answersOnly_check nofun (answersOnly_buffer (answersOnly_check nofun (answersOnly_done nofun)))⟩

theorem onlyAsks_meterProfile : OnlyAsks .meterProfile := by
  refine ⟨_, _, _, fun _ _ => rfl, fun _ c s => answersOnly_check nofun (answersOnly_buffer ?_)⟩
  split
  · exact answersOnly_fail nofun
  · exact answersOnly_check nofun (answersOnly_check nofun (answersOnly_check nofun (answersOnly_done nofun)))

theorem onlyAsks_healthStatus : OnlyAsks .healthStatus :=
  ⟨_, _, _, fun _ _ => rfl, fun _ _ _ => answersOnly_check nofun (answersOnly_buffer (answersOnly_check nofun (answersOnly_done nofun)))⟩

theorem onlyAsks_healthDrainStatus : OnlyAsks .healthDrainStatus :=
  ⟨_, _, _, fun _ _ => rfl, fun _ _ _ => answersOnly_check nofun (answersOnly_buffer (answersOnly_ite (answersOnly_done nofun) (answersOnly_done nofun)))⟩

theorem onlyAsks_modStatus : OnlyAsks .modStatus :=
  ⟨_, _, _, fun _ _ => rfl, fun _ _ _ => answersOnly_check nofun (answersOnly_buffer (answersOnly_check nofun (answersOnly_done nofun)))⟩

/-- Settles O19: each of the rows runs a command that its unit only answers. -/
theorem queriesChangeOnlyCloni : Obligations.QueriesChangeOnlyCloni := by
  intro r c s hi hk hd row hrow
  refine OnlyAsks.exec_cln (row := row) ?_ hi hk hd
  revert row
  simp only [List.forall_mem_cons, List.not_mem_nil, false_imp_iff, implies_true, and_true]
  exact ⟨onlyAsks_fieldStatus, onlyAsks_tierStatus, onlyAsks_tierLossList, onlyAsks_seedStatus, onlyAsks_gleanStatus, onlyAsks_olnenStatus,
    onlyAsks_olnenFlowStatus, onlyAsks_headlandStatus, onlyAsks_contextQuery, onlyAsks_keyQuery, onlyAsks_sparkStatus, onlyAsks_tallyRead,
    onlyAsks_meterRead, onlyAsks_meterProfile, onlyAsks_healthStatus, onlyAsks_healthDrainStatus, onlyAsks_modStatus⟩

end Queries

/-! Doorbells, fetches and completions (R52, R55-R60, R72). -/

section Rings

variable {r v n cid : Nat} {f : Finished}

@[simp] theorem getRing_lightAct (n k : Nat) : getRing (lightAct n s) k = getRing s k := rfl

theorem exec_dbSqTailWrite_set (hb : barsClosed s = false) (hs : (getRing s r).state ≠ .disabled) (hv : v < 2 ^ (getRing s r).sqLog2) (h16 : v < 2 ^ 16) :
    exec (.dbSqTailWrite r v) s = .next (hostTlp (setRing r { getRing s r with tail := v } (lightAct 0 s))) := by
  change execDbSqTailWrite r v s = _
  have hmod : v % 65536 = v := Nat.mod_eq_of_lt h16
  simp [execDbSqTailWrite, hb, writeSqTail, hs, hmod, Nat.not_le.mpr hv]

theorem exec_dbCqHeadWrite_set (hb : barsClosed s = false) (hs : (getRing s r).state ≠ .disabled) (hv : v < 2 ^ (getRing s r).cqLog2) (h16 : v < 2 ^ 16) :
    exec (.dbCqHeadWrite r v) s = .next (hostTlp (setRing r { getRing s r with cqHead := v } (lightAct 0 s))) := by
  change execDbCqHeadWrite r v s = _
  have hmod : v % 65536 = v := Nat.mod_eq_of_lt h16
  simp [execDbCqHeadWrite, hb, writeCqHead, hs, hmod, Nat.not_le.mpr hv]

/-- A doorbell write to a DISABLED ring is dropped and counted (R55, R57). -/
theorem exec_dbSqTailWrite_dropped (v : Nat) (hb : barsClosed s = false) (hs : (getRing s r).state = .disabled) :
    exec (.dbSqTailWrite r v) s = .next (hostTlp (dropDoorbell (lightAct 0 s))) := by
  change execDbSqTailWrite r v s = _
  simp [execDbSqTailWrite, hb, writeSqTail, hs]

theorem exec_dbCqHeadWrite_dropped (v : Nat) (hb : barsClosed s = false) (hs : (getRing s r).state = .disabled) :
    exec (.dbCqHeadWrite r v) s = .next (hostTlp (dropDoorbell (lightAct 0 s))) := by
  change execDbCqHeadWrite r v s = _
  simp [execDbCqHeadWrite, hb, writeCqHead, hs]

/-- A sweep without staged changes accepts the words of the channels in their order (R72). -/
theorem exec_cloniSweep_words (hr : fwRuns s = true) (hs : s.cln.staged = []) :
    exec .cloniSweep s = .next ((List.range 32).foldl (fun t ch => acceptWord ch t) { s with cln := { s.cln with staged := [], sweepFetched := 0 } }) := by
  change execCloniSweep s = _
  simp [execCloniSweep, hr, hs]

/-- The next descriptor of the ring that Headland chooses is fetched, where no tag is missing and no spark point meets it (R56, R57, R411-R414). -/
theorem exec_descriptorFetch_fetched {passed : List Nat} {d input : List Byte} (hf : mayFetch s (getRing s r) (cmdOf (.ring r) d input) = true)
    (hp : (fetchPick s passed).1 = some r) (ht : tagsNeeded s (cmdOf (.ring r) d input) ≤ freeTags s) (ha : ringArm s r = none) :
    exec (.descriptorFetch r passed d input) s =
      .next (let x := getRing s r
        let t := lightAct 0 s
        let t := setRing r { x with head := (x.head + 1) % 2 ^ x.sqLog2, outstanding := x.outstanding + 1, live := x.live ++ [s.cln.nextOid] } { t with cln := { t.cln with nextOid := t.cln.nextOid + 1 } }
        let t := countFetch x.cls x.hdlQueue (setInst 16 (fetchPick s passed).2 t)
        putFetched s.cln.nextOid { time := s.now } (cmdOf (.ring r) d input) { t with cln := { t.cln with sweepFetched := t.cln.sweepFetched + 1 } }) := by
  change execDescriptorFetch r passed d input s = _
  have hpick : fetchPick s passed = (some r, (fetchPick s passed).2) := Prod.ext hp rfl
  unfold execDescriptorFetch
  rw [hpick]
  simp only [hf, ha, Nat.not_lt.mpr ht, Bool.not_true, bne_self_eq_false, Bool.or_self, Bool.false_eq_true, if_false, Option.isSome_none]
  rfl

/-- A completion goes to host memory once its ring has room for the record (R58). -/
theorem exec_commandComplete_written (hf : s.cln.done.find? (isDone r cid) = some f) (hs : (getRing s r).state ≠ .disabled) (hq : 0 < cqFree (getRing s r))
    (hh : halted s = false) (hd : s.cln.cfg.d3hot = false) :
    exec (.commandComplete r cid) s =
      .next (drainEnd r (coalesce r f.cmd.noIrq (writeRecord r f (writeOutput f.cmd f.done { s with cln := { s.cln with done := removeFirst (isDone r cid) s.cln.done } })))) := by
  change execCommandComplete r cid s = _
  simp [execCommandComplete, hf, hs, Nat.ne_of_gt hq, hh, hd]

theorem exec_ringCoalTimeout_due (hc : (getRing s r).coalSince = some n) (hn : n + (getRing s r).coalUs * 1000 ≤ s.now) :
    exec (.ringCoalTimeout r) s = .next (raiseVector (getRing s r).vector (setRing r { getRing s r with coalN := 0, coalSince := none } s)) := by
  change execRingCoalTimeout r s = _
  have hdue : ¬ s.now < n + (getRing s r).coalUs * us := Nat.not_lt.mpr hn
  simp [execRingCoalTimeout, hc, hdue]

/-- A DMA failure of a command that is not known stops the ring and raises RING_STOPPED (R60). -/
theorem exec_ringDmaFailure_stopped (w q : Bool) (hs : (getRing s r).state = .active) :
    exec (.ringDmaFailure r w none q) s =
      .next (raise .ringStopped [.ctx (getRing s r).ctx] (leBytes 4 r ++ leBytes 2 0xFFFF ++ leBytes 1 (b2n w)) (setRing r { getRing s r with state := .stopped } s)) := by
  change execRingDmaFailure r w none q s = _
  simp [execRingDmaFailure, hs, ringFails, stopRing, raise]

end Rings

/-! Restarts and the function-level reset (R79, R81, R84). -/

/-- The first mismatch in 10 s restarts Cloni; it does not halt it (R79, R82). -/
theorem exec_lockstepMismatch_first (hp : s.cln.phase = .fullService) (ha : s.hlt.arms = []) (hm : s.cln.mismatches = []) :
    exec .lockstepMismatch s =
      .next (restartCloni false false { s with cln := { s.cln with lockstepFault := true, mismatches := [s.now] }, hlt := { s.hlt with tally := { s.hlt.tally with restarts := min (s.hlt.tally.restarts + 1) (2 ^ 32 - 1) } } }) := by
  change execLockstepMismatch s = _
  simp [execLockstepMismatch, hp, sparkCheck_unarmed ha, hm, satAdd]

theorem exec_cloniRestartDone_restarting (hp : s.cln.phase = .restarting) :
    exec .cloniRestartDone s =
      .next ((List.range 32).foldl (fun t ch => abortWords ch t)
        (s.cln.fetched.foldl (fun t l => complete l.oid l.cmd { status := .aborted } t)
          (s.cln.heldDone.foldl (fun t f => answerRemote f.cmd f.done t)
            { s with cln := { s.cln with phase := s.cln.resume, ready := (s.cln.resume == .unitsStarting || s.cln.resume == .fullService), fetched := [], heldDone := [] } }))) := by
  change execCloniRestartDone s = _
  simp [execCloniRestartDone, hp]

/-- A finished command without output in device memory leaves nothing at a function-level reset (R84). -/
theorem foldl_writeInside_host {l : List Finished} (h : ∀ f ∈ l, f.cmd.outDevice = false) (s : State) : l.foldl (fun s f => writeInside f.cmd f.done s) s = s := by
  induction l with
  | nil => rfl
  | cons f l ih =>
    have hf : writeInside f.cmd f.done s = s := by simp [writeInside, h f (List.mem_cons_self ..)]
    rw [List.foldl_cons, hf, ih (fun g hg => h g (List.mem_cons_of_mem _ hg))]

/-- Replies change the mailbox channels alone. -/
theorem foldl_postReply_mbx (l : List (Nat × Nat)) (s : State) :
    ∃ m, l.foldl (fun s e => postReply e.1 e.2 .success 0 [] 0 s) s = { s with cln := { s.cln with mbx := m } } := by
  induction l generalizing s with
  | nil => exact ⟨s.cln.mbx, rfl⟩
  | cons e l ih => exact ih (postReply e.1 e.2 .success 0 [] 0 s)

/-- In full service a function-level reset clears what R83 names of Cloni, and of the rest nothing while no finished command has output in device memory (R83, R84). -/
theorem exec_functionLevelReset_fullService (hp : s.cln.phase = .fullService) (hd : ∀ f ∈ s.cln.done, f.cmd.outDevice = false) :
    ∃ discard mbx, exec .functionLevelReset s = .next { s with cln := { s.cln with
      rings := [], eq := none, done := [], discard := discard, mbx := mbx, fetchHold := false, plotEmb := [], plotOln := [], plotFld := [],
      msix := [], pba := [], cfg := {}, flr := true } } := by
  change ∃ discard mbx, execFunctionLevelReset s = _
  unfold execFunctionLevelReset
  dsimp only
  rw [foldl_writeInside_host hd]
  obtain ⟨m, hm⟩ := foldl_postReply_mbx _ _
  rw [hm]
  simp only [hp]
  exact ⟨_, m, rfl⟩

/-- Settles O25: the case lemma of each row where its conditions hold. -/
theorem ringRowsComplete : Obligations.RingRowsComplete := by
  refine ⟨fun _ _ _ hb hs hv h16 => exec_dbSqTailWrite_set hb hs hv h16,
    fun _ _ _ hb hs hv h16 => exec_dbCqHeadWrite_set hb hs hv h16,
    fun _ v _ hb hs => ⟨exec_dbSqTailWrite_dropped v hb hs, exec_dbCqHeadWrite_dropped v hb hs⟩,
    fun _ hr hs => exec_cloniSweep_words hr hs,
    fun _ _ _ _ _ hf hp ht ha => exec_descriptorFetch_fetched hf hp ht ha,
    fun _ _ _ _ hf hs hq hh hd => exec_commandComplete_written hf hs hq hh hd,
    fun _ _ _ hc hn => exec_ringCoalTimeout_due hc hn,
    fun _ w q _ hs => exec_ringDmaFailure_stopped w q hs,
    fun _ hp ha hm => exec_lockstepMismatch_first hp ha hm,
    fun _ hp => exec_cloniRestartDone_restarting hp,
    fun s hp hd => ?_⟩
  obtain ⟨discard, mbx, he⟩ := exec_functionLevelReset_fullService hp hd
  exact ⟨_, he, rfl, rfl, rfl, rfl, rfl, rfl, rfl, rfl, rfl, rfl, rfl, rfl, rfl, rfl, rfl, rfl, rfl⟩

/-! The readings of the module (R32, R505, R511, R515-R518). -/

section Module

variable {reg : CfgReg} {n flow mv da : Nat} {temps sense : List Nat}

theorem exec_pcieConfigRequest_read (hr : s.mod.running = true) (ha : s.cln.fwAuthed = true) :
    exec (.pcieConfigRequest reg none) s =
      .next (hostTlp (emit (.config false (configValue s reg (Config.measure (match reg with | .header off => off | _ => 0) s.free))) { s with free := s.free + 1 })) := by
  change execPcieConfigRequest reg none s = _
  have hruns : ¬ (!s.mod.running) = true := by simp [hr]
  have hserved : ¬ (!s.cln.fwAuthed) = true := by simp [ha]
  exact congrArg Host.Outcome.next ((if_neg hruns).trans (congrArg hostTlp (if_neg hserved)))

theorem exec_pcieConfigRequest_write (v : Nat) (hr : s.mod.running = true) (ha : s.cln.fwAuthed = true) :
    exec (.pcieConfigRequest reg (some v)) s = .next (hostTlp (sendPending (emit (.config false 0) { s with cln := { s.cln with cfg := configSet reg v s.cln.cfg } }))) := by
  change execPcieConfigRequest reg (some v) s = _
  simp [execPcieConfigRequest, hr, ha]

/-- A request before the firmware is authenticated is answered with CRS (R33, R525). -/
theorem exec_pcieConfigRequest_early (w : Option Nat) (hr : s.mod.running = true) (ha : s.cln.fwAuthed = false) :
    exec (.pcieConfigRequest reg w) s = .next (hostTlp (emit (.config true 0) s)) := by
  change execPcieConfigRequest reg w s = _
  simp [execPcieConfigRequest, hr, ha]

theorem exec_actTimerExpiry_due {e : Nat} (hn : tblGet? s.mod.act n = some e) (he : e ≤ s.now) :
    exec (.actTimerExpiry n) s = .next { s with mod := { s.mod with act := tblDel s.mod.act n } } := by
  change execActTimerExpiry n s = _
  simp [execActTimerExpiry, hn, Nat.not_lt.mpr he]

/-- A sample while the module runs is taken (R515). -/
theorem exec_thermalSample_untripped (hr : s.mod.rails = .stable) (hm : s.mod.running = true) (ht : tripReading (readSensors temps (List.range 22) s).1 = none) :
    exec (.thermalSample temps flow sense) s = .next (takeReadings (readSensors temps (List.range 22) s).1 flow sense (readSensors temps (List.range 22) s).2) := by
  change execThermalSample temps flow sense s = _
  simp [execThermalSample, hr, hm, ht]

/-- A reading at its trip threshold trips the module once the sample is taken (R517). -/
theorem exec_thermalSample_tripped {e : Nat × Nat × Bool} (hr : s.mod.rails = .stable) (hm : s.mod.running = true) (ht : tripReading (readSensors temps (List.range 22) s).1 = some e) :
    exec (.thermalSample temps flow sense) s =
      .next (tripModule e.1 e.2.1 (takeReadings (readSensors temps (List.range 22) s).1 flow sense (readSensors temps (List.range 22) s).2)) := by
  change execThermalSample temps flow sense s = _
  simp [execThermalSample, hr, hm, ht]

theorem exec_coolantFlowLowDetect_low (ha : s.hlt.arms = []) (hf : flow < (if isC s then 2250 else 3600)) :
    exec (.coolantFlowLowDetect flow) s =
      .next (raiseLimited .coolantFlowLow false 0 (10 * 10 ^ 9) [.ctx 0] (leBytes 2 (min 65535 flow) ++ leBytes 1 (min 255 (getSensor s 20).temp)) { s with mod := { s.mod with flow := flow } }) := by
  change execCoolantFlowLowDetect flow s = _
  simp only [execCoolantFlowLowDetect, sparkCheck_unarmed ha]
  exact congrArg _ (if_neg (Nat.not_le.mpr hf))

theorem exec_inputPowerFaultDetect_fault (ha : s.hlt.arms = []) (hf : mv < 46000 ∨ 56000 < mv ∨ 600 ≤ da) :
    exec (.inputPowerFaultDetect mv da) s =
      .next (raiseLimited .inputPowerFault false 0 (10 * 10 ^ 9) [.ctx 0] (leBytes 2 (min 65535 mv) ++ leBytes 2 (min 65535 da)) { s with mod := { s.mod with inputMv := mv, inputDa := da } }) := by
  change execInputPowerFaultDetect mv da s = _
  have hin : ¬ ((decide (46000 ≤ mv) && decide (mv ≤ 56000) && decide (da < 600)) = true) := by
    simp only [Bool.and_eq_true, decide_eq_true_eq]
    omega
  simp only [execInputPowerFaultDetect, sparkCheck_unarmed ha]
  exact congrArg _ (if_neg hin)

theorem exec_powerLimitedDetect_due {e : Nat} (hh : s.mod.heldSince = some e) (he : e + 100 * 10 ^ 6 ≤ s.now) :
    exec .powerLimitedDetect s = .next (raiseLimited .powerLimited false 0 (10 * 10 ^ 9) [.ctx 0] (leBytes 2 (measuredMv s) ++ leBytes 2 (min 65535 (inputW s))) s) := by
  change execPowerLimitedDetect s = _
  simp only [execPowerLimitedDetect, hh]
  exact congrArg _ (if_neg (Nat.not_lt.mpr he))

end Module

/-- Settles O59: the case lemma of each row where its conditions hold. -/
theorem moduleReadingRowsComplete : Obligations.ModuleReadingRowsComplete :=
  ⟨fun _ _ hr ha => exec_pcieConfigRequest_read hr ha,
   fun _ v _ hr ha => exec_pcieConfigRequest_write v hr ha,
   fun _ w _ hr ha => exec_pcieConfigRequest_early w hr ha,
   fun _ _ _ hn he => exec_actTimerExpiry_due hn he,
   fun _ _ _ _ hr hm ht => exec_thermalSample_untripped hr hm ht,
   fun _ _ _ _ _ hr hm ht => exec_thermalSample_tripped hr hm ht,
   fun _ _ ha hf => exec_coolantFlowLowDetect_low ha hf,
   fun _ _ _ ha hf => exec_inputPowerFaultDetect_fault ha hf,
   fun _ _ hh he => exec_powerLimitedDetect_due hh he⟩

end Sys2Proof.Machine

/-! SUPPORT. The statements of `spec/03_field_self_timed_cores.md`: rounding (R98), the FIELD commands (R94, R112-R120), messages between cores and errors of the operand stores (R99-R105, R120), and work items (R110, R121, R130, R184, R233). -/

namespace Sys2Proof.Machine

variable {s : State}

/-! Rounding (R98). -/

/-- Of the multiples of `D`, `k * D` is a nearest one to `m`, and `k` is even where two are equally near. -/
def NearestEven (m D k : Nat) : Prop :=
  2 * (k * D) ≤ 2 * m + D ∧ 2 * m ≤ 2 * (k * D) + D ∧ ((2 * (k * D) = 2 * m + D ∨ 2 * m = 2 * (k * D) + D) → k % 2 = 0)

theorem nearestEven_one (m : Nat) : NearestEven m 1 m := by
  unfold NearestEven
  omega

/-- Below the middle the nearest multiple is the lower one. -/
theorem nearestEven_below {m D : Nat} (h : 2 * (m % D) < D) : NearestEven m D (m / D) := by
  have hm : m / D * D + m % D = m := Nat.div_add_mod' m D
  unfold NearestEven
  omega

/-- Above the middle the nearest multiple is the upper one. -/
theorem nearestEven_above {m D : Nat} (hr : m % D < D) (h : D < 2 * (m % D)) : NearestEven m D (m / D + 1) := by
  have hm : m / D * D + m % D = m := Nat.div_add_mod' m D
  have hk : (m / D + 1) * D = m / D * D + D := Nat.succ_mul _ _
  unfold NearestEven
  omega

/-- In the middle the even one of the two neighbours is taken. -/
theorem nearestEven_middle {m D : Nat} (h : 2 * (m % D) = D) : NearestEven m D (m / D + m / D % 2) := by
  have hm : m / D * D + m % D = m := Nat.div_add_mod' m D
  unfold NearestEven
  rcases Nat.mod_two_eq_zero_or_one (m / D) with he | he
  · rw [he, Nat.add_zero]
    omega
  · have hk : (m / D + 1) * D = m / D * D + D := Nat.succ_mul _ _
    rw [he]
    omega

@[simp] theorem rneAt_self (m : Nat) (e : Int) : rneAt m e e = m := by simp [rneAt]

/-- A multiple of more than 2^e is found from the quotient and the remainder. -/
theorem rneAt_add {d : Nat} (hd : 0 < d) (m : Nat) (e : Int) :
    rneAt m e (e + d) = if 2 * (m % 2 ^ d) < 2 ^ d then m / 2 ^ d else if 2 ^ d < 2 * (m % 2 ^ d) then m / 2 ^ d + 1 else m / 2 ^ d + m / 2 ^ d % 2 := by
  have hq : ¬ e + (d : Int) ≤ e := by omega
  simp only [rneAt, if_neg hq, add_sub_cancel_left, Int.toNat_natCast]

theorem nearestEven_rneAt (m d : Nat) (e : Int) : NearestEven m (2 ^ d) (rneAt m e (e + d)) := by
  rcases Nat.eq_zero_or_pos d with rfl | hd
  · simpa using nearestEven_one m
  · rw [rneAt_add hd]
    split_ifs with hlt hgt
    · exact nearestEven_below hlt
    · exact nearestEven_above (Nat.mod_lt _ (Nat.two_pow_pos d)) hgt
    · exact nearestEven_middle (by omega)

/-- Settles O10: the multiple is the lower neighbour, the upper one or the even one, as the remainder lies below, above or at the middle. -/
theorem roundingIsNearestEven : Obligations.RoundingIsNearestEven :=
  fun m d e => nearestEven_rneAt m d e

/-! What the FIELD commands share: orders on a core (R118), judged before they are applied (R73-R78). -/

section FieldCommands

variable {c : Cmd} {n rank : Nat}

@[simp] theorem getCore_judge (c : Cmd) (t : Target) (o : Order) (n : Nat) : getCore (judge c t o s).2 n = getCore s n := by
  have hu := sameUnits_judge c t o s
  unfold getCore coreFused
  rw [hu.fld, hu.fuse]

/-- An order that names a core which is not DISABLED acts on it. -/
theorem coreOrder_named (act : Nat → Core → Answer × State) (ha : argsOnly c [(32, 0, 7)] = true) (hn : argBits c 32 0 7 < 72)
    (hs : (getCore s (argBits c 32 0 7)).state ≠ .disabled) :
    coreOrder c s act = act (argBits c 32 0 7) (getCore s (argBits c 32 0 7)) := by
  simp [coreOrder, ha, Nat.not_le.mpr hn, hs]

/-- An order that is not overruled is applied in the state that its judgement leaves. -/
theorem judgedCore_applied (apply : State → Answer × State) (hj : (judge c { unit := 0x02, obj := n } (.service rank) s).1 = true) :
    judgedCore c n rank s apply = apply (judge c { unit := 0x02, obj := n } (.service rank) s).2 := by
  simp [judgedCore, hj]

/-- A run is refused for none of its cores where all are in ROTATION (R113). -/
theorem runCoreStatus_rotation {cores : List Nat} (h : cores.all (fun n => (getCore s n).state == .rotation) = true) :
    cores.findSome? (fun n => runCoreStatus (getCore s n).state) = none := by
  simp only [List.all_eq_true, beq_iff_eq] at h
  exact List.findSome?_eq_none_iff.mpr fun n hn => by rw [h n hn]; rfl

/-! Each FIELD command where it completes. -/

theorem fieldStatus_ends : EndsAt 0x02 0x01 .fieldStatus (fun c s => argsOnly c [] = true ∧ bufferCheck c s = none ∧ (c.outLen = 0 ∨ 576 ≤ c.outLen))
    (fun c s => let count := fun (p : CoreState → Bool) => (coresIn s p).length
      { r0 := count inRotation + count (· == .reserve) * 2 ^ 8 + count (· == .fenced) * 2 ^ 16 + count (· == .quarantine) * 2 ^ 24 + count (· == .restricted) * 2 ^ 32 + corner s * 2 ^ 40 + fieldRate s * 2 ^ 48, r1 := measuredMv s + s.mod.fieldC * 2 ^ 16 + s.fld.target * 2 ^ 24 + b2n (powerHeld s) * 2 ^ 28 + b2n (belowGuarantee s) * 2 ^ 29, output := if c.outLen == 0 then [] else ((List.range 72).map (coreRecord s)).flatten }) (fun _ s => s) := by
  refine ends_of (fun _ _ => rfl) ?_
  rintro _ c s ⟨ha, hb, hl⟩
  have hlen : ¬ (c.outLen != 0 && decide (c.outLen < 576)) = true := by
    simp only [Bool.and_eq_true, bne_iff_ne, decide_eq_true_eq]
    omega
  simp only [ha, hb, if_neg hlen]
  rfl

theorem fieldSupply_ends_named : EndsAt 0x02 0x02 .fieldSupply (fun c s => argsOnly c [(32, 0, 2), (34, 0, 16)] && argBits c 32 0 2 != 3 && (judge c { unit := 0x02, obj := 0x100 } (.value (argBits c 32 0 2)) s).1)
    (fun _ _ => {}) (fun c s => let t := (judge c { unit := 0x02, obj := 0x100 } (.value (argBits c 32 0 2)) s).2
      { t with fld := { t.fld with target := argBits c 32 0 2 } }) := by
  refine ends_of (fun _ _ => rfl) ?_
  intro _ c s h
  simp only [Bool.and_eq_true, bne_iff_ne] at h
  obtain ⟨⟨ha, ht⟩, hj⟩ := h
  simp [ha, ht, hj, ok]

theorem fieldSupply_ends_custom : EndsAt 0x02 0x02 .fieldSupply (fun c s => argsOnly c [(32, 0, 2), (34, 0, 16)] && argBits c 32 0 2 == 3 && decide (650 ≤ argU c 34 2 ∧ argU c 34 2 ≤ 900) && (judge c { unit := 0x02, obj := 0x100 } (.value (3 + 4 * argU c 34 2)) s).1)
    (fun _ _ => {}) (fun c s => let t := (judge c { unit := 0x02, obj := 0x100 } (.value (3 + 4 * argU c 34 2)) s).2
      { t with fld := { t.fld with target := 3, customMv := argU c 34 2 } }) := by
  refine ends_of (fun _ _ => rfl) ?_
  intro _ c s h
  simp only [Bool.and_eq_true, beq_iff_eq, decide_eq_true_eq] at h
  obtain ⟨⟨⟨ha, ht⟩, hlo, hhi⟩, hj⟩ := h
  simp [ha, ht, Nat.not_lt.mpr hlo, Nat.not_lt.mpr hhi, hj, ok]

theorem fieldFence_ends : EndsAt 0x02 0x10 .fieldFence (fun c s => argsOnly c [(32, 0, 7)] && decide (argBits c 32 0 7 < 72) && (getCore s (argBits c 32 0 7)).state == .rotation &&
      othersAble s (argBits c 32 0 7) true && (judge c { unit := 0x02, obj := argBits c 32 0 7 } (.service 1) s).1)
    (fun _ _ => {}) (fun c s => startRuns (fenceCore (argBits c 32 0 7) 1 false (judge c { unit := 0x02, obj := argBits c 32 0 7 } (.service 1) s).2)) := by
  refine ends_of (fun _ _ => rfl) ?_
  intro _ c s h
  simp only [Bool.and_eq_true, beq_iff_eq, decide_eq_true_eq] at h
  obtain ⟨⟨⟨⟨ha, hn⟩, hs⟩, ho⟩, hj⟩ := h
  dsimp only
  rw [coreOrder_named _ ha hn (by simp [hs])]
  simp [hs, ho, judgedCore_applied _ hj, ok]

theorem fieldRestrict_ends : EndsAt 0x02 0x11 .fieldRestrict (fun c s => argsOnly c [(32, 0, 7)] && decide (argBits c 32 0 7 < 72) && (getCore s (argBits c 32 0 7)).state == .rotation &&
      othersAble s (argBits c 32 0 7) false && (judge c { unit := 0x02, obj := argBits c 32 0 7 } (.service 2) s).1)
    (fun _ _ => {}) (fun c s => setCore (argBits c 32 0 7) { getCore s (argBits c 32 0 7) with state := .restricted, joining := false } (judge c { unit := 0x02, obj := argBits c 32 0 7 } (.service 2) s).2) := by
  refine ends_of (fun _ _ => rfl) ?_
  intro _ c s h
  simp only [Bool.and_eq_true, beq_iff_eq, decide_eq_true_eq] at h
  obtain ⟨⟨⟨⟨ha, hn⟩, hs⟩, ho⟩, hj⟩ := h
  dsimp only
  rw [coreOrder_named _ ha hn (by simp [hs])]
  simp [hs, ho, judgedCore_applied _ hj, ok]

theorem fieldEnable_ends : EndsAt 0x02 0x12 .fieldEnable (fun c s => argsOnly c [(32, 0, 7)] && decide (argBits c 32 0 7 < 72) && (getCore s (argBits c 32 0 7)).state == .restricted &&
      (judge c { unit := 0x02, obj := argBits c 32 0 7 } (.service 3) s).1)
    (fun _ _ => {}) (fun c s => modCore (argBits c 32 0 7) (fun x => { x with joining := true }) (judge c { unit := 0x02, obj := argBits c 32 0 7 } (.service 3) s).2) := by
  refine ends_of (fun _ _ => rfl) ?_
  intro _ c s h
  simp only [Bool.and_eq_true, beq_iff_eq, decide_eq_true_eq] at h
  obtain ⟨⟨⟨ha, hn⟩, hs⟩, hj⟩ := h
  dsimp only
  rw [coreOrder_named _ ha hn (by simp [hs])]
  simp [hs, judgedCore_applied _ hj, modCore, ok]

theorem fieldEnable_waits : WaitsAt 0x02 0x12 .fieldEnable (fun c s => argsOnly c [(32, 0, 7)] && decide (argBits c 32 0 7 < 72) && (getCore s (argBits c 32 0 7)).state == .fenced &&
      !isRetired s .core (argBits c 32 0 7) && (judge c { unit := 0x02, obj := argBits c 32 0 7 } (.service 3) s).1)
    (fun oid c s => modCore (argBits c 32 0 7) (fun x => { x with state := .quarantine, enableBy := [oid] }) (judge c { unit := 0x02, obj := argBits c 32 0 7 } (.service 3) s).2) := by
  refine waits_of (fun _ _ => rfl) ?_
  intro _ c s h
  simp only [Bool.and_eq_true, Bool.not_eq_true', beq_iff_eq, decide_eq_true_eq] at h
  obtain ⟨⟨⟨⟨ha, hn⟩, hs⟩, hr⟩, hj⟩ := h
  dsimp only
  rw [coreOrder_named _ ha hn (by simp [hs])]
  simp [hs, hr, judgedCore_applied _ hj, modCore]

theorem fieldLoad_ends (h : Nat) : EndsAt 0x02 0x20 .fieldLoad (fun c s => argsOnly c [] && decide (0 < c.inLen ∧ c.inLen ≤ 2 ^ 21) && bufferCheck c s == none && decide (s.fld.programs.length < 1024) && tblFree? s.fld.programs 1024 == some h)
    (fun _ _ => { r0 := h }) (fun c s => { s with fld := { s.fld with programs := tblSet s.fld.programs h { ctx := cmdCtx s c, image := c.input } } }) := by
  refine ends_of (fun _ _ => rfl) ?_
  intro _ c s hown
  simp only [Bool.and_eq_true, beq_iff_eq, decide_eq_true_eq] at hown
  obtain ⟨⟨⟨⟨ha, hpos, hmax⟩, hb⟩, hlen⟩, hf⟩ := hown
  have hfits : ¬ (c.inLen == 0 || decide (2 ^ 21 < c.inLen)) = true := by
    simp only [Bool.or_eq_true, beq_iff_eq, decide_eq_true_eq]
    omega
  simp only [ha, if_neg hfits, hb, if_neg (Nat.not_le.mpr hlen), hf]
  rfl

theorem fieldRun_waits (p : Program) : WaitsAt 0x02 0x21 .fieldRun (fun c s =>
      let cores := (List.range 72).filter (fun n => bitOf (argU c 32 9) n)
      argsOnly c [(32, 0, 72), (41, 0, 6), (48, 0, 32), (56, 0, 64)] && !cores.isEmpty && argBits c 41 0 4 != 0 && (argBits c 41 0 4 % 4 == 0 || argBits c 41 4 1 == 1) &&
      tblGet? s.fld.programs (argU c 48 4) == some p && mayName s c p.ctx && cores.all (fun n => (getCore s n).state == .rotation))
    (fun oid c s =>
      let cores := (List.range 72).filter (fun n => bitOf (argU c 32 9) n)
      let t := if argBits c 41 4 1 == 1 then cores.foldl (fun s n => modCore n (fun x => { x with exclusive := if x.exclusive.isNone then some oid else x.exclusive }) s) s else s
      startRanks oid (setRun oid { oid := oid, ctx := p.ctx, program := argU c 48 4, arg := argU c 56 8, threads := argBits c 41 0 4, exclusive := argBits c 41 4 1 == 1, replayable := argBits c 41 5 1 == 1, ranks := cores.map (fun n => { core := n }) } t)) := by
  refine waits_of (fun _ _ => rfl) ?_
  intro _ c s h
  dsimp only at h ⊢
  generalize (List.range 72).filter (fun n => bitOf (argU c 32 9) n) = cores at h ⊢
  simp only [Bool.and_eq_true, Bool.not_eq_true', bne_iff_ne, beq_iff_eq] at h
  obtain ⟨⟨⟨⟨⟨⟨ha, hne⟩, hthr⟩, hexcl⟩, hp⟩, hname⟩, hrot⟩ := h
  have hshared : (argBits c 41 0 4 % 4 != 0 && !(argBits c 41 4 1 == 1)) = false := by
    simpa [Decidable.or_iff_not_imp_left] using hexcl
  have hgood : ¬ (!argsOnly c [(32, 0, 72), (41, 0, 6), (48, 0, 32), (56, 0, 64)] || cores.isEmpty || argBits c 41 0 4 == 0 ||
      (argBits c 41 0 4 % 4 != 0 && !(argBits c 41 4 1 == 1))) = true := by
    simp [ha, hne, hthr, hshared]
  rw [if_neg hgood, hp]
  dsimp only
  rw [hname, runCoreStatus_rotation hrot]
  rfl

theorem fieldStop_ends (k : Nat) (r : Cmd) : EndsAt 0x02 0x22 .fieldStop (fun c s => argsOnly c [(32, 0, 16)] &&
      s.cln.inflight.find? (fun e => e.2.unit == 0x02 && e.2.verb == 0x21 && e.2.cid == argU c 32 2 && sameIssuer e.2.issuer c.issuer && tblHas s.fld.runs e.1) == some (k, r))
    (fun _ _ => {}) (fun _ s => endRun k 1 (Config.measure 1 s.free) false { s with free := s.free + 1 }) := by
  refine ends_of (fun _ _ => rfl) ?_
  intro _ c s h
  simp only [Bool.and_eq_true, beq_iff_eq] at h
  obtain ⟨ha, hf⟩ := h
  dsimp only
  rw [ha, hf]
  rfl

end FieldCommands

/-- Settles O26: each FIELD command ends or waits as its lemma says. -/
theorem fieldCommandsComplete : Obligations.FieldCommandsComplete :=
  ⟨fieldStatus_ends, fieldSupply_ends_named, fieldSupply_ends_custom, fieldFence_ends, fieldRestrict_ends, fieldEnable_ends, fieldEnable_waits,
   fieldLoad_ends, fieldRun_waits, fieldStop_ends⟩

/-! Messages between cores (R100-R105). -/

section Mesh

variable {core thread dst dt tag t n : Nat} {p : List Byte} {e : MeshEntry}

/-- A send that the sending thread can make is queued where its destination can be reached, and bounces where not (R100, R103). -/
theorem exec_meshSend_made (tag : Nat) (hc : inRotation (getCore s core).state = true) (hh : stageHeld s core = false) (ht : thread < 4) (hdt : dt < 4) (hd : dst < 72)
    (hp : p.length ≤ 4096) :
    exec (.meshSend core thread dst dt tag p) s =
      .next (if reachable s dst then
        (let c := getCore s core
        let k := thread * 512 + dst * 4 + dt
        let m : MeshMsg := { srcCore := core, srcThread := thread, dstCore := dst, dstThread := dt, tag := tag % 2 ^ 32, seq := tblGetD c.seqOut k 0, payload := p }
        let t := setCore core { c with seqOut := tblMod c.seqOut k 0 (fun n => (n + 1) % 2 ^ 32) } s
        settleMesh { t with fld := { t.fld with mesh := t.fld.mesh ++ [{ msg := m, place := .sendQueue, route := [] }] } })
      else bounce core thread s) := by
  change execMeshSend core thread dst dt tag p s = _
  have hmade : ¬ (!inRotation (getCore s core).state || stageHeld s core || decide (4 ≤ thread) || decide (4 ≤ dt) || decide (72 ≤ dst) || decide (4096 < p.length)) = true := by
    simp [hc, hh, ht, hdt, hd, hp]
  simp only [execMeshSend, if_neg hmade]
  cases reachable s dst <;> rfl

/-- A message on the mesh arrives where the receive queue has room, and is returned from a full one (R101, R102). -/
theorem exec_meshDeliver_onMesh (hf : firstOfFlow s core dst dt = some e) (hp : e.place = .onMesh) (hr : reachable s dst = true) :
    exec (.meshDeliver core e.msg.srcThread dst dt) s =
      .next (if 63 ≤ (tblGetD (getCore s dst).rxq dt []).length then
        { s with fld := { s.fld with mesh := updFirst (· == e) (fun e => { e with place := .returned s.now }) s.fld.mesh } }
      else (let t := receiveMsg dst dt e.msg (modCore core (fun c => { c with sendStatus := tblSet c.sendStatus e.msg.srcThread .success }) s)
        settleMesh { t with fld := { t.fld with mesh := removeFirst (· == e) t.fld.mesh } })) := by
  change execMeshDeliver core e.msg.srcThread dst dt s = _
  simp [execMeshDeliver, hf, hp, hr]

/-- A returned message is on the mesh again after 1 µs (R102). -/
theorem exec_meshResend_due (hf : firstOfFlow s core dst dt = some e) (hp : e.place = .returned t) (ht : t + us ≤ s.now) :
    exec (.meshResend core e.msg.srcThread dst dt) s =
      .next (settleMesh { s with fld := { s.fld with mesh := updFirst (· == e) (fun e => { e with place := .onMesh }) s.fld.mesh } }) := by
  change execMeshResend core e.msg.srcThread dst dt s = _
  simp [execMeshResend, hf, hp, Nat.not_lt.mpr ht]

/-- Up to the seventh resend within 1 ms a router's flit errors are counted only (R105, R120). -/
theorem exec_meshFlitError_counted (hn : n < 72) (hs : (getCore s n).state ≠ .disabled) (ha : s.hlt.arms = [])
    (hl : ((getCore s n).resendTimes.filter (fun t => decide (s.now < t + ms))).length < 7) :
    exec (.meshFlitError n) s =
      .next (countFault .core n 3 (some 1) false (setCore n { getCore s n with resendTimes := s.now :: (getCore s n).resendTimes.filter (fun t => decide (s.now < t + ms)) } s)) := by
  change execMeshFlitError n s = _
  have hfew : ¬ 7 ≤ ((getCore s n).resendTimes.filter (fun t => decide (s.now < t + ms))).length := Nat.not_le.mpr hl
  simp [execMeshFlitError, Nat.not_le.mpr hn, hs, sparkCheck_unarmed ha, hfew]

end Mesh

/-! Errors of the operand stores (R99, R120). -/

section Stores

variable {n word : Nat} {th : Option Nat}

/-- A core in rotation is neither DISABLED nor FENCED (R106). -/
theorem inRotation_iff {x : CoreState} : inRotation x = true ↔ x = .rotation ∨ x = .restricted := by
  cases x <;> simp [inRotation]

/-- The errors of a core's stores count while the core is neither absent nor fenced. -/
theorem storesLive_of_inRotation (hn : n < 72) (hs : inRotation (getCore s n).state = true) :
    ¬ (decide (72 ≤ n) || (getCore s n).state == .disabled || (getCore s n).state == .fenced) = true := by
  rcases inRotation_iff.mp hs with hs | hs <;> simp [hn, hs]

/-- A corrected error is counted (R99). -/
theorem exec_sramError_corrected (word : Nat) (th : Option Nat) (hn : n < 72) (hs : inRotation (getCore s n).state = true) (ha : s.hlt.arms = []) :
    exec (.sramError n false word th) s = .next (countFault .core n 0 (some 0) false (setCore n { getCore s n with sramCe := satAdd 16 (getCore s n).sramCe 1 } s)) := by
  change execSramError n false word th s = _
  simp only [execSramError, if_neg (storesLive_of_inRotation hn hs), sparkCheck_unarmed ha]
  rfl

/-- The core with an uncorrectable error of one word noted (R99). -/
def poisonedCore (n word : Nat) (s : State) : Core :=
  { getCore s n with sramUe := true, ueTimes := s.now :: (getCore s n).ueTimes.filter (fun t => decide (s.now < t + sec)), poison := setAdd (getCore s n).poison word }

/-- An uncorrectable error poisons its word; the third within 1 s fences the core, and an earlier one stops the thread that loads the word (R99, R120). -/
theorem exec_sramError_double (word : Nat) (th : Option Nat) (hn : n < 72) (hs : inRotation (getCore s n).state = true) (ha : s.hlt.arms = []) :
    exec (.sramError n true word th) s =
      .next (let t := countFault .core n 1 none false (setCore n (poisonedCore n word s) s)
        if 2 ≤ ((getCore s n).ueTimes.filter (fun t => decide (s.now < t + sec))).length then startRuns (fenceCore n 3 false t)
        else match th with
        | none => t
        | some k => poisonThread n k t) := by
  change execSramError n true word th s = _
  simp only [execSramError, if_neg (storesLive_of_inRotation hn hs), sparkCheck_unarmed ha, List.length_cons, Nat.reduceLeDiff]
  rfl

end Stores

/-- Settles O28: the case lemma of each row where its conditions hold; ROUTER_BYPASS_DONE is its definition. -/
theorem meshAndStoreRowsComplete : Obligations.MeshAndStoreRowsComplete := by
  refine ⟨fun _ _ _ _ tag _ _ hc hh ht hdt hd hp hr => ?_, fun _ _ _ _ tag _ _ hc hh ht hdt hd hp hr => ?_, fun _ _ _ _ _ hf hp hr hl => ?_, fun _ _ _ _ _ hf hp hr hl => ?_,
    fun _ _ _ _ _ _ hf hp ht => exec_meshResend_due hf hp ht, fun _ _ hn hs ha hl => exec_meshFlitError_counted hn hs ha hl, fun _ _ => rfl,
    fun _ word th _ hn hs ha => exec_sramError_corrected word th hn hs ha, fun _ word _ hn hs ha hl => ?_, fun _ word th _ hn hs ha hl => ?_⟩
  · rw [exec_meshSend_made tag hc hh ht hdt hd hp, if_pos hr]
  · rw [exec_meshSend_made tag hc hh ht hdt hd hp, if_neg (by simp [hr])]
    rfl
  · rw [exec_meshDeliver_onMesh hf hp hr, if_neg (Nat.not_le.mpr hl)]
    rfl
  · rw [exec_meshDeliver_onMesh hf hp hr, if_pos hl]
  · rw [exec_sramError_double word none hn hs ha]
    exact congrArg _ (if_neg (Nat.not_le.mpr hl))
  · rw [exec_sramError_double word th hn hs ha]
    exact congrArg _ (if_pos hl)

/-! Work items (R110, R121, R130, R184, R233). -/

section Items

variable {item beats n slot k : Nat} {i : Item} {a : Attend} {rest : List (Nat × Item)}

@[simp] theorem tenantAdd_kln (ctx : Nat) (f : Tenant → Tenant) : (tenantAdd ctx f s).kln = s.kln := by
  unfold tenantAdd
  split <;> rfl

/-- The first ready item is placed where a core takes it and it appends nothing (R110). -/
theorem placeFirst_head (rest : List (Nat × Item)) (ha : i.append = false) (hc : coreFor s k i = some n) : placeFirst ((k, i) :: rest) s = placeItem k n i s := by
  simp [placeFirst, hc, ha]

theorem exec_itemPlace_first (ha : i.append = false) (hr : readyItems (workBoundary s) = (k, i) :: rest)
    (hc : coreFor (reserveCore ((k, i) :: rest) (workBoundary s)) k i = some n) :
    exec .itemPlace s = .next (placeItem k n i (reserveCore ((k, i) :: rest) (workBoundary s))) := by
  change execItemPlace s = _
  simp only [execItemPlace, hr, placeFirst_head rest ha hc]

/-- What an item commits: an append its tokens, an attention item of a command in flight its partials (R121, R130, R184). -/
def commitItem (item : Nat) (i : Item) (s : State) : State :=
  if i.append then commitAppend item i s else match tblGet? s.kln.attends i.oid with | none => s | some a => commitAttend item i a s

/-- An item on a core whose issue stage is not held commits, once its beats are metered (R391, R494). -/
theorem exec_itemCommit_placed (beats : Nat) (hi : tblGet? s.kln.items item = some i) (hp : i.placed = some (n, slot)) (hh : stageHeld s n = false) :
    exec (.itemCommit item beats) s =
      .next (startRuns (settleWork (commitItem item i (tenantAdd i.ctx (fun x => { x with kilnBeats := (x.kilnBeats + beats) % 2 ^ 64 }) (lightAct 2 s))))) := by
  change execItemCommit item beats s = _
  simp only [execItemCommit, hi, hp, hh]
  rfl

theorem commitItem_append (item : Nat) (s : State) (ha : i.append = true) : commitItem item i s = commitAppend item i s := by
  simp [commitItem, ha]

theorem commitItem_attend (item : Nat) (ha : i.append = false) (hd : tblGet? s.kln.attends i.oid = some a) : commitItem item i s = commitAttend item i a s := by
  simp [commitItem, ha, hd]

/-- The items of a command whose bodies come too late are dropped with TIMEOUT (R233). -/
theorem exec_residencyTimeout_item (hi : tblGet? s.kln.items item = some i) (hp : i.placed = none) (hr : itemResident s i = false) (ht : i.since + tierParam s 0x05 * ms ≤ s.now) :
    exec (.residencyTimeout item) s = .next (settleWork (dropItems i.oid .timeout s)) := by
  change execResidencyTimeout item s = _
  simp [execResidencyTimeout, hi, hp, hr, ht]

/-- A held command whose bodies come too late fails with TIMEOUT (R233). -/
theorem exec_residencyTimeout_held {h : Held} {l : List Nat} (hi : tblGet? s.kln.items item = none) (hf : s.tir.held.find? (fun h => h.item == item) = some h)
    (hw : h.why = .bodies l) (hl : l ≠ []) (ht : h.since + tierParam s 0x05 * ms ≤ s.now) :
    exec (.residencyTimeout item) s = .next (settleWork (failHeld h.oid { status := .timeout } s)) := by
  change execResidencyTimeout item s = _
  simp [execResidencyTimeout, hi, hf, hw, heldPins, hl, ht]

end Items

/-- Settles O31: the case lemma of each row where its conditions hold; metering leaves the attends as they were. -/
theorem workItemRowsComplete : Obligations.WorkItemRowsComplete := by
  refine ⟨fun _ _ _ _ _ ha hr hc => exec_itemPlace_first ha hr hc, fun item beats _ _ i a s hi hp hh ha hd => ?_, fun item beats _ _ i s hi hp hh ha => ?_,
    fun _ _ _ hi hp hr ht => exec_residencyTimeout_item hi hp hr ht, fun _ _ _ _ hi hf hw hl ht => exec_residencyTimeout_held hi hf hw hl ht⟩
  · rw [exec_itemCommit_placed beats hi hp hh, commitItem_attend (a := a) item ha (by simpa using hd)]
  · rw [exec_itemCommit_placed beats hi hp hh, commitItem_append item _ ha]

end Sys2Proof.Machine

/-! SUPPORT. The statements of `spec/04_kiln_attention.md`: the KILN and SHEAF commands that are answered at once or in flight (R137, R138, R149, R155, R156, R158, R161, R186, R309), and Gleaner's own steps (R135, R305, R309-R311, R315). -/

namespace Sys2Proof.Machine

variable {s : State} {c : Cmd}

/-! What the commands of a sequence, a rotary profile or a format share. -/

/-- A command that reads its sequence waits for none where no held command names the sequence (log entry 12). -/
theorem mustWait_read {q : Nat} (h : ∀ h ∈ s.tir.held, h.seq ≠ q) (oid : Nat) : mustWait s oid q .read = false := by
  have hheld : s.tir.held.any (fun h => h.seq == q && decide (h.oid < oid) && waitsFor .read (useOf h.unit h.verb)) = false :=
    List.any_eq_false.mpr fun x hx => by simp [h x hx]
  unfold mustWait
  rw [hheld]
  rfl

/-- A slot that holds no profile of another context is refused to none (R137). -/
theorem ropeSlot_own {k : Nat} (h : ∀ p, tblGet? s.kln.rope k = some p → p.ctx = cmdCtx s c) :
    (tblGet? s.kln.rope k).any (fun p => !ownsIt s c p.ctx) = false := by
  cases hp : tblGet? s.kln.rope k with
  | none => rfl
  | some p => simp [ownsIt, h p hp]

/-- The format table is read alike before and after the judgement of an order. -/
@[simp] theorem fmt?_judge (c : Cmd) (t : Target) (o : Order) (k : Nat) : fmt? (judge c t o s).2 k = fmt? s k :=
  congrArg (fun e : Kln => tblGet? e.formats k) (sameUnits_judge c t o s).kln

/-- A format that the command may name and nothing uses is its to replace or drop, and so is an ID that is free (R161). -/
theorem formatHeld_none {k : Nat} (h : ∀ f, fmt? s k = some f → mayName s c f.ctx = true ∧ formatUsed s k = false) : formatHeld c k s = none := by
  unfold formatHeld
  cases hf : fmt? s k with
  | none => rfl
  | some f =>
    obtain ⟨hname, hused⟩ := h f hf
    simp [hname, hused]

/-! KILN.ATTEND (R149, R309). -/

section Attend

variable {oid : Nat} {x : Seq} {f : Format} {note : AttendNote}

/-- A KILN.ATTEND that passes every check of R149 and waits for no command of its sequence starts. -/
theorem attendBody_starts (ha : attendArgs c = true) (hr : attendRules c = true) (hg : atGlobals c ≤ 64) (hc : atCount c ≤ 256)
    (hu : (atRetrieved c && atGleaner c && !hasGleaner s) = false) (hh : ∀ h ∈ s.tir.held, h.seq ≠ argU c 32 4) (hn : tblGet? s.gln.notes oid = none)
    (hk : attendChecks c s = .ok (x, f, note)) : attendBody oid c s = attendStart oid c x f note s := by
  have hargs : ¬ (!attendArgs c || !attendRules c) = true := by simp [ha, hr]
  have hlimits : ¬ (decide (64 < atGlobals c) || decide (256 < atCount c)) = true := by simp [Nat.not_lt.mpr hg, Nat.not_lt.mpr hc]
  unfold attendBody
  simp only [hn, if_neg hargs, if_neg hlimits, hu, hk, mustWait_read hh oid]
  rfl

/-- How many retrieved sheaves were absent says nothing of what is read. -/
theorem readSheaves_skipped (a : Attend) (n : Nat) : readSheaves { a with skipped := n } = readSheaves a := rfl

/-- Where the host gives the retrieved set, the items of the sheaves that are read are formed at once (R129). -/
theorem kilnAttend_waits_host (x : Seq) (f : Format) (note : AttendNote) : WaitsThen settleWork 0x03 0x01 .kilnAttend
    (fun c s => attendArgs c = true ∧ attendRules c = true ∧ atGlobals c ≤ 64 ∧ atCount c ≤ 256 ∧ (atRetrieved c && atGleaner c) = false ∧ (∀ h ∈ s.tir.held, h.seq ≠ argU c 32 4) ∧
      tblGet? s.gln.notes s.cln.current = none ∧ attendChecks c s = .ok (x, f, note) ∧
      (let a := attendOf s.cln.current c x f note (hostList c f) s
       readSheaves a ≠ [] ∧ bodiesDenied ((readSheaves a).map (·.1.body)) s = none))
    (fun oid c s =>
      let a := attendOf oid c x f note (hostList c f) s
      let t := profileAdd x.ctx 0 1 s
      formItems oid { t with kln := { t.kln with attends := tblSet t.kln.attends oid { a with skipped := ((hostList c f).filter (fun i => !((entriesOf x a.layer a.group).map (·.1)).contains i)).length } } }) := by
  refine waits_current (fun _ _ => rfl) ?_
  rintro c s ⟨ha, hr, hglob, hcnt, hg, hh, hn, hk, hne, hd⟩
  rw [attendBody_starts ha hr hglob hcnt (by simp [hg]) hh hn hk]
  have hread := readSheaves_skipped (attendOf s.cln.current c x f note (hostList c f) s)
  simp only [attendOf] at hread hd hne
  simp only [attendStart, attendOf, hg, Bool.false_eq_true, if_false, hread, hd, List.isEmpty_iff, hne]

/-- Where Gleaner selects the retrieved set, the items wait for the visits of its search (R135, R309). -/
theorem kilnAttend_waits_gleaner (x : Seq) (f : Format) (note : AttendNote) (found : List Nat) (g : GSearch) (t : State) : WaitsThen settleWork 0x03 0x01 .kilnAttend
    (fun c s => attendArgs c = true ∧ attendRules c = true ∧ atGlobals c ≤ 64 ∧ atCount c ≤ 256 ∧ (atRetrieved c && atGleaner c) = true ∧ hasGleaner s = true ∧ (∀ h ∈ s.tir.held, h.seq ≠ argU c 32 4) ∧
      tblGet? s.gln.notes s.cln.current = none ∧ attendChecks c s = .ok (x, f, note) ∧
      attendSearch s.cln.current c f (argU c 32 4) (argBits c 36 0 12) x note.search s = (found, some g, t) ∧ g.todo ≠ [] ∧
      bodiesDenied ((readSheaves (attendOf s.cln.current c x f note found t)).map (·.1.body)) t = none)
    (fun oid c _ =>
      let u := profileAdd x.ctx 0 1 t
      addSearch g { u with kln := { u.kln with attends := tblSet u.kln.attends oid { attendOf oid c x f note found t with gleaning := true } } }) := by
  refine waits_current (fun _ _ => rfl) ?_
  rintro c s ⟨ha, hr, hglob, hcnt, hg, hunit, hh, hn, hk, hs, hne, hd⟩
  rw [attendBody_starts ha hr hglob hcnt (by simp [hunit]) hh hn hk]
  simp only [attendOf] at hd
  simp only [attendStart, attendOf, hg, if_true, hs, hd, List.isEmpty_iff, hne, if_false]

end Attend

/-! Rotary profiles, admission and status (R137, R138, R155, R156). -/

theorem kilnRopeSet_ends (fs : List Nat) : EndsAt 0x03 0x10 .kilnRopeSet (fun c s => argsOnly c [(32, 0, 8)] && argU c 32 1 != 0xFF && (match tblGet? s.kln.rope (argU c 32 1) with | none => true | some p => p.ctx == cmdCtx s c) && bufferCheck c s == none && decide (64 ≤ c.inLen) &&
      ropeHeader c.input && c.inLen == 64 + (if bitOf (inU c 0 1) 1 then 8 else 4) * (inU c 2 2 / 2) && (List.range (inU c 2 2 / 2)).mapM (ropeFreqOf c.input) == some fs &&
      (judge c { unit := 0x03, obj := argU c 32 1 } (.value (1 + leNat c.input)) s).1)
    (fun _ _ => {}) (fun c s => let t := (judge c { unit := 0x03, obj := argU c 32 1 } (.value (1 + leNat c.input)) s).2
      { t with kln := { t.kln with rope := tblSet t.kln.rope (argU c 32 1) { ctx := cmdCtx t c, halves := bitOf (inU c 0 1) 0, rotDims := inU c 2 2, freqs := fs } } }) := by
  refine ends_of (fun _ _ => rfl) ?_
  intro _ c s h
  simp only [Bool.and_eq_true, bne_iff_ne, beq_iff_eq, decide_eq_true_eq] at h
  obtain ⟨⟨⟨⟨⟨⟨⟨⟨ha, hk⟩, hown⟩, hb⟩, -⟩, hhead⟩, hlen⟩, hfs⟩, hj⟩ := h
  have hslot : (tblGet? s.kln.rope (argU c 32 1)).any (fun p => !ownsIt s c p.ctx) = false := ropeSlot_own fun p hp => by simpa [hp] using hown
  dsimp only
  rw [hslot, hb, hfs, judge_applied hj]
  simp [ha, hk, hhead, hlen, ok]

theorem kilnRopeClear_ends : EndsAt 0x03 0x11 .kilnRopeClear (fun c s => argsOnly c [(32, 0, 8)] && argU c 32 1 != 0xFF && (match tblGet? s.kln.rope (argU c 32 1) with | none => true | some p => p.ctx == cmdCtx s c) &&
      (judge c { unit := 0x03, obj := argU c 32 1 } (.value 0) s).1)
    (fun _ _ => {}) (fun c s => let t := (judge c { unit := 0x03, obj := argU c 32 1 } (.value 0) s).2
      { t with kln := { t.kln with rope := tblDel t.kln.rope (argU c 32 1) } }) := by
  refine ends_of (fun _ _ => rfl) ?_
  intro _ c s h
  simp only [Bool.and_eq_true, bne_iff_ne] at h
  obtain ⟨⟨⟨ha, hk⟩, hown⟩, hj⟩ := h
  have hslot : (tblGet? s.kln.rope (argU c 32 1)).any (fun p => !ownsIt s c p.ctx) = false := ropeSlot_own fun p hp => by simpa [hp] using hown
  dsimp only
  rw [hslot, judge_applied hj]
  simp [ha, hk, ok]

theorem kilnAdmitSet_waits : WaitsAt 0x03 0x20 .kilnAdmitSet (fun c s => argsOnly c [(32, 0, 3), (34, 0, 16)] && decide (1 ≤ argBits c 32 0 3 ∧ argBits c 32 0 3 ≤ 4) && decide (16 ≤ argU c 34 2 ∧ argU c 34 2 ≤ 4096) &&
      (judge c { unit := 0x03, obj := 0x100 } (.value (argBits c 32 0 3 + 8 * argU c 34 2)) s).1)
    (fun oid c s => let t := (judge c { unit := 0x03, obj := 0x100 } (.value (argBits c 32 0 3 + 8 * argU c 34 2)) s).2
      { t with cln := { t.cln with staged := t.cln.staged ++ [{ oid := oid, cmd := c, done := {}, change := .kilnAdmit (argBits c 32 0 3) (argU c 34 2) }] } }) := by
  refine waits_of (fun _ _ => rfl) ?_
  intro _ c s h
  simp only [Bool.and_eq_true, decide_eq_true_eq] at h
  obtain ⟨⟨⟨ha, hslots⟩, hlimit⟩, hj⟩ := h
  dsimp only
  rw [judge_applied hj]
  simp [ha, Nat.not_lt.mpr hslots.1, Nat.not_lt.mpr hslots.2, Nat.not_lt.mpr hlimit.1, Nat.not_lt.mpr hlimit.2, stage]

theorem kilnStatus_ends : EndsAt 0x03 0x21 .kilnStatus (fun c _ => argsOnly c [])
    (fun _ s => { r0 := (s.kln.items.filter (fun e => e.2.placed.isSome)).length % 65536 + s.kln.backlog.length % 65536 * 2 ^ 16 + (s.kln.backlog.filter (fun k => match tblGet? s.kln.items k with | none => false | some t => !itemResident s t)).length % 65536 * 2 ^ 32 + b2n (decide (s.kln.backlogLimit ≤ s.kln.backlog.length)) * 2 ^ 48 + s.kln.itemSlots * 2 ^ 49, r1 := s.kln.commands + s.kln.retried * 2 ^ 32 + s.kln.nanCommands * 2 ^ 48 }) (fun _ s => s) := by
  refine ends_of (fun _ _ => rfl) ?_
  intro _ c s ha
  dsimp only
  rw [ha]
  rfl

/-! Formats (R158, R161). -/

theorem sheafFormat_ends : EndsAt 0x04 0x01 .sheafFormat (fun c s => argsOnly c [(32, 0, 12)] && bufferCheck c s == none && c.inLen == formatLen (inU c 0 1 % 8) && formatOk c.input && (match fmt? s (argBits c 32 0 12) with | none => true | some f => mayName s c f.ctx && !formatUsed s (argBits c 32 0 12)) &&
      (judge c { unit := 0x04, obj := argBits c 32 0 12 } (.value (1 + leNat c.input)) s).1)
    (fun _ _ => {}) (fun c s => let t := (judge c { unit := 0x04, obj := argBits c 32 0 12 } (.value (1 + leNat c.input)) s).2
      { t with kln := { t.kln with formats := tblSet t.kln.formats (argBits c 32 0 12) (formatOf (match fmt? s (argBits c 32 0 12) with | none => cmdCtx t c | some f => f.ctx) c.input) } }) := by
  refine ends_of (fun _ _ => rfl) ?_
  intro _ c s h
  simp only [Bool.and_eq_true, beq_iff_eq] at h
  obtain ⟨⟨⟨⟨⟨ha, hb⟩, hlen⟩, hok⟩, hheld⟩, hj⟩ := h
  have hnone : formatHeld c (argBits c 32 0 12) s = none := formatHeld_none fun f hf => by simpa [hf] using hheld
  dsimp only
  rw [hb, hnone, judge_applied hj]
  dsimp only
  rw [fmt?_judge]
  cases fmt? s (argBits c 32 0 12) <;> simp [ha, hlen, hok, ok]

theorem sheafFormatDrop_ends (f : Format) : EndsAt 0x04 0x02 .sheafFormatDrop (fun c s => argsOnly c [(32, 0, 12)] && fmt? s (argBits c 32 0 12) == some f && mayName s c f.ctx && !formatUsed s (argBits c 32 0 12) &&
      (judge c { unit := 0x04, obj := argBits c 32 0 12 } (.value 0) s).1)
    (fun _ _ => {}) (fun c s => let t := (judge c { unit := 0x04, obj := argBits c 32 0 12 } (.value 0) s).2
      { t with kln := { t.kln with formats := tblDel t.kln.formats (argBits c 32 0 12) } }) := by
  refine ends_of (fun _ _ => rfl) ?_
  intro _ c s h
  simp only [Bool.and_eq_true, Bool.not_eq_true', beq_iff_eq] at h
  obtain ⟨⟨⟨⟨ha, hf⟩, hname⟩, hused⟩, hj⟩ := h
  have hnone : formatHeld c (argBits c 32 0 12) s = none := formatHeld_none fun y hy => by
    cases hf.symm.trans hy
    exact ⟨hname, hused⟩
  dsimp only
  rw [hnone, judge_applied hj]
  simp [ha, hf, ok]

/-! SHEAF.READ (R186). -/

/-- A body that can be read is not LOST (R221). -/
theorem ne_lost_of_readable {b : Body} (h : readable b = true) : b.state ≠ .lost := by
  intro hl
  simp [readable, hl] at h

/-- The space that a SHEAF.READ asks for: the body, and its escape list where it has one. -/
theorem readSpace_eq (n : Nat) (f : Format) :
    (if n == 0 then (layout f).size else roundUp (layout f).size 64) + roundUp (if n == 0 then 0 else 512 + 2 * n) 64 =
      if n == 0 then (layout f).size else roundUp (layout f).size 64 + roundUp (512 + 2 * n) 64 := by
  split
  · simp [roundUp]
  · rfl

theorem sheafRead_ends (x : Seq) (e : Entry) (b : Body) (f : Format) : EndsThen settleWork 0x04 0x20 .sheafRead
    (fun c s => argsOnly c [(32, 0, 32), (36, 0, 12), (38, 0, 8), (44, 0, 32)] ∧ (∀ h ∈ s.tir.held, h.seq ≠ argU c 32 4) ∧ getSeq? s (argU c 32 4) = some x ∧ argBits c 36 0 12 < x.layers ∧ argU c 38 1 < x.groups ∧ mayName s c x.ctx ∧
      tblGet? (entriesOf x (argBits c 36 0 12) (argU c 38 1)) (argU c 44 4) = some e ∧ getBody? s e.body = some b ∧ fmt? s b.fmt = some f ∧ b.prot = false ∧ bufferCheck c s = none ∧ hasLoss s (argU c 32 4) = false ∧ bodiesDenied [e.body] s = none ∧
      readable b = true ∧ (if b.escCount == 0 then (layout f).size else roundUp (layout f).size 64 + roundUp (512 + 2 * b.escCount) 64) ≤ c.outLen ∧ bodyPoisoned (useBody e.body s) f b = false)
    (fun _ s => { r0 := (layout f).size + e.tokens * 2 ^ 32, r1 := b.escCount, output := (emberRead (useBody e.body s) b.eda (layout f).size).1 ++ zeros ((if b.escCount == 0 then (layout f).size else roundUp (layout f).size 64) - (layout f).size) ++ readEsc (useBody e.body s) b, space := (if b.escCount == 0 then (layout f).size else roundUp (layout f).size 64 + roundUp (512 + 2 * b.escCount) 64) })
    (fun _ s => useBody e.body s) := by
  refine ends_of (fun _ _ => rfl) ?_
  rintro oid c s ⟨ha, hh, hx, hl, hg, hname, he, hb, hf, hprot, hbuf, hloss, hd, hr, hspace, hp⟩
  have hlost : (b.state == .lost) = false := beq_false_of_ne (ne_lost_of_readable hr)
  rw [← readSpace_eq] at hspace ⊢
  unfold readBody
  simp only [ha, mustWait_read hh oid, hx, Nat.not_le.mpr hl, Nat.not_le.mpr hg, hname, he, hb, hf, hprot, hbuf, hloss, hlost, hd, hr, if_neg (Nat.not_lt.mpr hspace), hp]
  rfl

/-- Settles O29: each command ends or waits as its lemma says. -/
theorem kilnSheafCommandsComplete : Obligations.KilnSheafCommandsComplete :=
  ⟨kilnAttend_waits_host, kilnAttend_waits_gleaner, kilnRopeSet_ends, kilnRopeClear_ends, kilnAdmitSet_waits, kilnStatus_ends, sheafFormat_ends, sheafFormatDrop_ends, sheafRead_ends⟩

/-! Gleaner's own steps (R135, R305, R309-R311, R315). -/

section GleanerSteps

variable {k swath list : Nat} {x : GSearch}

/-- A visit that is due serves a batch of the queries that wait for the list, and those that made their last visit are counted as served (R310, R316). -/
theorem exec_listVisitStart_due (hd : visitDue s swath list = true) (hw : listWaiting s swath list ≠ []) :
    exec (.listVisitStart swath list) s = .next (let t : State := { s with gln := { s.gln with searches := (visitBatch s.now swath list s.gln.searches).2, screenEnd := max s.gln.screenEnd s.now + screenTime s swath list (min 256 (listWaiting s swath list).length) } }
      { t with gln := { t.gln with served := (let left := queriesWaiting s - queriesWaiting t
        let old := s.gln.served.filter (fun e => decide (s.now < e.1 + ms))
        if left == 0 then old else (s.now, left) :: old) } }) := by
  change execListVisitStart swath list s = _
  have hstart : ¬ (!visitDue s swath list || (listWaiting s swath list).isEmpty) = true := by simp [hd, hw]
  unfold execListVisitStart
  rw [if_neg hstart]

/-- A search with no visit left ends the GLEAN.SEARCH, or hands its set to the KILN.ATTEND that asked for it (R135, R315). -/
theorem exec_gleanSearchDone_visited (hx : tblGet? s.gln.searches k = some x) (ht : x.todo = []) :
    exec (.gleanSearchDone k) s = .next (let t := freeDropped { s with gln := { s.gln with searches := tblDel s.gln.searches k } }
      if x.attend then settleWork (formItems x.oid t) else finish x.oid x.done t) := by
  change execGleanSearchDone k s = _
  simp only [execGleanSearchDone, hx, ht]
  rfl

/-- The oldest posting of the queue enters a side list that has room (R305). -/
theorem exec_postingDequeue_room {p : Posting} {rest : List Posting} (hq : s.gln.queue = p :: rest) (hroom : sideCount s < 16777216) :
    exec .postingDequeue s = .next (enterPosting p { s with gln := { s.gln with queue := rest } }) := by
  change execPostingDequeue s = _
  simp only [execPostingDequeue, hq, if_pos hroom]

@[simp] theorem entry?_modSwath (k : Nat) (g : Swath → Swath) (q l n i : Nat) : entry? (modSwath k g s) q l n i = entry? s q l n i := rfl

/-- The first STALE item is posted again from its body once the side list has room and no posting waits (R305). -/
theorem exec_staleRepost_room {slot : Nat} {t : GItem} {e : Entry} (hroom : sideCount s < 16777216) (hq : s.gln.queue = []) (hf : firstStale s = some (k, slot, t))
    (he : entry? s t.seq t.layer t.group t.idx = some e) :
    exec .staleRepost s = .next (let u := modSwath k (fun w => { w with items := tblUpd w.items slot (fun e => { e with stale := false }) }) s
      postSheaf t.seq t.layer t.group t.idx (stepTokens u t.seq t.layer e.tokens) none u) := by
  have hpost : ¬ (decide (16777216 ≤ sideCount s) || !s.gln.queue.isEmpty) = true := by simp [Nat.not_le.mpr hroom, hq]
  change execStaleRepost s = _
  simp only [execStaleRepost, if_neg hpost, hf, entry?_modSwath, he]

/-- A merge leaves the side records of a swath in its lists, and superseded versions and retired items are gone (R311). -/
theorem exec_mergeDone_merging {w : Swath} (hw : tblGet? s.gln.swaths k = some w) (hm : w.merging = true) :
    exec (.mergeDone k) s = .next (mergedSwath k (sideOf w)
      (setSwath k { w with items := (w.items.filter (fun e => !e.2.retired)).map (fun e => (e.1, { e.2 with versions := if (queuedOf s k e.2).any (isUsable s) then [] else keptVersions s e.2.versions })), merging := false } s)) := by
  change execMergeDone k s = _
  simp only [execMergeDone, hw, hm]
  rfl

end GleanerSteps

/-- Settles O42: the case lemma of each row where its conditions hold; the end of a search depends on who asked for it. -/
theorem gleanerEventsComplete : Obligations.GleanerEventsComplete := by
  refine ⟨fun _ _ _ hd hw => exec_listVisitStart_due hd hw, fun k x s hx ht ha => ?_, fun k x s hx ht ha => ?_, fun _ _ _ hq hroom => exec_postingDequeue_room hq hroom,
    fun _ _ _ _ _ hroom hq hf he => exec_staleRepost_room hroom hq hf he, fun _ _ _ hw hm => exec_mergeDone_merging hw hm⟩
  · simp only [exec_gleanSearchDone_visited hx ht, ha, Bool.false_eq_true, if_false]
  · simp only [exec_gleanSearchDone_visited hx ht, ha, if_true]

end Sys2Proof.Machine

/-! SUPPORT. The statement of `spec/05_sheaves_and_kv_quantisation.md`: a SHEAF.APPEND with room (R180-R184). -/

namespace Sys2Proof.Machine

variable {s t : State} {c : Cmd}

section Append

variable {q l g n p b : Nat} {x : Seq} {f : Format}

/-- An append waits for none where no held command names its sequence: attends and earlier appends that have started hold up no append (log entry 12). -/
theorem mustWait_append (h : ∀ h ∈ s.tir.held, h.seq ≠ q) (oid : Nat) : mustWait s oid q .append = false := by
  have hheld : s.tir.held.any (fun h => h.seq == q && decide (h.oid < oid) && waitsFor .append (useOf h.unit h.verb)) = false :=
    List.any_eq_false.mpr fun x hx => by simp [h x hx]
  unfold mustWait
  rw [hheld]
  rfl

/-- The new sheaves fit: their positions lie below 2^32 and the table has entries for them (R180, R212). -/
theorem newSheaves_fit {new : List (Nat × Nat × Nat × Nat)} {base : Nat}
    (h : new = [] ∨ (base + 64 * (new.length - 1) ≤ 2 ^ 32 - 64 ∧ tableHolds s new.length = true)) :
    (!new.isEmpty && (decide (2 ^ 32 - 64 < base + 64 * (new.length - 1)) || !tableHolds s new.length)) = false := by
  rcases h with rfl | ⟨hpos, htable⟩
  · rfl
  · simp only [htable, decide_eq_false (Nat.not_lt.mpr hpos), Bool.not_true, Bool.or_false, Bool.and_false]

/-- What an append records when it starts: the command and its extent (R180-R182). -/
def appendOf (c : Cmd) (q l g n : Nat) (x : Seq) (f : Format) : Append :=
  { cmd := c, ctx := x.ctx, seq := q, layer := l, group := g, fmt := f, pos := nextPos x l g, tokens := n, left := (piecesOf (tailPlan x l g) n).length,
    newTail := !(newPieces (tailPlan x l g) n).isEmpty }

/-- The state of an append that has started, from the state in which its sheaves are open: it is recorded, its positions are held back from others until its completion is posted, and its items are formed (R24, R184). -/
def startedAppend (oid : Nat) (c : Cmd) (q l g n : Nat) (x : Seq) (f : Format) (t : State) : State :=
  let ps := piecesOf (tailPlan x l g) n
  appendItems oid x.ctx q l g ps (unhold oid { t with kln := { t.kln with
    appends := tblSet t.kln.appends oid (appendOf c q l g n x f),
    unposted := t.kln.unposted.filter (fun r => isUnposted t r.oid || t.gln.notes.any (fun e => e.2.unposted.contains r.oid)) ++
      ps.map (fun p => { oid := oid, seq := q, layer := l, group := g, idx := p.1, first := p.2.1, stop := p.2.1 + p.2.2.1 }) } })

/-- An append whose sequence, input and expected position are in order comes to the checks for room (R180, R181). -/
theorem appendBody_starts (ha : argsOnly c [(32, 0, 32), (36, 0, 12), (38, 0, 8), (39, 0, 1), (40, 0, 13), (42, 0, 8), (44, 0, 32)] = true)
    (hmin : 1 ≤ argBits c 40 0 13) (hmax : argBits c 40 0 13 ≤ 4096) (hh : ∀ h ∈ s.tir.held, h.seq ≠ argU c 32 4) (hx : getSeq? s (argU c 32 4) = some x)
    (hl : argBits c 36 0 12 < x.layers) (hg : argU c 38 1 < x.groups) (hname : mayName s c x.ctx = true) (hf : fmt? s (x.formats.getD (argBits c 36 0 12) 0) = some f)
    (hlen : argBits c 40 0 13 * (4 * tokenElems f) ≤ c.inLen) (hbuf : bufferCheck c s = none) (hloss : hasLoss s (argU c 32 4) = false)
    (hpos : argU c 44 4 = 0xFFFFFFFF ∨ argU c 44 4 = nextPos x (argBits c 36 0 12) (argU c 38 1)) (oid : Nat) :
    appendBody oid c s = appendStart oid c (argU c 32 4) (argBits c 36 0 12) (argU c 38 1) (argBits c 40 0 13) x f s := by
  have hcount : (argBits c 40 0 13 == 0) = false := beq_false_of_ne (Nat.one_le_iff_ne_zero.mp hmin)
  have hexpect : (argU c 44 4 != 0xFFFFFFFF && argU c 44 4 != nextPos x (argBits c 36 0 12) (argU c 38 1)) = false := by
    rcases hpos with hp | hp <;> simp [hp]
  unfold appendBody
  simp only [ha, hcount, Nat.not_lt.mpr hmax, mustWait_append hh oid, hx, Nat.not_le.mpr hl, Nat.not_le.mpr hg, hname, hf, Nat.not_lt.mpr hlen, hbuf, hloss, hexpect]
  rfl

/-- An append with room, whose tail can be written, whose keys and journal are there and whose tokens are numbers, opens its sheaves and starts (R180-R184, R225). -/
theorem appendStart_waits
    (hroom : newPieces (tailPlan x l g) n = [] ∨
      ((tailPlan x l g).base + 64 * ((newPieces (tailPlan x l g) n).length - 1) ≤ 2 ^ 32 - 64 ∧ tableHolds s (newPieces (tailPlan x l g) n).length = true))
    (hbodies : bodiesDenied (tailBodies (tailPlan x l g)) s = none) (hkey : x.prot = false ∨ keyHeld s x.ctx (·.memKey) = true)
    (hjournal : x.dirtyMark = true ∨ journalDenied s = none) (htok : badToken c f n = none)
    (hshared : ∀ k ∈ tailBodies (tailPlan x l g), ∀ y, getBody? s k = some y → y.refs ≤ 1 ∨ readable y)
    (hopen : (writableTail q l g (tailPlan x l g) (min n (64 - (tailPlan x l g).tok)) s).map
      (openSheaves q l g x (x.formats.getD l 0) f (tailPlan x l g).base (newPieces (tailPlan x l g) n)) = some (.body b t)) (oid : Nat) :
    appendStart oid c q l g n x f s = (.wait, startedAppend oid c q l g n x f t) := by
  have hheld : (x.prot && !keyHeld s x.ctx (·.memKey)) = false := by
    rcases hkey with hk | hk <;> simp [hk]
  have hwritten : (if x.dirtyMark then none else journalDenied s) = none := by
    rcases hjournal with hj | hj <;> simp [hj]
  unfold appendStart
  simp only [newSheaves_fit hroom, hbodies, hheld, hwritten, hopen, htok, Bool.false_eq_true, if_false]
  -- What is left is whether a shared body of the tail has to come back before it is copied (R225).
  refine if_neg ?_
  simp only [Bool.not_eq_true', Bool.not_eq_false, List.isEmpty_iff, List.filter_eq_nil_iff]
  intro k hk
  cases hy : getBody? s k with
  | none => simp
  | some y =>
    rcases hshared k hk y hy with hrefs | hread
    · simp [Nat.not_lt.mpr hrefs]
    · simp [hread]

end Append

/-- Settles O30: the operands and the sequence pass `appendBody`'s checks, and the conditions on room, bodies, key, journal and tokens lead `appendStart` to its last arm. -/
theorem sheafAppendCompletes : Obligations.SheafAppendCompletes := by
  intro x f p b t
  refine waits_of (fun _ _ => rfl) ?_
  rintro oid c s ⟨ha, hmin, hmax, hh, hx, hl, hg, hname, hf, hlen, hbuf, hloss, rfl, hpos, hroom, hbodies, hkey, hjournal, htok, hshared, hopen⟩
  rw [appendBody_starts ha hmin hmax hh hx hl hg hname hf hlen hbuf hloss hpos, appendStart_waits hroom hbodies hkey hjournal htok hshared hopen]
  rfl

end Sys2Proof.Machine

/-! SUPPORT. The statements of `spec/06_ember_memory_and_plough.md`: the invariant of the byte stores and the next state of every command (R189), the address map (R190), stores that read back, and the rows of Ember and of plough operations (R191 to R208, R448). -/

namespace Sys2Proof.Machine

variable {s t : State}

/-! The invariant (R189): a step idles or runs a command, and both keep the byte stores in canonical form. -/

/-- Everything that a step can do. -/
theorem step_cases (h : step s = .next t) : t = idle s ∨ ∃ c rest, exec c { s with pending := rest } = .next t := by
  unfold step at h
  split at h
  · cases h
    exact .inl rfl
  · exact .inr ⟨_, _, h⟩

theorem Keeps.inv (h : Keeps s t) (hs : Inv s) : Inv t := by
  obtain ⟨hm, h0, h1⟩ := hs
  exact ⟨h.mem hm, h.bank0 h0, h.bank1 h1⟩

/-- Settles O4: idling changes no byte store, and a command keeps each in canonical form (`keeps_exec`). -/
theorem stepKeepsInvariant : Obligations.StepKeepsInvariant := by
  intro s t hs h
  obtain rfl | ⟨c, rest, h⟩ := step_cases h
  · exact hs
  · exact (keeps_exec h).inv hs

/-! Every command goes on, and an access past the end of Ember goes on at a place inside it (R189, log entry 25). -/

/-- The meaning of each row is a next state, whatever its operands and the state. -/
theorem exec_isNext (i : Instr) (s : State) : ∃ t, exec i s = .next t := by
  cases i <;> exact ⟨_, rfl⟩

theorem emberBytes_pos (s : State) : 0 < emberBytes s := by
  unfold emberBytes frameSize frameChunks nChans
  split <;> decide

theorem placeOf_inside {eda n : Nat} (h : eda + n ≤ emberBytes s) : placeOf s eda n = eda := if_pos h

/-- The place of an access lies in Ember wherever the access fits into it. -/
theorem placeOf_fits {n : Nat} (eda : Nat) (h : n ≤ emberBytes s) : placeOf s eda n + n ≤ emberBytes s := by
  unfold placeOf
  split
  · assumption
  · have := Nat.mod_lt (Config.pastEnd eda) (by omega : 0 < emberBytes s - n + 1)
    omega

theorem placeOf_placeOf {n : Nat} (eda : Nat) (h : n ≤ emberBytes s) : placeOf s (placeOf s eda n) n = placeOf s eda n :=
  placeOf_inside (placeOf_fits eda h)

theorem exec_emberAccess_placeOf (eda : Nat) (write bad : Bool) {data : List Byte} (reports : List Nat) (h : data.length ≤ emberBytes s) :
    exec (.emberAccess eda write data bad reports) s = exec (.emberAccess (placeOf s eda data.length) write data bad reports) s := by
  change execEmberAccess eda write data bad reports s = execEmberAccess (placeOf s eda data.length) write data bad reports s
  simp only [execEmberAccess, placeOf_placeOf eda h]

theorem exec_emberLineError_placeOf (eda : Nat) (ue scrub : Bool) (s : State) :
    exec (.emberLineError eda ue scrub) s = exec (.emberLineError (placeOf s eda 1) ue scrub) s := by
  change execEmberLineError eda ue scrub s = execEmberLineError (placeOf s eda 1) ue scrub s
  simp only [execEmberLineError, placeOf_placeOf eda (emberBytes_pos s)]

/-- Settles O7: the meaning of every row is a next state, and both Ember rows act at `placeOf`, which is inside Ember and its own place. -/
theorem noCommandStops : Obligations.NoCommandStops := by
  refine ⟨fun i s => ?_, fun eda write bad data reports s _ h => ⟨placeOf_fits eda h, exec_emberAccess_placeOf eda write bad reports h⟩,
    fun eda ue scrub s _ => ⟨placeOf_fits eda (emberBytes_pos s), exec_emberLineError_placeOf eda ue scrub s⟩⟩
  obtain ⟨t, h⟩ := exec_isNext i s
  rw [h]
  rfl

/-! The address map (R190). An EDA is its row, its chunk `q * n + p` within the row's frame, and its byte. -/

section EmberMap

variable {n p q chan bank byte : Nat}

/-- The map of an EDA given by its parts. -/
theorem emberMap_parts (row : Nat) (hq : q < 64) (hp : p < n) (hb : byte < 1024) :
    emberMap n (row * (n * 64 * 1024) + (q * n + p) * 1024 + byte) =
      { chan := (p + 97 * q) % n, bank := q ^^^ ((p + 97 * q) % n % 64), row := row, byte := byte } := by
  have hn : 0 < n := Nat.zero_lt_of_lt hp
  have hc : q * n + p < 64 * n := by
    have := Nat.mul_le_mul_right n hq
    rw [Nat.succ_mul] at this
    omega
  have ho : (q * n + p) * 1024 + byte < n * 64 * 1024 := by omega
  have hoff : (row * (n * 64 * 1024) + (q * n + p) * 1024 + byte) % (n * 64 * 1024) = (q * n + p) * 1024 + byte := by
    rw [Nat.add_assoc, Nat.mul_add_mod_self_right, Nat.mod_eq_of_lt ho]
  have hrow : (row * (n * 64 * 1024) + (q * n + p) * 1024 + byte) / (n * 64 * 1024) = row := by
    rw [Nat.add_assoc, Nat.mul_comm row, Nat.mul_add_div (by omega), Nat.div_eq_of_lt ho, Nat.add_zero]
  have hchunk : ((q * n + p) * 1024 + byte) / 1024 = q * n + p := by omega
  have hbyte : ((q * n + p) * 1024 + byte) % 1024 = byte := by omega
  have hdiv : (q * n + p) / n = q := by
    rw [Nat.mul_comm, Nat.mul_add_div hn, Nat.div_eq_of_lt hp, Nat.add_zero]
  have hmod : (q * n + p) % n = p := by
    rw [Nat.mul_add_mod_self_right, Nat.mod_eq_of_lt hp]
  simp only [emberMap, hoff, hrow, hchunk, hbyte, hdiv, hmod]

/-- Every EDA has such parts. -/
theorem eda_parts (hn : 0 < n) (eda : Nat) : ∃ row q p byte, q < 64 ∧ p < n ∧ byte < 1024 ∧ eda = row * (n * 64 * 1024) + (q * n + p) * 1024 + byte := by
  have ho : eda % (n * 64 * 1024) < n * 64 * 1024 := Nat.mod_lt _ (by omega)
  refine ⟨eda / (n * 64 * 1024), eda % (n * 64 * 1024) / 1024 / n, eda % (n * 64 * 1024) / 1024 % n, eda % (n * 64 * 1024) % 1024,
    (Nat.div_lt_iff_lt_mul hn).mpr (by omega), Nat.mod_lt _ hn, Nat.mod_lt _ (by omega), ?_⟩
  rw [Nat.div_add_mod', Nat.add_assoc, Nat.div_add_mod', Nat.div_add_mod']

/-- Of a channel and its turn `q`, the chunk's place `p` in the turn comes back. -/
theorem turn_of_chan (hq : q ≤ n) (hp : p < n) : ((p + 97 * q) % n + n * 97 - 97 * q) % n = p := by
  rw [Nat.add_sub_assoc (by omega), Nat.mod_add_mod, show p + 97 * q + (n * 97 - 97 * q) = p + n * 97 by omega, Nat.add_mul_mod_self_left, Nat.mod_eq_of_lt hp]

/-- Of the place in a turn, the channel comes back. -/
theorem chan_of_turn (hq : q ≤ n) (hc : chan < n) : ((chan + n * 97 - 97 * q) % n + 97 * q) % n = chan := by
  rw [Nat.mod_add_mod, show chan + n * 97 - 97 * q + 97 * q = chan + n * 97 by omega, Nat.add_mul_mod_self_left, Nat.mod_eq_of_lt hc]

/-- An EDA comes back from its place. -/
theorem rowEda_emberMap (hn : 64 ≤ n) (eda : Nat) : rowEda n (emberMap n eda).chan (emberMap n eda).bank (emberMap n eda).row + (emberMap n eda).byte = eda := by
  obtain ⟨row, q, p, byte, hq, hp, hb, rfl⟩ := eda_parts (by omega : 0 < n) eda
  rw [emberMap_parts row hq hp hb]
  simp only [rowEda, Nat.xor_xor_cancel_right, turn_of_chan (by omega : q ≤ n) hp]

/-- A place comes back from its EDA. -/
theorem emberMap_rowEda (hn : 64 ≤ n) (row : Nat) (hc : chan < n) (hk : bank < 64) (hb : byte < 1024) :
    emberMap n (rowEda n chan bank row + byte) = { chan := chan, bank := bank, row := row, byte := byte } := by
  have hq : bank ^^^ (chan % 64) < 64 := Nat.xor_lt_two_pow (n := 6) hk (Nat.mod_lt _ (by decide))
  simp only [rowEda]
  rw [emberMap_parts row hq (Nat.mod_lt _ (by omega)) hb, chan_of_turn (by omega) hc, Nat.xor_xor_cancel_right]

end EmberMap

/-- Settles O8: the map is read off its definition, and the parts of an EDA (`emberMap_parts`) give both inverses for 64 channels or more. -/
theorem emberMapIsOneToOne : Obligations.EmberMapIsOneToOne := by
  intro n h
  have hn : 64 ≤ n := by omega
  exact ⟨fun eda => by simp only [emberMap, Nat.mul_assoc, Nat.reduceMul], rowEda_emberMap hn,
    fun _ _ row _ hc hk hb => emberMap_rowEda hn row hc hk hb⟩

/-! Accesses to rows without a plough fence (R189, R196, R205). -/

/-- Folding steps that each leave a state as it is leaves it so. -/
theorem foldl_eq_self {α : Type} {f : State → α → State} {l : List α} (h : ∀ x ∈ l, f s x = s) : l.foldl f s = s :=
  List.foldlRecOn l f (motive := (· = s)) rfl (fun _ hb x hx => hb ▸ h x hx)

section Unfenced

variable {row eda : Nat} {bs : List Byte}

theorem fencesAt_eq_nil (h : (getChan s (chanOf s row)).fences = []) : fencesAt s row = [] := by
  simp [fencesAt, h]

/-- In a channel without a fence no step of an operation has to run before an access (R204, R205). -/
theorem settle_unfenced (h : fencesAt s row = []) (ops : List Nat) (write : Bool) : settle ops write row s = s := by
  have hd (k : Nat) : dstIndex s k row = none := by
    unfold dstIndex
    split <;> simp [h]
  have hs (k : Nat) : srcIndices s k row = [] := by
    unfold srcIndices
    split <;> simp [h]
  induction ops generalizing write with
  | nil => rfl
  | cons k older ih => cases write <;> simp [settle, ih, hd, hs]

theorem memBytes_eq (m : List Host.Cell) (a n : Nat) : memBytes m a n = (List.range n).map (fun i => memByte m (a + i)) := by
  refine List.map_congr_left (fun i hi => ?_)
  have hin : a ≤ a + i ∧ a + i < a + n := by
    have := List.mem_range.mp hi
    omega
  unfold memByte tblGetD
  rw [tblGet?_filter (fun k => decide (a ≤ k ∧ k < a + n)), if_pos (by simpa using hin)]

/-- The bytes written read back. -/
theorem memBytes_memPut (m : List Host.Cell) (a : Nat) (bs : List Byte) : memBytes (memPut m a bs) a bs.length = bs := by
  rw [memBytes_eq]
  refine List.ext_getElem (by simp) (fun i hi hi' => ?_)
  simp [memByte_memPut, hi']

/-- A write changes poison markers, and no byte, where it marks its lines (R192). -/
theorem foldl_setPoison {f : State → Nat → State} (hf : ∀ s l, ∃ p, f s l = { s with emb := { s.emb with poison := p } }) (l : List Nat) (s : State) :
    ∃ p, l.foldl f s = { s with emb := { s.emb with poison := p } } := by
  induction l generalizing s with
  | nil => exact ⟨_, rfl⟩
  | cons x l ih =>
    obtain ⟨p, hp⟩ := hf s x
    rw [List.foldl_cons, hp]
    exact ih _

/-- Where no channel that it touches has a fence or is out of service, a write stores its bytes and changes poison markers at most. -/
theorem emberWriteP_unfenced (bad : Bool) (hf : ∀ r ∈ rowsOf eda bs.length, fencesAt s r = []) (ho : ∀ r ∈ rowsOf eda bs.length, chanOut s (chanOf s r) = false) :
    ∃ p, emberWriteP eda bs bad s = { s with emb := { s.emb with mem := memPut s.emb.mem eda bs, poison := p } } := by
  have hset : (rowsOf eda bs.length).foldl (fun s r => settleWrite r s) s = s := foldl_eq_self (fun r hr => settle_unfenced (hf r hr) _ _)
  have hmask : maskOut s eda bs = bs := if_pos (List.all_eq_true.mpr (fun r hr => by simp [ho r hr]))
  unfold emberWriteP
  rw [hset]
  dsimp only
  rw [hmask]
  refine foldl_setPoison (fun t l => ?_) _ _
  dsimp only
  split
  · exact ⟨_, rfl⟩
  · split
    · exact ⟨_, rfl⟩
    · split <;> exact ⟨_, rfl⟩

/-- A read of rows without a fence delivers what the store holds. -/
theorem emberRead_unfenced {n : Nat} (hf : ∀ r ∈ rowsOf eda n, fencesAt s r = []) : (emberRead s eda n).1 = memBytes s.emb.mem eda n := by
  unfold emberRead
  rw [foldl_eq_self (fun r hr => settle_unfenced (hf r hr) _ _)]

end Unfenced

/-- Settles O9: without a fence nothing has to run before the store or the read, so that the byte store reads as `memByte_memPut` says. -/
theorem emberStoreReadsBack : Obligations.EmberStoreReadsBack := by
  intro eda bs bad s h
  have hf : ∀ r ∈ rowsOf eda bs.length, fencesAt s r = [] := fun r hr => fencesAt_eq_nil (h r hr).2
  obtain ⟨p, hp⟩ := emberWriteP_unfenced bad hf (fun r hr => by simp [chanOut, (h r hr).1])
  rw [hp]
  refine ⟨memByte_memPut s.emb.mem eda bs, ?_⟩
  refine (emberRead_unfenced ?_).trans (memBytes_memPut s.emb.mem eda bs)
  -- Neither the fences nor the map from rows to channels depend on bytes and markers.
  exact hf

/-! Accesses, line errors, scrubbing and repairs (R189, R191-R196, R205). -/

/-- The parts of the state that say whether an EDA is coherent, and which spark points are armed. -/
def accessParts (s : State) : Trn × Tir × Tbl Arm := (s.trn, s.tir, s.hlt.arms)

theorem coherentAt_of_accessParts (h : accessParts t = accessParts s) (eda : Nat) : coherentAt t eda = coherentAt s eda := by
  simp only [accessParts, Prod.mk.injEq] at h
  obtain ⟨htrn, htir, -⟩ := h
  simp only [coherentAt, htrn, htir]

theorem arms_of_accessParts (h : accessParts t = accessParts s) : t.hlt.arms = s.hlt.arms := congrArg (·.2.2) h

theorem accessParts_foldl {α : Type} {f : State → α → State} (h : ∀ s x, accessParts (f s x) = accessParts s) (l : List α) (s : State) :
    accessParts (l.foldl f s) = accessParts s :=
  List.foldlRecOn l f (motive := fun t => accessParts t = accessParts s) rfl (fun t ht x _ => (h t x).trans ht)

/-- Counting waits (R209) changes no more than the channels. -/
theorem accessParts_countWaits (write : Bool) (eda n : Nat) (s : State) : accessParts (countWaits write eda n s) = accessParts s :=
  accessParts_foldl (fun _ _ => by split <;> rfl) _ _

/-- Counting on-die corrections (R209, R472) changes no more than the channels and the tally. -/
theorem accessParts_dieReports (eda n : Nat) (lines : List Nat) (s : State) : accessParts (dieReports eda n lines s) = accessParts s :=
  accessParts_foldl (fun _ _ => by split <;> rfl) _ _

/-- A line read makes no spark point fire while none is armed (R468). -/
theorem lineSparks_unarmed (h : s.hlt.arms = []) (eda : Nat) : lineSparks eda s = s := by
  simp [lineSparks, sparkCheck_unarmed h]

section Access

variable {eda : Nat} {data : List Byte}

/-- The state in which an access acts on the bytes: its waits and the corrections that the stack reports are counted. -/
def countedAccess (eda : Nat) (write : Bool) (n : Nat) (reports : List Nat) (s : State) : State :=
  dieReports eda n reports (countWaits write eda n s)

theorem accessParts_countedAccess (write : Bool) (n : Nat) (reports : List Nat) : accessParts (countedAccess eda write n reports s) = accessParts s :=
  (accessParts_dieReports _ _ _ _).trans (accessParts_countWaits _ _ _ _)

/-- A write outside coherent windows stores its bytes. -/
theorem serveAccess_write (bad : Bool) (reports : List Nat) (hc : coherentAt s eda = none) :
    serveAccess eda true data bad reports s = settleWork (emberWriteP eda data bad (countedAccess eda true data.length reports s)) := by
  have hc' := (coherentAt_of_accessParts (accessParts_countedAccess (s := s) (eda := eda) true data.length reports) eda).trans hc
  unfold countedAccess at *
  simp only [serveAccess, if_true, hc']

/-- A read outside coherent windows with no spark point armed counts and changes nothing beside. -/
theorem serveAccess_read (bad : Bool) (reports : List Nat) (hc : coherentAt s eda = none) (ha : s.hlt.arms = []) :
    serveAccess eda false data bad reports s = settleWork (countedAccess eda false data.length reports s) := by
  have hk := accessParts_countedAccess (s := s) (eda := eda) false data.length reports
  have hc' := (coherentAt_of_accessParts hk eda).trans hc
  have ha' := (arms_of_accessParts hk).trans ha
  have hread : (linesOf eda data.length).foldl (fun s l => if chanOut s (chanOf s (64 * l)) then s else lineSparks (64 * l) s) (countedAccess eda false data.length reports s) =
      countedAccess eda false data.length reports s := foldl_eq_self (fun l _ => by rw [lineSparks_unarmed ha', ite_self])
  unfold countedAccess at *
  simp only [serveAccess, Bool.false_eq_true, if_false, hread, hc']

/-- An access inside Ember that need not wait is served (R194, R196). -/
theorem exec_emberAccess_served (write bad : Bool) (reports : List Nat) (hd : data ≠ []) (hi : eda + data.length ≤ emberBytes s)
    (hw : (rowsOf eda data.length).any (accessWaits s) = false) :
    exec (.emberAccess eda write data bad reports) s = .next (serveAccess eda write data bad reports s) := by
  change execEmberAccess eda write data bad reports s = _
  simp [execEmberAccess, placeOf_inside hi, hd, hw]

/-- A line error inside Ember, in a channel that is not out of service, is corrected and counted or loses the line (R192). -/
theorem exec_emberLineError_unarmed (ue scrub : Bool) (hi : eda < emberBytes s) (ho : chanOut s (chanOf s eda) = false) (ha : s.hlt.arms = []) :
    exec (.emberLineError eda ue scrub) s = .next (settleWork (if ue then lineLost (eda / 64 * 64) scrub false s else lineCorrected eda false s)) := by
  change execEmberLineError eda ue scrub s = _
  simp [execEmberLineError, placeOf_inside (n := 1) (Nat.succ_le_of_lt hi), ho, sparkCheck_unarmed ha]

end Access

section Scrub

variable {m i row : Nat}

/-- The row that the scrubber reads next in a channel, as frame × 64 + bank (R193). -/
def scrubRow (s : State) (m : Nat) : Nat := (getChan s m).frameNow * 64 + (getChan s m).bankNow

/-- The first EDA of that row. -/
def scrubEda (s : State) (m : Nat) : Nat := rowEda (nChans s) m (getChan s m).bankNow (getChan s m).frameNow

/-- A corrected error of the scrubbed row: the row is noted, and is repaired when the pass before found one too and its bank has a spare (R194). -/
def noteScrubbed (s : State) (m : Nat) (c : Chan) : Chan :=
  { c with ceRows := setAdd c.ceRows (scrubRow s m),
           repairing := if (getChan s m).ceRowsLast.contains (scrubRow s m) && bankSpare m c (scrubRow s m) then setAdd c.repairing (scrubRow s m) else c.repairing }

/-- A row in which the pass before found an error too is repaired wherever its bank has a spare (R194). -/
theorem noteScrubbed_again (h : (getChan s m).ceRowsLast.contains (scrubRow s m) = true) :
    noteScrubbed s m = fun c => { c with ceRows := setAdd c.ceRows (scrubRow s m), repairing := if bankSpare m c (scrubRow s m) then setAdd c.repairing (scrubRow s m) else c.repairing } := by
  funext c
  simp only [noteScrubbed, h, Bool.true_and]

/-- In a channel in SERVICE, a row that is not being repaired and has no fence is read: its corrected lines are counted and the row noted, then the scrubber goes on (R193, R194). -/
theorem exec_scrubStep_read (corrected : List Nat) (hm : m < nChans s) (hs : (getChan s m).state = .service) (hr : (getChan s m).repairing.contains (scrubRow s m) = false)
    (hf : fencesAt s (scrubEda s m) = []) :
    exec (.scrubStep m corrected []) s =
      .next (let t := ((List.range 16).filter corrected.contains).foldl (fun t i => lineCorrected (scrubEda s m + 64 * i) false t) s
        settleWork (scrubNext m (if (List.range 16).any corrected.contains then modChan m (noteScrubbed s m) t else t))) := by
  change execScrubStep m corrected [] s = _
  have hread : ¬ (decide (nChans s ≤ m) || ((getChan s m).state != .service && (getChan s m).state != .restricted) || (getChan s m).repairing.contains (scrubRow s m)) = true := by
    simp [Nat.not_le.mpr hm, hs, -List.contains_eq_mem, hr]
  unfold scrubRow scrubEda at *
  simp only [execScrubStep, if_neg hread, hf, List.foldl_filter, List.any_nil, List.contains_nil, Bool.not_false, Bool.and_true, Bool.false_eq_true, if_false, List.foldl_fixed]
  rfl

/-- A row without errors is read. -/
theorem exec_scrubStep_clean (hm : m < nChans s) (hs : (getChan s m).state = .service) (hr : (getChan s m).repairing.contains (scrubRow s m) = false)
    (hf : fencesAt s (scrubEda s m) = []) : exec (.scrubStep m [] []) s = .next (settleWork (scrubNext m s)) :=
  exec_scrubStep_read [] hm hs hr hf

theorem range16_filter_single : ∀ i < 16, (List.range 16).filter [i].contains = [i] ∧ (List.range 16).any [i].contains = true := by decide

/-- A row with one corrected line is read. -/
theorem exec_scrubStep_single (hm : m < nChans s) (hi : i < 16) (hs : (getChan s m).state = .service) (hr : (getChan s m).repairing.contains (scrubRow s m) = false)
    (hf : fencesAt s (scrubEda s m) = []) :
    exec (.scrubStep m [i] []) s = .next (settleWork (scrubNext m (modChan m (noteScrubbed s m) (lineCorrected (scrubEda s m + 64 * i) false s)))) := by
  obtain ⟨hfilter, hany⟩ := range16_filter_single i hi
  rw [exec_scrubStep_read [i] hm hs hr hf, hfilter, hany]
  rfl

/-- A repair that is under way is done: the row lies in a spare from then on, and is counted (R194). -/
theorem exec_softRepairDone_repairing (h : (getChan s m).repairing.contains row = true) :
    exec (.softRepairDone m row) s =
      .next (strainAdd .channel m 2 1 (tallyAdd .channel m 4 1 (setChan m { getChan s m with
        repairing := setDel (getChan s m).repairing row, repaired := setAdd (getChan s m).repaired row, spareRows := (getChan s m).spareRows - 1, pprDone := true,
        ceRows := setDel (getChan s m).ceRows row, ceRowsLast := setDel (getChan s m).ceRowsLast row } s))) := by
  change execSoftRepairDone m row s = _
  simp only [execSoftRepairDone, h]
  rfl

end Scrub

/-- Settles O32: the case lemma of each row where its conditions hold; a row that the pass before found too is noted for repair wherever a spare is left. -/
theorem emberRowsComplete : Obligations.EmberRowsComplete := by
  refine ⟨fun eda data bad reports s hd hi hw hc => ?_, fun eda data bad reports s hd hi hw hc ha => ?_,
    fun eda scrub s hi ho ha => ⟨exec_emberLineError_unarmed false scrub hi ho ha, exec_emberLineError_unarmed true scrub hi ho ha⟩,
    fun m s hm hs hr hf => exec_scrubStep_clean hm hs hr hf, fun m i s hm hi hs hr hf hl => ?_, fun m row s h => exec_softRepairDone_repairing h⟩
  · rw [exec_emberAccess_served true bad reports hd hi hw, serveAccess_write bad reports hc]
    rfl
  · rw [exec_emberAccess_served false bad reports hd hi hw, serveAccess_read bad reports hc ha]
    rfl
  · rw [exec_scrubStep_single hm hi hs hr hf, noteScrubbed_again hl]
    rfl

/-! Plough operations (R197-R201, R204-R208, R448). -/

section PloughCommands

variable {oid verb d a b n op : Nat} {c : Cmd} {k : PloughKind} {srcs : List Nat}

/-- The first frames of the sources that a command reads in frame mode. -/
def frameSources (k : PloughKind) (c : Cmd) : List Nat :=
  match k with
  | .fill _ => []
  | .copy => [argBits c 50 0 15]
  | .logic _ => [argBits c 50 0 15, argU c 40 8]

/-- Whether every source lies in its frame where the destination lies in its own (R199). -/
def congruentTo (s : State) (d : Nat) (srcs : List Nat) : Bool := srcs.all (fun a => a % frameSize s == d % frameSize s)

/-- A span operation as a command gives it. -/
def spanPlough (k : PloughKind) (d : Nat) (srcs : List Nat) (c : Cmd) (s : State) : Plough :=
  { oid := none, kind := k, frames := false, dst := d, srcA := srcs.getD 0 0, srcB := srcs.getD 1 0, count := argU c 36 4, chans := spanChans s (d :: srcs) (argU c 36 4) }

/-- A frame operation as a command gives it. -/
def framePlough (k : PloughKind) (c : Cmd) (s : State) : Plough :=
  { oid := none, kind := k, frames := true, dst := argBits c 48 0 15, srcA := (frameSources k c).getD 0 0, srcB := (frameSources k c).getD 1 0, count := argU c 36 4, chans := plotChans s c }

/-- A span command that passes the checks of R199, and that R448 and R451 do not deny, is accepted where there is room. -/
theorem ploughBody_span (ha : ploughArgsOk k c = true) (hk : ploughKind c verb = k) (hm : argBits c 32 0 1 = 0) (hs : ploughSpans s k c = .ok (d :: srcs))
    (hap : ploughApart k d srcs (1024 * argU c 36 4) = true) (hc : congruentTo s d srcs = true ∨ k = .copy ∧ argBits c 32 1 1 = 1)
    (hd : ploughDenied s k c (congruentTo s d srcs) = false) (hr : s.emb.ploughs.length < 64) (oid : Nat) :
    ploughBody verb oid c s = (.wait, acceptPlough oid (spanPlough k d srcs c s) s) := by
  subst hk
  unfold congruentTo at *
  simp only [ploughBody, ha, hm, hs, hap, hd, Nat.not_le.mpr hr]
  rcases hc with hc | ⟨hk, hc⟩
  · simp [hc]
    rfl
  · simp [hk, hc]
    rfl

/-- A frame command on a secure channel that passes the static checks is accepted where a channel is in service and there is room (R198, R199, R208). -/
theorem ploughBody_frames (ha : ploughArgsOk k c = true) (hk : ploughKind c verb = k) (hm : argBits c 32 0 1 = 1) (hsec : isSecure c = true)
    (hap : ploughApart k (argBits c 48 0 15) (frameSources k c) (argU c 36 4) = true) (ho : (plotChans s c).all (chanOut s) = false) (hr : s.emb.ploughs.length < 64) (oid : Nat) :
    ploughBody verb oid c s = (.wait, acceptPlough oid (framePlough k c s) s) := by
  -- The kind says which sources there are; no check depends on it otherwise.
  cases k <;>
  · simp only [frameSources] at hap
    simp only [ploughBody, hk, ha, hm, hsec, hap, ho, Nat.not_le.mpr hr]
    rfl

/-- A copy's spans lie apart where they do not overlap (R199). -/
theorem ploughApart_copy (h : overlap d a n = false) : ploughApart .copy d [a] n = true := by
  simp [ploughApart, h]

/-- A logic operation's spans lie apart where each source is the destination itself or does not overlap it (R199). -/
theorem ploughApart_logic (ha : a = d ∨ overlap d a n = false) (hb : b = d ∨ overlap d b n = false) : ploughApart (.logic op) d [a, b] n = true := by
  simp only [ploughApart, List.all_cons, List.all_nil, Bool.and_true, Bool.and_eq_true, Bool.or_eq_true, Bool.not_eq_true', beq_iff_eq]
  exact ⟨ha.symm, hb.symm⟩

theorem congruentTo_nil : congruentTo s d [] = true := rfl

theorem congruentTo_single : congruentTo s d [a] = (a % frameSize s == d % frameSize s) := Bool.and_true _

theorem congruentTo_pair (ha : a % frameSize s = d % frameSize s) (hb : b % frameSize s = d % frameSize s) : congruentTo s d [a, b] = true := by
  simp [congruentTo, ha, hb]

/-! Each PLOUGH command where it is accepted or denied. -/

theorem ploughFill_waits_span (d : Nat) : WaitsAt 0x05 0x01 .ploughFill (fun c s => ploughArgsOk (.fill (argU c 56 8)) c = true ∧ argBits c 32 0 1 = 0 ∧
      ploughSpans s (.fill (argU c 56 8)) c = .ok [d] ∧ ploughDenied s (.fill (argU c 56 8)) c true = false ∧ s.emb.ploughs.length < 64)
    (fun oid c s => acceptPlough oid (spanPlough (.fill (argU c 56 8)) d [] c s) s) := by
  refine waits_of (fun _ _ => rfl) ?_
  rintro oid c s ⟨ha, hm, hs, hd, hr⟩
  exact ploughBody_span (hk := rfl) ha hm hs rfl (.inl rfl) (congruentTo_nil ▸ hd) hr oid

theorem ploughCopy_waits_span (d a : Nat) : WaitsAt 0x05 0x02 .ploughCopy (fun c s => ploughArgsOk .copy c = true ∧ argBits c 32 0 1 = 0 ∧ ploughSpans s .copy c = .ok [d, a] ∧
      overlap d a (1024 * argU c 36 4) = false ∧ (argBits c 32 1 1 = 1 ∨ a % frameSize s = d % frameSize s) ∧ ploughDenied s .copy c (a % frameSize s == d % frameSize s) = false ∧
      s.emb.ploughs.length < 64)
    (fun oid c s => acceptPlough oid (spanPlough .copy d [a] c s) s) := by
  refine waits_of (fun _ _ => rfl) ?_
  rintro oid c s ⟨ha, hm, hs, ho, hc, hd, hr⟩
  refine ploughBody_span (hk := rfl) ha hm hs (ploughApart_copy ho) ?_ (congruentTo_single ▸ hd) hr oid
  rcases hc with hc | hc
  · exact .inr ⟨rfl, hc⟩
  · exact .inl (by simp [congruentTo_single, hc])

theorem ploughLogic_waits_span (d a b : Nat) : WaitsAt 0x05 0x03 .ploughLogic (fun c s => ploughArgsOk (.logic (argBits c 33 0 2)) c = true ∧ argBits c 32 0 1 = 0 ∧
      ploughSpans s (.logic (argBits c 33 0 2)) c = .ok [d, a, b] ∧ (a = d ∨ overlap d a (1024 * argU c 36 4) = false) ∧ (b = d ∨ overlap d b (1024 * argU c 36 4) = false) ∧
      a % frameSize s = d % frameSize s ∧ b % frameSize s = d % frameSize s ∧ ploughDenied s (.logic (argBits c 33 0 2)) c true = false ∧ s.emb.ploughs.length < 64)
    (fun oid c s => acceptPlough oid (spanPlough (.logic (argBits c 33 0 2)) d [a, b] c s) s) := by
  refine waits_of (fun _ _ => rfl) ?_
  rintro oid c s ⟨ha, hm, hs, hoa, hob, hca, hcb, hd, hr⟩
  have hc : congruentTo s d [a, b] = true := congruentTo_pair hca hcb
  exact ploughBody_span (hk := rfl) ha hm hs (ploughApart_logic hoa hob) (.inl hc) (by rwa [hc]) hr oid

theorem ploughFill_waits_frames : WaitsAt 0x05 0x01 .ploughFill (fun c s => ploughArgsOk (.fill (argU c 56 8)) c = true ∧ argBits c 32 0 1 = 1 ∧ isSecure c = true ∧
      (plotChans s c).all (chanOut s) = false ∧ s.emb.ploughs.length < 64)
    (fun oid c s => acceptPlough oid (framePlough (.fill (argU c 56 8)) c s) s) := by
  refine waits_of (fun _ _ => rfl) ?_
  rintro oid c s ⟨ha, hm, hsec, hp, hr⟩
  exact ploughBody_frames (hk := rfl) ha hm hsec rfl hp hr oid

theorem ploughCopy_waits_frames : WaitsAt 0x05 0x02 .ploughCopy (fun c s => ploughArgsOk .copy c = true ∧ argBits c 32 0 1 = 1 ∧ isSecure c = true ∧
      overlap (argBits c 48 0 15) (argBits c 50 0 15) (argU c 36 4) = false ∧ (plotChans s c).all (chanOut s) = false ∧ s.emb.ploughs.length < 64)
    (fun oid c s => acceptPlough oid (framePlough .copy c s) s) := by
  refine waits_of (fun _ _ => rfl) ?_
  rintro oid c s ⟨ha, hm, hsec, ho, hp, hr⟩
  exact ploughBody_frames (hk := rfl) ha hm hsec (ploughApart_copy ho) hp hr oid

theorem ploughLogic_waits_frames : WaitsAt 0x05 0x03 .ploughLogic (fun c s => ploughArgsOk (.logic (argBits c 33 0 2)) c = true ∧ argBits c 32 0 1 = 1 ∧ isSecure c = true ∧
      (argBits c 50 0 15 = argBits c 48 0 15 ∨ overlap (argBits c 48 0 15) (argBits c 50 0 15) (argU c 36 4) = false) ∧
      (argU c 40 8 = argBits c 48 0 15 ∨ overlap (argBits c 48 0 15) (argU c 40 8) (argU c 36 4) = false) ∧ (plotChans s c).all (chanOut s) = false ∧ s.emb.ploughs.length < 64)
    (fun oid c s => acceptPlough oid (framePlough (.logic (argBits c 33 0 2)) c s) s) := by
  refine waits_of (fun _ _ => rfl) ?_
  rintro oid c s ⟨ha, hm, hsec, hoa, hob, hp, hr⟩
  exact ploughBody_frames (hk := rfl) ha hm hsec (ploughApart_logic hoa hob) hp hr oid

/-- A fill of a protected span ends with PERMISSION (R448). -/
theorem ploughFill_ends_protected (d : Nat) : EndsAt 0x05 0x01 .ploughFill (fun c s => ploughArgsOk (.fill (argU c 56 8)) c = true ∧ argBits c 32 0 1 = 0 ∧
      ploughSpans s (.fill (argU c 56 8)) c = .ok [d] ∧ protectedAt s c.outAddr = true)
    (fun _ _ => { status := .permission }) (fun _ s => s) := by
  refine ends_of (fun _ _ => rfl) ?_
  rintro oid c s ⟨ha, hm, hs, hp⟩
  have hd : ploughDenied s (.fill (argU c 56 8)) c true = true := by simp [ploughDenied, sourceHandles, hp]
  change ploughBody 0x01 oid c s = _
  simp only [ploughBody, ploughKind, ha, hm, hs, hd, ploughApart, List.all_nil]
  rfl

end PloughCommands

/-! The progress of an operation (R201, R204-R208). -/

section PloughProgress

variable {k m i oid : Nat} {o : Plough}

/-- A channel in SERVICE installs an operation's fence once it has those of all earlier operations that cover it (R204, R206). -/
theorem exec_ploughFenceInstall_due (ho : getPlough? s k = some o) (hc : o.chans.contains m = true) (hf : o.fenced.contains m = false) (hs : (getChan s m).state = .service)
    (hj : ∀ j ∈ ploughOps s, j < k → unfenced s j m = false) :
    exec (.ploughFenceInstall k m) s = .next (setPlough k { o with fenced := setAdd o.fenced m } (modChan m (fun c => { c with fences := c.fences ++ [k] }) s)) := by
  change execPloughFenceInstall k m s = _
  have hout : chanOut s m = false := by simp [chanOut, hs]
  have hfirst : (ploughOps s).any (fun j => decide (j < k) && unfenced s j m) = false := by
    simpa using hj
  simp only [execPloughFenceInstall, installFence, ho, hc, hf, hout, hs, hfirst]
  rfl

/-- In a channel in SERVICE with the fence, the first row that is ready is processed (R201, R203). -/
theorem exec_ploughRowStep_ready (ho : getPlough? s k = some o) (hf : (getChan s m).fences.contains k = true) (hs : (getChan s m).state = .service)
    (hi : (ploughRows s o m).find? (fun i => !rowDone s o m i && indexReady s o k m i) = some i) : exec (.ploughRowStep k m) s = .next (settleStep k m i s) := by
  change execPloughRowStep k m s = _
  simp only [execPloughRowStep, ho, hf, hs, hi]
  rfl

/-- An operation with nothing left to process completes, and its fences are released (R207). -/
theorem exec_ploughComplete_over (ho : getPlough? s k = some o) (hover : ploughOver s o = true) (hid : o.oid = some oid) :
    exec (.ploughComplete k) s =
      .next (finish oid { status := (if o.poisoned != 0 then .memoryError else if !o.skipped.isEmpty then .partially else .success), r0 := o.inBank % 2 ^ 32 + 2 ^ 32 * (o.bus % 2 ^ 32), r1 := o.line % 2 ^ 32 + 2 ^ 32 * (o.skipped.length % 2 ^ 16) + 2 ^ 48 * min 0xFFFF o.poisoned }
        (o.chans.foldl (fun s m => modChan m (fun c => { c with fences := setDel c.fences k }) s) { s with emb := { s.emb with ploughs := tblDel s.emb.ploughs k } })) := by
  change execPloughComplete k s = _
  simp only [execPloughComplete, ho, hover, hid]
  rfl

end PloughProgress

/-- Settles O33: each command is accepted or denied as its lemma says, and each row of an operation's progress is its case lemma. -/
theorem ploughRowsComplete : Obligations.PloughRowsComplete :=
  ⟨ploughFill_waits_span, ploughFill_waits_frames, ploughCopy_waits_span, ploughLogic_waits_span, ploughCopy_waits_frames, ploughLogic_waits_frames, ploughFill_ends_protected,
    fun _ _ _ _ ho hc hf hs hj => exec_ploughFenceInstall_due ho hc hf hs hj, fun _ _ _ _ _ ho hf hs hi => exec_ploughRowStep_ready ho hf hs hi,
    fun _ _ _ _ ho hover hid => exec_ploughComplete_over ho hover hid⟩

end Sys2Proof.Machine

/-! SUPPORT. The statements of `spec/07_tiers_peat_fallow.md`: the commands on sequences, pins and regions (R211 to R219, R223, R247). -/

namespace Sys2Proof.Machine

variable {s : State} {c : Cmd}

/-! What the commands on sequences share. -/

theorem seqOf_ok {x : Seq} (hx : getSeq? s (argU c 32 4) = some x) (hn : mayName s c x.ctx = true) : seqOf c s = .ok (argU c 32 4, x) := by
  simp only [seqOf, hx, if_pos hn]

/-- A command waits for none where no held command names its sequence and no append or KILN.ATTEND that it has to wait for works on it (log entry 12). -/
theorem mustWait_free {q : Nat} {use : SeqUse} (hh : ∀ h ∈ s.tir.held, h.seq ≠ q) (ha : use = .change ∨ use = .fork → ∀ e ∈ s.kln.appends, e.2.seq ≠ q)
    (ht : use = .change → ∀ e ∈ s.kln.attends, e.2.seq ≠ q) (oid : Nat) : mustWait s oid q use = false := by
  have hheld : s.tir.held.any (fun h => h.seq == q && decide (h.oid < oid) && waitsFor use (useOf h.unit h.verb)) = false :=
    List.any_eq_false.mpr fun x hx => by simp [hh x hx]
  have happends : ((use == .change || use == .fork) && s.kln.appends.any (fun e => e.2.seq == q && decide (e.1 < oid))) = false := by
    by_cases hu : use = .change ∨ use = .fork
    · rw [List.any_eq_false.mpr fun e he => by simp [ha hu e he], Bool.and_false]
    · rw [show (use == .change || use == .fork) = false by simpa using hu, Bool.false_and]
  have hattends : (use == .change && s.kln.attends.any (fun e => e.2.seq == q && decide (e.1 < oid))) = false := by
    by_cases hu : use = .change
    · rw [List.any_eq_false.mpr fun e he => by simp [ht hu e he], Bool.and_false]
    · simp [hu]
  simp only [mustWait, hheld, happends, hattends, Bool.or_self]

/-- Nothing waits for a command where none is held (log entry 12). -/
theorem unheld {q : Nat} (h : s.tir.held = []) : ∀ h ∈ s.tir.held, h.seq ≠ q := by
  simp [h]

theorem journalHolds_none {q : Nat} (h : tblGet? s.tir.journal q = none) : journalHolds s q = false := by
  simp only [journalHolds, h]

/-- Judging an order leaves the tier manager as it was (R74-R78). -/
@[simp] theorem judge_tir (c : Cmd) (o : Target) (r : Order) (s : State) : (judge c o r s).2.tir = s.tir := (sameUnits_judge c o r s).tir

/-! TIER.SEQ_CREATE, SEQ_FORK and SEQ_DESTROY (R211-R213, R216, R217). -/

theorem tierSeqCreate_ends : EndsAt 0x06 0x01 .tierSeqCreate (fun c s =>
      let ids := (List.range (argBits c 32 0 13)).map (fun i => inU c (2 * i) 2)
      argsOnly c [(32, 0, 13), (34, 0, 8), (35, 0, 1), (36, 0, 32), (42, 0, 8)] = true ∧ 1 ≤ argBits c 32 0 13 ∧ argBits c 32 0 13 ≤ 4096 ∧ argU c 34 1 ≠ 0 ∧ bufferCheck c s = none ∧ 2 * argBits c 32 0 13 ≤ c.inLen ∧
      (∀ k ∈ ids, ∃ f, fmt? s k = some f ∧ mayName s c f.ctx = true) ∧ s.tir.seqs.length < 1048576 ∧ argBits c 35 0 1 = 0)
    (fun _ s => { r0 := freshSeq s })
    (fun c s => setSeq (freshSeq s) { ctx := cmdCtx s c, layers := argBits c 32 0 13, groups := argU c 34 1, formats := (List.range (argBits c 32 0 13)).map (fun i => inU c (2 * i) 2), prot := ((getCtx? s (cmdCtx s c)).getD {}).protRegions, startPos := argU c 36 4 } { s with tir := { s.tir with nextSeq := (freshSeq s + 1) % (2 ^ 32 - 1) } }) := by
  refine ends_of (fun _ _ => rfl) ?_
  rintro _ c s ⟨ha, hmin, hmax, hg, hb, hlen, hf, hroom, hprot⟩
  have hargs : ¬ (!argsOnly c [(32, 0, 13), (34, 0, 8), (35, 0, 1), (36, 0, 32), (42, 0, 8)] || argBits c 32 0 13 == 0 || decide (4096 < argBits c 32 0 13) || argU c 34 1 == 0) = true := by
    simp [ha, hg, Nat.not_lt.mpr hmax, Nat.one_le_iff_ne_zero.mp hmin]
  have hknown : ¬ ((List.range (argBits c 32 0 13)).map (fun i => inU c (2 * i) 2)).any (fun k => (fmt? s k).isNone) = true := by
    rw [List.any_eq_true]
    rintro ⟨k, hk, hnone⟩
    obtain ⟨f, hfk, -⟩ := hf k hk
    simp [hfk] at hnone
  dsimp only
  rw [if_neg hargs, hb]
  dsimp only
  rw [if_neg (Nat.not_lt.mpr hlen), if_neg hknown, if_neg]
  · rw [if_neg (Nat.not_le.mpr hroom), hprot]
    rfl
  · rw [List.any_eq_true]
    rintro ⟨k, hk, hdenied⟩
    obtain ⟨f, hfk, hname⟩ := hf k hk
    simp [hfk, hname] at hdenied

theorem tierSeqFork_ends (x : Seq) : EndsThen settleWork 0x06 0x02 .tierSeqFork (fun c s => argsOnly c [(32, 0, 32), (36, 0, 32)] = true ∧ getSeq? s (argU c 32 4) = some x ∧ mayName s c x.ctx = true ∧ (∀ h ∈ s.tir.held, h.seq ≠ argU c 32 4) ∧ (∀ e ∈ s.kln.appends, e.2.seq ≠ argU c 32 4) ∧
      x.startPos < argU c 36 4 ∧ (∀ p ∈ lgPairs x, argU c 36 4 ≤ nextPos x p.1 p.2) ∧ s.tir.seqs.length < 1048576 ∧ tableHolds s (allEntries (forkedSeq (argU c 36 4) x)).length = true)
    (fun _ s => { r0 := freshSeq s }) (fun c s => forkSeq s.cln.current (argU c 32 4) (argU c 36 4) x s) := by
  refine ends_current (fun _ _ => rfl) ?_
  rintro c s ⟨ha, hx, hn, hh, hap, hstart, hnext, hroom, htable⟩
  have hpos : ¬ (decide (argU c 36 4 ≤ x.startPos) || (lgPairs x).any (fun p => decide (nextPos x p.1 p.2 < argU c 36 4))) = true := by
    simpa [hstart] using hnext
  unfold forkBody
  simp only [ha, seqOf_ok hx hn, mustWait_free (use := .fork) hh (fun _ => hap) nofun, if_neg hpos, if_neg (Nat.not_le.mpr hroom), htable]
  rfl

theorem tierSeqDestroy_ends (x : Seq) : EndsThen settleWork 0x06 0x03 .tierSeqDestroy (fun c s => argsOnly c [(32, 0, 32)] = true ∧ getSeq? s (argU c 32 4) = some x ∧ mayName s c x.ctx = true ∧ s.tir.held = [] ∧
      (judge c { unit := 0x06, obj := argU c 32 4 } (.content 1) s).1 = true)
    (fun _ _ => {}) (fun c s => destroySeq (argU c 32 4) (judge c { unit := 0x06, obj := argU c 32 4 } (.content 1) s).2) := by
  refine ends_of (fun _ _ => rfl) ?_
  rintro oid c s ⟨ha, hx, hn, hh, hj⟩
  unfold destroyBody
  simp only [ha, seqOf_ok hx hn, mustWait_free (use := .destroy) (unheld hh) nofun nofun]
  rw [judge_applied hj]
  rfl

/-! TIER.SEQ_TRUNCATE at a position that cuts no sheaf (R247). -/

section Truncate

variable {q pos : Nat} {es : List (Nat × Nat × Entry)}

/-- An entry that lies on one side of the position is not cut. -/
theorem isCut_outside {e : Entry} (h : pos ≤ e.basePos ∨ e.basePos + e.tokens ≤ pos) : isCut pos e = false := by
  unfold isCut cutOf
  rcases h with h | h
  · simp [h]
  · by_cases hp : pos ≤ e.basePos <;> simp [hp, Nat.not_lt.mpr h]

/-- Where no entry is cut, no body has to be copied or restored. -/
theorem cutEntries_uncut (h : ∀ e ∈ es, isCut pos e.2.2 = false) (s : State) : cutEntries q pos es s = some s := by
  induction es with
  | nil => rfl
  | cons e es ih =>
    obtain ⟨k, i, e⟩ := e
    obtain ⟨he, hes⟩ := List.forall_mem_cons.mp h
    unfold cutEntries
    cases hc : cutOf pos e with
    | keep => exact ih hes
    | remove => exact ih hes
    | cutTo n => simp [isCut, hc] at he

/-- A truncate that cuts no entry, of a sequence whose journal entries do not change, completes at once (R228, R247). -/
theorem truncateSeq_uncut {x : Seq} (oid : Nat) (hcut : ∀ e ∈ allEntries x, isCut pos e.2.2 = false) (hj : tblGet? (truncateRest oid q pos x s).tir.journal q = none) :
    truncateSeq oid q pos x s = some (.done { r0 := ((getSeq? (truncateRest oid q pos x s) q).elim pos seqNextPos) % 2 ^ 32 }, noteClean [q] (truncateRest oid q pos x s)) := by
  have hany : (allEntries x).any (fun e => isCut pos e.2.2) = false := List.any_eq_false.mpr fun e he => by simp [hcut e he]
  unfold truncateSeq
  simp only [cutEntries_uncut hcut, hany, journalHolds_none hj, Bool.and_false, Bool.false_eq_true, if_false, Bool.or_self]
  cases getSeq? (truncateRest oid q pos x s) q <;> rfl

end Truncate

theorem tierSeqTruncate_ends (x : Seq) : EndsThen settleWork 0x06 0x04 .tierSeqTruncate (fun c s => argsOnly c [(32, 0, 32), (36, 0, 32)] = true ∧ getSeq? s (argU c 32 4) = some x ∧ mayName s c x.ctx = true ∧ s.tir.held = [] ∧
      (∀ e ∈ s.kln.appends, e.2.seq ≠ argU c 32 4) ∧ (∀ e ∈ s.kln.attends, e.2.seq ≠ argU c 32 4) ∧ (judge c { unit := 0x06, obj := argU c 32 4 } (.content 2) s).1 = true ∧
      x.startPos ≤ argU c 36 4 ∧ argU c 36 4 ≤ seqNextPos x ∧ (∀ e ∈ allEntries x, argU c 36 4 ≤ e.2.2.basePos ∨ e.2.2.basePos + e.2.2.tokens ≤ argU c 36 4) ∧
      (∀ e ∈ allEntries x, ∀ b, getBody? s e.2.2.body = some b → b.state ≠ .lost) ∧ tblGet? s.tir.journal (argU c 32 4) = none ∧
      tblGet? (truncateRest s.cln.current (argU c 32 4) (argU c 36 4) x (judge c { unit := 0x06, obj := argU c 32 4 } (.content 2) s).2).tir.journal (argU c 32 4) = none)
    (fun c s => let t := truncateRest s.cln.current (argU c 32 4) (argU c 36 4) x (judge c { unit := 0x06, obj := argU c 32 4 } (.content 2) s).2
      { r0 := ((getSeq? t (argU c 32 4)).elim (argU c 36 4) seqNextPos) % 2 ^ 32 })
    (fun c s => noteClean [argU c 32 4] (truncateRest s.cln.current (argU c 32 4) (argU c 36 4) x (judge c { unit := 0x06, obj := argU c 32 4 } (.content 2) s).2)) := by
  refine ends_current (fun _ _ => rfl) ?_
  rintro c s ⟨ha, hx, hn, hh, hap, hat, hj, hstart, hend, hout, hlost, hjournal, hafter⟩
  have hcut : ∀ e ∈ allEntries x, isCut (argU c 36 4) e.2.2 = false := fun e he => isCut_outside (hout e he)
  have hcuts : (allEntries x).filter (fun e => isCut (argU c 36 4) e.2.2) = [] := List.filter_eq_nil_iff.mpr fun e he => by simp [hcut e he]
  have hrange : ¬ (decide (argU c 36 4 < x.startPos) || decide (seqNextPos x < argU c 36 4)) = true := by
    simp [hstart, hend]
  unfold truncateBody
  simp only [ha, seqOf_ok hx hn, mustWait_free (use := .change) (unheld hh) (fun _ => hap) (fun _ => hat), if_neg hrange, hcuts, journalHolds_none hjournal, cutEntries_uncut hcut,
    Bool.not_true, Bool.false_eq_true, if_false]
  rw [if_neg, judge_applied hj]
  · simp only [truncateSeq_uncut _ hcut hafter]
    rfl
  · rw [List.any_eq_true]
    rintro ⟨b, hb, hgone⟩
    obtain ⟨e, he, rfl⟩ := List.mem_map.mp hb
    cases hy : getBody? s e.2.2.body with
    | none => simp [hy] at hgone
    | some y => simp [hy, hlost e (List.mem_filter.mp he).1 y hy] at hgone

/-! TIER.REMAP and TIER.QUERY (R214, R215). -/

theorem tierRemap_ends (x : Seq) (es : List (Nat × Nat × Entry)) : EndsThen settleWork 0x06 0x05 .tierRemap (fun c s => argsOnly c [(32, 0, 32), (36, 0, 16), (38, 0, 8), (40, 0, 32), (44, 0, 32), (48, 0, 32)] = true ∧ getSeq? s (argU c 32 4) = some x ∧ mayName s c x.ctx = true ∧ s.tir.held = [] ∧
      (∀ e ∈ s.kln.appends, e.2.seq ≠ argU c 32 4) ∧ (∀ e ∈ s.kln.attends, e.2.seq ≠ argU c 32 4) ∧ namedEntries c x true = some es ∧ (judge c { unit := 0x06, obj := argU c 32 4 + 2 ^ 32 } (.value c.args.toNat) s).1 = true ∧
      (∀ e ∈ es, 0 ≤ (e.2.2.basePos : Int) + ofTwos 32 (argU c 48 4) ∧ (e.2.2.basePos : Int) + ofTwos 32 (argU c 48 4) ≤ 2 ^ 32 - 64) ∧ tblGet? s.tir.journal (argU c 32 4) = none ∧
      tblGet? (remapSeq (argU c 32 4) (ofTwos 32 (argU c 48 4)) es (judge c { unit := 0x06, obj := argU c 32 4 + 2 ^ 32 } (.value c.args.toNat) s).2).tir.journal (argU c 32 4) = none)
    (fun _ _ => {}) (fun c s => remapSeq (argU c 32 4) (ofTwos 32 (argU c 48 4)) es (judge c { unit := 0x06, obj := argU c 32 4 + 2 ^ 32 } (.value c.args.toNat) s).2) := by
  refine ends_of (fun _ _ => rfl) ?_
  rintro oid c s ⟨ha, hx, hn, hh, hap, hat, hes, hj, hrange, hjournal, hafter⟩
  have hplaces : ¬ es.any (fun e => decide ((e.2.2.basePos : Int) + ofTwos 32 (argU c 48 4) < 0 ∨ 2 ^ 32 - 64 < (e.2.2.basePos : Int) + ofTwos 32 (argU c 48 4))) = true := by
    rw [List.any_eq_true]
    rintro ⟨e, he, hout⟩
    obtain ⟨hlow, hhigh⟩ := hrange e he
    rcases of_decide_eq_true hout with h | h
    · exact absurd hlow (Int.not_le.mpr h)
    · exact absurd hhigh (Int.not_le.mpr h)
  unfold remapBody remapTarget
  simp only [ha, seqOf_ok hx hn, hes, mustWait_free (use := .change) (unheld hh) (fun _ => hap) (fun _ => hat), Option.getD_some, if_neg hplaces, journalHolds_none hjournal, Bool.and_false]
  rw [judge_applied hj]
  simp only [journalHolds_none hafter, Bool.and_false]
  rfl

theorem tierQuery_ends (x : Seq) : EndsThen settleWork 0x06 0x08 .tierQuery (fun c s => argsOnly c [(32, 0, 32), (36, 0, 16), (38, 0, 8), (40, 0, 32), (44, 0, 32)] = true ∧ getSeq? s (argU c 32 4) = some x ∧ mayName s c x.ctx = true ∧ argU c 36 2 < x.layers ∧ argU c 38 1 < x.groups ∧
      (∀ h ∈ s.tir.held, h.seq ≠ argU c 32 4) ∧ 32 * argU c 44 4 ≤ c.outLen ∧ bufferCheck c s = none)
    (fun c s => { r0 := nextPos x (argU c 36 2) (argU c 38 1) % 2 ^ 32, r1 := (entriesOf x (argU c 36 2) (argU c 38 1)).length, output := ((List.range (argU c 44 4)).map (fun k => sheafRecord s ((argU c 40 4 + k) % 2 ^ 32) (tblGet? (entriesOf x (argU c 36 2) (argU c 38 1)) (argU c 40 4 + k)))).flatten, space := 32 * argU c 44 4 })
    (fun _ s => s) := by
  refine ends_of (fun _ _ => rfl) ?_
  rintro oid c s ⟨ha, hx, hn, hl, hg, hh, hlen, hb⟩
  have hrange : ¬ (decide (x.layers ≤ argU c 36 2) || decide (x.groups ≤ argU c 38 1)) = true := by
    simp [hl, hg]
  unfold queryBody
  simp only [ha, seqOf_ok hx hn, if_neg hrange, mustWait_read hh, if_neg (Nat.not_lt.mpr hlen), hb]
  rfl

/-! TIER.PIN and TIER.UNPIN (R223). -/

theorem sumN_map_zero {α : Type} {l : List α} {f : α → Nat} (h : ∀ x ∈ l, f x = 0) : sumN (l.map f) = 0 := by
  unfold sumN
  induction l with
  | nil => rfl
  | cons x l ih =>
    obtain ⟨hx, hl⟩ := List.forall_mem_cons.mp h
    rw [List.map_cons, List.foldl_cons, hx]
    exact ih hl

/-- Bodies that explicit pins hold already add nothing to what such pins hold, so that one more fits wherever the pins do. -/
theorem tierPin_ends (x : Seq) (es : List (Nat × Nat × Entry)) : EndsThen settleWork 0x06 0x10 .tierPin (fun c s => argsOnly c [(32, 0, 32), (36, 0, 16), (38, 0, 8), (40, 0, 32), (44, 0, 32), (52, 0, 1)] = true ∧ getSeq? s (argU c 32 4) = some x ∧ mayName s c x.ctx = true ∧ namedEntries c x true = some es ∧
      (∀ h ∈ s.tir.held, h.seq ≠ argU c 32 4) ∧ (s.tir.pins.filter (fun p => p.2.ctx == x.ctx)).length < 65536 ∧ argBits c 52 0 1 = 0 ∧ (∀ e ∈ es, ∀ b, getBody? s e.2.2.body = some b → b.explicit ≠ 0) ∧ pinnedHalves s false * 1000 ≤ tierParam s 0x06 * poolTotal s)
    (fun _ s => { r0 := freshPin s }) (fun c s => pinSeq (argU c 32 4) x.ctx ((es.map (fun e => e.2.2.body)).eraseDups) [] s) := by
  refine ends_of (fun _ _ => rfl) ?_
  rintro oid c s ⟨ha, hx, hn, hes, hh, hpins, hfetch, hpinned, hshare⟩
  unfold pinBody
  simp only [ha, seqOf_ok hx hn, hes, mustWait_read hh, if_neg (Nat.not_le.mpr hpins), hfetch]
  rw [sumN_map_zero, Nat.add_zero, if_neg (Nat.not_lt.mpr hshare)]
  · rfl
  · intro b hb
    obtain ⟨e, he, rfl⟩ := List.mem_map.mp (List.mem_eraseDups.mp hb)
    cases hy : getBody? s e.2.2.body with
    | none => rfl
    | some y => exact if_neg (by simpa using hpinned e he y hy)

theorem tierUnpin_ends (p : Pin) : EndsAt 0x06 0x11 .tierUnpin (fun c s => argsOnly c [(32, 0, 32)] = true ∧ tblGet? s.tir.pins (argU c 32 4) = some p ∧ mayName s c p.ctx = true)
    (fun _ _ => {}) (fun c s => dropPin (argU c 32 4) s) := by
  refine ends_of (fun _ _ => rfl) ?_
  rintro _ c s ⟨ha, hp, hn⟩
  dsimp only
  simp only [ha, hp, hn]
  rfl

/-! TIER.REGION_ALLOC and TIER.REGION_FREE (R218, R219). -/

theorem tierRegionAlloc_ends (eda : Nat) : EndsThen settleWork 0x06 0x18 .tierRegionAlloc (fun c s => argsOnly c [(32, 0, 32), (36, 0, 1), (40, 0, 64)] = true ∧ 1 ≤ argU c 32 4 ∧ argU c 32 4 ≤ frameChunks s ∧ argBits c 36 0 1 = 0 ∧ argU c 40 8 = 0 ∧ s.tir.regions.length < 1048576 ∧
      ctxProtects s (cmdCtx s c) = false ∧ findRun s (argU c 32 4) = some eda)
    (fun c s => { r0 := (addRegion { ctx := cmdCtx s c, eda := eda, chunks := argU c 32 4, frames := false, prot := false, lineage := 0 } s).1 * 2 ^ 40 })
    (fun c s => (addRegion { ctx := cmdCtx s c, eda := eda, chunks := argU c 32 4, frames := false, prot := false, lineage := 0 } s).2) := by
  refine ends_of (fun _ _ => rfl) ?_
  rintro oid c s ⟨ha, hmin, hmax, hframes, hnear, hroom, hprot, hplace⟩
  have hargs : ¬ (!argsOnly c [(32, 0, 32), (36, 0, 1), (40, 0, 64)] || argU c 32 4 == 0 || (!(argBits c 36 0 1 == 1) && decide (frameChunks s < argU c 32 4)) ||
      (argBits c 36 0 1 == 1 && (argU c 32 4 % frameChunks s != 0 || decide (32768 * frameChunks s < argU c 32 4)))) = true := by
    simp [ha, hframes, Nat.one_le_iff_ne_zero.mp hmin, hmax]
  unfold regionAllocBody
  dsimp only
  rw [if_neg hargs]
  simp only [hframes, hnear, if_neg (Nat.not_le.mpr hroom), hprot, regionPlace, hplace]
  rfl

theorem tierRegionFree_ends (r : Region) (off : Nat) : EndsAt 0x06 0x19 .tierRegionFree (fun c s => argsOnly c [(40, 0, 64)] = true ∧ resolve s (argU c 40 8) = some (r, off) ∧ r.comp = none ∧ mayName s c r.ctx = true)
    (fun _ _ => {}) (fun c s => freeRegion (bitsOf (argU c 40 8) 40 24) r s) := by
  refine ends_of (fun _ _ => rfl) ?_
  rintro _ c s ⟨ha, hr, hcomp, hn⟩
  dsimp only
  simp only [ha, hr, hcomp, hn]
  rfl

/-- Settles O34: each command ends as its lemma says. -/
theorem tierSequenceCommandsComplete : Obligations.TierSequenceCommandsComplete :=
  ⟨tierSeqCreate_ends, tierSeqFork_ends, tierSeqDestroy_ends, tierSeqTruncate_ends, tierRemap_ends, tierQuery_ends, tierPin_ends, tierUnpin_ends, tierRegionAlloc_ends, tierRegionFree_ends⟩

end Sys2Proof.Machine

/-! SUPPORT. The statements of `spec/07_tiers_peat_fallow.md`: flush, parameters and reports, and the commands of Fallow (R212, R226, R235, R238, R240, R241, R245). -/

namespace Sys2Proof.Machine

variable {s : State} {c : Cmd}

/-! Flush, parameters and reports (R212, R226, R235, R245). -/

theorem getSeq?_of_named {q : Nat} {x : Seq} (h : namedSeq? s q = some x) : getSeq? s q = some x := by
  unfold namedSeq? at h
  split at h
  · cases h
  · exact h

/-- A parameter reads alike before and after the judgement of an order. -/
@[simp] theorem tierParam_judge (c : Cmd) (o : Target) (r : Order) (s : State) : tierParam (judge c o r s).2 = tierParam s := by
  funext p
  rw [tierParam, judge_tir, tierParam]

@[simp] theorem sortBy_nil {α : Type} (lt : α → α → Bool) : sortBy lt [] = [] := rfl

theorem tierFlush_ends_clean (x : Seq) : EndsAt 0x06 0x12 .tierFlush (fun c s => argsOnly c [(32, 0, 32)] = true ∧ argU c 32 4 ≠ 0xFFFFFFFF ∧ namedSeq? s (argU c 32 4) = some x ∧ mayName s c x.ctx = true ∧ s.tir.mounted = true ∧ (∀ e ∈ allEntries x, ∀ b, getBody? s e.2.2.body = some b → b.dirty = false ∨ b.state = .lost))
    (fun _ _ => {}) (fun _ s => s) := by
  refine ends_of (fun _ _ => rfl) ?_
  rintro _ c s ⟨ha, hq, hx, hn, hm, hclean⟩
  dsimp only
  simp only [ha, beq_false_of_ne hq, hx, seqOf_ok (getSeq?_of_named hx) hn, hm, Bool.not_true, Bool.false_eq_true, if_false, Option.isNone_some, List.map_cons, List.map_nil, List.flatten_singleton]
  -- No body of the sequence has to be written.
  refine if_pos (List.isEmpty_iff.mpr (List.filter_eq_nil_iff.mpr fun b hb => ?_))
  obtain ⟨e, he, rfl⟩ := List.mem_map.mp (List.mem_eraseDups.mp hb)
  cases hy : getBody? s e.2.2.body with
  | none => simp
  | some y => rcases hclean e he y hy with h | h <;> simp [h]

theorem tierConfig_ends : EndsAt 0x06 0x20 .tierConfig (fun c s => argsOnly c [(32, 0, 16), (40, 0, 64)] = true ∧ tierRange s (argU c 32 2) (argU c 40 8) (tierParam s) = true ∧ (judge c { unit := 0x06, obj := 2 ^ 33 + argU c 32 2 } (.value (argU c 40 8)) s).1 = true)
    (fun c s => { r0 := tierParam s (argU c 32 2) }) (fun c s => let t := (judge c { unit := 0x06, obj := 2 ^ 33 + argU c 32 2 } (.value (argU c 40 8)) s).2
      { t with tir := { t.tir with params := tblSet t.tir.params (argU c 32 2) (argU c 40 8) } }) := by
  refine ends_of (fun _ _ => rfl) ?_
  rintro _ c s ⟨ha, hr, hj⟩
  dsimp only
  simp only [ha, hr]
  rw [judge_applied hj]
  simp only [tierParam_judge]
  rfl

theorem tierStatus_ends : EndsAt 0x06 0x21 .tierStatus (fun c _ => argsOnly c [] = true)
    (fun _ s => { r0 := poolFree s / 2048 % 2 ^ 32 + pinnedHalves s true / 2048 * 2 ^ 32, r1 := sumN (s.tir.bodies.map (fun e => if e.2.dirty then heldHalves e.2 else 0)) / 2048 + min 0xFFFF ((s.tir.demand.length + s.tir.advisory.length) / 16) * 2 ^ 32 + b2n s.tir.mounted * 2 ^ 48 + b2n s.tir.readOnly * 2 ^ 49 + b2n s.tir.starving * 2 ^ 50 }) (fun _ s => s) := by
  refine ends_of (fun _ _ => rfl) ?_
  intro _ c s ha
  dsimp only
  rw [ha]
  rfl

theorem tierWear_ends : EndsAt 0x06 0x22 .tierWear (fun c _ => argsOnly c [] = true)
    (fun _ s => let day := s.tir.wear.recent.filter (fun e => decide (s.now < e.1 + 86400 * sec))
      { r0 := s.tir.wear.hostBytes / 10 ^ 9 % 2 ^ 48 + lifeUsed s * 2 ^ 48, r1 := min 0xFFFF (sumN (day.map (fun e => e.2.2)) * 100 / sumN (day.map (fun e => e.2.1))) + spareLeft s * 2 ^ 16 + min 0xFFFF s.tir.wear.peMean * 2 ^ 32 + min 0xFFFF s.tir.wear.peMax * 2 ^ 48 }) (fun _ s => s) := by
  refine ends_of (fun _ _ => rfl) ?_
  intro _ c s ha
  dsimp only
  rw [ha]
  rfl

theorem tierLossList_ends_empty : EndsAt 0x06 0x23 .tierLossList (fun c s => argsOnly c [] = true ∧ bufferCheck c s = none ∧ s.tir.losses = []) (fun _ _ => {}) (fun _ s => s) := by
  refine ends_of (fun _ _ => rfl) ?_
  rintro _ c s ⟨ha, hb, hl⟩
  dsimp only
  simp only [ha, hb, hl, List.filter_nil, sortBy_nil, List.length_nil, Nat.mul_zero, if_neg (Nat.not_lt_zero c.outLen)]
  rfl

/-! Lending (R238-R240). -/

theorem tierLend_ends (t : State) : EndsAt 0x06 0x30 .tierLend (fun c s => argsOnly c [(32, 0, 32)] = true ∧ argU c 32 4 ≤ mostAllots s ∧ s.tir.allots.length < argU c 32 4 ∧ addAllots (argU c 32 4 - s.tir.allots.length) s = some t ∧ (judge c { unit := 0x06, obj := 2 ^ 40 } (.value (argU c 32 4)) t).1 = true)
    (fun c _ => let u := (judge c { unit := 0x06, obj := 2 ^ 40 } (.value (argU c 32 4)) t).2
      { r0 := lentCount (withdrawIdle { u with tir := { u.tir with offered := argU c 32 4 } }) })
    (fun c _ => let u := (judge c { unit := 0x06, obj := 2 ^ 40 } (.value (argU c 32 4)) t).2
      withdrawIdle { u with tir := { u.tir with offered := argU c 32 4 } }) := by
  refine ends_of (fun _ _ => rfl) ?_
  rintro _ c s ⟨ha, hmost, hmore, hadd, hj⟩
  have hargs : ¬ (!argsOnly c [(32, 0, 32)] || decide (mostAllots s < argU c 32 4)) = true := by
    simp [ha, hmost]
  have hgrows : (argU c 32 4 - s.tir.allots.length == 0) = false := beq_false_of_ne (Nat.sub_ne_zero_of_lt hmore)
  dsimp only
  simp only [if_neg hargs, hgrows, hadd, Bool.false_eq_true, if_false]
  rw [judge_applied hj]
  rfl

theorem tierReclaim_ends : EndsAt 0x06 0x31 .tierReclaim (fun c s => argsOnly c [(32, 0, 32)] = true ∧ (judge c { unit := 0x06, obj := 2 ^ 41 } (.value (argU c 32 4)) s).1 = true)
    (fun _ _ => {}) (fun c s => let t := (judge c { unit := 0x06, obj := 2 ^ 41 } (.value (argU c 32 4)) s).2
      (toReclaim (argU c 32 4) (sortBy (fun (a b : Nat × Lent) => decide (a.2.granted < b.2.granted)) (t.tir.lent.filter (fun e => e.2.noticeEnd.isNone && e.2.orphanSince.isNone)))).foldl (fun u k => sendNotice k (tierParam u 0x08) u) t) := by
  refine ends_of (fun _ _ => rfl) ?_
  rintro _ c s ⟨ha, hj⟩
  dsimp only
  rw [ha, judge_applied hj]
  rfl

/-! Borrowing (R238, R241). -/

/-- A command that can send comes to what it sends (R344, R396, R440, R451). -/
theorem sending_goes {node rctx tags : Nat} {slot : State → Nat → Option Nat} {go : Nat → Option Nat → State → Answer × State}
    (hroute : cannotSend s (cmdCtx s c) node rctx = false) (hinput : maySendInput s c node (slot s (cmdCtx s c)).isSome = true)
    (hseal : sealStatus s (slot s (cmdCtx s c)) = none) (htags : tags ≤ freeTags s) :
    sending c node rctx tags slot s go = go (cmdCtx s c) (slot s (cmdCtx s c)) s := by
  simp only [sending, hroute, hinput, hseal, Bool.not_true, Bool.false_eq_true, if_false, if_neg (Nat.not_lt.mpr htags)]

theorem tierBorrow_waits : WaitsThen settleWork 0x06 0x32 .tierBorrow (fun c s => argsOnly c [(32, 0, 12), (34, 0, 16), (36, 0, 1)] = true ∧ 1 ≤ argU c 34 2 ∧ argU c 34 2 ≤ 256 ∧ argBits c 36 0 1 = 0 ∧ s.tir.comps.length + s.tir.borrowing.length < 256 ∧
      sumN (s.tir.comps.map (fun e => e.2.count)) + sumN (s.tir.borrowing.map (fun e => e.2.count)) + argU c 34 2 ≤ 4096 ∧ cannotSend s (cmdCtx s c) (argU c 32 2) 0 = false ∧ cannotSend s 0 (argU c 32 2) 0 = false ∧ maySendInput s c (argU c 32 2) false = true ∧ protSlot s 0 none = none ∧ 1 ≤ freeTags s)
    (fun oid c s =>
      let op := fun (_ : Nat) => ({ kind := .command, owner := .node, ctx := 0, key := slotKey 0 (argU c 32 2) 0 } : TOp)
      let t : State := { s with tir := { s.tir with borrowing := tblSet s.tir.borrowing (takeTag op s).1 { oid := oid, ctx := cmdCtx s c, lender := argU c 32 2, count := argU c 34 2, home := false } } }
      issueOp op none 0 { blankFrame with op := 0x07, opFlags := 1, operand := argU c 34 2 } t) := by
  refine waits_of (fun _ _ => rfl) ?_
  rintro oid c s ⟨ha, hmin, hmax, hhome, hcomps, hcount, hroute, hnode, hinput, hslot, htags⟩
  have hargs : ¬ (!argsOnly c [(32, 0, 12), (34, 0, 16), (36, 0, 1)] || argU c 34 2 == 0 || decide (256 < argU c 34 2)) = true := by
    simp [ha, Nat.one_le_iff_ne_zero.mp hmin, hmax]
  have hroom : ¬ (decide (256 ≤ s.tir.comps.length + s.tir.borrowing.length) ||
      decide (4096 < sumN (s.tir.comps.map (fun e => e.2.count)) + sumN (s.tir.borrowing.map (fun e => e.2.count)) + argU c 34 2)) = true := by
    simp [hcomps, hcount]
  dsimp only
  rw [if_neg hargs, hhome, if_neg (by simp), if_neg hroom,
    sending_goes (slot := fun s _ => protSlot s 0 none) hroute (by rw [hslot]; exact hinput) (by rw [hslot]; rfl) htags, hnode, hslot]
  rfl

theorem tierReturn_waits (x : Comp) : WaitsThen settleWork 0x06 0x33 .tierReturn (fun c s => argsOnly c [(32, 0, 16)] = true ∧ tblGet? s.tir.comps (argU c 32 2) = some x ∧ mayName s c x.ctx = true ∧ x.returnBy = none ∧ x.draining = false)
    (fun oid c s => beginDrain (argU c 32 2) { s with tir := { s.tir with comps := tblSet s.tir.comps (argU c 32 2) { x with returnBy := some oid } } }) := by
  refine waits_of (fun _ _ => rfl) ?_
  rintro oid c s ⟨ha, hx, hn, hr, hd⟩
  dsimp only
  simp only [ha, hx, hn, hr, hd]
  rfl

/-- Settles O35: each command ends or waits as its lemma says. -/
theorem tierOtherCommandsComplete : Obligations.TierOtherCommandsComplete :=
  ⟨tierFlush_ends_clean, tierConfig_ends, tierStatus_ends, tierWear_ends, tierLossList_ends_empty, tierLend_ends, tierReclaim_ends, tierBorrow_waits, tierReturn_waits⟩

end Sys2Proof.Machine

/-! SUPPORT. The statements of `spec/07_tiers_peat_fallow.md` and `spec/15_health_errors_lifetime.md`: epochs, write-back, the journal, eviction, fetches and the mount of Peat (R224, R226 to R233, R236, R237, R474). -/

namespace Sys2Proof.Machine

variable {s t : State} {b : Nat} {x : Body}

/-! Write-back and the journal (R226-R228, R474). -/

/-- A dirty body with no append for TAIL_IDLE_MS is queued for write-back (R226). -/
theorem exec_tailIdleExpiry_due (hx : getBody? s b = some x) (hd : x.dirty = true) (ht : tierParam s 0x04 ≠ 0) (hi : x.lastAppend + tierParam s 0x04 * 1000000 ≤ s.now) :
    exec (.tailIdleExpiry b) s = .next (queueWb b false s) := by
  change execTailIdleExpiry b s = _
  have hdue : (tierParam s 0x04 != 0 && x.dirty && decide (x.lastAppend + tierParam s 0x04 * ms ≤ s.now)) = true := by
    simp [ht, hd, ms, hi]
  simp only [execTailIdleExpiry, hx, hdue, if_true]

/-- Where no body of the queue is expedited and its head can start, the head starts. -/
theorem startFirstWb_head {w : WbEntry} {rest : List WbEntry} (hp : peatWritable s = true) (hq : s.tir.wbq = w :: rest) (hrest : ∀ y ∈ rest, y.expedited = false) (hw : w.expedited = false)
    (ht : startWb w.body s = some t) : startFirstWb s = t := by
  have hnone : rest.filter (·.expedited) = [] := List.filter_eq_nil_iff.mpr fun y hy => by simp [hrest y hy]
  simp [startFirstWb, hp, hq, hw, hnone, ht]

/-- The head of the queue starts, and its record is read back where it lies in a composition (R226, R227, R241). -/
theorem exec_writebackStart_head {w : WbEntry} {rest : List WbEntry} (hp : peatWritable s = true) (hq : s.tir.wbq = w :: rest) (hrest : ∀ y ∈ rest, y.expedited = false)
    (hw : w.expedited = false) (ht : startWb w.body s = some t) (hnew : (t.tir.snaps.map (·.1)).find? (fun b => !tblHas s.tir.snaps b) = some w.body) :
    exec .writebackStart s = .next ((readBack w.body t).getD s) := by
  change execWritebackStart s = _
  simp only [execWritebackStart, startFirstWb_head hp hq hrest hw ht, hnew]

/-- A program that ends while no spark point is armed has succeeded (R227, R228). -/
theorem exec_writebackDone_programmed (n m k : Nat) {cp : Copy} (hc : tblGet? s.tir.snaps b = some cp) (hx : getBody? s b = some x) (hb : bodyBusy s b = false) (ha : s.hlt.arms = []) :
    exec (.writebackDone b n m k) s = .next (settleWork (programDone b n m k x (if x.state == .cold then { (wbSource s b x).getD cp with group := cp.group } else cp) s)) := by
  change execWritebackDone b n m k s = _
  simp only [execWritebackDone, hc, hx, hb, sparkCheck_unarmed ha]
  rfl

/-- A controller that no longer answers fences its group with cause 3 (R474). -/
theorem exec_peatControllerTimeout_reads {g : Nat} (hp : hasPeat s = true) (hg : g < 2) (hr : groupReads s g = true) :
    exec (.peatControllerTimeout g) s = .next (fencePeatGroup g 3 false s) := by
  change execPeatControllerTimeout g s = _
  simp only [execPeatControllerTimeout, hp, hg, hr, decide_true, Bool.and_self, if_true]

/-- The first record owed is programmed where no command waits for it (R228). -/
theorem exec_journalRecordDone_unawaited {j : JPending} {rest : List JPending} (hj : s.tir.jwait = j :: rest) (hm : s.tir.mounted = true) (ho : j.oid = none) :
    exec .journalRecordDone s = .next (programRecord j.record (lightAct 3 { s with tir := { s.tir with jwait := rest } })) := by
  change execJournalRecordDone s = _
  simp only [execJournalRecordDone, hj, hm, ho]
  rfl

/-! Eviction and fetches (R229-R233, R247). -/

/-- Below LOW_WATER a pass is made, and the records of the bodies that it moves are sent (R229). -/
theorem exec_evictionPass_low (hl : poolAt s (tierParam s 0x02) = false) :
    exec .evictionPass s = .next (((evictPass s).tir.evicting.map (·.1)).filter (fun b => !tblHas s.tir.evicting b) |>.foldl (fun s b => sendMove b s) (evictPass s)) := by
  change execEvictionPass s = _
  simp only [execEvictionPass, hl, Bool.not_false, Bool.true_or, if_true]

/-- A move whose pieces have all been acknowledged is committed (R230). -/
theorem exec_evictionCommit_sent {k : ColdKind} (hk : tblGet? s.tir.evicting b = some k) (hb : bodyBusy s b = false) : exec (.evictionCommit b) s = .next (commitMove b k s) := by
  change execEvictionCommit b s = _
  simp only [execEvictionCommit, hk, hb, Bool.false_eq_true, if_false]

/-- The first queued fetch that can be served starts where Ember has room for it (R232). -/
theorem exec_fetchStart_first {e : FetchEntry} {rest : List FetchEntry} (ho : fetchOrder s = e :: rest) (ht : startFetch e.body s = some t) :
    exec .fetchStart s = .next ((readBack e.body t).getD s) := by
  change execFetchStart s = _
  simp only [execFetchStart, ho, ht, Option.bind_some]

/-- A fetched body whose copy has come whole arrives (R232, R247). -/
theorem exec_fetchDone_arrived {cp : Copy} (r : Bool) (hx : getBody? s b = some x) (hs : x.state = .fetching) (hb : bodyBusy s b = false) (hc : coldCopy s b x = some cp) :
    exec (.fetchDone b r) s = .next (settleWork (fetchArrived b r x cp s)) := by
  change execFetchDone b r s = _
  simp only [execFetchDone, hx, hs, hb, hc]
  rfl

/-! The mount of Peat (R237, R244-R246). -/

/-- Listing losses changes no unit beside the list: the rest is events (R245). -/
theorem sameUnits_addLosses (ls : List Loss) (s : State) : ∃ l, SameUnits { s with tir := { s.tir with losses := l } } (addLosses ls s) := by
  refine ⟨_, sameUnits_foldl (fun u q => ?_) _ _⟩
  dsimp only
  split
  · exact sameUnits_refl u
  · exact sameUnits_raise _ _ _ u

/-- The sequences that return at the mount: those of which the journal still holds an entry. -/
def liveJournal (s : State) : Tbl JSeq :=
  (tblMap s.tir.journal (fun _ j => readJournal s j)).filter (fun q => q.2.entries.any (fun g => !g.2.isEmpty))

/-- The mount leaves Ember as it was, and in the journal what has returned (R237). -/
theorem exec_peatMountDone_unmounted (hp : hasPeat s = true) (hm : s.tir.mounted = false) :
    ∃ t, exec .peatMountDone s = .next (settleWork t) ∧ t.tir.mounted = true ∧ t.emb = s.emb ∧ t.tir.journal = liveJournal s := by
  have hmounts : ¬ (!hasPeat s || s.tir.mounted) = true := by simp [hp, hm]
  refine ⟨_, congrArg _ (if_neg hmounts), ?_⟩
  obtain ⟨l, h⟩ := sameUnits_addLosses _ _
  exact ⟨congrArg Tir.mounted h.tir, h.emb, congrArg Tir.journal h.tir⟩

/-- Settles O36: the case lemma of each row where its conditions hold; an epoch, a failed program and a resumption act on every state. -/
theorem tierEventsComplete : Obligations.TierEventsComplete :=
  ⟨fun _ => rfl, fun _ _ _ hx hd ht hi => exec_tailIdleExpiry_due hx hd ht hi, fun _ _ _ _ hp hq hrest hw ht _ hnew => exec_writebackStart_head hp hq hrest hw ht hnew,
    fun _ n m k _ _ _ hc hx hb ha => exec_writebackDone_programmed n m k hc hx hb ha, fun _ _ => rfl, fun _ _ hp hg hr => exec_peatControllerTimeout_reads hp hg hr,
    fun _ _ _ hj hm ho => exec_journalRecordDone_unawaited hj hm ho, fun _ hl => exec_evictionPass_low hl, fun _ _ _ hk hb => exec_evictionCommit_sent hk hb, fun _ => rfl,
    fun _ _ _ _ ho ht => exec_fetchStart_first ho ht, fun _ r _ _ _ hx hs hb hc => exec_fetchDone_arrived r hx hs hb hc, fun _ hp hm => exec_peatMountDone_unmounted hp hm⟩

end Sys2Proof.Machine

/-! SUPPORT. The statement of `spec/07_tiers_peat_fallow.md` and `spec/12_olnen_transport_and_remote_memory.md` on Fallow: the exchange between tier managers, and its timers (R238 to R241, R395). -/

namespace Sys2Proof.Machine

variable {s : State} {k : Nat}

/-! What tier managers receive (R395). -/

/-- The flow between the node contexts of two nodes has context 0 at both ends (R364, R395). -/
theorem keys_slotKey_node {node : Nat} (h : node < 4096) : keyCtx (slotKey 0 node 0) = 0 ∧ keyRctx (slotKey 0 node 0) = 0 := by
  simp only [keyCtx, keyRctx, slotKey]
  omega

/-- A FALLOW frame of the row's kind that comes between the node contexts acts, and is accepted. -/
theorem frameRow_fallow {op kind : Nat} {row : TFrame → Instr} {own : OutFrame → State → Prop} {eff act : OutFrame → State → State} (hd : definedOps.contains op = true)
    (he : ∀ f s, exec (row f) s = .next (fallow op kind f act s)) (ha : ∀ o s, own o s → act o s = eff o s) :
    FrameRow settleWork op row (fun o s => o.frame.opFlags = kind ∧ o.frame.dstCtx = 0 ∧ o.frame.srcCtx = 0 ∧ o.frame.srcNode < 4096 ∧ own o s) eff := by
  refine frameRow_of (mine := (· == op))
    (act := fun k o s => if keyCtx k != 0 || keyRctx k != 0 then (.accept, fault k o.cls o.frame .permission s) else (.accept, act o s)) (beq_self_eq_true op) hd ?_ ?_
  · rintro f s rfl ⟨hk, -⟩
    have hmine : ¬ (definedOps.contains f.op && (f.op != f.op || f.opFlags != kind)) = true := by
      have : f.opFlags = kind := hk
      simp [this]
    rw [he, fallow, if_neg hmine]
  · rintro o s - ⟨-, hdst, hsrc, hnode, hown⟩
    obtain ⟨hctx, hrctx⟩ := keys_slotKey_node hnode
    simp only [flowOf, hdst, hsrc, hctx, hrctx, ha o s hown]
    rfl

theorem fallowBorrow_granted (n w j : Nat) (t : State) : FrameRow settleWork 0x07 .fallowBorrow (fun o s => o.frame.opFlags = 1 ∧ o.frame.dstCtx = 0 ∧ o.frame.srcCtx = 0 ∧ o.frame.srcNode < 4096 ∧ grant o.frame.srcNode (o.frame.operand % 2 ^ 16) s = some (n, w, j, t))
    (fun o _ => respond (slotKey 0 o.frame.srcNode 0) o.cls { o.frame with job := j, window := w } { blankFrame with op := 0x87, opFlags := 2, msgLen := n } t) := by
  refine frameRow_fallow rfl (fun _ _ => rfl) ?_
  intro o s hg
  dsimp only
  rw [hg]

theorem fallowBorrow_refused : FrameRow settleWork 0x07 .fallowBorrow (fun o s => o.frame.opFlags = 1 ∧ o.frame.dstCtx = 0 ∧ o.frame.srcCtx = 0 ∧ o.frame.srcNode < 4096 ∧ grant o.frame.srcNode (o.frame.operand % 2 ^ 16) s = none)
    (fun o s => respond (slotKey 0 o.frame.srcNode 0) o.cls o.frame { blankFrame with op := 0x87, opFlags := 3, status := statusCode .noSpace } s) := by
  refine frameRow_fallow rfl (fun _ _ => rfl) ?_
  intro o s hg
  dsimp only
  rw [hg]

theorem fallowGrant_awaited (b : Borrowing) : FrameRow settleWork 0x87 .fallowGrant (fun o s => o.frame.opFlags = 2 ∧ o.frame.dstCtx = 0 ∧ o.frame.srcCtx = 0 ∧ o.frame.srcNode < 4096 ∧ borrowingOf s o.frame = some b)
    (fun o s =>
      let k := (tblFree? s.tir.comps (s.tir.comps.length + 1)).getD 0
      let x : Comp := { ctx := b.ctx, lender := b.lender, number := o.frame.msgLen % 2 ^ 16, count := b.count, home := b.home, window := o.frame.window, job := o.frame.job, granted := fabricTime s }
      let y : CompRec := { comp := k, peer := b.lender, lender := false, cause := 0, allots := b.count, granted := fabricTime s, ended := 0, heldMs := 0 }
      let t := endOp o.frame.tag (.good 0) s
      finish b.oid { r0 := k } { t with tir := { t.tir with borrowing := tblDel t.tir.borrowing o.frame.tag, comps := tblSet t.tir.comps k x }, hlt := { t.hlt with comps := t.hlt.comps ++ [y] } }) := by
  refine frameRow_fallow rfl (fun _ _ => rfl) ?_
  intro o s hb
  dsimp only
  rw [hb]

theorem fallowRefuse_awaited (b : Borrowing) : FrameRow settleWork 0x87 .fallowRefuse (fun o s => o.frame.opFlags = 3 ∧ o.frame.dstCtx = 0 ∧ o.frame.srcCtx = 0 ∧ o.frame.srcNode < 4096 ∧ borrowingOf s o.frame = some b)
    (fun o s => let t := endOp o.frame.tag (.good 0) s
      finish b.oid { status := .noSpace } { t with tir := { t.tir with borrowing := tblDel t.tir.borrowing o.frame.tag } }) := by
  refine frameRow_fallow rfl (fun _ _ => rfl) ?_
  intro o s hb
  dsimp only
  rw [hb]

theorem fallowReclaimNotice_drains (k : Nat) : FrameRow settleWork 0x07 .fallowReclaimNotice (fun o s => o.frame.opFlags = 4 ∧ o.frame.dstCtx = 0 ∧ o.frame.srcCtx = 0 ∧ o.frame.srcNode < 4096 ∧ compOf s o.frame.srcNode o.frame.msgLen = some k ∧ o.frame.operand % 2 ^ 32 ≠ 0)
    (fun o s => beginDrain k { s with tir := { s.tir with comps := tblUpd s.tir.comps k (fun c => { c with noticeEnd := some (s.now + o.frame.operand % 2 ^ 32 * 1000000) }) } }) := by
  refine frameRow_fallow rfl (fun _ _ => rfl) ?_
  rintro o s ⟨hk, hn⟩
  dsimp only
  rw [hk, beq_false_of_ne hn]
  rfl

theorem fallowReturn_lent (l : Lent) : FrameRow settleWork 0x07 .fallowReturn (fun o s => o.frame.opFlags = 5 ∧ o.frame.dstCtx = 0 ∧ o.frame.srcCtx = 0 ∧ o.frame.srcNode < 4096 ∧ tblGet? s.tir.lent (o.frame.msgLen % 2 ^ 16) = some l ∧ l.borrower = o.frame.srcNode)
    (fun o s => respond (slotKey 0 o.frame.srcNode 0) o.cls o.frame { blankFrame with op := 0x87, opFlags := 6, msgLen := o.frame.msgLen % 2 ^ 16 } (zeroLent (o.frame.msgLen % 2 ^ 16) (if l.noticeEnd.isSome then 2 else 1) s)) := by
  refine frameRow_fallow rfl (fun _ _ => rfl) ?_
  rintro o s ⟨hl, hb⟩
  dsimp only
  rw [hl]
  exact if_neg (by simp [hb])

theorem fallowReleased_held (k : Nat) (x : Comp) : FrameRow settleWork 0x87 .fallowReleased (fun o s => o.frame.opFlags = 6 ∧ o.frame.dstCtx = 0 ∧ o.frame.srcCtx = 0 ∧ o.frame.srcNode < 4096 ∧ compOf s o.frame.srcNode o.frame.msgLen = some k ∧ tblGet? s.tir.comps k = some x)
    (fun _ s => endBorrow k (if x.noticeEnd.isSome then 2 else 1) s) := by
  refine frameRow_fallow rfl (fun _ _ => rfl) ?_
  rintro o s ⟨hk, hx⟩
  simp only [hk, hx]

theorem fallowProbe_acknowledged : FrameRow settleWork 0x07 .fallowProbe (fun o _ => o.frame.opFlags = 7 ∧ o.frame.dstCtx = 0 ∧ o.frame.srcCtx = 0 ∧ o.frame.srcNode < 4096) (fun _ s => s) := by
  have h : FrameRow settleWork 0x07 .fallowProbe (fun o _ => o.frame.opFlags = 7 ∧ o.frame.dstCtx = 0 ∧ o.frame.srcCtx = 0 ∧ o.frame.srcNode < 4096 ∧ True) (fun _ s => s) :=
    frameRow_fallow rfl (fun _ _ => rfl) fun _ _ _ => rfl
  simpa only [and_true] using h

/-! Timers (R240, R241, R395). -/

/-- A borrower whose one composition is not ORPHANED is probed where it can be reached (R395). -/
theorem exec_fallowProbeTimer_single (holding : List Nat) {l : Lent} (hl : s.tir.lent = [(k, l)]) (ho : l.orphanSince = none) (hr : cannotSend s 0 l.borrower 0 = false) :
    exec (.fallowProbeTimer holding) s = .next (sendFallow l.borrower 0x07 7 0 blankFrame s) := by
  have hadopt : adopt holding s = s := by simp [adopt, hl, ho]
  have hprobed : tblMap s.tir.lent (fun _ l => if l.orphanSince.isSome && l.lastProbe.isNone then { l with lastProbe := some s.now } else l) = s.tir.lent := by
    simp [hl, tblMap, ho]
  have hnodes : (s.tir.lent.map (fun e => e.2.borrower)).eraseDups = [l.borrower] := by
    rw [hl]
    rfl
  change execFallowProbeTimer holding s = _
  simp only [execFallowProbeTimer, hadopt, hprobed, hnodes, List.foldl_cons, List.foldl_nil, hr, Bool.false_eq_true, if_false]

/-- On the lender, the allotments of a composition whose notice has run out go to ZEROING (R240). -/
theorem exec_reclaimNoticeExpiry_lender {t : Nat} {l : Lent} (hl : tblGet? s.tir.lent k = some l) (hn : l.noticeEnd = some t) (ht : t ≤ s.now)
    (hc : tblGet? (zeroLent k 2 s).tir.comps k = none) : exec (.reclaimNoticeExpiry k) s = .next (settleWork (zeroLent k 2 s)) := by
  change execReclaimNoticeExpiry k s = _
  simp only [execReclaimNoticeExpiry, hl, hn, ht, decide_true, if_true, hc]

/-- On the borrower, what is still dirty when the notice has run out is LOST, and the composition ends (R241). -/
theorem exec_reclaimNoticeExpiry_borrower {t : Nat} {x : Comp} (hl : tblGet? s.tir.lent k = none) (hx : tblGet? s.tir.comps k = some x) (hn : x.noticeEnd = some t) (ht : t ≤ s.now) :
    exec (.reclaimNoticeExpiry k) s = .next (settleWork (endBorrow k 2 (loseBodies ((compBodies (cleanToPeat k s).2 k).map (·.1)) 2 (cleanToPeat k s).2))) := by
  change execReclaimNoticeExpiry k s = _
  simp only [execReclaimNoticeExpiry, hl, hx, hn, ht, decide_true, Bool.not_true, Bool.false_eq_true, if_false]

/-- A composition ORPHANED for the time of the parameter is zeroed (R240). -/
theorem exec_orphanExpiry_due {t : Nat} {l : Lent} (hl : tblGet? s.tir.lent k = some l) (ho : l.orphanSince = some t) (ht : t + tierParam s 0x09 * 1000000 ≤ s.now) :
    exec (.orphanExpiry k) s = .next (zeroLent k 3 s) := by
  change execOrphanExpiry k s = _
  have hdue : t + tierParam s 0x09 * ms ≤ s.now := ht
  simp only [execOrphanExpiry, hl, ho, if_pos hdue]

/-- A zeroed allotment that is still offered is idle again (R239, R240). -/
theorem exec_allotmentZeroed_offered {a : Allot} (ha : tblGet? s.tir.allots k = some a) (hz : a.state = .zeroing) (ho : s.tir.allots.length ≤ s.tir.offered) :
    exec (.allotmentZeroed k) s = .next (let t := clearRuns a.runs s
      { t with tir := { t.tir with allots := tblSet t.tir.allots k { a with state := .idle } } }) := by
  change execAllotmentZeroed k s = _
  have hkept : ¬ (clearRuns a.runs s).tir.offered < (clearRuns a.runs s).tir.allots.length := Nat.not_lt.mpr ho
  simp only [execAllotmentZeroed, ha, hz, if_neg hkept]
  rfl

/-- A draining composition that holds no body any more is returned to its lender (R241). -/
theorem exec_compositionDrained_empty {x : Comp} (hx : tblGet? s.tir.comps k = some x) (hd : x.draining = true) (ha : x.active = true) (he : compBodies (cleanToPeat k s).2 k = []) :
    exec (.compositionDrained k) s =
      .next (let t := (cleanToPeat k s).2
        sendFallow x.lender 0x07 5 0 { blankFrame with msgLen := x.number } { t with tir := { t.tir with comps := tblUpd t.tir.comps k (fun c => { c with active := false }) } }) := by
  change execCompositionDrained k s = _
  simp only [execCompositionDrained, hx, hd, ha, he]
  rfl

/-- Settles O37: a frame of each kind is acted on as its lemma says, and each timer's row is its case lemma. -/
theorem fallowRowsComplete : Obligations.FallowRowsComplete := by
  refine ⟨fallowBorrow_granted, fallowBorrow_refused, fallowGrant_awaited, fallowRefuse_awaited, fallowReclaimNotice_drains, fallowReturn_lent, fallowReleased_held, fallowProbe_acknowledged,
    fun holding _ _ _ _ hl ho hb hr => ?_, fun _ _ _ _ hl hn ht hc => exec_reclaimNoticeExpiry_lender hl hn ht hc, fun _ _ _ _ hl hx hn ht => exec_reclaimNoticeExpiry_borrower hl hx hn ht,
    fun _ _ _ _ hl ho ht => exec_orphanExpiry_due hl ho ht, fun _ _ _ ha hz ho => exec_allotmentZeroed_offered ha hz ho, fun _ _ _ hx hd ha he => exec_compositionDrained_empty hx hd ha he⟩
  subst hb
  exact exec_fallowProbeTimer_single holding hl ho hr

end Sys2Proof.Machine

/-! SUPPORT. The statement of `spec/16_module_connectors_power_startup.md` on power, with the retrains of `spec/15_health_errors_lifetime.md`: which start begins and what ends one (R244, R473, R509, R510, R517, R524). -/

namespace Sys2Proof.Machine

variable {s : State} {a b : Bool} {mv : Nat}

/-! The rails and the input (R244, R509, R510, R517). -/

theorem endStart_running (h : s.mod.running = true) : endStart s = powerLost s := if_pos h

/-- The main rails go down, and what a running start held is lost (R244, R510). -/
theorem railsDown_running (h : s.mod.running = true) : railsDown s = { powerLost s with mod := { (powerLost s).mod with rails := .off, sigs := none } } := by
  rw [railsDown, endStart_running h]

theorem exec_pwrEnRise (mv : Nat) (temps : List Nat) (s : State) :
    exec (.pwrEnRise mv temps) s = .next (railsUp { s with mod := { s.mod with pwrEn := true, inputMv := mv, trip := if s.mod.trip = .cooling ∧ coolEnough temps = true then .none else s.mod.trip } }) := by
  change execPwrEnRise mv temps s = _
  simp only [execPwrEnRise, Bool.and_eq_true, beq_iff_eq]

/-- A fall of PWR_EN ends the start that runs, and a latched trip is left to cool (R510, R517). -/
theorem exec_pwrEnFall_running (h : s.mod.running = true) :
    exec .pwrEnFall s = .next (let t := powerLost s
      { t with mod := { t.mod with rails := .off, sigs := none, pwrEn := false, trip := if s.mod.trip = .latched then .cooling else s.mod.trip } }) := by
  change execPwrEnFall s = _
  have htrip : (railsDown s).mod.trip = s.mod.trip := by rw [railsDown_running h]; rfl
  simp only [execPwrEnFall, htrip, beq_iff_eq]
  rw [railsDown_running h]

/-- PERST# ends the start that runs, with the rails as they are (R510). -/
theorem exec_perstAssert_running (h : s.mod.running = true) :
    exec .perstAssert s = .next (let t := powerLost s
      { t with mod := { t.mod with perst := true, sigs := none } }) := by
  change execPerstAssert s = _
  rw [execPerstAssert, endStart_running h]

theorem exec_inputUndervoltage_low (h : mv ≤ 41000) :
    exec (.inputUndervoltage mv) s = .next (let t := railsDown s
      { t with mod := { t.mod with inputUp := false, inputMv := mv } }) :=
  congrArg Host.Outcome.next (if_neg (Nat.not_lt.mpr h))

theorem exec_inputOvervoltage_high (h : 60000 < mv) :
    exec (.inputOvervoltage mv) s = .next (let t := railsDown s
      { t with mod := { t.mod with inputUp := false, inputMv := mv } }) :=
  congrArg Host.Outcome.next (if_neg (Nat.not_le.mpr h))

theorem exec_undervoltageLockoutRelease_inRange (hl : 44000 ≤ mv) (hh : mv ≤ 60000) :
    exec (.undervoltageLockoutRelease mv) s = .next (railsUp { s with mod := { s.mod with inputUp := true, inputMv := mv } }) := by
  have hin : ¬ (decide (mv < 44000) || decide (60000 < mv)) = true := by simp [hl, hh]
  exact congrArg Host.Outcome.next (if_neg hin)

/-! The start (R459, R510, R524). -/

/-- What decides whether stable rails begin the start: PERST#, and the firmware signatures that its deassertion brought (R510). -/
def startPins (s : State) : Bool × Option (Bool × Bool) := (s.mod.perst, s.mod.sigs)

theorem RaiseOnly.startPins {t : State} (h : RaiseOnly s t) : Machine.startPins t = Machine.startPins s := by
  have hpins := congrArg (fun m : Mod => (m.perst, m.sigs)) h.mod
  exact hpins

theorem startPins_thermalPoint (c : Nat) (s : State) : startPins (thermalPoint c s) = startPins s := by
  unfold thermalPoint
  dsimp only
  split <;> split <;> rfl

theorem startPins_loadTime (held : Bool) (s : State) : startPins (loadTime held s) = startPins s := by
  cases held
  · exact (raiseOnly_raiseNode _ _ _).startPins
  · rfl

theorem startPins_railsReady (held : Bool) (c : Nat) (s : State) : startPins (railsReady held c s) = startPins s :=
  (startPins_thermalPoint _ _).trans (startPins_loadTime held _)

/-- Stable rails alone begin no start while PERST# is asserted or has not been deasserted (R510). -/
theorem exec_railsStable_held (held : Bool) (c : Nat) (hr : s.mod.rails = .rising) (hp : s.mod.perst = true ∨ s.mod.sigs = none) : exec (.railsStable held c) s = .next (railsReady held c s) := by
  change execRailsStable held c s = _
  obtain ⟨hperst, hsigs⟩ := Prod.mk.inj (startPins_railsReady held c s)
  rcases hp with hp | hp <;> simp [execRailsStable, hr, hperst, hsigs, hp]

/-- Stable rails begin the start where PERST# was deasserted before them (R510). -/
theorem exec_railsStable_starts (held : Bool) (c : Nat) (hr : s.mod.rails = .rising) (hp : s.mod.perst = false) (hs : s.mod.sigs = some (a, b)) :
    exec (.railsStable held c) s = .next (beginStart a b (railsReady held c s)) := by
  change execRailsStable held c s = _
  obtain ⟨hperst, hsigs⟩ := Prod.mk.inj (startPins_railsReady held c s)
  simp [execRailsStable, hr, hperst, hsigs, hp, hs]

/-- The deassertion of PERST# begins the start where the rails are stable (R510). -/
theorem exec_perstDeassert_starts (r : Bool) (hp : s.mod.perst = true) (hr : s.mod.rails = .stable) :
    exec (.perstDeassert r a b) s = .next (beginStart a b { s with mod := { s.mod with perst := false, refclk := r } }) := by
  change execPerstDeassert r a b s = _
  simp [execPerstDeassert, hp, hr]

/-- Where the rails are not stable yet, the start waits for them (R510). -/
theorem exec_perstDeassert_waits (r : Bool) (hp : s.mod.perst = true) (hr : s.mod.rails ≠ .stable) :
    exec (.perstDeassert r a b) s = .next { s with mod := { s.mod with perst := false, refclk := r, sigs := some (a, b) } } := by
  change execPerstDeassert r a b s = _
  simp [execPerstDeassert, hp, hr]

/-- Firmware that is authenticated runs (R459, R524). -/
theorem exec_fwAuthenticated_running (hb : s.cln.phase = .bootRom) (hr : s.mod.running = true) (hh : s.mod.halted = false) :
    exec .fwAuthenticated s = .next (let t : State := { s with cln := { s.cln with phase := .fwRun, fwAuthed := true } }
      match s.sec.fellBack with
      | none => t
      | some (b, why) => raiseNode .fwBankFallback (leBytes 1 b ++ leBytes 1 why) t) := by
  have hruns : ¬ (s.cln.phase != .bootRom || !s.mod.running || s.mod.halted) = true := by simp [hb, hr, hh]
  exact congrArg Host.Outcome.next (if_neg hruns)

theorem exec_ccsReady_fwRun (h : s.cln.phase = .fwRun) : exec .ccsReady s = .next { s with cln := { s.cln with phase := .unitsStarting, ready := true } } := by
  have hruns : ¬ (s.cln.phase != .fwRun) = true := by simp [h]
  exact congrArg Host.Outcome.next (if_neg hruns)

theorem exec_fullService_ready (hp : s.cln.phase = .unitsStarting) (he : s.emb.trained = true) (hf : s.mod.fieldTested = true) (ho : s.oln.accepts = true) :
    exec .fullService s = .next { s with cln := { s.cln with phase := .fullService } } := by
  have hready : (s.cln.phase == .unitsStarting && s.emb.trained && s.mod.fieldTested && s.oln.accepts) = true := by simp [hp, he, hf, ho]
  exact congrArg Host.Outcome.next (if_pos hready)

/-! Training, retrains and the self-test of the Field (R107, R196, R473, R524). -/

theorem exec_emberTrainingDone_start (failed : List Nat) (lanes : Tbl Nat) (h : s.emb.trained = false) :
    exec (.emberTrainingDone failed lanes) s = .next (let t := (List.range (nChans s)).foldl (fun s m => channelTrained failed lanes m s) s
      { t with emb := { t.emb with trained := true } }) :=
  congrArg Host.Outcome.next (if_neg (ne_true_of_eq_false h))

/-- Once the channels have been trained, the row ends retrains (R473, log entry 65). -/
theorem exec_emberTrainingDone_retrain (failed : List Nat) (lanes : Tbl Nat) (h : s.emb.trained = true) :
    exec (.emberTrainingDone failed lanes) s = .next (settleWork ((List.range (nChans s)).foldl (fun s m => channelRetrained failed lanes m s) s)) :=
  congrArg Host.Outcome.next (if_pos h)

theorem exec_fieldSelfTestDone_first (failed : List Nat) (h : s.mod.fieldTested = false) :
    exec (.fieldSelfTestDone failed) s = .next (fieldTested (coresIn s (· == .selfTest)) (selfTests failed (coresIn s (· == .selfTest)) s).1 (selfTests failed (coresIn s (· == .selfTest)) s).2) :=
  congrArg Host.Outcome.next (if_neg (ne_true_of_eq_false h))

section Retrain

variable {m : Nat}

/-- A retrain that fails fences the channel with cause 2 (R473). -/
theorem channelRetrained_failed (hs : (getChan s m).state = .service) (hf : sparkCheck 0x0505 m s = (none, s)) : channelRetrained [m] [] m s = fenceChannel m 2 false s := by
  simp [channelRetrained, hs, hf]

/-- A retrain that succeeds notes its lanes, and the third within 10 min fences the channel with cause 4 (R473). -/
theorem channelRetrained_remapped (n : Nat) (hs : (getChan s m).state = .service) (hf : sparkCheck 0x0505 m s = (none, s)) :
    channelRetrained [] [(m, n)] m s = (let recent := (getChan s m).retrains.filter (fun t => decide (s.now < t + 600 * sec))
      let t := modChan m (fun c => { c with lanesRepaired := min 255 (c.lanesRepaired + n), retrains := s.now :: recent }) (tallyAdd .channel m 6 n s)
      if 2 ≤ recent.length then fenceChannel m 4 false t else t) := by
  simp [channelRetrained, hs, hf, tblHas, tblGetD, tblGet?]

end Retrain

/-- Settles O58: the case lemma of each row where its conditions hold, and of a channel's retrain. -/
theorem powerRowsComplete : Obligations.PowerRowsComplete := by
  refine ⟨exec_pwrEnRise, fun _ h => exec_pwrEnFall_running h, fun held c _ hr hp => exec_railsStable_held held c hr hp, fun held c _ _ _ hr hp hs => exec_railsStable_starts held c hr hp hs,
    fun r _ _ _ hp hr => exec_perstDeassert_starts r hp hr, fun r _ _ _ hp hr => exec_perstDeassert_waits r hp hr, fun _ h => exec_perstAssert_running h,
    fun _ _ h => exec_inputUndervoltage_low h, fun _ _ h => exec_inputOvervoltage_high h, fun _ => rfl, fun _ _ hl hh => exec_undervoltageLockoutRelease_inRange hl hh,
    fun s hb hr hh hn => ?_, fun b why s hb hr hh hf => ?_, fun _ h => exec_ccsReady_fwRun h, fun failed lanes _ h => exec_emberTrainingDone_start failed lanes h,
    fun failed lanes _ h => exec_emberTrainingDone_retrain failed lanes h, fun _ n _ hs hf => ⟨channelRetrained_failed hs hf, channelRetrained_remapped n hs hf⟩,
    fun failed _ h => exec_fieldSelfTestDone_first failed h, fun _ hp he hf ho => exec_fullService_ready hp he hf ho⟩
  · rw [exec_fwAuthenticated_running hb hr hh, hn]
  · rw [exec_fwAuthenticated_running hb hr hh, hf]

end Sys2Proof.Machine

/-! SUPPORT. The statement of `spec/08_charcoal_codec.md`: the CHARCOAL commands (R250 to R258, R260 to R262), with the served weights of `spec/14_contexts_security_attestation.md` (R451). -/

namespace Sys2Proof.Machine

variable {s : State} {c : Cmd}

/-! The checks of R260. -/

/-- Where the shared checks let a command through, only its own check can end it. -/
theorem charcoalChecks_own (h : charcoalChecks c s none = none) (own : Option Status) : charcoalChecks c s own = own := by
  cases own with
  | none => exact h
  | some e =>
    -- A command's own check stands after three shared ones, none of which ended it.
    unfold charcoalChecks at h ⊢
    split at h
    · cases h
    · next hargs =>
      split at h
      · cases h
      · next hvalid =>
        split at h
        · cases h
        · next hforeign => rw [if_neg hargs, if_neg hvalid, if_neg hforeign]

/-! Blocks that no spark point makes fail (R257, R258). -/

theorem blockSpark_unarmed (h : s.hlt.arms = []) : blockSpark s = (none, s) := by
  simp only [blockSpark, sparkCheck_unarmed h]

theorem sparkBlocks_unarmed (h : s.hlt.arms = []) (n : Nat) : sparkBlocks n s = ([], s) := by
  unfold sparkBlocks
  induction List.range n with
  | nil => rfl
  | cons i is ih => rw [List.foldl_cons, blockSpark_unarmed h]; exact ih

@[simp] theorem noteWeights_hlt (c : Cmd) (slot : Option Nat) (s : State) : (noteWeights c slot s).hlt = s.hlt := by
  cases slot <;> rfl

/-- A stream whose blocks all decode has no failed block. -/
theorem failedBlocks_elems (es : List (List Nat)) : failedBlocks (es.map Decoded.elems) = [] := by
  rw [failedBlocks, List.zipIdx_map, List.filterMap_map]
  exact List.filterMap_eq_nil_iff.mpr fun _ _ => rfl

/-- A stream whose blocks all decode gives their elements. -/
theorem blockOut_elems (orig : Nat) (es : List (List Nat)) :
    (es.map Decoded.elems).zipIdx.map (fun (d, i) => blockOut orig i d) = es.map (fun e => (e.map (leBytes 2)).flatten) := by
  rw [List.zipIdx_map, List.map_map]
  calc es.zipIdx.map (fun p => (p.1.map (leBytes 2)).flatten)
      = (es.zipIdx.map Prod.fst).map (fun e => (e.map (leBytes 2)).flatten) := by rw [List.map_map]; rfl
    _ = es.map (fun e => (e.map (leBytes 2)).flatten) := by rw [List.zipIdx_map_fst]

/-! Each CHARCOAL command. -/

theorem charcoalCompress_ends : EndsAt 0x07 0x01 .charcoalCompress (fun c s => charcoalChecks c s none = none ∧ namesProtected s c.inDevice c.inAddr = false ∧ namesProtected s c.outDevice c.outAddr = false ∧
      c.inLen % 2 = 0 ∧ 2 ≤ c.inLen ∧ c.inLen ≤ 33554432 ∧ compressBound (ceilDiv c.inLen 65536) ≤ c.outLen)
    (fun c s => let x := encodeStream (argBits c 32 0 1 == 1) c.input
      spoiled c s { r0 := ceilDiv c.inLen 65536 + (x.2.filter (· == 1)).length * 2 ^ 32 + (x.2.filter (· == 2)).length * 2 ^ 48, r1 := min 0xFFFF (x.1.length * 1000 / c.inLen), output := x.1, space := compressBound (ceilDiv c.inLen 65536) })
    (fun c s => countCompressed (ceilDiv c.inLen 65536) s) := by
  refine ends_of (fun _ _ => rfl) ?_
  rintro _ c s ⟨hchecks, hin, hout, heven, hmin, hmax, hroom⟩
  have hlen : ¬ (c.inLen % 2 != 0 || decide (c.inLen < 2) || decide (33554432 < c.inLen) || decide (c.outLen < compressBound (ceilDiv c.inLen 65536))) = true := by
    simp [heven, Nat.not_lt.mpr hmin, hmax, hroom]
  dsimp only
  simp only [hin, hout, if_neg hlen, Bool.or_self, Bool.false_eq_true, if_false, hchecks]

theorem charcoalDecompress_ends (es : List (List Nat)) : EndsAt 0x07 0x02 .charcoalDecompress (fun c s => let x := plainStream c s (weightInput c s)
      charcoalChecks c s none = none ∧ weightsAt s c.inDevice c.inAddr = none ∧ (∀ k, weightInput c s = some k → weightsFit s c k = true) ∧ 32 ≤ c.inLen ∧ streamFp16 x = (argBits c 32 0 1 == 1) ∧ origLen x ≤ c.outLen ∧
      s.hlt.arms = [] ∧ headerOk x = true ∧ decodeStream x = es.map Decoded.elems)
    (fun c s => let x := plainStream c s (weightInput c s)
      spoiled c s { r0 := ceilDiv (origLen x) 65536, r1 := 0xFFFFFFFF, output := (es.map (fun e => (e.map (leBytes 2)).flatten)).flatten, space := origLen x })
    (fun c s => countDecoded (ceilDiv (origLen (plainStream c s (weightInput c s))) 65536) 0 (noteWeights c (weightInput c s) s)) := by
  refine ends_of (fun _ _ => rfl) ?_
  rintro _ c s ⟨hchecks, hin, hfit, hmin, htype, hroom, harms, hhead, hdec⟩
  have hweights : ¬ ((weightsAt s c.inDevice c.inAddr).isSome || (weightInput c s).any (fun k => !weightsFit s c k)) = true := by
    rw [hin, Option.isSome_none, Bool.false_or, Option.any_eq_true]
    rintro ⟨k, hk, hbad⟩
    rw [hfit k hk] at hbad
    cases hbad
  have hquiet := sparkBlocks_unarmed (s := noteWeights c (weightInput c s) s) (by rw [noteWeights_hlt, harms])
  dsimp only
  simp only [if_neg hweights, if_neg (Nat.not_lt.mpr hmin), htype, bne_self_eq_false, Bool.false_eq_true, if_false, if_neg (Nat.not_lt.mpr hroom), hchecks, hquiet,
    List.find?_nil, List.zipIdx_map_fst, hdec, failedBlocks_elems, blockOut_elems, hhead]
  rfl

theorem charcoalDecompress_ends_weights : EndsAt 0x07 0x02 .charcoalDecompress (fun c s => charcoalChecks c s none = none ∧ ((weightsAt s c.inDevice c.inAddr).isSome = true ∨ ∃ k, weightInput c s = some k ∧ weightsFit s c k = false))
    (fun _ _ => { status := .permission }) (fun _ s => s) := by
  refine ends_of (fun _ _ => rfl) ?_
  rintro _ c s ⟨hchecks, hweights⟩
  have hrefused : ((weightsAt s c.inDevice c.inAddr).isSome || (weightInput c s).any (fun k => !weightsFit s c k)) = true := by
    rw [Bool.or_eq_true, Option.any_eq_true]
    exact hweights.imp_right fun ⟨k, hk, hfit⟩ => ⟨k, hk, by rw [hfit, Bool.not_false]⟩
  dsimp only
  rw [if_pos hrefused, charcoalChecks_own hchecks]
  rfl

theorem charcoalStatus_ends : EndsAt 0x07 0x03 .charcoalStatus (fun c s => charcoalChecks c s none = none)
    (fun _ s => { r0 := s.chr.compressed + s.chr.decompressed * 2 ^ 32, r1 := s.chr.failed }) (fun _ s => s) := by
  refine ends_of (fun _ _ => rfl) ?_
  intro _ c s hchecks
  rw [hchecks]
  rfl

/-- Settles O38: each command ends as its lemma says. -/
theorem charcoalCommandsComplete : Obligations.CharcoalCommandsComplete :=
  ⟨charcoalCompress_ends, charcoalDecompress_ends, charcoalDecompress_ends_weights, charcoalStatus_ends⟩

end Sys2Proof.Machine

/-! SUPPORT. The statements of file 09 of the spec: the SEED commands (R265, R270 to R277, R280, R282, R288, R290, R291, R293) and the Seedbank's own steps (R268, R271 to R276, R278, R284, R286, R287, R289). -/

namespace Sys2Proof.Machine

variable {s : State} {c : Cmd}

/-! What the SEED commands share. -/

/-- The first check of a command with a WIDTH passes where ARGS are clean and the width is a defined one (R270). -/
theorem widthCheck_passes {fields : List (Nat × Nat × Nat)} {width : Nat} (ha : argsOnly c fields = true) (hw : width ≠ 3) :
    (!argsOnly c fields || width == 3) = false := by
  simp [ha, hw]

/-- A COUNT from 1 to its maximum passes the check of its range (R270). -/
theorem countCheck_passes {n most : Nat} (hmin : 1 ≤ n) (hmax : n ≤ most) : (n == 0 || decide (most < n)) = false := by
  simp [Nat.one_le_iff_ne_zero.mp hmin, hmax]

/-- A job whose searches have room in the queue is admitted (R288). -/
theorem admitJob_room {j : SearchJob} (h : queuedSearches s + j.keys.length ≤ seedParam s 0x03) :
    admitJob j s = (.wait, { s with sdb := { s.sdb with jobs := s.sdb.jobs ++ [j] } }) :=
  if_neg (Nat.not_lt.mpr h)

@[simp] theorem keyRecords_length (w count : Nat) (masked : Bool) : (keyRecords c w count masked).length = count := by
  simp [keyRecords]

/-! Searches (R270-R276, R288). -/

theorem seedLookup_waits : WaitsAt 0x08 0x01 .seedLookup (fun c s => argsOnly c [(32, 0, 5), (35, 0, 8), (36, 0, 13)] = true ∧ argBits c 32 0 2 ≠ 3 ∧ 1 ≤ argBits c 36 0 13 ∧ argBits c 36 0 13 ≤ 4096 ∧
      seedChecks c (seedUnits (argBits c 32 0 2)) (recordsLen (seedUnits (argBits c 32 0 2)) (argBits c 36 0 13) (argBits c 32 2 1 == 1)) (32 * argBits c 36 0 13) s = none ∧
      queuedSearches s + (keyRecords c (seedUnits (argBits c 32 0 2)) (argBits c 36 0 13) (argBits c 32 2 1 == 1)).length ≤ seedParam s 0x03)
    (fun oid c s => let j : SearchJob := { oid := oid, ctx := cmdCtx s c, width := seedUnits (argBits c 32 0 2), kind := .lookup (argBits c 32 3 1 == 1) (argBits c 32 4 1 == 1), keys := keyRecords c (seedUnits (argBits c 32 0 2)) (argBits c 36 0 13) (argBits c 32 2 1 == 1) }
      { s with sdb := { s.sdb with jobs := s.sdb.jobs ++ [j] } }) := by
  refine waits_of (fun _ _ => rfl) ?_
  rintro oid c s ⟨ha, hw, hmin, hmax, hchecks, hroom⟩
  dsimp only
  simp only [widthCheck_passes ha hw, Bool.false_or, countCheck_passes hmin hmax, Bool.false_eq_true, if_false, hchecks]
  exact admitJob_room hroom

theorem seedStep_waits (x : Cursor) (n : Nat) : WaitsAt 0x08 0x02 .seedStep (fun c s => argsOnly c [(32, 0, 12), (34, 0, 8), (35, 0, 8), (36, 0, 1)] = true ∧ tblGet? s.sdb.cursors (argBits c 32 0 12) = some x ∧ mayName s c x.ctx = true ∧ bufferCheck c s = none ∧
      n = (if argU c 34 1 == 0 then 256 else argU c 34 1) ∧ 32 * n ≤ c.outLen ∧ queuedSearches s + n ≤ seedParam s 0x03)
    (fun oid c s => let j : SearchJob := { oid := oid, ctx := x.ctx, width := x.width, kind := .step (argBits c 32 0 12) (argBits c 36 0 1 == 1), keys := List.replicate n (x.key, x.mask) }
      { s with sdb := { s.sdb with cursors := tblUpd s.sdb.cursors (argBits c 32 0 12) (fun x => { x with time := s.now }), jobs := s.sdb.jobs ++ [j] } }) := by
  refine waits_of (fun _ _ => rfl) ?_
  rintro oid c s ⟨ha, hx, hn, hb, hcount, hout, hroom⟩
  dsimp only
  simp only [ha, hx, hn, hb, ← hcount, if_neg (Nat.not_lt.mpr hout), Bool.not_true, Bool.false_eq_true, if_false]
  rw [admitJob_room (by rwa [List.length_replicate])]

theorem seedCensus_waits : WaitsAt 0x08 0x03 .seedCensus (fun c s => argsOnly c [(32, 0, 3), (33, 0, 16), (35, 0, 8), (40, 0, 64)] = true ∧ argBits c 32 0 2 ≠ 3 ∧ argU c 33 2 ≤ 4095 ∧ bufferCheck c s = none ∧
      recordsLen (seedUnits (argBits c 32 0 2)) 1 (argBits c 32 2 1 == 1) ≤ c.inLen ∧ queuedSearches s + 1 ≤ seedParam s 0x03)
    (fun oid c s => let j : SearchJob := { oid := oid, ctx := cmdCtx s c, width := seedUnits (argBits c 32 0 2), kind := .census (some (argU c 33 2)) (if argU c 40 8 == 0 then 2 ^ 64 - 1 else argU c 40 8), keys := keyRecords c (seedUnits (argBits c 32 0 2)) 1 (argBits c 32 2 1 == 1) }
      { s with sdb := { s.sdb with jobs := s.sdb.jobs ++ [j] } }) := by
  refine waits_of (fun _ _ => rfl) ?_
  rintro oid c s ⟨ha, hw, howner, hb, hin, hroom⟩
  have hone : (argU c 33 2 == 0xFFFF) = false := beq_false_of_ne (by omega)
  dsimp only
  simp only [widthCheck_passes ha hw, Bool.false_or, hone, decide_eq_false (Nat.not_lt.mpr howner), Bool.false_and, Bool.and_false, Bool.false_eq_true, if_false, hb,
    if_neg (Nat.not_lt.mpr hin)]
  exact admitJob_room (by rwa [keyRecords_length])

/-! Inserting, deleting, posting, exporting (R277, R280, R282, R293). -/

theorem seedInsert_waits : WaitsThen placeAll 0x08 0x10 .seedInsert (fun c s => argsOnly c [(32, 0, 3), (33, 0, 8), (35, 0, 8), (36, 0, 9)] = true ∧ argBits c 32 0 2 ≠ 3 ∧ 1 ≤ argBits c 36 0 9 ∧ argBits c 36 0 9 ≤ 256 ∧
      seedChecks c (seedUnits (argBits c 32 0 2)) (argBits c 36 0 9 * (keyLen (seedUnits (argBits c 32 0 2)) + 16)) 0 s = none)
    (fun oid c s => let r := judgeRecords c (cmdCtx s c) (seedUnits (argBits c 32 0 2)) ((List.range (argBits c 36 0 9)).map (hostEntry c (seedUnits (argBits c 32 0 2)))) s
      let i : Inserting := { oid := some oid, ctx := cmdCtx s c, width := seedUnits (argBits c 32 0 2), records := r.1, overruled := r.2.1 }
      { r.2.2 with sdb := { r.2.2.sdb with inserting := r.2.2.sdb.inserting ++ [i] } }) := by
  refine waits_of (fun _ _ => rfl) ?_
  rintro oid c s ⟨ha, hw, hmin, hmax, hchecks⟩
  dsimp only
  simp only [widthCheck_passes ha hw, Bool.false_or, countCheck_passes hmin hmax, Bool.false_eq_true, if_false, hchecks]

theorem seedDelete_ends : EndsThen placeAll 0x08 0x11 .seedDelete (fun c s => argsOnly c [(32, 0, 3), (35, 0, 8), (36, 0, 32), (40, 0, 12)] = true ∧ argBits c 32 0 2 ≠ 3 ∧ seedChecks c (seedUnits (argBits c 32 0 2)) (keyLen (seedUnits (argBits c 32 0 2))) 0 s = none ∧ argBits c 32 2 1 = 0 ∧
      (judge c (seedTarget (cmdCtx s c) (seedUnits (argBits c 32 0 2)) (inU c 0 (keyLen (seedUnits (argBits c 32 0 2))))) (.content 1) s).1 = true)
    (fun c s => let r := deleteMatching (cmdCtx s c) (seedUnits (argBits c 32 0 2)) (fun e => e.key == inU c 0 (keyLen (seedUnits (argBits c 32 0 2)))) (judge c (seedTarget (cmdCtx s c) (seedUnits (argBits c 32 0 2)) (inU c 0 (keyLen (seedUnits (argBits c 32 0 2))))) (.content 1) s).2
      { status := if r.1 == 0 then .noMatch else .success, r0 := r.1 })
    (fun c s => (deleteMatching (cmdCtx s c) (seedUnits (argBits c 32 0 2)) (fun e => e.key == inU c 0 (keyLen (seedUnits (argBits c 32 0 2)))) (judge c (seedTarget (cmdCtx s c) (seedUnits (argBits c 32 0 2)) (inU c 0 (keyLen (seedUnits (argBits c 32 0 2))))) (.content 1) s).2).2) := by
  refine ends_of (fun _ _ => rfl) ?_
  rintro _ c s ⟨ha, hw, hchecks, hseq, hj⟩
  dsimp only
  simp only [widthCheck_passes ha hw, Bool.false_eq_true, if_false, hchecks]
  rw [judge_applied hj]
  -- Without BY_SEQ a DELETE names the entries of its key alone.
  simp [hseq]

theorem seedPost_ends (x : Seq) : EndsThen placeAll 0x08 0x12 .seedPost (fun c s => argsOnly c [(32, 0, 3), (33, 0, 8), (35, 0, 8), (36, 0, 32), (40, 0, 32), (44, 0, 32)] = true ∧ argBits c 32 0 2 ≠ 3 ∧ argU c 40 4 ≠ 0xFFFFFFFF ∧ namedSeq? s (argU c 36 4) = some x ∧ mayName s c x.ctx = true ∧
      bufferCheck c s = none ∧ keyLen (seedUnits (argBits c 32 0 2)) ≤ c.inLen ∧ x.entries = [] ∧ (ownedBanks s x.ctx (seedUnits (argBits c 32 0 2))).isEmpty = false ∧ s.sdb.posts.length < 65536)
    (fun _ _ => {}) (fun c s =>
      let p : SeedPost := { ctx := x.ctx, seq := argU c 36 4, sheaf := argU c 40 4, width := seedUnits (argBits c 32 0 2), key := inU c 0 (keyLen (seedUnits (argBits c 32 0 2))), prio := argU c 33 1, pinned := argBits c 32 2 1 == 1, user := argU c 44 4 }
      settlePosts (argU c 36 4) { s with sdb := { s.sdb with posts := s.sdb.posts ++ [p] } }) := by
  refine ends_of (fun _ _ => rfl) ?_
  rintro _ c s ⟨ha, hw, hsheaf, hx, hn, hb, hin, hentries, hbanks, hroom⟩
  dsimp only
  simp only [widthCheck_passes ha hw, beq_false_of_ne hsheaf, Bool.false_or, Bool.false_eq_true, if_false, hx, hn, hb, if_neg (Nat.not_lt.mpr hin), hentries, hbanks,
    if_neg (Nat.not_le.mpr hroom), Bool.not_true, List.map_nil, List.min?_nil]
  rfl

theorem seedExport_ends : EndsAt 0x08 0x13 .seedExport (fun c s => argsOnly c [(32, 0, 2), (35, 0, 8)] = true ∧ argBits c 32 0 2 ≠ 3 ∧ seedChecks c (seedUnits (argBits c 32 0 2)) 0 0 s = none ∧
      (((ownedBanks s (cmdCtx s c) (seedUnits (argBits c 32 0 2))).map (fun b => b.2.entries.map (·.2))).flatten).length * (keyLen (seedUnits (argBits c 32 0 2)) + 24) ≤ c.outLen)
    (fun c s => let es := ((ownedBanks s (cmdCtx s c) (seedUnits (argBits c 32 0 2))).map (fun b => b.2.entries.map (·.2))).flatten
      { r0 := es.length, output := (es.map (exportRecord (seedUnits (argBits c 32 0 2)))).flatten, space := es.length * (keyLen (seedUnits (argBits c 32 0 2)) + 24) }) (fun _ s => s) := by
  refine ends_of (fun _ _ => rfl) ?_
  rintro _ c s ⟨ha, hw, hchecks, hout⟩
  dsimp only
  simp only [widthCheck_passes ha hw, Bool.false_eq_true, if_false, hchecks, if_neg (Nat.not_lt.mpr hout)]

/-! Banks, parameters, status (R265, R290, R291). -/

theorem seedBankSet_ends (x : Ctx) : EndsThen placeAll 0x08 0x20 .seedBankSet (fun c s => argsOnly c [(32, 0, 7), (33, 0, 2), (35, 0, 8), (36, 0, 12)] = true ∧ argBits c 32 6 1 = 0 ∧ argBits c 33 0 2 ≠ 3 ∧ (judge c { unit := 0x08, obj := argBits c 32 0 6 } (.content 2) s).1 = true ∧
      tblHas s.sdb.banks (argBits c 32 0 6) = false ∧ getCtx? s (argBits c 36 0 12) = some x)
    (fun _ _ => {}) (fun c s => setBank (argBits c 32 0 6) { ctx := argBits c 36 0 12, width := seedUnits (argBits c 33 0 2) } (judge c { unit := 0x08, obj := argBits c 32 0 6 } (.content 2) s).2) := by
  refine ends_of (fun _ _ => rfl) ?_
  rintro _ c s ⟨ha, herase, hw, hj, hfree, hctx⟩
  have hset : (argBits c 32 6 1 == 1) = false := by simp [herase]
  dsimp only
  simp only [ha, hset, hfree, hctx, beq_false_of_ne hw, Bool.not_true, Bool.and_false, Bool.or_self, Bool.false_eq_true, if_false, Option.isNone_some]
  rw [judge_applied hj]
  rfl

theorem seedBankSet_ends_erased : EndsThen placeAll 0x08 0x20 .seedBankSet (fun c s => argsOnly c [(32, 0, 7), (33, 0, 2), (35, 0, 8), (36, 0, 12)] = true ∧ argBits c 32 6 1 = 1 ∧ (judge c { unit := 0x08, obj := argBits c 32 0 6 } (.content 1) s).1 = true)
    (fun _ _ => {}) (fun c s => freeBank (argBits c 32 0 6) (judge c { unit := 0x08, obj := argBits c 32 0 6 } (.content 1) s).2) := by
  refine ends_of (fun _ _ => rfl) ?_
  rintro _ c s ⟨ha, herase, hj⟩
  have hfrees : (argBits c 32 6 1 == 1) = true := by simp [herase]
  dsimp only
  simp only [ha, hfrees, Bool.not_true, Bool.false_and, Bool.or_self, Bool.false_eq_true, if_false, if_true]
  rw [judge_applied hj]
  rfl

theorem seedConfig_waits : WaitsAt 0x08 0x21 .seedConfig (fun c s => argsOnly c [(32, 0, 16), (35, 0, 8), (40, 0, 64)] = true ∧ seedRange (argU c 32 2) (argU c 40 8) = true ∧ (judge c { unit := 0x08, obj := 0x100 + argU c 32 2 } (.value (argU c 40 8)) s).1 = true)
    (fun oid c s => let t := (judge c { unit := 0x08, obj := 0x100 + argU c 32 2 } (.value (argU c 40 8)) s).2
      { t with cln := { t.cln with staged := t.cln.staged ++ [{ oid := oid, cmd := c, done := { r0 := stagedValue t (fun ch => match ch with | .seed k v => if k == argU c 32 2 then some v else none | _ => none) (seedParam t (argU c 32 2)) }, change := .seed (argU c 32 2) (argU c 40 8) }] } }) := by
  refine waits_of (fun _ _ => rfl) ?_
  rintro _ c s ⟨ha, hr, hj⟩
  dsimp only
  rw [ha, hr, judge_applied hj]
  rfl

theorem seedStatus_ends : EndsAt 0x08 0x22 .seedStatus (fun c _ => argsOnly c [(35, 0, 8)] = true)
    (fun c s => { r0 := sumN ((s.sdb.banks.filter (fun b => b.2.ctx == cmdCtx s c)).map (fun b => b.2.entries.length * b.2.width)) + s.sdb.rate * 2 ^ 32 + s.sdb.tempC % 256 * 2 ^ 48 + b2n (decide (85 < s.sdb.tempC)) * 2 ^ 56, r1 := queuedSearches s % 2 ^ 17 + min 4095 s.sdb.cursors.length * 2 ^ 32 + s.sdb.busy * 2 ^ 48 }) (fun _ s => s) := by
  refine ends_of (fun _ _ => rfl) ?_
  intro _ c s ha
  dsimp only
  rw [ha]
  rfl

/-- Settles O39: each command ends or waits as its lemma says. -/
theorem seedbankCommandsComplete : Obligations.SeedbankCommandsComplete :=
  ⟨seedLookup_waits, seedStep_waits, seedCensus_waits, seedInsert_waits, seedDelete_ends, seedPost_ends, seedExport_ends, seedBankSet_ends, seedBankSet_ends_erased, seedConfig_waits, seedStatus_ends⟩

/-! The search at the front of the queue (R268, R271-R276, R289). -/

/-- Bits that flip leave the queue of searches as it was. -/
@[simp] theorem takeFlips_jobs (flips : List (Nat × BitVec 80)) (s : State) : (takeFlips flips s).sdb.jobs = s.sdb.jobs := by
  unfold takeFlips
  induction flips generalizing s with
  | nil => rfl
  | cons e es ih => exact ih _

section Searches

variable {j : SearchJob} {js : List SearchJob} {key mask : Nat} {rest : List (Nat × Nat)}

/-- A search of a job is counted for its tenant, and performed as the kind of the job says (R271-R276, R494). -/
theorem exec_seedSearch_queued (flips : List (Nat × BitVec 80)) (hj : s.sdb.jobs = j :: js) (hk : j.keys = (key, mask) :: rest) :
    exec (.seedSearch flips) s = .next (let t := tenantAdd j.ctx (fun t => { t with searches := (t.searches + 1) % 2 ^ 64 }) (takeFlips flips s)
      match j.kind with
      | .lookup longest cursors => searchKey j longest cursors key mask rest t
      | .step k close => searchNext j k close rest t
      | .census owner map => searchCensus j owner map key mask t) := by
  change execSeedSearch flips s = _
  cases hkind : j.kind <;> simp only [execSeedSearch, takeFlips_jobs, hj, hk, hkind]

end Searches

/-! Commits, ageing and the end of cursors (R274, R278, R284, R286). -/

/-- The oldest record of a bank's queue is committed and counted, and what waits for room is placed (R278). -/
theorem exec_insertCommit_queued {bank : Nat} {x : Bank} {i : SeedInsert} {rest : List SeedInsert} (hx : tblGet? s.sdb.banks bank = some x) (hq : x.queue = i :: rest) :
    exec (.insertCommit bank) s = .next (placeAll (countInsert i.oid 1 (commitInsert bank i.entry (setBank bank { x with queue := rest } s)))) := by
  change execInsertCommit bank s = _
  simp only [execInsertCommit, hx, hq]

/-- The marked entry of lowest physical index goes (R286). -/
theorem exec_evictionEngineCommit_marked {b u : Nat} (h : nextEvicting s = some (b, u)) : exec .evictionEngineCommit s = .next (placeAll (dropEntry b u s)) := by
  change execEvictionEngineCommit s = _
  simp only [execEvictionEngineCommit, h]

/-- A cursor whose idle time is over goes where no STEP is queued (R274). -/
theorem exec_cursorIdleExpiry_idle {k : Nat} {x : Cursor} (hx : tblGet? s.sdb.cursors k = some x) (hj : s.sdb.jobs = []) (ht : x.time + seedParam s 0x04 * us ≤ s.now) :
    exec (.cursorIdleExpiry k) s = .next { s with sdb := { s.sdb with cursors := tblDel s.sdb.cursors k } } := by
  change execCursorIdleExpiry k s = _
  simp only [execCursorIdleExpiry, hx, hj, List.any_nil, Bool.not_false, Bool.true_and, decide_eq_true ht, if_true]

/-! The rate (R287). -/

/-- The rate that a temperature of HD1 sets while no hub die is throttled: 75 M searches/s less for each degree from 85 °C to 105 °C. -/
theorem exec_seedRateUpdate_unthrottled (t : Nat) (h : hubThrottled s = false) :
    exec (.seedRateUpdate t) s = .next { s with sdb := { s.sdb with tempC := t, rate := if t ≤ 85 then 2000 else 2000 - 75 * (min t 105 - 85) } } := by
  change execSeedRateUpdate t s = _
  simp only [execSeedRateUpdate, h, Bool.false_eq_true, if_false]

/-! The comparison with the shadow (R289). -/

section Shadow

variable {bank unit : Nat}

theorem shadowSpark_unarmed (h : s.hlt.arms = []) (bank : Nat) : shadowSpark bank s = s := by
  unfold shadowSpark
  split
  · rfl
  · split
    · rfl
    · rw [sparkCheck_unarmed h]

/-- Reporting a soft error leaves the Seedbank as it was. -/
@[simp] theorem softError_sdb (bank unit : Nat) (lost inj : Bool) (s : State) : (softError bank unit lost inj s).sdb = s.sdb := by
  unfold softError
  split
  · exact (sameUnits_raiseN ..).sdb
  · exact (sameUnits_raiseN ..).sdb

/-- A comparison acts on a unit that exists. -/
theorem unitCheck_passes (hb : bank < 64) (hu : unit < 16384) : ¬ (decide (64 ≤ bank) || decide (16384 ≤ unit)) = true := by
  simp [hb, hu]

/-- A unit that differs from a sound shadow is rewritten from it and reported. -/
theorem exec_shadowCompare_repairs {flip : BitVec 80} (hb : bank < 64) (hu : unit < 16384) (ha : s.hlt.arms = []) (hd : flip ≠ 0 ∨ isFlipped bank unit s = true) :
    exec (.shadowCompare bank unit flip false) s = .next (softError bank unit false false (onUnit bank unit repairUnit s)) := by
  have hdiffers : (flip != 0 || isFlipped bank unit s) = true := by simpa using hd
  change execShadowCompare bank unit flip false s = _
  simp only [execShadowCompare, if_neg (unitCheck_passes hb hu), hdiffers, shadowSpark_unarmed ha, Bool.false_eq_true, if_false, if_true]

/-- Under a damaged shadow the entry of the unit goes, and its loss is reported. -/
theorem exec_shadowCompare_drops {b : Bank} (flip : BitVec 80) (hb : bank < 64) (hu : unit < 16384) (ha : s.hlt.arms = []) (hx : tblGet? s.sdb.banks bank = some b) :
    exec (.shadowCompare bank unit flip true) s = .next (placeAll (dropEntry bank (unit / b.width * b.width) (softError bank unit true false s))) := by
  change execShadowCompare bank unit flip true s = _
  simp only [execShadowCompare, if_neg (unitCheck_passes hb hu), shadowSpark_unarmed ha, softError_sdb, hx, if_true]

end Shadow

/-- Settles O40: the case lemma of each row where its conditions hold; a search is performed as the kind of its job says, and the rate follows the temperature. -/
theorem seedbankEventsComplete : Obligations.SeedbankEventsComplete := by
  refine ⟨fun flips j js key mask rest long cur s hj hk hkind => ?_, fun flips j js key mask k rest close s hj hk hkind => ?_, fun flips j js key mask map rest owner s hj hk hkind => ?_,
    fun _ _ _ _ _ hx hq => exec_insertCommit_queued hx hq, fun _ => rfl, fun _ _ _ h => exec_evictionEngineCommit_marked h, fun _ _ _ hx hj ht => exec_cursorIdleExpiry_idle hx hj ht,
    fun t s h hcool => ?_, fun t s h hwarm hmax => ?_, fun _ _ _ _ hb hu ha hd => exec_shadowCompare_repairs hb hu ha hd, fun _ _ flip _ _ hb hu ha hx => exec_shadowCompare_drops flip hb hu ha hx⟩
  · simp only [exec_seedSearch_queued flips hj hk, hkind]
  · simp only [exec_seedSearch_queued flips hj hk, hkind]
  · simp only [exec_seedSearch_queued flips hj hk, hkind]
  · rw [exec_seedRateUpdate_unthrottled t h, if_pos hcool]
  · rw [exec_seedRateUpdate_unthrottled t h, if_neg (Nat.not_le.mpr hwarm), Nat.min_eq_left hmax]

end Sys2Proof.Machine

/-! SUPPORT. The statement of `spec/10_gleaner_block_retrieval.md` on commands: the GLEAN commands (R294, R298 to R301, R305, R306, R309, R311 to R316, R318, R319). -/

namespace Sys2Proof.Machine

variable {s : State} {c : Cmd}

/-! What the GLEAN commands share. -/

/-- Where the buffers pass every check, none is refused and no input is poisoned (R192). -/
theorem bufferCheck_none (h : bufferCheck c s = none) : bufferRefused c s = none ∧ inputPoisoned c s = false := by
  unfold bufferCheck at h
  cases hr : bufferRefused c s with
  | some e => simp [hr] at h
  | none => simpa [hr] using h

/-- SWATH 0xFFF names no swath: it unbinds (R300). -/
@[simp] theorem bindTarget_unbinds (s : State) (c : Cmd) (x : Seq) : bindTarget s c x 0xFFF = .ok none := rfl

/-- Where no swath is named there are no dimensions to compare (R301). -/
@[simp] theorem dimsDiffer_none (s : State) (x : Seq) (layers : List Nat) : dimsDiffer s x none layers = false := rfl

/-! Creating and dropping swaths (R294, R298-R300, R309). -/

theorem gleanSwathCreate_ends (k : Nat) : EndsAt 0x09 0x01 .gleanSwathCreate (fun c s => argsOnly c [] = true ∧ bufferCheck c s = none ∧ 64 ≤ c.inLen ∧ swathHeader c.input = true ∧ c.inLen = (swathPlan (inU c 2 2) (2 ^ inU c 4 1)).stop ∧
      swathFinite (swathFrom (cmdCtx s c) c.input) = true ∧ s.gln.swaths.length < 4096 ∧ sumN (s.gln.swaths.map (fun e => 2 ^ e.2.itemsLog2)) + 2 ^ inU c 5 1 ≤ 2 ^ 30 ∧
      areaUsed s + (swathFrom (cmdCtx s c) c.input).bytes ≤ s.tir.glnAreaGib * 2 ^ 30 ∧ tblFree? s.gln.swaths 4096 = some k)
    (fun _ _ => { r0 := k }) (fun c s => setSwath k (swathFrom (cmdCtx s c) c.input) s) := by
  refine ends_of (fun _ _ => rfl) ?_
  rintro _ c s ⟨ha, hb, hmin, hhead, hlen, hfin, hcount, hitems, harea, hfree⟩
  have hroom : (decide (4096 ≤ s.gln.swaths.length) || decide (2 ^ 30 < sumN (s.gln.swaths.map (fun e => 2 ^ e.2.itemsLog2)) + 2 ^ inU c 5 1)) = false := by
    simp only [Bool.or_eq_false_iff, decide_eq_false_iff_not]
    exact ⟨Nat.not_le.mpr hcount, Nat.not_lt.mpr hitems⟩
  have hwhole : (c.inLen != (swathPlan (inU c 2 2) (2 ^ inU c 4 1)).stop) = false := by simp [hlen]
  have hlog : (swathFrom (cmdCtx s c) c.input).itemsLog2 = inU c 5 1 := rfl
  dsimp only
  simp only [ha, hb, if_neg (Nat.not_lt.mpr hmin), hhead, hwhole, hfin, hlog, hroom, if_neg (Nat.not_lt.mpr harea), hfree, Bool.not_true, Bool.false_eq_true, if_false]
  rfl

theorem gleanSwathDrop_ends (w : Swath) : EndsAt 0x09 0x02 .gleanSwathDrop (fun c s => argsOnly c [(32, 0, 12)] = true ∧ swathOf c (argBits c 32 0 12) s = .ok w ∧ (judge c { unit := 0x09, obj := argBits c 32 0 12 } (.content 1) s).1 = true)
    (fun _ _ => {}) (fun c s => dropSwath (argBits c 32 0 12) (judge c { unit := 0x09, obj := argBits c 32 0 12 } (.content 1) s).2) := by
  refine ends_of (fun _ _ => rfl) ?_
  rintro _ c s ⟨ha, hw, hj⟩
  dsimp only
  rw [ha, hw, judge_applied hj]
  rfl

/-! Binding (R300, R301, R312). -/

/-- The sheaves that are posted carry the order number of the command that binds (R301, R303). -/
theorem gleanBind_ends (x : Seq) (w : Swath) : EndsAt 0x09 0x03 .gleanBind (fun c s => argsOnly c [(32, 0, 32), (36, 0, 12), (38, 0, 13), (40, 0, 12), (42, 0, 1), (48, 0, 64)] = true ∧ 1 ≤ argBits c 38 0 13 ∧ argBits c 38 0 13 ≤ 4096 ∧ namedSeq? s (argU c 32 4) = some x ∧
      mayName s c x.ctx = true ∧ argBits c 36 0 12 + argBits c 38 0 13 ≤ x.layers ∧ bindTarget s c x (argBits c 40 0 12) = .ok (some w) ∧ dimsDiffer s x (some w) ((List.range (argBits c 38 0 13)).map (argBits c 36 0 12 + ·)) = false ∧
      filterCheck s c w (argU c 48 8) = none ∧ (judge c { unit := 0x09, obj := 2 ^ 12 + argU c 32 4 * 4096 + argBits c 36 0 12 } (.value c.args.toNat) s).1 = true)
    (fun c s => { r0 := (bindLayers s.cln.current (argU c 32 4) ((List.range (argBits c 38 0 13)).map (argBits c 36 0 12 + ·)) { swath := argBits c 40 0 12, filter := argU c 48 8, deny := argBits c 42 0 1 == 1 } (judge c { unit := 0x09, obj := 2 ^ 12 + argU c 32 4 * 4096 + argBits c 36 0 12 } (.value c.args.toNat) s).2).1 })
    (fun c s => (bindLayers s.cln.current (argU c 32 4) ((List.range (argBits c 38 0 13)).map (argBits c 36 0 12 + ·)) { swath := argBits c 40 0 12, filter := argU c 48 8, deny := argBits c 42 0 1 == 1 } (judge c { unit := 0x09, obj := 2 ^ 12 + argU c 32 4 * 4096 + argBits c 36 0 12 } (.value c.args.toNat) s).2).2) := by
  refine ends_current (fun _ _ => rfl) ?_
  rintro c s ⟨ha, hmin, hmax, hx, hname, hlayers, htarget, hdims, hfilter, hj⟩
  dsimp only
  simp only [ha, Bool.not_true, Bool.false_or, countCheck_passes hmin hmax, Bool.false_eq_true, if_false, hx, hname, if_neg (Nat.not_lt.mpr hlayers), htarget, hdims, Option.bind_some, hfilter]
  rw [judge_applied hj]
  rfl

/-- Where the layers are unbound there is no swath for which dimensions or FILTER would be checked (R300, R301). -/
theorem gleanBind_ends_unbound (x : Seq) : EndsAt 0x09 0x03 .gleanBind (fun c s => argsOnly c [(32, 0, 32), (36, 0, 12), (38, 0, 13), (40, 0, 12), (42, 0, 1), (48, 0, 64)] = true ∧ 1 ≤ argBits c 38 0 13 ∧ argBits c 38 0 13 ≤ 4096 ∧ namedSeq? s (argU c 32 4) = some x ∧
      mayName s c x.ctx = true ∧ argBits c 36 0 12 + argBits c 38 0 13 ≤ x.layers ∧ argBits c 40 0 12 = 0xFFF ∧ (judge c { unit := 0x09, obj := 2 ^ 12 + argU c 32 4 * 4096 + argBits c 36 0 12 } (.value c.args.toNat) s).1 = true)
    (fun _ _ => {}) (fun c s => ((List.range (argBits c 38 0 13)).map (argBits c 36 0 12 + ·)).foldl (fun s l => unbindLayer (argU c 32 4) l s) (judge c { unit := 0x09, obj := 2 ^ 12 + argU c 32 4 * 4096 + argBits c 36 0 12 } (.value c.args.toNat) s).2) := by
  refine ends_of (fun _ _ => rfl) ?_
  rintro _ c s ⟨ha, hmin, hmax, hx, hname, hlayers, hnone, hj⟩
  dsimp only
  simp only [ha, Bool.not_true, Bool.false_or, countCheck_passes hmin hmax, Bool.false_eq_true, if_false, hx, hname, if_neg (Nat.not_lt.mpr hlayers), hnone, bindTarget_unbinds, dimsDiffer_none, Option.bind_none]
  rw [judge_applied hj]
  rfl

/-! Searching and bitmaps (R306, R312-R316, R448). -/

/-- What a search finds is settled when it is accepted, and only its list visits are still to be made (R303, R308, R310). -/
theorem gleanSearch_waits (w : Swath) (map : Option (List Byte)) : WaitsAt 0x09 0x10 .gleanSearch (fun c s => argsOnly c [(32, 0, 12), (34, 0, 9), (36, 0, 9), (38, 0, 3), (39, 0, 8), (40, 0, 32), (44, 0, 18), (48, 0, 64)] = true ∧ 1 ≤ argBits c 34 0 9 ∧ argBits c 34 0 9 ≤ 256 ∧
      1 ≤ argBits c 36 0 9 ∧ argBits c 36 0 9 ≤ 256 ∧ swathOf c (argBits c 32 0 12) s = .ok w ∧ gleanSeqCheck s c = none ∧ bufferCheck c s = none ∧ gleanInput c w ≤ c.inLen ∧ argBits c 34 0 9 * argBits c 36 0 9 * 16 ≤ c.outLen ∧
      readFilter s c w (argU c 48 8) = .ok map ∧ queriesWaiting s + argBits c 34 0 9 ≤ gleanParam s 0x02)
    (fun oid c s => addSearch { oid := oid, swath := argBits c 32 0 12, attend := false, queries := argBits c 34 0 9, todo := gleanVisits w (gleanFound s c w map), done := gleanDone s w (argBits c 36 0 9) (gleanFound s c w map) }
      (tenantAdd (cmdCtx s c) (fun t => { t with comparisons := (t.comparisons + gleanCost s w (gleanFound s c w map)) % 2 ^ 64 }) s)) := by
  refine waits_of (fun _ _ => rfl) ?_
  rintro oid c s ⟨ha, hqmin, hqmax, hwmin, hwmax, hw, hseq, hb, hin, hout, hmap, hroom⟩
  obtain ⟨hrefused, hpoison⟩ := bufferCheck_none hb
  have hargs : ¬ (!argsOnly c [(32, 0, 12), (34, 0, 9), (36, 0, 9), (38, 0, 3), (39, 0, 8), (40, 0, 32), (44, 0, 18), (48, 0, 64)] ||
      argBits c 34 0 9 == 0 || decide (256 < argBits c 34 0 9) || argBits c 36 0 9 == 0 || decide (256 < argBits c 36 0 9)) = true := by
    simp [ha, Nat.one_le_iff_ne_zero.mp hqmin, hqmax, Nat.one_le_iff_ne_zero.mp hwmin, hwmax]
  have hlen : ¬ (decide (c.inLen < gleanInput c w) || decide (c.outLen < argBits c 34 0 9 * argBits c 36 0 9 * 16)) = true := by
    simp [hin, hout]
  dsimp only
  simp only [if_neg hargs, hw, hseq, hrefused, if_neg hlen, hpoison, Bool.false_eq_true, if_false, hmap, if_neg (Nat.not_lt.mpr hroom)]

theorem gleanBitmap_ends (w : Swath) : EndsAt 0x09 0x11 .gleanBitmap (fun c s => argsOnly c [(32, 0, 12), (36, 0, 32), (40, 0, 32), (44, 0, 32)] = true ∧ swathOf c (argBits c 32 0 12) s = .ok w ∧ c.outDevice = true ∧ filterCheck s c w c.outAddr = none ∧
      bufferCheck c s = none ∧ protectedAt s c.outAddr = false ∧ ceilDiv (2 ^ w.itemsLog2) 8 ≤ c.outLen)
    (fun c s => { r0 := (bitmapSlots s (argBits c 32 0 12) w (argU c 36 4) (argU c 40 4) (argU c 44 4)).length, output := bitmapBytes (ceilDiv (2 ^ w.itemsLog2) 8) (bitmapSlots s (argBits c 32 0 12) w (argU c 36 4) (argU c 40 4) (argU c 44 4)), space := ceilDiv (2 ^ w.itemsLog2) 8 })
    (fun _ s => s) := by
  refine ends_of (fun _ _ => rfl) ?_
  rintro _ c s ⟨ha, hw, hdev, hfilter, hb, hplain, hout⟩
  dsimp only
  simp only [ha, hw, hdev, hfilter, hb, hplain, if_neg (Nat.not_lt.mpr hout), Bool.not_true, Bool.false_eq_true, if_false]

/-- A bitmap is written into no protected region (R448). -/
theorem gleanBitmap_ends_protected (w : Swath) : EndsAt 0x09 0x11 .gleanBitmap (fun c s => argsOnly c [(32, 0, 12), (36, 0, 32), (40, 0, 32), (44, 0, 32)] = true ∧ swathOf c (argBits c 32 0 12) s = .ok w ∧ c.outDevice = true ∧ filterCheck s c w c.outAddr = none ∧
      bufferCheck c s = none ∧ protectedAt s c.outAddr = true)
    (fun _ _ => { status := .permission }) (fun _ s => s) := by
  refine ends_of (fun _ _ => rfl) ?_
  rintro _ c s ⟨ha, hw, hdev, hfilter, hb, hprot⟩
  dsimp only
  rw [ha, hw, hdev]
  dsimp only
  rw [hfilter, hb, hprot]
  rfl

/-! Merges, parameters, status (R300, R305, R311, R318, R319). -/

theorem gleanMerge_waits (k : Nat) (ks : List Nat) : WaitsAt 0x09 0x12 .gleanMerge (fun c s => argsOnly c [(32, 0, 12)] = true ∧ mergeTargets s c (argBits c 32 0 12) = .ok (k :: ks))
    (fun oid _ s => let t := startMerging (k :: ks) s
      { t with gln := { t.gln with merges := t.gln.merges ++ [{ oid := oid, left := k :: ks }] } }) := by
  refine waits_of (fun _ _ => rfl) ?_
  rintro _ c s ⟨ha, hks⟩
  dsimp only
  rw [ha, hks]
  rfl

/-- A merge that names no swath has none to wait for (R311). -/
theorem gleanMerge_ends_none : EndsAt 0x09 0x12 .gleanMerge (fun c s => argsOnly c [(32, 0, 12)] = true ∧ mergeTargets s c (argBits c 32 0 12) = .ok []) (fun _ _ => {}) (fun _ s => s) := by
  refine ends_of (fun _ _ => rfl) ?_
  rintro _ c s ⟨ha, hks⟩
  dsimp only
  rw [ha, hks]
  rfl

theorem gleanConfig_waits : WaitsAt 0x09 0x20 .gleanConfig (fun c s => argsOnly c [(32, 0, 16), (40, 0, 64)] = true ∧ gleanRange (argU c 32 2) (argU c 40 8) = true ∧ (judge c { unit := 0x09, obj := 2 ^ 46 + argU c 32 2 } (.value (argU c 40 8)) s).1 = true)
    (fun oid c s => let t := (judge c { unit := 0x09, obj := 2 ^ 46 + argU c 32 2 } (.value (argU c 40 8)) s).2
      { t with cln := { t.cln with staged := t.cln.staged ++ [{ oid := oid, cmd := c, done := { r0 := stagedValue t (fun ch => match ch with | .glean k v => if k == argU c 32 2 then some v else none | _ => none) (gleanParam t (argU c 32 2)) }, change := .glean (argU c 32 2) (argU c 40 8) }] } }) := by
  refine waits_of (fun _ _ => rfl) ?_
  rintro _ c s ⟨ha, hr, hj⟩
  dsimp only
  rw [ha, hr, judge_applied hj]
  rfl

theorem gleanStatus_ends (w : Swath) : EndsAt 0x09 0x21 .gleanStatus (fun c s => argsOnly c [(32, 0, 12)] = true ∧ swathOf c (argBits c 32 0 12) s = .ok w)
    (fun c s => { r0 := liveItems s (argBits c 32 0 12) w + sideCount s * 2 ^ 32, r1 := queriesWaiting s % 65536 + s.gln.busy * 2 ^ 16 + min 0xFFFF (w.items.filter (fun e => e.2.stale && !e.2.retired)).length * 2 ^ 32 + b2n w.merging * 2 ^ 48 + w.wraps * 2 ^ 49 })
    (fun _ s => s) := by
  refine ends_of (fun _ _ => rfl) ?_
  rintro _ c s ⟨ha, hw⟩
  dsimp only
  rw [ha, hw]
  rfl

/-- Settles O41: each command ends or waits as its lemma says. -/
theorem gleanerCommandsComplete : Obligations.GleanerCommandsComplete :=
  ⟨gleanSwathCreate_ends, gleanSwathDrop_ends, gleanBind_ends, gleanBind_ends_unbound, gleanSearch_waits, gleanBitmap_ends, gleanBitmap_ends_protected, gleanMerge_waits, gleanMerge_ends_none, gleanConfig_waits, gleanStatus_ends⟩

end Sys2Proof.Machine

/-! SUPPORT. The statements of `spec/95_what_each_step_holds.md` on a step: it runs the command at the front of the queue or idles, and what it never undoes (R459, R460). -/

namespace Sys2Proof.Machine

variable {s t : State}

/-- A step takes the command at the front of the queue and runs it on the state with the queue's rest. -/
theorem step_cons {c : Instr} {rest : List Instr} (h : s.pending = c :: rest) : step s = exec c { s with pending := rest } := by
  unfold step
  rw [h]

theorem step_nil (h : s.pending = []) : step s = .next (idle s) := by
  unfold step
  rw [h]

/-- Settles O1. -/
theorem stepRunsFrontCommand : Obligations.StepRunsFrontCommand :=
  fun _ _ _ h => step_cons h

/-- Settles O2. -/
theorem emptyQueueOnlyTicks : Obligations.EmptyQueueOnlyTicks :=
  fun _ h => step_nil h

/-- Settles O5: an empty queue idles, which moves the clock alone; else the front command runs on the queue's rest, and every command keeps what `Keeps` names (`keeps_exec`). -/
theorem stepNeverUndoes : Obligations.StepNeverUndoes := by
  intro s t h
  cases hq : s.pending with
  | nil =>
    rw [step_nil hq] at h
    cases h
    exact ⟨hq, rfl, rfl, rfl, rfl, Nat.le_refl _, Nat.le_refl _, List.prefix_refl _⟩
  | cons c rest =>
    rw [step_cons hq] at h
    have hk := keeps_exec h
    exact ⟨hk.pending, hk.now, hk.variant, hk.coreMap, hk.uid, hk.svn, hk.free, hk.out⟩

end Sys2Proof.Machine

/-! SUPPORT. The statements on limited events (R466) and on the thermal trip (R517). -/

namespace Sys2Proof.Machine

variable {s t : State}

/-! Limited events (R466). -/

/-- The first element that meets a test is updated in its place, while the update keeps the test. -/
theorem find?_updFirst {α : Type} {p : α → Bool} {f : α → α} {l : List α} {a : α} (hf : ∀ a, p (f a) = p a) (h : l.find? p = some a) : (updFirst p f l).find? p = some (f a) := by
  induction l with
  | nil => cases h
  | cons b l ih =>
    by_cases hb : p b = true
    · rw [List.find?_cons_of_pos hb] at h
      cases h
      rw [updFirst, if_pos hb, List.find?_cons_of_pos ((hf _).trans hb)]
    · rw [List.find?_cons_of_neg hb] at h
      rw [updFirst, if_neg hb, List.find?_cons_of_neg hb, ih h]

section Limited

variable {code : EventCode} {obj period : Nat} {l : Limit}

/-- Within its period an event is held back and counted (R466). -/
theorem raiseLimited_held (inj : Bool) (dst : List Rcpt) (d : List Byte) (hl : s.hlt.limits.find? (fun l => l.code == code && l.obj == obj) = some l) (hp : s.now < l.last + period) :
    raiseLimited code inj obj period dst d s = { s with hlt := { s.hlt with limits := updFirst (fun l => l.code == code && l.obj == obj) (fun l => { l with held := l.held + 1 }) s.hlt.limits } } := by
  simp only [raiseLimited, hl, if_pos hp]

/-- Once its period is over, an event is written with what was held back in COUNT, and the next period begins (R466). -/
theorem raiseLimited_written (inj : Bool) (dst : List Rcpt) (d : List Byte) (hl : s.hlt.limits.find? (fun l => l.code == code && l.obj == obj) = some l) (hp : l.last + period ≤ s.now) :
    raiseLimited code inj obj period dst d s = raiseN code inj (l.held + 1) dst d
      { s with hlt := { s.hlt with limits := updFirst (fun l => l.code == code && l.obj == obj) (fun l => { l with held := 0, last := s.now }) s.hlt.limits } } := by
  simp only [raiseLimited, hl, if_neg (Nat.not_lt.mpr hp)]

end Limited

/-- Settles O17: before and after the end of the period, the record of the event's object is updated in its place. -/
theorem limitedEventsAreCounted : Obligations.LimitedEventsAreCounted :=
  fun _ inj _ _ dst d _ _ hl =>
    ⟨fun hp => ⟨_, raiseLimited_held inj dst d hl hp, find?_updFirst (fun _ => rfl) hl⟩,
     fun hp => ⟨_, raiseLimited_written inj dst d hl hp, find?_updFirst (fun _ => rfl) hl⟩⟩

/-! The thermal trip (R517). -/

/-- No start runs once it has been ended. -/
theorem running_endStart (s : State) : (endStart s).mod.running = false := by
  unfold endStart
  split
  · rfl
  · exact eq_false_of_ne_true ‹_›

/-- A start that ends leaves the trip latch as it was (R517). -/
theorem trip_endStart (s : State) : (endStart s).mod.trip = s.mod.trip := by
  unfold endStart
  split <;> rfl

/-- A trip takes the rails down, ends the start that runs and latches (R517). -/
theorem tripModule_mod (n c : Nat) (s : State) : (tripModule n c s).mod.rails = .off ∧ (tripModule n c s).mod.running = false ∧ pinThermTrip (tripModule n c s) = true :=
  ⟨rfl, running_endStart (raiseNode .thermalTrip (leBytes 1 n ++ leBytes 1 (min 255 c)) s), rfl⟩

/-- PWR_EN falling takes the rails down and releases THERM_TRIP# (R510, R517). -/
theorem exec_pwrEnFall (s : State) :
    exec .pwrEnFall s = .next { railsDown s with mod := { (railsDown s).mod with pwrEn := false, trip := if s.mod.trip = .latched then .cooling else s.mod.trip } } := by
  change execPwrEnFall s = _
  have htrip : (railsDown s).mod.trip = s.mod.trip := trip_endStart s
  simp only [execPwrEnFall, htrip, beq_iff_eq]

/-- The latch holds until PWR_EN rises over dies that all read 20 K below their threshold (R517). -/
theorem rails_railsUp_tripped (h : s.mod.trip ≠ .none) : (railsUp s).mod.rails = s.mod.rails := by
  simp [railsUp, h]

theorem rails_railsUp_rising (hp : s.mod.pwrEn = true) (hi : s.mod.inputUp = true) (ht : s.mod.trip = .none) (hr : s.mod.rails = .off) : (railsUp s).mod.rails = .rising := by
  simp [railsUp, hp, hi, ht, hr]

theorem coolEnough_iff {temps : List Nat} : coolEnough temps = true ↔ ∀ x ∈ temps.take 6, x ≤ 95 := by
  simp [coolEnough]

/-- Settles O20: the trip ends the start that runs, and the latch leaves its state only at a fall of PWR_EN and then at a rise over cool dies. -/
theorem thermalTripHolds : Obligations.ThermalTripHolds := by
  refine ⟨fun temps flow sense s hr hm ht => ?_, fun s => ⟨_, exec_pwrEnFall s, ?_, rfl, fun h => ?_⟩, fun mv temps s hr hn hh => ⟨_, exec_pwrEnRise mv temps s, ?_⟩,
    fun mv temps s hr hi hc ht => ⟨_, exec_pwrEnRise mv temps s, ?_⟩⟩
  · obtain ⟨e, he⟩ := Option.isSome_iff_exists.mp ht
    exact ⟨_, exec_thermalSample_tripped hr hm he, tripModule_mod _ _ _⟩
  · simp only [pinThermTrip]
    by_cases hl : s.mod.trip = .latched <;> simp [hl]
  · exact if_pos (by simpa [pinThermTrip] using h)
  · have hkept : ¬ (s.mod.trip = .cooling ∧ coolEnough temps = true) := by
      rintro ⟨hc, hcool⟩
      rcases hh with hl | ⟨x, hx, hhot⟩
      · exact absurd (hc.symm.trans hl) (by decide)
      · exact absurd (coolEnough_iff.mp hcool x hx) (by omega)
    exact (rails_railsUp_tripped (ne_of_eq_of_ne (if_neg hkept) hn)).trans hr
  · exact rails_railsUp_rising rfl hi (if_pos ⟨hc, coolEnough_iff.mpr ht⟩) hr

end Sys2Proof.Machine

/-! SUPPORT. The statements of `spec/15_health_errors_lifetime.md` on spark points (R468 to R471, R532), the tally and strain (R478 to R486), stragglers and metering (R487, R494 to R496), and the drain to the stand-in (R488 to R492, R497). -/

namespace Sys2Proof.Machine

variable {s : State}

/-! Spark points (R468-R471, R532). -/

theorem sparkArm_ends (h : Nat) : EndsAt 0x0D 0x01 .sparkArm (fun c s => argsOnly c [(32, 0, 16), (34, 0, 16), (36, 0, 2), (38, 0, 16), (40, 0, 32), (44, 0, 16), (46, 0, 16)] = true ∧ armFieldsOk c = true ∧ s.sec.conf = false ∧
      sparkInstance s (argU c 32 2) (argU c 34 2) = none ∧ tblFree? s.hlt.arms 64 = some h ∧ (judge c { unit := 0x0D, obj := h } (.activation 2) s).1 = true)
    (fun _ _ => { r0 := h }) (fun c s => let t := (judge c { unit := 0x0D, obj := h } (.activation 2) s).2
      { t with hlt := { t.hlt with arms := tblSet t.hlt.arms h (armOf c t) }, sec := { t.sec with debugSeen := true } }) := by
  refine ends_of (fun _ _ => rfl) ?_
  rintro _ c s ⟨ha, hf, hc, hi, hh, hj⟩
  dsimp only
  simp only [ha, hf, hc, hi, hh]
  rw [judge_applied hj]
  rfl

/-- An arm takes effect once DELAY_US has passed since its acceptance (R469). -/
theorem exec_sparkArmEffective_due {h : Nat} {a : Arm} (ha : tblGet? s.hlt.arms h = some a) (hd : a.from_ + a.delayUs * 1000 ≤ s.now) :
    exec (.sparkArmEffective h) s = .next { s with hlt := { s.hlt with arms := tblSet s.hlt.arms h { a with effective := true } } } := by
  change execSparkArmEffective h s = _
  have hlive : armLive s a = true := by simp [armLive, us, hd]
  simp only [execSparkArmEffective, ha, if_pos hlive]

theorem sparkDisarm_ends_one : EndsAt 0x0D 0x02 .sparkDisarm (fun c s => argsOnly c [(32, 0, 8)] = true ∧ argU c 32 1 ≠ 0xFF ∧ tblHas s.hlt.arms (argU c 32 1) = true)
    (fun _ _ => {}) (fun c s => disarm c s (argU c 32 1)) := by
  refine ends_of (fun _ _ => rfl) ?_
  rintro _ c s ⟨ha, hn, hh⟩
  simp [ha, hn, hh, ok]

/-- Handle 0xFF takes away every arm (R471). -/
theorem sparkDisarm_ends_all : EndsAt 0x0D 0x02 .sparkDisarm (fun c _ => argsOnly c [(32, 0, 8)] = true ∧ argU c 32 1 = 0xFF)
    (fun _ _ => {}) (fun c s => (s.hlt.arms.map (·.1)).foldl (disarm c) s) := by
  refine ends_of (fun _ _ => rfl) ?_
  rintro _ c s ⟨ha, hn⟩
  simp [ha, hn, ok]

theorem sparkStatus_ends : EndsAt 0x0D 0x03 .sparkStatus (fun c s => argsOnly c [] = true ∧ bufferCheck c s = none ∧ 16 * s.hlt.arms.length ≤ c.outLen)
    (fun _ s => { r0 := s.hlt.arms.length, output := (s.hlt.arms.map (fun e => armBytes e.1 e.2)).flatten, space := 16 * s.hlt.arms.length }) (fun _ s => s) := by
  refine ends_of (fun _ _ => rfl) ?_
  rintro _ c s ⟨ha, hb, hl⟩
  simp [ha, hb, Nat.not_lt.mpr hl]

/-! The tally, strain and the timed rows (R478-R486). -/

theorem tallyRead_ends (count size : Nat) : EndsAt 0x0D 0x10 .tallyRead (fun c s => sectionOf s (argU c 32 1) = some (count, size) ∧ argsOnly c [(32, 0, 8), (36, 0, 64)] = true ∧
      argU c 36 4 + argU c 40 4 ≤ count ∧ bufferCheck c s = none ∧ size * argU c 40 4 ≤ c.outLen)
    (fun c s => { output := ((List.range (argU c 40 4)).map (fun i => sectionRecord s (argU c 32 1) (argU c 36 4 + i))).flatten, space := size * argU c 40 4 }) (fun _ s => s) := by
  refine ends_of (fun _ _ => rfl) ?_
  rintro _ c s ⟨hs, ha, hn, hb, hl⟩
  simp [hs, ha, hb, Nat.not_lt.mpr hn, Nat.not_lt.mpr hl]

theorem exec_rtcSet_locked (h : s.oln.sync = .locked) : exec .rtcSet s = .next { s with mod := { s.mod with rtc := (fabricTime s : Int) - (s.now : Int) } } :=
  congrArg Host.Outcome.next (if_pos (beq_iff_eq.mpr h))

/-- Settles O54: the case lemma of each command and of each row that has a condition; the other timed rows are their definitions. -/
theorem sparkAndTallyRowsComplete : Obligations.SparkAndTallyRowsComplete :=
  ⟨sparkArm_ends, fun _ _ _ ha hd => exec_sparkArmEffective_due ha hd, sparkDisarm_ends_one, sparkDisarm_ends_all, sparkStatus_ends, tallyRead_ends,
   fun _ => rfl, fun _ => rfl, fun _ => rfl, fun _ _ => rfl, fun _ h => exec_rtcSet_locked h⟩

/-! Stragglers and metering (R487, R494-R496). -/

/-- A FIELD_RATE below the others' for STRAGGLER_HOLD_MS makes the member a straggler (R487). -/
theorem exec_stragglerHoldExpiry_slow (hs : s.hlt.straggler = false) (hp : healthParam s 0x01 ≠ 0) (hh : stragglerHeld s s.hlt.stragglerSince = true) :
    exec .stragglerHoldExpiry s = .next (raiseNode .straggler (stragglerDetail s) { s with hlt := { s.hlt with straggler := true } }) := by
  change execStragglerHoldExpiry s = _
  simp [execStragglerHoldExpiry, hs, hp, hh]

/-- A straggler that has kept up for STRAGGLER_HOLD_MS is one no more (R487). -/
theorem exec_stragglerHoldExpiry_cleared (hs : s.hlt.straggler = true) (hh : stragglerHeld s s.hlt.stragglerOkSince = true) :
    exec .stragglerHoldExpiry s = .next (raiseNode .stragglerCleared (stragglerDetail s) { s with hlt := { s.hlt with straggler := false } }) := by
  change execStragglerHoldExpiry s = _
  simp [execStragglerHoldExpiry, hs, hh]

theorem meterRead_ends : EndsAt 0x0D 0x20 .meterRead (fun c s => argsOnly c [] = true ∧ bufferCheck c s = none ∧ 64 * s.hlt.tenants.length ≤ c.outLen)
    (fun _ s => { output := (s.hlt.tenants.map (fun e => tenantBytes s e.1 e.2)).flatten, space := 64 * s.hlt.tenants.length }) (fun _ s => s) := by
  refine ends_of (fun _ _ => rfl) ?_
  rintro _ c s ⟨ha, hb, hl⟩
  simp [ha, hb, Nat.not_lt.mpr hl]

/-- An ended record is reported once (R495). -/
theorem meterCompositions_ends : EndsAt 0x0D 0x21 .meterCompositions (fun c s => argsOnly c [] = true ∧ bufferCheck c s = none ∧ 32 * s.hlt.comps.length ≤ c.outLen)
    (fun _ s => { output := (s.hlt.comps.map (compBytes s)).flatten, space := 32 * s.hlt.comps.length }) (fun _ s => { s with hlt := { s.hlt with comps := s.hlt.comps.filter (fun r => r.cause == 0) } }) := by
  refine ends_of (fun _ _ => rfl) ?_
  rintro _ c s ⟨ha, hb, hl⟩
  simp [ha, hb, Nat.not_lt.mpr hl]

theorem meterProfile_ends (x : Ctx) : EndsAt 0x0D 0x22 .meterProfile (fun c s => argsOnly c [(32, 0, 12)] = true ∧ bufferCheck c s = none ∧ getCtx? s (argU c 32 2) = some x ∧ mayName s c (argU c 32 2) = true ∧ x.profile = true ∧ 48 ≤ c.outLen)
    (fun _ _ => { output := ((List.range 6).map (fun i => leBytes 8 (tblGetD x.counters i 0))).flatten, space := 48 }) (fun _ s => s) := by
  refine ends_of (fun _ _ => rfl) ?_
  rintro _ c s ⟨ha, hb, hx, hn, hp, hl⟩
  simp [ha, hb, hx, hn, hp, Nat.not_lt.mpr hl]

theorem meterResetTenant_ends : EndsAt 0x0D 0x23 .meterResetTenant (fun c s => argsOnly c [(36, 0, 32)] = true ∧ tblHas s.hlt.tenants (argU c 36 4) = true ∧ (judge c { unit := 0x0D, obj := 2 ^ 33 + argU c 36 4 } (.content 1) s).1 = true)
    (fun _ _ => {}) (fun c s => let t := (judge c { unit := 0x0D, obj := 2 ^ 33 + argU c 36 4 } (.content 1) s).2
      { t with hlt := { t.hlt with tenants := tblDel t.hlt.tenants (argU c 36 4) } }) := by
  refine ends_of (fun _ _ => rfl) ?_
  rintro _ c s ⟨ha, ht, hj⟩
  dsimp only
  rw [judge_applied hj]
  simp [ha, ht, ok]

/-- Settles O55: METER_SAMPLE is its definition, and each other row and command is its case lemma. -/
theorem meterRowsComplete : Obligations.MeterRowsComplete :=
  ⟨fun _ hs hp hh => exec_stragglerHoldExpiry_slow hs hp hh, fun _ hs hh => exec_stragglerHoldExpiry_cleared hs hh, fun _ => rfl,
   meterRead_ends, meterCompositions_ends, meterProfile_ends, meterResetTenant_ends⟩

/-! The drain to the stand-in (R488-R492, R497). -/

theorem drainDelta_ok {n : Nat} (h : n = 0 ∨ 16 ≤ n) : (n != 0 && decide (n < 16)) = false := by
  rcases h with rfl | h
  · rfl
  · simp [Nat.not_lt.mpr h]

theorem healthDrain_waits (notCarried : List Nat) : WaitsAt 0x0D 0x40 (fun c => .healthDrain c true true true true notCarried)
    (fun c s => argsOnly c [(32, 0, 12), (34, 0, 1), (36, 0, 16)] = true ∧ (argU c 36 2 = 0 ∨ 16 ≤ argU c 36 2) ∧ drainActive s = false ∧ s.oln.addr.isSome = true)
    (fun oid c s => beginCopy (drainOf oid c notCarried s) s) := by
  refine waits_of (fun _ _ => rfl) ?_
  rintro _ c s ⟨ha, hd, hi, ho⟩
  obtain ⟨a, ho⟩ := Option.isSome_iff_exists.mp ho
  simp [ha, drainDelta_ok hd, hi, ho]

/-- A stand-in that does not fit, or is not of the node's group, is refused (R488). -/
theorem healthDrain_ends_unfit (notCarried : List Nat) (a b : Bool) : EndsAt 0x0D 0x40 (fun c => .healthDrain c a b true true notCarried)
    (fun c s => argsOnly c [(32, 0, 12), (34, 0, 1), (36, 0, 16)] = true ∧ (argU c 36 2 = 0 ∨ 16 ≤ argU c 36 2) ∧ drainActive s = false ∧ s.oln.addr.isSome = true ∧ (a && b) = false)
    (fun _ _ => { status := .badState }) (fun _ s => s) := by
  refine ends_of (fun _ _ => rfl) ?_
  rintro _ c s ⟨ha, hd, hi, ho, hab⟩
  obtain ⟨n, ho⟩ := Option.isSome_iff_exists.mp ho
  have hunfit : (!a || !b) = true := by rw [← Bool.not_and, hab]; rfl
  simp only [ha, drainDelta_ok hd, hi, ho, hunfit]
  rfl

theorem exec_drainCopyDone_space (hp : s.hlt.drain.phase = .copy) :
    exec (.drainCopyDone false) s = .next (startRound (markedBytes s s.hlt.drain) (setDrain { s.hlt.drain with copied := s.hlt.drain.copied + s.hlt.drain.marked } s)) := by
  change execDrainCopyDone false s = _
  simp [execDrainCopyDone, hp]

/-- A round that leaves fewer marked bytes begins the next one (R489). -/
theorem exec_drainRoundDone_shrinks (hp : s.hlt.drain.phase = .catchUp) (hm : markedBytes s s.hlt.drain < s.hlt.drain.marked) :
    exec (.drainRoundDone false) s = .next (startRound (markedBytes s s.hlt.drain) (setDrain { s.hlt.drain with copied := s.hlt.drain.copied + s.hlt.drain.marked, stuck := 0 } s)) := by
  change execDrainRoundDone false s = _
  simp [execDrainRoundDone, hp, Nat.not_le.mpr hm]

/-- The tenth round that does not shrink the marked bytes fails the drain (R489). -/
theorem exec_drainRoundDone_stuck (hp : s.hlt.drain.phase = .catchUp) (hm : s.hlt.drain.marked ≤ markedBytes s s.hlt.drain) (hs : 9 ≤ s.hlt.drain.stuck) :
    exec (.drainRoundDone false) s = .next (failDrain .busy (setDrain { s.hlt.drain with copied := s.hlt.drain.copied + s.hlt.drain.marked, stuck := s.hlt.drain.stuck + 1 } s)) := by
  change execDrainRoundDone false s = _
  simp [execDrainRoundDone, hp, hm, hs]

theorem exec_drainCopyDone_full (hp : s.hlt.drain.phase = .copy) : exec (.drainCopyDone true) s = .next (failDrain .noSpace s) := by
  change execDrainCopyDone true s = _
  simp [execDrainCopyDone, hp]

theorem exec_drainRoundDone_full (hp : s.hlt.drain.phase = .catchUp) : exec (.drainRoundDone true) s = .next (failDrain .noSpace s) := by
  change execDrainRoundDone true s = _
  simp [execDrainRoundDone, hp]

theorem exec_drainQuiesced_full (hp : s.hlt.drain.phase = .quiesce) (hq : isQuiet s = true) : exec (.drainQuiesced true) s = .next (failDrain .noSpace s) := by
  change execDrainQuiesced true s = _
  simp [execDrainQuiesced, hp, hq]

theorem exec_drainQuiesced_ready {oid : Nat} (hp : s.hlt.drain.phase = .quiesce) (hq : isQuiet s = true) (ho : s.hlt.drain.oid = some oid) :
    exec (.drainQuiesced false) s = .next (finish oid {} (drainReady s.hlt.drain s)) := by
  change execDrainQuiesced false s = _
  simp [execDrainQuiesced, hp, hq, ho]

theorem healthDrainStatus_ends : EndsAt 0x0D 0x41 .healthDrainStatus (fun c s => argsOnly c [] = true ∧ bufferCheck c s = none ∧ 4 * (drainLeft s).length ≤ c.outLen)
    (fun _ s => { r0 := drainPhaseCode s.hlt.drain.phase + s.hlt.drain.copied % 2 ^ 56 * 2 ^ 8, r1 := (drainLeft s).length, output := ((drainLeft s).map (leBytes 4)).flatten, space := 4 * (drainLeft s).length }) (fun _ s => s) := by
  refine ends_of (fun _ _ => rfl) ?_
  rintro _ c s ⟨ha, hb, hl⟩
  simp [ha, hb, Nat.not_lt.mpr hl]

theorem healthDrainCancel_ends : EndsAt 0x0D 0x42 .healthDrainCancel (fun c s => argsOnly c [] = true ∧ drainActive s = true) (fun _ _ => {}) (fun _ s => failDrain .aborted s) := by
  refine ends_of (fun _ _ => rfl) ?_
  rintro _ c s ⟨ha, hd⟩
  simp [ha, hd, ok]

/-- Settles O57: each command and each row of the drain is its case lemma. -/
theorem drainRowsComplete : Obligations.DrainRowsComplete :=
  ⟨healthDrain_waits, healthDrain_ends_unfit, fun _ hp => exec_drainCopyDone_space hp, fun _ hp hm => exec_drainRoundDone_shrinks hp hm, fun _ hp hm hs => exec_drainRoundDone_stuck hp hm hs,
   fun _ hp => exec_drainCopyDone_full hp, fun _ hp => exec_drainRoundDone_full hp, fun _ hp hq => exec_drainQuiesced_full hp hq, fun _ _ hp hq ho => exec_drainQuiesced_ready hp hq ho,
   healthDrainStatus_ends, healthDrainCancel_ends⟩

end Sys2Proof.Machine

/-! SUPPORT. The statements of `spec/14_contexts_security_attestation.md` (R428 to R461): contexts, key slots and the parameters of the security unit, firmware images, the SPDM responder; and the MOD commands, the management paths and JTAG (R457, R512, R516, R519 to R525). -/

namespace Sys2Proof.Machine

variable {s : State}

/-! Contexts (R428-R432, R437). -/

theorem contextCreate_ends : EndsAt 0x0C 0x01 .contextCreate (fun c s => argsOnly c [] = true ∧ bufferCheck c s = none ∧ 64 ≤ c.inLen ∧ ctxFieldsOk c = true ∧ ctxKeysOk s c = true ∧
      (s.sec.conf = false ∨ bitOf (inU c 2 1) 0 = true ∨ bitOf (inU c 2 1) 1 = true) ∧ tblHas s.sec.ctxs (inU c 0 2) = false ∧ residents s < 1024)
    (fun _ _ => {}) (fun c s => openTenant (inU c 4 4) { s with sec := { s.sec with ctxs := tblSet s.sec.ctxs (inU c 0 2) (ctxOf s c) } }) := by
  refine ends_of (fun _ _ => rfl) ?_
  rintro _ c s ⟨ha, hb, hl, hf, hk, hc, hn, hr⟩
  have hconf : (s.sec.conf && !bitOf (inU c 2 1) 0 && !bitOf (inU c 2 1) 1) = false := by
    rcases hc with h | h | h <;> simp [h]
  simp [ha, hb, Nat.not_lt.mpr hl, hf, hk, hconf, hn, Nat.not_le.mpr hr, ok]

/-- A context that no ring keeps is destroyed once all that it owns has gone (R432). -/
theorem contextDestroy_waits (k : Nat) (x : Ctx) : WaitsThen (fun t => settleDestroys (settleWork t)) 0x0C 0x02 .contextDestroy
    (fun c s => namedCtx s c = .ok (k, x) ∧ ringsOf s k = false ∧ (judge c (ctxTarget k) (.content 1) s).1 = true)
    (fun oid c s => let t := dropKeys k (dropObjects k (judge c (ctxTarget k) (.content 1) s).2)
      { t with sec := { t.sec with ctxs := tblUpd t.sec.ctxs k (fun x => { x with destroyBy := some oid }) } }) := by
  refine waits_of (after := fun t => settleDestroys (settleWork t)) (fun _ _ => rfl) ?_
  rintro _ c s ⟨hn, hr, hj⟩
  dsimp only
  rw [hn]
  dsimp only
  rw [judge_applied hj, hr]
  rfl

theorem contextPark_ends (k : Nat) (x : Ctx) : EndsAt 0x0C 0x03 .contextPark (fun c s => namedCtx s c = .ok (k, x) ∧ ctxBusy s k = false ∧ (judge c (ctxTarget k) (.activation 1) s).1 = true)
    (fun _ _ => {}) (fun c s => let t := (judge c (ctxTarget k) (.activation 1) s).2
      { t with sec := { t.sec with ctxs := tblSet t.sec.ctxs k { x with resident := false } } }) := by
  refine ends_of (fun _ _ => rfl) ?_
  rintro _ c s ⟨hn, hb, hj⟩
  dsimp only
  rw [hn]
  dsimp only
  rw [judge_applied hj, hb]
  rfl

theorem contextReside_ends (k : Nat) (x : Ctx) : EndsAt 0x0C 0x04 .contextReside (fun c s => namedCtx s c = .ok (k, x) ∧ (x.resident = true ∨ residents s < 1024) ∧ (judge c (ctxTarget k) (.activation 2) s).1 = true)
    (fun _ _ => {}) (fun c s => let t := (judge c (ctxTarget k) (.activation 2) s).2
      { t with sec := { t.sec with ctxs := tblSet t.sec.ctxs k { x with resident := true } } }) := by
  refine ends_of (fun _ _ => rfl) ?_
  rintro _ c s ⟨hn, hr, hj⟩
  have hroom : (!x.resident && decide (1024 ≤ residents s)) = false := by
    rcases hr with h | h
    · simp [h]
    · simp [Nat.not_le.mpr h]
  dsimp only
  rw [hn]
  dsimp only
  rw [judge_applied hj, hroom]
  rfl

theorem contextQuery_ends (x : Ctx) : EndsAt 0x0C 0x05 .contextQuery (fun c s => argsOnly c [(32, 0, 12)] = true ∧ bufferCheck c s = none ∧ getCtx? s (argBits c 32 0 12) = some x ∧ mayName s c (argBits c 32 0 12) = true ∧ 64 ≤ c.outLen)
    (fun _ _ => { r0 := b2n x.resident, output := x.desc, space := 64 }) (fun _ s => s) := by
  refine ends_of (fun _ _ => rfl) ?_
  rintro _ c s ⟨ha, hb, hx, hn, hl⟩
  simp [ha, hb, hx, hn, Nat.not_lt.mpr hl]

/-! Key slots (R439-R445, R450, R452, R457). -/

theorem keyLoad_ends (e : Envelope) (key : List Byte) (groups : Tbl KeyGroup) (unwrapped : Option (List Byte)) : EndsAt 0x0C 0x10 (fun c => .keyLoad c unwrapped)
    (fun c s => argsOnly c [] = true ∧ bufferCheck c s = none ∧ envelopeOf c = .ok e ∧ (s.sec.conf = false ∨ e.wrapped = true) ∧ (e.wrapped = false ∨ s.sec.attested = true) ∧
      envelopeKey s c e unwrapped = some key ∧ groupsAfter s e = .ok groups ∧ slotShadow s e.slot = none ∧ slotInUse s e.slot = false ∧ s.sec.nextGen < 2 ^ 32 ∧ (judge c (slotTarget e.slot) (.content 2) s).1 = true)
    (fun c s => { r0 := (putKey e (key.take 64) groups (judge c (slotTarget e.slot) (.content 2) s).2).1 }) (fun c s => (putKey e (key.take 64) groups (judge c (slotTarget e.slot) (.content 2) s).2).2) := by
  refine ends_of (fun _ _ => rfl) ?_
  rintro _ c s ⟨ha, hb, he, hc, hat, hk, hg, hs, hu, hn, hj⟩
  have hconf : ¬ (s.sec.conf && !e.wrapped) = true := by rcases hc with h | h <;> simp [h]
  have hattested : ¬ (e.wrapped && !s.sec.attested) = true := by rcases hat with h | h <;> simp [h]
  dsimp only
  simp only [ha, hb, he, if_neg hconf, if_neg hattested, hk, hg, hs, hu, if_neg (Nat.not_le.mpr hn)]
  rw [judge_applied hj]
  rfl

theorem keyErase_ends : EndsAt 0x0C 0x11 .keyErase (fun c s => argsOnly c [(32, 0, 8)] = true ∧ (judge c (slotTarget (argU c 32 2)) (.content 1) s).1 = true)
    (fun _ _ => {}) (fun c s => eraseSlot (argU c 32 2) (judge c (slotTarget (argU c 32 2)) (.content 1) s).2) := by
  refine ends_of (fun _ _ => rfl) ?_
  rintro _ c s ⟨ha, hj⟩
  dsimp only
  rw [judge_applied hj, ha]
  rfl

theorem keyQuery_ends (x : KeySlot) : EndsAt 0x0C 0x12 .keyQuery (fun c s => argsOnly c [(32, 0, 8)] = true ∧ tblGet? s.sec.keys (argU c 32 2) = some x ∧ mayName s c x.owner = true)
    (fun c s => { r0 := slotState s (argU c 32 2) + x.usage * 8 + x.owner * 2 ^ 16 + x.generation * 2 ^ 32, r1 := min (2 ^ 64 - 1) x.counter }) (fun _ s => s) := by
  refine ends_of (fun _ _ => rfl) ?_
  rintro _ c s ⟨ha, hx, hn⟩
  dsimp only
  rw [ha, hx]
  dsimp only
  rw [hn]
  rfl

/-- An EMPTY slot is queried by anyone (log entry 50). -/
theorem keyQuery_ends_empty : EndsAt 0x0C 0x12 .keyQuery (fun c s => argsOnly c [(32, 0, 8)] = true ∧ tblGet? s.sec.keys (argU c 32 2) = none) (fun _ _ => {}) (fun _ s => s) := by
  refine ends_of (fun _ _ => rfl) ?_
  rintro _ c s ⟨ha, hx⟩
  dsimp only
  rw [ha, hx]
  rfl

/-- A job is bound to a slot that holds a FABRIC key (R450). -/
theorem keyBindJob_ends : EndsAt 0x0C 0x13 .keyBindJob (fun c s => argsOnly c [(32, 0, 32)] = true ∧ argU c 34 2 ≠ 0xFFFF ∧ fabricKey s (argU c 34 2) = true ∧ (judge c (slotTarget (argU c 34 2)) (.value (argU c 32 2)) s).1 = true)
    (fun _ _ => {}) (fun c s => let t := (judge c (slotTarget (argU c 34 2)) (.value (argU c 32 2)) s).2
      { t with sec := { t.sec with jobKeys := tblSet t.sec.jobKeys (argU c 32 2) (argU c 34 2) } }) := by
  refine ends_of (fun _ _ => rfl) ?_
  rintro _ c s ⟨ha, hk, hf, hj⟩
  have hbind : (argU c 34 2 == 0xFFFF) = false := beq_eq_false_iff_ne.mpr hk
  have hslot : bindTargetSlot s (argU c 32 2) (argU c 34 2) = argU c 34 2 := if_neg (by simp [hbind])
  have hgood : ¬ (!argsOnly c [(32, 0, 32)] || (argU c 34 2 != 0xFFFF && !fabricKey s (argU c 34 2))) = true := by simp [ha, hf]
  dsimp only
  rw [if_neg hgood, hslot, hbind, if_neg Bool.false_ne_true, Nat.add_zero, judge_applied hj]
  rfl

/-- A shadow goes once no operation holds it, that of a FABRIC slot after 10 ms (R444). -/
theorem exec_keyShadowDiscard_free {k : Nat} {x : KeySlot} {h : Shadow} (hx : tblGet? s.sec.keys k = some x) (hh : x.shadow = some h) (ho : h.ops = []) (ht : x.usage = 2 → h.since + 10000000 ≤ s.now) :
    exec (.keyShadowDiscard k) s = .next { s with sec := { s.sec with keys := tblSet s.sec.keys k { x with shadow := none } } } := by
  change execKeyShadowDiscard k s = _
  have hfree : (!h.ops.isEmpty || (x.usage == 2 && decide (s.now < h.since + 10 * ms))) = false := by
    by_cases hu : x.usage = 2
    · have hlate := ht hu
      have hdue : ¬ s.now < h.since + 10 * ms := Nat.not_lt.mpr hlate
      simp [ho, hdue]
    · simp [ho, hu]
  simp only [execKeyShadowDiscard, hx, hh, hfree]
  rfl

/-- A parameter of the security unit takes its value, but the open path is not closed again in confidential mode (R435, R456, R457). -/
theorem secConfig_ends (was : Nat) : EndsAt 0x0C 0x20 .secConfig (fun c s => argsOnly c [(32, 0, 16), (40, 0, 64)] = true ∧ argU c 40 8 ≤ (if argU c 32 2 == 2 then 255 else 1) ∧ secValue s (argU c 32 2) = some was ∧
      ¬(argU c 32 2 = 1 ∧ argU c 40 8 = 0 ∧ s.sec.conf = true) ∧ (judge c { unit := 0x0C, obj := 2 ^ 18 + argU c 32 2 } (.value (argU c 40 8)) s).1 = true)
    (fun _ _ => { r0 := was }) (fun c s => setSecValue (argU c 32 2) (argU c 40 8) (judge c { unit := 0x0C, obj := 2 ^ 18 + argU c 32 2 } (.value (argU c 40 8)) s).2) := by
  refine ends_of (fun _ _ => rfl) ?_
  rintro _ c s ⟨ha, hv, hw, hp, hj⟩
  have hallowed : ¬ (argU c 32 2 == 1 && argU c 40 8 == 0 && s.sec.conf) = true := by
    simpa [and_assoc] using hp
  dsimp only
  rw [ha, decide_eq_false (Nat.not_lt.mpr hv), hw]
  dsimp only
  rw [if_neg hallowed, judge_applied hj]
  rfl

/-- Settles O51: each command ends or waits as its lemma says, and KEY_SHADOW_DISCARD is its case lemma. -/
theorem securityCommandsComplete : Obligations.SecurityCommandsComplete :=
  ⟨contextCreate_ends, contextDestroy_waits, contextPark_ends, contextReside_ends, contextQuery_ends, keyLoad_ends, keyErase_ends, keyQuery_ends, keyQuery_ends_empty, keyBindJob_ends,
   fun _ _ _ _ hx hh ho ht => exec_keyShadowDiscard_free hx hh ho ht, secConfig_ends⟩

/-! Firmware images and banks (R458-R461). -/

theorem fwStage_ends : EndsAt 0x0C 0x30 .fwStage (fun c s => argsOnly c [(32, 0, 32)] = true ∧ argU c 32 4 % 4096 = 0 ∧ bufferCheck c s = none ∧ 4096 ≤ c.inLen ∧ c.inLen ≤ 65536 ∧ argU c 32 4 + c.inLen ≤ 2 ^ 24 ∧ onTrial s = false ∧ (judge c bankTarget (.content 2) s).1 = true)
    (fun _ _ => {}) (fun c s => let t := (judge c bankTarget (.content 2) s).2
      setFwBank (idleBank t) (memPut (if argU c 32 4 == 0 then [] else fwBank t (idleBank t)) (argU c 32 4) c.input) t) := by
  refine ends_of (fun _ _ => rfl) ?_
  rintro _ c s ⟨ha, hal, hb, hmin, hmax, hend, ht, hj⟩
  have hlen : ¬ (decide (c.inLen < 4096) || decide (65536 < c.inLen)) = true := by simp [hmin, hmax]
  dsimp only
  simp only [ha, hal, hb, if_neg hlen, if_neg (Nat.not_lt.mpr hend), ht]
  rw [judge_applied hj]
  rfl

/-- An authentic image of the module whose SVN is not behind the fuses is tried at the next start (R460). -/
theorem fwActivate_ends_trial : EndsAt 0x0C 0x31 (fun c => .fwActivate c true) (fun c s => argsOnly c [] = true ∧ s.hlt.arms = [] ∧ imageAuthentic s (idleBank s) true = true ∧ s.fuse.svn ≤ imageSvn s (idleBank s) ∧
      fwField s (idleBank s) 7 1 = 0xB1 ∧ fwField s (idleBank s) 10 1 = 3 ∧ (judge c bankTarget (.value 1) s).1 = true)
    (fun c s => let t := (judge c bankTarget (.value 1) s).2
      { r0 := fwResult { t with sec := { t.sec with bootBank := idleBank s, trial := true, trialStarts := 0 } } })
    (fun c s => let t := (judge c bankTarget (.value 1) s).2
      { t with sec := { t.sec with bootBank := idleBank s, trial := true, trialStarts := 0 } }) := by
  refine ends_of (fun _ _ => rfl) ?_
  rintro _ c s ⟨ha, hs, hi, hv, hd, hm, hj⟩
  dsimp only
  rw [ha, sparkCheck_unarmed hs]
  dsimp only
  rw [hi, if_neg (Nat.not_lt.mpr hv), hd, hm, judge_applied hj]
  rfl

theorem fwActivate_ends_rollback : EndsAt 0x0C 0x31 (fun c => .fwActivate c true)
    (fun c s => argsOnly c [] = true ∧ s.hlt.arms = [] ∧ imageAuthentic s (idleBank s) true = true ∧ imageSvn s (idleBank s) < s.fuse.svn) (fun _ _ => { status := .rollbackRefused }) (fun _ s => s) := by
  refine ends_of (fun _ _ => rfl) ?_
  rintro _ c s ⟨ha, hs, hi, hv⟩
  dsimp only
  rw [ha, sparkCheck_unarmed hs]
  dsimp only
  rw [hi, if_pos hv]
  rfl

/-- No image is authentic whose signature does not verify (R458). -/
theorem imageAuthentic_unsigned (s : State) (b : Nat) : imageAuthentic s b false = false := by
  simp [imageAuthentic]

theorem fwActivate_ends_unsigned : EndsAt 0x0C 0x31 (fun c => .fwActivate c false) (fun c s => argsOnly c [] = true ∧ s.hlt.arms = []) (fun _ _ => { status := .authFailed }) (fun _ s => s) := by
  refine ends_of (fun _ _ => rfl) ?_
  rintro _ c s ⟨ha, hs⟩
  dsimp only
  rw [ha, sparkCheck_unarmed hs]
  dsimp only
  rw [imageAuthentic_unsigned]
  rfl

theorem fwCommit_ends : EndsAt 0x0C 0x32 .fwCommit (fun c s => argsOnly c [(32, 0, 1)] = true ∧ (judge c bankTarget (.value (2 + b2n (argBits c 32 0 1 == 1))) s).1 = true)
    (fun c s => { r0 := (commitImage (argBits c 32 0 1 == 1) (judge c bankTarget (.value (2 + b2n (argBits c 32 0 1 == 1))) s).2).fuse.svn })
    (fun c s => commitImage (argBits c 32 0 1 == 1) (judge c bankTarget (.value (2 + b2n (argBits c 32 0 1 == 1))) s).2) := by
  refine ends_of (fun _ _ => rfl) ?_
  rintro _ c s ⟨ha, hj⟩
  dsimp only
  rw [ha, judge_applied hj]
  rfl

theorem fwStatus_ends (sig : Bool) : EndsAt 0x0C 0x33 (fun c => .fwStatus c sig) (fun c _ => argsOnly c [] = true) (fun _ s => { r0 := fwResult s, r1 := if imageOk s (idleBank s) sig then fwField s (idleBank s) 12 4 else 0 }) (fun _ s => s) := by
  refine ends_of (fun _ _ => rfl) ?_
  intro _ c s ha
  dsimp only
  rw [ha]
  rfl

theorem fwEraseBank_ends : EndsAt 0x0C 0x34 .fwEraseBank (fun c s => argsOnly c [] = true ∧ onTrial s = false ∧ (judge c bankTarget (.content 1) s).1 = true)
    (fun _ _ => {}) (fun c s => setFwBank (idleBank (judge c bankTarget (.content 1) s).2) [] (judge c bankTarget (.content 1) s).2) := by
  refine ends_of (fun _ _ => rfl) ?_
  rintro _ c s ⟨ha, ht, hj⟩
  dsimp only
  rw [ha, ht, judge_applied hj]
  rfl

/-- Settles O52: each command ends as its lemmas say. -/
theorem firmwareCommandsComplete : Obligations.FirmwareCommandsComplete :=
  ⟨fwStage_ends, fwActivate_ends_trial, fwActivate_ends_rollback, fwActivate_ends_unsigned, fwCommit_ends, fwStatus_ends, fwEraseBank_ends⟩

end Sys2Proof.Machine

/-! SUPPORT. The SPDM responder (R443, R453 to R455), the MOD commands, the management paths and JTAG (R457, R512, R516, R519 to R525). -/

namespace Sys2Proof.Machine

variable {s : State} {p : MctpPath}

/-! The SPDM responder (R453-R455): a request is served once firmware runs, most of them once the negotiation has ended, and some in a finished session. -/

theorem spdmServe_runs (act : State → State) (h : fwRuns s = true) : spdmServe act s = .next (act s) :=
  congrArg Host.Outcome.next (if_pos h)

theorem spdmReady_negotiated (act : State → State) (h : fwRuns s = true) (ha : (getConn s p).algs = true) : spdmReady p act s = .next (act s) :=
  (spdmServe_runs _ h).trans (congrArg Host.Outcome.next (if_pos ha))

theorem inSession_finished {k : Nat} {x : SpdmSession} (act : SpdmSession → State → State) (h : fwRuns s = true) (ha : (getConn s p).algs = true) (hk : session? s p k = some x) (hx : x.finished = true) :
    inSession p k act s = .next (act x s) := by
  unfold inSession
  rw [spdmReady_negotiated _ h ha, hk]
  exact congrArg Host.Outcome.next (if_pos hx)

/-- GET_VERSION begins the negotiation of its path anew and ends the path's sessions (log entry 52). -/
theorem exec_spdmGetVersion_runs (h : fwRuns s = true) :
    exec (.spdmGetVersion p) s = .next (let t : State := { s with sec := { s.sec with sessions := tblKeep s.sec.sessions (fun _ x => x.path != pathKey p) } }
      spdmSend p 0x04 (leBytes 1 2 ++ leBytes 2 0x1200 ++ leBytes 2 0x1300) (setConn p { handle := (getConn s p).handle } t)) := by
  change execSpdmGetVersion p s = _
  exact spdmServe_runs _ h

theorem exec_spdmGetDigests_negotiated (h : fwRuns s = true) (ha : (getConn s p).algs = true) :
    exec (.spdmGetDigests p) s = .next (spdmSend p 0x01 (leBytes 1 1 ++ sha384 3 (certChain s)) s) := by
  change execSpdmGetDigests p s = _
  exact spdmReady_negotiated _ h ha

theorem exec_spdmGetCapabilities_connected {v : Nat} (h : fwRuns s = true) (hc : tblHas s.sec.conns (pathKey p) = true) (hv : v = 0x12 ∨ v = 0x13) :
    exec (.spdmGetCapabilities p v) s = .next (spdmSend p 0x61 (leBytes 4 spdmCaps) (setConn p { getConn s p with version := some v, caps := true } s)) := by
  change execSpdmGetCapabilities p v s = _
  refine (spdmServe_runs _ h).trans ?_
  rcases hv with rfl | rfl <;> simp [hc]

theorem exec_spdmNegotiateAlgorithms_offered (h : fwRuns s = true) (hc : (getConn s p).caps = true) :
    exec (.spdmNegotiateAlgorithms p true) s = .next (spdmSend p 0x63 (leBytes 4 0x80 ++ leBytes 4 0x02 ++ leBytes 2 0x10 ++ leBytes 2 0x02 ++ leBytes 4 0x04) (setConn p { getConn s p with algs := true } s)) := by
  change execSpdmNegotiateAlgorithms p true s = _
  refine (spdmServe_runs _ h).trans ?_
  rw [hc]
  rfl

/-- A part of the certificate chain of slot 0, and an error past its end (R453, R454). -/
theorem exec_spdmGetCertificate_slot0 (off len : Nat) (h : fwRuns s = true) (ha : (getConn s p).algs = true) :
    exec (.spdmGetCertificate p 0 off len) s = .next (let part := ((certChain s).drop off).take len
      if (certChain s).length ≤ off then spdmSend p 0x7F (leBytes 1 0x01) s
      else spdmLarge p 0x02 (leBytes 1 0 ++ leBytes 2 part.length ++ leBytes 2 ((certChain s).length - off - part.length) ++ part) s) := by
  change execSpdmGetCertificate p 0 off len s = _
  refine (spdmReady_negotiated _ h ha).trans (congrArg Host.Outcome.next ?_)
  by_cases hl : (certChain s).length ≤ off
  · simp [hl, spdmError, spdmInvalid]
  · simp [hl]

theorem exec_spdmChallenge_slot0 (nonce : BitVec 256) (h : fwRuns s = true) (ha : (getConn s p).algs = true) :
    exec (.spdmChallenge p 0 nonce) s = .next (let t : State := { s with free := s.free + 1 }
      let body := leBytes 1 0 ++ sha384 3 (certChain t) ++ leBytes 32 (Config.random s.free)
      spdmLarge p 0x03 (body ++ aliasSign t (leBytes 32 nonce.toNat ++ body)) t) := by
  change execSpdmChallenge p 0 nonce s = _
  exact spdmReady_negotiated _ h ha

theorem exec_spdmGetMeasurements_unsigned {i : Nat} {bs : List (List Byte)} (nonce : BitVec 256) (h : fwRuns s = true) (ha : (getConn s p).algs = true) (hb : measurementBlocks s i = some bs) :
    exec (.spdmGetMeasurements p i false nonce) s = .next (spdmLarge p 0x60 (measurementBody i s.free bs) { s with free := s.free + 1 }) := by
  change execSpdmGetMeasurements p i false nonce s = _
  refine (spdmReady_negotiated _ h ha).trans ?_
  rw [hb]
  rfl

/-- A signed answer is what a KEY.LOAD in wrapped form needs (R443). -/
theorem exec_spdmGetMeasurements_signed {i : Nat} {bs : List (List Byte)} (nonce : BitVec 256) (h : fwRuns s = true) (ha : (getConn s p).algs = true) (hb : measurementBlocks s i = some bs) :
    exec (.spdmGetMeasurements p i true nonce) s = .next (let t : State := { s with free := s.free + 1 }
      spdmLarge p 0x60 (measurementBody i s.free bs ++ aliasSign t (leBytes 32 nonce.toNat ++ measurementBody i s.free bs)) { t with sec := { t.sec with attested := true } }) := by
  change execSpdmGetMeasurements p i true nonce s = _
  refine (spdmReady_negotiated _ h ha).trans ?_
  rw [hb]
  rfl

theorem exec_spdmKeyExchange_room (id : Nat) (pub : BitVec 768) (h : fwRuns s = true) (ha : (getConn s p).algs = true) (hl : s.sec.sessions.length < 8) :
    exec (.spdmKeyExchange p id pub) s = .next (let t : State := { s with free := s.free + 1 }
      let u : State := { t with sec := { t.sec with sessions := tblSet t.sec.sessions (id % 2 ^ 16 + freeSession s * 2 ^ 16) { path := pathKey p, reqId := id % 2 ^ 16 } } }
      spdmLarge p 0x64 (exchangeBody (freeSession s) s.free pub ++ aliasSign u (exchangeBody (freeSession s) s.free pub)) u) := by
  change execSpdmKeyExchange p id pub s = _
  exact (spdmReady_negotiated _ h ha).trans (congrArg Host.Outcome.next (if_neg (Nat.not_le.mpr hl)))

theorem exec_spdmFinish_open {k : Nat} {x : SpdmSession} (h : fwRuns s = true) (ha : (getConn s p).algs = true) (hk : session? s p k = some x) (hx : x.finished = false) :
    exec (.spdmFinish p k true) s = .next (spdmSend p 0x65 [] { s with sec := { s.sec with sessions := tblSet s.sec.sessions k { x with finished := true } } }) := by
  change execSpdmFinish p k true s = _
  refine (spdmReady_negotiated _ h ha).trans ?_
  rw [hk]
  dsimp only
  rw [hx]
  rfl

section Session

variable {k : Nat} {x : SpdmSession} (h : fwRuns s = true) (ha : (getConn s p).algs = true) (hk : session? s p k = some x) (hx : x.finished = true)
include h ha hk hx

theorem exec_spdmEndSession_finished : exec (.spdmEndSession p k) s = .next (spdmSend p 0x6C [] { s with sec := { s.sec with sessions := tblDel s.sec.sessions k } }) := by
  change execSpdmEndSession p k s = _
  exact inSession_finished _ h ha hk hx

theorem exec_spdmHeartbeat_finished : exec (.spdmHeartbeat p k) s = .next (spdmSend p 0x68 [] s) := by
  change execSpdmHeartbeat p k s = _
  exact inSession_finished _ h ha hk hx

theorem exec_spdmKeyUpdate_finished {op : Nat} (ho : op = 1 ∨ op = 2) :
    exec (.spdmKeyUpdate p k op) s = .next (spdmSend p 0x69 (leBytes 1 op) { s with sec := { s.sec with sessions := tblSet s.sec.sessions k { x with updates := x.updates + 1 } } }) := by
  change execSpdmKeyUpdate p k op s = _
  refine (inSession_finished _ h ha hk hx).trans ?_
  rcases ho with rfl | rfl <;> rfl

/-- KEY_PROG of an IDE stream while fewer than four have keys (R453). -/
theorem exec_spdmVendorDefinedRequest_keyProg {st : Nat} (hst : st ≤ 255) (hl : s.sec.ideKeyed.length < 4) :
    exec (.spdmVendorDefinedRequest p k true 2 st) s = .next (ideReply p 3 0 st { s with sec := { s.sec with ideKeyed := setAdd s.sec.ideKeyed st } }) := by
  change execSpdmVendorDefinedRequest p k true 2 st s = _
  refine (spdmReady_negotiated _ h ha).trans ?_
  rw [hk]
  simp [hx, Nat.not_lt.mpr hst, Nat.not_le.mpr hl]

/-- K_SET_GO of an IDE stream that has keys (R453). -/
theorem exec_spdmVendorDefinedRequest_setGo {st : Nat} (hst : s.sec.ideKeyed.contains st = true) :
    exec (.spdmVendorDefinedRequest p k true 4 st) s = .next (ideReply p 6 0 st { s with sec := { s.sec with ideSecure := setAdd s.sec.ideSecure st } }) := by
  change execSpdmVendorDefinedRequest p k true 4 st s = _
  refine (spdmReady_negotiated _ h ha).trans ?_
  rw [hk]
  dsimp only
  rw [hx, hst]
  rfl

end Session

theorem exec_spdmChunkSend_next {hd n : Nat} {have_ : List Byte} (last : Bool) (b : List Byte) (h : fwRuns s = true) (hc : (getConn s p).caps = true) (hs : chunkSoFar (getConn s p) hd n = some have_) :
    exec (.spdmChunkSend p hd n last b) s =
      .next (spdmSend p 0x05 (leBytes 1 hd ++ leBytes 2 n) (setConn p { getConn s p with request := if last then none else some (hd, n + 1, have_ ++ b) } s)) := by
  change execSpdmChunkSend p hd n last b s = _
  refine (spdmServe_runs _ h).trans ?_
  dsimp only
  rw [hc, hs]
  rfl

theorem exec_spdmChunkGet_next {hd n : Nat} {bs : List Byte} (h : fwRuns s = true) (hr : (getConn s p).response = some (hd, n, bs)) :
    exec (.spdmChunkGet p hd n) s = .next (let rest := bs.drop (max 1 Config.spdmSize)
      spdmSend p 0x06 (leBytes 1 (b2n rest.isEmpty) ++ leBytes 1 hd ++ leBytes 2 n ++ bs.take (max 1 Config.spdmSize)) (setConn p { getConn s p with response := if rest.isEmpty then none else some (hd, n + 1, rest) } s)) := by
  change execSpdmChunkGet p hd n s = _
  refine (spdmServe_runs _ h).trans ?_
  dsimp only
  rw [hr]
  simp

/-- Settles O53: each request is served as its case lemma says. -/
theorem spdmRowsComplete : Obligations.SpdmRowsComplete :=
  ⟨fun _ _ h => exec_spdmGetVersion_runs h, fun _ _ _ h hc hv => exec_spdmGetCapabilities_connected h hc hv, fun _ _ h hc => exec_spdmNegotiateAlgorithms_offered h hc, fun _ _ h ha => exec_spdmGetDigests_negotiated h ha,
   fun _ off len _ h ha => exec_spdmGetCertificate_slot0 off len h ha, fun _ nonce _ h ha => exec_spdmChallenge_slot0 nonce h ha,
   fun _ _ nonce _ _ h ha hb => ⟨exec_spdmGetMeasurements_unsigned nonce h ha hb, exec_spdmGetMeasurements_signed nonce h ha hb⟩,
   fun _ id pub _ h ha hl => exec_spdmKeyExchange_room id pub h ha hl, fun _ _ _ _ h ha hk hx => exec_spdmFinish_open h ha hk hx,
   fun _ _ _ _ h ha hk hx => ⟨exec_spdmEndSession_finished h ha hk hx, exec_spdmHeartbeat_finished h ha hk hx, fun _ ho => exec_spdmKeyUpdate_finished h ha hk hx ho,
     fun _ hst hl => exec_spdmVendorDefinedRequest_keyProg h ha hk hx hst hl, fun _ hst => exec_spdmVendorDefinedRequest_setGo h ha hk hx hst⟩,
   fun _ _ _ last b _ _ h hc hs => exec_spdmChunkSend_next last b h hc hs, fun _ _ _ _ _ h hr => exec_spdmChunkGet_next h hr⟩

/-! The MOD commands (R512, R516, R521). -/

theorem modStatus_ends_summary : EndsAt 0x0E 0x01 .modStatus (fun c s => argsOnly c [] = true ∧ bufferCheck c s = none ∧ c.outLen = 0) (fun _ s => { r0 := modResult0 s, r1 := modResult1 s }) (fun _ s => s) := by
  refine ends_of (fun _ _ => rfl) ?_
  rintro _ c s ⟨ha, hb, hl⟩
  simp [ha, hb, hl]

theorem modStatus_ends_sensors : EndsAt 0x0E 0x01 .modStatus (fun c s => argsOnly c [] = true ∧ bufferCheck c s = none ∧ 88 ≤ c.outLen)
    (fun _ s => { r0 := modResult0 s, r1 := modResult1 s, output := ((List.range 22).map (sensorRecord s)).flatten, space := 88 }) (fun _ s => s) := by
  refine ends_of (fun _ _ => rfl) ?_
  rintro _ c s ⟨ha, hb, hl⟩
  have h0 : c.outLen ≠ 0 := by omega
  simp [ha, hb, h0, Nat.not_lt.mpr hl]

theorem modShutdown_waits : WaitsAt 0x0E 0x02 .modShutdown (fun c s => argsOnly c [] = true ∧ s.mod.stopping = false) (fun oid _ s => { s with mod := { s.mod with stopping := true, stopOid := some oid } }) := by
  refine waits_of (fun _ _ => rfl) ?_
  rintro _ c s ⟨ha, hs⟩
  dsimp only
  rw [ha, hs]
  rfl

/-- Once all that was accepted is done, the shutdown writes back and its command completes (R512). -/
theorem exec_shutdownDrained_done {oid : Nat} (hs : s.mod.stopping = true) (ho : s.mod.stopOid = some oid) (hd : allDone s = true) :
    exec .shutdownDrained s = .next (finish oid { r0 := (writeAll s).1 } (endShutdown (writeAll s).2)) := by
  have hdrained : ¬ (!s.mod.stopping || !allDone s) = true := by simp [hs, hd]
  refine congrArg Host.Outcome.next ((if_neg hdrained).trans ?_)
  rw [ho]
  rfl

theorem modMgmtSet_ends : EndsAt 0x0E 0x03 .modMgmtSet (fun c s => argsOnly c [(32, 0, 8)] = true ∧ argU c 32 1 ≤ 1 ∧ bufferCheck c s = none ∧ c.inLen = 64 ∧ ethRecordOk c.input = true ∧ getU c.input 7 1 = 0 ∧
      (judge c { unit := 0x0E, obj := argU c 32 1 } (.value (leNat c.input)) s).1 = true)
    (fun _ _ => {}) (fun c s => setMgmt (argU c 32 1) c.input (judge c { unit := 0x0E, obj := argU c 32 1 } (.value (leNat c.input)) s).2) := by
  refine ends_of (fun _ _ => rfl) ?_
  rintro _ c s ⟨ha, hp, hb, hl, hr, hz, hj⟩
  dsimp only
  rw [ha, decide_eq_false (Nat.not_lt.mpr hp), hb]
  dsimp only
  rw [hl, hr, hz, judge_applied hj]
  rfl

/-! The management paths and JTAG (R457, R519, R520, R523, R525). -/

theorem exec_mgmtMctpPacket_good {port len : Nat} (kind : MctpKind) (hp : port ≤ 1) (hmin : 64 ≤ len) (hmax : len ≤ 1024) : exec (.mgmtMctpPacket port true kind len) s = .next (mctpPacket kind s) := by
  change execMgmtMctpPacket port true kind len s = _
  simp [execMgmtMctpPacket, hp, hmin, hmax]

theorem exec_smbusMctpPacket_own (kind : MctpKind) : exec (.smbusMctpPacket (0x60 + s.mod.strap) true kind) s = .next (mctpPacket kind s) := by
  change execSmbusMctpPacket (0x60 + s.mod.strap) true kind s = _
  simp [execSmbusMctpPacket]

theorem exec_mctpSetEndpointId_given {eid : Nat} (hr : s.mod.running = true) (hf : fwRuns s = true) (hmin : 8 ≤ eid) (hmax : eid ≤ 254) :
    exec (.mctpSetEndpointId p eid) s = .next (emit (.mctp (leBytes 1 0 ++ leBytes 1 0 ++ leBytes 1 eid ++ leBytes 1 0)) { s with mod := { s.mod with eids := tblSet s.mod.eids (pathKey p) eid } }) := by
  change execMctpSetEndpointId p eid s = _
  simp [execMctpSetEndpointId, hr, hf, hmin, hmax]

theorem exec_jtagInstruction_bypass (hr : s.mod.running = true) : exec (.jtagInstruction 0xFF) s = .next (emit (.jtag 0) s) := by
  change execJtagInstruction 0xFF s = _
  simp [execJtagInstruction, hr, jtagBypass]

theorem exec_jtagInstruction_idcode (hr : s.mod.running = true) : exec (.jtagInstruction 0x01) s = .next (emit (.jtag (BitVec.ofNat 128 (Config.measure 0x200 1))) s) := by
  change execJtagInstruction 0x01 s = _
  simp [execJtagInstruction, hr, jtagBypass, jtagIdcode]

/-- Outside confidential mode another instruction reads a value and is seen as debugging (R457). -/
theorem exec_jtagInstruction_other {ir : Nat} (hr : s.mod.running = true) (hb : ir ≠ 0xFF) (hi : ir ≠ 0x01) (hc : s.sec.conf = false) :
    exec (.jtagInstruction ir) s = .next (emit (.jtag (BitVec.ofNat 128 (Config.measure 0x201 s.free))) { s with free := s.free + 1, sec := { s.sec with debugSeen := true } }) := by
  change execJtagInstruction ir s = _
  simp [execJtagInstruction, hr, jtagBypass, jtagIdcode, hb, hi, hc, fresh]

/-- Settles O60: each command ends or waits as its lemma says, and each row is its case lemma. -/
theorem moduleCommandsComplete : Obligations.ModuleCommandsComplete :=
  ⟨modStatus_ends_summary, modStatus_ends_sensors, modShutdown_waits, fun _ _ hs ho hd => exec_shutdownDrained_done hs ho hd, modMgmtSet_ends,
   fun _ _ kind _ hp hmin hmax => exec_mgmtMctpPacket_good kind hp hmin hmax, fun kind _ => exec_smbusMctpPacket_own kind, fun _ _ _ hr hf hmin hmax => exec_mctpSetEndpointId_given hr hf hmin hmax,
   fun _ hr => exec_jtagInstruction_bypass hr, fun _ hr => exec_jtagInstruction_idcode hr, fun _ _ hr hb hi hc => exec_jtagInstruction_other hr hb hi hc⟩

end Sys2Proof.Machine

/-! SUPPORT. The statement of `spec/11_olnen_links_discovery_routing.md` on links: link frames and their acknowledgement (R323 to R326, R329), control frames and changes of width (R331, R334), training (R328, R329) and lanes (R330, R331, R335). -/

namespace Sys2Proof.Machine

variable {s : State} {p : Nat}

/-! Link frames (R323-R326, R329). -/

section LinkData

variable {f : LFrame} (he : (getPort s p).ethernet = false) (hs : (getPort s p).state = .active) (ha : s.hlt.arms = []) (hk : f.kind = 0)
include he hs ha hk

/-- On an active native port a DATA frame is either refused with a NAK, once, or accepted (R323, R324). -/
theorem exec_linkDataReceive_active : exec (.linkDataReceive p f) s = .next
    (let t := if f.crcOk then linkHeader p f s else s
     let x := getPort t p
     if !f.crcOk || f.lseq != x.expected then (if x.nakSent then t else sendLink p (.nak (lastAccepted x)) (setPort p { x with nakSent := true, unacked := 0, ackSince := none } t))
     else
       let y : Port := { x with expected := (x.expected + 1) % 4096, nakSent := false, unacked := x.unacked + 1, ackSince := some (x.ackSince.getD t.now) }
       routeIn p f.cls f.hopsLeft f.frame (if 64 ≤ y.unacked then linkAck p (setPort p y t) else setPort p y t)) := by
  change execLinkDataReceive p f s = _
  simp only [execLinkDataReceive, he, hs, hk, sparkCheck_unarmed ha, Option.isNone_none, Option.isSome_none, Bool.and_true, Bool.or_false]
  rfl

theorem exec_linkDataReceive_accepted (hc : f.crcOk = true) (hl : f.lseq = (getPort (linkHeader p f s) p).expected) : exec (.linkDataReceive p f) s = .next
    (let t := linkHeader p f s
     let x : Port := { getPort t p with expected := ((getPort t p).expected + 1) % 4096, nakSent := false, unacked := (getPort t p).unacked + 1, ackSince := some ((getPort t p).ackSince.getD t.now) }
     routeIn p f.cls f.hopsLeft f.frame (if 64 ≤ x.unacked then linkAck p (setPort p x t) else setPort p x t)) := by
  have hgood : ¬ (!true || f.lseq != (getPort (linkHeader p f s) p).expected) = true := by simp [hl]
  rw [exec_linkDataReceive_active he hs ha hk, hc]
  exact congrArg Host.Outcome.next (if_neg hgood)

/-- A frame with a wrong CRC is answered with a NAK (R324). -/
theorem exec_linkDataReceive_corrupt (hc : f.crcOk = false) (hn : (getPort s p).nakSent = false) :
    exec (.linkDataReceive p f) s = .next (sendLink p (.nak (lastAccepted (getPort s p))) (setPort p { getPort s p with nakSent := true, unacked := 0, ackSince := none } s)) := by
  rw [exec_linkDataReceive_active he hs ha hk, hc]
  exact congrArg Host.Outcome.next (if_neg (ne_true_of_eq_false hn))

/-- A frame out of order is answered with a NAK, but what its header carries is taken in (R323, R324). -/
theorem exec_linkDataReceive_gap (hc : f.crcOk = true) (hl : f.lseq ≠ (getPort (linkHeader p f s) p).expected) (hn : (getPort (linkHeader p f s) p).nakSent = false) :
    exec (.linkDataReceive p f) s = .next (let t := linkHeader p f s
      sendLink p (.nak (lastAccepted (getPort t p))) (setPort p { getPort t p with nakSent := true, unacked := 0, ackSince := none } t)) := by
  have hbad : (!true || f.lseq != (getPort (linkHeader p f s) p).expected) = true := by simp [hl]
  rw [exec_linkDataReceive_active he hs ha hk, hc]
  exact congrArg Host.Outcome.next ((if_pos hbad).trans (if_neg (ne_true_of_eq_false hn)))

end LinkData

/-- A sound frame of a reserved KIND is dropped and counted (R323). -/
theorem exec_linkDataReceive_reserved {f : LFrame} (he : (getPort s p).ethernet = false) (ht : linkTrained (getPort s p) = true) (hk : f.kind ≠ 0) (hc : f.crcOk = true) :
    exec (.linkDataReceive p f) s = .next (countDropped p s) := by
  change execLinkDataReceive p f s = _
  simp [execLinkDataReceive, he, ht, hk, hc]

/-- A port in HOLD answers NOT_READY (R329). -/
theorem exec_linkDataReceive_hold {f : LFrame} (he : (getPort s p).ethernet = false) (hk : f.kind = 0) (hs : (getPort s p).state = .hold) :
    exec (.linkDataReceive p f) s = .next (sendLink p (.notReady (holdBackoff s) 0) s) := by
  change execLinkDataReceive p f s = _
  simp [execLinkDataReceive, he, hk, hs]

theorem exec_linkNakReceive_active (n : Nat) (hs : (getPort s p).state = .active) : exec (.linkNakReceive p n) s = .next (replayOut p (linkAcked p n s)) :=
  congrArg Host.Outcome.next (if_pos (beq_iff_eq.mpr hs))

theorem exec_linkCreditReceive_trained (cls units : Nat) (he : (getPort s p).ethernet = false) (hs : (getPort s p).state ≠ .down) :
    exec (.linkCreditReceive p cls units) s = .next (setPort p { getPort s p with credits := tblMod (getPort s p).credits (cls % 8) 0 (· + units) } s) := by
  have htakes : ¬ ((getPort s p).ethernet || (getPort s p).state == .down) = true := by simp [he, hs]
  exact congrArg (fun x => Host.Outcome.next (setPort p x s)) (if_neg htakes)

/-- What stays unacknowledged for 4 µs is resent (R324). -/
theorem exec_linkReplayTimeout_due (hs : (getPort s p).state = .active) (hr : (getPort s p).replay ≠ []) (ht : (getPort s p).progress + 4000 ≤ s.now) :
    exec (.linkReplayTimeout p) s = .next (replayOut p s) := by
  have hdue : ((getPort s p).state == .active && !(getPort s p).replay.isEmpty && decide ((getPort s p).progress + 4 * us ≤ s.now)) = true := by simp [hs, hr, ht, us]
  exact congrArg Host.Outcome.next (if_pos hdue)

theorem exec_linkAckTimer_due {t : Nat} (ha : (getPort s p).ackSince = some t) (ht : t + 500 ≤ s.now) : exec (.linkAckTimer p) s = .next (linkAck p s) := by
  change execLinkAckTimer p s = _
  simp only [execLinkAckTimer, ha, if_pos ht]

/-! Control frames (R331, R334). -/

/-- A request of the partner that meets none of the port's own is accepted at what the port has usable (R334). -/
theorem meetRequest_alone {r : PortReq} {uid : BitVec 128} (he : (getPort s p).ethernet = false) (hs : (getPort s p).state = .active) (hu : uid ≠ s.fuse.uid) (hr : (getPort s p).request = none) :
    meetRequest p r uid s =
      (let w := min r.width (usableLanes (getPort s p)).length
       sendLink p (.control 4 w r.token (laneMask (usableLanes (getPort s p))) 0) (setPort p { getPort s p with
         request := none, accepted := some { r with width := w, oids := (match (getPort s p).accepted with | none => [] | some a => a.oids), joins := !(getPort s p).joining.isEmpty } } s)) := by
  have hmet : ¬ ((getPort s p).ethernet || (getPort s p).state != .active || uid == s.fuse.uid) = true := by simp [he, hs, hu]
  unfold meetRequest
  dsimp only
  rw [if_neg hmet, hr]
  rfl

/-- The leader begins the change that the partner has accepted, and sends GO (R334). -/
theorem exec_controlAccept_asked {r : PortReq} (width lanes : Nat) (hs : (getPort s p).state = .active) (hr : (getPort s p).request = some r) :
    exec (.controlAccept p width r.token lanes) s = .next
      (startChange p { r with width := min r.width width, lanes := r.lanes &&& lanes } false (sendLink p (.control 5 (min r.width width) r.token (laneMask (usableLanes (getPort s p))) 0) (setPort p { getPort s p with request := none } s))) := by
  have hagreed : ¬ ((getPort s p).state != .active || r.token != r.token) = true := by simp [hs]
  change execControlAccept p width r.token lanes s = _
  unfold execControlAccept
  dsimp only
  rw [hr]
  exact congrArg Host.Outcome.next (if_neg hagreed)

theorem exec_controlGo_accepted {r : PortReq} (width lanes : Nat) (hs : (getPort s p).state = .active) (hr : (getPort s p).accepted = some r) :
    exec (.controlGo p width r.token lanes) s = .next (startChange p { r with width := min r.width width, lanes := r.lanes &&& lanes } false (setPort p { getPort s p with accepted := none } s)) := by
  have hagreed : ¬ ((getPort s p).state != .active || r.token != r.token) = true := by simp [hs]
  change execControlGo p width r.token lanes s = _
  unfold execControlGo
  dsimp only
  rw [hr]
  exact congrArg Host.Outcome.next (if_neg hagreed)

theorem exec_controlLaneLost_trained (lanes : Nat) (he : (getPort s p).ethernet = false) (ht : linkTrained (getPort s p) = true) :
    exec (.controlLaneLost p lanes) s = .next (((List.range 4).filter (bitOf lanes)).foldl (fun s l => loseLane p l 0 false false s) s) := by
  have hnative : ¬ ((getPort s p).ethernet || !linkTrained (getPort s p)) = true := by simp [he, ht]
  exact congrArg Host.Outcome.next (if_neg hnative)

theorem exec_controlCreditInit_trained (credits : List Nat) (he : (getPort s p).ethernet = false) (ht : linkTrained (getPort s p) = true) :
    exec (.controlCreditInit p credits) s = .next (setPort p { getPort s p with credits := (List.range 8).map (fun c => (c, credits.getD c 0)) } s) := by
  have hnative : ¬ ((getPort s p).ethernet || !linkTrained (getPort s p)) = true := by simp [he, ht]
  exact congrArg (fun x => Host.Outcome.next (setPort p x s)) (if_neg hnative)

/-! Training (R327-R329, R332, R334). -/

theorem exec_signalDetect_down (hp : p < nPorts s) (hs : (getPort s p).state = .down) (hf : (getPort s p).service ≠ .fenced) (hb : (getPort s p).backoff = none) :
    exec (.signalDetect p) s = .next (setPort p { getPort s p with state := .training, failures := 0, lanes := untrained (getPort s p).lanes } s) := by
  have htrains : ¬ (decide (nPorts s ≤ p) || (getPort s p).state != .down || (getPort s p).service == .fenced || (getPort s p).backoff.isSome) = true := by simp [Nat.not_le.mpr hp, hs, hf, hb]
  exact congrArg Host.Outcome.next (if_neg htrains)

theorem exec_linkTrainingDone_trained {lanes : Nat} (hs : (getPort s p).state = .training) (hw : portWidth (getPort s p) = 0) (ht : trainedEnough (getPort s p) lanes = true) :
    exec (.linkTrainingDone p true lanes false) s = .next
      (let t := setPort p { getPort s p with failures := 0, share := olnenParam s 0x06, lanes := trainedLanes (getPort s p) lanes s.now } s
       if (getPort s p).service == .quarantine then sendLink p .prbs t else portTrained p t) := by
  change execLinkTrainingDone p true lanes false s = _
  simp [execLinkTrainingDone, hs, hw, ht]

/-- The third failure takes the port DOWN for 1 s (R328). -/
theorem exec_linkTrainingDone_failed (lanes : Nat) (hs : (getPort s p).state = .training) (hw : portWidth (getPort s p) = 0) (hf : (getPort s p).failures = 2) :
    exec (.linkTrainingDone p false lanes false) s = .next (setPort p { getPort s p with state := .down, failures := 0, backoff := some (s.now + 10 ^ 9) } s) := by
  change execLinkTrainingDone p false lanes false s = _
  simp [execLinkTrainingDone, hs, hw, hf, sec]

theorem exec_trainingBackoffExpiry_due {t : Nat} (hb : (getPort s p).backoff = some t) (ht : t ≤ s.now) : exec (.trainingBackoffExpiry p) s = .next (setPort p { getPort s p with backoff := none } s) := by
  change execTrainingBackoffExpiry p s = _
  simp [execTrainingBackoffExpiry, modPort, hb, ht]

theorem exec_retrainDone_retraining (hs : (getPort s p).state = .retrain) : exec (.retrainDone p) s = .next (endChange p s) :=
  congrArg Host.Outcome.next (if_pos (beq_iff_eq.mpr hs))

theorem exec_resizeDone_resizing (hs : (getPort s p).state = .resize) : exec (.resizeDone p) s = .next (endChange p s) :=
  congrArg Host.Outcome.next (if_pos (beq_iff_eq.mpr hs))

theorem exec_discoveryAccept_first (h : s.oln.accepts = false) :
    exec .discoveryAccept s = .next (((List.range (nPorts s)).filter (fun p => (getPort s p).state == .hold)).foldl (fun s p => portUp p s) { s with oln := { s.oln with accepts := true } }) :=
  congrArg Host.Outcome.next (if_neg (ne_true_of_eq_false h))

/-! Lanes (R330, R331, R335). -/

section Lanes

variable {lane : Nat}

theorem exec_laneLoss_unarmed (cause : Nat) (ha : s.hlt.arms = []) (ht : linkTrained (getPort s p) = true) : exec (.laneLoss p lane cause) s = .next (loseLane p lane (min cause 1) false true s) := by
  change execLaneLoss p lane cause s = _
  simp [execLaneLoss, sparkCheck_unarmed ha, ht]

/-- A sample of an active lane is noted, and one above the threshold loses the lane (R330). -/
theorem exec_laneBerSample_unarmed (above : Bool) (ber cw ucw : Nat) (ha : s.hlt.arms = []) (ht : linkTrained (getPort s p) = true) (hl : (laneOf (getPort s p) lane).state = .active) :
    exec (.laneBerSample p lane above ber cw ucw) s =
      .next (if above then loseLane p lane 2 false true (noteSample p lane ber cw ucw false false s) else noteSample p lane ber cw ucw false false s) := by
  change execLaneBerSample p lane above ber cw ucw s = _
  simp [execLaneBerSample, sparkCheck_unarmed ha, ht, hl]

/-- A lost lane tries to rejoin after 10 s, and after 60 s where it has tried before (R335). -/
theorem exec_laneRejoinTimer_due (he : (getPort s p).ethernet = false) (hc : (getPort s p).ctrl.autoRejoin = true) (hl : (laneOf (getPort s p) lane).state = .lost) (hr : isRetired s .lane (laneIndex p lane) = false)
    (ht : (laneOf (getPort s p) lane).since + (if (laneOf (getPort s p) lane).tried then 60 else 10) * 10 ^ 9 ≤ s.now) : exec (.laneRejoinTimer p lane) s = .next (startQuarantine p lane s) := by
  change execLaneRejoinTimer p lane s = _
  have hwait : (if (laneOf (getPort s p) lane).tried then 60 * sec else 10 * sec) = (if (laneOf (getPort s p) lane).tried then 60 else 10) * 10 ^ 9 := by
    split <;> simp [sec]
  have hdue : ¬ s.now < (laneOf (getPort s p) lane).since + (if (laneOf (getPort s p) lane).tried then 60 * sec else 10 * sec) := by
    rw [hwait]
    exact Nat.not_lt.mpr ht
  simp only [execLaneRejoinTimer, he, hc, hl, hr, decide_eq_false hdue, Bool.not_true, Bool.or_false, bne_self_eq_false, Bool.false_eq_true, if_false]

/-- A lane that passes its quarantine asks to join by a RESIZE (R332, R335). -/
theorem exec_laneQuarantineDone_passed (step : Nat) (hl : (laneOf (getPort s p) lane).state = .quarantine) (hj : (getPort s p).joining.contains lane = false) (hs : (getPort s p).state = .active) :
    exec (.laneQuarantineDone p lane true step) s = .next
      (askJoin p (setPort p { getPort s p with joining := (getPort s p).joining ++ [lane] } (raiseNode .quarantinePassed (quarantineDetail .lane (laneIndex p lane) none) s))) := by
  have hends : ¬ ((laneOf (getPort s p) lane).state != .quarantine || (getPort s p).joining.contains lane) = true := by rw [hl, hj]; decide
  have hactive : ((getPort s p).state == .active || (getPort s p).state == .retrain || (getPort s p).state == .resize) = true := by rw [hs]; rfl
  change Host.Outcome.next (laneQuarantined p lane true step s) = _
  unfold laneQuarantined
  dsimp only
  rw [if_neg hends, if_pos rfl, if_pos hactive]

end Lanes

/-- Settles O43: the case lemma of each row where its conditions hold. -/
theorem linkRowsComplete : Obligations.LinkRowsComplete :=
  ⟨fun _ _ _ he hs ha hk hc hl => exec_linkDataReceive_accepted he hs ha hk hc hl, fun _ _ _ he hs ha hk hc hn => exec_linkDataReceive_corrupt he hs ha hk hc hn,
   fun _ _ _ he hs ha hk hc hl hn => exec_linkDataReceive_gap he hs ha hk hc hl hn, fun _ _ _ he ht hk hc => exec_linkDataReceive_reserved he ht hk hc, fun _ _ _ he hk hs => exec_linkDataReceive_hold he hk hs,
   fun _ _ _ => rfl, fun _ n _ hs => exec_linkNakReceive_active n hs, fun _ cls units _ he hs => exec_linkCreditReceive_trained cls units he hs,
   fun _ _ hs hr ht => exec_linkReplayTimeout_due hs hr ht, fun _ _ _ ha ht => exec_linkAckTimer_due ha ht,
   fun _ _ _ _ _ _ he hs hu hr => congrArg Host.Outcome.next (meetRequest_alone he hs hu hr), fun _ _ _ _ _ _ he hs hu hr => congrArg Host.Outcome.next (meetRequest_alone he hs hu hr),
   fun _ width lanes _ _ hs hr => exec_controlAccept_asked width lanes hs hr, fun _ width lanes _ _ hs hr => exec_controlGo_accepted width lanes hs hr,
   fun _ lanes _ he ht => exec_controlLaneLost_trained lanes he ht, fun _ credits _ he ht => exec_controlCreditInit_trained credits he ht,
   fun _ _ hp hs hf hb => exec_signalDetect_down hp hs hf hb, fun _ _ _ hs hw ht => exec_linkTrainingDone_trained hs hw ht, fun _ lanes _ hs hw hf => exec_linkTrainingDone_failed lanes hs hw hf,
   fun _ _ _ hb ht => exec_trainingBackoffExpiry_due hb ht, fun _ _ hs => exec_retrainDone_retraining hs, fun _ _ hs => exec_resizeDone_resizing hs, fun _ h => exec_discoveryAccept_first h,
   fun _ _ cause _ ha ht => exec_laneLoss_unarmed cause ha ht, fun _ _ ber cw ucw _ ha ht hl => ⟨exec_laneBerSample_unarmed false ber cw ucw ha ht hl, exec_laneBerSample_unarmed true ber cw ucw ha ht hl⟩,
   fun _ _ _ he hc hl hr ht => exec_laneRejoinTimer_due he hc hl hr ht, fun _ _ step _ hl hj hs => exec_laneQuarantineDone_passed step hl hj hs⟩

end Sys2Proof.Machine

/-! SUPPORT. The statement of `spec/11_olnen_links_discovery_routing.md` on the fabric: discovery and addresses (R339 to R345, R359), multicast timers (R351, R352), fabric time (R355 to R358) and Ethernet mode (R336 to R338). -/

namespace Sys2Proof.Machine

variable {s : State} {p : Nat} {d : Disc}

/-! Discovery and addresses (R339-R345, R359). -/

/-- A HELLO with an address is noted, and contested where the node holds that address (R340, R343). -/
theorem exec_helloReceive_addressed (hp : discPort s p = true) (hv : d.version = 1) (hu : d.uid ≠ s.fuse.uid) (ha : d.addrValid = true) :
    exec (.helloReceive p d) s = .next (contest d.addr d.epoch d.uid (noteEpoch d.addr d.epoch d.uid
      (setPort p { getPort s p with neighUid := some d.uid, neighAddr := d.addr, neighValid := true, neighEpoch := d.epoch, neighPort := d.port } s))) := by
  change execHelloReceive p d s = _
  simp [execHelloReceive, hp, hv, hu, ha, modPort]

theorem exec_queryReceive_accepting (hp : discPort s p = true) (hv : d.version = 1) (hs : (getPort s p).state ≠ .hold) : exec (.queryReceive p d) s = .next (queryAct p 0 d s) := by
  change execQueryReceive p d s = _
  simp [execQueryReceive, hp, hv, hs]

/-- A REPLY that has come back to the node ends its OLNEN.DISCOVER (R341, R359). -/
theorem exec_replyReceive_awaited {q : Discover} (hp : discPort s p = true) (hv : d.version = 1) (hi : d.hopIndex = 0) (hq : tblGet? s.oln.discovers d.queryId = some q) :
    exec (.replyReceive p d) s = .next (finish q.oid { output := replyBytes d, space := 448 } { s with oln := { s.oln with discovers := tblDel s.oln.discovers d.queryId } }) := by
  change execReplyReceive p d s = _
  simp [execReplyReceive, hp, hv, hi, hq]

/-- A CLAIM that moves no known address is forwarded, noted, and contested where the node holds its address (R342, R343). -/
theorem exec_claimReceive_settled (hops : Nat) (hp : discPort s p = true) (hv : d.version = 1) (hm : claimMoves s d = false) :
    exec (.claimReceive p hops d) s = .next (contest d.addr d.epoch d.uid (noteEpoch d.addr d.epoch d.uid (forwardClaim p hops d s))) := by
  change execClaimReceive p hops d s = _
  simp [execClaimReceive, hp, hv, hm]

theorem exec_notReadyReceive_waiting {reason k : Nat} {q : Discover} (backoff : Nat) (hr : reason ≤ 1) (hq : s.oln.discovers.find? (fun e => e.2.port == p) = some (k, q)) :
    exec (.notReadyReceive p backoff reason) s = .next (finish q.oid { status := .busy, hint := hintUs backoff } { s with oln := { s.oln with discovers := tblDel s.oln.discovers k } }) := by
  change execNotReadyReceive p backoff reason s = _
  simp only [execNotReadyReceive, hr, decide_true, Bool.and_true, hq]

theorem exec_discoverTimeout_due {k : Nat} {q : Discover} (hq : tblGet? s.oln.discovers k = some q) (ht : q.time + 1000000 ≤ s.now) :
    exec (.discoverTimeout k) s = .next (finish q.oid { status := .notFound } { s with oln := { s.oln with discovers := tblDel s.oln.discovers k } }) := by
  have hdue : ¬ s.now < q.time + ms := Nat.not_lt.mpr ht
  change execDiscoverTimeout k s = _
  simp only [execDiscoverTimeout, hq, if_neg hdue]

theorem exec_helloTimer_active (h : (activePorts s).contains p = true) : exec (.helloTimer p) s = .next (sendLink p (.hello (ownDisc s p)) s) :=
  congrArg Host.Outcome.next (if_pos h)

theorem exec_addrEffective_due {a : AddrSet} (ha : s.oln.addrNext = some a) (ht : a.time ≤ fabricTime s) : exec .addrEffective s = .next (applyAddr a s) := by
  change execAddrEffective s = _
  simp only [execAddrEffective, ha, if_neg (Nat.not_lt.mpr ht)]

theorem exec_routeSwap_due {t : Nat} (hs : s.oln.swapAt = some t) (ht : t ≤ fabricTime s) : exec .routeSwap s = .next { s with oln := { s.oln with routes := s.oln.standby, swapAt := none } } := by
  change execRouteSwap s = _
  simp only [execRouteSwap, hs, if_neg (Nat.not_lt.mpr ht)]
  rfl

/-! Multicast timers (R351, R352). -/

section Multicast

variable {n : Nat} {m : Mcast} (hm : tblGet? s.trn.mcasts n = some m)
include hm

theorem exec_mcastDeadline_due (he : m.ended = false) (ht : m.deadline ≤ s.now) : exec (.mcastDeadline n) s = .next (settleWork (endMcast n s)) := by
  change execMcastDeadline n s = _
  simp [execMcastDeadline, hm, he, ht]

theorem exec_mcastRetry_again (he : m.ended = true) (ht : m.retryAt ≤ s.now) (hn : m.tries < olnenParam s 0x04) : exec (.mcastRetry n) s = .next (mcastAgain n m s) := by
  change execMcastRetry n s = _
  simp [execMcastRetry, hm, he, Nat.not_lt.mpr ht, Nat.not_le.mpr hn]

/-- The members that have not answered after the last retry are reported (R352). -/
theorem exec_mcastRetry_last (he : m.ended = true) (ht : m.retryAt ≤ s.now) (hn : olnenParam s 0x04 ≤ m.tries) :
    exec (.mcastRetry n) s = .next (raise .mcastMembersMissed [.ctx m.ctx] (leBytes 2 m.group ++ leBytes 2 m.cid ++ zeros 4 ++ leBytes 8 (mcastBits m false)) { s with trn := { s.trn with mcasts := tblDel s.trn.mcasts n } }) := by
  change execMcastRetry n s = _
  simp [execMcastRetry, hm, he, Nat.not_lt.mpr ht, hn]

end Multicast

/-! Fabric time (R355-R358). -/

theorem exec_ptpSyncTimer_taking (ht : timePort s p = true) :
    exec (.ptpSyncTimer p) s = .next ((timeKinds s p ((getPort s p).ptpTicks == 0)).foldl (fun s k => sendPtp p k s) (setPort p { getPort s p with ptpTicks := ((getPort s p).ptpTicks + 1) % 16 } s)) := by
  have htakes : ¬ (!timePort s p) = true := by simp [ht]
  exact congrArg Host.Outcome.next (if_neg htakes)

/-- A message of the node's own domain at a port that takes part acts as its kind says (R355-R357). -/
theorem exec_timeFrameReceive_domain (m : PtpMsg) (ht : timePort s p = true) : exec (.timeFrameReceive p (olnenParam s 0x07) m) s = .next
    (match m with
     | .delay ns => setPort p { getPort s p with linkDelay := min 0xFFFF ns } s
     | .announce ds => if s.oln.master == some p then masterSays p ds s else if takesPlace s ds then followPort p ds s else s
     | .sync off => if s.oln.master != some p then s else steer off (noteSync off (setPort p { getPort s p with ptpOffset := off } s))) := by
  change execTimeFrameReceive p (olnenParam s 0x07) m s = _
  simp only [execTimeFrameReceive, ht, Bool.not_true, bne_self_eq_false, Bool.or_self, Bool.false_eq_true, if_false] <;> rfl

theorem exec_timeFrameReceive_foreign {domain : Nat} (m : PtpMsg) (hd : domain ≠ olnenParam s 0x07) : exec (.timeFrameReceive p domain m) s = .next s := by
  change execTimeFrameReceive p domain m s = _
  simp [execTimeFrameReceive, hd]

theorem exec_timeFrameReceive_better {ds : ClockDs} (ht : timePort s p = true) (hm : s.oln.master ≠ some p) (hb : takesPlace s ds = true) :
    exec (.timeFrameReceive p (olnenParam s 0x07) (.announce ds)) s = .next (followPort p ds s) := by
  rw [exec_timeFrameReceive_domain _ ht]
  simp [hm, hb]

theorem exec_timeFrameReceive_master (ds : ClockDs) (ht : timePort s p = true) (hm : s.oln.master = some p) :
    exec (.timeFrameReceive p (olnenParam s 0x07) (.announce ds)) s = .next (masterSays p ds s) := by
  rw [exec_timeFrameReceive_domain _ ht]
  simp [hm]

theorem exec_timeFrameReceive_sync (off : Int) (ht : timePort s p = true) (hm : s.oln.master = some p) :
    exec (.timeFrameReceive p (olnenParam s 0x07) (.sync off)) s = .next (steer off (noteSync off (setPort p { getPort s p with ptpOffset := off } s))) := by
  rw [exec_timeFrameReceive_domain _ ht]
  simp [hm]

/-- Without a Sync of the master for 3 s, fabric time goes on alone (R356). -/
theorem exec_syncHoldoverTimeout_due (hm : s.oln.master = some p) (ht : s.oln.lastSync + 3000000000 ≤ s.now) :
    exec (.syncHoldoverTimeout p) s =
      .next (raiseNode .timeHoldover (leBytes 1 p) (setPort p { getPort s p with ptpState := 4 } { s with oln := { s.oln with sync := .holdover, good := 0, master := none, best := none } })) := by
  have hdue : ¬ (s.oln.master != some p || decide (s.now < s.oln.lastSync + 3 * sec)) = true := by simp [hm, sec, Nat.not_lt.mpr ht]
  exact congrArg Host.Outcome.next (if_neg hdue)

/-! Ethernet mode (R336-R338). -/

section Ethernet

variable {f : EthFrame} (he : (getPort s p).ethernet = true)
include he

/-- ARP and neighbour discovery are answered (R338). -/
theorem exec_ethFrameReceive_neighbour (ht : linkTrained (getPort s p) = true) (hk : f.kind = .arp ∨ f.kind = .neighbour) (hm : f.macOk = true) (hi : f.ipOk = true) (hc : f.sumsOk = true)
    (hl : f.len ≤ getU (getPort s p).eth 10 2) : exec (.ethFrameReceive p f) s = .next (sendLink p (.ethControl f.kind f.srcIp 0 f.disc) s) := by
  change execEthFrameReceive p f s = _
  rcases hk with hk | hk <;> simp [execEthFrameReceive, he, ht, hk, hm, hi, hc, hl]

/-- A sound transport frame tells the node where its client is; it is delivered, or forwarded in the class of its tag (R337, R338). -/
theorem exec_ethFrameReceive_transport (hs : (getPort s p).state = .active) (hk : f.kind = .transport) (hm : f.macOk = true) (hi : f.ipOk = true) (hc : f.sumsOk = true) (hp : f.portOk = true)
    (hl : f.len ≤ getU (getPort s p).eth 10 2) (ht : f.tagged = true) : exec (.ethFrameReceive p f) s = .next
      (let o : OutFrame := { frame := f.frame, cls := f.pcp % 8 }
       let t : State := { s with oln := { s.oln with clients := tblSet s.oln.clients f.frame.srcNode (p, f.srcIp) } }
       if s.oln.addr == some f.frame.dstNode then { t with trn := { t.trn with arrived := t.trn.arrived ++ [{ port := p, out := o }] } }
       else match chooseHop t none o with
       | .port q => checkPfc p (f.pcp % 8) (putOut (.port q) (queueKept t q o) o (olnenParam t 0x01) (some p) t)
       | _ => t) := by
  have htrained : linkTrained (getPort s p) = true := by simp [linkTrained, hs]
  change execEthFrameReceive p f s = _
  simp only [execEthFrameReceive, he, htrained, hk, hm, hi, hc, hp, hs, ht, decide_eq_true hl, Bool.not_true, Bool.and_self, Bool.or_self, bne_self_eq_false, Bool.false_eq_true, if_false, if_true] <;> rfl

theorem exec_ethFrameReceive_own (hs : (getPort s p).state = .active) (hk : f.kind = .transport) (hm : f.macOk = true) (hi : f.ipOk = true) (hc : f.sumsOk = true) (hp : f.portOk = true)
    (hl : f.len ≤ getU (getPort s p).eth 10 2) (ha : s.oln.addr = some f.frame.dstNode) (ht : f.tagged = true) : exec (.ethFrameReceive p f) s = .next
      { s with oln := { s.oln with clients := tblSet s.oln.clients f.frame.srcNode (p, f.srcIp) }, trn := { s.trn with arrived := s.trn.arrived ++ [{ port := p, out := { frame := f.frame, cls := f.pcp % 8 } }] } } := by
  rw [exec_ethFrameReceive_transport he hs hk hm hi hc hp hl ht]
  exact congrArg Host.Outcome.next (if_pos (beq_iff_eq.mpr ha))

theorem exec_ethFrameReceive_forwarded {q : Nat} (hs : (getPort s p).state = .active) (hk : f.kind = .transport) (hm : f.macOk = true) (hi : f.ipOk = true) (hc : f.sumsOk = true) (hp : f.portOk = true)
    (hl : f.len ≤ getU (getPort s p).eth 10 2) (ha : s.oln.addr ≠ some f.frame.dstNode) (ht : f.tagged = true) :
    (let o : OutFrame := { frame := f.frame, cls := f.pcp % 8 }
     let t : State := { s with oln := { s.oln with clients := tblSet s.oln.clients f.frame.srcNode (p, f.srcIp) } }
     chooseHop t none o = .port q → exec (.ethFrameReceive p f) s = .next (checkPfc p (f.pcp % 8) (putOut (.port q) (queueKept t q o) o (olnenParam t 0x01) (some p) t))) := by
  dsimp only
  intro hq
  rw [exec_ethFrameReceive_transport he hs hk hm hi hc hp hl ht]
  refine congrArg Host.Outcome.next ((if_neg (ne_of_beq_false (beq_eq_false_iff_ne.mpr ha) ∘ eq_of_beq)).trans ?_)
  rw [hq]

theorem exec_ethFrameReceive_other (ht : linkTrained (getPort s p) = true) (hk : f.kind = .other) : exec (.ethFrameReceive p f) s = .next (countDropped p s) := by
  change execEthFrameReceive p f s = _
  simp [execEthFrameReceive, he, ht, hk]

theorem exec_pfcFrameReceive_masked {cls : Nat} (pause : Bool) (hb : bitOf (getU (getPort s p).eth 7 1) (cls % 8) = true) :
    exec (.pfcFrameReceive p cls pause) s = .next (setPort p { getPort s p with paused := if pause then setAdd (getPort s p).paused (cls % 8) else setDel (getPort s p).paused (cls % 8) } s) := by
  have htakes : ¬ (!(getPort s p).ethernet || !bitOf (getU (getPort s p).eth 7 1) (cls % 8)) = true := by simp [he, hb]
  exact congrArg (fun x => Host.Outcome.next (setPort p x s)) (if_neg htakes)

end Ethernet

/-- Settles O44: PTM_EXCHANGE is its definition, and each other row is its case lemma where its conditions hold. -/
theorem fabricRowsComplete : Obligations.FabricRowsComplete :=
  ⟨fun _ _ _ hp hv hu ha => exec_helloReceive_addressed hp hv hu ha, fun _ _ _ hp hv hs => exec_queryReceive_accepting hp hv hs, fun _ _ _ _ hp hv hi hq => exec_replyReceive_awaited hp hv hi hq,
   fun _ hops _ _ hp hv hm => exec_claimReceive_settled hops hp hv hm, fun _ backoff _ _ _ _ hr hq => exec_notReadyReceive_waiting backoff hr hq, fun _ _ _ hq ht => exec_discoverTimeout_due hq ht,
   fun _ _ h => exec_helloTimer_active h, fun _ _ ha ht => exec_addrEffective_due ha ht, fun _ _ hs ht => exec_routeSwap_due hs ht,
   fun _ _ _ hm he ht => exec_mcastDeadline_due hm he ht, fun _ _ _ hm he ht hn => exec_mcastRetry_again hm he ht hn, fun _ _ _ hm he ht hn => exec_mcastRetry_last hm he ht hn,
   fun _ _ ht => exec_ptpSyncTimer_taking ht, fun _ ns _ ht => exec_timeFrameReceive_domain (.delay ns) ht, fun _ _ _ ht hm hb => exec_timeFrameReceive_better ht hm hb, fun _ ds _ ht hm => exec_timeFrameReceive_master ds ht hm,
   fun _ _ m _ hd => exec_timeFrameReceive_foreign m hd, fun _ off _ ht hm => exec_timeFrameReceive_sync off ht hm, fun _ _ hm ht => exec_syncHoldoverTimeout_due hm ht, fun _ _ => rfl,
   fun _ _ _ he ht hk hm hi hc hl => exec_ethFrameReceive_neighbour he ht hk hm hi hc hl, fun _ _ _ he hs hk hm hi hc hp hl ha ht => exec_ethFrameReceive_own he hs hk hm hi hc hp hl ha ht,
   fun _ _ _ _ he hs hk hm hi hc hp hl ha ht => exec_ethFrameReceive_forwarded he hs hk hm hi hc hp hl ha ht, fun _ _ _ he ht hk => exec_ethFrameReceive_other he ht hk,
   fun _ _ pause _ he hb => exec_pfcFrameReceive_masked he pause hb⟩

end Sys2Proof.Machine

/-! SUPPORT. The statement of `spec/11_olnen_links_discovery_routing.md` on the OLNEN commands on links, addresses, routes, groups and time (R332, R334, R341, R342, R345, R350, R351, R358 to R363, R405). -/

namespace Sys2Proof.Machine

variable {s : State}

/-! Ports (R332, R334, R359, R360, R363). -/

@[simp] theorem getPort_judge (c : Cmd) (t : Target) (o : Order) (p : Nat) : getPort (judge c t o s).2 p = getPort s p :=
  congrArg (fun e : Oln => tblGetD e.ports p {}) (sameUnits_judge c t o s).oln

@[simp] theorem getPort_serviceJudge (rank : Nat) (c : Cmd) (p : Nat) : getPort (serviceJudge rank c s).2 p = getPort s p :=
  getPort_judge _ _ _ p

theorem olnenStatus_ends : EndsAt 0x0A 0x01 .olnenStatus (fun c s => argsOnly c [] = true ∧ bufferCheck c s = none ∧ 512 ≤ c.outLen) (fun _ s => { output := ((List.range 16).map (statusRecord s)).flatten, space := 512 }) (fun _ s => s) := by
  refine ends_of (fun _ _ => rfl) ?_
  rintro _ c s ⟨ha, hb, hl⟩
  simp [ha, hb, Nat.not_lt.mpr hl]

theorem olnenPortMode_ends : EndsAt 0x0A 0x02 .olnenPortMode (fun c s => portCheck c [(33, 0, 1)] s = none ∧ bufferCheck c s = none ∧ argBits c 33 0 1 = 1 ∧ 64 ≤ c.inLen ∧ ethRecordOk (c.input.take 64) = true ∧
      (judge c { unit := 0x0A, obj := 2 ^ 34 + argBits c 32 0 4 } (.value (1 + 2 * leNat (c.input.take 64))) s).1 = true)
    (fun _ _ => {}) (fun c s => takeMode (argBits c 32 0 4) true (c.input.take 64) (judge c { unit := 0x0A, obj := 2 ^ 34 + argBits c 32 0 4 } (.value (1 + 2 * leNat (c.input.take 64))) s).2) := by
  refine ends_of (fun _ _ => rfl) ?_
  rintro _ c s ⟨hp, hb, he, hl, hr, hj⟩
  have hlen : ¬ (true && decide (c.inLen < 64)) = true := by simp [hl]
  dsimp only
  rw [hp]
  dsimp only
  rw [hb, he]
  dsimp only
  rw [beq_self_eq_true, if_neg hlen, hr, if_pos rfl, judge_applied hj]
  rfl

/-- A RETRAIN is asked for at the width that the port has (R334). -/
theorem olnenRetrain_waits : WaitsAt 0x0A 0x03 .olnenRetrain (fun c s => portCheck c [] s = none ∧ portLink (getPort s (argBits c 32 0 4)) = none)
    (fun oid c s => askChange (argBits c 32 0 4) true (portWidth (getPort s (argBits c 32 0 4))) [oid] s) := by
  refine waits_of (fun _ _ => rfl) ?_
  rintro _ c s ⟨hp, hl⟩
  dsimp only
  rw [hp]
  dsimp only
  rw [hl]

theorem olnenWidth_waits : WaitsAt 0x0A 0x04 .olnenWidth (fun c s => portCheck c [(33, 0, 3)] s = none ∧ 2 ≤ argBits c 33 0 3 ∧ argBits c 33 0 3 ≤ 4 ∧ portLink (getPort s (argBits c 32 0 4)) = none ∧
      argBits c 33 0 3 ≤ portWidth (getPort s (argBits c 32 0 4)) + (lanesIn (getPort s (argBits c 32 0 4)) .idle).length ∧
      argBits c 33 0 3 ≠ portWidth (getPort s (argBits c 32 0 4)) ∧ (judge c { unit := 0x0A, obj := 2 ^ 35 + argBits c 32 0 4 } (.value (argBits c 33 0 3)) s).1 = true)
    (fun oid c s => askChange (argBits c 32 0 4) false (argBits c 33 0 3) [oid]
      (freeIdle (argBits c 32 0 4) (argBits c 33 0 3 - portWidth (getPort s (argBits c 32 0 4))) (judge c { unit := 0x0A, obj := 2 ^ 35 + argBits c 32 0 4 } (.value (argBits c 33 0 3)) s).2)) := by
  refine waits_of (fun _ _ => rfl) ?_
  rintro _ c s ⟨hp, hmin, hmax, hl, hroom, hw, hj⟩
  have hrange : ¬ (decide (argBits c 33 0 3 < 2) || decide (4 < argBits c 33 0 3)) = true := by simp [Nat.not_lt.mpr hmin, hmax]
  have hidle : ¬ (lanesIn (getPort s (argBits c 32 0 4)) .idle).length < argBits c 33 0 3 - portWidth (getPort s (argBits c 32 0 4)) := by omega
  have hother : ¬ (argBits c 33 0 3 == portWidth (getPort s (argBits c 32 0 4)) && (getPort s (argBits c 32 0 4)).state == .active && (getPort s (argBits c 32 0 4)).request.isNone) = true := by simp [hw]
  dsimp only
  rw [hp]
  dsimp only
  rw [if_neg hrange, hl]
  dsimp only
  rw [if_neg hidle, judge_applied hj]
  exact if_neg hother

/-- A width for which too few lanes are idle is refused (R332). -/
theorem olnenWidth_ends_tooWide : EndsAt 0x0A 0x04 .olnenWidth (fun c s => portCheck c [(33, 0, 3)] s = none ∧ 2 ≤ argBits c 33 0 3 ∧ argBits c 33 0 3 ≤ 4 ∧ portLink (getPort s (argBits c 32 0 4)) = none ∧
      portWidth (getPort s (argBits c 32 0 4)) + (lanesIn (getPort s (argBits c 32 0 4)) .idle).length < argBits c 33 0 3)
    (fun _ _ => { status := .badState }) (fun _ s => s) := by
  refine ends_of (fun _ _ => rfl) ?_
  rintro _ c s ⟨hp, hmin, hmax, hl, hroom⟩
  have hrange : ¬ (decide (argBits c 33 0 3 < 2) || decide (4 < argBits c 33 0 3)) = true := by simp [Nat.not_lt.mpr hmin, hmax]
  have hidle : (lanesIn (getPort s (argBits c 32 0 4)) .idle).length < argBits c 33 0 3 - portWidth (getPort s (argBits c 32 0 4)) := by omega
  dsimp only
  rw [hp]
  dsimp only
  rw [if_neg hrange, hl]
  exact if_pos hidle

/-! Service orders on a port or a lane (R359). -/

/-- What a service order answers behind the general checks. -/
def serviceAnswer (rank : Nat) (refuse : Nat → Nat → State → Option Status) (act : Nat → Nat → Nat → State → Answer × State) (oid : Nat) (c : Cmd) (s : State) : Answer × State :=
  if !argsOnly c [(32, 0, 4), (33, 0, 3)] || (4 ≤ argBits c 33 0 3 && argBits c 33 0 3 != 7) then (fail .badParameter, s)
  else if nPorts s ≤ argBits c 32 0 4 then (fail .unitAbsent, s)
  else if rank != 3 && ((getPort s (argBits c 32 0 4)).service == .fenced || (argBits c 33 0 3 != 7 && (laneOf (getPort s (argBits c 32 0 4)) (argBits c 33 0 3)).state == .fenced)) then (fail .unitFenced, s)
  else match refuse (argBits c 32 0 4) (argBits c 33 0 3) s with
  | some e => (fail e, s)
  | none => if !(serviceJudge rank c s).1 then (fail .overruled, (serviceJudge rank c s).2) else act oid (argBits c 32 0 4) (argBits c 33 0 3) (serviceJudge rank c s).2

theorem serviceOrder_eq (verb rank : Nat) (refuse : Nat → Nat → State → Option Status) (act : Nat → Nat → Nat → State → Answer × State) (c : Cmd) (s : State) :
    serviceOrder verb rank refuse act c s = runCmd 0x0A verb c (serviceAnswer rank refuse act) s := rfl

section ServiceOrders

variable {rank oid : Nat} {c : Cmd} {refuse : Nat → Nat → State → Option Status}

/-- A service order that names a part, is not refused and is not overruled acts on that part. -/
theorem serviceAnswer_applied (act : Nat → Nat → Nat → State → Answer × State) (ha : argsOnly c [(32, 0, 4), (33, 0, 3)] = true) (hl : argBits c 33 0 3 < 4 ∨ argBits c 33 0 3 = 7) (hp : argBits c 32 0 4 < nPorts s)
    (hf : rank = 3 ∨ (getPort s (argBits c 32 0 4)).service ≠ .fenced ∧ (argBits c 33 0 3 = 7 ∨ (laneOf (getPort s (argBits c 32 0 4)) (argBits c 33 0 3)).state ≠ .fenced))
    (hr : refuse (argBits c 32 0 4) (argBits c 33 0 3) s = none) (hj : (serviceJudge rank c s).1 = true) :
    serviceAnswer rank refuse act oid c s = act oid (argBits c 32 0 4) (argBits c 33 0 3) (serviceJudge rank c s).2 := by
  have hnamed : ¬ (!argsOnly c [(32, 0, 4), (33, 0, 3)] || (decide (4 ≤ argBits c 33 0 3) && argBits c 33 0 3 != 7)) = true := by
    rcases hl with h | h
    · simp [ha, Nat.not_le.mpr h]
    · simp [ha, h]
  have hable : ¬ (rank != 3 && ((getPort s (argBits c 32 0 4)).service == .fenced || (argBits c 33 0 3 != 7 && (laneOf (getPort s (argBits c 32 0 4)) (argBits c 33 0 3)).state == .fenced))) = true := by
    rcases hf with h | ⟨h, h7 | hlane⟩
    · simp [h]
    · simp [h, h7]
    · simp [h, hlane]
  unfold serviceAnswer
  rw [if_neg hnamed, if_neg (Nat.not_le.mpr hp), if_neg hable, hr, hj]
  rfl

/-- A RESTRICT of a port is refused for no lane (R359). -/
theorem restrictRefused_port (p : Nat) (s : State) : restrictRefused p 7 s = none := rfl

/-- An active lane may leave a link that is up and keeps two lanes (R332). -/
theorem restrictRefused_spare {p l : Nat} (ha : (laneOf (getPort s p) l).state = .active) (hl : portLink (getPort s p) = none)
    (hn : 2 < ((lanesIn (getPort s p) .active).filter (fun k => !(laneOf (getPort s p) k).restricted)).length) : restrictRefused p l s = none := by
  simp [restrictRefused, ha, hl, hn]

theorem enableDenied_port {p : Nat} (hr : isRetired s .port p = false) : enableDenied p 7 s = none := by
  simp [enableDenied, hr]

end ServiceOrders

theorem olnenFence_ends : EndsAt 0x0A 0x08 .olnenFence (fun c s => argsOnly c [(32, 0, 4), (33, 0, 3)] = true ∧ (argBits c 33 0 3 < 4 ∨ argBits c 33 0 3 = 7) ∧ argBits c 32 0 4 < nPorts s ∧ (getPort s (argBits c 32 0 4)).service ≠ .fenced ∧
      (argBits c 33 0 3 = 7 ∨ (laneOf (getPort s (argBits c 32 0 4)) (argBits c 33 0 3)).state ≠ .fenced) ∧ (serviceJudge 1 c s).1 = true)
    (fun _ _ => {}) (fun c s => if argBits c 33 0 3 = 7 then fencePort (argBits c 32 0 4) (serviceJudge 1 c s).2 else fenceLane (argBits c 32 0 4) (argBits c 33 0 3) (serviceJudge 1 c s).2) := by
  refine ends_of (fun _ _ => congrArg Host.Outcome.next (serviceOrder_eq _ _ _ _ _ _)) ?_
  rintro _ c s ⟨ha, hl, hp, hf, hlane, hj⟩
  rw [serviceAnswer_applied _ ha hl hp (.inr ⟨hf, hlane⟩) rfl hj]
  simp [ok]

theorem olnenRestrict_ends_port : EndsAt 0x0A 0x09 .olnenRestrict (fun c s => argsOnly c [(32, 0, 4), (33, 0, 3)] = true ∧ argBits c 33 0 3 = 7 ∧ argBits c 32 0 4 < nPorts s ∧ (getPort s (argBits c 32 0 4)).service ≠ .fenced ∧ (serviceJudge 2 c s).1 = true)
    (fun _ _ => {}) (fun c s => endEnables (getPort s (argBits c 32 0 4)).enableBy .unitFenced (setPort (argBits c 32 0 4)
      { getPort s (argBits c 32 0 4) with service := .restricted, enableBy := [], ctrl := (getPort s (argBits c 32 0 4)).shadow.getD (getPort s (argBits c 32 0 4)).ctrl, shadow := none } (serviceJudge 2 c s).2)) := by
  refine ends_of (fun _ _ => congrArg Host.Outcome.next (serviceOrder_eq _ _ _ _ _ _)) ?_
  rintro _ c s ⟨ha, hl, hp, hf, hj⟩
  rw [serviceAnswer_applied _ ha (.inr hl) hp (.inr ⟨hf, .inl hl⟩) (by rw [hl]; exact restrictRefused_port _ _) hj, hl]
  dsimp only
  rw [getPort_serviceJudge]
  rfl

/-- An active lane is restricted by a RESIZE to the others (R332, R359). -/
theorem olnenRestrict_waits_lane : WaitsAt 0x0A 0x09 .olnenRestrict (fun c s => argsOnly c [(32, 0, 4), (33, 0, 3)] = true ∧ argBits c 33 0 3 < 4 ∧ argBits c 32 0 4 < nPorts s ∧ (getPort s (argBits c 32 0 4)).service ≠ .fenced ∧ (serviceJudge 2 c s).1 = true ∧
      (laneOf (getPort s (argBits c 32 0 4)) (argBits c 33 0 3)).state = .active ∧ portLink (getPort s (argBits c 32 0 4)) = none ∧ 2 < ((lanesIn (getPort s (argBits c 32 0 4)) .active).filter (fun k => !(laneOf (getPort s (argBits c 32 0 4)) k).restricted)).length)
    (fun oid c s => askChange (argBits c 32 0 4) false (((lanesIn (getPort s (argBits c 32 0 4)) .active).filter (fun k => k != argBits c 33 0 3 && !(laneOf (getPort s (argBits c 32 0 4)) k).restricted)).length) [oid]
      (setPort (argBits c 32 0 4) (modLane (argBits c 33 0 3) (fun y => { y with restricted := true }) (getPort s (argBits c 32 0 4))) (serviceJudge 2 c s).2)) := by
  refine waits_of (fun _ _ => congrArg Host.Outcome.next (serviceOrder_eq _ _ _ _ _ _)) ?_
  rintro _ c s ⟨ha, hl, hp, hf, hj, hactive, hlink, hspare⟩
  have hport : ¬ (argBits c 33 0 3 == 7) = true := by simpa using (show argBits c 33 0 3 ≠ 7 by omega)
  rw [serviceAnswer_applied _ ha (.inl hl) hp (.inr ⟨hf, .inr (by simp [hactive])⟩) (restrictRefused_spare hactive hlink hspare) hj]
  dsimp only
  rw [getPort_serviceJudge, if_neg hport, if_pos (beq_iff_eq.mpr hactive)]

theorem olnenEnable_ends_restricted : EndsAt 0x0A 0x0A .olnenEnable (fun c s => argsOnly c [(32, 0, 4), (33, 0, 3)] = true ∧ argBits c 33 0 3 = 7 ∧ argBits c 32 0 4 < nPorts s ∧ (serviceJudge 3 c s).1 = true ∧ isRetired s .port (argBits c 32 0 4) = false ∧
      (getPort s (argBits c 32 0 4)).service = .restricted)
    (fun _ _ => {}) (fun c s => setPort (argBits c 32 0 4) { getPort s (argBits c 32 0 4) with service := .service } (serviceJudge 3 c s).2) := by
  refine ends_of (fun _ _ => congrArg Host.Outcome.next (serviceOrder_eq _ _ _ _ _ _)) ?_
  rintro _ c s ⟨ha, hl, hp, hj, hr, hs⟩
  rw [serviceAnswer_applied _ ha (.inr hl) hp (.inl rfl) (by rw [hl]; exact enableDenied_port hr) hj, hl]
  dsimp only
  rw [getPort_serviceJudge, hs]
  rfl

/-- A fenced port is enabled through a quarantine (R475). -/
theorem olnenEnable_waits_fenced : WaitsAt 0x0A 0x0A .olnenEnable (fun c s => argsOnly c [(32, 0, 4), (33, 0, 3)] = true ∧ argBits c 33 0 3 = 7 ∧ argBits c 32 0 4 < nPorts s ∧ (serviceJudge 3 c s).1 = true ∧ isRetired s .port (argBits c 32 0 4) = false ∧
      (getPort s (argBits c 32 0 4)).service = .fenced)
    (fun oid c s => setPort (argBits c 32 0 4) { getPort s (argBits c 32 0 4) with service := .quarantine, enableBy := [oid] } (serviceJudge 3 c s).2) := by
  refine waits_of (fun _ _ => congrArg Host.Outcome.next (serviceOrder_eq _ _ _ _ _ _)) ?_
  rintro _ c s ⟨ha, hl, hp, hj, hr, hs⟩
  rw [serviceAnswer_applied _ ha (.inr hl) hp (.inl rfl) (by rw [hl]; exact enableDenied_port hr) hj, hl]
  dsimp only
  rw [getPort_serviceJudge, hs]
  rfl

/-! Addresses and routes (R341, R342, R345, R359). -/

theorem olnenAddrSet_ends : EndsAt 0x0A 0x10 .olnenAddrSet (fun c s => argsOnly c [(32, 0, 12), (34, 0, 2), (35, 0, 8), (36, 0, 32), (40, 0, 16), (48, 0, 64)] = true ∧ (judge c { unit := 0x0A, obj := 2 ^ 36 } (.value c.args.toNat) s).1 = true)
    (fun _ _ => {}) (fun c s => let t := (judge c { unit := 0x0A, obj := 2 ^ 36 } (.value c.args.toNat) s).2
      if (addrSetOf c).time ≤ fabricTime t then applyAddr (addrSetOf c) t else { t with oln := { t.oln with addrNext := some (addrSetOf c) } }) := by
  refine ends_of (fun _ _ => rfl) ?_
  rintro _ c s ⟨ha, hj⟩
  dsimp only
  rw [judge_applied hj, ha]
  dsimp only
  rw [if_neg (by decide), if_neg (by decide)]
  split <;> rfl

theorem olnenDiscover_waits : WaitsAt 0x0A 0x11 .olnenDiscover (fun c s => portCheck c [(33, 0, 4), (40, 0, 64)] s = none ∧ bufferCheck c s = none ∧ 448 ≤ c.outLen ∧ (getPort s (argBits c 32 0 4)).ethernet = false ∧
      linkTrained (getPort s (argBits c 32 0 4)) = true ∧ (getPort s (argBits c 32 0 4)).state ≠ .hold)
    (fun oid c s => sendLink (argBits c 32 0 4) (.query { ownDisc s (argBits c 32 0 4) with queryId := oid, route := argU c 40 8, hopCount := argBits c 33 0 4 })
      { s with oln := { s.oln with discovers := tblSet s.oln.discovers oid { oid := oid, port := argBits c 32 0 4, time := s.now } } }) := by
  refine waits_of (fun _ _ => rfl) ?_
  rintro _ c s ⟨hp, hb, hl, he, ht, hs⟩
  have hup : ¬ ((getPort s (argBits c 32 0 4)).ethernet || !linkTrained (getPort s (argBits c 32 0 4)) || (getPort s (argBits c 32 0 4)).state == .hold) = true := by simp [he, ht, hs]
  dsimp only
  rw [hp]
  dsimp only
  rw [hb]
  dsimp only
  rw [if_neg (Nat.not_lt.mpr hl), if_neg hup]

/-- The entries go into the standby bank, and the banks swap at the time given (R345). -/
theorem olnenRouteSet_ends : EndsAt 0x0A 0x12 .olnenRouteSet (fun c s => argsOnly c [(32, 0, 16), (34, 0, 16), (40, 0, 64)] = true ∧ argU c 34 2 ≤ 4096 ∧ argU c 32 2 + argU c 34 2 ≤ 4096 ∧ bufferCheck c s = none ∧ 8 * argU c 34 2 ≤ c.inLen ∧
      ((List.range (argU c 34 2)).map (fun i => inU c (8 * i) 8)).all routeOk = true ∧ (judge c { unit := 0x0A, obj := 2 ^ 37 } (.value (leNat (leBytes 32 c.args.toNat ++ c.input.take (8 * argU c 34 2)))) s).1 = true)
    (fun _ _ => {}) (fun c s => let t := (judge c { unit := 0x0A, obj := 2 ^ 37 } (.value (leNat (leBytes 32 c.args.toNat ++ c.input.take (8 * argU c 34 2)))) s).2
      let b := setRoutes (argU c 32 2) ((List.range (argU c 34 2)).map (fun i => inU c (8 * i) 8)) t.oln.standby
      if argU c 40 8 ≤ fabricTime t then { t with oln := { t.oln with standby := b, routes := b, swapAt := none } } else { t with oln := { t.oln with standby := b, swapAt := some (argU c 40 8) } }) := by
  refine ends_of (fun _ _ => rfl) ?_
  rintro _ c s ⟨ha, hn, hend, hb, hl, hes, hj⟩
  have hgood : ¬ (!argsOnly c [(32, 0, 16), (34, 0, 16), (40, 0, 64)] || decide (4096 < argU c 34 2) || decide (4096 < argU c 32 2 + argU c 34 2)) = true := by simp [ha, hn, hend]
  dsimp only
  rw [if_neg hgood, hb]
  dsimp only
  rw [if_neg (Nat.not_lt.mpr hl), hes, if_neg (by decide), judge_applied hj]
  by_cases ht : argU c 40 8 ≤ fabricTime (judge c { unit := 0x0A, obj := 2 ^ 37 } (.value (leNat (leBytes 32 c.args.toNat ++ c.input.take (8 * argU c 34 2)))) s).2
  · exact (if_pos ht).trans (congrArg (Prod.mk ok) (if_pos ht).symm)
  · exact (if_neg ht).trans (congrArg (Prod.mk ok) (if_neg ht).symm)

theorem olnenRouteGet_ends : EndsAt 0x0A 0x13 .olnenRouteGet (fun c s => argsOnly c [(32, 0, 16), (34, 0, 16), (36, 0, 1)] = true ∧ argU c 32 2 + argU c 34 2 ≤ 4096 ∧ bufferCheck c s = none ∧ 8 * argU c 34 2 ≤ c.outLen)
    (fun c s => { output := ((List.range (argU c 34 2)).map (fun i => leBytes 8 (tblGetD (if argBits c 36 0 1 == 1 then s.oln.standby else s.oln.routes) (argU c 32 2 + i) 0))).flatten, space := 8 * argU c 34 2 }) (fun _ s => s) := by
  refine ends_of (fun _ _ => rfl) ?_
  rintro _ c s ⟨ha, hend, hb, hl⟩
  simp [ha, hb, Nat.not_lt.mpr hend, Nat.not_lt.mpr hl]

/-! Multicast groups, time and parameters (R350, R351, R358, R361, R405). -/

theorem olnenMcastGroup_ends (ms : List (Nat × Nat)) : EndsAt 0x0A 0x18 .olnenMcastGroup (fun c s => argsOnly c [(32, 0, 12), (34, 0, 7)] = true ∧ argBits c 34 0 7 ≤ 64 ∧ bufferCheck c s = none ∧ groupForeign s c (argBits c 32 0 12) = false ∧ 4 * argBits c 34 0 7 ≤ c.inLen ∧
      memberList c.input (argBits c 34 0 7) = some ms ∧ (judge c { unit := 0x0A, obj := 2 ^ 38 + argBits c 32 0 12 } (.value (leNat (leBytes 32 c.args.toNat ++ c.input.take (4 * argBits c 34 0 7)))) s).1 = true)
    (fun _ _ => {}) (fun c s => let t := (judge c { unit := 0x0A, obj := 2 ^ 38 + argBits c 32 0 12 } (.value (leNat (leBytes 32 c.args.toNat ++ c.input.take (4 * argBits c 34 0 7)))) s).2
      { t with oln := { t.oln with mcast := if argBits c 34 0 7 == 0 then tblDel t.oln.mcast (argBits c 32 0 12) else tblSet t.oln.mcast (argBits c 32 0 12) { ctx := cmdCtx t c, members := ms } } }) := by
  refine ends_of (fun _ _ => rfl) ?_
  rintro _ c s ⟨ha, hn, hb, hg, hl, hm, hj⟩
  dsimp only
  rw [ha, decide_eq_false (Nat.not_lt.mpr hn), hb]
  dsimp only
  rw [hg, if_neg (Nat.not_lt.mpr hl), hm]
  dsimp only
  rw [judge_applied hj]
  rfl

theorem olnenMcast_waits (x : McastGroup) : WaitsThen settleWork 0x0A 0x19 .olnenMcast (fun c s => argsOnly c [(32, 0, 12)] = true ∧ bufferCheck c s = none ∧ tblGet? s.oln.mcast (argBits c 32 0 12) = some x ∧ mayName s c x.ctx = true ∧ isMessage c.input = true ∧
      s.oln.addr ≠ none ∧ (∀ m ∈ x.members, maySendInput s c m.1 (protSlot s x.ctx none).isSome = true) ∧ sealStatus s (protSlot s x.ctx none) = none ∧ x.members.length ≤ freeTags s)
    (fun oid c s => mcastStart oid (argBits c 32 0 12) x c s) := by
  refine waits_of (fun _ _ => rfl) ?_
  rintro _ c s ⟨ha, hb, hx, hn, hi, ho, hmay, hseal, ht⟩
  obtain ⟨a, ho⟩ := Option.ne_none_iff_exists'.mp ho
  dsimp only
  rw [ha, hb]
  dsimp only
  rw [hx]
  dsimp only
  rw [hn, hi, ho, List.all_eq_true.mpr hmay, hseal]
  exact if_neg (Nat.not_lt.mpr ht)

theorem olnenTime_ends : EndsAt 0x0A 0x20 .olnenTime (fun c s => argsOnly c [] = true ∧ bufferCheck c s = none ∧ 40 ≤ c.outLen)
    (fun _ s => { output := leBytes 8 (fabricTime s) ++ leBytes 8 s.oln.ptmFabric ++ leBytes 8 s.oln.ptmHost ++ leBytes 8 (toTwos 64 (masterOffset s)) ++ leBytes 1 (syncCode s.oln.sync) ++ zeros 7, space := 40 }) (fun _ s => s) := by
  refine ends_of (fun _ _ => rfl) ?_
  rintro _ c s ⟨ha, hb, hl⟩
  simp [ha, hb, Nat.not_lt.mpr hl]

/-- A parameter governs from the next sweep, and RETRY_LIMIT × RTO_MAX_US stays within TOMBSTONE_MS (R361, R405). -/
theorem olnenConfig_waits : WaitsAt 0x0A 0x21 .olnenConfig (fun c s => argsOnly c [(32, 0, 16), (40, 0, 64)] = true ∧ olnenRange (argU c 32 2) (argU c 40 8) = true ∧ ([0x11, 0x13, 0x14].contains (argU c 32 2) = false ∨ tombstonesLast s (argU c 32 2) (argU c 40 8) = true) ∧
      (judge c { unit := 0x0A, obj := 2 ^ 39 + argU c 32 2 } (.value (argU c 40 8)) s).1 = true)
    (fun oid c s => let t := (judge c { unit := 0x0A, obj := 2 ^ 39 + argU c 32 2 } (.value (argU c 40 8)) s).2
      { t with cln := { t.cln with staged := t.cln.staged ++ [{ oid := oid, cmd := c, done := { r0 := olnenNext t (argU c 32 2) }, change := .olnen (argU c 32 2) (argU c 40 8) }] } }) := by
  refine waits_of (fun _ _ => rfl) ?_
  rintro _ c s ⟨ha, hr, ht, hj⟩
  have hlast : ([0x11, 0x13, 0x14].contains (argU c 32 2) && !tombstonesLast s (argU c 32 2) (argU c 40 8)) = false := by
    rcases ht with h | h
    · rw [h]; rfl
    · rw [h, Bool.not_true, Bool.and_false]
  dsimp only
  rw [judge_applied hj, hlast, ha, hr]
  rfl

/-- Settles O45: each command ends or waits as its lemmas say. -/
theorem olnenCommandsComplete : Obligations.OlnenCommandsComplete :=
  ⟨olnenStatus_ends, olnenPortMode_ends, olnenRetrain_waits, olnenWidth_waits, olnenWidth_ends_tooWide, olnenFence_ends, olnenRestrict_ends_port, olnenRestrict_waits_lane, olnenEnable_ends_restricted, olnenEnable_waits_fenced,
   olnenAddrSet_ends, olnenDiscover_waits, olnenRouteSet_ends, olnenRouteGet_ends, olnenMcastGroup_ends, olnenMcast_waits, olnenTime_ends, olnenConfig_waits⟩

end Sys2Proof.Machine

/-! SUPPORT. The statement of `spec/12_olnen_transport_and_remote_memory.md` on flows: acknowledgements, NACK and NOTICE frames, and the timers of the flows (R365, R366, R371 to R376, R387, R392, R396, R397, R401). -/

namespace Sys2Proof.Machine

variable {s : State} {f : TFrame}

/-! Acknowledgements and NACKs (R371-R376, R396, R397, R401). -/

theorem mem_of_tblGet? {α : Type} {l : Tbl α} {k : Nat} {v : α} (h : tblGet? l k = some v) : (k, v) ∈ l := by
  induction l with
  | nil => cases h
  | cons e l ih =>
    obtain ⟨j, w⟩ := e
    simp only [tblGet?] at h
    split at h
    · rename_i hj
      cases h
      rw [beq_iff_eq.mp hj]
      exact List.mem_cons_self
    · exact List.mem_cons_of_mem _ (ih h)

/-- Taking a frame from those delivered changes nothing else. -/
theorem takeArrived_eq (f : TFrame) (s : State) : (takeArrived f s).2.2 = { s with trn := { s.trn with arrived := (takeArrived f s).2.2.trn.arrived } } := by
  unfold takeArrived
  split <;> rfl

/-- A slot of a node whose peer is another boot than a frame's (R397). -/
def OldBoot (f : TFrame) (s : State) : Prop := ∃ e ∈ s.trn.slots, keyNode e.1 = f.srcNode ∧ ∃ b, e.2.peerBoot = some b ∧ b ≠ f.srcBoot

/-- A frame from a new boot of a node whose old boot holds a slot ends the slots to the node before the frame is acted on (R397). -/
theorem screen_restarted {port cls : Nat} (ha : s.hlt.arms = []) (hp : (screen port cls f s).1 = true) (ho : OldBoot f s) :
    (screen port cls f s).2 = endNode f.srcNode (.restarted f.srcBoot) s := by
  unfold screen at hp ⊢
  rw [sparkCheck_unarmed ha] at hp ⊢
  dsimp only at hp ⊢
  by_cases hformat : (f.version != 1 || f.typ == 0 || decide (5 ≤ f.typ)) = true
  · rw [if_pos hformat] at hp
    cases hp
  rw [if_neg hformat] at hp ⊢
  by_cases hcrc : (!f.crcOk || (none : Option Nat).isSome) = true
  · rw [if_pos hcrc] at hp
    cases hp
  rw [if_neg hcrc] at hp ⊢
  by_cases haddr : (s.oln.addr != some f.dstNode) = true
  · rw [if_pos haddr] at hp
    cases hp
  rw [if_neg haddr] at hp ⊢
  by_cases hdead : s.trn.dead.contains (f.srcNode, f.srcBoot) = true
  · rw [if_pos hdead] at hp
    cases hp
  obtain ⟨e, he, hn, b, hb, hne⟩ := ho
  rw [if_neg hdead]
  split
  · dsimp only
  · rename_i hnone
    exact absurd (List.any_eq_true.mpr ⟨e, he, by simp [hn, hb, hne]⟩) hnone

theorem exec_nackGap_due {x : Slot} (h : reachesSlot 3 f x s) (ho : f.opFlags = 1) (hd : ∀ t, x.gapAt = some t → t + x.srtt ≤ (takeAck (flowOf f) f (screened f s).2).now) :
    exec (.nackGap f) s = .next (settleWork (resendFlow (flowOf f) false (modSlot (flowOf f) (fun x => { x with gapAt := some (takeAck (flowOf f) f (screened f s).2).now }) (takeAck (flowOf f) f (screened f s).2)))) := by
  change execNackGap f s = _
  rw [execNackGap, control_reachesSlot _ (by simp [ho]) h]
  dsimp only
  cases hg : x.gapAt with
  | none => rfl
  | some t => exact congrArg (fun u => Host.Outcome.next (settleWork u)) (if_pos (decide_eq_true (hd t hg)))

/-- A peer of the boot that the slot knows gets its frames again, with SYN (R375). -/
theorem exec_nackResync_known {x : Slot} (h : reachesSlot 3 f x s) (ho : f.opFlags = 2) (hb : x.peerBoot = some f.srcBoot) :
    exec (.nackResync f) s = .next (resendFlow (flowOf f) true (screened f s).2) := by
  change execNackResync f s = _
  rw [execNackResync, control_reachesSlot _ (by simp [ho]) h]
  simp [hb]

/-- The same where the frame tells of a restart of its node: the slots that the old boot held have ended before (R397). -/
theorem exec_nackResync_restarted {k b : Nat} {x y : Slot} (ha : s.hlt.arms = []) (hk : getSlot? s k = some y) (hn : keyNode k = f.srcNode) (hy : y.peerBoot = some b) (hne : b ≠ f.srcBoot)
    (h : reachesSlot 3 f x s) (ho : f.opFlags = 2) (hb : x.peerBoot = some f.srcBoot) :
    exec (.nackResync f) s = .next (resendFlow (flowOf f) true (endNode f.srcNode (.restarted f.srcBoot) (takeArrived f s).2.2)) := by
  have harms : (takeArrived f s).2.2.hlt.arms = [] := by rw [takeArrived_eq]; exact ha
  have hold : OldBoot f (takeArrived f s).2.2 := by
    rw [takeArrived_eq]
    exact ⟨(k, y), mem_of_tblGet? hk, hn, b, hy, hne⟩
  rw [exec_nackResync_known h ho hb, screened, screen_restarted harms h.2.1 hold]

theorem exec_nackBusy_reached {x : Slot} (h : reachesSlot 3 f x s) (ho : f.opFlags = 3) : exec (.nackBusy f) s = .next (backOff (flowOf f) f (screened f s).2) := by
  change execNackBusy f s = _
  rw [execNackBusy, control_reachesSlot _ (by simp [ho]) h]

theorem exec_nackNoSlot_reached {x : Slot} (h : reachesSlot 3 f x s) (ho : f.opFlags = 4) : exec (.nackNoSlot f) s = .next (backOff (flowOf f) f (screened f s).2) := by
  change execNackNoSlot f s = _
  rw [execNackNoSlot, control_reachesSlot _ (by simp [ho]) h]

theorem exec_nackNotHolder_reached {x : Slot} (h : reachesSlot 3 f x s) (ho : f.opFlags = 5) : exec (.nackNotHolder f) s = .next (peerUnreachable (flowOf f) (screened f s).2) := by
  change execNackNotHolder f s = _
  rw [execNackNotHolder, control_reachesSlot _ (by simp [ho]) h]

theorem exec_transportAckReceive_reached {x : Slot} (h : reachesSlot 2 f x s) : exec (.transportAckReceive f) s = .next (retrySlots (settleWork (takeAck (flowOf f) f (screened f s).2))) := by
  change execTransportAckReceive f s = _
  rw [execTransportAckReceive, control_reachesSlot _ rfl h]

theorem exec_noticeShutdown_reached {x : Slot} (h : reachesSlot 4 f x s) (ho : f.opFlags = 1) : exec (.noticeShutdown f) s = .next (peerUnreachable (flowOf f) (screened f s).2) := by
  change execNoticeShutdown f s = _
  rw [execNoticeShutdown, control_reachesSlot _ (by simp [ho]) h]

/-! The list of a stook (R392). -/

/-- A member's list is compared with the node's own. -/
theorem exec_noticeStookList_member (ht : f.typ = 4) (ho : f.opFlags = 2) (hp : (screened f s).1 = true) (hm : (screened f s).2.trn.members.contains f.srcNode = true) :
    exec (.noticeStookList f) s = .next (let t := (screened f s).2
      if stookList f.payload == t.trn.members then { t with trn := { t.trn with differs := setDel t.trn.differs f.srcNode } }
      else raise .stookMismatch (stookRcpts t) (leBytes 2 f.srcNode ++ leBytes 1 t.oln.stook) { t with trn := { t.trn with differs := setAdd t.trn.differs f.srcNode } }) := by
  have hkind : ¬ (f.typ != 4 || f.opFlags != 2) = true := by simp [ht, ho]
  have hscreen : screen (takeArrived f s).1 (takeArrived f s).2.1 f (takeArrived f s).2.2 = (true, (screened f s).2) := Prod.ext hp rfl
  change execNoticeStookList f s = _
  rw [execNoticeStookList, if_neg hkind]
  dsimp only
  rw [hscreen]
  dsimp only
  rw [hm]
  rfl

theorem exec_noticeStookList_agrees (ht : f.typ = 4) (ho : f.opFlags = 2) (hp : (screened f s).1 = true) (hm : (screened f s).2.trn.members.contains f.srcNode = true) (hl : stookList f.payload = (screened f s).2.trn.members) :
    exec (.noticeStookList f) s = .next (let t := (screened f s).2; { t with trn := { t.trn with differs := setDel t.trn.differs f.srcNode } }) := by
  rw [exec_noticeStookList_member ht ho hp hm]
  exact congrArg Host.Outcome.next (if_pos (beq_iff_eq.mpr hl))

theorem exec_noticeStookList_differs (ht : f.typ = 4) (ho : f.opFlags = 2) (hp : (screened f s).1 = true) (hm : (screened f s).2.trn.members.contains f.srcNode = true) (hl : stookList f.payload ≠ (screened f s).2.trn.members) :
    exec (.noticeStookList f) s = .next (let t := (screened f s).2
      raise .stookMismatch (stookRcpts t) (leBytes 2 f.srcNode ++ leBytes 1 t.oln.stook) { t with trn := { t.trn with differs := setAdd t.trn.differs f.srcNode } }) := by
  rw [exec_noticeStookList_member ht ho hp hm]
  exact congrArg Host.Outcome.next (if_neg (mt beq_iff_eq.mp hl))

/-! The timers of a flow (R365, R366, R371, R372, R376, R396). -/

section Timers

variable {ctx node rctx : Nat} {x : Slot}

/-- What a timeout does once it is due: a resend from the oldest frame, or the end of the flow at the last one (R372, R396). -/
theorem exec_rtoTimeout_due (hx : getSlot? s (slotKey ctx node rctx) = some x) (hu : x.unacked ≠ []) (ht : x.progress + rtoNs s x ≤ s.now) (hh : x.holdUntil ≤ s.now) :
    exec (.rtoTimeout ctx node rctx) s = .next
      (if olnenParam s 0x14 ≤ x.timeouts + 1 then peerUnreachable (slotKey ctx node rctx) s
       else resendFlow (slotKey ctx node rctx) false (setSlot (slotKey ctx node rctx) { x with timeouts := x.timeouts + 1, cwnd := 512, progress := s.now } s)) := by
  have hdue : ¬ (x.unacked.isEmpty || decide (s.now < x.progress + rtoNs s x) || decide (s.now < x.holdUntil)) = true := by simp [hu, Nat.not_lt.mpr ht, hh]
  change execRtoTimeout ctx node rctx s = _
  simp only [execRtoTimeout, hx, if_neg hdue]

theorem exec_rtoTimeout_resends (hx : getSlot? s (slotKey ctx node rctx) = some x) (hu : x.unacked ≠ []) (ht : x.progress + rtoNs s x ≤ s.now) (hh : x.holdUntil ≤ s.now) (hn : x.timeouts + 1 < olnenParam s 0x14) :
    exec (.rtoTimeout ctx node rctx) s = .next (resendFlow (slotKey ctx node rctx) false (setSlot (slotKey ctx node rctx) { x with timeouts := x.timeouts + 1, cwnd := 512, progress := s.now } s)) := by
  rw [exec_rtoTimeout_due hx hu ht hh, if_neg (Nat.not_le.mpr hn)]

theorem exec_rtoTimeout_last (hx : getSlot? s (slotKey ctx node rctx) = some x) (hu : x.unacked ≠ []) (ht : x.progress + rtoNs s x ≤ s.now) (hh : x.holdUntil ≤ s.now) (hn : olnenParam s 0x14 ≤ x.timeouts + 1) :
    exec (.rtoTimeout ctx node rctx) s = .next (peerUnreachable (slotKey ctx node rctx) s) := by
  rw [exec_rtoTimeout_due hx hu ht hh, if_pos hn]

theorem exec_transportAckTimer_due {t : Nat} (hx : getSlot? s (slotKey ctx node rctx) = some x) (ha : x.ackSince = some t) (ht : t + 1000 ≤ s.now) :
    exec (.transportAckTimer ctx node rctx) s = .next (sendAck (slotKey ctx node rctx) s) := by
  have hdue : t + us ≤ s.now := ht
  change execTransportAckTimer ctx node rctx s = _
  simp only [execTransportAckTimer, hx, ha, if_pos hdue]

theorem exec_slotRecycle_idle (hx : getSlot? s (slotKey ctx node rctx) = some x) (hr : recyclable s (slotKey ctx node rctx) x = true) :
    exec (.slotRecycle ctx node rctx) s = .next (retrySlots (recycleSlot (slotKey ctx node rctx) x s)) := by
  change execSlotRecycle ctx node rctx s = _
  simp only [execSlotRecycle, hx, if_pos hr]

theorem exec_tombstoneExpiry_due {t : Tombstone} (hx : tblGet? s.trn.tombs (slotKey ctx node rctx) = some t) (ht : t.until_ ≤ s.now) :
    exec (.tombstoneExpiry ctx node rctx) s = .next { s with trn := { s.trn with tombs := tblDel s.trn.tombs (slotKey ctx node rctx) } } := by
  change execTombstoneExpiry ctx node rctx s = _
  simp only [execTombstoneExpiry, hx, if_pos ht]

end Timers

/-! Held flagged stores and counter waits (R387-R389, R403). -/

section Flags

variable {tag : Nat} {g : Flag} {o : TOp} (hg : tblGet? s.trn.flags tag = some g) (ho : tblGet? s.trn.ops tag = some o)
include hg ho

theorem exec_flagSend_ready (hl : g.lost = none) (hw : g.waits = []) : exec (.flagSend tag) s = .next (sendData o.key g.out { s with trn := { s.trn with flags := tblDel s.trn.flags tag } }) := by
  change execFlagSend tag s = _
  simp [execFlagSend, hg, ho, hl, hw]

/-- A flagged store behind a lost one is aborted, and so is its command (R388). -/
theorem exec_flagSend_aborted {l oid seg : Nat} (hl : g.lost = some l) (hc : o.owner = .cmd oid seg) :
    exec (.flagSend tag) s = .next (let t := raise .flagAborted [.ctx g.ctx] (leBytes 2 g.cid ++ leBytes 2 l) s
      settleWork (finish oid { status := .aborted, detail := some (leBytes 2 l ++ zeros 6) } (flagsNote tag true { t with trn := { t.trn with ops := tblDel t.trn.ops tag, flags := tblDel t.trn.flags tag, xfers := tblDel t.trn.xfers oid } }))) := by
  change execFlagSend tag s = _
  simp only [execFlagSend, hg, ho, hl, hc]

end Flags

theorem exec_counterWaitTimeout_due {ring cid oid : Nat} {c : Cmd} {w : CounterWait} (hc : inflightOf s ring cid (fun c => c.unit == 0x0A && c.verb == 0x3C) = some (oid, c))
    (hw : s.trn.waits.find? (fun w => w.oid == oid) = some w) (ht : w.until_ ≤ s.now) :
    exec (.counterWaitTimeout ring cid) s = .next (finish oid { status := .timeout, r0 := tblGetD s.trn.counters w.counter 0 } { s with trn := { s.trn with waits := s.trn.waits.erase w } }) := by
  change execCounterWaitTimeout ring cid s = _
  simp only [execCounterWaitTimeout, hc, hw, if_neg (Nat.not_lt.mpr ht)]

/-- Settles O46: the case lemma of each row where its conditions hold. -/
theorem flowRowsComplete : Obligations.FlowRowsComplete :=
  ⟨fun _ _ _ h => exec_transportAckReceive_reached h, fun _ _ _ h ho hd => exec_nackGap_due h ho hd, fun _ _ _ h ho hb => exec_nackResync_known h ho hb,
   fun _ _ _ _ _ _ ha hk hn hy hne h ho hb => exec_nackResync_restarted ha hk hn hy hne h ho hb, fun _ _ _ h ho => exec_nackBusy_reached h ho, fun _ _ _ h ho => exec_nackNoSlot_reached h ho,
   fun _ _ _ h ho => exec_nackNotHolder_reached h ho, fun _ _ _ h ho => exec_noticeShutdown_reached h ho,
   fun _ _ ht ho hp hm hl => exec_noticeStookList_agrees ht ho hp hm hl, fun _ _ ht ho hp hm hl => exec_noticeStookList_differs ht ho hp hm hl,
   fun _ _ _ _ _ hx hu ht hh hn => exec_rtoTimeout_resends hx hu ht hh hn, fun _ _ _ _ _ hx hu ht hh hn => exec_rtoTimeout_last hx hu ht hh hn, fun _ _ _ _ _ _ hx ha ht => exec_transportAckTimer_due hx ha ht,
   fun _ _ _ _ _ hx hr => exec_slotRecycle_idle hx hr, fun _ _ _ _ _ hx ht => exec_tombstoneExpiry_due hx ht,
   fun _ _ _ _ hg ho hl hw => exec_flagSend_ready hg ho hl hw, fun _ _ _ _ _ _ _ hg ho hl hc => exec_flagSend_aborted hg ho hl hc, fun _ _ _ _ _ _ hc hw ht => exec_counterWaitTimeout_due hc hw ht⟩

end Sys2Proof.Machine

/-! SUPPORT. O47 and O48: the operations that a flow delivers, the answers to the node's own, and the coherence messages of a stook. -/

namespace Sys2Proof.Machine

/-! The checks that a frame passes -/

/-- A frame without protection passes where none is asked for. -/
theorem protCheck_unprotected {f : TFrame} {need : Bool} (hf : f.prot = false) (hn : need = false) (slot : Nat) (s : State) : protCheck f need slot s = (none, s) := by
  simp [protCheck, hf, hn]

/-- A window that is not coherent holds no access back. -/
theorem cohGate_plain {w : Window} (hw : w.coherent = false) (o : OutFrame) (off n : Nat) (excl : Bool) (pass : State → Verdict × State) (s : State) :
    cohGate o w off n excl pass s = pass s := by
  simp [cohGate, hw]

/-- A drain that is in neither of its last two phases keeps nothing back. -/
theorem drainHolds_false {s : State} (hq : s.hlt.drain.phase ≠ .quiesce) (hr : s.hlt.drain.phase ≠ .ready) : drainHolds s = false := by
  simp [drainHolds, hq, hr]

/-! Operations that a flow delivers (R377-R384, R399) -/

theorem opLoad_answered (w : Window) (r : Region) : FrameRow settleWork 0x01 .opLoad (fun o s => 8 ≤ loadLen o.frame ∧ loadLen o.frame ≤ 4096 ∧ loadLen o.frame % 8 = 0 ∧ windowCheck s o.frame (·.read) [(o.frame.offset, loadLen o.frame)] = .ok (w, r) ∧
      o.frame.prot = false ∧ r.prot = false ∧ mayLoad s o.frame w.region = true ∧ w.coherent = false ∧ (loadBytes o.frame w r (loadWaits o.frame w r s)).2 = false)
    (fun o s => respond (flowOf o.frame) o.cls o.frame { blankFrame with op := 0x81, payload := (loadBytes o.frame w r (loadWaits o.frame w r s)).1 } (loadWaits o.frame w r s)) := by
  refine frameRow_of (mine := (· == 0x01)) (act := loadAct) rfl rfl (fun _ _ _ _ => rfl) ?_
  rintro o s - ⟨hmin, hmax, hmod, hw, hf, hr, hl, hc, hb⟩
  unfold loadAct
  dsimp only
  have hlen : ¬ (decide (loadLen o.frame < 8) || decide (4096 < loadLen o.frame) || loadLen o.frame % 8 != 0) = true := by simp [hmod]; omega
  rw [if_neg hlen, hw]
  dsimp only
  rw [protCheck_unprotected hf hr]
  dsimp only
  rw [if_neg (by simp [hl]), cohGate_plain hc, if_neg (by simp [hb])]

theorem opStore_landed (w : Window) (r : Region) : FrameRow settleWork 0x02 .opStore (fun o s => lacksProt s o.frame = false ∧ windowCheck s o.frame (mayStore s o.frame) (storeSpans o.frame) = .ok (w, r) ∧ o.frame.prot = false ∧ r.prot = false ∧ counterOk s o.frame = true ∧ w.coherent = false)
    (fun o s => storeLand o.frame w r s) := by
  refine frameRow_of (mine := (· == 0x02)) (act := storeAct) rfl rfl (fun _ _ _ _ => rfl) ?_
  rintro o s - ⟨hp, hw, hf, hr, hk, hc⟩
  unfold storeAct
  dsimp only
  rw [if_neg (by simp [hp]), hw]
  dsimp only
  rw [protCheck_unprotected hf hr]
  dsimp only
  rw [if_neg (by simp [hk]), cohGate_plain hc]

theorem opStore_refused (e : Status) : FrameRow settleWork 0x02 .opStore (fun o s => lacksProt s o.frame = false ∧ windowCheck s o.frame (mayStore s o.frame) (storeSpans o.frame) = .error e)
    (fun o s => fault (flowOf o.frame) o.cls o.frame e (denied o.frame e s)) := by
  refine frameRow_of (mine := (· == 0x02)) (act := storeAct) rfl rfl (fun _ _ _ _ => rfl) ?_
  rintro o s - ⟨hp, hw⟩
  unfold storeAct
  dsimp only
  rw [if_neg (by simp [hp]), hw]
  rfl

theorem opAtomic_done (w : Window) (r : Region) : FrameRow settleWork 0x03 .opAtomic (fun o s => lacksProt s o.frame = false ∧ windowCheck s o.frame (mayAtomic s o.frame) [(o.frame.offset, 8)] = .ok (w, r) ∧ o.frame.offset % 8 = 0 ∧ o.frame.prot = false ∧ r.prot = false ∧
      w.coherent = false ∧ (regionRead s r (w.off + o.frame.offset) 8).2 = false)
    (fun o s => respond (flowOf o.frame) o.cls o.frame { blankFrame with op := 0x83, payload := (regionRead s r (w.off + o.frame.offset) 8).1 } (atomicLand o.frame w r (regionRead s r (w.off + o.frame.offset) 8).1 s)) := by
  refine frameRow_of (mine := (· == 0x03)) (act := atomicAct) rfl rfl (fun _ _ _ _ => rfl) ?_
  rintro o s - ⟨hp, hw, ho, hf, hr, hc, hb⟩
  unfold atomicAct
  dsimp only
  rw [if_neg (by simp [hp]), hw]
  dsimp only
  rw [if_neg (by simp [ho]), protCheck_unprotected hf hr]
  dsimp only
  rw [cohGate_plain hc, if_neg (by simp [hb])]

theorem opCounterAdd_counted : FrameRow settleWork 0x04 .opCounterAdd (fun o s => tblGet? s.trn.counterOwner (o.frame.msgLen % 2 ^ 16) = some o.frame.dstCtx) (fun o s => addCounter (o.frame.msgLen % 2 ^ 16) o.frame.operand s) := by
  refine frameRow_of (mine := (· == 0x04)) rfl rfl (fun _ _ _ _ => rfl) ?_
  rintro o s - h
  dsimp only
  rw [if_neg (by rw [h]; simp)]

theorem opCoreMsg_placed : FrameRow settleWork 0x05 .opCoreMsg (fun o s => lacksProt s o.frame = false ∧ o.frame.prot = false ∧ msgCore o.frame < 72 ∧ reachable s (msgCore o.frame) = true ∧ msgTaken s o.frame = true ∧ (openPayload o.frame).length ≤ 4096 ∧
      (tblGetD (getCore s (msgCore o.frame)).rxq (msgThread o.frame) []).length < 63)
    (fun o s => placeMsg o.frame s) := by
  refine frameRow_of (mine := (· == 0x05)) rfl rfl (fun _ _ _ _ => rfl) ?_
  rintro o s - ⟨hp, hf, hcore, hreach, ht, hlen, hq⟩
  have hgo : ¬ (decide (72 ≤ msgCore o.frame) || !reachable s (msgCore o.frame) || !msgTaken s o.frame || decide (4096 < (openPayload o.frame).length)) = true := by
    simp [hreach, ht, hcore, hlen]
  dsimp only
  rw [if_neg (by simp [hp]), if_neg (show ¬ o.frame.prot = true by simp [hf])]
  dsimp only
  rw [if_neg hgo, if_neg (Nat.not_le.mpr hq)]

theorem opCommand_queued (j : Job) (x : Slot) : FrameRow settleWork 0x06 .opCommand (fun o s => s.hlt.drain.phase ≠ .quiesce ∧ s.hlt.drain.phase ≠ .ready ∧ s.mod.stopping = false ∧ s.mod.shutdown = false ∧ lacksProt s o.frame = false ∧ jobCheck s o.frame = .ok j ∧ j.command = true ∧
      64 ≤ o.frame.msgLen ∧ o.frame.msgLen ≤ 64 + 2 ^ 24 ∧ o.frame.offset = 0 ∧ (tblGetD s.trn.rqueues o.frame.dstCtx []).length < 256 ∧ stagedBytes s + o.frame.msgLen ≤ s.tir.trnAreaGib * 2 ^ 30 ∧ o.frame.prot = false ∧
      getSlot? s (flowOf o.frame) = some x ∧ o.frame.last = true ∧ (openPayload o.frame).length = o.frame.msgLen ∧ getU (openPayload o.frame) 16 4 + 64 = o.frame.msgLen ∧ getU (openPayload o.frame) 20 4 ≤ 2 ^ 24)
    (fun o s => queueCommand o (openPayload o.frame) (setSlot (flowOf o.frame) { x with part := none } s)) := by
  refine frameRow_of (mine := (· == 0x06)) (act := commandAct) rfl rfl (fun _ _ _ _ => rfl) ?_
  rintro o s - ⟨hdq, hdr, hst, hsh, hp, hj, hjc, hmin, hmax, hoff, hq, hstage, hf, hx, hlast, hlen, hin, hout⟩
  have hsize : ¬ (decide (o.frame.msgLen < 64) || decide (64 + 2 ^ 24 < o.frame.msgLen)) = true := by simp; omega
  have hroom : ¬ ((o.frame.offset == 0) && (decide (256 ≤ (tblGetD s.trn.rqueues o.frame.dstCtx []).length) || decide (s.tir.trnAreaGib * 2 ^ 30 < stagedBytes s + o.frame.msgLen))) = true := by
    simp; omega
  have hwhole : ¬ ((openPayload o.frame).length != o.frame.msgLen || getU (openPayload o.frame) 16 4 + 64 != o.frame.msgLen || decide (2 ^ 24 < getU (openPayload o.frame) 20 4)) = true := by
    simp [hlen, hin]; omega
  unfold commandAct
  dsimp only
  rw [drainHolds_false hdq hdr, if_neg Bool.false_ne_true, if_neg (by simp [hst, hsh]), if_neg (by simp [hp]), hj]
  dsimp only
  rw [if_neg (by simp [hjc]), if_neg hsize, if_neg hroom, if_neg (show ¬ o.frame.prot = true by simp [hf])]
  dsimp only
  rw [hx]
  dsimp only
  rw [if_pos (show (o.frame.offset == 0) = true by simp [hoff])]
  dsimp only
  rw [if_pos hlast, List.nil_append, if_neg hwhole]

/-! Answers to the node's own operations (R377, R382, R385, R388, R390) -/

theorem loadData_placed (p : TOp) (oid seg : Nat) : FrameRow settleWork 0x81 .loadData (fun o s => opOf s o.frame [.load] = some p ∧ o.frame.prot = false ∧ p.owner = .cmd oid seg)
    (fun o s => endOp o.frame.tag (.good (leNat ((openPayload o.frame).take 8))) (placeOutput oid seg ((openPayload o.frame).take p.bytes) s)) := by
  refine frameRow_self (mine := (· == 0x81)) rfl rfl (fun _ _ => rfl) ?_
  rintro o s ⟨hp, hf, ho⟩
  dsimp only
  rw [hp, if_neg (show ¬ o.frame.prot = true by simp [hf])]
  dsimp only
  rw [ho]

theorem atomicOld_taken (p : TOp) : FrameRow settleWork 0x83 .atomicOld (fun o s => opOf s o.frame [.atomic] = some p ∧ o.frame.prot = false) (fun o s => endOp o.frame.tag (.good (getU (openPayload o.frame) 0 8)) s) := by
  refine frameRow_self (mine := (· == 0x83)) rfl rfl (fun _ _ => rfl) ?_
  rintro o s ⟨hp, hf⟩
  rw [hp, if_neg (show ¬ o.frame.prot = true by simp [hf])]

theorem opFault_ends (p : TOp) : FrameRow settleWork 0x82 .opFault (fun o s => opOf s o.frame [.load, .store, .atomic, .counterAdd, .coreMsg, .command, .flag] = some p) (fun o s => endOp o.frame.tag (.lost (statusOf o.frame.status)) s) := by
  refine frameRow_self (mine := (· == 0x82)) rfl rfl (fun _ _ => rfl) ?_
  rintro o s hp
  rw [hp]

theorem commandDoneMsg_finishes (p : TOp) (x : Slot) (oid seg : Nat) : FrameRow settleWork 0x86 .commandDoneMsg (fun o s => opOf s o.frame [.command] = some p ∧ getSlot? s (flowOf o.frame) = some x ∧ o.frame.prot = false ∧ o.frame.offset = 0 ∧ o.frame.last = true ∧ p.owner = .cmd oid seg)
    (fun o s => let t := setSlot (flowOf o.frame) { x with part := none } s
      finish oid { r0 := getU (openPayload o.frame) 2 1, output := openPayload o.frame } { t with trn := { t.trn with ops := tblDel t.trn.ops o.frame.tag, xfers := tblDel t.trn.xfers oid } }) := by
  refine frameRow_self (mine := (· == 0x86)) rfl rfl (fun _ _ => rfl) ?_
  rintro o s ⟨hp, hx, hf, hoff, hlast, ho⟩
  dsimp only
  rw [hp, hx]
  dsimp only
  rw [if_neg (show ¬ o.frame.prot = true by simp [hf])]
  dsimp only
  rw [if_neg (by simp [hlast]), ho, if_pos (by simp [hoff]), List.nil_append]

/-- Settles O47: each row is the frame that is next in its flow, acted on where it passes the checks of R381. -/
theorem remoteOperationsComplete : Obligations.RemoteOperationsComplete :=
  ⟨opLoad_answered, opStore_landed, opStore_refused, opAtomic_done, opCounterAdd_counted, opCoreMsg_placed, opCommand_queued,
    loadData_placed, atomicOld_taken, opFault_ends, commandDoneMsg_finishes⟩

/-! Coherence messages (R392, R393) -/

/-- A coherence message between members of one stook acts on its window's line, and is accepted. -/
theorem frameRow_coh {op : Nat} {row : TFrame → Instr} {own : OutFrame → State → Prop} {eff : OutFrame → State → State} {act : Nat → Nat → OutFrame → State → State}
    (hop : isCoh op = true) (hd : definedOps.contains op = true) (he : ∀ f s, exec (row f) s = .next (settleWork (receive isCoh f (cohAct act) s)))
    (ha : ∀ o s, own o s → act o.frame.window (o.frame.offset / 64) o s = eff o s) :
    FrameRow settleWork op row (fun o s => inStook s o.frame.srcNode = true ∧ own o s) eff := by
  refine frameRow_of hop hd (fun f s _ _ => he f s) ?_
  rintro o s - ⟨hin, hown⟩
  unfold cohAct
  rw [if_neg (by simp [hin]), ha o s hown]

/-- The same where nothing is asked beside the stook. -/
theorem frameRow_coh_always {op : Nat} {row : TFrame → Instr} {eff : OutFrame → State → State} {act : Nat → Nat → OutFrame → State → State}
    (hop : isCoh op = true) (hd : definedOps.contains op = true) (he : ∀ f s, exec (row f) s = .next (settleWork (receive isCoh f (cohAct act) s)))
    (ha : ∀ o s, act o.frame.window (o.frame.offset / 64) o s = eff o s) :
    FrameRow settleWork op row (fun o s => inStook s o.frame.srcNode = true) eff := by
  intro f s h1 h2 h3
  exact frameRow_coh (own := fun _ _ => True) hop hd he (fun o s _ => ha o s) f s h1 h2 ⟨h3, trivial⟩

theorem cohGetS_served : FrameRow settleWork 0x08 .cohGetS (fun o s => inStook s o.frame.srcNode = true ∧ homeLine s o.frame.window (o.frame.offset / 64) = true)
    (fun o s => serveLine o.frame.window (o.frame.offset / 64) false (.get o.frame.srcNode false) s) :=
  frameRow_coh rfl rfl (fun _ _ => rfl) fun _ _ h => if_pos h

theorem cohGetM_served : FrameRow settleWork 0x08 .cohGetM (fun o s => inStook s o.frame.srcNode = true ∧ homeLine s o.frame.window (o.frame.offset / 64) = true)
    (fun o s => serveLine o.frame.window (o.frame.offset / 64) true (.get o.frame.srcNode true) s) :=
  frameRow_coh rfl rfl (fun _ _ => rfl) fun _ _ h => if_pos h

theorem cohPutM_evicts : FrameRow settleWork 0x08 .cohPutM (fun o s => inStook s o.frame.srcNode = true ∧ lineOwner s o.frame.window (o.frame.offset / 64) = some o.frame.srcNode)
    (fun o s => lineAnswer o.frame.window (o.frame.offset / 64) o.frame.srcNode (setDir o.frame.window (o.frame.offset / 64) 0 (writeLine o.frame.window (o.frame.offset / 64) (openPayload o.frame) s))) :=
  frameRow_coh rfl rfl (fun _ _ => rfl) fun _ _ h => if_neg (by simp [h])

theorem cohWriteBack_answers (x : CohWait) : FrameRow settleWork 0x88 .cohWriteBack (fun o s => inStook s o.frame.srcNode = true ∧ recallOf s o.frame.window (o.frame.offset / 64) o.frame.srcNode = some x)
    (fun o s => lineAnswer o.frame.window (o.frame.offset / 64) o.frame.srcNode (setDir o.frame.window (o.frame.offset / 64) (if x.excl then 0 else 256 + 2 ^ memberIndex s o.frame.srcNode) (writeLine o.frame.window (o.frame.offset / 64) (openPayload o.frame) s))) := by
  refine frameRow_coh rfl rfl (fun _ _ => rfl) ?_
  intro o s h
  rw [h]

theorem cohInvAck_drops (x : Window) : FrameRow settleWork 0x88 .cohInvAck (fun o s => inStook s o.frame.srcNode = true ∧ tblGet? s.trn.windows o.frame.window = some x)
    (fun o s => lineAnswer o.frame.window (o.frame.offset / 64) o.frame.srcNode (dropSharer x o.frame.window (o.frame.offset / 64) o.frame.srcNode s)) := by
  refine frameRow_coh rfl rfl (fun _ _ => rfl) ?_
  intro o s h
  rw [h]

theorem cohRecall_writesBack (c : CacheLine) : FrameRow settleWork 0x08 .cohRecall (fun o s => inStook s o.frame.srcNode = true ∧ cached? s o.frame.srcNode o.frame.window (o.frame.offset / 64) = some c ∧ c.owned = true)
    (fun o s => sendCoh c.home .writeBack o.frame.window (o.frame.offset / 64) false c.data (giveUpLine c (o.frame.operand % 2 == 1) s)) := by
  refine frameRow_coh rfl rfl (fun _ _ => rfl) ?_
  rintro o s ⟨hc, ho⟩
  rw [hc]
  dsimp only
  rw [if_neg (by simp [ho])]

theorem cohInv_answered : FrameRow settleWork 0x08 .cohInv (fun o s => inStook s o.frame.srcNode = true)
    (fun o s => sendCoh o.frame.srcNode .invAck o.frame.window (o.frame.offset / 64) false [] (dropLine o.frame.srcNode o.frame.window (o.frame.offset / 64) s)) :=
  frameRow_coh_always rfl rfl (fun _ _ => rfl) fun _ _ => rfl

theorem cohData_installed : FrameRow settleWork 0x88 .cohData (fun o s => inStook s o.frame.srcNode = true)
    (fun o s => installLine { home := o.frame.srcNode, window := o.frame.window, line := o.frame.offset / 64, owned := o.frame.operand % 2 == 1, data := openPayload o.frame } s) :=
  frameRow_coh_always rfl rfl (fun _ _ => rfl) fun _ _ => rfl

/-- Settles O48: each row is a coherence message between members of one stook. -/
theorem coherenceRowsComplete : Obligations.CoherenceRowsComplete :=
  ⟨cohGetS_served, cohGetM_served, cohPutM_evicts, cohWriteBack_answers, cohInvAck_drops, cohRecall_writesBack, cohInv_answered, cohData_installed⟩

end Sys2Proof.Machine

/-! SUPPORT. O49: the commands of remote memory, the Field's remote accesses and the acceptance of remote commands. -/

namespace Sys2Proof.Machine

/-! Commands that issue operations (R368, R377, R382, R387, R390, R403) -/

theorem olnenPut_issues : WaitsThen settleWork 0x0A 0x31 .olnenPut (fun c s => argsOnly c (nodeFields ++ [(36, 0, 16), (38, 0, 16), (40, 0, 64), (48, 0, 16), (50, 0, 16)]) = true ∧ bufferCheck c s = none ∧ localCounterOk s c (argU c 50 2) = true ∧
      cannotSend s (cmdCtx s c) (argU c 32 2) (argU c 34 2) = false ∧ maySendInput s c (argU c 32 2) (protSlot s (cmdCtx s c) (some (argU c 36 2))).isSome = true ∧ sealStatus s (protSlot s (cmdCtx s c) (some (argU c 36 2))) = none ∧ (xferPieces s c c.input.length).length ≤ freeTags s ∧ (xferPieces s c c.input.length).isEmpty = false)
    (fun oid c s => putPieces oid (cmdCtx s c) (protSlot s (cmdCtx s c) (some (argU c 36 2))) c (xferPieces s c c.input.length) (beginXfer oid (xferPieces s c c.input.length).length c s)) := by
  refine waits_of (fun _ _ => rfl) ?_
  rintro oid c s ⟨ha, hb, hl, hc, hm, hs, ht, hp⟩
  dsimp only
  rw [if_neg (by simp [ha]), hb]
  dsimp only
  rw [if_neg (by simp [hl]), sending_goes hc hm hs ht, if_neg (by simp [hp])]

theorem olnenGet_issues : WaitsThen settleWork 0x0A 0x32 .olnenGet (fun c s => argsOnly c (nodeFields ++ [(36, 0, 16), (38, 0, 16), (40, 0, 64), (50, 0, 16)]) = true ∧ bufferCheck c s = none ∧ localCounterOk s c (argU c 50 2) = true ∧
      cannotSend s (cmdCtx s c) (argU c 32 2) (argU c 34 2) = false ∧ maySendInput s c (argU c 32 2) (protSlot s (cmdCtx s c) (some (argU c 36 2))).isSome = true ∧ sealStatus s (protSlot s (cmdCtx s c) (some (argU c 36 2))) = none ∧ (xferPieces s c c.outLen).length ≤ freeTags s ∧ (xferPieces s c c.outLen).isEmpty = false)
    (fun oid c s => getPieces oid (cmdCtx s c) (protSlot s (cmdCtx s c) (some (argU c 36 2))) c (xferPieces s c c.outLen) (beginXfer oid (xferPieces s c c.outLen).length c s)) := by
  refine waits_of (fun _ _ => rfl) ?_
  rintro oid c s ⟨ha, hb, hl, hc, hm, hs, ht, hp⟩
  dsimp only
  rw [if_neg (by simp [ha]), hb]
  dsimp only
  rw [if_neg (by simp [hl]), sending_goes hc hm hs ht, if_neg (by simp [hp])]

theorem olnenAtomic_issues : WaitsThen settleWork 0x0A 0x33 .olnenAtomic (fun c s => argsOnly c (nodeFields ++ [(36, 0, 16), (38, 0, 16), (40, 0, 64), (52, 0, 3), (56, 0, 64)]) = true ∧ bufferCheck c s = none ∧ (argBits c 52 0 3 = 5 → 8 ≤ c.inLen) ∧
      cannotSend s (cmdCtx s c) (argU c 32 2) (argU c 34 2) = false ∧ maySendInput s c (argU c 32 2) (protSlot s (cmdCtx s c) (some (argU c 36 2))).isSome = true ∧ sealStatus s (protSlot s (cmdCtx s c) (some (argU c 36 2))) = none ∧ 1 ≤ freeTags s)
    (fun oid c s => let t : State := { s with trn := { s.trn with xfers := tblSet s.trn.xfers oid { left := 1, segs := 1 } } }
      issueOp (fun _ => { kind := .atomic, owner := .cmd oid 0, ctx := cmdCtx s c, key := slotKey (cmdCtx s c) (argU c 32 2) (argU c 34 2) }) (protSlot s (cmdCtx s c) (some (argU c 36 2))) (cmdClass t c)
        { blankFrame with op := 0x03, opFlags := argBits c 52 0 3, job := argU c 36 2, window := argU c 38 2, offset := argU c 40 8, operand := argU c 56 8, payload := if argBits c 52 0 3 == 5 then c.input.take 8 else [] } t) := by
  refine waits_of (fun _ _ => rfl) ?_
  rintro oid c s ⟨ha, hb, hl, hc, hm, hs, ht⟩
  have hswap : ¬ (argBits c 52 0 3 == 5 && decide (c.inLen < 8)) = true := by simpa using hl
  dsimp only
  rw [if_neg (by simp [ha]), hb]
  dsimp only
  rw [if_neg hswap, sending_goes hc hm hs ht]

theorem olnenFlag_issues : WaitsThen settleWork 0x0A 0x34 .olnenFlag (fun c s => argsOnly c (nodeFields ++ [(36, 0, 16), (38, 0, 16), (40, 0, 64), (48, 0, 64), (56, 0, 64)]) = true ∧ c.inLen ≤ 4096 ∧ bufferCheck c s = none ∧
      cannotSend s (cmdCtx s c) (argU c 32 2) (argU c 34 2) = false ∧ maySendInput s c (argU c 32 2) (protSlot s (cmdCtx s c) (some (argU c 36 2))).isSome = true ∧ sealStatus s (protSlot s (cmdCtx s c) (some (argU c 36 2))) = none ∧ 1 ≤ freeTags s)
    (fun oid c s => let t : State := { s with trn := { s.trn with xfers := tblSet s.trn.xfers oid { left := 1, segs := 1 } } }
      holdFlag (fun _ => { kind := .flag, owner := .cmd oid 0, ctx := cmdCtx s c, key := slotKey (cmdCtx s c) (argU c 32 2) (argU c 34 2) }) c.cid (protSlot s (cmdCtx s c) (some (argU c 36 2))) (cmdClass t c)
        { blankFrame with op := 0x02, flagged := true, job := argU c 36 2, window := argU c 38 2, offset := argU c 48 8, operand := argU c 56 8, msgLen := 0xFFFF, payload := leBytes 8 (argU c 40 8) ++ c.input } t) := by
  refine waits_of (fun _ _ => rfl) ?_
  rintro oid c s ⟨ha, hl, hb, hc, hm, hs, ht⟩
  dsimp only
  rw [if_neg (by simp [ha]), if_neg (Nat.not_lt.mpr hl), hb]
  dsimp only
  rw [sending_goes hc hm hs ht]

theorem olnenMsg_issues : WaitsThen settleWork 0x0A 0x35 .olnenMsg (fun c s => argsOnly c (nodeFields ++ [(36, 0, 7), (37, 0, 2)]) = true ∧ argBits c 36 0 7 < 72 ∧ c.inLen ≤ 4096 ∧ bufferCheck c s = none ∧
      cannotSend s (cmdCtx s c) (argU c 32 2) (argU c 34 2) = false ∧ maySendInput s c (argU c 32 2) (protSlot s (cmdCtx s c) none).isSome = true ∧ sealStatus s (protSlot s (cmdCtx s c) none) = none ∧ 1 ≤ freeTags s)
    (fun oid c s => let t : State := { s with trn := { s.trn with xfers := tblSet s.trn.xfers oid { left := 1, segs := 1 } } }
      issueOp (fun _ => { kind := .coreMsg, owner := .cmd oid 0, ctx := cmdCtx s c, key := slotKey (cmdCtx s c) (argU c 32 2) (argU c 34 2) }) (protSlot s (cmdCtx s c) none) (cmdClass t c)
        { blankFrame with op := 0x05, window := 0xFFFF, offset := argBits c 36 0 7 + 256 * argBits c 37 0 2, payload := c.input } t) := by
  refine waits_of (fun _ _ => rfl) ?_
  rintro oid c s ⟨ha, hcore, hl, hb, hc, hm, hs, ht⟩
  dsimp only
  rw [if_neg (by simp [ha, hcore]), if_neg (Nat.not_lt.mpr hl), hb]
  dsimp only
  rw [sending_goes hc hm hs ht]

theorem olnenRemote_issues : WaitsThen settleWork 0x0A 0x30 .olnenRemote (fun c s => argsOnly c nodeFields = true ∧ bufferCheck c s = none ∧ isMessage c.input = true ∧
      cannotSend s (cmdCtx s c) (argU c 32 2) (argU c 34 2) = false ∧ maySendInput s c (argU c 32 2) (protSlot s (cmdCtx s c) none).isSome = true ∧ sealStatus s (protSlot s (cmdCtx s c) none) = none ∧ 1 ≤ freeTags s)
    (fun oid c s => let t : State := { s with trn := { s.trn with xfers := tblSet s.trn.xfers oid { left := 1, segs := 1 } } }
      issueMessage (fun _ => { kind := .command, owner := .cmd oid 0, ctx := cmdCtx s c, key := slotKey (cmdCtx s c) (argU c 32 2) (argU c 34 2) }) (argU c 32 2) (protSlot s (cmdCtx s c) none) (cmdClass t c) c.input t) := by
  refine waits_of (fun _ _ => rfl) ?_
  rintro oid c s ⟨ha, hb, hmsg, hc, hm, hs, ht⟩
  dsimp only
  rw [if_neg (by simp [ha]), hb]
  dsimp only
  rw [if_neg (by simp [hmsg]), sending_goes hc hm hs ht]

/-! Jobs, windows, counters and stooks (R379, R380, R389, R392, R403, R404) -/

theorem olnenJobSet_sets (ms : List (Nat × Nat)) (x : Ctx) : EndsAt 0x0A 0x38 .olnenJobSet (fun c s => argsOnly c [(32, 0, 16), (34, 0, 12), (36, 0, 1), (38, 0, 16)] = true ∧ 1 ≤ argU c 38 2 ∧ argU c 38 2 ≤ 1024 ∧ bufferCheck c s = none ∧ 4 * argU c 38 2 ≤ c.inLen ∧
      memberList c.input (argU c 38 2) = some ms ∧ getCtx? s (argU c 34 2) = some x ∧ (s.trn.jobs.filter (fun e => e.1 != argU c 32 2)).length < 4096 ∧
      sumN ((s.trn.jobs.filter (fun e => e.1 != argU c 32 2)).map (fun e => e.2.members.length)) + argU c 38 2 ≤ 65536 ∧
      (judge c { unit := 0x0A, obj := 2 ^ 32 + argU c 32 2 } (.value (leNat (leBytes 32 c.args.toNat ++ c.input.take (4 * argU c 38 2)))) s).1 = true)
    (fun _ _ => {}) (fun c s => let t := (judge c { unit := 0x0A, obj := 2 ^ 32 + argU c 32 2 } (.value (leNat (leBytes 32 c.args.toNat ++ c.input.take (4 * argU c 38 2)))) s).2
      { t with trn := { t.trn with jobs := tblSet t.trn.jobs (argU c 32 2) { ctx := argU c 34 2, command := argBits c 36 0 1 == 1, members := ms } } }) := by
  refine ends_of (fun _ _ => rfl) ?_
  rintro _ c s ⟨ha, hmin, hmax, hb, hl, hms, hx, hjobs, hsum, hj⟩
  have hn : argU c 38 2 ≠ 0 := by omega
  have hfull : ¬ (argU c 38 2 != 0 && (decide (4096 ≤ (s.trn.jobs.filter (fun e => e.1 != argU c 32 2)).length) ||
      decide (65536 < sumN ((s.trn.jobs.filter (fun e => e.1 != argU c 32 2)).map (fun e => e.2.members.length)) + argU c 38 2))) = true := by
    rw [decide_eq_false (Nat.not_le.mpr hjobs), decide_eq_false (Nat.not_lt.mpr hsum), Bool.or_self, Bool.and_false]
    exact Bool.false_ne_true
  dsimp only
  rw [if_neg (by simp [ha, hmax]), hb]
  dsimp only
  rw [if_neg (Nat.not_lt.mpr hl), hms]
  dsimp only
  rw [if_neg (by simp [hx]), if_neg hfull, judge_applied hj]
  dsimp only
  rw [if_neg (by simp), if_neg (by simp [hn])]
  rfl

theorem olnenWindowOpen_opens (r : Region) (off : Nat) (j : Job) (n dir : Nat) : EndsAt 0x0A 0x39 .olnenWindowOpen (fun c s => argsOnly c [(32, 0, 16), (36, 0, 4), (40, 0, 64), (48, 0, 64)] = true ∧ resolve s (argU c 40 8) = some (r, off) ∧ mayName s c r.ctx = true ∧ tblGet? s.trn.jobs (argU c 32 2) = some j ∧
      j.ctx = r.ctx ∧ off + argU c 48 8 ≤ regionSize r ∧ (argBits c 36 3 1 = 1 → s.trn.members ≠ []) ∧ s.trn.windows.length < 65535 ∧ tblFree? s.trn.windows (s.trn.windows.length + 1) = some n ∧
      dirPlace s (argBits c 36 3 1 == 1) (argU c 48 8) = some dir)
    (fun _ _ => { r0 := n }) (fun c s => { s with trn := { s.trn with windows := tblSet s.trn.windows n (windowOf c r off dir) } }) := by
  refine ends_of (fun _ _ => rfl) ?_
  rintro _ c s ⟨ha, hr, hname, hj, hctx, hsize, hcoh, hroom, hfree, hdir⟩
  have hstook : ¬ (argBits c 36 3 1 == 1 && s.trn.members.isEmpty) = true := by simpa using hcoh
  dsimp only
  rw [if_neg (by simp [ha]), hr]
  dsimp only
  rw [if_neg (by simp [hname]), hj]
  dsimp only
  rw [if_neg (by simp [hctx]), if_neg (Nat.not_lt.mpr hsize), if_neg hstook, if_neg (Nat.not_le.mpr hroom), hfree, hdir]
  rfl

theorem olnenWindowClose_closes (w : Window) : EndsAt 0x0A 0x3A .olnenWindowClose (fun c s => argsOnly c [(32, 0, 16)] = true ∧ tblGet? s.trn.windows (argU c 32 2) = some w ∧ mayName s c w.ctx = true)
    (fun _ _ => {}) (fun c s => closeWindows (fun k _ => k == argU c 32 2) s) := by
  refine ends_of (fun _ _ => rfl) ?_
  rintro _ c s ⟨ha, hw, hname⟩
  rw [if_neg (by simp [ha]), hw]
  dsimp only
  rw [if_neg (by simp [hname])]
  rfl

theorem olnenCounterAlloc_allocates (k : Nat) : EndsAt 0x0A 0x3B .olnenCounterAlloc (fun c s => argsOnly c [(32, 0, 16), (34, 0, 1), (36, 0, 0)] = true ∧ argBits c 34 0 1 = 0 ∧ 1 ≤ argU c 32 2 ∧ argU c 32 2 ≤ 4096 ∧ freeRun (argU c 32 2) 0 (s.trn.counterOwner.map (·.1)) = some k)
    (fun _ _ => { r0 := k }) (fun c s => { s with trn := { s.trn with counterOwner := (List.range (argU c 32 2)).foldl (fun t i => tblSet t (k + i) (cmdCtx s c)) s.trn.counterOwner, counters := (List.range (argU c 32 2)).foldl (fun t i => tblDel t (k + i)) s.trn.counters } }) := by
  refine ends_of (fun _ _ => rfl) ?_
  rintro _ c s ⟨ha, hfree, hmin, hmax, hk⟩
  have hn : argU c 32 2 ≠ 0 := by omega
  have hf : (argBits c 34 0 1 == 1) = false := by simp [hfree]
  dsimp only
  rw [hf, if_neg (show ¬ false = true from Bool.false_ne_true), if_neg (by simp [ha, hn, hmax]), if_neg Bool.false_ne_true, hk]
  rfl

/-- Where nothing is armed, a read of the hub's SRAM changes nothing. -/
theorem hubRead_unarmed {s : State} (h : s.hlt.arms = []) : hubRead s = s := by
  unfold hubRead
  rw [sparkCheck_unarmed h]

theorem olnenCounterWait_reached (x : Nat) : EndsAt 0x0A 0x3C .olnenCounterWait (fun c s => argsOnly c [(32, 0, 16), (40, 0, 64), (48, 0, 32)] = true ∧ argU c 32 2 ≠ 0xFFFF ∧ tblGet? s.trn.counterOwner (argU c 32 2) = some x ∧ s.hlt.arms = [] ∧ mayName s c x = true ∧
      reached (tblGetD s.trn.counters (argU c 32 2) 0) (argU c 40 8) = true)
    (fun c s => { r0 := tblGetD s.trn.counters (argU c 32 2) 0 }) (fun _ s => s) := by
  refine ends_of (fun _ _ => rfl) ?_
  rintro _ c s ⟨ha, hk, hx, harm, hname, hr⟩
  dsimp only
  rw [if_neg (by simp [ha, hk]), hx, hubRead_unarmed harm]
  dsimp only
  rw [if_neg (by simp [hname]), if_pos hr]
  rfl

theorem olnenCounterWait_waits (x : Nat) : WaitsAt 0x0A 0x3C .olnenCounterWait (fun c s => argsOnly c [(32, 0, 16), (40, 0, 64), (48, 0, 32)] = true ∧ argU c 32 2 ≠ 0xFFFF ∧ tblGet? s.trn.counterOwner (argU c 32 2) = some x ∧ s.hlt.arms = [] ∧ mayName s c x = true ∧
      reached (tblGetD s.trn.counters (argU c 32 2) 0) (argU c 40 8) = false)
    (fun oid c s => { s with trn := { s.trn with waits := s.trn.waits ++ [{ oid := oid, counter := argU c 32 2, target := argU c 40 8, until_ := s.now + argU c 48 4 * 1000 }] } }) := by
  refine waits_of (fun _ _ => rfl) ?_
  rintro _ c s ⟨ha, hk, hx, harm, hname, hr⟩
  dsimp only
  rw [if_neg (by simp [ha, hk]), hx, hubRead_unarmed harm]
  dsimp only
  rw [if_neg (by simp [hname]), if_neg (by simp [hr])]
  rfl

theorem olnenStookSet_sets : EndsAt 0x0A 0x3D .olnenStookSet (fun c s => argsOnly c [(32, 0, 8), (33, 0, 4)] = true ∧ argBits c 33 0 4 ≤ 8 ∧ (argU c 32 1 = 0xFF ↔ argBits c 33 0 4 = 0) ∧ bufferCheck c s = none ∧ 2 * argBits c 33 0 4 ≤ c.inLen ∧
      stookOk s ((List.range (argBits c 33 0 4)).map (fun i => inU c (2 * i) 2)) (argU c 32 1 == 0xFF) = true ∧
      (judge c { unit := 0x0A, obj := 2 ^ 33 } (.value (leNat (leBytes 32 c.args.toNat ++ c.input.take (2 * argBits c 33 0 4)))) s).1 = true)
    (fun _ _ => {}) (fun c s => setStook (argU c 32 1) ((List.range (argBits c 33 0 4)).map (fun i => inU c (2 * i) 2)) (judge c { unit := 0x0A, obj := 2 ^ 33 } (.value (leNat (leBytes 32 c.args.toNat ++ c.input.take (2 * argBits c 33 0 4)))) s).2) := by
  refine ends_of (fun _ _ => rfl) ?_
  rintro _ c s ⟨ha, hmax, hleave, hb, hl, hok, hj⟩
  have hform : ¬ (!argsOnly c [(32, 0, 8), (33, 0, 4)] || decide (8 < argBits c 33 0 4) || ((argU c 32 1 == 0xFF) != (argBits c 33 0 4 == 0))) = true := by
    rw [Bool.eq_iff_iff.mpr (by simpa using hleave : (argU c 32 1 == 0xFF) = true ↔ (argBits c 33 0 4 == 0) = true)]
    simp [ha, hmax]
  dsimp only
  rw [if_neg hform, hb]
  dsimp only
  rw [if_neg (Nat.not_lt.mpr hl), if_neg (by simp [hok]), judge_applied hj]
  rfl

theorem olnenFlowStatus_answers : EndsAt 0x0A 0x3E .olnenFlowStatus (fun c s => argsOnly c [] = true ∧ bufferCheck c s = none ∧ 32 * (s.trn.slots.filter (fun e => keyCtx e.1 == cmdCtx s c)).length ≤ c.outLen)
    (fun c s => let xs := s.trn.slots.filter (fun e => keyCtx e.1 == cmdCtx s c)
      { r0 := s.trn.slots.length + min 0xFFFF s.trn.tombs.length * 2 ^ 16, output := (xs.map (fun e => flowRecord s e.1 e.2)).flatten, space := 32 * xs.length }) (fun _ s => s) := by
  refine ends_of (fun _ _ => rfl) ?_
  rintro _ c s ⟨ha, hb, hl⟩
  dsimp only
  rw [if_neg (by simp [ha]), hb]
  dsimp only
  rw [if_neg (Nat.not_lt.mpr hl)]

/-! The Field's remote accesses (R391) and the acceptance of remote commands (R383, R384, R412) -/

theorem exec_fieldRemoteAccess_issues (core thread node rctx job window offset kind n : Nat) (operand swap : Word) (r : Run) (s : State) (hr : runAt s core thread = some (n, r)) (hmay : mayAccess s core thread = true) (hk : kind ≤ 9)
    (hc : cannotSend s r.ctx node rctx = false) (hs : sealStatus s (protSlot s r.ctx (some job)) = none) (ht : freeTags s ≠ 0) :
    exec (.fieldRemoteAccess core thread node rctx job window offset kind operand swap false) s = .next
      (threadWaits core thread (takeTag (fun _ => { kind := .load, owner := .thread core thread, ctx := r.ctx, key := slotKey r.ctx node rctx }) s).1
        (issueOp (fun _ => { kind := threadKind kind, owner := .thread core thread, ctx := r.ctx, key := slotKey r.ctx node rctx }) (protSlot s r.ctx (some job)) 0 (threadFrame job window offset kind operand swap) s)) := by
  have hkind : ¬ (!mayAccess s core thread || decide (12 ≤ kind)) = true := by simp [hmay]; omega
  have h10 : ¬ (kind == 10) = true := by simp; omega
  have h11 : ¬ (kind == 11) = true := by simp; omega
  change execFieldRemoteAccess core thread node rctx job window offset kind operand swap false s = _
  unfold execFieldRemoteAccess
  rw [hr]
  dsimp only
  rw [if_neg hkind, if_neg h10, if_neg (by simp [hc, hs]), if_neg (by simp [ht]), if_neg (by simp), if_neg h11]

theorem exec_remoteCommandAccept_fetched (ctx : Nat) (passed : List Nat) (r : RCmd) (rest : List RCmd) (s : State) (hq : tblGetD s.trn.rqueues ctx [] = r :: rest) (hh : fetchHeld s = false) (hp : (fetchPick s passed).1 = some (remoteFeed ctx)) :
    exec (.remoteCommandAccept ctx passed) s = .next
      (let t := countFetch r.cls (classOf (fetchPick s passed).2 r.cls).rqueue (setInst 16 (fetchPick s passed).2 { s with cln := { s.cln with nextOid := s.cln.nextOid + 1 } })
       putFetched s.cln.nextOid { time := s.now } r.cmd { t with trn := { t.trn with rqueues := if rest.isEmpty then tblDel t.trn.rqueues ctx else tblSet t.trn.rqueues ctx rest }, cln := { t.cln with sweepFetched := t.cln.sweepFetched + 1 } }) := by
  have hpick : fetchPick s passed = (some (remoteFeed ctx), (fetchPick s passed).2) := Prod.ext hp rfl
  change execRemoteCommandAccept ctx passed s = _
  unfold execRemoteCommandAccept
  rw [hq]
  dsimp only
  rw [hpick]
  dsimp only
  rw [if_neg (by simp [hh])]
  rfl

/-- Settles O49: every command passes its checks and issues, sets or answers what R377 to R404 give; the Field's access and the fetch of a remote command issue theirs. -/
theorem remoteCommandsComplete : Obligations.RemoteCommandsComplete :=
  ⟨olnenPut_issues, olnenGet_issues, olnenAtomic_issues, olnenFlag_issues, olnenMsg_issues, olnenRemote_issues, olnenJobSet_sets, olnenWindowOpen_opens, olnenWindowClose_closes,
    olnenCounterAlloc_allocates, olnenCounterWait_reached, olnenCounterWait_waits, olnenStookSet_sets, olnenFlowStatus_answers,
    exec_fieldRemoteAccess_issues, exec_remoteCommandAccept_fetched⟩

end Sys2Proof.Machine

/-! SUPPORT. O50: what Headland lets be fetched, what a port sends next, the wheel, rotations and the HEADLAND commands. -/

namespace Sys2Proof.Machine

/-! What is fetched next (R411-R414) -/

/-- One that takes its turn is one of those that wait for it. -/
theorem mem_of_nextTurn {i n : Nat} {ids : List Nat} (h : nextTurn n ids = some i) : i ∈ ids := by
  unfold nextTurn at h
  cases hf : ids.find? (fun i => decide (n ≤ i)) with
  | some j =>
    rw [hf] at h
    cases h
    exact List.mem_of_find?_eq_some hf
  | none =>
    rw [hf] at h
    exact List.mem_of_head? h

/-- A ready feed of a class and queue is a feed that is ready, its queue open. -/
theorem feed_of_mem_readyFeeds {i c q : Nat} {passed : List Nat} {s : State} (h : i ∈ readyFeeds s passed c q) :
    fetchOpen s c q = true ∧ ∃ f ∈ feeds s, f.id = i ∧ f.cls = c ∧ f.queue = q ∧ feedReady s passed f = true := by
  unfold readyFeeds at h
  split at h
  · rename_i ho
    obtain ⟨f, hf, hi⟩ := List.mem_map.mp h
    obtain ⟨hmem, hready⟩ := List.mem_filter.mp hf
    simp only [Bool.and_eq_true, beq_iff_eq] at hready
    obtain ⟨⟨hc, hq⟩, hr⟩ := hready
    exact ⟨ho, f, hmem, hi, hc, hq, hr⟩
  · cases h

/-- What is chosen to be fetched is a ready feed of some class and queue. -/
theorem fetchPick_mem_readyFeeds {i : Nat} {passed : List Nat} {s : State} (h : (fetchPick s passed).1 = some i) : ∃ c q, i ∈ readyFeeds s passed c q := by
  unfold fetchPick at h
  dsimp only at h
  split at h
  · cases h
  next c d _ =>
    split at h
    · cases h
    next q e _ => exact ⟨c, q, mem_of_nextTurn h⟩

theorem fetchPick_grants (passed : List Nat) (i : Nat) (s : State) (h : (fetchPick s passed).1 = some i) :
    ∃ f ∈ feeds s, f.id = i ∧ feedReady s passed f = true ∧ gateOpen (getInst s 16) f.cls (fabricTime s) = true ∧ (queueOf (getInst s 16) f.queue).wheel = none := by
  obtain ⟨c, q, hmem⟩ := fetchPick_mem_readyFeeds h
  obtain ⟨hopen, f, hf, hi, rfl, rfl, hr⟩ := feed_of_mem_readyFeeds hmem
  simp only [fetchOpen, Bool.and_eq_true, Option.isNone_iff_eq_none] at hopen
  exact ⟨f, hf, hi, hr, hopen.1, hopen.2⟩

/-! What a port sends next (R410, R413) -/

theorem exec_portTransmitPick_express (p : Nat) (f : QFrame) (rest : List QFrame) (s : State) (hp : p < nPorts s) (hx : expressHead s p = some (f, rest)) :
    exec (.portTransmitPick p) s = .next (transmit p f (setInst p { getInst s p with express := rest } s)) := by
  change execPortTransmitPick p s = _
  simp only [execPortTransmitPick, hx, if_neg (Nat.not_le.mpr hp)]

theorem exec_portTransmitPick_sends (p c q : Nat) (d e : Drr) (s : State) (hp : p < nPorts s) (hx : expressHead s p = none) (hc : pickClass s p = (some c, d)) (hq : fromClass s p c = (some q, e)) :
    exec (.portTransmitPick p) s = .next (sendFrom_ p c q d e s) := by
  change execPortTransmitPick p s = _
  simp only [execPortTransmitPick, hx, hc, hq, if_neg (Nat.not_le.mpr hp)]

theorem exec_portTransmitPick_idle (p : Nat) (d : Drr) (s : State) (hp : p < nPorts s) (hx : expressHead s p = none) (hc : pickClass s p = (none, d)) :
    exec (.portTransmitPick p) s = .next (setInst p { getInst s p with cdrr := d } s) := by
  change execPortTransmitPick p s = _
  simp only [execPortTransmitPick, hx, hc, if_neg (Nat.not_le.mpr hp)]

/-! The wheel and rotations (R417-R421) -/

theorem exec_wheelSlotRelease_releases (i : Nat) (s : State) : exec (.wheelSlotRelease i) s = .next (((modInst i (releaseQueues (fabricTime s)) s).trn.slots.filter (fun e => e.2.port.getD 0 == i)).map (·.1) |>.foldl (fun s k => releaseFlow k s) (modInst i (releaseQueues (fabricTime s)) s)) := rfl

theorem exec_rotationEntryEnd_takesOver (i : Nat) (s : State) (hw : waitsForCycle s i = true) (hd : takeoverDue s i = true) : exec (.rotationEntryEnd i) s = .next (takeOver i false s) :=
  congrArg Host.Outcome.next (if_pos (by simp [hw, hd]))

theorem exec_rotationTakeover_takesOver (i : Nat) (s : State) (hd : takeoverDue s i = true) : exec (.rotationTakeover i) s = .next (takeOver i false s) :=
  congrArg Host.Outcome.next (if_pos hd)

theorem exec_rotationStopAt_stops (i t : Nat) (s : State) (ht : (getInst s i).stopAt = some t) (hd : t ≤ fabricTime s) :
    exec (.rotationStopAt i) s = .next (setInst i { getInst s i with rotation := none, pending := none, stopAt := none } s) := by
  change execRotationStopAt i s = _
  simp only [execRotationStopAt, ht, if_pos hd]
  rfl

/-! The HEADLAND commands (R419, R421, R424-R427) -/

/-- An order that the judge lets pass wherever it names. -/
theorem judgeAll_applied {c : Cmd} {base : Nat} {o : Order} {is : List Nat} {s : State} (h : (judgeAll c base o is s).1 = true) :
    judgeAll c base o is s = (true, (judgeAll c base o is s).2) := Prod.ext h rfl

theorem headlandStatus_answers (is : List Nat) : EndsAt 0x0B 0x01 .headlandStatus (fun c s => argsOnly c [(32, 0, 8)] = true ∧ argU c 32 1 ≠ 0xFF ∧ instances s (argU c 32 1) = .ok is ∧ bufferCheck c s = none ∧ 8448 ≤ c.outLen)
    (fun c s => { r0 := entryNow s (argU c 32 1) + 2 ^ 9 * b2n (getInst s (argU c 32 1)).rotation.isSome + 2 ^ 10 * b2n (getInst s (argU c 32 1)).pending.isSome, r1 := wheelCount s (argU c 32 1) % 2 ^ 32, output := ((List.range 8).map (classStatus s (argU c 32 1))).flatten ++ ((List.range 1024).map (queueStatus s (argU c 32 1))).flatten, space := 8448 })
    (fun _ s => s) := by
  refine ends_of (fun _ _ => rfl) ?_
  rintro _ c s ⟨ha, hi, his, hb, hl⟩
  dsimp only
  rw [if_neg (by simp [ha, hi]), his]
  dsimp only
  rw [hb]
  dsimp only
  rw [if_neg (Nat.not_lt.mpr hl)]

theorem headlandClassSet_sets (is : List Nat) : EndsAt 0x0B 0x10 .headlandClassSet (fun c s => argsOnly c [(32, 0, 8)] = true ∧ instances s (argU c 32 1) = .ok is ∧ bufferCheck c s = none ∧ 64 ≤ c.inLen ∧ (classRecords is c.input).length = 8 ∧ (is.contains 16 = true ∨ rangesApart (classRecords is c.input) = true) ∧
      (judgeAll c (2 ^ 30) (.value (leNat (c.input.take 64))) is s).1 = true)
    (fun _ _ => {}) (fun c s => putClasses is (classRecords is c.input) (judgeAll c (2 ^ 30) (.value (leNat (c.input.take 64))) is s).2) := by
  refine ends_of (fun _ _ => rfl) ?_
  rintro _ c s ⟨ha, his, hb, hl, hlen, hapart, hj⟩
  have hrecs : ¬ ((classRecords is c.input).length != 8 || (!is.contains 16 && !rangesApart (classRecords is c.input))) = true := by
    rcases hapart with h | h <;> rw [hlen, h] <;> simp
  dsimp only
  rw [if_neg (by simp [ha]), his]
  dsimp only
  rw [hb]
  dsimp only
  rw [if_neg (Nat.not_lt.mpr hl), if_neg hrecs, judgeAll_applied hj]
  rfl

theorem headlandQueueSet_sets (is : List Nat) : EndsAt 0x0B 0x11 .headlandQueueSet (fun c s => argsOnly c [(32, 0, 8), (34, 0, 10), (36, 0, 11)] = true ∧ 1 ≤ argBits c 36 0 11 ∧ argBits c 34 0 10 + argBits c 36 0 11 ≤ 1024 ∧ instances s (argU c 32 1) = .ok is ∧ bufferCheck c s = none ∧
      4 * argBits c 36 0 11 ≤ c.inLen ∧ (queueRecords c (argBits c 36 0 11)).any (fun r => r.1 == 0 || r.2.1 != 0) = false ∧ (judgeAll c (2 ^ 31) (.value (leNat (leBytes 32 c.args.toNat ++ c.input.take (4 * argBits c 36 0 11)))) is s).1 = true)
    (fun _ _ => {}) (fun c s => putQueues (argBits c 34 0 10) is (queueRecords c (argBits c 36 0 11)) (judgeAll c (2 ^ 31) (.value (leNat (leBytes 32 c.args.toNat ++ c.input.take (4 * argBits c 36 0 11)))) is s).2) := by
  refine ends_of (fun _ _ => rfl) ?_
  rintro _ c s ⟨ha, hmin, hmax, his, hb, hl, hrecs, hj⟩
  have hn : argBits c 36 0 11 ≠ 0 := by omega
  dsimp only
  rw [if_neg (by simp [ha, hn, hmax]), his]
  dsimp only
  rw [hb]
  dsimp only
  rw [if_neg (Nat.not_lt.mpr hl), if_neg (show ¬ _ = true from ne_true_of_eq_false hrecs), judgeAll_applied hj]
  rfl

theorem headlandRotation_sets (is : List Nat) : EndsAt 0x0B 0x20 .headlandRotation (fun c s => argsOnly c [(32, 0, 8), (34, 0, 9), (40, 0, 64), (48, 0, 64)] = true ∧ 1 ≤ argBits c 34 0 9 ∧ argBits c 34 0 9 ≤ 256 ∧ instances s (argU c 32 1) = .ok is ∧ bufferCheck c s = none ∧ 8 * argBits c 34 0 9 ≤ c.inLen ∧
      entriesOk c (argBits c 34 0 9) = true ∧ (argU c 40 8 = 0 ∨ fabricTime s + 2000 ≤ argU c 40 8) ∧ (judgeAll c 0 (.activation 2) is s).1 = true)
    (fun _ _ => {}) (fun c s => putRotation is (rotationOf c (argBits c 34 0 9) (judgeAll c 0 (.activation 2) is s).2) (judgeAll c 0 (.activation 2) is s).2) := by
  refine ends_of (fun _ _ => rfl) ?_
  rintro _ c s ⟨ha, hmin, hmax, his, hb, hl, hes, hat, hj⟩
  have hn : argBits c 34 0 9 ≠ 0 := by omega
  have htime : ¬ (argU c 40 8 != 0 && decide (argU c 40 8 < fabricTime s + 2 * us)) = true := by
    rcases hat with h | h
    · simp [h]
    · rw [show 2 * us = 2000 from rfl, decide_eq_false (Nat.not_lt.mpr h), Bool.and_false]
      exact Bool.false_ne_true
  dsimp only
  rw [if_neg (by simp [ha, hn, hmax]), his]
  dsimp only
  rw [hb]
  dsimp only
  rw [if_neg (Nat.not_lt.mpr hl), if_neg (by simp [hes]), if_neg htime, judgeAll_applied hj]
  rfl

theorem headlandRotationStop_stops (is : List Nat) : EndsAt 0x0B 0x21 .headlandRotationStop (fun c s => argsOnly c [(32, 0, 8), (40, 0, 64)] = true ∧ instances s (argU c 32 1) = .ok is ∧ (judgeAll c 0 (.activation 1) is s).1 = true)
    (fun _ _ => {}) (fun c s => stopRotations (argU c 40 8) is (judgeAll c 0 (.activation 1) is s).2) := by
  refine ends_of (fun _ _ => rfl) ?_
  rintro _ c s ⟨ha, his, hj⟩
  dsimp only
  rw [if_neg (by simp [ha]), his]
  dsimp only
  rw [judgeAll_applied hj]
  rfl

/-- Settles O50: what is fetched next is a ready feed of an open class and queue; each other row takes the branch that its condition names. -/
theorem headlandRowsComplete : Obligations.HeadlandRowsComplete :=
  ⟨fetchPick_grants, exec_portTransmitPick_express, exec_portTransmitPick_sends, exec_portTransmitPick_idle, exec_wheelSlotRelease_releases,
    exec_rotationEntryEnd_takesOver, exec_rotationTakeover_takesOver, exec_rotationStopAt_stops,
    headlandStatus_answers, headlandClassSet_sets, headlandQueueSet_sets, headlandRotation_sets, headlandRotationStop_stops⟩

end Sys2Proof.Machine
